-- ==== Sys2Proof/Word.lean ====
section
/-! DEFINITION. The word types of the Sorelo 9 and the sparse map that the State uses for numbered things (R5, R13). -/
namespace Sys2Proof

/-- A general or system register, an address, a doubleword (R13). -/
abbrev Word := BitVec 64
/-- An instruction word (R5). -/
abbrev Word32 := BitVec 32
/-- A byte of memory. -/
abbrev Byte := BitVec 8
/-- A 5-bit register field: g0–g31 or v0–v31 (R10). -/
abbrev Reg := BitVec 5
/-- A 3-bit field that names a mask k0–k7 or a twin-window register h0–h7 (R10). -/
abbrev MReg := BitVec 3
/-- A 5-bit format tag (R42). -/
abbrev Tag := BitVec 5

/-- Numbered things kept as key and value pairs; the functions on them keep the keys rising. -/
abbrev AMap (α : Type) := List (Nat × α)

/-! What a step of the device is told about power (R339, R345, R346). -/

/-- What draws power: a core, a pair's matrix array while the twin on a side (1 lower, 2 upper) holds its licence, or the
sum-product engine of a quad (R339). -/
inductive Draw where
  | core (core : Nat)
  | array (pair side : Nat)
  | engine (quad : Nat)
  deriving DecidableEq, Repr

/-- The activities of R345 that energy is charged for, each with what decides its account. -/
inductive Activity where
  /-- tiles, engines, switches and stream nodes of a region -/
  | region (key : Nat)
  /-- line accesses at home slices, tier controllers and the sector cache, for a requester's partition -/
  | lineAccess (part : Nat)
  /-- a traverse that a service core's MIGR began -/
  | traverse (service : Nat)
  /-- staging of a partition's launch, and the draining of a layer at its request -/
  | staging (part : Nat)
  /-- saves and restores of a partition's contexts with their drains -/
  | preemption (part : Nat)
  /-- one of the 128 Yarnex ports, of the four CXL root ports, or the host port's function of a partition -/
  | yarnexPort (port : Nat)
  | cxlPort (port : Nat)
  | hostPort (part : Nat)
  deriving DecidableEq, Repr

/-- The activities of R345 that are always the module's overhead. -/
inductive Upkeep where
  /-- patrol scrubbing, in-field tests, ballast, and link and threshold tuning -/
  | tuning
  /-- leakage of unowned stacks, Otair, and idle service cores -/
  | idle
  deriving DecidableEq, Repr

/-- What a slack controller sends to those of its TAG at the end of a window: EN, the held cycles, `thr` and BINOFF (R346). -/
structure SlackPeer where
  en : Bool
  held : Nat
  thr : Bool
  bin : Nat
  deriving DecidableEq, Repr

/-! What a step of the device is told about trust (R354 to R356). -/

/-- What a KEY_EXCHANGE offers: a random value, and the selective IDE stream, 0 to 7, or the link stream, 8, that the key is for. -/
structure KeyOffer where
  random : Nat
  stream : Nat
  deriving DecidableEq, Repr

/-- A device interface as LOCK_INTERFACE names it, and the selective IDE stream to bind it to. -/
structure LockRequest where
  vf : Nat
  stream : Nat
  deriving DecidableEq, Repr

/-- How a host access reaches the control block of a partition: through BAR0 of the physical function, 0, or of a virtual one, on a
selective IDE stream or on none. -/
structure HostPath where
  part : Nat
  vf : Nat
  stream : Option Nat
  deriving DecidableEq, Repr

end Sys2Proof
end

