-- ==== Sys2Proof/Config.lean ====
section
/-! DEFINITION. What an implementation of the Sorelo 9 fixes and the specification does not, and the values it leaves open.
Every constant here is opaque: nothing in Lean can evaluate it or prove a value of it. -/
namespace Sys2Proof.Config

/-- UNVERIFIED. A byte the specification leaves without a layout, by the order in which the machine makes them: the bytes
of save sections of kinds 17 to 25 (R328). Log entry 10. -/
opaque freeByte : Nat → BitVec 8

/-- UNVERIFIED. Which of the candidate values a line discarded after a traverse reads as, by the order in which lines are
discarded (R236). Log entry 11. -/
opaque discardedChoice : Nat → Nat

/-- UNVERIFIED. The set of a quad's L2 TLB in which a translation stands, by its page's address and size (R212). Log entry 9. -/
opaque l2Set : Nat → Nat → Nat

/-- UNVERIFIED. The same for a die's LLTC (R212). Log entry 9. -/
opaque lltcSet : Nat → Nat → Nat

/-- UNVERIFIED. The direction code 1–5 in which a stream node's or die-edge element's adjacent tile lies, by the key of
that element (R129, R224: the specification places them on a die edge and gives no coordinates). Log entry 12. -/
opaque elementDir : Nat → Nat

/-- UNVERIFIED. The tile beside a stream node or die-edge element, by the key of that element. Log entry 12. -/
opaque elementTile : Nat → Nat

/-- UNVERIFIED. The switch at the far end of a die-edge element's Yarnex link, by the key of that element: the wiring of
packages lies outside the part. Log entry 12. -/
opaque yarnexPeer : Nat → Nat

/-- UNVERIFIED. A digest, a signature or a key that Otair's cryptography delivers, by what it is made over (R353, R355). Log entry 15. -/
opaque cryptoValue : List Nat → Nat

/-- UNVERIFIED. The tenant key whose digest Otair holds for a partition (R357). Log entry 15. -/
opaque tenantKey : Nat → Nat

/-- UNVERIFIED. The bytes an SPDM response carries that the specification of the Sorelo 9 does not lay out (R355). Log
entry 15. -/
opaque spdmBytes : List Nat → List (BitVec 8)

/-- UNVERIFIED. The bytes of a section of kinds 17 to 25 of a save area, by kind, without array states (R328 names their content and
gives no layout). Log entry 10. -/
opaque sectionBytes : Nat → Nat

/-- UNVERIFIED. The save area that the command processor takes for a region it pre-empts on its own account, by partition
and INST (R246, R310). Log entry 17. -/
opaque saveArea : Nat → Nat → Nat

/-- UNVERIFIED. The module limit of a deployment less the share that Otair holds for overhead, in watts (R4, R338). Log entry 26. -/
opaque grantBudget : Nat

/-- UNVERIFIED. Which of several user messages without a mutual order arrives next, by the order in which the machine chooses
(R148). Log entry 39. -/
opaque messageChoice : Nat → Nat

/-- UNVERIFIED. The frame that the command processor prefers for a page it stages, by the heat tables (R343), tier code, page size and
the order of its choices (R242 does not say which of several free frames it takes). Log entry 17. -/
opaque freeFrame : List Nat → Nat → Nat → Nat → Option Nat

end Sys2Proof.Config
end

