-- ==== Sys2Proof/Syntax.lean ====
section
/-! DEFINITION. Every row of the opcode table as one constructor: the instructions with their operand fields as the words
carry them, and the steps of the device that no word encodes, with what the outside world decides about them as
arguments (R9 to R23, and the chapters of the steps). -/
namespace Sys2Proof

/-- The instructions of Ronolo and the steps of the Sorelo 9. The docstring of each gives the rule that states it. -/
inductive Instr where
  /-- ADD (R97). Adds two general registers modulo 2^64. -/
  | add (d : Reg) (a : Reg) (b : Reg)
  /-- SUB (R97). Subtracts gb from ga modulo 2^64. -/
  | sub (d : Reg) (a : Reg) (b : Reg)
  /-- AND (R97). Bitwise AND of two general registers. -/
  | and (d : Reg) (a : Reg) (b : Reg)
  /-- OR (R97). Bitwise OR of two general registers. -/
  | or (d : Reg) (a : Reg) (b : Reg)
  /-- XOR (R97). Bitwise XOR of two general registers. -/
  | xor (d : Reg) (a : Reg) (b : Reg)
  /-- SLL (R97). Shifts ga left by gb mod 64. -/
  | sll (d : Reg) (a : Reg) (b : Reg)
  /-- SRL (R97). Shifts ga right logically by gb mod 64. -/
  | srl (d : Reg) (a : Reg) (b : Reg)
  /-- SRA (R97). Shifts ga right arithmetically by gb mod 64. -/
  | sra (d : Reg) (a : Reg) (b : Reg)
  /-- SLT (R97). Writes 1 if ga is less than gb as signed values. -/
  | slt (d : Reg) (a : Reg) (b : Reg)
  /-- SLTU (R97). Writes 1 if ga is less than gb as unsigned values. -/
  | sltu (d : Reg) (a : Reg) (b : Reg)
  /-- MIN (R97). Writes the signed lesser of two registers. -/
  | min (d : Reg) (a : Reg) (b : Reg)
  /-- MAX (R97). Writes the signed greater of two registers. -/
  | max (d : Reg) (a : Reg) (b : Reg)
  /-- MINU (R97). Writes the unsigned lesser of two registers. -/
  | minu (d : Reg) (a : Reg) (b : Reg)
  /-- MAXU (R97). Writes the unsigned greater of two registers. -/
  | maxu (d : Reg) (a : Reg) (b : Reg)
  /-- MUL (R97). Writes the low 64 bits of the product. -/
  | mul (d : Reg) (a : Reg) (b : Reg)
  /-- MULH (R97). Writes the high 64 bits of the signed product. -/
  | mulh (d : Reg) (a : Reg) (b : Reg)
  /-- MULHU (R97). Writes the high 64 bits of the unsigned product. -/
  | mulhu (d : Reg) (a : Reg) (b : Reg)
  /-- DIV (R97). Signed division truncated toward zero with defined results for zero and overflow. -/
  | div (d : Reg) (a : Reg) (b : Reg)
  /-- DIVU (R97). Unsigned division, all ones on division by zero. -/
  | divu (d : Reg) (a : Reg) (b : Reg)
  /-- REM (R97). Signed remainder with defined results for zero and overflow. -/
  | rem (d : Reg) (a : Reg) (b : Reg)
  /-- REMU (R97). Unsigned remainder, the dividend on division by zero. -/
  | remu (d : Reg) (a : Reg) (b : Reg)
  /-- CLZ (R97). Counts leading zero bits of ga. -/
  | clz (d : Reg) (a : Reg)
  /-- CTZ (R97). Counts trailing zero bits of ga. -/
  | ctz (d : Reg) (a : Reg)
  /-- POPC (R97). Counts one bits of ga. -/
  | popc (d : Reg) (a : Reg)
  /-- MOVZ (R97). Moves ga to d when gb is zero. -/
  | movz (d : Reg) (a : Reg) (b : Reg)
  /-- MOVN (R97). Moves ga to d when gb is nonzero. -/
  | movn (d : Reg) (a : Reg) (b : Reg)
  /-- ADDW (R97). Adds and sign-extends the low 32 bits. -/
  | addw (d : Reg) (a : Reg) (b : Reg)
  /-- SUBW (R97). Subtracts and sign-extends the low 32 bits. -/
  | subw (d : Reg) (a : Reg) (b : Reg)
  /-- ADDI (R98). Adds a sign-extended 16-bit immediate. -/
  | addi (d : Reg) (a : Reg) (i : BitVec 16)
  /-- ANDI (R98). ANDs a zero-extended immediate. -/
  | andi (d : Reg) (a : Reg) (i : BitVec 16)
  /-- ORI (R98). ORs a zero-extended immediate. -/
  | ori (d : Reg) (a : Reg) (i : BitVec 16)
  /-- XORI (R98). XORs a zero-extended immediate. -/
  | xori (d : Reg) (a : Reg) (i : BitVec 16)
  /-- SLTI (R98). Signed compare against a sign-extended immediate. -/
  | slti (d : Reg) (a : Reg) (i : BitVec 16)
  /-- SLTUI (R98). Unsigned compare against a sign-extended immediate. -/
  | sltui (d : Reg) (a : Reg) (i : BitVec 16)
  /-- LUI (R98). Loads the immediate shifted left 16, sign-extended from 32 bits. -/
  | lui (d : Reg) (i : BitVec 16)
  /-- INSH (R98). Shifts ga left 16 and inserts the immediate. -/
  | insh (d : Reg) (a : Reg) (i : BitVec 16)
  /-- SLLI (R99). Shifts left by an immediate amount. -/
  | slli (d : Reg) (a : Reg) (s : BitVec 6)
  /-- SRLI (R99). Shifts right logically by an immediate amount. -/
  | srli (d : Reg) (a : Reg) (s : BitVec 6)
  /-- SRAI (R99). Shifts right arithmetically by an immediate amount. -/
  | srai (d : Reg) (a : Reg) (s : BitVec 6)
  /-- BFXU (R100). Extracts an unsigned bitfield. -/
  | bfxu (d : Reg) (a : Reg) (w : BitVec 6) (l : BitVec 6)
  /-- BFXS (R100). Extracts a sign-extended bitfield. -/
  | bfxs (d : Reg) (a : Reg) (w : BitVec 6) (l : BitVec 6)
  /-- BFI (R100). Inserts the low bits of ga into a field of d. -/
  | bfi (d : Reg) (a : Reg) (w : BitVec 6) (l : BitVec 6)
  /-- ADDPC (R101). Writes PC plus four times a signed 21-bit offset. -/
  | addpc (d : Reg) (i : BitVec 21)
  /-- BEQ (R103). Branches when the registers are equal. -/
  | beq (a : Reg) (b : Reg) (o : BitVec 16)
  /-- BNE (R103). Branches when the registers differ. -/
  | bne (a : Reg) (b : Reg) (o : BitVec 16)
  /-- BLT (R103). Branches on signed less than. -/
  | blt (a : Reg) (b : Reg) (o : BitVec 16)
  /-- BGE (R103). Branches on signed greater or equal. -/
  | bge (a : Reg) (b : Reg) (o : BitVec 16)
  /-- BLTU (R103). Branches on unsigned less than. -/
  | bltu (a : Reg) (b : Reg) (o : BitVec 16)
  /-- BGEU (R103). Branches on unsigned greater or equal. -/
  | bgeu (a : Reg) (b : Reg) (o : BitVec 16)
  /-- J (R104). Jumps PC-relative by a 26-bit word offset. -/
  | j (o : BitVec 26)
  /-- JAL (R104). Jumps PC-relative and writes the return address to g31. -/
  | jal (o : BitVec 26)
  /-- JR (R105). Jumps to the address in ga. -/
  | jr (a : Reg)
  /-- JALR (R105). Jumps to the address in ga and writes the return address to d. -/
  | jalr (d : Reg) (a : Reg)
  /-- LOOP (R106). Decrements the counter and branches while it is nonzero. -/
  | loop (a : Reg) (o : BitVec 16)
  /-- LD (R155). Loads and sign-extends a naturally aligned scalar. -/
  | ld (d : Reg) (a : Reg) (s : BitVec 2) (i : BitVec 14)
  /-- LDU (R155). Loads and zero-extends a naturally aligned scalar. -/
  | ldu (d : Reg) (a : Reg) (s : BitVec 2) (i : BitVec 14)
  /-- ST (R155). Stores a naturally aligned scalar. -/
  | st (d : Reg) (a : Reg) (s : BitVec 2) (i : BitVec 14)
  /-- LDL (R198). Loads a scalar coherently from the point of coherence. -/
  | ldl (d : Reg) (a : Reg) (s : BitVec 2) (i : BitVec 14)
  /-- VADD (R113). Adds vector elements. -/
  | vadd (d : Reg) (a : Reg) (b : Reg) (k : MReg)
  /-- VSUB (R113). Subtracts vector elements. -/
  | vsub (d : Reg) (a : Reg) (b : Reg) (k : MReg)
  /-- VMUL (R113). Multiplies vector elements. -/
  | vmul (d : Reg) (a : Reg) (b : Reg) (k : MReg)
  /-- VDIV (R113). Divides float vector elements. -/
  | vdiv (d : Reg) (a : Reg) (b : Reg) (k : MReg)
  /-- VMIN (R113). Takes the lesser element. -/
  | vmin (d : Reg) (a : Reg) (b : Reg) (k : MReg)
  /-- VMAX (R113). Takes the greater element. -/
  | vmax (d : Reg) (a : Reg) (b : Reg) (k : MReg)
  /-- VABS (R113). Takes the absolute value of each element. -/
  | vabs (d : Reg) (a : Reg) (k : MReg)
  /-- VNEG (R113). Negates each element. -/
  | vneg (d : Reg) (a : Reg) (k : MReg)
  /-- VSQRT (R113). Takes the square root of each float element. -/
  | vsqrt (d : Reg) (a : Reg) (k : MReg)
  /-- VRCP (R113). Takes the reciprocal of each float element. -/
  | vrcp (d : Reg) (a : Reg) (k : MReg)
  /-- VRSQ (R113). Takes the reciprocal square root of each float element. -/
  | vrsq (d : Reg) (a : Reg) (k : MReg)
  /-- VEXP2 (R113). Raises 2 to each float element. -/
  | vexp2 (d : Reg) (a : Reg) (k : MReg)
  /-- VLOG2 (R113). Takes log2 of each float element. -/
  | vlog2 (d : Reg) (a : Reg) (k : MReg)
  /-- VADDS (R113). Adds integer elements with saturation. -/
  | vadds (d : Reg) (a : Reg) (b : Reg) (k : MReg)
  /-- VSUBS (R113). Subtracts integer elements with saturation. -/
  | vsubs (d : Reg) (a : Reg) (b : Reg) (k : MReg)
  /-- VMULH (R113). Writes the high half of integer element products. -/
  | vmulh (d : Reg) (a : Reg) (b : Reg) (k : MReg)
  /-- VAND (R113). Bitwise AND of vector registers. -/
  | vand (d : Reg) (a : Reg) (b : Reg) (k : MReg)
  /-- VOR (R113). Bitwise OR of vector registers. -/
  | vor (d : Reg) (a : Reg) (b : Reg) (k : MReg)
  /-- VXOR (R113). Bitwise XOR of vector registers. -/
  | vxor (d : Reg) (a : Reg) (b : Reg) (k : MReg)
  /-- VSLL (R113). Shifts integer lanes left. -/
  | vsll (d : Reg) (a : Reg) (b : Reg) (k : MReg)
  /-- VSRL (R113). Shifts integer lanes right logically. -/
  | vsrl (d : Reg) (a : Reg) (b : Reg) (k : MReg)
  /-- VSRA (R113). Shifts integer lanes right arithmetically. -/
  | vsra (d : Reg) (a : Reg) (b : Reg) (k : MReg)
  /-- VMOV (R113). Copies vector elements under the mask. -/
  | vmov (d : Reg) (a : Reg) (k : MReg)
  /-- VFMA (R115). Fused multiply-add per element. -/
  | vfma (d : Reg) (a : Reg) (b : Reg) (k : MReg) (c : Reg)
  /-- VFMS (R115). Fused multiply-subtract per element. -/
  | vfms (d : Reg) (a : Reg) (b : Reg) (k : MReg) (c : Reg)
  /-- VFNMA (R115). Negated product plus addend per element. -/
  | vfnma (d : Reg) (a : Reg) (b : Reg) (k : MReg) (c : Reg)
  /-- VFNMS (R115). Negated product minus addend per element. -/
  | vfnms (d : Reg) (a : Reg) (b : Reg) (k : MReg) (c : Reg)
  /-- VDOT4 (R116). Adds groups of four narrow products into wide lanes. -/
  | vdot4 (d : Reg) (a : Reg) (b : Reg) (k : MReg) (c : Reg)
  /-- VDOT2 (R116). Adds pairs of 16-bit products into wide lanes. -/
  | vdot2 (d : Reg) (a : Reg) (b : Reg) (k : MReg) (c : Reg)
  /-- VCMP (R117). Compares elements and writes a mask register. -/
  | vcmp (d : MReg) (a : Reg) (b : Reg) (m : MReg) (c : BitVec 3)
  /-- VPERM (R119). Permutes elements by an index vector. -/
  | vperm (d : Reg) (a : Reg) (b : Reg) (k : MReg)
  /-- VSLUP (R119). Slides elements up by a count. -/
  | vslup (d : Reg) (a : Reg) (b : Reg) (k : MReg)
  /-- VSLDN (R119). Slides elements down by a count. -/
  | vsldn (d : Reg) (a : Reg) (b : Reg) (k : MReg)
  /-- VBCAST (R119). Broadcasts one element to all enabled lanes. -/
  | vbcast (d : Reg) (a : Reg) (b : Reg) (k : MReg)
  /-- VEXT (R120). Extracts one element into a general register. -/
  | vext (d : Reg) (a : Reg) (b : Reg)
  /-- VINS (R120). Inserts a general register into one element. -/
  | vins (d : Reg) (a : Reg) (b : Reg)
  /-- VSEL (R121). Selects elements from two sources by mask. -/
  | vsel (d : Reg) (a : Reg) (b : Reg) (k : MReg)
  /-- VREDSUM (R123). Sums selected elements in tree order. -/
  | vredsum (d : Reg) (a : Reg) (k : MReg)
  /-- VREDMAX (R123). Takes the maximum of selected elements. -/
  | vredmax (d : Reg) (a : Reg) (k : MReg)
  /-- VREDMIN (R123). Takes the minimum of selected elements. -/
  | vredmin (d : Reg) (a : Reg) (k : MReg)
  /-- VZIP (R122). Interleaves the low halves of two sources. -/
  | vzip (d : Reg) (a : Reg) (b : Reg) (k : MReg)
  /-- VUNZIP (R122). De-interleaves the even elements of two sources. -/
  | vunzip (d : Reg) (a : Reg) (b : Reg) (k : MReg)
  /-- VCMPRS (R121). Compresses selected elements to the bottom. -/
  | vcmprs (d : Reg) (a : Reg) (k : MReg)
  /-- VCVT (R65). Converts elements to a target tag into the low part. -/
  | vcvt (d : Reg) (a : Reg) (t : Tag) (k : MReg) (r : BitVec 3) (s : BitVec 1)
  /-- VCVTH (R65). Converts elements to a target tag using the high part. -/
  | vcvth (d : Reg) (a : Reg) (t : Tag) (k : MReg) (r : BitVec 3) (s : BitVec 1)
  /-- VTAG (R66). Copies a register and sets a new tag without conversion. -/
  | vtag (d : Reg) (a : Reg) (t : Tag)
  /-- VTCHK (R67). Raises the Tag trap unless the register carries the given tag. -/
  | vtchk (a : Reg) (t : Tag)
  /-- VSHRN8 (R68). Shifts right, rounds and narrows to 8-bit lanes. -/
  | vshrn8 (d : Reg) (a : Reg) (b : Reg) (k : MReg) (r : BitVec 3) (s : BitVec 1)
  /-- VSHRN16 (R68). Shifts right, rounds and narrows to 16-bit lanes. -/
  | vshrn16 (d : Reg) (a : Reg) (b : Reg) (k : MReg) (r : BitVec 3) (s : BitVec 1)
  /-- KAND (R124). ANDs two mask registers. -/
  | kand (d : MReg) (a : MReg) (b : MReg)
  /-- KOR (R124). ORs two mask registers. -/
  | kor (d : MReg) (a : MReg) (b : MReg)
  /-- KXOR (R124). XORs two mask registers. -/
  | kxor (d : MReg) (a : MReg) (b : MReg)
  /-- KANDN (R124). ANDs a mask with the complement of another. -/
  | kandn (d : MReg) (a : MReg) (b : MReg)
  /-- KMOVL_TO_MASK (R124). Writes a general register into the low half of a mask. -/
  | kmovlToMask (d : MReg) (a : Reg)
  /-- KMOVL_FROM_MASK (R124). Reads the low half of a mask into a general register. -/
  | kmovlFromMask (d : Reg) (a : MReg)
  /-- KMOVH_TO_MASK (R124). Writes a general register into the high half of a mask. -/
  | kmovhToMask (d : MReg) (a : Reg)
  /-- KMOVH_FROM_MASK (R124). Reads the high half of a mask into a general register. -/
  | kmovhFromMask (d : Reg) (a : MReg)
  /-- KPOPC (R124). Counts the one bits of a mask. -/
  | kpopc (d : Reg) (a : MReg)
  /-- KFIRST (R124). Finds the lowest set bit of a mask. -/
  | kfirst (d : Reg) (a : MReg)
  /-- CBLD (R69). Loads a codebook table from a BF16 register. -/
  | cbld (t : BitVec 2) (a : Reg)
  /-- CBRD (R69). Reads a codebook table into a vector register. -/
  | cbrd (d : Reg) (t : BitVec 2)
  /-- FADD (R125). Scalar FP32 addition on the vector unit. -/
  | fadd (d : Reg) (a : Reg) (b : Reg) (r : BitVec 3)
  /-- FSUB (R125). Scalar FP32 subtraction. -/
  | fsub (d : Reg) (a : Reg) (b : Reg) (r : BitVec 3)
  /-- FMUL (R125). Scalar FP32 multiplication. -/
  | fmul (d : Reg) (a : Reg) (b : Reg) (r : BitVec 3)
  /-- FDIV (R125). Scalar FP32 division. -/
  | fdiv (d : Reg) (a : Reg) (b : Reg) (r : BitVec 3)
  /-- FMIN (R125). Scalar FP32 minimum. -/
  | fmin (d : Reg) (a : Reg) (b : Reg)
  /-- FMAX (R125). Scalar FP32 maximum. -/
  | fmax (d : Reg) (a : Reg) (b : Reg)
  /-- FSQRT (R125). Scalar FP32 square root. -/
  | fsqrt (d : Reg) (a : Reg) (r : BitVec 3)
  /-- FEQ (R125). Scalar FP32 equality compare. -/
  | feq (d : Reg) (a : Reg) (b : Reg)
  /-- FLT (R125). Scalar FP32 less-than compare. -/
  | flt (d : Reg) (a : Reg) (b : Reg)
  /-- FLE (R125). Scalar FP32 less-or-equal compare. -/
  | fle (d : Reg) (a : Reg) (b : Reg)
  /-- FCVT (R126). Converts between FP32 and 64-bit integers. -/
  | fcvt (d : Reg) (a : Reg) (c : BitVec 4) (r : BitVec 3)
  /-- FMA (R125). Scalar FP32 fused multiply-add into d. -/
  | fma (d : Reg) (a : Reg) (b : Reg) (r : BitVec 3)
  /-- VLD (R158). Loads a vector register and sets its tag. -/
  | vld (d : Reg) (a : Reg) (t : Tag) (k : MReg) (i : BitVec 8)
  /-- VST (R158). Stores a vector register under the mask. -/
  | vst (d : Reg) (a : Reg) (t : Tag) (k : MReg) (i : BitVec 8)
  /-- VLDS (R160). Strided vector load. -/
  | vlds (d : Reg) (a : Reg) (b : Reg) (k : MReg) (t : Tag)
  /-- VSTS (R160). Strided vector store. -/
  | vsts (d : Reg) (a : Reg) (b : Reg) (k : MReg) (t : Tag)
  /-- VLDX (R160). Indexed vector load. -/
  | vldx (d : Reg) (a : Reg) (b : Reg) (k : MReg) (t : Tag)
  /-- VSTX (R160). Indexed vector store. -/
  | vstx (d : Reg) (a : Reg) (b : Reg) (k : MReg) (t : Tag)
  /-- VLDB (R160). Broadcast vector load of one element. -/
  | vldb (d : Reg) (a : Reg) (k : MReg) (t : Tag)
  /-- SPILLM (R164). Stores a range of general registers, restartably. -/
  | spillm (f : Reg) (a : Reg) (l : Reg)
  /-- FILLM (R164). Loads a range of general registers, restartably. -/
  | fillm (f : Reg) (a : Reg) (l : Reg)
  /-- VSPILL (R164). Stores a range of vector registers with tags. -/
  | vspill (f : Reg) (a : Reg) (l : Reg)
  /-- VFILL (R164). Loads a range of vector registers with tags. -/
  | vfill (f : Reg) (a : Reg) (l : Reg)
  /-- FRAME (R162). Opens a bivouac frame, overflowing to global memory when full. -/
  | frame (a : Reg)
  /-- UNFRAME (R162). Closes the top bivouac frame. -/
  | unframe
  /-- WPRD (R177). Reads a copy channel's write pointer. -/
  | wprd (d : Reg) (a : Reg)
  /-- WPWAIT (R177). Blocks until a write pointer reaches a threshold. -/
  | wpwait (a : Reg) (b : Reg)
  /-- CPY (R174). Enqueues a copy descriptor on a channel. -/
  | cpy (a b : Reg) (id : BitVec 8)
  /-- CPYM (R174). Enqueues a copy with a follow-on matrix command. -/
  | cpym (a b : Reg) (id : BitVec 8)
  /-- CPYQ (R176). Issues a copy through the quad combining node for merging. -/
  | cpyq (a b : Reg) (mask : BitVec 4) (id : BitVec 8)
  /-- MTCFG (R167). Installs a memory-tile personality once the tile is idle. -/
  | mtcfg (a b : Reg)
  /-- AMO (R193). Atomic read-modify-write returning the old value. -/
  | amo (d : Reg) (a : Reg) (b : Reg) (z : BitVec 2) (o : BitVec 4)
  /-- AMOCAS (R193). Atomic compare-and-swap. -/
  | amocas (d : Reg) (a : Reg) (b : Reg) (z : BitVec 2)
  /-- AMOF (R194). Atomic FP32 add, min or max. -/
  | amof (d : Reg) (a : Reg) (b : Reg) (o : BitVec 4)
  /-- RED (R195). Atomic reduction without a result, retiring at acceptance. -/
  | red (a : Reg) (b : Reg) (z : BitVec 2) (o : BitVec 4)
  /-- FENCE (R190). Waits until earlier accesses and engine commands are complete to a scope. -/
  | fence (s : BitVec 4)
  /-- WAITA (R201). Waits at a line's home until a doubleword differs from a value. -/
  | waita (d : Reg) (a : Reg) (b : Reg) (t : BitVec 4)
  /-- PREF (R200). Prefetch hint for reading or for ownership. -/
  | pref (a : Reg) (h : BitVec 4)
  /-- GET (R199). Coherently copies whole lines from global to local memory. -/
  | get (a : Reg) (b : Reg) (n : BitVec 4)
  /-- PUT (R199). Coherently copies whole lines from local to global memory. -/
  | put (a : Reg) (b : Reg) (n : BitVec 4)
  /-- ARRIVE (R297). Arrives at a barrier level without waiting. -/
  | arrive (l : BitVec 2)
  /-- WAIT (R297). Waits until the thread's pending arrival's episode completes. -/
  | wait (l : BitVec 2)
  /-- BTEST (R297). Tests whether an arrival is still pending. -/
  | btest (d : Reg) (l : BitVec 2)
  /-- BMEM (R298). Sets the issuing quad's entry for one barrier tree. -/
  | bmem (a : Reg)
  /-- PHASE (R297). Publishes stores, arrives, waits and passes a boundary. -/
  | phase (l : BitVec 2)
  /-- DOMAIN (R299). Writes a DOMAIN register from app mode within limits. -/
  | domain (a : Reg) (l : BitVec 2)
  /-- MMA (R259). Matrix multiply-accumulate from local operands into a tile. -/
  | mma (d a b : Reg) (acc : BitVec 4) (kg : BitVec 7) (af bf : BitVec 4) (sa sb : BitVec 1) (asl : BitVec 2) (bsl : BitVec 3)
  /-- MMAC (R260). Matrix multiply-accumulate with A taken from tiles through the down-converter. -/
  | mmac (d : Reg) (src : BitVec 4) (b : Reg) (acc : BitVec 4) (kg : BitVec 7) (af bf : BitVec 4) (sa sb : BitVec 1) (asl : BitVec 2) (bsl : BitVec 3)
  /-- MZERO (R261). Clears accumulator tiles. -/
  | mzero (acc n : BitVec 4)
  /-- MRD (R262). Reads and converts accumulator elements into a vector register. -/
  | mrd (d a : Reg) (acc : BitVec 4) (row : BitVec 6) (half : BitVec 1) (tag : Tag) (sat sc : BitVec 1) (asl : BitVec 2) (rm : BitVec 3)
  /-- MWR (R261). Writes a vector register into accumulator elements. -/
  | mwr (a : Reg) (acc : BitVec 4) (row : BitVec 6) (half : BitVec 1)
  /-- MSCL (R263). Loads scale memory from local memory. -/
  | mscl (a : Reg) (soff : BitVec 9) (len : BitVec 9)
  /-- MWAIT (R264). Waits for the stream to drain and reads and clears the matrix status. -/
  | mwait (d : Reg)
  /-- MLIC (R266). Acquires or requests the pair's matrix licence. -/
  | mlic (d : Reg) (tryf : BitVec 1)
  /-- MREL (R267). Releases the matrix licence after pending follow-ons enter the stream. -/
  | mrel
  /-- TWX (R269). Exchanges a general register with the same slot of the twin core. -/
  | twx (d : Reg)
  /-- HRD (R270). Reads a twin-window register. -/
  | hrd (d : Reg) (h : MReg)
  /-- HWR (R268). Writes a twin-window register. -/
  | hwr (h : MReg) (a : Reg)
  /-- SPLD (R284). Moves words from local memory into sum-product scratch. -/
  | spld (a : Reg) (idx : BitVec 13) (n : BitVec 9)
  /-- SPST (R284). Moves words from sum-product scratch to local memory. -/
  | spst (a : Reg) (idx : BitVec 13) (n : BitVec 9)
  /-- SPUP (R282). Evaluates a subtree upward. -/
  | spup (d a b : Reg) (op : BitVec 14) (leaves : BitVec 8) (root : BitVec 1)
  /-- SPDN (R283). Runs the downward pass of a subtree. -/
  | spdn (d a b : Reg) (op : BitVec 14) (leaves : BitVec 8) (acc : BitVec 1)
  /-- SPMODE (R285). Selects the engine's arithmetic mode. -/
  | spmode (mode : BitVec 2)
  /-- SPNRM (R286). Renormalises a run of words by a common power of two. -/
  | spnrm (a : Reg) (idx : BitVec 13) (n : BitVec 9)
  /-- SPWAIT (R287). Waits for earlier engine commands and reads and clears the status. -/
  | spwait (d : Reg)
  /-- MIGR (R238). Starts or aborts a traverse of a page between tiers. -/
  | migr (d : Reg) (a : Reg) (b : Reg)
  /-- HEAT (R241). Reads or steers hotness counting. -/
  | heat (d : Reg) (a : Reg)
  /-- TQRY (R239). Reports the tier, motion and sector-cache state of an address. -/
  | tqry (d : Reg) (a : Reg)
  /-- MFS (R86). Reads a system register. -/
  | mfs (d : Reg) (r : BitVec 12)
  /-- MTS (R86). Writes a system register field by field. -/
  | mts (a : Reg) (r : BitVec 12)
  /-- TRAP (R320). Raises the Break trap. -/
  | trap (n : BitVec 12)
  /-- ERET (R321). Returns from a trap handler. -/
  | eret
  /-- HALT (R78). Frees the thread's slot, powering the scratchpad down when the core empties. -/
  | halt
  /-- HALT_RETAIN (R78). Frees the slot and retains the scratchpad for a successor handle. -/
  | haltRetain (a : Reg)
  /-- ROPE (R82). Arrives to form a rope of same-numbered slots in a quad. -/
  | rope (d : Reg) (m : BitVec 4)
  /-- SPLIT (R85). Dissolves the rope. -/
  | split
  /-- CAIRN (R324). Pre-emption checkpoint where a pending request stops the thread. -/
  | cairn (i : BitVec 12)
  /-- YIELD (R80). Makes the thread not ready for n cycles. -/
  | yield (n : BitVec 12)
  /-- MBXRD (R219). Pops a mailbox message into four registers. -/
  | mbxrd (d : Reg) (n : BitVec 1)
  /-- MBXWR_RETRY (R219). Sends a retry reply to a waiting requester. -/
  | mbxwrRetry (a : Reg)
  /-- MBXWR_REFUSE (R219). Sends a refuse reply to a waiting requester. -/
  | mbxwrRefuse (a : Reg)
  /-- RLTOK_RANGE (R215). Shoots down translations of a page range and re-latches. -/
  | rltokRange (d : Reg) (a : Reg) (g : BitVec 1) (n : BitVec 6)
  /-- RLTOK_FUNC (R215). Shoots down translations of one function. -/
  | rltokFunc (d : Reg) (a : Reg) (g : BitVec 1)
  /-- RLTOK_PART (R215). Shoots down every translation of the partition. -/
  | rltokPart (d : Reg)
  /-- LAUNCH_INSTALL (R333). Installs or restores a region from a placement record. -/
  | launchInstall (d : Reg) (a : Reg)
  /-- LAUNCH_PACKET (R333). Sends a launch packet to a core. -/
  | launchPacket (d : Reg) (a : Reg)
  /-- LAUNCH_PREEMPT (R323). Requests pre-emption of a region into a save area. -/
  | launchPreempt (d : Reg) (a : Reg)
  /-- LAUNCH_ABORT (R333). Aborts a resident launch. -/
  | launchAbort (d : Reg) (a : Reg)
  /-- LAUNCH_UNRETAIN (R333). Ends a scratchpad retention. -/
  | launchUnretain (d : Reg) (a : Reg)
  /-- PSTAT (R149). Reads a snapshot of the core's port and channel queues. -/
  | pstat (d : Reg)
  /-- PTRY (R150). Tries a non-blocking port read with a status. -/
  | ptry (d : Reg) (a : Reg) (b : Reg)
  /-- DSEND (R151). Sends a user message on the dynamic network. -/
  | dsend (a : Reg) (b : Reg)
  /-- DRECV (R152). Receives a user message from a channel. -/
  | drecv (d : Reg) (a : Reg)
  /-- LAUNCH_PACKET_ARRIVAL (R71). A launch packet reaches a core and takes a slot, waits, or is refused. -/
  | launchPacketArrival (core : Nat)
  /-- THREAD_CREATION (R74). The context engine finishes reading the register image and the thread becomes ready or creation ends. -/
  | threadCreation (core slot : Nat)
  /-- YIELD_EXPIRY (R80). A thread's YIELD count expires and it becomes ready again. -/
  | yieldExpiry (core slot : Nat)
  /-- SEGMENT_ATTEMPT (R140). A segment attempts one step of its run, performing every row of the group or holding. -/
  | segmentAttempt (region stack : Nat)
  /-- CROSSING_WORD_ARRIVAL (R141). A link word crossing between stacks or from Yarnex lands in the far FIFO. -/
  | crossingWordArrival (node port : Nat) (linkError : Bool)
  /-- STREAM_FETCH (R224). A stream node's read generator delivers a word into its fetch queue. -/
  | streamFetch (node : Nat)
  /-- USER_MESSAGE_ARRIVAL (R148). A user message arrives at a core's receive channel. -/
  | userMessageArrival (core chan : Nat)
  /-- COPY_PIECE (R171). A copy channel moves one piece of its current command and advances WPTR. -/
  | copyPiece (tile chan : Nat)
  /-- COPY_ERR_CLEAR (R172). Clearing a channel's STATUS.ERR resumes its queue. -/
  | copyErrClear (tile chan : Nat)
  /-- CPYM_FOLLOW_ON (R175). A CPYM's follow-on enters the pair's command stream once its last byte has landed and room exists. -/
  | cpymFollowOn (tile chan : Nat)
  /-- CPYQ_SET_RELEASE (R176). A held CPYQ set not completed within 1,024 cycles is released as separate copies. -/
  | cpyqSetRelease (quad : Nat) (designator : Word)
  /-- PLAIN_STORE_PERFORM (R183). A plain global store is performed at its home. -/
  | plainStorePerform (core slot index : Nat)
  /-- RED_PERFORM (R195). A RED is performed at its anchor or discarded on an error. -/
  | redPerform (core slot index : Nat)
  /-- WAITA_TIMEOUT (R201). A WAITA waiter's timeout expires and it returns TIMEOUT. -/
  | waitaTimeout (core slot : Nat)
  /-- PREDICTOR_DECAY (R196). A contention predictor count falls after 4,096 cycles without a recall. -/
  | predictorDecay (quad line : Nat)
  /-- WALK_END (R206). A translation walk ends with a fill, a restart or a fault. -/
  | walkEnd (core slot : Nat)
  /-- TOKEN_PASS (R215). A re-latch token passes a quad, LLTC or generator, removing matching translations. -/
  | tokenPass (token target : Nat)
  /-- MAILBOX_ARRIVAL (R218). A message enters a service core's mailbox. -/
  | mailboxArrival (service : Nat)
  /-- FAULT_REPLY (R219). A mailbox reply reaches its requester, which retries, traps or aborts. -/
  | faultReply (index : Nat)
  /-- SECTOR_CACHE_ACCESS (R227). The LPDDR6 controller serves a line access through the sector cache. -/
  | sectorCacheAccess (pa : Nat) (write recordError : Bool)
  /-- TRAVERSE_LINE_COPY (R232). A traverse engine copies one locked line of a page. -/
  | traverseLineCopy (engine slot : Nat)
  /-- TRAVERSE_FINISH (R234). A fully copied traverse rewrites leaves, sends a token and posts DONE. -/
  | traverseFinish (engine slot : Nat)
  /-- TRAVERSE_ABORT (R235). A traverse aborts, copies modified lines back and posts ABORTED. -/
  | traverseAbort (engine slot cause : Nat)
  /-- HEAT_REPORT (R240). A port adds its stream heat counts to the heat table. -/
  | heatReport (port channel : Nat)
  /-- OFFREQ_LAYER (R244). An OFFREQ write requests an HBM4E layer be mapped out. -/
  | offreqLayer (part : Nat) (value : Word)
  /-- OFFREQ_DIE (R246). An OFFREQ write requests a compute die be taken offline. -/
  | offreqDie (part : Nat) (value : Word)
  /-- LAYER_REMOVED (R244). A drained layer is removed from HBMCAP and the layer-removed message is posted. -/
  | layerRemoved (part : Nat)
  /-- DIE_OFFLINE_DONE (R246). A compute die's evacuation completes, its READY bit clears and OFFSTAT becomes DONE. -/
  | dieOfflineDone (part : Nat)
  /-- MATRIX_COMMAND_COMPLETE (R253). A command in the pair's stream completes and merges its events into its core's status. -/
  | matrixCommandComplete (pair : Nat)
  /-- SP_COMMAND_ACCEPT (R274). A sum-product command is accepted into the engine queue. -/
  | spCommandAccept (quad : Nat)
  /-- SP_COMMAND_COMPLETE (R275). A sum-product command completes and merges its events. -/
  | spCommandComplete (quad : Nat)
  /-- EPISODE_RELEASE (R294). A barrier episode completes in its release cycle and clears PEND. -/
  | episodeRelease (region quad level tree group : Nat)
  /-- SUMMIT_SWEEP (R301). A summit sweep samples idle and message counts to detect a launch's end. -/
  | summitSweep (region : Nat)
  /-- QTAIL_WRITE (R303). A TAIL write submits entries or is refused with OVF. -/
  | qtailWrite (part queue : Nat) (value : Word)
  /-- QCTL_WRITE (R302). A QCTL write, ignored while BUSY except EN. -/
  | qctlWrite (part queue : Nat) (value : Word)
  /-- QSTAT_SKIP (R306). Writing SKIP with ERR set advances HEAD past a refused entry. -/
  | qstatSkip (part queue : Nat)
  /-- QSTAT_ERR_CLEAR (R306). Clearing ERR lets the queue take entries again. -/
  | qstatErrClear (part queue : Nat)
  /-- QSTAT_OVF_CLEAR (R302). Clearing OVF. -/
  | qstatOvfClear (part queue : Nat)
  /-- LAUNCH_READY (R308). A head launch's dependences are met and staging begins. -/
  | launchReady (part queue : Nat)
  /-- STAGING_DEADLINE (R308). A launch's staging deadline expires and it becomes eligible. -/
  | stagingDeadline (part queue : Nat)
  /-- PLACEMENT_TURN (R309). The placer tries every eligible launch in priority order. -/
  | placementTurn (part : Nat)
  /-- RESERVATION (R310). A launch eligible for 2 ms without placement reserves an area. -/
  | reservation (part queue : Nat)
  /-- RESERVATION_PREEMPT (R310). A reservation standing 1 ms requests pre-emption of lower-priority regions. -/
  | reservationPreempt (part : Nat)
  /-- FORCED_HALT (R326). An incomplete halt at 9,450 cycles forces every thread to stop and save FULL. -/
  | forcedHalt (region : Nat)
  /-- REGION_SAVE (R327). Once all threads and segments stop, engines drain, the save area is written and SAVED posted. -/
  | regionSave (region : Nat)
  /-- BUDGET_PERIOD (R339). At each period boundary the budget tree divides the grant and sets duty and operating points. -/
  | budgetPeriod (demands drawn : List (Draw × Nat)) (charges : List (Activity × Nat)) (overhead : List (Upkeep × Nat))
  /-- SAG_DETECT (R342). A supply dip stretches the reference clock. -/
  | sagDetect (die stretch : Nat)
  /-- LINK_RETRAIN (R343). An adaptive loop retrains a link, which delivers no word meanwhile. -/
  | linkRetrain (node port cycles : Nat)
  /-- SLACK_WINDOW (R346). At the end of each 1 ms window the slack controller adjusts BINOFF. -/
  | slackWindow (part tag : Nat) (peers : List SlackPeer)
  /-- MERGE_REQUEST (R359). A MERGE write starts a merge check and quiesce. -/
  | mergeRequest (part : Nat) (value : Word)
  /-- MERGE_EXECUTE (R360). Once both partitions are quiet, Otair rewrites, scrubs, shoots down and finishes the merge. -/
  | mergeExecute (part : Nat)
  /-- MERGE_DEADLINE (R360). The quiesce deadline passes and the merge is refused with BUSY. -/
  | mergeDeadline (part : Nat)
  /-- GET_VERSION (R355). SPDM request answered by Otair. -/
  | getVersion (part : Nat)
  /-- GET_CAPABILITIES (R355). SPDM request answered by Otair. -/
  | getCapabilities (part : Nat)
  /-- NEGOTIATE_ALGORITHMS (R355). SPDM request answered by Otair. -/
  | negotiateAlgorithms (part : Nat) (p384 : Bool)
  /-- GET_DIGESTS (R355). SPDM request answered by Otair. -/
  | getDigests (part : Nat)
  /-- GET_CERTIFICATE (R355). SPDM request answered by Otair. -/
  | getCertificate (part : Nat)
  /-- CHALLENGE (R355). SPDM challenge signed by Otair. -/
  | challenge (part nonce : Nat)
  /-- GET_MEASUREMENTS (R355). SPDM request returning measurement blocks. -/
  | getMeasurements (part index : Nat)
  /-- KEY_EXCHANGE (R355). SPDM key exchange starting a session. -/
  | keyExchange (part : Nat) (offer : KeyOffer)
  /-- FINISH (R355). SPDM FINISH completing a key exchange. -/
  | finish (part session : Nat)
  /-- LOCK_INTERFACE (R356). Freezes a virtual function's queue, handler and translation registers. -/
  | lockInterface (part : Nat) (lock : LockRequest)
  /-- TDISP_LOCK_BREACH (R356). A request that breaks the lock moves the interface to ERROR and aborts its launches. -/
  | tdispLockBreach (part vf : Nat)
  /-- DEBUG_POLICY_ACCEPT (R357). Otair verifies and accepts a signed debug policy and re-measures. -/
  | debugPolicyAccept (part signer measurement classes : Nat)
  /-- DBG_HALTREQ (R357). Writing HALTREQ stops the partition's launches as by pre-emption. -/
  | dbgHaltreq (part : Nat) (on : Bool)
  /-- DBG_TRACEEN (R357). Writing TRACEEN enables PC sampling. -/
  | dbgTraceen (part : Nat) (on : Bool)
  /-- DBG_PERFEN (R357). Writing PERFEN enables event counters. -/
  | dbgPerfen (part : Nat) (on : Bool)
  /-- REGISTER_WRITE (R349). A write to a control-block register without behaviour of its own. -/
  | registerWrite (via : HostPath) (offset width : Nat) (value : Word)
  /-- MODULE_RESET (R6). Module reset sets every register to its reset value and fixes layout and sector cache. -/
  | moduleReset (layout : List Nat) (scsize : Nat) (lp cxl grants : List (Nat × Nat))
  /-- MEMORY_REPLY (R76). The data of a variable-latency load, LDL, returning atomic, GET or PUT line comes back from its home slice or anchor, and the interlocked thread's destination is written. -/
  | memoryReply (core slot : Nat)
  /-- PARTITION_RESET (R235). A partition reset ends every traverse of the partition with no copy-back, drops its monitors and lapses its debug policy. -/
  | partitionReset (part : Nat)
  /-- HOST_PORT_WRITE (R186). A write from the host port, including a write to a completion token through BAR2, enters the coherence order of global memory. -/
  | hostPortWrite (part offset : Nat) (bytes : List Byte)
  /-- FUNCTION_READINESS_CHANGE (R358). A Yarnex port, CXL root port, host port or other function becomes usable or stops being usable, setting or clearing its READY or YXREADY bit and raising vector 2 on a clear. -/
  | functionReadinessChange (part register bitno : Nat) (ready : Bool)
  /-- START_INTERFACE (R356). A TDISP request moves a locked device interface into the RUN state. -/
  | startInterface (part vf : Nat)
  /-- STOP_INTERFACE (R356). A TDISP request returns a device interface from CONFIG_LOCKED, RUN or ERROR to CONFIG_UNLOCKED. -/
  | stopInterface (part vf : Nat)
  /-- NUMVFS_WRITE (R350). A host write to NumVFs of the SR-IOV capability enables or disables virtual functions, which PARTCFG.NVF mirrors. -/
  | numvfsWrite (part count : Nat)
  deriving DecidableEq, Repr

end Sys2Proof
end

