-- ==== Sys2Proof/WellFormed.lean ====
section
/-! DEFINITION. Which operand values form an instruction: every combination that R14, R18, R19, R21, R23, R24 and the
forms' own descriptions exclude is ill-formed. -/
namespace Sys2Proof

/-- g24–g28 are ports (R13). -/
def isGPort (r : Reg) : Bool := decide (24 ≤ r.toNat ∧ r.toNat ≤ 28)

/-- v27–v31 are ports (R13). -/
def isVPort (r : Reg) : Bool := decide (27 ≤ r.toNat)

/-- g1–g23 and g29–g31: what LOOP counts in (R23) and what HALT reads a handle from (R78). -/
def loopCounter (r : Reg) : Bool := decide (r ≠ 0) && !isGPort r

/-- A tag that is not reserved (R42). -/
def definedTag (t : Tag) : Bool := decide (t.toNat ≤ 0x16)

/-- The target tags of VCVT and VCVTH (R65). -/
def convertTag (t : Tag) : Bool := decide (1 ≤ t.toNat ∧ t.toNat ≤ 0x11) || decide (t = 0x16)

/-- The rounding codes of R19 and R50: 0–4 and 7. -/
def roundingCode (r : BitVec 3) : Bool := decide (r ≠ 5) && decide (r ≠ 6)

/-- The tags of VLDG: not reserved, and no lane of 4 or 6 bits (R160). -/
def elementTag (t : Tag) : Bool :=
  decide (t.toNat ≤ 7) || decide (0x0A ≤ t.toNat ∧ t.toNat ≤ 0x0E) || decide (t = 0x16)

/-- A range of SPILLM and FILLM: rising, and no port within (R14, R164). -/
def gRange (f l : Reg) : Bool := decide (f.toNat ≤ l.toNat) && (decide (l.toNat < 24) || decide (28 < f.toNat))

/-- A range of VSPILL and VFILL: rising, and no port within (R164). -/
def vRange (f l : Reg) : Bool := decide (f.toNat ≤ l.toNat) && decide (l.toNat < 27)

/-- Count(TAG) of the tags that MRD delivers (R42, R262). -/
def mrdCount (t : Tag) : Nat :=
  match t.toNat with
  | 0x0A => 16
  | 0x0B => 32
  | 0x0C => 32
  | 0x11 => 128
  | _ => 64

/-- The system registers that R15 lists. -/
def sysRegListed (r : BitVec 12) : Bool :=
  let n := r.toNat
  decide (n ≤ 0x003) || decide (0x010 ≤ n ∧ n ≤ 0x014) || decide (0x018 ≤ n ∧ n ≤ 0x01B) ||
    decide (0x020 ≤ n ∧ n ≤ 0x022) || decide (n = 0x028) || decide (n = 0x030) || decide (n = 0x031) ||
    decide (n = 0x038) || decide (n = 0x039) || decide (0x040 ≤ n ∧ n ≤ 0x042) || decide (0x100 ≤ n ∧ n ≤ 0x103)

/-- Do the operands form an instruction? A step of the device has no word and no such condition. -/
def wellFormed : Instr → Bool
  | .bfxu _ _ w l => decide (l.toNat + w.toNat + 1 ≤ 64)
  | .bfxs _ _ w l => decide (l.toNat + w.toNat + 1 ≤ 64)
  | .bfi d _ w l => decide (l.toNat + w.toNat + 1 ≤ 64) && !isGPort d
  | .loop a _ => loopCounter a
  | .ldu _ _ s _ => decide (s ≠ 3)
  | .vins d _ _ => !isVPort d
  | .vcvt _ _ t _ r _ => convertTag t && roundingCode r
  | .vcvth _ _ t _ r _ => convertTag t && roundingCode r
  | .vtag _ _ t => definedTag t
  | .vtchk _ t => definedTag t
  | .vshrn8 _ _ _ _ r _ => roundingCode r
  | .vshrn16 _ _ _ _ r _ => roundingCode r
  | .fadd _ _ _ r => roundingCode r
  | .fsub _ _ _ r => roundingCode r
  | .fmul _ _ _ r => roundingCode r
  | .fdiv _ _ _ r => roundingCode r
  | .fsqrt _ _ r => roundingCode r
  | .fcvt _ _ c r => roundingCode r && decide (c.toNat ≤ 3)
  | .fma d _ _ r => roundingCode r && !isGPort d
  | .vld _ _ t _ _ => definedTag t
  | .vst _ _ t _ _ => definedTag t
  | .vlds _ _ _ _ t => elementTag t
  | .vsts _ _ _ _ t => elementTag t
  | .vldx _ _ _ _ t => elementTag t
  | .vstx _ _ _ _ t => elementTag t
  | .vldb _ _ _ t => elementTag t
  | .spillm f _ l => gRange f l
  | .fillm f a l => gRange f l && !decide (f.toNat ≤ a.toNat ∧ a.toNat ≤ l.toNat)
  | .vspill f _ l => vRange f l
  | .vfill f _ l => vRange f l
  | .amo _ _ _ z o => decide (2 ≤ z.toNat) && decide (o.toNat ≤ 8)
  | .amocas _ _ _ z => decide (2 ≤ z.toNat)
  | .amof _ _ _ o => decide (o.toNat ≤ 2)
  | .red _ _ z o => decide (2 ≤ z.toNat) && decide (o.toNat ≤ 7)
  | .fence s => decide (s.toNat ≤ 7)
  | .pref _ h => decide (h.toNat ≤ 1)
  | .mma _ _ _ _ _ af bf _ _ _ _ => decide (af.toNat ≤ 11) && decide (bf.toNat ≤ 11)
  | .mmac _ src _ acc kg af bf _ _ _ _ =>
    decide (af.toNat ≤ 6) && decide (bf.toNat ≤ 11) && decide (src.toNat + kg.toNat ≤ 15) &&
      !decide (src.toNat ≤ acc.toNat ∧ acc.toNat ≤ src.toNat + kg.toNat)
  | .mzero acc n => decide (acc.toNat + n.toNat ≤ 15)
  | .mrd _ _ _ row half tag _ _ _ rm =>
    decide (0x0A ≤ tag.toNat ∧ tag.toNat ≤ 0x11) && roundingCode rm && (decide (half = 0) || decide (tag = 0x0A)) &&
      decide (32 * row.toNat + 16 * half.toNat + mrdCount tag ≤ 2048)
  | .mscl _ soff len => decide (soff.toNat + len.toNat + 1 ≤ 512)
  | .twx d => !isGPort d
  | .spld _ idx n => decide (idx.toNat + n.toNat + 1 ≤ 8192)
  | .spst _ idx n => decide (idx.toNat + n.toNat + 1 ≤ 8192)
  | .spnrm _ idx n => decide (idx.toNat + n.toNat + 1 ≤ 8192)
  | .spup _ _ _ _ leaves _ => decide (leaves ≠ 0)
  | .spdn _ _ _ _ leaves _ => decide (leaves ≠ 0)
  | .spmode mode => decide (mode ≠ 3)
  | .mfs _ r => sysRegListed r
  | .mts _ r => sysRegListed r
  | .haltRetain a => loopCounter a
  | .mbxrd d _ => decide (1 ≤ d.toNat ∧ d.toNat ≤ 20)
  | .ptry d _ b => !isGPort d && !isGPort b && (decide (d ≠ b) || decide (d = 0))
  | .add _ _ _ => true
  | .sub _ _ _ => true
  | .and _ _ _ => true
  | .or _ _ _ => true
  | .xor _ _ _ => true
  | .sll _ _ _ => true
  | .srl _ _ _ => true
  | .sra _ _ _ => true
  | .slt _ _ _ => true
  | .sltu _ _ _ => true
  | .min _ _ _ => true
  | .max _ _ _ => true
  | .minu _ _ _ => true
  | .maxu _ _ _ => true
  | .mul _ _ _ => true
  | .mulh _ _ _ => true
  | .mulhu _ _ _ => true
  | .div _ _ _ => true
  | .divu _ _ _ => true
  | .rem _ _ _ => true
  | .remu _ _ _ => true
  | .clz _ _ => true
  | .ctz _ _ => true
  | .popc _ _ => true
  | .movz _ _ _ => true
  | .movn _ _ _ => true
  | .addw _ _ _ => true
  | .subw _ _ _ => true
  | .addi _ _ _ => true
  | .andi _ _ _ => true
  | .ori _ _ _ => true
  | .xori _ _ _ => true
  | .slti _ _ _ => true
  | .sltui _ _ _ => true
  | .lui _ _ => true
  | .insh _ _ _ => true
  | .slli _ _ _ => true
  | .srli _ _ _ => true
  | .srai _ _ _ => true
  | .addpc _ _ => true
  | .beq _ _ _ => true
  | .bne _ _ _ => true
  | .blt _ _ _ => true
  | .bge _ _ _ => true
  | .bltu _ _ _ => true
  | .bgeu _ _ _ => true
  | .j _ => true
  | .jal _ => true
  | .jr _ => true
  | .jalr _ _ => true
  | .ld _ _ _ _ => true
  | .st _ _ _ _ => true
  | .ldl _ _ _ _ => true
  | .vadd _ _ _ _ => true
  | .vsub _ _ _ _ => true
  | .vmul _ _ _ _ => true
  | .vdiv _ _ _ _ => true
  | .vmin _ _ _ _ => true
  | .vmax _ _ _ _ => true
  | .vabs _ _ _ => true
  | .vneg _ _ _ => true
  | .vsqrt _ _ _ => true
  | .vrcp _ _ _ => true
  | .vrsq _ _ _ => true
  | .vexp2 _ _ _ => true
  | .vlog2 _ _ _ => true
  | .vadds _ _ _ _ => true
  | .vsubs _ _ _ _ => true
  | .vmulh _ _ _ _ => true
  | .vand _ _ _ _ => true
  | .vor _ _ _ _ => true
  | .vxor _ _ _ _ => true
  | .vsll _ _ _ _ => true
  | .vsrl _ _ _ _ => true
  | .vsra _ _ _ _ => true
  | .vmov _ _ _ => true
  | .vfma _ _ _ _ _ => true
  | .vfms _ _ _ _ _ => true
  | .vfnma _ _ _ _ _ => true
  | .vfnms _ _ _ _ _ => true
  | .vdot4 _ _ _ _ _ => true
  | .vdot2 _ _ _ _ _ => true
  | .vcmp _ _ _ _ _ => true
  | .vperm _ _ _ _ => true
  | .vslup _ _ _ _ => true
  | .vsldn _ _ _ _ => true
  | .vbcast _ _ _ _ => true
  | .vext _ _ _ => true
  | .vsel _ _ _ _ => true
  | .vredsum _ _ _ => true
  | .vredmax _ _ _ => true
  | .vredmin _ _ _ => true
  | .vzip _ _ _ _ => true
  | .vunzip _ _ _ _ => true
  | .vcmprs _ _ _ => true
  | .kand _ _ _ => true
  | .kor _ _ _ => true
  | .kxor _ _ _ => true
  | .kandn _ _ _ => true
  | .kmovlToMask _ _ => true
  | .kmovlFromMask _ _ => true
  | .kmovhToMask _ _ => true
  | .kmovhFromMask _ _ => true
  | .kpopc _ _ => true
  | .kfirst _ _ => true
  | .cbld _ _ => true
  | .cbrd _ _ => true
  | .fmin _ _ _ => true
  | .fmax _ _ _ => true
  | .feq _ _ _ => true
  | .flt _ _ _ => true
  | .fle _ _ _ => true
  | .frame _ => true
  | .unframe => true
  | .wprd _ _ => true
  | .wpwait _ _ => true
  | .cpy _ _ _ => true
  | .cpym _ _ _ => true
  | .cpyq _ _ _ _ => true
  | .mtcfg _ _ => true
  | .waita _ _ _ _ => true
  | .get _ _ _ => true
  | .put _ _ _ => true
  | .arrive _ => true
  | .wait _ => true
  | .btest _ _ => true
  | .bmem _ => true
  | .phase _ => true
  | .domain _ _ => true
  | .mwr _ _ _ _ => true
  | .mwait _ => true
  | .mlic _ _ => true
  | .mrel => true
  | .hrd _ _ => true
  | .hwr _ _ => true
  | .spwait _ => true
  | .migr _ _ _ => true
  | .heat _ _ => true
  | .tqry _ _ => true
  | .trap _ => true
  | .eret => true
  | .halt => true
  | .rope _ _ => true
  | .split => true
  | .cairn _ => true
  | .yield _ => true
  | .mbxwrRetry _ => true
  | .mbxwrRefuse _ => true
  | .rltokRange _ _ _ _ => true
  | .rltokFunc _ _ _ => true
  | .rltokPart _ => true
  | .launchInstall _ _ => true
  | .launchPacket _ _ => true
  | .launchPreempt _ _ => true
  | .launchAbort _ _ => true
  | .launchUnretain _ _ => true
  | .pstat _ => true
  | .dsend _ _ => true
  | .drecv _ _ => true
  | .launchPacketArrival _ => true
  | .threadCreation _ _ => true
  | .yieldExpiry _ _ => true
  | .segmentAttempt _ _ => true
  | .crossingWordArrival _ _ _ => true
  | .streamFetch _ => true
  | .userMessageArrival _ _ => true
  | .copyPiece _ _ => true
  | .copyErrClear _ _ => true
  | .cpymFollowOn _ _ => true
  | .cpyqSetRelease _ _ => true
  | .plainStorePerform _ _ _ => true
  | .redPerform _ _ _ => true
  | .waitaTimeout _ _ => true
  | .predictorDecay _ _ => true
  | .walkEnd _ _ => true
  | .tokenPass _ _ => true
  | .mailboxArrival _ => true
  | .faultReply _ => true
  | .sectorCacheAccess _ _ _ => true
  | .traverseLineCopy _ _ => true
  | .traverseFinish _ _ => true
  | .traverseAbort _ _ _ => true
  | .heatReport _ _ => true
  | .offreqLayer _ _ => true
  | .offreqDie _ _ => true
  | .layerRemoved _ => true
  | .dieOfflineDone _ => true
  | .matrixCommandComplete _ => true
  | .spCommandAccept _ => true
  | .spCommandComplete _ => true
  | .episodeRelease _ _ _ _ _ => true
  | .summitSweep _ => true
  | .qtailWrite _ _ _ => true
  | .qctlWrite _ _ _ => true
  | .qstatSkip _ _ => true
  | .qstatErrClear _ _ => true
  | .qstatOvfClear _ _ => true
  | .launchReady _ _ => true
  | .stagingDeadline _ _ => true
  | .placementTurn _ => true
  | .reservation _ _ => true
  | .reservationPreempt _ => true
  | .forcedHalt _ => true
  | .regionSave _ => true
  | .budgetPeriod _ _ _ _ => true
  | .sagDetect _ _ => true
  | .linkRetrain _ _ _ => true
  | .slackWindow _ _ _ => true
  | .mergeRequest _ _ => true
  | .mergeExecute _ => true
  | .mergeDeadline _ => true
  | .getVersion _ => true
  | .getCapabilities _ => true
  | .negotiateAlgorithms _ _ => true
  | .getDigests _ => true
  | .getCertificate _ => true
  | .challenge _ _ => true
  | .getMeasurements _ _ => true
  | .keyExchange _ _ => true
  | .finish _ _ => true
  | .lockInterface _ _ => true
  | .tdispLockBreach _ _ => true
  | .debugPolicyAccept _ _ _ _ => true
  | .dbgHaltreq _ _ => true
  | .dbgTraceen _ _ => true
  | .dbgPerfen _ _ => true
  | .registerWrite _ _ _ _ => true
  | .moduleReset _ _ _ _ _ => true
  | .memoryReply _ _ => true
  | .partitionReset _ => true
  | .hostPortWrite _ _ _ => true
  | .functionReadinessChange _ _ _ _ => true
  | .startInterface _ _ => true
  | .stopInterface _ _ => true
  | .numvfsWrite _ _ => true

/-- Is the row a step of the device, which no word encodes? -/
def isStep : Instr → Bool
  | .add _ _ _ => false
  | .sub _ _ _ => false
  | .and _ _ _ => false
  | .or _ _ _ => false
  | .xor _ _ _ => false
  | .sll _ _ _ => false
  | .srl _ _ _ => false
  | .sra _ _ _ => false
  | .slt _ _ _ => false
  | .sltu _ _ _ => false
  | .min _ _ _ => false
  | .max _ _ _ => false
  | .minu _ _ _ => false
  | .maxu _ _ _ => false
  | .mul _ _ _ => false
  | .mulh _ _ _ => false
  | .mulhu _ _ _ => false
  | .div _ _ _ => false
  | .divu _ _ _ => false
  | .rem _ _ _ => false
  | .remu _ _ _ => false
  | .clz _ _ => false
  | .ctz _ _ => false
  | .popc _ _ => false
  | .movz _ _ _ => false
  | .movn _ _ _ => false
  | .addw _ _ _ => false
  | .subw _ _ _ => false
  | .addi _ _ _ => false
  | .andi _ _ _ => false
  | .ori _ _ _ => false
  | .xori _ _ _ => false
  | .slti _ _ _ => false
  | .sltui _ _ _ => false
  | .lui _ _ => false
  | .insh _ _ _ => false
  | .slli _ _ _ => false
  | .srli _ _ _ => false
  | .srai _ _ _ => false
  | .bfxu _ _ _ _ => false
  | .bfxs _ _ _ _ => false
  | .bfi _ _ _ _ => false
  | .addpc _ _ => false
  | .beq _ _ _ => false
  | .bne _ _ _ => false
  | .blt _ _ _ => false
  | .bge _ _ _ => false
  | .bltu _ _ _ => false
  | .bgeu _ _ _ => false
  | .j _ => false
  | .jal _ => false
  | .jr _ => false
  | .jalr _ _ => false
  | .loop _ _ => false
  | .ld _ _ _ _ => false
  | .ldu _ _ _ _ => false
  | .st _ _ _ _ => false
  | .ldl _ _ _ _ => false
  | .vadd _ _ _ _ => false
  | .vsub _ _ _ _ => false
  | .vmul _ _ _ _ => false
  | .vdiv _ _ _ _ => false
  | .vmin _ _ _ _ => false
  | .vmax _ _ _ _ => false
  | .vabs _ _ _ => false
  | .vneg _ _ _ => false
  | .vsqrt _ _ _ => false
  | .vrcp _ _ _ => false
  | .vrsq _ _ _ => false
  | .vexp2 _ _ _ => false
  | .vlog2 _ _ _ => false
  | .vadds _ _ _ _ => false
  | .vsubs _ _ _ _ => false
  | .vmulh _ _ _ _ => false
  | .vand _ _ _ _ => false
  | .vor _ _ _ _ => false
  | .vxor _ _ _ _ => false
  | .vsll _ _ _ _ => false
  | .vsrl _ _ _ _ => false
  | .vsra _ _ _ _ => false
  | .vmov _ _ _ => false
  | .vfma _ _ _ _ _ => false
  | .vfms _ _ _ _ _ => false
  | .vfnma _ _ _ _ _ => false
  | .vfnms _ _ _ _ _ => false
  | .vdot4 _ _ _ _ _ => false
  | .vdot2 _ _ _ _ _ => false
  | .vcmp _ _ _ _ _ => false
  | .vperm _ _ _ _ => false
  | .vslup _ _ _ _ => false
  | .vsldn _ _ _ _ => false
  | .vbcast _ _ _ _ => false
  | .vext _ _ _ => false
  | .vins _ _ _ => false
  | .vsel _ _ _ _ => false
  | .vredsum _ _ _ => false
  | .vredmax _ _ _ => false
  | .vredmin _ _ _ => false
  | .vzip _ _ _ _ => false
  | .vunzip _ _ _ _ => false
  | .vcmprs _ _ _ => false
  | .vcvt _ _ _ _ _ _ => false
  | .vcvth _ _ _ _ _ _ => false
  | .vtag _ _ _ => false
  | .vtchk _ _ => false
  | .vshrn8 _ _ _ _ _ _ => false
  | .vshrn16 _ _ _ _ _ _ => false
  | .kand _ _ _ => false
  | .kor _ _ _ => false
  | .kxor _ _ _ => false
  | .kandn _ _ _ => false
  | .kmovlToMask _ _ => false
  | .kmovlFromMask _ _ => false
  | .kmovhToMask _ _ => false
  | .kmovhFromMask _ _ => false
  | .kpopc _ _ => false
  | .kfirst _ _ => false
  | .cbld _ _ => false
  | .cbrd _ _ => false
  | .fadd _ _ _ _ => false
  | .fsub _ _ _ _ => false
  | .fmul _ _ _ _ => false
  | .fdiv _ _ _ _ => false
  | .fmin _ _ _ => false
  | .fmax _ _ _ => false
  | .fsqrt _ _ _ => false
  | .feq _ _ _ => false
  | .flt _ _ _ => false
  | .fle _ _ _ => false
  | .fcvt _ _ _ _ => false
  | .fma _ _ _ _ => false
  | .vld _ _ _ _ _ => false
  | .vst _ _ _ _ _ => false
  | .vlds _ _ _ _ _ => false
  | .vsts _ _ _ _ _ => false
  | .vldx _ _ _ _ _ => false
  | .vstx _ _ _ _ _ => false
  | .vldb _ _ _ _ => false
  | .spillm _ _ _ => false
  | .fillm _ _ _ => false
  | .vspill _ _ _ => false
  | .vfill _ _ _ => false
  | .frame _ => false
  | .unframe => false
  | .wprd _ _ => false
  | .wpwait _ _ => false
  | .cpy _ _ _ => false
  | .cpym _ _ _ => false
  | .cpyq _ _ _ _ => false
  | .mtcfg _ _ => false
  | .amo _ _ _ _ _ => false
  | .amocas _ _ _ _ => false
  | .amof _ _ _ _ => false
  | .red _ _ _ _ => false
  | .fence _ => false
  | .waita _ _ _ _ => false
  | .pref _ _ => false
  | .get _ _ _ => false
  | .put _ _ _ => false
  | .arrive _ => false
  | .wait _ => false
  | .btest _ _ => false
  | .bmem _ => false
  | .phase _ => false
  | .domain _ _ => false
  | .mma _ _ _ _ _ _ _ _ _ _ _ => false
  | .mmac _ _ _ _ _ _ _ _ _ _ _ => false
  | .mzero _ _ => false
  | .mrd _ _ _ _ _ _ _ _ _ _ => false
  | .mwr _ _ _ _ => false
  | .mscl _ _ _ => false
  | .mwait _ => false
  | .mlic _ _ => false
  | .mrel => false
  | .twx _ => false
  | .hrd _ _ => false
  | .hwr _ _ => false
  | .spld _ _ _ => false
  | .spst _ _ _ => false
  | .spup _ _ _ _ _ _ => false
  | .spdn _ _ _ _ _ _ => false
  | .spmode _ => false
  | .spnrm _ _ _ => false
  | .spwait _ => false
  | .migr _ _ _ => false
  | .heat _ _ => false
  | .tqry _ _ => false
  | .mfs _ _ => false
  | .mts _ _ => false
  | .trap _ => false
  | .eret => false
  | .halt => false
  | .haltRetain _ => false
  | .rope _ _ => false
  | .split => false
  | .cairn _ => false
  | .yield _ => false
  | .mbxrd _ _ => false
  | .mbxwrRetry _ => false
  | .mbxwrRefuse _ => false
  | .rltokRange _ _ _ _ => false
  | .rltokFunc _ _ _ => false
  | .rltokPart _ => false
  | .launchInstall _ _ => false
  | .launchPacket _ _ => false
  | .launchPreempt _ _ => false
  | .launchAbort _ _ => false
  | .launchUnretain _ _ => false
  | .pstat _ => false
  | .ptry _ _ _ => false
  | .dsend _ _ => false
  | .drecv _ _ => false
  | .launchPacketArrival _ => true
  | .threadCreation _ _ => true
  | .yieldExpiry _ _ => true
  | .segmentAttempt _ _ => true
  | .crossingWordArrival _ _ _ => true
  | .streamFetch _ => true
  | .userMessageArrival _ _ => true
  | .copyPiece _ _ => true
  | .copyErrClear _ _ => true
  | .cpymFollowOn _ _ => true
  | .cpyqSetRelease _ _ => true
  | .plainStorePerform _ _ _ => true
  | .redPerform _ _ _ => true
  | .waitaTimeout _ _ => true
  | .predictorDecay _ _ => true
  | .walkEnd _ _ => true
  | .tokenPass _ _ => true
  | .mailboxArrival _ => true
  | .faultReply _ => true
  | .sectorCacheAccess _ _ _ => true
  | .traverseLineCopy _ _ => true
  | .traverseFinish _ _ => true
  | .traverseAbort _ _ _ => true
  | .heatReport _ _ => true
  | .offreqLayer _ _ => true
  | .offreqDie _ _ => true
  | .layerRemoved _ => true
  | .dieOfflineDone _ => true
  | .matrixCommandComplete _ => true
  | .spCommandAccept _ => true
  | .spCommandComplete _ => true
  | .episodeRelease _ _ _ _ _ => true
  | .summitSweep _ => true
  | .qtailWrite _ _ _ => true
  | .qctlWrite _ _ _ => true
  | .qstatSkip _ _ => true
  | .qstatErrClear _ _ => true
  | .qstatOvfClear _ _ => true
  | .launchReady _ _ => true
  | .stagingDeadline _ _ => true
  | .placementTurn _ => true
  | .reservation _ _ => true
  | .reservationPreempt _ => true
  | .forcedHalt _ => true
  | .regionSave _ => true
  | .budgetPeriod _ _ _ _ => true
  | .sagDetect _ _ => true
  | .linkRetrain _ _ _ => true
  | .slackWindow _ _ _ => true
  | .mergeRequest _ _ => true
  | .mergeExecute _ => true
  | .mergeDeadline _ => true
  | .getVersion _ => true
  | .getCapabilities _ => true
  | .negotiateAlgorithms _ _ => true
  | .getDigests _ => true
  | .getCertificate _ => true
  | .challenge _ _ => true
  | .getMeasurements _ _ => true
  | .keyExchange _ _ => true
  | .finish _ _ => true
  | .lockInterface _ _ => true
  | .tdispLockBreach _ _ => true
  | .debugPolicyAccept _ _ _ _ => true
  | .dbgHaltreq _ _ => true
  | .dbgTraceen _ _ => true
  | .dbgPerfen _ _ => true
  | .registerWrite _ _ _ _ => true
  | .moduleReset _ _ _ _ _ => true
  | .memoryReply _ _ => true
  | .partitionReset _ => true
  | .hostPortWrite _ _ _ => true
  | .functionReadinessChange _ _ _ _ => true
  | .startInterface _ _ => true
  | .stopInterface _ _ => true
  | .numvfsWrite _ _ => true

end Sys2Proof
end

