-- ==== Sys2Proof/Decode.lean ====
section
/-! DEFINITION. Instruction words: the encoder, written from the encoding tables, and the decoder, which reads the fields
of the row that major and function select and keeps the result only when it is well formed and encodes to the same words,
so that every must-be-zero field is checked (R9 to R24). -/
namespace Sys2Proof

/-- Why words are not an instruction (R24). -/
inductive Reject where
  /-- a reserved major, or a reserved function, sub, op, form or scope value -/
  | reserved
  /-- operands that an instruction cannot take together -/
  | excluded
  /-- a nonzero must-be-zero field -/
  | mustBeZero
  /-- bytes that end before the instruction does -/
  | truncated
  deriving DecidableEq, Repr

/-- A word of format R: major, d, a, b and fn (R9). -/
def encode5 (major : BitVec 6) (d a b : Reg) (fn : BitVec 11) : Word32 := major ++ d ++ a ++ b ++ fn

/-- The words of an instruction, the word at the lower address first; a step of the device has none (R9 to R23, R11). -/
def encode : Instr → List Word32
  | .add d a b => [0x1#6 ++ d ++ a ++ b ++ 0x0#11]
  | .sub d a b => [0x1#6 ++ d ++ a ++ b ++ 0x1#11]
  | .and d a b => [0x1#6 ++ d ++ a ++ b ++ 0x2#11]
  | .or d a b => [0x1#6 ++ d ++ a ++ b ++ 0x3#11]
  | .xor d a b => [0x1#6 ++ d ++ a ++ b ++ 0x4#11]
  | .sll d a b => [0x1#6 ++ d ++ a ++ b ++ 0x5#11]
  | .srl d a b => [0x1#6 ++ d ++ a ++ b ++ 0x6#11]
  | .sra d a b => [0x1#6 ++ d ++ a ++ b ++ 0x7#11]
  | .slt d a b => [0x1#6 ++ d ++ a ++ b ++ 0x8#11]
  | .sltu d a b => [0x1#6 ++ d ++ a ++ b ++ 0x9#11]
  | .min d a b => [0x1#6 ++ d ++ a ++ b ++ 0xa#11]
  | .max d a b => [0x1#6 ++ d ++ a ++ b ++ 0xb#11]
  | .minu d a b => [0x1#6 ++ d ++ a ++ b ++ 0xc#11]
  | .maxu d a b => [0x1#6 ++ d ++ a ++ b ++ 0xd#11]
  | .mul d a b => [0x1#6 ++ d ++ a ++ b ++ 0xe#11]
  | .mulh d a b => [0x1#6 ++ d ++ a ++ b ++ 0xf#11]
  | .mulhu d a b => [0x1#6 ++ d ++ a ++ b ++ 0x10#11]
  | .div d a b => [0x1#6 ++ d ++ a ++ b ++ 0x11#11]
  | .divu d a b => [0x1#6 ++ d ++ a ++ b ++ 0x12#11]
  | .rem d a b => [0x1#6 ++ d ++ a ++ b ++ 0x13#11]
  | .remu d a b => [0x1#6 ++ d ++ a ++ b ++ 0x14#11]
  | .clz d a => [0x1#6 ++ d ++ a ++ 0x15#16]
  | .ctz d a => [0x1#6 ++ d ++ a ++ 0x16#16]
  | .popc d a => [0x1#6 ++ d ++ a ++ 0x17#16]
  | .movz d a b => [0x1#6 ++ d ++ a ++ b ++ 0x18#11]
  | .movn d a b => [0x1#6 ++ d ++ a ++ b ++ 0x19#11]
  | .addw d a b => [0x1#6 ++ d ++ a ++ b ++ 0x1a#11]
  | .subw d a b => [0x1#6 ++ d ++ a ++ b ++ 0x1b#11]
  | .addi d a i => [0x2#6 ++ d ++ a ++ i]
  | .andi d a i => [0x3#6 ++ d ++ a ++ i]
  | .ori d a i => [0x4#6 ++ d ++ a ++ i]
  | .xori d a i => [0x5#6 ++ d ++ a ++ i]
  | .slti d a i => [0x6#6 ++ d ++ a ++ i]
  | .sltui d a i => [0x7#6 ++ d ++ a ++ i]
  | .lui d i => [0x8#6 ++ d ++ 0x0#5 ++ i]
  | .insh d a i => [0x9#6 ++ d ++ a ++ i]
  | .slli d a s => [0xa#6 ++ d ++ a ++ 0x0#10 ++ s]
  | .srli d a s => [0xa#6 ++ d ++ a ++ 0x4#10 ++ s]
  | .srai d a s => [0xa#6 ++ d ++ a ++ 0x8#10 ++ s]
  | .bfxu d a w l => [0xb#6 ++ d ++ a ++ 0x0#4 ++ w ++ l]
  | .bfxs d a w l => [0xb#6 ++ d ++ a ++ 0x8#4 ++ w ++ l]
  | .bfi d a w l => [0xc#6 ++ d ++ a ++ 0x0#4 ++ w ++ l]
  | .addpc d i => [0xd#6 ++ d ++ i]
  | .beq a b o => [0xe#6 ++ a ++ b ++ o]
  | .bne a b o => [0xf#6 ++ a ++ b ++ o]
  | .blt a b o => [0x10#6 ++ a ++ b ++ o]
  | .bge a b o => [0x11#6 ++ a ++ b ++ o]
  | .bltu a b o => [0x12#6 ++ a ++ b ++ o]
  | .bgeu a b o => [0x13#6 ++ a ++ b ++ o]
  | .j o => [0x14#6 ++ o]
  | .jal o => [0x15#6 ++ o]
  | .jr a => [0x16#6 ++ 0x0#5 ++ a ++ 0x0#16]
  | .jalr d a => [0x16#6 ++ d ++ a ++ 0x1#16]
  | .loop a o => [0x17#6 ++ a ++ 0x0#5 ++ o]
  | .ld d a s i => [0x18#6 ++ d ++ a ++ s ++ i]
  | .ldu d a s i => [0x19#6 ++ d ++ a ++ s ++ i]
  | .st d a s i => [0x1a#6 ++ d ++ a ++ s ++ i]
  | .ldl d a s i => [0x1b#6 ++ d ++ a ++ s ++ i]
  | .vadd d a b k => [0x1c#6 ++ d ++ a ++ b ++ k ++ 0x0#8]
  | .vsub d a b k => [0x1c#6 ++ d ++ a ++ b ++ k ++ 0x1#8]
  | .vmul d a b k => [0x1c#6 ++ d ++ a ++ b ++ k ++ 0x2#8]
  | .vdiv d a b k => [0x1c#6 ++ d ++ a ++ b ++ k ++ 0x3#8]
  | .vmin d a b k => [0x1c#6 ++ d ++ a ++ b ++ k ++ 0x4#8]
  | .vmax d a b k => [0x1c#6 ++ d ++ a ++ b ++ k ++ 0x5#8]
  | .vabs d a k => [0x1c#6 ++ d ++ a ++ 0x0#5 ++ k ++ 0x6#8]
  | .vneg d a k => [0x1c#6 ++ d ++ a ++ 0x0#5 ++ k ++ 0x7#8]
  | .vsqrt d a k => [0x1c#6 ++ d ++ a ++ 0x0#5 ++ k ++ 0x8#8]
  | .vrcp d a k => [0x1c#6 ++ d ++ a ++ 0x0#5 ++ k ++ 0x9#8]
  | .vrsq d a k => [0x1c#6 ++ d ++ a ++ 0x0#5 ++ k ++ 0xa#8]
  | .vexp2 d a k => [0x1c#6 ++ d ++ a ++ 0x0#5 ++ k ++ 0xb#8]
  | .vlog2 d a k => [0x1c#6 ++ d ++ a ++ 0x0#5 ++ k ++ 0xc#8]
  | .vadds d a b k => [0x1c#6 ++ d ++ a ++ b ++ k ++ 0xd#8]
  | .vsubs d a b k => [0x1c#6 ++ d ++ a ++ b ++ k ++ 0xe#8]
  | .vmulh d a b k => [0x1c#6 ++ d ++ a ++ b ++ k ++ 0xf#8]
  | .vand d a b k => [0x1c#6 ++ d ++ a ++ b ++ k ++ 0x10#8]
  | .vor d a b k => [0x1c#6 ++ d ++ a ++ b ++ k ++ 0x11#8]
  | .vxor d a b k => [0x1c#6 ++ d ++ a ++ b ++ k ++ 0x12#8]
  | .vsll d a b k => [0x1c#6 ++ d ++ a ++ b ++ k ++ 0x13#8]
  | .vsrl d a b k => [0x1c#6 ++ d ++ a ++ b ++ k ++ 0x14#8]
  | .vsra d a b k => [0x1c#6 ++ d ++ a ++ b ++ k ++ 0x15#8]
  | .vmov d a k => [0x1c#6 ++ d ++ a ++ 0x0#5 ++ k ++ 0x16#8]
  | .vfma d a b k c => [0x1d#6 ++ d ++ a ++ b ++ k ++ c ++ 0x0#3]
  | .vfms d a b k c => [0x1d#6 ++ d ++ a ++ b ++ k ++ c ++ 0x1#3]
  | .vfnma d a b k c => [0x1d#6 ++ d ++ a ++ b ++ k ++ c ++ 0x2#3]
  | .vfnms d a b k c => [0x1d#6 ++ d ++ a ++ b ++ k ++ c ++ 0x3#3]
  | .vdot4 d a b k c => [0x1d#6 ++ d ++ a ++ b ++ k ++ c ++ 0x4#3]
  | .vdot2 d a b k c => [0x1d#6 ++ d ++ a ++ b ++ k ++ c ++ 0x5#3]
  | .vcmp d a b m c => [0x1e#6 ++ 0x0#2 ++ d ++ a ++ b ++ m ++ 0x0#5 ++ c]
  | .vperm d a b k => [0x1f#6 ++ d ++ a ++ b ++ k ++ 0x0#8]
  | .vslup d a b k => [0x1f#6 ++ d ++ a ++ b ++ k ++ 0x1#8]
  | .vsldn d a b k => [0x1f#6 ++ d ++ a ++ b ++ k ++ 0x2#8]
  | .vbcast d a b k => [0x1f#6 ++ d ++ a ++ b ++ k ++ 0x3#8]
  | .vext d a b => [0x1f#6 ++ d ++ a ++ b ++ 0x4#11]
  | .vins d a b => [0x1f#6 ++ d ++ a ++ b ++ 0x5#11]
  | .vsel d a b k => [0x1f#6 ++ d ++ a ++ b ++ k ++ 0x6#8]
  | .vredsum d a k => [0x1f#6 ++ d ++ a ++ 0x0#5 ++ k ++ 0x7#8]
  | .vredmax d a k => [0x1f#6 ++ d ++ a ++ 0x0#5 ++ k ++ 0x8#8]
  | .vredmin d a k => [0x1f#6 ++ d ++ a ++ 0x0#5 ++ k ++ 0x9#8]
  | .vzip d a b k => [0x1f#6 ++ d ++ a ++ b ++ k ++ 0xa#8]
  | .vunzip d a b k => [0x1f#6 ++ d ++ a ++ b ++ k ++ 0xb#8]
  | .vcmprs d a k => [0x1f#6 ++ d ++ a ++ 0x0#5 ++ k ++ 0xc#8]
  | .vcvt d a t k r s => [0x20#6 ++ d ++ a ++ t ++ k ++ r ++ s ++ 0x0#4]
  | .vcvth d a t k r s => [0x20#6 ++ d ++ a ++ t ++ k ++ r ++ s ++ 0x1#4]
  | .vtag d a t => [0x20#6 ++ d ++ a ++ t ++ 0x2#11]
  | .vtchk a t => [0x20#6 ++ 0x0#5 ++ a ++ t ++ 0x3#11]
  | .vshrn8 d a b k r s => [0x20#6 ++ d ++ a ++ b ++ k ++ r ++ s ++ 0x4#4]
  | .vshrn16 d a b k r s => [0x20#6 ++ d ++ a ++ b ++ k ++ r ++ s ++ 0x5#4]
  | .kand d a b => [0x21#6 ++ 0x0#2 ++ d ++ 0x0#2 ++ a ++ 0x0#2 ++ b ++ 0x0#11]
  | .kor d a b => [0x21#6 ++ 0x0#2 ++ d ++ 0x0#2 ++ a ++ 0x0#2 ++ b ++ 0x1#11]
  | .kxor d a b => [0x21#6 ++ 0x0#2 ++ d ++ 0x0#2 ++ a ++ 0x0#2 ++ b ++ 0x2#11]
  | .kandn d a b => [0x21#6 ++ 0x0#2 ++ d ++ 0x0#2 ++ a ++ 0x0#2 ++ b ++ 0x3#11]
  | .kmovlToMask d a => [0x21#6 ++ 0x0#2 ++ d ++ a ++ 0x4#16]
  | .kmovlFromMask d a => [0x21#6 ++ d ++ 0x0#2 ++ a ++ 0x804#16]
  | .kmovhToMask d a => [0x21#6 ++ 0x0#2 ++ d ++ a ++ 0x5#16]
  | .kmovhFromMask d a => [0x21#6 ++ d ++ 0x0#2 ++ a ++ 0x805#16]
  | .kpopc d a => [0x21#6 ++ d ++ 0x0#2 ++ a ++ 0x6#16]
  | .kfirst d a => [0x21#6 ++ d ++ 0x0#2 ++ a ++ 0x7#16]
  | .cbld t a => [0x22#6 ++ 0x0#3 ++ t ++ a ++ 0x0#16]
  | .cbrd d t => [0x22#6 ++ d ++ 0x0#3 ++ t ++ 0x1#16]
  | .fadd d a b r => [0x23#6 ++ d ++ a ++ b ++ 0x0#4 ++ r ++ 0x0#4]
  | .fsub d a b r => [0x23#6 ++ d ++ a ++ b ++ 0x0#4 ++ r ++ 0x1#4]
  | .fmul d a b r => [0x23#6 ++ d ++ a ++ b ++ 0x0#4 ++ r ++ 0x2#4]
  | .fdiv d a b r => [0x23#6 ++ d ++ a ++ b ++ 0x0#4 ++ r ++ 0x3#4]
  | .fmin d a b => [0x23#6 ++ d ++ a ++ b ++ 0x4#11]
  | .fmax d a b => [0x23#6 ++ d ++ a ++ b ++ 0x5#11]
  | .fsqrt d a r => [0x23#6 ++ d ++ a ++ 0x0#9 ++ r ++ 0x6#4]
  | .feq d a b => [0x23#6 ++ d ++ a ++ b ++ 0x7#11]
  | .flt d a b => [0x23#6 ++ d ++ a ++ b ++ 0x8#11]
  | .fle d a b => [0x23#6 ++ d ++ a ++ b ++ 0x9#11]
  | .fcvt d a c r => [0x23#6 ++ d ++ a ++ 0x0#5 ++ c ++ r ++ 0xa#4]
  | .fma d a b r => [0x23#6 ++ d ++ a ++ b ++ 0x0#4 ++ r ++ 0xb#4]
  | .vld d a t k i => [0x24#6 ++ d ++ a ++ t ++ k ++ i]
  | .vst d a t k i => [0x25#6 ++ d ++ a ++ t ++ k ++ i]
  | .vlds d a b k t => [0x26#6 ++ d ++ a ++ b ++ k ++ t ++ 0x0#3]
  | .vsts d a b k t => [0x26#6 ++ d ++ a ++ b ++ k ++ t ++ 0x1#3]
  | .vldx d a b k t => [0x26#6 ++ d ++ a ++ b ++ k ++ t ++ 0x2#3]
  | .vstx d a b k t => [0x26#6 ++ d ++ a ++ b ++ k ++ t ++ 0x3#3]
  | .vldb d a k t => [0x26#6 ++ d ++ a ++ 0x0#5 ++ k ++ t ++ 0x4#3]
  | .spillm f a l => [0x27#6 ++ f ++ a ++ l ++ 0x0#11]
  | .fillm f a l => [0x27#6 ++ f ++ a ++ l ++ 0x1#11]
  | .vspill f a l => [0x27#6 ++ f ++ a ++ l ++ 0x2#11]
  | .vfill f a l => [0x27#6 ++ f ++ a ++ l ++ 0x3#11]
  | .frame a => [0x27#6 ++ 0x0#5 ++ a ++ 0x4#16]
  | .unframe => [0x27#6 ++ 0x5#26]
  | .wprd d a => [0x27#6 ++ d ++ a ++ 0x6#16]
  | .wpwait a b => [0x27#6 ++ 0x0#5 ++ a ++ b ++ 0x7#11]
  | .cpy a b id => [encode5 0x28#6 0#5 a b 0#11, 0#6 ++ 0#18 ++ id]
  | .cpym a b id => [encode5 0x28#6 0#5 a b 1#11, 0#6 ++ 0#18 ++ id]
  | .cpyq a b mask id => [encode5 0x28#6 0#5 a b 2#11, 0#6 ++ 0#14 ++ mask ++ id]
  | .mtcfg a b => [encode5 0x28#6 0#5 a b 3#11, 0#6 ++ 0#26]
  | .amo d a b z o => [0x29#6 ++ d ++ a ++ b ++ 0x0#1 ++ z ++ o ++ 0x0#4]
  | .amocas d a b z => [0x29#6 ++ d ++ a ++ b ++ 0x0#1 ++ z ++ 0x1#8]
  | .amof d a b o => [0x29#6 ++ d ++ a ++ b ++ 0x2#3 ++ o ++ 0x2#4]
  | .red a b z o => [0x29#6 ++ 0x0#5 ++ a ++ b ++ 0x0#1 ++ z ++ o ++ 0x3#4]
  | .fence s => [0x2a#6 ++ 0x0#18 ++ s ++ 0x0#4]
  | .waita d a b t => [0x2a#6 ++ d ++ a ++ b ++ 0x0#3 ++ t ++ 0x1#4]
  | .pref a h => [0x2a#6 ++ 0x0#5 ++ a ++ 0x0#8 ++ h ++ 0x2#4]
  | .get a b n => [0x2a#6 ++ 0x0#5 ++ a ++ b ++ 0x0#3 ++ n ++ 0x3#4]
  | .put a b n => [0x2a#6 ++ 0x0#5 ++ a ++ b ++ 0x0#3 ++ n ++ 0x4#4]
  | .arrive l => [0x2b#6 ++ 0x0#20 ++ l ++ 0x0#4]
  | .wait l => [0x2b#6 ++ 0x0#20 ++ l ++ 0x1#4]
  | .btest d l => [0x2b#6 ++ d ++ 0x0#15 ++ l ++ 0x2#4]
  | .bmem a => [0x2b#6 ++ 0x0#5 ++ a ++ 0x3#16]
  | .phase l => [0x2b#6 ++ 0x0#20 ++ l ++ 0x4#4]
  | .domain a l => [0x2b#6 ++ 0x0#5 ++ a ++ 0x0#10 ++ l ++ 0x5#4]
  | .mma d a b acc kg af bf sa sb asl bsl => [encode5 0x2c#6 d a b 0#11, 0#6 ++ acc ++ kg ++ af ++ bf ++ sa ++ sb ++ asl ++ bsl]
  | .mmac d src b acc kg af bf sa sb asl bsl => [encode5 0x2c#6 d (0#1 ++ src) b 1#11, 0#6 ++ acc ++ kg ++ af ++ bf ++ sa ++ sb ++ asl ++ bsl]
  | .mzero acc n => [encode5 0x2c#6 0#5 0#5 0#5 2#11, 0#6 ++ acc ++ n ++ 0#18]
  | .mrd d a acc row half tag sat sc asl rm => [encode5 0x2c#6 d a 0#5 3#11, 0#6 ++ acc ++ row ++ half ++ tag ++ sat ++ sc ++ asl ++ rm ++ 0#3]
  | .mwr a acc row half => [encode5 0x2c#6 0#5 a 0#5 4#11, 0#6 ++ acc ++ row ++ half ++ 0#15]
  | .mscl a soff len => [encode5 0x2c#6 0#5 a 0#5 5#11, 0#6 ++ soff ++ len ++ 0#8]
  | .mwait d => [encode5 0x2c#6 d 0#5 0#5 6#11, 0#6 ++ 0#26]
  | .mlic d tryf => [encode5 0x2c#6 d 0#5 0#5 7#11, 0#6 ++ 0#25 ++ tryf]
  | .mrel => [encode5 0x2c#6 0#5 0#5 0#5 8#11, 0#6 ++ 0#26]
  | .twx d => [0x2d#6 ++ d ++ 0x0#21]
  | .hrd d h => [0x2d#6 ++ d ++ 0x0#2 ++ h ++ 0x1#16]
  | .hwr h a => [0x2d#6 ++ 0x0#2 ++ h ++ a ++ 0x2#16]
  | .spld a idx n => [encode5 0x2e#6 0#5 a 0#5 0#11, 0#6 ++ idx ++ n ++ 0#4]
  | .spst a idx n => [encode5 0x2e#6 0#5 a 0#5 1#11, 0#6 ++ idx ++ n ++ 0#4]
  | .spup d a b op leaves root => [encode5 0x2e#6 d a b 2#11, 0#6 ++ op ++ leaves ++ 0#3 ++ root]
  | .spdn d a b op leaves acc => [encode5 0x2e#6 d a b 3#11, 0#6 ++ op ++ leaves ++ 0#3 ++ acc]
  | .spmode mode => [encode5 0x2e#6 0#5 0#5 0#5 4#11, 0#6 ++ 0#24 ++ mode]
  | .spnrm a idx n => [encode5 0x2e#6 0#5 a 0#5 5#11, 0#6 ++ idx ++ n ++ 0#4]
  | .spwait d => [encode5 0x2e#6 d 0#5 0#5 6#11, 0#6 ++ 0#26]
  | .migr d a b => [0x2f#6 ++ d ++ a ++ b ++ 0x0#11]
  | .heat d a => [0x2f#6 ++ d ++ a ++ 0x1#16]
  | .tqry d a => [0x2f#6 ++ d ++ a ++ 0x2#16]
  | .mfs d r => [0x30#6 ++ d ++ 0x0#5 ++ r ++ 0x0#4]
  | .mts a r => [0x30#6 ++ 0x0#5 ++ a ++ r ++ 0x1#4]
  | .trap n => [0x30#6 ++ 0x0#10 ++ n ++ 0x2#4]
  | .eret => [0x30#6 ++ 0x3#26]
  | .halt => [0x30#6 ++ 0x4#26]
  | .haltRetain a => [0x30#6 ++ 0x0#5 ++ a ++ 0x14#16]
  | .rope d m => [0x30#6 ++ d ++ 0x0#13 ++ m ++ 0x5#4]
  | .split => [0x30#6 ++ 0x6#26]
  | .cairn i => [0x30#6 ++ 0x0#10 ++ i ++ 0x7#4]
  | .yield n => [0x30#6 ++ 0x0#10 ++ n ++ 0x8#4]
  | .mbxrd d n => [0x30#6 ++ d ++ 0x0#16 ++ n ++ 0x9#4]
  | .mbxwrRetry a => [0x30#6 ++ 0x0#5 ++ a ++ 0xa#16]
  | .mbxwrRefuse a => [0x30#6 ++ 0x0#5 ++ a ++ 0x1a#16]
  | .rltokRange d a g n => [0x30#6 ++ d ++ a ++ 0x0#2 ++ g ++ 0x0#3 ++ n ++ 0xb#4]
  | .rltokFunc d a g => [0x30#6 ++ d ++ a ++ 0x1#2 ++ g ++ 0xb#13]
  | .rltokPart d => [0x30#6 ++ d ++ 0x800b#21]
  | .launchInstall d a => [0x30#6 ++ d ++ a ++ 0xc#16]
  | .launchPacket d a => [0x30#6 ++ d ++ a ++ 0x1c#16]
  | .launchPreempt d a => [0x30#6 ++ d ++ a ++ 0x2c#16]
  | .launchAbort d a => [0x30#6 ++ d ++ a ++ 0x3c#16]
  | .launchUnretain d a => [0x30#6 ++ d ++ a ++ 0x4c#16]
  | .pstat d => [0x31#6 ++ d ++ 0x0#21]
  | .ptry d a b => [0x31#6 ++ d ++ a ++ b ++ 0x1#11]
  | .dsend a b => [0x31#6 ++ 0x0#5 ++ a ++ b ++ 0x2#11]
  | .drecv d a => [0x31#6 ++ d ++ a ++ 0x3#16]
  | .launchPacketArrival _ => []
  | .threadCreation _ _ => []
  | .yieldExpiry _ _ => []
  | .segmentAttempt _ _ => []
  | .crossingWordArrival _ _ _ => []
  | .streamFetch _ => []
  | .userMessageArrival _ _ => []
  | .copyPiece _ _ => []
  | .copyErrClear _ _ => []
  | .cpymFollowOn _ _ => []
  | .cpyqSetRelease _ _ => []
  | .plainStorePerform _ _ _ => []
  | .redPerform _ _ _ => []
  | .waitaTimeout _ _ => []
  | .predictorDecay _ _ => []
  | .walkEnd _ _ => []
  | .tokenPass _ _ => []
  | .mailboxArrival _ => []
  | .faultReply _ => []
  | .sectorCacheAccess _ _ _ => []
  | .traverseLineCopy _ _ => []
  | .traverseFinish _ _ => []
  | .traverseAbort _ _ _ => []
  | .heatReport _ _ => []
  | .offreqLayer _ _ => []
  | .offreqDie _ _ => []
  | .layerRemoved _ => []
  | .dieOfflineDone _ => []
  | .matrixCommandComplete _ => []
  | .spCommandAccept _ => []
  | .spCommandComplete _ => []
  | .episodeRelease _ _ _ _ _ => []
  | .summitSweep _ => []
  | .qtailWrite _ _ _ => []
  | .qctlWrite _ _ _ => []
  | .qstatSkip _ _ => []
  | .qstatErrClear _ _ => []
  | .qstatOvfClear _ _ => []
  | .launchReady _ _ => []
  | .stagingDeadline _ _ => []
  | .placementTurn _ => []
  | .reservation _ _ => []
  | .reservationPreempt _ => []
  | .forcedHalt _ => []
  | .regionSave _ => []
  | .budgetPeriod _ _ _ _ => []
  | .sagDetect _ _ => []
  | .linkRetrain _ _ _ => []
  | .slackWindow _ _ _ => []
  | .mergeRequest _ _ => []
  | .mergeExecute _ => []
  | .mergeDeadline _ => []
  | .getVersion _ => []
  | .getCapabilities _ => []
  | .negotiateAlgorithms _ _ => []
  | .getDigests _ => []
  | .getCertificate _ => []
  | .challenge _ _ => []
  | .getMeasurements _ _ => []
  | .keyExchange _ _ => []
  | .finish _ _ => []
  | .lockInterface _ _ => []
  | .tdispLockBreach _ _ => []
  | .debugPolicyAccept _ _ _ _ => []
  | .dbgHaltreq _ _ => []
  | .dbgTraceen _ _ => []
  | .dbgPerfen _ _ => []
  | .registerWrite _ _ _ _ => []
  | .moduleReset _ _ _ _ _ => []
  | .memoryReply _ _ => []
  | .partitionReset _ => []
  | .hostPortWrite _ _ _ => []
  | .functionReadinessChange _ _ _ _ => []
  | .startInterface _ _ => []
  | .stopInterface _ _ => []
  | .numvfsWrite _ _ => []

/-- Does a major name the 64-bit forms (R11)? -/
def isLong (w : Word32) : Bool :=
  let m := (w.extractLsb' 26 6).toNat
  m == 0x28 || m == 0x2C || m == 0x2E

/-- The row of major 0x1 that the function fields select, with its fields (R17). -/
def candidate01 (w : Word32) : Option Instr :=
  match (w.extractLsb' 0 11).toNat with
  | 0 => some (.add (w.extractLsb' 21 5) (w.extractLsb' 16 5) (w.extractLsb' 11 5))
  | 1 => some (.sub (w.extractLsb' 21 5) (w.extractLsb' 16 5) (w.extractLsb' 11 5))
  | 2 => some (.and (w.extractLsb' 21 5) (w.extractLsb' 16 5) (w.extractLsb' 11 5))
  | 3 => some (.or (w.extractLsb' 21 5) (w.extractLsb' 16 5) (w.extractLsb' 11 5))
  | 4 => some (.xor (w.extractLsb' 21 5) (w.extractLsb' 16 5) (w.extractLsb' 11 5))
  | 5 => some (.sll (w.extractLsb' 21 5) (w.extractLsb' 16 5) (w.extractLsb' 11 5))
  | 6 => some (.srl (w.extractLsb' 21 5) (w.extractLsb' 16 5) (w.extractLsb' 11 5))
  | 7 => some (.sra (w.extractLsb' 21 5) (w.extractLsb' 16 5) (w.extractLsb' 11 5))
  | 8 => some (.slt (w.extractLsb' 21 5) (w.extractLsb' 16 5) (w.extractLsb' 11 5))
  | 9 => some (.sltu (w.extractLsb' 21 5) (w.extractLsb' 16 5) (w.extractLsb' 11 5))
  | 10 => some (.min (w.extractLsb' 21 5) (w.extractLsb' 16 5) (w.extractLsb' 11 5))
  | 11 => some (.max (w.extractLsb' 21 5) (w.extractLsb' 16 5) (w.extractLsb' 11 5))
  | 12 => some (.minu (w.extractLsb' 21 5) (w.extractLsb' 16 5) (w.extractLsb' 11 5))
  | 13 => some (.maxu (w.extractLsb' 21 5) (w.extractLsb' 16 5) (w.extractLsb' 11 5))
  | 14 => some (.mul (w.extractLsb' 21 5) (w.extractLsb' 16 5) (w.extractLsb' 11 5))
  | 15 => some (.mulh (w.extractLsb' 21 5) (w.extractLsb' 16 5) (w.extractLsb' 11 5))
  | 16 => some (.mulhu (w.extractLsb' 21 5) (w.extractLsb' 16 5) (w.extractLsb' 11 5))
  | 17 => some (.div (w.extractLsb' 21 5) (w.extractLsb' 16 5) (w.extractLsb' 11 5))
  | 18 => some (.divu (w.extractLsb' 21 5) (w.extractLsb' 16 5) (w.extractLsb' 11 5))
  | 19 => some (.rem (w.extractLsb' 21 5) (w.extractLsb' 16 5) (w.extractLsb' 11 5))
  | 20 => some (.remu (w.extractLsb' 21 5) (w.extractLsb' 16 5) (w.extractLsb' 11 5))
  | 21 => some (.clz (w.extractLsb' 21 5) (w.extractLsb' 16 5))
  | 22 => some (.ctz (w.extractLsb' 21 5) (w.extractLsb' 16 5))
  | 23 => some (.popc (w.extractLsb' 21 5) (w.extractLsb' 16 5))
  | 24 => some (.movz (w.extractLsb' 21 5) (w.extractLsb' 16 5) (w.extractLsb' 11 5))
  | 25 => some (.movn (w.extractLsb' 21 5) (w.extractLsb' 16 5) (w.extractLsb' 11 5))
  | 26 => some (.addw (w.extractLsb' 21 5) (w.extractLsb' 16 5) (w.extractLsb' 11 5))
  | 27 => some (.subw (w.extractLsb' 21 5) (w.extractLsb' 16 5) (w.extractLsb' 11 5))
  | _ => none

/-- The row of major 0x2 that the function fields select, with its fields (R17). -/
def candidate02 (w : Word32) : Option Instr :=
  some (.addi (w.extractLsb' 21 5) (w.extractLsb' 16 5) (w.extractLsb' 0 16))

/-- The row of major 0x3 that the function fields select, with its fields (R17). -/
def candidate03 (w : Word32) : Option Instr :=
  some (.andi (w.extractLsb' 21 5) (w.extractLsb' 16 5) (w.extractLsb' 0 16))

/-- The row of major 0x4 that the function fields select, with its fields (R17). -/
def candidate04 (w : Word32) : Option Instr :=
  some (.ori (w.extractLsb' 21 5) (w.extractLsb' 16 5) (w.extractLsb' 0 16))

/-- The row of major 0x5 that the function fields select, with its fields (R17). -/
def candidate05 (w : Word32) : Option Instr :=
  some (.xori (w.extractLsb' 21 5) (w.extractLsb' 16 5) (w.extractLsb' 0 16))

/-- The row of major 0x6 that the function fields select, with its fields (R17). -/
def candidate06 (w : Word32) : Option Instr :=
  some (.slti (w.extractLsb' 21 5) (w.extractLsb' 16 5) (w.extractLsb' 0 16))

/-- The row of major 0x7 that the function fields select, with its fields (R17). -/
def candidate07 (w : Word32) : Option Instr :=
  some (.sltui (w.extractLsb' 21 5) (w.extractLsb' 16 5) (w.extractLsb' 0 16))

/-- The row of major 0x8 that the function fields select, with its fields (R17). -/
def candidate08 (w : Word32) : Option Instr :=
  some (.lui (w.extractLsb' 21 5) (w.extractLsb' 0 16))

/-- The row of major 0x9 that the function fields select, with its fields (R17). -/
def candidate09 (w : Word32) : Option Instr :=
  some (.insh (w.extractLsb' 21 5) (w.extractLsb' 16 5) (w.extractLsb' 0 16))

/-- The row of major 0xa that the function fields select, with its fields (R17). -/
def candidate0A (w : Word32) : Option Instr :=
  match (w.extractLsb' 8 8).toNat with
  | 0 => some (.slli (w.extractLsb' 21 5) (w.extractLsb' 16 5) (w.extractLsb' 0 6))
  | 1 => some (.srli (w.extractLsb' 21 5) (w.extractLsb' 16 5) (w.extractLsb' 0 6))
  | 2 => some (.srai (w.extractLsb' 21 5) (w.extractLsb' 16 5) (w.extractLsb' 0 6))
  | _ => none

/-- The row of major 0xb that the function fields select, with its fields (R17). -/
def candidate0B (w : Word32) : Option Instr :=
  match (w.extractLsb' 15 1).toNat with
  | 0 => some (.bfxu (w.extractLsb' 21 5) (w.extractLsb' 16 5) (w.extractLsb' 6 6) (w.extractLsb' 0 6))
  | 1 => some (.bfxs (w.extractLsb' 21 5) (w.extractLsb' 16 5) (w.extractLsb' 6 6) (w.extractLsb' 0 6))
  | _ => none

/-- The row of major 0xc that the function fields select, with its fields (R17). -/
def candidate0C (w : Word32) : Option Instr :=
  some (.bfi (w.extractLsb' 21 5) (w.extractLsb' 16 5) (w.extractLsb' 6 6) (w.extractLsb' 0 6))

/-- The row of major 0xd that the function fields select, with its fields (R17). -/
def candidate0D (w : Word32) : Option Instr :=
  some (.addpc (w.extractLsb' 21 5) (w.extractLsb' 0 21))

/-- The row of major 0xe that the function fields select, with its fields (R17). -/
def candidate0E (w : Word32) : Option Instr :=
  some (.beq (w.extractLsb' 21 5) (w.extractLsb' 16 5) (w.extractLsb' 0 16))

/-- The row of major 0xf that the function fields select, with its fields (R17). -/
def candidate0F (w : Word32) : Option Instr :=
  some (.bne (w.extractLsb' 21 5) (w.extractLsb' 16 5) (w.extractLsb' 0 16))

/-- The row of major 0x10 that the function fields select, with its fields (R17). -/
def candidate10 (w : Word32) : Option Instr :=
  some (.blt (w.extractLsb' 21 5) (w.extractLsb' 16 5) (w.extractLsb' 0 16))

/-- The row of major 0x11 that the function fields select, with its fields (R17). -/
def candidate11 (w : Word32) : Option Instr :=
  some (.bge (w.extractLsb' 21 5) (w.extractLsb' 16 5) (w.extractLsb' 0 16))

/-- The row of major 0x12 that the function fields select, with its fields (R17). -/
def candidate12 (w : Word32) : Option Instr :=
  some (.bltu (w.extractLsb' 21 5) (w.extractLsb' 16 5) (w.extractLsb' 0 16))

/-- The row of major 0x13 that the function fields select, with its fields (R17). -/
def candidate13 (w : Word32) : Option Instr :=
  some (.bgeu (w.extractLsb' 21 5) (w.extractLsb' 16 5) (w.extractLsb' 0 16))

/-- The row of major 0x14 that the function fields select, with its fields (R17). -/
def candidate14 (w : Word32) : Option Instr :=
  some (.j (w.extractLsb' 0 26))

/-- The row of major 0x15 that the function fields select, with its fields (R17). -/
def candidate15 (w : Word32) : Option Instr :=
  some (.jal (w.extractLsb' 0 26))

/-- The row of major 0x16 that the function fields select, with its fields (R17). -/
def candidate16 (w : Word32) : Option Instr :=
  match (w.extractLsb' 0 11).toNat with
  | 0 => some (.jr (w.extractLsb' 16 5))
  | 1 => some (.jalr (w.extractLsb' 21 5) (w.extractLsb' 16 5))
  | _ => none

/-- The row of major 0x17 that the function fields select, with its fields (R17). -/
def candidate17 (w : Word32) : Option Instr :=
  some (.loop (w.extractLsb' 21 5) (w.extractLsb' 0 16))

/-- The row of major 0x18 that the function fields select, with its fields (R17). -/
def candidate18 (w : Word32) : Option Instr :=
  some (.ld (w.extractLsb' 21 5) (w.extractLsb' 16 5) (w.extractLsb' 14 2) (w.extractLsb' 0 14))

/-- The row of major 0x19 that the function fields select, with its fields (R17). -/
def candidate19 (w : Word32) : Option Instr :=
  some (.ldu (w.extractLsb' 21 5) (w.extractLsb' 16 5) (w.extractLsb' 14 2) (w.extractLsb' 0 14))

/-- The row of major 0x1a that the function fields select, with its fields (R17). -/
def candidate1A (w : Word32) : Option Instr :=
  some (.st (w.extractLsb' 21 5) (w.extractLsb' 16 5) (w.extractLsb' 14 2) (w.extractLsb' 0 14))

/-- The row of major 0x1b that the function fields select, with its fields (R17). -/
def candidate1B (w : Word32) : Option Instr :=
  some (.ldl (w.extractLsb' 21 5) (w.extractLsb' 16 5) (w.extractLsb' 14 2) (w.extractLsb' 0 14))

/-- The row of major 0x1c that the function fields select, with its fields (R17). -/
def candidate1C (w : Word32) : Option Instr :=
  match (w.extractLsb' 0 8).toNat with
  | 0 => some (.vadd (w.extractLsb' 21 5) (w.extractLsb' 16 5) (w.extractLsb' 11 5) (w.extractLsb' 8 3))
  | 1 => some (.vsub (w.extractLsb' 21 5) (w.extractLsb' 16 5) (w.extractLsb' 11 5) (w.extractLsb' 8 3))
  | 2 => some (.vmul (w.extractLsb' 21 5) (w.extractLsb' 16 5) (w.extractLsb' 11 5) (w.extractLsb' 8 3))
  | 3 => some (.vdiv (w.extractLsb' 21 5) (w.extractLsb' 16 5) (w.extractLsb' 11 5) (w.extractLsb' 8 3))
  | 4 => some (.vmin (w.extractLsb' 21 5) (w.extractLsb' 16 5) (w.extractLsb' 11 5) (w.extractLsb' 8 3))
  | 5 => some (.vmax (w.extractLsb' 21 5) (w.extractLsb' 16 5) (w.extractLsb' 11 5) (w.extractLsb' 8 3))
  | 6 => some (.vabs (w.extractLsb' 21 5) (w.extractLsb' 16 5) (w.extractLsb' 8 3))
  | 7 => some (.vneg (w.extractLsb' 21 5) (w.extractLsb' 16 5) (w.extractLsb' 8 3))
  | 8 => some (.vsqrt (w.extractLsb' 21 5) (w.extractLsb' 16 5) (w.extractLsb' 8 3))
  | 9 => some (.vrcp (w.extractLsb' 21 5) (w.extractLsb' 16 5) (w.extractLsb' 8 3))
  | 10 => some (.vrsq (w.extractLsb' 21 5) (w.extractLsb' 16 5) (w.extractLsb' 8 3))
  | 11 => some (.vexp2 (w.extractLsb' 21 5) (w.extractLsb' 16 5) (w.extractLsb' 8 3))
  | 12 => some (.vlog2 (w.extractLsb' 21 5) (w.extractLsb' 16 5) (w.extractLsb' 8 3))
  | 13 => some (.vadds (w.extractLsb' 21 5) (w.extractLsb' 16 5) (w.extractLsb' 11 5) (w.extractLsb' 8 3))
  | 14 => some (.vsubs (w.extractLsb' 21 5) (w.extractLsb' 16 5) (w.extractLsb' 11 5) (w.extractLsb' 8 3))
  | 15 => some (.vmulh (w.extractLsb' 21 5) (w.extractLsb' 16 5) (w.extractLsb' 11 5) (w.extractLsb' 8 3))
  | 16 => some (.vand (w.extractLsb' 21 5) (w.extractLsb' 16 5) (w.extractLsb' 11 5) (w.extractLsb' 8 3))
  | 17 => some (.vor (w.extractLsb' 21 5) (w.extractLsb' 16 5) (w.extractLsb' 11 5) (w.extractLsb' 8 3))
  | 18 => some (.vxor (w.extractLsb' 21 5) (w.extractLsb' 16 5) (w.extractLsb' 11 5) (w.extractLsb' 8 3))
  | 19 => some (.vsll (w.extractLsb' 21 5) (w.extractLsb' 16 5) (w.extractLsb' 11 5) (w.extractLsb' 8 3))
  | 20 => some (.vsrl (w.extractLsb' 21 5) (w.extractLsb' 16 5) (w.extractLsb' 11 5) (w.extractLsb' 8 3))
  | 21 => some (.vsra (w.extractLsb' 21 5) (w.extractLsb' 16 5) (w.extractLsb' 11 5) (w.extractLsb' 8 3))
  | 22 => some (.vmov (w.extractLsb' 21 5) (w.extractLsb' 16 5) (w.extractLsb' 8 3))
  | _ => none

/-- The row of major 0x1d that the function fields select, with its fields (R17). -/
def candidate1D (w : Word32) : Option Instr :=
  match (w.extractLsb' 0 3).toNat with
  | 0 => some (.vfma (w.extractLsb' 21 5) (w.extractLsb' 16 5) (w.extractLsb' 11 5) (w.extractLsb' 8 3) (w.extractLsb' 3 5))
  | 1 => some (.vfms (w.extractLsb' 21 5) (w.extractLsb' 16 5) (w.extractLsb' 11 5) (w.extractLsb' 8 3) (w.extractLsb' 3 5))
  | 2 => some (.vfnma (w.extractLsb' 21 5) (w.extractLsb' 16 5) (w.extractLsb' 11 5) (w.extractLsb' 8 3) (w.extractLsb' 3 5))
  | 3 => some (.vfnms (w.extractLsb' 21 5) (w.extractLsb' 16 5) (w.extractLsb' 11 5) (w.extractLsb' 8 3) (w.extractLsb' 3 5))
  | 4 => some (.vdot4 (w.extractLsb' 21 5) (w.extractLsb' 16 5) (w.extractLsb' 11 5) (w.extractLsb' 8 3) (w.extractLsb' 3 5))
  | 5 => some (.vdot2 (w.extractLsb' 21 5) (w.extractLsb' 16 5) (w.extractLsb' 11 5) (w.extractLsb' 8 3) (w.extractLsb' 3 5))
  | _ => none

/-- The row of major 0x1e that the function fields select, with its fields (R17). -/
def candidate1E (w : Word32) : Option Instr :=
  some (.vcmp (w.extractLsb' 21 3) (w.extractLsb' 16 5) (w.extractLsb' 11 5) (w.extractLsb' 8 3) (w.extractLsb' 0 3))

/-- The row of major 0x1f that the function fields select, with its fields (R17). -/
def candidate1F (w : Word32) : Option Instr :=
  match (w.extractLsb' 0 8).toNat with
  | 0 => some (.vperm (w.extractLsb' 21 5) (w.extractLsb' 16 5) (w.extractLsb' 11 5) (w.extractLsb' 8 3))
  | 1 => some (.vslup (w.extractLsb' 21 5) (w.extractLsb' 16 5) (w.extractLsb' 11 5) (w.extractLsb' 8 3))
  | 2 => some (.vsldn (w.extractLsb' 21 5) (w.extractLsb' 16 5) (w.extractLsb' 11 5) (w.extractLsb' 8 3))
  | 3 => some (.vbcast (w.extractLsb' 21 5) (w.extractLsb' 16 5) (w.extractLsb' 11 5) (w.extractLsb' 8 3))
  | 4 => some (.vext (w.extractLsb' 21 5) (w.extractLsb' 16 5) (w.extractLsb' 11 5))
  | 5 => some (.vins (w.extractLsb' 21 5) (w.extractLsb' 16 5) (w.extractLsb' 11 5))
  | 6 => some (.vsel (w.extractLsb' 21 5) (w.extractLsb' 16 5) (w.extractLsb' 11 5) (w.extractLsb' 8 3))
  | 7 => some (.vredsum (w.extractLsb' 21 5) (w.extractLsb' 16 5) (w.extractLsb' 8 3))
  | 8 => some (.vredmax (w.extractLsb' 21 5) (w.extractLsb' 16 5) (w.extractLsb' 8 3))
  | 9 => some (.vredmin (w.extractLsb' 21 5) (w.extractLsb' 16 5) (w.extractLsb' 8 3))
  | 10 => some (.vzip (w.extractLsb' 21 5) (w.extractLsb' 16 5) (w.extractLsb' 11 5) (w.extractLsb' 8 3))
  | 11 => some (.vunzip (w.extractLsb' 21 5) (w.extractLsb' 16 5) (w.extractLsb' 11 5) (w.extractLsb' 8 3))
  | 12 => some (.vcmprs (w.extractLsb' 21 5) (w.extractLsb' 16 5) (w.extractLsb' 8 3))
  | _ => none

/-- The row of major 0x20 that the function fields select, with its fields (R17). -/
def candidate20 (w : Word32) : Option Instr :=
  match (w.extractLsb' 0 4).toNat with
  | 0 => some (.vcvt (w.extractLsb' 21 5) (w.extractLsb' 16 5) (w.extractLsb' 11 5) (w.extractLsb' 8 3) (w.extractLsb' 5 3) (w.extractLsb' 4 1))
  | 1 => some (.vcvth (w.extractLsb' 21 5) (w.extractLsb' 16 5) (w.extractLsb' 11 5) (w.extractLsb' 8 3) (w.extractLsb' 5 3) (w.extractLsb' 4 1))
  | 2 => some (.vtag (w.extractLsb' 21 5) (w.extractLsb' 16 5) (w.extractLsb' 11 5))
  | 3 => some (.vtchk (w.extractLsb' 16 5) (w.extractLsb' 11 5))
  | 4 => some (.vshrn8 (w.extractLsb' 21 5) (w.extractLsb' 16 5) (w.extractLsb' 11 5) (w.extractLsb' 8 3) (w.extractLsb' 5 3) (w.extractLsb' 4 1))
  | 5 => some (.vshrn16 (w.extractLsb' 21 5) (w.extractLsb' 16 5) (w.extractLsb' 11 5) (w.extractLsb' 8 3) (w.extractLsb' 5 3) (w.extractLsb' 4 1))
  | _ => none

/-- The row of major 0x21 that the function fields select, with its fields (R17). -/
def candidate21 (w : Word32) : Option Instr :=
  match (w.extractLsb' 0 11).toNat with
  | 0 => some (.kand (w.extractLsb' 21 3) (w.extractLsb' 16 3) (w.extractLsb' 11 3))
  | 1 => some (.kor (w.extractLsb' 21 3) (w.extractLsb' 16 3) (w.extractLsb' 11 3))
  | 2 => some (.kxor (w.extractLsb' 21 3) (w.extractLsb' 16 3) (w.extractLsb' 11 3))
  | 3 => some (.kandn (w.extractLsb' 21 3) (w.extractLsb' 16 3) (w.extractLsb' 11 3))
  | 4 =>
    match (w.extractLsb' 11 5).toNat with
    | 0 => some (.kmovlToMask (w.extractLsb' 21 3) (w.extractLsb' 16 5))
    | 1 => some (.kmovlFromMask (w.extractLsb' 21 5) (w.extractLsb' 16 3))
    | _ => none
  | 5 =>
    match (w.extractLsb' 11 5).toNat with
    | 0 => some (.kmovhToMask (w.extractLsb' 21 3) (w.extractLsb' 16 5))
    | 1 => some (.kmovhFromMask (w.extractLsb' 21 5) (w.extractLsb' 16 3))
    | _ => none
  | 6 => some (.kpopc (w.extractLsb' 21 5) (w.extractLsb' 16 3))
  | 7 => some (.kfirst (w.extractLsb' 21 5) (w.extractLsb' 16 3))
  | _ => none

/-- The row of major 0x22 that the function fields select, with its fields (R17). -/
def candidate22 (w : Word32) : Option Instr :=
  match (w.extractLsb' 0 11).toNat with
  | 0 => some (.cbld (w.extractLsb' 21 2) (w.extractLsb' 16 5))
  | 1 => some (.cbrd (w.extractLsb' 21 5) (w.extractLsb' 16 2))
  | _ => none

/-- The row of major 0x23 that the function fields select, with its fields (R17). -/
def candidate23 (w : Word32) : Option Instr :=
  match (w.extractLsb' 0 4).toNat with
  | 0 => some (.fadd (w.extractLsb' 21 5) (w.extractLsb' 16 5) (w.extractLsb' 11 5) (w.extractLsb' 4 3))
  | 1 => some (.fsub (w.extractLsb' 21 5) (w.extractLsb' 16 5) (w.extractLsb' 11 5) (w.extractLsb' 4 3))
  | 2 => some (.fmul (w.extractLsb' 21 5) (w.extractLsb' 16 5) (w.extractLsb' 11 5) (w.extractLsb' 4 3))
  | 3 => some (.fdiv (w.extractLsb' 21 5) (w.extractLsb' 16 5) (w.extractLsb' 11 5) (w.extractLsb' 4 3))
  | 4 => some (.fmin (w.extractLsb' 21 5) (w.extractLsb' 16 5) (w.extractLsb' 11 5))
  | 5 => some (.fmax (w.extractLsb' 21 5) (w.extractLsb' 16 5) (w.extractLsb' 11 5))
  | 6 => some (.fsqrt (w.extractLsb' 21 5) (w.extractLsb' 16 5) (w.extractLsb' 4 3))
  | 7 => some (.feq (w.extractLsb' 21 5) (w.extractLsb' 16 5) (w.extractLsb' 11 5))
  | 8 => some (.flt (w.extractLsb' 21 5) (w.extractLsb' 16 5) (w.extractLsb' 11 5))
  | 9 => some (.fle (w.extractLsb' 21 5) (w.extractLsb' 16 5) (w.extractLsb' 11 5))
  | 10 => some (.fcvt (w.extractLsb' 21 5) (w.extractLsb' 16 5) (w.extractLsb' 7 4) (w.extractLsb' 4 3))
  | 11 => some (.fma (w.extractLsb' 21 5) (w.extractLsb' 16 5) (w.extractLsb' 11 5) (w.extractLsb' 4 3))
  | _ => none

/-- The row of major 0x24 that the function fields select, with its fields (R17). -/
def candidate24 (w : Word32) : Option Instr :=
  some (.vld (w.extractLsb' 21 5) (w.extractLsb' 16 5) (w.extractLsb' 11 5) (w.extractLsb' 8 3) (w.extractLsb' 0 8))

/-- The row of major 0x25 that the function fields select, with its fields (R17). -/
def candidate25 (w : Word32) : Option Instr :=
  some (.vst (w.extractLsb' 21 5) (w.extractLsb' 16 5) (w.extractLsb' 11 5) (w.extractLsb' 8 3) (w.extractLsb' 0 8))

/-- The row of major 0x26 that the function fields select, with its fields (R17). -/
def candidate26 (w : Word32) : Option Instr :=
  match (w.extractLsb' 0 3).toNat with
  | 0 => some (.vlds (w.extractLsb' 21 5) (w.extractLsb' 16 5) (w.extractLsb' 11 5) (w.extractLsb' 8 3) (w.extractLsb' 3 5))
  | 1 => some (.vsts (w.extractLsb' 21 5) (w.extractLsb' 16 5) (w.extractLsb' 11 5) (w.extractLsb' 8 3) (w.extractLsb' 3 5))
  | 2 => some (.vldx (w.extractLsb' 21 5) (w.extractLsb' 16 5) (w.extractLsb' 11 5) (w.extractLsb' 8 3) (w.extractLsb' 3 5))
  | 3 => some (.vstx (w.extractLsb' 21 5) (w.extractLsb' 16 5) (w.extractLsb' 11 5) (w.extractLsb' 8 3) (w.extractLsb' 3 5))
  | 4 => some (.vldb (w.extractLsb' 21 5) (w.extractLsb' 16 5) (w.extractLsb' 8 3) (w.extractLsb' 3 5))
  | _ => none

/-- The row of major 0x27 that the function fields select, with its fields (R17). -/
def candidate27 (w : Word32) : Option Instr :=
  match (w.extractLsb' 0 11).toNat with
  | 0 => some (.spillm (w.extractLsb' 21 5) (w.extractLsb' 16 5) (w.extractLsb' 11 5))
  | 1 => some (.fillm (w.extractLsb' 21 5) (w.extractLsb' 16 5) (w.extractLsb' 11 5))
  | 2 => some (.vspill (w.extractLsb' 21 5) (w.extractLsb' 16 5) (w.extractLsb' 11 5))
  | 3 => some (.vfill (w.extractLsb' 21 5) (w.extractLsb' 16 5) (w.extractLsb' 11 5))
  | 4 => some (.frame (w.extractLsb' 16 5))
  | 5 => some (.unframe)
  | 6 => some (.wprd (w.extractLsb' 21 5) (w.extractLsb' 16 5))
  | 7 => some (.wpwait (w.extractLsb' 16 5) (w.extractLsb' 11 5))
  | _ => none

/-- The row of major 0x28 that the function fields select, with its fields (R17). -/
def candidate28 (w v : Word32) : Option Instr :=
  match (w.extractLsb' 0 11).toNat with
  | 0 => some (.cpy (w.extractLsb' 16 5) (w.extractLsb' 11 5) (v.extractLsb' 0 8))
  | 1 => some (.cpym (w.extractLsb' 16 5) (w.extractLsb' 11 5) (v.extractLsb' 0 8))
  | 2 => some (.cpyq (w.extractLsb' 16 5) (w.extractLsb' 11 5) (v.extractLsb' 8 4) (v.extractLsb' 0 8))
  | 3 => some (.mtcfg (w.extractLsb' 16 5) (w.extractLsb' 11 5))
  | _ => none

/-- The row of major 0x29 that the function fields select, with its fields: the atomic forms (R17, R192). -/
def candidate29 (w : Word32) : Option Instr :=
  match (w.extractLsb' 0 4).toNat with
  | 0 => some (.amo (w.extractLsb' 21 5) (w.extractLsb' 16 5) (w.extractLsb' 11 5) (w.extractLsb' 8 2) (w.extractLsb' 4 4))
  | 1 => some (.amocas (w.extractLsb' 21 5) (w.extractLsb' 16 5) (w.extractLsb' 11 5) (w.extractLsb' 8 2))
  | 2 => some (.amof (w.extractLsb' 21 5) (w.extractLsb' 16 5) (w.extractLsb' 11 5) (w.extractLsb' 4 4))
  | 3 => some (.red (w.extractLsb' 16 5) (w.extractLsb' 11 5) (w.extractLsb' 8 2) (w.extractLsb' 4 4))
  | _ => none

/-- The row of major 0x2a that the function fields select, with its fields (R17). -/
def candidate2A (w : Word32) : Option Instr :=
  match (w.extractLsb' 0 4).toNat with
  | 0 => some (.fence (w.extractLsb' 4 4))
  | 1 => some (.waita (w.extractLsb' 21 5) (w.extractLsb' 16 5) (w.extractLsb' 11 5) (w.extractLsb' 4 4))
  | 2 => some (.pref (w.extractLsb' 16 5) (w.extractLsb' 4 4))
  | 3 => some (.get (w.extractLsb' 16 5) (w.extractLsb' 11 5) (w.extractLsb' 4 4))
  | 4 => some (.put (w.extractLsb' 16 5) (w.extractLsb' 11 5) (w.extractLsb' 4 4))
  | _ => none

/-- The row of major 0x2b that the function fields select, with its fields (R17). -/
def candidate2B (w : Word32) : Option Instr :=
  match (w.extractLsb' 0 4).toNat with
  | 0 => some (.arrive (w.extractLsb' 4 2))
  | 1 => some (.wait (w.extractLsb' 4 2))
  | 2 => some (.btest (w.extractLsb' 21 5) (w.extractLsb' 4 2))
  | 3 => some (.bmem (w.extractLsb' 16 5))
  | 4 => some (.phase (w.extractLsb' 4 2))
  | 5 => some (.domain (w.extractLsb' 16 5) (w.extractLsb' 4 2))
  | _ => none

/-- The row of major 0x2c that the function fields select, with its fields (R17). -/
def candidate2C (w v : Word32) : Option Instr :=
  match (w.extractLsb' 0 11).toNat with
  | 0 => some (.mma (w.extractLsb' 21 5) (w.extractLsb' 16 5) (w.extractLsb' 11 5) (v.extractLsb' 22 4) (v.extractLsb' 15 7) (v.extractLsb' 11 4) (v.extractLsb' 7 4) (v.extractLsb' 6 1) (v.extractLsb' 5 1) (v.extractLsb' 3 2) (v.extractLsb' 0 3))
  | 1 => some (.mmac (w.extractLsb' 21 5) (w.extractLsb' 16 4) (w.extractLsb' 11 5) (v.extractLsb' 22 4) (v.extractLsb' 15 7) (v.extractLsb' 11 4) (v.extractLsb' 7 4) (v.extractLsb' 6 1) (v.extractLsb' 5 1) (v.extractLsb' 3 2) (v.extractLsb' 0 3))
  | 2 => some (.mzero (v.extractLsb' 22 4) (v.extractLsb' 18 4))
  | 3 => some (.mrd (w.extractLsb' 21 5) (w.extractLsb' 16 5) (v.extractLsb' 22 4) (v.extractLsb' 16 6) (v.extractLsb' 15 1) (v.extractLsb' 10 5) (v.extractLsb' 9 1) (v.extractLsb' 8 1) (v.extractLsb' 6 2) (v.extractLsb' 3 3))
  | 4 => some (.mwr (w.extractLsb' 16 5) (v.extractLsb' 22 4) (v.extractLsb' 16 6) (v.extractLsb' 15 1))
  | 5 => some (.mscl (w.extractLsb' 16 5) (v.extractLsb' 17 9) (v.extractLsb' 8 9))
  | 6 => some (.mwait (w.extractLsb' 21 5))
  | 7 => some (.mlic (w.extractLsb' 21 5) (v.extractLsb' 0 1))
  | 8 => some (.mrel)
  | _ => none

/-- The row of major 0x2d that the function fields select, with its fields (R17). -/
def candidate2D (w : Word32) : Option Instr :=
  match (w.extractLsb' 0 11).toNat with
  | 0 => some (.twx (w.extractLsb' 21 5))
  | 1 => some (.hrd (w.extractLsb' 21 5) (w.extractLsb' 16 3))
  | 2 => some (.hwr (w.extractLsb' 21 3) (w.extractLsb' 16 5))
  | _ => none

/-- The row of major 0x2e that the function fields select, with its fields (R17). -/
def candidate2E (w v : Word32) : Option Instr :=
  match (w.extractLsb' 0 11).toNat with
  | 0 => some (.spld (w.extractLsb' 16 5) (v.extractLsb' 13 13) (v.extractLsb' 4 9))
  | 1 => some (.spst (w.extractLsb' 16 5) (v.extractLsb' 13 13) (v.extractLsb' 4 9))
  | 2 => some (.spup (w.extractLsb' 21 5) (w.extractLsb' 16 5) (w.extractLsb' 11 5) (v.extractLsb' 12 14) (v.extractLsb' 4 8) (v.extractLsb' 0 1))
  | 3 => some (.spdn (w.extractLsb' 21 5) (w.extractLsb' 16 5) (w.extractLsb' 11 5) (v.extractLsb' 12 14) (v.extractLsb' 4 8) (v.extractLsb' 0 1))
  | 4 => some (.spmode (v.extractLsb' 0 2))
  | 5 => some (.spnrm (w.extractLsb' 16 5) (v.extractLsb' 13 13) (v.extractLsb' 4 9))
  | 6 => some (.spwait (w.extractLsb' 21 5))
  | _ => none

/-- The row of major 0x2f that the function fields select, with its fields (R17). -/
def candidate2F (w : Word32) : Option Instr :=
  match (w.extractLsb' 0 11).toNat with
  | 0 => some (.migr (w.extractLsb' 21 5) (w.extractLsb' 16 5) (w.extractLsb' 11 5))
  | 1 => some (.heat (w.extractLsb' 21 5) (w.extractLsb' 16 5))
  | 2 => some (.tqry (w.extractLsb' 21 5) (w.extractLsb' 16 5))
  | _ => none

/-- The row of major 0x30 that the function fields select, with its fields (R17). -/
def candidate30 (w : Word32) : Option Instr :=
  match (w.extractLsb' 0 4).toNat with
  | 0 => some (.mfs (w.extractLsb' 21 5) (w.extractLsb' 4 12))
  | 1 => some (.mts (w.extractLsb' 16 5) (w.extractLsb' 4 12))
  | 2 => some (.trap (w.extractLsb' 4 12))
  | 3 => some (.eret)
  | 4 =>
    match (w.extractLsb' 4 1).toNat with
    | 0 => some (.halt)
    | 1 => some (.haltRetain (w.extractLsb' 16 5))
    | _ => none
  | 5 => some (.rope (w.extractLsb' 21 5) (w.extractLsb' 4 4))
  | 6 => some (.split)
  | 7 => some (.cairn (w.extractLsb' 4 12))
  | 8 => some (.yield (w.extractLsb' 4 12))
  | 9 => some (.mbxrd (w.extractLsb' 21 5) (w.extractLsb' 4 1))
  | 10 =>
    match (w.extractLsb' 4 1).toNat with
    | 0 => some (.mbxwrRetry (w.extractLsb' 16 5))
    | 1 => some (.mbxwrRefuse (w.extractLsb' 16 5))
    | _ => none
  | 11 =>
    match (w.extractLsb' 14 2).toNat with
    | 0 => some (.rltokRange (w.extractLsb' 21 5) (w.extractLsb' 16 5) (w.extractLsb' 13 1) (w.extractLsb' 4 6))
    | 1 => some (.rltokFunc (w.extractLsb' 21 5) (w.extractLsb' 16 5) (w.extractLsb' 13 1))
    | 2 => some (.rltokPart (w.extractLsb' 21 5))
    | _ => none
  | 12 =>
    match (w.extractLsb' 4 3).toNat with
    | 0 => some (.launchInstall (w.extractLsb' 21 5) (w.extractLsb' 16 5))
    | 1 => some (.launchPacket (w.extractLsb' 21 5) (w.extractLsb' 16 5))
    | 2 => some (.launchPreempt (w.extractLsb' 21 5) (w.extractLsb' 16 5))
    | 3 => some (.launchAbort (w.extractLsb' 21 5) (w.extractLsb' 16 5))
    | 4 => some (.launchUnretain (w.extractLsb' 21 5) (w.extractLsb' 16 5))
    | _ => none
  | _ => none

/-- The row of major 0x31 that the function fields select, with its fields (R17). -/
def candidate31 (w : Word32) : Option Instr :=
  match (w.extractLsb' 0 11).toNat with
  | 0 => some (.pstat (w.extractLsb' 21 5))
  | 1 => some (.ptry (w.extractLsb' 21 5) (w.extractLsb' 16 5) (w.extractLsb' 11 5))
  | 2 => some (.dsend (w.extractLsb' 16 5) (w.extractLsb' 11 5))
  | 3 => some (.drecv (w.extractLsb' 21 5) (w.extractLsb' 16 5))
  | _ => none

/-- The row that the words' major and function select, before any operand is checked (R17). -/
def candidate (w v : Word32) : Option Instr :=
  match (w.extractLsb' 26 6).toNat with
  | 0x1 => candidate01 w
  | 0x2 => candidate02 w
  | 0x3 => candidate03 w
  | 0x4 => candidate04 w
  | 0x5 => candidate05 w
  | 0x6 => candidate06 w
  | 0x7 => candidate07 w
  | 0x8 => candidate08 w
  | 0x9 => candidate09 w
  | 0xa => candidate0A w
  | 0xb => candidate0B w
  | 0xc => candidate0C w
  | 0xd => candidate0D w
  | 0xe => candidate0E w
  | 0xf => candidate0F w
  | 0x10 => candidate10 w
  | 0x11 => candidate11 w
  | 0x12 => candidate12 w
  | 0x13 => candidate13 w
  | 0x14 => candidate14 w
  | 0x15 => candidate15 w
  | 0x16 => candidate16 w
  | 0x17 => candidate17 w
  | 0x18 => candidate18 w
  | 0x19 => candidate19 w
  | 0x1a => candidate1A w
  | 0x1b => candidate1B w
  | 0x1c => candidate1C w
  | 0x1d => candidate1D w
  | 0x1e => candidate1E w
  | 0x1f => candidate1F w
  | 0x20 => candidate20 w
  | 0x21 => candidate21 w
  | 0x22 => candidate22 w
  | 0x23 => candidate23 w
  | 0x24 => candidate24 w
  | 0x25 => candidate25 w
  | 0x26 => candidate26 w
  | 0x27 => candidate27 w
  | 0x28 => candidate28 w v
  | 0x29 => candidate29 w
  | 0x2a => candidate2A w
  | 0x2b => candidate2B w
  | 0x2c => candidate2C w v
  | 0x2d => candidate2D w
  | 0x2e => candidate2E w v
  | 0x2f => candidate2F w
  | 0x30 => candidate30 w
  | 0x31 => candidate31 w
  | _ => none

/-- The instruction whose first word is w and, for a 64-bit form, whose second is v (R24). -/
def decodeWords (w v : Word32) : Except Reject Instr :=
  match candidate w v with
  | none => .error .reserved
  | some i =>
    if wellFormed i then
      if encode i = (if isLong w then [w, v] else [w]) then .ok i else .error .mustBeZero
    else .error .excluded

/-- The little-endian word that four bytes spell (R5). -/
def wordOfBytes (b0 b1 b2 b3 : Byte) : Word32 := b3 ++ b2 ++ b1 ++ b0

/-- The four bytes of a word, lowest address first (R5). -/
def bytesOfWord (w : Word32) : List Byte :=
  [w.extractLsb' 0 8, w.extractLsb' 8 8, w.extractLsb' 16 8, w.extractLsb' 24 8]

/-- Decodes the instruction at the front of a list of bytes; what follows it is left over. -/
def decode : List Byte → Except Reject (Instr × List Byte)
  | b0 :: b1 :: b2 :: b3 :: rest =>
    let w := wordOfBytes b0 b1 b2 b3
    if isLong w then
      match rest with
      | c0 :: c1 :: c2 :: c3 :: rest2 =>
        match decodeWords w (wordOfBytes c0 c1 c2 c3) with
        | .ok i => .ok (i, rest2)
        | .error e => .error e
      | _ => .error .truncated
    else
      match decodeWords w 0 with
      | .ok i => .ok (i, rest)
      | .error e => .error e
  | _ => .error .truncated

/-- The bytes of an instruction. -/
def encodeBytes (i : Instr) : List Byte := (encode i).flatMap bytesOfWord

/-- The two words of an instruction whose bits the opcode table numbers from the first word's bit 0; every bit from nbits
up is zero. -/
def tableWords (nbits w : Nat) : Word32 × Word32 :=
  let x := w % 2 ^ nbits
  (BitVec.ofNat 32 x, BitVec.ofNat 32 (x / 2 ^ 32))

/-- What the decoder reads from an instruction whose bits are w, numbered as the opcode table numbers them. -/
def decodeTableWord (nbits w : Nat) : Option Instr :=
  let p := tableWords nbits w
  match decode (bytesOfWord p.1 ++ bytesOfWord p.2) with
  | .ok r => some r.1
  | .error _ => none

end Sys2Proof
end

