-- ==== Sys2Proof/Machine/Bits.lean ====
section
/-! DEFINITION. Bit fields, extension, lists of lanes and bytes, and the sparse map: the helpers every meaning is built from
(R5, R7). -/
namespace Sys2Proof.Machine

/-! ### The sparse map -/

/-- What the map holds under a key. -/
def amFind {α : Type} : AMap α → Nat → Option α
  | [], _ => none
  | (k, v) :: t, x => if k = x then some v else amFind t x

/-- The map with one key written; keys stay in rising order. -/
def amInsert {α : Type} : AMap α → Nat → α → AMap α
  | [], x, a => [(x, a)]
  | (k, v) :: t, x, a =>
    if x < k then (x, a) :: (k, v) :: t
    else if x = k then (x, a) :: t
    else (k, v) :: amInsert t x a

/-- The map without a key. -/
def amErase {α : Type} : AMap α → Nat → AMap α
  | [], _ => []
  | (k, v) :: t, x => if k = x then amErase t x else (k, v) :: amErase t x

/-- What the map holds under a key, or the default of that map. -/
def amGet {α : Type} (m : AMap α) (x : Nat) (d : α) : α :=
  match amFind m x with
  | some a => a
  | none => d

/-- The map with one key written, where the default is not listed. -/
def amPut {α : Type} [DecidableEq α] (d : α) (m : AMap α) (x : Nat) (a : α) : AMap α :=
  if a = d then amErase m x else amInsert m x a

/-- The map with one entry changed by a function; an absent entry starts from the default. -/
def amUpdate {α : Type} (m : AMap α) (x : Nat) (d : α) (f : α → α) : AMap α :=
  amInsert m x (f (amGet m x d))

/-! ### Fields and numbers -/

/-- Bits [hi:lo] of a number (R5). -/
def bitsOf (x hi lo : Nat) : Nat := (x >>> lo) % 2 ^ (hi + 1 - lo)

/-- Bit i of a number. -/
def bitOf (x i : Nat) : Bool := x.testBit i

/-- Bits [hi:lo] of a word (R5). -/
def fieldOf {w : Nat} (x : BitVec w) (hi lo : Nat) : Nat := bitsOf x.toNat hi lo

/-- x with bits [hi:lo] replaced by v. -/
def setBits (x hi lo v : Nat) : Nat :=
  x - (bitsOf x hi lo <<< lo) + ((v % 2 ^ (hi + 1 - lo)) <<< lo)

/-- A Boolean as a bit. -/
def bit (b : Bool) : Nat := if b then 1 else 0

/-- A Boolean as a word. -/
def boolWord (b : Bool) : Word := if b then 1#64 else 0#64

/-- The number that the low w bits of x spell in two's complement. -/
def toSigned (w x : Nat) : Int :=
  let y := x % 2 ^ w
  if y < 2 ^ (w - 1) then (y : Int) else (y : Int) - (2 ^ w : Nat)

/-- The low w bits of an integer, two's complement. -/
def ofInt (w : Nat) (z : Int) : Nat := (z % ((2 ^ w : Nat) : Int)).toNat

/-- sext(x, n) of R7 for a field of a word. -/
def sext64 {n : Nat} (x : BitVec n) : Word := x.signExtend 64

/-- zext(x, n) of R7 for a field of a word. -/
def zext64 {n : Nat} (x : BitVec n) : Word := x.setWidth 64

/-- An integer clamped between two ends. -/
def clampInt (lo hi z : Int) : Int := if z < lo then lo else if hi < z then hi else z

/-! ### Lanes and bytes -/

/-- Lane i of w bits of a number. -/
def lane (w x i : Nat) : Nat := (x >>> (w * i)) % 2 ^ w

/-- The first n lanes of w bits. -/
def lanes (w n x : Nat) : List Nat := (List.range n).map (lane w x)

/-- The number whose lanes of w bits are the list, first lane lowest. -/
def packLanes (w : Nat) : List Nat → Nat
  | [] => 0
  | x :: t => x % 2 ^ w + 2 ^ w * packLanes w t

/-- The n bytes of a number, little-endian (R5). -/
def toBytes (n x : Nat) : List Byte := (lanes 8 n x).map (BitVec.ofNat 8)

/-- The number that bytes spell, little-endian (R5). -/
def ofBytes (l : List Byte) : Nat := packLanes 8 (l.map BitVec.toNat)

/-- The word that bytes spell. -/
def wordOf (l : List Byte) : Word := BitVec.ofNat 64 (ofBytes l)

/-- The indexes of the one bits of a number below a bound, lowest first. -/
def onesBelow (n x : Nat) : List Nat := (List.range n).filter (fun i => x.testBit i)

/-- How many one bits a number has below a bound. -/
def popcount (n x : Nat) : Nat := (onesBelow n x).length

/-- The index of the lowest one bit below n, or n. -/
def firstOne (n x : Nat) : Nat := (onesBelow n x).headD n

/-- The index of the highest one bit of a number; 0 for 0. -/
def topBit (x : Nat) : Nat := x.log2

/-- Integer square root, one result bit per unit of fuel. -/
def isqrtAux (x : Nat) : Nat → Nat → Nat
  | 0, r => r
  | i + 1, r => isqrtAux x i (if (r + 2 ^ i) * (r + 2 ^ i) ≤ x then r + 2 ^ i else r)

/-- The floor of the square root. -/
def isqrt (x : Nat) : Nat := isqrtAux x (x.log2 / 2 + 1) 0

/-- The list with one position replaced. -/
def listSet {α : Type} : List α → Nat → α → List α
  | [], _, _ => []
  | _ :: t, 0, a => a :: t
  | h :: t, n + 1, a => h :: listSet t n a

/-- Is the number a multiple of another? -/
def multipleOf (n x : Nat) : Bool := x % n == 0

/-- The ceiling of a quotient. -/
def ceilDiv (a b : Nat) : Nat := (a + b - 1) / b

end Sys2Proof.Machine
end

