-- ==== Sys2Proof/Machine/Flags.lean ====
section
/-! DEFINITION. Rounding modes, the element formats, and every flag the arithmetic sets: rounding of an exact value to a
format with its NV, DZ, OF, UF and NX events (R42 to R54). -/
namespace Sys2Proof.Machine

/-- The five sticky events of R51. -/
structure FpFlags where
  nv : Bool := false
  dz : Bool := false
  of : Bool := false
  uf : Bool := false
  nx : Bool := false
  deriving DecidableEq, Repr

/-- No event. -/
def noFlags : FpFlags := {}
/-- Invalid alone. -/
def flagNV : FpFlags := { nv := true }
/-- Divide by zero alone. -/
def flagDZ : FpFlags := { dz := true }
/-- Inexact alone. -/
def flagNX : FpFlags := { nx := true }
/-- Overflow, which always comes with inexact (R51). -/
def flagOF : FpFlags := { of := true, nx := true }

/-- The events of either (R51: flags are ORed). -/
def flagsOr (a b : FpFlags) : FpFlags :=
  { nv := a.nv || b.nv, dz := a.dz || b.dz, of := a.of || b.of, uf := a.uf || b.uf, nx := a.nx || b.nx }

/-- The OR of a list of events. -/
def flagsAll : List FpFlags → FpFlags
  | [] => noFlags
  | f :: t => flagsOr f (flagsAll t)

/-- The rounding modes of R50. -/
inductive RMode where
  | rne | rtz | rup | rdn | rna
  deriving DecidableEq, Repr

/-- The mode that a code 0–4 names; 5 to 7 are no static mode. -/
def rmodeOf (n : Nat) : Option RMode :=
  match n with
  | 0 => some .rne
  | 1 => some .rtz
  | 2 => some .rup
  | 3 => some .rdn
  | 4 => some .rna
  | _ => none

/-- The mode of an rm field, code 7 being FPCTL.RM (R50). -/
def rmodeDyn (fpctlRm : Nat) (rm : Nat) : RMode :=
  match rmodeOf rm with
  | some m => m
  | none => (rmodeOf fpctlRm).getD .rne

/-! ### Formats -/

/-- The binary floating-point formats of R47. -/
inductive FFmt where
  | fp32 | fp16 | bf16 | e4m3 | e5m2 | e3m2 | e2m3 | e2m1
  deriving DecidableEq, Repr

/-- Exponent bits (R47). -/
def ffExpBits : FFmt → Nat
  | .fp32 => 8 | .fp16 => 5 | .bf16 => 8 | .e4m3 => 4 | .e5m2 => 5 | .e3m2 => 3 | .e2m3 => 2 | .e2m1 => 2

/-- Fraction bits F (R47). -/
def ffFracBits : FFmt → Nat
  | .fp32 => 23 | .fp16 => 10 | .bf16 => 7 | .e4m3 => 3 | .e5m2 => 2 | .e3m2 => 2 | .e2m3 => 3 | .e2m1 => 1

/-- Bias (R47). -/
def ffBias : FFmt → Nat
  | .fp32 => 127 | .fp16 => 15 | .bf16 => 127 | .e4m3 => 7 | .e5m2 => 15 | .e3m2 => 3 | .e2m3 => 1 | .e2m1 => 1

/-- Width in bits, sign included (R47). -/
def ffWidth (f : FFmt) : Nat := 1 + ffExpBits f + ffFracBits f

/-- Does the format have infinities (R47)? -/
def ffHasInf : FFmt → Bool
  | .fp32 | .fp16 | .bf16 | .e5m2 => true
  | .e4m3 | .e3m2 | .e2m3 | .e2m1 => false

/-- Does the format have a NaN (R47)? -/
def ffHasNaN : FFmt → Bool
  | .fp32 | .fp16 | .bf16 | .e5m2 | .e4m3 => true
  | .e3m2 | .e2m3 | .e2m1 => false

/-- The canonical quiet NaN (R48); unused where the format has none. -/
def ffNaN : FFmt → Nat
  | .fp32 => 0x7FC00000 | .fp16 => 0x7E00 | .bf16 => 0x7FC0 | .e4m3 => 0x7F | .e5m2 => 0x7E
  | .e3m2 => 0 | .e2m3 => 0 | .e2m1 => 0

/-- +Infinity (R48); unused where the format has none. -/
def ffInf : FFmt → Nat
  | .fp32 => 0x7F800000 | .fp16 => 0x7C00 | .bf16 => 0x7F80 | .e5m2 => 0x7C
  | .e4m3 => 0 | .e3m2 => 0 | .e2m3 => 0 | .e2m1 => 0

/-- +Max finite (R48). -/
def ffMax : FFmt → Nat
  | .fp32 => 0x7F7FFFFF | .fp16 => 0x7BFF | .bf16 => 0x7F7F | .e4m3 => 0x7E | .e5m2 => 0x7B
  | .e3m2 => 0x1F | .e2m3 => 0x1F | .e2m1 => 0x7

/-- The exponent of the least bit of a subnormal: 1 − bias − F (R47). -/
def ffQmin (f : FFmt) : Int := 1 - (ffBias f : Int) - (ffFracBits f : Int)

/-- The value of an encoding: a NaN, an infinity, or exactly (−1)^neg × man × 2^exp (R47). -/
inductive FVal where
  | nan (signalling : Bool)
  | inf (neg : Bool)
  | fin (neg : Bool) (man : Nat) (exp : Int)
  deriving DecidableEq, Repr

/-- The encoding with a sign bit. -/
def withSign (f : FFmt) (neg : Bool) (mag : Nat) : Nat := if neg then mag + 2 ^ (ffWidth f - 1) else mag

/-- The value that an encoding has (R47, R48). -/
def fdecode (f : FFmt) (x : Nat) : FVal :=
  let F := ffFracBits f
  let neg := x.testBit (ffWidth f - 1)
  let e := bitsOf x (ffWidth f - 2) F
  let fr := x % 2 ^ F
  let finite : FVal :=
    if e = 0 then .fin neg fr (ffQmin f)
    else .fin neg (2 ^ F + fr) (ffQmin f + ((e : Int) - 1))
  if e = 2 ^ ffExpBits f - 1 then
    match f with
    | .fp32 | .fp16 | .bf16 | .e5m2 =>
      if fr = 0 then .inf neg else .nan (!(fr.testBit (F - 1)))
    | .e4m3 => if fr = 7 then .nan false else finite
    | .e3m2 | .e2m3 | .e2m1 => finite
  else finite

/-- Rounds man / 2^s to an integer in a mode, for a value of the given sign (R50). -/
def roundShift (rm : RMode) (neg : Bool) (man s : Nat) : Nat :=
  let q := man >>> s
  let r := man % 2 ^ s
  if r = 0 then q
  else
    let twice := 2 * r
    let up : Bool :=
      match rm with
      | .rne => decide (2 ^ s < twice) || (decide (twice = 2 ^ s) && q % 2 == 1)
      | .rtz => false
      | .rup => !neg
      | .rdn => neg
      | .rna => decide (2 ^ s ≤ twice)
    if up then q + 1 else q

/-- Rounds man × 2^e to a multiple of 2^q: the count of units, and whether it is exact (R50). -/
def roundAt (rm : RMode) (neg : Bool) (man : Nat) (e q : Int) : Nat × Bool :=
  if q ≤ e then (man <<< (e - q).toNat, true)
  else
    let s := (q - e).toNat
    (roundShift rm neg man s, man % 2 ^ s == 0)

/-- Does IEEE overflow in this mode deliver an infinity (R52)? -/
def overflowToInf (rm : RMode) (neg : Bool) : Bool :=
  match rm with
  | .rne | .rna => true
  | .rtz => false
  | .rup => !neg
  | .rdn => neg

/-- What a finite overflow delivers (R52). -/
def overflowValue (f : FFmt) (rm : RMode) (sat neg : Bool) : Nat :=
  if sat then withSign f neg (ffMax f)
  else if ffHasInf f then
    if overflowToInf rm neg then withSign f neg (ffInf f) else withSign f neg (ffMax f)
  else if ffHasNaN f then
    if overflowToInf rm neg then ffNaN f else withSign f neg (ffMax f)
  else withSign f neg (ffMax f)

/-- Round(fmt, x, rm) of a nonzero finite value, with the events of R51 and the overflow rows of R52. -/
def roundFinite (f : FFmt) (rm : RMode) (sat neg : Bool) (man : Nat) (e : Int) : Nat × FpFlags :=
  let F := ffFracBits f
  let q := (man.log2 : Int) + e - (F : Int)
  let qmin := ffQmin f
  let quant := if q < qmin then qmin else q
  let r := roundAt rm neg man e quant
  let mag := (quant - qmin).toNat * 2 ^ F + r.1
  if ffMax f < mag then (overflowValue f rm sat neg, flagOF)
  else
    let tiny : Bool := decide (q < qmin) &&
      decide ((roundAt rm neg man e q).1 < 2 ^ (F + (qmin - q).toNat))
    (withSign f neg mag, { uf := tiny && !r.2, nx := !r.2 })

/-- The conversion table of R52: any value to a float or narrow-float encoding. -/
def encodeF (f : FFmt) (rm : RMode) (sat : Bool) : FVal → Nat × FpFlags
  | .nan s => if ffHasNaN f then (ffNaN f, if s then flagNV else noFlags) else (0, flagNV)
  | .inf neg =>
    if sat then (withSign f neg (ffMax f), flagNX)
    else if ffHasInf f then (withSign f neg (ffInf f), noFlags)
    else if ffHasNaN f then (ffNaN f, flagNV)
    else (withSign f neg (ffMax f), flagNX)
  | .fin neg man e => if man = 0 then (withSign f neg 0, noFlags) else roundFinite f rm sat neg man e

/-- The rounding of a value to a signed integer in a mode, and whether it is exact (R50, R53). -/
def roundInt (rm : RMode) (neg : Bool) (man : Nat) (e : Int) : Int × Bool :=
  let r := roundAt rm neg man e 0
  (if neg then -(r.1 : Int) else (r.1 : Int), r.2)

/-- A float value to an integer of a range: nearest end and NV out of range, 0 and NV for a NaN (R53). -/
def encodeInt (lo hi : Int) (rm : RMode) : FVal → Int × FpFlags
  | .nan _ => (0, flagNV)
  | .inf neg => (if neg then lo else hi, flagNV)
  | .fin neg man e =>
    let r := roundInt rm neg man e
    if r.1 < lo then (lo, flagNV)
    else if hi < r.1 then (hi, flagNV)
    else (r.1, { nx := !r.2 })

/-- An integer as an exact value (R54). -/
def ofIntVal (z : Int) : FVal := .fin (decide (z < 0)) z.natAbs 0

/-! ### SPQ -/

/-- The SPQ zero and canonical NaN, and the largest value (R55). -/
def spqZero : Nat := 0xFFF00000
def spqNaN : Nat := 0xFFF80000
def spqMax : Nat := 0x000FFFFF

/-- The value of an SPQ encoding: scale S and fraction F (R55, R57: a NaN reads as quiet). -/
def spqDecode (x : Nat) : FVal :=
  let s := bitsOf x 31 20
  let fr := x % 2 ^ 20
  if s = 4095 then (if fr = 0 then .fin false 0 0 else .nan false)
  else .fin false (2 ^ 20 + fr) (11 - (s : Int))

/-- The status that SPQ rounding can set (R56). -/
structure SpqResult where
  bits : Nat
  overflow : Bool
  underflow : Bool
  inexact : Bool
  deriving DecidableEq, Repr

/-- A non-negative exact value rounded to 21 significant bits (R56, R57). -/
def spqRound (rm : RMode) (man : Nat) (e : Int) : SpqResult :=
  if man = 0 then ⟨spqZero, false, false, false⟩
  else
    let q := (man.log2 : Int) + e - 20
    let r := roundAt rm false man e q
    let m := if r.1 = 2 ^ 21 then 2 ^ 20 else r.1
    let q' := if r.1 = 2 ^ 21 then q + 1 else q
    let s := 11 - q'
    if s < 0 then ⟨spqMax, true, false, true⟩
    else if 4094 < s then ⟨spqZero, false, true, true⟩
    else ⟨s.toNat * 2 ^ 20 + (m - 2 ^ 20), false, false, !r.2⟩

/-- A conversion to SPQ (R57). -/
def encodeSpq (rm : RMode) : FVal → Nat × FpFlags
  | .nan s => (spqNaN, if s then flagNV else noFlags)
  | .inf neg => if neg then (spqNaN, flagNV) else (spqMax, flagNX)
  | .fin neg man e =>
    if man = 0 then (spqZero, noFlags)
    else if neg then (spqNaN, flagNV)
    else
      let r := spqRound rm man e
      (r.bits, { of := r.overflow, uf := r.underflow, nx := r.inexact })

/-! ### Tags -/

/-- What a tag's lanes hold (R42). -/
inductive TagClass where
  | none
  | int (w : Nat) (signed : Bool)
  | flt (f : FFmt)
  | narrow (f : FFmt)
  | cb (t : Nat)
  | spq
  deriving DecidableEq, Repr

/-- The class of a tag (R42). -/
def tagClass (t : Tag) : TagClass :=
  match t.toNat with
  | 0x01 => .int 64 true
  | 0x02 => .int 32 true
  | 0x03 => .int 32 false
  | 0x04 => .int 16 true
  | 0x05 => .int 16 false
  | 0x06 => .int 8 true
  | 0x07 => .int 8 false
  | 0x08 => .int 4 true
  | 0x09 => .int 4 false
  | 0x0A => .flt .fp32
  | 0x0B => .flt .bf16
  | 0x0C => .flt .fp16
  | 0x0D => .narrow .e4m3
  | 0x0E => .narrow .e5m2
  | 0x0F => .narrow .e3m2
  | 0x10 => .narrow .e2m3
  | 0x11 => .narrow .e2m1
  | 0x12 => .cb 0
  | 0x13 => .cb 1
  | 0x14 => .cb 2
  | 0x15 => .cb 3
  | 0x16 => .spq
  | _ => .none

/-- Is the tag a reserved one (R42)? -/
def tagReserved (t : Tag) : Bool := decide (0x17 ≤ t.toNat)

/-- Does the tag name a 6-bit format (R58)? -/
def tagSixBit (t : Tag) : Bool := t.toNat == 0x0F || t.toNat == 0x10

/-- The lane width of a tag: W of R108, 8 for RAW and the reserved tags. -/
def tagLane (t : Tag) : Nat :=
  match tagClass t with
  | .none => 8
  | .int w _ => w
  | .flt .fp32 => 32
  | .flt _ => 16
  | .narrow .e2m1 => 4
  | .narrow _ => 8
  | .cb _ => 4
  | .spq => 32

/-- Lanes(t) of R108: the element count, 64 for RAW and the reserved tags. -/
def tagLanes (t : Tag) : Nat := 512 / tagLane t

/-- How many bits of a lane hold the element: 6 for the 6-bit formats (R58). -/
def tagElemBits (t : Tag) : Nat := if tagSixBit t then 6 else tagLane t

/-- The least and greatest value of an integer lane (R46). -/
def intLo (w : Nat) (signed : Bool) : Int := if signed then -((2 ^ (w - 1) : Nat) : Int) else 0
def intHi (w : Nat) (signed : Bool) : Int :=
  if signed then ((2 ^ (w - 1) : Nat) : Int) - 1 else ((2 ^ w : Nat) : Int) - 1

/-- An integer lane as a number (R112). -/
def laneInt (w : Nat) (signed : Bool) (x : Nat) : Int := if signed then toSigned w x else ((x % 2 ^ w : Nat) : Int)

/-- An element's value for a conversion (R52 to R57); a CB4 code has already become its BF16 entry. -/
inductive EVal where
  | int (z : Int)
  | real (v : FVal)
  deriving DecidableEq, Repr

/-- Elem(v, i, tag) from the element's bits and the core's codebook entry function (R58, R62). -/
def elemVal (cb : Nat → Nat → Nat) (t : Tag) (x : Nat) : EVal :=
  match tagClass t with
  | .none => .int 0
  | .int w s => .int (laneInt w s x)
  | .flt f => .real (fdecode f x)
  | .narrow f => .real (fdecode f (x % 2 ^ ffWidth f))
  | .cb n => .real (fdecode .bf16 (cb n (x % 16)))
  | .spq => .real (spqDecode x)

/-- Conv of R65: the bits of the converted element, and its events (R52, R53, R54, R57). -/
def convert (src dst : Tag) (rm : RMode) (sat : Bool) (bits : Nat) (v : EVal) : Nat × FpFlags :=
  match tagClass dst, v with
  | .int w s, .int z =>
    (if sat then ofInt w (clampInt (intLo w s) (intHi w s) z) else ofInt w z, noFlags)
  | .int w s, .real r =>
    let p := encodeInt (intLo w s) (intHi w s) rm r
    (ofInt w p.1, p.2)
  | .flt f, .int z => encodeF f rm sat (ofIntVal z)
  | .narrow f, .int z => encodeF f rm sat (ofIntVal z)
  | .spq, .int z => encodeSpq rm (ofIntVal z)
  | .flt f, .real r =>
    if src = dst then
      match r with
      | .nan s => (ffNaN f, if s then flagNV else noFlags)
      | _ => (bits % 2 ^ ffWidth f, noFlags)
    else encodeF f rm sat r
  | .narrow f, .real r =>
    if src = dst then
      match r with
      | .nan s => (ffNaN f, if s then flagNV else noFlags)
      | _ => (bits % 2 ^ ffWidth f, noFlags)
    else encodeF f rm sat r
  | .spq, .real r => encodeSpq rm r
  | .none, _ => (0, noFlags)
  | .cb _, _ => (0, noFlags)

/-! ### FPCTL's flag bits (R88) -/

/-- The flags as the field [4:0] of FPCTL: NV, DZ, OF, UF, NX from bit 4 down (R88). -/
def flagsToNat (f : FpFlags) : Nat :=
  16 * bit f.nv + 8 * bit f.dz + 4 * bit f.of + 2 * bit f.uf + bit f.nx

end Sys2Proof.Machine
end

