-- ==== Sys2Proof/Machine/Float.lean ====
section
/-! DEFINITION. Arithmetic on exact floating-point values, each result exact or carrying a low bit that says it lies
strictly between two values, so that one rounding gives the rounding of the exact result (R112 to R116, R125). -/
namespace Sys2Proof.Machine

/-- A value with the events that belong to the operation rather than to its rounding. -/
abbrev FRes := FVal × FpFlags

/-- Is the value a signalling NaN? -/
def isSNaN : FVal → Bool
  | .nan s => s
  | _ => false

/-- Is the value a NaN? -/
def isNaN : FVal → Bool
  | .nan _ => true
  | _ => false

/-- NV when any of the values is a signalling NaN (R114). -/
def nvIfSNaN (l : List FVal) : FpFlags := { nv := l.any isSNaN }

/-- The canonical NaN result of an invalid operation. -/
def invalid : FRes := (.nan false, flagNV)

/-- The value with its sign inverted. -/
def fneg : FVal → FVal
  | .nan s => .nan s
  | .inf n => .inf (!n)
  | .fin n m e => .fin (!n) m e

/-- A signed multiple of a power of two. -/
def signedMan (neg : Bool) (m : Nat) : Int := if neg then -(m : Int) else (m : Int)

/-- The sign of an exact zero sum of nonzero or opposite operands (IEEE 754-2019, R112): minus only toward −infinity. -/
def zeroSumNeg (rm : RMode) (n1 n2 : Bool) : Bool :=
  if n1 = n2 then n1 else decide (rm = .rdn)

/-- The exact sum of two finite values. -/
def finAdd (rm : RMode) (n1 : Bool) (m1 : Nat) (e1 : Int) (n2 : Bool) (m2 : Nat) (e2 : Int) : FVal :=
  let e := if e1 < e2 then e1 else e2
  let z := signedMan n1 (m1 <<< (e1 - e).toNat) + signedMan n2 (m2 <<< (e2 - e).toNat)
  if z = 0 then
    .fin (if m1 = 0 ∧ m2 = 0 then zeroSumNeg rm n1 n2 else decide (rm = .rdn)) 0 0
  else .fin (decide (z < 0)) z.natAbs e

/-- x + y (R113). -/
def fadd (rm : RMode) (x y : FVal) : FRes :=
  match x, y with
  | .nan s, .nan t => (.nan false, { nv := s || t })
  | .nan s, _ => (.nan false, { nv := s })
  | _, .nan t => (.nan false, { nv := t })
  | .inf a, .inf b => if a = b then (.inf a, noFlags) else invalid
  | .inf a, .fin _ _ _ => (.inf a, noFlags)
  | .fin _ _ _, .inf b => (.inf b, noFlags)
  | .fin n1 m1 e1, .fin n2 m2 e2 => (finAdd rm n1 m1 e1 n2 m2 e2, noFlags)

/-- x − y (R113). -/
def fsub (rm : RMode) (x y : FVal) : FRes := fadd rm x (fneg y)

/-- x × y (R113). -/
def fmul (x y : FVal) : FRes :=
  match x, y with
  | .nan s, .nan t => (.nan false, { nv := s || t })
  | .nan s, _ => (.nan false, { nv := s })
  | _, .nan t => (.nan false, { nv := t })
  | .inf a, .inf b => (.inf (a != b), noFlags)
  | .inf a, .fin n m _ => if m = 0 then invalid else (.inf (a != n), noFlags)
  | .fin n m _, .inf b => if m = 0 then invalid else (.inf (b != n), noFlags)
  | .fin n1 m1 e1, .fin n2 m2 e2 => (.fin (n1 != n2) (m1 * m2) (e1 + e2), noFlags)

/-- x × y + z with one rounding to come (R115): infinity times zero is invalid even when z is a quiet NaN. -/
def ffma (rm : RMode) (x y z : FVal) : FRes :=
  let p := fmul x y
  let inv := flagsOr p.2 (nvIfSNaN [x, y, z])
  if isNaN x || isNaN y then (.nan false, nvIfSNaN [x, y, z])
  else if isNaN p.1 then (.nan false, inv)
  else
    let r := fadd rm p.1 z
    (r.1, flagsOr inv r.2)

/-- A quotient of naturals with at least 80 significant bits and a low bit for the remainder: (q, exponent offset). -/
def quotBits (a b : Nat) : Nat × Int :=
  let k := 80 + b.log2
  let n := a <<< k
  (2 * (n / b) + (if n % b = 0 then 0 else 1), -(k : Int) - 1)

/-- x / y (R113, R114). -/
def fdiv (x y : FVal) : FRes :=
  match x, y with
  | .nan s, .nan t => (.nan false, { nv := s || t })
  | .nan s, _ => (.nan false, { nv := s })
  | _, .nan t => (.nan false, { nv := t })
  | .inf _, .inf _ => invalid
  | .inf a, .fin n _ _ => (.inf (a != n), noFlags)
  | .fin n _ _, .inf b => (.fin (n != b) 0 0, noFlags)
  | .fin n1 m1 e1, .fin n2 m2 e2 =>
    if m2 = 0 then (if m1 = 0 then invalid else (.inf (n1 != n2), flagDZ))
    else
      let q := quotBits m1 m2
      (.fin (n1 != n2) q.1 (e1 - e2 + q.2), noFlags)

/-- The value one. -/
def fone : FVal := .fin false 1 0

/-- 1 / x (R114). -/
def frcp (x : FVal) : FRes := fdiv fone x

/-- The root of m × 2^e with at least 80 significant bits and a low bit for the remainder. -/
def rootBits (m : Nat) (e : Int) : Nat × Int :=
  let m1 := if e % 2 = 0 then m else 2 * m
  let e1 := if e % 2 = 0 then e else e - 1
  let n := m1 <<< 160
  let r := isqrt n
  (2 * r + (if r * r = n then 0 else 1), e1 / 2 - 81)

/-- sqrt(x) (R114). -/
def fsqrt (x : FVal) : FRes :=
  match x with
  | .nan s => (.nan false, { nv := s })
  | .inf neg => if neg then invalid else (.inf false, noFlags)
  | .fin neg m e =>
    if m = 0 then (.fin neg 0 0, noFlags)
    else if neg then invalid
    else
      let r := rootBits m e
      (.fin false r.1 r.2, noFlags)

/-- 1 / sqrt(x) (R114), from the root of a quotient whose remainder the low bit keeps. -/
def frsq (x : FVal) : FRes :=
  match x with
  | .nan s => (.nan false, { nv := s })
  | .inf neg => if neg then invalid else (.fin false 0 0, noFlags)
  | .fin neg m e =>
    if m = 0 then (.inf neg, flagDZ)
    else if neg then invalid
    else
      let m1 := if e % 2 = 0 then m else 2 * m
      let e1 := if e % 2 = 0 then e else e - 1
      let k := 200 + m1.log2
      let k2 := if k % 2 = 0 then k else k + 1
      let r := isqrt (2 ^ k2 / m1)
      (.fin false (2 * r + (if r * r * m1 = 2 ^ k2 then 0 else 1)) (-(e1 / 2) - ((k2 / 2 : Nat) : Int) - 1), noFlags)

/-! ### Base-2 exponential and logarithm, in fixed point with 320 fraction bits -/

/-- Fraction bits of the fixed-point work. -/
def fxBits : Nat := 320

/-- Sum of z^(2k+1)/(2k+1) over the terms k to come, z a fixed-point number: the series of the inverse hyperbolic tangent. -/
def atanhSeries (z2 : Nat) : Nat → Nat → Nat → Nat → Nat
  | 0, _, _, acc => acc
  | n + 1, k, p, acc => atanhSeries z2 n (k + 1) ((p * z2) >>> fxBits) (acc + p / (2 * k + 1))

/-- ln(a / b) for 1 ≤ a / b ≤ 2, in fixed point. -/
def lnRatio (a b : Nat) : Nat :=
  let z := ((a - b) <<< fxBits) / (a + b)
  2 * atanhSeries ((z * z) >>> fxBits) 110 0 z 0

/-- ln 2 in fixed point. -/
def fxLn2 : Nat := lnRatio 2 1

/-- Sum of the Taylor terms of e^t to come. -/
def expSeries (t : Nat) : Nat → Nat → Nat → Nat → Nat
  | 0, _, _, acc => acc
  | n + 1, k, p, acc => expSeries t n (k + 1) (((p * t) >>> fxBits) / k) (acc + p)

/-- 2^f for a fixed-point fraction f below 1: a fixed-point number from 1 to 2. -/
def fxExp2 (f : Nat) : Nat := expSeries ((f * fxLn2) >>> fxBits) 80 1 (2 ^ fxBits) 0

/-- 2^x (R113, R114): an integer x gives a power of two exactly; for any other x the low bit marks the result inexact. -/
def fexp2 (x : FVal) : FRes :=
  match x with
  | .nan s => (.nan false, { nv := s })
  | .inf neg => (if neg then .fin false 0 0 else .inf false, noFlags)
  | .fin neg m e =>
    if m = 0 then (fone, noFlags)
    else if 12 < (m.log2 : Int) + e then (.fin false 1 (if neg then -8192 else 8192), noFlags)
    else if 0 ≤ e then (.fin false 1 (signedMan neg (m <<< e.toNat)), noFlags)
    else
      let s := (-e).toNat
      let z := signedMan neg m
      let n := z / ((2 ^ s : Nat) : Int)
      let fr := (z % ((2 ^ s : Nat) : Int)).toNat
      if fr = 0 then (.fin false 1 n, noFlags)
      else
        let f := (fr <<< fxBits) >>> s
        (.fin false (2 * fxExp2 f + 1) (n - (fxBits : Int) - 1), noFlags)

/-- log2(x) (R113, R114): exact at a power of two; elsewhere the low bit marks the result inexact. -/
def flog2 (x : FVal) : FRes :=
  match x with
  | .nan s => (.nan false, { nv := s })
  | .inf neg => if neg then invalid else (.inf false, noFlags)
  | .fin neg m e =>
    if m = 0 then (.inf true, flagDZ)
    else if neg then invalid
    else
      let l := m.log2
      let n : Int := (l : Int) + e
      if m = 2 ^ l then (if n = 0 then .fin false 0 0 else .fin (decide (n < 0)) n.natAbs 0, noFlags)
      else
        let fr := ((lnRatio m (2 ^ l)) <<< fxBits) / fxLn2
        let z : Int := n * ((2 ^ fxBits : Nat) : Int) + (fr : Int)
        (.fin (decide (z < 0)) (2 * z.natAbs + 1) (-(fxBits : Int) - 1), noFlags)

/-! ### Comparison, minimum and maximum -/

/-- The order of two values that are not NaN: less, equal or greater; +0 = −0. -/
def fcmp (x y : FVal) : Ordering :=
  match x, y with
  | .inf a, .inf b => if a = b then .eq else if a then .lt else .gt
  | .inf a, _ => if a then .lt else .gt
  | _, .inf b => if b then .gt else .lt
  | .fin n1 m1 e1, .fin n2 m2 e2 =>
    let e := if e1 < e2 then e1 else e2
    compare (signedMan n1 (m1 <<< (e1 - e).toNat)) (signedMan n2 (m2 <<< (e2 - e).toNat))
  | _, _ => .eq

/-- Is the value a zero or positive by its sign bit? -/
def signNeg : FVal → Bool
  | .nan _ => false
  | .inf n => n
  | .fin n _ _ => n

/-- VMIN and VMAX on values (R114): one NaN gives the other operand, −0 is below +0. -/
def fminmax (max : Bool) (x y : FVal) : FRes :=
  let fl := nvIfSNaN [x, y]
  if isNaN x && isNaN y then (.nan false, fl)
  else if isNaN x then (y, fl)
  else if isNaN y then (x, fl)
  else
    match fcmp x y with
    | .lt => (if max then y else x, fl)
    | .gt => (if max then x else y, fl)
    | .eq => (if signNeg x = max then y else x, fl)

/-- A compare condition of R117 on floats: the bit and the events. -/
def fcond (c : Nat) (x y : FVal) : Bool × FpFlags :=
  let sn := nvIfSNaN [x, y]
  if isNaN x || isNaN y then
    match c with
    | 0 => (false, sn)
    | 1 => (true, sn)
    | 6 => (true, sn)
    | 7 => (false, sn)
    | _ => (false, flagNV)
  else
    let o := fcmp x y
    match c with
    | 0 => (o == .eq, noFlags)
    | 1 => (o != .eq, noFlags)
    | 2 => (o == .lt, noFlags)
    | 3 => (o != .gt, noFlags)
    | 4 => (o == .gt, noFlags)
    | 5 => (o != .lt, noFlags)
    | 6 => (false, noFlags)
    | _ => (true, noFlags)

/-- A compare condition of R117 on integers. -/
def icond (c : Nat) (x y : Int) : Bool :=
  match c with
  | 0 => decide (x = y)
  | 1 => decide (x ≠ y)
  | 2 => decide (x < y)
  | 3 => decide (x ≤ y)
  | 4 => decide (y < x)
  | 5 => decide (y ≤ x)
  | 6 => false
  | _ => true

/-- The delivered bits and all events of a result, rounded once to a format (R112). -/
def deliver (f : FFmt) (rm : RMode) (r : FRes) : Nat × FpFlags :=
  let p := encodeF f rm false r.1
  (p.1, flagsOr r.2 p.2)

/-! ### Exact sums for the dots and the matrix arrays -/

/-- What a list of exact terms sums to before any rounding: NaN seen, infinities seen, and the finite sum as z × 2^e. -/
structure ExactSum where
  nan : Bool := false
  invalid : Bool := false
  posInf : Bool := false
  negInf : Bool := false
  allNegZero : Bool := true
  allPosZero : Bool := true
  z : Int := 0
  e : Int := 0
  deriving DecidableEq, Repr

/-- One more exact term. -/
def sumTerm (s : ExactSum) (t : FRes) : ExactSum :=
  let s := { s with invalid := s.invalid || t.2.nv }
  match t.1 with
  | .nan _ => { s with nan := true }
  | .inf true => { s with negInf := true }
  | .inf false => { s with posInf := true }
  | .fin neg m e =>
    let s := { s with allNegZero := s.allNegZero && neg && decide (m = 0)
                      allPosZero := s.allPosZero && !neg && decide (m = 0) }
    if m = 0 then s
    else
      let e' := if s.z = 0 then e else if s.e < e then s.e else e
      { s with z := s.z * ((2 ^ (s.e - e').toNat : Nat) : Int) + signedMan neg (m <<< (e - e').toNat), e := e' }

/-- The value of an exact sum, with NV for opposite infinities or an invalid product (R115, R116). DESIGN CHOICE: opposite
infinities set NV whatever NaN stands beside them, which R116 does not say (log entry 38). -/
def sumValue (rm : RMode) (s : ExactSum) : FRes :=
  let fl : FpFlags := { nv := s.invalid || (s.posInf && s.negInf) }
  if s.nan || (s.posInf && s.negInf) then (.nan false, fl)
  else if s.posInf then (.inf false, fl)
  else if s.negInf then (.inf true, fl)
  else if s.z = 0 then (.fin (s.allNegZero || (!s.allPosZero && decide (rm = .rdn))) 0 0, fl)
  else (.fin (decide (s.z < 0)) s.z.natAbs s.e, fl)

end Sys2Proof.Machine
end

