-- ==== Sys2Proof/Machine/State.lean ====
section
/-! DEFINITION. The state of the whole Sorelo 9 module as plain data, and the state right after module reset. Each
structure's docstring names the rules that give it. A field's default is its value at reset or at installation. -/
namespace Sys2Proof.Machine

/-! ### Words, queues and memories -/

/-- A vector register: 512 bits and a format tag (R13, R42). -/
structure VReg where
  bits : BitVec 512 := 0
  tag : Tag := 0
  deriving DecidableEq, Repr

/-- A link word of the static network: 256 data bits and an 8-bit sideband (R128). -/
structure LinkWord where
  data : BitVec 256 := 0
  side : BitVec 8 := 0
  deriving DecidableEq, Repr

/-- A queued link word with the first cycle in which a step or an instruction can take it (R130). -/
structure QWord where
  word : LinkWord := {}
  at_ : Nat := 0
  deriving DecidableEq, Repr

/-- A FIFO of link words, oldest first, and how many words were taken from it in which cycle: room freed in a cycle counts
from the next one (R130). -/
structure Fifo where
  words : List QWord := []
  taken : Nat := 0
  takenAt : Nat := 0
  deriving DecidableEq, Repr

/-- A byte memory in canonical form: addresses strictly rising, no entry holding the byte an unlisted address reads as. -/
abbrev Memory := List Host.Cell

/-- A memory with its uncorrectable errors, by granule number (R197, R228, R280). -/
structure Mem where
  cells : Memory := []
  bad : List Nat := []
  deriving DecidableEq, Repr

/-- A thread's place: the core's key and the slot (R71). -/
structure ThreadRef where
  core : Nat := 0
  slot : Nat := 0
  deriving DecidableEq, Repr

/-! ### Translation -/

/-- A cached translation (R210). `bits` is the logarithm of the page's bytes: 12, 16, 21, 25 or 30. -/
structure TlbEntry where
  func : Nat := 0
  va : Nat := 0
  bits : Nat := 12
  frame : Nat := 0
  w : Bool := false
  x : Bool := false
  a : Bool := false
  g : Bool := false
  d : Bool := false
  t : Bool := false
  mt : Nat := 0
  tier : Nat := 0
  deriving DecidableEq, Repr

/-- A non-leaf entry of the walk cache: function, level of the entry, the VA bits above that level's index together with
the index, and the next table (R211). -/
structure WalkEntry where
  func : Nat := 0
  level : Nat := 0
  key : Nat := 0
  table : Nat := 0
  deriving DecidableEq, Repr

/-- An address generator that waits for a walk: a memory tile and its channel, or a stream node and its generator (0 the reader, 1 the
writer), with its address (R210, R212). -/
structure WalkPort where
  port : Nat := 0
  chan : Nat := 0
  va : Nat := 0
  write : Bool := false
  deriving DecidableEq, Repr

/-- A walk of a quad or of an LLTC (R210, R212, R214): function, page of 4 KiB, and the threads and generators whose misses share it. `gen` is the generation
recorded when it got one of the two walkers, none while it waits for one; `fromRoot` says that it has started anew at L4. -/
structure WalkJob where
  func : Nat := 0
  page : Nat := 0
  gen : Option (BitVec 16) := none
  fromRoot : Bool := false
  threads : List ThreadRef := []
  ports : List WalkPort := []
  deriving DecidableEq, Repr

/-- An entry of a quad's contention predictor (R196). -/
structure PredEntry where
  line : Nat := 0
  owns : Bool := false
  count : Nat := 0
  since : Nat := 0
  deriving DecidableEq, Repr

/-! ### Threads -/

/-- A 32-byte launch packet with the partition it belongs to and the thread that sent it, if a LAUNCH sent it (R72, R333). -/
structure LaunchPacket where
  image : Nat := 0
  trow : Nat := 0
  tcol : Nat := 0
  slot : Nat := 0
  layer : Nat := 0
  inst : Nat := 0
  bivb : Nat := 0
  bivl : Nat := 0
  bivo : Nat := 0
  part : Nat := 0
  sender : Option ThreadRef := none
  deriving DecidableEq, Repr

/-- A retired plain global store that its home has not performed (R183). `moving` says that its translation had T = 1; bit i
of `skip` says that byte i is not written (the disabled units of a VST, R158); `reached` is its place in the order of arrival at
its die's gateway, none before it is there (R181). -/
structure PendingStore where
  pa : Nat := 0
  bytes : List Byte := []
  skip : Nat := 0
  func : Nat := 0
  va : Nat := 0
  global : Bool := false
  moving : Bool := false
  reached : Option Nat := none
  deriving DecidableEq, Repr

/-- A retired RED that its anchor has not performed: its gateway or home has accepted it, and `reached` is its place in the order of
arrival there (R181, R195). -/
structure PendingRed where
  pa : Nat := 0
  size : Nat := 4
  op : Nat := 0
  operand : Nat := 0
  func : Nat := 0
  va : Nat := 0
  global : Bool := false
  moving : Bool := false
  reached : Nat := 0
  deriving DecidableEq, Repr

/-- A write that a gateway holds: a plain store or a RED (R181). -/
inductive GateWrite where
  | store (p : PendingStore)
  | red (r : PendingRed)
  deriving DecidableEq, Repr

/-- Why a thread does not issue (R70 wait state, R77, R95). -/
inductive Wait where
  /-- nothing -/
  | none
  /-- a port that is empty or full (R14); counted in STALLS -/
  | port (dir : Nat) (write : Bool)
  /-- a port direction that another unretired instruction of the core holds (R110) -/
  | held (dir : Nat)
  /-- a full copy-channel queue (R174); counted in STALLS -/
  | copyQueue
  /-- a scratchpad bank that serves another requester in this cycle (R156); counted in STALLS -/
  | bank
  /-- a CPYQ held in the combining node before this command (R176) -/
  | combining
  /-- a full command stream of the array (R253); counted in STALLS -/
  | engineQueue
  /-- a full queue of the sum-product engine (R274); counted in STALLS -/
  | spQueue
  /-- a full injection queue (R151) -/
  | injection
  /-- DRECV on an empty channel (R152) -/
  | drecv (chan : Nat)
  /-- MBXRD on an empty mailbox (R219) -/
  | mailbox
  /-- the data of a variable-latency access (R76) -/
  | reply
  /-- that data has come back: the access completes at the thread's next turn (R76) -/
  | replied
  /-- a miss whose walk is under way or waits for a walker (R206, R212) -/
  | walk (va : Nat) (write fetch coh : Bool)
  /-- TQRY whose walk waits for a walker (R212, R239) -/
  | query (va : Nat)
  /-- a fault message without its reply (R217) -/
  | fault (va : Word)
  /-- a fault message that was refused: the trap is delivered at the thread's next turn (R219) -/
  | refused (va : Word)
  /-- stopped at TRAPPC after a THREADFAULT (R319) -/
  | threadFault (double : Bool)
  /-- stopped and reported to Otair (R318) -/
  | otair
  /-- a pending MLIC (R266), and the same once it is granted -/
  | licence
  | licenceGranted
  /-- a pending TWX with its register (R269) -/
  | twx (d : Nat)
  /-- a pending ROPE arrival with its mask and the register that takes its result (R82) -/
  | rope (mask d : Nat)
  /-- a joined monitor entry (R201): address, value, and the cycle of the timeout -/
  | monitor (pa : Nat) (value : Word) (deadline : Option Nat)
  /-- a wake-up of a monitor that the thread has not yet taken: the status it returns (R201) -/
  | woken (status : Nat)
  /-- ARRIVE before its arrival, WAIT, PHASE before its arrival, BMEM (R297, R298) -/
  | arrive (level : Nat)
  | belay (level : Nat)
  | bmem
  /-- PHASE after its arrival (R297) -/
  | phase (level : Nat)
  /-- MRD or an array CBRD in the stream, under its command number (R262, R69) -/
  | matrix (cmd : Nat)
  /-- its result, to be written at the thread's next turn; none after an abort (R256) -/
  | matrixDone (value : Option VReg)
  /-- MWAIT with the last command it waits for (R264) -/
  | mwait (upto : Nat)
  /-- a SUMPROD form sent and not accepted (R274), then SPWAIT in the queue under its number, and its result -/
  | spAccept (cmd : Nat)
  | spAccepted
  | spwait (cmd : Nat)
  | spDone (value : Word)
  /-- WPWAIT on a tile's channel (R177) -/
  | wpwait (tile chan : Nat)
  /-- FENCE, MREL's follow-ons, MTCFG, INSTALL, PACKET, MIGR and the other waits on a condition of the state -/
  | condition
  /-- LAUNCH.packet without its answer, and with it (R333) -/
  | packet
  | packetDone (status : Nat)
  /-- RLTOK or MIGR whose token is still passing, and its result: the token's count of removals (R215), or MIGR's word (R238) -/
  | token (id : Nat)
  | tokenDone (result : Nat)
  deriving DecidableEq, Repr

/-- What a slot holds (R71, R74, R323). -/
inductive SlotState where
  /-- free -/
  | free
  /-- accepted, its context being created -/
  | creating (p : LaunchPacket)
  /-- a thread that may issue -/
  | live
  /-- stopped by pre-emption: `full` or at the cairn of that id, with the row test of R324 already made -/
  | stopped (full : Bool) (cairn : Nat)
  deriving DecidableEq, Repr

/-- A thread context (R70) with the part of memory that belongs to it: its snapshot, its own plain stores and the stores
not yet performed (R182, R183), and the code memory its launch began with (R12). `yieldLeft` is one more than the cycles
of its core in which a YIELD still keeps it from issuing, and 0 without a YIELD; `passScalar` and `passVector` hold the cycle of a
YIELD of zero until the next choice of the class (R80); `ropeRefusedAt` is the cycle of its last refused ROPE (R82); `begun` is an
instruction that has begun and waits for its end, which needs no second fetch (R76, R297). -/
structure Thread where
  slotState : SlotState := .free
  pc : Word := 0
  status : Word := 0
  fpctl : Word := 0
  mprog : Word := 0
  cbsel : Word := 0
  domain1 : Word := 0
  domain2 : Word := 0
  domain3 : Word := 0
  domain4 : Word := 0
  bivbase : Word := 0
  bivlimit : Word := 0
  bivovf : Word := 0
  instret : Word := 0
  stalls : Word := 0
  trappc : Word := 0
  trapcause : Word := 0
  trapval : Word := 0
  trapvec : Word := 0
  g : AMap Word := []
  v : AMap VReg := []
  k : AMap (BitVec 128) := []
  wait : Wait := .none
  yieldLeft : Nat := 0
  passScalar : Option Nat := none
  passVector : Option Nat := none
  ropeRefusedAt : Option Nat := none
  pend : BitVec 4 := 0
  seq : BitVec 16 := 0
  func : Nat := 0
  part : Nat := 0
  inst : Nat := 0
  inTrap : Bool := false
  eretAt : Option Nat := none
  begun : Option Instr := none
  heldLicence : Bool := false
  code : Mem := {}
  snap : Mem := {}
  own : AMap Byte := []
  stores : List PendingStore := []
  reds : List PendingRed := []
  deriving DecidableEq, Repr

/-! ### Compute tiles and service cores -/

/-- A user message waiting in the injection queue or on its way (R147, R148). -/
structure UserMsg where
  dst : Nat := 0
  chan : Nat := 0
  src : Nat := 0
  data : Word := 0
  deriving DecidableEq, Repr

/-- A retention of a scratchpad: its handle, the region-relative position of the tile, the launch that made it, and whether that
launch has ended (R79). -/
structure Retention where
  handle : Word := 0
  row : Nat := 0
  col : Nat := 0
  layer : Nat := 0
  part : Nat := 0
  inst : Nat := 0
  ended : Bool := false
  deriving DecidableEq, Repr

/-- A port direction that an unretired instruction holds: its slot and its address (R110). -/
structure PortHold where
  slot : Nat := 0
  pc : Word := 0
  deriving DecidableEq, Repr

/-- A core: its four slots and what belongs to the core and not to a thread (R70, R71, R91 to R95, R147, R157, R218). `demand`, in
parts of a microwatt that `powerUnit` of the state numbers, and the fraction `grantNum / grantDen` are its power demand and grant of the running period, and `spIssued` counts the commands that it
issued to its quad's engine in it (R339). The writes of CBLD take effect at the end of the cycle (`cbtNext`, R63). `issued` lists
slot and issue path of what was issued in cycle `issueAt`, and `dirs` the port directions those named (R75, R110); `drecvOrder` the slots of blocked DRECVs in the order of
issue (R152). -/
structure Core where
  slots : AMap Thread := []
  waiting : List LaunchPacket := []
  scratch : Mem := {}
  powered : Bool := true
  retention : Option Retention := none
  cbt : AMap (BitVec 16) := []
  cbtNext : AMap (BitVec 16) := []
  msgSent : Word := 0
  msgRecv : Word := 0
  inject : List UserMsg := []
  recv : AMap (List Word) := []
  drecvOrder : List Nat := []
  fetchDuty : Nat := 16
  low : Bool := false
  skip : Bool := false
  skipRate : Nat := 16
  demand : Nat := 0
  spIssued : Nat := 0
  grantNum : Nat := 0
  grantDen : Nat := 1
  matStatus : Word := 0
  spStatus : Word := 0
  mailbox : List (List Word) := []
  dtlb : List TlbEntry := []
  itlb : List TlbEntry := []
  portHold : AMap PortHold := []
  lastScalar : Nat := 3
  lastVector : Nat := 3
  issueAt : Nat := 0
  issued : List (Nat × Nat) := []
  dirs : List Nat := []
  deriving DecidableEq, Repr

/-! ### Memory tiles -/

/-- One operand buffer of a personality (R165). -/
structure Buffer where
  base : Nat := 0
  size : Nat := 0
  tag : Nat := 0
  deriving DecidableEq, Repr

/-- A memory tile's personality (R165). -/
structure Personality where
  pers : Nat := 0
  feed : Nat := 0
  chmask : Nat := 0
  bufs : List Buffer := []
  lineb : Nat := 0
  nread : Nat := 0
  deriving DecidableEq, Repr

/-- A copy descriptor, decoded (R170); `tag` is byte 23, which only a stream node's descriptor uses (R224). -/
structure CopyDesc where
  src : Word := 0
  dst : Word := 0
  count0 : Nat := 0
  ndim : Nat := 1
  follow : Bool := false
  tag : Nat := 0
  fw0 : Nat := 0
  fw1 : Nat := 0
  counts : List Nat := []
  sstrides : List Int := []
  dstrides : List Int := []
  deriving DecidableEq, Repr

/-- A command of the matrix stream, with the registers its issue read (R253 to R263, R69, R252). -/
inductive MKind where
  | mma (acc kg af bf : Nat) (sa sb : Bool) (asl bsl : Nat) (a b : Word) (ts : Option Nat)
  | mmac (acc src kg af bf : Nat) (sa sb : Bool) (asl bsl : Nat) (b : Word) (ts : Option Nat)
  | mzero (acc n : Nat)
  | mrd (acc row half tag : Nat) (sat sc : Bool) (asl rm : Nat) (ts : Option Nat)
  | mwr (acc first : Nat) (values : List Nat)
  | mscl (src : Word) (soff len : Nat)
  | cbld (table : Nat) (bits : Nat)
  | cbrd (table : Nat)
  | writeback (tiles : AMap (BitVec 32)) (scale : Mem) (tables : AMap (BitVec 16))
  deriving DecidableEq, Repr

/-- A command in a pair's stream: its number, the core and slot that issued it, what it does (R253), and the granules of its
operands that it has read already, none for an error (R255). -/
structure MCmd where
  num : Nat := 0
  core : Nat := 0
  slot : Nat := 0
  kind : MKind
  seen : AMap (Option (List Byte)) := []
  deriving DecidableEq, Repr

/-- A command of a copy channel: the descriptor with its bytes, its id, its issuing core, the threads whose destinations it
serves (several for a merged CPYQ), the cycles of its issue (R132) and of its acceptance into the queue (R171), and a CPYM's
follow-on (R174 to R176). -/
structure CopyCmd where
  desc : CopyDesc := {}
  raw : List Byte := []
  id : Nat := 0
  core : Nat := 0
  slot : Nat := 0
  targets : List ThreadRef := []
  issuedAt : Nat := 0
  acceptedAt : Nat := 0
  follow : Option MKind := none
  deriving DecidableEq, Repr

/-- A copy channel (R169, R171, R172, R213, R240). `starveAt` is the last cycle that counted in `starve`, and `doneAt` the cycle
in which a command last came to its end (R132), `pieceAt` the cycle of its last piece (R171), and `walking` the address of a miss that
waits for a walk (R212). -/
structure Channel where
  wptr : Word := 0
  lastId : Nat := 0
  errCode : Nat := 0
  err : Bool := false
  errAddr : Word := 0
  abortedBy : List ThreadRef := []
  active : Option CopyCmd := none
  done : Nat := 0
  followDue : Bool := false
  queue : List CopyCmd := []
  latch : List TlbEntry := []
  stalled : Option Word := none
  refused : Bool := false
  walking : Option Nat := none
  seq : BitVec 16 := 0
  heatWindow : Option Nat := none
  deliv : Nat := 0
  starve : Nat := 0
  starveAt : Option Nat := none
  doneAt : Option Nat := none
  pieceAt : Option Nat := none
  deriving DecidableEq, Repr

/-- A local object: a core's scratchpad, a memory tile's SRAM, a memory tile's channel registers, a quad's sum-product
scratch. -/
inductive LObj where
  | scratch (core : Nat)
  | sram (tile : Nat)
  | regs (tile : Nat)
  | spm (quad : Nat)
  deriving DecidableEq, Repr

/-- A granule of 64 bytes that the active command of a channel has written and may write again: of a local object, or of global memory,
with the bytes that commands of other channels that came to it later have written since (R173). -/
structure GrainTouch where
  tile : Nat := 0
  chan : Nat := 0
  obj : Option LObj := none
  granule : Nat := 0
  lost : Nat := 0
  deriving DecidableEq, Repr

/-- A memory tile: SRAM, personality, byte counters and channels (R165, R166, R169), and the last cycle in which its SRAM refused the
switch's access (R156). -/
structure MemTile where
  sram : Mem := {}
  pers : Personality := {}
  written : AMap Nat := []
  read : AMap Nat := []
  chans : AMap Channel := []
  refusedAt : Option Nat := none
  deriving DecidableEq, Repr

/-! ### Switches, stream nodes and die-edge elements -/

/-- A read or write generator of a stream node: its descriptor, the bytes it has walked, and its stall with the number of
that wait, and the address of a miss that waits for a walk (R212, R213, R217, R224). -/
structure Generator where
  desc : Option CopyDesc := none
  done : Nat := 0
  stalled : Option Word := none
  refused : Bool := false
  walking : Option Nat := none
  seq : BitVec 16 := 0
  heatWindow : Option Nat := none
  deliv : Nat := 0
  starve : Nat := 0
  deriving DecidableEq, Repr

/-- The switch of an element: row store, input FIFOs, the core's send and receive FIFOs, delay lines, width adapter,
accumulator, constants, fetch and arrival queues (R129 to R142). Ports are numbered N 0, E 1, S 2, W 3, V 4, and 5 is a
die-edge element's outer link. `accFresh` says that ACC takes the tag of its next input, and `accUsed` that there has been one
since installation (R136); `latch` and `nodeSeq` are a stream node's latch table and its count of waits (R213, R217);
`landedAt` is the cycle in which the last outer word landed (R132); `popped` lists the cycles of recent pops of an input whose
credits take eight cycles (R141). -/
structure Switch where
  rows : AMap (BitVec 64) := []
  input : AMap Fifo := []
  send : AMap Fifo := []
  recv : AMap Fifo := []
  delay0 : List LinkWord := []
  delay1 : List LinkWord := []
  adapter : List LinkWord := []
  adapterHalf : Option LinkWord := none
  acc : LinkWord := {}
  accAlu : Nat := 0
  accFresh : Bool := true
  accUsed : Bool := false
  consts : AMap (BitVec 256) := []
  queue : Fifo := {}
  reader : Generator := {}
  writer : Generator := {}
  latch : List TlbEntry := []
  nodeSeq : BitVec 16 := 0
  outFlight : Nat := 0
  landedAt : Option Nat := none
  popped : AMap (List Nat) := []
  retrainUntil : AMap Nat := []
  deriving DecidableEq, Repr

/-- A link word between switches that does not land in the next cycle: where it comes from, where it goes and when (R141). -/
structure Crossing where
  src : Nat := 0
  dst : Nat := 0
  port : Nat := 0
  word : LinkWord := {}
  at_ : Nat := 0
  timed : Bool := true
  deriving DecidableEq, Repr

/-! ### Twin pairs and quads -/

/-- A twin pair: licence, requests, command stream, accumulators (key tile × 2,048 + 32 m + n), scale memory, tables
(key table × 16 + code) and the twin window (R248, R249, R253, R268). Holder and sides: 0 none, 1 lower twin, 2 upper twin.
`windowNext` holds the window writes of the current cycle by register: the writer's side and the value. -/
structure Pair where
  holder : Nat := 0
  reqLower : Bool := false
  reqUpper : Bool := false
  stream : List MCmd := []
  entered : Nat := 0
  acc : AMap (BitVec 32) := []
  scale : Mem := {}
  tables : AMap (BitVec 16) := []
  window : AMap Word := []
  windowNext : AMap (Nat × Word) := []
  releaseOrder : List Nat := []
  saved : AMap MKind := []
  deriving DecidableEq, Repr

/-- A sum-product command with the registers its issue read (R282 to R287). -/
inductive SpKind where
  | load (a : Word) (idx n : Nat)
  | store (a : Word) (idx n : Nat)
  | up (a b : Word) (d : Nat) (op leaves : Nat) (root : Bool)
  | down (a b : Word) (d u e : Nat) (op leaves : Nat) (acc : Bool)
  | mode (m : Nat)
  | norm (idx n x : Nat)
  | wait
  deriving DecidableEq, Repr

/-- A command in an engine's queue or on its way to it, with the quad's enabled cycle of its issue (R274); what it has read of
its words already (none for an error), and which words it has written (R276). -/
structure SpCmd where
  num : Nat := 0
  core : Nat := 0
  slot : Nat := 0
  at_ : Nat := 0
  kind : SpKind
  seen : AMap (Option Nat) := []
  wrote : List Nat := []
  deriving DecidableEq, Repr

/-- A set of equal CPYQ commands held in the combining node (R176). -/
structure HeldSet where
  designator : Word := 0
  mask : Nat := 0
  opened : Nat := 0
  cmds : List CopyCmd := []
  deriving DecidableEq, Repr

/-- A participant of an episode: a thread of a core, or a saved thread of the region saved under a key (R294, R300). `gone` says that its
slot has a new thread since, which takes no part. -/
structure Party where
  saved : Option Nat := none
  thread : ThreadRef := {}
  level : Nat := 1
  gone : Bool := false
  deriving DecidableEq, Repr

/-- An episode that has been detected and not yet released: the quad of a quad barrier or the tree of a group, the group,
and its participants (R294). -/
structure Episode where
  quad : Nat := 0
  tree : Option Nat := none
  group : Nat := 0
  parties : List Party := []
  deriving DecidableEq, Repr

/-- A quad: sum-product engine, combining node, quad barrier, L2 TLB, walk cache, translation generation, operating point with
its count of enabled cycles, and contention predictor (R176, R196, R211, R214, R272, R291, R335). -/
structure Quad where
  scratch : Mem := {}
  mode : Nat := 0
  queue : List SpCmd := []
  path : List SpCmd := []
  sent : Nat := 0
  spTurn : Nat := 3
  held : List HeldSet := []
  entering : List (Word × CopyCmd) := []
  detected : List Episode := []
  l2 : List TlbEntry := []
  walkCache : List WalkEntry := []
  walks : List WalkJob := []
  gen : BitVec 16 := 0
  opp : Nat := 0
  ticks : Nat := 0
  predictor : List PredEntry := []
  deriving DecidableEq, Repr

/-- A die's last-level translation cache with its generation, the misses of its stream nodes that wait for a walker in arrival order, and
the generators (node, and whether it is the writer) that its two walkers serve in cycle `servedAt` (R210, R212, R214). -/
structure Lltc where
  entries : List TlbEntry := []
  gen : BitVec 16 := 0
  walks : List WalkJob := []
  servedAt : Nat := 0
  served : List (Nat × Bool) := []
  deriving DecidableEq, Repr

/-! ### Home slices, tiers and traverse -/

/-- A monitor entry of a home slice, named by its function, its global address and its value; `pa` is where the doubleword is homed
(R201, R202). -/
structure Monitor where
  func : Nat := 0
  va : Nat := 0
  pa : Nat := 0
  value : Word := 0
  waiters : List ThreadRef := []
  deriving DecidableEq, Repr

/-- A gravity entry of a home slice (R240). -/
structure Gravity where
  page : Nat := 0
  count : Nat := 0
  q0 : Nat := 0
  q1 : Nat := 0
  q2 : Nat := 0
  q3 : Nat := 0
  deriving DecidableEq, Repr

/-- A home slice: monitors and gravity table (R201, R240). The values of its lines stand in the one coherent memory. -/
structure Slice where
  monitors : List Monitor := []
  gravity : List Gravity := []
  deriving DecidableEq, Repr

/-- An entry of a stream-heat table (R240). -/
structure Heat where
  window : Nat := 0
  deliv : Nat := 0
  starve : Nat := 0
  deriving DecidableEq, Repr

/-- The state of a traverse slot (R231): `starting` while the token of its MIGR still travels (R238). -/
inductive TState where
  | free | starting | copying | finishing | aborting
  deriving DecidableEq, Repr

/-- A traverse slot (R231): the bitmaps are numbers whose bit j is line j; a leaf entry is its address and value. `cause`
is that of a running abort; `srcBefore`, `dstBefore` and `routed` give the values a discarded line may read as (R236). -/
structure TSlot where
  state : TState := .free
  func : Nat := 0
  va : Nat := 0
  size : Nat := 0
  src : Nat := 0
  dst : Nat := 0
  owner : Nat := 0
  part : Nat := 0
  leaf : List (Nat × Nat) := []
  copied : Nat := 0
  modified : Nat := 0
  lock : Option Nat := none
  lost : Nat := 0
  cause : Nat := 0
  dstBefore : Mem := {}
  srcBefore : Mem := {}
  routed : AMap (List (List Byte)) := []
  deriving DecidableEq, Repr

/-- A traverse engine with the stream-heat table beside it (R231, R240); `lineAt` is the cycle of its last line copy. -/
structure Engine where
  slots : AMap TSlot := []
  turn : Nat := 0
  lineAt : Option Nat := none
  heat : List Heat := []
  deriving DecidableEq, Repr

/-- What the LPDDR6 controllers hold: the 12-bit records of carve-out lines, and the errors of their records and of their data
(R226, R228), under physical addresses of carve-out lines divided by 64. `discarded` are the LPDDR6 lines, by address divided by 64,
that were discarded since an error came to their record: their reads raise none (R236). `pending` are the line writes that a slice
has performed and the controller has not served, oldest first, each with its partition (R227, R364). -/
structure SectorCache where
  records : AMap (BitVec 12) := []
  badRecords : List Nat := []
  badLines : List Nat := []
  pending : List (Nat × Nat) := []
  discarded : List Nat := []
  deriving DecidableEq, Repr

/-! ### Regions -/

/-- One entry of a cairn table (R37). -/
structure CairnEntry where
  codeOff : Nat := 0
  id : Nat := 0
  row : Nat := 0xFFFF
  glive : Nat := 0
  vlive : Nat := 0
  klive : Nat := 0
  hlive : Nat := 0
  acclive : Nat := 0
  bivlive : Nat := 0
  deriving DecidableEq, Repr

/-- A segment of a region: row counter, run state, kept start, element fault, the cycles of recent own holds, whether its
last attempt was held, the cycle of that attempt, and the last cycle in which a row that waited for a Yarnex word held it (R138,
R140, R149, R346). -/
structure Segment where
  c : Nat := 0
  running : Bool := false
  pendingStart : Bool := false
  fault : Option (Nat × Nat) := none
  ownHolds : List Nat := []
  lastHeld : Bool := false
  attemptAt : Option Nat := none
  yarnexAt : Option Nat := none
  deriving DecidableEq, Repr

/-- A record of the engine binding table (R41, R312). -/
structure Binding where
  engine : Nat := 0
  index : Nat := 0
  row : Nat := 0
  col : Nat := 0
  layer : Nat := 0
  die : Nat := 0
  deriving DecidableEq, Repr

/-- The code and data sections of one core of a configuration (R39, R40). -/
structure CoreCode where
  row : Nat := 0
  col : Nat := 0
  layer : Nat := 0
  off : Nat := 0
  size : Nat := 0
  deriving DecidableEq, Repr

/-- A region: a configuration placed on the grid, with everything the command processor and the belay network keep for it
(R91, R145, R290, R291, R295, R301, R305, R311 to R314, R323). Belay entries are keyed by quad × 16 + tree (R307), and
`entriesNext` holds those written in the current cycle (R298). `ownTiers` are the tiers that may take the save area when the command
processor takes it itself (R246), and `saveFunc` the function in which LAUNCH.preempt named the area (R203); `exits` the outputs
of its rows that lead out of its tiles (R143). -/
structure Region where
  part : Nat := 0
  inst : Nat := 0
  func : Nat := 0
  queue : Option Nat := none
  prio : Nat := 0
  ep : Nat := 0
  eligibleAt : Nat := 0
  cmd : Nat := 0
  config : Nat := 0
  handle : Word := 0
  signal : Word := 0
  irq : Bool := false
  h : Nat := 1
  w : Nat := 1
  frame : Nat := 1
  offset : Nat := 1
  frames : Nat := 0
  start : Nat := 0
  twin : Bool := false
  quad : Bool := false
  prow : Nat := 0
  pcol : Nat := 0
  layer : Nat := 0
  cores : List CoreCode := []
  cairns : AMap (List CairnEntry) := []
  bindings : List Binding := []
  exits : List (Nat × Nat) := []
  nodes : List Nat := []
  edges : List Nat := []
  rowCounters : AMap Nat := []
  nt : Nat := 0
  trees : AMap Nat := []
  share : Option (Nat × Nat) := none
  entries : AMap (BitVec 32) := []
  entriesNext : AMap (BitVec 32) := []
  domains : List Word := []
  phases : AMap Nat := []
  detected : List Episode := []
  segments : AMap Segment := []
  nextSweep : Nat := 0
  lastSweep : Option (Bool × Nat × Nat) := none
  preempt : Option (Nat × Nat) := none
  ownTiers : Option Nat := none
  saveFunc : Nat := 0
  forced : Bool := false
  faulted : Bool := false
  ending : Bool := false
  code : Mem := {}
  working : List (Nat × Nat × Nat) := []
  deriving DecidableEq, Repr

/-- A saved region: what a restore puts back, beside the bytes of the save area (R327, R328, R330). `out` says that it has been
restored: the bytes of its save area still stand, and the launch no longer counts as saved. `mail` holds the user messages
that no channel had taken: the core's key, the channel and the data; `sections` the bytes that the save gave the sections of kinds 17
to 25 in its area, by which a restore knows them again; the area's function is `region.saveFunc`; `chunks` the pieces of 64 KiB of an area that the command processor took
(R246). -/
structure Saved where
  region : Region := {}
  out : Bool := false
  area : Nat := 0
  cores : AMap Core := []
  tiles : AMap MemTile := []
  switches : AMap Switch := []
  pairs : AMap Pair := []
  quads : AMap Quad := []
  mail : List (Nat × Nat × Word) := []
  sections : List (List Byte) := []
  chunks : List Nat := []
  deriving DecidableEq, Repr

/-! ### Partitions -/

/-- The head launch of a queue on its way to placement (R242, R306, R308, R310): how many pages of its working set staging has
taken, whether that was all, and the traverses it has started, by engine, slot and page. -/
structure HeadLaunch where
  readyAt : Nat := 0
  deadline : Nat := 0
  nextPage : Nat := 0
  taken : Bool := false
  moves : List (Nat × Nat × Nat) := []
  eligibleAt : Option Nat := none
  deriving DecidableEq, Repr

/-- A hardware queue (R302, R303). -/
structure Queue where
  qbase : Word := 0
  qctl : Word := 0
  tail : Nat := 0
  head : Nat := 0
  err : Bool := false
  ovf : Bool := false
  launch : Option HeadLaunch := none
  deriving DecidableEq, Repr

/-- A retention whose die is taken offline: its bytes wait for the successor in a save area of pieces of 64 KiB (R246). -/
structure Evacuated where
  ret : Retention := {}
  chunks : List Nat := []
  deriving DecidableEq, Repr

/-- The reservation of a partition (R310), with what tells its launch from others of the queue. -/
structure Reservation where
  queue : Nat := 0
  inst : Nat := 0
  head : Nat := 0
  eligibleAt : Nat := 0
  prow : Nat := 0
  pcol : Nat := 0
  layer : Nat := 0
  h : Nat := 0
  w : Nat := 0
  twin : Bool := false
  since : Nat := 0
  deriving DecidableEq, Repr

/-- The state of a TDISP device interface (R356). -/
inductive VfState where
  | unlocked | locked | run | error
  deriving DecidableEq, Repr

/-- SPDM with one requester: what has been negotiated, the session that waits for its FINISH with the IDE stream whose key it sets and
its random number, and the sessions (R355, R356). -/
structure Spdm where
  version : Bool := false
  capabilities : Bool := false
  p384 : Option Bool := none
  pending : Option Nat := none
  pendingKey : Nat × Nat := (0, 0)
  sessions : List Nat := []
  nextSession : Nat := 1
  deriving DecidableEq, Repr

/-- A merge under way (R359, R360): the absorbed partition, the quiesce deadline, the queues whose EN comes back, and the queues
that have been seen with BUSY = 0; `waited` says that the wait of step 3 has ended in time. -/
structure Merge where
  absorb : Nat := 0
  deadline : Nat := 0
  enabled : List (Nat × Nat) := []
  quiet : List (Nat × Nat) := []
  waited : Bool := false
  deriving DecidableEq, Repr

/-- A partition and its control block; `ringPages` are the frames of a locked interface's rings, `ideLink` and `ideKeys` the keys of
the IDE link stream and of the selective streams, and `bound` the stream to which an interface is bound (R356); `xtsKey` names the
draw of its memory-encryption key (R353); `yarnexHeld` counts the held cycles of the window that runs, and `thrAt` is the last cycle
in which a core was throttled (R346) (R203, R229, R230, R243, R246, R302, R304, R317, R338, R344, R347, R349 to R360). -/
structure Partition where
  exists_ : Bool := false
  stackSet : Nat := 0
  cxlp : Nat := 0
  nvf : Nat := 0
  lpbase : Nat := 0
  lpsize : Nat := 0
  txctl : Word := 0
  txroot : AMap Word := []
  hvec : AMap Word := []
  tokbase : Word := 0
  queues : AMap Queue := []
  lastAt : AMap Nat := []
  reservation : Option Reservation := none
  saves : AMap Saved := []
  oldSaves : List Saved := []
  evacuated : List Evacuated := []
  schits : AMap Word := []
  sclmiss : AMap Word := []
  scsmiss : AMap Word := []
  scwb : AMap Word := []
  heatMode : Nat := 1
  energy : Word := 0
  grant : Nat := 0
  collTag : Nat := 0
  collBin : Nat := 0
  collThr : Bool := false
  collEn : Bool := false
  thrAt : Option Nat := none
  yarnexHeld : Nat := 0
  windowAt : Nat := 0
  ready : Word := 0
  yxready0 : Word := 0
  yxready1 : Word := 0
  offStatus : Nat := 0
  offReq : Option (Nat × Nat × Nat × Nat) := none
  mergeStatus : Nat := 0
  merge : Option Merge := none
  dbgHalt : Bool := false
  dbgTrace : Bool := false
  dbgPerf : Bool := false
  haltreq : Bool := false
  traceen : Bool := false
  perfen : Bool := false
  measures : AMap (List Nat) := []
  spdm : Spdm := {}
  vfs : AMap VfState := []
  ringPages : AMap (List Nat) := []
  xtsKey : Nat := 0
  ideLink : Option Nat := none
  ideKeys : AMap Nat := []
  bound : AMap Nat := []
  deriving DecidableEq, Repr

/-! ### Messages on the dynamic network -/

/-- A message on its way (R147): from a partition to a mailbox, a service core's reply to a requester, a launch packet to a core, a user
message. -/
inductive NetMsg where
  | mail (part service : Nat) (words : List Word)
  | reply (service : Nat) (handle : Word) (refuse : Bool)
  | packet (core : Nat) (p : LaunchPacket)
  | user (m : UserMsg)
  deriving DecidableEq, Repr

/-- A re-latch token and the targets it has still to pass, by number (R215). MIGR's token names its page's source lines, whose
ownerships it recalls (R233), and the slot that waits for it (R238). -/
structure Token where
  id : Nat := 0
  part : Nat := 0
  scope : Nat := 0
  func : Nat := 0
  va : Nat := 0
  bits : Nat := 0
  global : Bool := false
  lines : Nat × Nat := (0, 0)
  slot : Option (Nat × Nat) := none
  targets : List Nat := []
  removed : Nat := 0
  deriving DecidableEq, Repr

/-- One turn of the interleaving: a thread's turn, a thread's turn whose variable-latency answers come later, a core's own
choice among its threads (R75), a thread whose access, or a memory tile whose switch access, a bank conflict refuses in this cycle (R156), a word
that a sum-product command reads or writes before its completion (R276), a granule that the oldest command of an array's stream
reads (R255), an event of the device, or the end of a cycle. -/
inductive Turn where
  | run (t : ThreadRef)
  | issue (t : ThreadRef)
  | pick (core : Nat)
  | conflict (t : ThreadRef)
  | rowConflict (tile : Nat)
  | spRead (quad num word : Nat)
  | spWrite (quad num word : Nat)
  | arrayRead (pair granule : Nat)
  | event (i : Instr)
  | tick
  deriving DecidableEq, Repr

/-! ### The whole machine -/

/-- The module. Keys: a core or a memory tile by die × 1,024 + row × 32 + column (service core 8,192 + 4 × die + index), a
switch by its tile's key, by 16,384 + 32 × HBM4E stack + node, or by 20,480 + 1,024 × twin stack + element; a pair by
twin stack × 1,024 + row × 32 + column; a quad by die × 96 + its number; a home slice by die × 64 + slice; a region by
partition × 2^24 + INST. -/
structure State where
  cycle : Nat := 0
  periodStart : Nat := 0
  agenda : List Turn := []
  cur : ThreadRef := {}
  defer : Bool := false
  fresh : Nat := 0
  gmem : Mem := {}
  gmemPrev : Mem := {}
  gateSeq : Nat := 0
  gatePrev : AMap (List GateWrite) := []
  tokens : List Token := []
  nextToken : Nat := 0
  cores : AMap Core := []
  tiles : AMap MemTile := []
  switches : AMap Switch := []
  crossings : List Crossing := []
  pairs : AMap Pair := []
  quads : AMap Quad := []
  lltcs : AMap Lltc := []
  slices : AMap Slice := []
  engines : AMap Engine := []
  sector : SectorCache := {}
  scsize : Nat := 0
  layers : AMap Nat := []
  draining : List (Nat × Nat) := []
  cxlBytes : AMap Nat := []
  offlineDies : List Nat := []
  freezing : List Nat := []
  parts : AMap Partition := []
  regions : AMap Region := []
  netbnd : Nat := 0
  overhead : Word := 0
  stretchUntil : Nat := 0
  stretch : Nat := 0
  ballast : AMap (List (Nat × Nat)) := []
  powerUnit : Nat := 1
  grains : List GrainTouch := []
  net : List NetMsg := []
  interrupts : List (Nat × Nat × Nat) := []
  responses : List (List Byte) := []
  otairReports : List ThreadRef := []
  deriving DecidableEq, Repr

/-- Why the machine can stop. -/
inductive Fault where
  /-- raised by `step` when the agenda names a core or a slot outside the part; safe: the part has no such thread -/
  | noSuchThread
  deriving DecidableEq, Repr

/-- Why a step has no meaning. -/
inductive Refusal where
  /-- raised by `exec` for an instruction that has no meaning yet; safe: the machine does nothing instead -/
  | notModelled (mnemonic : String)
  deriving DecidableEq, Repr

/-- The partition that owns the whole package in layout Full (R348), the layout a module reset without arguments of its
own takes. DESIGN CHOICE, log entry 2: the specification leaves layout, LPDDR6 range and grants to Otair. -/
def resetPartition : Partition :=
  { exists_ := true, stackSet := 15, lpbase := 0, lpsize := 2048, measures := [(4, [15, 2048 * 2 ^ 16 + 15, 15])] }

/-- The state right after module reset (R6, R94, R226, R335, R348): no thread, no region, empty memory and caches, all
sixteen layers of every HBM4E stack present, and one partition. Log entries 1 to 4 name what the specification leaves
to Otair or undefined. -/
def State.reset : State :=
  { parts := [(0, resetPartition)]
    layers := [(0, 0xFFFF), (1, 0xFFFF), (2, 0xFFFF), (3, 0xFFFF), (4, 0xFFFF), (5, 0xFFFF), (6, 0xFFFF), (7, 0xFFFF)]
    netbnd := 15 }

end Sys2Proof.Machine
end

