-- ==== Sys2Proof/Machine/Ops.lean ====
section
/-! DEFINITION. The named operations every meaning is built from: places and keys, access to each part of the state,
messages, the end of an instruction (retire, block, trap), taking a trap (R318, R319) and returning from one (R321). -/
namespace Sys2Proof.Machine

/-! ### Places (R3, R91, R147, R311) -/

/-- The first key of the service cores. -/
def serviceBase : Nat := 8192

/-- Does the key name a service core? -/
def isService (core : Nat) : Bool := decide (serviceBase ≤ core)

/-- The key of a tile. -/
def tileKey (die row col : Nat) : Nat := die * 1024 + row * 32 + col

/-- The die a core or a tile stands on. -/
def dieOf (k : Nat) : Nat := if isService k then (k - serviceBase) / 4 else k / 1024

/-- Die row and column of a tile; zero for a service core (R91). -/
def rowOf (k : Nat) : Nat := if isService k then 0 else k / 32 % 32
def colOf (k : Nat) : Nat := if isService k then 0 else k % 32

/-- The twin stack and the layer of a die (R3). -/
def stackOf (die : Nat) : Nat := die / 2
def layerOf (die : Nat) : Nat := die % 2

/-- The key of the twin of a tile (R3). -/
def twinOf (k : Nat) : Nat := if dieOf k % 2 = 0 then k + 1024 else k - 1024

/-- The key of the pair that a tile belongs to. -/
def pairKey (k : Nat) : Nat := stackOf (dieOf k) * 1024 + rowOf k * 32 + colOf k

/-- The key of the quad that covers a tile (R3). -/
def quadKey (k : Nat) : Nat := dieOf k * 96 + 8 * (rowOf k / 2) + colOf k / 4

/-- The number of a core within its quad (R81); zero on a service core (R91). -/
def qcoreOf (k : Nat) : Nat := if isService k then 0 else 2 * (rowOf k % 2) + colOf k % 4 / 2

/-- The compute tile with a QCORE number in a tile's quad (R81). -/
def quadCore (k q : Nat) : Nat :=
  tileKey (dieOf k) (2 * (rowOf k / 2) + q / 2) (4 * (colOf k / 4) + 2 * (q % 2) + q / 2)

/-- A position in the layout of DST (R147). -/
def dstPos (die row col unit : Nat) : Nat := die * 8192 + row * 256 + col * 8 + unit

/-- The position of a core (R147): unit 0 on a tile, unit 4 on a service core. -/
def corePos (k : Nat) : Nat :=
  if isService k then dieOf k * 8192 + (k - serviceBase) % 4 * 8 + 4 else dstPos (dieOf k) (rowOf k) (colOf k) 0

/-- The core that a position names (R147). -/
def coreAt (pos : Nat) : Nat :=
  if pos % 8 = 4 then serviceBase + 4 * (pos / 8192) + bitsOf pos 12 3 % 4
  else tileKey (pos / 8192) (bitsOf pos 12 8) (bitsOf pos 7 3)

/-- The key of a region of a partition (R313). -/
def regionKey (part inst : Nat) : Nat := part * 2 ^ 24 + inst

/-- The tile that stands at a region-relative position (R311, R312). -/
def regionTile (r : Region) (row col layer : Nat) : Nat :=
  let p := r.prow + row
  let q := r.pcol + col
  let stack := 2 * (p / 24) + q / 32
  tileKey (2 * stack + (r.layer + layer) % 2) (p % 24) (q % 32)

/-- The package row and column of a tile (R311). -/
def packRow (k : Nat) : Nat := 24 * (stackOf (dieOf k) / 2) + rowOf k
def packCol (k : Nat) : Nat := 32 * (stackOf (dieOf k) % 2) + colOf k

/-- Does the region hold this position (R39, R147)? -/
def inRegion (r : Region) (row col layer : Nat) : Bool :=
  decide (row < r.h) && decide (col < r.w) && (decide (layer = 0) || (r.twin && decide (layer = 1)))

/-- Is the region-relative position a compute tile (R35)? -/
def computePos (row col : Nat) : Bool := (row + col) % 2 == 0

/-- Is the tile one of the region's (R311)? -/
def regionHas (r : Region) (k : Nat) : Bool :=
  !isService k && decide (r.prow ≤ packRow k) && decide (packRow k < r.prow + r.h) && decide (r.pcol ≤ packCol k) &&
    decide (packCol k < r.pcol + r.w) && (r.twin || decide (layerOf (dieOf k) = r.layer))

/-- The tiles of a region, own layer first, row by row. -/
def regionTiles (r : Region) : List Nat :=
  (List.range (if r.twin then 2 else 1)).flatMap fun l =>
    (List.range r.h).flatMap fun i => (List.range r.w).map fun j => regionTile r i j l

/-- The cores of a region. -/
def regionCores (r : Region) : List Nat :=
  (regionTiles r).filter fun k => (rowOf k + colOf k) % 2 == 0

/-! ### Access to the parts of the state -/

def getCore (s : State) (k : Nat) : Core := amGet s.cores k {}
def setCore (s : State) (k : Nat) (c : Core) : State := { s with cores := amInsert s.cores k c }
def modCore (s : State) (k : Nat) (f : Core → Core) : State := setCore s k (f (getCore s k))
def getThread (s : State) (t : ThreadRef) : Thread := amGet (getCore s t.core).slots t.slot {}
def setThread (s : State) (t : ThreadRef) (x : Thread) : State :=
  modCore s t.core fun c => { c with slots := amInsert c.slots t.slot x }
def modThread (s : State) (t : ThreadRef) (f : Thread → Thread) : State := setThread s t (f (getThread s t))
def getTile (s : State) (k : Nat) : MemTile := amGet s.tiles k {}
def setTile (s : State) (k : Nat) (x : MemTile) : State := { s with tiles := amInsert s.tiles k x }
def modTile (s : State) (k : Nat) (f : MemTile → MemTile) : State := setTile s k (f (getTile s k))
def getSwitch (s : State) (k : Nat) : Switch := amGet s.switches k {}
def setSwitch (s : State) (k : Nat) (x : Switch) : State := { s with switches := amInsert s.switches k x }
def modSwitch (s : State) (k : Nat) (f : Switch → Switch) : State := setSwitch s k (f (getSwitch s k))
def getPair (s : State) (k : Nat) : Pair := amGet s.pairs k {}
def setPair (s : State) (k : Nat) (x : Pair) : State := { s with pairs := amInsert s.pairs k x }
def modPair (s : State) (k : Nat) (f : Pair → Pair) : State := setPair s k (f (getPair s k))
def getQuad (s : State) (k : Nat) : Quad := amGet s.quads k {}
def setQuad (s : State) (k : Nat) (x : Quad) : State := { s with quads := amInsert s.quads k x }
def modQuad (s : State) (k : Nat) (f : Quad → Quad) : State := setQuad s k (f (getQuad s k))
def getPart (s : State) (p : Nat) : Partition := amGet s.parts p {}
def setPart (s : State) (p : Nat) (x : Partition) : State := { s with parts := amInsert s.parts p x }
def modPart (s : State) (p : Nat) (f : Partition → Partition) : State := setPart s p (f (getPart s p))
def getRegion (s : State) (k : Nat) : Option Region := amFind s.regions k
def setRegion (s : State) (k : Nat) (r : Region) : State := { s with regions := amInsert s.regions k r }
def modRegion (s : State) (k : Nat) (f : Region → Region) : State :=
  match getRegion s k with
  | some r => setRegion s k (f r)
  | none => s
def getLltc (s : State) (d : Nat) : Lltc := amGet s.lltcs d {}
def modLltc (s : State) (d : Nat) (f : Lltc → Lltc) : State := { s with lltcs := amInsert s.lltcs d (f (getLltc s d)) }
def getSlice (s : State) (k : Nat) : Slice := amGet s.slices k {}
def modSlice (s : State) (k : Nat) (f : Slice → Slice) : State := { s with slices := amInsert s.slices k (f (getSlice s k)) }
def getEngine (s : State) (k : Nat) : Engine := amGet s.engines k {}
def modEngine (s : State) (k : Nat) (f : Engine → Engine) : State := { s with engines := amInsert s.engines k (f (getEngine s k)) }
def getTSlot (s : State) (e n : Nat) : TSlot := amGet (getEngine s e).slots n {}
def setTSlot (s : State) (e n : Nat) (x : TSlot) : State :=
  modEngine s e fun g => { g with slots := amInsert g.slots n x }
def getQueue (s : State) (p q : Nat) : Queue := amGet (getPart s p).queues q {}
def setQueue (s : State) (p q : Nat) (x : Queue) : State :=
  modPart s p fun t => { t with queues := amInsert t.queues q x }
def modQueue (s : State) (p q : Nat) (f : Queue → Queue) : State := setQueue s p q (f (getQueue s p q))

/-- The operating point that clocks a core: its quad's. A service core belongs to no quad and follows the reference clock
(log entry 9). -/
def coreOpp (s : State) (core : Nat) : Nat := if isService core then 7 else (getQuad s (quadKey core)).opp

/-- Does the partition own the twin stack (R350)? -/
def ownsStack (t : Partition) (stack : Nat) : Bool := t.exists_ && t.stackSet.testBit stack

/-- The partition that owns a twin stack (R348): a partition is numbered by its lowest stack. -/
def partOfStack (s : State) (stack : Nat) : Nat :=
  ((List.range 4).filter fun p => ownsStack (getPart s p) stack).headD stack

/-- The partition a core belongs to. -/
def partOfCore (s : State) (core : Nat) : Nat := partOfStack s (stackOf (dieOf core))

/-- The region of the executing thread; a service core's threads are in none (R91). -/
def threadRegion (s : State) (t : ThreadRef) : Option Region :=
  let x := getThread s t
  if isService t.core then none else getRegion s (regionKey x.part x.inst)

/-- The region that a core's tile belongs to. -/
def coreRegionKey (s : State) (core : Nat) : Option Nat :=
  (s.regions.filter fun p => regionHas p.2 core).head?.map (·.1)

/-- A free value that the specification leaves open, and the counter it consumes. -/
def freshCount (s : State) : Nat × State := (s.fresh, { s with fresh := s.fresh + 1 })

/-! ### The status register (R87) -/

def modeSys (x : Thread) : Bool := x.status.getLsbD 0
def pmodeSys (x : Thread) : Bool := x.status.getLsbD 1
def isRoped (x : Thread) : Bool := x.status.getLsbD 9
def ropeRank (x : Thread) : Nat := fieldOf x.status 11 10
def ropeMask (x : Thread) : Nat := fieldOf x.status 15 12

/-- A status word from its fields. -/
def statusWord (mode pmode roped : Bool) (rank mask : Nat) : Word :=
  BitVec.ofNat 64 (bit mode + 2 * bit pmode + 512 * bit roped + 1024 * (rank % 4) + 4096 * (mask % 16))

/-- The status with another mode and previous mode; the rope state stays. -/
def setModes (x : Thread) (mode pmode : Bool) : Thread :=
  { x with status := statusWord mode pmode (isRoped x) (ropeRank x) (ropeMask x) }

/-- The status with another rope state; the modes stay. -/
def setRope (x : Thread) (roped : Bool) (rank mask : Nat) : Thread :=
  { x with status := statusWord (modeSys x) (pmodeSys x) roped rank mask }

/-- The members of a thread's rope, or the thread alone (R81). -/
def ropeMembers (s : State) (t : ThreadRef) : List ThreadRef :=
  let x := getThread s t
  if isRoped x then
    ((List.range 4).filter fun q => (ropeMask x).testBit q).map fun q => { core := quadCore t.core q, slot := t.slot }
  else [t]

/-- Clears the rope state of every member of a thread's rope (R83, R84). -/
def dissolveRope (s : State) (t : ThreadRef) : State :=
  if isRoped (getThread s t) then (ropeMembers s t).foldl (fun s u => modThread s u fun x => setRope x false 0 0) s else s

/-! ### Messages -/

/-- The service core that a partition designates (R203): TXCTL.FSC. -/
def designated (s : State) (p : Nat) : Nat := serviceBase + fieldOf (getPart s p).txctl 4 0

/-- Posts a message of four doublewords from a partition to a service core: it is in the network until it enters the mailbox
(R147, R218). -/
def postMail (s : State) (part service : Nat) (l : List Word) : State := { s with net := s.net ++ [.mail part service l] }

/-- Doubleword 0 of the messages of R315. -/
def mailHead (kind cause inst func : Nat) (dbl : Bool) : Word :=
  BitVec.ofNat 64 (kind + 256 * cause + 65536 * (inst % 2 ^ 24) + 2 ^ 40 * (func % 128) + 2 ^ 47 * bit dbl)

/-- A requester's handle, doubleword 3 of R217. -/
def handleWord (pos index : Nat) (seq : BitVec 16) : Word :=
  BitVec.ofNat 64 (pos % 2 ^ 16 + 2 ^ 16 * (index % 256) + 2 ^ 32 * seq.toNat)

/-- An engine-error message (R315): cause, address and the position of the engine or slice. -/
def postEngineError (s : State) (p cause addr pos inst func : Nat) : State :=
  postMail s p (designated s p) [mailHead 0x22 cause inst func false, BitVec.ofNat 64 addr, BitVec.ofNat 64 pos, 0]

/-- Raises an MSI-X vector of a function of a partition (R354). -/
def raiseVector (s : State) (p func vector : Nat) : State := { s with interrupts := s.interrupts ++ [(p, func, vector)] }

/-! ### How an instruction ends -/

/-- What stops an instruction before it retires. The function says what the instruction leaves although it has not
retired: R14, R159, R164 and R199 for traps; the thread's requests and progress for a wait. -/
inductive Halt where
  | trap (cause : Nat) (val : Word) (keep : State → State)
  | wait (w : Wait) (keep : State → State)

/-- An instruction's work on the state, which a trap or a wait cuts short. -/
abbrev M := StateT State (Except Halt)

/-- Ends in a precise trap that leaves nothing behind (R318). -/
def trapM {α : Type} (cause : Nat) (val : Word) : M α := fun _ => .error (.trap cause val id)

/-- Ends in a trap that keeps part of the instruction's effect. -/
def trapKeepM {α : Type} (cause : Nat) (val : Word) (keep : State → State) : M α := fun _ => .error (.trap cause val keep)

/-- Blocks; the instruction is executed again later. -/
def waitM {α : Type} (w : Wait) : M α := fun _ => .error (.wait w id)

/-- Blocks, with what the wait leaves in the state. -/
def waitKeepM {α : Type} (w : Wait) (keep : State → State) : M α := fun _ => .error (.wait w keep)

/-- Trap causes (R316). -/
def causeIllegal : Nat := 1
def causePrivilege : Nat := 2
def causeTag : Nat := 3
def causeAlignment : Nat := 4
def causeAddress : Nat := 5
def causeMemory : Nat := 6
def causeBreak : Nat := 7
def causeLicence : Nat := 8
def causeBivouac : Nat := 9

/-- Is the wait one of those that STALLS counts (R95)? -/
def countsStall : Wait → Bool
  | .port _ _ => true
  | .bank => true
  | .copyQueue => true
  | .combining => true
  | .engineQueue => true
  | .spQueue => true
  | _ => false

/-- The thread stops at TRAPPC and posts a THREADFAULT message with a new sequence number (R319, R217). -/
def threadFault (s : State) (t : ThreadRef) (dbl : Bool) : State :=
  let x := getThread s t
  let seq := x.seq + 1
  let s := setThread s t { x with wait := .threadFault dbl, seq := seq }
  postMail s x.part (designated s x.part)
    [mailHead 0x20 (fieldOf x.trapcause 7 0) x.inst x.func dbl, x.trappc, x.trapval,
     handleWord (corePos t.core) t.slot seq]

/-- HVEC of a function (R317). -/
def hvecOf (s : State) (p func : Nat) : Word := amGet (getPart s p).hvec func 0

/-- Taking a trap (R318): the trap registers are written, the previous mode saved, the mode set and the handler entered; a
second trap in an application core's handler, or the lack of a handler, stops the thread (R319); a service core without a
handler is reported to Otair. The rope of the thread ceases to exist (R84). -/
def takeTrap (s : State) (t : ThreadRef) (cause : Nat) (val : Word) : State :=
  let s := dissolveRope s t
  let x := getThread s t
  let x := { x with trappc := x.pc, trapcause := BitVec.ofNat 64 cause, trapval := val, inTrap := true, wait := .none, begun := none }
  let enter (vec : Word) : State := setThread s t { setModes x true (modeSys x) with pc := vec }
  let hv := hvecOf s x.part x.func
  if modeSys x && !isService t.core then threadFault (setThread s t x) t true
  else if fieldOf x.trapvec 56 2 ≠ 0 then enter (BitVec.ofNat 64 (4 * fieldOf x.trapvec 56 2))
  else if isService t.core then
    { setThread s t { x with wait := .otair } with otairReports := s.otairReports ++ [t] }
  else if hv.getLsbD 0 then enter (BitVec.ofNat 64 (4 * fieldOf hv 56 2))
  else threadFault (setThread s t x) t false

/-- The instruction retires: the thread counts it and goes on at a PC (R76, R95). -/
def retire (s : State) (t : ThreadRef) (pc : Word) : State :=
  modThread s t fun x => { x with pc := pc, instret := x.instret + 1, wait := .none, begun := none }

/-- An instruction at an address retires: its thread lets go the port directions that the instruction holds, and outside a trap
handler all others. The directions of a trapped instruction stay held while its handler runs (R110). -/
def releasePorts (s : State) (t : ThreadRef) (x : Thread) : State :=
  match (getCore s t.core).portHold with
  | [] => s
  | h => modCore s t.core fun c => { c with portHold := h.filter fun p => decide (p.2.slot ≠ t.slot) || (x.inTrap && decide (p.2.pc ≠ x.pc)) }

/-- The instruction does not retire: the thread records what it waits for (R70). The end of each cycle counts STALLS (R95). -/
def blockThread (s : State) (t : ThreadRef) (w : Wait) : State := modThread s t fun x => { x with wait := w }

/-- Runs an instruction of the current thread to its end: it retires at the PC it answers, or at the next instruction when
it answers none; or it traps; or it blocks. `len` is its length in bytes. -/
def finish (len : Nat) (m : M (Option Word)) (s : State) : Host.Outcome State Fault Refusal :=
  match m s with
  | .ok (pc, s') =>
    .next (retire (releasePorts s' s.cur (getThread s s.cur)) s.cur (pc.getD ((getThread s s.cur).pc + BitVec.ofNat 64 len)))
  | .error (.trap cause val keep) => .next (takeTrap (keep s) s.cur cause val)
  | .error (.wait w keep) => .next (blockThread (keep s) s.cur w)

/-- Runs an instruction that always continues at the next one: a 32-bit form. -/
def run4 (m : M Unit) (s : State) : Host.Outcome State Fault Refusal := finish 4 (m >>= fun _ => pure none) s

/-- Runs an instruction that always continues at the next one: a 64-bit form (R11). -/
def run8 (m : M Unit) (s : State) : Host.Outcome State Fault Refusal := finish 8 (m >>= fun _ => pure none) s

/-- Runs an instruction that may jump. -/
def runJump (m : M (Option Word)) (s : State) : Host.Outcome State Fault Refusal := finish 4 m s

/-- A step of the device: it always has a next state. -/
def runStep (f : State → State) (s : State) : Host.Outcome State Fault Refusal := .next (f s)

/-! ### What a core has issued in the cycle (R75) -/

/-- What a core has issued in the current cycle. -/
def issuedNow (s : State) (core : Nat) : List (Nat × Nat) :=
  let c := getCore s core
  if c.issueAt = s.cycle then c.issued else []

/-- Has the slot had its instruction of this cycle? -/
def slotIssued (s : State) (t : ThreadRef) : Bool := (issuedNow s t.core).any fun p => p.1 == t.slot

/-- The slot takes its place in the cycle, and the pointer of its class stands at it (R75, R81). -/
def markIssued (s : State) (t : ThreadRef) (path : Nat) : State :=
  let l := issuedNow s t.core
  modCore s t.core fun c =>
    { c with issueAt := s.cycle, issued := l ++ [(t.slot, path)], dirs := if c.issueAt = s.cycle then c.dirs else []
             lastScalar := if path = 0 then t.slot else c.lastScalar
             lastVector := if path = 1 ∨ path = 2 then t.slot else c.lastVector }

/-! ### The executing thread -/

/-- The executing thread's context. -/
def self : M Thread := fun s => .ok (getThread s s.cur, s)

/-- Changes the executing thread's context. -/
def modSelf (f : Thread → Thread) : M Unit := fun s => .ok ((), modThread s s.cur f)

/-- The key of the executing core. -/
def selfCore : M Nat := fun s => .ok (s.cur.core, s)

/-- The state as the instruction has it so far. -/
def getS : M State := fun s => .ok (s, s)

/-- Changes the state. -/
def modS (f : State → State) : M Unit := fun s => .ok ((), f s)

/-- The current instruction's first word, as Privilege traps report it (R316). -/
def instrWord (i : Instr) : Word := ((encode i).headD 0).setWidth 64

/-- The Privilege trap of a sys-only form in app mode (R26). -/
def requireSys (i : Instr) : M Unit := do
  let x ← self
  if modeSys x then pure () else trapM causePrivilege (instrWord i)

/-- The Privilege trap of a form that only service cores run (R26). -/
def requireService (i : Instr) : M Unit := do
  let c ← selfCore
  if isService c then requireSys i else trapM causePrivilege (instrWord i)

/-! ### Returning from a trap (R321) -/

/-- The check of a target (R102): Alignment, then Address, with the target as TRAPVAL. -/
def checkTarget (t : Word) : M Unit :=
  if fieldOf t 1 0 ≠ 0 then trapM causeAlignment t
  else if fieldOf t 63 57 ≠ 0 then trapM causeAddress t
  else pure ()

/-- ERET: the saved mode comes back, PMODE becomes 0 and execution goes on at TRAPPC (R321). A service core stays in sys mode
(R26). -/
def returnFromTrap : M (Option Word) := do
  let x ← self
  checkTarget x.trappc
  let s ← getS
  let c ← selfCore
  modSelf fun x => { setModes x (pmodeSys x || isService c) false with inTrap := false, eretAt := some s.cycle }
  pure (some x.trappc)

end Sys2Proof.Machine
end

