-- ==== Sys2Proof/Machine/Operands.lean ====
section
/-! DEFINITION. Every operand form: general, vector and mask registers with their hard-wired members and their ports, tag
checks, masked writing, and FPCTL (R13, R14, R44, R58 to R60, R88, R108 to R110). -/
namespace Sys2Proof.Machine

/-! ### FIFOs of link words (R130) -/

/-- The head word, if it is eligible in a cycle. -/
def fifoHead (now : Nat) (f : Fifo) : Option LinkWord :=
  match f.words with
  | q :: _ => if q.at_ ≤ now then some q.word else none
  | [] => none

/-- How many words at the front are eligible in a cycle. -/
def fifoReady (now : Nat) (f : Fifo) : Nat := (f.words.takeWhile fun q => decide (q.at_ ≤ now)).length

/-- Is there room for n words in a cycle: room freed in the same cycle does not count. -/
def fifoRoom (cap now n : Nat) (f : Fifo) : Bool :=
  decide (f.words.length + (if f.takenAt = now then f.taken else 0) + n ≤ cap)

/-- The FIFO without its head. -/
def fifoPop (now : Nat) (f : Fifo) : Fifo :=
  { words := f.words.tail, taken := (if f.takenAt = now then f.taken else 0) + 1, takenAt := now }

/-- The FIFO with a word that becomes eligible in a given cycle. -/
def fifoPush (at_ : Nat) (w : LinkWord) (f : Fifo) : Fifo := { f with words := f.words ++ [{ word := w, at_ := at_ }] }

/-! ### Ports of the executing core (R14, R110, R129) -/

/-- The direction 0–4 of a g port register. -/
def gPortDir (r : Reg) : Nat := r.toNat - 24

/-- The direction 0–4 of a v port register. -/
def vPortDir (r : Reg) : Nat := r.toNat - 27

/-- The words of each direction that sources pop: one for a g port, two for a v port. -/
def popsOf (gs vs : List Reg) (dir : Nat) : Nat :=
  (gs.filter fun r => isGPort r && gPortDir r == dir).length + 2 * (vs.filter fun r => isVPort r && vPortDir r == dir).length

/-- A direction held by another unretired instruction of the core is not to be had: one of another slot, or the trapped one whose
handler the slot runs (R110). -/
def dirHeld (c : Core) (slot dir : Nat) : Bool :=
  let x := amGet c.slots slot {}
  match amFind c.portHold dir with
  | some h => decide (h.slot ≠ slot) || (x.inTrap && decide (h.pc ≠ x.pc))
  | none => false

/-- The first direction whose receive FIFO holds too few words, or that another thread holds. -/
def readBlocked (s : State) (gs vs : List Reg) : Option Nat :=
  let c := getCore s s.cur.core
  let sw := getSwitch s s.cur.core
  (List.range 5).find? fun dir =>
    let n := popsOf gs vs dir
    decide (n ≠ 0) && (dirHeld c s.cur.slot dir || decide (fifoReady s.cycle (amGet sw.recv dir {}) < n))

/-- The first direction whose send FIFO has too little room, or that another thread holds. -/
def writeBlocked (s : State) (gd vd : List Reg) : Option Nat :=
  let c := getCore s s.cur.core
  let sw := getSwitch s s.cur.core
  (List.range 5).find? fun dir =>
    let n := popsOf gd vd dir
    decide (n ≠ 0) && (dirHeld c s.cur.slot dir || !fifoRoom 4 s.cycle n (amGet sw.send dir {}))

/-- The words that were eligible in a FIFO, or took room there, when the cycle began: those taken since count, and those pushed since do
not. -/
def fifoBegan (now : Nat) (f : Fifo) : Nat := fifoReady now f + (if f.takenAt = now then f.taken else 0)

/-- What an instruction waits for that cannot have its ports: a receive FIFO that holds too few words, a send FIFO with too little room,
and else a direction that another instruction holds, or one that another instruction of the cycle has popped or pushed (R95, R110). -/
def portWait (s : State) (gs vs gd vd : List Reg) (dir : Nat) : Wait :=
  let sw := getSwitch s s.cur.core
  match (List.range 5).find? fun d => decide (fifoBegan s.cycle (amGet sw.recv d {}) < popsOf gs vs d) with
  | some d => .port d false
  | none =>
    match (List.range 5).find? fun d => decide (popsOf gd vd d ≠ 0) && decide (4 < fifoBegan s.cycle (amGet sw.send d {}) + popsOf gd vd d) with
    | some d => .port d true
    | none => .held dir

/-- Blocks until every port an instruction names can be popped and pushed (R14, R25): general and vector sources, general
and vector destinations. -/
def needPorts (gs vs gd vd : List Reg) : M Unit := do
  let s ← getS
  match readBlocked s gs vs with
  | some dir => waitM (portWait s gs vs gd vd dir)
  | none =>
    match writeBlocked s gd vd with
    | some dir => waitM (portWait s gs vs gd vd dir)
    | none => pure ()

/-- The directions an instruction names. -/
def namedDirs (gs vs : List Reg) : List Nat := (List.range 5).filter fun dir => decide (popsOf gs vs dir ≠ 0)

/-- The executing thread's slot holds these directions until its instruction retires (R110). -/
def holdDirs (dirs : List Nat) (s : State) : State :=
  match dirs with
  | [] => s
  | _ => modCore s s.cur.core fun c =>
      { c with portHold := dirs.foldl (fun m d => amInsert m d { slot := s.cur.slot, pc := (amGet c.slots s.cur.slot {}).pc }) c.portHold }

/-- The work of an instruction that names ports: it starts only when all of them can be popped and pushed, and an
instruction that traps or waits after that keeps its directions from the other threads of the core (R14, R25, R110). -/
def withPorts {α : Type} (gs vs gd vd : List Reg) (m : M α) : M α := fun s =>
  match needPorts gs vs gd vd s with
  | .error e => .error e
  | .ok (_, s1) =>
    match m s1 with
    | .ok r => .ok r
    | .error (.trap cause val keep) =>
      .error (.trap cause val fun s => holdDirs (namedDirs (gs ++ gd) (vs ++ vd)) (keep s))
    | .error (.wait w keep) => .error (.wait w fun s => holdDirs (namedDirs (gs ++ gd) (vs ++ vd)) (keep s))

/-- Pops one link word from a receive FIFO of the executing core. -/
def popPort (dir : Nat) : M LinkWord := do
  let s ← getS
  let f := amGet (getSwitch s s.cur.core).recv dir {}
  match fifoHead s.cycle f with
  | none => waitM (.port dir false)
  | some w => do
    modS fun s => modSwitch s s.cur.core fun x => { x with recv := amInsert x.recv dir (fifoPop s.cycle f) }
    pure w

/-- Pushes one link word into a send FIFO of the executing core; a step can take it from the next cycle on (R130). -/
def pushPort (dir : Nat) (w : LinkWord) : M Unit := do
  let s ← getS
  let f := amGet (getSwitch s s.cur.core).send dir {}
  if fifoRoom 4 s.cycle 1 f then
    modS fun s => modSwitch s s.cur.core fun x => { x with send := amInsert x.send dir (fifoPush (s.cycle + 1) w f) }
  else waitM (.port dir true)

/-! ### General registers -/

/-- What a general register holds; g0 reads zero (R13). -/
def gValue (x : Thread) (r : Reg) : Word := if r = 0 then 0 else amGet x.g r.toNat 0

/-- The context with a general register written; a write to g0 is discarded. -/
def gWrite (x : Thread) (r : Reg) (v : Word) : Thread :=
  if r = 0 then x else { x with g := amPut 0 x.g r.toNat v }

/-- Reads a general source operand; a port pops one link word and gives its bits [63:0] (R14). -/
def readG (r : Reg) : M Word := do
  if isGPort r then
    let w ← popPort (gPortDir r)
    pure (w.data.setWidth 64)
  else
    let x ← self
    pure (gValue x r)

/-- Writes a general destination; a port pushes the value with the sideband RAW (R14). -/
def writeG (r : Reg) (v : Word) : M Unit :=
  if isGPort r then pushPort (gPortDir r) { data := v.setWidth 256, side := 0 }
  else modSelf fun x => gWrite x r v

/-! ### Mask registers -/

/-- All ones. -/
def allOnes : BitVec 128 := BitVec.allOnes 128

/-- What a mask register holds; k0 reads all ones (R13). -/
def kValue (x : Thread) (k : MReg) : BitVec 128 := if k = 0 then allOnes else amGet x.k k.toNat 0

/-- The context with a mask register written; a write to k0 is discarded (R124). -/
def kWrite (x : Thread) (k : MReg) (v : BitVec 128) : Thread :=
  if k = 0 then x else { x with k := amPut 0 x.k k.toNat v }

/-- Reads a mask register as a number. -/
def readK (k : MReg) : M Nat := do
  let x ← self
  pure (kValue x k).toNat

/-- Writes a mask register. -/
def writeK (k : MReg) (v : Nat) : M Unit := modSelf fun x => kWrite x k (BitVec.ofNat 128 v)

/-! ### Vector registers -/

/-- 32 elements of 6 bits, packed in the low 192 bits, to one byte each (R59, R60). -/
def unpack6 (x : Nat) : Nat := packLanes 8 (lanes 6 32 x)

/-- 32 bytes to 32 elements of 6 bits in the low 192 bits; bits [7:6] of each byte are dropped (R59, R60). -/
def pack6 (x : Nat) : Nat := packLanes 6 (lanes 8 32 x)

/-- What a vector register that is no port holds. -/
def vValue (x : Thread) (r : Reg) : VReg := amGet x.v r.toNat {}

/-- The context with a vector register written. -/
def vWrite (x : Thread) (r : Reg) (v : VReg) : Thread := { x with v := amPut {} x.v r.toNat v }

/-- TRAPVAL of a Tag trap (R44). -/
def tagTrapVal (r : Reg) (expected found : Tag) : Word :=
  BitVec.ofNat 64 (r.toNat * 65536 + expected.toNat * 256 + found.toNat)

/-- The Tag trap (R44). -/
def tagTrap {α : Type} (r : Reg) (expected found : Tag) : M α := trapM causeTag (tagTrapVal r expected found)

/-- The register that two link words of a v port make (R14, R60). -/
def joinWords (lo hi : LinkWord) : VReg :=
  let t : Tag := lo.side.setWidth 5
  let l := if tagSixBit t then unpack6 lo.data.toNat else lo.data.toNat
  let h := if tagSixBit t then unpack6 hi.data.toNat else hi.data.toNat
  { bits := BitVec.ofNat 512 (l + 2 ^ 256 * h), tag := t }

/-- The two link words of a register (R14, R60). -/
def splitWords (v : VReg) : LinkWord × LinkWord :=
  let l := v.bits.toNat % 2 ^ 256
  let h := v.bits.toNat / 2 ^ 256
  let l := if tagSixBit v.tag then pack6 l else l
  let h := if tagSixBit v.tag then pack6 h else h
  ({ data := BitVec.ofNat 256 l, side := v.tag.setWidth 8 }, { data := BitVec.ofNat 256 h, side := v.tag.setWidth 8 })

/-- Reads a vector source; a port pops two link words, whose tags must agree (R14). DESIGN CHOICE: where they disagree, EXPECTED of
the Tag trap is the first word's tag; R44 gives FOUND alone (log entry 38). -/
def readV (r : Reg) : M VReg := do
  if isVPort r then
    let lo ← popPort (vPortDir r)
    let hi ← popPort (vPortDir r)
    if lo.side.setWidth 5 = (hi.side.setWidth 5 : Tag) then pure (joinWords lo hi)
    else tagTrap r (lo.side.setWidth 5) (hi.side.setWidth 5)
  else
    let x ← self
    pure (vValue x r)

/-- Writes a vector destination; a port pushes the low half first (R14). -/
def writeV (r : Reg) (v : VReg) : M Unit :=
  if isVPort r then do
    let p := splitWords v
    pushPort (vPortDir r) p.1
    pushPort (vPortDir r) p.2
  else modSelf fun x => vWrite x r v

/-- The old bits of a destination that masked-off elements keep; a port has none, and they are zero there (R109). -/
def oldBits (r : Reg) : M Nat := do
  let x ← self
  pure (if isVPort r then 0 else (vValue x r).bits.toNat)

/-- Lanes of width w where the mask enables them, the old lanes elsewhere (R109). -/
def mergeLanes (w n mask old : Nat) (new : List Nat) : Nat :=
  packLanes w ((List.range n).map fun i => if mask.testBit i then new.getD i 0 else lane w old i)

/-! ### Tag checks (R44, R112) -/

/-- A vector source with a class its instruction accepts. -/
def requireClass (r : Reg) (v : VReg) (ok : TagClass → Bool) : M Unit :=
  if ok (tagClass v.tag) then pure () else tagTrap r 0 v.tag

/-- A vector source that must carry the first source's tag. -/
def requireTag (r : Reg) (v : VReg) (t : Tag) : M Unit :=
  if v.tag = t then pure () else tagTrap r t v.tag

/-- The classes of VADD and its like: integer and float. -/
def isIntOrFloat : TagClass → Bool
  | .int _ _ => true
  | .flt _ => true
  | _ => false

def isIntClass : TagClass → Bool
  | .int _ _ => true
  | _ => false

def isFloatClass : TagClass → Bool
  | .flt _ => true
  | _ => false

/-- Every class but that of RAW and the reserved tags. -/
def isConvertible : TagClass → Bool
  | .none => false
  | _ => true

/-! ### FPCTL (R88) -/

/-- FPCTL.RM. -/
def fpctlRm (x : Thread) : Nat := fieldOf x.fpctl 7 5

/-- The rounding mode of an rm field for the executing thread (R50). -/
def roundingOf (rm : Nat) : M RMode := do
  let x ← self
  pure (rmodeDyn (fpctlRm x) rm)

/-- ORs events into the sticky flags (R51). -/
def orFlags (f : FpFlags) : M Unit :=
  modSelf fun x => { x with fpctl := x.fpctl ||| BitVec.ofNat 64 (flagsToNat f) }

/-! ### Codebook tables of the core (R62) -/

/-- Entry c of table t of a core's tables. -/
def coreCode (c : Core) (t e : Nat) : Nat := (amGet c.cbt (t * 16 + e) 0).toNat

/-- The executing core's codebook entries. -/
def selfCodes : M (Nat → Nat → Nat) := do
  let s ← getS
  pure (coreCode (getCore s s.cur.core))

/-! ### Interlocks with engines and memory -/

/-- Is the executing thread's variable-latency answer still to come? In the deferred mode of a turn an access is sent first
and completes at a later turn, after MEMORY_REPLY (R76). -/
def variableLatency : M Unit := do
  let s ← getS
  let x ← self
  match x.wait with
  | .replied => pure ()
  | _ => if s.defer then waitM .reply else pure ()

end Sys2Proof.Machine
end

