-- ==== Sys2Proof/Machine/Mem.lean ====
section
/-! DEFINITION. Byte memories in canonical form, their uncorrectable errors, the physical address map, which addresses are
populated, and where a line is homed (R179, R180, R221 to R225, R351). -/
namespace Sys2Proof.Machine

/-! ### Byte memories -/

/-- What an address that no entry lists reads as (log entry 3). -/
def emptyByte : Byte := 0

/-- One byte. -/
def memGet (m : Memory) (a : Nat) : Byte := amGet m a emptyByte

/-- The memory with one byte written; an entry that would hold what an unlisted address reads as is removed. -/
def memSet (m : Memory) (a : Nat) (b : Byte) : Memory := amPut emptyByte m a b

/-- n bytes from an address. -/
def memRead (m : Memory) (a n : Nat) : List Byte := (List.range n).map fun i => memGet m (a + i)

/-- The memory with bytes written from an address. -/
def memWrite : Memory → Nat → List Byte → Memory
  | m, _, [] => m
  | m, a, b :: t => memWrite (memSet m a b) (a + 1) t

/-- The entries in a range removed. -/
def memErase (m : Memory) (a n : Nat) : Memory := m.filter fun c => decide (c.1 < a) || decide (a + n ≤ c.1)

/-- The entries in a range. -/
def memWindow (m : Memory) (a n : Nat) : Memory := m.filter fun c => decide (a ≤ c.1) && decide (c.1 < a + n)

/-- The canonical form: addresses strictly rising, and no entry equal to what an unlisted address reads as. -/
def Memory.wf : Memory → Bool
  | [] => true
  | [(_, b)] => b != emptyByte
  | (a, b) :: (a', b') :: t => b != emptyByte && decide (a < a') && Memory.wf ((a', b') :: t)

/-! ### Memories with errors -/

/-- Does a range touch a granule of g bytes that holds an uncorrectable error? -/
def memBad (g : Nat) (m : Mem) (a n : Nat) : Bool :=
  m.bad.any fun k => decide (k * g < a + n) && decide (a < k * g + g)

/-- Bytes written; a granule that is written whole loses its error (R197, R228, R280). -/
def memStore (g : Nat) (m : Mem) (a : Nat) (l : List Byte) : Mem :=
  { cells := memWrite m.cells a l
    bad := m.bad.filter fun k => !(decide (a ≤ k * g) && decide (k * g + g ≤ a + l.length)) }

/-- A granule marked unreadable. -/
def memPoison (m : Mem) (k : Nat) : Mem := if m.bad.contains k then m else { m with bad := k :: m.bad }

/-- One granule's bytes and error copied from one memory to another. -/
def memCopyLine (src dst : Mem) (a b : Nat) : Mem :=
  let d := memStore 64 dst b (memRead src.cells a 64)
  if memBad 64 src a 64 then memPoison d (b / 64) else d

/-! ### The physical address map (R221, R222) -/

/-- The tiers of R221, and everything else. -/
inductive Tier where
  | lpddr
  | hbm (stack : Nat)
  | cxl (port : Nat)
  | none
  deriving DecidableEq, Repr

/-- The tier in whose range a physical address lies. -/
def tierOf (pa : Nat) : Tier :=
  if pa < 2 ^ 41 then .lpddr
  else if 0x100000000000 ≤ pa ∧ pa < 0x100000000000 + 8 * 2 ^ 36 then .hbm ((pa - 0x100000000000) / 2 ^ 36)
  else if 0x200000000000 ≤ pa ∧ pa < 0x200000000000 + 4 * 2 ^ 42 then .cxl ((pa - 0x200000000000) / 2 ^ 42)
  else .none

/-- The tier code of R205 and R239. -/
def tierCode : Tier → Nat
  | .hbm _ => 0
  | .lpddr => 1
  | .cxl _ => 2
  | .none => 3

/-- The size of the whole sector cache, C (R225, R229). -/
def sectorCacheBytes (s : State) : Nat := if s.scsize = 0 then 0 else 2 ^ (34 + s.scsize)

/-- The offset at which the carve-out of every HBM4E stack begins (R222). -/
def carveOutBase (s : State) : Nat := 2 ^ 36 - sectorCacheBytes s / 8

/-- The populated bytes of a CXL port's expander. -/
def cxlCapacity (s : State) (port : Nat) : Nat := amGet s.cxlBytes port 0

/-- Is the layer of an HBM4E stack in the address space (R243)? -/
def layerPresent (s : State) (h l : Nat) : Bool := (amGet s.layers h 0).testBit l

/-- Is an address populated for a partition (R222, R351)? -/
def populated (s : State) (p pa : Nat) : Bool :=
  let t := getPart s p
  match tierOf pa with
  | .lpddr => decide (t.lpbase * 2 ^ 30 ≤ pa) && decide (pa < (t.lpbase + t.lpsize) * 2 ^ 30)
  | .hbm h =>
    let off := (pa - 0x100000000000) % 2 ^ 36
    ownsStack t (h / 2) && layerPresent s h (off / 2 ^ 32) && decide (off < carveOutBase s)
  | .cxl q => t.cxlp.testBit q && decide ((pa - 0x200000000000) % 2 ^ 42 < cxlCapacity s q)
  | .none => false

/-- The partition whose control block a physical address lies in (R349). -/
def controlBlock (pa : Nat) : Option (Nat × Nat) :=
  if 0xF00000000000 ≤ pa ∧ pa < 0xF00000000000 + 4 * 2 ^ 16 then some ((pa - 0xF00000000000) / 2 ^ 16, pa % 2 ^ 16) else none

/-! ### Homes (R180, R351) -/

/-- The stacks of a partition, in rising order. -/
def partStacks (t : Partition) : List Nat := onesBelow 4 t.stackSet

/-- The home stack of an address that interleaves by 4 KiB granule (R351). -/
def granuleStack (t : Partition) (pa : Nat) : Nat :=
  let l := partStacks t
  l.getD ((bitsOf (pa / 4096) 1 0 ^^^ bitsOf (pa / 4096) 9 8) % l.length) 0

/-- The home stack of a line for a partition (R180). -/
def homeStack (s : State) (p pa : Nat) : Nat :=
  let t := getPart s p
  match tierOf pa with
  | .hbm h => if ownsStack t (h / 2) then h / 2 else granuleStack t pa
  | _ => granuleStack t pa

/-- The home die of a line: the live die of its stack when the other is offline (R180). -/
def homeDie (s : State) (p pa : Nat) : Nat :=
  let d := 2 * homeStack s p pa + (bitsOf pa 6 6 ^^^ bitsOf pa 26 26)
  if s.offlineDies.contains d then (if d % 2 = 0 then d + 1 else d - 1) else d

/-- The home slice of a line (R180). -/
def homeSlice (pa : Nat) : Nat := bitsOf pa 12 7 ^^^ bitsOf pa 18 13 ^^^ bitsOf pa 24 19

/-- The key of the home slice of a line. -/
def homeKey (s : State) (p pa : Nat) : Nat := homeDie s p pa * 64 + homeSlice pa

/-- The position of the home slice of a line in the layout of DST: unit 3, with the slice number as row and column (R147,
R315). -/
def homePos (s : State) (p pa : Nat) : Nat := homeDie s p pa * 8192 + homeSlice pa * 8 + 3

/-! ### Lines and boundaries -/

/-- The first multiple of a step above an address. -/
def nextMultiple (step a : Nat) : Nat := (a / step + 1) * step

/-- A range cut at the boundaries of a step: the address and length of each piece (R159). -/
def piecesAux (step : Nat) : Nat → Nat → Nat → List (Nat × Nat)
  | 0, _, _ => []
  | fuel + 1, a, n =>
    if n = 0 then []
    else
      let k := if nextMultiple step a - a < n then nextMultiple step a - a else n
      (a, k) :: piecesAux step fuel (a + k) (n - k)

/-- A range cut at every boundary of a step. -/
def piecesOf (step a n : Nat) : List (Nat × Nat) := piecesAux step (n / step + 2) a n

end Sys2Proof.Machine
end

