-- ==== Sys2Proof/Machine/Registers.lean ====
section
/-! DEFINITION. The partition control block: what each register reads as and what a write does to it (R6, R203, R229, R230,
R243, R246, R302 to R304, R317, R338, R344, R347, R349 to R352, R356 to R360). -/
namespace Sys2Proof.Machine

/-! ### Reading -/

/-- Is a launch of the queue resident in a region or saved (R302)? -/
def queueHasLaunch (s : State) (p q : Nat) : Bool :=
  (s.regions.any fun r => r.2.part == p && r.2.queue == some q) ||
    ((getPart s p).saves.any fun v => !v.2.out && v.2.region.queue == some q)

/-- QSTAT.BUSY (R302). -/
def queueBusy (s : State) (p q : Nat) : Bool :=
  let x := getQueue s p q
  decide (x.tail ≠ x.head) || queueHasLaunch s p q

/-- HBMCAP.CAP in MiB: the present layers outside the carve-out (R243). -/
def hbmCapacity (s : State) (h : Nat) : Nat :=
  ((List.range 16).map fun l =>
    if layerPresent s h l then
      (if (l + 1) * 2 ^ 32 ≤ carveOutBase s then 4096 else (carveOutBase s - l * 2 ^ 32) / 2 ^ 20)
    else 0).sum

/-- MEMIL (R351). -/
def memilWord (t : Partition) : Word :=
  BitVec.ofNat 64 (t.lpbase * 2 ^ 32 + t.lpsize * 2 ^ 16 + t.stackSet % 16)

/-- PARTCFG (R350). -/
def partcfgWord (p : Nat) (t : Partition) : Word :=
  BitVec.ofNat 64 (t.nvf * 2 ^ 16 + t.cxlp % 16 * 2 ^ 12 + p % 4 * 2 ^ 8 + t.stackSet % 16)

/-- A queue register by its offset within the queue's block (R302). -/
def queueRead (s : State) (p q off : Nat) : Word :=
  let x := getQueue s p q
  match off with
  | 0 => x.qbase
  | 8 => x.qctl
  | 16 => BitVec.ofNat 64 x.tail
  | 24 => BitVec.ofNat 64 (x.head * 2 ^ 16 + 4 * bit x.err + 2 * bit x.ovf + bit (queueBusy s p q))
  | _ => 0

/-- DBGSTAT and DBGCTL (R357). -/
def dbgstatWord (t : Partition) : Word := BitVec.ofNat 64 (4 * bit t.dbgHalt + 2 * bit t.dbgTrace + bit t.dbgPerf)
def dbgctlWord (t : Partition) : Word :=
  BitVec.ofNat 64 (4 * bit (t.haltreq && t.dbgHalt) + 2 * bit (t.traceen && t.dbgTrace) + bit (t.perfen && t.dbgPerf))

/-- COLLCTL (R347). -/
def collctlWord (t : Partition) : Word :=
  BitVec.ofNat 64 (t.collTag % 2 ^ 16 * 2 ^ 16 + t.collBin % 16 * 2 ^ 8 + 2 * bit t.collThr + bit t.collEn)

/-- A register of a control block by its offset, a multiple of 8; reserved offsets read zero (R6). -/
def ctlRead (s : State) (p off : Nat) : Word :=
  let t := getPart s p
  if off = 0 then t.txctl
  else if 0x100 ≤ off ∧ off ≤ 0x300 then amGet t.txroot ((off - 0x100) / 8) 0
  else if off = 0x400 then BitVec.ofNat 64 s.scsize
  else if 0x440 ≤ off ∧ off < 0x480 then
    let h := (off - 0x440) / 8
    if ownsStack t (h / 2) then BitVec.ofNat 64 (amGet s.layers h 0 % 2 ^ 16 * 2 ^ 32 + hbmCapacity s h) else 0
  else if 0x480 ≤ off ∧ off < 0x500 then
    let st := (off - 0x480) / 32
    if ownsStack t st then
      match (off - 0x480) % 32 with
      | 0 => amGet t.schits st 0
      | 8 => amGet t.sclmiss st 0
      | 16 => amGet t.scsmiss st 0
      | _ => amGet t.scwb st 0
    else 0
  else if off = 0x500 then t.tokbase
  else if 0x600 ≤ off ∧ off ≤ 0x800 then amGet t.hvec ((off - 0x600) / 8) 0
  else if off = 0x900 then t.energy
  else if off = 0x908 then s.overhead
  else if off = 0x910 then BitVec.ofNat 64 (t.grant % 2 ^ 13)
  else if off = 0x920 then collctlWord t
  else if off = 0x940 then partcfgWord p t
  else if off = 0x948 then memilWord t
  else if off = 0x950 then BitVec.ofNat 64 (s.netbnd % 16)
  else if off = 0x958 then t.ready
  else if off = 0x960 then t.yxready0
  else if off = 0x968 then t.yxready1
  else if off = 0x970 then dbgstatWord t
  else if off = 0x978 then dbgctlWord t
  else if off = 0x988 then BitVec.ofNat 64 t.mergeStatus
  else if off = 0x998 then BitVec.ofNat 64 t.offStatus
  else if 0x1000 ≤ off ∧ off < 0x3000 then queueRead s p ((off - 0x1000) / 32) (off % 32)
  else 0

/-! ### Writing -/

/-- Are the registers of a function frozen (R356)? -/
def funcLocked (t : Partition) (f : Nat) : Bool := decide (f ≠ 0) && decide (amGet t.vfs f .unlocked ≠ .unlocked)

/-- Are the queue's interface registers frozen (R356)? -/
def queueLocked (s : State) (p q : Nat) : Bool := funcLocked (getPart s p) (fieldOf (getQueue s p q).qctl 15 9)

/-- The number of entries a ring holds (R302). -/
def ringSize (x : Queue) : Nat := 2 ^ fieldOf x.qctl 19 16

/-- The pending entries of a queue (R303). -/
def pendingEntries (x : Queue) : Nat := (x.tail + 2 ^ 16 - x.head) % 2 ^ 16

/-- QSTAT.OVF is set; vector 1 of the physical function is raised (R303, R354). -/
def setQueueOvf (s : State) (p q : Nat) : State := raiseVector (modQueue s p q fun x => { x with ovf := true }) p 0 1

/-- QSTAT.ERR is set; vector 1 of the physical function is raised (R306, R354). -/
def setQueueErr (s : State) (p q : Nat) : State := raiseVector (modQueue s p q fun x => { x with err := true }) p 0 1

/-- A merge under way remembers a queue that it has seen with BUSY = 0 (R360: TAIL writes made while EN = 0 stand). -/
def noteQuiet (s : State) (pq : Nat × Nat) : State :=
  if s.parts.any (fun t => t.2.merge.isSome) then
    { s with parts := s.parts.map fun t =>
        (t.1, { t.2 with merge := t.2.merge.map fun m => { m with quiet := if m.quiet.contains pq then m.quiet else pq :: m.quiet } }) }
  else s

/-- A TAIL write: it submits entries, or is ignored with OVF (R303). -/
def tailWrite (s : State) (p q : Nat) (v : Word) : State :=
  let x := getQueue s p q
  let y := { x with tail := v.toNat % 2 ^ 16 }
  let s := if queueBusy s p q then s else noteQuiet s (p, q)
  if ringSize x < pendingEntries y then setQueueOvf s p q else setQueue s p q y

/-- A QCTL write, ignored while BUSY except for EN, and wholly while the interface is locked (R302, R356). -/
def qctlWrite (s : State) (p q : Nat) (v : Word) : State :=
  if queueLocked s p q then s
  else
    let keep : Word := 0x100
    let writable : Word := 0xFFF03
    if queueBusy s p q then modQueue s p q fun x => { x with qctl := (x.qctl &&& ~~~keep) ||| (v &&& keep) }
    else modQueue s p q fun x => { x with qctl := v &&& writable }

/-- A QBASE write (R302, R356). -/
def qbaseWrite (s : State) (p q : Nat) (v : Word) : State :=
  if queueLocked s p q then s else modQueue s p q fun x => { x with qbase := BitVec.ofNat 64 (fieldOf v 56 7 * 128) }

/-- SKIP, while ERR is set: HEAD passes the head entry (R302, R306). -/
def qstatSkip (x : Queue) : Queue := if x.err then { x with head := (x.head + 1) % 2 ^ 16, launch := none } else x

/-- A QSTAT write: SKIP first, then the write-one-to-clear bits (R302, R306). -/
def qstatWrite (s : State) (p q : Nat) (v : Word) : State :=
  modQueue s p q fun x =>
    let x := if v.getLsbD 3 then qstatSkip x else x
    { x with err := x.err && !v.getLsbD 2, ovf := x.ovf && !v.getLsbD 1 }

/-- A queue register by its offset within the queue's block. -/
def queueWrite (s : State) (p q off : Nat) (v : Word) : State :=
  match off with
  | 0 => qbaseWrite s p q v
  | 8 => qctlWrite s p q v
  | 16 => tailWrite s p q v
  | 24 => qstatWrite s p q v
  | _ => s

/-- An OFFREQ write: ignored while one runs; refused with BADREQ; otherwise running (R246). The command processor's
capacity check and the removal itself are later steps. -/
def offreqWrite (s : State) (p : Nat) (v : Word) : State :=
  let t := getPart s p
  if t.offStatus = 2 then s
  else
    let ty := fieldOf v 15 12
    let unit := fieldOf v 11 8
    let l := fieldOf v 7 4
    let tiers := fieldOf v 2 0
    let bad : Bool :=
      decide (fieldOf v 63 16 ≠ 0) || v.getLsbD 3 || tiers == 0 || decide (7 < unit) ||
      !ownsStack t (unit / 2) ||
      (match ty with
       | 1 => !layerPresent s unit l || s.draining.contains (unit, l)
       | 2 => decide (l ≠ 0) || s.offlineDies.contains unit || s.freezing.contains unit ||
              s.offlineDies.contains (if unit % 2 = 0 then unit + 1 else unit - 1)
       | _ => true)
    if bad then modPart s p fun t => { t with offStatus := 4 }
    else modPart s p fun t => { t with offStatus := 2, offReq := some (ty, unit, l, tiers) }

/-- Are the LPDDR6 ranges of two partitions adjacent (R360)? -/
def lpAdjacent (a b : Partition) : Bool := a.lpbase + a.lpsize == b.lpbase || b.lpbase + b.lpsize == a.lpbase

/-- The queues of a partition whose EN is set. -/
def enabledQueues (s : State) (p : Nat) : List (Nat × Nat) :=
  ((getPart s p).queues.filter fun q => q.2.qctl.getLsbD 8).map fun q => (p, q.1)

/-- EN of a queue set or cleared, whatever else holds. -/
def setQueueEn (s : State) (pq : Nat × Nat) (on : Bool) : State :=
  modQueue s pq.1 pq.2 fun x => { x with qctl := if on then x.qctl ||| 0x100 else x.qctl &&& ~~~(0x100 : Word) }

/-- A MERGE write: ignored while one runs; steps 1 and 2 of R360 refuse it or it runs with every EN cleared (R359, R360). -/
def mergeWrite (s : State) (p : Nat) (v : Word) : State :=
  let t := getPart s p
  if t.mergeStatus = 5 then s
  else
    let absorb := fieldOf v 3 0
    let q := firstOne 4 absorb
    let u := getPart s q
    let layoutOk := u.exists_ && u.stackSet == absorb && decide (p < q) && lpAdjacent t u &&
      (t.stackSet + absorb == 3 || t.stackSet + absorb == 12 || t.stackSet + absorb == 15)
    let locked := t.vfs.any (fun x => decide (x.2 ≠ .unlocked)) || u.vfs.any (fun x => decide (x.2 ≠ .unlocked))
    if !layoutOk then modPart s p fun t => { t with mergeStatus := 3 }
    else if locked then modPart s p fun t => { t with mergeStatus := 4 }
    else
      let en := enabledQueues s p ++ enabledQueues s q
      let s := en.foldl (fun s e => setQueueEn s e false) s
      modPart s p fun t => { t with mergeStatus := 5
                                    merge := some { absorb := q, deadline := s.cycle + fieldOf v 31 16 * 1050000, enabled := en } }

/-- The occupied slots of a core. -/
def occupiedSlots (s : State) (core : Nat) : List ThreadRef :=
  ((getCore s core).slots.filter fun x => decide (x.2.slotState ≠ .free)).map fun x => { core := core, slot := x.1 }

/-- The threads of a region. -/
def regionThreads (s : State) (r : Region) : List ThreadRef := (regionCores r).flatMap (occupiedSlots s)

/-- A pre-emption request (R323, R331): its status, and the region marked where it stands. -/
def requestPreempt (s : State) (rk : Nat) (area : Nat) : State × Nat :=
  match getRegion s rk with
  | none => (s, 1)
  | some r =>
    if r.preempt.isSome then (s, 2)
    else if r.faulted || (regionThreads s r).any fun t =>
        (match (getThread s t).wait with
         | .threadFault _ => true
         | _ => false) then (s, 3)
    else (setRegion s rk { r with preempt := some (s.cycle, area), ownTiers := none, forced := false }, 0)

/-- A request that the command processor makes itself: it takes the save area from the tiers that it may use (R246, R310, R357). -/
def commandPreempt (tiers : Nat) (s : State) (rk : Nat) : State :=
  match getRegion s rk with
  | none => s
  | some r =>
    match requestPreempt s rk (Config.saveArea r.part r.inst) with
    | (s, 0) => modRegion s rk fun r => { r with ownTiers := some tiers }
    | (s, _) => s

/-- Does HALTREQ stop a partition's launches (R357)? The bit of a closed class reads as zero. -/
def haltRequested (t : Partition) : Bool := t.dbgHalt && t.haltreq

/-- A HALTREQ that has come to hold asks every resident region to stop, as LAUNCH.preempt does (R357). -/
def haltLaunches (before : Partition) (s : State) (p : Nat) : State :=
  if haltRequested (getPart s p) && !haltRequested before then
    (s.regions.filter fun r => r.2.part == p).foldl (fun s r => commandPreempt 7 s r.1) s
  else s

/-- A DBGCTL write: bits whose class is closed ignore it (R6, R357). -/
def dbgctlWrite (s : State) (p : Nat) (v : Word) : State :=
  let t := getPart s p
  let bit (open_ old : Bool) (i : Nat) : Bool := if open_ then v.getLsbD i else old
  haltLaunches t (modPart s p fun t =>
    { t with haltreq := bit t.dbgHalt t.haltreq 2, traceen := bit t.dbgTrace t.traceen 1, perfen := bit t.dbgPerf t.perfen 0 }) p

/-- A write of 8 bytes to a register of a control block (R349): RO registers and reserved offsets ignore it (R6). -/
def ctlWrite (s : State) (p off : Nat) (v : Word) : State :=
  let t := getPart s p
  if off = 0 then modPart s p fun t => { t with txctl := v &&& 0x1F }
  else if 0x100 ≤ off ∧ off ≤ 0x300 then
    let f := (off - 0x100) / 8
    if funcLocked t f then s
    else modPart s p fun t => { t with txroot := amInsert t.txroot f (v &&& 0x000FFFFFFFFFF001) }
  else if off = 0x500 then modPart s p fun t => { t with tokbase := v &&& 0x000FFFFFFFFF8001 }
  else if 0x600 ≤ off ∧ off ≤ 0x800 then
    let f := (off - 0x600) / 8
    if funcLocked t f then s
    else modPart s p fun t => { t with hvec := amInsert t.hvec f (v &&& 0x01FFFFFFFFFFFFFD) }
  else if off = 0x920 then
    modPart s p fun t => { t with collTag := fieldOf v 31 16, collEn := v.getLsbD 0, collBin := if v.getLsbD 0 then t.collBin else 0 }
  else if off = 0x978 then dbgctlWrite s p v
  else if off = 0x980 then mergeWrite s p v
  else if off = 0x990 then offreqWrite s p v
  else if 0x1000 ≤ off ∧ off < 0x3000 then queueWrite s p ((off - 0x1000) / 32) (off % 32) v
  else s

end Sys2Proof.Machine
end

