-- ==== Sys2Proof/Machine/Physical.lean ====
section
/-! DEFINITION. Accesses at the point of coherence: line reads and writes by physical address with the sector cache, the
gravity tables, the monitors, the control block and the routing of pages in motion (R179 to R188, R197, R201, R222 to R232,
R240, R349, R364). -/
namespace Sys2Proof.Machine

/-- Who makes an access: its partition, die, function and region instance, the quad of a thread, and whether it is a service
core's thread. -/
structure Who where
  part : Nat := 0
  die : Nat := 0
  func : Nat := 0
  inst : Nat := 0
  svc : Bool := false
  quad : Option Nat := none
  deriving DecidableEq, Repr

/-- A thread as requester. -/
def whoThread (s : State) (t : ThreadRef) : Who :=
  let x := getThread s t
  { part := x.part, die := dieOf t.core, func := x.func, inst := x.inst, svc := isService t.core
    quad := some (quadKey t.core) }

/-- The command processor of a partition as requester for a function. -/
def whoCommand (s : State) (p func : Nat) : Who := { part := p, die := dieOf (designated s p), func := func }

/-! ### The sector cache (R225 to R228, R364) -/

/-- The stack whose controller serves an LPDDR6 line, its tag, its sector's index and first line, and the line's number (R225). -/
structure SectorPos where
  stack : Nat
  tag : Nat
  index : Nat
  sector : Nat
  lineNo : Nat

/-- Where an LPDDR6 line stands in the sector cache: `sector` is the carve-out address of the sector's first line (R225). -/
def sectorPos (s : State) (p pa : Nat) : SectorPos :=
  let st := homeStack s p pa
  let k := 32 + s.scsize
  let i := bitsOf pa (k - 1) 11
  { stack := st
    tag := bitsOf pa 40 k
    index := i
    sector := 0x100000000000 + (2 * st + i % 2) * 2 ^ 36 + carveOutBase s + i / 2 * 2048
    lineNo := bitsOf pa 10 6 }

/-- The record of line l of a sector. -/
def sectorRecord (s : State) (sector l : Nat) : BitVec 12 := amGet s.sector.records (sector / 64 + l) 0

/-- The record with its valid and dirty bits and its tag (R226). -/
def recordWord (v d : Bool) (tag : Nat) : BitVec 12 := BitVec.ofNat 12 (bit v * 2 ^ 11 + bit d * 2 ^ 10 + tag % 256)

def setSectorRecord (s : State) (sector l : Nat) (r : BitVec 12) : State :=
  { s with sector := { s.sector with records := amPut 0 s.sector.records (sector / 64 + l) r } }

/-- Which slice counter moves. -/
inductive ScCount where
  | hits | lmiss | smiss | wb

/-- Adds to a slice counter of a partition's twin stack (R230). -/
def bumpSector (s : State) (p st : Nat) (c : ScCount) (n : Nat) : State :=
  let add (m : AMap Word) : AMap Word := amInsert m st (amGet m st 0 + BitVec.ofNat 64 n)
  modPart s p fun t =>
    match c with
    | .hits => { t with schits := add t.schits }
    | .lmiss => { t with sclmiss := add t.sclmiss }
    | .smiss => { t with scsmiss := add t.scsmiss }
    | .wb => { t with scwb := add t.scwb }

/-- The lines of a sector that are valid and dirty. -/
def dirtyLines (s : State) (sector : Nat) : List Nat :=
  (List.range 32).filter fun l => (sectorRecord s sector l).getLsbD 11 && (sectorRecord s sector l).getLsbD 10

/-- Is a sector disabled, its layer having been removed (R244)? -/
def sectorDisabled (s : State) (sector : Nat) : Bool :=
  !layerPresent s ((sector - 0x100000000000) / 2 ^ 36) ((sector - 0x100000000000) % 2 ^ 36 / 2 ^ 32)

/-- Has the data of a carve-out line an uncorrectable error (R228)? -/
def lineBad (s : State) (sector l : Nat) : Bool := s.sector.badLines.contains (sector / 64 + l)

/-- The data errors of n carve-out lines are gone. -/
def mendLines (s : State) (first n : Nat) : State :=
  { s with sector := { s.sector with badLines := s.sector.badLines.filter fun k => decide (k < first) || decide (first + n ≤ k) } }

/-- A write-back carries the errors of a sector's dirty lines to LPDDR6, to the addresses that the old tag gives (R227, R228). DESIGN
CHOICE (log entry 40): a dirty line whose record cannot be read carries one too. -/
def carryErrors (s : State) (q : SectorPos) (tag : Nat) : State :=
  (dirtyLines s q.sector).foldl (fun s l =>
    if lineBad s q.sector l || s.sector.badRecords.contains (q.sector / 64 + l) then { s with gmem := memPoison s.gmem ((tag * 2 ^ (32 + s.scsize) + q.index * 2048) / 64 + l) } else s) s

/-- One line access at the LPDDR6 controller (R227): the record of the line, the write-backs of a sector miss and the
counters. A line whose sector is disabled is served from LPDDR6 and counted nowhere (R244). A clean line with an error is a line
miss, and a dirty one keeps its error for every reader (R228). -/
def sectorAccess (s : State) (p pa : Nat) (write : Bool) : State :=
  if s.scsize = 0 then s
  else
    let q := sectorPos s p pa
    if sectorDisabled s q.sector then s
    else
      let r := sectorRecord s q.sector q.lineNo
      let sectorTag := fieldOf r 7 0
      let bad := lineBad s q.sector q.lineNo
      let first := q.sector / 64
      if sectorTag = q.tag then
        if r.getLsbD 11 ∧ (r.getLsbD 10 ∨ !bad) then
          let s := if bad then { mendLines s (first + q.lineNo) 1 with gmem := memPoison s.gmem (pa / 64) } else s
          let s := if write then setSectorRecord s q.sector q.lineNo (recordWord true true q.tag) else s
          bumpSector s p q.stack .hits 1
        else
          bumpSector (setSectorRecord (mendLines s (first + q.lineNo) 1) q.sector q.lineNo (recordWord true write q.tag)) p q.stack .lmiss 1
      else
        let wb := (dirtyLines s q.sector).length
        let s := mendLines (carryErrors s q sectorTag) first 32
        let s := (List.range 32).foldl (fun s l => setSectorRecord s q.sector l (recordWord false false q.tag)) s
        let s := setSectorRecord s q.sector q.lineNo (recordWord true write q.tag)
        let s := bumpSector s p q.stack .smiss 1
        if wb = 0 then s else bumpSector s p q.stack .wb wb

/-- Is the LPDDR6 line's place in the carve-out one whose record cannot be read (R228)? A disabled sector has no line there (R244). -/
def recordUnreadable (s : State) (p pa : Nat) : Bool :=
  decide (s.scsize ≠ 0) &&
    (let q := sectorPos s p pa
     !sectorDisabled s q.sector && s.sector.badRecords.contains (q.sector / 64 + q.lineNo))

/-- Does the LPDDR6 line lie in the carve-out, dirty and with an error in its data (R228)? -/
def dirtyBad (s : State) (p pa : Nat) : Bool :=
  decide (s.scsize ≠ 0) &&
    (let q := sectorPos s p pa
     let r := sectorRecord s q.sector q.lineNo
     lineBad s q.sector q.lineNo && r.getLsbD 11 && r.getLsbD 10 && fieldOf r 7 0 == q.tag)

/-- The controller serves the writes that a test selects, in arrival order (R227, R364). -/
def serveWrites (s : State) (sel : Nat × Nat → Bool) : State :=
  match s.sector.pending with
  | [] => s
  | l =>
    (l.filter sel).foldl (fun s x => sectorAccess s x.1 x.2 true) { s with sector := { s.sector with pending := l.filter fun x => !sel x } }

/-- Do two LPDDR6 lines stand in the same sector of the cache? -/
def sameSector (s : State) (p pa : Nat) (x : Nat × Nat) : Bool := (sectorPos s x.1 x.2).sector == (sectorPos s p pa).sector

/-- A line access at its tier controller: only LPDDR6 has a cache in front of it (R223, R227). A read is served at once, after the
writes to its sector; a write waits for the controller, but not past another access to its line (R364). -/
def tierAccess (s : State) (p pa : Nat) (write : Bool) : State :=
  match tierOf pa with
  | .lpddr =>
    if s.scsize = 0 then s
    else if write && !dirtyBad s p pa then
      let s := serveWrites s fun x => x.2 / 64 == pa / 64
      { s with sector := { s.sector with pending := s.sector.pending ++ [(p, pa)] } }
    else sectorAccess (serveWrites s (sameSector s p pa)) p pa write
  | _ => s

/-- Does the sector cache deliver an uncorrectable error for every read of the line (R228)? -/
def sectorFails (s : State) (p pa : Nat) : Bool :=
  match tierOf pa with
  | .lpddr => (recordUnreadable s p pa && !s.sector.discarded.contains (pa / 64)) || dirtyBad s p pa
  | _ => false

/-- Does reading these bytes deliver an uncorrectable error (R197, R222, R228)? -/
def readFails (s : State) (p pa n : Nat) : Bool := !populated s p pa || memBad 64 s.gmem pa n || sectorFails s p pa

/-! ### Gravity (R240) -/

/-- A counter that saturates. -/
def satAdd (limit x : Nat) : Nat := if x < limit then x + 1 else limit

/-- The entry with one more read from a twin stack. -/
def gravityBump (g : Gravity) (stack : Nat) : Gravity :=
  let g := { g with count := satAdd 65535 g.count }
  match stack with
  | 0 => { g with q0 := satAdd 4095 g.q0 }
  | 1 => { g with q1 := satAdd 4095 g.q1 }
  | 2 => { g with q2 := satAdd 4095 g.q2 }
  | _ => { g with q3 := satAdd 4095 g.q3 }

/-- A line read from a requester counts at its home slice in mode 1; 64 entries, least recently used first out (R240). -/
def gravityCount (s : State) (w : Who) (pa : Nat) : State :=
  if (getPart s w.part).heatMode = 1 then
    modSlice s (homeKey s w.part pa) fun sl =>
      let page := pa / 4096
      let e := (sl.gravity.find? fun g => g.page == page).getD { page := page }
      { sl with gravity := (gravityBump e (stackOf w.die) :: sl.gravity.filter fun g => g.page != page).take 64 }
  else s

/-! ### Recalls of ownership (R196) -/

/-- A recall of a quad's ownerships of lines held for atomics raises their counts. -/
def recallLines (cycle first n : Nat) (q : Quad) : Quad :=
  { q with predictor := q.predictor.map fun e =>
      if first ≤ e.line ∧ e.line < first + n ∧ e.owns then
        { e with owns := false, count := if e.count < 3 then e.count + 1 else 3, since := cycle }
      else e }

/-- Does another quad than the requester's own a line for its atomics? -/
def ownedElsewhere (s : State) (w : Who) (line : Nat) : Bool :=
  s.quads.any fun q => some q.1 != w.quad && q.2.predictor.any fun e => e.line == line && e.owns

/-- An access of another agent to a line recalls the ownership that a quad holds of it (R196). -/
def recallOwner (s : State) (w : Who) (line : Nat) : State :=
  if ownedElsewhere s w line then
    { s with quads := s.quads.map fun q => if some q.1 = w.quad then q else (q.1, recallLines s.cycle line 1 q.2) }
  else s

/-! ### Monitors (R201, R202) -/

/-- The status with which a waiter wakes: TIMEOUT once its time is over, whatever came after (R201). DESIGN CHOICE: a change or a drop in the
very cycle in which the time is over comes after it (log entry 40). -/
def wakeStatus (now st : Nat) : Wait → Nat
  | .monitor _ _ (some deadline) => if deadline ≤ now then 1 else st
  | _ => st

/-- Wakes a waiting thread with a status. -/
def wakeThread (st : Nat) (s : State) (t : ThreadRef) : State :=
  modThread s t fun x => { x with wait := .woken (wakeStatus s.cycle st x.wait) }

/-- A write of a line wakes every waiter whose doubleword now differs from its value. `watched` is the line's address as
the monitors name it, `at_` where its bytes are. -/
def wakeMonitors (s : State) (p watched at_ : Nat) : State :=
  let k := homeKey s p watched
  let sl := getSlice s k
  match sl.monitors with
  | [] => s
  | l =>
    let hit (m : Monitor) : Bool :=
      decide (m.pa / 64 = watched / 64) && decide (wordOf (memRead s.gmem.cells (at_ / 64 * 64 + m.pa % 64) 8) ≠ m.value)
    let s := modSlice s k fun sl => { sl with monitors := l.filter fun m => !hit m }
    (l.filter hit).foldl (fun s m => m.waiters.foldl (wakeThread 0) s) s

/-- Drops every monitor that a test selects; its waiters return LOST (R201). -/
def dropMonitors (s : State) (sel : Nat → Monitor → Bool) : State :=
  s.slices.foldl (fun s e =>
    let gone := e.2.monitors.filter (sel e.1)
    match gone with
    | [] => s
    | _ =>
      let s := modSlice s e.1 fun sl => { sl with monitors := sl.monitors.filter fun m => !sel e.1 m }
      gone.foldl (fun s m => m.waiters.foldl (wakeThread 3) s) s) s

/-- A waiter leaves its entry, which is freed when it was the last (R202). -/
def leaveMonitor (s : State) (p pa : Nat) (v : Word) (t : ThreadRef) : State :=
  modSlice s (homeKey s p pa) fun sl =>
    { sl with monitors := (sl.monitors.map fun m =>
        if m.pa = pa ∧ m.value = v then { m with waiters := m.waiters.filter fun u => u != t } else m).filter fun m => !m.waiters.isEmpty }

/-! ### The control block as memory (R349) -/

/-- The bytes that a read of a control block returns. -/
def controlRead (s : State) (p off n : Nat) : List Byte :=
  (List.range n).map fun i =>
    let a := off + i
    BitVec.ofNat 8 (lane 8 (ctlRead s p (a / 8 * 8)).toNat (a % 8))

/-- A write to a control block: each whole aligned doubleword is written to its register, and anything less is ignored: a doubleword
with a skipped byte too. -/
def controlWrite (s : State) (p off : Nat) (l : List Byte) (skip : Nat) : State :=
  if off % 8 = 0 ∧ l.length % 8 = 0 then
    ((List.range (l.length / 8)).filter fun i => (skip >>> (8 * i)) % 256 == 0).foldl
      (fun s i => ctlWrite s p (off + 8 * i) (wordOf ((l.drop (8 * i)).take 8))) s
  else s

/-- The offset in the requester's own control block, when the requester is one of the partition's service cores. -/
def ownControl (w : Who) (pa : Nat) : Option Nat :=
  match controlBlock pa with
  | some (q, off) => if w.svc ∧ q = w.part then some off else none
  | none => none

/-! ### Table entries (R205) -/

def pteV (e : Nat) : Bool := e.testBit 0
def pteL (e : Nat) : Bool := e.testBit 1
def pteW (e : Nat) : Bool := e.testBit 2
def pteX (e : Nat) : Bool := e.testBit 3
def pteA (e : Nat) : Bool := e.testBit 4
def pteG (e : Nat) : Bool := e.testBit 5
def pteAF (e : Nat) : Bool := e.testBit 6
def pteD (e : Nat) : Bool := e.testBit 7
def pteC (e : Nat) : Bool := e.testBit 8
def pteT (e : Nat) : Bool := e.testBit 9
def pteTier (e : Nat) : Nat := bitsOf e 11 10
def pteFrame (e : Nat) : Nat := bitsOf e 51 12
def pteMt (e : Nat) : Nat := bitsOf e 55 52

/-- The index of a level in a virtual address (R204). -/
def vaIndex (va level : Nat) : Nat := bitsOf va (20 + 9 * level) (12 + 9 * level)

/-- The address of an entry. -/
def pteAddr (table va level : Nat) : Nat := table * 4096 + 8 * vaIndex va level

/-- Checks 3 to 5 of R206 on a valid entry at a level. -/
def shapeFault (level e : Nat) : Option Nat :=
  if bitsOf e 61 56 ≠ 0 ∨ (pteL e ∧ (pteTier e = 3 ∨ 1 < pteMt e)) then some 2
  else if (pteL e ∧ 3 ≤ level) ∨ (!pteL e ∧ level = 0) then some 3
  else if pteL e ∧ ((level = 2 ∧ bitsOf e 29 12 ≠ 0) ∨ (level = 1 ∧ bitsOf e 20 12 ≠ 0)) then some 4
  else none

/-- TXROOT of a function. -/
def txroot (s : State) (p f : Nat) : Word := amGet (getPart s p).txroot f 0

/-- The value of a table entry as it stands. -/
def entryNow (s : State) (addr : Nat) : Nat := ofBytes (memRead s.gmem.cells addr 8)

/-- The frame that the tables map an address to as they stand, from a table of level `n` - 1 down. -/
def mappedFrom (s : State) (va : Nat) : Nat → Nat → Option Nat
  | 0, _ => none
  | n + 1, table =>
    let e := entryNow s (pteAddr table va n)
    if !pteV e || (shapeFault n e).isSome then none
    else if pteL e then some (pteFrame e + va / 4096 % 2 ^ (9 * n))
    else mappedFrom s va n (pteFrame e)

/-- The same for a function of a partition. -/
def mappedFrame (s : State) (p func va : Nat) : Option Nat :=
  if (txroot s p func).getLsbD 0 then mappedFrom s va 5 (fieldOf (txroot s p func) 51 12) else none

/-! ### Ring pages of locked interfaces (R356) -/

/-- Does the ring of a queue of a function stand in a frame, as the tables map it now? -/
def ringPageNow (s : State) (p vf frame : Nat) : Bool :=
  (getPart s p).queues.any fun q =>
    fieldOf q.2.qctl 15 9 == vf &&
      (piecesOf 4096 q.2.qbase.toNat (128 * ringSize q.2)).any fun r => mappedFrame s p vf r.1 == some frame

/-- Is the address in a ring page that a locked interface freezes: one that was mapped when it was locked, or one that is now? -/
def ringFrozen (s : State) (pa : Nat) : Bool :=
  s.parts.any fun p => p.2.ringPages.any fun l => l.2.contains (pa / 4096) || ringPageNow s p.1 l.1 (pa / 4096)

/-! ### Line accesses -/

/-- A read of bytes of one line at the point of coherence: the bytes, or none for an uncorrectable error (R185, R222). -/
def lineRead (s : State) (w : Who) (pa n : Nat) : State × Option (List Byte) :=
  match ownControl w pa with
  | some off => (s, some (controlRead s w.part off n))
  | none =>
    if !populated s w.part pa then (s, none)
    else
      let s := gravityCount (tierAccess (recallOwner s w (pa / 64)) w.part pa false) w pa
      (s, if readFails s w.part pa n then none else some (memRead s.gmem.cells pa n))

/-- The engine-error message of a home slice (R222, R315). -/
def postSliceError (s : State) (w : Who) (pa : Nat) : State :=
  postEngineError s w.part 3 pa (homePos s w.part pa) w.inst w.func

/-- Bytes of one line stand at its home, whose monitors see them (R201, R228): `watched` is the line as the monitors name it. -/
def linePut (s : State) (w : Who) (watched pa : Nat) (l : List Byte) : State :=
  let s := tierAccess (recallOwner s w (pa / 64)) w.part pa true
  let s := { s with gmem := memStore 64 s.gmem pa l }
  let s :=
    if l.length = 64 ∧ tierOf pa = .lpddr ∧ recordUnreadable s w.part pa then
      let q := sectorPos s w.part pa
      { s with sector := { s.sector with badRecords := s.sector.badRecords.filter fun k => k != q.sector / 64 + q.lineNo
                                         discarded := s.sector.discarded.filter fun k => k != pa / 64 } }
    else s
  wakeMonitors s w.part watched pa

/-- A line that a traverse moves back to its source, which no lock keeps away (R235, R356). -/
def lineBack (s : State) (w : Who) (pa : Nat) (l : List Byte) : State :=
  if !populated s w.part pa then postSliceError s w pa else linePut s w pa pa l

/-- A write of bytes of one line performed at its home (R186, R222); one to a frozen ring page is ignored (R356). -/
def lineWriteAs (s : State) (w : Who) (watched pa : Nat) (l : List Byte) : State :=
  match ownControl w pa with
  | some off => controlWrite s w.part off l 0
  | none =>
    if !populated s w.part pa then postSliceError s w pa
    else if ringFrozen s watched then s
    else linePut s w watched pa l

/-- A write of bytes of one line of a page that is not in motion. -/
def lineWrite (s : State) (w : Who) (pa : Nat) (l : List Byte) : State := lineWriteAs s w pa pa l

/-! ### Pages in motion (R231 to R233) -/

/-- The bytes of a page by its size code. -/
def pageBytes (size : Nat) : Nat :=
  match size with
  | 0 => 4096
  | 1 => 65536
  | _ => 2097152

/-- The slot that holds the page of a source address: its engine and number (R231). -/
def slotOf (s : State) (p pa : Nat) : Option (Nat × Nat) :=
  s.engines.findSome? fun e =>
    (e.2.slots.find? fun x =>
      decide (x.2.state ≠ .free) && x.2.part == p && decide (x.2.src ≤ pa) && decide (pa < x.2.src + pageBytes x.2.size)).map
      fun x => (e.1, x.1)

/-- A line's values in every thread's view move with the line, so that no plain load and no fetch sees the motion (R12, R182,
R188, R232). -/
def moveView (src dst : Nat) (x : Thread) : Thread :=
  let mine := x.own.filter fun c => c.1 / 64 == src / 64
  { x with snap := memCopyLine x.snap x.snap src dst
           code := memCopyLine x.code x.code src dst
           own := mine.foldl (fun m c => amInsert m (dst / 64 * 64 + c.1 % 64) c.2)
             (x.own.filter fun c => c.1 / 64 != src / 64 && c.1 / 64 != dst / 64) }

/-- The same for every thread of a set of cores. -/
def moveCores (src dst : Nat) (l : AMap Core) : AMap Core :=
  l.map fun c => (c.1, { c.2 with slots := c.2.slots.map fun x => (x.1, moveView src dst x.2) })

/-- A write on its way moves with the line. -/
def moveGate (src dst : Nat) : GateWrite → GateWrite
  | .store p => .store (if p.pa / 64 = src / 64 then { p with pa := dst / 64 * 64 + p.pa % 64 } else p)
  | .red r => .red (if r.pa / 64 = src / 64 then { r with pa := dst / 64 * 64 + r.pa % 64 } else r)

/-- The code view of a region moves with the line. -/
def moveCode (src dst : Nat) (r : Region) : Region := { r with code := memCopyLine r.code r.code src dst }

/-- The views of a save move with the line. -/
def moveSaved (src dst : Nat) (v : Saved) : Saved := { v with region := moveCode src dst v.region, cores := moveCores src dst v.cores }

/-- The same for every thread and region of the module, the saved ones among them (R12, R330). -/
def moveViews (s : State) (src dst : Nat) : State :=
  { s with gmemPrev := memCopyLine s.gmemPrev s.gmemPrev src dst
           gatePrev := s.gatePrev.map fun g => (g.1, g.2.map (moveGate src dst))
           cores := moveCores src dst s.cores
           regions := s.regions.map fun r => (r.1, moveCode src dst r.2)
           parts := s.parts.map fun p =>
             (p.1, { p.2 with saves := p.2.saves.map fun v => (v.1, moveSaved src dst v.2)
                              oldSaves := p.2.oldSaves.map (moveSaved src dst) }) }

/-- A thread's view of a line becomes unreadable. -/
def poisonView (k : Nat) (x : Thread) : Thread := { x with snap := memPoison x.snap k }

/-- A line that cannot be read any more, in memory and in every view of it (R197, R235). -/
def poisonLine (s : State) (k : Nat) : State :=
  { s with gmem := memPoison s.gmem k, gmemPrev := memPoison s.gmemPrev k
           cores := s.cores.map fun c => (c.1, { c.2 with slots := c.2.slots.map fun x => (x.1, poisonView k x.2) }) }

/-- An abort begins: unmodified copies return to the source at once (R235). -/
def startAbort (x : TSlot) (cause : Nat) : TSlot := { x with state := .aborting, cause := cause, copied := x.modified, lock := none }

/-- The lines of a slot's page. -/
def slotLines (x : TSlot) : Nat := pageBytes x.size / 64

/-- The views of lines that were copied and not written since return to the source with them (R235). -/
def returnViews (x : TSlot) (s : State) : State :=
  ((List.range (slotLines x)).filter fun j => x.copied.testBit j && !x.modified.testBit j).foldl
    (fun s j => moveViews s (x.dst + 64 * j) (x.src + 64 * j)) s

/-- An abort of a slot begins with a cause (R235). -/
def abortSlot (s : State) (e n cause : Nat) : State :=
  let x := getTSlot s e n
  setTSlot (returnViews x s) e n (startAbort x cause)

/-- An access that meets an uncorrectable error, or a missing layer, at the destination of a copied line starts an abort. A line not
written since its copy is the source's again, and no accessor sees a fault; the error of one that was written is its consumer's
(R235). -/
def noticeError (s : State) (p pa : Nat) (moving : Bool) : State :=
  if moving then
    match slotOf s p pa with
    | some (e, n) =>
      let x := getTSlot s e n
      let j := (pa - x.src) / 64
      if (x.state = .copying ∨ x.state = .finishing) ∧ x.copied.testBit j ∧ readFails s p (x.dst + 64 * j) 64 then
        abortSlot s e n 1
      else s
    | none => s
  else s

/-- The same for every line of a range. -/
def noticeErrors (s : State) (p pa n : Nat) (moving : Bool) : State :=
  if moving then (piecesOf 64 pa n).foldl (fun s q => noticeError s p q.1 moving) s else s

/-- Where an access through a translation with T = 1 goes: the address of the line's current home, the slot, and the line's
number (R232). -/
def route (s : State) (p pa : Nat) (moving : Bool) : Nat × Option (Nat × Nat × Nat) :=
  if moving then
    match slotOf s p pa with
    | some (e, n) =>
      let x := getTSlot s e n
      let j := (pa - x.src) / 64
      (if x.copied.testBit j then x.dst + (pa - x.src) else pa, some (e, n, j))
    | none => (pa, none)
  else (pa, none)

/-- A read at the point of coherence through a translation (R185, R232). -/
def cohRead (s : State) (w : Who) (pa n : Nat) (moving : Bool) : State × Option (List Byte) :=
  let s := noticeError s w.part pa moving
  lineRead s w (route s w.part pa moving).1 n

/-- A write at the point of coherence through a translation: a line written at its destination is marked modified, and the
values written while the page moves are what a discarded line may read as later (R232, R236). -/
def cohWrite (s : State) (w : Who) (pa : Nat) (moving : Bool) (l : List Byte) : State :=
  let s := noticeError s w.part pa moving
  match route s w.part pa moving with
  | (at_, none) => lineWrite s w at_ l
  | (at_, some (e, n, j)) =>
    let s := lineWriteAs s w pa at_ l
    let x := getTSlot s e n
    let now := memRead s.gmem.cells (at_ / 64 * 64) 64
    setTSlot s e n { x with
      modified := if x.copied.testBit j && !x.modified.testBit j then x.modified + 2 ^ j else x.modified
      routed := amInsert x.routed (at_ / 64) (amGet x.routed (at_ / 64) [] ++ [now]) }

/-- A write of any length, cut at line boundaries. -/
def cohWriteAll (s : State) (w : Who) (pa : Nat) (moving : Bool) (l : List Byte) : State :=
  (piecesOf 64 pa l.length).foldl (fun s q => cohWrite s w q.1 moving ((l.drop (q.1 - pa)).take q.2)) s

/-- Reads of any length, cut at line boundaries: none when any line delivers an error. -/
def cohReadAll (s : State) (w : Who) (pa n : Nat) (moving : Bool) : State × Option (List Byte) :=
  (piecesOf 64 pa n).foldl (fun r q =>
    match r with
    | (s, none) => (s, none)
    | (s, some l) =>
      match cohRead s w q.1 q.2 moving with
      | (s, some b) => (s, some (l ++ b))
      | (s, none) => (s, none)) (s, some [])

/-! ### Performing a thread's stores and REDs (R183, R195) -/

/-- The bytes of one line that a store with disabled units leaves: the written bytes among those that stand there. -/
def mergeSkipped (s : State) (at_ : Nat) (skip first : Nat) (l : List Byte) : List Byte :=
  let now := memRead s.gmem.cells at_ l.length
  (List.range l.length).map fun i => if skip.testBit (first + i) then now.getD i 0 else l.getD i 0

/-- A piece of a store within one line is performed as one unit (R179); a line whose bytes are not all written keeps its
error. -/
def performPiece (s : State) (w : Who) (pa : Nat) (moving : Bool) (skip first : Nat) (l : List Byte) : State :=
  let s := noticeError s w.part pa moving
  if (skip >>> first) % 2 ^ l.length = 0 then cohWrite s w pa moving l
  else if popcount l.length (skip >>> first) = l.length then s
  else
    let at_ := (route s w.part pa moving).1
    let bad := memBad 64 s.gmem at_ l.length
    let s := cohWrite s w pa moving (mergeSkipped s at_ skip first l)
    if bad then { s with gmem := memPoison s.gmem (at_ / 64) } else s

/-- A plain store is performed at its home. -/
def performStore (s : State) (w : Who) (p : PendingStore) : State :=
  (piecesOf 64 p.pa p.bytes.length).foldl (fun s q =>
    performPiece s w q.1 p.moving p.skip (q.1 - p.pa) ((p.bytes.drop (q.1 - p.pa)).take q.2)) s

/-- Is the address in the line? -/
def sameLine (a b : Nat) : Bool := a / 64 == b / 64

/-- Does a store touch the line of an address? -/
def storeTouches (line : Nat) (p : PendingStore) : Bool :=
  decide (p.pa / 64 ≤ line / 64) && decide (line / 64 ≤ (p.pa + p.bytes.length - 1) / 64)

/-- Op of R193 on operands of n bytes. -/
def amoOp (op n old b : Nat) : Nat :=
  match op with
  | 0 => (old + b) % 2 ^ (8 * n)
  | 1 => old &&& b
  | 2 => old ||| b
  | 3 => old ^^^ b
  | 4 => if toSigned (8 * n) old ≤ toSigned (8 * n) b then old else b
  | 5 => if toSigned (8 * n) old ≤ toSigned (8 * n) b then b else old
  | 6 => if old ≤ b then old else b
  | 7 => if old ≤ b then b else old
  | _ => b

/-- A RED performed at its anchor: an error discards it and posts an engine-error message (R195, R197). -/
def performRed (s : State) (w : Who) (r : PendingRed) : State :=
  match cohRead s w r.pa r.size r.moving with
  | (s, none) => postEngineError s w.part 2 (r.pa / 64 * 64) (homePos s w.part r.pa) w.inst w.func
  | (s, some l) => cohWrite s w r.pa r.moving (toBytes r.size (amoOp r.op r.size (ofBytes l) r.operand))

/-! ### Gateways (R181) -/

/-- What the gateway of its die holds of a thread, with the places in its order: the stores that have reached it and not their home, and
the accepted REDs. -/
def gateHolds (x : Thread) : List (Nat × GateWrite) :=
  (x.stores.filterMap fun p => p.reached.map fun n => (n, .store p)) ++ x.reds.map fun r => (r.reached, .red r)

/-- The address of a held write. -/
def gateAddress : GateWrite → Nat
  | .store p => p.pa
  | .red r => r.pa

/-- Does a held write touch the line of an address? -/
def gateTouches (line : Nat) : GateWrite → Bool
  | .store p => storeTouches line p
  | .red r => sameLine r.pa line

/-- The writes to a line that stand at the gateway of a die, with the threads that made them. -/
def gateLine (s : State) (die line : Nat) : List (Nat × ThreadRef × GateWrite) :=
  (s.cores.filter fun c => dieOf c.1 == die).flatMap fun c => c.2.slots.flatMap fun x =>
    ((gateHolds x.2).filter fun p => gateTouches line p.2).map fun p => (p.1, { core := c.1, slot := x.1 }, p.2)

/-- A list with an entry in its place by number. -/
def insertByNumber {α : Type} (x : Nat × α) : List (Nat × α) → List (Nat × α)
  | [] => [x]
  | y :: rest => if x.1 ≤ y.1 then x :: y :: rest else y :: insertByNumber x rest

/-- A held write leaves its gateway and is performed. -/
def performHeld (s : State) (t : ThreadRef) : GateWrite → State
  | .store p => performStore (modThread s t fun y => { y with stores := y.stores.filter fun q => q != p }) (whoThread s t) p
  | .red r => performRed (modThread s t fun y => { y with reds := y.reds.filter fun q => q != r }) (whoThread s t) r

/-- The gateway of a die forwards what it holds for a line, in arrival order, below a place in that order if one is given (R181). -/
def forwardUpTo (s : State) (die line : Nat) (place : Option Nat) : State :=
  match (gateLine s die line).filter fun x => place.all fun n => decide (x.1 < n) with
  | [] => s
  | l => (l.foldl (fun m x => insertByNumber x m) []).foldl (fun s x => performHeld s x.2.1 x.2.2) s

/-- All that it holds for a line, ahead of an access from the die. -/
def forwardGate (s : State) (die line : Nat) : State := forwardUpTo s die line none

/-- The same for every line of a range. -/
def forwardRange (s : State) (die pa n : Nat) (place : Option Nat) : State :=
  (piecesOf 64 pa n).foldl (fun s q => forwardUpTo s die q.1 place) s

/-- All that it holds for the lines of a range. -/
def forwardGates (s : State) (die pa n : Nat) : State := forwardRange s die pa n none

/-- A store or a RED that a thread no longer holds is performed, after what the gateway of its die held before it (R181). -/
def performInOrder (s : State) (t : ThreadRef) (p : PendingStore) : State :=
  performStore (forwardRange s (dieOf t.core) p.pa p.bytes.length p.reached) (whoThread s t) p

def performRedInOrder (s : State) (t : ThreadRef) (r : PendingRed) : State :=
  performRed (forwardUpTo s (dieOf t.core) r.pa (some r.reached)) (whoThread s t) r

/-- An engine's read and write through a slice of its die (R181, R187). The controller has accepted a write before the engine counts
it (R364). -/
def engineRead (s : State) (w : Who) (pa n : Nat) (moving : Bool) : State × Option (List Byte) :=
  cohReadAll (forwardGates s w.die pa n) w pa n moving

def engineWrite (s : State) (w : Who) (pa : Nat) (moving : Bool) (l : List Byte) : State :=
  serveWrites (cohWriteAll (forwardGates s w.die pa l.length) w pa moving l) fun _ => true

/-- A coherent read and write of bytes of one line through a slice of the requester's die (R181): what a walker does with a table
(R204), and the command processor with a token. -/
def tableRead (s : State) (w : Who) (pa n : Nat) : State × Option (List Byte) := lineRead (forwardGates s w.die pa n) w pa n

def tableWrite (s : State) (w : Who) (pa : Nat) (l : List Byte) : State := lineWrite (forwardGates s w.die pa l.length) w pa l

/-- Performs the stores of a thread that a test selects, in program order, and drops them from its list. -/
def performStores (s : State) (t : ThreadRef) (sel : PendingStore → Bool) : State :=
  let x := getThread s t
  match x.stores with
  | [] => s
  | l =>
    let s := setThread s t { x with stores := l.filter fun p => !sel p }
    (l.filter sel).foldl (fun s p => performInOrder s t p) s

/-- Performs the REDs of a thread that a test selects, in program order. -/
def performReds (s : State) (t : ThreadRef) (sel : PendingRed → Bool) : State :=
  let x := getThread s t
  match x.reds with
  | [] => s
  | l =>
    let s := setThread s t { x with reds := l.filter fun p => !sel p }
    (l.filter sel).foldl (fun s p => performRedInOrder s t p) s

/-- Every retired store and RED of a thread is performed: what a publication, a FENCE, HALT and a save wait for (R183,
R184, R190, R195). The stores are older than the REDs to the same line, because a RED first performs them (R185). -/
def performAll (s : State) (t : ThreadRef) : State := performReds (performStores s t fun _ => true) t fun _ => true

/-- The oldest store of a thread that equals one is performed. -/
def performFirst (s : State) (t : ThreadRef) (p : PendingStore) : State :=
  performInOrder (modThread s t fun x => { x with stores := x.stores.erase p }) t p

/-- The stores of a thread with the oldest that equals one marked as having reached its gateway. -/
def markFirst (p : PendingStore) (n : Nat) : List PendingStore → List PendingStore
  | [] => []
  | q :: rest => if q = p then { q with reached := some n } :: rest else q :: markFirst p n rest

/-- A store that has reached its die: performed when its line is homed there, and else with its place in the order of the gateway
(R181). -/
def reachDie (t : ThreadRef) (s : State) (p : PendingStore) : State :=
  if p.moving ∨ homeDie s (getThread s t).part p.pa = dieOf t.core then performFirst s t p
  else { modThread s t fun x => { x with stores := markFirst p s.gateSeq x.stores } with gateSeq := s.gateSeq + 1 }

/-- Every retired store of a thread reaches its die: what a FENCE and a publication of a scope within one die wait for (R184, R190). -/
def reachAll (s : State) (t : ThreadRef) : State :=
  let s := performReds s t fun _ => true
  ((getThread s t).stores.filter fun p => p.reached.isNone).foldl (reachDie t) s

/-- The bytes of a store put into a memory, the skipped ones left as they are. -/
def overlayStore (m : Mem) (p : PendingStore) : Mem :=
  if p.skip % 2 ^ p.bytes.length = 0 then memStore 64 m p.pa p.bytes
  else (List.range p.bytes.length).foldl (fun m i => if p.skip.testBit i then m else memStore 64 m (p.pa + i) [p.bytes.getD i 0]) m

/-- A RED's operation put into a memory; an unreadable line stays as it is. -/
def overlayRed (m : Mem) (r : PendingRed) : Mem :=
  if memBad 64 m r.pa r.size then m
  else memStore 64 m r.pa (toBytes r.size (amoOp r.op r.size (ofBytes (memRead m.cells r.pa r.size)) r.operand))

/-- What a gateway holds, put over the values at the homes. -/
def overlayGate (m : Mem) : GateWrite → Mem
  | .store p => overlayStore m p
  | .red r => overlayRed m r

/-- What the gateways hold at the end of a cycle, by die and in arrival order, at the present homes of their lines (R181, R232). -/
def gatesNow (s : State) : AMap (List GateWrite) :=
  let placed (p : Nat) : GateWrite → GateWrite
    | .red r => .red { r with pa := (route s p r.pa r.moving).1 }
    | g => g
  let l := s.cores.flatMap fun c => c.2.slots.flatMap fun x => (gateHolds x.2).map fun p => (p.1, dieOf c.1, placed x.2.part p.2)
  let l := l.foldl (fun m x => insertByNumber x m) []
  ((l.map fun x => x.2.1).eraseDups).map fun d => (d, (l.filter fun x => x.2.1 == d).map fun x => x.2.2)

/-- A boundary: the thread's snapshot becomes the values of the lines as they stood at the slices of its die at the end of the cycle
before, and its own stores no longer cover it (R182, R184). -/
def takeBoundary (s : State) (t : ThreadRef) : State :=
  modThread s t fun x => { x with snap := (amGet s.gatePrev (dieOf t.core) []).foldl overlayGate s.gmemPrev, own := [] }

end Sys2Proof.Machine
end

