-- ==== Sys2Proof/Machine/Translate.lean ====
section
/-! DEFINITION. Translation: the table walk with its checks, the accessed and dirty bits, contiguous groups, the caches, and
fault messages (R203 to R220). -/
namespace Sys2Proof.Machine

/-! ### Walks (R206 to R209) -/

/-- What an access needs of its leaf, and who makes it (R207). `needA` holds for app mode and engines. -/
structure WalkReq where
  who : Who
  va : Nat
  write : Bool := false
  fetch : Bool := false
  needA : Bool := true
  deriving DecidableEq, Repr

/-- Check 6 of R206 (R207). -/
def permitFault (r : WalkReq) (e : Nat) : Option Nat :=
  if r.write && !pteW e then some 5
  else if r.fetch && !pteX e then some 6
  else if r.needA && !pteA e then some 7
  else none

/-- How a walk ends (R206). -/
inductive WalkEnd where
  | ok (e : TlbEntry)
  | fault (cause level entry : Nat)
  deriving DecidableEq, Repr

/-- A coherent compare-and-swap that sets bits of an entry: its read and its write at the home (R208, R364). -/
def swapEntry (s : State) (w : Who) (addr new : Nat) : State :=
  let s := tierAccess s w.part addr false
  lineWrite s w addr (toBytes 8 new)

/-- The entry with AF, and D as well for a write (R208). -/
def withAfD (write : Bool) (e : Nat) : Nat := e ||| 0x40 ||| (if write then 0x80 else 0)

/-- Sets AF and D of one leaf unless they are set already (R208). -/
def touchLeaf (s : State) (w : Who) (addr e : Nat) (write : Bool) : State :=
  if withAfD write e = e then s else swapEntry s w addr (withAfD write e)

/-- The sixteen entries of an aligned group, or none when a line of it cannot be read (R209). -/
def readGroup (s : State) (w : Who) (base : Nat) : State × Option (List Nat) :=
  match tableRead s w base 64 with
  | (s, none) => (s, none)
  | (s, some a) =>
    match tableRead s w (base + 64) 64 with
    | (s, none) => (s, none)
    | (s, some b) => (s, some (lanes 64 16 (ofBytes (a ++ b))))

/-- Does a group form one translation (R209)? -/
def groupForms (r : WalkReq) (level : Nat) (l : List Nat) : Bool :=
  let m := 9 * level
  let f := pteFrame (l.headD 0)
  let bare (e : Nat) : Nat := e - pteFrame e * 4096 - 64 * bit (pteAF e) - 128 * bit (pteD e)
  decide (f % (16 * 2 ^ m) = 0) &&
    (List.range 16).all fun k =>
      let e := l.getD k 0
      pteV e && pteL e && pteC e && (shapeFault level e).isNone && (permitFault r e).isNone &&
        bare e == bare (l.headD 0) && pteFrame e == f + k * 2 ^ m

/-- Sets AF and D of a group, one swap for each line that needs it (R209). -/
def touchGroup (s : State) (w : Who) (base : Nat) (l : List Nat) (write : Bool) : State :=
  [0, 1].foldl (fun s h =>
    let half := (l.drop (8 * h)).take 8
    if half.all fun e => withAfD write e == e then s
    else
      let s := tierAccess s w.part (base + 64 * h) false
      lineWrite s w (base + 64 * h) (half.flatMap fun e => toBytes 8 (withAfD write e))) s

/-- The cached translation that a leaf makes: `bits` is the logarithm of the page's bytes. -/
def leafEntry (r : WalkReq) (bits e frame : Nat) (d : Bool) : TlbEntry :=
  { func := r.who.func, va := r.va / 2 ^ bits * 2 ^ bits, bits := bits, frame := frame, w := pteW e, x := pteX e
    a := pteA e, g := pteG e, d := d, t := pteT e, mt := pteMt e, tier := pteTier e }

/-- A leaf that passed its checks: groups, AF and D, and the translation (R208, R209). -/
def finishLeaf (s : State) (r : WalkReq) (level addr e : Nat) : State × WalkEnd :=
  let single (s : State) : State × WalkEnd :=
    (touchLeaf s r.who addr e r.write, .ok (leafEntry r (12 + 9 * level) e (pteFrame e) (pteD (withAfD r.write e))))
  if pteC e ∧ level ≤ 1 then
    let base := addr / 128 * 128
    match readGroup s r.who base with
    | (s, none) => single s
    | (s, some l) =>
      if groupForms r level l then
        (touchGroup s r.who base l r.write,
         .ok (leafEntry r (16 + 9 * level) e (pteFrame (l.headD 0)) (l.all fun x => pteD (withAfD r.write x))))
      else single s
  else single s

/-- The walk from a level down (R204, R206), with the non-leaf entries it passed (R211). -/
def walkFrom (r : WalkReq) : Nat → State → Nat → List WalkEntry → State × WalkEnd × List WalkEntry
  | 0, s, _, path => (s, .fault 9 4 0, path)
  | n + 1, s, table, path =>
    let addr := pteAddr table r.va n
    match tableRead s r.who addr 8 with
    | (s, none) => (s, .fault 8 n 0, path)
    | (s, some b) =>
      let e := ofBytes b
      if !pteV e then (s, .fault 1 n e, path)
      else
        match shapeFault n e with
        | some c => (s, .fault c n e, path)
        | none =>
          if pteL e then
            match permitFault r e with
            | some c => (s, .fault c n e, path)
            | none =>
              let p := finishLeaf s r n addr e
              (p.1, p.2, path)
          else
            walkFrom r n s (pteFrame e)
              ({ func := r.who.func, level := n, key := r.va / 2 ^ (12 + 9 * n), table := pteFrame e } :: path)

/-- The deepest cached non-leaf entry that matches (R211). -/
def walkStart (l : List WalkEntry) (func va : Nat) : Option WalkEntry :=
  [1, 2, 3, 4].findSome? fun n => l.find? fun e => e.func == func && e.level == n && e.key == va / 2 ^ (12 + 9 * n)

/-- A whole walk: from the deepest match of the quad's walk cache, or from the root (R203, R206, R211). The entry it starts from
stands at the end of the path, and so becomes a recent one. -/
def walk (s : State) (r : WalkReq) (cache : List WalkEntry) : State × WalkEnd × List WalkEntry :=
  let root := txroot s r.who.part r.who.func
  if !root.getLsbD 0 then (s, .fault 9 4 0, [])
  else
    match walkStart cache r.who.func r.va with
    | some e => walkFrom r e.level s e.table [e]
    | none => walkFrom r 5 s (fieldOf root 51 12) []

/-! ### Translation caches (R210 to R212) -/

/-- Does a cached translation match an access? -/
def tlbMatch (func va : Nat) (e : TlbEntry) : Bool := (e.func == func || e.g) && va / 2 ^ e.bits == e.va / 2 ^ e.bits

/-- The cached translation of an access. -/
def tlbFind (func va : Nat) (l : List TlbEntry) : Option TlbEntry := l.find? (tlbMatch func va)

/-- Two entries for the same page of the same function. -/
def samePage (a b : TlbEntry) : Bool := a.func == b.func && a.va == b.va && a.bits == b.bits

/-- The cache with an entry made the most recent; the least recent one leaves when it is full (R212). -/
def tlbFill (cap : Nat) (e : TlbEntry) (l : List TlbEntry) : List TlbEntry := (e :: l.filter fun x => !samePage e x).take cap

/-- Does a cached translation permit the access (R207, R208)? One that does not is walked again. -/
def tlbPermits (write fetch needA : Bool) (e : TlbEntry) : Bool :=
  (!write || (e.w && e.d)) && (!fetch || e.x) && (!needA || e.a)

/-- The physical address that a translation gives. -/
def tlbPa (e : TlbEntry) (va : Nat) : Nat := e.frame * 4096 + va % 2 ^ e.bits

/-- The L1 TLB of a core for an access. -/
def l1Of (c : Core) (fetch : Bool) : List TlbEntry := if fetch then c.itlb else c.dtlb

def fillL1 (s : State) (core : Nat) (fetch : Bool) (e : TlbEntry) : State :=
  modCore s core fun c => if fetch then { c with itlb := tlbFill 64 e c.itlb } else { c with dtlb := tlbFill 128 e c.dtlb }

/-- A set-associative cache of eight ways with an entry made the most recent: the least recent one of its set leaves when the set is
full (R212). -/
def setFill (setOf : TlbEntry → Nat) (e : TlbEntry) (l : List TlbEntry) : List TlbEntry :=
  let l := e :: l.filter fun x => !samePage e x
  if l.length ≤ 8 then l
  else
    match (l.filter fun x => setOf x == setOf e)[8]? with
    | some old => l.filter fun x => !samePage old x
    | none => l

/-- The 256 sets of an L2 TLB hold 2,048 entries. -/
def fillL2 (s : State) (quad : Nat) (e : TlbEntry) : State :=
  modQuad s quad fun q => { q with l2 := setFill (fun x => Config.l2Set x.va x.bits % 256) e q.l2 }
/-- The LLTC holds pages of 2 MiB and more (R210), in 2,048 sets: 16,384 entries. -/
def fillLltc (s : State) (die : Nat) (e : TlbEntry) : State :=
  if 21 ≤ e.bits then modLltc s die fun c => { c with entries := setFill (fun x => Config.lltcSet x.va x.bits % 2048) e c.entries } else s
/-- The walk cache takes the entries of a path (R211). -/
def fillWalkCache (s : State) (quad : Nat) (path : List WalkEntry) : State :=
  modQuad s quad fun q => { q with walkCache := (path ++ q.walkCache.filter fun e => !path.contains e).take 256 }

/-! ### Fills beside a token on its way (R214 to R216) -/

/-- Does a token match a translation of a function, page and G bit (R215)? -/
def tokenMatches (k : Token) (func va bits : Nat) (g : Bool) : Bool :=
  (k.scope == 2 || func == k.func || (g && k.global)) &&
    (k.scope != 0 || (decide (va < k.va + 2 ^ k.bits) && decide (k.va < va + 2 ^ bits)))

/-- The number of an LLTC as a token's target. -/
def lltcTarget (die : Nat) : Nat := 1024 + die

/-- May no fill carry a translation from one target of the tokens to another: has a token that removes it passed the second and not the
first? No translation read before a token is cached after it. -/
def fillBarred (s : State) (src dst : Nat) (e : TlbEntry) : Bool :=
  s.tokens.any fun k => k.targets.contains src && !k.targets.contains dst && tokenMatches k e.func e.va e.bits e.g

/-- What a translation from a die's LLTC fills: the quad's L2 TLB, and then `near`, the caches beside it (R210). -/
def fillFromLltc (s : State) (die quad : Nat) (e : TlbEntry) (near : State → State) : State :=
  let s := fillLltc s die e
  if fillBarred s (lltcTarget die) quad e then s else near (fillL2 s quad e)

/-- What a quad's walk fills: the LLTC, the L2 TLB, and then `near` (R210). -/
def fillFromWalk (s : State) (die quad : Nat) (e : TlbEntry) (near : State → State) : State :=
  near (fillL2 (if fillBarred s quad (lltcTarget die) e then s else fillLltc s die e) quad e)

/-- The walk request of a thread. -/
def threadReq (s : State) (t : ThreadRef) (va : Nat) (write fetch : Bool) : WalkReq :=
  { who := whoThread s t, va := va, write := write, fetch := fetch, needA := !modeSys (getThread s t) }

/-- The caches on the way of a core's access, with the fills that a hit in a farther one makes (R210). -/
def cacheLookup (s : State) (core : Nat) (func va : Nat) (write fetch needA : Bool) : State × Option TlbEntry :=
  let ok (l : List TlbEntry) : Option TlbEntry := (tlbFind func va l).filter (tlbPermits write fetch needA)
  match ok (l1Of (getCore s core) fetch) with
  | some e => (fillL1 s core fetch e, some e)
  | none =>
    match ok (getQuad s (quadKey core)).l2 with
    | some e => (fillL1 (fillL2 s (quadKey core) e) core fetch e, some e)
    | none =>
      match ok (getLltc s (dieOf core)).entries with
      | some e => (fillFromLltc s (dieOf core) (quadKey core) e fun s => fillL1 s core fetch e, some e)
      | none => (s, none)

/-- A thread's walk with its fills (R210, R211); one that starts anew begins at L4 (R214). -/
def threadWalk (s : State) (t : ThreadRef) (va : Nat) (write fetch fromRoot : Bool) : State × WalkEnd :=
  let r := threadReq s t va write fetch
  let q := quadKey t.core
  let p := walk s r (if fromRoot then [] else (getQuad s q).walkCache)
  let s := fillWalkCache p.1 q p.2.2
  match p.2.1 with
  | .ok e => (fillFromWalk s (dieOf t.core) q e fun s => fillL1 s t.core fetch e, .ok e)
  | f => (s, f)

/-! ### Walkers (R210, R212) -/

/-- Does a thread wait for a walk? -/
def waitsForWalk (s : State) (j : WalkJob) (t : ThreadRef) : Bool :=
  let x := getThread s t
  match x.wait with
  | .walk va _ _ _ => x.func == j.func && va / 4096 == j.page
  | .query va => x.func == j.func && va / 4096 == j.page
  | _ => false

/-- Does a generator wait for a walk? -/
def portWaits (s : State) (p : WalkPort) : Bool :=
  if p.port < 8192 then (amGet (getTile s p.port).chans p.chan {}).walking == some p.va
  else (if p.write then (getSwitch s p.port).writer else (getSwitch s p.port).reader).walking == some p.va

/-- Walks in arrival order, without the requesters that have gone and the walks that nobody waits for. -/
def liveWalks (s : State) (l : List WalkJob) : List WalkJob :=
  (l.map fun j => { j with threads := j.threads.filter (waitsForWalk s j), ports := j.ports.filter (portWaits s) }).filter fun j =>
    !(j.threads.isEmpty && j.ports.isEmpty)

/-- The walks of a quad, and those of a die's LLTC for its stream nodes. -/
def pendingWalks (s : State) (q : Nat) : List WalkJob := liveWalks s (getQuad s q).walks
def pendingNodeWalks (s : State) (die : Nat) : List WalkJob := liveWalks s (getLltc s die).walks

/-- Two walks of the same page of the same function. -/
def sameWalk (a b : WalkJob) : Bool := a.func == b.func && a.page == b.page

/-- May a miss of a quad be walked at once: is a walker free, and no walk of its page under way that it shares? -/
def walkerFree (s : State) (q func va : Nat) : Bool :=
  decide ((pendingWalks s q).length < 2) && !(pendingWalks s q).any (sameWalk { func := func, page := va / 4096 })

/-- The oldest two walks have the walkers, and one that gets its walker records the generation (R212, R214). -/
def startWalks (gen : BitVec 16) (l : List WalkJob) : List WalkJob :=
  (l.take 2).map (fun j => { j with gen := some (j.gen.getD gen) }) ++ l.drop 2

/-- A miss joins the walk of its page, or stands behind the others (R210, R212). -/
def joinWalk (j : WalkJob) (l : List WalkJob) : List WalkJob :=
  if l.any (sameWalk j) then
    l.map fun x => if sameWalk j x then
      { x with threads := x.threads ++ j.threads.filter fun t => !x.threads.contains t
               ports := x.ports ++ j.ports.filter fun p => !x.ports.contains p } else x
  else l ++ [j]

/-- The walks of a quad with a miss among them. -/
def queueMiss (s : State) (q : Nat) (j : WalkJob) : State :=
  let l := joinWalk j (pendingWalks s q)
  modQuad s q fun y => { y with walks := startWalks y.gen l }

/-- A thread's miss. -/
def queueWalk (s : State) (t : ThreadRef) (va : Nat) : State :=
  queueMiss s (quadKey t.core) { func := (getThread s t).func, page := va / 4096, threads := [t] }

/-- The walk of a quad that has a walker, among its walks as they are now. -/
def walkerJob (s : State) (q : Nat) (mine : WalkJob → Bool) : Option WalkJob :=
  ((startWalks (getQuad s q).gen (pendingWalks s q)).take 2).find? mine

/-- A walk leaves its quad, and the walker takes the oldest that waits. -/
def leaveWalks (s : State) (q : Nat) (j : WalkJob) : State :=
  let l := (startWalks (getQuad s q).gen (pendingWalks s q)).filter fun x => !sameWalk j x
  modQuad s q fun y => { y with walks := startWalks y.gen l }

/-! ### Fault messages (R217) -/

/-- Doubleword 0 of a fault message. -/
def faultHead (cause level : Nat) (write fetch app coh : Bool) (kind gen func : Nat) : Word :=
  BitVec.ofNat 64 (1 + 2 ^ 8 * (cause % 256) + 2 ^ 16 * (level % 8) + 2 ^ 24 * bit write + 2 ^ 25 * bit fetch +
    2 ^ 26 * bit app + 2 ^ 27 * bit coh + 2 ^ 28 * (kind % 16) + 2 ^ 32 * (gen % 2 ^ 16) + 2 ^ 48 * (func % 128))

/-- REQKIND of a slot's fault messages: its context engine's while the thread is created, else the thread's. -/
def requestKind (x : Thread) : Nat :=
  match x.slotState with
  | .creating _ => 1
  | _ => 0

/-- A thread posts its fault message with a new sequence number. -/
def postThreadFault (s : State) (t : ThreadRef) (va : Nat) (write fetch coh : Bool) (gen cause level entry : Nat) : State :=
  let x := getThread s t
  let seq := x.seq + 1
  let s := setThread s t { x with seq := seq }
  postMail s x.part (designated s x.part)
    [faultHead cause level write fetch (!modeSys x) coh (requestKind x) gen x.func, BitVec.ofNat 64 va, BitVec.ofNat 64 entry,
     handleWord (corePos t.core) t.slot seq]

/-- How a thread's translation ends: a translation, or what the thread waits for. -/
inductive Xlate where
  | ok (e : TlbEntry)
  | block (w : Wait)
  deriving DecidableEq, Repr

/-- The address that a thread's fault message names: the accessed one, and for a fetch the PC of word 0 (R11, R217). -/
def faultVa (s : State) (t : ThreadRef) (va : Nat) (fetch : Bool) : Nat := if fetch then (getThread s t).pc.toNat else va

/-- A thread's walk has failed: it posts its message and waits for the reply (R217). -/
def walkFailed (s : State) (t : ThreadRef) (va : Nat) (write fetch coh : Bool) (gen cause level entry : Nat) : State × Wait :=
  let v := faultVa s t va fetch
  (postThreadFault s t v write fetch coh gen cause level entry, .fault (BitVec.ofNat 64 v))

/-- A thread's translation of an address: the caches, then a walk, which in the deferred mode of a turn or without a free walker
ends at a later event, then a fault message (R210, R212, R214, R217). -/
def threadXlate (s : State) (t : ThreadRef) (va : Nat) (write fetch coh : Bool) : State × Xlate :=
  let x := getThread s t
  match cacheLookup s t.core x.func va write fetch (!modeSys x) with
  | (s, some e) => (s, .ok e)
  | (s, none) =>
    if s.defer || !walkerFree s (quadKey t.core) x.func va then (queueWalk s t va, .block (.walk va write fetch coh))
    else
      match threadWalk s t va write fetch false with
      | (s, .ok e) => (s, .ok e)
      | (s, .fault c l e) =>
        let r := walkFailed s t va write fetch coh (getQuad s (quadKey t.core)).gen.toNat c l e
        (r.1, .block r.2)

/-- Translations of several addresses in order, up to the first that blocks: a vector access touches its pages one after the
other (R159). -/
def threadXlates (t : ThreadRef) (write coh : Bool) : List Nat → State → State × Except Wait (List TlbEntry)
  | [], s => (s, .ok [])
  | va :: rest, s =>
    match threadXlate s t va write false coh with
    | (s, .block w) => (s, .error w)
    | (s, .ok e) =>
      match threadXlates t write coh rest s with
      | (s, .error w) => (s, .error w)
      | (s, .ok l) => (s, .ok (e :: l))

/-! ### Translation before an instruction's work -/

/-- Translates addresses for the executing thread and goes on with the translations (R155, R159). -/
def withXlates {α : Type} (vas : List Nat) (write coh : Bool) (k : List TlbEntry → M α) : M α := fun s =>
  match threadXlates s.cur write coh vas s with
  | (s1, .ok l) =>
    match k l s1 with
    | .ok r => .ok r
    | .error (.trap c v h) => .error (.trap c v fun s => h (threadXlates s.cur write coh vas s).1)
    | .error (.wait w h) => .error (.wait w fun s => h (threadXlates s.cur write coh vas s).1)
  | (_, .error w) => .error (.wait w fun s => (threadXlates s.cur write coh vas s).1)

end Sys2Proof.Machine
end

