-- ==== Sys2Proof/Machine/Access.lean ====
section
/-! DEFINITION. A thread's view of memory: the local window, plain accesses through the snapshot, coherent accesses, pieces and
restart (R153 to R159, R182 to R187, R197). -/
namespace Sys2Proof.Machine

/-! ### The local window (R153) -/

/-- Where an effective address leads. -/
inductive Addr where
  | loc (o : LObj) (off : Nat)
  | glob (va : Nat)
  | bad
  deriving DecidableEq, Repr

/-- Is the address in the local window? -/
def isLocal (ea : Word) : Bool := fieldOf ea 63 56 == 0xFF

/-- Is the address a global one: bits [63:57] zero (R153)? -/
def isGlobal (ea : Word) : Bool := fieldOf ea 63 57 == 0

/-- KIND of a local-window address. -/
def localKind (ea : Word) : Nat := fieldOf ea 55 52

/-- The object and offset of a local-window access of n bytes, if every condition of R153 holds. -/
def resolveIn (region : Option Region) (core : Nat) (ea : Word) (n : Nat) : Addr :=
  let row := fieldOf ea 51 46
  let col := fieldOf ea 45 40
  let layer := fieldOf ea 39 39
  let off := fieldOf ea 38 0
  let plain := row == 0 && col == 0 && layer == 0
  let tile (size : Nat) (mk : Nat → LObj) : Addr :=
    match region with
    | some r =>
      if inRegion r row col layer && !computePos row col && decide (off + n ≤ size) then .loc (mk (regionTile r row col layer)) off
      else .bad
    | none => .bad
  match localKind ea with
  | 0 => if plain && decide (off + n ≤ 262144) then .loc (.scratch core) off else .bad
  | 1 => tile 786432 .sram
  | 2 => if plain && decide (off + n ≤ 262144) && (region.any fun r => r.twin) then .loc (.scratch (twinOf core)) off else .bad
  | 3 => tile 256 .regs
  | 4 => if plain && decide (off + n ≤ 32768) && (region.any fun r => r.quad) then .loc (.spm (quadKey core)) off else .bad
  | _ => .bad

/-- The same for a thread, in the region it belongs to. -/
def resolveLocal (s : State) (t : ThreadRef) (ea : Word) (n : Nat) : Addr := resolveIn (threadRegion s t) t.core ea n

/-- Where an access of n bytes leads. -/
def resolve (s : State) (t : ThreadRef) (ea : Word) (n : Nat) : Addr :=
  if isLocal ea then resolveLocal s t ea n else if isGlobal ea then .glob ea.toNat else .bad

/-- The memory of a local object; channel registers have none. -/
def localMem (s : State) : LObj → Mem
  | .scratch k => (getCore s k).scratch
  | .sram k => (getTile s k).sram
  | .regs _ => {}
  | .spm q => (getQuad s q).scratch

/-- The granule in which the object keeps errors: a scratch word of a sum-product engine, else 64 bytes (R197, R280). -/
def localGranule : LObj → Nat
  | .spm _ => 4
  | _ => 64

def setLocalMem (s : State) (o : LObj) (m : Mem) : State :=
  match o with
  | .scratch k => modCore s k fun c => { c with scratch := m }
  | .sram k => modTile s k fun c => { c with sram := m }
  | .regs _ => s
  | .spm q => modQuad s q fun c => { c with scratch := m }

/-- A local read: the bytes, or none for an uncorrectable error. -/
def localRead (s : State) (o : LObj) (off n : Nat) : Option (List Byte) :=
  if memBad (localGranule o) (localMem s o) off n then none else some (memRead (localMem s o).cells off n)

/-- A local write, performed at once (R154). -/
def localWrite (s : State) (o : LObj) (off : Nat) (l : List Byte) : State :=
  setLocalMem s o (memStore (localGranule o) (localMem s o) off l)

/-- The bytes of a piece of a write that are not skipped: a piece of which none is skipped is written whole, which clears an
error of its granule (R197, R280). -/
def localPieceSkip (o : LObj) (off skip : Nat) (l : List Byte) (s : State) (p : Nat × Nat) : State :=
  let i := p.1 - off
  if skip / 2 ^ i % 2 ^ p.2 = 0 then localWrite s o p.1 ((l.drop i).take p.2)
  else (List.range p.2).foldl (fun s j => if skip.testBit (i + j) then s else localWrite s o (p.1 + j) [l.getD (i + j) 0]) s

/-- A local write of the bytes that are not skipped. -/
def localWriteSkip (s : State) (o : LObj) (off skip : Nat) (l : List Byte) : State :=
  if skip % 2 ^ l.length = 0 then localWrite s o off l
  else (piecesOf (localGranule o) off l.length).foldl (localPieceSkip o off skip l) s

/-! ### Copy-channel registers (R169) -/

/-- STATUS of a copy channel. -/
def chanStatus (c : Channel) : Word :=
  BitVec.ofNat 64 (c.lastId % 256 * 2 ^ 24 + c.errCode % 256 * 2 ^ 16 + c.queue.length % 256 * 2 ^ 8 + 2 * bit c.err +
    bit c.active.isSome)

/-- A channel of a memory tile. -/
def getChan (s : State) (tile c : Nat) : Channel := amGet (getTile s tile).chans c {}
def modChan (s : State) (tile c : Nat) (f : Channel → Channel) : State :=
  modTile s tile fun t => { t with chans := amInsert t.chans c (f (amGet t.chans c {})) }

/-- A register of a channel block. -/
def chanRead (s : State) (tile off : Nat) : Word :=
  let c := getChan s tile (off / 64)
  match off % 64 with
  | 0 => c.wptr
  | 8 => chanStatus c
  | 16 => c.errAddr
  | _ => 0

/-- A store to a channel block: ERR is cleared by writing one, and the channel runs its queue again (R169, R172). -/
def chanWrite (s : State) (tile off : Nat) (v : Word) : State :=
  if off % 64 = 8 ∧ v.getLsbD 1 then modChan s tile (off / 64) fun c => { c with err := false, abortedBy := [] } else s

/-! ### Plain accesses (R182, R183) -/

/-- What a plain load of bytes of one line returns: the thread's own stores over its snapshot, or none when a byte that the
snapshot gives cannot be read. DEDUCED: a line with a dirty error or an unreadable record in the sector cache cannot, whenever the snapshot
was taken (R228; log entry 40). -/
def plainLine (s : State) (t : ThreadRef) (pa : Nat) (moving : Bool) (n : Nat) : Option (List Byte) :=
  let x := getThread s t
  let at_ := (route s x.part pa moving).1
  let own i := amFind x.own (at_ + i)
  let needs := (List.range n).any fun i => (own i).isNone
  if needs && (!populated s x.part at_ || memBad 64 x.snap at_ n || sectorFails s x.part at_) then none
  else some ((List.range n).map fun i => (own i).getD (memGet x.snap.cells (at_ + i)))

/-- A plain load of bytes of one page through a translation. The control block is read at once (R349). -/
def plainRead (s : State) (t : ThreadRef) (e : TlbEntry) (va n : Nat) : Option (List Byte) :=
  let pa := tlbPa e va
  match ownControl (whoThread s t) pa with
  | some off => some (controlRead s (getThread s t).part off n)
  | none =>
    (piecesOf 64 pa n).foldl (fun r q =>
      match r, plainLine s t q.1 e.t q.2 with
      | some l, some b => some (l ++ b)
      | _, _ => none) (some [])

/-- A plain store within one page through a translation: it covers the thread's own view at once and is performed later, one
line at a time (R179, R182, R183). An earlier RED of the thread to the line is performed first, so that the coherence order
keeps the program's (R186). The control block is written at once (R349), and a store to a frozen ring page is ignored (R356). -/
def plainStore (s : State) (t : ThreadRef) (e : TlbEntry) (va : Nat) (l : List Byte) (skip : Nat) : State :=
  let pa := tlbPa e va
  match ownControl (whoThread s t) pa with
  | some off => controlWrite s (getThread s t).part off l skip
  | none =>
    (piecesOf 64 pa l.length).foldl (fun s q =>
      let i := q.1 - pa
      let s := performReds s t fun r => sameLine r.pa q.1
      if ringFrozen s q.1 then s
      else
      let at_ := (route s (getThread s t).part q.1 e.t).1
      modThread s t fun x =>
        { x with
          own := (List.range q.2).foldl (fun m j => if skip.testBit (i + j) then m else amInsert m (at_ + j) (l.getD (i + j) 0)) x.own
          stores := x.stores ++ [{ pa := q.1, bytes := (l.drop i).take q.2, skip := (skip >>> i) % 2 ^ q.2, func := x.func
                                   va := va + i, global := e.g, moving := e.t }] }) s

/-! ### Accesses of the executing thread -/

/-- Where an access of the executing thread leads; an address that leads nowhere raises the Address trap with the effective
address that the instruction reports (R153). -/
def resolveM (ea : Word) (n : Nat) (val : Word) : M Addr := do
  let s ← getS
  match resolve s s.cur ea n with
  | .bad => trapM causeAddress val
  | .loc (.regs _) _ => trapM causeAddress val
  | a => pure a

/-- Local objects beyond the core's own scratchpad answer with a variable latency (R76). -/
def localLatency : LObj → M Unit
  | .sram _ => variableLatency
  | .spm _ => variableLatency
  | .scratch k => do
    let c ← selfCore
    if k = c then pure () else variableLatency
  | .regs _ => variableLatency

/-- Reads bytes of one page or one object for the executing thread, as a plain load, and goes on with them. `val` is what a
Memory Data Error or an Address trap reports. -/
def loadPiece {α : Type} (ea : Word) (n : Nat) (val : Word) (k : List Byte → M α) : M α := do
  let a ← resolveM ea n val
  match a with
  | .loc o off => do
    localLatency o
    let s ← getS
    match localRead s o off n with
    | some l => k l
    | none => trapM causeMemory val
  | .glob va =>
    withXlates [va] false false fun es => do
      variableLatency
      let notice (s : State) : State := noticeErrors s (getThread s s.cur).part (tlbPa (es.headD {}) va) n (es.headD {}).t
      modS notice
      let s ← getS
      match plainRead s s.cur (es.headD {}) va n with
      | some l => k l
      | none => trapKeepM causeMemory val notice
  | .bad => trapM causeAddress val

/-- Cuts a range at page boundaries, modulo 2^64: the address and length of each piece (R159). -/
def pagePieces (ea : Word) (n : Nat) : List (Word × Nat) :=
  if isLocal ea then [(ea, n)] else (piecesOf 4096 ea.toNat n).map fun q => (BitVec.ofNat 64 q.1, q.2)

/-- Reads several pieces in order and goes on with all their bytes (R159). Each piece reports its own address. -/
def loadPieces {α : Type} : List (Word × Nat × Word) → List Byte → (List Byte → M α) → M α
  | [], acc, k => k acc
  | (ea, n, val) :: rest, acc, k => loadPiece ea n val fun l => loadPieces rest (acc ++ l) k

/-- A plain load of any length at one address, which every trap reports as `val`. -/
def loadBytes {α : Type} (ea : Word) (n : Nat) (val : Word) (k : List Byte → M α) : M α :=
  loadPieces ((pagePieces ea n).map fun q => (q.1, q.2, val)) [] k

/-- Writes bytes of one page or one object for the executing thread, as a plain store, and goes on. -/
def storeThen {α : Type} (ea : Word) (l : List Byte) (skip : Nat) (val : Word) (k : M α) : M α := do
  let a ← resolveM ea l.length val
  match a with
  | .loc o off => do
    modS fun s => localWriteSkip s o off skip l
    k
  | .glob va =>
    withXlates [va] true false fun es => do
      modS fun s => plainStore s s.cur (es.headD {}) va l skip
      k
  | .bad => trapM causeAddress val

/-- A plain store of bytes of one page or one object. -/
def storePiece (ea : Word) (l : List Byte) (skip : Nat) (val : Word) : M Unit := storeThen ea l skip val (pure ())

/-- Sets MPROG.PROG (R89). -/
def setProg (n : Nat) (x : Thread) : Thread := { x with mprog := BitVec.ofNat 64 (n % 2 ^ 32) }

/-- MPROG.PROG of the executing thread. -/
def progress : M Nat := do
  let x ← self
  pure (fieldOf x.mprog 31 0)

/-- What a step of a restartable instruction leaves in a state, if it can be done. -/
def effectOf (m : M Unit) (s : State) : State :=
  match m s with
  | .ok (_, s') => s'
  | .error _ => s

/-- The steps of a restartable instruction, each with the value that MPROG takes when the instruction stops at it: what was
done before stays done (R159, R164, R199). MPROG is zero when all are done. -/
def restartable : List (Nat × M Unit) → M Unit
  | [] => modSelf (setProg 0)
  | (p, m) :: rest => fun s =>
    match m s with
    | .error (.trap c v k) => .error (.trap c v fun s => modThread (k s) s.cur (setProg p))
    | .error (.wait w k) => .error (.wait w fun s => modThread (k s) s.cur (setProg p))
    | .ok (_, s1) =>
      match restartable rest s1 with
      | .ok r => .ok r
      | .error (.trap c v k) => .error (.trap c v fun s => k (effectOf m s))
      | .error (.wait w k) => .error (.wait w fun s => k (effectOf m s))

/-! ### Coherent accesses of the executing thread (R185) -/

/-- Performs the thread's own stores and REDs to a line, which every coherent access to it does first, and what the gateway of its
die holds for the line (R181, R185). -/
def performLine (s : State) (t : ThreadRef) (pa : Nat) : State :=
  forwardGate (performReds (performStores s t (storeTouches pa)) t fun r => sameLine r.pa pa) (dieOf t.core) pa

/-- The work of a coherent access to bytes of one line, once its address is translated: `f` gets the state, the physical
address and T. -/
def withLine {α : Type} (va : Nat) (write : Bool) (f : TlbEntry → Nat → M α) : M α :=
  withXlates [va] write true fun es => do
    variableLatency
    let e := es.headD {}
    modS fun s => performLine s s.cur (tlbPa e va)
    f e (tlbPa e va)

/-- Reads bytes of one line coherently; an uncorrectable error raises the Memory Data Error trap, and the read of the line is
made all the same (R197, R228). -/
def cohReadM (e : TlbEntry) (pa n : Nat) (val : Word) : M (List Byte) := do
  let s ← getS
  match cohRead s (whoThread s s.cur) pa n e.t with
  | (s1, some l) => do
    modS fun _ => s1
    pure l
  | (_, none) => trapKeepM causeMemory val fun s => (cohRead s (whoThread s s.cur) pa n e.t).1

/-- Writes bytes of one line coherently. -/
def cohWriteM (e : TlbEntry) (pa : Nat) (l : List Byte) : M Unit :=
  modS fun s => cohWrite s (whoThread s s.cur) pa e.t l

end Sys2Proof.Machine
end

