-- ==== Sys2Proof/Machine/Atomic.lean ====
section
/-! DEFINITION. Coherent accesses: atomics, REDs, GET, PUT, PREF, WAITA and FENCE (R185, R190 to R202). -/
namespace Sys2Proof.Machine

/-! ### The contention predictor (R196) -/

/-- Is the atomic executed locally, with ownership of the line? -/
def runsLocally (s : State) (quad pa : Nat) (moving : Bool) : Bool :=
  !moving && (match tierOf pa with
    | .hbm _ => true
    | _ => false) &&
    (match (getQuad s quad).predictor.find? fun e => e.line == pa / 64 with
     | some e => decide (e.count < 2)
     | none => true)

/-- The predictor of a quad after its atomic on a line: it changes no value, only where atomics run. One that runs locally takes
ownership, and any use makes the line's entry a recent one. -/
def predictAtomic (s : State) (quad pa : Nat) (moving : Bool) : State :=
  let line := pa / 64
  let loc := runsLocally s quad pa moving
  modQuad s quad fun q =>
    match q.predictor.find? (fun e => e.line == line), loc with
    | none, false => q
    | e, _ =>
      let e := e.getD { line := line, since := s.cycle }
      { q with predictor := ({ e with owns := e.owns || loc } :: q.predictor.filter fun e => e.line != line).take 64 }

/-! ### Atomics (R192 to R197) -/

/-- The bytes that an atomic's size field names (R193). -/
def atomicBytes (z : BitVec 2) : Nat := if z = 2 then 4 else 8

/-- The returned value of an atomic (R193). -/
def atomicResult (zero : Bool) (n old : Nat) : Word :=
  if zero && n == 4 then BitVec.ofNat 64 old else BitVec.ofInt 64 (toSigned (8 * n) old)

/-- OpF of R194: RNE, canonical NaN, no flags. -/
def amoFloat (op old b : Nat) : Nat :=
  let x := fdecode .fp32 old
  let y := fdecode .fp32 b
  match op with
  | 0 => (deliver .fp32 .rne (fadd .rne x y)).1
  | 1 => (deliver .fp32 .rne (fminmax false x y)).1
  | _ => (deliver .fp32 .rne (fminmax true x y)).1

/-- The local objects that atomics, GET and PUT reach: kinds 0, 1 and 2 (R193, R199). -/
def reachesAtomics (ea : Word) : Bool := isLocal ea && decide (localKind ea ≤ 2)

/-- One atomic read and write of n bytes (R193): `new` gives the value to write, or none where nothing is written; the old
value goes on. An error leaves the memory as it is (R197). -/
def atomicAt {α : Type} (ea : Word) (n : Nat) (new : Nat → Option Nat) (k : Nat → M α) : M α := do
  requireAligned ea n
  if isLocal ea && !reachesAtomics ea then trapM causeAddress ea
  else do
    let a ← resolveM ea n ea
    match a with
    | .loc o off => do
      localLatency o
      let s ← getS
      match localRead s o off n with
      | none => trapM causeMemory ea
      | some l => do
        match new (ofBytes l) with
        | some v => modS fun s => localWrite s o off (toBytes n v)
        | none => pure ()
        k (ofBytes l)
    | .glob va =>
      withLine va true fun e pa => do
        let l ← cohReadM e pa n ea
        modS fun s => predictAtomic s (quadKey s.cur.core) pa e.t
        match new (ofBytes l) with
        | some v => cohWriteM e pa (toBytes n v)
        | none => pure ()
        k (ofBytes l)
    | .bad => trapM causeAddress ea
where
  requireAligned (ea : Word) (n : Nat) : M Unit := if ea.toNat % n = 0 then pure () else trapM causeAlignment ea

/-- AMO (R193). -/
def execAmo (d a b : Reg) (z : BitVec 2) (op : BitVec 4) (s : State) : Host.Outcome State Fault Refusal :=
  run4 (withPorts [a, b] [] [d] [] do
    let ea ← readG a
    let y ← readG b
    let n := atomicBytes z
    atomicAt ea n (fun old => some (amoOp op.toNat n old (y.toNat % 2 ^ (8 * n)))) fun old =>
      writeG d (atomicResult (op = 6 || op = 7) n old)) s

/-- AMOCAS (R193): the expected value is the old d; a port named as d pops it after a and b, and pushes the old value. -/
def execAmocas (d a b : Reg) (z : BitVec 2) (s : State) : Host.Outcome State Fault Refusal :=
  run4 (withPorts [a, b, d] [] [d] [] do
    let ea ← readG a
    let y ← readG b
    let x ← readG d
    let n := atomicBytes z
    atomicAt ea n (fun old => if old = x.toNat % 2 ^ (8 * n) then some (y.toNat % 2 ^ (8 * n)) else none) fun old =>
      writeG d (atomicResult false n old)) s

/-- AMOF (R194). -/
def execAmof (d a b : Reg) (op : BitVec 4) (s : State) : Host.Outcome State Fault Refusal :=
  run4 (withPorts [a, b] [] [d] [] do
    let ea ← readG a
    let y ← readG b
    atomicAt ea 4 (fun old => some (amoFloat op.toNat old (y.toNat % 2 ^ 32))) fun old =>
      writeG d (atomicResult true 4 old)) s

/-- A RED of the executing thread that its gateway or home has accepted takes its place in the order of arrival (R181, R195). -/
def postRed (s : State) (r : PendingRed) : State :=
  { modThread s s.cur fun x => { x with reds := x.reds ++ [{ r with func := x.func, reached := s.gateSeq }] } with gateSeq := s.gateSeq + 1 }

/-- RED (R195): a global one is accepted and performed later; its own stores to the line come first (R185). A local one is
performed at the object; an error there discards it. -/
def execRed (a b : Reg) (z : BitVec 2) (op : BitVec 4) (s : State) : Host.Outcome State Fault Refusal :=
  run4 (withPorts [a, b] [] [] [] do
    let ea ← readG a
    let y ← readG b
    let n := atomicBytes z
    atomicAt.requireAligned ea n
    if isLocal ea && !reachesAtomics ea then trapM causeAddress ea
    else do
      let t ← resolveM ea n ea
      match t with
      | .loc o off => do
        let s ← getS
        match localRead s o off n with
        | none => pure ()
        | some l => modS fun s => localWrite s o off (toBytes n (amoOp op.toNat n (ofBytes l) (y.toNat % 2 ^ (8 * n))))
      | .glob va =>
        withXlates [va] true true fun es => do
          let e := es.headD {}
          modS fun s => predictAtomic (performStores s s.cur (storeTouches (tlbPa e va))) (quadKey s.cur.core) (tlbPa e va) e.t
          modS fun s => postRed s { pa := tlbPa e va, size := n, op := op.toNat, operand := y.toNat % 2 ^ (8 * n), va := va, global := e.g
                                    moving := e.t }
      | .bad => trapM causeAddress ea) s

/-! ### GET and PUT (R199) -/

/-- The checks of GET and PUT, local operand first (R199). DESIGN CHOICE: where both are misaligned, TRAPVAL names the local one (log
entry 40). -/
def checkLines (l g : Word) (n : Nat) : M Unit :=
  if l.toNat % 64 ≠ 0 then trapM causeAlignment l
  else if g.toNat % 64 ≠ 0 then trapM causeAlignment g
  else if !reachesAtomics l then trapM causeAddress l
  else do
    let _ ← resolveM l (64 * n) l
    if isGlobal g then pure () else trapM causeAddress g

/-- One line of a GET. -/
def getLine (l g : Word) : M Unit := do
  let b ← resolveM g 64 g
  match b with
  | .glob va =>
    withLine va false fun e pa => do
      let bytes ← cohReadM e pa 64 g
      storePiece l bytes 0 l
  | _ => trapM causeAddress g

/-- One line of a PUT. -/
def putLine (l g : Word) : M Unit :=
  loadPiece l 64 l fun bytes => do
    let b ← resolveM g 64 g
    match b with
    | .glob va => withLine va true fun e pa => cohWriteM e pa bytes
    | _ => trapM causeAddress g

/-- The lines of a GET or PUT from MPROG on. -/
def moveLines (l g : Word) (n : Nat) (one : Word → Word → M Unit) : M Unit := do
  checkLines l g n
  let p ← progress
  restartable (((List.range n).filter fun j => decide (p ≤ j)).map fun j =>
    (j, one (l + BitVec.ofNat 64 (64 * j)) (g + BitVec.ofNat 64 (64 * j))))

/-- GET (R199). -/
def execGet (a b : Reg) (n : BitVec 4) (s : State) : Host.Outcome State Fault Refusal :=
  run4 (withPorts [a, b] [] [] [] do
    let l ← readG a
    let g ← readG b
    moveLines l g (n.toNat + 1) getLine) s

/-- PUT (R199). -/
def execPut (a b : Reg) (n : BitVec 4) (s : State) : Host.Outcome State Fault Refusal :=
  run4 (withPorts [a, b] [] [] [] do
    let g ← readG a
    let l ← readG b
    moveLines l g (n.toNat + 1) putLine) s

/-! ### PREF (R200) -/

/-- PREF (R200): the write hint clears the line's predictor count, if a cached translation names the line. -/
def execPref (a : Reg) (h : BitVec 4) (s : State) : Host.Outcome State Fault Refusal :=
  run4 (withPorts [a] [] [] [] do
    let x ← readG a
    let t ← self
    let s ← getS
    if h = 1 && isGlobal x then
      match (cacheLookup s s.cur.core t.func x.toNat false false (!modeSys t)).2 with
      | some e =>
        modS fun s => modQuad s (quadKey s.cur.core) fun q =>
          { q with predictor := q.predictor.map fun p => if p.line = tlbPa e x.toNat / 64 then { p with count := 0 } else p }
      | none => pure ()
    else pure ()) s

/-! ### WAITA (R201, R202) -/

/-- The entry of a waiter, named by its function, its address and its value: joined, taken, or none when the slice has no free one
(R202). -/
def takeMonitor (s : State) (p va pa : Nat) (v : Word) (t : ThreadRef) : Option State :=
  let k := homeKey s p pa
  let l := (getSlice s k).monitors
  let func := (getThread s t).func
  let named (m : Monitor) : Bool := m.func == func && m.va == va && m.pa == pa && m.value == v
  if l.any named then
    some (modSlice s k fun sl => { sl with monitors := l.map fun m => if named m then { m with waiters := m.waiters ++ [t] } else m })
  else if l.length < 128 then
    some (modSlice s k fun sl => { sl with monitors := l ++ [{ func := func, va := va, pa := pa, value := v, waiters := [t] }] })
  else none

/-- The state in which a WAITA blocks: its line's own stores performed, its read made, its entry taken. -/
def blockOnMonitor (e : TlbEntry) (va pa : Nat) (v : Word) (s : State) : State :=
  let s := performLine s s.cur pa
  let s := (cohRead s (whoThread s s.cur) pa 8 e.t).1
  (takeMonitor s (getThread s s.cur).part va pa v s.cur).getD s

/-- WAITA before it has blocked. -/
def waitaStart (d : Reg) (x y : Word) (t : BitVec 4) : M Unit :=
  if x.toNat % 8 ≠ 0 then trapM causeAlignment x
  else if !isGlobal x then trapM causeAddress x
  else
    withLine x.toNat false fun e pa => do
      let l ← cohReadM e pa 8 x
      if wordOf l ≠ y then writeG d 0
      else do
        let s ← getS
        match takeMonitor s (getThread s s.cur).part x.toNat pa y s.cur with
        | none => writeG d 2
        | some _ =>
          waitKeepM (.monitor pa y (if t = 0 then none else some (s.cycle + 2 ^ (t.toNat + 5)))) (blockOnMonitor e x.toNat pa y)

/-- WAITA (R201): a woken one returns its status. -/
def execWaita (d a b : Reg) (t : BitVec 4) (s : State) : Host.Outcome State Fault Refusal :=
  run4 (withPorts [a, b] [] [d] [] do
    let x ← readG a
    let y ← readG b
    let me ← self
    match me.wait with
    | .woken st => writeG d (BitVec.ofNat 64 st)
    | _ => waitaStart d x y t) s

/-! ### FENCE (R190) -/

/-- Does a copy command come from the thread? -/
def copyFrom (t : ThreadRef) (c : CopyCmd) : Bool := c.core == t.core && c.slot == t.slot

/-- Is a command of the thread held in its quad's combining node, in no queue yet (R176)? -/
def heldCopies (s : State) (t : ThreadRef) : Bool :=
  let q := getQuad s (quadKey t.core)
  (q.held.any fun h => h.cmds.any (copyFrom t)) || q.entering.any fun e => copyFrom t e.2 || e.2.targets.contains t

/-- Has the thread a copy command that is not complete? An aborted one counts until the service core acts on it (R190). -/
def copiesPending (s : State) (t : ThreadRef) : Bool :=
  heldCopies s t ||
    s.tiles.any fun k => k.2.chans.any fun c =>
      c.2.queue.any (fun x => copyFrom t x || x.targets.contains t) ||
        c.2.active.any (fun x => copyFrom t x || x.targets.contains t) || c.2.abortedBy.contains t

/-- Has the thread a matrix command in its pair's stream? -/
def matrixPending (s : State) (t : ThreadRef) : Bool :=
  (getPair s (pairKey t.core)).stream.any fun c => c.core == t.core && c.slot == t.slot

/-- Has the thread a sum-product command on its way or in the queue? -/
def spPending (s : State) (t : ThreadRef) : Bool :=
  let q := getQuad s (quadKey t.core)
  (q.queue ++ q.path).any fun c => c.core == t.core && c.slot == t.slot

/-- Does the FENCE still wait for engine commands of the thread: for their acceptance at scopes 0 and 1, for their completion
at the others? -/
def fenceWaits (s : State) (t : ThreadRef) (scope : Nat) : Bool :=
  if scope ≤ 1 then heldCopies s t || (getQuad s (quadKey t.core)).path.any fun c => c.core == t.core && c.slot == t.slot
  else copiesPending s t || matrixPending s t || spPending s t

/-- Does the scope of a FENCE or a publication end at the thread's die (R190)? DESIGN CHOICE: region scope does for a thread that stands
in no region, a service core's, which has nothing beyond its die to order (log entry 40). -/
def withinDie (s : State) (t : ThreadRef) (scope : Nat) : Bool :=
  scope == 2 || scope == 4 ||
    (scope == 3 && match threadRegion s t with
      | some r => (regionCores r).all fun k => dieOf k == dieOf t.core
      | none => true)

/-- The earlier writes of a thread at a scope: at its die's slices, or performed at their homes, and at package scope accepted by the
tier controllers (R190, R191). -/
def publish (s : State) (t : ThreadRef) (scope : Nat) : State :=
  if withinDie s t scope then reachAll s t
  else if 6 ≤ scope then serveWrites (performAll s t) fun _ => true
  else performAll s t

/-- FENCE (R190): every earlier write is at its die's slices or at its home, as the scope asks; then the engines. -/
def execFence (sc : BitVec 4) (s : State) : Host.Outcome State Fault Refusal :=
  run4 (do
    if sc = 7 then requireSys (.fence sc) else pure ()
    modS fun s => publish s s.cur sc.toNat
    let s ← getS
    if fenceWaits s s.cur sc.toNat then waitKeepM .condition fun s => publish s s.cur sc.toNat
    else pure ()) s

end Sys2Proof.Machine
end

