-- ==== Sys2Proof/Machine/Clocks.lean ====
section
/-! DEFINITION. The clocks: which reference cycles are enabled for a quad, a core and a matrix array, and in which of them a core
fetches (R335, R340, R341). -/
namespace Sys2Proof.Machine

/-- Is a quad at operating point n enabled in a reference cycle (R335)? -/
def oppEnabled (n c : Nat) : Bool := decide (c * (n + 9) % 16 < n + 9)

/-- The enabled cycles below a cycle at operating point n: the first is cycle 0. -/
def enabledBelow (n : Nat) : Nat → Nat
  | 0 => 0
  | c + 1 => c * (n + 9) / 16 + 1

/-- The enabled cycles of a quad between the period's start and the current cycle: j of R340. Periods begin at multiples of
10,500 cycles (R339), and operating points change there only (R337). -/
def enabledSince (s : State) (opp : Nat) : Nat := enabledBelow opp s.cycle - enabledBelow opp (s.cycle / 10500 * 10500)

/-- The gate of R340 and R341. -/
def gateOpen (j rate : Nat) : Bool := decide (j * rate % 16 < rate)

/-- Is a quad's clock enabled in the current cycle? -/
def quadRuns (s : State) (q : Nat) : Bool := oppEnabled (getQuad s q).opp s.cycle

/-- Does a core leave out this cycle (R341)? -/
def coreSkips (s : State) (core : Nat) : Bool :=
  let c := getCore s core
  c.skip && !gateOpen (enabledSince s (coreOpp s core)) c.skipRate

/-- Does a core advance in the current cycle (R335, R341)? -/
def coreAdvances (s : State) (core : Nat) : Bool := oppEnabled (coreOpp s core) s.cycle && !coreSkips s core

/-- May a core issue new instructions in the current cycle (R340)? -/
def fetchEnabled (s : State) (core : Nat) : Bool :=
  let d := (getCore s core).fetchDuty
  decide (d = 16) || gateOpen (enabledSince s (coreOpp s core)) d

/-- The enabled cycles of the quads count on (R335). -/
def countTicks (s : State) : State :=
  { s with quads := s.quads.map fun q => (q.1, if oppEnabled q.2.opp s.cycle then { q.2 with ticks := q.2.ticks + 1 } else q.2) }

end Sys2Proof.Machine
end

