-- ==== Sys2Proof/Machine/Vector.lean ====
section
/-! DEFINITION. The vector unit: VARITH, the VFMA group, VCMP, the VPERM group, KMASK and SFP (R107 to R126). -/
namespace Sys2Proof.Machine

/-! ### Lanes under a mask -/

/-- Results of the lanes that the mask enables, the old lanes elsewhere, and the events of the enabled lanes (R51, R109). -/
def mapLanes (w n mask old : Nat) (f : Nat → Nat × FpFlags) : Nat × FpFlags :=
  let r := (List.range n).map fun i => if mask.testBit i then f i else (lane w old i, noFlags)
  (packLanes w (r.map (·.1)), flagsAll (r.map (·.2)))

/-- What an arithmetic form does with one lane: on integers of w bits and on floats. -/
structure LaneOp where
  onInt : Nat → Bool → Int → Int → Int := fun _ _ x _ => x
  onFlt : RMode → FVal → FVal → FRes := fun _ x _ => (x, noFlags)

/-- One lane of an arithmetic form: integers wrap to the lane, floats are rounded once (R112). -/
def laneBin (t : Tag) (rm : RMode) (op : LaneOp) (x y : Nat) : Nat × FpFlags :=
  match tagClass t with
  | .int w s => (ofInt w (op.onInt w s (laneInt w s x) (laneInt w s y)), noFlags)
  | .flt f => deliver f rm (op.onFlt rm (fdecode f x) (fdecode f y))
  | _ => (0, noFlags)

/-- Every lane of an arithmetic form. -/
def vecArith (t : Tag) (rm : RMode) (mask old : Nat) (op : LaneOp) (a b : Nat) : Nat × FpFlags :=
  mapLanes (tagLane t) (tagLanes t) mask old fun i => laneBin t rm op (lane (tagLane t) a i) (lane (tagLane t) b i)

/-- Writes a vector result with its tag and ORs its events into FPCTL (R51, R109). -/
def putVec (d : Reg) (t : Tag) (r : Nat × FpFlags) : M Unit := do
  writeV d { bits := BitVec.ofNat 512 r.1, tag := t }
  orFlags r.2

/-- A unary arithmetic form (R112, R113). -/
def vec1 (d a : Reg) (k : MReg) (ok : TagClass → Bool) (op : LaneOp) : M Unit :=
  withPorts [] [a] [] [d] do
    let va ← readV a
    requireClass a va ok
    let mask ← readK k
    let old ← oldBits d
    let x ← self
    putVec d va.tag (vecArith va.tag (rmodeDyn (fpctlRm x) 7) mask old op va.bits.toNat 0)

/-- A binary arithmetic form on equal tags (R112, R113). -/
def vec2 (d a b : Reg) (k : MReg) (ok : TagClass → Bool) (op : LaneOp) : M Unit :=
  withPorts [] [a, b] [] [d] do
    let va ← readV a
    requireClass a va ok
    let vb ← readV b
    requireClass b vb ok
    requireTag b vb va.tag
    let mask ← readK k
    let old ← oldBits d
    let x ← self
    putVec d va.tag (vecArith va.tag (rmodeDyn (fpctlRm x) 7) mask old op va.bits.toNat vb.bits.toNat)

/-- A form that moves bits under the tag of its first source without any check (R113, R118): `f` gives lane i. -/
def vecMove (d : Reg) (k : MReg) (va : VReg) (f : Nat → Nat) : M Unit := do
  let mask ← readK k
  let old ← oldBits d
  putVec d va.tag (mapLanes (tagLane va.tag) (tagLanes va.tag) mask old fun i => (f i, noFlags))

/-- A logic form (R113). -/
def vecLogic (d a b : Reg) (k : MReg) (f : BitVec 512 → BitVec 512 → BitVec 512) : M Unit :=
  withPorts [] [a, b] [] [d] do
    let va ← readV a
    let vb ← readV b
    vecMove d k va fun i => lane (tagLane va.tag) (f va.bits vb.bits).toNat i

/-! ### VARITH (R113, R114) -/

/-- The float lanes of a form that has no integer lanes. -/
def fltOnly (f : RMode → FVal → FVal → FRes) : LaneOp := { onFlt := f }

/-- The integer lanes of a form that has no float lanes. -/
def intOnly (f : Nat → Bool → Int → Int → Int) : LaneOp := { onInt := f }

/-- Absolute value and negation of a float: a NaN becomes canonical (R114). -/
def fabsVal : FVal → FRes
  | .nan s => (.nan false, { nv := s })
  | .inf _ => (.inf false, noFlags)
  | .fin _ m e => (.fin false m e, noFlags)
def fnegVal : FVal → FRes
  | .nan s => (.nan false, { nv := s })
  | v => (fneg v, noFlags)

/-- A sum clamped to the lane's range. -/
def clampLane (w : Nat) (s : Bool) (z : Int) : Int := clampInt (intLo w s) (intHi w s) z

/-- Lane shifts: the amount is y mod W (R113). -/
def laneSll (w : Nat) (_ : Bool) (x y : Int) : Int := x * ((2 ^ (y % (w : Int)).toNat : Nat) : Int)
def laneSrl (w : Nat) (_ : Bool) (x y : Int) : Int := ((ofInt w x >>> (y % (w : Int)).toNat : Nat) : Int)
def laneSra (w : Nat) (_ : Bool) (x y : Int) : Int := toSigned w (ofInt w x) / ((2 ^ (y % (w : Int)).toNat : Nat) : Int)

def opAdd : LaneOp := { onInt := fun _ _ x y => x + y, onFlt := fadd }
def opSub : LaneOp := { onInt := fun _ _ x y => x - y, onFlt := fsub }
def opMul : LaneOp := { onInt := fun _ _ x y => x * y, onFlt := fun _ x y => fmul x y }
def opMin : LaneOp := { onInt := fun _ _ x y => if x ≤ y then x else y, onFlt := fun _ x y => fminmax false x y }
def opMax : LaneOp := { onInt := fun _ _ x y => if x ≤ y then y else x, onFlt := fun _ x y => fminmax true x y }
def opAbs : LaneOp := { onInt := fun _ _ x _ => (x.natAbs : Int), onFlt := fun _ x _ => fabsVal x }
def opNeg : LaneOp := { onInt := fun _ _ x _ => -x, onFlt := fun _ x _ => fnegVal x }

/-- VADD (R113). -/
def execVadd (d a b : Reg) (k : MReg) (s : State) : Host.Outcome State Fault Refusal := run4 (vec2 d a b k isIntOrFloat opAdd) s

/-- VSUB (R113). -/
def execVsub (d a b : Reg) (k : MReg) (s : State) : Host.Outcome State Fault Refusal := run4 (vec2 d a b k isIntOrFloat opSub) s

/-- VMUL (R113). -/
def execVmul (d a b : Reg) (k : MReg) (s : State) : Host.Outcome State Fault Refusal := run4 (vec2 d a b k isIntOrFloat opMul) s

/-- VDIV (R113). -/
def execVdiv (d a b : Reg) (k : MReg) (s : State) : Host.Outcome State Fault Refusal :=
  run4 (vec2 d a b k isFloatClass (fltOnly fun _ x y => fdiv x y)) s

/-- VMIN (R113, R114). -/
def execVmin (d a b : Reg) (k : MReg) (s : State) : Host.Outcome State Fault Refusal := run4 (vec2 d a b k isIntOrFloat opMin) s

/-- VMAX (R113, R114). -/
def execVmax (d a b : Reg) (k : MReg) (s : State) : Host.Outcome State Fault Refusal := run4 (vec2 d a b k isIntOrFloat opMax) s

/-- VABS (R113, R114). -/
def execVabs (d a : Reg) (k : MReg) (s : State) : Host.Outcome State Fault Refusal := run4 (vec1 d a k isIntOrFloat opAbs) s

/-- VNEG (R113, R114). -/
def execVneg (d a : Reg) (k : MReg) (s : State) : Host.Outcome State Fault Refusal := run4 (vec1 d a k isIntOrFloat opNeg) s

/-- VSQRT (R113, R114). -/
def execVsqrt (d a : Reg) (k : MReg) (s : State) : Host.Outcome State Fault Refusal :=
  run4 (vec1 d a k isFloatClass (fltOnly fun _ x _ => fsqrt x)) s

/-- VRCP (R113, R114). -/
def execVrcp (d a : Reg) (k : MReg) (s : State) : Host.Outcome State Fault Refusal :=
  run4 (vec1 d a k isFloatClass (fltOnly fun _ x _ => frcp x)) s

/-- VRSQ (R113, R114). -/
def execVrsq (d a : Reg) (k : MReg) (s : State) : Host.Outcome State Fault Refusal :=
  run4 (vec1 d a k isFloatClass (fltOnly fun _ x _ => frsq x)) s

/-- VEXP2 (R113, R114). -/
def execVexp2 (d a : Reg) (k : MReg) (s : State) : Host.Outcome State Fault Refusal :=
  run4 (vec1 d a k isFloatClass (fltOnly fun _ x _ => fexp2 x)) s

/-- VLOG2 (R113, R114). -/
def execVlog2 (d a : Reg) (k : MReg) (s : State) : Host.Outcome State Fault Refusal :=
  run4 (vec1 d a k isFloatClass (fltOnly fun _ x _ => flog2 x)) s

/-- VADDS (R113). -/
def execVadds (d a b : Reg) (k : MReg) (s : State) : Host.Outcome State Fault Refusal :=
  run4 (vec2 d a b k isIntClass (intOnly fun w sg x y => clampLane w sg (x + y))) s

/-- VSUBS (R113). -/
def execVsubs (d a b : Reg) (k : MReg) (s : State) : Host.Outcome State Fault Refusal :=
  run4 (vec2 d a b k isIntClass (intOnly fun w sg x y => clampLane w sg (x - y))) s

/-- VMULH (R113). -/
def execVmulh (d a b : Reg) (k : MReg) (s : State) : Host.Outcome State Fault Refusal :=
  run4 (vec2 d a b k isIntClass (intOnly fun w _ x y => x * y / ((2 ^ w : Nat) : Int))) s

/-- VAND (R113). -/
def execVand (d a b : Reg) (k : MReg) (s : State) : Host.Outcome State Fault Refusal := run4 (vecLogic d a b k fun x y => x &&& y) s

/-- VOR (R113). -/
def execVor (d a b : Reg) (k : MReg) (s : State) : Host.Outcome State Fault Refusal := run4 (vecLogic d a b k fun x y => x ||| y) s

/-- VXOR (R113). -/
def execVxor (d a b : Reg) (k : MReg) (s : State) : Host.Outcome State Fault Refusal := run4 (vecLogic d a b k fun x y => x ^^^ y) s

/-- VSLL (R113). -/
def execVsll (d a b : Reg) (k : MReg) (s : State) : Host.Outcome State Fault Refusal := run4 (vec2 d a b k isIntClass (intOnly laneSll)) s

/-- VSRL (R113). -/
def execVsrl (d a b : Reg) (k : MReg) (s : State) : Host.Outcome State Fault Refusal := run4 (vec2 d a b k isIntClass (intOnly laneSrl)) s

/-- VSRA (R113). -/
def execVsra (d a b : Reg) (k : MReg) (s : State) : Host.Outcome State Fault Refusal := run4 (vec2 d a b k isIntClass (intOnly laneSra)) s

/-- VMOV (R113). -/
def execVmov (d a : Reg) (k : MReg) (s : State) : Host.Outcome State Fault Refusal :=
  run4 (withPorts [] [a] [] [d] do
    let va ← readV a
    vecMove d k va fun i => lane (tagLane va.tag) va.bits.toNat i) s

/-! ### VFMA group (R115, R116) -/

/-- The signs of the product and of the addend in a fused form. -/
structure FmaSigns where
  negProduct : Bool
  negAddend : Bool

/-- One lane of a fused multiply-add (R115). -/
def laneFma (t : Tag) (rm : RMode) (sg : FmaSigns) (x y z : Nat) : Nat × FpFlags :=
  match tagClass t with
  | .int w s =>
    let p := laneInt w s x * laneInt w s y
    let c := laneInt w s z
    (ofInt w ((if sg.negProduct then -p else p) + (if sg.negAddend then -c else c)), noFlags)
  | .flt f =>
    let a := fdecode f x
    let c := fdecode f z
    deliver f rm (ffma rm (if sg.negProduct then fneg a else a) (fdecode f y) (if sg.negAddend then fneg c else c))
  | _ => (0, noFlags)

/-- A fused multiply-add on equal tags, checked in the order a, b, c (R115). -/
def vecFma (d a b : Reg) (k : MReg) (c : Reg) (sg : FmaSigns) : M Unit :=
  withPorts [] [a, b, c] [] [d] do
    let va ← readV a
    requireClass a va isIntOrFloat
    let vb ← readV b
    requireClass b vb isIntOrFloat
    requireTag b vb va.tag
    let vc ← readV c
    requireClass c vc isIntOrFloat
    requireTag c vc va.tag
    let mask ← readK k
    let old ← oldBits d
    let x ← self
    let w := tagLane va.tag
    putVec d va.tag (mapLanes w (tagLanes va.tag) mask old fun i =>
      laneFma va.tag (rmodeDyn (fpctlRm x) 7) sg (lane w va.bits.toNat i) (lane w vb.bits.toNat i) (lane w vc.bits.toNat i))

/-- VFMA (R115). -/
def execVfma (d a b : Reg) (k : MReg) (c : Reg) (s : State) : Host.Outcome State Fault Refusal := run4 (vecFma d a b k c ⟨false, false⟩) s

/-- VFMS (R115). -/
def execVfms (d a b : Reg) (k : MReg) (c : Reg) (s : State) : Host.Outcome State Fault Refusal := run4 (vecFma d a b k c ⟨false, true⟩) s

/-- VFNMA (R115). -/
def execVfnma (d a b : Reg) (k : MReg) (c : Reg) (s : State) : Host.Outcome State Fault Refusal := run4 (vecFma d a b k c ⟨true, false⟩) s

/-- VFNMS (R115). -/
def execVfnms (d a b : Reg) (k : MReg) (c : Reg) (s : State) : Host.Outcome State Fault Refusal := run4 (vecFma d a b k c ⟨true, true⟩) s

/-- The result tag of a dot for its source tag, or none where the dot does not accept the tag (R116). -/
def dot4Tag (t : Tag) : Option Tag :=
  match t.toNat with
  | 0x06 => some 0x02
  | 0x07 => some 0x03
  | 0x0D => some 0x0A
  | 0x0E => some 0x0A
  | _ => none
def dot2Tag (t : Tag) : Option Tag :=
  match t.toNat with
  | 0x04 => some 0x02
  | 0x05 => some 0x03
  | 0x0B => some 0x0A
  | 0x0C => some 0x0A
  | _ => none

/-- The value of a float or narrow-float lane. -/
def laneFloat (t : Tag) (x : Nat) : FVal :=
  match tagClass t with
  | .flt f => fdecode f x
  | .narrow f => fdecode f (x % 2 ^ ffWidth f)
  | _ => .nan false

/-- One destination lane of a dot: the exact sum of the addend and g products, rounded or wrapped once (R116). -/
def laneDot (t : Tag) (rm : RMode) (g a b z i : Nat) : Nat × FpFlags :=
  let w := tagLane t
  let x j := lane w a (g * i + j)
  let y j := lane w b (g * i + j)
  match tagClass t with
  | .int w s =>
    (ofInt 32 ((List.range g).foldl (fun acc j => acc + laneInt w s (x j) * laneInt w s (y j)) (laneInt 32 s z)), noFlags)
  | _ =>
    let s0 := sumTerm {} (fdecode .fp32 z, nvIfSNaN [fdecode .fp32 z])
    deliver .fp32 rm (sumValue rm ((List.range g).foldl (fun acc j => sumTerm acc (fmul (laneFloat t (x j)) (laneFloat t (y j)))) s0))

/-- A widening dot (R116). -/
def vecDot (d a b : Reg) (k : MReg) (c : Reg) (g : Nat) (rtag : Tag → Option Tag) : M Unit :=
  withPorts [] [a, b, c] [] [d] do
    let va ← readV a
    match rtag va.tag with
    | none => tagTrap a 0 va.tag
    | some rt => do
      let vb ← readV b
      requireClass b vb fun _ => (rtag vb.tag).isSome
      requireTag b vb va.tag
      let vc ← readV c
      requireTag c vc rt
      let mask ← readK k
      let old ← oldBits d
      let x ← self
      putVec d rt (mapLanes 32 16 mask old fun i =>
        laneDot va.tag (rmodeDyn (fpctlRm x) 7) g va.bits.toNat vb.bits.toNat (lane 32 vc.bits.toNat i) i)

/-- VDOT4 (R116). -/
def execVdot4 (d a b : Reg) (k : MReg) (c : Reg) (s : State) : Host.Outcome State Fault Refusal := run4 (vecDot d a b k c 4 dot4Tag) s

/-- VDOT2 (R116). -/
def execVdot2 (d a b : Reg) (k : MReg) (c : Reg) (s : State) : Host.Outcome State Fault Refusal := run4 (vecDot d a b k c 2 dot2Tag) s

/-! ### VCMP (R117) -/

/-- One lane of a comparison. -/
def laneCmp (t : Tag) (c x y : Nat) : Bool × FpFlags :=
  match tagClass t with
  | .int w s => (icond c (laneInt w s x) (laneInt w s y), noFlags)
  | .flt f => fcond c (fdecode f x) (fdecode f y)
  | _ => (false, noFlags)

/-- The mask of a comparison and the events of its enabled lanes: every bit that is not enabled is zero (R117). -/
def cmpMask (t : Tag) (c mask a b : Nat) : Nat × FpFlags :=
  let w := tagLane t
  let r := (List.range (tagLanes t)).map fun i => if mask.testBit i then laneCmp t c (lane w a i) (lane w b i) else (false, noFlags)
  (packLanes 1 (r.map fun p => bit p.1), flagsAll (r.map (·.2)))

/-- VCMP (R117). -/
def execVcmp (d : MReg) (a b : Reg) (k : MReg) (c : BitVec 3) (s : State) : Host.Outcome State Fault Refusal :=
  run4 (withPorts [] [a, b] [] [] do
    let va ← readV a
    requireClass a va isIntOrFloat
    let vb ← readV b
    requireClass b vb isIntOrFloat
    requireTag b vb va.tag
    let mask ← readK k
    let r := cmpMask va.tag c.toNat mask va.bits.toNat vb.bits.toNat
    writeK d r.1
    orFlags r.2) s

/-! ### VPERM group (R118 to R123) -/

/-- The source element of VPERM for element i: byte pairs move together when elements have 4 bits (R119). -/
def permIndex (t : Tag) (b i : Nat) : Nat :=
  if tagLanes t = 128 then 2 * (lane 8 b (i / 2) % 64) + i % 2
  else lane (tagLane t) b i % tagLanes t

/-- VPERM (R119). -/
def execVperm (d a b : Reg) (k : MReg) (s : State) : Host.Outcome State Fault Refusal :=
  run4 (withPorts [] [a, b] [] [d] do
    let va ← readV a
    let vb ← readV b
    vecMove d k va fun i => lane (tagLane va.tag) va.bits.toNat (permIndex va.tag vb.bits.toNat i)) s

/-- VSLUP (R119). -/
def execVslup (d a b : Reg) (k : MReg) (s : State) : Host.Outcome State Fault Refusal :=
  run4 (withPorts [b] [a] [] [d] do
    let va ← readV a
    let n ← readG b
    vecMove d k va fun i => if n.toNat ≤ i then lane (tagLane va.tag) va.bits.toNat (i - n.toNat) else 0) s

/-- VSLDN (R119). -/
def execVsldn (d a b : Reg) (k : MReg) (s : State) : Host.Outcome State Fault Refusal :=
  run4 (withPorts [b] [a] [] [d] do
    let va ← readV a
    let n ← readG b
    vecMove d k va fun i =>
      if i + n.toNat < tagLanes va.tag then lane (tagLane va.tag) va.bits.toNat (i + n.toNat) else 0) s

/-- VBCAST (R119). -/
def execVbcast (d a b : Reg) (k : MReg) (s : State) : Host.Outcome State Fault Refusal :=
  run4 (withPorts [b] [a] [] [d] do
    let va ← readV a
    let n ← readG b
    vecMove d k va fun _ => lane (tagLane va.tag) va.bits.toNat (n.toNat % tagLanes va.tag)) s

/-- An element as VEXT delivers it (R120). -/
def extractElem (t : Tag) (x : Nat) : Word :=
  match tagClass t with
  | .int w true => BitVec.ofInt 64 (toSigned w x)
  | _ => BitVec.ofNat 64 (x % 2 ^ tagElemBits t)

/-- VEXT (R120). -/
def execVext (d a b : Reg) (s : State) : Host.Outcome State Fault Refusal :=
  run4 (withPorts [b] [a] [d] [] do
    let va ← readV a
    let n ← readG b
    writeG d (extractElem va.tag (lane (tagLane va.tag) va.bits.toNat (n.toNat % tagLanes va.tag)))) s

/-- The register with one element written from a g value (R120). -/
def insertElem (v : VReg) (e : Nat) (x : Word) : VReg :=
  let w := tagLane v.tag
  { v with bits := BitVec.ofNat 512 (packLanes w ((List.range (tagLanes v.tag)).map fun i =>
      if i = e then x.toNat % 2 ^ tagElemBits v.tag else lane w v.bits.toNat i)) }

/-- VINS (R120). -/
def execVins (d a b : Reg) (s : State) : Host.Outcome State Fault Refusal :=
  run4 (withPorts [a, b] [] [] [] do
    let x ← readG a
    let n ← readG b
    let t ← self
    let v := vValue t d
    writeV d (insertElem v (n.toNat % tagLanes v.tag) x)) s

/-- VSEL (R121). -/
def execVsel (d a b : Reg) (k : MReg) (s : State) : Host.Outcome State Fault Refusal :=
  run4 (withPorts [] [a, b] [] [d] do
    let va ← readV a
    let vb ← readV b
    let mask ← readK k
    putVec d va.tag (mergeLanes (tagLane va.tag) (tagLanes va.tag) mask vb.bits.toNat
      (lanes (tagLane va.tag) (tagLanes va.tag) va.bits.toNat), noFlags)) s

/-- A pairwise tree over adjacent lanes, with `lev` levels to go (R64): the results and the events of every step. -/
def reduceTree (op : Nat → Nat → Nat × FpFlags) : Nat → List Nat → FpFlags → Nat × FpFlags
  | 0, l, fl => (l.headD 0, fl)
  | lev + 1, l, fl =>
    let r := (List.range (l.length / 2)).map fun i => op (l.getD (2 * i) 0) (l.getD (2 * i + 1) 0)
    reduceTree op lev (r.map (·.1)) (flagsOr fl (flagsAll (r.map (·.2))))

/-- The identity of a reduction for a tag (R64, R123): 0 sum, 1 maximum, 2 minimum. -/
def reduceIdentity (t : Tag) (kind : Nat) : Nat :=
  match tagClass t with
  | .int w s =>
    match kind with
    | 0 => 0
    | 1 => ofInt w (intLo w s)
    | _ => ofInt w (intHi w s)
  | .flt f =>
    match kind with
    | 0 => withSign f true 0
    | 1 => withSign f true (ffInf f)
    | _ => withSign f false (ffInf f)
  | _ => 0

/-- A reduction of the selected elements into element 0 (R123). -/
def vecReduce (d a : Reg) (k : MReg) (kind : Nat) (op : LaneOp) : M Unit :=
  withPorts [] [a] [] [d] do
    let va ← readV a
    requireClass a va isIntOrFloat
    let mask ← readK k
    let x ← self
    let w := tagLane va.tag
    let n := tagLanes va.tag
    let l := (List.range n).map fun i => if mask.testBit i then lane w va.bits.toNat i else reduceIdentity va.tag kind
    putVec d va.tag (reduceTree (laneBin va.tag (rmodeDyn (fpctlRm x) 7) op) n.log2 l noFlags)

/-- VREDSUM (R123). -/
def execVredsum (d a : Reg) (k : MReg) (s : State) : Host.Outcome State Fault Refusal := run4 (vecReduce d a k 0 opAdd) s

/-- VREDMAX (R123). -/
def execVredmax (d a : Reg) (k : MReg) (s : State) : Host.Outcome State Fault Refusal := run4 (vecReduce d a k 1 opMax) s

/-- VREDMIN (R123). -/
def execVredmin (d a : Reg) (k : MReg) (s : State) : Host.Outcome State Fault Refusal := run4 (vecReduce d a k 2 opMin) s

/-- VZIP (R122). -/
def execVzip (d a b : Reg) (k : MReg) (s : State) : Host.Outcome State Fault Refusal :=
  run4 (withPorts [] [a, b] [] [d] do
    let va ← readV a
    let vb ← readV b
    vecMove d k va fun i => lane (tagLane va.tag) (if i % 2 = 0 then va.bits.toNat else vb.bits.toNat) (i / 2)) s

/-- VUNZIP (R122). -/
def execVunzip (d a b : Reg) (k : MReg) (s : State) : Host.Outcome State Fault Refusal :=
  run4 (withPorts [] [a, b] [] [d] do
    let va ← readV a
    let vb ← readV b
    let h := tagLanes va.tag / 2
    vecMove d k va fun i =>
      if i < h then lane (tagLane va.tag) va.bits.toNat (2 * i) else lane (tagLane va.tag) vb.bits.toNat (2 * (i - h))) s

/-- VCMPRS (R121). -/
def execVcmprs (d a : Reg) (k : MReg) (s : State) : Host.Outcome State Fault Refusal :=
  run4 (withPorts [] [a] [] [d] do
    let va ← readV a
    let mask ← readK k
    let w := tagLane va.tag
    putVec d va.tag (packLanes w ((onesBelow (tagLanes va.tag) mask).map (lane w va.bits.toNat)), noFlags)) s

/-! ### KMASK (R124) -/

/-- kd := f(ka, kb). -/
def maskOp (d a b : MReg) (f : BitVec 128 → BitVec 128 → BitVec 128) : M Unit :=
  modSelf fun x => kWrite x d (f (kValue x a) (kValue x b))

/-- KAND (R124). -/
def execKand (d a b : MReg) (s : State) : Host.Outcome State Fault Refusal := run4 (maskOp d a b fun x y => x &&& y) s

/-- KOR (R124). -/
def execKor (d a b : MReg) (s : State) : Host.Outcome State Fault Refusal := run4 (maskOp d a b fun x y => x ||| y) s

/-- KXOR (R124). -/
def execKxor (d a b : MReg) (s : State) : Host.Outcome State Fault Refusal := run4 (maskOp d a b fun x y => x ^^^ y) s

/-- KANDN (R124). -/
def execKandn (d a b : MReg) (s : State) : Host.Outcome State Fault Refusal := run4 (maskOp d a b fun x y => x &&& ~~~y) s

/-- KMOVL to a mask (R124). -/
def execKmovlToMask (d : MReg) (a : Reg) (s : State) : Host.Outcome State Fault Refusal :=
  run4 (withPorts [a] [] [] [] do
    let v ← readG a
    modSelf fun x => kWrite x d ((kValue x d).extractLsb' 64 64 ++ v)) s

/-- KMOVL from a mask (R124). -/
def execKmovlFromMask (d : Reg) (a : MReg) (s : State) : Host.Outcome State Fault Refusal :=
  run4 (withPorts [] [] [d] [] do
    let x ← self
    writeG d ((kValue x a).extractLsb' 0 64)) s

/-- KMOVH to a mask (R124). -/
def execKmovhToMask (d : MReg) (a : Reg) (s : State) : Host.Outcome State Fault Refusal :=
  run4 (withPorts [a] [] [] [] do
    let v ← readG a
    modSelf fun x => kWrite x d (v ++ (kValue x d).extractLsb' 0 64)) s

/-- KMOVH from a mask (R124). -/
def execKmovhFromMask (d : Reg) (a : MReg) (s : State) : Host.Outcome State Fault Refusal :=
  run4 (withPorts [] [] [d] [] do
    let x ← self
    writeG d ((kValue x a).extractLsb' 64 64)) s

/-- KPOPC (R124). -/
def execKpopc (d : Reg) (a : MReg) (s : State) : Host.Outcome State Fault Refusal :=
  run4 (withPorts [] [] [d] [] do
    let x ← self
    writeG d (BitVec.ofNat 64 (popcount 128 (kValue x a).toNat))) s

/-- KFIRST (R124). -/
def execKfirst (d : Reg) (a : MReg) (s : State) : Host.Outcome State Fault Refusal :=
  run4 (withPorts [] [] [d] [] do
    let x ← self
    writeG d (BitVec.ofNat 64 (firstOne 128 (kValue x a).toNat))) s

/-! ### SFP (R125, R126) -/

/-- The FP32 value in the low half of a g register. -/
def lowFloat (x : Word) : FVal := fdecode .fp32 (x.toNat % 2 ^ 32)

/-- Writes an FP32 result, zero-extended, and its events. -/
def putFloat (d : Reg) (rm : RMode) (r : FRes) : M Unit := do
  let p := deliver .fp32 rm r
  writeG d (BitVec.ofNat 64 p.1)
  orFlags p.2

/-- A binary scalar form. -/
def sfp2 (d a b : Reg) (rm : Nat) (f : RMode → FVal → FVal → FRes) : M Unit :=
  withPorts [a, b] [] [d] [] do
    let x ← readG a
    let y ← readG b
    let m ← roundingOf rm
    putFloat d m (f m (lowFloat x) (lowFloat y))

/-- A scalar comparison. -/
def sfpCmp (d a b : Reg) (c : Nat) : M Unit :=
  withPorts [a, b] [] [d] [] do
    let x ← readG a
    let y ← readG b
    let r := fcond c (lowFloat x) (lowFloat y)
    writeG d (boolWord r.1)
    orFlags r.2

/-- FADD (R125). -/
def execFadd (d a b : Reg) (r : BitVec 3) (s : State) : Host.Outcome State Fault Refusal := run4 (sfp2 d a b r.toNat fadd) s

/-- FSUB (R125). -/
def execFsub (d a b : Reg) (r : BitVec 3) (s : State) : Host.Outcome State Fault Refusal := run4 (sfp2 d a b r.toNat fsub) s

/-- FMUL (R125). -/
def execFmul (d a b : Reg) (r : BitVec 3) (s : State) : Host.Outcome State Fault Refusal :=
  run4 (sfp2 d a b r.toNat fun _ x y => fmul x y) s

/-- FDIV (R125). -/
def execFdiv (d a b : Reg) (r : BitVec 3) (s : State) : Host.Outcome State Fault Refusal :=
  run4 (sfp2 d a b r.toNat fun _ x y => fdiv x y) s

/-- FMIN (R125). -/
def execFmin (d a b : Reg) (s : State) : Host.Outcome State Fault Refusal := run4 (sfp2 d a b 0 fun _ x y => fminmax false x y) s

/-- FMAX (R125). -/
def execFmax (d a b : Reg) (s : State) : Host.Outcome State Fault Refusal := run4 (sfp2 d a b 0 fun _ x y => fminmax true x y) s

/-- FSQRT (R125). -/
def execFsqrt (d a : Reg) (r : BitVec 3) (s : State) : Host.Outcome State Fault Refusal :=
  run4 (withPorts [a] [] [d] [] do
    let x ← readG a
    let m ← roundingOf r.toNat
    putFloat d m (fsqrt (lowFloat x))) s

/-- FEQ (R125). -/
def execFeq (d a b : Reg) (s : State) : Host.Outcome State Fault Refusal := run4 (sfpCmp d a b 0) s

/-- FLT (R125). -/
def execFlt (d a b : Reg) (s : State) : Host.Outcome State Fault Refusal := run4 (sfpCmp d a b 2) s

/-- FLE (R125). -/
def execFle (d a b : Reg) (s : State) : Host.Outcome State Fault Refusal := run4 (sfpCmp d a b 3) s

/-- FCVT's result for a conversion code, with its events (R126). -/
def fcvtResult (c : Nat) (rm : RMode) (x : Word) : Word × FpFlags :=
  match c with
  | 0 =>
    let p := encodeInt (intLo 64 true) (intHi 64 true) rm (lowFloat x)
    (BitVec.ofInt 64 p.1, p.2)
  | 1 =>
    let p := encodeInt (intLo 64 false) (intHi 64 false) rm (lowFloat x)
    (BitVec.ofInt 64 p.1, p.2)
  | 2 =>
    let p := encodeF .fp32 rm false (ofIntVal x.toInt)
    (BitVec.ofNat 64 p.1, p.2)
  | _ =>
    let p := encodeF .fp32 rm false (ofIntVal x.toNat)
    (BitVec.ofNat 64 p.1, p.2)

/-- FCVT (R126). -/
def execFcvt (d a : Reg) (c : BitVec 4) (r : BitVec 3) (s : State) : Host.Outcome State Fault Refusal :=
  run4 (withPorts [a] [] [d] [] do
    let x ← readG a
    let m ← roundingOf r.toNat
    let p := fcvtResult c.toNat m x
    writeG d p.1
    orFlags p.2) s

/-- FMA (R125): the addend is the old destination, which is no port. -/
def execFma (d a b : Reg) (r : BitVec 3) (s : State) : Host.Outcome State Fault Refusal :=
  run4 (withPorts [a, b] [] [] [] do
    let x ← readG a
    let y ← readG b
    let t ← self
    let m ← roundingOf r.toNat
    putFloat d m (ffma m (lowFloat x) (lowFloat y) (lowFloat (gValue t d)))) s

end Sys2Proof.Machine
end

