-- ==== Sys2Proof/Machine/Matrix.lean ====
section
/-! DEFINITION. The matrix array: the licence, the command stream, the matrix forms and what each command computes, the
codebook forms, and the twin window (R61 to R64, R69, R248 to R271). -/
namespace Sys2Proof.Machine

/-! ### The licence and the command stream (R249, R250, R253) -/

/-- The side of a core in its pair: 1 lower, 2 upper. -/
def sideOf (core : Nat) : Nat := if dieOf core % 2 = 0 then 1 else 2

/-- The other side. -/
def otherSide (side : Nat) : Nat := 3 - side

/-- The core of a side of a pair. -/
def pairCore (pk side : Nat) : Nat :=
  let stack := pk / 1024
  (2 * stack + (if side = 1 then 0 else 1)) * 1024 + pk % 1024

/-- Is the core in a region with an array (R248)? -/
def hasArray (r : Option Region) : Bool := r.any fun r => r.twin

/-- LICENCE.HOLDER as a core reads it (R94). -/
def holderCode (s : State) (r : Option Region) (core : Nat) : Nat :=
  if !hasArray r then 3
  else
    let h := (getPair s (pairKey core)).holder
    if h = 0 then 0 else if h = sideOf core then 1 else 2

/-- Does the core hold its pair's licence? -/
def holdsLicence (s : State) (r : Option Region) (core : Nat) : Bool := holderCode s r core == 1

/-- The Licence trap with LICENCE.HOLDER (R250). -/
def licenceTrap {α : Type} (code : Nat) : M α := trapM causeLicence (BitVec.ofNat 64 code)

/-- The Licence trap of a core that does not hold the licence (R250). -/
def requireLicence : M Unit := do
  let s ← getS
  let r := threadRegion s s.cur
  if holdsLicence s r s.cur.core then pure () else licenceTrap (holderCode s r s.cur.core)

/-- The Licence trap of a region without an array (R250, R268). -/
def requireArray : M Unit := do
  let s ← getS
  if hasArray (threadRegion s s.cur) then pure () else licenceTrap 3

/-- Is a request of this side pending? -/
def requested (p : Pair) (side : Nat) : Bool := if side = 1 then p.reqLower else p.reqUpper

/-- The pair with a side's request set or withdrawn. -/
def setRequest (p : Pair) (side : Nat) (on : Bool) : Pair := if side = 1 then { p with reqLower := on } else { p with reqUpper := on }

/-- Every thread of a core that waits in MLIC resumes (R249). -/
def wakeLicence (s : State) (core : Nat) : State :=
  (List.range 4).foldl (fun s i =>
    let t : ThreadRef := { core := core, slot := i }
    if (getThread s t).wait = .licence then modThread s t fun x => { x with wait := .licenceGranted } else s) s

/-- Room in the stream of a pair. -/
def streamRoom (s : State) (pk : Nat) : Bool := decide ((getPair s pk).stream.length < 16)

/-- The CPYM follow-ons that wait for room in a pair's stream (R175). -/
def followOnsWaiting (s : State) (pk : Nat) : Nat :=
  (s.tiles.map fun k => (k.2.chans.filter fun c => c.2.followDue && c.2.active.any fun x => pairKey x.core == pk).length).sum

/-- Room for a command that comes after the follow-ons that wait already: they take the first free entries (R175). -/
def issueRoom (s : State) (pk : Nat) : Bool := decide ((getPair s pk).stream.length + followOnsWaiting s pk < 16)

/-- A command enters a pair's stream. -/
def enterStream (s : State) (pk core slot : Nat) (k : MKind) : State :=
  modPair s pk fun p =>
    { p with stream := p.stream ++ [{ num := p.entered, core := core, slot := slot, kind := k }], entered := p.entered + 1 }

/-- A grant takes its effect: no context of the core waits for one any more, and its MLICs resume (R249, R252). -/
def resumeHolder (s : State) (core : Nat) : State :=
  wakeLicence (modCore s core fun c => { c with slots := c.slots.map fun x => (x.1, { x.2 with heldLicence := false }) }) core

/-- The saved array state of a restored core that holds the licence enters the stream ahead of the core's commands, under no thread's slot,
as soon as the stream has room; the threads resume with it (R252, R253). -/
def admitSaved (s : State) (pk : Nat) : State :=
  let p := getPair s pk
  match amFind p.saved p.holder with
  | some k =>
    if issueRoom s pk then
      let core := pairCore pk p.holder
      resumeHolder (enterStream (modPair s pk fun p => { p with saved := amErase p.saved p.holder }) pk core 4 k) core
    else s
  | none => s

/-- The licence is granted to a side (R249, R252). -/
def grantLicence (s : State) (pk side : Nat) : State :=
  let s := modPair s pk fun p => { setRequest p side false with holder := side, releaseOrder := p.releaseOrder.filter fun x => x != side }
  if (amFind (getPair s pk).saved side).isSome then admitSaved s pk else resumeHolder s (pairCore pk side)

/-- The licence is released: a pending request of the twin is granted in the same cycle (R249). -/
def releaseLicence (s : State) (pk side : Nat) : State :=
  if (getPair s pk).holder ≠ side then s
  else
    let s := modPair s pk fun p => { p with holder := 0 }
    if requested (getPair s pk) (otherSide side) then grantLicence s pk (otherSide side) else s

/-! ### Issue (R253) -/

/-- A command of the executing thread enters its pair's stream; a full stream holds it back (R253). -/
def issueMatrix (k : MKind) : M Unit := do
  let s ← getS
  if issueRoom s (pairKey s.cur.core) then modS fun s => enterStream s (pairKey s.cur.core) s.cur.core s.cur.slot k
  else waitM .engineQueue

/-- A command whose result the executing thread waits for: it enters the stream and the thread blocks; once it has executed,
its value is written (R262, R69). -/
def issueForResult (k : MKind) : M Unit := do
  let s ← getS
  let pk := pairKey s.cur.core
  if issueRoom s pk then
    waitKeepM (.matrix (getPair s pk).entered) fun s => enterStream s pk s.cur.core s.cur.slot k
  else waitM .engineQueue

/-! ### Operands (R255) -/

/-- The tag of a format code. -/
def mfmtTag (code : Nat) : Tag :=
  match code with
  | 0 => 0x0B
  | 1 => 0x0C
  | 2 => 0x0D
  | 3 => 0x0E
  | 4 => 0x0F
  | 5 => 0x10
  | 6 => 0x11
  | 7 => 0x0A
  | 8 => 0x12
  | 9 => 0x13
  | 10 => 0x14
  | _ => 0x15

/-- Bytes of a chunk of 32 elements (R255). -/
def chunkBytes (code : Nat) : Nat := 4 * tagElemBits (mfmtTag code)

/-- The extents of A and B. -/
def operandA (code kg : Nat) : Nat := 64 * (kg + 1) * chunkBytes code
def operandB (code kg : Nat) : Nat := 32 * (kg + 1) * chunkBytes code

/-- The local objects that array operands lie in: kinds 0, 1 and 2. -/
def arrayKind (ea : Word) : Bool := isLocal ea && decide (localKind ea ≤ 2)

/-- The Alignment trap of an operand address. -/
def operandAligned (ea : Word) : M Unit := if ea.toNat % 64 = 0 then pure () else trapM causeAlignment ea

/-- The Address trap of an operand address or extent. -/
def operandInside (ea : Word) (n : Nat) : M Unit := do
  let s ← getS
  if arrayKind ea then
    match resolve s s.cur ea n with
    | .loc _ _ => pure ()
    | _ => trapM causeAddress ea
  else trapM causeAddress ea

/-- The region of a core, for commands whose thread may have halted. -/
def coreRegion (s : State) (core : Nat) : Option Region :=
  match coreRegionKey s core with
  | some k => getRegion s k
  | none => none

/-- The operands in memory that a command reads, in order: address and extent (R255). -/
def operandsOf (k : MKind) : List (Word × Nat) :=
  match k with
  | .mma _ kg af bf _ _ _ _ a b _ => [(a, operandA af kg), (b, operandB bf kg)]
  | .mmac _ _ kg _ bf _ _ _ _ b _ => [(b, operandB bf kg)]
  | .mscl src _ len => [(src, len * 64)]
  | _ => []

/-- Granule i of an operand as it stands now: none for an uncorrectable error (R255, R256). -/
def operandGranule (s : State) (core : Nat) (x : Word × Nat) (i : Nat) : Option (List Byte) :=
  match resolveIn (coreRegion s core) core x.1 x.2 with
  | .loc o off => localRead s o (off + 64 * i) 64
  | _ => none

/-- The key of granule i of operand k among what a command has read. -/
def granuleKey (k i : Nat) : Nat := k * 2 ^ 16 + i

/-- The bytes of operand k when its command completes, each granule as the command has read it, or as it stands (R255): none for
an uncorrectable error (R256). -/
def operandBytes (s : State) (c : MCmd) (k : Nat) : Option (List Byte) :=
  let x := (operandsOf c.kind).getD k (0, 0)
  let l := (List.range (x.2 / 64)).map fun i =>
    match amFind c.seen (granuleKey k i) with
    | some v => v
    | none => operandGranule s c.core x i
  if l.all Option.isSome then some (l.flatMap fun v => v.getD []) else none

/-! ### Values (R49, R61, R259) -/

/-- The bits of element j of a chunk. -/
def chunkElem (code : Nat) (bytes : List Byte) (chunk j : Nat) : Nat :=
  let rb := chunkBytes code
  lane (tagElemBits (mfmtTag code)) (ofBytes ((bytes.drop (chunk * rb)).take rb)) j

/-- In() of R49: a subnormal of a narrow float is zero of its sign. -/
def matIn (f : FFmt) (x : Nat) : FVal :=
  let v := fdecode f x
  match f, v with
  | .fp32, _ => v
  | .fp16, _ => v
  | .bf16, _ => v
  | _, .fin neg m e => if m < 2 ^ ffFracBits f then .fin neg 0 0 else .fin neg m e
  | _, _ => v

/-- An element of an operand as a value: a CB4 code reads its entry of the array's tables (R61). -/
def matElem (p : Pair) (code x : Nat) : FVal :=
  match tagClass (mfmtTag code) with
  | .flt f => matIn f x
  | .narrow f => matIn f x
  | .cb t => fdecode .bf16 (amGet p.tables (t * 16 + x) 0).toNat
  | _ => .fin false 0 0

/-- A byte of scale memory as an E4M3 value, which no unit flushes (R49). -/
def scaleAt (p : Pair) (i : Nat) : FVal := fdecode .e4m3 (memGet p.scale.cells i).toNat

/-- The scale bytes that a command reads (R259, R260, R262). -/
def scaleReads (k : MKind) : List Nat :=
  let areaA (on : Bool) (asl first kg : Nat) : List Nat :=
    if on then (List.range 64).flatMap fun m => (List.range (kg + 1)).map fun g => asl * 8192 + 128 * m + (first + g) else []
  let areaB (on : Bool) (bsl kg : Nat) : List Nat :=
    if on then (List.range 32).flatMap fun n => (List.range (kg + 1)).map fun g => bsl * 4096 + 128 * n + g else []
  match k with
  | .mma _ kg _ _ sa sb asl bsl _ _ _ => areaA sa asl 0 kg ++ areaB sb bsl kg
  | .mmac _ src kg _ _ sa sb asl bsl _ _ => areaA sa asl src kg ++ areaB sb bsl kg
  | .mrd acc row half tag _ sc asl _ _ =>
    if sc then (List.range (tagLanes (BitVec.ofNat 5 tag))).map fun i => asl * 8192 + 128 * ((32 * row + 16 * half + i) / 32) + acc else []
  | _ => []

/-- Does a command meet an uncorrectable error in scale memory (R256)? -/
def scaleFails (p : Pair) (k : MKind) : Bool := (scaleReads k).any fun i => memBad 64 p.scale i 1

/-- A block scale, or 1.0 where none is named. -/
def blockScale (p : Pair) (on : Bool) (i : Nat) : FVal := if on then scaleAt p i else fone

/-- A tensor scale: FP32, or 1.0 where none is named (R257). -/
def tensorScale (ts : Option Nat) : FVal :=
  match ts with
  | some x => fdecode .fp32 x
  | none => fone

/-- Products of exact values with the events of each. -/
def mulRes (x : FRes) (y : FVal) : FRes :=
  let r := fmul x.1 y
  (r.1, flagsOr x.2 r.2)

/-- An element of a tile. -/
def tileElem (p : Pair) (t i : Nat) : Nat := (amGet p.acc (t * 2048 + i) 0).toNat

/-- One K-group added to an element of the accumulator: the exact sum of 32 products, rounded once (R64, R259). DESIGN CHOICE: a signalling
NaN that the accumulator's element holds sets NV too, as an operand of the sum (R64); R259's list of NV does not name it (log entry 38). -/
def accumulate (x : Nat) (terms : List FRes) : Nat × FpFlags :=
  let s := sumValue .rne (terms.foldl sumTerm (sumTerm {} (.fin false 0 0, noFlags)))
  let r := fadd .rne (fdecode .fp32 x) s.1
  let d := deliver .fp32 .rne r
  (d.1, flagsOr s.2 d.2)

/-- The K-groups of one element in ascending order. -/
def accumulateGroups (x : Nat) (groups : List (List FRes)) : Nat × FpFlags :=
  groups.foldl (fun r g =>
    let a := accumulate r.1 g
    (a.1, flagsOr r.2 a.2)) (x, noFlags)

/-- A tile's 2,048 new elements with their events, from the products of each element's groups. -/
def multiplyTile (p : Pair) (acc kg : Nat) (prod : Nat → Nat → Nat → Nat → FRes) : List (Nat × FpFlags) :=
  (List.range 2048).map fun i =>
    accumulateGroups (tileElem p acc i)
      ((List.range (kg + 1)).map fun g => (List.range 32).map fun j => prod g (i / 32) (i % 32) j)

/-- ValB of R259. -/
def valB (p : Pair) (bf : Nat) (sb : Bool) (bsl : Nat) (b : List Byte) (g n j : Nat) : FRes :=
  fmul (matElem p bf (chunkElem bf b (32 * g + n) j)) (blockScale p sb (bsl * 4096 + 128 * n + g))

/-- ValA of R259. -/
def valA (p : Pair) (af : Nat) (sa : Bool) (asl : Nat) (ts : Option Nat) (a : List Byte) (g m j : Nat) : FRes :=
  mulRes (fmul (matElem p af (chunkElem af a (64 * g + m) j)) (blockScale p sa (asl * 8192 + 128 * m + g))) (tensorScale ts)

/-- The down-converter: an accumulator element over its scale, converted (R52, R260, R262). -/
def downConvert (x : Nat) (c : FRes) (f : FFmt) (rm : RMode) (sat : Bool) : Nat × FpFlags :=
  let q := fdiv (fdecode .fp32 x) c.1
  let r := encodeF f rm sat q.1
  (r.1, flagsOr c.2 (flagsOr q.2 r.2))

/-- The float format of a tag that the down-converter delivers. -/
def floatOf (t : Tag) : FFmt :=
  match tagClass t with
  | .flt f => f
  | .narrow f => f
  | _ => .fp32

/-- ValA of R260. -/
def valAC (p : Pair) (src af : Nat) (sa : Bool) (asl : Nat) (ts : Option Nat) (g m j : Nat) : FRes :=
  let c := fmul (blockScale p sa (asl * 8192 + 128 * m + (src + g))) (tensorScale ts)
  let q := downConvert (tileElem p (src + g) (32 * m + j)) c (floatOf (mfmtTag af)) .rne true
  let r := fmul (matElem p af q.1) c.1
  (r.1, flagsOr q.2 r.2)

/-- The product of two values with the events of both. -/
def mulPair (x y : FRes) : FRes :=
  let r := fmul x.1 y.1
  (r.1, flagsOr x.2 (flagsOr y.2 r.2))

/-- A term of the exact sum with every event of its product: NV alone reaches the sum, the rest join the command's. -/
def productFlags (l : List (Nat × FpFlags)) : FpFlags := flagsAll (l.map (·.2))

/-! ### What each command does (R253, R259 to R263) -/

/-- Events merged into a core's matrix status (R265). -/
def mergeMatrix (s : State) (core bits : Nat) : State :=
  modCore s core fun c => { c with matStatus := c.matStatus ||| BitVec.ofNat 64 bits }

/-- A command that aborts sets ERR (R256). -/
def abortMatrix (s : State) (core : Nat) : State := mergeMatrix s core 0x800

/-- Tile elements written. -/
def putTile (p : Pair) (acc first : Nat) (l : List Nat) : Pair :=
  { p with acc := (List.range l.length).foldl (fun m i => amPut 0 m (acc * 2048 + first + i) (BitVec.ofNat 32 (l.getD i 0))) p.acc }

/-- A product tile written with its events. -/
def finishProduct (s : State) (pk core acc : Nat) (l : List (Nat × FpFlags)) : State :=
  mergeMatrix (modPair s pk fun p => putTile p acc 0 (l.map (·.1))) core (flagsToNat (productFlags l))

/-- The tables as 16-bit entries written from the low 256 bits of a register (R69). -/
def putTable (m : AMap (BitVec 16)) (t bits : Nat) : AMap (BitVec 16) :=
  (List.range 16).foldl (fun m c => amPut 0 m (t * 16 + c) (BitVec.ofNat 16 (lane 16 bits c))) m

/-- A table as a register's bits (R69). -/
def tableBits (m : AMap (BitVec 16)) (t : Nat) : Nat := packLanes 16 ((List.range 16).map fun c => (amGet m (t * 16 + c) 0).toNat)

/-- Is an exact value one? -/
def isOne : FVal → Bool
  | .fin false m e => decide (e ≤ 0) && decide (m = 2 ^ (-e).toNat)
  | _ => false

/-- MRD's register and events (R262). DEDUCED: an element over one that stays FP32 is a conversion to its own format, which returns an
infinity as it is (R52; log entry 21). -/
def readTile (p : Pair) (acc first : Nat) (tag : Tag) (sat sc : Bool) (asl : Nat) (rm : RMode) (ts : Option Nat) : VReg × FpFlags :=
  let l := (List.range (tagLanes tag)).map fun i =>
    let e := first + i
    let c := fmul (blockScale p sc (asl * 8192 + 128 * (e / 32) + acc)) (tensorScale ts)
    if tag = 0x0A ∧ isOne c.1 then convert tag tag rm sat (tileElem p acc e) (.real (fdecode .fp32 (tileElem p acc e)))
    else downConvert (tileElem p acc e) c (floatOf tag) rm sat
  ({ bits := BitVec.ofNat 512 (packLanes (tagLane tag) (l.map (·.1))), tag := tag }, flagsAll (l.map (·.2)))

/-- The thread that waits for a command's value has it (R262); an aborted command has none (R256). -/
def giveResult (s : State) (c : MCmd) (v : Option VReg) : State :=
  let t : ThreadRef := { core := c.core, slot := c.slot }
  if (getThread s t).wait = .matrix c.num then modThread s t fun x => { x with wait := .matrixDone v } else s

/-- The thread that waits for a command's value has it. -/
def giveValue (s : State) (c : MCmd) (v : VReg) : State := giveResult s c (some v)

/-- The effect on the array of a command whose scale reads succeed. -/
def runMatrixCommand (s : State) (pk : Nat) (c : MCmd) : State :=
  let p := getPair s pk
  match c.kind with
  | .mma acc kg af bf sa sb asl bsl _ _ ts =>
    match operandBytes s c 0, operandBytes s c 1 with
    | some la, some lb =>
      finishProduct s pk c.core acc (multiplyTile p acc kg fun g m n j =>
        mulPair (valA p af sa asl ts la g m j) (valB p bf sb bsl lb g n j))
    | _, _ => abortMatrix s c.core
  | .mmac acc src kg af bf sa sb asl bsl _ ts =>
    match operandBytes s c 0 with
    | some lb =>
      let q := (List.range (kg + 1)).flatMap fun g => (List.range 2048).map fun i => (0, (valAC p src af sa asl ts g (i / 32) (i % 32)).2)
      mergeMatrix (finishProduct s pk c.core acc (multiplyTile p acc kg fun g m n j =>
        mulPair (valAC p src af sa asl ts g m j) (valB p bf sb bsl lb g n j))) c.core (flagsToNat (productFlags q))
    | none => abortMatrix s c.core
  | .mzero acc n => modPair s pk fun p => { p with acc := p.acc.filter fun e => decide (e.1 / 2048 < acc) || decide (acc + n < e.1 / 2048) }
  | .mrd acc row half tag sat sc asl rm ts =>
    let r := readTile p acc (32 * row + 16 * half) (BitVec.ofNat 5 tag) sat sc asl ((rmodeOf rm).getD .rne) ts
    mergeMatrix (giveValue s c r.1) c.core (flagsToNat r.2)
  | .mwr acc first values => modPair s pk fun p => putTile p acc first values
  | .mscl _ soff _ =>
    match operandBytes s c 0 with
    | some l => modPair s pk fun p => { p with scale := memStore 64 p.scale (soff * 64) l }
    | none => abortMatrix s c.core
  | .cbld t bits => modPair s pk fun p => { p with tables := putTable p.tables t bits }
  | .cbrd t => giveValue s c { bits := BitVec.ofNat 512 (tableBits p.tables t), tag := 0x0B }
  | .writeback tiles scale tables =>
    modPair s pk fun p => { p with acc := tiles.foldl (fun m e => amPut 0 m e.1 e.2) p.acc, scale := scale, tables := tables }

/-- A command's effect on the array; an error in a scale read aborts it (R256). -/
def runMatrix (s : State) (pk : Nat) (c : MCmd) : State :=
  if scaleFails (getPair s pk) c.kind then giveResult (abortMatrix s c.core) c none else runMatrixCommand s pk c

/-- MATRIX_COMMAND_COMPLETE (R253): the oldest command of the stream takes its effect and leaves; a write-back that waits for room
may enter. -/
def completeMatrix (s : State) (pk : Nat) : State :=
  match (getPair s pk).stream with
  | [] => s
  | c :: rest => admitSaved (modPair (runMatrix s pk c) pk fun p => { p with stream := rest }) pk

/-- Does a pair's array advance in the current cycle: with the core that holds the licence, and with that of the oldest command
where none does (R335, R341)? -/
def arrayAdvances (s : State) (pk : Nat) : Bool :=
  let p := getPair s pk
  if p.holder ≠ 0 then coreAdvances s (pairCore pk p.holder)
  else
    match p.stream with
    | c :: _ => quadRuns s (quadKey c.core)
    | [] => false

/-- The oldest command of a stream reads a granule of an operand before it completes (R255). -/
def arrayReadAhead (s : State) (pk g : Nat) : State :=
  match (getPair s pk).stream with
  | c :: rest =>
    let k := g / 2 ^ 16
    let i := g % 2 ^ 16
    let x := (operandsOf c.kind).getD k (0, 0)
    if x.2 / 64 ≤ i ∨ (amFind c.seen g).isSome ∨ !arrayAdvances s pk then s
    else modPair s pk fun p => { p with stream := { c with seen := amInsert c.seen g (operandGranule s c.core x i) } :: rest }
  | [] => s

/-- MATRIX_COMMAND_COMPLETE (R253). -/
def execMatrixCommandComplete (pair : Nat) (s : State) : Host.Outcome State Fault Refusal :=
  runStep (fun s => if arrayAdvances s pair then completeMatrix s pair else s) s

/-! ### The forms (R257 to R267) -/

/-- A tensor-scale operand: none for field 0; for a register, bits [31:0] (R257). -/
def readScale (d : Reg) : M (Option Nat) :=
  if d = 0 then pure none
  else do
    let v ← readG d
    pure (some (v.toNat % 2 ^ 32))

/-- MMA (R258, R259). -/
def execMma (d a b : Reg) (acc : BitVec 4) (kg : BitVec 7) (af bf : BitVec 4) (sa sb : BitVec 1) (asl : BitVec 2) (bsl : BitVec 3)
    (s : State) : Host.Outcome State Fault Refusal :=
  run8 (withPorts [a, b, d] [] [] [] do
    let x ← readG a
    let y ← readG b
    let ts ← readScale d
    requireLicence
    operandAligned x
    operandAligned y
    operandInside x (operandA af.toNat kg.toNat)
    operandInside y (operandB bf.toNat kg.toNat)
    issueMatrix (.mma acc.toNat kg.toNat af.toNat bf.toNat (sa == 1) (sb == 1) asl.toNat bsl.toNat x y ts)) s

/-- MMAC (R258, R260): its B operand is aligned as R255 says, and breaks of that raise the Address trap (R258, item 3). -/
def execMmac (d : Reg) (src : BitVec 4) (b : Reg) (acc : BitVec 4) (kg : BitVec 7) (af bf : BitVec 4) (sa sb : BitVec 1) (asl : BitVec 2)
    (bsl : BitVec 3) (s : State) : Host.Outcome State Fault Refusal :=
  run8 (withPorts [b, d] [] [] [] do
    let y ← readG b
    let ts ← readScale d
    requireLicence
    if y.toNat % 64 ≠ 0 then trapM causeAddress y else operandInside y (operandB bf.toNat kg.toNat)
    issueMatrix (.mmac acc.toNat src.toNat kg.toNat af.toNat bf.toNat (sa == 1) (sb == 1) asl.toNat bsl.toNat y ts)) s

/-- MZERO (R261). -/
def execMzero (acc n : BitVec 4) (s : State) : Host.Outcome State Fault Refusal :=
  run8 (do
    requireLicence
    issueMatrix (.mzero acc.toNat n.toNat)) s

/-- The values that MWR writes, or none for a wrong tag (R261). -/
def mwrValues (v : VReg) (half : BitVec 1) : Option (List Nat) :=
  if v.tag = 0x0A then some (lanes 32 16 v.bits.toNat)
  else if v.tag = 0x0B ∧ half = 0 then some ((lanes 16 32 v.bits.toNat).map fun x => x * 2 ^ 16)
  else none

/-- MWR (R261). DESIGN CHOICE: where the two link words of a port-mapped va disagree, R14's Tag trap stands before the Licence trap of
R250 (log entry 38). -/
def execMwr (a : Reg) (acc : BitVec 4) (row : BitVec 6) (half : BitVec 1) (s : State) : Host.Outcome State Fault Refusal :=
  run8 (withPorts [] [a] [] [] do
    let v ← readV a
    requireLicence
    match mwrValues v half with
    | none => tagTrap a 0x0A v.tag
    | some l => issueMatrix (.mwr acc.toNat (32 * row.toNat + 16 * half.toNat) l)) s

/-- The end of a form whose value comes from the stream: written once it is there (R262). -/
def awaitValue (d : Reg) (start : M Unit) : M Unit := do
  let x ← self
  match x.wait with
  | .matrixDone (some v) => writeV d v
  | .matrixDone none => pure ()
  | _ => start

/-- MRD (R262): FPCTL.RM and the tensor scale are read at issue. -/
def execMrd (d a : Reg) (acc : BitVec 4) (row : BitVec 6) (half : BitVec 1) (tag : Tag) (sat sc : BitVec 1) (asl : BitVec 2) (rm : BitVec 3)
    (s : State) : Host.Outcome State Fault Refusal :=
  run8 (withPorts [a] [] [] [d] do
    let ts ← readScale a
    awaitValue d do
      requireLicence
      let x ← self
      let r := if rm.toNat = 7 then fpctlRm x else rm.toNat
      issueForResult (.mrd acc.toNat row.toNat half.toNat tag.toNat (sat == 1) (sc == 1) asl.toNat r ts)) s

/-- MSCL (R263). -/
def execMscl (a : Reg) (soff : BitVec 9) (len : BitVec 9) (s : State) : Host.Outcome State Fault Refusal :=
  run8 (withPorts [a] [] [] [] do
    let x ← readG a
    requireLicence
    operandAligned x
    operandInside x ((len.toNat + 1) * 64)
    issueMatrix (.mscl x soff.toNat (len.toNat + 1))) s

/-- MWAIT (R264). -/
def execMwait (d : Reg) (s : State) : Host.Outcome State Fault Refusal :=
  run8 (withPorts [] [] [d] [] do
    requireArray
    let s ← getS
    let x ← self
    let p := getPair s (pairKey s.cur.core)
    let upto := match x.wait with
      | .mwait n => n
      | _ => p.entered
    if p.stream.any fun c => decide (c.num < upto) then waitM (.mwait upto)
    else do
      let v := (getCore s s.cur.core).matStatus
      modS fun s => modCore s s.cur.core fun c => { c with matStatus := 0 }
      writeG d v) s

/-- MLIC (R249, R266). -/
def execMlic (d : Reg) (tryf : BitVec 1) (s : State) : Host.Outcome State Fault Refusal :=
  run8 (withPorts [] [] [d] [] do
    requireArray
    let s ← getS
    let x ← self
    let pk := pairKey s.cur.core
    let side := sideOf s.cur.core
    let h := (getPair s pk).holder
    if h = side ∨ x.wait = .licenceGranted then writeG d 0
    else if h = 0 then do
      modS fun s => grantLicence s pk side
      writeG d 0
    else if tryf = 1 then writeG d 1
    else waitKeepM .licence fun s => modPair s pk fun p => setRequest p side true) s

/-- Is a CPYM follow-on of the pair still to enter its stream (R267)? -/
def followOnsDue (s : State) (pk : Nat) : Bool :=
  s.tiles.any fun k => k.2.chans.any fun c =>
    ((c.2.active.toList ++ c.2.queue).any fun x => x.follow.isSome && pairKey x.core == pk)

/-- MREL (R267). -/
def execMrel (s : State) : Host.Outcome State Fault Refusal :=
  run8 (do
    requireLicence
    let s ← getS
    if followOnsDue s (pairKey s.cur.core) then waitM .condition
    else modS fun s => releaseLicence s (pairKey s.cur.core) (sideOf s.cur.core)) s

/-! ### Codebook forms (R63, R69) -/

/-- CBLD (R69): a core table is written at the end of the cycle (R63); an array table in the stream. DESIGN CHOICE: where the two link
words of a port-mapped va disagree, R14's Tag trap stands before the Licence trap, as the operand is read first (log entry 38). -/
def execCbld (t : BitVec 2) (a : Reg) (s : State) : Host.Outcome State Fault Refusal :=
  run4 (withPorts [] [a] [] [] do
    let v ← readV a
    let x ← self
    let array := x.cbsel.getLsbD 0
    if array then requireLicence else pure ()
    if v.tag = 0x0B then pure () else tagTrap a 0 v.tag
    let bits := v.bits.toNat % 2 ^ 256
    if array then issueMatrix (.cbld t.toNat bits)
    else modS fun s => modCore s s.cur.core fun c =>
      { c with cbtNext := (List.range 16).foldl (fun m i => amInsert m (t.toNat * 16 + i) (BitVec.ofNat 16 (lane 16 bits i))) c.cbtNext }) s

/-- CBRD (R69). -/
def execCbrd (d : Reg) (t : BitVec 2) (s : State) : Host.Outcome State Fault Refusal :=
  run4 (withPorts [] [] [] [d] do
    let x ← self
    if x.cbsel.getLsbD 0 then
      awaitValue d do
        requireLicence
        issueForResult (.cbrd t.toNat)
    else do
      let s ← getS
      writeV d { bits := BitVec.ofNat 512 (tableBits (getCore s s.cur.core).cbt t.toNat), tag := 0x0B }) s

/-! ### The twin window (R268 to R270) -/

/-- A window register as an HRD of this cycle reads it. -/
def windowRead (s : State) (pk h : Nat) : Word := amGet (getPair s pk).window h 0

/-- An HWR of this cycle: of two writes of one register the licence holder's stands, and the lower twin's where neither holds
it (R268). -/
def windowWrite (s : State) (pk side h : Nat) (v : Word) : State :=
  modPair s pk fun p =>
    let wins : Bool :=
      match amFind p.windowNext h with
      | none => true
      | some (w, _) => w == side || p.holder == side || (p.holder != w && side == 1)
    if wins then { p with windowNext := amInsert p.windowNext h (side, v) } else p

/-- TWX (R269): the second of two pending exchanges completes both; the next instruction of the thread that waited issues from
the next cycle on. -/
def execTwx (d : Reg) (s : State) : Host.Outcome State Fault Refusal :=
  run4 (do
    requireArray
    let s ← getS
    let x ← self
    let u : ThreadRef := { core := twinOf s.cur.core, slot := s.cur.slot }
    let y := getThread s u
    match (if y.slotState = .live then y.wait else .none) with
    | .twx e => do
      let e : Reg := BitVec.ofNat 5 e
      modS fun s => markIssued (retire (modThread s u fun y => gWrite y e (gValue x d)) u (y.pc + 4)) u 3
      writeG d (gValue y e)
    | _ => waitM (.twx d.toNat)) s

/-- HRD (R270). -/
def execHrd (d : Reg) (h : MReg) (s : State) : Host.Outcome State Fault Refusal :=
  run4 (withPorts [] [] [d] [] do
    requireArray
    let s ← getS
    writeG d (windowRead s (pairKey s.cur.core) h.toNat)) s

/-- HWR (R268). -/
def execHwr (h : MReg) (a : Reg) (s : State) : Host.Outcome State Fault Refusal :=
  run4 (withPorts [a] [] [] [] do
    let v ← readG a
    requireArray
    modS fun s => windowWrite s (pairKey s.cur.core) (sideOf s.cur.core) h.toNat v) s

end Sys2Proof.Machine
end

