-- ==== Sys2Proof/Machine/Shootdown.lean ====
section
/-! DEFINITION. Re-latch tokens, RLTOK, the mailbox forms, and the steps of memory that no instruction takes: performed
stores and REDs, walks, timeouts, mailbox arrivals (R183, R195, R196, R201, R206, R214 to R219). -/
namespace Sys2Proof.Machine

/-! ### Tokens (R214, R215) -/

/-- The cached translations that a token leaves. -/
def keepUnmatched (k : Token) (l : List TlbEntry) : List TlbEntry := l.filter fun e => !tokenMatches k e.func e.va e.bits e.g

/-- Does a write that a thread has not performed use a translation of the token's functions? Such writes are performed before
the translation goes (R183, R215). -/
def tokenForces (k : Token) (func : Nat) (g : Bool) : Bool := k.scope == 2 || func == k.func || (g && k.global)

/-- The four cores of a quad. -/
def quadMembers (quad : Nat) : List Nat :=
  let t := tileKey (quad / 96) (2 * (quad % 96 / 8)) (4 * (quad % 96 % 8))
  (List.range 4).map fun i => quadCore t i

/-- The cores whose L1 TLBs stand with a quad: its own, and with quad 0 of a die its service cores (log entry 9). -/
def quadCores (quad : Nat) : List Nat :=
  quadMembers quad ++ (if quad % 96 = 0 then (List.range 4).map fun i => serviceBase + 4 * (quad / 96) + i else [])

/-- The memory tiles of a quad. -/
def quadMemTiles (quad : Nat) : List Nat :=
  let die := quad / 96
  let q := quad % 96
  (List.range 2).flatMap fun i => (List.range 4).filterMap fun j =>
    if (i + j) % 2 = 1 then some (tileKey die (2 * (q / 8) + i) (4 * (q % 8) + j)) else none

/-- A thread's writes through the token's translations are performed. -/
def forceThread (k : Token) (s : State) (t : ThreadRef) : State :=
  performReds (performStores s t fun p => tokenForces k p.func p.global) t fun r => tokenForces k r.func r.global

/-- The token passes the copy channels of a memory tile: the latches that stay, and how many went (R213, R215). -/
def passTile (k : Token) (r : State × Nat) (tile : Nat) : State × Nat :=
  match amFind r.1.tiles tile with
  | none => r
  | some m =>
    let n := (m.chans.map fun c => c.2.latch.length - (keepUnmatched k c.2.latch).length).sum
    (setTile r.1 tile { m with chans := m.chans.map fun c => (c.1, { c.2 with latch := keepUnmatched k c.2.latch }) }, r.2 + n)

/-- The token passes the L1 TLBs of a core after forcing its threads' writes. -/
def passCore (k : Token) (s : State) (core : Nat) : State :=
  match amFind s.cores core with
  | none => s
  | some _ =>
    let s := (List.range 4).foldl (fun s i => forceThread k s { core := core, slot := i }) s
    modCore s core fun c => { c with dtlb := keepUnmatched k c.dtlb, itlb := keepUnmatched k c.itlb }

/-- The token passes a quad in one step (R215): L1 TLBs, L2 TLB, walk cache, generation, and its copy channels' latches. -/
def passQuad (k : Token) (r : State × Nat) (quad : Nat) : State × Nat :=
  let s := (quadCores quad).foldl (passCore k) r.1
  let s := modQuad s quad fun q =>
    { recallLines s.cycle (k.lines.1 / 64) (k.lines.2 / 64) q with
             l2 := keepUnmatched k q.l2
             walkCache := q.walkCache.filter fun e => !(k.scope == 2 || e.func == k.func)
             gen := q.gen + 1 }
  (quadMemTiles quad).foldl (passTile k) (s, r.2)

/-- The key of a stream node. -/
def nodeKey (h n : Nat) : Nat := 16384 + 32 * h + n

/-- The token passes a die's LLTC and the stream nodes of the HBM4E stack beside the die (log entry 12). -/
def passLltc (k : Token) (r : State × Nat) (die : Nat) : State × Nat :=
  let s := modLltc r.1 die fun c => { c with entries := keepUnmatched k c.entries, gen := c.gen + 1 }
  (List.range 32).foldl (fun r n =>
    match amFind r.1.switches (nodeKey die n) with
    | none => r
    | some w =>
      let l := keepUnmatched k w.latch
      (setSwitch r.1 (nodeKey die n) { w with latch := l }, r.2 + (w.latch.length - l.length))) (s, r.2)

/-- The compute dies of a partition. -/
def partDies (t : Partition) : List Nat := (partStacks t).flatMap fun s => [2 * s, 2 * s + 1]

/-- The targets of a partition's tokens: its quads and its LLTCs, each with the generators beside it. -/
def tokenTargets (t : Partition) : List Nat :=
  (partDies t).flatMap (fun d => (List.range 96).map fun q => d * 96 + q) ++ (partDies t).map lltcTarget

/-- A token passes one target. -/
def passTarget (k : Token) (r : State × Nat) (target : Nat) : State × Nat :=
  if target < 1024 then passQuad k r target else passLltc k r (target - 1024)

/-- A token that passes every target at once: the removals at the generators. -/
def passAll (k : Token) (s : State) : State × Nat :=
  (tokenTargets (getPart s k.part)).foldl (passTarget k) (s, 0)

/-- A token sent into the network. -/
def sendToken (s : State) (k : Token) : State :=
  { s with tokens := s.tokens ++ [{ k with id := s.nextToken, targets := tokenTargets (getPart s k.part) }]
           nextToken := s.nextToken + 1 }

/-- A leaf of a function: its virtual address, its level, its entry, and the frame that it maps. -/
structure LeafAt where
  func : Nat
  va : Nat
  level : Nat
  addr : Nat
  entry : Nat
  deriving DecidableEq, Repr

/-- The first byte that a leaf maps, and how many bytes. -/
def leafBase (l : LeafAt) : Nat := pteFrame l.entry * 4096
def leafBytes (l : LeafAt) : Nat := 2 ^ (12 + 9 * l.level)

/-- The leaves below a table of a function: `n` levels remain, and the table serves addresses from `va` on. -/
def tableLeaves (s : State) (func : Nat) : Nat → Nat → Nat → List LeafAt
  | 0, _, _ => []
  | n + 1, table, va =>
    let idx := ((memWindow s.gmem.cells (table * 4096) 4096).map fun c => c.1 % 4096 / 8).eraseDups
    idx.flatMap fun i =>
      let addr := table * 4096 + 8 * i
      let e := entryNow s addr
      let v := va + i * 2 ^ (12 + 9 * n)
      if !pteV e || (shapeFault n e).isSome then []
      else if pteL e then [{ func := func, va := v, level := n, addr := addr, entry := e }]
      else tableLeaves s func n (pteFrame e) v

/-- The leaves of every enabled function of a partition. -/
def partLeaves (s : State) (p : Nat) : List LeafAt :=
  (getPart s p).txroot.flatMap fun r => if r.2.getLsbD 0 then tableLeaves s r.1 5 (fieldOf r.2 51 12) 0 else []

/-- The pieces of 64 KiB in which the command processor keeps contexts and retained banks (R246). -/
def ownChunks (t : Partition) : List Nat := (t.saves.flatMap fun v => if v.2.out then [] else v.2.chunks) ++ t.evacuated.flatMap (·.chunks)

/-- The frames that a partition's tables map (log entry 16) or that the command processor has taken, each byte once: of two leaves' frames that share bytes one lies within
the other, and it is left out. -/
def usedFrames (s : State) (p : Nat) : List (Nat × Nat) :=
  let l := ((partLeaves s p).map (fun x => (leafBase x, leafBytes x)) ++ (ownChunks (getPart s p)).map fun a => (a, 65536)).eraseDups
  l.filter fun f => !l.any fun g => decide (f.2 < g.2) && decide (g.1 ≤ f.1) && decide (f.1 < g.1 + g.2)

/-- Does the monitor's function map its address to its line no more? -/
def unmappedMonitor (s : State) (p key : Nat) (m : Monitor) : Bool :=
  ownsStack (getPart s p) (stackOf (key / 64)) && !(partLeaves s p).any fun l =>
    l.func == m.func && decide (l.va ≤ m.va) && decide (m.va < l.va + leafBytes l) && leafBase l + (m.va - l.va) == m.pa

/-- Once a token has passed, the monitors of pages that are mapped no more are dropped (R201, R216). -/
def dropUnmapped (s : State) (p : Nat) : State := dropMonitors s (unmappedMonitor s p)

/-- MIGR's result word (R238). -/
def migrWord (st slot e : Nat) : Word := BitVec.ofNat 64 (st + 256 * slot + 4096 * e)

/-- The slot that MIGR's token has been sent for begins to copy (R238). -/
def startCopying (s : State) (e n : Nat) : State :=
  let x := getTSlot s e n
  if x.state = .starting then setTSlot s e n { x with state := .copying } else s

/-- Every write that a thread of the part has made through the token's translations is performed. -/
def forceAll (k : Token) (s : State) : State :=
  (s.cores.flatMap fun c => c.2.slots.map fun x => ({ core := c.1, slot := x.1 } : ThreadRef)).foldl (fun s t =>
    if (getThread s t).part = k.part then forceThread k s t else s) s

/-- A token has passed every target: its slot begins to copy, whatever has become of the thread that sent it, and every thread that
waits for it resumes with its result (R215, R238). -/
def tokenFinished (s : State) (k : Token) (removed : Nat) : State :=
  let s := match k.slot with
    | some (e, n) => startCopying s e n
    | none => s
  let result := match k.slot with
    | some (e, n) => (migrWord 0 n e).toNat
    | none => removed
  { s with cores := s.cores.map fun c =>
      (c.1, { c.2 with slots := c.2.slots.map fun x =>
        (x.1, if x.2.wait = .token k.id then { x.2 with wait := .tokenDone result } else x.2) }) }

/-- TOKEN_PASS (R214, R215): a token passes a target that it has not passed yet. When it has passed the last, no write through a
removed translation is left. -/
def execTokenPass (token target : Nat) (s : State) : Host.Outcome State Fault Refusal :=
  runStep (fun s =>
    match s.tokens.find? fun k => k.id == token && k.targets.contains target with
    | none => s
    | some k =>
      let r := passTarget k (s, k.removed) target
      let rest := k.targets.filter fun x => x != target
      let others := r.1.tokens.filter fun x => x.id != token
      if rest.isEmpty then tokenFinished (dropUnmapped (forceAll k { r.1 with tokens := others }) k.part) k r.2
      else { r.1 with tokens := others ++ [{ k with targets := rest, removed := r.2 }] }) s

/-- What RLTOK does before its token: the thread's writes are performed as fence.package performs them (R190, R215). -/
def beforeToken (s : State) : State := publish s s.cur 6

/-- RLTOK's work once its operand is checked: in the deferred mode of a turn the token travels as a step of its own at each
target. -/
def relatch (d : Reg) (k : Token) : M Unit := do
  let x ← self
  match x.wait with
  | .tokenDone n => writeG d (BitVec.ofNat 64 n)
  | _ => do
    let s ← getS
    if s.defer then waitKeepM (.token s.nextToken) fun s => sendToken (beforeToken s) k
    else do
      let r := passAll k (beforeToken s)
      modS fun _ => dropUnmapped r.1 k.part
      writeG d (BitVec.ofNat 64 r.2)

/-- RLTOK.range (R215). -/
def execRltokRange (d a : Reg) (g : BitVec 1) (n : BitVec 6) (s : State) : Host.Outcome State Fault Refusal :=
  run4 (do
    requireSys (.rltokRange d a g n)
    withPorts [a] [] [d] [] do
      let x ← readG a
      let me ← self
      if fieldOf x 63 57 ≠ 0 ∨ fieldOf x 11 7 ≠ 0 ∨ 64 < fieldOf x 6 0 ∨ 45 < n.toNat ∨ fieldOf x 56 12 % 2 ^ n.toNat ≠ 0 then
        trapM causeAddress x
      else
        relatch d { part := me.part, scope := 0, func := fieldOf x 6 0, va := fieldOf x 56 12 * 4096, bits := 12 + n.toNat, global := g = 1 }) s

/-- RLTOK.func (R215). -/
def execRltokFunc (d a : Reg) (g : BitVec 1) (s : State) : Host.Outcome State Fault Refusal :=
  run4 (do
    requireSys (.rltokFunc d a g)
    withPorts [a] [] [d] [] do
      let x ← readG a
      let me ← self
      if fieldOf x 63 7 ≠ 0 ∨ 64 < fieldOf x 6 0 then trapM causeAddress x
      else relatch d { part := me.part, scope := 1, func := fieldOf x 6 0, global := g = 1 }) s

/-- RLTOK.part (R215). -/
def execRltokPart (d : Reg) (s : State) : Host.Outcome State Fault Refusal :=
  run4 (do
    requireSys (.rltokPart d)
    withPorts [] [] [d] [] do
      let me ← self
      relatch d { part := me.part, scope := 2 }) s

/-! ### The mailbox (R218, R219) -/

/-- MBXRD (R219). -/
def execMbxrd (d : Reg) (nb : BitVec 1) (s : State) : Host.Outcome State Fault Refusal :=
  run4 (do
    requireService (.mbxrd d nb)
    let s ← getS
    match (getCore s s.cur.core).mailbox with
    | [] => if nb = 1 then writeG d 0 else waitM .mailbox
    | m :: rest => do
      modS fun s => modCore s s.cur.core fun c => { c with mailbox := rest }
      modSelf fun x => (List.range 4).foldl (fun x i => gWrite x (d + BitVec.ofNat 5 i) (m.getD i 0)) x) s

/-- A reply sent towards the requester that a handle names (R219). -/
def sendReply (a : Reg) (refuse : Bool) : M Unit :=
  withPorts [a] [] [] [] do
    let h ← readG a
    modS fun s => { s with net := s.net ++ [.reply s.cur.core h refuse] }

/-- MBXWR.retry (R219). -/
def execMbxwrRetry (a : Reg) (s : State) : Host.Outcome State Fault Refusal :=
  run4 (do
    requireService (.mbxwrRetry a)
    sendReply a false) s

/-- MBXWR.refuse (R219). -/
def execMbxwrRefuse (a : Reg) (s : State) : Host.Outcome State Fault Refusal :=
  run4 (do
    requireService (.mbxwrRefuse a)
    sendReply a true) s

/-! ### What a walk's end brings to those that share it (R210) -/

/-- A walk that succeeded fills the L1 TLB of a thread that shares it, and the thread looks up again. -/
def walkFound (e : TlbEntry) (s : State) (t : ThreadRef) : State :=
  match (getThread s t).wait with
  | .walk _ _ fetch _ => modThread (fillL1 s t.core fetch e) t fun x => { x with wait := .none }
  | _ => s

/-- A walk that decides nothing for a thread that shares it: the thread looks up again. -/
def walkAgain (s : State) (t : ThreadRef) : State :=
  match (getThread s t).wait with
  | .walk _ _ _ _ => modThread s t fun x => { x with wait := .none }
  | _ => s

/-- A copy channel that shares a walk waits for it no more, and latches what the walk found (R213). -/
def chanFound (e : Option TlbEntry) (s : State) (p : WalkPort) : State :=
  modChan s p.port p.chan fun ch => { ch with walking := none, latch := e.elim ch.latch fun e => tlbFill 16 e ch.latch }

/-- A walk that succeeded, for all that share it. -/
def walkShared (e : TlbEntry) (j : WalkJob) (s : State) : State := j.ports.foldl (chanFound (some e)) (j.threads.foldl (walkFound e) s)

/-- A walk that decides nothing for those that share it. -/
def walkUndecided (j : WalkJob) (s : State) : State := j.ports.foldl (chanFound none) (j.threads.foldl walkAgain s)

/-! ### Steps of memory -/

/-- Do two byte ranges overlap? -/
def overlaps (a n b m : Nat) : Bool := decide (a < b + m) && decide (b < a + n)

/-- PLAIN_STORE_PERFORM (R183): one retired store of a thread is performed, unless an earlier one to a byte of it still waits. -/
def execPlainStorePerform (core slot index : Nat) (s : State) : Host.Outcome State Fault Refusal :=
  runStep (fun s =>
    let t : ThreadRef := { core := core, slot := slot }
    let l := (getThread s t).stores
    match l[index]? with
    | none => s
    | some p =>
      if (l.take index).any fun q => overlaps q.pa q.bytes.length p.pa p.bytes.length then s
      else performFirst s t p) s

/-- RED_PERFORM (R195): one accepted RED is performed, unless an earlier one to the line still waits. -/
def execRedPerform (core slot index : Nat) (s : State) : Host.Outcome State Fault Refusal :=
  runStep (fun s =>
    let t : ThreadRef := { core := core, slot := slot }
    let l := (getThread s t).reds
    match l[index]? with
    | none => s
    | some p =>
      if (l.take index).any fun q => sameLine q.pa p.pa then s
      else performRedInOrder (modThread s t fun x => { x with reds := l.eraseIdx index }) t p) s

/-- A waiter whose time is over leaves its entry with TIMEOUT. -/
def timeOut (s : State) (t : ThreadRef) : State :=
  match (getThread s t).wait with
  | .monitor pa v (some deadline) =>
    if deadline ≤ s.cycle then wakeThread 1 (leaveMonitor s (getThread s t).part pa v t) t else s
  | _ => s

/-- WAITA_TIMEOUT (R201). -/
def execWaitaTimeout (core slot : Nat) (s : State) : Host.Outcome State Fault Refusal :=
  runStep (fun s => timeOut s { core := core, slot := slot }) s

/-- Every waiter whose time is over in a cycle. -/
def timeOutAll (s : State) : State :=
  (s.slices.flatMap fun e => e.2.monitors.flatMap (·.waiters)).foldl timeOut s

/-- A count that 4,096 cycles have passed without a recall falls by one. -/
def decayEntry (now : Nat) (e : PredEntry) : PredEntry :=
  if e.since + 4096 ≤ now then { e with count := e.count - 1, since := e.since + 4096 } else e

/-- PREDICTOR_DECAY (R196). -/
def execPredictorDecay (quad line : Nat) (s : State) : Host.Outcome State Fault Refusal :=
  runStep (fun s => modQuad s quad fun q => { q with predictor := q.predictor.map fun e => if e.line = line then decayEntry s.cycle e else e }) s

/-- Every count that falls in a cycle. -/
def decayAll (s : State) : State :=
  { s with quads := s.quads.map fun q => (q.1, { q.2 with predictor := q.2.predictor.map (decayEntry s.cycle) }) }

end Sys2Proof.Machine
end

