-- ==== Sys2Proof/Machine/Traverse.lean ====
section
/-! DEFINITION. Pages in motion, the TIER instructions, heat, the sector cache's own step, and layers taken offline (R225 to
R247). -/
namespace Sys2Proof.Machine

/-! ### Walks that change nothing (R238, R239) -/

/-- A walk with checks 1 to 5 only: level, address and value of the leaf, or none, and the non-leaf entries it passed. -/
def queryFrom (w : Who) (va : Nat) : Nat → State → Nat → List WalkEntry → State × Option (Nat × Nat × Nat) × List WalkEntry
  | 0, s, _, path => (s, none, path)
  | n + 1, s, table, path =>
    let addr := pteAddr table va n
    match tableRead s w addr 8 with
    | (s, none) => (s, none, path)
    | (s, some b) =>
      let e := ofBytes b
      if !pteV e || (shapeFault n e).isSome then (s, none, path)
      else if pteL e then (s, some (n, addr, e), path)
      else queryFrom w va n s (pteFrame e) ({ func := w.func, level := n, key := va / 2 ^ (12 + 9 * n), table := pteFrame e } :: path)

/-- The leaf that maps an address in a function. -/
def queryLeaf (s : State) (w : Who) (func va : Nat) : State × Option (Nat × Nat × Nat) :=
  let root := txroot s w.part func
  if root.getLsbD 0 then
    let p := queryFrom w va 5 s (fieldOf root 51 12) []
    (p.1, p.2.1)
  else (s, none)

/-- The same walk in the requester's own function with a walk cache: from its deepest match (R211). -/
def queryWalk (s : State) (w : Who) (va : Nat) (cache : List WalkEntry) : State × Option (Nat × Nat × Nat) × List WalkEntry :=
  let root := txroot s w.part w.func
  if !root.getLsbD 0 then (s, none, [])
  else
    match walkStart cache w.func va with
    | some e => queryFrom w va e.level s e.table [e]
    | none => queryFrom w va 5 s (fieldOf root 51 12) []

/-- The group of a leaf, if it forms one translation (R209). -/
def leafGroup (s : State) (w : Who) (va level addr e : Nat) : State × Option (List Nat) :=
  if pteC e && decide (level ≤ 1) then
    match readGroup s w (addr / 128 * 128) with
    | (s, some l) => (s, if groupForms { who := w, va := va, needA := false } level l then some l else none)
    | (s, none) => (s, none)
  else (s, none)

/-! ### Messages (R237) -/

/-- A traverse message to the slot's owner. -/
def postTraverse (s : State) (kind e n : Nat) (x : TSlot) (cause : Nat) : State :=
  postMail s x.part (serviceBase + x.owner)
    [BitVec.ofNat 64 (kind + 2 ^ 8 * cause + 2 ^ 16 * n + 2 ^ 20 * e + 2 ^ 22 * x.size + 2 ^ 24 * x.func + 2 ^ 32 * (x.lost % 2 ^ 16)),
     BitVec.ofNat 64 x.va, BitVec.ofNat 64 x.src, BitVec.ofNat 64 x.dst]

/-! ### Slots (R231) -/

/-- The engine of a slot as requester: the partition, and the lower die of its stack. -/
def whoSlot (e : Nat) (x : TSlot) : Who := { part := x.part, die := 2 * e, func := x.func }

/-- The token of a slot's page (R233, R234). -/
def slotToken (x : TSlot) : Token :=
  { part := x.part, scope := 0, func := x.func, va := x.va
    bits := (match x.size with
      | 0 => 12
      | 1 => 16
      | _ => 21)
    global := (x.leaf.headD (0, 0)).2.testBit 5
    lines := (x.src, pageBytes x.size) }

/-- A leaf with AF and D left out. -/
def bareLeaf (e : Nat) : Nat := e - 64 * bit (pteAF e) - 128 * bit (pteD e)

/-- The lowest line not yet copied. -/
def nextLine (x : TSlot) : Option Nat := (List.range (slotLines x)).find? fun j => !x.copied.testBit j

/-- The slots of an engine that are copying, in the order in which their turns come (R231). -/
def copyingInTurn (g : Engine) : List Nat :=
  let l := (g.slots.filter fun x => x.2.state = .copying).map (·.1)
  l.filter (fun n => decide (g.turn ≤ n)) ++ l.filter fun n => decide (n < g.turn)

/-- TRAVERSE_LINE_COPY (R232): the slot whose turn it is copies its lowest line: a coherent read of the source, the write at
the destination, accepted by its controller, COPIED; with the last line the slot enters FINISHING (R234). An engine moves one line a
cycle. An unreadable source line starts an abort (R235). -/
def execTraverseLineCopy (engine slot : Nat) (s : State) : Host.Outcome State Fault Refusal :=
  runStep (fun s =>
    let g := getEngine s engine
    if (copyingInTurn g).head? ≠ some slot ∨ g.lineAt = some s.cycle then s
    else
      let x := getTSlot s engine slot
      match nextLine x with
      | none => s
      | some j =>
        let w := whoSlot engine x
        match lineRead s w (x.src + 64 * j) 64 with
        | (s, none) => abortSlot s engine slot 2
        | (s, some l) =>
          if !populated s x.part (x.dst + 64 * j) then abortSlot s engine slot 1
          else
            let s := serveWrites (lineWrite s w (x.dst + 64 * j) l) fun _ => true
            let y := { x with copied := x.copied + 2 ^ j }
            let s := setTSlot (moveViews s (x.src + 64 * j) (x.dst + 64 * j)) engine slot
              { y with state := if (nextLine y).isNone then .finishing else .copying }
            modEngine s engine fun g => { g with turn := (slot + 1) % 16, lineAt := some s.cycle }) s

/-- No read of a discarded line raises an error: not for an unreadable record of its place in the sector cache, nor for an error of
its own dirty line there (R236). -/
def discardErrors (s : State) (p base bytes : Nat) : State :=
  if tierOf base ≠ .lpddr ∨ s.scsize = 0 ∨ (s.sector.badRecords = [] ∧ s.sector.badLines = []) then s
  else
    let l := (List.range (bytes / 64)).map fun j => base + 64 * j
    let mended := (l.filter (dirtyBad s p)).map fun a => (sectorPos s p a).sector / 64 + (sectorPos s p a).lineNo
    { s with sector := { s.sector with discarded := s.sector.discarded ++ (l.filter (recordUnreadable s p)).map fun a => a / 64
                                       badLines := s.sector.badLines.filter fun k => !mended.contains k } }

/-- The lines that a traverse discards: each reads as its value when the traverse began, or as one that a write routed to it
left there; which one is not defined (R236). -/
def discardLines (s : State) (p base bytes : Nat) (before : Mem) (routed : AMap (List (List Byte))) : State :=
  let g := s.gmem
  let cells := (memWindow before.cells base bytes).foldl (fun m c => memSet m c.1 c.2) (memErase g.cells base bytes)
  let bad := g.bad.filter fun k => !(decide (base ≤ k * 64) && decide (k * 64 < base + bytes))
  let s := discardErrors { s with gmem := { cells := cells, bad := bad } } p base bytes
  routed.foldl (fun s r =>
    if base ≤ r.1 * 64 ∧ r.1 * 64 < base + bytes then
      let c := memRead before.cells (r.1 * 64) 64 :: r.2
      let p := freshCount s
      { p.2 with gmem := memStore 64 p.2.gmem (r.1 * 64) (c.getD (Config.discardedChoice p.1 % c.length) []) }
    else s) s

/-- The monitors of a slot's page are dropped (R201, R234). -/
def dropPageMonitors (s : State) (x : TSlot) : State :=
  dropMonitors s fun _ m => decide (x.src ≤ m.pa) && decide (m.pa < x.src + pageBytes x.size)

/-- The rewritten leaf k of a page: the destination frame and tier, T clear, AF and D as they are (R234). -/
def landedLeaf (x : TSlot) (k now : Nat) : Nat :=
  let e := setBits now 51 12 (x.dst / 4096 + k)
  setBits (setBits e 11 10 (tierCode (tierOf x.dst))) 9 9 0

/-- A coherent compare-and-swap of a leaf that ignores AF and D, with its line read (R364): the state, and whether the leaf is now
the new one. -/
def swapLeaf (w : Who) (addr e : Nat) (f : Nat → Nat) (s : State) : State × Bool :=
  match tableRead s w addr 8 with
  | (s, none) => (s, false)
  | (s, some b) =>
    let new := f (ofBytes b)
    if bareLeaf (ofBytes b) = bareLeaf e then
      let s := tableWrite s w addr (toBytes 8 new)
      (s, entryNow s addr == new)
    else (s, false)

/-- The leaves rewritten in ascending order, as far as each still equals what it should: the state, and whether all did. -/
def swapLeaves (f : Nat → Nat → Nat) (w : Who) : List (Nat × Nat) → Nat → State → State × Bool
  | [], _, s => (s, true)
  | (addr, e) :: rest, k, s =>
    match swapLeaf w addr e (f k) s with
    | (s, true) => swapLeaves f w rest (k + 1) s
    | (s, false) => (s, false)

/-- Do the leaf entries still equal what MIGR set, ignoring AF and D? Each of their lines is read (R235, R364). -/
def leavesStand (w : Who) (l : List (Nat × Nat)) (s : State) : State × Bool :=
  ((l.map fun x => x.1 / 64 * 64).eraseDups).foldl (fun r a =>
    match tableRead r.1 w a 64 with
    | (s, some _) => (s, r.2 && (l.filter fun x => x.1 / 64 * 64 == a).all fun x => bareLeaf (entryNow s x.1) == bareLeaf x.2)
    | (s, none) => (s, false)) (s, true)

/-- Ring pages that a locked interface freezes stay frozen in the frames to which they move (R356). -/
def moveRings (s : State) (x : TSlot) : State :=
  let at_ (f : Nat) : Nat := if x.src / 4096 ≤ f ∧ f < x.src / 4096 + pageBytes x.size / 4096 then f - x.src / 4096 + x.dst / 4096 else f
  if (getPart s x.part).ringPages.isEmpty then s
  else modPart s x.part fun t => { t with ringPages := t.ringPages.map fun v => (v.1, v.2.map at_) }

/-- TRAVERSE_FINISH (R234): the leaves are rewritten, the token passes, monitors drop, the source lines are discarded, the slot
is freed and DONE posted, after the controllers have accepted every write (R364). A failing swap starts an abort with cause CHANGED; an
abort that a write of the token's starts goes on as one (R235). -/
def execTraverseFinish (engine slot : Nat) (s : State) : Host.Outcome State Fault Refusal :=
  runStep (fun s =>
    let x := getTSlot s engine slot
    if x.state ≠ .finishing then s
    else
      match swapLeaves (landedLeaf x) (whoSlot engine x) x.leaf 0 s with
      | (s, false) => abortSlot s engine slot 3
      | (s, true) =>
        let s := moveRings (passAll (slotToken x) s).1 x
        if (getTSlot s engine slot).state ≠ .finishing then s
        else
        let s := dropPageMonitors s x
        let x := getTSlot s engine slot
        let s := serveWrites (discardLines s x.part x.src (pageBytes x.size) x.srcBefore x.routed) fun _ => true
        postTraverse (setTSlot s engine slot {}) 0x10 engine slot x 0) s

/-- The modified lines copied back to the source; an unreadable one leaves the source line unreadable and counts in LOST
(R235). -/
def copyBack (e : Nat) (x : TSlot) (s : State) : State × Nat :=
  ((List.range (slotLines x)).filter fun j => x.modified.testBit j).foldl (fun (r : State × Nat) j =>
    let w := whoSlot e x
    match lineRead r.1 w (x.dst + 64 * j) 64 with
    | (s, some l) => (moveViews (lineBack s w (x.src + 64 * j) l) (x.dst + 64 * j) (x.src + 64 * j), r.2)
    | (s, none) => (poisonLine (moveViews s (x.dst + 64 * j) (x.src + 64 * j)) ((x.src + 64 * j) / 64), r.2 + 1)) (s, 0)

/-- TRAVERSE_ABORT (R235): a physical error at the destination (cause 1) starts an abort; an abort that has begun is carried
through: lines back, T cleared with a token, the destination discarded, ABORTED posted. The controllers have accepted the lines that are
back before COPIED is cleared, and every write before the message (R364). -/
def execTraverseAbort (engine slot cause : Nat) (s : State) : Host.Outcome State Fault Refusal :=
  runStep (fun s =>
    let x0 := getTSlot s engine slot
    let begins := (x0.state = .copying ∨ x0.state = .finishing) ∧ cause = 1
    let s := if begins then abortSlot s engine slot 1 else s
    let x := getTSlot s engine slot
    if x.state ≠ .aborting then s
    else
      let c := copyBack engine x s
      let r := (serveWrites c.1 fun _ => true, c.2)
      let x := { x with lost := x.lost + r.2, copied := 0, modified := 0 }
      let s := setTSlot r.1 engine slot x
      let w := whoSlot engine x
      let s := match leavesStand w x.leaf s with
        | (s, true) => (passAll (slotToken x) (swapLeaves (fun _ now => setBits now 9 9 0) w x.leaf 0 s).1).1
        | (s, false) => s
      let x := getTSlot s engine slot
      let s := dropPageMonitors s x
      let s := serveWrites (discardLines s x.part x.dst (pageBytes x.size) x.dstBefore x.routed) fun _ => true
      postTraverse (setTSlot s engine slot {}) 0x11 engine slot x x.cause) s

/-! ### MIGR (R238) -/

/-- Is a destination range bad (R238)? -/
def badDestination (s : State) (p dst bytes src : Nat) : Bool :=
  decide (dst % bytes ≠ 0) || !populated s p dst || !populated s p (dst + bytes - 1) ||
    decide (tierOf dst ≠ tierOf (dst + bytes - 1)) ||
    (match tierOf dst with
     | .hbm h => s.draining.contains (h, (dst - 0x100000000000) % 2 ^ 36 / 2 ^ 32)
     | _ => false) ||
    overlaps dst bytes src bytes ||
    s.engines.any fun e => e.2.slots.any fun x =>
      decide (x.2.state ≠ .free) && (overlaps dst bytes x.2.src (pageBytes x.2.size) || overlaps dst bytes x.2.dst (pageBytes x.2.size))

/-- A page that MIGR has found: engine, page address, size code, source, and the leaves' addresses and values. -/
structure PageFound where
  level : Nat
  va : Nat
  size : Nat
  src : Nat
  leaf : List (Nat × Nat)

/-- The page of a leaf: its size, its first byte and its entries (R238). -/
def pageOf (s : State) (w : Who) (va level addr e : Nat) : State × PageFound :=
  if level = 0 then
    match leafGroup s w va level addr e with
    | (s, some l) =>
      (s, { level := level, va := va / 65536 * 65536, size := 1, src := pteFrame (l.headD 0) * 4096
            leaf := (List.range 16).map fun k => (addr / 128 * 128 + 8 * k, l.getD k 0) })
    | (s, none) => (s, { level := level, va := va / 4096 * 4096, size := 0, src := pteFrame e * 4096, leaf := [(addr, e)] })
  else (s, { level := level, va := va / 2097152 * 2097152, size := 2, src := pteFrame e * 4096, leaf := [(addr, e)] })

/-- The lowest free slot of an engine. -/
def freeSlot (g : Engine) : Option Nat := (List.range 16).find? fun n => (amGet g.slots n {}).state == .free

/-- The owner that a MIGR gives its slot (R231). -/
def migrOwner (s : State) (t : ThreadRef) : Nat :=
  if isService t.core then t.core - serviceBase else designated s (getThread s t).part - serviceBase

/-- The start of a traverse: the slot taken, T set in the page's leaves, and whether every swap took; else T is cleared again in
those that did, and the slot stays free (R238). -/
def beginTraverse (s : State) (w : Who) (e n : Nat) (f : PageFound) (func dst owner : Nat) : State × Bool :=
  let l := f.leaf.map fun x => (x.1, setBits x.2 9 9 1)
  match swapLeaves (fun _ now => setBits now 9 9 1) w f.leaf 0 s with
  | (s, false) => ((swapLeaves (fun _ now => setBits now 9 9 0) w l 0 s).1, false)
  | (s, true) =>
    (setTSlot s e n
      { state := .starting, func := func, va := f.va, size := f.size, src := f.src, dst := dst, owner := owner, part := w.part
        leaf := l
        srcBefore := { cells := memWindow s.gmem.cells f.src (pageBytes f.size) }
        dstBefore := { cells := memWindow s.gmem.cells dst (pageBytes f.size) } }, true)

/-- The token that MIGR sends for the slot it has taken (R233, R238). -/
def migrToken (s : State) (e n : Nat) : Token := { slotToken (getTSlot s e n) with slot := some (e, n) }

/-- The operand checks of MIGR. -/
def migrOperands (x y : Word) : M Unit :=
  if fieldOf x 63 57 ≠ 0 ∨ 1 < fieldOf x 11 9 ∨ fieldOf x 8 7 ≠ 0 ∨ 64 < fieldOf x 6 0 then trapM causeAddress x
  else if fieldOf x 11 9 = 0 then
    (if fieldOf y 63 52 ≠ 0 ∨ fieldOf y 11 2 ≠ 0 ∨ fieldOf y 1 0 = 3 then trapM causeAddress y else pure ())
  else if y ≠ 0 then trapM causeAddress y
  else pure ()

/-- MIGR ABORT on a page (R238). -/
def migrAbort (d : Reg) (f : PageFound) (moving : Bool) : M Unit := do
  let s ← getS
  match (if moving then slotOf s (getThread s s.cur).part f.src else none) with
  | none => writeG d (migrWord 7 0 0)
  | some (e, n) =>
    let x := getTSlot s e n
    match x.state with
    | .aborting => writeG d (migrWord 8 n e)
    | .copying => do
      modS fun s => abortSlot s e n 4
      writeG d (migrWord 8 n e)
    | _ => writeG d (migrWord 10 n e)

/-- MIGR START on a page that passes its checks: in the deferred mode of a turn the token travels first (R238). `reads` is what the walk
has done to the state (R364). -/
def migrBegin (d : Reg) (f : PageFound) (func dst e n : Nat) (reads : State → State) : M Unit := do
  let s ← getS
  let w := whoThread s s.cur
  let go (s : State) : State × Bool := beginTraverse s w e n f func dst (migrOwner s s.cur)
  if !(go s).2 then do
    modS fun s => (go s).1
    writeG d (migrWord 9 0 0)
  else if s.defer then waitKeepM (.token s.nextToken) fun s => sendToken (go (reads s)).1 (migrToken (go (reads s)).1 e n)
  else do
    modS fun s => startCopying (passAll (migrToken (go s).1 e n) (go s).1).1 e n
    writeG d (migrWord 0 n e)

/-- MIGR START (R238). -/
def migrStart (d : Reg) (f : PageFound) (moving : Bool) (func : Nat) (y : Word) (reads : State → State) : M Unit := do
  let s ← getS
  let w := whoThread s s.cur
  let size := fieldOf y 1 0
  let dst := fieldOf y 51 12 * 4096
  let e := homeStack s w.part f.src
  if moving then writeG d (migrWord 2 0 0)
  else if f.size ≠ size then writeG d (migrWord 5 0 0)
  else if badDestination s w.part dst (pageBytes size) f.src then writeG d (migrWord 6 0 0)
  else
    match freeSlot (getEngine s e) with
    | none => writeG d (migrWord 1 0 0)
    | some n => migrBegin d f func dst e n reads

/-- The walk of MIGR: the leaf with its page, if there is one (R238). -/
def migrLeaf (s : State) (w : Who) (func va : Nat) : State × Option (Nat × Nat × PageFound) :=
  match queryLeaf s w func va with
  | (s, none) => (s, none)
  | (s, some (level, addr, e)) =>
    if level = 2 then (s, some (level, e, { level := level, va := va, size := 2, src := 0, leaf := [] }))
    else
      let r := pageOf s w va level addr e
      (r.1, some (level, e, r.2))

/-- MIGR on operands that pass their checks: the walk, and what its leaf gives (R238). -/
def migrWalk (d : Reg) (x y : Word) : M Unit := do
  let s ← getS
  let w := whoThread s s.cur
  let func := fieldOf x 6 0
  let va := fieldOf x 56 12 * 4096
  let reads (s : State) : State := (migrLeaf s w func va).1
  let found := (migrLeaf s w func va).2
  modS reads
  match found with
  | none => writeG d (migrWord 4 0 0)
  | some (level, e, f) =>
    if level = 2 then writeG d (migrWord 3 0 0)
    else if fieldOf x 11 9 = 1 then migrAbort d f (pteT e)
    else migrStart d f (pteT e) func y reads

/-- MIGR (R238). One whose token has passed gives the result that it began with. -/
def execMigr (d a b : Reg) (s : State) : Host.Outcome State Fault Refusal :=
  run4 (do
    requireSys (.migr d a b)
    withPorts [a, b] [] [d] [] do
      let x ← readG a
      let y ← readG b
      let me ← self
      match me.wait with
      | .tokenDone v => writeG d (BitVec.ofNat 64 v)
      | _ => do
        migrOperands x y
        migrWalk d x y) s

/-! ### Free frames and the command processor's own moves (R242, R244, R246) -/

/-- Is a range of a tier free: no leaf maps it, the command processor holds nothing there, and it is no bad destination (R238)? -/
def rangeFree (s : State) (p tier bytes src x : Nat) : Bool :=
  tierCode (tierOf x) == tier && !badDestination s p x bytes src && !(usedFrames s p).any fun g => overlaps x bytes g.1 g.2

/-- Where a free range of some bytes lies, if there is one: the lowest address that is the start of a tier's part, or the first multiple
after the end of something taken. -/
def rangeStarts (s : State) (p bytes src : Nat) : List Nat :=
  let taken := usedFrames s p ++ s.engines.flatMap fun e => e.2.slots.flatMap fun x =>
    [(x.2.src, pageBytes x.2.size), (x.2.dst, pageBytes x.2.size)]
  let layers := (List.range 128).map fun i => 0x100000000000 + i * 2 ^ 32
  let ports := (List.range 4).map fun q => 0x200000000000 + q * 2 ^ 42
  let starts := (getPart s p).lpbase * 2 ^ 30 :: layers ++ ports ++ (src + bytes) :: taken.map fun f => f.1 + f.2
  starts.map fun a => (a + bytes - 1) / bytes * bytes

/-- The heat tables of a partition, which the placement loop feeds into staging (R240, R343): windows with their words and starved
cycles, and pages with their counts. -/
def heatTables (s : State) (p : Nat) : List Nat :=
  (s.engines.filter fun e => ownsStack (getPart s p) e.1).flatMap (fun e => e.2.heat.flatMap fun h => [h.window, h.deliv, h.starve]) ++
    (s.slices.filter fun e => ownsStack (getPart s p) (stackOf (e.1 / 64))).flatMap fun e => e.2.gravity.flatMap fun g => [g.page, g.count]

/-- A free frame of a tier for a page: which one is open where several are free (R242, R343). -/
def freeFrame (s : State) (p hint : Nat) (f : PageFound) : State × Option Nat :=
  let bytes := pageBytes f.size
  let ok (x : Nat) : Bool := rangeFree s p hint bytes f.src x
  let chosen := (Config.freeFrame (heatTables s p) hint f.size s.fresh).bind fun x => if ok x then some x else none
  ({ s with fresh := s.fresh + 1 }, chosen.or ((rangeStarts s p bytes f.src).find? ok))

/-- Pieces of 64 KiB for the command processor, all of them free and in tiers of a mask, or none where there are not so many (R246). -/
def takeChunks (s : State) (p tiers : Nat) : Nat → List Nat → Option (List Nat)
  | 0, l => some l
  | n + 1, l =>
    let ok (x : Nat) : Bool := !l.contains x && [0, 1, 2].any fun t => tiers.testBit t && rangeFree s p t 65536 (2 ^ 52) x
    match (rangeStarts s p 65536 (2 ^ 52) ++ l.map fun x => x + 65536).find? ok with
    | some x => takeChunks s p tiers n (l ++ [x])
    | none => none

/-- Bytes written at an offset of an area of pieces. -/
def chunksWrite (s : State) (w : Who) (chunks : List Nat) (off : Nat) (l : List Byte) : State :=
  (piecesOf 65536 off l.length).foldl (fun s q =>
    engineWrite s w (chunks.getD (q.1 / 65536) 0 + q.1 % 65536) false ((l.drop (q.1 - off)).take q.2)) s

/-- An area of pieces as a memory of its own. -/
def chunksMem (s : State) (chunks : List Nat) : Mem :=
  { cells := (List.range chunks.length).flatMap fun i =>
      (memWindow s.gmem.cells (chunks.getD i 0) 65536).map fun c => (c.1 - chunks.getD i 0 + i * 65536, c.2)
    bad := (List.range (chunks.length * 1024)).filter fun k =>
      s.gmem.bad.contains ((chunks.getD (k / 1024) 0) / 64 + k % 1024) }

/-- The command processor's MIGR of a page to a frame: the token passes, and the slot begins to copy; false where a leaf has changed
meanwhile (R238, R242). -/
def stageMove (s : State) (w : Who) (e n : Nat) (f : PageFound) (dst : Nat) : State × Bool :=
  match beginTraverse s w e n f w.func dst (designated s w.part - serviceBase) with
  | (s, true) => (startCopying (passAll (migrToken s e n) s).1 e n, true)
  | (s, false) => (s, false)

/-! ### TQRY (R239) -/

/-- The SIZE code of a translation. -/
def sizeCode (bits : Nat) : Nat :=
  match bits with
  | 12 => 0
  | 16 => 1
  | 21 => 2
  | 25 => 3
  | _ => 4

/-- TQRY's answer for a translated line. -/
def tqryWord (s : State) (p pa bits : Nat) (moving : Bool) : Word :=
  let tier := tierCode (tierOf pa)
  let sc : Nat :=
    if tier = 1 ∧ s.scsize ≠ 0 then
      let q := sectorPos s p pa
      let r := sectorRecord s q.sector q.lineNo
      let hit := r.getLsbD 11 && fieldOf r 7 0 == q.tag
      fieldOf r 7 0 * 2 ^ 24 + bit (r.getLsbD 11) * 2 ^ 23 + bit (r.getLsbD 10) * 2 ^ 22 + bit hit * 2 ^ 21
    else 0
  let mv : Nat :=
    if moving then
      match slotOf s p pa with
      | some (e, n) =>
        let x := getTSlot s e n
        n * 2 ^ 12 + bit (x.copied.testBit ((pa - x.src) / 64)) * 2 ^ 11 + 2 ^ 10
      | none => 2 ^ 10
    else 0
  BitVec.ofNat 64 (sc + mv + sizeCode bits * 2 ^ 7 + tier)

/-- The line reads of a walk that a token has overtaken: it has read entries, and what it read is discarded (R214, R364). -/
def walkReads (s : State) (w : Who) (q va : Nat) : State := (queryWalk s w va (getQuad s q).walkCache).1

/-- TQRY's walk with its fills: no fault message, and AF and D stay as they are (R210, R211, R239). -/
def tqryWalk (s : State) (t : ThreadRef) (va : Nat) (fromRoot : Bool) : State × Option TlbEntry :=
  let w := whoThread s t
  let q := quadKey t.core
  let p := queryWalk s w va (if fromRoot then [] else (getQuad s q).walkCache)
  let s := fillWalkCache p.1 q p.2.2
  match p.2.1 with
  | none => (s, none)
  | some (level, addr, e) =>
    let g := leafGroup s w va level addr e
    let r : WalkReq := { who := w, va := va, needA := false }
    let x := match g.2 with
      | some l => leafEntry r (16 + 9 * level) e (pteFrame (l.headD 0)) (l.all pteD)
      | none => leafEntry r (12 + 9 * level) e (pteFrame e) (pteD e)
    (fillFromWalk g.1 (dieOf t.core) q x fun s => fillL1 s t.core false x, some x)

/-- TQRY's walk, at once or in its turn; one that a token has overtaken starts again at L4 (R214). -/
def tqryTurn (s : State) (t : ThreadRef) (va : Nat) : Option WalkJob → State × Option TlbEntry
  | none => tqryWalk s t va false
  | some j =>
    let q := quadKey t.core
    let late := j.gen != some (getQuad s q).gen
    let s := leaveWalks (if late then walkReads s (whoThread s t) q va else s) q j
    tqryWalk s t va (j.fromRoot || late)

/-- TQRY (R239). -/
def execTqry (d a : Reg) (s : State) : Host.Outcome State Fault Refusal :=
  run4 (withPorts [a] [] [d] [] do
    let x ← readG a
    if fieldOf x 63 57 ≠ 0 then trapM causeAddress x
    else do
      let s ← getS
      let me ← self
      let va := x.toNat
      let answer (s : State) (e : TlbEntry) : Word := if modeSys me || e.a then tqryWord s me.part (tlbPa e va) e.bits e.t else 3
      match cacheLookup s s.cur.core me.func va false false false with
      | (s1, some e) => do
        modS fun _ => s1
        writeG d (answer s1 e)
      | (_, none) =>
        let q := quadKey s.cur.core
        let turn := walkerJob s q fun j => j.threads.contains s.cur
        if turn.isNone && !walkerFree s q me.func va then waitKeepM (.query va) fun s => queueWalk s s.cur va
        else do
          let p := tqryTurn s s.cur va turn
          modS fun _ => turn.elim p.1 fun j => p.2.elim (walkUndecided j p.1) fun e => walkShared e j p.1
          writeG d (match p.2 with
            | some e => answer p.1 e
            | none => 3)) s

/-! ### Heat (R240, R241) -/

/-- A window's counts added to an engine's table of 512 entries (R240). -/
def heatAdd (g : Engine) (window deliv starve : Nat) : Engine :=
  let h := (g.heat.find? fun h => h.window == window).getD { window := window }
  let cap (x : Nat) : Nat := if x < 2 ^ 32 then x else 2 ^ 32 - 1
  { g with heat := ({ h with deliv := cap (h.deliv + deliv), starve := cap (h.starve + starve) } ::
      g.heat.filter fun h => h.window != window).take 512 }

/-- What a port adds to the table of its window's home stack, if it has read one (R240). -/
def reportHeat (s : State) (p : Nat) (window : Option Nat) (deliv starve : Nat) : State :=
  match window with
  | some w => if deliv = 0 ∧ starve = 0 then s else modEngine s (homeStack s p (w * 2 ^ 21)) fun g => heatAdd g w deliv starve
  | none => s

/-- The cycles in which a port reports what it has counted in a window that it has not changed. PRESUMED: every 4,096 reference cycles
from the module's reset, for all ports alike (log entry 33). -/
def heatReportDue (s : State) : Bool := s.cycle % 4096 == 0

/-- A copy channel, or a stream node's read generator, adds its counts to the table of the engine of its window's home stack, in mode 0
only (R240). -/
def heatReport (port channel : Nat) (s : State) : State :=
  if port < 8192 then
    let c := getChan s port channel
    let p := partOfCore s port
    let s1 := modChan s port channel fun c => { c with deliv := 0, starve := 0 }
    if (getPart s p).heatMode ≠ 0 then s else reportHeat s1 p c.heatWindow c.deliv c.starve
  else
    let w := getSwitch s port
    let c := w.reader
    let p := partOfStack s ((port - 16384) / 32 / 2)
    let s1 := setSwitch s port { w with reader := { c with deliv := 0, starve := 0 } }
    if (getPart s p).heatMode ≠ 0 then s else reportHeat s1 p c.heatWindow c.deliv c.starve

/-- HEAT_REPORT (R240): a port's report of a cycle in which reports are made. -/
def execHeatReport (port channel : Nat) (s : State) : Host.Outcome State Fault Refusal :=
  runStep (fun s => if heatReportDue s then heatReport port channel s else s) s

/-- The reports of a cycle, of every port that has counted, whether or not the agenda has named them (R240). -/
def heatReports (s : State) : State :=
  if heatReportDue s then
    let s := s.tiles.foldl (fun s k => k.2.chans.foldl (fun s c =>
      if c.2.deliv = 0 ∧ c.2.starve = 0 then s else heatReport k.1 c.1 s) s) s
    s.switches.foldl (fun s w => if w.1 < 8192 ∨ w.2.reader.deliv = 0 ∧ w.2.reader.starve = 0 then s else heatReport w.1 0 s) s
  else s

/-- A page's gravity (R240, R241). DESIGN CHOICE: the counts of every slice that holds lines of it are added, and the sums saturate as an
entry's do (log entry 33). -/
def gravityWord (s : State) (page : Nat) : Word :=
  let l := s.slices.flatMap fun x => x.2.gravity.filter fun g => g.page == page
  let cap (m x : Nat) : Nat := if x ≤ m then x else m
  BitVec.ofNat 64 (cap 65535 (l.map (·.count)).sum + 2 ^ 16 * cap 4095 (l.map (·.q0)).sum + 2 ^ 28 * cap 4095 (l.map (·.q1)).sum +
    2 ^ 40 * cap 4095 (l.map (·.q2)).sum + 2 ^ 52 * cap 4095 (l.map (·.q3)).sum)

/-- The partition's tables cleared: its engines' heat and its slices' gravity. -/
def clearHeat (s : State) (p : Nat) : State :=
  let t := getPart s p
  { s with engines := s.engines.map fun e => (e.1, if t.stackSet.testBit e.1 then { e.2 with heat := [] } else e.2)
           slices := s.slices.map fun x => (x.1, if t.stackSet.testBit (x.1 / 128) then { x.2 with gravity := [] } else x.2) }

/-- HEAT's result and effect for a well-formed operand, or none where the operand is not (R241). The table leaves A[7:4] of the two
reads open, which take no argument: a value other than zero counts as outside the table (log entry 38). -/
def heatOp (s : State) (p : Nat) (x : Word) : Option (State × Word) :=
  match fieldOf x 3 0 with
  | 0 =>
    let window := fieldOf x 51 21
    if fieldOf x 63 52 ≠ 0 ∨ fieldOf x 20 4 ≠ 0 ∨ !populated s p (window * 2 ^ 21) then none
    else
      let g := getEngine s (homeStack s p (window * 2 ^ 21))
      some (s, match g.heat.find? fun h => h.window == window with
        | some h => BitVec.ofNat 64 (h.starve * 2 ^ 32 + h.deliv)
        | none => 0)
  | 1 =>
    let page := fieldOf x 51 12
    if fieldOf x 63 52 ≠ 0 ∨ fieldOf x 11 4 ≠ 0 ∨ !populated s p (page * 4096) then none else some (s, gravityWord s page)
  | 2 =>
    if fieldOf x 63 5 ≠ 0 then none
    else some (modPart s p fun t => { t with heatMode := fieldOf x 4 4 }, BitVec.ofNat 64 (getPart s p).heatMode)
  | 3 => if fieldOf x 63 4 ≠ 0 then none else some (clearHeat s p, 0)
  | _ => none

/-- HEAT (R241). -/
def execHeat (d a : Reg) (s : State) : Host.Outcome State Fault Refusal :=
  run4 (do
    requireSys (.heat d a)
    withPorts [a] [] [d] [] do
      let x ← readG a
      let me ← self
      let s ← getS
      match heatOp s me.part x with
      | none => trapM causeAddress x
      | some (s1, v) => do
        modS fun _ => s1
        writeG d v) s

/-! ### The sector cache's own step (R227, R228) -/

/-- The partition in whose LPDDR6 range an address lies. -/
def lpddrPart (s : State) (pa : Nat) : Option Nat :=
  (List.range 4).find? fun p => tierOf pa == .lpddr && (getPart s p).exists_ && populated s p pa

/-- SECTOR_CACHE_ACCESS (R227, R228, R364): the controller serves the writes of a line's sector that slices have performed, in arrival
order; reads are served within the step that makes them. Or a record turns out unreadable. -/
def execSectorCacheAccess (pa : Nat) (write recordError : Bool) (s : State) : Host.Outcome State Fault Refusal :=
  runStep (fun s =>
    match lpddrPart s pa with
    | none => s
    | some p =>
      if recordError && decide (s.scsize ≠ 0) then
        let q := sectorPos s p pa
        let k := q.sector / 64 + q.lineNo
        if sectorDisabled s q.sector then s
        else
        let s := { s with sector := { s.sector with badRecords := k :: s.sector.badRecords.filter fun x => x != k } }
        postEngineError s p 4 (k * 64) (homePos s p pa) 0 0
      else if write && s.sector.pending.any fun x => x.1 == p && x.2 / 64 == pa / 64 then serveWrites s (sameSector s p pa)
      else s) s

/-! ### Layers taken offline (R243 to R246) -/

/-- How many bytes two ranges share. -/
def sharedBytes (a n b m : Nat) : Nat :=
  let lo := if a < b then b else a
  let hi := if a + n < b + m then a + n else b + m
  hi - lo

/-- The range of a layer of an HBM4E stack. -/
def layerBase (h l : Nat) : Nat := 0x100000000000 + h * 2 ^ 36 + l * 2 ^ 32

/-- Bytes in use within a range. -/
def usedIn (s : State) (p base bytes : Nat) : Nat := ((usedFrames s p).map fun f => sharedBytes f.1 f.2 base bytes).sum

/-- Bytes that the tiers a request permits can still take (R245, R246). -/
def freeCapacity (s : State) (p tiers : Nat) (without : Option (Nat × Nat)) : Nat :=
  let t := getPart s p
  let hbm := (onesBelow 8 (2 ^ 8 - 1)).map fun h =>
    if ownsStack t (h / 2) then
      ((List.range 16).map fun l =>
        if layerPresent s h l && some (h, l) != without && !s.draining.contains (h, l) then
          (if (l + 1) * 2 ^ 32 ≤ carveOutBase s then 2 ^ 32 else carveOutBase s - l * 2 ^ 32) - usedIn s p (layerBase h l) (2 ^ 32)
        else 0).sum
    else 0
  let lp := t.lpsize * 2 ^ 30 - usedIn s p 0 (2 ^ 41)
  let cxl := (onesBelow 4 t.cxlp).map fun q => cxlCapacity s q - usedIn s p (0x200000000000 + q * 2 ^ 42) (2 ^ 42)
  (if tiers.testBit 0 then hbm.sum else 0) + (if tiers.testBit 1 then lp else 0) + (if tiers.testBit 2 then cxl.sum else 0)

/-- Traverses into a draining layer abort with cause DSTERR (R244). -/
def abortInto (s : State) (h l : Nat) : State :=
  let hit := s.engines.flatMap fun e =>
    (e.2.slots.filter fun x =>
      decide (x.2.state ≠ .free ∧ x.2.state ≠ .aborting) && decide (layerBase h l ≤ x.2.dst) &&
        decide (x.2.dst < layerBase h l + 2 ^ 32)).map fun x => (e.1, x.1)
  hit.foldl (fun s k => abortSlot s k.1 k.2 1) s

/-- A page of a draining layer is traversed out, if a slot and a frame in a permitted tier are free. A page in motion stays with its
traverse, one whose frames another leaf also maps cannot move, and a 1 GiB leaf is never moved (R236, R238, R244). -/
def moveOut (p tiers : Nat) (s : State) (l : LeafAt) : State :=
  let w := whoCommand s p l.func
  match migrLeaf s w l.func l.va with
  | (s, none) => s
  | (s, some (level, e, f)) =>
    let shared := (partLeaves s p).any fun x => !(f.leaf.any fun y => y.1 == x.addr) && overlaps f.src (pageBytes f.size) (leafBase x) (leafBytes x)
    let g := homeStack s p f.src
    if pteT e ∨ level = 2 ∨ shared then s
    else
      match freeSlot (getEngine s g), (([0, 1, 2].filter tiers.testBit).map fun t => (freeFrame s p t f).2).findSome? id with
      | some n, some dst => (stageMove { s with fresh := s.fresh + 1 } w g n f dst).1
      | _, _ => s

/-- Every page with frames in a draining layer is traversed out (R244). -/
def drainLayer (s : State) (p h l tiers : Nat) : State :=
  ((partLeaves s p).filter fun x => overlaps (leafBase x) (leafBytes x) (layerBase h l) (2 ^ 32)).foldl (moveOut p tiers) s

/-- OFFREQ_LAYER (R244 to R246): the write, then the capacity check; a layer that passes starts to drain, and its pages move out as
slots come free. -/
def execOffreqLayer (part : Nat) (value : Word) (s : State) : Host.Outcome State Fault Refusal :=
  runStep (fun s =>
    let s := if fieldOf value 15 12 = 1 then offreqWrite s part value else s
    match (getPart s part).offReq with
    | some (1, h, l, tiers) =>
      if s.draining.contains (h, l) then drainLayer s part h l tiers
      else if freeCapacity s part tiers (some (h, l)) < usedIn s part (layerBase h l) (2 ^ 32) then
        modPart s part fun t => { t with offStatus := 3, offReq := none }
      else drainLayer (abortInto { s with draining := s.draining ++ [(h, l)] } h l) part h l tiers
    | _ => s) s

/-- The carve-out sectors of a range that have a record, or one that cannot be read. -/
def sectorsIn (s : State) (base bytes : Nat) : List Nat :=
  ((s.sector.records.map (·.1) ++ s.sector.badRecords).map fun k => k / 32 * 2048).eraseDups.filter fun a =>
    decide (base ≤ a) && decide (a < base + bytes)

/-- The carve-out sectors of a layer. -/
def layerSectors (s : State) (h l : Nat) : List Nat := sectorsIn s (layerBase h l) (2 ^ 32)

/-- The place in the sector cache of a carve-out sector of stack h, under the tag of its records (R225). -/
def sectorAt (s : State) (h a : Nat) : SectorPos :=
  { stack := h / 2
    tag := fieldOf (sectorRecord s a 0) 7 0
    index := 2 * ((a - 0x100000000000 - h * 2 ^ 36 - carveOutBase s) / 2048) + h % 2
    sector := a
    lineNo := 0 }

/-- A sector writes back its dirty lines, their errors with them, and holds nothing afterwards (R227, R228). -/
def emptySector (p h : Nat) (s : State) (a : Nat) : State :=
  let wb := (dirtyLines s a).length
  let q := sectorAt s h a
  let s := mendLines (carryErrors s q q.tag) (a / 64) 32
  let s := if wb = 0 then s else bumpSector s p (h / 2) .wb wb
  (List.range 32).foldl (fun s l => setSectorRecord s a l 0) s

/-- A sector of a layer that goes is emptied, and its unreadable records with it; with its layer it is disabled (R244). -/
def disableSector (p h : Nat) (s : State) (a : Nat) : State :=
  let t := emptySector p h s a
  { t with sector := { t.sector with badRecords := t.sector.badRecords.filter fun k => k / 32 != a / 2048 } }

/-- LAYER_REMOVED (R244): a drained layer without mapped frames and without a traverse leaves the address space. -/
def execLayerRemoved (part : Nat) (s : State) : Host.Outcome State Fault Refusal :=
  runStep (fun s =>
    match (getPart s part).offReq with
    | some (1, h, l, _) =>
      let busy := s.engines.any fun e => e.2.slots.any fun x =>
        decide (x.2.state ≠ .free) && (overlaps x.2.src (pageBytes x.2.size) (layerBase h l) (2 ^ 32) ||
          overlaps x.2.dst (pageBytes x.2.size) (layerBase h l) (2 ^ 32))
      if !s.draining.contains (h, l) || busy || decide (usedIn s part (layerBase h l) (2 ^ 32) ≠ 0) then s
      else
        let s := serveWrites s fun _ => true
        let s := (layerSectors s h l).foldl (disableSector part h) s
        let s := { s with layers := amInsert s.layers h (setBits (amGet s.layers h 0) l l 0)
                          draining := s.draining.filter fun x => x != (h, l) }
        let s := modPart s part fun t => { t with offStatus := 1, offReq := none }
        let s := postMail s part (designated s part)
          [BitVec.ofNat 64 (0x12 + 2 ^ 8 * h + 2 ^ 12 * l), ctlRead s part (0x440 + 8 * h), 0, 0]
        raiseVector s part 0 2
    | _ => s) s

end Sys2Proof.Machine
end

