-- ==== Sys2Proof/Machine/Copy.lean ====
section
/-! DEFINITION. Memory-tile personalities and copy channels: MTCFG, CPY, CPYM, CPYQ, WPRD, WPWAIT and the channel's own steps
(R165 to R178, R213). -/
namespace Sys2Proof.Machine

/-! ### Personalities (R165 to R167) -/

/-- A little-endian number in a block of bytes. -/
def numAt (l : List Byte) (off n : Nat) : Nat := ofBytes ((l.drop off).take n)

/-- Are the bytes of a range all zero? -/
def zeroAt (l : List Byte) (off n : Nat) : Bool := ((l.drop off).take n).all fun b => b == 0

/-- The buffers of a personality block. -/
def parseBuffers (l : List Byte) (nbuf : Nat) : List Buffer :=
  (List.range nbuf).map fun b => { base := numAt l (8 + 12 * b) 4, size := numAt l (12 + 12 * b) 4, tag := numAt l (16 + 12 * b) 1 }

/-- Is a buffer within the SRAM and aligned, with a defined tag? -/
def bufferOk (b : Buffer) : Bool :=
  b.base % 32 == 0 && b.size % 32 == 0 && decide (b.size ≠ 0) && decide (b.base + b.size ≤ 786432) && decide (b.tag ≤ 0x16)

/-- Do two buffers of a list overlap? -/
def buffersOverlap : List Buffer → Bool
  | [] => false
  | b :: rest => rest.any (fun c => overlaps b.base b.size c.base c.size) || buffersOverlap rest

/-- A personality block, or none where it is refused (R165). -/
def parsePersonality (l : List Byte) : Option Personality :=
  let pers := numAt l 0 1
  let nbuf := numAt l 1 1
  let feed := numAt l 2 1
  let chmask := numAt l 3 1
  let lineb := numAt l 56 4
  let nread := numAt l 60 1
  let bufs := parseBuffers l nbuf
  let shape : Bool :=
    match pers with
    | 0 => nbuf == 0 && feed == 0 && zeroAt l 8 56
    | 1 => decide (1 ≤ nbuf ∧ nbuf ≤ 4) && lineb == 0 && nread == 0
    | 2 => nbuf == 1 && lineb == 0 && nread == 0
    | 3 => nbuf == 1 && decide (lineb ≠ 0) && lineb % 32 == 0 && decide (1 ≤ nread ∧ nread ≤ 4)
    | _ => false
  let ok := shape && decide (feed ≤ 4) && decide (chmask < 16) && zeroAt l 4 4 && zeroAt l 61 3 &&
    (List.range nbuf).all (fun b => zeroAt l (17 + 12 * b) 3) && bufs.all bufferOk && !buffersOverlap bufs &&
    (pers != 3 || bufs.all fun b => b.size % lineb == 0) && (feed == 0 || chmask.testBit (feed - 1))
  if ok then some { pers := pers, feed := feed, chmask := chmask, bufs := bufs, lineb := lineb, nread := nread } else none

/-- A personality installed: the counters as R166 gives. -/
def installPersonality (m : MemTile) (p : Personality) : MemTile :=
  { m with pers := p, written := []
           read := if p.pers = 3 then (List.range p.nread).map fun j => (j, j * p.lineb) else [] }

/-- Is every channel of a memory tile idle? DESIGN CHOICE: a channel whose ERR stands is not, though its queue be empty (R167, R172; log
entry 40). -/
def channelsIdle (m : MemTile) : Bool := m.chans.all fun c => c.2.queue.isEmpty && c.2.active.isNone && !c.2.err

/-- The segment of a region on a twin stack (R140). -/
def segmentOf (r : Region) (stack : Nat) : Segment := amGet r.segments stack {}

/-- The memory tile that a kind-1 address with OFF zero names (R167). -/
def tileOf (s : State) (b : Word) : Option Nat :=
  if isLocal b && localKind b == 1 then
    match resolve s s.cur b 1 with
    | .loc (.sram k) 0 => some k
    | _ => none
  else none

/-- MTCFG (R167). -/
def execMtcfg (a b : Reg) (s : State) : Host.Outcome State Fault Refusal :=
  run8 (do
    requireSys (.mtcfg a b)
    withPorts [a, b] [] [] [] do
      let x ← readG a
      let y ← readG b
      if x.toNat % 64 ≠ 0 then trapM causeAlignment x
      else do
        let s ← getS
        match tileOf s y with
        | none => trapM causeAddress y
        | some k =>
          loadBytes x 64 x fun l =>
            match parsePersonality l with
            | none => trapM causeAddress x
            | some p => do
              let s ← getS
              let running := (threadRegion s s.cur).any fun r => (segmentOf r (stackOf (dieOf k))).running
              if !channelsIdle (getTile s k) || running then waitM .condition
              else modS fun s =>
                modSwitch (setTile s k (installPersonality (getTile s k) p)) k fun w => { w with adapter := [], adapterHalf := none }) s

/-! ### Descriptors (R170) -/

/-- The signed strides of a descriptor. -/
def stridesAt (l : List Byte) (off n : Nat) : List Int := (List.range n).map fun k => toSigned 48 (numAt l (off + 16 * k) 6)

/-- A descriptor of a copy or of a stream node, or none where it breaks R170; byte 23 is the caller's to check. -/
def parseDesc (l : List Byte) : Option CopyDesc :=
  let ndim := numAt l 20 1
  let flags := numAt l 21 1
  let count0 := numAt l 16 4
  let k := ndim - 1
  let counts := (List.range k).map fun i => numAt l (32 + 16 * i) 4
  let follow := flags == 1
  let ok := decide (1 ≤ count0 ∧ count0 ≤ 2 ^ 24) && decide (1 ≤ ndim ∧ ndim ≤ 6) && decide (flags ≤ 1) && zeroAt l 22 1 &&
    counts.all (fun c => decide (1 ≤ c ∧ c ≤ 65536)) && zeroAt l (32 + 16 * k) (80 - 16 * k) && zeroAt l 112 16 &&
    (follow || zeroAt l 24 8)
  if ok then
    some { src := wordOf (l.take 8), dst := wordOf ((l.drop 8).take 8), count0 := count0, ndim := ndim, follow := follow
           tag := numAt l 23 1, fw0 := numAt l 24 4, fw1 := numAt l 28 4, counts := counts
           sstrides := stridesAt l 36 k, dstrides := stridesAt l 42 k }
  else none

/-- The bytes that a descriptor moves. -/
def descTotal (d : CopyDesc) : Nat := d.counts.foldl (fun n c => n * c) d.count0

/-- The offset of run r along its dimensions, i1 fastest (R171). -/
def runOffset : List Nat → List Int → Nat → Int
  | c :: cs, st :: sts, r => ((r % c : Nat) : Int) * st + runOffset cs sts (r / c)
  | _, _, _ => 0

/-- The address of byte number b of one side of a descriptor. -/
def descAddr (base : Word) (d : CopyDesc) (strides : List Int) (b : Nat) : Word :=
  base + BitVec.ofInt 64 (runOffset d.counts strides (b / d.count0)) + BitVec.ofNat 64 (b % d.count0)

/-- The lowest and the highest offset that a side reaches. -/
def sideExtent (d : CopyDesc) (strides : List Int) : Int × Int :=
  (d.counts.zip strides).foldl (fun (e : Int × Int) p =>
    let span := ((p.1 - 1 : Nat) : Int) * p.2
    (e.1 + (if span < 0 then span else 0), e.2 + (if 0 < span then span else 0))) (0, (d.count0 : Int))

/-- Is a side global, or local of kind 0, 1 or 2 with its whole extent in its object (R170, R174)? -/
def sideOk (s : State) (t : ThreadRef) (base : Word) (d : CopyDesc) (strides : List Int) : Bool :=
  if isLocal base then
    let e := sideExtent d strides
    let off : Int := (fieldOf base 38 0 : Nat)
    arrayKind base && decide (0 ≤ off + e.1) && decide (off + e.2 ≤ 2 ^ 39 - 1) &&
      (match resolve s t (base + BitVec.ofInt 64 e.1) (e.2 - e.1).toNat with
       | .loc _ _ => true
       | _ => false)
  else isGlobal base

/-! ### Designators (R174, R177) -/

/-- The tile and channel that a designator names, if the channel is bound. -/
def channelOf (s : State) (t : ThreadRef) (b : Word) : Option (Nat × Nat) :=
  if isLocal b && localKind b == 3 then
    match resolve s t b 8 with
    | .loc (.regs k) off => if off % 64 = 0 ∧ (getTile s k).pers.chmask.testBit (off / 64) then some (k, off / 64) else none
    | _ => none
  else none

/-- The channel of a designator, or the Address trap. -/
def needChannel (b : Word) : M (Nat × Nat) := do
  let s ← getS
  match channelOf s s.cur b with
  | some c => pure c
  | none => trapM causeAddress b

/-! ### Issue (R174 to R176) -/

/-- The follow-on of a CPYM with its registers read and its checks made (R174, R175). -/
def followOn (a : Word) (d : CopyDesc) : M MKind :=
  match decodeWords (BitVec.ofNat 32 d.fw0) (BitVec.ofNat 32 d.fw1) with
  | .ok (.mma fd fa fb acc kg af bf sa sb asl bsl) => do
    requireLicence
    withPorts [fa, fb, fd] [] [] [] do
      let x ← readG fa
      let y ← readG fb
      let ts ← readScale fd
      operandAligned x
      operandAligned y
      operandInside x (operandA af.toNat kg.toNat)
      operandInside y (operandB bf.toNat kg.toNat)
      pure (.mma acc.toNat kg.toNat af.toNat bf.toNat (sa == 1) (sb == 1) asl.toNat bsl.toNat x y ts)
  | .ok (.mmac fd src fb acc kg af bf sa sb asl bsl) => do
    requireLicence
    withPorts [fb, fd] [] [] [] do
      let y ← readG fb
      let ts ← readScale fd
      if y.toNat % 64 ≠ 0 then trapM causeAddress y else operandInside y (operandB bf.toNat kg.toNat)
      pure (.mmac acc.toNat src.toNat kg.toNat af.toNat bf.toNat (sa == 1) (sb == 1) asl.toNat bsl.toNat y ts)
  | _ => trapM causeAddress a

/-- Is a CPYQ of the thread for this channel still in its combining node (R176)? -/
def heldForChannel (s : State) (t : ThreadRef) (b : Word) : Bool :=
  let q := getQuad s (quadKey t.core)
  (q.held.any fun h => h.designator == b && h.cmds.any (copyFrom t)) ||
    q.entering.any fun e => e.1 == b && (copyFrom t e.2 || e.2.targets.contains t)

/-- Room in a channel's queue (R174). -/
def channelRoom (s : State) (k c : Nat) : Bool := decide ((getChan s k c).queue.length < 8)

/-- A command enters a channel's queue. -/
def enqueueCopy (s : State) (k c : Nat) (x : CopyCmd) : State := modChan s k c fun ch => { ch with queue := ch.queue ++ [{ x with acceptedAt := s.cycle }] }

/-- The descriptor of a copy form, checked (R174). -/
def copyDescriptor (a : Word) (l : List Byte) (fol : Bool) : M CopyDesc := do
  let s ← getS
  match parseDesc l with
  | some d =>
    if d.tag = 0 ∧ d.follow = fol ∧ sideOk s s.cur d.src d d.sstrides ∧ sideOk s s.cur d.dst d d.dstrides then pure d
    else trapM causeAddress a
  | none => trapM causeAddress a

/-- The checks and the descriptor of a copy form, up to its place in the queue. -/
def startCopy (x y : Word) (mask : Option Nat) (fol : Bool) (k : Nat × Nat → List Byte → CopyDesc → Option MKind → M Unit) : M Unit :=
  if x.toNat % 128 ≠ 0 then trapM causeAlignment x
  else do
    let c ← needChannel y
    let core ← selfCore
    match mask with
    | some m => if m.testBit (qcoreOf core) then pure () else trapM causeAddress y
    | none => pure ()
    loadBytes x 128 x fun l => do
      let d ← copyDescriptor x l fol
      let f ← (if fol then do
        let k ← followOn x d
        pure (some k) else pure none)
      let s ← getS
      if heldForChannel s s.cur y then waitM .combining else k c l d f

/-- A command of the executing thread. -/
def copyCmd (s : State) (d : CopyDesc) (raw : List Byte) (id : BitVec 8) (f : Option MKind) : CopyCmd :=
  { desc := d, raw := raw, id := id.toNat, core := s.cur.core, slot := s.cur.slot, targets := [s.cur], issuedAt := s.cycle, follow := f }

/-- CPY and CPYM: into the channel's queue, or a wait while it is full. -/
def issueCopy (a b : Reg) (id : BitVec 8) (fol : Bool) : M Unit :=
  withPorts [a, b] [] [] [] do
    let x ← readG a
    let y ← readG b
    startCopy x y none fol fun c l d f => do
      let s ← getS
      if channelRoom s c.1 c.2 then modS fun s => enqueueCopy s c.1 c.2 (copyCmd s d l id f) else waitM .copyQueue

/-- CPY (R174). -/
def execCpy (a b : Reg) (id : BitVec 8) (s : State) : Host.Outcome State Fault Refusal := run8 (issueCopy a b id false) s

/-- CPYM (R174, R175). -/
def execCpym (a b : Reg) (id : BitVec 8) (s : State) : Host.Outcome State Fault Refusal := run8 (issueCopy a b id true) s

/-! ### The combining node (R176) -/

/-- The commands that a node has released enter their channels in order, as far as there is room. -/
def drainNode (s : State) (quad : Nat) : State :=
  let q := getQuad s quad
  match q.entering with
  | [] => s
  | l =>
    let r := l.foldl (fun (r : State × List (Word × CopyCmd)) e =>
      let t : ThreadRef := { core := e.2.core, slot := e.2.slot }
      match resolveIn (coreRegion r.1 t.core) t.core e.1 8 with
      | .loc (.regs k) off =>
        if channelRoom r.1 k (off / 64) && r.2.all (fun x => x.1 != e.1) then (enqueueCopy r.1 k (off / 64) e.2, r.2) else (r.1, r.2 ++ [e])
      | _ => (r.1, r.2)) (s, [])
    modQuad r.1 quad fun q => { q with entering := r.2 }

/-- The same for every node that has released commands. -/
def drainNodes (s : State) : State := s.quads.foldl (fun s q => if q.2.entering.isEmpty then s else drainNode s q.1) s

/-- A set leaves the node as separate commands in ascending QCORE order. -/
def releaseSet (q : Quad) (h : HeldSet) : Quad :=
  let inOrder := (List.range 4).flatMap fun i => h.cmds.filter fun c => qcoreOf c.core == i
  { q with held := q.held.filter fun x => x.designator != h.designator
           entering := q.entering ++ inOrder.map fun c => (h.designator, c) }

/-- A set in which every core of the mask has its command becomes one command for all their destinations. -/
def mergeSet (q : Quad) (h : HeldSet) : Quad :=
  let inOrder := (List.range 4).flatMap fun i => h.cmds.filter fun c => qcoreOf c.core == i
  match inOrder with
  | c :: _ =>
    let served : List ThreadRef := inOrder.map fun c => { core := c.core, slot := c.slot }
    let first := inOrder.foldl (fun m c => min m c.issuedAt) c.issuedAt
    { q with held := q.held.filter fun x => x.designator != h.designator
             entering := q.entering ++ [(h.designator, { c with targets := served, issuedAt := first })] }
  | [] => q

/-- Does a CPYQ match a held set? -/
def matchesSet (h : HeldSet) (mask : Nat) (x : CopyCmd) : Bool :=
  h.mask == mask && h.cmds.all (fun c => c.raw == x.raw && c.id == x.id) && !(h.cmds.any fun c => c.core == x.core)

/-- The node with a set put in or replaced; a complete set is merged at once. -/
def holdSet (q : Quad) (h : HeldSet) : Quad :=
  let q := { q with held := q.held.filter (fun x => x.designator != h.designator) ++ [h] }
  if (onesBelow 4 h.mask).all fun i => h.cmds.any fun c => qcoreOf c.core == i then mergeSet q h else q

/-- A CPYQ opens a set, or passes alone when eight sets are held. -/
def openSet (q : Quad) (b : Word) (mask : Nat) (x : CopyCmd) : Quad :=
  if 8 ≤ q.held.length then { q with entering := q.entering ++ [(b, x)] }
  else holdSet q { designator := b, mask := mask, opened := q.ticks, cmds := [x] }

/-- A CPYQ arrives at its node. -/
def combine (q : Quad) (b : Word) (mask : Nat) (x : CopyCmd) : Quad :=
  if isLocal x.desc.src && (localKind x.desc.src == 0 || localKind x.desc.src == 2) then { q with entering := q.entering ++ [(b, x)] }
  else
    match q.held.find? fun h => h.designator == b with
    | some h => if decide (q.ticks < h.opened + 1024) && matchesSet h mask x then holdSet q { h with cmds := h.cmds ++ [x] } else openSet (releaseSet q h) b mask x
    | none => openSet q b mask x

/-- CPYQ (R176). -/
def execCpyq (a b : Reg) (mask : BitVec 4) (id : BitVec 8) (s : State) : Host.Outcome State Fault Refusal :=
  run8 (withPorts [a, b] [] [] [] do
    let x ← readG a
    let y ← readG b
    startCopy x y (some mask.toNat) false fun _ l d f =>
      modS fun s => drainNode (modQuad s (quadKey s.cur.core) fun q => combine q y mask.toNat (copyCmd s d l id f)) (quadKey s.cur.core)) s

/-- CPYQ_SET_RELEASE (R176): a set that is not complete 1,024 cycles of the quad after it was opened leaves as separate commands (R335). -/
def execCpyqSetRelease (quad : Nat) (designator : Word) (s : State) : Host.Outcome State Fault Refusal :=
  runStep (fun s =>
    match (getQuad s quad).held.find? fun h => h.designator == designator with
    | some h => if h.opened + 1024 ≤ (getQuad s quad).ticks then drainNode (modQuad s quad fun q => releaseSet q h) quad else s
    | none => s) s

/-- At the start of a cycle every set that is overdue is released, whether or not the agenda names it (R176). -/
def releaseSets (s : State) : State :=
  s.quads.foldl (fun s e =>
    match e.2.held.filter fun h => decide (h.opened + 1024 ≤ e.2.ticks) with
    | [] => s
    | l => drainNode (modQuad s e.1 fun q => l.foldl releaseSet q) e.1) s

/-! ### WPRD and WPWAIT (R177) -/

/-- WPRD (R177). -/
def execWprd (d a : Reg) (s : State) : Host.Outcome State Fault Refusal :=
  run4 (withPorts [a] [] [d] [] do
    let x ← readG a
    let c ← needChannel x
    let s ← getS
    writeG d (getChan s c.1 c.2).wptr) s

/-- A cycle in which a thread waits for a channel counts in STARVE in mode 0, for the window that the channel reads (R240). -/
def countStarve (s : State) (k c : Nat) : State :=
  if (getPart s (partOfCore s k)).heatMode = 0 ∧ (getChan s k c).heatWindow.isSome ∧ (getChan s k c).starveAt ≠ some s.cycle then
    modChan s k c fun x => { x with starve := x.starve + 1, starveAt := some s.cycle }
  else s

/-- The channels on which a thread waits in a cycle count it (R240). -/
def countStarves (s : State) : State :=
  s.cores.foldl (fun s c => c.2.slots.foldl (fun s x =>
    match x.2.slotState, x.2.wait with
    | .live, .wpwait k ch => countStarve s k ch
    | _, _ => s) s) s

/-- WPWAIT (R177). -/
def execWpwait (a b : Reg) (s : State) : Host.Outcome State Fault Refusal :=
  run4 (withPorts [a, b] [] [] [] do
    let x ← readG a
    let y ← readG b
    let c ← needChannel x
    let s ← getS
    if y.toNat ≤ (getChan s c.1 c.2).wptr.toNat then pure () else waitM (.wpwait c.1 c.2)) s

/-! ### Translation of generators (R213) -/

/-- How a piece of a copy ends. -/
inductive PieceEnd where
  | ok (l : List Byte)
  | abort (code : Nat) (addr : Word)
  | stall (va : Nat) (write : Bool) (cause level entry : Nat)
  | walkersBusy
  deriving DecidableEq, Repr

/-- The region that a tile's engines serve, as requester. -/
def whoTile (s : State) (k : Nat) : Who :=
  match coreRegion s k with
  | some r => { part := r.part, die := dieOf k, func := r.func, inst := r.inst }
  | none => { part := partOfCore s k, die := dieOf k }

/-- How a copy channel's translation ends: a translation, a failed walk, or a miss that waits for a walker (R212). -/
inductive ChanXlate where
  | ok (e : TlbEntry)
  | fault (cause level entry : Nat)
  | walkersBusy
  deriving DecidableEq, Repr

/-- The position of a copy channel, the engine of its tile (R41, R147). -/
def enginePos (k : Nat) : Nat := dstPos (dieOf k) (rowOf k) (colOf k) 2

/-- A translation fault stalls the channel, which posts its message (R172, R217). -/
def stallCopy (s : State) (k c va : Nat) (write : Bool) (cause level entry : Nat) : State :=
  let w := whoTile s k
  let seq := (getChan s k c).seq + 1
  let s := modChan s k c fun ch => { ch with stalled := some (BitVec.ofNat 64 va), seq := seq, walking := none }
  postMail s w.part (designated s w.part)
    [faultHead cause level write false true false 2 (getQuad s (quadKey k)).gen.toNat w.func, BitVec.ofNat 64 va, BitVec.ofNat 64 entry,
     handleWord (enginePos k) c seq]

/-- A walk that failed for one access fails for every thread that shares it and asks for the same; the others look up again (R206,
R217). -/
def walkLost (r : WalkReq) (gen cause level entry : Nat) (s : State) (t : ThreadRef) : State :=
  match (getThread s t).wait with
  | .walk va write fetch coh =>
    let x := threadReq s t va write fetch
    if x.write = r.write ∧ x.fetch = r.fetch ∧ x.needA = r.needA then
      let p := walkFailed s t va write fetch coh gen cause level entry
      modThread p.1 t fun y => { y with wait := p.2 }
    else walkAgain s t
  | _ => s

/-- The same for a copy channel that shares it. -/
def chanLost (r : WalkReq) (cause level entry : Nat) (s : State) (p : WalkPort) : State :=
  if p.write = r.write ∧ !r.fetch ∧ r.needA then stallCopy s p.port p.chan p.va p.write cause level entry else chanFound none s p

/-- The end of a walk for all that share it but one (R206, R210): `others` are they. -/
def walkEnds (r : WalkReq) (gen : Nat) (others : WalkJob) (e : WalkEnd) (s : State) : State :=
  match e with
  | .ok x => walkShared x others s
  | .fault c l n => others.ports.foldl (chanLost r c l n) (others.threads.foldl (walkLost r gen c l n) s)

/-- WALK_END (R206, R210, R212, R214): a walk that has a walker fills the caches for all that share it, restarts at L4 because a token
has passed, though it has read its entries (R364), or ends in fault messages; the walker takes the oldest waiting walk. -/
def execWalkEnd (core slot : Nat) (s : State) : Host.Outcome State Fault Refusal :=
  runStep (fun s =>
    let t : ThreadRef := { core := core, slot := slot }
    let q := quadKey core
    let now := (getQuad s q).gen
    match (getThread s t).wait, walkerJob s q fun j => j.threads.contains t with
    | .walk va write fetch _, some j =>
      if j.gen = some now then
        let p := threadWalk (leaveWalks s q j) t va write fetch j.fromRoot
        walkEnds (threadReq s t va write fetch) now.toNat j p.2 p.1
      else modQuad (walkReads s (whoThread s t) q va) q fun y =>
        { y with walks := (startWalks now (pendingWalks s q)).map fun x => if sameWalk j x then { x with gen := some now, fromRoot := true } else x }
    | _, _ => s) s

/-- A channel's walk by a walker of its quad, with its fills (R210 to R213). -/
def chanWalk (s : State) (k c va : Nat) (write fromRoot : Bool) : State × WalkEnd :=
  let q := quadKey k
  let p := walk s { who := whoTile s k, va := va, write := write } (if fromRoot then [] else (getQuad s q).walkCache)
  let s := fillWalkCache p.1 q p.2.2
  match p.2.1 with
  | .ok e => (fillFromWalk s (dieOf k) q e fun s => chanFound (some e) s { port := k, chan := c }, .ok e)
  | f => (chanFound none s { port := k, chan := c }, f)

/-- A channel's walk whose turn has come: one that a token has overtaken has read its entries and starts again at L4 (R214, R364). -/
def chanWalkTurn (s : State) (k c va : Nat) (write : Bool) (j : WalkJob) : State × WalkEnd :=
  let q := quadKey k
  let late := j.gen != some (getQuad s q).gen
  let s := leaveWalks (if late then walkReads s (whoTile s k) q va else s) q j
  chanWalk s k c va write (j.fromRoot || late)

/-- A channel's translation: its latches, the quad's L2 TLB, the die's LLTC, a walk in its turn among the quad's (R210 to R213). -/
def chanXlate (s : State) (k c : Nat) (va : Nat) (write : Bool) : State × ChanXlate :=
  let w := whoTile s k
  let q := quadKey k
  let me : WalkPort := { port := k, chan := c, va := va, write := write }
  let ok (l : List TlbEntry) : Option TlbEntry := (tlbFind w.func va l).filter (tlbPermits write false true)
  let latch (s : State) (e : TlbEntry) : State := chanFound (some e) s me
  let ends (p : State × WalkEnd) (others : WalkJob) : State × ChanXlate :=
    let s' := walkEnds { who := w, va := va, write := write } (getQuad s q).gen.toNat others p.2 p.1
    match p.2 with
    | .ok e => (s', .ok e)
    | .fault cause level entry => (s', .fault cause level entry)
  match ok (getChan s k c).latch with
  | some e => (latch s e, .ok e)
  | none =>
    match ok (getQuad s q).l2 with
    | some e => (latch (fillL2 s q e) e, .ok e)
    | none =>
      match ok (getLltc s (dieOf k)).entries with
      | some e => (fillFromLltc s (dieOf k) q e fun s => latch s e, .ok e)
      | none =>
        match walkerJob s q fun j => j.ports.contains me with
        | some j =>
          ends (chanWalkTurn s k c va write j)
            { j with ports := j.ports.filter fun p => p != me }
        | none =>
          if walkerFree s q w.func va then ends (chanWalk s k c va write false) {}
          else
            (queueMiss (modChan s k c fun ch => { ch with walking := some va }) q { func := w.func, page := va / 4096, ports := [me] },
             .walkersBusy)

/-! ### Pieces (R171) -/

/-- How many of the bytes from one on, at most `room`, stand in the granule of the destination that the first of them has. -/
def granuleRun (d : CopyDesc) (granule : Nat) : Nat → Nat → Nat → Nat
  | 0, _, _ => 0
  | fuel + 1, done, room =>
    let dst := (descAddr d.dst d d.dstrides done).toNat
    let n := min (min (d.count0 - done % d.count0) (64 - dst % 64)) room
    if descTotal d ≤ done ∨ dst / 64 ≠ granule ∨ n = 0 then 0 else n + granuleRun d granule fuel (done + n) (room - n)

/-- The length of the next piece: the bytes that follow in one granule of the destination, at most 64, so that a granule ends holding
the bytes of one command alone (R159, R171, R173). -/
def pieceLength (d : CopyDesc) (done : Nat) : Nat := granuleRun d ((descAddr d.dst d d.dstrides done).toNat / 64) 64 done 64

/-- The parts of n bytes of one side of a descriptor from a byte on: addresses and lengths, cut at runs and at boundaries of 64 bytes
(R159). -/
def descPieces (base : Word) (d : CopyDesc) (strides : List Int) : Nat → Nat → Nat → List (Word × Nat)
  | 0, _, _ => []
  | fuel + 1, done, n =>
    if n = 0 ∨ descTotal d ≤ done then []
    else
      let a := descAddr base d strides done
      let m := min (min n (d.count0 - done % d.count0)) (64 - a.toNat % 64)
      (a, m) :: descPieces base d strides fuel (done + m) (n - m)

/-- Reads a piece (R171, R172, R187). -/
def readPiece (s : State) (k c : Nat) (x : CopyCmd) (a : Word) (n : Nat) : State × PieceEnd :=
  if isLocal x.desc.src then
    match resolveIn (coreRegion s x.core) x.core a n with
    | .loc o off =>
      match localRead s o off n with
      | some l => (s, .ok l)
      | none => (s, .abort 2 a)
    | _ => (s, .abort 3 a)
  else if !isGlobal a then (s, .abort 3 a)
  else
    match chanXlate s k c a.toNat false with
    | (s, .fault cause level entry) => (s, .stall a.toNat false cause level entry)
    | (s, .walkersBusy) => (s, .walkersBusy)
    | (s, .ok e) =>
      match engineRead s (whoTile s k) (tlbPa e a.toNat) n e.t with
      | (s, some l) => (s, .ok l)
      | (s, none) => (s, .abort 2 a)

/-- The FEED channel's deliveries inside buffer 0 advance WRITTEN (R166). -/
def feedWritten (s : State) (k c : Nat) (o : LObj) (off n : Nat) : State :=
  let m := getTile s k
  match m.pers.bufs with
  | b :: _ =>
    if o = .sram k ∧ m.pers.feed = c + 1 then
      setTile s k { m with written := amInsert m.written 0 (amGet m.written 0 0 + sharedBytes off n b.base b.size) }
    else s
  | [] => s

/-- A command of a channel comes to n bytes of a granule from one on: which bytes of the granule commands of other channels that came to it
later have written since, and those that came to it before lose these bytes to it. A command that may come again is noted, so that the
granule ends holding the bytes of one command (R173). -/
def touchGrain (s : State) (k c : Nat) (again : Bool) (o : Option LObj) (granule first n : Nat) : State × Nat :=
  let mine (x : GrainTouch) : Bool := x.tile == k && x.chan == c && x.obj == o && x.granule == granule
  let l := if s.grains.any mine || !again then s.grains else s.grains ++ [{ tile := k, chan := c, obj := o, granule := granule }]
  let before := l.takeWhile fun x => !mine x
  let after := l.dropWhile fun x => !mine x
  let bytes := (2 ^ n - 1) * 2 ^ first
  ({ s with grains := (before.map fun x => if x.obj == o && x.granule == granule then { x with lost := x.lost ||| bytes } else x) ++ after },
   (after.head?.map (·.lost)).getD 0)

/-- A channel's command begins or ends: nothing stands noted for it. -/
def forgetGrains (s : State) (k c : Nat) : State := { s with grains := s.grains.filter fun x => x.tile != k || x.chan != c }

/-- The runs of bytes that stand, each with its place, of a piece from byte i of its granule on. -/
def keptRuns (lost : Nat) : Nat → List Byte → List (Nat × List Byte)
  | _, [] => []
  | i, b :: rest =>
    if lost.testBit i then keptRuns lost (i + 1) rest
    else
      match keptRuns lost (i + 1) rest with
      | (j, r) :: q => if j = i + 1 then (i, b :: r) :: q else (i, [b]) :: (j, r) :: q
      | [] => [(i, [b])]

/-- May the command come to a granule again after its piece there? -/
def revisits (x : CopyCmd) : Bool := decide (1 < x.desc.ndim)

/-- A part of a piece written to a local object. -/
def writeLocal (s : State) (k c : Nat) (x : CopyCmd) (o : LObj) (off : Nat) (l : List Byte) : State :=
  let t := touchGrain s k c (revisits x) (some o) (off / 64) (off % 64) l.length
  (keptRuns t.2 (off % 64) l).foldl (fun s q => localWrite s o (off / 64 * 64 + q.1) q.2) t.1

/-- A part of a piece written to global memory. -/
def writeGlobal (s : State) (k c : Nat) (x : CopyCmd) (pa : Nat) (moving : Bool) (l : List Byte) : State :=
  let t := touchGrain s k c (revisits x) none (pa / 64) (pa % 64) l.length
  (keptRuns t.2 (pa % 64) l).foldl (fun s q => engineWrite s (whoTile s k) (pa / 64 * 64 + q.1) moving q.2) t.1

/-- Writes a piece at each destination of the command: kinds 0 and 2 for every core it serves, the others once (R176). -/
def writePiece (s : State) (k c : Nat) (x : CopyCmd) (a : Word) (l : List Byte) : State × PieceEnd :=
  if isLocal x.desc.dst then
    let served := if localKind x.desc.dst = 1 then x.targets.take 1 else x.targets
    served.foldl (fun r t =>
      match r with
      | (s, .ok l) =>
        match resolveIn (coreRegion s t.core) t.core a l.length with
        | .loc o off => (feedWritten (writeLocal s k c x o off l) k c o off l.length, .ok l)
        | _ => (s, .abort 3 a)
      | r => r) (s, .ok l)
  else if !isGlobal a then (s, .abort 3 a)
  else
    match chanXlate s k c a.toNat true with
    | (s, .fault cause level entry) => (s, .stall a.toNat true cause level entry)
    | (s, .walkersBusy) => (s, .walkersBusy)
    | (s, .ok e) => (writeGlobal s k c x (tlbPa e a.toNat) e.t l, .ok l)

/-- A command aborts (R172). -/
def abortCopy (s : State) (k c code : Nat) (a : Word) : State :=
  let w := whoTile s k
  let s := modChan (forgetGrains s k c) k c fun ch =>
    { ch with err := true, errCode := code, errAddr := a, active := none, done := 0, followDue := false, stalled := none, refused := false, walking := none
              doneAt := some s.cycle, abortedBy := (ch.active.map (·.targets)).getD [] }
  postEngineError s w.part 1 a.toNat (enginePos k) w.inst w.func

/-- A command completes (R174). -/
def completeCopy (s : State) (k c : Nat) (x : CopyCmd) : State :=
  modChan (forgetGrains s k c) k c fun ch => { ch with lastId := x.id, active := none, done := 0, followDue := false, doneAt := some s.cycle }

/-- Delivered words of a global source count in stream heat in mode 0; a change of window adds the old one's counts to its
table first (R240). -/
def countHeat (s : State) (k c : Nat) (pa n : Nat) : State :=
  let p := partOfCore s k
  if (getPart s p).heatMode = 0 then
    let ch := getChan s k c
    let window := some (pa / 2 ^ 21)
    if ch.heatWindow = window then modChan s k c fun x => { x with deliv := x.deliv + n }
    else modChan (reportHeat s p ch.heatWindow ch.deliv ch.starve) k c fun x => { x with heatWindow := window, deliv := n, starve := 0 }
  else s

/-- The words of 32 bytes whose first byte is among n bytes of a stream from one on. -/
def wordsFrom (done n : Nat) : Nat := ceilDiv (done + n) 32 - ceilDiv done 32

/-- The parts of a piece with a global source count. -/
def countParts (k c : Nat) : List (Word × Nat) → Nat → State → State
  | [], _, s => s
  | (a, n) :: rest, done, s =>
    match chanXlate s k c a.toNat false with
    | (s, .ok e) => countParts k c rest (done + n) (countHeat s k c (tlbPa e a.toNat) (wordsFrom done n))
    | (s, _) => s

/-- The follow-on of a CPYM enters the pair's stream and the last byte counts (R175). -/
def enterFollowOn (s : State) (k c : Nat) (x : CopyCmd) (f : MKind) (n : Nat) : State :=
  let s := enterStream s (pairKey x.core) x.core x.slot f
  completeCopy (modChan s k c fun ch => { ch with wptr := ch.wptr + BitVec.ofNat 64 n }) k c x

/-- What a landed piece leaves: WPTR, and at the command's end its completion or its follow-on (R171, R174, R175). DESIGN CHOICE: the
last byte of a CPYM stands in memory from its landing on, although WPTR counts it only once the follow-on has entered, the moment at which
R154 performs a copy write (log entry 40). -/
def landPiece (s : State) (k c : Nat) (x : CopyCmd) (n : Nat) : State :=
  let done := (getChan s k c).done + n
  let s := modChan s k c fun ch => { ch with pieceAt := some s.cycle }
  if done < descTotal x.desc then modChan s k c fun ch => { ch with wptr := ch.wptr + BitVec.ofNat 64 n, done := done }
  else
    match x.follow with
    | none => completeCopy (modChan s k c fun ch => { ch with wptr := ch.wptr + BitVec.ofNat 64 n }) k c x
    | some f =>
      if issueRoom s (pairKey x.core) then enterFollowOn s k c x f n
      else modChan s k c fun ch => { ch with wptr := ch.wptr + BitVec.ofNat 64 (n - 1), done := done, followDue := true }

/-- An idle channel takes the oldest command of its queue, in a cycle after the one of its acceptance and after the end of the command
before it; room in the queue lets a node's command in (R171, R172). -/
def startChannel (s : State) (k c : Nat) : State :=
  let ch := getChan s k c
  match ch.active, ch.queue with
  | none, x :: rest =>
    if ch.err || decide (s.cycle ≤ x.acceptedAt) || ch.doneAt == some s.cycle then s
    else drainNodes (modChan (forgetGrains s k c) k c fun ch => { ch with active := some x, queue := rest, done := 0 })
  | _, _ => s

/-- Reads the parts of a piece in order: the bytes before the first part that fails, and how that one ended. -/
def readParts (k c : Nat) (x : CopyCmd) : List (Word × Nat) → State → State × List Byte × Option PieceEnd
  | [], s => (s, [], none)
  | (a, n) :: rest, s =>
    match readPiece s k c x a n with
    | (s, .ok l) =>
      let r := readParts k c x rest s
      (r.1, l ++ r.2.1, r.2.2)
    | (s, e) => (s, [], some e)

/-- Writes the parts of a piece, all of one granule. -/
def writeParts (k c : Nat) (x : CopyCmd) : List (Word × Nat) → List Byte → State → State × PieceEnd
  | [], l, s => (s, .ok l)
  | (a, n) :: rest, l, s =>
    match writePiece s k c x a (l.take n) with
    | (s, .ok _) => writeParts k c x rest (l.drop n) s
    | r => r

/-- A piece that does not land: the channel aborts, stalls, or waits for a walker. -/
def pieceStops (s : State) (k c : Nat) : PieceEnd → State
  | .abort code e => abortCopy s k c code e
  | .stall va w f1 f2 f3 => stallCopy s k c va w f1 f2 f3
  | _ => s

/-- A piece that was read is written, counts and lands. -/
def deliverPiece (s : State) (k c : Nat) (x : CopyCmd) (done : Nat) (l : List Byte) : State :=
  match writeParts k c x (descPieces x.desc.dst x.desc x.desc.dstrides 64 done l.length) l s with
  | (s, .ok _) =>
    let s := if isLocal x.desc.src then s else countParts k c (descPieces x.desc.src x.desc x.desc.sstrides 64 done l.length) done s
    landPiece s k c x l.length
  | (s, e) => pieceStops s k c e

/-- One piece of the active command; a channel moves at most one in a cycle. What was read before an error of a later part is delivered
first. -/
def movePiece (s : State) (k c : Nat) : State :=
  let ch := getChan s k c
  match ch.active with
  | none => s
  | some x =>
    if ch.followDue || ch.stalled.isSome || ch.err || ch.pieceAt == some s.cycle then s
    else
      match readParts k c x (descPieces x.desc.src x.desc x.desc.sstrides 64 ch.done (pieceLength x.desc ch.done)) s with
      | (s, l, none) => deliverPiece s k c x ch.done l
      | (s, l, some (.abort code e)) => if l.isEmpty then abortCopy s k c code e else deliverPiece s k c x ch.done l
      | (s, _, some e) => pieceStops s k c e

/-- At the start of a cycle that is enabled for its quad every idle channel starts the oldest command of its queue, if it may (R171). -/
def startChannels (s : State) : State :=
  s.tiles.foldl (fun s k =>
    if quadRuns s (quadKey k.1) then
      k.2.chans.foldl (fun s c => if c.2.active.isNone && !c.2.queue.isEmpty then startChannel s k.1 c.1 else s) s
    else s) s

/-- COPY_PIECE (R171): a channel moves one piece of its command in a cycle that is enabled for its quad (R335). -/
def execCopyPiece (tile chan : Nat) (s : State) : Host.Outcome State Fault Refusal :=
  runStep (fun s => if quadRuns s (quadKey tile) then movePiece (startChannel s tile chan) tile chan else s) s

/-- COPY_ERR_CLEAR (R172): the channel runs its queue again. -/
def execCopyErrClear (tile chan : Nat) (s : State) : Host.Outcome State Fault Refusal :=
  runStep (fun s => chanWrite s tile (64 * chan + 8) 2) s

/-- A follow-on that waited for room enters the stream, and the last byte counts (R175). -/
def followOnEnters (s : State) (tile chan : Nat) : State :=
  let ch := getChan s tile chan
  match ch.active with
  | some x =>
    match x.follow with
    | some f => if ch.followDue && quadRuns s (quadKey tile) && streamRoom s (pairKey x.core) then enterFollowOn s tile chan x f 1 else s
    | none => s
  | none => s

/-- CPYM_FOLLOW_ON (R175). -/
def execCpymFollowOn (tile chan : Nat) (s : State) : Host.Outcome State Fault Refusal :=
  runStep (fun s => followOnEnters s tile chan) s

/-- Every follow-on that waits takes the first free entry: in the cycle in which there is one (R175). -/
def followOnsEnter (s : State) : State :=
  s.tiles.foldl (fun s k => k.2.chans.foldl (fun s c => if c.2.followDue then followOnEnters s k.1 c.1 else s) s) s

end Sys2Proof.Machine
end

