-- ==== Sys2Proof/Machine/Fetch.lean ====
section
/-! DEFINITION. Fetching an instruction: code memory as it stood when the launch began, read through the thread's instruction
translation, and the classes in which a core issues (R11, R12, R24, R25, R40, R75, R111). -/
namespace Sys2Proof.Machine

/-- Why no instruction comes out of a fetch. -/
inductive NoInstr where
  | trap (cause : Nat) (val : Word)
  | block (w : Wait)
  deriving DecidableEq, Repr

/-- The word of code memory at a physical address, or none where it cannot be read (R12). -/
def codeWord (s : State) (t : ThreadRef) (pa : Nat) (moving : Bool) : Option Word32 :=
  let x := getThread s t
  let at_ := (route s x.part pa moving).1
  if !populated s x.part at_ || memBad 64 x.code at_ 4 then none
  else
    match memRead x.code.cells at_ 4 with
    | [b0, b1, b2, b3] => some (wordOfBytes b0 b1 b2 b3)
    | _ => none

/-- Fetches one word (R11, R25, R153, R197, R210). An address that is no global one, and data that cannot be read, raise
traps at the PC (log entry 23). -/
def fetchWord (s : State) (t : ThreadRef) (va : Word) : State × Except NoInstr Word32 :=
  let pc := (getThread s t).pc
  if !isGlobal va then (s, .error (.trap causeAddress pc))
  else
    match threadXlate s t va.toNat false true false with
    | (s, .block w) => (s, .error (.block w))
    | (s, .ok e) =>
      let s := noticeError s (getThread s t).part (tlbPa e va.toNat) e.t
      match codeWord s t (tlbPa e va.toNat) e.t with
      | some w => (s, .ok w)
      | none => (s, .error (.trap causeMemory pc))

/-- The Illegal Instruction trap of words that are none (R24): TRAPVAL is word 0. -/
def decodeFetched (w v : Word32) : Except NoInstr Instr :=
  match decodeWords w v with
  | .ok i => .ok i
  | .error _ => .error (.trap causeIllegal (w.setWidth 64))

/-- Fetches the instruction at a thread's PC: one word, or two for a 64-bit form (R11). -/
def fetchInstr (s : State) (t : ThreadRef) : State × Except NoInstr Instr :=
  let pc := (getThread s t).pc
  match fetchWord s t pc with
  | (s, .error e) => (s, .error e)
  | (s, .ok w) =>
    if isLong w then
      match fetchWord s t (pc + 4) with
      | (s, .error e) => (s, .error e)
      | (s, .ok v) => (s, decodeFetched w v)
    else (s, decodeFetched w 0)

/-! ### Instructions that have begun (R76, R297) -/

/-- Waits of an instruction that has begun and keeps what it has done: it goes on where it stands and is not fetched again. -/
def begunWait : Wait → Bool
  | .none | .port _ _ | .held _ | .bank | .copyQueue | .combining | .engineQueue | .spQueue | .injection | .walk _ _ _ _ | .fault _ | .refused _
  | .threadFault _ | .otair => false
  | _ => true

/-- The instruction that a thread's turn executes: the one that has begun, or the one at its PC. -/
def nextInstr (s : State) (t : ThreadRef) : State × Except NoInstr Instr :=
  match (getThread s t).begun with
  | some i => if begunWait (getThread s t).wait then (s, .ok i) else fetchInstr s t
  | none => fetchInstr s t

/-- The thread keeps an instruction that has begun. -/
def noteBegun (i : Instr) (t : ThreadRef) (s : State) : State :=
  if begunWait (getThread s t).wait then modThread s t fun x => { x with begun := some i } else s

/-! ### Issue classes (R75, R111) -/

/-- The major of an instruction; steps of the device have none. -/
def majorOf (i : Instr) : Nat := ((encode i).headD 0).toNat / 2 ^ 26

/-- The vector class: majors 0x1C to 0x26 (R75). -/
def isVectorClass (i : Instr) : Bool := decide (0x1C ≤ majorOf i) && decide (majorOf i ≤ 0x26)

/-- Does a vector-class instruction take the permute and logic path (R111)? -/
def permutePath : Instr → Bool
  | .vand .. => true
  | .vor .. => true
  | .vxor .. => true
  | .vmov .. => true
  | .vredsum .. => false
  | .vredmax .. => false
  | .vredmin .. => false
  | .vtag .. => true
  | .vtchk .. => true
  | i => decide (majorOf i ∈ [0x1F, 0x21, 0x22, 0x24, 0x25, 0x26])

/-- The issue path of an instruction: 0 scalar, 1 an FMA pipe, 2 permute and logic. -/
def issuePath (i : Instr) : Nat := if isVectorClass i then (if permutePath i then 2 else 1) else 0

/-- How many instructions of a path the core has issued in the current cycle. -/
def issuedOn (s : State) (core path : Nat) : Nat := ((issuedNow s core).filter fun p => p.2 == path).length

/-- Can the core still issue on a path in this cycle: one scalar-class instruction, and two vector-class ones on different
pipes (R75, R111)? -/
def pathFree (s : State) (core path : Nat) : Bool :=
  match path with
  | 0 => decide (issuedOn s core 0 = 0)
  | 1 => decide (issuedOn s core 1 + issuedOn s core 2 < 2)
  | _ => decide (issuedOn s core 1 + issuedOn s core 2 < 2) && decide (issuedOn s core 2 = 0)

end Sys2Proof.Machine
end

