-- ==== Sys2Proof/Machine/Network.lean ====
section
/-! DEFINITION. The static network: elements and links, rows, width adapters, stream-node and die-edge units, delay lines, the
segments' attempts, crossings and stream fetches; and the dynamic network's user messages with PSTAT, PTRY, DSEND and DRECV
(R128 to R152, R213, R224). -/
namespace Sys2Proof.Machine

/-! ### Elements (R129, R140, R224) -/

/-- What an element is. -/
inductive ElKind where
  | compute | memory | stream | edge
  deriving DecidableEq, Repr

/-- The key of a die-edge element of a twin stack. -/
def edgeKey (st e : Nat) : Nat := 20480 + 1024 * st + e

/-- The kind of an element by its key. -/
def elKind (k : Nat) : ElKind :=
  if 20480 ≤ k then .edge
  else if 16384 ≤ k then .stream
  else if (rowOf k + colOf k) % 2 = 0 then .compute else .memory

/-- The twin stack of an element. HBM4E stack h stands beside die h (log entry 12). -/
def elStack (k : Nat) : Nat :=
  match elKind k with
  | .edge => (k - 20480) / 1024
  | .stream => (k - 16384) / 64
  | _ => stackOf (dieOf k)

/-- The die whose caches an element's generators use, and the die that messages name for it. DESIGN CHOICE: for a die-edge
element the lower die of its stack, since R138 gives the element's position and no die (log entry 38). -/
def elDie (k : Nat) : Nat :=
  match elKind k with
  | .edge => 2 * ((k - 20480) / 1024)
  | .stream => (k - 16384) / 32
  | _ => dieOf k

/-- The position that messages give for an element (R138, R147; row and column are zero beyond the tiles, as in R41). -/
def elementPos (k : Nat) : Nat :=
  match elKind k with
  | .compute => dstPos (dieOf k) (rowOf k) (colOf k) 0
  | .memory => dstPos (dieOf k) (rowOf k) (colOf k) 1
  | .stream => dstPos (elDie k) 0 0 2
  | .edge => dstPos (elDie k) 0 0 5

/-- The keys of the quads of a region. -/
def regionQuads (r : Region) : List Nat := if r.quad then ((regionTiles r).map quadKey).eraseDups else []

/-- Every element of a region. -/
def regionElements (r : Region) : List Nat := regionTiles r ++ r.nodes ++ r.edges

/-- The elements of a segment (R140). -/
def segElements (r : Region) (st : Nat) : List Nat := (regionElements r).filter fun k => elStack k == st

/-- The twin stacks a region covers. -/
def regionStacks (r : Region) : List Nat := (List.range 4).filter fun st => (regionTiles r).any fun k => elStack k == st

/-! ### Links (R130, R141) -/

/-- The direction that faces another: N 0, E 1, S 2, W 3, V 4. -/
def opposite (d : Nat) : Nat :=
  match d with
  | 0 => 2
  | 1 => 3
  | 2 => 0
  | 3 => 1
  | _ => 4

/-- Where an output's words go: the element, its input, and the cycles they take. -/
structure Link where
  dst : Nat
  port : Nat
  delay : Nat
  deriving DecidableEq, Repr

/-- The tile of a region beside one of its tiles. -/
def neighbourTile (r : Region) (k d : Nat) : Option Nat :=
  let i := packRow k - r.prow
  let j := packCol k - r.pcol
  let l := (layerOf (dieOf k) + r.layer) % 2
  match d with
  | 0 => if i = 0 then none else some (regionTile r (i - 1) j l)
  | 1 => if j + 1 < r.w then some (regionTile r i (j + 1) l) else none
  | 2 => if i + 1 < r.h then some (regionTile r (i + 1) j l) else none
  | 3 => if j = 0 then none else some (regionTile r i (j - 1) l)
  | _ => if r.twin then some (twinOf k) else none

/-- The direction 0–4 in which an outer element's tile lies. -/
def elementSide (e : Nat) : Nat := Config.elementDir e - 1

/-- The stream node or die-edge element of a region beside a tile. -/
def outerElement (r : Region) (k d : Nat) : Option Nat :=
  (r.nodes ++ r.edges).find? fun e => Config.elementTile e == k && opposite (elementSide e) == d

/-- The delay of a link between an outer element and its tile: four cycles for a stream node (R141). DESIGN CHOICE: one cycle
for a die-edge element's inner link, for which the specification gives none (log entry 38). -/
def outerDelay (e : Nat) : Nat := if elKind e = .stream then 4 else 1

/-- The link that an output N, E, S, W or V of an element drives. -/
def linkOf (r : Region) (k d : Nat) : Option Link :=
  match elKind k with
  | .stream => outward
  | .edge => outward
  | _ =>
    match neighbourTile r k d with
    | some n => some ⟨n, opposite d, if elStack n = elStack k then 1 else 8⟩
    | none => (outerElement r k d).map fun e => ⟨e, opposite d, outerDelay e⟩
where
  outward : Option Link :=
    if d = elementSide k ∧ regionHas r (Config.elementTile k) then some ⟨Config.elementTile k, opposite d, outerDelay k⟩ else none

/-- An input FIFO of an element. -/
def inputOf (s : State) (k p : Nat) : Fifo := amGet (getSwitch s k).input p {}

/-- The words on their way to an input. -/
def inFlight (s : State) (k p : Nat) : Nat := (s.crossings.filter fun c => c.dst == k && c.port == p).length

/-- The pops of an input whose credits have not come back (R141). -/
def creditsOut (s : State) (k p : Nat) : Nat :=
  ((amGet (getSwitch s k).popped p []).filter fun c => decide (s.cycle < c + 8)).length

/-- Has a link room for a word in this cycle (R130, R141)? -/
def linkRoom (s : State) (l : Link) : Bool :=
  if l.delay = 1 then fifoRoom 4 s.cycle 1 (inputOf s l.dst l.port)
  else decide (inFlight s l.dst l.port + (inputOf s l.dst l.port).words.length + creditsOut s l.dst l.port < 16)

/-- A word moved over a link. -/
def sendLink (s : State) (k : Nat) (l : Link) (w : LinkWord) : State :=
  if l.delay = 1 then
    modSwitch s l.dst fun x => { x with input := amInsert x.input l.port (fifoPush (s.cycle + 1) w (amGet x.input l.port {})) }
  else { s with crossings := s.crossings ++ [{ src := k, dst := l.dst, port := l.port, word := w, at_ := s.cycle + l.delay }] }

/-- An input popped; the cycle is kept for the credits of a longer link. -/
def popInput (s : State) (r : Region) (k p : Nat) : State :=
  let far := (linkOf r k p).any fun l => l.delay != 1
  modSwitch s k fun x =>
    { x with input := amInsert x.input p (fifoPop s.cycle (amGet x.input p {}))
             popped := if far then amInsert x.popped p (s.cycle :: (amGet x.popped p []).filter fun c => decide (s.cycle < c + 8))
               else x.popped }

/-! ### Row words (R36, R131, R133) -/

/-- The select of output o: N 0, E 1, S 2, W 3, V 4, C 5. -/
def rowSel (w o : Nat) : Nat := bitsOf w (61 - 3 * o) (59 - 3 * o)
def rowLine (w j : Nat) : Nat := if j = 0 then bitsOf w 43 40 else bitsOf w 39 36
def rowCdir (w : Nat) : Nat := bitsOf w 35 34
def rowXsrc (w : Nat) : Nat := bitsOf w 33 32
def rowElem (w : Nat) : Nat := w % 2 ^ 32
def rowHold (w : Nat) : Bool := w.testBit 63
def rowCairn (w : Nat) : Bool := w.testBit 62

/-- Does step C execute row r (R140)? -/
def inGroup (r : Region) (c row : Nat) : Bool :=
  decide (row < r.frame) && decide (row ≤ c) && (c - row) % r.offset == 0 &&
    (r.frames == 0 || decide ((c - row) / r.offset < r.frames))

/-- The rows of an element in the group of step C. -/
def groupRows (s : State) (r : Region) (c k : Nat) : List Nat :=
  ((getSwitch s k).rows.filter fun p => inGroup r c p.1).map fun p => p.2.toNat

/-! ### Memory-tile rows and the width adapter (R134, R135, R166) -/

/-- READ of a cursor and WRITTEN of a buffer. -/
def readAt (m : MemTile) (j : Nat) : Nat := amGet m.read j 0
def writtenAt (m : MemTile) (b : Nat) : Nat := amGet m.written b 0

/-- May a row read with cursor j (R166)? -/
def rdAllowed (m : MemTile) (j : Nat) : Bool :=
  match m.pers.pers with
  | 1 => decide (j < m.pers.bufs.length)
  | 2 => j == 0 && decide (readAt m 0 + 32 ≤ writtenAt m 0)
  | 3 => decide (j < m.pers.nread) && decide (readAt m j + 32 ≤ writtenAt m 0)
  | _ => false

/-- May a row write buffer b (R166)? -/
def wrAllowed (m : MemTile) (b : Nat) : Bool :=
  let size := (m.pers.bufs.headD {}).size
  match m.pers.pers with
  | 1 => decide (b < m.pers.bufs.length)
  | 2 => b == 0 && decide (writtenAt m 0 < readAt m 0 + size)
  | 3 =>
    b == 0 && ((List.range m.pers.nread).all fun j => decide (writtenAt m 0 < readAt m j + size))
  | _ => false

/-- The buffer that cursor j or a write of buffer j uses, and the SRAM offset of a counter in it. -/
def bufferOf (m : MemTile) (j : Nat) : Buffer := if m.pers.pers = 1 then m.pers.bufs.getD j {} else m.pers.bufs.headD {}
def cursorOffset (b : Buffer) (c : Nat) : Nat := b.base + c % b.size

/-- The word that RD reads, or none for an uncorrectable error (R134). -/
def rdWord (s : State) (k j : Nat) : Option LinkWord :=
  let m := getTile s k
  let b := bufferOf m j
  (localRead s (.sram k) (cursorOffset b (readAt m j)) 32).map fun l => { data := BitVec.ofNat 256 (ofBytes l), side := BitVec.ofNat 8 b.tag }

/-- The effect of RD on the tile: the cursor advances. -/
def advanceRead (s : State) (k j : Nat) : State :=
  modTile s k fun m => { m with read := amInsert m.read j (readAt m j + 32) }

/-- The effect of WR: the word is stored and the cursor advances; the sideband is dropped. -/
def doWrite (s : State) (k b : Nat) (w : LinkWord) : State :=
  let m := getTile s k
  let s := localWrite s (.sram k) (cursorOffset (bufferOf m b) (writtenAt m b)) (toBytes 32 w.data.toNat)
  modTile s k fun m => { m with written := amInsert m.written b (writtenAt m b + 32) }

/-- The conversions of the adapter: input words and output words of one conversion (R135). -/
def adapterShape (wop : Nat) (src dst : Tag) : Option (Nat × Nat) :=
  match wop, src.toNat, dst.toNat with
  | 1, 0x08, 0x06 => some (1, 2)
  | 1, 0x09, 0x07 => some (1, 2)
  | 1, 0x11, 0x0D => some (1, 2)
  | 1, 0x10, 0x0D => some (1, 1)
  | 1, 0x0F, 0x0E => some (1, 1)
  | 2, 0x06, 0x08 => some (2, 1)
  | 2, 0x07, 0x09 => some (2, 1)
  | 2, 0x0D, 0x11 => some (2, 1)
  | 2, 0x0D, 0x10 => some (1, 1)
  | 2, 0x0E, 0x0F => some (1, 1)
  | _, _, _ => none

/-- Elements of a link word: 64 of four bits, 32 of six or eight. -/
def wordElems (t : Tag) (x : Nat) : List Nat :=
  let b := tagElemBits t
  lanes b (if b = 4 then 64 else 32) x

/-- Elements converted as the adapter does: nearest even, saturating (R135). -/
def adaptElems (src dst : Tag) (l : List Nat) : List Nat :=
  l.map fun x => (convert src dst .rne true x (elemVal (fun _ _ => 0) src x)).1

/-- A link word of elements. -/
def elemsWord (t : Tag) (l : List Nat) : LinkWord :=
  { data := BitVec.ofNat 256 (packLanes (tagElemBits t) l), side := t.setWidth 8 }

/-- The tag of a link word's sideband. -/
def wordTag (w : LinkWord) : Tag := w.side.setWidth 5

/-! ### Lane-wise units (R136, R137) -/

/-- Does the stream-node unit take this tag for this operation? -/
def streamTagOk (t : Tag) (logic : Bool) : Bool :=
  match tagClass t with
  | .int w _ => decide (8 ≤ w)
  | .flt .fp32 => !logic
  | .flt .bf16 => !logic
  | _ => false

/-- The lanes of a link word under a tag. -/
def wordLanes (t : Tag) (x : Nat) : List Nat := lanes (tagLane t) (256 / tagLane t) x

/-- Does a lane satisfy a condition against another (R117, R136)? -/
def laneCond (t : Tag) (c x y : Nat) : Bool :=
  match tagClass t with
  | .int w sg => icond c (laneInt w sg x) (laneInt w sg y)
  | .flt f => (fcond c (fdecode f x) (fdecode f y)).1
  | _ => false

/-- One lane of REDUCE: 0 ADD, 1 MIN, 2 MAX, 3 AND, 4 OR; the input is the right operand. -/
def laneAlu (t : Tag) (alu x y : Nat) : Nat :=
  match tagClass t with
  | .int w sg =>
    match alu with
    | 0 => (x + y) % 2 ^ w
    | 1 => if laneInt w sg x ≤ laneInt w sg y then x else y
    | 2 => if laneInt w sg y ≤ laneInt w sg x then x else y
    | 3 => x &&& y
    | _ => x ||| y
  | .flt f =>
    match alu with
    | 0 => (deliver f .rne (fadd .rne (fdecode f x) (fdecode f y))).1
    | 1 => (deliver f .rne (fminmax false (fdecode f x) (fdecode f y))).1
    | _ => (deliver f .rne (fminmax true (fdecode f x) (fdecode f y))).1
  | _ => 0

/-- The identity of an operation under a tag (R136). -/
def aluIdentity (t : Tag) (alu : Nat) : Nat :=
  match tagClass t with
  | .int w sg =>
    match alu with
    | 1 => ofInt w (intHi w sg)
    | 2 => ofInt w (intLo w sg)
    | 3 => 2 ^ w - 1
    | _ => 0
  | .flt f =>
    match alu with
    | 0 => withSign f true 0
    | 1 => ffInf f
    | _ => withSign f true (ffInf f)
  | _ => 0

/-- A link word of lanes. -/
def lanesWord (t : Tag) (l : List Nat) : LinkWord := { data := BitVec.ofNat 256 (packLanes (tagLane t) l), side := t.setWidth 8 }

/-- A word with every lane at the identity. -/
def identityWord (t : Tag) (alu : Nat) : LinkWord := lanesWord t (List.replicate (256 / tagLane t) (aluIdentity t alu))

/-- A lane-wise combination of two words under the tag of the second. -/
def zipWord (t : Tag) (f : Nat → Nat → Nat) (x y : LinkWord) : LinkWord :=
  lanesWord t (((wordLanes t x.data.toNat).zip (wordLanes t y.data.toNat)).map fun p => f p.1 p.2)

/-! ### What one row does -/

/-- Causes of an element fault (R138). -/
def faultElemTag : Nat := 1
def faultMemErr : Nat := 2
def faultLinkErr : Nat := 3

/-- What performing a row changes at its element: what it pops, what it sends, and the new contents of its registers. -/
structure RowEff where
  inputs : List Nat := []
  sends : List Nat := []
  queue : Bool := false
  outs : List (Nat × LinkWord) := []
  outC : Option (Nat × LinkWord) := none
  line0 : Option (List LinkWord) := none
  line1 : Option (List LinkWord) := none
  adapterPush : List LinkWord := []
  adapterPop : Bool := false
  adapterHalf : Option (Option LinkWord) := none
  acc : Option (LinkWord × Nat × Bool) := none
  rd : Option Nat := none
  wr : Option Nat := none
  fault : Option Nat := none
  deriving DecidableEq, Repr

/-- What an element's unit makes of a row: whether the row can be performed, the word X reads, and the new registers. -/
structure UnitOut where
  hold : Bool := false
  fault : Option Nat := none
  result : Option LinkWord := none
  srcs : List Nat := []
  adapterPush : List LinkWord := []
  adapterPop : Bool := false
  adapterHalf : Option (Option LinkWord) := none
  acc : Option (LinkWord × Nat × Bool) := none
  deriving DecidableEq, Repr

/-- The word that a source code 1–6 provides, for output o (R129). -/
def sourceWord (s : State) (k : Nat) (rd : Option LinkWord) (o code : Nat) : Option LinkWord :=
  let x := getSwitch s k
  if code = 0 then none
  else if code ≤ 5 then fifoHead s.cycle (amGet x.input (code - 1) {})
  else if code = 6 then
    match elKind k with
    | .compute => if o < 5 then fifoHead s.cycle (amGet x.send o {}) else none
    | .memory => rd
    | _ => fifoHead s.cycle x.queue
  else none

/-- The adapter of a memory tile in a row (R135): the words it adds to the buffer, the first half it keeps, and X's pop after
that. A WIDEN with a buffer that is not empty takes nothing; a NARROW whose word has no room holds. DESIGN CHOICE: a first half
and a second input of different tags are both converted under the second's tag (log entry 38). -/
def adapterUnit (s : State) (k : Nat) (rd : Option LinkWord) (el : Nat) (pop : Bool) : UnitOut :=
  let x := getSwitch s k
  let wop := bitsOf el 15 12
  let dst : Tag := BitVec.ofNat 5 (bitsOf el 11 7)
  let inp := bitsOf el 6 4
  let finish (push : List LinkWord) (half : Option (Option LinkWord)) (srcs : List Nat) : UnitOut :=
    if pop then
      match x.adapter ++ push with
      | w :: _ => { result := some w, srcs := srcs, adapterPush := push, adapterPop := true, adapterHalf := half }
      | [] => { hold := true }
    else { srcs := srcs, adapterPush := push, adapterHalf := half }
  if wop = 0 ∨ (wop = 1 ∧ !x.adapter.isEmpty) then finish [] none []
  else
    match sourceWord s k rd 5 inp with
    | none => { hold := true }
    | some w =>
      let src := wordTag w
      match adapterShape wop src dst with
      | none => { fault := some faultElemTag, srcs := [inp] }
      | some (1, 2) =>
        let l := adaptElems src dst (wordElems src w.data.toNat)
        finish [elemsWord dst (l.take 32), elemsWord dst (l.drop 32)] none [inp]
      | some (2, 1) =>
        match x.adapterHalf with
        | none => finish [] (some (some w)) [inp]
        | some h =>
          let l := adaptElems src dst (wordElems src h.data.toNat ++ wordElems src w.data.toNat)
          if 2 ≤ x.adapter.length then { hold := true } else finish [elemsWord dst l] (some none) [inp]
      | some _ =>
        if 2 ≤ x.adapter.length then { hold := true }
        else finish [elemsWord dst (adaptElems src dst (wordElems src w.data.toNat))] none [inp]

/-- What REDUCE combines its input with: ACC as it stands, and before the first input since installation the identity of the
operation, with or without an EMIT before it. DESIGN CHOICE: the specification gives ACC no value at installation; after an EMIT the identity's bits, made under
the old tag, are read under the tag of the next input (log entries 30 and 38). -/
def reduceStart (x : Switch) (t : Tag) (alu : Nat) : LinkWord := if x.accUsed then x.acc else identityWord t alu

/-- The unit of a stream node in a row (R136). DESIGN CHOICE: a row that takes X from the unit with SOP 0 makes no result and
cannot be performed, here and at a die edge (log entry 38). -/
def streamUnit (s : State) (k el : Nat) : UnitOut :=
  let x := getSwitch s k
  let sop := bitsOf el 31 28
  let inp := bitsOf el 27 25
  let alu := bitsOf el 24 21
  if sop = 0 then {}
  else if sop = 4 then
    { result := some x.acc, acc := some (identityWord (wordTag x.acc) x.accAlu, x.accAlu, true) }
  else
    match sourceWord s k none 5 inp with
    | none => { hold := true }
    | some w =>
      let t := wordTag w
      if !streamTagOk t (sop == 3 && decide (3 ≤ alu)) then { fault := some faultElemTag, srcs := [inp] }
      else
        match sop with
        | 1 => { result := some w, srcs := [inp] }
        | 2 =>
          let c := amGet x.consts (bitsOf el 17 14) 0
          { result := some (zipWord t (fun a b => if laneCond t (bitsOf el 20 18) a b then a else 0) w { data := c, side := 0 }), srcs := [inp] }
        | _ =>
          if !x.accFresh && wordTag x.acc != t then { fault := some faultElemTag, srcs := [inp] }
          else
            let r := zipWord t (laneAlu t alu) (reduceStart x t alu) w
            { result := some r, srcs := [inp], acc := some (r, alu, false) }

/-- The unit of a die-edge element in a row (R137). -/
def edgeUnit (s : State) (k el : Nat) : UnitOut :=
  let aop := bitsOf el 31 28
  let a := bitsOf el 27 25
  let b := bitsOf el 24 22
  match aop with
  | 1 =>
    match sourceWord s k none 5 a, sourceWord s k none 5 b with
    | some x, some y =>
      let t := wordTag x
      let tagOk := t == wordTag y && (t == 0x0A || t == 0x0B || t == 0x02)
      if tagOk then { result := some (zipWord t (laneAlu t 0) x y), srcs := [a, b] }
      else { fault := some faultElemTag, srcs := [a, b] }
    | _, _ => { hold := true }
  | 2 =>
    match sourceWord s k none 5 a with
    | some x => { result := some x, srcs := [a] }
    | none => { hold := true }
  | _ => {}

/-- The element unit of a row. -/
def unitOf (s : State) (k : Nat) (rd : Option LinkWord) (w : Nat) : UnitOut :=
  match elKind k with
  | .compute => {}
  | .memory => adapterUnit s k rd (rowElem w) (rowXsrc w == 3)
  | .stream => streamUnit s k (rowElem w)
  | .edge => edgeUnit s k (rowElem w)

/-- The tail of a delay line (R139). -/
def lineTail (l : List LinkWord) : Option LinkWord := l.getLast?

/-- A line shifted with a word into its head. -/
def shiftLine (l : List LinkWord) (w : LinkWord) : List LinkWord := w :: l.dropLast

/-- The word X provides. -/
def xWord (s : State) (k w : Nat) (u : UnitOut) : Option LinkWord :=
  match rowXsrc w with
  | 1 => lineTail (getSwitch s k).delay0
  | 2 => lineTail (getSwitch s k).delay1
  | 3 => u.result
  | _ => none

/-- The send FIFO from which a delay line of a compute tile takes source C. DESIGN CHOICE: that of the row's lowest output with
source C, and N's where none has it; R129 gives source C for outputs alone (log entry 30). -/
def lineOutput (w : Nat) : Nat := ((List.range 5).find? fun o => rowSel w o == 6).getD 0

/-- What a row's delay-line control shifts in: none for no shift, an inner none for a missing word (R139). -/
def lineInput (s : State) (k : Nat) (rd : Option LinkWord) (w j : Nat) : Option (Option LinkWord) :=
  let own := if j = 0 then (getSwitch s k).delay0 else (getSwitch s k).delay1
  let other := if j = 0 then (getSwitch s k).delay1 else (getSwitch s k).delay0
  match rowLine w j with
  | 0 => none
  | 7 => some (lineTail own)
  | 8 => some (lineTail other)
  | c => some (sourceWord s k rd (if elKind k = .compute then lineOutput w else 5) c)

/-- The new contents of a line, with `false` where its input is missing. -/
def lineNext (s : State) (k : Nat) (rd : Option LinkWord) (w j : Nat) : Bool × Option (List LinkWord) :=
  let own := if j = 0 then (getSwitch s k).delay0 else (getSwitch s k).delay1
  match lineInput s k rd w j with
  | none => (true, none)
  | some none => (false, none)
  | some (some x) => (true, some (shiftLine own x))

/-- Room for output o of an element: its link, or what output C leads to. DESIGN CHOICE: the outer link of a die-edge element, whose room
the specification does not give, has room while fewer than 16 words are in flight or stand in the far queue, and a word that the far side
takes leaves room at once (R141; log entry 40). -/
def outputRoom (s : State) (r : Region) (k w o recv : Nat) : Bool :=
  let x := getSwitch s k
  if o < 5 then
    match linkOf r k o with
    | some l => linkRoom s l
    | none => false
  else
    match elKind k with
    | .compute => fifoRoom 4 s.cycle 1 (amGet x.recv recv {})
    | .memory => (rowElem w).testBit 30
    | .stream => x.writer.desc.isSome && x.writer.stalled.isNone
    | .edge =>
      let q := getSwitch s (Config.yarnexPeer k)
      decide (x.outFlight + q.queue.words.length < 16)

/-- Was a command under way at the start of the cycle: issued before it, and not come to its end before it (R132)? -/
def outstanding (s : State) (l : List CopyCmd) : Bool := l.any fun c => decide (c.issuedAt < s.cycle)

/-- Was a command for a memory tile issued by a core of its region to a combining node before the cycle, and is it in no queue yet (R132,
R176)? -/
def nodeHolds (s : State) (r : Region) (k : Nat) : Bool :=
  let named (b : Word) : Bool :=
    match resolveIn (some r) 0 b 8 with
    | .loc (.regs t) _ => t == k
    | _ => false
  let mine (l : List CopyCmd) : Bool := outstanding s (l.filter fun c => regionHas r c.core)
  (((regionTiles r).map quadKey).eraseDups).any fun q =>
    ((getQuad s q).held.any fun h => named h.designator && mine h.cmds) ||
      (getQuad s q).entering.any fun e => named e.1 && mine [e.2]

/-- The HOLD condition of an element (R132), on the state at the start of the cycle. -/
def holdMet (s : State) (r : Region) (k : Nat) : Bool :=
  let x := getSwitch s k
  match elKind k with
  | .compute =>
    (List.range 5).all fun d =>
      let f := amGet x.recv d {}
      f.words.isEmpty && (f.takenAt != s.cycle || f.taken == 0)
  | .memory =>
    (getTile s k).chans.all (fun c => !outstanding s (c.2.active.toList ++ c.2.queue) && c.2.doneAt != some s.cycle) &&
      !nodeHolds s r k
  | .stream => true
  | .edge => x.outFlight == 0 && x.landedAt != some s.cycle

/-- The source codes that a row names: as outputs, delay-line inputs and unit inputs. -/
def namedCodes (w : Nat) (u : UnitOut) : List Nat :=
  (((List.range 6).map (rowSel w)) ++ [rowLine w 0, rowLine w 1].filter (fun c => decide (c ≤ 6)) ++ u.srcs).eraseDups

/-- The receive FIFO that output C of a compute tile fills (R129, R133). -/
def recvOf (w : Nat) : Nat := if rowSel w 5 = 7 then rowCdir w else rowSel w 5 - 1

/-- One row on the state at the start of the step: what performing it does, or none where it cannot be performed (R131 to
R139). DESIGN CHOICE: an element fault of the unit stands before a missing source or room of the same row's outputs (log entry
38). -/
def evalRow (s : State) (r : Region) (k w : Nat) : Option RowEff :=
  let kind := elKind k
  let mem := kind == .memory
  let el := rowElem w
  let reads := mem && el.testBit 31
  let j := bitsOf el 29 28
  let writes := mem && el.testBit 30
  let b := bitsOf el 27 26
  if rowHold w && !holdMet s r k then none
  else if (reads || writes) && (getTile s k).refusedAt == some s.cycle then none
  else if reads && !rdAllowed (getTile s k) j then none
  else if writes && !wrAllowed (getTile s k) b then none
  else
    let rd := if reads then rdWord s k j else none
    if reads && rd.isNone then some { fault := some faultMemErr }
    else
      let u := unitOf s k rd w
      if u.hold then none
      else if u.fault.isSome then some { fault := u.fault }
      else
        let x := xWord s k w u
        let word (o : Nat) : Option LinkWord := if rowSel w o = 7 then x else sourceWord s k rd o (rowSel w o)
        let used := (List.range 6).filter fun o => decide (rowSel w o ≠ 0)
        let l0 := lineNext s k rd w 0
        let l1 := lineNext s k rd w 1
        if !(used.all fun o => (word o).isSome && outputRoom s r k w o (recvOf w)) || !l0.1 || !l1.1 then none
        else
          let codes := namedCodes w u
          some
            { inputs := ((List.range 5).filter fun p => codes.contains (p + 1))
              sends := if kind = .compute then
                  (List.range 5).filter fun o => decide (rowSel w o = 6) || (decide (rowLine w 0 = 6 ∨ rowLine w 1 = 6) && o == lineOutput w)
                else []
              queue := (kind == .stream || kind == .edge) && codes.contains 6
              outs := (used.filter fun o => decide (o < 5)).map fun o => (o, (word o).getD {})
              outC := if used.contains 5 then some (recvOf w, (word 5).getD {}) else none
              line0 := l0.2
              line1 := l1.2
              adapterPush := u.adapterPush
              adapterPop := u.adapterPop
              adapterHalf := u.adapterHalf
              acc := u.acc
              rd := if reads then some j else none
              wr := if writes then some b else none }

/-! ### Translation and accesses of stream nodes (R213, R224) -/

/-- The region of an outer element. -/
def elementRegion (s : State) (k : Nat) : Option (Nat × Region) :=
  s.regions.find? fun p => p.2.nodes.contains k || p.2.edges.contains k || (decide (k < serviceBase) && regionHas p.2 k)

/-- A stream node as requester. -/
def whoNode (s : State) (k : Nat) : Who :=
  match elementRegion s k with
  | some (_, r) => { part := r.part, die := elDie k, func := r.func, inst := r.inst }
  | none => { part := partOfStack s (elStack k), die := elDie k }

/-- A generator of a node: its read or its write generator. -/
def nodeGen (s : State) (k : Nat) (write : Bool) : Generator := if write then (getSwitch s k).writer else (getSwitch s k).reader
def modGen (s : State) (k : Nat) (write : Bool) (f : Generator → Generator) : State :=
  modSwitch s k fun x => if write then { x with writer := f x.writer } else { x with reader := f x.reader }

/-- A generator's latch table takes a translation, and it waits for no walk any more. -/
def latchNode (s : State) (k : Nat) (write : Bool) (e : Option TlbEntry) : State :=
  modGen (modSwitch s k fun x => { x with latch := e.elim x.latch fun e => tlbFill 16 e x.latch }) k write fun g => { g with walking := none }

/-- A generator's walk with its fills (R213). -/
def nodeWalk (s : State) (k : Nat) (write : Bool) (va : Nat) : State × ChanXlate :=
  let w := whoNode s k
  let p := walk s { who := w, va := va, write := write } []
  match p.2.1 with
  | .ok e => (latchNode (fillLltc p.1 w.die e) k write (some e), .ok e)
  | .fault cause level entry => (latchNode p.1 k write none, .fault cause level entry)

/-- The generators that the walkers of an LLTC serve in the current cycle. -/
def servedNow (s : State) (die : Nat) : List (Nat × Bool) := if (getLltc s die).servedAt = s.cycle then (getLltc s die).served else []

/-- A generator whose miss has its turn holds one of the two walkers of the LLTC for the rest of the cycle; the misses before it in
arrival order go first (R212). -/
def takeWalker (s : State) (k : Nat) (write : Bool) (va : Nat) : Option State :=
  let die := elDie k
  let served := servedNow s die
  let waiting := pendingNodeWalks s die
  let mine (j : WalkJob) : Bool := j.ports.contains { port := k, chan := bit write, va := va, write := write }
  if served.contains (k, write) then some s
  else if served.length + (waiting.takeWhile fun j => !mine j).length < 2 then
    some (modLltc s die fun c => { c with walks := waiting.filter fun j => !mine j, servedAt := s.cycle, served := served ++ [(k, write)] })
  else none

/-- A generator's miss waits for a walker, behind those that came before it. -/
def queueNode (s : State) (k : Nat) (write : Bool) (va : Nat) : State :=
  let die := elDie k
  let s := modGen s k write fun g => { g with walking := some va }
  let me : WalkPort := { port := k, chan := bit write, va := va, write := write }
  let waiting := pendingNodeWalks s die
  if waiting.any fun j => j.ports.contains me then s
  else modLltc s die fun c => { c with walks := waiting ++ [{ func := (whoNode s k).func, page := va / 4096, ports := [me] }] }

/-- A generator's translation from the node's latches or the die's LLTC (R213). -/
def nodeCached (s : State) (k : Nat) (write : Bool) (va : Nat) : Option (State × ChanXlate) :=
  let w := whoNode s k
  let ok (l : List TlbEntry) : Option TlbEntry := (tlbFind w.func va l).filter (tlbPermits write false true)
  match ok (getSwitch s k).latch with
  | some e => some (latchNode s k write (some e), .ok e)
  | none => (ok (getLltc s w.die).entries).map fun e => (latchNode (fillLltc s w.die e) k write (some e), .ok e)

/-- A generator's translation: the node's latches, the die's LLTC, a walk by one of the LLTC's walkers (R212, R213). -/
def nodeXlate (s : State) (k : Nat) (write : Bool) (va : Nat) : State × ChanXlate :=
  match nodeCached s k write va with
  | some r => r
  | none =>
    match takeWalker s k write va with
    | some s => nodeWalk s k write va
    | none => (queueNode s k write va, .walkersBusy)

/-- A generator stalls and posts its fault message (R213, R217). -/
def stallNode (s : State) (k : Nat) (write : Bool) (va cause level entry : Nat) : State :=
  let w := whoNode s k
  let seq := (getSwitch s k).nodeSeq + 1
  let s := modGen (modSwitch s k fun x => { x with nodeSeq := seq }) k write fun g => { g with stalled := some (BitVec.ofNat 64 va), seq := seq }
  postMail s w.part (designated s w.part)
    [faultHead cause level write false true false 3 (getLltc s w.die).gen.toNat w.func, BitVec.ofNat 64 va, BitVec.ofNat 64 entry,
     handleWord (elementPos k) ((k - 16384) % 32) seq]

/-- How a node's access to the pieces of a word ends. -/
inductive NodeEnd where
  | ok (l : List Byte)
  | stalled
  | fault
  deriving DecidableEq, Repr

/-- Reads the pieces of a word. -/
def nodeRead (k : Nat) : List (Word × Nat) → State → State × NodeEnd
  | [], s => (s, .ok [])
  | (a, n) :: rest, s =>
    if !isGlobal a then (s, .fault)
    else
      match nodeXlate s k false a.toNat with
      | (s, .fault cause level entry) => (stallNode s k false a.toNat cause level entry, .stalled)
      | (s, .walkersBusy) => (s, .stalled)
      | (s, .ok e) =>
        match engineRead s (whoNode s k) (tlbPa e a.toNat) n e.t with
        | (s, none) => (s, .fault)
        | (s, some l) =>
          match nodeRead k rest s with
          | (s, .ok m) => (s, .ok (l ++ m))
          | r => r

/-- Translates the pieces of a word that the write generator is about to take. -/
def nodePrepare (k : Nat) : List (Word × Nat) → State → State × NodeEnd
  | [], s => (s, .ok [])
  | (a, _) :: rest, s =>
    if !isGlobal a then (s, .fault)
    else
      match nodeXlate s k true a.toNat with
      | (s, .fault cause level entry) => (stallNode s k true a.toNat cause level entry, .stalled)
      | (s, .walkersBusy) => (s, .stalled)
      | (s, .ok _) => nodePrepare k rest s

/-- Writes the pieces of a word. -/
def nodeWrite (k : Nat) : List (Word × Nat) → List Byte → State → State
  | [], _, s => s
  | (a, n) :: rest, l, s =>
    match nodeXlate s k true a.toNat with
    | (s, .ok e) => nodeWrite k rest (l.drop n) (engineWrite s (whoNode s k) (tlbPa e a.toNat) e.t (l.take n))
    | (s, _) => s

/-- The pieces that the next word of a generator covers. -/
def genPieces (g : Generator) (write : Bool) : List (Word × Nat) :=
  match g.desc with
  | some d => if write then descPieces d.dst d d.dstrides 33 g.done 32 else descPieces d.src d d.sstrides 33 g.done 32
  | none => []

/-- The bytes of pieces. -/
def piecesLen (l : List (Word × Nat)) : Nat := (l.map (·.2)).sum

/-! ### Element faults (R138) -/

/-- An element fault: the segment holds from now on, and a region-fault message is posted. -/
def elementFault (s : State) (rk k cause : Nat) : State :=
  match getRegion s rk with
  | none => s
  | some r =>
    let g := segmentOf r (elStack k)
    if g.fault.isSome then s
    else
      let s := setRegion s rk { r with faulted := true, segments := amInsert r.segments (elStack k) { g with fault := some (cause, elementPos k) } }
      postMail s r.part (designated s r.part) [mailHead 0x21 cause r.inst r.func false, BitVec.ofNat 64 (elementPos k), 0, 0]

/-! ### A segment's attempt (R140) -/

/-- The words of the write generators that a step hands over are translated first; a fault there stops the step. -/
def prepareWrites (l : List (Nat × RowEff)) (s : State) : State × Option (Nat × Bool) :=
  l.foldl (fun (p : State × Option (Nat × Bool)) x =>
    if p.2.isSome || elKind x.1 ≠ .stream || x.2.outC.isNone then p
    else
      let g := nodeGen p.1 x.1 true
      let q := genPieces g true
      if q.isEmpty then (p.1, some (x.1, true))
      else
        match nodePrepare x.1 q p.1 with
        | (s, .ok _) => (s, none)
        | (s, .stalled) => (s, some (x.1, false))
        | (s, .fault) => (s, some (x.1, true))) (s, none)

/-- What output C of an element delivers. -/
def deliverC (s : State) (k : Nat) (e : RowEff) : State :=
  match e.outC with
  | none => s
  | some (recv, w) =>
    match elKind k with
    | .compute => modSwitch s k fun x => { x with recv := amInsert x.recv recv (fifoPush (s.cycle + 1) w (amGet x.recv recv {})) }
    | .memory =>
      match e.wr with
      | some b => doWrite s k b w
      | none => s
    | .stream =>
      let q := genPieces (nodeGen s k true) true
      modGen (nodeWrite k q (toBytes 32 w.data.toNat) s) k true fun g => { g with done := g.done + piecesLen q }
    | .edge =>
      { modSwitch s k (fun x => { x with outFlight := x.outFlight + 1 }) with
        crossings := s.crossings ++ [{ src := k, dst := Config.yarnexPeer k, port := 5, word := w, at_ := s.cycle, timed := false }] }

/-- A row performed: all its words were read at the start of the step. -/
def performRow (r : Region) (s : State) (x : Nat × RowEff) : State :=
  let k := x.1
  let e := x.2
  let s := e.inputs.foldl (fun s p => popInput s r k p) s
  let s := modSwitch s k fun w =>
    { w with
      send := e.sends.foldl (fun m o => amInsert m o (fifoPop s.cycle (amGet m o {}))) w.send
      queue := if e.queue then fifoPop s.cycle w.queue else w.queue
      delay0 := e.line0.getD w.delay0
      delay1 := e.line1.getD w.delay1
      adapter := (w.adapter ++ e.adapterPush).drop (if e.adapterPop then 1 else 0)
      adapterHalf := e.adapterHalf.getD w.adapterHalf
      acc := (e.acc.map (·.1)).getD w.acc
      accAlu := (e.acc.map fun a => a.2.1).getD w.accAlu
      accFresh := (e.acc.map fun a => a.2.2).getD w.accFresh
      accUsed := (e.acc.any fun a => !a.2.2) || w.accUsed }
  let s := match e.rd with
    | some j => advanceRead s k j
    | none => s
  let s := deliverC s k e
  e.outs.foldl (fun s o =>
    match linkOf r k o.1 with
    | some l => sendLink s k l o.2
    | none => s) s

/-- The rows of a segment's step with what each does, or none where one cannot be performed. -/
def evalStep (s : State) (r : Region) (st c : Nat) : Option (List (Nat × RowEff)) :=
  (segElements r st).foldl (fun acc k =>
    match acc with
    | none => none
    | some l =>
      (groupRows s r c k).foldl (fun acc w =>
        match acc, evalRow s r k w with
        | some l, some e => some (l ++ [(k, e)])
        | _, _ => none) (some l)) (some [])

/-- Is a thread of the segment in a trap, from taking it to the cycle of its ERET (R140, R321)? -/
def trapHold (s : State) (r : Region) (st : Nat) : Bool :=
  (segElements r st).any fun k => (getCore s k).slots.any fun p =>
    decide (p.2.slotState ≠ .free) && (p.2.inTrap || p.2.eretAt == some s.cycle)

/-- Does a row with the CAIRN mark hold the segment for a pending pre-emption (R140)? -/
def cairnHold (s : State) (r : Region) (st c : Nat) : Bool :=
  r.preempt.isSome && (segElements r st).any fun k => (groupRows s r c k).any rowCairn

/-- The crossings between the segments of two twin stacks: one for each side of the package grid that lies between. -/
def crossingsBetween (a b : Nat) : Nat :=
  (if a / 2 = b / 2 then 0 else 1) + (if a % 2 = b % 2 then 0 else 1)

/-- EchoHold (R140). -/
def echoHold (s : State) (r : Region) (st : Nat) : Bool :=
  r.segments.any fun p => p.1 != st && (p.2.ownHolds.any fun c => c + 8 * crossingsBetween p.1 st == s.cycle)

/-- The source codes 1–6 that an element's unit names. -/
def unitSources (kind : ElKind) (el : Nat) : List Nat :=
  match kind with
  | .compute => []
  | .memory => if bitsOf el 15 12 = 0 then [] else [bitsOf el 6 4]
  | .stream => if bitsOf el 31 28 = 0 ∨ bitsOf el 31 28 = 4 then [] else [bitsOf el 27 25]
  | .edge => (if bitsOf el 31 28 = 0 then [] else [bitsOf el 27 25]) ++ (if bitsOf el 31 28 = 1 then [bitsOf el 24 22] else [])

/-- Does a row of a step wait for a word of an outer element's queue: a fetched word or one from Yarnex? -/
def waitsOnQueue (s : State) (r : Region) (c k : Nat) : Bool :=
  (fifoHead s.cycle (getSwitch s k).queue).isNone &&
    (groupRows s r c k).any fun w => (namedCodes w {}).contains 6 || (unitSources (elKind k) (rowElem w)).contains 6

/-- Stream nodes whose empty fetch queue is named by the step count a starved cycle in mode 0 (R240). -/
def countNodeStarve (s : State) (r : Region) (st c : Nat) : State :=
  if (getPart s r.part).heatMode ≠ 0 then s
  else
    (segElements r st).foldl (fun s k =>
      if elKind k = .stream ∧ waitsOnQueue s r c k then
        modGen s k false fun g => if g.heatWindow.isSome then { g with starve := g.starve + 1 } else g
      else s) s

/-- Is a row of a segment's step waiting for a Yarnex word (R346)? -/
def yarnexWait (s : State) (r : Region) (st c : Nat) : Bool :=
  (segElements r st).any fun k => elKind k == .edge && waitsOnQueue s r c k

/-- The segment after an attempt. -/
def setSegment (s : State) (rk st : Nat) (f : Segment → Segment) : State :=
  modRegion s rk fun r => { r with segments := amInsert r.segments st (f (segmentOf r st)) }

/-- A run starts in a segment: at once, or kept while one is under way; the read generators of its nodes start again (R140, R224). DEDUCED:
words that were fetched ahead leave the fetch queue then, so that the run's first word is the first of the descriptor; the generator
fetches outside a run too (log entry 30). -/
def startSegment (s : State) (rk st : Nat) : State :=
  match getRegion s rk with
  | none => s
  | some r =>
    if (segmentOf r st).running then setSegment s rk st fun g => { g with pendingStart := true }
    else
      let s := setSegment s rk st fun g => { g with running := true, c := 0 }
      (r.nodes.filter fun k => elStack k == st).foldl (fun s k =>
        modSwitch (modGen s k false fun g => { g with done := 0, walking := none }) k fun w => { w with queue := {} }) s

/-- A run starts in every segment of a region at once. -/
def startRun (s : State) (rk : Nat) : State :=
  match getRegion s rk with
  | some r => (regionStacks r).foldl (fun s st => startSegment s rk st) s
  | none => s

/-- S of R140; none for an unbounded run. -/
def runLength (r : Region) : Option Nat := if r.frames = 0 then none else some ((r.frames - 1) * r.offset + r.frame)

/-- A held attempt: nothing of the elements changes; an own hold is remembered for the echoes. -/
def holdSegment (s : State) (rk st c : Nat) (r : Region) (own : Bool) : State :=
  let waits := yarnexWait s r st c
  let s := countNodeStarve s r st c
  setSegment s rk st fun g =>
    { g with lastHeld := true, attemptAt := some s.cycle, yarnexAt := if waits then some s.cycle else g.yarnexAt
             ownHolds := (if own then [s.cycle] else []) ++ g.ownHolds.filter fun h => decide (s.cycle ≤ h + 16) }

/-- The row counter after a step, and the end of the run with a kept start. -/
def advanceSegment (s : State) (rk st : Nat) (r : Region) : State :=
  let s := setSegment s rk st fun g => { g with lastHeld := false, attemptAt := some s.cycle, c := g.c + 1 }
  match getRegion s rk with
  | none => s
  | some r' =>
    let g := segmentOf r' st
    if runLength r = some g.c then
      let s := setSegment s rk st fun g => { g with c := 0, running := false, pendingStart := false }
      if g.pendingStart then startSegment s rk st else s
    else s

/-- Is every quad that a segment covers enabled in this cycle (R336)? -/
def segmentClocked (s : State) (r : Region) (st : Nat) : Bool :=
  ((((regionTiles r).filter fun k => stackOf (dieOf k) == st).map quadKey).eraseDups).all fun q => oppEnabled (getQuad s q).opp s.cycle

/-- One attempt of a segment in a run; there is at most one in a cycle (R140). In a cycle that is not enabled in all its quads
it is a held attempt, which is no own hold, and nothing else changes (R149, R336). DEDUCED: a run without an end stops where it stands
when its launch ends, since it could not drain (R187, R301; log entry 40). -/
def attemptSegment (s : State) (rk st : Nat) : State :=
  match getRegion s rk with
  | none => s
  | some r =>
    let g := segmentOf r st
    if !g.running || g.attemptAt == some s.cycle || !(regionStacks r).contains st || (r.ending && decide (r.frames = 0)) then s
    else if !segmentClocked s r st then setSegment s rk st fun g => { g with lastHeld := true, attemptAt := some s.cycle }
    else
      let c := g.c
      if g.fault.isSome || trapHold s r st || cairnHold s r st c then holdSegment s rk st c r true
      else
        match evalStep s r st c with
        | none => holdSegment s rk st c r true
        | some l =>
          match l.find? fun x => x.2.fault.isSome with
          | some x => if echoHold s r st then holdSegment s rk st c r false
            else holdSegment (elementFault s rk x.1 (x.2.fault.getD 0)) rk st c r true
          | none =>
            if echoHold s r st then holdSegment s rk st c r false
            else
              match prepareWrites l s with
              | (s, some (k, true)) => holdSegment (elementFault s rk k faultMemErr) rk st c r true
              | (s, some (_, false)) => holdSegment s rk st c r true
              | (s, none) => advanceSegment (l.foldl (performRow r) s) rk st r

/-- Every segment in a run makes its attempt of the cycle (R140, R144). -/
def attemptAll (s : State) : State :=
  s.regions.foldl (fun s p => (p.2.segments.map (·.1)).foldl (fun s st => attemptSegment s p.1 st) s) s

/-! ### Arrivals (R141, R343) and fetches (R224) -/

/-- The sender of a word on an outer link sees that it has landed (R132). -/
def outerLanded (s : State) (c : Crossing) : State :=
  if c.port = 5 then modSwitch s c.src fun x => { x with outFlight := x.outFlight - 1, landedAt := some s.cycle } else s

/-- A crossing word lands in its far FIFO. -/
def landWord (s : State) (c : Crossing) : State :=
  if c.port = 5 then outerLanded (modSwitch s c.dst fun x => { x with queue := fifoPush s.cycle c.word x.queue }) c
  else modSwitch s c.dst fun x => { x with input := amInsert x.input c.port (fifoPush s.cycle c.word (amGet x.input c.port {})) }

/-- An uncorrectable error of a word on a link into an element (R128, R138). -/
def linkFault (s : State) (node : Nat) : State :=
  match elementRegion s node with
  | some (rk, _) => elementFault s rk node faultLinkErr
  | none => s

/-- A word of this cycle on a one-cycle link is lost to an uncorrectable error (R128). -/
def loseWord (s : State) (node port : Nat) : State :=
  let f := inputOf s node port
  match f.words.getLast? with
  | some q =>
    if q.at_ = s.cycle + 1 then
      linkFault (modSwitch s node fun x => { x with input := amInsert x.input port { f with words := f.words.dropLast } }) node
    else s
  | none => s

/-- Is the oldest word of a link still on its way: before its cycle, or while the link is being retrained (R141, R343)? -/
def notDue (s : State) (c : Crossing) : Bool :=
  (c.timed && decide (s.cycle < c.at_)) || decide (s.cycle < amGet (getSwitch s c.dst).retrainUntil c.port 0)

/-- CROSSING_WORD_ARRIVAL (R141): the oldest word of a link lands; with an uncorrectable error, which a one-cycle link can have
too, it is an element fault (R128, R138). -/
def crossingArrival (s : State) (node port : Nat) (err : Bool) : State :=
  match s.crossings.find? fun c => c.dst == node && c.port == port with
  | none => if err then loseWord s node port else s
  | some c =>
    if notDue s c then s
    else
      let s := { s with crossings := s.crossings.erase c }
      if err then linkFault (outerLanded s c) node else landWord s c

/-- The words that are due in a cycle land in it, the oldest of a link first (R141). -/
def landDue (s : State) : State :=
  s.crossings.foldl (fun s c => if c.timed && decide (c.at_ ≤ s.cycle) then crossingArrival s c.dst c.port false else s) s

/-- SEGMENT_ATTEMPT (R140): the words that are due in the cycle stand in their FIFOs before the attempt (R141). -/
def execSegmentAttempt (region stack : Nat) (s : State) : Host.Outcome State Fault Refusal :=
  runStep (fun s => attemptSegment (landDue s) region stack) s

/-- CROSSING_WORD_ARRIVAL (R141). -/
def execCrossingWordArrival (node port : Nat) (linkError : Bool) (s : State) : Host.Outcome State Fault Refusal :=
  runStep (fun s => crossingArrival s node port linkError) s

/-- Delivered words of a read generator count in stream heat in mode 0 (R240). -/
def countNodeHeat (s : State) (k pa n : Nat) : State :=
  let w := whoNode s k
  if (getPart s w.part).heatMode = 0 then
    let g := nodeGen s k false
    let window := some (pa / 2 ^ 21)
    if g.heatWindow = window then modGen s k false fun x => { x with deliv := x.deliv + ceilDiv n 32 }
    else modGen (reportHeat s w.part g.heatWindow g.deliv g.starve) k false fun x =>
      { x with heatWindow := window, deliv := ceilDiv n 32, starve := 0 }
  else s

/-- Free bytes that fill a word which a descriptor's end leaves short. -/
def padWord (s : State) (l : List Byte) : State × List Byte :=
  let n := 32 - l.length
  ({ s with fresh := s.fresh + n }, l ++ (List.range n).map fun i => Config.freeByte (s.fresh + i))

/-- STREAM_FETCH (R224): the read generator puts its next word into the fetch queue. -/
def streamFetch (s : State) (k : Nat) : State :=
  let g := nodeGen s k false
  match g.desc, elementRegion s k with
  | some d, some (rk, _) =>
    let q := genPieces g false
    if elKind k ≠ .stream ∨ q.isEmpty ∨ g.stalled.isSome ∨ g.refused ∨ !fifoRoom 16 s.cycle 1 (getSwitch s k).queue then s
    else
      match nodeRead k q s with
      | (s, .fault) => elementFault s rk k faultMemErr
      | (s, .stalled) => s
      | (s, .ok l) =>
        let p := padWord s l
        let w : LinkWord := { data := BitVec.ofNat 256 (ofBytes p.2), side := BitVec.ofNat 8 (d.tag % 32) }
        let s := modSwitch p.1 k fun x => { x with queue := fifoPush (s.cycle + 1) w x.queue }
        let s := modGen s k false fun g => { g with done := g.done + piecesLen q }
        match nodeXlate s k false (q.headD (0, 0)).1.toNat with
        | (s, .ok e) => countNodeHeat s k (tlbPa e (q.headD (0, 0)).1.toNat) 32
        | (s, _) => s
  | _, _ => s

/-- STREAM_FETCH (R224). -/
def execStreamFetch (node : Nat) (s : State) : Host.Outcome State Fault Refusal := runStep (fun s => streamFetch s node) s

/-! ### Header flits (R147) -/

/-- The kinds of a message. -/
inductive MsgKind where
  | user | engine | request | reply | fault | mailbox | interrupt | traverse
  deriving DecidableEq, Repr

/-- KIND. -/
def MsgKind.code : MsgKind → Nat
  | .user => 1
  | .engine => 2
  | .request => 3
  | .reply => 4
  | .fault => 5
  | .mailbox => 6
  | .interrupt => 7
  | .traverse => 8

/-- A header flit from its fields. -/
def headerFlit (kind : MsgKind) (len vcl chan dst src data : Nat) : BitVec 128 :=
  BitVec.ofNat 128 (kind.code % 256 * 2 ^ 120 + len % 16 * 2 ^ 116 + vcl % 4 * 2 ^ 114 + chan % 4 * 2 ^ 112 + dst % 2 ^ 16 * 2 ^ 96 +
    src % 2 ^ 16 * 2 ^ 80 + data % 2 ^ 64)

/-- The kind of a message to a mailbox, by the KIND of its payload: a fault message (R217), a traverse message (R235), or one of
R315. -/
def mailKind (l : List Word) : MsgKind :=
  match fieldOf (l.headD 0) 7 0 with
  | 0x01 => .fault
  | 0x10 => .traverse
  | 0x11 => .traverse
  | 0x12 => .traverse
  | _ => .interrupt

/-- The sender of a message to a mailbox, as its payload names it (R217, R315); zero for the command processor's own. -/
def mailSource (l : List Word) : Nat :=
  match fieldOf (l.headD 0) 7 0 with
  | 0x01 => fieldOf (l.getD 3 0) 15 0
  | 0x20 => fieldOf (l.getD 3 0) 15 0
  | 0x21 => fieldOf (l.getD 1 0) 15 0
  | 0x22 => fieldOf (l.getD 2 0) 15 0
  | _ => 0

/-- The header flit of a message on the network; R147 lists no kind for a launch packet. DESIGN CHOICE: a mailbox reply, for which R147
gives no LEN, has LEN 0 (log entry 40). -/
def messageHeader : NetMsg → Option (BitVec 128)
  | .user m => some (headerFlit .user 0 2 m.chan (corePos m.dst) (corePos m.src) m.data.toNat)
  | .mail _ service l => some (headerFlit (mailKind l) 2 3 0 (corePos service) (mailSource l) 0)
  | .reply service h _ => some (headerFlit .mailbox 0 3 0 (fieldOf h 15 0) (corePos service) 0)
  | .packet _ _ => none

/-- The header flit of a command on its way to an engine or a copy channel, from its core to the engine's position (R147, R274).
DESIGN CHOICE: it travels on VCL 0, request, which R147 does not say (log entry 40). -/
def engineHeader (core dst len : Nat) : BitVec 128 := headerFlit .engine len 0 0 dst (corePos core) 0

/-! ### User messages (R147, R148) -/

/-- The injection queues' heads enter the network. -/
def injectAll (s : State) : State :=
  s.cores.foldl (fun s p =>
    match p.2.inject with
    | m :: rest => { modCore s p.1 (fun c => { c with inject := rest }) with net := s.net ++ [.user m] }
    | [] => s) s

/-- The user messages for a core, oldest first. -/
def userFor (core : Nat) : NetMsg → Option UserMsg
  | .user m => if m.dst = core then some m else none
  | _ => none

/-- The messages that can arrive next at a core: the oldest of each source (R148). -/
def oldestBySource : List UserMsg → List UserMsg
  | [] => []
  | m :: rest => m :: (oldestBySource rest).filter fun x => x.src != m.src

/-- One of several messages that have no mutual order: a free choice (R148, log entry 39). -/
def messageChoice (s : State) (l : List UserMsg) : Option UserMsg × State :=
  match l with
  | [] => (none, s)
  | [m] => (some m, s)
  | m :: _ => (some (l.getD (Config.messageChoice s.fresh % l.length) m), { s with fresh := s.fresh + 1 })

/-- USER_MESSAGE_ARRIVAL (R148): a message for a channel enters it, in the order of its source; a full channel leaves it in the
network, and what its source sent after it. -/
def execUserMessageArrival (core chan : Nat) (s : State) : Host.Outcome State Fault Refusal :=
  runStep (fun s =>
    let q := amGet (getCore s core).recv chan []
    if 8 ≤ q.length then s
    else
      match messageChoice s ((oldestBySource (s.net.filterMap (userFor core))).filter fun m => m.chan == chan) with
      | (some m, s) => modCore { s with net := s.net.erase (.user m) } core fun c => { c with recv := amInsert c.recv chan (q ++ [m.data]) }
      | (none, s) => s) s

/-! ### NET instructions (R149 to R152) -/

/-- The word of PSTAT (R149). -/
def pstatWord (s : State) (core : Nat) : Word :=
  let x := getSwitch s core
  let c := getCore s core
  let g := match coreRegion s core with
    | some r => segmentOf r (stackOf (dieOf core))
    | none => {}
  let count (m : AMap Fifo) (d : Nat) : Nat := (amGet m d {}).words.length
  let sum (f : Nat → Nat) (n : Nat) : Nat := ((List.range n).map f).sum
  BitVec.ofNat 64 (sum (fun d => count x.recv d % 8 * 2 ^ (3 * d)) 5 + sum (fun d => count x.send d % 8 * 2 ^ (16 + 3 * d)) 5 +
    sum (fun i => (amGet c.recv i []).length % 16 * 2 ^ (32 + 4 * i)) 4 + 2 ^ 48 * bit g.running + 2 ^ 49 * bit g.lastHeld)

/-- PSTAT (R149). -/
def execPstat (d : Reg) (s : State) : Host.Outcome State Fault Refusal :=
  run4 (withPorts [] [] [d] [] do
    let s ← getS
    writeG d (if isService s.cur.core then 0 else pstatWord s s.cur.core)) s

/-- PTRY (R150). -/
def execPtry (d a b : Reg) (s : State) : Host.Outcome State Fault Refusal :=
  run4 (withPorts [a] [] [] [] do
    let x ← readG a
    let s ← getS
    let dir := x.toNat % 8
    if dir = 0 ∨ 5 < dir then writeG b 2
    else if dirHeld (getCore s s.cur.core) s.cur.slot (dir - 1) then waitM (.held (dir - 1))
    else
      let f := amGet (getSwitch s s.cur.core).recv (dir - 1) {}
      match fifoHead s.cycle f with
      | none => writeG b 1
      | some w => do
        modS fun s => modSwitch s s.cur.core fun y => { y with recv := amInsert y.recv (dir - 1) (fifoPop s.cycle f) }
        writeG d (w.data.setWidth 64)
        writeG b 0) s

/-- The core that DSEND's descriptor names, if it is a compute tile of the region (R151). -/
def dsendTarget (r : Option Region) (a : Word) : Option Nat :=
  let row := fieldOf a 7 0
  let col := fieldOf a 15 8
  let layer := fieldOf a 16 16
  match r with
  | some r => if fieldOf a 63 19 = 0 ∧ inRegion r row col layer ∧ computePos row col then some (regionTile r row col layer) else none
  | none => none

/-- DSEND (R151). -/
def execDsend (a b : Reg) (s : State) : Host.Outcome State Fault Refusal :=
  run4 (withPorts [a, b] [] [] [] do
    let x ← readG a
    let y ← readG b
    let s ← getS
    match dsendTarget (threadRegion s s.cur) x with
    | none => trapM causeAddress x
    | some k =>
      if 8 ≤ (getCore s s.cur.core).inject.length then waitM .injection
      else modS fun s => modCore s s.cur.core fun c =>
        { c with inject := c.inject ++ [{ dst := k, chan := fieldOf x 18 17, src := s.cur.core, data := y }], msgSent := c.msgSent + 1 }) s

/-- The order of a core's DRECV issues with a thread's own in it: at its place if it waits already, else last (R152). -/
def drecvQueue (s : State) (t : ThreadRef) (chan : Nat) : List Nat :=
  let l := (getCore s t.core).drecvOrder
  if (getThread s t).wait = .drecv chan ∧ l.contains t.slot then l else l.filter (fun i => i != t.slot) ++ [t.slot]

/-- Does a thread of the core that issued its DRECV earlier wait on the channel (R152)? -/
def drecvBehind (s : State) (t : ThreadRef) (chan : Nat) (order : List Nat) : Bool :=
  (order.takeWhile fun i => i != t.slot).any fun i =>
    let x := getThread s { core := t.core, slot := i }
    x.slotState == .live && x.wait == .drecv chan

/-- DRECV (R152). -/
def execDrecv (d a : Reg) (s : State) : Host.Outcome State Fault Refusal :=
  run4 (withPorts [a] [] [d] [] do
    let x ← readG a
    let chan := x.toNat % 4
    let s ← getS
    let order := drecvQueue s s.cur chan
    let keep (s : State) (l : List Nat) : State := modCore s s.cur.core fun c => { c with drecvOrder := l }
    match amGet (getCore s s.cur.core).recv chan [], drecvBehind s s.cur chan order with
    | m :: rest, false => do
      modS fun s => modCore (keep s (order.filter fun i => i != s.cur.slot)) s.cur.core fun c =>
        { c with recv := amInsert c.recv chan rest, msgRecv := c.msgRecv + 1 }
      writeG d m
    | _, _ => waitKeepM (.drecv chan) fun s => keep s order) s

end Sys2Proof.Machine
end

