-- ==== Sys2Proof/Machine/Belay.lean ====
section
/-! DEFINITION. The belay network: domains, groups and their participants, detection and release of episodes, and the forms
ARRIVE, WAIT, BTEST, BMEM, PHASE and DOMAIN (R290 to R300). -/
namespace Sys2Proof.Machine

/-! ### Domains (R92, R292) -/

/-- DOMAINL of a thread. -/
def domainOf (x : Thread) (l : Nat) : Word :=
  match l with
  | 1 => x.domain1
  | 2 => x.domain2
  | 3 => x.domain3
  | _ => x.domain4

/-- The context with a DOMAIN register written. -/
def setDomain (x : Thread) (l : Nat) (v : Word) : Thread :=
  match l with
  | 1 => { x with domain1 := v }
  | 2 => { x with domain2 := v }
  | 3 => { x with domain3 := v }
  | _ => { x with domain4 := v }

def domTree (d : Word) : Nat := fieldOf d 23 20
def domGroup (d : Word) : Nat := fieldOf d 15 0

/-- PEND[L] (R293). -/
def pendAt (x : Thread) (l : Nat) : Bool := x.pend.getLsbD (l - 1)

/-- PEND with one bit set or cleared. -/
def setPend (x : Thread) (l : Nat) (on : Bool) : Thread :=
  let b : BitVec 4 := BitVec.ofNat 4 (2 ^ (l - 1))
  { x with pend := if on then x.pend ||| b else x.pend &&& ~~~b }

/-! ### Quads of a region (R291, R307) -/

/-- The number of a region-relative position's quad (R307). -/
def quadIndexAt (r : Region) (row col layer : Nat) : Nat := layer * (r.h / 2) * (r.w / 4) + row / 2 * (r.w / 4) + col / 4

/-- The number of a tile's quad in its region. -/
def quadIndex (r : Region) (k : Nat) : Nat :=
  quadIndexAt r (packRow k - r.prow) (packCol k - r.pcol) ((layerOf (dieOf k) + r.layer) % 2)

/-- An entry: a quad's, for a region tree (R291). -/
def belayEntry (r : Region) (q t : Nat) : BitVec 32 := amGet r.entries (q * 16 + t) 0

/-- Is the entry one of a member of a group? -/
def entryIn (e : BitVec 32) (g : Nat) : Bool := e.getLsbD 0 && fieldOf e 31 16 == g

/-- The key of the quad barrier that carries a core's level 1: its quad, and for a service core that core alone (R91). -/
def barrierKey (core : Nat) : Nat := if isService core then core else quadKey core

/-- The cores of a quad barrier. -/
def barrierCores (q : Nat) : List Nat :=
  if serviceBase ≤ q then [q]
  else (List.range 4).map fun i => quadCore (tileKey (q / 96) (2 * (q % 96 / 8)) (4 * (q % 8))) i

/-- The key of a region-relative position in a saved region. -/
def relKey (row col layer : Nat) : Nat := layer * 4096 + row * 64 + col

/-! ### Participants (R294) -/

/-- DOMAINL of an occupied slot: a context under creation has what the launch gives it (R71, R74, R294). -/
def slotDomain (doms : List Word) (x : Thread) (l : Nat) : Option Word :=
  match x.slotState with
  | .free => none
  | .creating _ => some (doms.getD (l - 1) 0)
  | _ => some (domainOf x l)

/-- Has the slot arrived at a level? -/
def slotPend (x : Thread) (l : Nat) : Bool :=
  match x.slotState with
  | .free => false
  | .creating _ => false
  | _ => pendAt x l

/-- The participants of a core in the group on a tree: slot, level, and whether it has arrived. -/
def coreParties (doms : List Word) (c : Core) (t g : Nat) : List (Nat × Nat × Bool) :=
  c.slots.flatMap fun p =>
    ([2, 3, 4].filter fun l => (slotDomain doms p.2 l).any fun d => domTree d == t && domGroup d == g).map fun l =>
      (p.1, l, slotPend p.2 l)

/-- The participants of a core in a quad barrier's group. -/
def coreLevelOne (doms : List Word) (c : Core) (g : Nat) : List (Nat × Nat × Bool) :=
  (c.slots.filter fun p => (slotDomain doms p.2 1).any fun d => domGroup d == g).map fun p => (p.1, 1, slotPend p.2 1)

/-- The participants of member quads, or none where a member quad does not contribute 1: it has no participant, or one that has
not arrived. `cores` gives each core with its quad. -/
def groupParties (r : Region) (saved : Option Nat) (cores : List (Nat × Nat × Core)) (t g : Nat) : Option (List Party) :=
  let members := (r.entries.filter fun e => e.1 % 16 == t && entryIn e.2 g).map fun e => e.1 / 16
  members.foldl (fun acc q =>
    match acc with
    | none => none
    | some l =>
      let ps := (cores.filter fun c => c.2.1 == q).flatMap fun c => (coreParties r.domains c.2.2 t g).map fun p => (c.1, p)
      if ps.isEmpty || ps.any fun p => !p.2.2.2 then none
      else some (l ++ ps.map fun p => { saved := saved, thread := { core := p.1, slot := p.2.1 }, level := p.2.2.1 })) (some [])

/-- The cores of a resident region, each with its quad. -/
def residentCores (s : State) (r : Region) : List (Nat × Nat × Core) := (regionCores r).map fun k => (k, quadIndex r k, getCore s k)

/-- The cores of a saved region, each with its quad. -/
def savedCores (v : Saved) : List (Nat × Nat × Core) :=
  v.cores.map fun c => (c.1, quadIndexAt v.region (c.1 / 64 % 64) (c.1 % 64) (c.1 / 4096), c.2)

/-- Does a region carry its tree t for a shared group (R290)? -/
def sharesTree (r : Region) (t g : Nat) : Bool := r.share == some (g, t)

/-- The resident regions that a region's tree joins, each with its own number of the tree (R290). -/
def treeRegions (s : State) (rk : Nat) (r : Region) (t : Nat) : List (Nat × Nat) :=
  match r.share with
  | some (g, t') =>
    if t' = t then
      (s.regions.filter fun p => p.2.part == r.part && p.2.share.any fun x => x.1 == g).map fun p => (p.1, (p.2.share.getD (0, 0)).2)
    else [(rk, t)]
  | none => [(rk, t)]

/-- The saved regions that a region's tree joins (R300). -/
def treeSaves (s : State) (r : Region) (t : Nat) : List (Nat × Nat) :=
  match r.share with
  | some (g, t') =>
    if t' = t then
      ((getPart s r.part).saves.filter fun p => !p.2.out && p.2.region.share.any fun x => x.1 == g).map fun p =>
        (p.1, (p.2.region.share.getD (0, 0)).2)
    else []
  | none => []

/-- The participants of a tree's group, once every member quad of every region on the tree contributes 1. -/
def treeParties (s : State) (rk : Nat) (r : Region) (t g : Nat) : Option (List Party) :=
  let live := (treeRegions s rk r t).map fun p =>
    match getRegion s p.1 with
    | some x => groupParties x none (residentCores s x) p.2 g
    | none => some []
  let saved := (treeSaves s r t).map fun p =>
    match amFind (getPart s r.part).saves p.1 with
    | some v => groupParties v.region (some p.1) (savedCores v) p.2 g
    | none => some []
  (live ++ saved).foldl (fun acc x =>
    match acc, x with
    | some l, some m => some (l ++ m)
    | _, _ => none) (some [])

/-- The participants of a quad barrier's group, once all have arrived. -/
def barrierParties (s : State) (q g : Nat) : Option (List Party) :=
  let ps := (barrierCores q).flatMap fun k =>
    let doms := ((coreRegion s k).map (·.domains)).getD []
    (coreLevelOne doms (getCore s k) g).map fun p => (k, p)
  if ps.isEmpty || ps.any fun p => !p.2.2.2 then none
  else some (ps.map fun p => { thread := { core := p.1, slot := p.2.1 }, level := 1 })

/-! ### Detection (R294) -/

/-- The groups in which some thread of a core has arrived on a tree. -/
def arrivedGroups (c : Core) : List (Nat × Nat) :=
  c.slots.flatMap fun p => ([2, 3, 4].filter fun l => slotPend p.2 l).map fun l => (domTree (domainOf p.2 l), domGroup (domainOf p.2 l))

/-- The groups of a quad barrier in which some thread of a core has arrived. -/
def arrivedLevelOne (c : Core) : List Nat := (c.slots.filter fun p => slotPend p.2 1).map fun p => domGroup (domainOf p.2 1)

/-- Is an episode of the group already on its way to its release? -/
def treeInFlight (s : State) (rk : Nat) (r : Region) (t g : Nat) : Bool :=
  (treeRegions s rk r t).any fun p => (getRegion s p.1).any fun x => x.detected.any fun e => e.tree == some p.2 && e.group == g

/-- Detection for one group of a region's tree. -/
def detectTree (rk : Nat) (s : State) (tg : Nat × Nat) : State :=
  match getRegion s rk with
  | none => s
  | some r =>
    if treeInFlight s rk r tg.1 tg.2 then s
    else
      match treeParties s rk r tg.1 tg.2 with
      | some (p :: l) => setRegion s rk { r with detected := r.detected ++ [{ tree := some tg.1, group := tg.2, parties := p :: l }] }
      | _ => s

/-- Detection for one group of a quad barrier. -/
def detectBarrier (q : Nat) (s : State) (g : Nat) : State :=
  if (getQuad s q).detected.any fun e => e.group == g then s
  else
    match barrierParties s q g with
    | some l => modQuad s q fun x => { x with detected := x.detected ++ [{ quad := q, group := g, parties := l }] }
    | none => s

/-- The entries that BMEM wrote in a cycle hold from the next one (R298). -/
def commitEntries (s : State) : State :=
  { s with regions := s.regions.map fun p =>
      (p.1, if p.2.entriesNext.isEmpty then p.2
        else { p.2 with entries := p.2.entriesNext.foldl (fun m e => amInsert m e.1 e.2) p.2.entries, entriesNext := [] }) }

/-- A thread is created in a slot: it takes no part in an episode that was detected before, whose participants stay those of its detection
(R294). -/
def dropParty (s : State) (t : ThreadRef) : State :=
  let keep (l : List Episode) : List Episode :=
    l.map fun e => { e with parties := e.parties.map fun p => if p.saved.isSome || p.thread != t then p else { p with gone := true } }
  { s with regions := s.regions.map fun p => (p.1, if p.2.detected.isEmpty then p.2 else { p.2 with detected := keep p.2.detected })
           quads := s.quads.map fun p => (p.1, if p.2.detected.isEmpty then p.2 else { p.2 with detected := keep p.2.detected }) }

/-! ### Release (R294, R295, R300) -/

/-- PEND of a participant is cleared, in its context or in its saved one; a thread whose PHASE this completes has its boundary
(R184). -/
def releaseParty (part : Nat) (s : State) (p : Party) : State :=
  match p.saved with
  | none =>
    if p.gone then s
    else
    let s := modThread s p.thread fun x => setPend x p.level false
    if (getThread s p.thread).wait = .phase p.level then takeBoundary s p.thread else s
  | some k =>
    modPart s part fun y =>
      match amFind y.saves k with
      | some v =>
        let c := amGet v.cores p.thread.core {}
        let x := setPend (amGet c.slots p.thread.slot {}) p.level false
        { y with saves := amInsert y.saves k { v with cores := amInsert v.cores p.thread.core { c with slots := amInsert c.slots p.thread.slot x } } }
      | none => y

/-- The key of a group's phase count in its region. -/
def phaseKey (t g : Nat) : Nat := t * 65536 + g

/-- Is a group's episode one of the region's schedule domain: the level-2 group on tree 0 that contains its quad at (0, 0) (R295)? -/
def scheduleEpisode (r : Region) (e : Episode) (t : Nat) : Bool :=
  t == 0 && entryIn (belayEntry r 0 0) e.group && e.parties.any fun p => p.level == 2 && p.saved.isNone && regionHas r p.thread.core

/-- The group's phase count advances in a region, and the schedule domain's communication phase starts a run of a
schedule with START = 1 (R295). -/
def advancePhase (e : Episode) (s : State) (p : Nat × Nat) : State :=
  match getRegion s p.1 with
  | none => s
  | some r =>
    let n := amGet r.phases (phaseKey p.2 e.group) 0 + 1
    let s := setRegion s p.1 { r with phases := amInsert r.phases (phaseKey p.2 e.group) n }
    if scheduleEpisode r e p.2 ∧ n % 2 = 1 ∧ r.start = 1 then startRun s p.1 else s

/-- The same for a saved region on the tree: its count advances with the episode. -/
def advanceSaved (part g : Nat) (s : State) (p : Nat × Nat) : State :=
  modPart s part fun y =>
    match amFind y.saves p.1 with
    | some v =>
      let n := amGet v.region.phases (phaseKey p.2 g) 0 + 1
      let r := { v.region with phases := amInsert v.region.phases (phaseKey p.2 g) n }
      { y with saves := amInsert y.saves p.1 { v with region := r } }
    | none => y

/-- The release of a tree's episode. -/
def releaseTree (s : State) (rk : Nat) (e : Episode) (t : Nat) : State :=
  match getRegion s rk with
  | none => s
  | some r =>
    let s := setRegion s rk { r with detected := r.detected.filter fun x => x != e }
    let s := e.parties.foldl (releaseParty r.part) s
    let s := (treeSaves s r t).foldl (advanceSaved r.part e.group) s
    (treeRegions s rk r t).foldl (advancePhase e) s

/-- The release of a quad barrier's episode; its phase count is kept by the region of the quad. -/
def releaseBarrier (s : State) (q : Nat) (e : Episode) : State :=
  let s := modQuad s q fun x => { x with detected := x.detected.filter fun y => y != e }
  let s := e.parties.foldl (releaseParty 0) s
  match e.parties with
  | p :: _ =>
    match coreRegionKey s p.thread.core with
    | some rk =>
      modRegion s rk fun r =>
        let k := phaseKey (16 + quadIndex r p.thread.core) e.group
        { r with phases := amInsert r.phases k (amGet r.phases k 0 + 1) }
    | none => s
  | [] => s

/-- EPISODE_RELEASE (R294): level 1 names a quad barrier, the levels above it a region's tree. -/
def execEpisodeRelease (region quad level tree group : Nat) (s : State) : Host.Outcome State Fault Refusal :=
  runStep (fun s =>
    if level = 1 then
      match (getQuad s quad).detected.find? fun e => e.group == group with
      | some e => releaseBarrier s quad e
      | none => s
    else
      match (getRegion s region).bind fun r => r.detected.find? fun e => e.tree == some tree && e.group == group with
      | some e => releaseTree s region e tree
      | none => s) s

/-! ### Detection at the end of a cycle (R294, R300) -/

/-- The groups in which some thread of a saved region has arrived on the tree that it shares, under that tree's number. -/
def savedGroups (v : Saved) : List (Nat × Nat) :=
  match v.region.share with
  | some (_, t) => (v.cores.flatMap fun c => arrivedGroups c.2).filter fun x => x.1 == t
  | none => []

/-- The same over the saves that a resident region's shared tree joins, under the region's own number of the tree. -/
def sharedGroups (s : State) (r : Region) : List (Nat × Nat) :=
  match r.share with
  | some (_, t) =>
    (treeSaves s r t).flatMap fun p => (((amFind (getPart s r.part).saves p.1).map savedGroups).getD []).map fun x => (t, x.2)
  | none => []

/-- An episode of a shared tree all of whose regions are saved completes as it is detected: no thread can tell when. -/
def completeSaved (part : Nat) (v : Saved) (s : State) (tg : Nat × Nat) : State :=
  match treeParties s 0 v.region tg.1 tg.2 with
  | some (p :: l) => (treeSaves s v.region tg.1).foldl (advanceSaved part tg.2) ((p :: l).foldl (releaseParty part) s)
  | _ => s

/-- The episodes among the saves of a partition whose shared tree has no resident region. -/
def detectSaved (s : State) (part : Nat) : State :=
  (getPart s part).saves.foldl (fun s v =>
    let alone := v.2.region.share.any fun x => (treeRegions s 0 v.2.region x.2).isEmpty
    if alone && !v.2.out then ((savedGroups v.2).eraseDups).foldl (completeSaved part v.2) s else s) s

/-- The episodes that a cycle detects: in the first cycle in which every contribution is 1. -/
def detectEpisodes (s : State) : State :=
  let s := s.regions.foldl (fun s p =>
    let groups := (((regionCores p.2).flatMap fun k => arrivedGroups (getCore s k)) ++ sharedGroups s p.2).eraseDups
    groups.foldl (detectTree p.1) s) s
  let s := s.cores.foldl (fun s p => ((arrivedLevelOne p.2).eraseDups).foldl (detectBarrier (barrierKey p.1)) s) s
  s.parts.foldl (fun s p => if p.2.saves.isEmpty then s else detectSaved s p.1) s

/-! ### The forms (R296 to R299) -/

/-- The level that a form's field names. -/
def levelOf (l : BitVec 2) : Nat := l.toNat + 1

/-- MemberCheck (R297). -/
def memberCheck (l : Nat) : M Unit := do
  let s ← getS
  let x ← self
  let d := domainOf x l
  let ok : Bool :=
    match threadRegion s s.cur with
    | some r => decide (domTree d < r.nt) && entryIn (belayEntry r (quadIndex r s.cur.core) (domTree d)) (domGroup d)
    | none => false
  if l = 1 ∨ ok then pure () else trapM causeAddress d

/-- ARRIVE (R297). -/
def execArrive (l : BitVec 2) (s : State) : Host.Outcome State Fault Refusal :=
  run4 (do
    let n := levelOf l
    memberCheck n
    let x ← self
    if pendAt x n then waitM (.arrive n) else modSelf fun x => setPend x n true) s

/-- WAIT (R297). -/
def execWait (l : BitVec 2) (s : State) : Host.Outcome State Fault Refusal :=
  run4 (do
    let x ← self
    if pendAt x (levelOf l) then waitM (.belay (levelOf l)) else pure ()) s

/-- BTEST (R297). -/
def execBtest (d : Reg) (l : BitVec 2) (s : State) : Host.Outcome State Fault Refusal :=
  run4 (withPorts [] [] [d] [] do
    let x ← self
    writeG d (boolWord (!pendAt x (levelOf l)))) s

/-- Has some thread of the executing thread's quad arrived at a level whose DOMAIN names a tree (R298)? -/
def treeBusy (s : State) (r : Region) (core t : Nat) : Bool :=
  (regionCores r).any fun k => quadIndex r k == quadIndex r core && (getCore s k).slots.any fun x =>
    [1, 2, 3, 4].any fun l => slotPend x.2 l && domTree (domainOf x.2 l) == t

/-- BMEM (R298). -/
def execBmem (a : Reg) (s : State) : Host.Outcome State Fault Refusal :=
  run4 (withPorts [a] [] [] [] do
    let x ← readG a
    let s ← getS
    match threadRegion s s.cur with
    | none => trapM causeAddress x
    | some r =>
      let t := fieldOf x 3 0
      if fieldOf x 63 32 ≠ 0 ∨ fieldOf x 15 5 ≠ 0 ∨ r.nt ≤ t then trapM causeAddress x
      else if treeBusy s r s.cur.core t then waitM .bmem
      else
        let e : BitVec 32 := BitVec.ofNat 32 (fieldOf x 31 16 * 65536 + fieldOf x 4 4)
        modS fun s => modRegion s (regionKey r.part r.inst) fun r =>
          { r with entriesNext := amInsert r.entriesNext (quadIndex r s.cur.core * 16 + t) e }) s

/-- The scope of Publish(L) (R184). -/
def publishScope (level : Nat) : Nat :=
  match level with
  | 1 => 2
  | 2 => 3
  | 3 => 4
  | _ => 6

/-- PHASE (R184, R297): the publication, the arrival, and the wait for the release, in whose cycle the boundary lies. -/
def execPhase (l : BitVec 2) (s : State) : Host.Outcome State Fault Refusal :=
  run4 (do
    let n := levelOf l
    let x ← self
    if x.wait = .phase n then
      if pendAt x n then waitM (.phase n) else pure ()
    else do
      memberCheck n
      if pendAt x n then waitKeepM (.arrive n) fun s => publish s s.cur (publishScope n)
      else waitKeepM (.phase n) fun s =>
        let s := publish s s.cur (publishScope n)
        modThread s s.cur fun x => setPend x n true) s

/-- DOMAIN (R299). -/
def execDomain (a : Reg) (l : BitVec 2) (s : State) : Host.Outcome State Fault Refusal :=
  run4 (withPorts [a] [] [] [] do
    let v ← readG a
    let s ← getS
    let x ← self
    let n := levelOf l
    let nt := ((threadRegion s s.cur).map (·.nt)).getD 0
    let tree := domTree v
    let taken := ([2, 3, 4].filter fun m => decide (m ≠ n)).any fun m => domTree (domainOf x m) == tree
    let bad := fieldOf v 63 24 ≠ 0 ∨ fieldOf v 19 16 ≠ 0 ∨ (n = 1 ∧ tree ≠ 0) ∨ (n ≠ 1 ∧ (nt ≤ tree ∨ taken)) ∨ pendAt x n
    if bad then trapM causeAddress v else modSelf fun x => setDomain x n v) s

end Sys2Proof.Machine
end

