-- ==== Sys2Proof/Machine/Image.lean ====
section
/-! DEFINITION. Configuration images: header, section table, cairn tables, schedules and their rows, preloads, personalities,
stream-node descriptors and the engine binding table, with every check that refuses an image (R34 to R41, R129 to R143, R165,
R224, R325). -/
namespace Sys2Proof.Machine

/-! ### Reading global memory for the command processor -/

/-- Work of the command processor that reads global memory and that unreadable data ends. -/
abbrev Rd (α : Type) := OptionT (StateM State) α

/-- Ends the work. -/
def rdFail {α : Type} : Rd α := fun s => (none, s)

/-- Goes on only where a check holds. -/
def rdCheck (b : Bool) : Rd Unit := if b then pure () else rdFail

/-- A pure answer that may be missing. -/
def rdOpt {α : Type} (o : Option α) : Rd α := fun s => (o, s)

/-- One piece of a page, read coherently through a walk of its own (log entry 17). -/
def rdPiece (w : Who) (va n : Nat) : Rd (List Byte) := fun s =>
  match walk s { who := w, va := va, needA := false } [] with
  | (s, .ok e, _) =>
    match engineRead s w (tlbPa e va) n e.t with
    | (s, some l) => (some l, s)
    | (s, none) => (none, s)
  | (s, .fault _ _ _, _) => (none, s)

/-- The pieces of a range. -/
def rdPieces (w : Who) : List (Nat × Nat) → Rd (List Byte)
  | [] => pure []
  | (va, n) :: rest => do
    let l ← rdPiece w va n
    let m ← rdPieces w rest
    pure (l ++ m)

/-- Bytes of a global range of the function. -/
def rdBytes (w : Who) (va : Word) (n : Nat) : Rd (List Byte) := do
  rdCheck (isGlobal va && isGlobal (va + BitVec.ofNat 64 (n - 1)))
  rdPieces w (piecesOf 4096 va.toNat n)

/-! ### Header and section table (R38, R39) -/

/-- The header of an image. -/
structure ImageHead where
  h : Nat
  w : Nat
  frame : Nat
  offset : Nat
  twin : Bool
  quad : Bool
  streams : Nat
  edges : Nat
  table : Nat
  count : Nat
  exits : List (Nat × Nat) := []
  deriving DecidableEq, Repr

/-- The 64 bytes of a header, or none where they break R34 or R38. -/
def parseHead (l : List Byte) : Option ImageHead :=
  let flags := numAt l 12 1
  let g : ImageHead :=
    { h := numAt l 4 2, w := numAt l 6 2, frame := numAt l 8 2, offset := numAt l 10 2, twin := bitOf flags 0, quad := bitOf flags 1
      streams := numAt l 13 1, edges := numAt l 14 2, table := numAt l 16 4, count := numAt l 20 4 }
  let ok := numAt l 0 4 == 0x10000 && decide (flags < 4) && zeroAt l 24 40 && decide (1 ≤ g.h ∧ g.h ≤ 24) &&
    decide (1 ≤ g.w ∧ g.w ≤ 32) && decide (1 ≤ g.frame ∧ g.frame ≤ 1024) && decide (1 ≤ g.offset ∧ g.offset ≤ g.frame) &&
    decide (g.streams ≤ 32) && (!g.quad || (g.h % 2 == 0 && g.w % 4 == 0))
  if ok then some g else none

/-- An entry of the section table. -/
structure Section where
  kind : Nat
  layer : Nat
  row : Nat
  col : Nat
  size : Nat
  off : Nat
  deriving DecidableEq, Repr

/-- The fields of an entry. -/
def sectionOf (l : List Byte) : Section :=
  { kind := numAt l 0 1, layer := numAt l 1 1, row := numAt l 2 1, col := numAt l 3 1, size := numAt l 4 4, off := numAt l 8 4 }

/-- Is the region-relative position a tile of the configuration? -/
def headHas (g : ImageHead) (row col layer : Nat) : Bool :=
  decide (row < g.h) && decide (col < g.w) && (layer == 0 || (g.twin && layer == 1))

/-- Does an entry name something that the configuration has (R34, R35, R39, R41, R224)? -/
def sectionOk (g : ImageHead) (l : List Byte) : Bool :=
  let e := sectionOf l
  zeroAt l 12 4 && e.off % 64 == 0 &&
    (match e.kind with
     | 1 => headHas g e.row e.col e.layer && computePos e.row e.col
     | 2 => headHas g e.row e.col e.layer && computePos e.row e.col
     | 3 => headHas g e.row e.col e.layer && computePos e.row e.col && e.size % 32 == 0
     | 4 => headHas g e.row e.col e.layer
     | 5 => headHas g e.row e.col e.layer && !computePos e.row e.col && e.size == 64
     | 6 => headHas g e.row e.col e.layer
     | 7 =>
       if e.col = 0xFE then e.layer == 0 && e.row == 0 && e.size % 16 == 0
       else e.col == 0xFF && e.layer == 0 && decide (e.row < g.streams) && e.size == 256
     | 8 => e.layer == 0 && e.col == 0 && decide (e.row < g.streams)
     | 9 => e.layer == 0 && e.col == 0 && decide (e.row < g.edges)
     | _ => false)

/-- Two entries for the same part of the configuration. -/
def sameSection (a b : Section) : Bool := a.kind == b.kind && a.layer == b.layer && a.row == b.row && a.col == b.col

/-- Does a list of entries name every part at most once? -/
def sectionsDistinct : List Section → Bool
  | [] => true
  | e :: rest => !rest.any (sameSection e) && sectionsDistinct rest

/-- A section with its bytes. -/
abbrev Loaded := Section × List Byte

/-! ### Elements of a configuration -/

/-- The key of stream node n, and of die-edge element n, beside the keys of the tiles (`relKey`). -/
def relNode (n : Nat) : Nat := 8192 + n
def relEdge (n : Nat) : Nat := 16384 + n

/-- The element that a section of kind 4, 6, 8 or 9 belongs to. -/
def relElement (e : Section) : Nat :=
  match e.kind with
  | 8 => relNode e.row
  | 9 => relEdge e.row
  | _ => relKey e.row e.col e.layer

/-- The kind of an element of a configuration. -/
def relKind (k : Nat) : ElKind :=
  if 16384 ≤ k then .edge
  else if 8192 ≤ k then .stream
  else if computePos (k / 64 % 64) (k % 64) then .compute
  else .memory

/-! ### Cairn tables (R37) -/

/-- A cairn entry, or none where it breaks R34, R35 or R37. -/
def parseCairn (g : ImageHead) (l : List Byte) : Option CairnEntry :=
  let e : CairnEntry :=
    { codeOff := numAt l 0 4, id := numAt l 4 2, row := numAt l 6 2, glive := numAt l 8 4, vlive := numAt l 12 4, klive := numAt l 16 1
      hlive := numAt l 17 1, acclive := numAt l 18 2, bivlive := numAt l 20 4 }
  let ports : Nat := 0x1F000001
  let ok := zeroAt l 24 8 && decide (e.id < 4096) && (e.row == 0xFFFF || decide (e.row < g.frame)) && e.codeOff % 4 == 0 &&
    e.glive &&& ports == 0 && e.vlive &&& 0xF8000000 == 0 && !e.klive.testBit 0 && (g.twin || e.acclive == 0)
  if ok then some e else none

/-- A list of answers, all there. -/
def allSome {α : Type} : List (Option α) → Option (List α)
  | [] => some []
  | none :: _ => none
  | some a :: t => (allSome t).map (a :: ·)

/-- Are the entries in ascending order of code offset, and every id once? -/
def cairnsOrdered : List CairnEntry → Bool
  | a :: b :: t => decide (a.codeOff < b.codeOff) && !(b :: t).any (fun e => e.id == a.id) && cairnsOrdered (b :: t)
  | _ => true

/-- Consecutive blocks of n bytes. -/
def blocksOf (n : Nat) (l : List Byte) : List (List Byte) := (List.range (l.length / n)).map fun i => (l.drop (n * i)).take n

/-- A cairn table. -/
def parseCairns (g : ImageHead) (l : List Byte) : Option (List CairnEntry) :=
  (allSome ((blocksOf 32 l).map (parseCairn g))).filter cairnsOrdered

/-! ### Schedules (R142) -/

/-- A schedule section. -/
structure Schedule where
  frames : Nat := 1
  start : Nat := 0
  consts : AMap (BitVec 256) := []
  rows : AMap (BitVec 64) := []
  deriving DecidableEq, Repr

/-- n row words put from a row on. -/
def putRows (l : List Byte) (step row n : Nat) (m : AMap (BitVec 64)) : AMap (BitVec 64) :=
  (List.range n).foldl (fun m i => amPut 0 m (row + i) (BitVec.ofNat 64 (numAt l (step * i) 8))) m

/-- The records of a schedule: none where one runs past the section, writes beyond row 1,023 or has a nonzero zero field. -/
def parseRecords : Nat → List Byte → Nat → AMap (BitVec 64) → Option (AMap (BitVec 64))
  | 0, _, _, _ => none
  | fuel + 1, l, row, m =>
    let c := numAt l 0 4
    let n := c % 65536
    let rest := l.drop 4
    if l.length < 4 ∨ bitsOf c 29 16 ≠ 0 ∨ (bitsOf c 31 30 ≠ 3 ∧ 1024 < row + n) then none
    else
      match bitsOf c 31 30 with
      | 0 => if rest.length < 8 * n then none else parseRecords fuel (rest.drop (8 * n)) (row + n) (putRows rest 8 row n m)
      | 1 => if rest.length < 8 then none else parseRecords fuel (rest.drop 8) (row + n) (putRows rest 0 row n m)
      | 2 => parseRecords fuel rest (row + n) m
      | _ => if n = 0 then some m else none

/-- A schedule section (R142); a stream node's has its constant table first. -/
def parseSchedule (g : ImageHead) (stream : Bool) (l : List Byte) : Option Schedule :=
  let body := l.drop (if stream then 528 else 16)
  let consts := if stream then (List.range 16).map fun i => (i, BitVec.ofNat 256 (numAt l (16 + 32 * i) 32)) else []
  if l.length < (if stream then 528 else 16) ∨ 1 < numAt l 4 1 ∨ !zeroAt l 5 11 then none
  else
    match parseRecords (body.length / 4 + 1) body 0 [] with
    | none => none
    | some m =>
      if m.any fun p => decide (g.frame ≤ p.1) then none
      else some { frames := numAt l 0 4, start := numAt l 4 1, consts := consts, rows := m }

/-! ### Preloads (R142) -/

/-- The stages of one line. -/
def parseLine (l : List Byte) (sides at_ n : Nat) : List LinkWord :=
  (List.range n).map fun k => { data := BitVec.ofNat 256 (numAt l (at_ + 32 * k) 32), side := BitVec.ofNat 8 (numAt l (sides + k) 1) }

/-- A preload section: both lines. -/
def parsePreload (l : List Byte) : Option (List LinkWord × List LinkWord) :=
  let a := numAt l 0 1
  let b := numAt l 1 1
  if l.length < 64 + 32 * (a + b) ∨ 16 < a ∨ 16 < b ∨ !zeroAt l 2 14 then none
  else some (parseLine l 16 64 a, parseLine l 32 (64 + 32 * a) b)

/-! ### Rows (R129 to R139, R143) -/

/-- The output selects of a row, N to C. -/
def rowSels (w : Nat) : List Nat := (List.range 6).map (rowSel w)

/-- The delay-line inputs that a row names. -/
def lineSources (w : Nat) : List Nat := [rowLine w 0, rowLine w 1].filter fun c => decide (1 ≤ c ∧ c ≤ 6)

/-- Is a code one of the sources 1–6? -/
def isSource (c : Nat) : Bool := decide (1 ≤ c ∧ c ≤ 6)

/-- The element field of a row (R134 to R137). -/
def elementFieldOk (kind : ElKind) (pers w : Nat) : Bool :=
  let el := rowElem w
  match kind with
  | .compute => el == 0
  | .memory =>
    let rd := el.testBit 31
    let wr := el.testBit 30
    let wop := bitsOf el 15 12
    let takesC := (rowSels w).contains 6 || (lineSources w ++ unitSources .memory el).contains 6
    bitsOf el 25 16 == 0 && bitsOf el 3 0 == 0 && decide (wop ≤ 2) && decide (bitsOf el 6 4 ≠ 7) && decide (bitsOf el 11 7 ≤ 0x16) &&
      (wop == 0 || isSource (bitsOf el 6 4)) &&
      (!takesC || rd) && (wr == (rowSel w 5 != 0)) && (pers != 0 || (!rd && !wr))
  | .stream =>
    let sop := bitsOf el 31 28
    let inp := bitsOf el 27 25
    decide (sop ≤ 4) && decide (inp ≠ 7) && (if sop = 4 then inp == 0 else sop == 0 || isSource inp) && decide (bitsOf el 24 21 ≤ 4) &&
      decide (bitsOf el 20 18 ≤ 5) && bitsOf el 13 0 == 0
  | .edge =>
    let aop := bitsOf el 31 28
    let a := bitsOf el 27 25
    let b := bitsOf el 24 22
    decide (aop ≤ 2) && decide (a ≠ 7) && decide (b ≠ 7) && bitsOf el 21 0 == 0 && (aop == 0 || isSource a) &&
      (match aop with
       | 1 => isSource b
       | 2 => b == 0
       | _ => true)

/-- Is an element a stream node or a die-edge element? -/
def relOuter (k : Nat) : Bool := decide (8192 ≤ k)

/-- Does an output of a tile lead to a tile of the region? -/
def outputInside (g : ImageHead) (k o : Nat) : Bool :=
  let row := k / 64 % 64
  let col := k % 64
  match o with
  | 0 => decide (1 ≤ row)
  | 1 => decide (col + 1 < g.w)
  | 2 => decide (row + 1 < g.h)
  | 3 => decide (1 ≤ col)
  | _ => true

/-- The outputs N to V that an element's rows set. -/
def outputDirs (m : AMap (BitVec 64)) : List Nat := (List.range 5).filter fun o => m.any fun r => rowSel r.2.toNat o != 0

/-- The outputs that lead out of the tiles of a configuration: the element and the direction. -/
def rowExits (g : ImageHead) (rows : AMap (AMap (BitVec 64))) : List (Nat × Nat) :=
  rows.flatMap fun p => ((outputDirs p.2).filter fun o => relOuter p.1 || !outputInside g p.1 o).map fun o => (p.1, o)

/-- Can every output lead to an element of the region (R143)? Beyond its tiles stand its stream nodes and die-edge elements, each
beside one tile: such an element leads out in one direction, and the tiles lead out at no more places than there are such elements.
Which elements they are is known at a placement, where `exitsAt` tests it (log entry 31). -/
def outputsInside (g : ImageHead) (rows : AMap (AMap (BitVec 64))) : Bool :=
  decide (((rowExits g rows).filter fun e => !relOuter e.1).length ≤ g.streams + g.edges) && rows.all fun p => !relOuter p.1 || decide ((outputDirs p.2).length ≤ 1)

/-- One row of an element, with the lengths of its delay lines (R129, R133, R139, R143). -/
def rowOk (g : ImageHead) (k pers len0 len1 w : Nat) : Bool :=
  let kind := relKind k
  let xsrc := rowXsrc w
  let line (j len other : Nat) : Bool :=
    let c := rowLine w j
    decide (c ≤ 8) && (c == 0 || decide (len ≠ 0)) && (c != 8 || decide (other ≠ 0))
  rowSel w 5 != 6 && elementFieldOk kind pers w && line 0 len0 len1 && line 1 len1 len0 && (kind == .compute || rowCdir w == 0) &&
    (kind != .compute || xsrc != 3) && (!(rowSels w).contains 7 || xsrc != 0) && (xsrc != 1 || decide (len0 ≠ 0)) &&
    (xsrc != 2 || decide (len1 ≠ 0)) && (rowSel w 4 == 0 || g.twin)

/-- The sources that a row names; on a compute tile source C counts for each send FIFO on its own (R129, R143). -/
def rowSources (kind : ElKind) (w : Nat) : List Nat :=
  let outs := (List.range 6).filterMap fun o =>
    let c := rowSel w o
    if !isSource c then none else if kind = .compute ∧ c = 6 then some (60 + o) else some c
  let lines := (lineSources w).map fun c => if kind = .compute ∧ c = 6 then 60 + lineOutput w else c
  (outs ++ lines ++ unitSources kind (rowElem w)).eraseDups

/-- Do two rows of one group conflict (R143)? -/
def rowsConflict (kind : ElKind) (a b : Nat) : Bool :=
  (List.range 6).any (fun o => rowSel a o != 0 && rowSel b o != 0) ||
    (rowSources kind a).any (fun c => (rowSources kind b).contains c) || (rowElem a != 0 && rowElem b != 0) ||
    (rowXsrc a != 0 && rowXsrc b != 0) || [0, 1].any fun j => rowLine a j != 0 && rowLine b j != 0

/-- Does no pair of rows of one group conflict? -/
def groupsOk (offset : Nat) (kind : ElKind) : AMap (BitVec 64) → Bool
  | [] => true
  | p :: rest =>
    !rest.any (fun q => q.1 % offset == p.1 % offset && rowsConflict kind p.2.toNat q.2.toNat) && groupsOk offset kind rest

/-! ### Stream-node descriptors (R224) -/

/-- A descriptor of a node: an outer none where it is refused, an inner none for a generator that has none. -/
def parseNodeDesc (write : Bool) (l : List Byte) : Option (Option CopyDesc) :=
  if zeroAt l 0 128 then some none
  else
    match parseDesc l with
    | none => none
    | some d =>
      let used := if write then d.dst else d.src
      let other := if write then d.src else d.dst
      if isGlobal used && other == 0 && !d.follow && d.fw0 == 0 && d.fw1 == 0 && decide (d.tag ≤ (if write then 0 else 0x16)) then some (some d)
      else none

/-! ### The engine binding table (R41) -/

/-- A record, or none for a nonzero zero field. -/
def parseBinding (l : List Byte) : Option Binding :=
  if zeroAt l 5 11 then
    some { engine := numAt l 0 1, index := numAt l 1 1, row := numAt l 2 1, col := numAt l 3 1, layer := numAt l 4 1 }
  else none

/-- The layers that a configuration covers. -/
def headLayers (g : ImageHead) : List Nat := if g.twin then [0, 1] else [0]

/-- The records that the table of a configuration holds. -/
def expectedBindings (g : ImageHead) (pers : AMap Personality) : List Binding :=
  let chans := pers.flatMap fun p =>
    (onesBelow 4 p.2.chmask).map fun c =>
      ({ engine := 1, index := c, row := p.1 / 64 % 64, col := p.1 % 64, layer := p.1 / 4096 } : Binding)
  let arrays := if g.twin then
      (List.range g.h).flatMap fun i => (List.range g.w).filterMap fun j =>
        if computePos i j then some ({ engine := 2, row := i, col := j } : Binding) else none
    else []
  let quads := if g.quad then
      (List.range (g.h / 2)).flatMap fun i => (List.range (g.w / 4)).flatMap fun j =>
        (headLayers g).map fun y => ({ engine := 3, row := 2 * i, col := 4 * j, layer := y } : Binding)
    else []
  chans ++ arrays ++ quads ++ (List.range g.streams).map (fun n => { engine := 4, index := n }) ++
    (List.range g.edges).map fun n => { engine := 5, index := n }

/-- Does a table hold exactly the records of its configuration, each once? -/
def bindingsOk (g : ImageHead) (pers : AMap Personality) (l : List Binding) : Bool :=
  let e := expectedBindings g pers
  l.length == e.length && e.all l.contains

/-! ### A whole image -/

/-- A configuration image that passed every check of its load. -/
structure Image where
  head : ImageHead
  frames : Nat := 1
  start : Nat := 0
  cores : List CoreCode := []
  cairns : AMap (List CairnEntry) := []
  rows : AMap (AMap (BitVec 64)) := []
  consts : AMap (AMap (BitVec 256)) := []
  lines : AMap (List LinkWord × List LinkWord) := []
  pers : AMap Personality := []
  nodes : AMap (Option CopyDesc × Option CopyDesc) := []
  bindings : List Binding := []
  deriving DecidableEq, Repr

/-- The parsed sections of some kinds under their elements, or none where one is refused. -/
def collect {α : Type} (l : List Loaded) (sel : Section → Bool) (key : Section → Nat) (f : Section → List Byte → Option α) : Option (AMap α) :=
  (l.filter fun p => sel p.1).foldl (fun acc p =>
    match acc, f p.1 p.2 with
    | some m, some a => some (amInsert m (key p.1) a)
    | _, _ => none) (some [])

/-- Does each cairn entry's ROW, where it names one, carry the CAIRN mark in some element, and stands one id at rows of one index over
the cores (R35, R37)? -/
def cairnRowsOk (rows : AMap (AMap (BitVec 64))) (l : List CairnEntry) : Bool :=
  (l.all fun e => e.row == 0xFFFF || rows.any fun p => rowCairn (amGet p.2 e.row 0).toNat) &&
    l.all fun e => l.all fun f => e.id != f.id || e.row == f.row

/-- The sections of an image joined and checked (R35, R37, R39, R41, R143, R325). DESIGN CHOICE: a tile without a KIND 5 section has
PERS 0, so that rows of it that set RD or WR refuse the image (R166; log entry 31). -/
def buildImage (g : ImageHead) (l : List Loaded) : Option Image := do
  let kinds (ks : List Nat) (e : Section) : Bool := ks.contains e.kind
  let cairns ← collect l (kinds [3]) relElement fun _ b => parseCairns g b
  let scheds ← collect l (kinds [4, 8, 9]) relElement fun e b => parseSchedule g (e.kind == 8) b
  let pers ← collect l (kinds [5]) relElement fun _ b => parsePersonality b
  let lines ← collect l (kinds [6]) relElement fun _ b => parsePreload b
  let nodes ← collect l (fun e => e.kind == 7 && e.col == 0xFF) (fun e => e.row) fun _ b => do
    let r ← parseNodeDesc false (b.take 128)
    let w ← parseNodeDesc true (b.drop 128)
    pure (r, w)
  let bindings ← allSome ((l.filter fun p => p.1.kind == 7 && p.1.col == 0xFE).flatMap fun p => (blocksOf 16 p.2).map parseBinding)
  let first : Schedule := (scheds.head?.map (·.2)).getD {}
  let agree := scheds.all fun p => p.2.frames == first.frames && p.2.start == first.start
  let rowsOk := scheds.all fun p =>
    let d := amGet lines p.1 ([], [])
    p.2.rows.all (fun r => rowOk g p.1 (amGet pers p.1 {}).pers d.1.length d.2.length r.2.toNat) &&
      groupsOk g.offset (relKind p.1) p.2.rows
  let cairnRow := scheds.any fun p => p.2.rows.any fun r => rowCairn r.2.toNat
  let rows := scheds.map fun p => (p.1, p.2.rows)
  let ok := agree && rowsOk && outputsInside g rows && cairnRowsOk rows (cairns.flatMap fun p => p.2) && !(first.frames == 0 && first.start == 1) && (decide (first.frames ≠ 0) || cairnRow) && bindingsOk g pers bindings
  if ok then
    some { head := { g with exits := rowExits g rows }, frames := first.frames, start := first.start
           cores := (l.filter fun p => p.1.kind == 1).map fun p =>
             { row := p.1.row, col := p.1.col, layer := p.1.layer, off := p.1.off, size := p.1.size }
           cairns := cairns, rows := rows, consts := scheds.map fun p => (p.1, p.2.consts)
           lines := lines, pers := pers, nodes := nodes, bindings := bindings }
  else none

/-- Reads the bytes of every section. Code and data are run and read where they lie (R40) and are not copied. -/
def rdSections (w : Who) (config : Word) : List Section → Rd (List Loaded)
  | [] => pure []
  | e :: rest => do
    let b ← if e.kind = 1 ∨ e.kind = 2 then pure [] else rdBytes w (config + BitVec.ofNat 64 e.off) e.size
    let l ← rdSections w config rest
    pure ((e, b) :: l)

/-- The code section of a core. -/
def codeSection (l : List Section) (e : Section) : Option Section :=
  l.find? fun c => c.kind == 1 && c.layer == e.layer && c.row == e.row && c.col == e.col

/-- A data section stands at the first multiple of 64 after its core's code, with zeros between (R35, R39, R40). DESIGN CHOICE: an image
with a data section or a cairn table of a core that has no code section is refused (log entry 31). -/
def rdDataPlaces (w : Who) (config : Word) (l : List Section) : List Section → Rd Unit
  | [] => pure ()
  | e :: rest => do
    if e.kind = 2 then do
      let c ← rdOpt (codeSection l e)
      let past := c.off + c.size
      rdCheck (e.off == (past + 63) / 64 * 64)
      let gap ← if past = e.off then pure [] else rdBytes w (config + BitVec.ofNat 64 past) (e.off - past)
      rdCheck (gap.all fun b => b == 0)
    else pure ()
    rdDataPlaces w config l rest

/-- Each entry of a core's cairn table names a CAIRN of its id in the core's code (R35, R37). -/
def rdCairnPlaces (w : Who) (config : Word) (c : Section) : List CairnEntry → Rd Unit
  | [] => pure ()
  | e :: rest => do
    rdCheck (decide (e.codeOff + 4 ≤ c.size))
    let b ← rdBytes w (config + BitVec.ofNat 64 (c.off + e.codeOff)) 4
    rdCheck (match decodeWords (BitVec.ofNat 32 (ofBytes b)) 0 with
      | .ok (.cairn i) => i.toNat == e.id
      | _ => false)
    rdCairnPlaces w config c rest

/-- The same for every cairn table. -/
def rdCairnTables (w : Who) (config : Word) (l : List Section) (cairns : AMap (List CairnEntry)) : List Section → Rd Unit
  | [] => pure ()
  | e :: rest => do
    if e.kind = 3 then do
      let c ← rdOpt (codeSection l e)
      rdCairnPlaces w config c (amGet cairns (relElement e) [])
    else pure ()
    rdCairnTables w config l cairns rest

/-- Loads the image at an address of a function: none where it is refused or cannot be read (R35, R37, R39, R40). -/
def rdImage (w : Who) (config : Word) : Rd Image := do
  let hb ← rdBytes w config 64
  let g ← rdOpt (parseHead hb)
  let tb ← rdBytes w (config + BitVec.ofNat 64 g.table) (16 * g.count)
  let entries := blocksOf 16 tb
  rdCheck (entries.all (sectionOk g) && sectionsDistinct (entries.map sectionOf))
  let es := entries.map sectionOf
  let l ← rdSections w config es
  rdDataPlaces w config es es
  let i ← rdOpt (buildImage g l)
  rdCairnTables w config es i.cairns es
  pure i

end Sys2Proof.Machine
end

