-- ==== Sys2Proof/Machine/Threads.lean ====
section
/-! DEFINITION. Thread control and the system registers: MFS, MTS, TRAP, ERET, HALT, ROPE, SPLIT, YIELD, and the slots of a
core (R71, R78 to R96, R320, R321). -/
namespace Sys2Proof.Machine

/-! ### Reading system registers (R86 to R96) -/

/-- The region-relative position of a core in its region (R91, R311). -/
def relPos (r : Region) (core : Nat) : Nat × Nat := (packRow core - r.prow, packCol core - r.pcol)

/-- The region-relative layer of a core. -/
def relLayer (r : Region) (core : Nat) : Nat := if layerOf (dieOf core) = r.layer then 0 else 1

/-- COREID (R91). -/
def coreidWord (s : State) (t : ThreadRef) : Word :=
  let rel := match threadRegion s t with
    | some r => relPos r t.core
    | none => (0, 0)
  BitVec.ofNat 64 (rel.1 * 2 ^ 40 + rel.2 * 2 ^ 32 + qcoreOf t.core * 2 ^ 16 + rowOf t.core * 2 ^ 8 + colOf t.core)

/-- QUADID (R91). -/
def quadidWord (core : Nat) : Word :=
  let i := rowOf core / 2
  let j := colOf core / 4
  BitVec.ofNat 64 (j * 2 ^ 12 + i * 2 ^ 8 + (8 * i + j))

/-- DIEID (R91). -/
def dieidWord (core : Nat) : Word :=
  let d := dieOf core
  BitVec.ofNat 64 (layerOf d * 2 ^ 10 + stackOf d * 2 ^ 8 + d)

/-- REGIONID (R91). -/
def regionidWord (s : State) (t : ThreadRef) : Word :=
  match threadRegion s t with
  | some r => BitVec.ofNat 64 (r.inst % 2 ^ 24 * 2 ^ 8 + amGet r.rowCounters (dieOf t.core) 0 % 32)
  | none => 0

/-- LICENCE (R94). -/
def licenceWord (s : State) (t : ThreadRef) : Word :=
  let r := threadRegion s t
  let p := getPair s (pairKey t.core)
  let side := sideOf t.core
  if hasArray r then
    BitVec.ofNat 64 (8 * bit (requested p (otherSide side)) + 4 * bit (requested p side) + holderCode s r t.core)
  else 3

/-- PWRSTATE (R94). -/
def pwrstateWord (s : State) (core : Nat) : Word :=
  let c := getCore s core
  BitVec.ofNat 64 (coreOpp s core % 16 * 2 ^ 12 + bit c.skip * 2 ^ 9 + c.fetchDuty % 32 * 2 ^ 4 + bit c.low)

/-- A system register of R15 as a thread reads it. -/
def sysRead (s : State) (t : ThreadRef) (r : Nat) : Word :=
  let x := getThread s t
  let c := getCore s t.core
  match r with
  | 0x000 => x.status
  | 0x001 => x.fpctl
  | 0x002 => x.mprog
  | 0x003 => x.cbsel
  | 0x010 => BitVec.ofNat 64 t.slot
  | 0x011 => coreidWord s t
  | 0x012 => quadidWord t.core
  | 0x013 => dieidWord t.core
  | 0x014 => regionidWord s t
  | 0x018 => x.domain1
  | 0x019 => x.domain2
  | 0x01A => x.domain3
  | 0x01B => x.domain4
  | 0x020 => x.bivbase
  | 0x021 => x.bivlimit
  | 0x022 => x.bivovf
  | 0x028 => licenceWord s t
  | 0x030 => pwrstateWord s t.core
  | 0x031 => BitVec.ofNat 64 c.fetchDuty
  | 0x038 => c.msgSent
  | 0x039 => c.msgRecv
  | 0x040 => BitVec.ofNat 64 s.cycle
  | 0x041 => x.instret
  | 0x042 => x.stalls
  | 0x100 => x.trappc
  | 0x101 => x.trapcause
  | 0x102 => x.trapval
  | 0x103 => x.trapvec
  | _ => 0

/-! ### Writing system registers (R86 to R96) -/

/-- FPCTL written field by field: an RM of 5 to 7 leaves RM as it is (R88). -/
def fpctlWrite (old v : Word) : Word :=
  let rm := if fieldOf v 7 5 < 5 then fieldOf v 7 5 else fieldOf old 7 5
  BitVec.ofNat 64 (rm * 32 + fieldOf v 4 0)

/-- A DOMAIN register as a write leaves it: a write that breaks a limit of R292 (a TREE in DOMAIN1, or two equal TREE values
at levels 2 to 4) leaves the old value. -/
def domainWrite (x : Thread) (level : Nat) (old v : Word) : Word :=
  let tree (w : Word) : Nat := fieldOf w 23 20
  let others := ([(2, x.domain2), (3, x.domain3), (4, x.domain4)].filter fun p => decide (p.1 ≠ level)).map fun p => tree p.2
  if level = 1 then (if tree v = 0 then v &&& 0xFFFF else old)
  else if others.contains (tree v) then old else v &&& 0xF0FFFF

/-- A sys-mode write of a register; RO registers and fields keep their values (R6, R16). INSTRET takes the value less the one
that this MTS itself adds when it retires (R95). -/
def sysWrite (s : State) (t : ThreadRef) (r : Nat) (v : Word) : State :=
  let put (f : Thread → Thread) : State := modThread s t f
  match r with
  | 0x000 => put fun x => { x with status := (x.status &&& ~~~2) ||| (v &&& 2) }
  | 0x001 => put fun x => { x with fpctl := fpctlWrite x.fpctl v }
  | 0x002 => put fun x => { x with mprog := v &&& 0xFFFFFFFF }
  | 0x003 => put fun x => { x with cbsel := v &&& 1 }
  | 0x018 => put fun x => { x with domain1 := domainWrite x 1 x.domain1 v }
  | 0x019 => put fun x => { x with domain2 := domainWrite x 2 x.domain2 v }
  | 0x01A => put fun x => { x with domain3 := domainWrite x 3 x.domain3 v }
  | 0x01B => put fun x => { x with domain4 := domainWrite x 4 x.domain4 v }
  | 0x020 => put fun x => { x with bivbase := v &&& 0x3FFC0 }
  | 0x021 => put fun x => { x with bivlimit := v &&& 0x3FFC0 }
  | 0x022 => put fun x => { x with bivovf := v &&& 0x01FFFFFFFFFFFFC0 }
  | 0x031 =>
    let d := fieldOf v 4 0
    if 1 ≤ d ∧ d ≤ 16 then modCore s t.core fun c => { c with fetchDuty := d } else s
  | 0x038 => modCore s t.core fun c => { c with msgSent := v }
  | 0x039 => modCore s t.core fun c => { c with msgRecv := v }
  | 0x041 => put fun x => { x with instret := v - 1 }
  | 0x042 => put fun x => { x with stalls := v }
  | 0x100 => put fun x => { x with trappc := v }
  | 0x101 => put fun x => { x with trapcause := v &&& 0xFF }
  | 0x102 => put fun x => { x with trapval := v }
  | 0x103 => put fun x => { x with trapvec := v &&& 0x01FFFFFFFFFFFFFC }
  | _ => s

/-- Is the register one that app mode may not read (R15)? -/
def sysHidden (r : Nat) : Bool := decide (0x100 ≤ r)

/-- Is the register one that app mode may write (R15)? -/
def appWritable (r : Nat) : Bool := decide (1 ≤ r ∧ r ≤ 3)

/-- MFS (R16, R86). -/
def execMfs (d : Reg) (r : BitVec 12) (s : State) : Host.Outcome State Fault Refusal :=
  run4 (do
    if sysHidden r.toNat then requireSys (.mfs d r) else pure ()
    withPorts [] [] [d] [] do
      let s ← getS
      writeG d (sysRead s s.cur r.toNat)) s

/-- MTS (R16, R86). -/
def execMts (a : Reg) (r : BitVec 12) (s : State) : Host.Outcome State Fault Refusal :=
  run4 (do
    if appWritable r.toNat then pure () else requireSys (.mts a r)
    withPorts [a] [] [] [] do
      let v ← readG a
      modS fun s => sysWrite s s.cur r.toNat v) s

/-! ### TRAP and ERET -/

/-- TRAP (R320). -/
def execTrap (n : BitVec 12) (s : State) : Host.Outcome State Fault Refusal :=
  run4 (trapM causeBreak (n.setWidth 64)) s

/-- ERET (R321). -/
def execEret (s : State) : Host.Outcome State Fault Refusal :=
  runJump (do
    requireSys .eret
    returnFromTrap) s

/-! ### Slots (R71) -/

/-- Is a slot free? -/
def slotFree (s : State) (core slot : Nat) : Bool := (getThread s { core := core, slot := slot }).slotState == .free

/-- The lowest free slot of a core. -/
def lowestFree (s : State) (core : Nat) : Option Nat := (List.range 4).find? fun i => slotFree s core i

/-- The slot that a packet can take now (R71). -/
def slotFor (s : State) (core : Nat) (p : LaunchPacket) : Option Nat :=
  if p.slot = 0xFF then lowestFree s core else if slotFree s core p.slot then some p.slot else none

/-- The region of a packet's partition that its INST names; INST is that of REGIONID, of 24 bits (R72, R91). -/
def packetRegion (s : State) (p : LaunchPacket) : Option Region :=
  if p.inst < 2 ^ 24 then getRegion s (regionKey p.part p.inst) else none

/-- The context engine accepts a packet into a slot: the slot is occupied, and its code memory is that of the launch (R12,
R71). DESIGN CHOICE: SEQ starts again at 0 with each new thread; R74 gives it no value at creation (log entry 4). -/
def acceptPacket (s : State) (core slot : Nat) (p : LaunchPacket) : State :=
  let r := packetRegion s p
  setThread s { core := core, slot := slot }
    { slotState := .creating p, part := p.part, inst := p.inst
      func := (r.map (·.func)).getD 0
      code := (r.map (·.code)).getD s.gmem }

/-- Every waiting packet whose slot is free takes it, in arrival order (R71). -/
def admitWaiting (s : State) (core : Nat) : State :=
  (getCore s core).waiting.foldl (fun s p =>
    match slotFor s core p with
    | some i =>
      acceptPacket (modCore s core fun c => { c with waiting := c.waiting.erase p }) core i p
    | none => s) s

/-- Is no slot of the core occupied? -/
def coreEmpty (s : State) (core : Nat) : Bool := (List.range 4).all fun i => slotFree s core i

/-! ### Ropes (R81 to R84) -/

/-- Runs work of another thread in its name and keeps what it leaves. -/
def asThread (s : State) (t : ThreadRef) (m : M Unit) : State := { effectOf m { s with cur := t } with cur := s.cur }

/-- A thread with the same slot on another core of the quad. -/
def ropePeer (t : ThreadRef) (q : Nat) : ThreadRef := { core := quadCore t.core q, slot := t.slot }

/-- The mask and destination of a pending arrival. -/
def arrivalOf (x : Thread) : Option (Nat × Nat) :=
  match x.wait with
  | .rope m d => some (m, d)
  | _ => none

/-- A thread's ROPE is refused in this cycle (R82). -/
def noteRefusal (s : State) (t : ThreadRef) : State := modThread s t fun x => { x with ropeRefusedAt := some s.cycle }

/-- A pending ROPE ends with a result: the thread goes on behind it, at `pc`. -/
def endArrival (s : State) (u : ThreadRef) (d : Nat) (result pc : Word) : State :=
  let s := asThread s u (writeG (BitVec.ofNat 5 d) result)
  markIssued (retire (releasePorts s u (getThread s u)) u pc) u 3

/-- All ones. -/
def refusedWord : Word := BitVec.allOnes 64

/-- Refuses every pending arrival of the quad and slot that a test selects; each refusal is one of a named member, so that
arrivals naming it fall with it (R82). -/
def refuseArrivals (t : ThreadRef) : Nat → (Nat → Nat → Bool) → State → State
  | 0, _, s => s
  | n + 1, sel, s =>
    let hit := (List.range 4).filter fun q =>
      match arrivalOf (getThread s (ropePeer t q)) with
      | some (m, _) => sel q m
      | none => false
    if hit.isEmpty then s
    else
      let s := hit.foldl (fun s q =>
        let u := ropePeer t q
        match arrivalOf (getThread s u) with
        | some (_, d) => endArrival (noteRefusal s u) u d refusedWord ((getThread s u).pc + 4)
        | none => s) s
      refuseArrivals t n (fun _ m => hit.any fun q => m.testBit q) s

/-- Every pending arrival that names a member of the quad is refused (R82). -/
def refuseNaming (s : State) (t : ThreadRef) (q : Nat) : State := refuseArrivals t 5 (fun _ m => m.testBit q) s

/-- Does R82 refuse a ROPE of a thread at once? A named member whose own ROPE was refused in this cycle refuses the arrivals
that name it, those made later in the cycle too. -/
def ropeRefused (s : State) (t : ThreadRef) (mask : Nat) : Bool :=
  let n := popcount 4 mask
  let q := qcoreOf t.core
  let others := (List.range 4).filter fun i => mask.testBit i && i != q
  decide (n ≠ 2 ∧ n ≠ 4) || isService t.core || !mask.testBit q || !((threadRegion s t).any fun r => r.quad) ||
    isRoped (getThread s t) ||
    others.any fun i =>
      let y := getThread s (ropePeer t i)
      y.slotState == .free || isRoped y || y.ropeRefusedAt == some s.cycle ||
        (match arrivalOf y with
         | some (m, _) => m != mask
         | none => false)

/-- The members' ranks in ascending QCORE order. -/
def ropeRankOf (mask q : Nat) : Nat := popcount q mask

/-- The leader of a mask. -/
def ropeLeader (mask : Nat) : Nat := firstOne 4 mask

/-- The rope forms: every member goes on behind the leader's ROPE with its rank (R82). The executing thread retires itself. -/
def formRope (s : State) (t : ThreadRef) (mask : Nat) : State :=
  let pc := (getThread s (ropePeer t (ropeLeader mask))).pc + 4
  (onesBelow 4 mask).foldl (fun s q =>
    let u := ropePeer t q
    let s := modThread s u fun x => setRope x true (ropeRankOf mask q) mask
    if u = t then s
    else
      match arrivalOf (getThread s u) with
      | some (_, d) => endArrival s u d (BitVec.ofNat 64 (ropeRankOf mask q)) pc
      | none => s) s

/-- ROPE (R82). -/
def execRope (d : Reg) (mask : BitVec 4) (s : State) : Host.Outcome State Fault Refusal :=
  runJump (withPorts [] [] [d] [] do
    let s ← getS
    let t := s.cur
    let x ← self
    let m := mask.toNat
    let q := qcoreOf t.core
    if isRoped x && ropeMask x == m then do
      writeG d (BitVec.ofNat 64 (ropeRank x))
      pure none
    else if ropeRefused s t m then do
      modS fun s => refuseNaming (noteRefusal s t) t q
      writeG d refusedWord
      pure none
    else
      let differ (s : State) : State := refuseArrivals t 5 (fun _ k => k.testBit q && k != m) s
      let all := (onesBelow 4 m).all fun i => i == q || (arrivalOf (getThread (differ s) (ropePeer t i))).isSome
      if all then do
        modS fun s => formRope (differ s) t m
        writeG d (BitVec.ofNat 64 (ropeRankOf m q))
        pure (some ((getThread s (ropePeer t (ropeLeader m))).pc + 4))
      else waitKeepM (.rope m d.toNat) differ) s

/-- SPLIT (R85). -/
def execSplit (s : State) : Host.Outcome State Fault Refusal := run4 (modS fun s => dissolveRope s s.cur) s

/-! ### HALT (R78, R79) -/

/-- A scratchpad powered down: it reads as zero when a later configuration is installed (R79). -/
def powerDown (c : Core) : Core := { c with powered := false, scratch := {}, retention := none }

/-- A scratchpad retained for a successor handle with its place in the region (R79). -/
def retainScratch (s : State) (t : ThreadRef) (handle : Word) : State :=
  let x := getThread s t
  let p := match threadRegion s t with
    | some r => { handle := handle, row := (relPos r t.core).1, col := (relPos r t.core).2, layer := relLayer r t.core, part := x.part, inst := x.inst }
    | none => ({ handle := handle, part := x.part } : Retention)
  modCore s t.core fun c => { c with retention := some p }

/-- A slot freed: arrivals that name its core fall, its ports are let go, and a waiting packet takes it (R71, R82). -/
def freeSlotOf (s : State) (t : ThreadRef) : State :=
  let s := setThread s t {}
  let s := modCore s t.core fun c => { c with portHold := c.portHold.filter fun p => p.2.slot ≠ t.slot }
  let s := if isService t.core then s else refuseNaming s t (qcoreOf t.core)
  admitWaiting s t.core

/-- What the HALT that empties a core does: the licence goes, and the scratchpad is retained or powered down (R78, R249). -/
def coreEmptied (s : State) (t : ThreadRef) (retained : Option State) : State :=
  let s := match retained with
    | some r => r
    | none => modCore s t.core powerDown
  if isService t.core then s else releaseLicence s (pairKey t.core) (sideOf t.core)

/-- A HALT's effect on the state in which every earlier access is accepted. -/
def haltThread (s : State) (t : ThreadRef) (handle : Option Word) : State :=
  let s := performAll s t
  let r := fun s => match handle with
    | some h => some (retainScratch s t h)
    | none => none
  let free := freeSlotOf s t
  if coreEmpty free t.core then
    match r s with
    | some k => coreEmptied (freeSlotOf k t) t (some (freeSlotOf k t))
    | none => coreEmptied free t none
  else free

/-- The work of both forms: it waits for engine commands that are still on their way (R78). -/
def haltWork (handle : M (Option Word)) (s : State) : Host.Outcome State Fault Refusal :=
  let m : M Unit := do
    let h ← handle
    let s ← getS
    if fenceWaits s s.cur 0 then waitKeepM .condition fun s => performAll s s.cur
    else modS fun s => haltThread s s.cur h
  match m s with
  | .ok (_, s') => .next s'
  | .error (.trap cause val keep) => .next (takeTrap (keep s) s.cur cause val)
  | .error (.wait w keep) => .next (blockThread (keep s) s.cur w)

/-- HALT (R78). -/
def execHalt (s : State) : Host.Outcome State Fault Refusal := haltWork (pure none) s

/-- HALT with retain = 1 (R78). -/
def execHaltRetain (a : Reg) (s : State) : Host.Outcome State Fault Refusal :=
  haltWork (do
    let h ← readG a
    pure (some h)) s

/-! ### YIELD (R80) -/

/-- YIELD (R80): the thread is not ready for n cycles of its core after this one; with n = 0 the next choice of each class
passes it over. -/
def execYield (n : BitVec 12) (s : State) : Host.Outcome State Fault Refusal :=
  run4 (modS fun s =>
    modThread s s.cur fun x =>
      if n = 0 then { x with passScalar := some s.cycle, passVector := some s.cycle } else { x with yieldLeft := n.toNat + 2 }) s

/-- YIELD_EXPIRY (R80): a thread whose count has run out is ready again. -/
def execYieldExpiry (core slot : Nat) (s : State) : Host.Outcome State Fault Refusal :=
  runStep (fun s =>
    let t : ThreadRef := { core := core, slot := slot }
    if (getThread s t).yieldLeft = 1 then modThread s t fun x => { x with yieldLeft := 0 } else s) s

end Sys2Proof.Machine
end

