-- ==== Sys2Proof/Machine/Install.lean ====
section
/-! DEFINITION. Launch commands and domain tables, the conditions and resources of a placement, and the installation of a
region (R79, R145, R290, R305 to R307, R311 to R313). -/
namespace Sys2Proof.Machine

/-! ### Launch commands (R305 to R307) -/

/-- A launch command with what its tables hold. -/
structure LaunchCmd where
  config : Word
  image : Word
  ovfbase : Word
  wset : Word
  domtab : Word
  signal : Word
  deps : List Word
  handle : Word
  imgstride : Nat
  bivtop : Nat
  bivsz : Nat
  ovfstride : Nat
  deadline : Nat
  wsetn : Nat
  nslot : Nat
  nt : Nat
  irq : Bool
  share : Option (Nat × Nat)
  working : List (Nat × Nat × Nat) := []
  domains : List Word := []
  entries : AMap (BitVec 32) := []
  deriving DecidableEq, Repr

/-- Doubleword i of a block. -/
def dwordAt (l : List Byte) (i : Nat) : Word := BitVec.ofNat 64 (numAt l (8 * i) 8)

/-- The 128 bytes of a launch command, or none where they break R305 or R306. -/
def parseLaunch (l : List Byte) : Option LaunchCmd :=
  let flags := numAt l 111 1
  let share := numAt l 112 4
  let c : LaunchCmd :=
    { config := dwordAt l 0, image := dwordAt l 1, ovfbase := dwordAt l 2, wset := dwordAt l 3, domtab := dwordAt l 4
      signal := dwordAt l 5, deps := (List.range 4).map fun i => dwordAt l (6 + i), handle := dwordAt l 10
      imgstride := numAt l 88 4, bivtop := numAt l 92 4, bivsz := numAt l 96 4, ovfstride := numAt l 100 4, deadline := numAt l 104 4
      wsetn := numAt l 108 1, nslot := numAt l 109 1, nt := numAt l 110 1, irq := bitOf flags 0
      share := if bitOf flags 1 then some (bitsOf share 15 0, bitsOf share 19 16) else none }
  let aligned (w : Word) (n : Nat) : Bool := w.toNat % n == 0
  let ok := aligned c.config 64 && aligned c.image 64 && aligned c.ovfbase 64 && aligned c.wset 16 && aligned c.domtab 64 &&
    (decide (c.wsetn ≠ 0) || c.wset == 0) && (c.signal :: c.deps).all (fun w => fieldOf w 62 60 == 0) &&
    (c.imgstride == 0 || (c.imgstride % 64 == 0 && decide (2496 ≤ c.imgstride))) && c.bivtop % 64 == 0 && decide (c.bivtop ≤ 262144) &&
    c.bivsz % 64 == 0 && c.ovfstride % 64 == 0 && decide (c.wsetn ≤ 16) && decide (1 ≤ c.nslot ∧ c.nslot ≤ 4) && decide (c.nt ≤ 16) &&
    decide (flags < 4) && decide (share < 2 ^ 20) && zeroAt l 116 12 && decide (c.nslot * c.bivsz ≤ c.bivtop)
  if ok then some c else none

/-- A working-set entry: its first page, hint and length (R305). -/
def parseRange (l : List Byte) : Option (Nat × Nat × Nat) :=
  let a := dwordAt l 0
  let n := numAt l 8 8
  if fieldOf a 63 57 = 0 ∧ fieldOf a 9 0 = 0 ∧ 1 ≤ n ∧ n ≤ 2 ^ 32 then some (fieldOf a 56 12, fieldOf a 11 10, n) else none

/-- The quads of a configuration, on each layer that it covers. -/
def headQuads (g : ImageHead) : Nat := if g.quad then (headLayers g).length * (g.h / 2) * (g.w / 4) else 0

/-- The four DOMAIN values of a domain table that satisfy R292. -/
def domainsOk (l : List Word) : Bool :=
  let t (i : Nat) : Nat := domTree (l.getD i 0)
  l.all (fun w => fieldOf w 63 24 == 0 && fieldOf w 19 16 == 0) && t 0 == 0 && t 1 != t 2 && t 1 != t 3 && t 2 != t 3

/-- The entries of a domain table by quad and tree (R291, R307). -/
def parseEntries (nt quads : Nat) (l : List Byte) : AMap (BitVec 32) :=
  (List.range (quads * nt)).foldl (fun m i => amPut 0 m (i / nt * 16 + i % nt) (BitVec.ofNat 32 (numAt l (32 + 4 * i) 4))) []

/-- Loads a launch command with its configuration, working set and domain table: none where R306 refuses it. -/
def rdLaunch (w : Who) (cmd : Word) : Rd (LaunchCmd × Image) := do
  let b ← rdBytes w cmd 128
  let c ← rdOpt (parseLaunch b)
  let g ← rdImage w c.config
  rdCheck (c.nt == 0 || g.head.quad)
  let wb ← if c.wsetn = 0 then pure [] else rdBytes w c.wset (16 * c.wsetn)
  let ws ← rdOpt (allSome ((blocksOf 16 wb).map parseRange))
  let q := headQuads g.head
  let db ← rdBytes w c.domtab (32 + 4 * c.nt * q)
  let doms := (List.range 4).map (dwordAt db)
  let es := parseEntries c.nt q db
  rdCheck (domainsOk doms && es.all fun e => fieldOf e.2 15 1 == 0)
  pure ({ c with working := ws, domains := doms, entries := es }, g)

/-! ### Areas (R79, R246, R311) -/

/-- A base of a placement. -/
structure Base where
  prow : Nat := 0
  pcol : Nat := 0
  layer : Nat := 0
  deriving DecidableEq, Repr

/-- The tiles that a configuration would cover, as a region without contents. -/
def footprint (g : ImageHead) (b : Base) : Region :=
  { h := g.h, w := g.w, twin := g.twin, quad := g.quad, prow := b.prow, pcol := b.pcol, layer := b.layer }

/-- The dies that a region covers. -/
def regionDies (r : Region) : List Nat := ((regionTiles r).map dieOf).eraseDups

/-- May the placer use a die (R246, R311, R358)? -/
def dieUsable (s : State) (p d : Nat) : Bool :=
  let t := getPart s p
  ownsStack t (stackOf d) && t.ready.getLsbD (32 + d) && !s.offlineDies.contains d && !s.freezing.contains d

/-- Does a region of the list hold the tile? -/
def tileTaken (rs : List Region) (k : Nat) : Bool := rs.any fun r => regionHas r k

/-- The resident regions. -/
def residentRegions (s : State) : List Region := s.regions.map (·.2)

/-- Does a tile's retention, if any, let a launch with a handle stand there, at a relative position (R79)? -/
def retentionLets (s : State) (p : Nat) (handle : Word) (k row col layer : Nat) : Bool :=
  match (getCore s k).retention with
  | none => true
  | some t => t.part == p && handle != 0 && t.handle == handle && t.row == row && t.col == col && t.layer == layer

/-- Do the tiles that retain for the handle fall at their relative positions (R79)? -/
def retainersPlaced (s : State) (p : Nat) (handle : Word) (r : Region) : Bool :=
  handle == 0 || s.cores.all fun c =>
    match c.2.retention with
    | none => true
    | some t => t.part != p || t.handle != handle || (inRegion r t.row t.col t.layer && regionTile r t.row t.col t.layer == c.1)

/-- The conditions of R311 but the last: parity, quads, dies, free tiles and retentions. `rs` are the regions that take
tiles, `barred` the tiles that a reservation keeps. -/
def areaOk (s : State) (p : Nat) (g : ImageHead) (handle : Word) (rs : List Region) (barred : Nat → Bool) (b : Base) : Bool :=
  let r := footprint g b
  (b.prow + b.pcol) % 2 == 0 && decide (b.layer ≤ 1) && (!g.quad || (b.prow % 2 == 0 && b.pcol % 4 == 0)) &&
    decide (b.prow + g.h ≤ 48) && decide (b.pcol + g.w ≤ 64) && (regionDies r).all (dieUsable s p) &&
    ((headLayers g).all fun y => (List.range g.h).all fun i => (List.range g.w).all fun j =>
      let k := regionTile r i j y
      !tileTaken rs k && !barred k && retentionLets s p handle k i j y) &&
    retainersPlaced s p handle r

/-! ### Resources (R145, R290, R312) -/

/-- The row counters, physical trees, stream nodes and die-edge elements that a placement takes. -/
structure Alloc where
  counters : AMap Nat := []
  trees : AMap Nat := []
  nodes : List Nat := []
  edges : List Nat := []
  deriving DecidableEq, Repr

/-- The lowest n numbers below a bound that a list does not hold, if there are that many. -/
def lowestFreeOf (bound n : Nat) (used : List Nat) : Option (List Nat) :=
  let l := ((List.range bound).filter fun i => !used.contains i).take n
  if l.length = n then some l else none

/-- The physical tree that a shared group already has on a die (R290). -/
def sharedTree (rs : List Region) (p : Nat) (share : Option (Nat × Nat)) (d t : Nat) : Option Nat :=
  match share with
  | none => none
  | some (g, t') =>
    if t' = t then
      rs.findSome? fun r =>
        match r.share with
        | some (g', u) => if r.part = p ∧ g' = g then amFind r.trees (d * 16 + u) else none
        | none => none
    else none

/-- The physical trees of a die for region trees 0 to NT − 1. -/
def treesOf (rs : List Region) (p nt : Nat) (share : Option (Nat × Nat)) (d : Nat) : Option (List (Nat × Nat)) :=
  let used := rs.flatMap fun r => (r.trees.filter fun e => e.1 / 16 == d).map (·.2)
  let own := (List.range nt).filter fun t => (sharedTree rs p share d t).isNone
  match lowestFreeOf 16 own.length used with
  | none => none
  | some l =>
    some (((List.range nt).filterMap fun t => (sharedTree rs p share d t).map fun x => (d * 16 + t, x)) ++
      (own.zip l).map fun e => (d * 16 + e.1, e.2))

/-- The stream nodes and die-edge elements of a twin stack. -/
def stackNodes (st : Nat) : List Nat := (List.range 64).map fun i => nodeKey (2 * st + i / 32) (i % 32)
def stackEdges (st : Nat) : List Nat := (List.range 32).map (edgeKey st)

/-- The first n keys of a list that no region holds. -/
def firstFree (l used : List Nat) (n : Nat) : Option (List Nat) :=
  let f := (l.filter fun k => !used.contains k).take n
  if f.length = n then some f else none

/-- The element that stands at a place of a configuration, in a region with its outer elements. -/
def placedElement (r : Region) (k : Nat) : Option Nat :=
  if k < 8192 then some (regionTile r (k / 64 % 64) (k % 64) (k / 4096)) else if k < 16384 then r.nodes[k - 8192]? else r.edges[k - 16384]?

/-- Does every output that leads out of the tiles lead to an element of the region where it stands (R143)? DEDUCED: the positions of
outer elements are those of the placement, so this is judged where the region would stand (log entry 31). -/
def exitsLead (r : Region) (exits : List (Nat × Nat)) : Bool :=
  exits.all fun e => (placedElement r e.1).any fun k => (linkOf r k e.2).isSome

/-- The resources of a placement, if they are free (R145, R290, R311, R312). -/
def allocate (rs : List Region) (p : Nat) (g : ImageHead) (nt : Nat) (share : Option (Nat × Nat)) (b : Base) : Option Alloc := do
  let r := footprint g b
  let dies := regionDies r
  let counters ← allSome (dies.map fun d =>
    (lowestFreeOf 32 1 (rs.filterMap fun x => amFind x.rowCounters d)).map fun l => (d, l.headD 0))
  let trees ← allSome (dies.map (treesOf rs p nt share))
  let st := stackOf (dieOf (regionTile r 0 0 0))
  let nodes ← firstFree (stackNodes st) (rs.flatMap (·.nodes)) g.streams
  let edges ← firstFree (stackEdges st) (rs.flatMap (·.edges)) g.edges
  pure { counters := counters.foldl (fun m e => amInsert m e.1 e.2) []
         trees := trees.flatten.foldl (fun m e => amInsert m e.1 e.2) [], nodes := nodes, edges := edges }

/-- The same with the outer elements that a placement takes. -/
def exitsAt (g : ImageHead) (b : Base) (a : Alloc) : Bool := exitsLead { footprint g b with nodes := a.nodes, edges := a.edges } g.exits

/-! ### The state of an installed region (R145, R157, R165, R248, R272, R313) -/

/-! ### Ballast (R342) -/

/-- The demand of a die's cores in the running period, in parts of a microwatt of which there are `powerUnit`. -/
def dieDemand (s : State) (d : Nat) : Nat := ((s.cores.filter fun c => dieOf c.1 == d).map fun c => c.2.demand).sum

/-- The sum of two fractions. -/
def fracAdd (a b : Nat × Nat) : Nat × Nat := if a.2 = b.2 then (a.1 + b.1, a.2) else (a.1 * b.2 + b.1 * a.2, a.2 * b.2)

/-- The grant of a die's cores in the running period: a fraction of a microwatt. -/
def dieGrant (s : State) (d : Nat) : Nat × Nat :=
  (s.cores.filter fun c => dieOf c.1 == d).foldl (fun g c => fracAdd (c.2.grantNum, c.2.grantDen) g) (0, 1)

/-- By how much a die's demand falls from one state to another: a fraction of a microwatt. -/
def dieFall (old s : State) (d : Nat) : Nat × Nat :=
  (dieDemand old d * s.powerUnit - dieDemand s d * old.powerUnit, old.powerUnit * s.powerUnit)

/-- Ballast units of a die draw a difference from now on; what has faded is forgotten. -/
def addBallast (s : State) (d n : Nat) : State :=
  { s with ballast := amInsert s.ballast d ((amGet s.ballast d []).filter (fun x => decide (s.cycle < x.2 + 1024)) ++ [(n, s.cycle)]) }

/-- A die's demand that falls between two periods by more than 5 % of its grant is drawn by its ballast, in whole microwatts. -/
def ballastDie (old : State) (s : State) (d : Nat) : State :=
  let fall := dieFall old s d
  let grant := dieGrant old d
  if grant.1 * fall.2 < 20 * fall.1 * grant.2 then addBallast s d (fall.1 / fall.2) else s

/-- A region that starts or ends on a die: what its cores demanded there until now is drawn by the ballast. -/
def ballastRegion (s : State) (r : Region) : State :=
  let t := (regionCores r).foldl (fun s k => if (getCore s k).demand = 0 then s else modCore s k fun c => { c with demand := 0 }) s
  ((regionCores r).map dieOf).eraseDups.foldl (fun t d =>
    if dieDemand t d < dieDemand s d then addBallast t d ((dieFall s t d).1 / (dieFall s t d).2) else t) t

/-- What a die's ballast draws now: each difference reduced linearly to zero over 1,024 cycles. -/
def ballastDraw (s : State) (d : Nat) : Nat :=
  ((amGet s.ballast d []).map fun x => x.1 * (1024 - (s.cycle - x.2)) / 1024).sum

/-- A core as installation leaves it; its caches and power settings are not the region's. -/
def freshCore (c : Core) (scratch : Mem) : Core :=
  { scratch := scratch, fetchDuty := c.fetchDuty, low := c.low, skip := c.skip, skipRate := c.skipRate, demand := c.demand, spIssued := c.spIssued, grantNum := c.grantNum, grantDen := c.grantDen
    dtlb := c.dtlb, itlb := c.itlb
    lastScalar := c.lastScalar, lastVector := c.lastVector, issueAt := c.issueAt, issued := c.issued }

/-- What a core's scratchpad starts with: zeros, or the bytes retained for this launch (R79, R157, R246). -/
def startScratch (s : State) (p : Nat) (handle : Word) (k row col layer : Nat) : Mem :=
  match (getCore s k).retention with
  | some _ => (getCore s k).scratch
  | none =>
    match (getPart s p).evacuated.find? fun e => handle != 0 && e.ret.handle == handle && e.ret.row == row && e.ret.col == col && e.ret.layer == layer with
    | some e => chunksMem s e.chunks
    | none => {}

/-- A memory tile as installation leaves it. The sequence numbers of its channels go on. -/
def freshTile (m : MemTile) (p : Personality) : MemTile :=
  installPersonality { chans := m.chans.map fun c => (c.1, { seq := c.2.seq }) } p

/-- A switch as installation leaves it. -/
def freshSwitch (w : Switch) (rows : AMap (BitVec 64)) (consts : AMap (BitVec 256)) (lines : List LinkWord × List LinkWord)
    (descs : Option CopyDesc × Option CopyDesc) : Switch :=
  { rows := rows, consts := consts, delay0 := lines.1, delay1 := lines.2, retrainUntil := w.retrainUntil
    reader := { desc := descs.1 }, writer := { desc := descs.2 }, nodeSeq := w.nodeSeq }

/-- Sets one tile of a region. -/
def installTile (g : Image) (handle : Word) (r : Region) (s : State) (pos : Nat × Nat × Nat) : State :=
  let row := pos.1
  let col := pos.2.1
  let y := pos.2.2
  let k := regionTile r row col y
  let key := relKey row col y
  let s := modSwitch s k fun w => freshSwitch w (amGet g.rows key []) [] (amGet g.lines key ([], [])) (none, none)
  if computePos row col then setCore s k (freshCore (getCore s k) (startScratch s r.part handle k row col y))
  else modTile s k fun m => freshTile m (amGet g.pers key {})

/-- The header of a configuration as a region keeps it. -/
def savedHead (r : Region) : ImageHead :=
  { exits := r.exits, h := r.h, w := r.w, frame := r.frame, offset := r.offset, twin := r.twin, quad := r.quad, streams := r.nodes.length
    edges := r.edges.length, table := 0, count := 0 }

/-- The region-relative positions of a region. -/
def regionPositions (r : Region) : List (Nat × Nat × Nat) :=
  (List.range (if r.twin then 2 else 1)).flatMap fun y =>
    (List.range r.h).flatMap fun i => (List.range r.w).map fun j => (i, j, y)

/-- The keys of the pairs of a region. -/
def regionPairs (r : Region) : List Nat := if r.twin then ((regionCores r).map pairKey).eraseDups else []

/-- A quad as installation leaves it: engine, combining node and barrier are the region's; its caches are not. -/
def freshQuad (q : Quad) : Quad :=
  { q with scratch := {}, mode := 0, queue := [], path := [], held := [], entering := [], detected := [] }

/-- The bytes from an address to the end of its page of 2^bits bytes. -/
def toPageEnd (va bits : Nat) : Nat := 2 ^ bits - va % 2 ^ bits

/-- Fills the latch table of a stream node for one side of a descriptor, from a byte on, as far as there is room (R213). DESIGN CHOICE: a
walk that fails leaves no latch, stalls nothing and posts no message; the generator walks the page again when it comes to it (log entry 40). -/
def prefillSide (k : Nat) (write : Bool) (base : Word) (d : CopyDesc) (strides : List Int) : Nat → Nat → State → State
  | 0, _, s => s
  | fuel + 1, done, s =>
    let va := (descAddr base d strides done).toNat
    let run := d.count0 - done % d.count0
    let w := whoNode s k
    if descTotal d ≤ done ∨ 16 ≤ (getSwitch s k).latch.length then s
    else
      if !isGlobal (BitVec.ofNat 64 va) then prefillSide k write base d strides fuel (done + run) s
      else
      match tlbFind w.func va (getSwitch s k).latch with
      | some e => prefillSide k write base d strides fuel (done + min run (toPageEnd va e.bits)) s
      | none =>
        let r := (nodeCached s k write va).getD (nodeWalk s k write va)
        prefillSide k write base d strides fuel
          (done + min run (toPageEnd va (match r.2 with
            | .ok e => e.bits
            | _ => 12))) r.1

/-- Fills the latches of a stream node for the ranges that its descriptors name (R213). DESIGN CHOICE: the walks of an installation are
made within it and take no walker from the node's running misses (log entry 9). -/
def prefillNode (s : State) (k : Nat) : State :=
  let w := getSwitch s k
  let s := match w.reader.desc with
    | some d => prefillSide k false d.src d d.sstrides (descTotal d) 0 s
    | none => s
  match w.writer.desc with
  | some d => prefillSide k true d.dst d d.dstrides (descTotal d) 0 s
  | none => s

/-- The lowest INST that no resident or saved region of a partition holds (R313). -/
def nextInst (s : State) (p : Nat) : Nat :=
  let used (i : Nat) : Bool := (getRegion s (regionKey p i)).isSome || (getPart s p).saves.any fun e => e.1 == i && !e.2.out
  ((List.range (s.regions.length + (getPart s p).saves.length + 1)).map (· + 1)).find? (fun i => !used i) |>.getD 1

/-- Binding records with die positions in place of region-relative ones (R312). -/
def placeBinding (r : Region) (e : Binding) : Binding :=
  let k := match e.engine with
    | 4 => r.nodes.getD e.index 0
    | 5 => r.edges.getD e.index 0
    | _ => regionTile r e.row e.col e.layer
  if e.engine = 4 ∨ e.engine = 5 then { e with die := elDie k } else { e with row := rowOf k, col := colOf k, die := dieOf k }

/-- Who submits a launch: its queue, base priority and first eligibility, or a LAUNCH of a service core. -/
structure Origin where
  part : Nat
  func : Nat
  queue : Option Nat := none
  prio : Nat := 0
  ep : Nat := 0
  eligibleAt : Nat := 0
  cmd : Word := 0
  deriving DecidableEq, Repr

/-- The region that an installation makes. -/
def newRegion (s : State) (o : Origin) (inst : Nat) (c : LaunchCmd) (g : Image) (b : Base) (a : Alloc) : Region :=
  let r : Region :=
    { footprint g.head b with
      part := o.part, inst := inst, func := o.func, queue := o.queue, prio := o.prio, ep := o.ep, eligibleAt := o.eligibleAt
      cmd := o.cmd.toNat, config := c.config.toNat, handle := c.handle, signal := c.signal, irq := c.irq, frame := g.head.frame
      offset := g.head.offset, frames := g.frames, start := g.start, cores := g.cores, cairns := g.cairns
      exits := g.head.exits, nodes := a.nodes, edges := a.edges, rowCounters := a.counters, nt := c.nt, trees := a.trees, share := c.share
      entries := c.entries, domains := c.domains, nextSweep := s.cycle + 1, code := s.gmem, working := c.working }
  { r with bindings := g.bindings.map (placeBinding r) }

/-- Sets every part of a region's state as installation does (R313 step 1, R330). -/
def installState (s : State) (g : Image) (r : Region) : State :=
  let s := (regionPositions r).foldl (installTile g r.handle r) (ballastRegion s r)
  let s := modPart s r.part fun t => { t with evacuated := t.evacuated.filter fun e => r.handle == 0 || e.ret.handle != r.handle }
  let s := (List.range r.nodes.length).foldl (fun s n =>
    modSwitch s (r.nodes.getD n 0) fun w =>
      freshSwitch w (amGet g.rows (relNode n) []) (amGet g.consts (relNode n) []) ([], []) (amGet g.nodes n (none, none))) s
  let s := (List.range r.edges.length).foldl (fun s n =>
    modSwitch s (r.edges.getD n 0) fun w => freshSwitch w (amGet g.rows (relEdge n) []) [] ([], []) (none, none)) s
  let s := (regionPairs r).foldl (fun s k => setPair s k {}) s
  let s := (regionQuads r).foldl (fun s k => modQuad s k freshQuad) s
  let s := setRegion s (regionKey r.part r.inst) r
  r.nodes.foldl prefillNode s

/-- The launch packets of a region, one for each thread (R305, R313). -/
def launchPackets (c : LaunchCmd) (r : Region) : List NetMsg :=
  (List.range r.cores.length).flatMap fun n => (List.range c.nslot).map fun t =>
    let e := r.cores.getD n {}
    let i := n * c.nslot + t
    let bivb := c.bivtop - (t + 1) * c.bivsz
    .packet (regionTile r e.row e.col e.layer)
      { image := (c.image + BitVec.ofNat 64 (i * c.imgstride)).toNat, trow := e.row, tcol := e.col, slot := t, layer := e.layer, inst := r.inst
        bivb := bivb, bivl := bivb + c.bivsz, bivo := (c.ovfbase + BitVec.ofNat 64 (i * c.ovfstride)).toNat, part := r.part }

/-- Installation (R313): the region becomes resident, a schedule with START = 0 begins its run, and the launch packets are
sent. -/
def installLaunch (s : State) (o : Origin) (inst : Nat) (c : LaunchCmd) (g : Image) (b : Base) (a : Alloc) : State :=
  let r := newRegion s o inst c g b a
  let rk := regionKey r.part r.inst
  let s := installState s g r
  let s := if r.start = 0 then startRun s rk else s
  { s with net := s.net ++ launchPackets c r }

/-- The bases in the order of R312. -/
def allBases (g : ImageHead) : List Base :=
  (List.range (49 - g.h)).flatMap fun i => (List.range (65 - g.w)).flatMap fun j =>
    [{ prow := i, pcol := j, layer := 0 }, { prow := i, pcol := j, layer := 1 }]

/-- The first base that matches, with its resources (R311, R312). `extra` is the condition on a restore. -/
def findBase (s : State) (p : Nat) (g : ImageHead) (handle : Word) (nt : Nat) (share : Option (Nat × Nat)) (rs : List Region)
    (barred : Nat → Bool) (extra : Base → Alloc → Bool) : Option (Base × Alloc) :=
  (allBases g).findSome? fun b =>
    if areaOk s p g handle rs barred b then ((allocate rs p g nt share b).filter (extra b)).map fun a => (b, a) else none

end Sys2Proof.Machine
end

