-- ==== Sys2Proof/Machine/Ending.lean ====
section
/-! DEFINITION. The end of a region: what every thread and engine leaves, the release of its resources, tokens and messages, and
the abort of a launch (R79, R187, R189, R301, R304, R314, R332). -/
namespace Sys2Proof.Machine

/-! ### Completion tokens (R304) -/

/-- The physical address of a completion token, when tokens are enabled. -/
def tokenAddr (s : State) (p i : Nat) : Option Nat :=
  let b := (getPart s p).tokbase
  if b.getLsbD 0 then some (fieldOf b 51 15 * 2 ^ 15 + 8 * i) else none

/-- Signals a token with an unsigned-maximum atomic at its home; a token that cannot be read keeps its value. -/
def signalToken (s : State) (w : Who) (sig : Word) : State :=
  match tokenAddr s w.part (fieldOf sig 59 48) with
  | none => s
  | some pa =>
    if sig.getLsbD 63 then
      match tableRead s w pa 8 with
      | (s, some l) => tableWrite s w pa (toBytes 8 (amoOp 7 8 (ofBytes l) (fieldOf sig 47 0)))
      | (s, none) => s
    else s

/-- Is a dependence satisfied (R304, R308)? -/
def depMet (w : Who) (r : State × Bool) (dep : Word) : State × Bool :=
  if !r.2 || !dep.getLsbD 63 then r
  else
    match tokenAddr r.1 w.part (fieldOf dep 59 48) with
    | none => r
    | some pa =>
      match tableRead r.1 w pa 8 with
      | (s, some l) => (s, decide (fieldOf dep 47 0 ≤ ofBytes l))
      | (s, none) => (s, false)

/-! ### Retentions (R79) -/

/-- The addresses of the pending entries of a queue's ring (R303). -/
def pendingAddrs (x : Queue) : List Word :=
  (List.range (pendingEntries x)).map fun i => x.qbase + BitVec.ofNat 64 (128 * ((x.head + i) % ringSize x))

/-- Does a queued launch of a queue name a handle? -/
def queueNames (p : Nat) (handle : Word) (r : State × Bool) (q : Nat × Queue) : State × Bool :=
  (pendingAddrs q.2).foldl (fun r a =>
    if r.2 then r
    else
      let x := rdBytes (whoCommand r.1 p (fieldOf q.2.qctl 15 9)) (a + 80) 8 r.1
      (x.2, x.1.any fun l => wordOf l == handle)) r

/-- Does some queued launch of the partition name a handle? A launch with HANDLE = 0 names none (R305). -/
def handleQueued (s : State) (p : Nat) (handle : Word) : State × Bool :=
  if handle = 0 then (s, false) else (getPart s p).queues.foldl (queueNames p handle) (s, false)

/-- Did the region's launch make the retention? -/
def madeBy (r : Region) (t : Retention) : Bool := t.part == r.part && t.inst == r.inst && !t.ended

/-- The cores that retain a scratchpad for an ended launch: it may have retained them before it was saved and moved (R79). -/
def retainedBy (s : State) (r : Region) : List Nat := (s.cores.filter fun c => c.2.retention.any (madeBy r)).map (·.1)

/-- The retentions of an ended launch that no queued launch names end with it, those whose bytes a save area holds too (R246). -/
def reclaimRetentions (s : State) (r : Region) : State :=
  let s := (retainedBy s r).foldl (fun s k =>
    match (getCore s k).retention with
    | none => s
    | some t =>
      match handleQueued s r.part t.handle with
      | (s, true) => modCore s k fun c => { c with retention := some { t with ended := true } }
      | (s, false) => modCore s k powerDown) s
  let l := (getPart s r.part).evacuated
  let q := l.foldl (fun (a : State × List Evacuated) e =>
    if madeBy r e.ret then
      match handleQueued a.1 r.part e.ret.handle with
      | (s, true) => (s, a.2 ++ [{ e with ret := { e.ret with ended := true } }])
      | (s, false) => (s, a.2)
    else (a.1, a.2 ++ [e])) (s, [])
  if l.any fun e => madeBy r e.ret then modPart q.1 r.part fun t => { t with evacuated := q.2 } else s

/-! ### What a region leaves -/

/-- A thread that leaves its slot by force leaves its monitors too (R202). -/
def dropWaiter (s : State) (t : ThreadRef) : State :=
  { s with slices := s.slices.map fun e =>
      (e.1, { e.2 with monitors := (e.2.monitors.map fun m => { m with waiters := m.waiters.filter fun u => u != t }).filter fun m =>
        !m.waiters.isEmpty }) }

/-- The answer to a LAUNCH.packet reaches its sender (R333). -/
def answerSender (s : State) (p : LaunchPacket) (status : Nat) : State :=
  match p.sender with
  | some t => if (getThread s t).wait = .packet then modThread s t fun x => { x with wait := .packetDone status } else s
  | none => s

/-- A thread whose context is gone. -/
def clearThread (s : State) (t : ThreadRef) : State := dropWaiter (setThread (dropParty s t) t {}) t

/-- Is the message one that goes to an element of the region? -/
def messageInto (r : Region) : NetMsg → Bool
  | .user m => regionHas r m.dst
  | .packet k _ => regionHas r k
  | _ => false

/-- A packet sent by LAUNCH counts at its target (R301). -/
def countPacket (s : State) (core : Nat) (p : LaunchPacket) : State :=
  if p.sender.isSome then modCore s core fun c => { c with msgRecv := c.msgRecv + 1 } else s

/-- Is a message a packet for a core of the region? -/
def packetInto (r : Region) : NetMsg → Bool
  | .packet k _ => regionHas r k
  | _ => false

/-- Packets on their way to a region are refused when it goes (R72, R301, R333). DESIGN CHOICE: one of its own installation, which has no
sender, leaves no thread and no trace (log entry 31). -/
def refusePackets (s : State) (r : Region) : State :=
  let s := s.net.foldl (fun s m =>
    match m with
    | .packet k p => if regionHas r k then answerSender (countPacket s k p) p 1 else s
    | _ => s) s
  { s with net := s.net.filter fun m => !packetInto r m }

/-- A core that no region holds any more: a retained scratchpad stays powered (R79). -/
def vacateCore (c : Core) : Core :=
  match c.retention with
  | some t => { freshCore c c.scratch with retention := some t }
  | none => powerDown (freshCore c {})

/-- The region's row counters, trees, nodes, edges and tiles are released; what stood in them is discarded, and the sender of a
discarded outer word has it in flight no more (R145, R168, R248, R288, R314). -/
def releaseRegion (s : State) (rk : Nat) : State :=
  match getRegion s rk with
  | none => s
  | some r =>
    let s := ballastRegion (refusePackets s r) r
    let s := (s.crossings.filter fun c => c.port == 5 && (regionElements r).contains c.dst && !(regionElements r).contains c.src).foldl outerLanded s
    let s := { s with regions := amErase s.regions rk, net := s.net.filter fun m => !messageInto r m
                      crossings := s.crossings.filter fun c => !(regionElements r).contains c.dst }
    let s := (regionCores r).foldl (fun s k => modCore s k vacateCore) s
    let s := ((regionTiles r).filter fun k => !(regionCores r).contains k).foldl (fun s k => modTile s k fun m => freshTile m {}) s
    let s := (regionElements r).foldl (fun s k => modSwitch s k fun w => freshSwitch w [] [] ([], []) (none, none)) s
    let s := (regionPairs r).foldl (fun s k => { s with pairs := amErase s.pairs k }) s
    (regionQuads r).foldl (fun s k => modQuad s k freshQuad) s

/-- The end of a launch, in the order of R314. -/
def finishRegion (s : State) (rk : Nat) (aborted : Bool) : State :=
  match getRegion s rk with
  | none => s
  | some r =>
    let s := serveWrites (reclaimRetentions (releaseRegion s rk) r) fun _ => true
    let s := if aborted then s else signalToken s (whoCommand s r.part r.func) r.signal
    let s := if r.irq then raiseVector s r.part r.func 0 else s
    let s := postMail s r.part (designated s r.part)
      [mailHead 0x24 (bit aborted) r.inst r.func false, BitVec.ofNat 64 s.cycle, 0, 0]
    match r.queue with
    | some q => if aborted then setQueueErr s r.part q else s
    | none => s

/-- An abort: every thread stops at once, the queues of the engines are discarded, stores are performed and the token passes
(R187, R333), and the launch ends. -/
def abortLaunch (s : State) (rk : Nat) : State :=
  match getRegion s rk with
  | none => s
  | some r =>
    let ts := regionThreads s r
    let s := ts.foldl performAll s
    let s := ts.foldl clearThread s
    finishRegion s rk true

/-! ### Engines at rest (R187, R301, R327) -/

/-- Has every engine of a region completed what it was given? -/
def enginesDrained (s : State) (r : Region) : Bool :=
  ((regionTiles r).all fun k => (getTile s k).chans.all fun c => c.2.queue.isEmpty && c.2.active.isNone) &&
    ((regionPairs r).all fun k => (getPair s k).stream.isEmpty) &&
    (regionQuads r).all fun k =>
      let q := getQuad s k
      q.queue.isEmpty && q.path.isEmpty && q.held.isEmpty && q.entering.isEmpty

/-- Have the stream nodes and die-edge elements of a region drained: no write of a node waits for a translation, no word is on its way
over an outer link, and no run that has an end is under way in a segment that holds one of them? DEDUCED: R187 names these engines and
gives no such test (log entry 40). -/
def networkDrained (s : State) (r : Region) : Bool :=
  r.edges.all (fun k => (getSwitch s k).outFlight == 0) &&
    r.nodes.all (fun k => (getSwitch s k).writer.stalled.isNone || (getSwitch s k).writer.refused) &&
    (regionStacks r).all fun st =>
      let g := segmentOf r st
      (runLength r).isNone || !g.running || g.fault.isSome || !(r.nodes ++ r.edges).any fun k => elStack k == st

/-- A launch whose summit has ended it is over once its engines have drained (R301). -/
def endDrained (s : State) : State :=
  s.regions.foldl (fun s e => if e.2.ending && enginesDrained s e.2 && networkDrained s e.2 then finishRegion s e.1 false else s) s

/-! ### The summit tree (R301) -/

/-- IDLE of a core. -/
def coreIdle (c : Core) : Bool :=
  c.slots.all (fun x => decide (x.2.slotState = .free) ||
    (match x.2.slotState, x.2.wait with
     | .live, .drecv ch => (amGet c.recv ch []).isEmpty
     | _, _ => false)) && c.waiting.isEmpty && c.inject.isEmpty

/-- What a sweep reports: all cores idle, ΣS and ΣR. -/
def sweepOf (s : State) (r : Region) : Bool × Nat × Nat :=
  let l := (regionCores r).map (getCore s)
  (l.all coreIdle, (l.map fun c => c.msgSent.toNat).sum % 2 ^ 64, (l.map fun c => c.msgRecv.toNat).sum % 2 ^ 64)

/-- One sweep, sampled in its first cycle; two agreeing ones in succession end the launch, which is over at the end of the first cycle in
which its engines have drained. -/
def summitSweep (s : State) (rk : Nat) : State :=
  match getRegion s rk with
  | none => s
  | some r =>
    if s.cycle ≠ r.nextSweep ∨ r.ending then s
    else
      let now := sweepOf s r
      let agree := now.1 && now.2.1 == now.2.2 && r.lastSweep == some now
      let s := setRegion s rk { r with lastSweep := some now, nextSweep := s.cycle + 256 }
      if agree then
        let s := (regionThreads s r).foldl (fun s t => haltThread s t none) s
        modRegion s rk fun r => { r with ending := true, preempt := none }
      else s

/-- The sweeps of a cycle that have not been made in it. -/
def sweepAll (s : State) : State := s.regions.foldl (fun s r => summitSweep s r.1) s

/-- SUMMIT_SWEEP (R301). -/
def execSummitSweep (region : Nat) (s : State) : Host.Outcome State Fault Refusal := runStep (fun s => summitSweep s region) s

end Sys2Proof.Machine
end

