-- ==== Sys2Proof/Machine/Save.lean ====
section
/-! DEFINITION. Pre-emption: cairns and stops, the hand-over of the array, forced halts, the save of a region, and its restore
(R84, R146, R220, R251, R252, R288, R300, R323 to R331, R362). -/
namespace Sys2Proof.Machine

/-! ### Stopping threads (R323, R326) -/

/-- Waits that stand at an instruction boundary (R323). -/
def boundaryWait : Wait → Bool
  | .fault _ | .monitor _ _ _ | .licence | .twx _ | .rope _ _ | .arrive _ | .belay _ | .bmem | .phase _ | .drecv _ | .mwait _
  | .spwait _ | .wpwait _ _ | .condition | .mailbox | .token _ | .packet | .threadFault _ => true
  | _ => false

/-- Waits before which no part of the instruction has been done: a forced halt stops the thread there too (R326). -/
def unbegunWait : Wait → Bool
  | .none | .port _ _ | .held _ | .bank | .copyQueue | .combining | .engineQueue | .spQueue | .injection => true
  | _ => false

/-- Is the thread's engine queue full (R288)? -/
def spQueueFull (s : State) (core : Nat) : Bool :=
  decide (32 ≤ (getQuad s (quadKey core)).queue.length + (getQuad s (quadKey core)).path.length)

/-- Is a slot stopped or free? -/
def slotQuiet (x : Thread) : Bool :=
  match x.slotState with
  | .free => true
  | .stopped _ _ => true
  | _ => false

/-- Is every slot of a core stopped or free, and some slot stopped? -/
def coreStopped (s : State) (core : Nat) : Bool :=
  let l := (getCore s core).slots
  l.all (fun x => slotQuiet x.2) && l.any fun x => slotQuiet x.2 && decide (x.2.slotState ≠ .free)

/-- Is the twin core carrying out its hand-over after a cairn (R362)? -/
def handingOver (s : State) (core : Nat) : Bool :=
  let pk := pairKey core
  let side := otherSide (sideOf core)
  (getPair s pk).holder == side && coreStopped s (pairCore pk side)

/-- Is the thread in the middle of an instruction, so that its next boundary is still to come? -/
def midInstruction (x : Thread) : Bool := !(boundaryWait x.wait || unbegunWait x.wait)

/-- Does a thread's own wait keep it blocked at a boundary (R323, R362)? -/
def waitsBlocked (s : State) (t : ThreadRef) (x : Thread) : Bool :=
  let waits := boundaryWait x.wait && !(x.wait == .licence && handingOver s t.core)
  waits || (x.wait == .spQueue && spQueueFull s t.core) || (unbegunWait x.wait && (x.inTrap || decide (1 < x.yieldLeft)))

/-- Does a live thread count as blocked for a pending pre-emption (R323, R362)? The members of a rope that one of them holds
back count with it (R81), but for one in MLIC whose twin is handing over (R362). -/
def countsBlocked (s : State) (t : ThreadRef) (x : Thread) : Bool :=
  waitsBlocked s t x || (isRoped x && !midInstruction x && !(x.wait == .licence && handingOver s t.core) &&
    (ropeMembers s t).any fun u => waitsBlocked s u (getThread s u))

/-- A thread stops where it stands: it leaves its monitors, withdraws an SPWAIT from its engine and a request for the licence
that no other thread of its core shares (R202, R251, R288). -/
def stopThread (full : Bool) (cairn : Nat) (s : State) (t : ThreadRef) : State :=
  let s := dropWaiter s t
  let s := modQuad s (quadKey t.core) fun q =>
    let keep (c : SpCmd) : Bool := !(c.kind == .wait && c.core == t.core && c.slot == t.slot)
    { q with queue := q.queue.filter keep, path := q.path.filter keep }
  let s := modThread s t fun x => { x with slotState := .stopped full cairn }
  let asks := (getCore s t.core).slots.any fun x => x.2.slotState == .live && x.2.wait == .licence
  if asks then s else modPair s (pairKey t.core) fun p => setRequest p (sideOf t.core) false

/-- Once every thread of a region under pre-emption is stopped, free or blocked at a boundary, the blocked ones stop (R323). -/
def stopBlocked (s : State) (r : Region) : State :=
  let ts := regionThreads s r
  let halted := ts.all fun t =>
    let x := getThread s t
    slotQuiet x || (x.slotState == .live && countsBlocked s t x)
  if r.preempt.isSome && halted then
    ts.foldl (fun s t => if (getThread s t).slotState == .live then stopThread true 0 s t else s) s
  else s

/-- Has an engine the command of the thread's instruction? -/
def commandSent : Wait → Bool
  | .spAccept _ | .spAccepted | .spDone _ | .matrix _ | .matrixDone _ => true
  | _ => false

/-- Do the members of a rope, or a thread alone, stand at one instruction boundary (R84, R326)? A rope whose instruction one
member cannot begin has not issued it, whatever the others have asked for; else the instruction in progress retires first, and so does one
whose command an engine has. -/
def atBoundary (s : State) (ts : List ThreadRef) : Bool :=
  let xs := ts.map (getThread s)
  (xs.all fun x => !midInstruction x) || (xs.any (fun x => !midInstruction x && x.wait != .none) && !xs.any fun x => commandSent x.wait)

/-- At a forced halt a thread stops at its next instruction boundary, the members of a rope together (R84, R326). -/
def stopForced (s : State) (t : ThreadRef) : State :=
  let ts := ropeMembers s t
  if atBoundary s ts then (ts.filter fun u => (getThread s u).slotState == .live).foldl (stopThread true 0) s else s

/-- Has the region of a thread been halted by force? -/
def regionForced (s : State) (t : ThreadRef) : Bool := (threadRegion s t).any fun r => r.preempt.isSome && r.forced

/-- The halt deadline of R326, in cycles from the request. -/
def forceCycles : Nat := 9450

/-- A region under pre-emption whose halt is not complete in time is halted by force. -/
def forceHalt (s : State) (region : Nat) : State :=
  match getRegion s region with
  | none => s
  | some r =>
    match r.preempt with
    | some (t0, _) =>
      if r.forced ∨ s.cycle < t0 + forceCycles ∨ (regionThreads s r).all (fun t => slotQuiet (getThread s t)) then s
      else (regionThreads s r).foldl stopForced (setRegion s region { r with forced := true })
    | none => s

/-- FORCED_HALT (R326). -/
def execForcedHalt (region : Nat) (s : State) : Host.Outcome State Fault Refusal := runStep (fun s => forceHalt s region) s

/-- At the start of a cycle every halt that is overdue is forced, whether or not the agenda names it (R326). -/
def forceHalts (s : State) : State := s.regions.foldl (fun s e => if e.2.preempt.isSome && !e.2.forced then forceHalt s e.1 else s) s

/-! ### CAIRN (R324) -/

/-- The key of a core within its region. -/
def relOf (r : Region) (k : Nat) : Nat := relKey (packRow k - r.prow) (packCol k - r.pcol) (relLayer r k)

/-- The entry of a cairn id in a core's table. -/
def cairnEntry (r : Region) (core id : Nat) : Option CairnEntry := (amGet r.cairns (relOf r core) []).find? fun e => e.id == id

/-- Is the core's segment held in this cycle at a step whose group contains a row (R324)? The attempt of the cycle decides, made or still
to come: it stands on the state at the start of the cycle (R130). -/
def heldAtRow (s : State) (rk core row : Nat) : Bool :=
  let st := stackOf (dieOf core)
  match getRegion (attemptSegment (landDue s) rk st) rk with
  | some r =>
    let g := segmentOf r st
    g.running && g.lastHeld && inGroup r g.c row
  | none => false

/-- Is a stop at a cairn saved FULL? An id without an entry has nothing that names what is live. DEDUCED: the segment's state in the cycle
in which CAIRN retires decides, as R324 says, although R333's example has a cairn save for a thread that retired its CAIRN while the
segment still ran (log entry 31). -/
def cairnFull (s : State) (r : Region) (core id : Nat) : Bool :=
  match cairnEntry r core id with
  | some e => e.row != 0xFFFF && !heldAtRow s (regionKey r.part r.inst) core e.row
  | none => true

/-- CAIRN (R324): the thread stops behind it while a request is pending. -/
def execCairn (i : BitVec 12) (s : State) : Host.Outcome State Fault Refusal :=
  run4 (modS fun s =>
    match threadRegion s s.cur with
    | some r => if r.preempt.isSome then stopThread (r.forced || cairnFull s r s.cur.core i.toNat) i.toNat s s.cur else s
    | none => s) s

/-! ### The hand-over of the array (R251) -/

/-- The accumulator tiles that the save of a core takes: all sixteen for FULL, else those that its cairns name. -/
def savedTiles (s : State) (r : Region) (core : Nat) : Nat :=
  ((getCore s core).slots.map fun x =>
    match x.2.slotState with
    | .stopped true _ => 0xFFFF
    | .stopped false id => ((cairnEntry r core id).map (·.acclive)).getD 0xFFFF
    | _ => 0).foldl (fun a b => a ||| b) (if r.forced then 0xFFFF else 0)

/-- What the save takes of a pair's array: the tiles of a mask, the scale memory and the tables. -/
def captureArray (p : Pair) (mask : Nat) : MKind :=
  .writeback ((onesBelow 16 mask).flatMap fun t => (List.range 2048).map fun i => (t * 2048 + i, amGet p.acc (t * 2048 + i) 0)) p.scale p.tables

/-- A holder that has stopped hands over once the stream and its follow-ons are done (R251). -/
def handOverSide (r : Region) (pk : Nat) (s : State) (side : Nat) : State :=
  let core := pairCore pk side
  let p := getPair s pk
  if p.holder = side && coreStopped s core && p.stream.isEmpty && !followOnsDue s pk then
    let m := captureArray p (savedTiles s r core)
    let s := modPair s pk fun p => { p with saved := amInsert p.saved side m, releaseOrder := p.releaseOrder ++ [side] }
    let s := (occupiedSlots s core).foldl (fun s t => modThread s t fun x => { x with heldLicence := true }) s
    releaseLicence s pk side
  else s

/-- The hand-overs that a cycle brings about in a region under pre-emption. -/
def handOvers (s : State) (r : Region) : State :=
  if r.preempt.isSome then (regionPairs r).foldl (fun s pk => [1, 2].foldl (handOverSide r pk) s) s else s

/-- The threads of a region halted by force that have come to a boundary stop there (R326). -/
def stopAllForced (s : State) (r : Region) : State :=
  if r.preempt.isSome && r.forced then
    (regionThreads s r).foldl (fun s t => if (getThread s t).slotState == .live then stopForced s t else s) s
  else s

/-- What pre-emption brings about at the end of a cycle. -/
def preemptTick (s : State) : State :=
  s.regions.foldl (fun s e =>
    match getRegion s e.1 with
    | none => s
    | some r => handOvers (stopBlocked (stopAllForced s r) r) r) s

/-! ### Thread records (R329) -/

/-- The registers that hold state (R70). -/
def stateG : List Nat := (List.range 32).filter fun n => decide (1 ≤ n) && (decide (n ≤ 23) || decide (29 ≤ n))
def stateV : List Nat := List.range 27
def stateK : List Nat := [1, 2, 3, 4, 5, 6, 7]

/-- Zeros up to a multiple of 64. -/
def pad64 (l : List Byte) : List Byte := l ++ List.replicate ((64 - l.length % 64) % 64) 0

/-- A mask of register numbers. -/
def maskOf (l : List Nat) : Nat := (l.map fun n => 2 ^ n).sum

/-- SAVEINFO. -/
def saveInfo (slot : Nat) (x : Thread) (full : Bool) (cairn : Nat) : Word :=
  let ph := match x.wait with
    | .phase l => l
    | _ => 0
  let y := min (x.yieldLeft - 1) 4095
  BitVec.ofNat 64 (slot * 2 ^ 38 + (if full then 0 else cairn) * 2 ^ 26 + bit full * 2 ^ 25 + bit x.heldLicence * 2 ^ 24 +
    x.pend.toNat * 2 ^ 20 + (if ph = 0 then 0 else ph - 1) * 2 ^ 18 + bit (ph != 0) * 2 ^ 17 + y)

/-- The thread record of a context: a FULL one, or one with the registers of a cairn entry. -/
def threadRecord (slot : Nat) (x : Thread) (e : Option CairnEntry) : List Byte :=
  let gs := stateG.filter fun n => (e.map fun c => c.glive.testBit n).getD true
  let vs := stateV.filter fun n => (e.map fun c => c.vlive.testBit n).getD true
  let ks := stateK.filter fun n => (e.map fun c => c.klive.testBit n).getD true
  let words := [x.pc, x.status, x.fpctl, x.mprog, x.cbsel, x.bivbase, x.bivlimit, x.bivovf, x.instret, x.stalls, x.domain1, x.domain2,
    x.domain3, x.domain4, x.trappc, x.trapcause, x.trapval, x.trapvec, saveInfo slot x e.isNone ((e.map (·.id)).getD 0),
    x.seq.setWidth 64]
  let head := (words.flatMap fun w => toBytes 8 w.toNat) ++ toBytes 4 (maskOf gs) ++ toBytes 4 (maskOf vs) ++ toBytes 1 (maskOf ks) ++
    toBytes 3 0 ++ toBytes 4 ((e.map (·.bivlive)).getD 262144) ++ toBytes 16 0 ++
    (List.range 32).flatMap fun n => toBytes 1 (amGet x.v n {}).tag.toNat
  pad64 (head ++ (gs.flatMap fun n => toBytes 8 (amGet x.g n 0).toNat) ++ ks.flatMap fun n => toBytes 16 (amGet x.k n 0).toNat) ++
    vs.flatMap fun n => toBytes 64 (amGet x.v n {}).bits.toNat

/-- A thread record as a restore reads it: the slot, the context with HELD, and whether a PHASE had arrived. -/
structure Record where
  key : Nat
  slot : Nat
  thread : Thread
  yieldn : Nat
  phase : Option Nat
  deriving DecidableEq, Repr

/-- Registers read one after the other from a block. -/
def readRegs {α : Type} (l : List Byte) (start width : Nat) (ns : List Nat) (f : Nat → Nat → α) : AMap α :=
  (List.range ns.length).map fun i => (ns.getD i 0, f (ns.getD i 0) (numAt l (start + width * i) width))

/-- A thread record, or none where it is too short for what its masks name. -/
def parseRecord (key : Nat) (l : List Byte) : Option Record :=
  let gs := stateG.filter (numAt l 0xA0 4).testBit
  let vs := stateV.filter (numAt l 0xA4 4).testBit
  let ks := stateK.filter (numAt l 0xA8 1).testBit
  let kat := 0xE0 + 8 * gs.length
  let vat := (kat + 16 * ks.length + 63) / 64 * 64
  let info := dwordAt l 18
  let x : Thread :=
    { slotState := .live, pc := dwordAt l 0, status := dwordAt l 1, fpctl := dwordAt l 2, mprog := dwordAt l 3, cbsel := dwordAt l 4
      bivbase := dwordAt l 5, bivlimit := dwordAt l 6, bivovf := dwordAt l 7, instret := dwordAt l 8, stalls := dwordAt l 9
      domain1 := dwordAt l 10, domain2 := dwordAt l 11, domain3 := dwordAt l 12, domain4 := dwordAt l 13, trappc := dwordAt l 14
      trapcause := dwordAt l 15, trapval := dwordAt l 16, trapvec := dwordAt l 17, seq := BitVec.ofNat 16 (numAt l 0x98 2)
      pend := BitVec.ofNat 4 (fieldOf info 23 20), heldLicence := info.getLsbD 24
      g := readRegs l 0xE0 8 gs fun _ v => BitVec.ofNat 64 v
      k := readRegs l kat 16 ks fun _ v => BitVec.ofNat 128 v
      v := readRegs l vat 64 vs fun n v => { bits := BitVec.ofNat 512 v, tag := BitVec.ofNat 5 (numAt l (0xC0 + n) 1) } }
  if l.length < vat + 64 * vs.length then none
  else
    some { key := key, slot := fieldOf info 39 38, thread := x, yieldn := fieldOf info 11 0
           phase := if info.getLsbD 17 then some (fieldOf info 19 18 + 1) else none }

/-! ### Save areas (R328) -/

/-- The sections of kinds 17 to 25 of a region: kind, layer, row and column. -/
def plainSections (r : Region) : List (Nat × Nat × Nat × Nat) :=
  let pos := regionPositions r
  let cores := pos.filter fun p => computePos p.1 p.2.1
  let at_ (kind : Nat) (p : Nat × Nat × Nat) : Nat × Nat × Nat × Nat := (kind, p.2.2, p.1, p.2.1)
  cores.flatMap (fun p => [at_ 17 p, at_ 18 p, at_ 25 p]) ++ (pos.filter fun p => !computePos p.1 p.2.1).map (at_ 19) ++ pos.map (at_ 20) ++
    [(21, 0, 0, 0)] ++ (if r.twin then (cores.filter fun p => p.2.2 == 0).map (at_ 22) else []) ++
    (if r.quad then (pos.filter fun p => p.1 % 2 == 0 && p.2.1 % 4 == 0).map (at_ 23) else []) ++ [(24, 0, 0, 0)]

/-- A multiple of 64 that is at least n. -/
def align64 (n : Nat) : Nat := (n + 63) / 64 * 64

/-- The bytes of an array state with a number of tiles: 8,192 for each, 32,768 of scale memory and 128 of tables (R248, R251;
log entry 10). -/
def arrayBytes (tiles : Nat) : Nat := 8192 * tiles + 32896

/-- The bytes that a pair's saved array states take in its section. -/
def savedArrayBytes (p : Pair) : Nat :=
  (p.saved.map fun x =>
    match x.2 with
    | .writeback tiles _ _ => arrayBytes (tiles.length / 2048)
    | _ => 0).sum

/-- The size of a section of kinds 17 to 25: that of a pair is longer by its array states (R328). -/
def sectionSize (s : State) (r : Region) (q : Nat × Nat × Nat × Nat) : Nat :=
  Config.sectionBytes q.1 + if q.1 = 22 then savedArrayBytes (getPair s (pairKey (regionTile r q.2.2.1 q.2.2.2 q.2.1))) else 0

/-- The largest size that a section can have: both twins of a pair may have an array state of sixteen tiles (R328). -/
def sectionLimit (kind : Nat) : Nat := Config.sectionBytes kind + if kind = 22 then 2 * arrayBytes 16 else 0

/-- The size of a region's save area in units of 64 KiB: that of a FULL save with four threads on every core (R328, R333). -/
def saveUnits (g : ImageHead) : Nat :=
  let r := footprint g {}
  let records := 4 * ((regionPositions r).filter fun p => computePos p.1 p.2.1).length
  let plain := plainSections r
  ceilDiv (align64 (64 + 16 * (records + plain.length)) + records * 2304 + (plain.map fun p => align64 (sectionLimit p.1)).sum) 65536

/-- Bytes that the specification gives no value. -/
def freeBytes (s : State) (n : Nat) : State × List Byte :=
  ({ s with fresh := s.fresh + n }, (List.range n).map fun i => Config.freeByte (s.fresh + i))

/-- An entry of the section table. -/
def sectionEntry (p : Nat × Nat × Nat × Nat) (size off : Nat) : List Byte :=
  toBytes 1 p.1 ++ toBytes 1 p.2.1 ++ toBytes 1 p.2.2.1 ++ toBytes 1 p.2.2.2 ++ toBytes 4 size ++ toBytes 4 off ++ toBytes 4 0

/-- Sections laid out from an offset: the table, the bytes, and the end of the last section. -/
def layoutSections : List ((Nat × Nat × Nat × Nat) × List Byte) → Nat → List Byte × List Byte × Nat
  | [], off => ([], [], off)
  | (p, b) :: rest, off =>
    let r := layoutSections rest (off + (pad64 b).length)
    (sectionEntry p b.length off ++ r.1, pad64 b ++ r.2.1, if rest.isEmpty then off + b.length else r.2.2)

/-- Bytes written by the command processor at a global range of a function; what cannot be translated is not written. -/
def commandWrite (s : State) (w : Who) (va : Word) (l : List Byte) : State :=
  (piecesOf 4096 va.toNat l.length).foldl (fun s q =>
    match walk s { who := w, va := q.1, write := true, needA := false } [] with
    | (s, .ok e, _) => engineWrite s w (tlbPa e q.1) e.t ((l.drop (q.1 - va.toNat)).take q.2)
    | (s, .fault _ _ _, _) => s) s

/-! ### The save (R327) -/

/-- The cairn entry under which a thread is saved; none for FULL. -/
def saveEntry (r : Region) (t : ThreadRef) (x : Thread) : Option CairnEntry :=
  match x.slotState with
  | .stopped false id => if r.forced then none else cairnEntry r t.core id
  | _ => none

/-- A cairn-saved thread gives up its unsaved registers and the bytes of its bivouac above BIVLIVE (R327). -/
def giveUp (r : Region) (s : State) (t : ThreadRef) : State :=
  let x := getThread s t
  match saveEntry r t x with
  | none => s
  | some e =>
    let keep {α : Type} (m : AMap α) (mask : Nat) : AMap α := m.filter fun p => mask.testBit p.1
    let s := setThread s t { x with g := keep x.g e.glive, v := keep x.v e.vlive, k := keep x.k e.klive }
    let lo := x.bivbase.toNat + e.bivlive
    modCore s t.core fun c => { c with scratch := { c.scratch with cells := memErase c.scratch.cells lo (x.bivlimit.toNat - lo) } }

/-- Is an episode with a thread of the region on its way to its release? -/
def episodesInFlight (s : State) (r : Region) : Bool :=
  let mine (e : Episode) : Bool := e.parties.any fun p => p.saved.isNone && regionHas r p.thread.core
  s.regions.any (fun x => x.2.detected.any mine) || s.quads.any fun q => q.2.detected.any mine

/-- May the save begin (R323, R327 steps 1 and 2)? -/
def saveReady (s : State) (r : Region) : Bool :=
  r.preempt.isSome && !r.ending && ((regionThreads s r).all fun t => slotQuiet (getThread s t)) &&
    ((regionStacks r).all fun st => !(segmentOf r st).running || (segmentOf r st).lastHeld) && enginesDrained s r &&
    ((regionPairs r).all fun k => (getPair s k).holder == 0) && !episodesInFlight s r &&
    s.crossings.all fun c => !(regionElements r).contains c.dst && !(regionElements r).contains c.src

/-- The key of an element of a region. -/
def relElementOf (r : Region) (k : Nat) : Nat :=
  match elKind k with
  | .stream => relNode (r.nodes.findIdx (· == k))
  | .edge => relEdge (r.edges.findIdx (· == k))
  | _ => relOf r k

/-- The element of a region under a key. -/
def elementAt (r : Region) (key : Nat) : Nat :=
  if 16384 ≤ key then r.edges.getD (key - 16384) 0
  else if 8192 ≤ key then r.nodes.getD (key - 8192) 0
  else regionTile r (key / 64 % 64) (key % 64) (key / 4096)

/-- A side of a pair as seen from the region's own layer, and back. -/
def relSide (r : Region) (side : Nat) : Nat := 1 + (side - 1 + r.layer) % 2

/-- A context as the save keeps it: its wait is gone but for an arrived PHASE, its memory view is remade at restore, and a
thread stopped at TRAPPC executes its instruction again (R220, R323). -/
def savedThread (x : Thread) : Thread :=
  let faulted := match x.wait with
    | .threadFault _ => true
    | _ => false
  { x with stores := [], reds := [], own := [], snap := {}, inTrap := x.inTrap && !faulted, eretAt := none }

/-- A map with the writes of the cycle that has not ended yet (R63, R268, R298). -/
def settled {α : Type} (m next : AMap α) : AMap α := next.foldl (fun m e => amInsert m e.1 e.2) m

/-- The content of a region as a save takes it. -/
def captureRegion (s : State) (r : Region) (area : Nat) (sections : List (List Byte)) (chunks : List Nat) : Saved :=
  let pairOf (k : Nat) : Pair :=
    let p := getPair s k
    { window := settled p.window (p.windowNext.map fun e => (e.1, e.2.2)), saved := p.saved.map fun e => (relSide r e.1, e.2), releaseOrder := p.releaseOrder.map (relSide r) }
  { region := { r with entries := settled r.entries r.entriesNext, entriesNext := [] }, area := area, sections := sections, chunks := chunks
    cores := (regionCores r).map fun k =>
      let c := getCore s k
      (relOf r k, { c with slots := c.slots.map fun x => (x.1, savedThread x.2), cbt := settled c.cbt c.cbtNext, cbtNext := [] })
    tiles := ((regionTiles r).filter fun k => !(regionCores r).contains k).map fun k => (relOf r k, getTile s k)
    switches := (regionElements r).map fun k => (relElementOf r k, getSwitch s k)
    pairs := (regionPairs r).map fun k => (relOf r (pairCore k (1 + r.layer)), pairOf k)
    quads := ((regionTiles r).filter fun k => r.quad && rowOf k % 2 == 0 && colOf k % 4 == 0).map fun k => (relOf r k, getQuad s (quadKey k))
    mail := (s.net.filterMap fun m =>
        match m with
        | .user u => if regionHas r u.dst then some (relOf r u.dst, u.chan, u.data) else none
        | _ => none) ++
      (regionCores r).flatMap fun k => (getCore s k).inject.map fun u => (relOf r u.dst, u.chan, u.data) }

/-- The thread records of a region. -/
def recordSections (s : State) (r : Region) : List ((Nat × Nat × Nat × Nat) × List Byte) :=
  (regionThreads s r).map fun t =>
    let x := getThread s t
    let k := relOf r t.core
    ((16, k / 4096, k / 64 % 64, k % 64), threadRecord t.slot x (saveEntry r t x))

/-- Writes the save area: of one that software names, all but its first doubleword, which software has written; of one that the command
processor takes itself, all of it. The area lies in the address space of the LAUNCH that named it (R203). The new state, the bytes written, and those of the sections of kinds 17 to 25 (R246, R328). -/
def writeArea (s : State) (r : Region) (area : Nat) (chunks : List Nat) : State × Nat × List (List Byte) :=
  let p := (plainSections r).foldl (fun (a : State × List ((Nat × Nat × Nat × Nat) × List Byte)) q =>
    let f := freeBytes a.1 (sectionSize s r q)
    (f.1, a.2 ++ [(q, f.2)])) (s, [])
  let l := recordSections s r ++ p.2
  let body := align64 (64 + 16 * l.length)
  let x := layoutSections l body
  let head := toBytes 8 r.cmd ++ toBytes 4 64 ++ toBytes 4 l.length ++ toBytes 1 (bit r.forced) ++ toBytes 7 0 ++ toBytes 8 x.2.2 ++ toBytes 24 0
  let gap := List.replicate (body - 64 - x.1.length) (0 : Byte)
  let w := whoCommand s r.part r.saveFunc
  let bytes := head ++ x.1 ++ gap ++ x.2.1
  let t :=
    if chunks.isEmpty then commandWrite p.1 w (BitVec.ofNat 64 (area + 8)) bytes
    else chunksWrite p.1 w chunks 0 (toBytes 8 r.inst ++ bytes)
  (t, x.2.2, p.2.map (·.2))

/-- The pieces of a save area that the command processor takes itself, as many as a save of the region may need (R245, R246); an empty
list for an area that software named, and none while there is no room. -/
def ownArea (s : State) (r : Region) : Option (List Nat) :=
  match r.ownTiers with
  | none => some []
  | some tiers => takeChunks s r.part tiers (saveUnits (savedHead r)) []

/-- A save joins those of its partition; an earlier one of the INST stands behind it (R330). -/
def keepSave (s : State) (v : Saved) : State :=
  modPart s v.region.part fun t =>
    { t with saves := amInsert t.saves v.region.inst v, oldSaves := (amFind t.saves v.region.inst).toList ++ t.oldSaves }

/-- The save of a region (R327). Packets of LAUNCH that are still in the network are refused, and counted, before the counters are saved
(R301). -/
def saveRegion (s : State) (rk : Nat) : State :=
  match getRegion s rk with
  | none => s
  | some r =>
    match r.preempt, ownArea s r with
    | some (_, area), some chunks =>
      if !saveReady s r then s
      else
        let ts := regionThreads s r
        let s := ts.foldl (giveUp r) (refusePackets s r)
        let s := ts.foldl (fun s t => modThread s t fun x => { x with seq := x.seq + 1 }) s
        let w := writeArea s r area chunks
        let v := captureRegion w.1 { r with preempt := none, ownTiers := none, forced := false } area w.2.2 chunks
        let s := ts.foldl performAll w.1
        let s := ts.foldl clearThread s
        let s := releaseRegion s rk
        postMail (keepSave s v) r.part (designated s r.part)
          [mailHead 0x23 (bit r.forced) r.inst r.func false, BitVec.ofNat 64 area, BitVec.ofNat 64 w.2.1, 0]
    | _, _ => s

/-- REGION_SAVE (R327). -/
def execRegionSave (region : Nat) (s : State) : Host.Outcome State Fault Refusal := runStep (fun s => saveRegion s region) s

/-! ### The restore (R330) -/

/-- Does a section entry of a save area stand as R39 and R328 give? -/
def saveSectionOk (g : ImageHead) (l : List Byte) : Bool :=
  let e := sectionOf l
  zeroAt l 12 4 && e.off % 64 == 0 && decide (16 ≤ e.kind ∧ e.kind ≤ 25) && headHas g e.row e.col e.layer &&
    (e.kind != 16 || computePos e.row e.col)

/-- The sections of a save area: the thread records, none for BADSAVE (R333), and the bytes of the others. -/
def rdSaved (rd : Nat → Nat → Rd (List Byte)) : List Section → Rd (List Record × List (List Byte))
  | [] => pure ([], [])
  | e :: rest => do
    let b ← rd e.off e.size
    let x ← (if e.kind = 16 then (do
      let x ← rdOpt (parseRecord (relKey e.row e.col e.layer) b)
      pure (some x)) else pure none)
    let l ← rdSaved rd rest
    pure (match x with
      | some x => (x :: l.1, l.2)
      | none => (l.1, b :: l.2))

/-- Reads and checks a save area, given by how its bytes are read (R328, R333). -/
def rdSave (rd : Nat → Nat → Rd (List Byte)) (g : ImageHead) (inst : Nat) (cmd : Word) : Rd (List Record × List (List Byte)) := do
  let h ← rd 0 64
  rdCheck (dwordAt h 0 == BitVec.ofNat 64 inst && dwordAt h 1 == cmd)
  let tb ← rd (numAt h 16 4) (16 * numAt h 20 4)
  rdCheck ((blocksOf 16 tb).all (saveSectionOk g))
  rdSaved rd ((blocksOf 16 tb).map sectionOf)

/-- The bytes of a save area that software names. -/
def rdArea (w : Who) (area : Word) (off n : Nat) : Rd (List Byte) := rdBytes w (area + BitVec.ofNat 64 off) n

/-- The bytes of a save area that the command processor has taken itself. -/
def rdChunks (w : Who) (chunks : List Nat) (off n : Nat) : Rd (List Byte) := fun s =>
  let r := (piecesOf 65536 off n).foldl (fun (r : State × Option (List Byte)) q =>
    match engineRead r.1 w (chunks.getD (q.1 / 65536) 0 + q.1 % 65536) q.2 false, r.2 with
    | (s, some b), some l => (s, some (l ++ b))
    | (s, _), _ => (s, none)) (s, some [])
  (r.2, r.1)

/-- The saves of an INST, the last first. -/
def savesOf (t : Partition) (inst : Nat) : List Saved := (amFind t.saves inst).toList ++ t.oldSaves.filter fun v => v.region.inst == inst

/-- The one of some saves that was written at an address, else the first. -/
def savedAt (l : List Saved) (func area : Nat) : Option Saved := (l.find? fun v => v.area == area && v.region.saveFunc == func).or l.head?

/-- The save that an area's sections belong to: of those of the INST with these bytes, the one that was written at this address of
the function, else the last (R328, R330). -/
def namedSave (s : State) (p inst func area : Nat) (sections : List (List Byte)) : Option Saved :=
  savedAt ((savesOf (getPart s p) inst).filter fun v => v.sections == sections) func area

/-- The function in which a placement record's launch runs, and in which its CMD lies: that of the LAUNCH, or for a restore that of the
saved region (R203, R330). -/
def recordFunc (s : State) (p inst func area : Nat) : Nat :=
  if area = 0 then func else ((savedAt (savesOf (getPart s p) inst) func area).map (·.region.func)).getD func

/-- The region row and column at which a footprint crosses between twin stacks (R330). -/
def segmentCut (r : Region) : Nat × Nat :=
  (if r.prow < 24 ∧ 24 < r.prow + r.h then 24 - r.prow else 0, if r.pcol < 32 ∧ 32 < r.pcol + r.w then 32 - r.pcol else 0)

/-- Does a base divide the region as the base at the save did (R330)? -/
def sameCut (g : ImageHead) (v : Saved) (b : Base) : Bool := segmentCut (footprint g b) == segmentCut v.region

/-- The twin stack of a restored region that holds the positions which a stack held at the save. -/
def newStack (old new : Region) (st : Nat) : Nat :=
  match (regionPositions old).find? fun p => stackOf (dieOf (regionTile old p.1 p.2.1 p.2.2)) == st with
  | some p => stackOf (dieOf (regionTile new p.1 p.2.1 p.2.2))
  | none => st

/-- A saved core written back, with the port directions that its threads' trapped instructions hold (R110). -/
def restoreCore (r : Region) (s : State) (e : Nat × Core) : State :=
  let k := elementAt r e.1
  let c := e.2
  setCore s k { freshCore (getCore s k) c.scratch with
    cbt := c.cbt, msgSent := c.msgSent, msgRecv := c.msgRecv, recv := c.recv, matStatus := c.matStatus
    spStatus := c.spStatus, waiting := c.waiting, portHold := c.portHold }

/-- A saved switch written back; rows, constants and descriptors are those of the installation. -/
def restoreSwitch (r : Region) (s : State) (e : Nat × Switch) : State :=
  let x := e.2
  modSwitch s (elementAt r e.1) fun w =>
    { w with input := x.input, send := x.send, recv := x.recv, delay0 := x.delay0, delay1 := x.delay1, adapter := x.adapter
             adapterHalf := x.adapterHalf, acc := x.acc, accAlu := x.accAlu, accFresh := x.accFresh, accUsed := x.accUsed, queue := x.queue
             reader := { w.reader with done := x.reader.done }, writer := { w.writer with done := x.writer.done } }

/-- A saved memory tile written back; its latches are empty (R213). -/
def restoreTile (r : Region) (s : State) (e : Nat × MemTile) : State :=
  setTile s (elementAt r e.1) { e.2 with chans := e.2.chans.map fun c => (c.1, { c.2 with latch := [], stalled := none, refused := false }) }

/-- Does a context of a core carry HELD (R252)? -/
def coreHeld (s : State) (core : Nat) : Bool := (getCore s core).slots.any fun x => x.2.slotState == .live && x.2.heldLicence

/-- A saved pair: the window (R268), and the array states of the cores whose contexts carry HELD. -/
def restorePair (r : Region) (s : State) (e : Nat × Pair) : State :=
  let pk := pairKey (elementAt r e.1)
  let held (side : Nat) : Bool := coreHeld s (pairCore pk side)
  setPair s pk
    { window := e.2.window
      saved := (e.2.saved.map fun x => (relSide r x.1, x.2)).filter fun x => held x.1
      releaseOrder := (e.2.releaseOrder.map (relSide r)).filter held }

/-- The contexts of a pair that carry HELD request the licence, in the order in which they released it at the save (R252). -/
def requestHeld (s : State) (pk : Nat) : State :=
  let p := getPair s pk
  let order := p.releaseOrder ++ ([1, 2].filter fun d => coreHeld s (pairCore pk d) && !p.releaseOrder.contains d)
  order.foldl (fun s d =>
    if (getPair s pk).holder = 0 then grantLicence s pk d else modPair s pk fun p => setRequest p d true)
    (modPair s pk fun p => { p with releaseOrder := order })

/-- A saved engine written back (R288). -/
def restoreQuad (r : Region) (s : State) (e : Nat × Quad) : State :=
  modQuad s (quadKey (elementAt r e.1)) fun q => { q with scratch := e.2.scratch, mode := e.2.mode }

/-- The context of a record in its slot, past a boundary (R184, R330). `old` is what the save kept of it beside the record. -/
def restoreThread (r : Region) (v : Option Saved) (s : State) (x : Record) : State :=
  let old := (v.bind fun v => amFind v.cores x.key).bind fun c => amFind c.slots x.slot
  let t := x.thread
  let u : ThreadRef := { core := elementAt r x.key, slot := x.slot }
  takeBoundary (setThread s u
    { t with func := r.func, part := r.part, inst := r.inst, code := (old.map (·.code)).getD r.code
             inTrap := (old.map (·.inTrap)).getD false, begun := x.phase.map fun l => .phase (BitVec.ofNat 2 (l - 1)), pend := t.pend &&& (old.map (·.pend)).getD 15
             wait := (x.phase.map Wait.phase).getD .none, yieldLeft := if x.yieldn = 0 then 0 else x.yieldn + 1 }) u

/-- What the save kept of the region itself (R146, R300). -/
def restoredRegion (r : Region) (v : Saved) : Region :=
  let o := v.region
  { r with func := o.func, queue := o.queue, prio := o.prio, eligibleAt := o.eligibleAt, entries := o.entries, phases := o.phases, code := o.code
           segments := o.segments.foldl (fun m e =>
             amInsert m (newStack o r e.1) { c := e.2.c, running := e.2.running, pendingStart := e.2.pendingStart, lastHeld := e.2.lastHeld }) [] }

/-- The saved participants of episodes under way that a restore brings back take part with their threads (R294, R300). -/
def moveParties (r : Region) (s : State) : State :=
  let move (p : Party) : Party :=
    if p.saved = some r.inst then { p with saved := none, thread := { p.thread with core := elementAt r p.thread.core } } else p
  let moved (l : List Episode) : List Episode := l.map fun e => { e with parties := e.parties.map move }
  { s with regions := s.regions.map fun p => (p.1, if p.2.part = r.part then { p.2 with detected := moved p.2.detected } else p.2) }

/-- Writes every section back into a region that stands as installation leaves it, and only then lets its threads issue
(R330). -/
def restoreRegion (s : State) (rk : Nat) (v : Option Saved) (records : List Record) : State :=
  match getRegion s rk with
  | none => s
  | some r =>
    match v with
    | none => (regionPairs r).foldl requestHeld (records.foldl (restoreThread r none) s)
    | some v =>
      let r := restoredRegion r v
      let s := setRegion s rk r
      let s := v.cores.foldl (restoreCore r) s
      let s := v.tiles.foldl (restoreTile r) s
      let s := v.switches.foldl (restoreSwitch r) s
      let s := v.quads.foldl (restoreQuad r) s
      let s := moveParties r { s with net := s.net ++ v.mail.map fun m => .user { dst := elementAt r m.1, chan := m.2.1, data := m.2.2 } }
      let s := records.foldl (restoreThread r (some v)) s
      let s := (regionPairs r).foldl requestHeld (v.pairs.foldl (restorePair r) s)
      modPart s r.part fun t => { t with saves := amInsert t.saves r.inst { v with out := true } }

/-- The records of a save as the machine itself keeps them, for a save area that cannot be read again. -/
def keptRecords (v : Saved) : List Record :=
  v.cores.flatMap fun c => (c.2.slots.filter fun x => decide (x.2.slotState ≠ .free)).filterMap fun x =>
    parseRecord c.1 (threadRecord x.1 x.2 none)

/-- The state of a region that the placer restores from what the save kept of its configuration. -/
def installSaved (s : State) (r : Region) (v : Saved) : State :=
  let s := setRegion (ballastRegion s r) (regionKey r.part r.inst) r
  let s := v.switches.foldl (fun s e =>
    modSwitch s (elementAt r e.1) fun w => freshSwitch w e.2.rows e.2.consts ([], []) (e.2.reader.desc, e.2.writer.desc)) s
  let s := (regionPairs r).foldl (fun s k => setPair s k {}) s
  let s := (regionQuads r).foldl (fun s k => modQuad s k freshQuad) s
  r.nodes.foldl prefillNode s

end Sys2Proof.Machine
end

