-- ==== Sys2Proof/Machine/Command.lean ====
section
/-! DEFINITION. The command processor: launch packets and thread creation, the mailbox and its replies, LAUNCH, the queues'
registers, readiness, staging, placement turns and reservations (R71 to R74, R218, R219, R242, R302 to R315, R319, R331 to R333). -/
namespace Sys2Proof.Machine

/-! ### Launch packets (R71, R72) -/

/-- A launch packet of 32 bytes. -/
def parsePacket (part : Nat) (sender : ThreadRef) (l : List Byte) : LaunchPacket :=
  { image := numAt l 0 8, trow := numAt l 8 1, tcol := numAt l 9 1, slot := numAt l 10 1, layer := numAt l 11 1, inst := numAt l 12 4
    bivb := numAt l 16 4, bivl := numAt l 20 4, bivo := numAt l 24 8, part := part, sender := some sender }

/-- Does a core take a packet (R72, R161)? -/
def packetOk (s : State) (core : Nat) (p : LaunchPacket) : Bool :=
  p.image % 64 == 0 && (decide (p.slot < 4) || p.slot == 0xFF) && p.bivb % 64 == 0 && p.bivl % 64 == 0 && decide (p.bivb ≤ p.bivl) &&
    decide (p.bivl ≤ 262144) && p.bivo / 2 ^ 57 == 0 && p.bivo % 64 == 0 &&
    match packetRegion s p with
    | some r => inRegion r p.trow p.tcol p.layer && computePos p.trow p.tcol && regionTile r p.trow p.tcol p.layer == core
    | none => false

/-- The THREADFAULT message of a creation that ended or a refused packet (R313, R315, R333). -/
def postCreationFault (s : State) (core slot : Nat) (p : LaunchPacket) : State :=
  let func := ((packetRegion s p).map (·.func)).getD 0
  postMail s p.part (designated s p.part)
    [mailHead 0x20 0 p.inst func false, 0, BitVec.ofNat 64 p.image,
     handleWord (corePos core) slot (getThread s { core := core, slot := slot }).seq]

/-- A packet of an installation that failed aborts its launch (R313). -/
def abortInstalling (s : State) (p : LaunchPacket) : State := if p.sender.isNone then abortLaunch s (regionKey p.part p.inst) else s

/-- A packet at its core: refused, accepted into a slot, or waiting (R71, R72). -/
def takePacket (s : State) (core : Nat) (p : LaunchPacket) : State :=
  let s := countPacket s core p
  if !packetOk s core p then
    let s := answerSender s p 1
    if p.sender.isNone then abortInstalling (postCreationFault s core p.slot p) p else s
  else
    let s := answerSender s p 0
    match slotFor s core p with
    | some i => acceptPacket s core i p
    | none => modCore s core fun c => { c with waiting := c.waiting ++ [p] }

/-- The oldest packet on its way to a core. -/
def packetFor (s : State) (core : Nat) : Option LaunchPacket :=
  s.net.findSome? fun m =>
    match m with
    | .packet k p => if k = core then some p else none
    | _ => none

/-- LAUNCH_PACKET_ARRIVAL (R71). -/
def execLaunchPacketArrival (core : Nat) (s : State) : Host.Outcome State Fault Refusal :=
  runStep (fun s =>
    match packetFor s core with
    | some p => takePacket { s with net := s.net.erase (.packet core p) } core p
    | none => s) s

/-! ### Thread creation (R73, R74) -/

/-- How the context engine's reads end: the bytes, a wait, or the end of the creation. -/
inductive CreationEnd where
  | ok (l : List Byte)
  | block (w : Wait)
  | fail
  deriving DecidableEq, Repr

/-- Reads pieces of the register image as loads of the thread. -/
def creationPieces (t : ThreadRef) : List (Nat × Nat) → State → State × CreationEnd
  | [], s => (s, .ok [])
  | (va, n) :: rest, s =>
    match threadXlate { s with defer := false } t va false false false with
    | (s, .block w) => (s, .block w)
    | (s, .ok e) =>
      let s := noticeErrors s (getThread s t).part (tlbPa e va) n e.t
      match plainRead s t e va n with
      | none => (s, .fail)
      | some l =>
        match creationPieces t rest s with
        | (s, .ok m) => (s, .ok (l ++ m))
        | r => r

/-- Reads a part of the register image: every byte must lie in the global space. -/
def creationRead (s : State) (t : ThreadRef) (va n : Nat) : State × CreationEnd :=
  if isGlobal (BitVec.ofNat 64 va) && isGlobal (BitVec.ofNat 64 (va + (n - 1))) then creationPieces t (piecesOf 4096 va n) s else (s, .fail)

/-- Reads several parts one after the other, each if its bit is set; a part that is not read is empty. -/
def creationParts (t : ThreadRef) (image : Nat) : List (Bool × Nat × Nat) → State → State × Except CreationEnd (List (List Byte))
  | [], s => (s, .ok [])
  | (on, off, n) :: rest, s =>
    match (if on then creationRead s t (image + off) n else (s, .ok [])) with
    | (s, .ok l) =>
      match creationParts t image rest s with
      | (s, .ok m) => (s, .ok (l :: m))
      | r => r
    | (s, e) => (s, .error e)

/-- The registers of some numbers with their values from a part; a register that holds its default is not listed. -/
def partRegs {α : Type} [DecidableEq α] (d : α) (l : List Byte) (width : Nat) (ns : List Nat) (f : Nat → Nat → α) : AMap α :=
  ns.foldl (fun m n => amPut d m n (f n (numAt l (width * n) width))) []

/-- The entry PC, or none where ENTRY or PARTS breaks R73. -/
def entryPc (r : Region) (p : LaunchPacket) (entry parts : Word) : Option Word :=
  if fieldOf parts 63 5 ≠ 0 then none
  else if parts.getLsbD 4 then
    match r.cores.find? fun c => c.row == p.trow && c.col == p.tcol && c.layer == p.layer with
    | some c => if entry.toNat % 4 = 0 ∧ entry.toNat < c.size then some (BitVec.ofNat 64 (r.config + c.off) + entry) else none
    | none => none
  else if fieldOf entry 1 0 = 0 ∧ fieldOf entry 63 57 = 0 then some entry
  else none

/-- The context that creation makes (R74) from S, TAGS, G, K and V of the image. DESIGN CHOICE: of a TAGS byte bits [4:0] are the
register's tag, a reserved one too; R73 gives no check of it (log entry 40). -/
def newThread (r : Region) (core : Nat) (p : LaunchPacket) (x : Thread) (pc parts : Word) (ls : List (List Byte)) : Thread :=
  let part (i : Nat) : List Byte := ls.getD i []
  let fp := dwordAt (part 0) 0
  let biv := BitVec.ofNat 64 p.bivb
  let g : AMap Word := if parts.getLsbD 0 then partRegs 0 (part 2) 8 stateG (fun _ v => BitVec.ofNat 64 v) else amPut 0 [] 30 biv
  let v : AMap VReg := if parts.getLsbD 1 then
      partRegs {} (part 4) 64 stateV (fun n b => { bits := BitVec.ofNat 512 b, tag := BitVec.ofNat 5 (numAt (part 1) n 1) })
    else []
  let k : AMap (BitVec 128) := if parts.getLsbD 2 then partRegs 0 (part 3) 16 stateK (fun _ v => BitVec.ofNat 128 v) else []
  let d (i : Nat) : Word := r.domains.getD i 0
  { slotState := .live, pc := pc, status := boolWord (isService core), fpctl := if parts.getLsbD 3 then fpctlWrite 0 fp else 0
    cbsel := if parts.getLsbD 3 then dwordAt (part 0) 1 &&& 1 else 0, domain1 := d 0, domain2 := d 1, domain3 := d 2, domain4 := d 3
    bivbase := biv, bivlimit := BitVec.ofNat 64 p.bivl, bivovf := BitVec.ofNat 64 p.bivo, g := g, v := v, k := k
    seq := x.seq, func := x.func, part := x.part, inst := x.inst, code := x.code, snap := x.snap }

/-- A creation that ends without a thread (R74). -/
def creationEnds (s : State) (t : ThreadRef) (p : LaunchPacket) : State :=
  abortInstalling (freeSlotOf (postCreationFault s t.core t.slot p) t) p

/-- One attempt of the context engine at a slot's creation. -/
def createThread (s : State) (t : ThreadRef) : State :=
  let x := getThread s t
  match x.slotState, x.wait with
  | .creating p, .none =>
    match packetRegion s p with
    | none => creationEnds s t p
    | some r =>
      let s := takeBoundary s t
      match creationRead s t p.image 16 with
      | (s, .block w) => modThread s t fun x => { x with wait := w }
      | (s, .fail) => creationEnds s t p
      | (s, .ok h) =>
        let parts := dwordAt h 1
        match entryPc r p (dwordAt h 0) parts with
        | none => creationEnds s t p
        | some pc =>
          match creationParts t p.image
              [(parts.getLsbD 3, 0x10, 16), (parts.getLsbD 1, 0x20, 32), (parts.getLsbD 0, 0x40, 256), (parts.getLsbD 2, 0x140, 128),
               (parts.getLsbD 1, 0x1C0, 2048)] s with
          | (s, .error (.block w)) => modThread s t fun x => { x with wait := w }
          | (s, .error _) => creationEnds s t p
          | (s, .ok ls) =>
            let s := setThread (dropParty s t) t (newThread r t.core p (getThread s t) pc parts ls)
            if regionForced s t then stopForced s t else s
  | _, _ => s

/-- THREAD_CREATION (R74), in a cycle in which the core advances (R335, R341). -/
def execThreadCreation (core slot : Nat) (s : State) : Host.Outcome State Fault Refusal :=
  runStep (fun s => if coreAdvances s core then createThread s { core := core, slot := slot } else s) s

/-! ### The mailbox (R218, R332) -/

/-- The oldest message on its way to a service core; one of another partition never comes there (R352). DESIGN CHOICE: of messages of
different senders too the one that was sent first enters first; R148 orders those of one sender only (log entry 40). -/
def mailFor (s : State) (service : Nat) : Option (List Word) :=
  s.net.findSome? fun m =>
    match m with
    | .mail p k l => if k = service ∧ p = partOfCore s service then some l else none
    | _ => none

/-- The region that an engine's position belongs to, by its installed binding table (R41). -/
def regionOfEngine (s : State) (pos : Nat) : Option Nat :=
  (s.regions.find? fun e => e.2.bindings.any fun b => b.engine == 1 && enginePos (tileKey b.die b.row b.col) == pos).map (·.1)

/-- A REGIONFAULT, and an ENGINEERR that names an engine of a region, lead to the abort of the launch (R332). -/
def faultAbort (s : State) (service : Nat) (l : List Word) : State :=
  let h := l.getD 0 0
  match fieldOf h 7 0 with
  | 0x21 => abortLaunch s (regionKey (partOfCore s service) (fieldOf h 39 16))
  | 0x22 =>
    match regionOfEngine s (l.getD 2 0).toNat with
    | some rk => if fieldOf h 15 8 = 1 then abortLaunch s rk else s
    | none => s
  | _ => s

/-- MAILBOX_ARRIVAL (R218): a full mailbox leaves the message in the network. -/
def execMailboxArrival (service : Nat) (s : State) : Host.Outcome State Fault Refusal :=
  runStep (fun s =>
    match mailFor s service with
    | some l =>
      if 64 ≤ (getCore s service).mailbox.length then s
      else
        let s := modCore { s with net := s.net.erase (.mail (partOfCore s service) service l) } service fun c => { c with mailbox := c.mailbox ++ [l] }
        faultAbort s service l
    | none => s) s

/-! ### Replies (R219, R319) -/

/-- A retry after a THREADFAULT: the instruction at TRAPPC executes again (R319). -/
def retryThread (x : Thread) (dbl : Bool) : Thread :=
  let x := { x with pc := x.trappc, inTrap := false, wait := .none }
  if dbl then setModes x (pmodeSys x) (pmodeSys x) else x

/-- A reply at a thread's slot. -/
def replyThread (s : State) (t : ThreadRef) (seq : Nat) (refuse : Bool) : State :=
  let x := getThread s t
  if x.seq.toNat ≠ seq then s
  else
    match x.slotState, x.wait with
    | .creating p, .fault _ => if refuse then creationEnds s t p else modThread s t fun x => { x with wait := .none }
    | .live, .fault va => modThread s t fun x => { x with wait := if refuse then .refused va else .none }
    | .live, .threadFault dbl => if refuse then abortLaunch s (regionKey x.part x.inst) else modThread s t fun x => retryThread x dbl
    | _, _ => s

/-- A reply at a copy channel (R172). -/
def replyChannel (s : State) (tile c seq : Nat) (refuse : Bool) : State :=
  let ch := getChan s tile c
  match ch.stalled with
  | some va =>
    if ch.seq.toNat ≠ seq then s
    else if refuse then abortCopy s tile c 1 va
    else modChan s tile c fun ch => { ch with stalled := none }
  | none => s

/-- A reply at a generator of a stream node (R213). -/
def replyNode (s : State) (k seq : Nat) (refuse : Bool) : State :=
  let act (s : State) (write : Bool) : State :=
    let g := nodeGen s k write
    if g.stalled.isNone ∨ g.seq.toNat ≠ seq then s
    else
      let s := modGen s k write fun g => { g with stalled := none, refused := refuse }
      if refuse then
        match elementRegion s k with
        | some (rk, _) => elementFault s rk k faultMemErr
        | none => s
      else s
  act (act s false) true

/-- A reply reaches the requester that its handle names; one that does not wait under that number discards it (R219). -/
def deliverReply (s : State) (h : Word) (refuse : Bool) : State :=
  let pos := fieldOf h 15 0
  let index := fieldOf h 23 16
  let seq := fieldOf h 47 32
  match pos % 8 with
  | 0 => replyThread s { core := coreAt pos, slot := index } seq refuse
  | 4 => replyThread s { core := coreAt pos, slot := index } seq refuse
  | 2 =>
    let k := coreAt pos
    if (rowOf k + colOf k) % 2 = 1 then replyChannel s k index seq refuse else replyNode s (nodeKey (dieOf k) index) seq refuse
  | _ => s

/-- Is the message a reply of a service core to a position (R148)? -/
def replyFrom (service pos : Nat) : NetMsg → Bool
  | .reply k h _ => k == service && fieldOf h 15 0 == pos
  | _ => false

/-- FAULT_REPLY (R219): a reply in the network arrives, after those that its sender sent before it to the same position (R148). No
reply crosses to a die of another partition (R352). -/
def execFaultReply (index : Nat) (s : State) : Host.Outcome State Fault Refusal :=
  runStep (fun s =>
    match s.net[index]? with
    | some (.reply k h refuse) =>
      if (s.net.take index).any (replyFrom k (fieldOf h 15 0)) then s
      else
        let t := { s with net := s.net.eraseIdx index }
        if partOfStack s (stackOf (fieldOf h 15 13)) = partOfCore s k then deliverReply t h refuse else t
    | _ => s) s

/-! ### LAUNCH (R333) -/

/-- A result with a save size. -/
def installResult (code units : Nat) : Word := BitVec.ofNat 64 (units % 2 ^ 32 * 2 ^ 32 + code)

/-- A region restored at a base from a save area (R330): `v` is the save whose sections the area holds. -/
def restoreLaunch (s : State) (o : Origin) (inst : Nat) (c : LaunchCmd) (g : Image) (b : Base) (a : Alloc) (v : Option Saved)
    (records : List Record) : State :=
  restoreRegion (installState s g (newRegion s o inst c g b a)) (regionKey o.part inst) v records

/-- INSTALL of a placement record: the first answer of R333 that applies, and what it leaves. -/
def installRecord (s : State) (part func : Nat) (l : List Byte) : State × Word :=
  let cmd := dwordAt l 0
  let save := dwordAt l 1
  let b : Base := { prow := numAt l 16 1, pcol := numAt l 17 1, layer := numAt l 18 1 }
  let inst := numAt l 20 4
  let area := whoCommand s part func
  let f := recordFunc s part inst func save.toNat
  let w := whoCommand s part f
  if !zeroAt l 19 1 || !zeroAt l 24 8 || decide (2 ^ 24 ≤ inst) || (getRegion s (regionKey part inst)).isSome then (s, installResult 4 0)
  else
    match rdLaunch w cmd s with
    | (none, s) => (s, installResult 3 0)
    | (some (c, g), s) =>
      let outside := (allocate (residentRegions s) part g.head c.nt c.share b).any fun a => !exitsAt g.head b a
      if outside then (s, installResult 3 0)
      else
      match (if save = 0 then (some ([], []), s) else rdSave (rdArea area save) g.head inst cmd s) with
      | (none, s) => (s, installResult 5 0)
      | (some (records, sections), s) =>
        let units := saveUnits g.head
        let v := if save = 0 then none else namedSave s part inst func save.toNat sections
        let cut := v.all fun v => sameCut g.head v b
        if !(areaOk s part g.head c.handle (residentRegions s) (fun _ => false) b && cut) then (s, installResult 1 units)
        else
          match allocate (residentRegions s) part g.head c.nt c.share b with
          | none => (s, installResult 2 units)
          | some a =>
            let o : Origin := { part := part, func := f, eligibleAt := s.cycle, cmd := cmd }
            (if save = 0 then installLaunch s o inst c g b a else restoreLaunch s o inst c g b a v records, installResult 0 units)

/-- The Alignment trap of a LAUNCH operand. -/
def launchAligned (x : Word) (n : Nat) : M Unit := if x.toNat % n = 0 then pure () else trapM causeAlignment x

/-- LAUNCH.install (R333). -/
def execLaunchInstall (d a : Reg) (s : State) : Host.Outcome State Fault Refusal :=
  run4 (do
    requireSys (.launchInstall d a)
    withPorts [a] [] [d] [] do
      let x ← readG a
      launchAligned x 32
      loadBytes x 32 x fun l => do
        let me ← self
        let s ← getS
        let r := installRecord s me.part me.func l
        modS fun _ => r.1
        writeG d r.2) s

/-- LAUNCH.packet (R333): it sends the packet and waits for the answer. -/
def execLaunchPacket (d a : Reg) (s : State) : Host.Outcome State Fault Refusal :=
  run4 (do
    requireSys (.launchPacket d a)
    withPorts [a] [] [d] [] do
      let me ← self
      let x ← readG a
      match me.wait with
      | .packetDone n => writeG d (BitVec.ofNat 64 n)
      | _ => do
        launchAligned x 32
        loadBytes x 32 x fun l => do
          let s ← getS
          let p := parsePacket me.part s.cur l
          let sent (s : State) : State := modCore s s.cur.core fun c => { c with msgSent := c.msgSent + 1 }
          match packetRegion s p with
          | some r => waitKeepM .packet fun s => { sent s with net := s.net ++ [.packet (regionTile r p.trow p.tcol p.layer) p] }
          | none => do
            modS sent
            writeG d 1) s

/-- A request with the function in which the save area is named (R203, R333). -/
def requestSave (s : State) (func rk area : Nat) : State × Nat :=
  match requestPreempt s rk area with
  | (t, 0) => (modRegion t rk fun r => { r with saveFunc := func }, 0)
  | r => r

/-- LAUNCH.preempt (R323, R331, R333). -/
def execLaunchPreempt (d a : Reg) (s : State) : Host.Outcome State Fault Refusal :=
  run4 (do
    requireSys (.launchPreempt d a)
    withPorts [a] [] [d] [] do
      let x ← readG a
      launchAligned x 64
      loadBytes x 8 x fun l => do
        let me ← self
        let s ← getS
        let inst := ofBytes l
        let r := if inst < 2 ^ 24 then requestSave s me.func (regionKey me.part inst) x.toNat else (s, 1)
        modS fun _ => r.1
        writeG d (BitVec.ofNat 64 r.2)) s

/-- Runs an instruction after which the thread may be gone: only a thread that is still there retires. -/
def runMaybeGone (m : M Unit) (s : State) : Host.Outcome State Fault Refusal :=
  match m s with
  | .ok (_, s') => if (getThread s' s.cur).slotState = .free then .next s' else run4 m s
  | .error _ => run4 m s

/-- LAUNCH.abort (R333). -/
def execLaunchAbort (d a : Reg) (s : State) : Host.Outcome State Fault Refusal :=
  runMaybeGone (do
    requireSys (.launchAbort d a)
    withPorts [a] [] [d] [] do
      let x ← readG a
      let me ← self
      let s ← getS
      let rk := regionKey me.part (fieldOf x 23 0)
      if (getRegion s rk).isSome then do
        writeG d 0
        modS fun s => abortLaunch s rk
      else writeG d 1) s

/-- Does a core hold a retention of the partition for a handle? -/
def retainsFor (p : Nat) (handle : Word) (c : Core) : Bool := c.retention.any fun t => t.part == p && t.handle == handle

/-- LAUNCH.unretain (R79, R333). -/
def execLaunchUnretain (d a : Reg) (s : State) : Host.Outcome State Fault Refusal :=
  run4 (do
    requireSys (.launchUnretain d a)
    withPorts [a] [] [d] [] do
      let h ← readG a
      let me ← self
      let s ← getS
      let p := me.part
      let gone := (getPart s p).evacuated.any fun e => e.ret.handle == h
      if (s.cores.any fun c => retainsFor p h c.2) || gone then do
        modS fun s =>
          let s := { s with cores := s.cores.map fun c => (c.1, if retainsFor p h c.2 then powerDown c.2 else c.2) }
          modPart s p fun t => { t with evacuated := t.evacuated.filter fun e => e.ret.handle != h }
        writeG d 0
      else writeG d 1) s

/-! ### Queue registers (R302, R303, R306) -/

/-- A write to a queue register of a partition that exists. -/
def queueStep (part : Nat) (f : State → State) (s : State) : Host.Outcome State Fault Refusal :=
  runStep (fun s => if (getPart s part).exists_ then f s else s) s

/-- QTAIL_WRITE (R303). -/
def execQtailWrite (part queue : Nat) (value : Word) (s : State) : Host.Outcome State Fault Refusal :=
  queueStep part (fun s => tailWrite s part queue value) s

/-- QCTL_WRITE (R302). -/
def execQctlWrite (part queue : Nat) (value : Word) (s : State) : Host.Outcome State Fault Refusal :=
  queueStep part (fun s => qctlWrite s part queue value) s

/-- QSTAT_SKIP (R306). -/
def execQstatSkip (part queue : Nat) (s : State) : Host.Outcome State Fault Refusal := queueStep part (fun s => qstatWrite s part queue 8) s

/-- QSTAT_ERR_CLEAR (R306). -/
def execQstatErrClear (part queue : Nat) (s : State) : Host.Outcome State Fault Refusal := queueStep part (fun s => qstatWrite s part queue 4) s

/-- QSTAT_OVF_CLEAR (R302). -/
def execQstatOvfClear (part queue : Nat) (s : State) : Host.Outcome State Fault Refusal := queueStep part (fun s => qstatWrite s part queue 2) s

/-! ### Readiness and staging (R242, R306, R308) -/

/-- The function of a queue. -/
def queueFunc (x : Queue) : Nat := fieldOf x.qctl 15 9

/-- The address of a queue's head entry (R303). -/
def headAddr (x : Queue) : Word := x.qbase + BitVec.ofNat 64 (128 * (x.head % ringSize x))

/-- Is a partition in a merge whose wait is over, so that its queues take nothing before the merge is done? -/
def mergeOver (s : State) (p : Nat) : Bool :=
  s.parts.any fun t => t.2.merge.any fun m => m.waited && (t.1 == p || m.absorb == p)

/-- Does a queue take launches now: enabled, without ERR, with an entry, and not of an interface in ERROR (R302, R356)? DESIGN CHOICE: an EN
that is set again while a merge is past step 3 takes nothing until step 8 (R360; log entry 40). -/
def queueTakes (s : State) (p q : Nat) : Bool :=
  let t := getPart s p
  let x := getQueue s p q
  t.exists_ && !mergeOver s p && x.qctl.getLsbD 8 && !x.err && decide (pendingEntries x ≠ 0) && (queueFunc x == 0 || amGet t.vfs (queueFunc x) .unlocked != .error)

/-- Does a resident launch of the function declare a page with another hint (R242)? DESIGN CHOICE: of a larger page the 4 KiB page decides at
which staging came to it, whatever the launch declares of its other parts (log entry 40). -/
def declaredElsewhere (s : State) (p func page hint : Nat) : Bool :=
  s.regions.any fun e => e.2.part == p && e.2.func == func && e.2.working.any fun w => decide (w.1 ≤ page) && decide (page < w.1 + w.2.2) && w.2.1 != hint

/-- Staging takes a page: it is moved to the hinted tier unless it lies there or is skipped; the traverse that this starts (R242). -/
def stagePage (w : Who) (hint page : Nat) (s : State) : State × List (Nat × Nat × Nat) :=
  if declaredElsewhere s w.part w.func page hint then (s, [])
  else
    match queryLeaf s w w.func (page * 4096) with
    | (s, none) => (s, [])
    | (s, some (level, addr, e)) =>
      if level = 2 ∨ pteT e then (s, [])
      else
        let r := pageOf s w (page * 4096) level addr e
        if tierCode (tierOf r.2.src) = hint then (r.1, [])
        else
          let g := homeStack r.1 w.part r.2.src
          match freeSlot (getEngine r.1 g) with
          | none => (r.1, [])
          | some n =>
            match freeFrame r.1 w.part hint r.2 with
            | (s, none) => (s, [])
            | (s, some dst) =>
              match stageMove s w g n r.2 dst with
              | (s, true) => (s, [(g, n, r.2.va)])
              | (s, false) => (s, [])

/-- The ranges of a working set that ask for a tier: hint 3 means no preference (R242). -/
def stagedRanges (l : List (Nat × Nat × Nat)) : List (Nat × Nat × Nat) := l.filter fun x => x.2.1 != 3 && x.2.2 != 0

/-- The hint and the page that staging takes as number `n`: ranges in order, pages ascending (R242). -/
def stagedPage : List (Nat × Nat × Nat) → Nat → Option (Nat × Nat)
  | [], _ => none
  | x :: rest, n => if n < x.2.2 then some (x.2.1, x.1 + n) else stagedPage rest (n - x.2.2)

/-- Is a traverse that staging started still under way? -/
def moveOpen (s : State) (x : Nat × Nat × Nat) : Bool :=
  let t := getTSlot s x.1 x.2.1
  t.state != .free && t.va == x.2.2

/-- When a head launch became eligible: at the end of its staging, or at its deadline, whichever came first (R308). -/
def headEligible (now : Nat) (h : HeadLaunch) : Option Nat :=
  match h.eligibleAt with
  | some e => some e
  | none => if h.deadline ≤ now then some h.deadline else none

/-- Is a launch of higher priority in another queue of the partition still to be staged (R242)? -/
def stagedFirst (s : State) (p q : Nat) : Bool :=
  (getPart s p).queues.any fun e =>
    e.1 != q && decide (fieldOf (getQueue s p q).qctl 1 0 < fieldOf e.2.qctl 1 0) && queueTakes s p e.1 &&
      match e.2.launch with
      | some h => !h.taken && (headEligible s.cycle h).isNone
      | none => false

/-- Staging goes on by one page, or ends once the traverses that it started have ended (R242, R308). -/
def stageLaunch (w : Who) (q : Nat) (working : List (Nat × Nat × Nat)) (s : State) (h : HeadLaunch) : State × HeadLaunch :=
  match stagedPage (stagedRanges working) h.nextPage with
  | none => (s, { h with taken := true, eligibleAt := if h.moves.any (moveOpen s) then none else some s.cycle })
  | some (hint, page) =>
    if stagedFirst s w.part q then (s, h)
    else
      let r := stagePage w hint page s
      (r.1, { h with nextPage := h.nextPage + 1, moves := h.moves ++ r.2 })

/-- The head launch of a queue is checked, and is ready once every dependence is met; its staging begins, or goes on, unless its deadline
has passed: pages not yet started then stay where they are (R242, R308). -/
def launchReady (s : State) (p q : Nat) : State :=
  if !queueTakes s p q then s
  else
    let x := getQueue s p q
    let w := whoCommand s p (queueFunc x)
    match rdLaunch w (headAddr x) s with
    | (none, s) => setQueueErr (modQueue s p q fun x => { x with launch := none }) p q
    | (some (c, _), s) =>
      let ready := match x.launch with
        | some _ => (s, true)
        | none => c.deps.foldl (depMet w) (s, true)
      if !ready.2 then ready.1
      else
        let h := x.launch.getD { readyAt := s.cycle, deadline := s.cycle + c.deadline * 1050 }
        let st := match headEligible s.cycle h with
          | some e => (ready.1, { h with eligibleAt := some e })
          | none => stageLaunch w q c.working ready.1 h
        modQueue st.1 p q fun x => { x with launch := some st.2 }

/-- LAUNCH_READY (R308). -/
def execLaunchReady (part queue : Nat) (s : State) : Host.Outcome State Fault Refusal := runStep (fun s => launchReady s part queue) s

/-- STAGING_DEADLINE (R308). -/
def execStagingDeadline (part queue : Nat) (s : State) : Host.Outcome State Fault Refusal :=
  runStep (fun s =>
    match (getQueue s part queue).launch with
    | some h =>
      if h.eligibleAt.isNone ∧ h.deadline ≤ s.cycle then
        modQueue s part queue fun x => { x with launch := some { h with eligibleAt := some h.deadline } }
      else s
    | none => s) s

/-! ### Placement turns (R309, R310) -/

/-- An eligible launch: the head of a queue, or a saved launch of it. -/
structure Candidate where
  queue : Nat
  saved : Option Nat
  prio : Nat
  eligibleAt : Nat
  deriving DecidableEq, Repr

/-- EP of R309. -/
def effectivePrio (now : Nat) (c : Candidate) : Nat := c.prio + (now - c.eligibleAt) / 105000

/-- The eligible launches of a partition, those that were saved ahead of their queue's head (R309). -/
def candidates (s : State) (p : Nat) : List Candidate :=
  let t := getPart s p
  let saved := t.saves.filterMap fun e =>
    match e.2.region.queue with
    | some q => if e.2.out || amGet t.vfs e.2.region.func .unlocked == .error then none else some { queue := q, saved := some e.1, prio := e.2.region.prio, eligibleAt := e.2.region.eligibleAt }
    | none => none
  let heads := t.queues.filterMap fun q =>
    match q.2.launch with
    | some h => if queueTakes s p q.1 then (headEligible s.cycle h).map fun e => { queue := q.1, saved := none, prio := fieldOf q.2.qctl 1 0, eligibleAt := e } else none
    | none => none
  saved ++ heads

/-- Is a candidate tried before another: the higher EP, then the queue that follows the one last installed at that EP? -/
def triedBefore (s : State) (p : Nat) (a b : Candidate) : Bool :=
  let ea := effectivePrio s.cycle a
  let eb := effectivePrio s.cycle b
  let turn (c : Candidate) (e : Nat) : Nat := (c.queue + 256 - (amGet (getPart s p).lastAt e 255 + 1) % 256) % 256
  decide (eb < ea) || (ea == eb && decide (turn a ea < turn b eb))

/-- The candidate that a turn tries next: of equals, the first of the list. -/
def nextCandidate (s : State) (p : Nat) : List Candidate → Option Candidate
  | [] => none
  | c :: rest =>
    match nextCandidate s p rest with
    | some d => if triedBefore s p d c then some d else some c
    | none => some c

/-- The candidate that holds the reservation of a partition: none once that launch waits no more, and its reservation then keeps
nothing. -/
def reserver (s : State) (p : Nat) : Option (Reservation × Candidate) :=
  (getPart s p).reservation.bind fun r =>
    ((candidates s p).find? fun c => c.queue == r.queue && c.eligibleAt == r.eligibleAt && c.saved.getD 0 == r.inst &&
      (c.saved.isSome == (r.inst != 0)) && (c.saved.isSome || (getQueue s p c.queue).head == r.head)).map fun c => (r, c)

/-- The tiles of a reservation, as a region without contents. -/
def reservedArea (r : Reservation) : Region := { h := r.h, w := r.w, twin := r.twin, prow := r.prow, pcol := r.pcol, layer := r.layer }

/-- The tiles that a reservation keeps from a candidate (R310). -/
def barredFor (s : State) (p : Nat) (c : Candidate) (k : Nat) : Bool :=
  match reserver s p with
  | some (r, d) => c != d && decide (effectivePrio s.cycle c ≤ effectivePrio s.cycle d) && regionHas (reservedArea r) k
  | none => false

/-- A saved region at a new base. -/
def movedRegion (s : State) (v : Saved) (ep : Nat) (b : Base) (a : Alloc) : Region :=
  let o := v.region
  let r := { o with prow := b.prow, pcol := b.pcol, layer := b.layer, nodes := a.nodes, edges := a.edges, rowCounters := a.counters
                    trees := a.trees, ep := ep, nextSweep := s.cycle + 1, lastSweep := none, detected := [] }
  let rel (e : Binding) : Binding :=
    let k := tileKey e.die e.row e.col
    if e.engine = 4 ∨ e.engine = 5 then e else { e with row := packRow k - o.prow, col := packCol k - o.pcol, layer := relLayer o k }
  { r with bindings := o.bindings.map fun e => placeBinding r (rel e) }

/-- A reservation ends when its launch is placed (R310). -/
def endReservation (s : State) (p : Nat) (c : Candidate) : State :=
  match reserver s p with
  | some (_, d) => if c = d then modPart s p fun t => { t with reservation := none } else s
  | none => s

/-- The partition remembers the queue of an installed launch at its EP (R309). -/
def noteInstalled (s : State) (p : Nat) (ep queue : Nat) : State := modPart s p fun t => { t with lastAt := amInsert t.lastAt ep queue }

/-- May a saved launch stand at a base: it divides the region as the base of the save did, and the outputs lead to its elements
(R143, R330)? -/
def restoresAt (g : ImageHead) (v : Saved) (b : Base) (a : Alloc) : Bool := sameCut g v b && exitsAt g b a

/-- Places a saved launch, if some base takes it (R330); one whose HANDLE names a retention stands where that places it (R79, R311). -/
def placeSaved (s : State) (p : Nat) (c : Candidate) (inst : Nat) : State :=
  match amFind (getPart s p).saves inst with
  | none => s
  | some v =>
    let g := savedHead v.region
    match findBase s p g v.region.handle v.region.nt v.region.share (residentRegions s) (barredFor s p c) (restoresAt g v) with
    | none => s
    | some (b, a) =>
      let ep := effectivePrio s.cycle c
      let r := movedRegion s v ep b a
      let w := whoCommand s p v.region.saveFunc
      let rd := if v.chunks.isEmpty then rdArea w (BitVec.ofNat 64 v.area) else rdChunks w v.chunks
      let rec_ := rdSave rd g inst (BitVec.ofNat 64 v.region.cmd) s
      let s := noteInstalled (endReservation rec_.2 p c) p ep c.queue
      restoreRegion (installSaved s r v) (regionKey p inst) (some v) ((rec_.1.map (·.1)).getD (keptRecords v))

/-- Places the head launch of a queue, if some base takes it: HEAD advances (R303, R313). A configuration with an output that leads
outside its elements there is refused (R143, R306). -/
def placeHead (s : State) (p : Nat) (c : Candidate) : State :=
  let x := getQueue s p c.queue
  match rdLaunch (whoCommand s p (queueFunc x)) (headAddr x) s with
  | (none, s) => setQueueErr (modQueue s p c.queue fun x => { x with launch := none }) p c.queue
  | (some (l, g), s) =>
    match findBase s p g.head l.handle l.nt l.share (residentRegions s) (barredFor s p c) (fun _ _ => true) with
    | none => s
    | some (b, a) =>
      if !exitsAt g.head b a then setQueueErr (modQueue s p c.queue fun x => { x with launch := none }) p c.queue
      else
      let ep := effectivePrio s.cycle c
      let o : Origin := { part := p, func := queueFunc x, queue := some c.queue, prio := c.prio, ep := ep, eligibleAt := c.eligibleAt, cmd := headAddr x }
      let s := noteInstalled (endReservation s p c) p ep c.queue
      let s := modQueue s p c.queue fun x => { x with head := (x.head + 1) % 2 ^ 16, launch := none }
      installLaunch s o (nextInst s p) l g b a

/-- Tries every eligible launch once (R309). -/
def placementLoop (p : Nat) : Nat → List Candidate → State → State
  | 0, _, s => s
  | n + 1, l, s =>
    match nextCandidate s p l with
    | none => s
    | some c =>
      placementLoop p n (l.erase c)
        (match c.saved with
         | some inst => placeSaved s p c inst
         | none => placeHead s p c)

/-- PLACEMENT_TURN (R309). Nothing is placed while HALTREQ stops the partition's launches (R357). -/
def execPlacementTurn (part : Nat) (s : State) : Host.Outcome State Fault Refusal :=
  runStep (fun s =>
    let l := candidates s part
    if haltRequested (getPart s part) then s else placementLoop part l.length l s) s

/-- The placement that a candidate would take if the regions of lower EP were absent (R310). -/
def reservationBase (s : State) (p : Nat) (c : Candidate) : State × Option (ImageHead × Base) :=
  let rs := (residentRegions s).filter fun r => decide (effectivePrio s.cycle c ≤ r.ep)
  match c.saved with
  | some inst =>
    match amFind (getPart s p).saves inst with
    | some v =>
      let g := savedHead v.region
      (s, (findBase s p g v.region.handle v.region.nt v.region.share rs (fun _ => false) (restoresAt g v)).map fun x => (g, x.1))
    | none => (s, none)
  | none =>
    let x := getQueue s p c.queue
    match rdLaunch (whoCommand s p (queueFunc x)) (headAddr x) s with
    | (none, s) => (s, none)
    | (some (l, g), s) => (s, (findBase s p g.head l.handle l.nt l.share rs (fun _ => false) (fun _ _ => true)).map fun x => (g.head, x.1))

/-- The launches of a queue that have been eligible for 2 ms. -/
def overdue (s : State) (p q : Nat) : List Candidate :=
  (candidates s p).filter fun c => c.queue == q && decide (c.eligibleAt + 2100000 ≤ s.cycle)

/-- The area that a candidate takes at a base. -/
def reserveArea (s : State) (p : Nat) (c : Candidate) (g : ImageHead) (b : Base) : Reservation :=
  { queue := c.queue, inst := c.saved.getD 0, head := (getQueue s p c.queue).head, eligibleAt := c.eligibleAt, prow := b.prow
    pcol := b.pcol, layer := b.layer, h := g.h, w := g.w, twin := g.twin, since := s.cycle }

/-- The first of some launches that has a position reserves it. -/
def reserveFirst (p : Nat) : List Candidate → State → State
  | [], s => s
  | c :: rest, s =>
    match reservationBase s p c with
    | (s, none) => reserveFirst p rest s
    | (s, some (g, b)) => modPart s p fun t => { t with reservation := some (reserveArea s p c g b) }

/-- RESERVATION (R310): a launch of a queue that has been eligible for 2 ms reserves its area, unless one holds a reservation. -/
def execReservation (part queue : Nat) (s : State) : Host.Outcome State Fault Refusal :=
  runStep (fun s => if (reserver s part).isSome then s else reserveFirst part (overdue s part queue) s) s

/-- RESERVATION_PREEMPT (R310): after 1 ms every region of lower base priority on the area is asked to stop. -/
def execReservationPreempt (part : Nat) (s : State) : Host.Outcome State Fault Refusal :=
  runStep (fun s =>
    match reserver s part with
    | none => s
    | some (r, c) =>
      if s.cycle < r.since + 1050000 then s
      else
        s.regions.foldl (fun s e =>
          let x := e.2
          if x.part = part ∧ x.prio < c.prio ∧ ((regionTiles x).any fun k => regionHas (reservedArea r) k) then
            commandPreempt 7 s e.1
          else s) s) s

end Sys2Proof.Machine
end

