-- ==== Sys2Proof/Machine/Control.lean ====
section
/-! DEFINITION. Control flow: branches, jumps and the counting loop (R102 to R106). -/
namespace Sys2Proof.Machine

/-- Continues at a checked target (R102). -/
def jumpTo (t : Word) : M (Option Word) := do
  checkTarget t
  pure (some t)

/-- The target of a word offset from the instruction (R9). -/
def relTarget {n : Nat} (pc : Word) (off : BitVec n) : Word := pc + sext64 (off ++ 0#2)

/-- A conditional branch: the target is checked only when it is taken (R102, R103). -/
def branch (a b : Reg) (off : BitVec 16) (c : Word → Word → Bool) : M (Option Word) :=
  withPorts [a, b] [] [] [] do
    let x ← readG a
    let y ← readG b
    if c x y then
      let t ← self
      jumpTo (relTarget t.pc off)
    else pure none

/-- BEQ (R103). -/
def execBeq (a b : Reg) (off : BitVec 16) (s : State) : Host.Outcome State Fault Refusal := runJump (branch a b off fun x y => x == y) s

/-- BNE (R103). -/
def execBne (a b : Reg) (off : BitVec 16) (s : State) : Host.Outcome State Fault Refusal := runJump (branch a b off fun x y => x != y) s

/-- BLT (R103). -/
def execBlt (a b : Reg) (off : BitVec 16) (s : State) : Host.Outcome State Fault Refusal := runJump (branch a b off fun x y => x.slt y) s

/-- BGE (R103). -/
def execBge (a b : Reg) (off : BitVec 16) (s : State) : Host.Outcome State Fault Refusal := runJump (branch a b off fun x y => !x.slt y) s

/-- BLTU (R103). -/
def execBltu (a b : Reg) (off : BitVec 16) (s : State) : Host.Outcome State Fault Refusal := runJump (branch a b off fun x y => x.ult y) s

/-- BGEU (R103). -/
def execBgeu (a b : Reg) (off : BitVec 16) (s : State) : Host.Outcome State Fault Refusal := runJump (branch a b off fun x y => !x.ult y) s

/-- J (R104). -/
def execJ (off : BitVec 26) (s : State) : Host.Outcome State Fault Refusal :=
  runJump (do
    let x ← self
    jumpTo (relTarget x.pc off)) s

/-- JAL (R104): the link is written only when the target passes its checks. -/
def execJal (off : BitVec 26) (s : State) : Host.Outcome State Fault Refusal :=
  runJump (do
    let x ← self
    let t ← jumpTo (relTarget x.pc off)
    writeG 31 (x.pc + 4)
    pure t) s

/-- JR (R105). -/
def execJr (a : Reg) (s : State) : Host.Outcome State Fault Refusal :=
  runJump (withPorts [a] [] [] [] do
    let t ← readG a
    jumpTo t) s

/-- JALR (R105): the target is read before the link is written. -/
def execJalr (d a : Reg) (s : State) : Host.Outcome State Fault Refusal :=
  runJump (withPorts [a] [] [d] [] do
    let x ← self
    let t ← readG a
    let r ← jumpTo t
    writeG d (x.pc + 4)
    pure r) s

/-- LOOP (R106). -/
def execLoop (a : Reg) (off : BitVec 16) (s : State) : Host.Outcome State Fault Refusal :=
  runJump (do
    let x ← self
    let v ← readG a
    if v - 1 ≠ 0 then do
      let t ← jumpTo (relTarget x.pc off)
      writeG a (v - 1)
      pure t
    else do
      writeG a 0
      pure none) s

end Sys2Proof.Machine
end

