-- ==== Sys2Proof/Machine/Convert.lean ====
section
/-! DEFINITION. Conversions, retagging, tag checks and narrowing shifts (R65 to R68). -/
namespace Sys2Proof.Machine

/-- The source element and the mask of destination lane j of VCVT or VCVTH: `none` where the lane is not written, and
`some none` where it becomes zero whatever the mask (R65). -/
def cvtSource (high : Bool) (ns nd j : Nat) : Option (Option Nat) :=
  if ns ≤ nd then
    let lo := if high && decide (ns < nd) then ns else 0
    if lo ≤ j ∧ j < lo + ns then some (some (j - lo))
    else if !high && decide (ns ≤ j) then some none
    else none
  else some (some (j + if high then nd else 0))

/-- What a source element counts as: a CB4 code is replaced by its BF16 entry first (R65). -/
def cvtInput (cb : Nat → Nat → Nat) (src : Tag) (x : Nat) : Tag × Nat :=
  match tagClass src with
  | .cb n => (0x0B, cb n (x % 16))
  | _ => (src, x)

/-- One element of VCVT and VCVTH (R52 to R57, R65). -/
def cvtElem (cb : Nat → Nat → Nat) (src dst : Tag) (rm : RMode) (sat : Bool) (x : Nat) : Nat × FpFlags :=
  convert (cvtInput cb src x).1 dst rm sat (cvtInput cb src x).2 (elemVal cb src x)

/-- VCVT and VCVTH on a whole register (R65). -/
def cvtLanes (cb : Nat → Nat → Nat) (high : Bool) (src dst : Tag) (rm : RMode) (sat : Bool) (mask a old : Nat) : Nat × FpFlags :=
  let ws := tagLane src
  let wd := tagLane dst
  let r := (List.range (tagLanes dst)).map fun j =>
    match cvtSource high (tagLanes src) (tagLanes dst) j with
    | some (some i) =>
      if mask.testBit j then cvtElem cb src dst rm sat (lane ws a i) else (lane wd old j, noFlags)
    | some none => (0, noFlags)
    | none => (lane wd old j, noFlags)
  (packLanes wd (r.map (·.1)), flagsAll (r.map (·.2)))

/-- The work of VCVT and VCVTH (R65). -/
def vecConvert (high : Bool) (d a : Reg) (t : Tag) (k : MReg) (r : BitVec 3) (sat : BitVec 1) : M Unit :=
  withPorts [] [a] [] [d] do
    let va ← readV a
    requireClass a va isConvertible
    let mask ← readK k
    let old ← oldBits d
    let rm ← roundingOf r.toNat
    let cb ← selfCodes
    putVec d t (cvtLanes cb high va.tag t rm (sat == 1) mask va.bits.toNat old)

/-- VCVT (R65). -/
def execVcvt (d a : Reg) (t : Tag) (k : MReg) (r : BitVec 3) (sat : BitVec 1) (s : State) : Host.Outcome State Fault Refusal :=
  run4 (vecConvert false d a t k r sat) s

/-- VCVTH (R65). -/
def execVcvth (d a : Reg) (t : Tag) (k : MReg) (r : BitVec 3) (sat : BitVec 1) (s : State) : Host.Outcome State Fault Refusal :=
  run4 (vecConvert true d a t k r sat) s

/-- VTAG (R66). -/
def execVtag (d a : Reg) (t : Tag) (s : State) : Host.Outcome State Fault Refusal :=
  run4 (withPorts [] [a] [] [d] do
    let va ← readV a
    writeV d { va with tag := t }) s

/-- VTCHK (R67). -/
def execVtchk (a : Reg) (t : Tag) (s : State) : Host.Outcome State Fault Refusal :=
  run4 (withPorts [] [a] [] [] do
    let va ← readV a
    requireTag a va t) s

/-- The result tag of VSHRN8 and VSHRN16 (R68). -/
def shrn8Tag (t : Tag) : Option Tag :=
  match t.toNat with
  | 0x02 => some 0x06
  | 0x04 => some 0x06
  | 0x03 => some 0x07
  | 0x05 => some 0x07
  | _ => none
def shrn16Tag (t : Tag) : Option Tag :=
  match t.toNat with
  | 0x01 => some 0x04
  | 0x02 => some 0x04
  | 0x03 => some 0x05
  | _ => none

/-- One lane of a narrowing shift: the exact quotient rounded, then clamped or wrapped (R68). -/
def laneShrn (src dst : Tag) (rm : RMode) (sat : Bool) (sh x : Nat) : Nat :=
  match tagClass src, tagClass dst with
  | .int w s, .int wd sd =>
    let z := laneInt w s x
    let y := (roundInt rm (decide (z < 0)) z.natAbs (-(sh : Int))).1
    ofInt wd (if sat then clampLane wd sd y else y)
  | _, _ => 0

/-- A narrowing shift: the lanes beyond the source's become zero (R68). -/
def vecShrn (d a b : Reg) (k : MReg) (r : BitVec 3) (sat : BitVec 1) (rtag : Tag → Option Tag) : M Unit :=
  withPorts [b] [a] [] [d] do
    let va ← readV a
    match rtag va.tag with
    | none => tagTrap a 0 va.tag
    | some dt => do
      let n ← readG b
      let mask ← readK k
      let old ← oldBits d
      let rm ← roundingOf r.toNat
      let wd := tagLane dt
      let l := (List.range (tagLanes dt)).map fun i =>
        if tagLanes va.tag ≤ i then 0
        else if mask.testBit i then laneShrn va.tag dt rm (sat == 1) (fieldOf n 5 0) (lane (tagLane va.tag) va.bits.toNat i)
        else lane wd old i
      putVec d dt (packLanes wd l, noFlags)

/-- VSHRN8 (R68). -/
def execVshrn8 (d a b : Reg) (k : MReg) (r : BitVec 3) (sat : BitVec 1) (s : State) : Host.Outcome State Fault Refusal :=
  run4 (vecShrn d a b k r sat shrn8Tag) s

/-- VSHRN16 (R68). -/
def execVshrn16 (d a b : Reg) (k : MReg) (r : BitVec 3) (sat : BitVec 1) (s : State) : Host.Outcome State Fault Refusal :=
  run4 (vecShrn d a b k r sat shrn16Tag) s

end Sys2Proof.Machine
end

