-- ==== Sys2Proof/Machine/Integer.lean ====
section
/-! DEFINITION. The integer instructions: register forms, immediates, shifts, bit fields and ADDPC (R97 to R101). -/
namespace Sys2Proof.Machine

/-! ### Shared operations -/

/-- d := f(A, B): sources popped in order a, b, the result written to d (R14, R97). -/
def alu2 (d a b : Reg) (f : Word → Word → Word) : M Unit :=
  withPorts [a, b] [] [d] [] do
    let x ← readG a
    let y ← readG b
    writeG d (f x y)

/-- d := f(A) (R97, R98). -/
def alu1 (d a : Reg) (f : Word → Word) : M Unit :=
  withPorts [a] [] [d] [] do
    let x ← readG a
    writeG d (f x)

/-- d := A when the condition on B holds; otherwise d is not written and a port gets nothing (R97). -/
def condMove (d a b : Reg) (c : Word → Bool) : M Unit :=
  withPorts [a, b] [] [] [] do
    let x ← readG a
    let y ← readG b
    if c y then writeG d x else pure ()

/-- A shift by a register or an immediate amount below 64 (R97, R99). -/
def shiftLeft (x : Word) (n : Nat) : Word := x <<< n
def shiftRight (x : Word) (n : Nat) : Word := x >>> n
def shiftRightArith (x : Word) (n : Nat) : Word := x.sshiftRight n

/-- The high half of a product, floor(x × y / 2^64) (R97). -/
def highProduct (x y : Int) : Word := BitVec.ofInt 64 (x * y / 2 ^ 64)

/-- Signed division truncated toward zero, with the corners of R97. -/
def divSigned (x y : Word) : Word := if y = 0 then BitVec.allOnes 64 else x.sdiv y
def divUnsigned (x y : Word) : Word := if y = 0 then BitVec.allOnes 64 else x / y
def remSigned (x y : Word) : Word := if y = 0 then x else x.srem y
def remUnsigned (x y : Word) : Word := if y = 0 then x else x % y

/-- Leading zeros, trailing zeros and one bits of a word (R97). -/
def countLeading (x : Word) : Word := if x = 0 then 64 else BitVec.ofNat 64 (63 - x.toNat.log2)
def countTrailing (x : Word) : Word := BitVec.ofNat 64 (firstOne 64 x.toNat)
def countOnes (x : Word) : Word := BitVec.ofNat 64 (popcount 64 x.toNat)

/-- The low 32 bits, sign-extended (R97). -/
def sextWord (x : Word) : Word := (x.setWidth 32).signExtend 64

/-- w bits of a word from bit l (R100). -/
def extractField (x : Word) (l w : Nat) : Nat := bitsOf x.toNat (l + w - 1) l

/-- BFI's result: the low w bits of A put into D at l (R100). -/
def insertField (old a : Word) (l w : Nat) : Word :=
  let m : Word := BitVec.ofNat 64 ((2 ^ w - 1) * 2 ^ l)
  (old &&& ~~~m) ||| (BitVec.ofNat 64 (a.toNat % 2 ^ w * 2 ^ l) &&& m)

/-! ### INT (R97) -/

/-- ADD (R97). -/
def execAdd (d a b : Reg) (s : State) : Host.Outcome State Fault Refusal := run4 (alu2 d a b fun x y => x + y) s

/-- SUB (R97). -/
def execSub (d a b : Reg) (s : State) : Host.Outcome State Fault Refusal := run4 (alu2 d a b fun x y => x - y) s

/-- AND (R97). -/
def execAnd (d a b : Reg) (s : State) : Host.Outcome State Fault Refusal := run4 (alu2 d a b fun x y => x &&& y) s

/-- OR (R97). -/
def execOr (d a b : Reg) (s : State) : Host.Outcome State Fault Refusal := run4 (alu2 d a b fun x y => x ||| y) s

/-- XOR (R97). -/
def execXor (d a b : Reg) (s : State) : Host.Outcome State Fault Refusal := run4 (alu2 d a b fun x y => x ^^^ y) s

/-- SLL (R97). -/
def execSll (d a b : Reg) (s : State) : Host.Outcome State Fault Refusal := run4 (alu2 d a b fun x y => shiftLeft x (y.toNat % 64)) s

/-- SRL (R97). -/
def execSrl (d a b : Reg) (s : State) : Host.Outcome State Fault Refusal := run4 (alu2 d a b fun x y => shiftRight x (y.toNat % 64)) s

/-- SRA (R97). -/
def execSra (d a b : Reg) (s : State) : Host.Outcome State Fault Refusal := run4 (alu2 d a b fun x y => shiftRightArith x (y.toNat % 64)) s

/-- SLT (R97). -/
def execSlt (d a b : Reg) (s : State) : Host.Outcome State Fault Refusal := run4 (alu2 d a b fun x y => boolWord (x.slt y)) s

/-- SLTU (R97). -/
def execSltu (d a b : Reg) (s : State) : Host.Outcome State Fault Refusal := run4 (alu2 d a b fun x y => boolWord (x.ult y)) s

/-- MIN (R97). -/
def execMin (d a b : Reg) (s : State) : Host.Outcome State Fault Refusal := run4 (alu2 d a b fun x y => if x.slt y then x else y) s

/-- MAX (R97). -/
def execMax (d a b : Reg) (s : State) : Host.Outcome State Fault Refusal := run4 (alu2 d a b fun x y => if x.slt y then y else x) s

/-- MINU (R97). -/
def execMinu (d a b : Reg) (s : State) : Host.Outcome State Fault Refusal := run4 (alu2 d a b fun x y => if x.ult y then x else y) s

/-- MAXU (R97). -/
def execMaxu (d a b : Reg) (s : State) : Host.Outcome State Fault Refusal := run4 (alu2 d a b fun x y => if x.ult y then y else x) s

/-- MUL (R97). -/
def execMul (d a b : Reg) (s : State) : Host.Outcome State Fault Refusal := run4 (alu2 d a b fun x y => x * y) s

/-- MULH (R97). -/
def execMulh (d a b : Reg) (s : State) : Host.Outcome State Fault Refusal := run4 (alu2 d a b fun x y => highProduct x.toInt y.toInt) s

/-- MULHU (R97). -/
def execMulhu (d a b : Reg) (s : State) : Host.Outcome State Fault Refusal := run4 (alu2 d a b fun x y => highProduct (x.toNat : Int) (y.toNat : Int)) s

/-- DIV (R97). -/
def execDiv (d a b : Reg) (s : State) : Host.Outcome State Fault Refusal := run4 (alu2 d a b fun x y => divSigned x y) s

/-- DIVU (R97). -/
def execDivu (d a b : Reg) (s : State) : Host.Outcome State Fault Refusal := run4 (alu2 d a b fun x y => divUnsigned x y) s

/-- REM (R97). -/
def execRem (d a b : Reg) (s : State) : Host.Outcome State Fault Refusal := run4 (alu2 d a b fun x y => remSigned x y) s

/-- REMU (R97). -/
def execRemu (d a b : Reg) (s : State) : Host.Outcome State Fault Refusal := run4 (alu2 d a b fun x y => remUnsigned x y) s

/-- CLZ (R97). -/
def execClz (d a : Reg) (s : State) : Host.Outcome State Fault Refusal := run4 (alu1 d a countLeading) s

/-- CTZ (R97). -/
def execCtz (d a : Reg) (s : State) : Host.Outcome State Fault Refusal := run4 (alu1 d a countTrailing) s

/-- POPC (R97). -/
def execPopc (d a : Reg) (s : State) : Host.Outcome State Fault Refusal := run4 (alu1 d a countOnes) s

/-- MOVZ (R97). -/
def execMovz (d a b : Reg) (s : State) : Host.Outcome State Fault Refusal := run4 (condMove d a b fun y => y == 0) s

/-- MOVN (R97). -/
def execMovn (d a b : Reg) (s : State) : Host.Outcome State Fault Refusal := run4 (condMove d a b fun y => y != 0) s

/-- ADDW (R97). -/
def execAddw (d a b : Reg) (s : State) : Host.Outcome State Fault Refusal := run4 (alu2 d a b fun x y => sextWord (x + y)) s

/-- SUBW (R97). -/
def execSubw (d a b : Reg) (s : State) : Host.Outcome State Fault Refusal := run4 (alu2 d a b fun x y => sextWord (x - y)) s

/-! ### Immediates (R98) -/

/-- ADDI (R98). -/
def execAddi (d a : Reg) (i : BitVec 16) (s : State) : Host.Outcome State Fault Refusal := run4 (alu1 d a fun x => x + sext64 i) s

/-- ANDI (R98). -/
def execAndi (d a : Reg) (i : BitVec 16) (s : State) : Host.Outcome State Fault Refusal := run4 (alu1 d a fun x => x &&& zext64 i) s

/-- ORI (R98). -/
def execOri (d a : Reg) (i : BitVec 16) (s : State) : Host.Outcome State Fault Refusal := run4 (alu1 d a fun x => x ||| zext64 i) s

/-- XORI (R98). -/
def execXori (d a : Reg) (i : BitVec 16) (s : State) : Host.Outcome State Fault Refusal := run4 (alu1 d a fun x => x ^^^ zext64 i) s

/-- SLTI (R98). -/
def execSlti (d a : Reg) (i : BitVec 16) (s : State) : Host.Outcome State Fault Refusal := run4 (alu1 d a fun x => boolWord (x.slt (sext64 i))) s

/-- SLTUI (R98). -/
def execSltui (d a : Reg) (i : BitVec 16) (s : State) : Host.Outcome State Fault Refusal := run4 (alu1 d a fun x => boolWord (x.ult (sext64 i))) s

/-- LUI: sext(imm16 × 2^16, 32) (R98). -/
def execLui (d : Reg) (i : BitVec 16) (s : State) : Host.Outcome State Fault Refusal :=
  run4 (withPorts [] [] [d] [] (writeG d (sext64 (i ++ 0#16)))) s

/-- INSH: (A × 2^16 + imm16) mod 2^64 (R98). -/
def execInsh (d a : Reg) (i : BitVec 16) (s : State) : Host.Outcome State Fault Refusal :=
  run4 (alu1 d a fun x => x <<< 16 ||| zext64 i) s

/-! ### Shifts by an immediate (R99) -/

/-- SLLI (R99). -/
def execSlli (d a : Reg) (sh : BitVec 6) (s : State) : Host.Outcome State Fault Refusal := run4 (alu1 d a fun x => shiftLeft x sh.toNat) s

/-- SRLI (R99). -/
def execSrli (d a : Reg) (sh : BitVec 6) (s : State) : Host.Outcome State Fault Refusal := run4 (alu1 d a fun x => shiftRight x sh.toNat) s

/-- SRAI (R99). -/
def execSrai (d a : Reg) (sh : BitVec 6) (s : State) : Host.Outcome State Fault Refusal := run4 (alu1 d a fun x => shiftRightArith x sh.toNat) s

/-! ### Bit fields (R100) and ADDPC (R101) -/

/-- BFXU (R100); w holds the width minus one. -/
def execBfxu (d a : Reg) (w l : BitVec 6) (s : State) : Host.Outcome State Fault Refusal :=
  run4 (alu1 d a fun x => BitVec.ofNat 64 (extractField x l.toNat (w.toNat + 1))) s

/-- BFXS (R100). -/
def execBfxs (d a : Reg) (w l : BitVec 6) (s : State) : Host.Outcome State Fault Refusal :=
  run4 (alu1 d a fun x => BitVec.ofInt 64 (toSigned (w.toNat + 1) (extractField x l.toNat (w.toNat + 1)))) s

/-- BFI (R100): the destination is read as well. -/
def execBfi (d a : Reg) (w l : BitVec 6) (s : State) : Host.Outcome State Fault Refusal :=
  run4 (withPorts [a] [] [] [] do
    let x ← readG a
    let old ← readG d
    writeG d (insertField old x l.toNat (w.toNat + 1))) s

/-- ADDPC (R101). -/
def execAddpc (d : Reg) (i : BitVec 21) (s : State) : Host.Outcome State Fault Refusal :=
  run4 (withPorts [] [] [d] [] do
    let x ← self
    writeG d (x.pc + sext64 (i ++ 0#2))) s

end Sys2Proof.Machine
end

