-- ==== Sys2Proof/Machine/LoadStore.lean ====
section
/-! DEFINITION. Scalar and vector loads and stores, the multiple-register transfers and the bivouac (R155, R158 to R164,
R198). -/
namespace Sys2Proof.Machine

/-! ### LD, LDU, ST, LDL (R155, R198) -/

/-- The effective address of a scalar access. -/
def scalarEa (a : Word) (imm : BitVec 14) : Word := a + sext64 imm

/-- The bytes that a size field moves. -/
def sizeBytes (sz : BitVec 2) : Nat := 2 ^ sz.toNat

/-- A loaded value, extended. -/
def extendLoad (signed : Bool) (l : List Byte) : Word :=
  if signed then BitVec.ofInt 64 (toSigned (8 * l.length) (ofBytes l)) else wordOf l

/-- The Alignment trap of an effective address (R155). -/
def requireAligned (n : Nat) (ea : Word) : M Unit := if ea.toNat % n = 0 then pure () else trapM causeAlignment ea

/-- A channel register named by a kind-3 address of 8 bytes (R155, R169). -/
def chanRegister (ea : Word) : M (Nat × Nat) := do
  let s ← getS
  match resolve s s.cur ea 8 with
  | .loc (.regs k) off => pure (k, off)
  | _ => trapM causeAddress ea

/-- LD and LDU, and LDL on a local address (R155). -/
def loadScalar (d : Reg) (ea : Word) (sz : BitVec 2) (signed : Bool) : M Unit :=
  if isLocal ea && localKind ea == 3 then
    if sz = 3 then do
      let p ← chanRegister ea
      variableLatency
      let s ← getS
      writeG d (chanRead s p.1 p.2)
    else trapM causeAddress ea
  else loadBytes ea (sizeBytes sz) ea fun l => writeG d (extendLoad signed l)

/-- The whole of LD and LDU. -/
def execLoad (d a : Reg) (sz : BitVec 2) (imm : BitVec 14) (signed : Bool) : M Unit :=
  withPorts [a] [] [d] [] do
    let x ← readG a
    requireAligned (sizeBytes sz) (scalarEa x imm)
    loadScalar d (scalarEa x imm) sz signed

/-- LD (R155). -/
def execLd (d a : Reg) (sz : BitVec 2) (imm : BitVec 14) (s : State) : Host.Outcome State Fault Refusal :=
  run4 (execLoad d a sz imm true) s

/-- LDU (R155). -/
def execLdu (d a : Reg) (sz : BitVec 2) (imm : BitVec 14) (s : State) : Host.Outcome State Fault Refusal :=
  run4 (execLoad d a sz imm false) s

/-- ST (R155, R169): the Privilege trap of a kind-3 store in app mode comes after the alignment and address checks. -/
def execSt (d a : Reg) (sz : BitVec 2) (imm : BitVec 14) (s : State) : Host.Outcome State Fault Refusal :=
  run4 (withPorts [a, d] [] [] [] do
    let x ← readG a
    let v ← readG d
    let ea := scalarEa x imm
    requireAligned (sizeBytes sz) ea
    if isLocal ea && localKind ea == 3 then
      if sz = 3 then do
        let p ← chanRegister ea
        requireSys (.st d a sz imm)
        modS fun s => chanWrite s p.1 p.2 v
      else trapM causeAddress ea
    else storePiece ea (toBytes (sizeBytes sz) v.toNat) 0 ea) s

/-- LDL (R198). -/
def execLdl (d a : Reg) (sz : BitVec 2) (imm : BitVec 14) (s : State) : Host.Outcome State Fault Refusal :=
  run4 (withPorts [a] [] [d] [] do
    let x ← readG a
    let ea := scalarEa x imm
    requireAligned (sizeBytes sz) ea
    if isLocal ea then loadScalar d ea sz true
    else do
      let _ ← resolveM ea (sizeBytes sz) ea
      withLine ea.toNat false fun e pa => do
        let l ← cohReadM e pa (sizeBytes sz) ea
        writeG d (extendLoad true l)) s

/-! ### VLD and VST (R158, R159) -/

/-- Bytes that a vector access of a tag moves. -/
def vecBytes (t : Tag) : Nat := if tagSixBit t then 48 else 64

/-- Elements of a mask unit, and its bytes (R158). -/
def unitElems (t : Tag) : Nat := if tagSixBit t then 4 else if tagLane t = 4 then 2 else 1
def unitBytes (t : Tag) : Nat := if tagSixBit t then 3 else if tagLane t = 4 then 1 else tagLane t / 8

/-- Is byte i of the memory image in an enabled unit? A unit is enabled when any of its elements is (R158). -/
def byteEnabled (t : Tag) (mask i : Nat) : Bool :=
  let u := i / unitBytes t
  decide ((mask >>> (u * unitElems t)) % 2 ^ unitElems t ≠ 0)

/-- Joins neighbouring enabled bytes: the start and length of each run of the first n bytes. -/
def runsAux (en : Nat → Bool) : Nat → Nat → Option Nat → List (Nat × Nat)
  | 0, i, some b => [(b, i - b)]
  | 0, _, none => []
  | k + 1, i, cur =>
    match en i, cur with
    | true, some b => runsAux en k (i + 1) (some b)
    | true, none => runsAux en k (i + 1) (some i)
    | false, some b => (b, i - b) :: runsAux en k (i + 1) none
    | false, none => runsAux en k (i + 1) none

/-- The runs of enabled bytes among n. -/
def enabledRuns (en : Nat → Bool) (n : Nat) : List (Nat × Nat) := runsAux en n 0 none

/-- The effective address of VLD and VST. -/
def vectorEa (a : Word) (imm : BitVec 8) : Word := a + sext64 (imm ++ (0 : BitVec 6))

/-- Alignment of a vector access: the element's byte width (R158). -/
def vecAlign (t : Tag) : Nat := if tagSixBit t then 1 else if tagLane t / 8 = 0 then 1 else tagLane t / 8

/-- The check of a local range before any byte of it moves (R153, R159). -/
def requireLocalRange (ea : Word) (n : Nat) (val : Word) : M Unit :=
  if isLocal ea then do
    let _ ← resolveM ea n val
    pure ()
  else pure ()

/-- The span from the first to the last enabled byte. -/
def runsSpan (runs : List (Nat × Nat)) : Nat × Nat :=
  match runs with
  | [] => (0, 0)
  | (b, n) :: t => (b, (t.getLastD (b, n)).1 + (t.getLastD (b, n)).2 - b)

/-- The bytes of a memory image from the runs that were read. -/
def imageOf (n : Nat) (runs : List (Nat × Nat)) (l : List Byte) : List Byte :=
  (runs.foldl (fun (p : List Byte × List Byte) r =>
    (p.1 ++ List.replicate (r.1 - p.1.length) 0 ++ p.2.take r.2, p.2.drop r.2)) ([], l)).1 |> fun x => x ++ List.replicate (n - x.length) 0

/-- A register's lanes from a memory image (R59). -/
def fromImage (t : Tag) (l : List Byte) : Nat := if tagSixBit t then unpack6Groups (ofBytes l) else ofBytes l
where
  /-- 64 elements of 6 bits from 48 bytes. -/
  unpack6Groups (x : Nat) : Nat := packLanes 8 (lanes 6 64 x)

/-- The memory image of a register under a tag field (R59, R158). -/
def toImage (t : Tag) (v : VReg) : List Byte :=
  if tagSixBit t then toBytes 48 (packLanes 6 (lanes 8 64 v.bits.toNat)) else toBytes 64 v.bits.toNat

/-- Writes the enabled elements of a loaded register and its tag (R109, R158). -/
def putLoaded (d : Reg) (t : Tag) (mask x : Nat) : M Unit := do
  let old ← oldBits d
  writeV d { bits := BitVec.ofNat 512 (mergeLanes (tagLane t) (tagLanes t) mask old (lanes (tagLane t) (tagLanes t) x)), tag := t }

/-- VLD (R158, R159). -/
def execVld (d a : Reg) (t : Tag) (k : MReg) (imm : BitVec 8) (s : State) : Host.Outcome State Fault Refusal :=
  run4 (withPorts [a] [] [] [d] do
    let x ← readG a
    let ea := vectorEa x imm
    requireAligned (vecAlign t) ea
    let mask ← readK k
    let runs := enabledRuns (byteEnabled t mask) (vecBytes t)
    let span := runsSpan runs
    if span.2 = 0 then pure () else requireLocalRange (ea + BitVec.ofNat 64 span.1) span.2 ea
    loadPieces (runs.flatMap fun r => (pagePieces (ea + BitVec.ofNat 64 r.1) r.2).map fun q => (q.1, q.2, ea)) [] fun l =>
      putLoaded d t mask (fromImage t (imageOf (vecBytes t) runs l))) s

/-- The check of a stored register's tag (R44). -/
def requireStoreTag (d : Reg) (v : VReg) (t : Tag) : M Unit := if t = 0 then pure () else requireTag d v t

/-- The pieces of a VST in the memory image, page by page: where each begins and its length (R159). -/
def imagePieces (ea : Word) (n : Nat) : List (Nat × Nat) :=
  if isLocal ea then [(0, n)] else (piecesOf 4096 ea.toNat n).map fun q => (q.1 - ea.toNat, q.2)

/-- One piece of a VST from an offset of the memory image: the enabled bytes of it. -/
def storeImagePiece (ea : Word) (img : List Byte) (en : Nat → Bool) (lo hi : Nat) : M Unit :=
  let span := runsSpan (enabledRuns (fun i => en (lo + i)) (hi - lo))
  if span.2 = 0 then pure ()
  else
    let b := lo + span.1
    let skip := packLanes 1 ((List.range span.2).map fun i => bit (!en (b + i)))
    storePiece (ea + BitVec.ofNat 64 b) ((img.drop b).take span.2) skip ea

/-- VST (R158, R159): the pieces from MPROG on. -/
def execVst (d a : Reg) (t : Tag) (k : MReg) (imm : BitVec 8) (s : State) : Host.Outcome State Fault Refusal :=
  run4 (withPorts [a] [d] [] [] do
    let x ← readG a
    let v ← readV d
    let ea := vectorEa x imm
    requireAligned (vecAlign t) ea
    requireStoreTag d v t
    let mask ← readK k
    let n := vecBytes t
    let en := byteEnabled t mask
    let span := runsSpan (enabledRuns en n)
    if span.2 = 0 then pure () else requireLocalRange (ea + BitVec.ofNat 64 span.1) span.2 ea
    let p ← progress
    restartable ((imagePieces ea n).filterMap fun q =>
      if p < q.1 + q.2 then
        let lo := if q.1 < p then p else q.1
        some (lo, storeImagePiece ea (toImage t v) en lo (q.1 + q.2))
      else none)) s

/-! ### VLDG (R160) -/

/-- Bytes of an element under a tag that VLDG takes. -/
def elemBytes (t : Tag) : Nat := tagLane t / 8

/-- The enabled elements. -/
def enabledElems (t : Tag) (mask : Nat) : List Nat := (List.range (tagLanes t)).filter fun i => mask.testBit i

/-- Every enabled address is a multiple of the element's width; the first that is not raises the Alignment trap. -/
def requireElemsAligned (w : Nat) : List Word → M Unit
  | [] => pure ()
  | ea :: rest => do
    requireAligned w ea
    requireElemsAligned w rest

/-- The address check of every local element before any access. -/
def requireElemsLocal (w : Nat) : List Word → M Unit
  | [] => pure ()
  | ea :: rest => do
    requireLocalRange ea w ea
    requireElemsLocal w rest

/-- A strided, indexed or broadcast load: `addr` gives the address of element i. -/
def gatherLoad (d : Reg) (t : Tag) (mask : Nat) (addr : Nat → Word) : M Unit := do
  let w := elemBytes t
  let el := enabledElems t mask
  requireElemsAligned w (el.map addr)
  requireElemsLocal w (el.map addr)
  loadPieces (el.map fun i => (addr i, w, addr i)) [] fun l =>
    putLoaded d t mask (ofBytes (imageOf 64 (el.map fun i => (i * w, w)) l))

/-- A strided or indexed store of the enabled elements in ascending order, restartable at an element (R159, R160). -/
def scatterStore (d : Reg) (v : VReg) (t : Tag) (mask : Nat) (addr : Nat → Word) : M Unit := do
  let w := elemBytes t
  let el := enabledElems t mask
  requireElemsAligned w (el.map addr)
  requireElemsLocal w (el.map addr)
  requireStoreTag d v t
  let p ← progress
  restartable ((el.filter fun i => decide (p ≤ i * w)).map fun i =>
    (i * w, storePiece (addr i) (toBytes w (lane (8 * w) v.bits.toNat i)) 0 (addr i)))

/-- The address of element i of a strided access. -/
def strideAddr (x stride : Word) (i : Nat) : Word := x + BitVec.ofNat 64 i * stride

/-- The address of element i of an indexed access: the index is read under the signedness of its tag. -/
def indexAddr (x : Word) (w : Nat) (vb : VReg) (i : Nat) : Word :=
  match tagClass vb.tag with
  | .int wb s => x + BitVec.ofInt 64 (laneInt wb s (lane wb vb.bits.toNat i) * (w : Int))
  | _ => x

/-- The index register must carry an integer tag with enough elements. -/
def requireIndexTag (b : Reg) (vb : VReg) (t : Tag) : M Unit :=
  if isIntClass (tagClass vb.tag) && decide (tagLanes t ≤ tagLanes vb.tag) then pure () else tagTrap b 0 vb.tag

/-- VLDS (R160). -/
def execVlds (d a b : Reg) (k : MReg) (t : Tag) (s : State) : Host.Outcome State Fault Refusal :=
  run4 (withPorts [a, b] [] [] [d] do
    let x ← readG a
    let y ← readG b
    let mask ← readK k
    gatherLoad d t mask (strideAddr x y)) s

/-- VSTS (R160). -/
def execVsts (d a b : Reg) (k : MReg) (t : Tag) (s : State) : Host.Outcome State Fault Refusal :=
  run4 (withPorts [a, b] [d] [] [] do
    let x ← readG a
    let y ← readG b
    let v ← readV d
    let mask ← readK k
    scatterStore d v t mask (strideAddr x y)) s

/-- VLDX (R160). -/
def execVldx (d a b : Reg) (k : MReg) (t : Tag) (s : State) : Host.Outcome State Fault Refusal :=
  run4 (withPorts [a] [b] [] [d] do
    let x ← readG a
    let vb ← readV b
    requireIndexTag b vb t
    let mask ← readK k
    gatherLoad d t mask (indexAddr x (elemBytes t) vb)) s

/-- VSTX (R160). -/
def execVstx (d a b : Reg) (k : MReg) (t : Tag) (s : State) : Host.Outcome State Fault Refusal :=
  run4 (withPorts [a] [b, d] [] [] do
    let x ← readG a
    let vb ← readV b
    let v ← readV d
    requireIndexTag b vb t
    let mask ← readK k
    scatterStore d v t mask (indexAddr x (elemBytes t) vb)) s

/-- VLDB (R160). -/
def execVldb (d a : Reg) (k : MReg) (t : Tag) (s : State) : Host.Outcome State Fault Refusal :=
  run4 (withPorts [a] [] [] [d] do
    let x ← readG a
    let mask ← readK k
    gatherLoad d t mask fun _ => x) s

/-! ### SPILLM, FILLM, VSPILL, VFILL (R164) -/

/-- The registers of a range still to be moved. -/
def rangeFrom (p : Nat) (first last : Reg) : List Nat :=
  (List.range (last.toNat + 1 - first.toNat)).filter fun j => decide (p ≤ j)

/-- How many registers a range has. -/
def rangeCount (first last : Reg) : Nat := last.toNat + 1 - first.toNat

/-- The register j of a range. -/
def rangeReg (first : Reg) (j : Nat) : Reg := first + BitVec.ofNat 5 j

/-- The address i bytes above another. -/
def above (x : Word) (i : Nat) : Word := x + BitVec.ofNat 64 i

/-- The work that the four transfers share: alignment, the check of a local range, and the registers from MPROG on. -/
def multiTransfer (f a l : Reg) (align bytes : Nat) (one : Word → Nat → M Unit) : M Unit :=
  withPorts [a] [] [] [] do
    let x ← readG a
    requireAligned align x
    requireLocalRange x bytes x
    let p ← progress
    restartable ((rangeFrom p f l).map fun j => (j, one x j))

/-- SPILLM (R164). -/
def execSpillm (f a l : Reg) (s : State) : Host.Outcome State Fault Refusal :=
  run4 (multiTransfer f a l 8 (8 * rangeCount f l) fun x j => do
    let t ← self
    storePiece (above x (8 * j)) (toBytes 8 (gValue t (rangeReg f j)).toNat) 0 (above x (8 * j))) s

/-- FILLM (R164). -/
def execFillm (f a l : Reg) (s : State) : Host.Outcome State Fault Refusal :=
  run4 (multiTransfer f a l 8 (8 * rangeCount f l) fun x j =>
    loadBytes (above x (8 * j)) 8 (above x (8 * j)) fun b => modSelf fun t => gWrite t (rangeReg f j) (wordOf b)) s

/-- VSPILL (R164): a register's tag byte and data are written together or not at all. -/
def execVspill (f a l : Reg) (s : State) : Host.Outcome State Fault Refusal :=
  run4 (multiTransfer f a l 64 (64 + 64 * rangeCount f l) fun x j => do
    let t ← self
    let v := vValue t (rangeReg f j)
    storeThen (above x j) [v.tag.setWidth 8] 0 (above x j)
      (storePiece (above x (64 + 64 * j)) (toBytes 64 v.bits.toNat) 0 (above x (64 + 64 * j)))) s

/-- VFILL (R164): a reserved tag raises the Tag trap. -/
def execVfill (f a l : Reg) (s : State) : Host.Outcome State Fault Refusal :=
  run4 (multiTransfer f a l 64 (64 + 64 * rangeCount f l) fun x j =>
    loadPieces [(above x j, 1, above x j), (above x (64 + 64 * j), 64, above x (64 + 64 * j))] [] fun b =>
      let t : Tag := (b.headD 0).setWidth 5
      if tagReserved t then tagTrap (rangeReg f j) 0 t
      else modSelf fun x => vWrite x (rangeReg f j) { bits := BitVec.ofNat 512 (ofBytes (b.drop 1)), tag := t }) s

/-! ### FRAME and UNFRAME (R161 to R163) -/

/-- Is g30 below 2^18: no frame, the value is the base offset (R161)? -/
def noFrame (g30 : Word) : Bool := decide (g30.toNat < 2 ^ 18)

/-- The bivouac's span (R93). -/
def bivBase (x : Thread) : Nat := x.bivbase.toNat
def bivLimit (x : Thread) : Nat := x.bivlimit.toNat

/-- The address of a scratchpad offset in the window. -/
def scratchAddr (off : Nat) : Word := BitVec.ofNat 64 (0xFF00000000000000 + off)

/-- What BIVOVF holds of an address: its VA field, with the other bits zero (R93). -/
def bivovfWord (w : Word) : Word := BitVec.ofNat 64 (fieldOf w 56 6 * 2 ^ 6)

/-- Writes the header of a frame at N and makes it the top frame (R162). -/
def openFrame (n : Word) (sz : Word) : M Unit := do
  let x ← self
  storeThen n (toBytes 8 (gValue x 30).toNat) 0 n
    (storeThen (n + 8) (toBytes 8 sz.toNat) 0 n
      (modSelf fun x => gWrite { x with bivovf := if isGlobal n then bivovfWord (n + sz) else x.bivovf } 30 n))

/-- Where the new frame goes: at the top of the bivouac if it fits, else at the overflow pointer (R162). -/
def placeFrame (x : Thread) (top : Option Nat) (sz : Word) : Word :=
  match top with
  | some t => if t + sz.toNat ≤ bivLimit x then scratchAddr t else x.bivovf
  | none => x.bivovf

/-- FRAME (R162). The header accesses make no alignment check of their own where g30 is no multiple of 8: a DESIGN CHOICE
(log entry 38). -/
def execFrame (a : Reg) (s : State) : Host.Outcome State Fault Refusal :=
  run4 (withPorts [a] [] [] [] do
    let sz ← readG a
    if sz.toNat % 64 ≠ 0 ∨ sz.toNat < 64 ∨ 65536 < sz.toNat then trapM causeAddress sz
    else do
      let x ← self
      let g := gValue x 30
      if noFrame g then openFrame (placeFrame x (some g.toNat) sz) sz
      else if isLocal g && localKind g == 0 && decide (bivBase x ≤ fieldOf g 38 0) && decide (fieldOf g 38 0 < bivLimit x) then
        loadBytes (g + 8) 8 (g + 8) fun b => openFrame (placeFrame x (some (fieldOf g 38 0 + ofBytes b)) sz) sz
      else if isGlobal g then openFrame (placeFrame x none sz) sz
      else trapM causeAddress g) s

/-- UNFRAME (R162): no alignment check of the header's read (a DESIGN CHOICE, log entry 38). -/
def execUnframe (s : State) : Host.Outcome State Fault Refusal :=
  run4 (do
    let x ← self
    let g := gValue x 30
    if noFrame g then trapM causeAddress g
    else
      loadBytes g 8 g fun b =>
        modSelf fun x => gWrite { x with bivovf := if isGlobal g then bivovfWord g else x.bivovf } 30 (wordOf b)) s

end Sys2Proof.Machine
end

