-- ==== Sys2Proof/Machine/Partitions.lean ====
section
/-! DEFINITION. Partitions and the host port: compute dies taken offline, register writes, readiness, resets, host writes and
merges (R6, R235, R244 to R246, R348 to R354, R358 to R360). -/
namespace Sys2Proof.Machine

/-! ### Compute dies taken offline (R245, R246) -/

/-- The regions of a partition that cover a die. -/
def regionsOnDie (s : State) (p d : Nat) : List (Nat × Region) :=
  s.regions.filter fun e => e.2.part == p && (regionDies e.2).contains d

/-- The retentions of a partition on a die. -/
def retainersOnDie (s : State) (p d : Nat) : List Nat :=
  (s.cores.filter fun c => !isService c.1 && dieOf c.1 == d && c.2.retention.any fun t => t.part == p).map (·.1)

/-- Bytes that leaving a die takes: save areas of its resident regions and its retained scratchpads. -/
def dieSpace (s : State) (p d : Nat) : Nat :=
  ((regionsOnDie s p d).map fun e => saveUnits (savedHead e.2) * 65536).sum + (retainersOnDie s p d).length * 262144

/-- Asks every region on a die to stop, each into a save area that the command processor takes from the permitted tiers. -/
def preemptDie (s : State) (p d tiers : Nat) : State := (regionsOnDie s p d).foldl (fun s e => commandPreempt tiers s e.1) s

/-- OFFREQ_DIE (R245, R246): the write, the capacity check, then the placer leaves the die and its regions are pre-empted. -/
def execOffreqDie (part : Nat) (value : Word) (s : State) : Host.Outcome State Fault Refusal :=
  runStep (fun s =>
    let s := if (getPart s part).exists_ && fieldOf value 15 12 != 1 then offreqWrite s part value else s
    match (getPart s part).offReq with
    | some (2, d, _, tiers) =>
      if s.freezing.contains d then preemptDie s part d tiers
      else if freeCapacity s part tiers none < dieSpace s part d then
        modPart s part fun t => { t with offStatus := 3, offReq := none }
      else preemptDie { s with freezing := s.freezing ++ [d] } part d tiers
    | _ => s) s

/-- A retained scratchpad of a die is written to a save area in a permitted tier (R246). -/
def evacuateCore (p tiers : Nat) (s : State) (k : Nat) : State :=
  let c := getCore s k
  match c.retention, takeChunks s p tiers 4 [] with
  | some t, some l =>
    let s := chunksWrite s (whoCommand s p 0) l 0 (memRead c.scratch.cells 0 262144)
    let s := { s with gmem := c.scratch.bad.foldl (fun m k => memPoison m ((l.getD (k / 1024) 0) / 64 + k % 1024)) s.gmem }
    modPart (setCore s k (powerDown c)) p fun x => { x with evacuated := x.evacuated ++ [{ ret := t, chunks := l }] }
  | _, _ => s

/-- DIE_OFFLINE_DONE (R246): no region is left on the die; retentions, monitors and READY bit follow in order. -/
def execDieOfflineDone (part : Nat) (s : State) : Host.Outcome State Fault Refusal :=
  runStep (fun s =>
    match (getPart s part).offReq with
    | some (2, d, _, tiers) =>
      let s := if !s.freezing.contains d || !(regionsOnDie s part d).isEmpty then s
        else (retainersOnDie s part d).foldl (evacuateCore part tiers) s
      if !s.freezing.contains d || !(regionsOnDie s part d).isEmpty || !(retainersOnDie s part d).isEmpty then s
      else
        let s := { s with offlineDies := s.offlineDies ++ [d], freezing := s.freezing.filter fun x => x != d }
        let s := dropMonitors s fun k _ => k / 64 == d
        let s := modPart s part fun t => { t with ready := t.ready &&& ~~~(BitVec.ofNat 64 (2 ^ (32 + d))), offStatus := 1, offReq := none }
        raiseVector s part 0 2
    | _ => s) s

/-! ### Registers, functions and readiness (R349, R350, R358) -/

/-- A step of a partition that exists. -/
def partStep (part : Nat) (f : State → State) (s : State) : Host.Outcome State Fault Refusal :=
  runStep (fun s => if (getPart s part).exists_ then f s else s) s

/-- The state of a virtual function's interface. -/
def vfState (s : State) (p vf : Nat) : VfState := amGet (getPart s p).vfs vf .unlocked

/-- Is the virtual function enabled? -/
def vfEnabled (s : State) (p vf : Nat) : Bool := (getPart s p).exists_ && decide (1 ≤ vf) && decide (vf ≤ (getPart s p).nvf)

/-- Does an interface accept a host request? In RUN only on the selective IDE stream bound to it, once that has its key (R356). -/
def acceptsHost (s : State) (p vf : Nat) (stream : Option Nat) : Bool :=
  let t := getPart s p
  vfState s p vf != .run ||
    match stream with
    | some i => amFind t.bound vf == some i && (amFind t.ideKeys i).isSome
    | none => false

/-- A host write through BAR0 of a virtual function: the registers of the queues of its function, with QCTL read-only (R354). -/
def vfWrite (s : State) (p vf off : Nat) (l : List Byte) : State :=
  if off < 8192 ∧ off % 32 ≠ 8 ∧ l.length = 8 ∧ fieldOf (getQueue s p (off / 32)).qctl 15 9 = vf then controlWrite s p (0x1000 + off) l 0 else s

/-- REGISTER_WRITE (R349, R354, R356): a host write through BAR0 of the physical function, 0, or of a virtual one. -/
def execRegisterWrite (via : HostPath) (offset width : Nat) (value : Word) (s : State) : Host.Outcome State Fault Refusal :=
  partStep via.part (fun s =>
    if via.vf = 0 then controlWrite s via.part offset (toBytes width value.toNat) 0
    else if vfEnabled s via.part via.vf && acceptsHost s via.part via.vf via.stream then vfWrite s via.part via.vf offset (toBytes width value.toNat)
    else s) s

/-- A byte that a virtual function's BAR0 reads as: one of a register of its own queues, and zero elsewhere (R349, R354). -/
def vfByte (s : State) (p vf off : Nat) : Byte :=
  if off < 8192 ∧ fieldOf (getQueue s p (off / 32)).qctl 15 9 = vf then (controlRead s p (0x1000 + off) 1).headD 0 else 0

/-- What a host reads in the same way: bytes of BAR0, and none where the interface does not answer. -/
def hostRegister (s : State) (via : HostPath) (offset n : Nat) : Option (List Byte) :=
  if !(getPart s via.part).exists_ then none
  else if via.vf = 0 then some (controlRead s via.part offset n)
  else if vfEnabled s via.part via.vf && acceptsHost s via.part via.vf via.stream then
    some ((List.range n).map fun i => vfByte s via.part via.vf (offset + i))
  else none

/-- NUMVFS_WRITE (R350): functions that are enabled no more are unlocked with it; a partition has at most 64. -/
def execNumvfsWrite (part count : Nat) (s : State) : Host.Outcome State Fault Refusal :=
  partStep part (fun s =>
    if 64 < count then s
    else modPart s part fun t =>
      { t with nvf := count, vfs := t.vfs.filter fun v => decide (v.1 ≤ count), ringPages := t.ringPages.filter fun v => decide (v.1 ≤ count)
               bound := t.bound.filter fun v => decide (v.1 ≤ count) }) s

/-- Does the partition own the function of a readiness bit (R358)? Yarnex ports are 32 to a twin stack (log entry 13). -/
def ownsFunction (s : State) (p reg b : Nat) : Bool :=
  let t := getPart s p
  if reg = 0 then
    if b < 32 then ownsStack t (b / 8)
    else if b < 40 then ownsStack t ((b - 32) / 2) && !s.offlineDies.contains (b - 32)
    else if b < 48 then ownsStack t ((b - 40) / 2)
    else if b < 52 then t.exists_ && t.cxlp.testBit (b - 48)
    else if b = 52 then t.exists_ && decide (t.lpsize ≠ 0)
    else t.exists_ && b == 53
  else decide (reg ≤ 2) && decide (b < 64) && ownsStack t ((64 * (reg - 1) + b) / 32)

/-- A readiness register with one bit changed. -/
def readyBit (w : Word) (b : Nat) (on : Bool) : Word :=
  if on then w ||| BitVec.ofNat 64 (2 ^ b) else w &&& ~~~(BitVec.ofNat 64 (2 ^ b))

/-- A partition's readiness register. -/
def readyReg (t : Partition) : Nat → Word
  | 0 => t.ready
  | 1 => t.yxready0
  | _ => t.yxready1

/-- FUNCTION_READINESS_CHANGE (R358): register 0 is READY, 1 and 2 are YXREADY0 and YXREADY1. -/
def execFunctionReadinessChange (part register bitno : Nat) (ready : Bool) (s : State) : Host.Outcome State Fault Refusal :=
  partStep part (fun s =>
    if !ownsFunction s part register bitno then s
    else
      let w := readyReg (getPart s part) register
      let v := readyBit w bitno ready
      let s := modPart s part fun t =>
        match register with
        | 0 => { t with ready := v }
        | 1 => { t with yxready0 := v }
        | _ => { t with yxready1 := v }
      if w.getLsbD bitno && !ready then raiseVector s part 0 2 else s) s

/-- The physical address of a byte of BAR2, the token array, where TOKBASE.EN = 1 and n bytes from there lie in its window (R304,
R354). -/
def bar2Addr (s : State) (p off n : Nat) : Option Nat :=
  let b := (getPart s p).tokbase
  if b.getLsbD 0 && decide (off + n ≤ 32768) then some (fieldOf b 51 15 * 2 ^ 15 + off) else none

/-- HOST_PORT_WRITE (R186, R304, R354): a write through BAR2 enters the coherence order at the home of each of its lines. -/
def execHostPortWrite (part offset : Nat) (bytes : List Byte) (s : State) : Host.Outcome State Fault Refusal :=
  partStep part (fun s =>
    match bar2Addr s part offset bytes.length with
    | some pa => engineWrite s { part := part, die := 2 * part } pa false bytes
    | none => s) s

/-- What a host reads through BAR2: a coherent read of tokens (R304, R354). It has no step of its own: what it asks of the
gateway and the tier controller are steps that the agenda may give at any time. -/
def hostTokens (s : State) (part offset n : Nat) : Option (List Byte) :=
  (bar2Addr s part offset n).bind fun pa => (engineRead s { part := part, die := 2 * part } pa n false).2

/-! ### Memory encryption (R353) -/

/-- The AES-256-XTS key of a partition: the value of a draw that no register exposes. -/
def partitionKey (t : Partition) : Nat := Config.cryptoValue [0x353, t.xtsKey]

/-! ### Measurements (R355) -/

/-- The values that measurement 4 is made over: PARTCFG, MEMIL and NETBND. -/
def layoutMeasure (s : State) (p : Nat) : List Nat :=
  [(partcfgWord p (getPart s p)).toNat, (memilWord (getPart s p)).toNat, s.netbnd]

/-- A measurement taken again ends every SPDM session of the partition. -/
def remeasure (s : State) (p i : Nat) (l : List Nat) : State :=
  modPart s p fun t => { t with measures := amInsert t.measures i l, spdm := { t.spdm with pending := none, sessions := [] } }

/-- A debug policy lapses: its classes close and what they enabled ends (R357). -/
def lapsePolicy (t : Partition) : Partition :=
  { t with dbgHalt := false, dbgTrace := false, dbgPerf := false, haltreq := false, traceen := false, perfen := false }

/-! ### Resets (R6, R235, R348, R357) -/

/-- The layouts of R348, as the stacks of each partition. -/
def layouts : List (List Nat) := [[15], [3, 12], [1, 2, 4, 8], [3, 4, 8], [1, 2, 12]]

/-- Do ranges of GiB lie within LPDDR6 and apart from one another? -/
def lpRangesOk : List (Nat × Nat) → Bool
  | [] => true
  | (b, n) :: rest => decide (b + n ≤ 2048) && rest.all (fun x => decide (b + n ≤ x.1) || decide (x.1 + x.2 ≤ b)) && lpRangesOk rest

/-- The edges between stacks of one partition (R352). -/
def openEdges (layout : List Nat) : Nat :=
  let both (a b : Nat) : Bool := layout.any fun m => m.testBit a && m.testBit b
  bit (both 0 1) + 2 * bit (both 2 3) + 4 * bit (both 0 2) + 8 * bit (both 1 3)

/-- The partitions of a layout as module reset leaves them: Otair gives each its stacks, LPDDR6 range, CXL ports and grant,
and draws its key. -/
def freshParts (fresh : Nat) (layout : List Nat) (lp cxl grants : List (Nat × Nat)) : AMap Partition :=
  (List.range layout.length).map fun i =>
    let m := layout.getD i 0
    let p := firstOne 4 m
    let r := lp.getD i (0, 0)
    let t : Partition := { exists_ := true, stackSet := m, lpbase := r.1, lpsize := r.2, cxlp := amGet cxl p 0, grant := amGet grants p 0, xtsKey := fresh + i }
    (p, { t with measures := [(4, [(partcfgWord p t).toNat, (memilWord t).toNat, openEdges layout])] })

/-- MODULE_RESET (R6, R348): everything returns to its reset value, with the layout, sector cache, ranges and grants that Otair
fixes; the grants stay within the module limit less its overhead share (R4, R338). Expanders keep their size; what has already left the device stays outside it. -/
def moduleReset (layout : List Nat) (scsize : Nat) (lp cxl grants : List (Nat × Nat)) (s : State) : State :=
  let masks := layout.map fun m => amGet cxl (firstOne 4 m) 0
  let apart := (masks.sum == masks.foldl (fun a b => a ||| b) 0) && masks.all fun m => decide (m < 16)
  let watts := (layout.map fun m => amGet grants (firstOne 4 m) 0).sum
  if watts ≤ min 4600 Config.grantBudget && layouts.contains layout && decide (scsize ≤ 4) && decide (lp.length = layout.length) && lpRangesOk lp && apart then
    { State.reset with
      parts := freshParts (s.fresh + 1) layout lp cxl grants, scsize := scsize, netbnd := openEdges layout, cxlBytes := s.cxlBytes
      agenda := s.agenda, cur := s.cur, fresh := s.fresh + 1 + layout.length, interrupts := s.interrupts, responses := s.responses
      otairReports := s.otairReports }
  else s

/-- MODULE_RESET (R6). -/
def execModuleReset (layout : List Nat) (scsize : Nat) (lp cxl grants : List (Nat × Nat)) (s : State) : Host.Outcome State Fault Refusal :=
  runStep (moduleReset layout scsize lp cxl grants) s

/-- Is an engine one of a partition's? -/
def partEngine (s : State) (p e : Nat) : Bool := ownsStack (getPart s p) e

/-- PARTITION_RESET (R201, R235, R357): traverses end with no copy-back and no message, monitors are dropped, the policy lapses. -/
def execPartitionReset (part : Nat) (s : State) : Host.Outcome State Fault Refusal :=
  partStep part (fun s =>
    let s := { s with engines := s.engines.map fun e => (e.1, if partEngine s part e.1 then { e.2 with slots := [] } else e.2) }
    let s := dropMonitors s fun k _ => ownsStack (getPart s part) (stackOf (k / 64))
    modPart s part lapsePolicy) s

/-! ### Merging partitions (R359, R360) -/

/-- MERGE_REQUEST (R359, R360): steps 1 and 2, and the start of step 3. -/
def execMergeRequest (part : Nat) (value : Word) (s : State) : Host.Outcome State Fault Refusal :=
  partStep part (fun s => mergeWrite s part value) s

/-- Is the wait of step 3 over? A queue that has once had BUSY = 0 stays counted while it has no launch. -/
def mergeQuiet (s : State) (p q : Nat) (m : Merge) : Bool :=
  let mine (x : Nat) : Bool := x == p || x == q
  (s.parts.all fun t => !mine t.1 || t.2.queues.all fun x => !queueBusy s t.1 x.1 || (m.quiet.contains (t.1, x.1) && !queueHasLaunch s t.1 x.1)) &&
    (s.engines.all fun e => !(partEngine s p e.1 || partEngine s q e.1) || e.2.slots.all fun x => decide (x.2.state = .free)) &&
    (s.cores.all fun c => !c.2.retention.any fun t => mine t.part) && (getPart s p).evacuated.isEmpty && (getPart s q).evacuated.isEmpty

/-- The sector-cache slices of a partition write back their dirty lines and hold nothing afterwards. -/
def writeBackSectors (s : State) (p : Nat) : State :=
  (partStacks (getPart s p)).foldl (fun s st =>
    [2 * st, 2 * st + 1].foldl (fun s h => (sectorsIn s (layerBase h 0) (2 ^ 36)).foldl (emptySector p h) s) s) s

/-- The memory of a partition: its HBM4E stacks, LPDDR6 range and CXL ports, as addresses and lengths. -/
def partRanges (q : Partition) : List (Nat × Nat) :=
  ((partStacks q).map fun st => (0x100000000000 + st * 2 ^ 37, 2 ^ 37)) ++ [(q.lpbase * 2 ^ 30, q.lpsize * 2 ^ 30)] ++
    (onesBelow 4 q.cxlp).map fun c => (0x200000000000 + c * 2 ^ 42, 2 ^ 42)

/-- Does an address lie in one of some ranges? -/
def inRanges (l : List (Nat × Nat)) (a : Nat) : Bool := l.any fun r => decide (r.1 ≤ a) && decide (a < r.1 + r.2)

/-- The partition that owns a line (R353). -/
def lineOwner (s : State) (pa : Nat) : Option (Nat × Partition) := s.parts.find? fun t => t.2.exists_ && inRanges (partRanges t.2) pa

/-- The line whose bytes stand at an address: in the carve-out the LPDDR6 line that is cached there, if one is (R225). -/
def lineHeld (s : State) (pa : Nat) : Option Nat :=
  match tierOf pa with
  | .hbm h =>
    if s.scsize = 0 ∨ (pa - 0x100000000000) % 2 ^ 36 < carveOutBase s then some (pa / 64)
    else
      let q := sectorAt s h (pa / 2048 * 2048)
      let r := sectorRecord s q.sector (bitsOf pa 10 6)
      if r.getLsbD 11 then some ((fieldOf r 7 0 * 2 ^ (32 + s.scsize) + q.index * 2048) / 64 + bitsOf pa 10 6) else none
  | _ => some (pa / 64)

/-- What a tier controller has written for a line: its 64 bytes under the owner's key, with PA[51:6] as tweak (R353). The model's
memory holds the plain bytes, and no line is read under another key: a merge scrubs what it absorbs (R360). -/
def storedLine (s : State) (pa : Nat) : Option Nat :=
  match lineOwner s pa, lineHeld s pa with
  | some (_, t), some k => some (Config.cryptoValue (partitionKey t :: pa / 64 :: (memRead s.gmem.cells (k * 64) 64).map (·.toNat)))
  | _, _ => none

/-- Ranges of a memory scrubbed to zero. -/
def scrubMem (l : List (Nat × Nat)) (m : Mem) : Mem :=
  { cells := l.foldl (fun m r => memErase m r.1 r.2) m.cells, bad := m.bad.filter fun k => !inRanges l (k * 64) }

/-- A thread's views without what was scrubbed, and its writes that were on their way there. -/
def scrubThread (l : List (Nat × Nat)) (x : Thread) : Thread :=
  { x with snap := scrubMem l x.snap, code := scrubMem l x.code, own := x.own.filter fun c => !inRanges l c.1
           stores := x.stores.filter fun p => !inRanges l p.pa, reds := x.reds.filter fun p => !inRanges l p.pa }

def scrubCores (l : List (Nat × Nat)) (m : AMap Core) : AMap Core :=
  m.map fun c => (c.1, { c.2 with slots := c.2.slots.map fun x => (x.1, scrubThread l x.2) })

def scrubCode (l : List (Nat × Nat)) (r : Region) : Region := { r with code := scrubMem l r.code }

def scrubSaved (l : List (Nat × Nat)) (v : Saved) : Saved := { v with region := scrubCode l v.region, cores := scrubCores l v.cores }

/-- The memory of the absorbed partition scrubbed to zero under the surviving key, in every view of it: no thread reads old data
(R353, R360). -/
def scrubPart (s : State) (q : Partition) : State :=
  let l := partRanges q
  { s with gmem := scrubMem l s.gmem, gmemPrev := scrubMem l s.gmemPrev
           gatePrev := s.gatePrev.map fun g => (g.1, g.2.filter fun p => !inRanges l (gateAddress p))
           cores := scrubCores l s.cores, regions := s.regions.map fun r => (r.1, scrubCode l r.2)
           parts := s.parts.map fun p =>
             (p.1, { p.2 with saves := p.2.saves.map fun v => (v.1, scrubSaved l v.2), oldSaves := p.2.oldSaves.map (scrubSaved l) })
           sector := { s.sector with badRecords := s.sector.badRecords.filter fun k => !inRanges l (k * 64)
                                     badLines := s.sector.badLines.filter fun k => !inRanges l (k * 64) } }

/-- Every thread of a partition has performed its stores and REDs. -/
def performPart (s : State) (p : Nat) : State :=
  (s.cores.flatMap fun c => (occupiedSlots s c.1).filter fun t => (getThread s t).part == p).foldl performAll s

/-- The surviving partition with what it absorbs (R360 step 5): its stacks, LPDDR6 range, ports, counters and readiness. -/
def absorb (p q : Partition) : Partition :=
  let add (a b : AMap Word) : AMap Word := b.foldl (fun m x => amInsert m x.1 x.2) a
  { p with stackSet := p.stackSet + q.stackSet, lpbase := min p.lpbase q.lpbase, lpsize := p.lpsize + q.lpsize, cxlp := p.cxlp ||| q.cxlp
           schits := add p.schits q.schits, sclmiss := add p.sclmiss q.sclmiss, scsmiss := add p.scsmiss q.scsmiss, scwb := add p.scwb q.scwb
           ready := p.ready ||| q.ready, yxready0 := p.yxready0 ||| q.yxready0, yxready1 := p.yxready1 ||| q.yxready1 }

/-- A thread, a retention, a traverse slot and a token of the absorbed partition belong to the surviving one. -/
def adoptThread (p q : Nat) (x : Thread) : Thread := if x.part = q then { x with part := p } else x

def adoptRetention (p q : Nat) (t : Retention) : Retention := if t.part = q then { t with part := p } else t

def adoptSlot (p q : Nat) (x : TSlot) : TSlot := if x.part = q then { x with part := p } else x

def adoptToken (p q : Nat) (k : Token) : Token := if k.part = q then { k with part := p } else k

/-- A message to a mailbox of the absorbed partition reaches it as one of the surviving partition. -/
def adoptMail (p q : Nat) : NetMsg → NetMsg
  | .mail x k l => .mail (if x = q then p else x) k l
  | m => m

/-- Threads, retentions, traverses, tokens and mail of the absorbed partition belong to the surviving one. -/
def adoptThreads (s : State) (p q : Nat) : State :=
  { s with
    cores := s.cores.map fun c =>
      (c.1, { c.2 with slots := c.2.slots.map fun x => (x.1, adoptThread p q x.2), retention := c.2.retention.map (adoptRetention p q) })
    engines := s.engines.map fun e => (e.1, { e.2 with slots := e.2.slots.map fun x => (x.1, adoptSlot p q x.2) })
    tokens := s.tokens.map (adoptToken p q)
    net := s.net.map (adoptMail p q) }

/-- A launch packet for a region that has a new partition and INST. -/
def readdress (r : Region) (p inst : Nat) (k : LaunchPacket) : LaunchPacket :=
  if k.part = r.part ∧ k.inst = r.inst then { k with part := p, inst := inst } else k

/-- A packet that a slot is created from. -/
def readdressSlot (f : LaunchPacket → LaunchPacket) : SlotState → SlotState
  | .creating k => .creating (f k)
  | x => x

/-- A packet in the network. -/
def readdressMsg (f : LaunchPacket → LaunchPacket) : NetMsg → NetMsg
  | .packet c k => .packet c (f k)
  | m => m

/-- The packets of a core. -/
def readdressCore (f : LaunchPacket → LaunchPacket) (c : Core) : Core :=
  { c with waiting := c.waiting.map f, slots := c.slots.map fun x => (x.1, { x.2 with slotState := readdressSlot f x.2.slotState }) }

/-- Threads that stand in a region take its new INST. -/
def reinstance (inst : Nat) (c : Core) : Core := { c with slots := c.slots.map fun x => (x.1, { x.2 with inst := inst }) }

/-- Regions that no queue holds keep running in the surviving partition: each takes an INST that is free there, and its launch packets
name it so. -/
def adoptRegion (p : Nat) (s : State) (e : Nat × Region) : State :=
  let r := e.2
  let inst := if (getRegion s (regionKey p r.inst)).isSome then nextInst s p else r.inst
  let s := setRegion { s with regions := amErase s.regions e.1 } (regionKey p inst) { r with part := p, inst := inst }
  let f := readdress r p inst
  { s with cores := s.cores.map fun c => (c.1, if regionHas r c.1 then reinstance inst (readdressCore f c.2) else readdressCore f c.2)
           net := s.net.map (readdressMsg f) }

/-- Steps 4 to 8 of a merge. Monitors go first, so that no write of the merge wakes a WAITA as a change (R201), and the home slices
have every older write before what is absorbed is scrubbed. -/
def mergeSteps (s : State) (p : Nat) (m : Merge) : State :=
  let q := m.absorb
  let s := dropMonitors s fun k _ => ownsStack (getPart s p) (stackOf (k / 64)) || ownsStack (getPart s q) (stackOf (k / 64))
  let s := serveWrites (performPart (performPart s p) q) fun _ => true
  let s := writeBackSectors (writeBackSectors s p) q
  let old := getPart s q
  let s := modPart s p fun t => absorb t old
  let s := { s with parts := amErase s.parts q }
  let s := adoptThreads ((s.regions.filter fun e => e.2.part == q).foldl (adoptRegion p) s) p q
  let s := { s with netbnd := openEdges (s.parts.map fun t => t.2.stackSet) }
  let s := scrubPart s old
  let s := (passAll { part := p, scope := 2 } s).1
  let s := modPart s p lapsePolicy
  let s := remeasure (remeasure s p 4 (layoutMeasure s p)) p 5 []
  let s := (m.enabled.filter fun x => x.1 == p).foldl (fun s x => setQueueEn s x true) s
  let s := modPart s p fun t => { t with mergeStatus := 1, merge := none }
  raiseVector s p 0 2

/-- Has the wait of step 3 ended, and not past its deadline? It may end within the cycle, or have ended with an earlier one. -/
def mergeGoes (s : State) (p : Nat) (m : Merge) : Bool := m.waited || (mergeQuiet s p m.absorb m && decide (s.cycle ≤ m.deadline))

/-- At the end of a cycle: a merge whose wait ends in time is past what can refuse it (R360). -/
def mergeTick (s : State) : State :=
  if s.parts.any fun t => t.2.merge.isSome then
    { s with parts := s.parts.map fun t => (t.1, { t.2 with merge := t.2.merge.map fun m => { m with waited := mergeGoes s t.1 m } }) }
  else s

/-- MERGE_EXECUTE (R360): steps 4 to 8, once step 3 has waited for everything, and not past its deadline. -/
def execMergeExecute (part : Nat) (s : State) : Host.Outcome State Fault Refusal :=
  runStep (fun s =>
    match (getPart s part).merge with
    | some m => if mergeGoes s part m then mergeSteps s part m else s
    | none => s) s

/-- MERGE_DEADLINE (R360): the wait has passed its deadline; every EN comes back and nothing else changes. -/
def execMergeDeadline (part : Nat) (s : State) : Host.Outcome State Fault Refusal :=
  runStep (fun s =>
    match (getPart s part).merge with
    | some m =>
      if s.cycle < m.deadline || mergeGoes s part m then s
      else
        let s := m.enabled.foldl (fun s x => setQueueEn s x true) s
        modPart s part fun t => { t with mergeStatus := 2, merge := none }
    | none => s) s

end Sys2Proof.Machine
end

