-- ==== Sys2Proof/Machine/Power.lean ====
section
/-! DEFINITION. Power: the budget tree with duty, clock skipping and operating points, energy accounts, ballast, supply sag, link
retraining and the slack controllers (R335 to R347). Powers are in microwatts (log entry 26). -/
namespace Sys2Proof.Machine

/-! ### The budget tree (R339) -/

/-- The reference cycles of a period. -/
def periodCycles : Nat := 10500

/-- The core whose own draw a report names. -/
def reportCore (x : Draw × Nat) : Option Nat :=
  match x.1 with
  | .core k => some k
  | _ => none

/-- The cores of a partition that the state or a report names. -/
def budgetCores (s : State) (p : Nat) (reports : List (Draw × Nat)) : List Nat :=
  ((s.cores.map (·.1) ++ reports.filterMap reportCore).eraseDups).filter fun k => partOfCore s k == p

/-- The commands that a quad's cores have issued in the period to its sum-product engine, one at least. -/
def engineCount (s : State) (quad : Nat) : Nat := max 1 ((quadMembers quad).map fun c => (getCore s c).spIssued).sum

/-- The parts of a microwatt in which the shares of every engine are whole numbers. -/
def commonUnit (s : State) : Nat :=
  (((s.cores.filter fun c => !isService c.1).map fun c => quadKey c.1).eraseDups).foldl (fun m q => Nat.lcm m (engineCount s q)) 1

/-- What of a draw is charged to a core, in those parts: its own, its matrix array's while it holds the licence, and of its quad's engine
the part that its commands make of all that the quad issued. -/
def coreShare (s : State) (k n : Nat) : Draw → Nat
  | .core c => if c = k then n * commonUnit s else 0
  | .array pair side => if !isService k ∧ pairKey k = pair ∧ sideOf k = side then n * commonUnit s else 0
  | .engine quad => if !isService k ∧ quadKey k = quad then n * (commonUnit s / engineCount s quad) * (getCore s k).spIssued else 0

/-- What the reports of a period charge to a core, in those parts: its demand, or its measured power (R339 step 1). -/
def chargedCore (s : State) (reports : List (Draw × Nat)) (k : Nat) : Nat := (reports.map fun x => coreShare s k x.2 x.1).sum

/-- A partition's grant. -/
def grantOf (s : State) (p : Nat) : Nat := (getPart s p).grant * 1000000

/-- A child's grant as a fraction: its demand where the node's grant covers the sum of demands, else its share. A node below a
short one is short in the same ratio, so that one division at the partition gives what the levels give one after the other. -/
def grantShare (grant total demand : Nat) : Nat × Nat := if total ≤ grant then (demand, 1) else (grant * demand, total)

/-- DUTY for a grant and a demand in one unit. -/
def dutyFor (g : Nat × Nat) (demand : Nat) : Nat :=
  if demand * g.2 ≤ g.1 then 16 else max 1 (16 * g.1 / (g.2 * demand))

/-- Clock skipping at the start of a period (R341): set after a period with LOW in which the core drew more than its grant, and
cleared after one whose demand was at or below the grant. `demand` and `drawn` are those of the period that ends, in parts of a microwatt of
which there are `unit`; the core's grant is in microwatts. -/
def skipNext (unit : Nat) (c : Core) (demand drawn : Nat) : Core :=
  if c.low ∧ c.grantNum * unit < drawn * c.grantDen then
    { c with skip := true, skipRate := max 1 (16 * (c.grantNum * unit) / (c.grantDen * drawn)) }
  else if demand * c.grantDen ≤ c.grantNum * unit then { c with skip := false }
  else c

/-- What the tree writes to a core, whose grant `g` and demand are in parts of a microwatt. -/
def budgetCore (unit : Nat) (g : Nat × Nat) (demand drawn : Nat) (c : Core) : Core :=
  { skipNext unit c demand drawn with
    fetchDuty := dutyFor g demand, low := decide (g.1 < demand * g.2), demand := demand, grantNum := g.1, grantDen := g.2 * unit }

/-- The tree's writes to the cores of a partition. -/
def budgetPart (old : State) (demands drawn : List (Draw × Nat)) (s : State) (p : Nat) : State :=
  let cores := budgetCores old p (demands ++ drawn)
  let unit := commonUnit old
  let total := (cores.map (chargedCore old demands)).sum
  cores.foldl (fun s k =>
    let d := chargedCore old demands k
    modCore s k fun c => { budgetCore unit (grantShare (grantOf s p * unit) total d) d (chargedCore old drawn k) c with spIssued := 0 }) s

/-! ### Operating points (R337) -/

/-- Has the core an occupied slot? -/
def coreOccupied (s : State) (k : Nat) : Bool := (getCore s k).slots.any fun x => decide (x.2.slotState ≠ .free)

/-- What a core requests. -/
def oppRequest (s : State) (k : Nat) : Nat := if coreOccupied s k then 7 - (getPart s (partOfCore s k)).collBin else 0

/-- The highest request among a quad's four cores. -/
def quadOpp (s : State) (q : Nat) : Nat := ((quadMembers q).map (oppRequest s)).foldl max 0

/-- Every quad takes its point. -/
def setOpps (s : State) : State :=
  ((s.quads.map (·.1) ++ (s.cores.filter fun c => !isService c.1).map fun c => quadKey c.1).eraseDups).foldl
    (fun s q => modQuad s q fun x => { x with opp := quadOpp s q }) s

/-! ### Energy accounts (R344, R345) -/

/-- The account of an activity: a partition, or none for the module's overhead. A port that no partition owns is overhead. -/
def accountOf (s : State) : Activity → Option Nat
  | .region k => some (k / 2 ^ 24)
  | .lineAccess p => some p
  | .traverse k => some (partOfCore s k)
  | .staging p => some p
  | .preemption p => some p
  | .yarnexPort n => (s.parts.find? fun x => ownsStack x.2 (n / 32)).map (·.1)
  | .cxlPort n => (s.parts.find? fun x => x.2.cxlp.testBit n).map (·.1)
  | .hostPort p => some p

/-- The energy charged to an account, in microjoules. -/
def chargedTo (s : State) (a : Option Nat) (charges : List (Activity × Nat)) : Nat :=
  ((charges.filter fun x => accountOf s x.1 == a).map (·.2)).sum

/-! ### The period boundary -/

/-- BUDGET_PERIOD (R339, R344, R345): once in each boundary cycle. What was drawn, what would have been drawn with DUTY 16 and SKIP 0,
and the energy of each activity come from the rails; each is charged before the tree divides the grants. -/
def execBudgetPeriod (demands drawn : List (Draw × Nat)) (charges : List (Activity × Nat)) (overhead : List (Upkeep × Nat)) (s : State) :
    Host.Outcome State Fault Refusal :=
  runStep (fun s =>
    if s.cycle % periodCycles ≠ 0 ∨ s.cycle = s.periodStart then s
    else
      let t := setOpps ((s.parts.map (·.1)).foldl (budgetPart s demands drawn) { s with periodStart := s.cycle, powerUnit := commonUnit s })
      let t := (List.range 8).foldl (ballastDie s) t
      { t with overhead := t.overhead + BitVec.ofNat 64 (chargedTo s none charges + (overhead.map (·.2)).sum)
               parts := t.parts.map fun x => (x.1, { x.2 with energy := x.2.energy + BitVec.ofNat 64 (chargedTo s (some x.1) charges) }) }) s

/-! ### Supply and links (R342, R343) -/

/-- SAG_DETECT (R342): every period of the reference clock is longer for at least 16 cycles, by at most one half: `stretch` is
in percent. -/
def execSagDetect (die stretch : Nat) (s : State) : Host.Outcome State Fault Refusal :=
  runStep (fun s => if die < 8 ∧ stretch ≤ 50 then { s with stretch := stretch, stretchUntil := max s.stretchUntil (s.cycle + 16) } else s) s

/-- LINK_RETRAIN (R343): a link delivers no word for some cycles. -/
def execLinkRetrain (node port cycles : Nat) (s : State) : Host.Outcome State Fault Refusal :=
  runStep (fun s => modSwitch s node fun x =>
    { x with retrainUntil := amInsert x.retrainUntil port (max (amGet x.retrainUntil port 0) (s.cycle + cycles)) }) s

/-! ### The slack controller (R346, R347) -/

/-- The reference cycles of a window of 1 ms. -/
def windowCycles : Nat := 1050000

/-- BINOFF after a window: `f` and `ref` are counts of held cycles, and 5 % of a window is 52,500 of them. -/
def nextBin (f bin : Nat) : Option Nat → Nat
  | none => bin
  | some r => if r + 52500 < f then min 7 (bin + 1) else if 0 < bin ∧ f + 52500 < r then bin - 1 else bin

/-- The least f over the packages that are neither throttled nor lowered. -/
def slackRef (l : List SlackPeer) : Option Nat := ((l.filter fun x => !x.thr && x.bin == 0).map (·.held)).min?

/-- Is a core of the partition throttled? -/
def partThrottled (s : State) (p : Nat) : Bool := s.cores.any fun c => partOfCore s c.1 == p && (c.2.low || c.2.skip)

/-- The designated region of a partition: the resident one with the lowest INST. -/
def designatedRegion (s : State) (p : Nat) : Option Region := (s.regions.find? fun r => r.2.part == p).map (·.2)

/-- Did a row that waited for a Yarnex word hold a segment of the designated region in the current cycle? -/
def slackHeld (s : State) (p : Nat) : Bool :=
  match designatedRegion s p with
  | some r => r.segments.any fun g => g.2.yarnexAt == some s.cycle
  | none => false

/-- A cycle counts for the windows of the slack controllers: the held cycles since the window began, and the last throttled one. -/
def countSlack (s : State) : State :=
  { s with parts := s.parts.map fun x =>
      (x.1, { x.2 with yarnexHeld := (if s.cycle % windowCycles = 0 then 0 else x.2.yarnexHeld) + bit (slackHeld s x.1)
                       thrAt := if partThrottled s x.1 then some s.cycle else x.2.thrAt }) }

/-- What a partition's controller sends at the end of a window. -/
def slackReport (s : State) (p : Nat) : SlackPeer :=
  let t := getPart s p
  { en := t.collEn, held := t.yarnexHeld, thr := t.thrAt.any (fun c => decide (s.cycle ≤ c + windowCycles)), bin := t.collBin }

/-- SLACK_WINDOW (R346): the exchange of the controllers of one TAG; a partition's takes what those of its own TAG with EN = 1 send. -/
def execSlackWindow (part tag : Nat) (peers : List SlackPeer) (s : State) : Host.Outcome State Fault Refusal :=
  runStep (fun s =>
    let t := getPart s part
    if !t.collEn || s.cycle % windowCycles != 0 || s.cycle == t.windowAt then s
    else
      let mine := slackReport s part
      let ref := slackRef (mine :: peers.filter fun x => x.en && tag == t.collTag)
      modPart s part fun t => { t with collThr := mine.thr, collBin := nextBin mine.held t.collBin ref, windowAt := s.cycle }) s

end Sys2Proof.Machine
end

