-- ==== Sys2Proof/Machine/Reply.lean ====
section
/-! DEFINITION. The return of a variable-latency access's data (R76). -/
namespace Sys2Proof.Machine

/-- Completes an instruction that waited for memory; every other one waits for the thread's next turn. -/
def completeAccess (i : Instr) (s : State) : Host.Outcome State Fault Refusal :=
  match i with
  | .ld x1 x2 x3 x4 => execLd x1 x2 x3 x4 s
  | .ldu x1 x2 x3 x4 => execLdu x1 x2 x3 x4 s
  | .ldl x1 x2 x3 x4 => execLdl x1 x2 x3 x4 s
  | .vld x1 x2 x3 x4 x5 => execVld x1 x2 x3 x4 x5 s
  | .vlds x1 x2 x3 x4 x5 => execVlds x1 x2 x3 x4 x5 s
  | .vldx x1 x2 x3 x4 x5 => execVldx x1 x2 x3 x4 x5 s
  | .vldb x1 x2 x3 x4 => execVldb x1 x2 x3 x4 s
  | .fillm x1 x2 x3 => execFillm x1 x2 x3 s
  | .vfill x1 x2 x3 => execVfill x1 x2 x3 s
  | .frame x1 => execFrame x1 s
  | .unframe => execUnframe s
  | .wprd x1 x2 => execWprd x1 x2 s
  | .cpy x1 x2 x3 => execCpy x1 x2 x3 s
  | .cpym x1 x2 x3 => execCpym x1 x2 x3 s
  | .cpyq x1 x2 x3 x4 => execCpyq x1 x2 x3 x4 s
  | .mtcfg x1 x2 => execMtcfg x1 x2 s
  | .amo x1 x2 x3 x4 x5 => execAmo x1 x2 x3 x4 x5 s
  | .amocas x1 x2 x3 x4 => execAmocas x1 x2 x3 x4 s
  | .amof x1 x2 x3 x4 => execAmof x1 x2 x3 x4 s
  | .waita x1 x2 x3 x4 => execWaita x1 x2 x3 x4 s
  | .get x1 x2 x3 => execGet x1 x2 x3 s
  | .put x1 x2 x3 => execPut x1 x2 x3 s
  | .launchInstall x1 x2 => execLaunchInstall x1 x2 s
  | .launchPacket x1 x2 => execLaunchPacket x1 x2 s
  | .launchPreempt x1 x2 => execLaunchPreempt x1 x2 s
  | _ => .next s

/-- The access of a thread whose data has come back runs to its end in the thread's name; it may wait again, or trap. -/
def finishAccess (s : State) (t : ThreadRef) : Host.Outcome State Fault Refusal :=
  match nextInstr { s with cur := t, defer := false } t with
  | (_, .error _) => .next s
  | (s', .ok i) =>
    match completeAccess i s' with
    | .next r =>
      let r := { r with cur := s.cur, defer := s.defer }
      .next (if regionForced r t then stopForced r t else r)
    | .fault f => .fault f
    | .refused f => .refused f

/-- MEMORY_REPLY (R76): the destination is written and the thread goes on. The members of a rope complete together at their
next turn (R81), and a core that does not advance in the cycle completes nothing in it (R335, R341). -/
def execMemoryReply (core slot : Nat) (s : State) : Host.Outcome State Fault Refusal :=
  let t : ThreadRef := { core := core, slot := slot }
  let x := getThread s t
  if x.wait ≠ .reply then .next s
  else
    let s := setThread s t { x with wait := .replied }
    if isRoped x || !coreAdvances s core then .next s else finishAccess s t

end Sys2Proof.Machine
end

