-- ==== Sys2Proof/Machine/SumProd.lean ====
section
/-! DEFINITION. The sum-product engine: arithmetic of its three modes, the seven forms, acceptance of their commands and what
each command does (R55, R56, R272 to R288). -/
namespace Sys2Proof.Machine

/-! ### Arithmetic on scratch words (R56, R277) -/

/-- What a mode takes of a scratch word. -/
def spRaw (mode w : Nat) : Nat := if mode = 1 then w % 2 ^ 16 else w % 2 ^ 32

/-- The float format of a mode. -/
def spFmt (mode : Nat) : FFmt := if mode = 1 then .bf16 else .fp32

/-- A subnormal encoding of a mode as zero of its sign (R49, R277). -/
def spFlush (mode w : Nat) : Nat :=
  let f := spFmt mode
  if bitsOf w (ffWidth f - 2) (ffFracBits f) = 0 then w - w % 2 ^ ffFracBits f else w

/-- The value of a word under a mode. -/
def spValue (mode w : Nat) : FVal := if mode = 2 then spqDecode w else fdecode (spFmt mode) (spFlush mode w)

/-- An exact result rounded to nearest even and stored under a mode; a subnormal float becomes +0 with UF and NX (R277). -/
def spDeliver (mode : Nat) (r : FRes) : Nat × FpFlags :=
  if mode = 2 then
    match r.1 with
    | .fin _ m e =>
      let q := spqRound .rne m e
      (q.bits, { of := q.overflow, uf := q.underflow, nx := q.inexact })
    | _ => (spqNaN, noFlags)
  else
    let d := deliver (spFmt mode) .rne r
    if spFlush mode d.1 = d.1 then d else (0, flagsOr d.2 { uf := true, nx := true })

/-- The input as read: what a node with one operand delivers (R278). -/
def spPass (mode w : Nat) : Nat × FpFlags :=
  let v := spValue mode w
  if isNaN v then spDeliver mode (v, nvIfSNaN [v]) else (if mode = 2 then w else spFlush mode w, noFlags)

/-- The greater of two words: +0 over −0, and any NaN gives the canonical one (R56, R277). -/
def spMax (mode x y : Nat) : Nat × FpFlags :=
  let a := spValue mode x
  let b := spValue mode y
  if isNaN a || isNaN b then spDeliver mode (.nan false, nvIfSNaN [a, b])
  else
    match fcmp a b with
    | .lt => spPass mode y
    | .gt => spPass mode x
    | .eq => if signNeg a then spPass mode y else spPass mode x

/-- A node operation on two words: 0 add, 1 multiply, 2 max, 3 pass (R278). -/
def spOp (mode op x y : Nat) : Nat × FpFlags :=
  match op with
  | 0 => spDeliver mode (fadd .rne (spValue mode x) (spValue mode y))
  | 1 => spDeliver mode (fmul (spValue mode x) (spValue mode y))
  | 2 => spMax mode x y
  | _ => spPass mode x

/-! ### Trees (R278, R282, R283). Children of node n are 2n + 1 and 2n + 2; child 7 + i is leaf slot i. -/

/-- The operation of a node. -/
def spNodeOp (op n : Nat) : Nat := op / 4 ^ n % 4

/-- The used leaf slots. -/
def spUsed (leaves : Nat) : List Nat := onesBelow 8 leaves

/-- The nodes of the upward order. -/
def spOrder : List Nat := [3, 4, 5, 6, 1, 2, 0]

/-- The value of a node from what its inputs have. -/
def spNode (mode op : Nat) (l r : Option Nat) : Option (Nat × FpFlags) :=
  match l, r with
  | some x, some y => some (spOp mode op x y)
  | some x, none => some (spPass mode x)
  | none, some y => some (spPass mode y)
  | none, none => none

/-- The upward pass: the value of every present node, from the values of the used leaves, and all events (R282). -/
def spUpward (mode op : Nat) (leafVals : AMap Nat) : AMap Nat × FpFlags :=
  spOrder.foldl (fun (r : AMap Nat × FpFlags) n =>
    match spNode mode (spNodeOp op n) (amFind r.1 (2 * n + 1)) (amFind r.1 (2 * n + 2)) with
    | some v => (amInsert r.1 n v.1, flagsOr r.2 v.2)
    | none => r) (leafVals, noFlags)

/-- Zero under a mode (R283). -/
def spZero (mode : Nat) : Nat := if mode = 2 then spqZero else 0

/-- Does a max node send its adjoint to the left: L ≥ R, or either a NaN (R283)? -/
def spLeft (mode l r : Nat) : Bool :=
  let a := spValue mode l
  let b := spValue mode r
  isNaN a || isNaN b || fcmp a b != .lt

/-- One node of the downward pass. -/
def spDownNode (mode op : Nat) (vals : AMap Nat) (r : AMap Nat × FpFlags) (n : Nat) : AMap Nat × FpFlags :=
  match amFind r.1 n, amFind vals (2 * n + 1), amFind vals (2 * n + 2) with
  | some g, some l, some x =>
    match spNodeOp op n with
    | 0 => (amInsert (amInsert r.1 (2 * n + 1) g) (2 * n + 2) g, r.2)
    | 1 =>
      let a := spOp mode 1 g x
      let b := spOp mode 1 g l
      (amInsert (amInsert r.1 (2 * n + 1) a.1) (2 * n + 2) b.1, flagsOr r.2 (flagsOr a.2 b.2))
    | k =>
      if k = 3 || spLeft mode l x then (amInsert (amInsert r.1 (2 * n + 1) g) (2 * n + 2) (spZero mode), r.2)
      else (amInsert (amInsert r.1 (2 * n + 1) (spZero mode)) (2 * n + 2) g, r.2)
  | some g, some _, none => (amInsert r.1 (2 * n + 1) g, r.2)
  | some g, none, some _ => (amInsert r.1 (2 * n + 2) g, r.2)
  | _, _, _ => r

/-- The downward pass: the adjoint of every present node and used leaf, with all events (R283). -/
def spDownward (mode op : Nat) (vals : AMap Nat) (root : Nat) : AMap Nat × FpFlags :=
  (List.range 7).foldl (spDownNode mode op vals) ([(0, root)], noFlags)

/-- Which nodes are present. -/
def spPresent (leaves : Nat) : List Nat :=
  (List.range 7).filter fun n =>
    let leafHit (lo k : Nat) : Bool := decide (leaves / 2 ^ lo % 2 ^ k ≠ 0)
    match n with
    | 0 => leafHit 0 8
    | 1 => leafHit 0 4
    | 2 => leafHit 4 4
    | _ => leafHit (2 * (n - 3)) 2

/-! ### What the commands compute (R282, R283, R286) -/

/-- The index of a leaf slot in the leaf registers. -/
def spLeafIdx (a b : Word) (i : Nat) : Nat :=
  let w := if i < 4 then a else b
  fieldOf w (16 * (i % 4) + 12) (16 * (i % 4))

/-- SPUP (R282): the words it writes, from those of the used leaves. -/
def spUpResult (mode op leaves : Nat) (root : Bool) (l : List Nat) : List Nat × FpFlags :=
  let used := spUsed leaves
  let r := spUpward mode op ((List.range used.length).map fun i => (7 + used.getD i 0, spRaw mode (l.getD i 0)))
  (if root then [amGet r.1 0 0] else (spPresent leaves).map fun n => amGet r.1 n 0, r.2)

/-- The present nodes below the root. -/
def spInner (leaves : Nat) : List Nat := (spPresent leaves).filter fun n => decide (n ≠ 0)

/-- SPDN (R283): the words of the used slots, from those of the nodes, the leaves, U, and with ACC the old ones. -/
def spDownResult (mode op leaves : Nat) (acc : Bool) (l : List Nat) : List Nat × FpFlags :=
  let used := spUsed leaves
  let nodes := spInner leaves
  let l := l.map (spRaw mode)
  let n1 := nodes.length
  let n2 := used.length
  let vals : AMap Nat := ((List.range n1).map fun i => (nodes.getD i 0, l.getD i 0)) ++
    ((List.range n2).map fun i => (7 + used.getD i 0, l.getD (n1 + i) 0))
  let r := spDownward mode op vals (l.getD (n1 + n2) 0)
  let out := (List.range n2).map fun i =>
    let g := amGet r.1 (7 + used.getD i 0) 0
    if acc then spOp mode 0 (l.getD (n1 + n2 + 1 + i) 0) g else (g, noFlags)
  (out.map (·.1), flagsOr r.2 (flagsAll (out.map (·.2))))

/-- log2 of a finite value's magnitude, rounded down; none for a value that SPNRM does not count (R286). -/
def spExp (v : FVal) : Option Int :=
  match v with
  | .fin _ m e => if m = 0 then none else some ((m.log2 : Int) + e)
  | _ => none

/-- A word of SPNRM's run after the shift (R286). -/
def spScale (mode : Nat) (sh : Int) (w : Nat) : Nat × FpFlags :=
  let v := spValue mode w
  match v, spExp v with
  | .fin neg m e, some x =>
    if mode = 2 then
      let s := (bitsOf w 31 20 : Int) + sh
      if 4094 < s then (spqZero, { uf := true, nx := true }) else (s.toNat * 2 ^ 20 + w % 2 ^ 20, noFlags)
    else if x - sh < -126 then (0, { uf := true, nx := true })
    else spDeliver mode (.fin neg m (e - sh), noFlags)
  | _, _ => (if mode = 2 then w else spFlush mode w, noFlags)

/-- The common shift: the exponent of the largest counted magnitude, 0 when none counts (R286). -/
def spShift (mode : Nat) (l : List Nat) : Int :=
  ((l.filterMap fun w => spExp (spValue mode w)).max?).getD 0

/-- SPNRM (R286): the run after the shift, and the shift word. -/
def spNormResult (mode n : Nat) (l : List Nat) : List Nat × FpFlags :=
  let ws := (l.take n).map (spRaw mode)
  let sh := spShift mode ws
  let out := ws.map (spScale mode sh)
  (out.map (·.1) ++ [ofInt 32 ((l.getD n 0 : Int) + sh)], flagsAll (out.map (·.2)))

/-! ### What the commands read and write (R276, R280, R284) -/

/-- The region that the tile of a core belongs to. -/
def spRegion (s : State) (core : Nat) : Option Region :=
  match coreRegionKey s core with
  | some k => getRegion s k
  | none => none

/-- A word in memory: the object and the byte offset. -/
abbrev SpPlace := LObj × Nat

/-- The place of word k of n at a local address, for a core. -/
def spLocal (s : State) (core : Nat) (a : Word) (n k : Nat) : Option SpPlace :=
  match resolveIn (spRegion s core) core a (4 * n) with
  | .loc o off => some (o, off + 4 * k)
  | _ => none

/-- Words of the scratch of a quad. -/
def spScratch (q : Nat) (l : List Nat) : List (Option SpPlace) := l.map fun i => some (.spm q, 4 * i)

/-- The words that a command reads, in order. -/
def spReads (s : State) (q : Nat) (c : SpCmd) : List (Option SpPlace) :=
  match c.kind with
  | .load a _ n => (List.range n).map (spLocal s c.core a n)
  | .store _ idx n => spScratch q ((List.range n).map (idx + ·))
  | .up a b _ _ leaves _ => spScratch q ((spUsed leaves).map (spLeafIdx a b))
  | .down a b d u e _ leaves acc =>
    spScratch q ((spInner leaves).map (d + ·) ++ (spUsed leaves).map (spLeafIdx a b) ++ [u] ++ if acc then (spUsed leaves).map (e + ·) else [])
  | .norm idx n x => spScratch q ((List.range n).map (idx + ·) ++ [x])
  | .mode _ => []
  | .wait => []

/-- The words that a command writes, in order. -/
def spWrites (s : State) (q : Nat) (c : SpCmd) : List (Option SpPlace) :=
  match c.kind with
  | .load _ idx n => spScratch q ((List.range n).map (idx + ·))
  | .store a _ n => (List.range n).map (spLocal s c.core a n)
  | .up _ _ d _ leaves root => spScratch q (if root then [d] else (spPresent leaves).map (d + ·))
  | .down _ _ _ _ e _ leaves _ => spScratch q ((spUsed leaves).map (e + ·))
  | .norm idx n x => spScratch q ((List.range n).map (idx + ·) ++ [x])
  | .mode _ => []
  | .wait => []

/-- What a command writes from what it has read. -/
def spResult (mode : Nat) (k : SpKind) (l : List Nat) : List Nat × FpFlags :=
  match k with
  | .up _ _ _ op leaves root => spUpResult mode op leaves root l
  | .down _ _ _ _ _ op leaves acc => spDownResult mode op leaves acc l
  | .norm _ n _ => spNormResult mode n l
  | _ => (l, noFlags)

/-- The word at a place now: none for an uncorrectable error, or where there is none. -/
def spReadNow (s : State) (p : Option SpPlace) : Option Nat :=
  match p with
  | some p => (localRead s p.1 p.2 4).map ofBytes
  | none => none

/-- The number under which a command keeps a word that it has read: of a word that it names more than once, the first one's (R279). -/
def spKey (ps : List (Option SpPlace)) (p : Option SpPlace) : Nat := ps.idxOf p

/-- What a word of a command's reads is: as the command has read it, or as it stands now (R276). -/
def spSeen (s : State) (c : SpCmd) (ps : List (Option SpPlace)) (p : Option SpPlace) : Option Nat :=
  match amFind c.seen (spKey ps p) with
  | some v => v
  | none => spReadNow s p

/-- All words of a command's reads; none if one of them has an uncorrectable error (R280). -/
def spValues (s : State) (q : Nat) (c : SpCmd) : Option (List Nat) :=
  let ps := spReads s q c
  let l := ps.map (spSeen s c ps)
  if l.all Option.isSome && (spWrites s q c).all Option.isSome then some (l.map fun x => x.getD 0) else none

/-- Words of a command's writes that follow one another at a place, written at once; a write of a whole scratch word or a whole granule
clears its error (R280, R284). -/
def spPut (s : State) (outs : List (Option SpPlace)) (words : List Nat) (js : List Nat) : State :=
  match (js.head?).bind fun j => outs.getD j none with
  | some p => localWrite s p.1 p.2 (js.flatMap fun j => toBytes 4 (words.getD j 0))
  | none => s

/-- The words that a command writes together with word i: SPST those of its 64-byte granule, as a copy channel does (R284), any other
command that word alone (R276). -/
def spTogether (k : SpKind) (ps : List (Option SpPlace)) (i : Nat) : List Nat :=
  match k, ps.getD i none with
  | .store _ _ _, some (o, off) =>
    (List.range ps.length).filter fun j => (ps.getD j none).any fun p => p.1 == o && p.2 / 64 == off / 64
  | _, _ => [i]

/-- All words that a command has not written yet, written in order. -/
def spPutAll (k : SpKind) (outs : List (Option SpPlace)) (words wrote : List Nat) (s : State) : State :=
  ((List.range outs.length).foldl (fun (r : State × List Nat) i =>
    if r.2.contains i then r
    else
      let js := spTogether k outs i
      (spPut r.1 outs words js, r.2 ++ js)) (s, wrote)).1

/-- Events merged into a core's sum-product status (R281). -/
def spMerge (s : State) (core bits : Nat) : State :=
  modCore s core fun c => { c with spStatus := c.spStatus ||| BitVec.ofNat 64 bits }

/-- A command that aborts sets ERR (R280). -/
def spAbort (s : State) (core : Nat) : State := spMerge s core 0x800

/-- The effect of a command that moves or computes words: what it has not written yet, and its events. -/
def spCompute (s : State) (q mode : Nat) (c : SpCmd) : State :=
  match spValues s q c with
  | none => spAbort s c.core
  | some l =>
    let r := spResult mode c.kind l
    spMerge (spPutAll c.kind (spWrites s q c) r.1 c.wrote s) c.core (flagsToNat r.2)

/-- SPWAIT completes: its thread gets the core's status, which is cleared (R287). -/
def spRunWait (s : State) (c : SpCmd) : State :=
  let t : ThreadRef := { core := c.core, slot := c.slot }
  if (getThread s t).wait = .spwait c.num then
    let v := (getCore s c.core).spStatus
    modThread (modCore s c.core fun x => { x with spStatus := 0 }) t fun x => { x with wait := .spDone v }
  else s

/-- A command's effect (R282 to R287), under the mode that the commands before it leave (R275). -/
def spRun (s : State) (q mode : Nat) (c : SpCmd) : State :=
  match c.kind with
  | .mode m => modQuad s q fun x => { x with mode := m }
  | .wait => spRunWait s c
  | _ => spCompute s q mode c

/-! ### Reads and writes before a command's completion (R275, R276) -/

/-- Has a command written all its words? Only its events are still to come. -/
def spDone (s : State) (q : Nat) (c : SpCmd) : Bool :=
  !c.wrote.isEmpty && (List.range (spWrites s q c).length).all fun i => c.wrote.contains i

/-- May a command run beside those accepted before it: none of them that is not done writes a word that it reads or writes, or reads a word
that it writes? -/
def spFree (s : State) (q : Nat) (before : List SpCmd) (c : SpCmd) : Bool :=
  let meet (a b : List (Option SpPlace)) : Bool := a.any fun p => b.contains p
  before.all fun x => spDone s q x || !meet (spWrites s q x) (spReads s q c ++ spWrites s q c) && !meet (spReads s q x) (spWrites s q c)

/-- The mode that the commands accepted before one leave it. -/
def spModeAfter (mode : Nat) : List SpCmd → Nat
  | [] => mode
  | c :: rest =>
    match c.kind with
    | .mode m => spModeAfter m rest
    | _ => spModeAfter mode rest

/-- Does a command need a tree (R272)? -/
def spTree (c : SpCmd) : Bool :=
  match c.kind with
  | .up _ _ _ _ _ _ => true
  | .down _ _ _ _ _ _ _ _ => true
  | _ => false

/-- Has a command started: it has read or written a word? -/
def spStarted (c : SpCmd) : Bool := !c.seen.isEmpty || !c.wrote.isEmpty

/-- The trees that a command finds taken: by the tree commands that have started and are not done, and by those accepted before it that may
start (R272, R275, R289). -/
def spTreesTaken (s : State) (q : Nat) : List SpCmd → List SpCmd → Nat → Nat
  | _, [], n => n
  | before, c :: rest, num =>
    (if c.num != num && spTree c && !spDone s q c && (spStarted c || (decide (c.num < num) && spFree s q before c)) then 1 else 0) +
      spTreesTaken s q (before ++ [c]) rest num

/-- The accepted command of a number that may run, with those before it: one of eight trees is free for a tree command, or its own
already (R272, R275). -/
def spRunning (s : State) (q num : Nat) : Option (SpCmd × List SpCmd) :=
  let l := (getQuad s q).queue
  let before := l.takeWhile fun c => c.num != num
  match l.find? fun c => c.num == num with
  | some c =>
    let tree := !spTree c || spStarted c || decide (spTreesTaken s q [] l num < 8)
    if tree && spFree s q before c && quadRuns s q then some (c, before) else none
  | none => none

/-- The accepted command of a number replaced. -/
def spKeep (s : State) (q : Nat) (c : SpCmd) : State :=
  modQuad s q fun x => { x with queue := x.queue.map fun y => if y.num = c.num then c else y }

/-- A running command reads word i of its reads. -/
def spReadAhead (s : State) (q num i : Nat) : State :=
  match spRunning s q num with
  | some (c, _) =>
    match (spReads s q c)[i]? with
    | some p =>
      let k := spKey (spReads s q c) p
      if (amFind c.seen k).isSome then s else spKeep s q { c with seen := amInsert c.seen k (spReadNow s p) }
    | none => s
  | none => s

/-- May a running command complete ahead of those accepted before it? An SPMODE and an SPWAIT complete in their turn, and so does a command
behind an SPWAIT of its core, whose status does not hold its events yet (R275, R287). -/
def spMayEnd (c : SpCmd) (before : List SpCmd) : Bool :=
  before.isEmpty || (c.kind != .wait && (match c.kind with
    | .mode _ => false
    | _ => true) && !before.any fun x => x.kind == .wait && x.core == c.core)

/-- A command completes: what it has not done yet takes place, and it leaves the queue. -/
def spEnd (s : State) (q : Nat) (c : SpCmd) (before : List SpCmd) : State :=
  modQuad (spRun s q (spModeAfter (getQuad s q).mode before) c) q fun x => { x with queue := x.queue.erase c }

/-- A running command writes word i of its writes: all its reads come before (R275), and an error in one lets it write nothing. With its last
word it completes, if it may. -/
def spWriteAhead (s : State) (q num i : Nat) : State :=
  match spRunning s q num with
  | some (c, before) =>
    let ps := spReads s q c
    let c := { c with seen := ps.foldl (fun m p => amInsert m (spKey ps p) (spSeen s c ps p)) c.seen }
    let outs := spWrites s q c
    match spValues s q c, outs[i]? with
    | some l, some _ =>
      if c.wrote.contains i then s
      else
        let r := spResult (spModeAfter (getQuad s q).mode before) c.kind l
        let js := spTogether c.kind outs i
        let c := { c with wrote := c.wrote ++ js }
        let s := spKeep (spPut s outs r.1 js) q c
        if spDone s q c && spMayEnd c before then spEnd s q c before else s
    | _, _ => spKeep s q c
  | none => s

/-! ### Acceptance and completion (R274, R275) -/

/-- The commands on the way to the queue: in the order of issue, and of one cycle in the order of QCORE. -/
def spEnter (l : List SpCmd) (c : SpCmd) : List SpCmd :=
  l.takeWhile (fun x => decide (x.at_ < c.at_ ∨ qcoreOf x.core ≤ qcoreOf c.core)) ++
    c :: l.dropWhile (fun x => decide (x.at_ < c.at_ ∨ qcoreOf x.core ≤ qcoreOf c.core))

/-- What the issuing thread waits for once its command is accepted: SPWAIT for its completion, any other form retires. -/
def spAccepted (c : SpCmd) : Wait :=
  match c.kind with
  | .wait => .spwait c.num
  | _ => .spAccepted

/-- SP_COMMAND_ACCEPT (R274): the first command on the way is accepted, from the second cycle of the quad after its issue on. -/
def spAcceptStep (s : State) (q : Nat) : State :=
  let x := getQuad s q
  match x.path with
  | c :: rest =>
    if x.queue.length < 32 ∧ c.at_ + 2 ≤ x.ticks then
      let s := setQuad s q { x with path := rest, queue := x.queue ++ [c] }
      let t : ThreadRef := { core := c.core, slot := c.slot }
      if (getThread s t).wait = .spAccept c.num then modThread s t fun y => { y with wait := spAccepted c } else s
    else s
  | [] => s

/-- SP_COMMAND_COMPLETE (R275): the oldest accepted command that may run and complete takes its effect and leaves the queue: the first of
the queue, but where it waits for a tree. -/
def spCompleteStep (s : State) (q : Nat) : State :=
  match (getQuad s q).queue.findSome? fun c => (spRunning s q c.num).filter fun r => spMayEnd r.1 r.2 with
  | some r => spEnd s q r.1 r.2
  | none => s

/-- SP_COMMAND_ACCEPT (R274), in an enabled cycle of the quad (R335). -/
def execSpCommandAccept (quad : Nat) (s : State) : Host.Outcome State Fault Refusal :=
  runStep (fun s => if quadRuns s quad then spAcceptStep s quad else s) s

/-- SP_COMMAND_COMPLETE (R275), in an enabled cycle of the quad (R335). -/
def execSpCommandComplete (quad : Nat) (s : State) : Host.Outcome State Fault Refusal :=
  runStep (fun s => if quadRuns s quad then spCompleteStep s quad else s) s

/-! ### The forms -/

/-- The Address trap of a region without the engines (R272). -/
def requireQuad : M Unit := do
  let s ← getS
  if (threadRegion s s.cur).any fun r => r.quad then pure () else trapM causeAddress 0xFF40000000000000

/-- Does a thread of a core wait for an entry of the queue? -/
def spWaiting (s : State) (core : Nat) : Bool := (getCore s core).slots.any fun x => x.2.slotState == .live && x.2.wait == .spQueue

/-- The core that the next free entry is offered to: the next one in turn whose threads wait (R274, R289). -/
def spOffered (s : State) (core : Nat) : Option Nat :=
  let last := (getQuad s (quadKey core)).spTurn
  ((List.range 4).map fun i => (last + 1 + i) % 4).find? fun i => spWaiting s (quadCore core i)

/-- Has a thread sent the command of the form that it executes? -/
def spSent (s : State) (t : ThreadRef) : Bool :=
  match (getThread s t).wait with
  | .spAccept _ | .spAccepted => true
  | _ => false

/-- May a thread's command be sent now: the queue has an entry for it, and for those that other members of its rope still have to send,
beside the ones on the path, and the entry is offered to its core or to a member's, unless its rope has begun to send (R81, R274)? DEDUCED: a
command takes its entry when it is sent (log entry 40). -/
def spRoom (s : State) (t : ThreadRef) : Bool :=
  let x := getQuad s (quadKey t.core)
  let ts := ropeMembers s t
  decide (x.queue.length + x.path.length + (ts.filter fun u => !spSent s u).length ≤ 32) &&
    (ts.any (spSent s) || (spOffered s t.core).all fun i => ts.any fun u => qcoreOf u.core == i)

/-- A command is sent to the engine; a full queue holds it back, and the thread waits for its acceptance (R274). -/
def issueSp (k : SpKind) : M Unit := do
  let s ← getS
  let q := quadKey s.cur.core
  if spRoom s s.cur then
    waitKeepM (.spAccept (getQuad s q).sent) fun s =>
      modCore (modQuad s q fun x =>
      { x with path := spEnter x.path { num := x.sent, core := s.cur.core, slot := s.cur.slot, at_ := x.ticks, kind := k }
               sent := x.sent + 1, spTurn := qcoreOf s.cur.core }) s.cur.core fun c => { c with spIssued := c.spIssued + 1 }
  else waitM .spQueue

/-- A form that retires when its command is accepted: `start` is its work at issue. -/
def untilAccepted (start : M Unit) : M Unit := do
  let x ← self
  if x.wait = .spAccepted then pure () else start

/-- The Address trap of a register with a nonzero zero-field. -/
def spFieldsOk (ok : Bool) (w : Word) : M Unit := if ok then pure () else trapM causeAddress w

/-- Are the zero bits of the used leaves of a leaf register zero? -/
def spLeavesOk (w : Word) (leaves : Nat) : Bool :=
  (List.range 4).all fun j => !leaves.testBit j || fieldOf w (16 * j + 15) (16 * j + 13) == 0

/-- SPUP (R282). -/
def execSpup (d a b : Reg) (op : BitVec 14) (leaves : BitVec 8) (root : BitVec 1) (s : State) : Host.Outcome State Fault Refusal :=
  run8 (withPorts [a, b, d] [] [] [] do
    let x ← readG a
    let y ← readG b
    let z ← readG d
    untilAccepted do
      requireQuad
      spFieldsOk (spLeavesOk x (leaves.toNat % 16)) x
      spFieldsOk (spLeavesOk y (leaves.toNat / 16)) y
      spFieldsOk (fieldOf z 63 13 == 0 && (root == 1 || decide (fieldOf z 12 0 + 6 ≤ 8191))) z
      issueSp (.up x y (fieldOf z 12 0) op.toNat leaves.toNat (root == 1))) s

/-- SPDN (R283). -/
def execSpdn (d a b : Reg) (op : BitVec 14) (leaves : BitVec 8) (acc : BitVec 1) (s : State) : Host.Outcome State Fault Refusal :=
  run8 (withPorts [a, b, d] [] [] [] do
    let x ← readG a
    let y ← readG b
    let z ← readG d
    untilAccepted do
      requireQuad
      spFieldsOk (spLeavesOk x (leaves.toNat % 16)) x
      spFieldsOk (spLeavesOk y (leaves.toNat / 16)) y
      spFieldsOk (fieldOf z 63 45 == 0 && fieldOf z 31 29 == 0 && fieldOf z 15 13 == 0 && decide (fieldOf z 12 0 + 6 ≤ 8191) &&
        decide (fieldOf z 44 32 + 7 ≤ 8191)) z
      issueSp (.down x y (fieldOf z 12 0) (fieldOf z 28 16) (fieldOf z 44 32) op.toNat leaves.toNat (acc == 1))) s

/-- The checks of SPLD and SPST at issue (R284). -/
def spLocalOk (a : Word) (n : Nat) : M Unit := do
  let s ← getS
  if a.toNat % 4 ≠ 0 then trapM causeAlignment a
  else if isLocal a && decide (localKind a ≤ 2) then
    match resolve s s.cur a (4 * n) with
    | .loc _ _ => pure ()
    | _ => trapM causeAddress a
  else trapM causeAddress a

/-- SPLD (R284). -/
def execSpld (a : Reg) (idx : BitVec 13) (n : BitVec 9) (s : State) : Host.Outcome State Fault Refusal :=
  run8 (withPorts [a] [] [] [] do
    let x ← readG a
    untilAccepted do
      requireQuad
      spLocalOk x (n.toNat + 1)
      issueSp (.load x idx.toNat (n.toNat + 1))) s

/-- SPST (R284). -/
def execSpst (a : Reg) (idx : BitVec 13) (n : BitVec 9) (s : State) : Host.Outcome State Fault Refusal :=
  run8 (withPorts [a] [] [] [] do
    let x ← readG a
    untilAccepted do
      requireQuad
      spLocalOk x (n.toNat + 1)
      issueSp (.store x idx.toNat (n.toNat + 1))) s

/-- SPMODE (R285). -/
def execSpmode (mode : BitVec 2) (s : State) : Host.Outcome State Fault Refusal :=
  run8 (untilAccepted do
    requireQuad
    issueSp (.mode mode.toNat)) s

/-- SPNRM (R286). -/
def execSpnrm (a : Reg) (idx : BitVec 13) (n : BitVec 9) (s : State) : Host.Outcome State Fault Refusal :=
  run8 (withPorts [a] [] [] [] do
    let x ← readG a
    untilAccepted do
      requireQuad
      let k := fieldOf x 12 0
      spFieldsOk (fieldOf x 63 13 == 0 && (decide (k < idx.toNat) || decide (idx.toNat + n.toNat < k))) x
      issueSp (.norm idx.toNat (n.toNat + 1) k)) s

/-- SPWAIT (R287). -/
def execSpwait (d : Reg) (s : State) : Host.Outcome State Fault Refusal :=
  run8 (withPorts [] [] [d] [] do
    let x ← self
    match x.wait with
    | .spDone v => writeG d v
    | _ => do
      requireQuad
      issueSp .wait) s

end Sys2Proof.Machine
end

