-- ==== Sys2Proof/Machine/Trust.lean ====
section
/-! DEFINITION. Trust: SPDM requests, device interfaces, and debug policies with their registers (R353 to R357). -/
namespace Sys2Proof.Machine

/-! ### SPDM (R355) -/

/-- What measurement i of a partition is made over, and its value: measurement 5 is zero without a policy. -/
def measurement (s : State) (p i : Nat) : Nat :=
  let l := amGet (getPart s p).measures i []
  if i = 5 ∧ l = [] then 0 else Config.cryptoValue (i :: p :: l)

/-- A response leaves by the DOE mailbox. Its bytes are the standard's and Otair's; what they depend on stands here (log entry
15). -/
def respond (s : State) (l : List Nat) : State := { s with responses := s.responses ++ [Config.spdmBytes l] }

/-- The ERROR response. -/
def respondError (s : State) (p : Nat) : State := respond s [0x7F, p]

/-- An SPDM request of a partition that exists: answered where the requests before it allow it, else with ERROR. -/
def spdmStep (part : Nat) (ready : Spdm → Bool) (f : State → State) (s : State) : Host.Outcome State Fault Refusal :=
  runStep (fun s =>
    let t := getPart s part
    if !t.exists_ then s else if ready t.spdm then f s else respondError s part) s

/-- Has the requester negotiated? -/
def negotiated (x : Spdm) : Bool := x.p384.isSome

/-- Which pair of signature and digest is in use: 1 for P-384 with SHA-384. -/
def suite (s : State) (p : Nat) : Nat := bit ((getPart s p).spdm.p384.getD false)

def modSpdm (s : State) (p : Nat) (f : Spdm → Spdm) : State := modPart s p fun t => { t with spdm := f t.spdm }

/-- GET_VERSION (R355): the negotiation starts anew. -/
def execGetVersion (part : Nat) (s : State) : Host.Outcome State Fault Refusal :=
  spdmStep part (fun _ => true) (fun s =>
    respond (modSpdm s part fun x => { x with version := true, capabilities := false, p384 := none, pending := none }) [0x04, part]) s

/-- GET_CAPABILITIES (R355). -/
def execGetCapabilities (part : Nat) (s : State) : Host.Outcome State Fault Refusal :=
  spdmStep part (fun x => x.version) (fun s => respond (modSpdm s part fun x => { x with capabilities := true }) [0x61, part]) s

/-- NEGOTIATE_ALGORITHMS (R355): ECDSA P-256 with SHA-256, or P-384 with SHA-384. -/
def execNegotiateAlgorithms (part : Nat) (p384 : Bool) (s : State) : Host.Outcome State Fault Refusal :=
  spdmStep part (fun x => x.capabilities) (fun s => respond (modSpdm s part fun x => { x with p384 := some p384 }) [0x63, part, bit p384]) s

/-- GET_DIGESTS (R355). -/
def execGetDigests (part : Nat) (s : State) : Host.Outcome State Fault Refusal :=
  spdmStep part negotiated (fun s => respond s [0x01, part, suite s part]) s

/-- GET_CERTIFICATE (R355). -/
def execGetCertificate (part : Nat) (s : State) : Host.Outcome State Fault Refusal :=
  spdmStep part negotiated (fun s => respond s [0x02, part, suite s part]) s

/-- The values of the five measurement blocks. -/
def measurementBlocks (s : State) (p : Nat) : List Nat := (List.range 5).map fun i => measurement s p (i + 1)

/-- CHALLENGE (R355): the signature covers the nonce and the measurements. -/
def execChallenge (part nonce : Nat) (s : State) : Host.Outcome State Fault Refusal :=
  spdmStep part negotiated (fun s => respond s (0x03 :: part :: suite s part :: nonce :: measurementBlocks s part)) s

/-- GET_MEASUREMENTS (R355): block 1 to 5, 0 for their number, 255 for all. -/
def execGetMeasurements (part index : Nat) (s : State) : Host.Outcome State Fault Refusal :=
  spdmStep part negotiated (fun s =>
    if index = 0 then respond s [0x60, part, suite s part, 0, 5]
    else if index = 255 then respond s (0x60 :: part :: suite s part :: 255 :: measurementBlocks s part)
    else if index ≤ 5 then respond s [0x60, part, suite s part, index, measurement s part index]
    else respondError s part) s

/-- KEY_EXCHANGE (R355, R356): a session begins and waits for its FINISH; it sets the key of a selective IDE stream, 0 to 7, or of the
link stream, 8. -/
def execKeyExchange (part : Nat) (offer : KeyOffer) (s : State) : Host.Outcome State Fault Refusal :=
  spdmStep part negotiated (fun s =>
    let n := (getPart s part).spdm.nextSession
    respond (modSpdm s part fun x => { x with pending := some n, pendingKey := (offer.stream, offer.random), nextSession := n + 1 })
      [0x64, part, suite s part, n, offer.random]) s

/-- The key that a session sets for its IDE stream (R356). -/
def setIdeKey (s : State) (p session : Nat) : State :=
  let x := (getPart s p).spdm.pendingKey
  let key := Config.cryptoValue [0x356, p, session, x.2]
  if x.1 < 8 then modPart s p fun t => { t with ideKeys := amInsert t.ideKeys x.1 key }
  else if x.1 = 8 then modPart s p fun t => { t with ideLink := some key }
  else s

/-- FINISH (R355): the session of the last KEY_EXCHANGE is established. -/
def execFinish (part session : Nat) (s : State) : Host.Outcome State Fault Refusal :=
  spdmStep part (fun x => x.pending == some session) (fun s =>
    respond (modSpdm (setIdeKey s part session) part fun x => { x with pending := none, sessions := x.sessions ++ [session] }) [0x65, part, session]) s

/-! ### Device interfaces (R356) -/

/-- The frames of a queue's ring, as the function's tables map them. -/
def ringFrames (s : State) (p vf : Nat) (x : Queue) : List Nat :=
  (piecesOf 4096 x.qbase.toNat (128 * ringSize x)).filterMap fun q =>
    match walk s { who := whoCommand s p vf, va := q.1, needA := false } [] with
    | (_, .ok e, _) => some (tlbPa e q.1 / 4096)
    | (_, .fault _ _ _, _) => none

/-- LOCK_INTERFACE (R356): the registers and ring pages of the function's queues are frozen, and the interface is bound to the
selective IDE stream that the request names. -/
def execLockInterface (part : Nat) (lock : LockRequest) (s : State) : Host.Outcome State Fault Refusal :=
  runStep (fun s =>
    let vf := lock.vf
    if vfEnabled s part vf && vfState s part vf == .unlocked then
      let pages := ((getPart s part).queues.filter fun q => fieldOf q.2.qctl 15 9 == vf).flatMap fun q => ringFrames s part vf q.2
      modPart s part fun t => { t with vfs := amInsert t.vfs vf .locked, ringPages := amInsert t.ringPages vf pages, bound := amInsert t.bound vf lock.stream }
    else s) s

/-- START_INTERFACE (R356): from CONFIG_LOCKED to RUN. -/
def execStartInterface (part vf : Nat) (s : State) : Host.Outcome State Fault Refusal :=
  runStep (fun s => if vfState s part vf == .locked then modPart s part fun t => { t with vfs := amInsert t.vfs vf .run } else s) s

/-- STOP_INTERFACE (R356): from CONFIG_LOCKED, RUN or ERROR to CONFIG_UNLOCKED. -/
def execStopInterface (part vf : Nat) (s : State) : Host.Outcome State Fault Refusal :=
  runStep (fun s =>
    if vfState s part vf == .unlocked then s
    else modPart s part fun t => { t with vfs := amErase t.vfs vf, ringPages := amErase t.ringPages vf, bound := amErase t.bound vf }) s

/-- TDISP_LOCK_BREACH (R356): the interface goes to ERROR, and the resident launches of its function are aborted. -/
def execTdispLockBreach (part vf : Nat) (s : State) : Host.Outcome State Fault Refusal :=
  runStep (fun s =>
    if vfState s part vf == .locked || vfState s part vf == .run then
      let s := modPart s part fun t => { t with vfs := amInsert t.vfs vf .error }
      (s.regions.filter fun e => e.2.part == part && e.2.func == vf).foldl (fun s e => abortLaunch s e.1) s
    else s) s

/-! ### Debug policies (R357) -/

/-- DEBUG_POLICY_ACCEPT (R357): the signer's key is the one whose digest Otair holds, and measurement 2 matches; the classes are
bits as DBGSTAT has them. The partition is then measured again. -/
def execDebugPolicyAccept (part signer measurement_ classes : Nat) (s : State) : Host.Outcome State Fault Refusal :=
  runStep (fun s =>
    if (getPart s part).exists_ && signer == Config.tenantKey part && measurement_ == measurement s part 2 then
      let before := getPart s part
      let s := modPart s part fun t =>
        { t with dbgHalt := classes.testBit 2, dbgTrace := classes.testBit 1, dbgPerf := classes.testBit 0 }
      remeasure (haltLaunches before s part) part 5 [signer, measurement_, classes]
    else s) s

/-- A bit of DBGCTL written by the host, the others as they read. -/
def dbgctlBit (part b : Nat) (on : Bool) (s : State) : Host.Outcome State Fault Refusal :=
  partStep part (fun s => dbgctlWrite s part (readyBit (dbgctlWord (getPart s part)) b on)) s

/-- DBG_HALTREQ (R357). -/
def execDbgHaltreq (part : Nat) (on : Bool) (s : State) : Host.Outcome State Fault Refusal := dbgctlBit part 2 on s

/-- DBG_TRACEEN (R357). -/
def execDbgTraceen (part : Nat) (on : Bool) (s : State) : Host.Outcome State Fault Refusal := dbgctlBit part 1 on s

/-- DBG_PERFEN (R357). -/
def execDbgPerfen (part : Nat) (on : Bool) (s : State) : Host.Outcome State Fault Refusal := dbgctlBit part 0 on s

end Sys2Proof.Machine
end

