-- ==== Sys2Proof/Machine/Dispatch.lean ====
section
/-! DEFINITION. One arm per constructor of Instr, each a direct call of that instruction's own meaning. -/
namespace Sys2Proof.Machine

def exec (i : Instr) (s : State) : Host.Outcome State Fault Refusal :=
  match i with
  | .add x1 x2 x3 => Sys2Proof.Machine.execAdd x1 x2 x3 s
  | .sub x1 x2 x3 => Sys2Proof.Machine.execSub x1 x2 x3 s
  | .and x1 x2 x3 => Sys2Proof.Machine.execAnd x1 x2 x3 s
  | .or x1 x2 x3 => Sys2Proof.Machine.execOr x1 x2 x3 s
  | .xor x1 x2 x3 => Sys2Proof.Machine.execXor x1 x2 x3 s
  | .sll x1 x2 x3 => Sys2Proof.Machine.execSll x1 x2 x3 s
  | .srl x1 x2 x3 => Sys2Proof.Machine.execSrl x1 x2 x3 s
  | .sra x1 x2 x3 => Sys2Proof.Machine.execSra x1 x2 x3 s
  | .slt x1 x2 x3 => Sys2Proof.Machine.execSlt x1 x2 x3 s
  | .sltu x1 x2 x3 => Sys2Proof.Machine.execSltu x1 x2 x3 s
  | .min x1 x2 x3 => Sys2Proof.Machine.execMin x1 x2 x3 s
  | .max x1 x2 x3 => Sys2Proof.Machine.execMax x1 x2 x3 s
  | .minu x1 x2 x3 => Sys2Proof.Machine.execMinu x1 x2 x3 s
  | .maxu x1 x2 x3 => Sys2Proof.Machine.execMaxu x1 x2 x3 s
  | .mul x1 x2 x3 => Sys2Proof.Machine.execMul x1 x2 x3 s
  | .mulh x1 x2 x3 => Sys2Proof.Machine.execMulh x1 x2 x3 s
  | .mulhu x1 x2 x3 => Sys2Proof.Machine.execMulhu x1 x2 x3 s
  | .div x1 x2 x3 => Sys2Proof.Machine.execDiv x1 x2 x3 s
  | .divu x1 x2 x3 => Sys2Proof.Machine.execDivu x1 x2 x3 s
  | .rem x1 x2 x3 => Sys2Proof.Machine.execRem x1 x2 x3 s
  | .remu x1 x2 x3 => Sys2Proof.Machine.execRemu x1 x2 x3 s
  | .clz x1 x2 => Sys2Proof.Machine.execClz x1 x2 s
  | .ctz x1 x2 => Sys2Proof.Machine.execCtz x1 x2 s
  | .popc x1 x2 => Sys2Proof.Machine.execPopc x1 x2 s
  | .movz x1 x2 x3 => Sys2Proof.Machine.execMovz x1 x2 x3 s
  | .movn x1 x2 x3 => Sys2Proof.Machine.execMovn x1 x2 x3 s
  | .addw x1 x2 x3 => Sys2Proof.Machine.execAddw x1 x2 x3 s
  | .subw x1 x2 x3 => Sys2Proof.Machine.execSubw x1 x2 x3 s
  | .addi x1 x2 x3 => Sys2Proof.Machine.execAddi x1 x2 x3 s
  | .andi x1 x2 x3 => Sys2Proof.Machine.execAndi x1 x2 x3 s
  | .ori x1 x2 x3 => Sys2Proof.Machine.execOri x1 x2 x3 s
  | .xori x1 x2 x3 => Sys2Proof.Machine.execXori x1 x2 x3 s
  | .slti x1 x2 x3 => Sys2Proof.Machine.execSlti x1 x2 x3 s
  | .sltui x1 x2 x3 => Sys2Proof.Machine.execSltui x1 x2 x3 s
  | .lui x1 x2 => Sys2Proof.Machine.execLui x1 x2 s
  | .insh x1 x2 x3 => Sys2Proof.Machine.execInsh x1 x2 x3 s
  | .slli x1 x2 x3 => Sys2Proof.Machine.execSlli x1 x2 x3 s
  | .srli x1 x2 x3 => Sys2Proof.Machine.execSrli x1 x2 x3 s
  | .srai x1 x2 x3 => Sys2Proof.Machine.execSrai x1 x2 x3 s
  | .bfxu x1 x2 x3 x4 => Sys2Proof.Machine.execBfxu x1 x2 x3 x4 s
  | .bfxs x1 x2 x3 x4 => Sys2Proof.Machine.execBfxs x1 x2 x3 x4 s
  | .bfi x1 x2 x3 x4 => Sys2Proof.Machine.execBfi x1 x2 x3 x4 s
  | .addpc x1 x2 => Sys2Proof.Machine.execAddpc x1 x2 s
  | .beq x1 x2 x3 => Sys2Proof.Machine.execBeq x1 x2 x3 s
  | .bne x1 x2 x3 => Sys2Proof.Machine.execBne x1 x2 x3 s
  | .blt x1 x2 x3 => Sys2Proof.Machine.execBlt x1 x2 x3 s
  | .bge x1 x2 x3 => Sys2Proof.Machine.execBge x1 x2 x3 s
  | .bltu x1 x2 x3 => Sys2Proof.Machine.execBltu x1 x2 x3 s
  | .bgeu x1 x2 x3 => Sys2Proof.Machine.execBgeu x1 x2 x3 s
  | .j x1 => Sys2Proof.Machine.execJ x1 s
  | .jal x1 => Sys2Proof.Machine.execJal x1 s
  | .jr x1 => Sys2Proof.Machine.execJr x1 s
  | .jalr x1 x2 => Sys2Proof.Machine.execJalr x1 x2 s
  | .loop x1 x2 => Sys2Proof.Machine.execLoop x1 x2 s
  | .ld x1 x2 x3 x4 => Sys2Proof.Machine.execLd x1 x2 x3 x4 s
  | .ldu x1 x2 x3 x4 => Sys2Proof.Machine.execLdu x1 x2 x3 x4 s
  | .st x1 x2 x3 x4 => Sys2Proof.Machine.execSt x1 x2 x3 x4 s
  | .ldl x1 x2 x3 x4 => Sys2Proof.Machine.execLdl x1 x2 x3 x4 s
  | .vadd x1 x2 x3 x4 => Sys2Proof.Machine.execVadd x1 x2 x3 x4 s
  | .vsub x1 x2 x3 x4 => Sys2Proof.Machine.execVsub x1 x2 x3 x4 s
  | .vmul x1 x2 x3 x4 => Sys2Proof.Machine.execVmul x1 x2 x3 x4 s
  | .vdiv x1 x2 x3 x4 => Sys2Proof.Machine.execVdiv x1 x2 x3 x4 s
  | .vmin x1 x2 x3 x4 => Sys2Proof.Machine.execVmin x1 x2 x3 x4 s
  | .vmax x1 x2 x3 x4 => Sys2Proof.Machine.execVmax x1 x2 x3 x4 s
  | .vabs x1 x2 x3 => Sys2Proof.Machine.execVabs x1 x2 x3 s
  | .vneg x1 x2 x3 => Sys2Proof.Machine.execVneg x1 x2 x3 s
  | .vsqrt x1 x2 x3 => Sys2Proof.Machine.execVsqrt x1 x2 x3 s
  | .vrcp x1 x2 x3 => Sys2Proof.Machine.execVrcp x1 x2 x3 s
  | .vrsq x1 x2 x3 => Sys2Proof.Machine.execVrsq x1 x2 x3 s
  | .vexp2 x1 x2 x3 => Sys2Proof.Machine.execVexp2 x1 x2 x3 s
  | .vlog2 x1 x2 x3 => Sys2Proof.Machine.execVlog2 x1 x2 x3 s
  | .vadds x1 x2 x3 x4 => Sys2Proof.Machine.execVadds x1 x2 x3 x4 s
  | .vsubs x1 x2 x3 x4 => Sys2Proof.Machine.execVsubs x1 x2 x3 x4 s
  | .vmulh x1 x2 x3 x4 => Sys2Proof.Machine.execVmulh x1 x2 x3 x4 s
  | .vand x1 x2 x3 x4 => Sys2Proof.Machine.execVand x1 x2 x3 x4 s
  | .vor x1 x2 x3 x4 => Sys2Proof.Machine.execVor x1 x2 x3 x4 s
  | .vxor x1 x2 x3 x4 => Sys2Proof.Machine.execVxor x1 x2 x3 x4 s
  | .vsll x1 x2 x3 x4 => Sys2Proof.Machine.execVsll x1 x2 x3 x4 s
  | .vsrl x1 x2 x3 x4 => Sys2Proof.Machine.execVsrl x1 x2 x3 x4 s
  | .vsra x1 x2 x3 x4 => Sys2Proof.Machine.execVsra x1 x2 x3 x4 s
  | .vmov x1 x2 x3 => Sys2Proof.Machine.execVmov x1 x2 x3 s
  | .vfma x1 x2 x3 x4 x5 => Sys2Proof.Machine.execVfma x1 x2 x3 x4 x5 s
  | .vfms x1 x2 x3 x4 x5 => Sys2Proof.Machine.execVfms x1 x2 x3 x4 x5 s
  | .vfnma x1 x2 x3 x4 x5 => Sys2Proof.Machine.execVfnma x1 x2 x3 x4 x5 s
  | .vfnms x1 x2 x3 x4 x5 => Sys2Proof.Machine.execVfnms x1 x2 x3 x4 x5 s
  | .vdot4 x1 x2 x3 x4 x5 => Sys2Proof.Machine.execVdot4 x1 x2 x3 x4 x5 s
  | .vdot2 x1 x2 x3 x4 x5 => Sys2Proof.Machine.execVdot2 x1 x2 x3 x4 x5 s
  | .vcmp x1 x2 x3 x4 x5 => Sys2Proof.Machine.execVcmp x1 x2 x3 x4 x5 s
  | .vperm x1 x2 x3 x4 => Sys2Proof.Machine.execVperm x1 x2 x3 x4 s
  | .vslup x1 x2 x3 x4 => Sys2Proof.Machine.execVslup x1 x2 x3 x4 s
  | .vsldn x1 x2 x3 x4 => Sys2Proof.Machine.execVsldn x1 x2 x3 x4 s
  | .vbcast x1 x2 x3 x4 => Sys2Proof.Machine.execVbcast x1 x2 x3 x4 s
  | .vext x1 x2 x3 => Sys2Proof.Machine.execVext x1 x2 x3 s
  | .vins x1 x2 x3 => Sys2Proof.Machine.execVins x1 x2 x3 s
  | .vsel x1 x2 x3 x4 => Sys2Proof.Machine.execVsel x1 x2 x3 x4 s
  | .vredsum x1 x2 x3 => Sys2Proof.Machine.execVredsum x1 x2 x3 s
  | .vredmax x1 x2 x3 => Sys2Proof.Machine.execVredmax x1 x2 x3 s
  | .vredmin x1 x2 x3 => Sys2Proof.Machine.execVredmin x1 x2 x3 s
  | .vzip x1 x2 x3 x4 => Sys2Proof.Machine.execVzip x1 x2 x3 x4 s
  | .vunzip x1 x2 x3 x4 => Sys2Proof.Machine.execVunzip x1 x2 x3 x4 s
  | .vcmprs x1 x2 x3 => Sys2Proof.Machine.execVcmprs x1 x2 x3 s
  | .vcvt x1 x2 x3 x4 x5 x6 => Sys2Proof.Machine.execVcvt x1 x2 x3 x4 x5 x6 s
  | .vcvth x1 x2 x3 x4 x5 x6 => Sys2Proof.Machine.execVcvth x1 x2 x3 x4 x5 x6 s
  | .vtag x1 x2 x3 => Sys2Proof.Machine.execVtag x1 x2 x3 s
  | .vtchk x1 x2 => Sys2Proof.Machine.execVtchk x1 x2 s
  | .vshrn8 x1 x2 x3 x4 x5 x6 => Sys2Proof.Machine.execVshrn8 x1 x2 x3 x4 x5 x6 s
  | .vshrn16 x1 x2 x3 x4 x5 x6 => Sys2Proof.Machine.execVshrn16 x1 x2 x3 x4 x5 x6 s
  | .kand x1 x2 x3 => Sys2Proof.Machine.execKand x1 x2 x3 s
  | .kor x1 x2 x3 => Sys2Proof.Machine.execKor x1 x2 x3 s
  | .kxor x1 x2 x3 => Sys2Proof.Machine.execKxor x1 x2 x3 s
  | .kandn x1 x2 x3 => Sys2Proof.Machine.execKandn x1 x2 x3 s
  | .kmovlToMask x1 x2 => Sys2Proof.Machine.execKmovlToMask x1 x2 s
  | .kmovlFromMask x1 x2 => Sys2Proof.Machine.execKmovlFromMask x1 x2 s
  | .kmovhToMask x1 x2 => Sys2Proof.Machine.execKmovhToMask x1 x2 s
  | .kmovhFromMask x1 x2 => Sys2Proof.Machine.execKmovhFromMask x1 x2 s
  | .kpopc x1 x2 => Sys2Proof.Machine.execKpopc x1 x2 s
  | .kfirst x1 x2 => Sys2Proof.Machine.execKfirst x1 x2 s
  | .cbld x1 x2 => Sys2Proof.Machine.execCbld x1 x2 s
  | .cbrd x1 x2 => Sys2Proof.Machine.execCbrd x1 x2 s
  | .fadd x1 x2 x3 x4 => Sys2Proof.Machine.execFadd x1 x2 x3 x4 s
  | .fsub x1 x2 x3 x4 => Sys2Proof.Machine.execFsub x1 x2 x3 x4 s
  | .fmul x1 x2 x3 x4 => Sys2Proof.Machine.execFmul x1 x2 x3 x4 s
  | .fdiv x1 x2 x3 x4 => Sys2Proof.Machine.execFdiv x1 x2 x3 x4 s
  | .fmin x1 x2 x3 => Sys2Proof.Machine.execFmin x1 x2 x3 s
  | .fmax x1 x2 x3 => Sys2Proof.Machine.execFmax x1 x2 x3 s
  | .fsqrt x1 x2 x3 => Sys2Proof.Machine.execFsqrt x1 x2 x3 s
  | .feq x1 x2 x3 => Sys2Proof.Machine.execFeq x1 x2 x3 s
  | .flt x1 x2 x3 => Sys2Proof.Machine.execFlt x1 x2 x3 s
  | .fle x1 x2 x3 => Sys2Proof.Machine.execFle x1 x2 x3 s
  | .fcvt x1 x2 x3 x4 => Sys2Proof.Machine.execFcvt x1 x2 x3 x4 s
  | .fma x1 x2 x3 x4 => Sys2Proof.Machine.execFma x1 x2 x3 x4 s
  | .vld x1 x2 x3 x4 x5 => Sys2Proof.Machine.execVld x1 x2 x3 x4 x5 s
  | .vst x1 x2 x3 x4 x5 => Sys2Proof.Machine.execVst x1 x2 x3 x4 x5 s
  | .vlds x1 x2 x3 x4 x5 => Sys2Proof.Machine.execVlds x1 x2 x3 x4 x5 s
  | .vsts x1 x2 x3 x4 x5 => Sys2Proof.Machine.execVsts x1 x2 x3 x4 x5 s
  | .vldx x1 x2 x3 x4 x5 => Sys2Proof.Machine.execVldx x1 x2 x3 x4 x5 s
  | .vstx x1 x2 x3 x4 x5 => Sys2Proof.Machine.execVstx x1 x2 x3 x4 x5 s
  | .vldb x1 x2 x3 x4 => Sys2Proof.Machine.execVldb x1 x2 x3 x4 s
  | .spillm x1 x2 x3 => Sys2Proof.Machine.execSpillm x1 x2 x3 s
  | .fillm x1 x2 x3 => Sys2Proof.Machine.execFillm x1 x2 x3 s
  | .vspill x1 x2 x3 => Sys2Proof.Machine.execVspill x1 x2 x3 s
  | .vfill x1 x2 x3 => Sys2Proof.Machine.execVfill x1 x2 x3 s
  | .frame x1 => Sys2Proof.Machine.execFrame x1 s
  | .unframe => Sys2Proof.Machine.execUnframe s
  | .wprd x1 x2 => Sys2Proof.Machine.execWprd x1 x2 s
  | .wpwait x1 x2 => Sys2Proof.Machine.execWpwait x1 x2 s
  | .cpy x1 x2 x3 => Sys2Proof.Machine.execCpy x1 x2 x3 s
  | .cpym x1 x2 x3 => Sys2Proof.Machine.execCpym x1 x2 x3 s
  | .cpyq x1 x2 x3 x4 => Sys2Proof.Machine.execCpyq x1 x2 x3 x4 s
  | .mtcfg x1 x2 => Sys2Proof.Machine.execMtcfg x1 x2 s
  | .amo x1 x2 x3 x4 x5 => Sys2Proof.Machine.execAmo x1 x2 x3 x4 x5 s
  | .amocas x1 x2 x3 x4 => Sys2Proof.Machine.execAmocas x1 x2 x3 x4 s
  | .amof x1 x2 x3 x4 => Sys2Proof.Machine.execAmof x1 x2 x3 x4 s
  | .red x1 x2 x3 x4 => Sys2Proof.Machine.execRed x1 x2 x3 x4 s
  | .fence x1 => Sys2Proof.Machine.execFence x1 s
  | .waita x1 x2 x3 x4 => Sys2Proof.Machine.execWaita x1 x2 x3 x4 s
  | .pref x1 x2 => Sys2Proof.Machine.execPref x1 x2 s
  | .get x1 x2 x3 => Sys2Proof.Machine.execGet x1 x2 x3 s
  | .put x1 x2 x3 => Sys2Proof.Machine.execPut x1 x2 x3 s
  | .arrive x1 => Sys2Proof.Machine.execArrive x1 s
  | .wait x1 => Sys2Proof.Machine.execWait x1 s
  | .btest x1 x2 => Sys2Proof.Machine.execBtest x1 x2 s
  | .bmem x1 => Sys2Proof.Machine.execBmem x1 s
  | .phase x1 => Sys2Proof.Machine.execPhase x1 s
  | .domain x1 x2 => Sys2Proof.Machine.execDomain x1 x2 s
  | .mma x1 x2 x3 x4 x5 x6 x7 x8 x9 x10 x11 => Sys2Proof.Machine.execMma x1 x2 x3 x4 x5 x6 x7 x8 x9 x10 x11 s
  | .mmac x1 x2 x3 x4 x5 x6 x7 x8 x9 x10 x11 => Sys2Proof.Machine.execMmac x1 x2 x3 x4 x5 x6 x7 x8 x9 x10 x11 s
  | .mzero x1 x2 => Sys2Proof.Machine.execMzero x1 x2 s
  | .mrd x1 x2 x3 x4 x5 x6 x7 x8 x9 x10 => Sys2Proof.Machine.execMrd x1 x2 x3 x4 x5 x6 x7 x8 x9 x10 s
  | .mwr x1 x2 x3 x4 => Sys2Proof.Machine.execMwr x1 x2 x3 x4 s
  | .mscl x1 x2 x3 => Sys2Proof.Machine.execMscl x1 x2 x3 s
  | .mwait x1 => Sys2Proof.Machine.execMwait x1 s
  | .mlic x1 x2 => Sys2Proof.Machine.execMlic x1 x2 s
  | .mrel => Sys2Proof.Machine.execMrel s
  | .twx x1 => Sys2Proof.Machine.execTwx x1 s
  | .hrd x1 x2 => Sys2Proof.Machine.execHrd x1 x2 s
  | .hwr x1 x2 => Sys2Proof.Machine.execHwr x1 x2 s
  | .spld x1 x2 x3 => Sys2Proof.Machine.execSpld x1 x2 x3 s
  | .spst x1 x2 x3 => Sys2Proof.Machine.execSpst x1 x2 x3 s
  | .spup x1 x2 x3 x4 x5 x6 => Sys2Proof.Machine.execSpup x1 x2 x3 x4 x5 x6 s
  | .spdn x1 x2 x3 x4 x5 x6 => Sys2Proof.Machine.execSpdn x1 x2 x3 x4 x5 x6 s
  | .spmode x1 => Sys2Proof.Machine.execSpmode x1 s
  | .spnrm x1 x2 x3 => Sys2Proof.Machine.execSpnrm x1 x2 x3 s
  | .spwait x1 => Sys2Proof.Machine.execSpwait x1 s
  | .migr x1 x2 x3 => Sys2Proof.Machine.execMigr x1 x2 x3 s
  | .heat x1 x2 => Sys2Proof.Machine.execHeat x1 x2 s
  | .tqry x1 x2 => Sys2Proof.Machine.execTqry x1 x2 s
  | .mfs x1 x2 => Sys2Proof.Machine.execMfs x1 x2 s
  | .mts x1 x2 => Sys2Proof.Machine.execMts x1 x2 s
  | .trap x1 => Sys2Proof.Machine.execTrap x1 s
  | .eret => Sys2Proof.Machine.execEret s
  | .halt => Sys2Proof.Machine.execHalt s
  | .haltRetain x1 => Sys2Proof.Machine.execHaltRetain x1 s
  | .rope x1 x2 => Sys2Proof.Machine.execRope x1 x2 s
  | .split => Sys2Proof.Machine.execSplit s
  | .cairn x1 => Sys2Proof.Machine.execCairn x1 s
  | .yield x1 => Sys2Proof.Machine.execYield x1 s
  | .mbxrd x1 x2 => Sys2Proof.Machine.execMbxrd x1 x2 s
  | .mbxwrRetry x1 => Sys2Proof.Machine.execMbxwrRetry x1 s
  | .mbxwrRefuse x1 => Sys2Proof.Machine.execMbxwrRefuse x1 s
  | .rltokRange x1 x2 x3 x4 => Sys2Proof.Machine.execRltokRange x1 x2 x3 x4 s
  | .rltokFunc x1 x2 x3 => Sys2Proof.Machine.execRltokFunc x1 x2 x3 s
  | .rltokPart x1 => Sys2Proof.Machine.execRltokPart x1 s
  | .launchInstall x1 x2 => Sys2Proof.Machine.execLaunchInstall x1 x2 s
  | .launchPacket x1 x2 => Sys2Proof.Machine.execLaunchPacket x1 x2 s
  | .launchPreempt x1 x2 => Sys2Proof.Machine.execLaunchPreempt x1 x2 s
  | .launchAbort x1 x2 => Sys2Proof.Machine.execLaunchAbort x1 x2 s
  | .launchUnretain x1 x2 => Sys2Proof.Machine.execLaunchUnretain x1 x2 s
  | .pstat x1 => Sys2Proof.Machine.execPstat x1 s
  | .ptry x1 x2 x3 => Sys2Proof.Machine.execPtry x1 x2 x3 s
  | .dsend x1 x2 => Sys2Proof.Machine.execDsend x1 x2 s
  | .drecv x1 x2 => Sys2Proof.Machine.execDrecv x1 x2 s
  | .launchPacketArrival x1 => Sys2Proof.Machine.execLaunchPacketArrival x1 s
  | .threadCreation x1 x2 => Sys2Proof.Machine.execThreadCreation x1 x2 s
  | .yieldExpiry x1 x2 => Sys2Proof.Machine.execYieldExpiry x1 x2 s
  | .segmentAttempt x1 x2 => Sys2Proof.Machine.execSegmentAttempt x1 x2 s
  | .crossingWordArrival x1 x2 x3 => Sys2Proof.Machine.execCrossingWordArrival x1 x2 x3 s
  | .streamFetch x1 => Sys2Proof.Machine.execStreamFetch x1 s
  | .userMessageArrival x1 x2 => Sys2Proof.Machine.execUserMessageArrival x1 x2 s
  | .copyPiece x1 x2 => Sys2Proof.Machine.execCopyPiece x1 x2 s
  | .copyErrClear x1 x2 => Sys2Proof.Machine.execCopyErrClear x1 x2 s
  | .cpymFollowOn x1 x2 => Sys2Proof.Machine.execCpymFollowOn x1 x2 s
  | .cpyqSetRelease x1 x2 => Sys2Proof.Machine.execCpyqSetRelease x1 x2 s
  | .plainStorePerform x1 x2 x3 => Sys2Proof.Machine.execPlainStorePerform x1 x2 x3 s
  | .redPerform x1 x2 x3 => Sys2Proof.Machine.execRedPerform x1 x2 x3 s
  | .waitaTimeout x1 x2 => Sys2Proof.Machine.execWaitaTimeout x1 x2 s
  | .predictorDecay x1 x2 => Sys2Proof.Machine.execPredictorDecay x1 x2 s
  | .walkEnd x1 x2 => Sys2Proof.Machine.execWalkEnd x1 x2 s
  | .tokenPass x1 x2 => Sys2Proof.Machine.execTokenPass x1 x2 s
  | .mailboxArrival x1 => Sys2Proof.Machine.execMailboxArrival x1 s
  | .faultReply x1 => Sys2Proof.Machine.execFaultReply x1 s
  | .sectorCacheAccess x1 x2 x3 => Sys2Proof.Machine.execSectorCacheAccess x1 x2 x3 s
  | .traverseLineCopy x1 x2 => Sys2Proof.Machine.execTraverseLineCopy x1 x2 s
  | .traverseFinish x1 x2 => Sys2Proof.Machine.execTraverseFinish x1 x2 s
  | .traverseAbort x1 x2 x3 => Sys2Proof.Machine.execTraverseAbort x1 x2 x3 s
  | .heatReport x1 x2 => Sys2Proof.Machine.execHeatReport x1 x2 s
  | .offreqLayer x1 x2 => Sys2Proof.Machine.execOffreqLayer x1 x2 s
  | .offreqDie x1 x2 => Sys2Proof.Machine.execOffreqDie x1 x2 s
  | .layerRemoved x1 => Sys2Proof.Machine.execLayerRemoved x1 s
  | .dieOfflineDone x1 => Sys2Proof.Machine.execDieOfflineDone x1 s
  | .matrixCommandComplete x1 => Sys2Proof.Machine.execMatrixCommandComplete x1 s
  | .spCommandAccept x1 => Sys2Proof.Machine.execSpCommandAccept x1 s
  | .spCommandComplete x1 => Sys2Proof.Machine.execSpCommandComplete x1 s
  | .episodeRelease x1 x2 x3 x4 x5 => Sys2Proof.Machine.execEpisodeRelease x1 x2 x3 x4 x5 s
  | .summitSweep x1 => Sys2Proof.Machine.execSummitSweep x1 s
  | .qtailWrite x1 x2 x3 => Sys2Proof.Machine.execQtailWrite x1 x2 x3 s
  | .qctlWrite x1 x2 x3 => Sys2Proof.Machine.execQctlWrite x1 x2 x3 s
  | .qstatSkip x1 x2 => Sys2Proof.Machine.execQstatSkip x1 x2 s
  | .qstatErrClear x1 x2 => Sys2Proof.Machine.execQstatErrClear x1 x2 s
  | .qstatOvfClear x1 x2 => Sys2Proof.Machine.execQstatOvfClear x1 x2 s
  | .launchReady x1 x2 => Sys2Proof.Machine.execLaunchReady x1 x2 s
  | .stagingDeadline x1 x2 => Sys2Proof.Machine.execStagingDeadline x1 x2 s
  | .placementTurn x1 => Sys2Proof.Machine.execPlacementTurn x1 s
  | .reservation x1 x2 => Sys2Proof.Machine.execReservation x1 x2 s
  | .reservationPreempt x1 => Sys2Proof.Machine.execReservationPreempt x1 s
  | .forcedHalt x1 => Sys2Proof.Machine.execForcedHalt x1 s
  | .regionSave x1 => Sys2Proof.Machine.execRegionSave x1 s
  | .budgetPeriod x1 x2 x3 x4 => Sys2Proof.Machine.execBudgetPeriod x1 x2 x3 x4 s
  | .sagDetect x1 x2 => Sys2Proof.Machine.execSagDetect x1 x2 s
  | .linkRetrain x1 x2 x3 => Sys2Proof.Machine.execLinkRetrain x1 x2 x3 s
  | .slackWindow x1 x2 x3 => Sys2Proof.Machine.execSlackWindow x1 x2 x3 s
  | .mergeRequest x1 x2 => Sys2Proof.Machine.execMergeRequest x1 x2 s
  | .mergeExecute x1 => Sys2Proof.Machine.execMergeExecute x1 s
  | .mergeDeadline x1 => Sys2Proof.Machine.execMergeDeadline x1 s
  | .getVersion x1 => Sys2Proof.Machine.execGetVersion x1 s
  | .getCapabilities x1 => Sys2Proof.Machine.execGetCapabilities x1 s
  | .negotiateAlgorithms x1 x2 => Sys2Proof.Machine.execNegotiateAlgorithms x1 x2 s
  | .getDigests x1 => Sys2Proof.Machine.execGetDigests x1 s
  | .getCertificate x1 => Sys2Proof.Machine.execGetCertificate x1 s
  | .challenge x1 x2 => Sys2Proof.Machine.execChallenge x1 x2 s
  | .getMeasurements x1 x2 => Sys2Proof.Machine.execGetMeasurements x1 x2 s
  | .keyExchange x1 x2 => Sys2Proof.Machine.execKeyExchange x1 x2 s
  | .finish x1 x2 => Sys2Proof.Machine.execFinish x1 x2 s
  | .lockInterface x1 x2 => Sys2Proof.Machine.execLockInterface x1 x2 s
  | .tdispLockBreach x1 x2 => Sys2Proof.Machine.execTdispLockBreach x1 x2 s
  | .debugPolicyAccept x1 x2 x3 x4 => Sys2Proof.Machine.execDebugPolicyAccept x1 x2 x3 x4 s
  | .dbgHaltreq x1 x2 => Sys2Proof.Machine.execDbgHaltreq x1 x2 s
  | .dbgTraceen x1 x2 => Sys2Proof.Machine.execDbgTraceen x1 x2 s
  | .dbgPerfen x1 x2 => Sys2Proof.Machine.execDbgPerfen x1 x2 s
  | .registerWrite x1 x2 x3 x4 => Sys2Proof.Machine.execRegisterWrite x1 x2 x3 x4 s
  | .moduleReset x1 x2 x3 x4 x5 => Sys2Proof.Machine.execModuleReset x1 x2 x3 x4 x5 s
  | .memoryReply x1 x2 => Sys2Proof.Machine.execMemoryReply x1 x2 s
  | .partitionReset x1 => Sys2Proof.Machine.execPartitionReset x1 s
  | .hostPortWrite x1 x2 x3 => Sys2Proof.Machine.execHostPortWrite x1 x2 x3 s
  | .functionReadinessChange x1 x2 x3 x4 => Sys2Proof.Machine.execFunctionReadinessChange x1 x2 x3 x4 s
  | .startInterface x1 x2 => Sys2Proof.Machine.execStartInterface x1 x2 s
  | .stopInterface x1 x2 => Sys2Proof.Machine.execStopInterface x1 x2 s
  | .numvfsWrite x1 x2 => Sys2Proof.Machine.execNumvfsWrite x1 x2 s

end Sys2Proof.Machine
end

