-- ==== Sys2Proof/Machine/Run.lean ====
section
/-! DEFINITION. Turns: which threads a core may issue, a thread's turn with its fetch and its rope, a core's own choice, events of
the device, and the end of a cycle (R63, R75 to R85, R111, R219, R252, R268, R294, R298, R318, R335, R340). -/
namespace Sys2Proof.Machine

/-! ### Outcomes in sequence -/

/-- Goes on from a next state. -/
def andThen (o : Host.Outcome State Fault Refusal) (f : State → Host.Outcome State Fault Refusal) : Host.Outcome State Fault Refusal :=
  match o with
  | .next s => f s
  | .fault r => .fault r
  | .refused r => .refused r

/-- The state that an outcome reaches, or the one before. -/
def reached (s : State) (o : Host.Outcome State Fault Refusal) : State :=
  match o with
  | .next t => t
  | _ => s

/-- Runs work for each element of a list, one after the other. -/
def eachTurn {α : Type} (f : α → State → Host.Outcome State Fault Refusal) : List α → State → Host.Outcome State Fault Refusal
  | [], s => .next s
  | x :: rest, s => andThen (f x s) (eachTurn f rest)

/-! ### Which threads may issue (R75, R77, R80, R335, R340) -/

/-- May a thread with this wait execute its instruction again? The others wait for a step that ends the wait. -/
def resumable : Wait → Bool
  | .reply | .walk _ _ _ _ | .fault _ | .threadFault _ | .otair | .monitor _ _ _ | .matrix _ | .spwait _ | .spAccept _ | .token _
  | .licence | .rope _ _ | .twx _ | .packet => false
  | _ => true

/-- Does a restored core wait for the grant of the licence that its contexts held (R252)? -/
def arrayDue (s : State) (core : Nat) : Bool := !isService core && coreHeld s core

/-- Is a thread ready in this cycle, whatever its instruction and whatever the DUTY of its core? -/
def threadPoised (s : State) (t : ThreadRef) : Bool :=
  let x := getThread s t
  x.slotState == .live && resumable x.wait && decide (x.yieldLeft ≤ 1) && coreAdvances s t.core && !slotIssued s t && !arrayDue s t.core

/-- Is a thread ready in this cycle, whatever its instruction? Fetch gating stops new instructions only: one that has begun goes
on (R340). -/
def threadReady (s : State) (t : ThreadRef) : Bool :=
  threadPoised s t && (!unbegunWait (getThread s t).wait || fetchEnabled s t.core)

/-! ### One thread's instruction -/

/-- The trap of a thread whose fault message was refused: Bivouac Limit for the header that FRAME writes at N in the overflow
area, else Address (R163, R219). -/
def refusedTrap (s : State) (t : ThreadRef) (va : Word) : State :=
  match nextInstr { s with defer := false } t with
  | (_, .ok (.frame _)) => if va = (getThread s t).bivovf then takeTrap s t causeBivouac va else takeTrap s t causeAddress va
  | _ => takeTrap s t causeAddress va

/-- Has the thread stopped short of completing its instruction? -/
def stillWaits (s : State) (t : ThreadRef) : Bool :=
  match (getThread s t).wait with
  | .none => false
  | .threadFault _ => false
  | .otair => false
  | _ => true

/-- What follows an instruction: its place in the cycle, and the stop of a region halted by force (R75, R326). An instruction
that is not ready takes its slot's turn and no issue path. -/
def afterIssue (s : State) (t : ThreadRef) (path : Nat) : State :=
  let s := markIssued s t (if stillWaits s t && unbegunWait (getThread s t).wait then 3 else path)
  if regionForced s t then stopForced s t else s

/-- Executes an instruction in a thread's name; one that has begun and waits is kept. -/
def execAs (i : Instr) (t : ThreadRef) (s : State) : Host.Outcome State Fault Refusal :=
  andThen (exec i { s with cur := t }) fun r => .next (noteBegun i t r)

/-- What a thread's instruction does in the current cycle, whatever else its core issues. -/
def trial (s : State) (t : ThreadRef) : State :=
  match nextInstr { s with cur := t, defer := false } t with
  | (u, .ok i) => reached u (execAs i t u)
  | (u, .error (.trap c v)) => takeTrap u t c v
  | (u, .error (.block w)) => blockThread u t w

/-- Can a thread's instruction issue in this cycle, on every member of its rope (R75, R81)? -/
def canIssue (s : State) (t : ThreadRef) : Bool := (ropeMembers s t).all fun u => threadReady s u && !stillWaits (trial s u) u

/-- The issue path that a thread's instruction takes now: none for one that has begun before (R75). -/
def pathOf (s : State) (t : ThreadRef) (i : Instr) : Nat := if unbegunWait (getThread s t).wait then issuePath i else 3

/-- May the core issue on the path in this cycle? -/
def pathOpen (s : State) (core path : Nat) : Bool := decide (path = 3) || pathFree s core path

/-- The values that two operands give a thread's instruction, read in order; those of ports are the words at their heads. -/
def operandPair (s : State) (t : ThreadRef) (a b : Reg) : Word × Word :=
  let m : M (Word × Word) := do
    let x ← readG a
    let y ← readG b
    pure (x, y)
  match m { s with cur := t } with
  | .ok (p, _) => p
  | .error _ => (0, 0)

/-! ### Port directions (R110, R127) -/

/-- The direction that a PTRY holds from issue to retirement, be its FIFO empty (R150). -/
def ptryDir (s : State) (t : ThreadRef) : Instr → Option Nat
  | .ptry _ _ a =>
    let v := (operandPair s t a 0).1.toNat % 8
    if 1 ≤ v ∧ v ≤ 5 then some (v - 1) else none
  | _ => none

/-- The directions that an instruction of a thread has popped, pushed or still holds, and the one that a PTRY held. -/
def touchedDirs (i : Instr) (before after : State) (t : ThreadRef) : List Nat :=
  let b := getSwitch before t.core
  let a := getSwitch after t.core
  (List.range 5).filter fun d =>
    amFind a.recv d != amFind b.recv d || amFind a.send d != amFind b.send d || ((amFind (getCore after t.core).portHold d).any fun h => h.slot == t.slot) ||
      ptryDir before t i == some d && !stillWaits after t

/-- The directions that instructions of the core have named in this cycle. -/
def dirsNow (s : State) (core : Nat) : List Nat := if (getCore s core).issueAt = s.cycle then (getCore s core).dirs else []

/-- The slots after the one that last issued. -/
def slotsAfter (last : Nat) : List Nat := (List.range 4).map fun i => (last + 1 + i) % 4

/-- The directions that a thread names if it is ready with an instruction of the class, and its path is open. -/
def readyDirs (s : State) (vec : Bool) (t : ThreadRef) : List Nat :=
  match nextInstr { s with defer := false } t with
  | (u, .ok i) =>
    if threadReady s t && isVectorClass i == vec && (!vec || pathOpen s t.core (pathOf s t i)) && canIssue s t then touchedDirs i u (trial s t) t
    else []
  | _ => []

/-- Does a ready instruction go before one of the vector class that names the direction: one of the scalar class, or one of the
vector class that the vector pointer selects first? -/
def dirYields (s : State) (t : ThreadRef) (d : Nat) : Bool :=
  let names (vec : Bool) (i : Nat) : Bool := i != t.slot && (readyDirs s vec { core := t.core, slot := i }).contains d
  (List.range 4).any (names false) || ((slotsAfter (getCore s t.core).lastVector).takeWhile fun i => i != t.slot).any (names true)

/-- May an instruction that names these directions issue beside the others of the core: none has named one of them in this cycle, and
none that goes before it is ready? -/
def dirsFree (s : State) (t : ThreadRef) (path : Nat) (dirs : List Nat) : Bool :=
  dirs.all fun d => !(dirsNow s t.core).contains d && (path != 1 && path != 2 || !dirYields s t d)

/-- The directions of an instruction that has issued count for the rest of the cycle. -/
def noteDirs (s : State) (core : Nat) (dirs : List Nat) : State :=
  match dirs with
  | [] => s
  | _ => modCore s core fun c => { c with dirs := c.dirs ++ dirs }

/-! ### An unroped thread -/

/-- An unroped thread executes its fetched instruction. -/
def issueAlone (i : Instr) (t : ThreadRef) (s : State) : Host.Outcome State Fault Refusal :=
  let path := pathOf s t i
  if !pathOpen s t.core path then .next s
  else
    andThen (execAs i t s) fun r =>
      let dirs := touchedDirs i s r t
      .next (if dirsFree s t path dirs then noteDirs (afterIssue r t path) t.core dirs else s)

/-- Fetches and executes for one unroped thread. -/
def runAlone (t : ThreadRef) (s : State) : Host.Outcome State Fault Refusal :=
  match nextInstr s t with
  | (s, .error (.trap c v)) => .next (afterIssue (takeTrap s t c v) t 0)
  | (s, .error (.block w)) => .next (afterIssue (blockThread s t w) t 3)
  | (s, .ok i) => issueAlone i t s

/-! ### Ropes (R81 to R84) -/

/-- What R83 compares of an instruction's outcome: taken or not, or the target. -/
def ropeOutcome (s : State) (t : ThreadRef) (i : Instr) : Word :=
  let test (a b : Reg) (f : Word → Word → Bool) : Word := boolWord (f (operandPair s t a b).1 (operandPair s t a b).2)
  match i with
  | .beq a b _ => test a b fun x y => x == y
  | .bne a b _ => test a b fun x y => x != y
  | .blt a b _ => test a b fun x y => x.slt y
  | .bge a b _ => test a b fun x y => !x.slt y
  | .bltu a b _ => test a b fun x y => x.ult y
  | .bgeu a b _ => test a b fun x y => !x.ult y
  | .loop a _ => test a 0 fun x _ => x - 1 != 0
  | .jr a => (operandPair s t a 0).1
  | .jalr _ a => (operandPair s t a 0).1
  | _ => 0

/-- Do the outcomes differ among the members (R83)? DEDUCED: an instruction outside R83's table whose members go on at different PCs,
an ERET with different TRAPPCs, splits the rope too, since members of a rope issue at one PC (R81; log entry 29). -/
def outcomesDiffer (before after : State) (i : Instr) (ts : List ThreadRef) : Bool :=
  let pcs := ts.map fun t => (getThread after t).pc
  let outs := ts.map fun t => ropeOutcome before t i
  !(pcs.all fun p => some p == pcs.head?) || !(outs.all fun o => some o == outs.head?)

/-- Forms in which each member of a rope waits for itself (R269, R297). -/
def waitsForItself : Instr → Bool
  | .arrive _ => true
  | .wait _ => true
  | .phase _ => true
  | .twx _ => true
  | _ => false

/-- The members of a rope execute an instruction in lock-step: while one of them is not ready none begins, and its wait alone is noted;
while any must wait, only its request is made; once all can complete, all do, and the rope splits where their outcomes differ.
DEDUCED: so an MLIC that must wait on one member takes no other member's free licence until all can complete (R249; log entry 29). -/
def issueRope (i : Instr) (ts : List ThreadRef) (s : State) : Host.Outcome State Fault Refusal :=
  let after (t : ThreadRef) : State := reached s (execAs i t s)
  let waits := ts.filter fun t => stillWaits (after t) t
  let unready := waits.filter fun t => unbegunWait (getThread (after t) t).wait
  if !waits.isEmpty then
    eachTurn (fun t s => andThen (execAs i t s) fun s => .next (afterIssue s t 3)) (if unready.isEmpty then waits else unready) s
  else
    andThen (eachTurn (execAs i) ts s) fun r =>
      if ts.any (stillWaits r) || ts.any fun t => !dirsFree s t (pathOf s t i) (touchedDirs i s r t) then .next s
      else
        let r' := if outcomesDiffer s r i ts then ts.foldl (fun s t => dissolveRope s t) r else r
        .next (ts.foldl (fun x t => noteDirs (afterIssue x t (pathOf s t i)) t.core (touchedDirs i s r t)) r')

/-- The members of a rope that still have to complete an instruction which others have completed. -/
def ropeBehind (s : State) (ts : List ThreadRef) : List ThreadRef :=
  ts.filter fun t => ts.any fun u => (getThread s u).pc == (getThread s t).pc + 4

/-- The member of a rope whose fault message was refused, if it may act: it takes the trap, and the rope ceases to exist (R84, R219). -/
def refusedMember (s : State) (ts : List ThreadRef) : Option (ThreadRef × Word) :=
  ts.findSome? fun t =>
    match (getThread s t).wait with
    | .refused va => if threadReady s t then some (t, va) else none
    | _ => none

/-- A rope's turn: the leader fetches for all. DEDUCED: a trap of that fetch is one of every member (R84; log entry 29). -/
def runRope (ts : List ThreadRef) (leader : ThreadRef) (s : State) : Host.Outcome State Fault Refusal :=
  let behind := ropeBehind s ts
  if !behind.isEmpty then eachTurn (fun t s => if threadReady s t then runAlone t s else .next s) behind s
  else if let some (t, va) := refusedMember s ts then .next (afterIssue (refusedTrap s t va) t 0)
  else if ts.all fun t => threadReady s t then
    match nextInstr s leader with
    | (s, .error (.trap c v)) => .next (ts.foldl (fun s t => afterIssue (takeTrap s t c v) t 0) s)
    | (s, .error (.block w)) => .next (afterIssue (blockThread s leader w) leader 3)
    | (s, .ok i) =>
      if !(ts.all fun t => pathOpen s t.core (pathOf s t i)) then .next s
      else if waitsForItself i then eachTurn (issueAlone i) ts s
      else issueRope i ts s
  else .next s

/-! ### A thread's turn -/

/-- The slots and cores of the part (R3, R71, R91): a thread stands in slot 0 to 3 of a compute tile or a service core. -/
def threadExists (t : ThreadRef) : Bool :=
  decide (t.slot < 4) &&
    (if isService t.core then decide (t.core < serviceBase + 32)
     else decide (rowOf t.core < 24) && (rowOf t.core + colOf t.core) % 2 == 0)

/-- Is the thread's next instruction of the class? A fetch that fails counts in the scalar class. -/
def nextInClass (s : State) (vec : Bool) (t : ThreadRef) : Bool :=
  match nextInstr { s with defer := false } t with
  | (_, .ok i) => isVectorClass i == vec
  | _ => !vec

/-- Is another thread of the core ready in this cycle, or has one issued in it (R80)? -/
def otherReady (s : State) (t : ThreadRef) : Bool :=
  (issuedNow s t.core).any (fun p => p.1 != t.slot && p.2 != 3) ||
    (List.range 4).any fun i => i != t.slot && canIssue s { core := t.core, slot := i }

/-- The YIELD of zero that a class's next choice still has to take into account. -/
def passMark (vec : Bool) (x : Thread) : Option Nat := if vec then x.passVector else x.passScalar

/-- The context without that mark. -/
def clearPass (vec : Bool) (x : Thread) : Thread := if vec then { x with passVector := none } else { x with passScalar := none }

/-- Does the choice of this cycle come after a YIELD of zero of the thread (R80)? -/
def passPending (s : State) (t : ThreadRef) (vec : Bool) : Bool := (passMark vec (getThread s t)).any fun c => decide (c < s.cycle)

/-- A thread's or a rope's instruction. -/
def issueTurn (t : ThreadRef) (s : State) : Host.Outcome State Fault Refusal :=
  let x := getThread s t
  match x.wait with
  | .refused va => .next (afterIssue (refusedTrap s t va) t 0)
  | _ =>
    if isRoped x then (if ropeRank x = 0 then runRope (ropeMembers s t) t s else .next s)
    else runAlone t s

/-- A ready thread's turn. A YIELD of zero passes it over at the next choice of its class while another thread of its core is
ready (R80). -/
def readyTurn (t : ThreadRef) (s : State) : Host.Outcome State Fault Refusal :=
  let vec := nextInClass s true t
  if passPending s t vec then
    let ts := ropeMembers s t
    let u := ts.foldl (fun s t => modThread s t (clearPass vec)) s
    if ts.any (otherReady s) then .next (ts.foldl (fun s t => markIssued s t 3) u) else issueTurn t u
  else issueTurn t s

/-- The thread that a core chooses in the scalar class of this cycle (R75); a second's slot follows its leader's core (R81). -/
def scalarChoice (s : State) (core : Nat) : Option ThreadRef :=
  if pathFree s core 0 then
    ((slotsAfter (getCore s core).lastScalar).map fun i => ({ core := core, slot := i } : ThreadRef)).find? fun u =>
      ropeRank (getThread s u) == 0 && nextInClass s false u && canIssue s u
  else none

/-- Is a thread's next instruction an MLIC? -/
def nextIsMlic (s : State) (t : ThreadRef) : Bool :=
  match nextInstr { s with defer := false } t with
  | (_, .ok (.mlic _ _)) => true
  | _ => false

/-- The threads and leaders of lower twins that meet a free licence in the same cycle as an MLIC of the upper ones of a turn: they go
first (R249). -/
def contenders (s : State) (t : ThreadRef) : List ThreadRef :=
  if !nextIsMlic s t then []
  else
    let pairs := ((ropeMembers s t).map (·.core)).filter fun k => !isService k && sideOf k == 2 && (getPair s (pairKey k)).holder == 0
    (pairs.flatMap fun k => (List.range 4).filterMap fun i =>
      let u : ThreadRef := { core := twinOf k, slot := i }
      let lead := (ropeMembers s u).headD u
      if nextIsMlic s u && scalarChoice s lead.core == some lead then some lead else none).eraseDups

/-- A thread's turn: nothing where it is not ready. `late` says that answers of memory and translation come as steps of their
own (R76). -/
def threadTurn (late : Bool) (t : ThreadRef) (s : State) : Host.Outcome State Fault Refusal :=
  if !threadExists t then .fault .noSuchThread
  else if threadReady s t then
    let s := { s with defer := late, cur := t }
    andThen (eachTurn readyTurn (contenders s t) s) (readyTurn t)
  else .next s

/-! ### Bank conflicts (R156) -/

/-- The addresses at which an instruction of a thread reads or writes memory as the thread's own access. -/
def accessAddrs (s : State) (t : ThreadRef) (i : Instr) : List Word :=
  let x := getThread s t
  let a1 (a : Reg) : Word := (operandPair s t a 0).1
  let elems (k : MReg) (tag : Tag) (addr : Nat → Word) : List Word := (enabledElems tag (kValue x k).toNat).map addr
  let span (a : Reg) (tag : Tag) (k : MReg) (imm : BitVec 8) : List Word :=
    (enabledRuns (byteEnabled tag (kValue x k).toNat) (vecBytes tag)).map fun r => above (vectorEa (a1 a) imm) r.1
  match i with
  | .ld _ a _ imm | .ldu _ a _ imm | .st _ a _ imm | .ldl _ a _ imm => [scalarEa (a1 a) imm]
  | .vld _ a tag k imm | .vst _ a tag k imm => span a tag k imm
  | .vlds _ a b k tag | .vsts _ a b k tag => let p := operandPair s t a b; elems k tag (strideAddr p.1 p.2)
  | .vldx _ a b k tag | .vstx _ a b k tag => elems k tag (indexAddr (a1 a) (elemBytes tag) (vValue x b))
  | .vldb _ a k tag => elems k tag fun _ => a1 a
  | .spillm _ a _ | .fillm _ a _ | .vspill _ a _ | .vfill _ a _ => [a1 a]
  | .frame a => let g := gValue x 30; [if noFrame g then placeFrame x (some g.toNat) (a1 a) else g]
  | .unframe => [gValue x 30]
  | .amo _ a _ _ _ | .amocas _ a _ _ | .amof _ a _ _ | .red a _ _ _ => [a1 a]
  | .get a _ _ => [a1 a]
  | .put _ b _ => [(operandPair s t 0 b).2]
  | .cpy a _ _ | .cpym a _ _ | .cpyq a _ _ _ | .mtcfg a _ => [a1 a]
  | _ => []

/-- Does an address lie in a banked object: a scratchpad or a memory tile's SRAM? -/
def isBanked (ea : Word) : Bool := isLocal ea && decide (localKind ea ≤ 2)

/-- Would a thread's instruction retire in this cycle with an access to a bank? One that waits or traps takes none. -/
def takesBank (s : State) (t : ThreadRef) : Bool :=
  match nextInstr { s with defer := false } t with
  | (u, .ok i) =>
    let r := trial s t
    let pc := (getThread s t).pc
    (accessAddrs u t i).any isBanked && !stillWaits r t && ((getThread r t).pc == pc + 4 || (getThread r t).pc == pc + 8)
  | _ => false

/-- A ready thread's access that a bank conflict refuses in this cycle: the instruction is not ready, and no member of its rope issues
(R81, R156). -/
def conflictTurn (t : ThreadRef) (s : State) : Host.Outcome State Fault Refusal :=
  if !threadExists t then .fault .noSuchThread
  else if threadReady s t && unbegunWait (getThread s t).wait && takesBank s t then
    .next ((ropeMembers s t).foldl (fun s u => markIssued s u 3) (blockThread s t .bank))
  else .next s

/-- An access of the switch to a memory tile's SRAM that a bank conflict refuses in this cycle: the row cannot be performed (R140, R156). -/
def rowConflictTurn (tile : Nat) (s : State) : State := modTile s tile fun x => { x with refusedAt := some s.cycle }

/-! ### A core's own choice (R75) -/

/-- One thread's turn in a class. -/
def classTurn (core : Nat) (vec : Bool) (slot : Nat) (s : State) : Host.Outcome State Fault Refusal :=
  let t : ThreadRef := { core := core, slot := slot }
  if threadReady s t && nextInClass s vec t then threadTurn s.defer t s else .next s

/-- A core's cycle: the scalar class in its round-robin order, then the vector class in its own (R75, R110). -/
def coreTurn (core : Nat) (s : State) : Host.Outcome State Fault Refusal :=
  if !threadExists { core := core, slot := 0 } then .fault .noSuchThread
  else
    let c := getCore s core
    andThen (eachTurn (classTurn core false) (slotsAfter c.lastScalar) { s with defer := false })
      (eachTurn (classTurn core true) (slotsAfter c.lastVector))

/-! ### Events and the end of a cycle -/

/-- Is the constructor a step of the device and no instruction of a program? -/
def isDeviceStep (i : Instr) : Bool := (encode i).isEmpty

/-- A step of the device. -/
def eventTurn (i : Instr) (s : State) : Host.Outcome State Fault Refusal :=
  if isDeviceStep i then exec i { s with defer := false } else .next s

/-- The table entries that CBLD wrote in the cycle hold from the next one (R63). -/
def commitTables (s : State) : State :=
  if s.cores.all fun c => c.2.cbtNext.isEmpty then s
  else
    { s with cores := s.cores.map fun c =>
        (c.1, { c.2 with cbt := c.2.cbtNext.foldl (fun m e => amInsert m e.1 e.2) c.2.cbt, cbtNext := [] }) }

/-- The window registers that HWR wrote in the cycle hold from the next one (R268). -/
def commitWindows (s : State) : State :=
  if s.pairs.all fun p => p.2.windowNext.isEmpty then s
  else
    { s with pairs := s.pairs.map fun p =>
        (p.1, { p.2 with window := p.2.windowNext.foldl (fun m e => amInsert m e.1 e.2.2) p.2.window, windowNext := [] }) }

/-- Has a blocking cause that STALLS counts kept a thread from issuing in the cycle that ends (R95)? A thread without a turn is
tried, whatever the core has issued and whether or not its DUTY lets an instruction begin. -/
def stalledNow (s : State) (t : ThreadRef) : Bool :=
  if slotIssued s t then (getThread s t).slotState == .live && countsStall (getThread s t).wait
  else threadPoised s t && countsStall (getThread (trial s t) t).wait

/-- A thread at the end of a cycle: its stall counts, and a cycle of its core is over for its YIELD (R80, R95). `stalled` and
`advanced` say what the cycle was for it, and `scalar` and `vector` whether its core made a choice in the class. -/
def endThread (now : Nat) (stalled advanced scalar vector : Bool) (x : Thread) : Thread :=
  { x with
    stalls := if stalled then x.stalls + 1 else x.stalls
    yieldLeft := if advanced && decide (1 < x.yieldLeft) then x.yieldLeft - 1 else x.yieldLeft
    passScalar := if scalar then x.passScalar.filter fun c => decide (now ≤ c) else x.passScalar
    passVector := if vector then x.passVector.filter fun c => decide (now ≤ c) else x.passVector }

/-- Every thread at the end of a cycle. -/
def endThreads (s : State) : State :=
  { s with cores := s.cores.map fun c =>
      let l := issuedNow s c.1
      let scalar := l.any fun p => p.2 == 0
      let vector := l.any fun p => p.2 == 1 || p.2 == 2
      (c.1, { c.2 with slots := c.2.slots.map fun x =>
        (x.1, endThread s.cycle (stalledNow s { core := c.1, slot := x.1 }) (coreAdvances s c.1) scalar vector x.2) }) }

/-- What a cycle brings about whether or not the agenda has named it: waits for monitors time out, counts of the predictors fall,
follow-ons take free entries of their streams, waits on a channel count, readers report what they delivered, due sweeps are made, words
that are due land, and after that every segment in a run makes its attempt (R140, R141, R144, R175, R196, R201, R240, R301). -/
def cycleDuties (s : State) : State :=
  attemptAll (landDue (sweepAll (heatReports (countStarves (followOnsEnter (decayAll (timeOutAll (endThreads s))))))))

/-- What the start of a cycle brings about: overdue halts are forced, overdue sets are released, and idle channels start the oldest
command of their queue (R171, R176, R326). -/
def startDuties (s : State) : State := startChannels (releaseSets (forceHalts s))

/-- Global memory at the end of a cycle, and what its gateways hold: a boundary taken in the next cycle copies both (R184). -/
def keepMemory (s : State) : State := { s with gmemPrev := s.gmem, gatePrev := gatesNow s }

/-- The end of a cycle: its duties, tier controllers serve the writes that wait there, messages enter the network, episodes are detected, what the cycle wrote for the next one holds,
stops and hand-overs come about, ended launches whose engines are at rest are over, and the next cycle starts. -/
def cycleEnd (s : State) : State :=
  let s := injectAll (serveWrites (countSlack (cycleDuties s)) fun _ => true)
  let s := keepMemory (commitWindows (commitTables (countTicks (mergeTick (endDrained (preemptTick (commitEntries (detectEpisodes s))))))))
  startDuties { s with cycle := s.cycle + 1 }

/-- One turn. -/
def runTurn (t : Turn) (s : State) : Host.Outcome State Fault Refusal :=
  match t with
  | .run t => threadTurn false t s
  | .issue t => threadTurn true t s
  | .pick core => coreTurn core s
  | .conflict t => conflictTurn t s
  | .rowConflict tile => .next (rowConflictTurn tile s)
  | .spRead quad num word => .next (spReadAhead s quad num word)
  | .spWrite quad num word => .next (spWriteAhead s quad num word)
  | .arrayRead pair granule => .next (arrayReadAhead s pair granule)
  | .event i => eventTurn i s
  | .tick => .next (cycleEnd s)

/-- The machine's next turn: the agenda's, or, where the agenda is empty, the turn of the thread that ran last and the end of
the cycle. -/
def nextTurn (s : State) : Host.Outcome State Fault Refusal :=
  match s.agenda with
  | t :: rest => runTurn t { s with agenda := rest }
  | [] => andThen (threadTurn false s.cur s) fun s => .next (cycleEnd s)

/-! ### A program placed from outside (log entry 1) -/

/-- Where a placed instruction stands: its address, the frame that holds it, and its thread. -/
def placedPc : Nat := 0x40000000
def placedFrame : Nat := 0x100000000
def placedThread : ThreadRef := { core := serviceBase, slot := 0 }

/-- The translation of a placed instruction's page. -/
def placedEntry : TlbEntry := { va := placedPc, frame := placedFrame, x := true, a := true, tier := 0 }

/-- The state with the bytes of an instruction placed for the next turn. -/
def placeInstr (s : State) (l : List Byte) : State :=
  let x : Thread := { slotState := .live, pc := BitVec.ofNat 64 placedPc, status := 1, code := { cells := memWrite [] (placedFrame * 4096) l } }
  modCore { s with agenda := [], cur := placedThread } serviceBase fun c =>
    { c with slots := amInsert c.slots 0 x, itlb := [placedEntry], issued := [], fetchDuty := 16, skip := false }

end Sys2Proof.Machine
end

