-- ==== Sys2Proof/Machine/Step.lean ====
section
/-! DEFINITION. The step of the machine, and a state whose next step runs a given instruction. -/
namespace Sys2Proof.Machine

/-- One step: the next turn of the interleaving (log entry 5). -/
def step (s : State) : Host.Outcome State Fault Refusal := nextTurn s

/-- The state with one instruction placed where the next step fetches: a live thread in sys mode on service core 0 of die 0, at
a PC whose translation its L1 I-TLB holds, with the instruction in its code memory. It stands for the load of a program from
outside (log entry 1). -/
def State.withFetchWord (s : State) (nbits w : Nat) : State := placeInstr s (toBytes 8 (w % 2 ^ nbits))

end Sys2Proof.Machine
end

