-- ==== Sys2Proof/Safety.lean ====
section
/-! DEFINITION. The vocabulary of claims: what a safe run is, what an instruction takes from its sources and gives to its
destinations, when its ports let it go on, and what a frame leaves unchanged (R6, R13, R14, R70, R95). -/
namespace Sys2Proof.Safety
open Sys2Proof.Machine

/-! ### Runs -/

/-- A run of n steps that neither faults nor is refused. -/
def SafeRun (n : Nat) (s : State) : Prop := ∃ t, Sys2Proof.core.run n s = .next t

/-- Every turn of the agenda, and the thread that runs where the agenda is empty, names a slot that the part has (R3, R71). -/
def TurnExists : Turn → Prop
  | .run t => threadExists t = true
  | .issue t => threadExists t = true
  | .pick core => threadExists { core := core, slot := 0 } = true
  | .conflict t => threadExists t = true
  | .rowConflict _ => True
  | .spRead _ _ _ => True
  | .spWrite _ _ _ => True
  | .arrayRead _ _ => True
  | .event _ => True
  | .tick => True

/-! ### The executing thread -/

/-- The context of the executing thread. -/
def me (s : State) : Thread := getThread s s.cur

/-- The executing thread is in sys mode (R26, R87). -/
def InSys (s : State) : Prop := modeSys (me s) = true

/-- The executing thread belongs to a service core and is in sys mode (R26). -/
def InService (s : State) : Prop := isService s.cur.core = true ∧ modeSys (me s) = true

/-- Every port that an instruction names can be popped and pushed: general and vector sources, general and vector
destinations (R14, R25). -/
def PortsReady (s : State) (gs vs gd vd : List Reg) : Prop := readBlocked s gs vs = none ∧ writeBlocked s gd vd = none

/-- A general destination that is a port has room (R14). -/
def CanGive (s : State) (d : Reg) : Prop := writeBlocked s [d] [] = none

/-! ### Operands (R13, R14) -/

/-- The link word at the front of a receive FIFO. -/
def frontWord (s : State) (dir : Nat) : LinkWord :=
  (((amGet (getSwitch s s.cur.core).recv dir {}).words.head?).map (·.word)).getD {}

/-- The state in which the front word of a receive FIFO is gone. -/
def dropWord (s : State) (dir : Nat) : State :=
  modSwitch s s.cur.core fun x => { x with recv := amInsert x.recv dir (fifoPop s.cycle (amGet x.recv dir {})) }

/-- The state with a link word pushed to a send FIFO, where a step finds it from the next cycle on. -/
def pushWord (s : State) (dir : Nat) (w : LinkWord) : State :=
  modSwitch s s.cur.core fun x => { x with send := amInsert x.send dir (fifoPush (s.cycle + 1) w (amGet x.send dir {})) }

/-- The value of a general source. -/
def valueG (s : State) (r : Reg) : Word := if isGPort r then (frontWord s (gPortDir r)).data.setWidth 64 else gValue (me s) r

/-- The state after a general source is read: a port has lost its front word. -/
def afterG (s : State) (r : Reg) : State := if isGPort r then dropWord s (gPortDir r) else s

/-- The state after a general destination is written: g0 keeps zero, a port gets a RAW word (R13, R14). -/
def giveG (s : State) (r : Reg) (v : Word) : State :=
  if isGPort r then pushWord s (gPortDir r) { data := v.setWidth 256, side := 0 }
  else modThread s s.cur fun x => gWrite x r v

/-- The value of a vector source: a port joins its two front words. -/
def valueV (s : State) (r : Reg) : VReg :=
  if isVPort r then joinWords (frontWord s (vPortDir r)) (frontWord (dropWord s (vPortDir r)) (vPortDir r)) else vValue (me s) r

/-- The state after a vector source is read. -/
def afterV (s : State) (r : Reg) : State :=
  if isVPort r then dropWord (dropWord s (vPortDir r)) (vPortDir r) else s

/-- The two words of a vector source that is a port carry one tag (R14). -/
def TagsAgree (s : State) (r : Reg) : Prop :=
  isVPort r = true →
    ((frontWord s (vPortDir r)).side.setWidth 5 : Tag) = (frontWord (dropWord s (vPortDir r)) (vPortDir r)).side.setWidth 5

/-- The state after a vector destination is written: a port gets the low half first. -/
def giveV (s : State) (r : Reg) (v : VReg) : State :=
  if isVPort r then pushWord (pushWord s (vPortDir r) (splitWords v).1) (vPortDir r) (splitWords v).2
  else modThread s s.cur fun x => vWrite x r v

/-! ### How an instruction ends (R76, R95) -/

/-- The state t in which the instruction that began in s has retired at a PC. -/
def retiredAt (s t : State) (pc : Word) : State :=
  retire (releasePorts t s.cur (me s)) s.cur pc

/-- The same at the next instruction. -/
def retired (len : Nat) (s t : State) : State := retiredAt s t ((me s).pc + BitVec.ofNat 64 len)

/-- The executing thread's instruction retired between two states: INSTRET went up by one. -/
def Retired (s t : State) : Prop := (getThread t s.cur).instret = (me s).instret + 1

/-! ### Frames -/

/-- Every byte of every memory reads as before: global memory, scratchpads, memory-tile SRAM, sum-product scratch. -/
def SameMemory (s t : State) : Prop :=
  (∀ a, memGet t.gmem.cells a = memGet s.gmem.cells a) ∧
    (∀ k a, memGet (getCore t k).scratch.cells a = memGet (getCore s k).scratch.cells a) ∧
    (∀ k a, memGet (getTile t k).sram.cells a = memGet (getTile s k).sram.cells a) ∧
    ∀ k a, memGet (getQuad t k).scratch.cells a = memGet (getQuad s k).scratch.cells a

/-- A thread's own view of global memory is as before: what it has stored, what it has read from, what is still to be
performed (R182, R183). -/
def SameView (x y : Thread) : Prop :=
  y.snap = x.snap ∧ y.own = x.own ∧ y.stores = x.stores ∧ y.reds = x.reds ∧ y.code = x.code

/-- Every register but the named ones reads as before: general, vector and mask registers. -/
def RegsExcept (x y : Thread) (gs vs : List Reg) (ks : List MReg) : Prop :=
  (∀ r, r ∉ gs → gValue y r = gValue x r) ∧ (∀ r, r ∉ vs → vValue y r = vValue x r) ∧ ∀ k, k ∉ ks → kValue y k = kValue x k

/-- Every special register but FPCTL and the counters is as before (R15, R70). -/
def SpecialSame (x y : Thread) : Prop :=
  y.status = x.status ∧ y.cbsel = x.cbsel ∧ y.mprog = x.mprog ∧ y.domain1 = x.domain1 ∧ y.domain2 = x.domain2 ∧
    y.domain3 = x.domain3 ∧ y.domain4 = x.domain4 ∧ y.bivbase = x.bivbase ∧ y.bivlimit = x.bivlimit ∧
    y.bivovf = x.bivovf ∧ y.trappc = x.trappc ∧ y.trapcause = x.trapcause ∧ y.trapval = x.trapval ∧ y.trapvec = x.trapvec

/-- Every other thread is as before. -/
def OthersSame (s t : State) : Prop := ∀ u, u ≠ s.cur → getThread t u = getThread s u

/-- Matrix accumulators, scale memory, tables and the twin window are as before (R248, R257, R268). -/
def ArraySame (s t : State) : Prop := t.pairs = s.pairs

/-! ### The integer forms as the specification's tables write them (R97 to R100) -/

/-- A truth value as a register holds it. -/
def oneIf (p : Prop) [Decidable p] : Word := if p then 1 else 0

/-- The results of R97's two-source forms, from A and B as numbers and sA and sB as two's complement. -/
def intTable : List ((Reg → Reg → Reg → Instr) × (Word → Word → Word)) :=
  [(.add, fun a b => BitVec.ofNat 64 (a.toNat + b.toNat)),
   (.sub, fun a b => BitVec.ofInt 64 ((a.toNat : Int) - b.toNat)),
   (.and, fun a b => a &&& b),
   (.or, fun a b => a ||| b),
   (.xor, fun a b => a ^^^ b),
   (.sll, fun a b => BitVec.ofNat 64 (a.toNat * 2 ^ (b.toNat % 64))),
   (.srl, fun a b => BitVec.ofNat 64 (a.toNat / 2 ^ (b.toNat % 64))),
   (.sra, fun a b => BitVec.ofInt 64 (a.toInt / 2 ^ (b.toNat % 64))),
   (.slt, fun a b => oneIf (a.toInt < b.toInt)),
   (.sltu, fun a b => oneIf (a.toNat < b.toNat)),
   (.min, fun a b => if a.toInt ≤ b.toInt then a else b),
   (.max, fun a b => if a.toInt ≤ b.toInt then b else a),
   (.minu, fun a b => if a.toNat ≤ b.toNat then a else b),
   (.maxu, fun a b => if a.toNat ≤ b.toNat then b else a),
   (.mul, fun a b => BitVec.ofNat 64 (a.toNat * b.toNat)),
   (.mulh, fun a b => BitVec.ofInt 64 (a.toInt * b.toInt / 2 ^ 64)),
   (.mulhu, fun a b => BitVec.ofNat 64 (a.toNat * b.toNat / 2 ^ 64)),
   (.div, fun a b =>
     if b = 0 then BitVec.allOnes 64
     else if a.toInt = -2 ^ 63 ∧ b.toInt = -1 then BitVec.ofInt 64 (-2 ^ 63)
     else BitVec.ofInt 64 (a.toInt.tdiv b.toInt)),
   (.divu, fun a b => if b = 0 then BitVec.allOnes 64 else BitVec.ofNat 64 (a.toNat / b.toNat)),
   (.rem, fun a b =>
     if b = 0 then a
     else if a.toInt = -2 ^ 63 ∧ b.toInt = -1 then 0
     else BitVec.ofInt 64 (a.toInt - b.toInt * a.toInt.tdiv b.toInt)),
   (.remu, fun a b => if b = 0 then a else BitVec.ofNat 64 (a.toNat % b.toNat)),
   (.addw, fun a b => BitVec.ofInt 64 (BitVec.ofNat 32 (a.toNat + b.toNat)).toInt),
   (.subw, fun a b => BitVec.ofInt 64 (BitVec.ofInt 32 ((a.toNat : Int) - b.toNat)).toInt)]

/-- The results of R97's one-source forms, counted bit by bit. -/
def countTable : List ((Reg → Reg → Instr) × (Word → Word)) :=
  [(.clz, fun a => BitVec.ofNat 64 ((List.range 64).takeWhile fun i => !a.getLsbD (63 - i)).length),
   (.ctz, fun a => BitVec.ofNat 64 ((List.range 64).takeWhile fun i => !a.getLsbD i).length),
   (.popc, fun a => BitVec.ofNat 64 ((List.range 64).filter fun i => a.getLsbD i).length)]

/-- The results of R98's forms with a source. -/
def immTable : List ((Reg → Reg → BitVec 16 → Instr) × (Word → BitVec 16 → Word)) :=
  [(.addi, fun a i => BitVec.ofInt 64 ((a.toNat : Int) + i.toInt)),
   (.andi, fun a i => a &&& BitVec.ofNat 64 i.toNat),
   (.ori, fun a i => a ||| BitVec.ofNat 64 i.toNat),
   (.xori, fun a i => a ^^^ BitVec.ofNat 64 i.toNat),
   (.slti, fun a i => oneIf (a.toInt < i.toInt)),
   (.sltui, fun a i => oneIf (a.toNat < (BitVec.ofInt 64 i.toInt).toNat)),
   (.insh, fun a i => BitVec.ofNat 64 (a.toNat * 2 ^ 16 + i.toNat))]

/-- The results of R99's shifts. -/
def shiftTable : List ((Reg → Reg → BitVec 6 → Instr) × (Word → BitVec 6 → Word)) :=
  [(.slli, fun a n => BitVec.ofNat 64 (a.toNat * 2 ^ n.toNat)),
   (.srli, fun a n => BitVec.ofNat 64 (a.toNat / 2 ^ n.toNat)),
   (.srai, fun a n => BitVec.ofInt 64 (a.toInt / 2 ^ n.toNat))]

/-- When each branch of R103 is taken. -/
def branchTable : List ((Reg → Reg → BitVec 16 → Instr) × (Word → Word → Bool)) :=
  [(.beq, fun a b => decide (a = b)),
   (.bne, fun a b => decide (a ≠ b)),
   (.blt, fun a b => decide (a.toInt < b.toInt)),
   (.bge, fun a b => decide (b.toInt ≤ a.toInt)),
   (.bltu, fun a b => decide (a.toNat < b.toNat)),
   (.bgeu, fun a b => decide (b.toNat ≤ a.toNat))]

/-- PC + 4 × sext(off), modulo 2^64 (R9). -/
def offTarget {n : Nat} (pc : Word) (off : BitVec n) : Word := BitVec.ofInt 64 ((pc.toNat : Int) + 4 * off.toInt)

/-- A target that passes the checks of R102. -/
def GoodTarget (t : Word) : Prop := t.toNat % 4 = 0 ∧ t.toNat < 2 ^ 57

/-! ### System registers (R15, R86 to R96) -/

/-- The system registers that a thread context holds, by number. -/
def contextRegs : List (Nat × (Thread → Word)) :=
  [(0x000, (·.status)), (0x001, (·.fpctl)), (0x002, (·.mprog)), (0x003, (·.cbsel)), (0x018, (·.domain1)), (0x019, (·.domain2)),
   (0x01A, (·.domain3)), (0x01B, (·.domain4)), (0x020, (·.bivbase)), (0x021, (·.bivlimit)), (0x022, (·.bivovf)),
   (0x041, (·.instret)), (0x042, (·.stalls)), (0x100, (·.trappc)), (0x101, (·.trapcause)), (0x102, (·.trapval)),
   (0x103, (·.trapvec))]

/-- The writable fields of the registers that a sys-mode MTS writes as plain bits: the number and the mask of RW bits. STATUS,
FPCTL, the DOMAIN registers, FETCHDUTY and INSTRET have rules of their own. -/
def maskedRegs : List (Nat × Word) :=
  [(0x002, 0xFFFFFFFF), (0x003, 1), (0x020, 0x3FFC0), (0x021, 0x3FFC0), (0x022, 0x01FFFFFFFFFFFFC0), (0x042, 0xFFFFFFFFFFFFFFFF),
   (0x100, 0xFFFFFFFFFFFFFFFF), (0x101, 0xFF), (0x102, 0xFFFFFFFFFFFFFFFF), (0x103, 0x01FFFFFFFFFFFFFC)]

/-- The numbers of the registers that are read only (R15). -/
def readOnlyRegs : List Nat := [0x010, 0x011, 0x012, 0x013, 0x014, 0x028, 0x030, 0x040]

/-- What a context register reads as. -/
def contextReg (x : Thread) (n : Nat) : Word :=
  match contextRegs.find? fun p => p.1 == n with
  | some p => p.2 x
  | none => 0

/-! ### Traps (R316 to R319) -/

/-- The vector address of a VEC field in bits [56:2]. -/
def vectorOf (w : Word) : Word := BitVec.ofNat 64 (w.toNat / 4 % 2 ^ 55 * 4)

/-- The thread stands in the handler at an address, with the trap registers written (R318): what `x` was before. -/
def Entered (x y : Thread) (cause : Nat) (val vec : Word) : Prop :=
  y.trappc = x.pc ∧ y.trapcause = BitVec.ofNat 64 cause ∧ y.trapval = val ∧ modeSys y = true ∧ pmodeSys y = modeSys x ∧ y.pc = vec

/-- The thread has stopped at TRAPPC with the trap registers written, and its THREADFAULT message is the last in the network
(R319). -/
def StoppedAtTrap (s t : State) (u : ThreadRef) (cause : Nat) (val : Word) (dbl : Bool) : Prop :=
  let x := getThread s u
  let y := getThread t u
  y.trappc = x.pc ∧ y.trapcause = BitVec.ofNat 64 cause ∧ y.trapval = val ∧ y.pc = x.pc ∧ y.wait = .threadFault dbl ∧
    ∃ w3, t.net = s.net ++ [.mail x.part (designated s x.part) [mailHead 0x20 (cause % 256) x.inst x.func dbl, x.pc, val, w3]]

/-- Forms that R26 makes sys-mode only, apart from MFS, MTS and ST. -/
def sysOnly : Instr → Bool
  | .eret => true
  | .mbxrd _ _ => true
  | .mbxwrRetry _ => true
  | .mbxwrRefuse _ => true
  | .rltokRange _ _ _ _ => true
  | .rltokFunc _ _ _ => true
  | .rltokPart _ => true
  | .launchInstall _ _ => true
  | .launchPacket _ _ => true
  | .launchPreempt _ _ => true
  | .launchAbort _ _ => true
  | .launchUnretain _ _ => true
  | .mtcfg _ _ => true
  | .migr _ _ _ => true
  | .heat _ _ => true
  | .fence sc => sc == 7
  | _ => false

/-- Forms that only service cores run (R26). -/
def serviceOnly : Instr → Bool
  | .mbxrd _ _ => true
  | .mbxwrRetry _ => true
  | .mbxwrRefuse _ => true
  | _ => false

/-! ### Memory operands (R153, R155, R159, R182, R183) -/

/-- The answer of a variable-latency access is there, where the turn needs one (R76). -/
def Answered (s : State) : Prop := s.defer = false ∨ (me s).wait = .replied

/-- A translation of the executing thread is cached and permits the access: the state after the look-up and the translation
(R207, R210). -/
def Hit (s u : State) (va : Nat) (write : Bool) (e : TlbEntry) : Prop :=
  cacheLookup s s.cur.core (me s).func va write false (!modeSys (me s)) = (u, some e)

/-- A range of n bytes lies in a local object that plain accesses reach: the object and the offset (R153). -/
def LocalRange (s : State) (ea : Word) (n : Nat) (o : LObj) (off : Nat) : Prop :=
  isLocal ea = true ∧ resolve s s.cur ea n = .loc o off ∧ ∀ k, o ≠ .regs k

/-- A range passes the check of its local object, if it is local. -/
def RangeOk (s : State) (ea : Word) (n : Nat) : Prop := isLocal ea = true → ∃ o off, LocalRange s ea n o off

/-- A plain load of n bytes within one page or one object can be done now: its bytes and the state it leaves. -/
def LoadReady (s : State) (ea : Word) (n : Nat) (l : List Byte) (t : State) : Prop :=
  l.length = n ∧
    ((∃ o off, LocalRange s ea n o off ∧ (o = .scratch s.cur.core ∨ Answered s) ∧ localRead s o off n = some l ∧ t = s) ∨
      (isGlobal ea = true ∧ Answered s ∧ ∃ u e, Hit s u ea.toNat false e ∧
        t = noticeErrors u (me u).part (tlbPa e ea.toNat) n e.t ∧ plainRead t t.cur e ea.toNat n = some l))

/-- The same for several pieces in order. -/
def LoadsAll : State → List (Word × Nat) → List Byte → State → Prop
  | s, [], l, t => l = [] ∧ t = s
  | s, (ea, n) :: rest, l, t => ∃ a b u, l = a ++ b ∧ LoadReady s ea n a u ∧ LoadsAll u rest b t

/-- A plain load of any length can be done now. -/
def Loads (s : State) (ea : Word) (n : Nat) (l : List Byte) (t : State) : Prop := LoadsAll s (pagePieces ea n) l t

/-- A plain store of bytes within one page or one object can be done now, and the state it leaves; set bits of `skip` are
bytes that it leaves alone. -/
def StoreReady (s : State) (ea : Word) (l : List Byte) (skip : Nat) (t : State) : Prop :=
  (∃ o off, LocalRange s ea l.length o off ∧ t = localWriteSkip s o off skip l) ∨
    (isGlobal ea = true ∧ ∃ u e, Hit s u ea.toNat true e ∧ t = plainStore u u.cur e ea.toNat l skip)

/-- The same for several stores in order. -/
def StoresAll : State → List (Word × List Byte × Nat) → State → Prop
  | s, [], t => t = s
  | s, (ea, l, skip) :: rest, t => ∃ u, StoreReady s ea l skip u ∧ StoresAll u rest t

/-- MPROG.PROG of the executing thread (R89). -/
def prog (s : State) : Nat := fieldOf (me s).mprog 31 0

/-- The state in which a restartable instruction is done: MPROG is zero (R159). -/
def progDone (s : State) : State := modThread s s.cur (setProg 0)

/-- The lanes that a masked vector load leaves: those of the memory image where the mask enables them, the old ones elsewhere
(R109, R158). -/
def Filled (s t : State) (d : Reg) (k : MReg) (tag : Tag) (img : Nat) (r : BitVec 512) : Prop :=
  ∀ i, i < tagLanes tag → lane (tagLane tag) r.toNat i =
    if (kValue (me s) k).getLsbD i then lane (tagLane tag) img i else if isVPort d then 0 else lane (tagLane tag) (vValue (me t) d).bits.toNat i

/-- The stores that a VST makes from its progress p on: the address, the bytes and the bytes left alone (R158, R159). -/
def vstStores (ea : Word) (t : Tag) (v : VReg) (mask p : Nat) : List (Word × List Byte × Nat) :=
  (imagePieces ea (vecBytes t)).filterMap fun q =>
    let lo := if q.1 < p then p else q.1
    let span := runsSpan (enabledRuns (fun i => byteEnabled t mask (lo + i)) (q.1 + q.2 - lo))
    if p < q.1 + q.2 ∧ span.2 ≠ 0 then
      some (ea + BitVec.ofNat 64 (lo + span.1), ((toImage t v).drop (lo + span.1)).take span.2,
        packLanes 1 ((List.range span.2).map fun i => bit (!byteEnabled t mask (lo + span.1 + i))))
    else none

/-- SPILLM's registers j stored one after the other (R164). -/
def Spilled (x : Word) (f : Reg) : List Nat → State → State → Prop
  | [], s, t => t = s
  | j :: rest, s, t => ∃ u, StoreReady s (above x (8 * j)) (toBytes 8 (gValue (me s) (rangeReg f j)).toNat) 0 u ∧ Spilled x f rest u t

/-- FILLM's registers j loaded one after the other (R164). -/
def Refilled (x : Word) (f : Reg) : List Nat → State → State → Prop
  | [], s, t => t = s
  | j :: rest, s, t => ∃ l u, Loads s (above x (8 * j)) 8 l u ∧
      Refilled x f rest (modThread u u.cur fun y => gWrite y (rangeReg f j) (wordOf l)) t

/-- VSPILL's registers j stored one after the other: the tag byte, then the data (R164). -/
def VSpilled (x : Word) (f : Reg) : List Nat → State → State → Prop
  | [], s, t => t = s
  | j :: rest, s, t => ∃ u w,
      StoreReady s (above x j) [(vValue (me s) (rangeReg f j)).tag.setWidth 8] 0 u ∧
      StoreReady u (above x (64 + 64 * j)) (toBytes 64 (vValue (me s) (rangeReg f j)).bits.toNat) 0 w ∧ VSpilled x f rest w t

/-- VFILL's registers j loaded one after the other, with tags that are not reserved (R164). -/
def VRefilled (x : Word) (f : Reg) : List Nat → State → State → Prop
  | [], s, t => t = s
  | j :: rest, s, t => ∃ l u, LoadsAll s [(above x j, 1), (above x (64 + 64 * j), 64)] l u ∧
      tagReserved ((l.headD 0).setWidth 5 : Tag) = false ∧
      VRefilled x f rest
        (modThread u u.cur fun y =>
          vWrite y (rangeReg f j) { bits := BitVec.ofNat 512 (ofBytes (l.drop 1)), tag := (l.headD 0).setWidth 5 }) t

/-- A frame of sz bytes is opened at N: the header's two doublewords, BIVOVF for a global one, g30 (R162). -/
def FrameOpened (s : State) (n sz : Word) (t : State) : Prop :=
  ∃ u w, StoreReady s n (toBytes 8 (gValue (me s) 30).toNat) 0 u ∧ StoreReady u (n + 8) (toBytes 8 sz.toNat) 0 w ∧
    t = modThread w w.cur fun x => gWrite { x with bivovf := if isGlobal n then bivovfWord (n + sz) else x.bivovf } 30 n

/-! ### Coherent accesses (R185, R193, R199) -/

/-- A coherent read of n bytes of one line by the executing thread, after its own writes to the line, and the state after it. -/
def CohReads (s : State) (e : TlbEntry) (pa n : Nat) (l : List Byte) (t : State) : Prop :=
  let x := performLine s s.cur pa
  cohRead x (whoThread x x.cur) pa n e.t = (t, some l)

/-- An atomic access of n bytes can be done now: the old value, and the state after the value that `new` gives is written
(R193). -/
def AtomicDone (s : State) (ea : Word) (n : Nat) (new : Nat → Option Nat) (old : Nat) (t : State) : Prop :=
  (∃ o off l, LocalRange s ea n o off ∧ localKind ea ≤ 2 ∧ (o = .scratch s.cur.core ∨ Answered s) ∧ localRead s o off n = some l ∧
      old = ofBytes l ∧ t = (match new old with
        | some v => localWrite s o off (toBytes n v)
        | none => s)) ∨
    (isGlobal ea = true ∧ Answered s ∧ ∃ u e r l, Hit s u ea.toNat true e ∧ CohReads u e (tlbPa e ea.toNat) n l r ∧ old = ofBytes l ∧
      let p := predictAtomic r (quadKey r.cur.core) (tlbPa e ea.toNat) e.t
      t = (match new old with
        | some v => cohWrite p (whoThread p p.cur) (tlbPa e ea.toNat) e.t (toBytes n v)
        | none => p))

/-- One line of a GET: read coherently, then stored to local memory. -/
def GotLine (s : State) (l g : Word) (t : State) : Prop :=
  isGlobal g = true ∧ Answered s ∧ ∃ u e b r, Hit s u g.toNat false e ∧ CohReads u e (tlbPa e g.toNat) 64 b r ∧ StoreReady r l b 0 t

/-- One line of a PUT: loaded from local memory, then written coherently. -/
def PutLine (s : State) (l g : Word) (t : State) : Prop :=
  isGlobal g = true ∧ ∃ b u w e, LoadReady s l 64 b u ∧ Answered u ∧ Hit u w g.toNat true e ∧
    let x := performLine w w.cur (tlbPa e g.toNat)
    t = cohWrite x (whoThread x x.cur) (tlbPa e g.toNat) e.t b

/-- Lines j moved one after the other. -/
def LinesMoved (one : State → Word → Word → State → Prop) (l g : Word) : List Nat → State → State → Prop
  | [], s, t => t = s
  | j :: rest, s, t => ∃ u, one s (l + BitVec.ofNat 64 (64 * j)) (g + BitVec.ofNat 64 (64 * j)) u ∧ LinesMoved one l g rest u t

/-- A token matches a cached translation (R215): of its function, or any for a partition's, or global as the token is; and for a range
one whose page overlaps it. -/
def Matches (k : Token) (e : TlbEntry) : Prop :=
  (k.scope = 2 ∨ e.func = k.func ∨ (e.g = true ∧ k.global = true)) ∧
    (k.scope = 0 → e.va < k.va + 2 ^ k.bits ∧ k.va < e.va + 2 ^ e.bits)

/-! ### Values and roundings (R47, R50 to R57, R115 to R117) -/

/-- Is the value finite? -/
def isFinite : FVal → Bool
  | .fin _ _ _ => true
  | _ => false

/-- The number that a finite value is (R47). -/
def valQ : FVal → ℚ
  | .fin neg m e => (if neg then -1 else 1) * (m : ℚ) * 2 ^ e
  | _ => 0

/-- The place of a value that is no NaN among the numbers and the infinities; +0 and −0 stand at one place. -/
def valE : FVal → WithBot (WithTop ℚ)
  | .inf neg => if neg then ⊥ else ((⊤ : WithTop ℚ) : WithBot (WithTop ℚ))
  | v => ((valQ v : WithTop ℚ) : WithBot (WithTop ℚ))

/-- The integer to which a mode rounds a number (R50). -/
def roundQ (rm : RMode) (x : ℚ) : Int :=
  match rm with
  | .rne =>
    if x - ⌊x⌋ < 1 / 2 then ⌊x⌋
    else if 1 / 2 < x - ⌊x⌋ then ⌊x⌋ + 1
    else if ⌊x⌋ % 2 = 0 then ⌊x⌋ else ⌊x⌋ + 1
  | .rtz => if 0 ≤ x then ⌊x⌋ else ⌈x⌉
  | .rup => ⌈x⌉
  | .rdn => ⌊x⌋
  | .rna => if 0 ≤ x then ⌊x + 1 / 2⌋ else ⌈x - 1 / 2⌉

/-- An integer forced into a range. -/
def clampZ (lo hi z : Int) : Int := max lo (min hi z)

/-- The bits and the events of R51 and R52 for a number of a sign: it is rounded to a multiple of 2^u, where u gives it F fraction
bits, or the spacing of the subnormals below them. -/
def RoundedQ (f : FFmt) (rm : RMode) (sat : Bool) (x : ℚ) (n : Bool) (r : Nat × FpFlags) : Prop :=
  (x = 0 → r = (withSign f n 0, noFlags)) ∧
  ∀ q : Int, 2 ^ (q + ffFracBits f) ≤ |x| → |x| < 2 ^ (q + ffFracBits f + 1) →
    let u := max q (ffQmin f)
    let y : ℚ := roundQ rm (x / 2 ^ u) * 2 ^ u
    let tiny : Bool := decide (|(roundQ rm (x / 2 ^ q) : ℚ) * 2 ^ q| < 2 ^ (ffQmin f + ffFracBits f))
    let away : Bool := rm = .rne || rm = .rna || rm = .rup && !n || rm = .rdn && n
    (|y| ≤ valQ (fdecode f (ffMax f)) →
      isFinite (fdecode f r.1) = true ∧ valQ (fdecode f r.1) = y ∧ signNeg (fdecode f r.1) = n ∧
        r.2 = { uf := tiny && decide (y ≠ x), nx := decide (y ≠ x) }) ∧
      (valQ (fdecode f (ffMax f)) < |y| →
        r.2 = flagOF ∧ r.1 =
          if sat || !ffHasNaN f || !away then withSign f n (ffMax f)
          else if ffHasInf f then withSign f n (ffInf f) else ffNaN f)

/-- The bits and the events of R51 and R52 for a value in a float or narrow-float format. -/
def RoundedTo (f : FFmt) (rm : RMode) (sat : Bool) (v : FVal) (r : Nat × FpFlags) : Prop :=
  (∀ s, v = .nan s → r = if ffHasNaN f then (ffNaN f, { nv := s }) else (0, flagNV)) ∧
  (∀ n, v = .inf n → r =
    if sat then (withSign f n (ffMax f), flagNX)
    else if ffHasInf f then (withSign f n (ffInf f), noFlags)
    else if ffHasNaN f then (ffNaN f, flagNV)
    else (withSign f n (ffMax f), flagNX)) ∧
  (isFinite v = true → RoundedQ f rm sat (valQ v) (signNeg v) r)

/-- The bits and the events of R57 for a value in SPQ. -/
def RoundedToSpq (rm : RMode) (v : FVal) (r : Nat × FpFlags) : Prop :=
  (∀ s, v = .nan s → r = (0xFFF80000, { nv := s })) ∧
  (∀ n, v = .inf n → r = if n then (0xFFF80000, flagNV) else (0x000FFFFF, flagNX)) ∧
  ∀ n m e, v = .fin n m e →
    (m = 0 → r = (0xFFF00000, noFlags)) ∧ (m ≠ 0 → n = true → r = (0xFFF80000, flagNV)) ∧
    ∀ q : Int, -4083 ≤ q → 2 ^ (q + 20) ≤ valQ v → valQ v < 2 ^ (q + 21) →
      let y : ℚ := roundQ rm (valQ v / 2 ^ q) * 2 ^ q
      (y ≤ valQ (spqDecode 0x000FFFFF) → valQ (spqDecode r.1) = y ∧ r.2 = { nx := decide (y ≠ valQ v) }) ∧
        (valQ (spqDecode 0x000FFFFF) < y → r = (0x000FFFFF, flagOF))

/-- The integer and the events of R53 for a value in a range. -/
def RoundedToInt (w : Nat) (lo hi : Int) (rm : RMode) (v : FVal) (r : Nat × FpFlags) : Prop :=
  (∀ s, v = .nan s → r = (0, flagNV)) ∧ (∀ n, v = .inf n → r = (ofInt w (if n then lo else hi), flagNV)) ∧
  (isFinite v = true →
    let z := roundQ rm (valQ v)
    r = if z < lo then (ofInt w lo, flagNV) else if hi < z then (ofInt w hi, flagNV) else (ofInt w z, { nx := decide ((z : ℚ) ≠ valQ v) }))

/-- A condition of R117 on two places of an order. -/
def Holds {α : Type} [LT α] [LE α] (c : Nat) (x y : α) : Prop :=
  (c = 0 ∧ x = y) ∨ (c = 1 ∧ x ≠ y) ∨ (c = 2 ∧ x < y) ∨ (c = 3 ∧ x ≤ y) ∨ (c = 4 ∧ y < x) ∨ (c = 5 ∧ y ≤ x) ∨ c = 7

/-- Infinity times zero (R115). -/
def InfTimesZero (x y : FVal) : Prop :=
  (∃ n, x = .inf n) ∧ isFinite y = true ∧ valQ y = 0 ∨ (∃ n, y = .inf n) ∧ isFinite x = true ∧ valQ x = 0

/-! ### What R112 to R115 make of floats -/

/-- An integer that a mode makes of a real number (R50). -/
def RoundsTo (rm : RMode) (x : ℝ) (z : Int) : Prop :=
  match rm with
  | .rne => |x - z| < 1 / 2 ∨ (|x - z| = 1 / 2 ∧ z % 2 = 0)
  | .rna => |x - z| < 1 / 2 ∨ (|x - z| = 1 / 2 ∧ |x| < |(z : ℝ)|)
  | .rtz => (0 ≤ x → (z : ℝ) ≤ x ∧ x < z + 1) ∧ (x < 0 → x ≤ z ∧ (z : ℝ) - 1 < x)
  | .rup => x ≤ z ∧ (z : ℝ) - 1 < x
  | .rdn => (z : ℝ) ≤ x ∧ x < z + 1

/-- The bits and the events of a real number other than zero that is rounded once to a format with infinities (R50 to R52, R112). -/
def RoundedNumber (f : FFmt) (rm : RMode) (x : ℝ) (r : Nat × FpFlags) : Prop :=
  let top : ℝ := ((valQ (fdecode f (ffMax f)) : ℚ) : ℝ)
  ∀ q z t : Int, (2 : ℝ) ^ (q + ffFracBits f) ≤ |x| → |x| < (2 : ℝ) ^ (q + ffFracBits f + 1) →
    RoundsTo rm (x / (2 : ℝ) ^ max q (ffQmin f)) z → RoundsTo rm (x / (2 : ℝ) ^ q) t →
    let y : ℝ := z * (2 : ℝ) ^ max q (ffQmin f)
    (|y| ≤ top →
      isFinite (fdecode f r.1) = true ∧ ((valQ (fdecode f r.1) : ℚ) : ℝ) = y ∧ (signNeg (fdecode f r.1) = true ↔ x < 0) ∧
        r.2.nv = false ∧ r.2.dz = false ∧ r.2.of = false ∧ (r.2.nx = true ↔ y ≠ x) ∧
        (r.2.uf = true ↔ |(t : ℝ) * (2 : ℝ) ^ q| < (2 : ℝ) ^ (ffQmin f + ffFracBits f) ∧ y ≠ x)) ∧
    (top < |y| → r.2 = flagOF ∧ ∀ n : Bool, (n = true ↔ x < 0) →
      let away : Prop := rm = .rne ∨ rm = .rna ∨ (rm = .rup ∧ 0 < x) ∨ (rm = .rdn ∧ x < 0)
      (away → r.1 = withSign f n (ffInf f)) ∧ (¬ away → r.1 = withSign f n (ffMax f)))

/-- The zero of a sign, the infinity of a sign, and the canonical NaN with or without NV, as a format's bits (R48). -/
def zeroOf (f : FFmt) (n : Bool) : Nat × FpFlags := (withSign f n 0, noFlags)
def infOf (f : FFmt) (n : Bool) : Nat × FpFlags := (withSign f n (ffInf f), noFlags)
def nanOf (f : FFmt) (nv : Bool) : Nat × FpFlags := (ffNaN f, { nv := nv })

/-- What an exact number gives: a zero of the named sign, or one rounding. -/
def Delivered (f : FFmt) (rm : RMode) (x : ℚ) (n : Bool) (r : Nat × FpFlags) : Prop :=
  (x = 0 → r = zeroOf f n) ∧ (x ≠ 0 → RoundedNumber f rm x r)

/-- The sign of an exact zero sum: that of both terms where they agree, else minus only toward −infinity (log entry 35). -/
def zeroSign (rm : RMode) (n1 n2 : Bool) : Bool := if n1 = n2 then n1 else decide (rm = .rdn)

/-- A sum (R113, R114). -/
def SumRule (f : FFmt) (rm : RMode) (x y : FVal) (r : Nat × FpFlags) : Prop :=
  (isNaN x = true ∨ isNaN y = true → r = nanOf f (isSNaN x || isSNaN y)) ∧
  (∀ a b, x = .inf a → y = .inf b → r = if a = b then infOf f a else nanOf f true) ∧
  (∀ a, x = .inf a → isFinite y = true → r = infOf f a) ∧ (∀ a, y = .inf a → isFinite x = true → r = infOf f a) ∧
  (isFinite x = true → isFinite y = true → Delivered f rm (valQ x + valQ y) (zeroSign rm (signNeg x) (signNeg y)) r)

/-- A product (R113, R114, R115). -/
def ProductRule (f : FFmt) (rm : RMode) (x y : FVal) (r : Nat × FpFlags) : Prop :=
  let n := signNeg x != signNeg y
  (isNaN x = true ∨ isNaN y = true → r = nanOf f (isSNaN x || isSNaN y)) ∧
  (isNaN x = false → isNaN y = false →
    (InfTimesZero x y → r = nanOf f true) ∧
    (¬ InfTimesZero x y → isFinite x = false ∨ isFinite y = false → r = infOf f n) ∧
    (isFinite x = true → isFinite y = true → Delivered f rm (valQ x * valQ y) n r))

/-- A quotient (R113, R114). -/
def QuotientRule (f : FFmt) (rm : RMode) (x y : FVal) (r : Nat × FpFlags) : Prop :=
  let n := signNeg x != signNeg y
  (isNaN x = true ∨ isNaN y = true → r = nanOf f (isSNaN x || isSNaN y)) ∧
  (isNaN x = false → isNaN y = false →
    (isFinite x = false → isFinite y = false → r = nanOf f true) ∧ (isFinite x = false → isFinite y = true → r = infOf f n) ∧
    (isFinite x = true → isFinite y = false → r = zeroOf f n) ∧
    (isFinite x = true → isFinite y = true →
      (valQ y = 0 → r = if valQ x = 0 then nanOf f true else (withSign f n (ffInf f), flagDZ)) ∧
        (valQ y ≠ 0 → Delivered f rm (valQ x / valQ y) n r)))

/-- A fused sum of a product and an addend (R115). -/
def FusedRule (f : FFmt) (rm : RMode) (x y z : FVal) (r : Nat × FpFlags) : Prop :=
  let n := signNeg x != signNeg y
  (InfTimesZero x y → r = nanOf f true) ∧
  (¬ InfTimesZero x y → isNaN x = true ∨ isNaN y = true ∨ isNaN z = true → r = nanOf f (isSNaN x || isSNaN y || isSNaN z)) ∧
  (¬ InfTimesZero x y → isNaN x = false → isNaN y = false → isFinite x = false ∨ isFinite y = false →
    (isFinite z = true → r = infOf f n) ∧ ∀ a, z = .inf a → r = if n = a then infOf f a else nanOf f true) ∧
  (isFinite x = true → isFinite y = true →
    (∀ a, z = .inf a → r = infOf f a) ∧
      (isFinite z = true → Delivered f rm (valQ x * valQ y + valQ z) (zeroSign rm n (signNeg z)) r))

/-- The lesser or the greater of two elements, from their bits (R114). -/
def MinMaxRule (f : FFmt) (greater : Bool) (i j : Nat) (r : Nat × FpFlags) : Prop :=
  let x := fdecode f i
  let y := fdecode f j
  r.2 = { nv := isSNaN x || isSNaN y } ∧
  (isNaN x = true → isNaN y = true → r.1 = ffNaN f) ∧ (isNaN x = true → isNaN y = false → r.1 = j) ∧
  (isNaN x = false → isNaN y = true → r.1 = i) ∧
  (isNaN x = false → isNaN y = false →
    (valE x < valE y → r.1 = if greater then j else i) ∧ (valE y < valE x → r.1 = if greater then i else j) ∧
      (valE x = valE y → (i = j → r.1 = i) ∧ (i ≠ j → r.1 = withSign f (!greater) 0)))

/-- The square root, and one over it (R113, R114). -/
def RootRule (f : FFmt) (rm : RMode) (over1 : Bool) (x : FVal) (r : Nat × FpFlags) : Prop :=
  (isNaN x = true → r = nanOf f (isSNaN x)) ∧ (x = .inf true → r = nanOf f true) ∧
  (x = .inf false → r = if over1 then zeroOf f false else infOf f false) ∧
  (isFinite x = true →
    (valQ x = 0 → r = if over1 then (withSign f (signNeg x) (ffInf f), flagDZ) else zeroOf f (signNeg x)) ∧
      (valQ x < 0 → r = nanOf f true) ∧
      (0 < valQ x → RoundedNumber f rm (if over1 then 1 / Real.sqrt ((valQ x : ℚ) : ℝ) else Real.sqrt ((valQ x : ℚ) : ℝ)) r))

/-- 2^x (R113, R114): its special values, the powers of two at integers, and between two integers one rounding of a number between
their powers. -/
def Exp2Rule (f : FFmt) (rm : RMode) (x : FVal) (r : Nat × FpFlags) : Prop :=
  (isNaN x = true → r = nanOf f (isSNaN x)) ∧ (x = .inf true → r = zeroOf f false) ∧ (x = .inf false → r = infOf f false) ∧
  ∀ n : Int, isFinite x = true →
    (valQ x = n → RoundedNumber f rm ((2 : ℝ) ^ n) r) ∧
      ((n : ℚ) < valQ x → valQ x < n + 1 → ∃ y : ℝ, (2 : ℝ) ^ n < y ∧ y < (2 : ℝ) ^ (n + 1) ∧ RoundedNumber f rm y r)

/-- log2 x (R113, R114): its special values, the integers at powers of two, and between two powers one rounding of a number between
their logarithms. -/
def Log2Rule (f : FFmt) (rm : RMode) (x : FVal) (r : Nat × FpFlags) : Prop :=
  (isNaN x = true → r = nanOf f (isSNaN x)) ∧ (x = .inf true → r = nanOf f true) ∧ (x = .inf false → r = infOf f false) ∧
  (isFinite x = true →
    (valQ x = 0 → r = (withSign f true (ffInf f), flagDZ)) ∧ (valQ x < 0 → r = nanOf f true) ∧
      ∀ n : Int, (valQ x = (2 : ℚ) ^ n → Delivered f rm n false r) ∧
        ((2 : ℚ) ^ n < valQ x → valQ x < (2 : ℚ) ^ (n + 1) → ∃ y : ℝ, (n : ℝ) < y ∧ y < n + 1 ∧ RoundedNumber f rm y r))

/-- What the forms of R113 deliver for two encodings of a format. -/
def FloatValues (f : FFmt) : Prop :=
  ∀ (rm : RMode) (i j : Nat), i < 2 ^ ffWidth f → j < 2 ^ ffWidth f →
    let x := fdecode f i
    let y := fdecode f j
    let sign := 2 ^ (ffWidth f - 1)
    SumRule f rm x y (deliver f rm (fadd rm x y)) ∧ SumRule f rm x (fneg y) (deliver f rm (fsub rm x y)) ∧
      ProductRule f rm x y (deliver f rm (fmul x y)) ∧ QuotientRule f rm x y (deliver f rm (fdiv x y)) ∧
      MinMaxRule f false i j (deliver f rm (fminmax false x y)) ∧ MinMaxRule f true i j (deliver f rm (fminmax true x y)) ∧
      RootRule f rm false x (deliver f rm (fsqrt x)) ∧ RootRule f rm true x (deliver f rm (frsq x)) ∧
      QuotientRule f rm (.fin false 1 0) x (deliver f rm (frcp x)) ∧
      Exp2Rule f rm x (deliver f rm (fexp2 x)) ∧ Log2Rule f rm x (deliver f rm (flog2 x)) ∧
      (isNaN x = true → deliver f rm (fabsVal x) = nanOf f (isSNaN x) ∧ deliver f rm (fnegVal x) = nanOf f (isSNaN x)) ∧
      (isNaN x = false → deliver f rm (fabsVal x) = (i % sign, noFlags) ∧
        deliver f rm (fnegVal x) = (withSign f (!signNeg x) (i % sign), noFlags))

/-! ### Products and sums of the matrix array (R61, R64, R259, R260) -/

/-- Is a product of exact factors no number: is a factor a NaN, or one infinite and one zero? -/
def FactorsNaN (l : List FVal) : Prop :=
  (∃ x ∈ l, isNaN x = true) ∨ ((∃ x ∈ l, ∃ n, x = .inf n) ∧ ∃ x ∈ l, isFinite x = true ∧ valQ x = 0)

/-- The sign of a product, and the product of finite factors. -/
def factorSign (l : List FVal) : Bool := l.foldl (fun n x => n != signNeg x) false
def factorsQ (l : List FVal) : ℚ := (l.map valQ).prod

/-- Is a product the infinity of a sign? -/
def FactorsInf (l : List FVal) (n : Bool) : Prop := ¬ FactorsNaN l ∧ (∃ x ∈ l, ∃ m, x = .inf m) ∧ n = factorSign l

/-- Are an infinity and a zero among the factors: an invalid product where no NaN stands beside them? -/
def InfAndZero (l : List FVal) : Prop := (∃ x ∈ l, ∃ n, x = .inf n) ∧ ∃ x ∈ l, isFinite x = true ∧ valQ x = 0

/-- An element of the accumulator after one K-group and the events of the step: the exact sum of the element and of the products, rounded
once, and NV for what R259 names or for `more`. The sign of a zero sum is that of log entry 35; that a signalling NaN of the element itself
gives NV, and what stands beside a quiet NaN, is log entry 38. -/
def GroupRule (more : Prop) (x : Nat) (terms : List (List FVal)) (r : Nat × FpFlags) : Prop :=
  let v := fdecode .fp32 x
  let Bad : Prop := isNaN v = true ∨ ∃ t ∈ terms, FactorsNaN t
  let Inf (n : Bool) : Prop := v = .inf n ∨ ∃ t ∈ terms, FactorsInf t n
  let signalling : Prop := isSNaN v = true ∨ ∃ t ∈ terms, ∃ y ∈ t, isSNaN y = true
  (Bad ∨ (Inf true ∧ Inf false) → r.1 = ffNaN .fp32 ∧ r.2 = { nv := r.2.nv }) ∧
  (¬ Bad → ∀ n, Inf n → ¬ Inf (!n) → r.1 = withSign .fp32 n (ffInf .fp32) ∧ r.2 = { nv := r.2.nv }) ∧
  (¬ Bad → (∀ n, ¬ Inf n) → ∃ n f, Delivered .fp32 .rne (valQ v + (terms.map factorsQ).sum) n (r.1, f) ∧ r.2 = { f with nv := r.2.nv }) ∧
  (signalling ∨ (∃ t ∈ terms, (∀ y ∈ t, isNaN y = false) ∧ InfAndZero t) ∨ (¬ Bad ∧ Inf true ∧ Inf false) → r.2.nv = true) ∧
  (r.2.nv = true → signalling ∨ (∃ t ∈ terms, InfAndZero t) ∨ (Inf true ∧ Inf false) ∨ more)

/-- The down-converter: a value over a product of factors, converted, and its events (R52, R114, R260, R262). -/
def DownRule (f : FFmt) (rm : RMode) (sat : Bool) (x : FVal) (l : List FVal) (r : Nat × FpFlags) : Prop :=
  let n := signNeg x != factorSign l
  let whole : Prop := ∀ y ∈ l, isFinite y = true
  let undefined : Prop := ((∃ m, x = .inf m) ∧ ∃ m, FactorsInf l m) ∨ (isFinite x = true ∧ valQ x = 0 ∧ whole ∧ factorsQ l = 0)
  let signalling : Prop := isSNaN x = true ∨ ∃ y ∈ l, isSNaN y = true
  (isNaN x = true ∨ FactorsNaN l ∨ undefined →
    r.1 = (if ffHasNaN f then ffNaN f else 0) ∧ r.2 = { nv := r.2.nv } ∧
      (ffHasNaN f = false ∨ signalling ∨ ((∀ y ∈ l, isNaN y = false) ∧ InfAndZero l) ∨ undefined → r.2.nv = true) ∧
      (r.2.nv = true → ffHasNaN f = false ∨ signalling ∨ InfAndZero l ∨ undefined)) ∧
  (isNaN x = false → ¬ FactorsNaN l →
    ((∃ m, x = .inf m) ∨ (isFinite x = true ∧ valQ x ≠ 0 ∧ factorsQ l = 0) → whole →
      ∃ g, RoundedTo f rm sat (.inf n) (r.1, g) ∧ r.2 = { g with dz := isFinite x }) ∧
    (isFinite x = true → (∃ m, FactorsInf l m) → r = (withSign f n 0, noFlags)) ∧
    (isFinite x = true → whole → factorsQ l ≠ 0 → RoundedQ f rm sat (valQ x / factorsQ l) n r))

/-- The factors of ValB, and of ValA of MMA, for an element of a chunk (R259). -/
def factorsB (p : Pair) (bf : Nat) (sb : Bool) (bsl : Nat) (b : List Byte) (g n j : Nat) : List FVal :=
  [matElem p bf (chunkElem bf b (32 * g + n) j), if sb then scaleAt p (bsl * 4096 + 128 * n + g) else .fin false 1 0]
def factorsA (p : Pair) (af : Nat) (sa : Bool) (asl : Nat) (ts : Option Nat) (a : List Byte) (g m j : Nat) : List FVal :=
  [matElem p af (chunkElem af a (64 * g + m) j), if sa then scaleAt p (asl * 8192 + 128 * m + g) else .fin false 1 0, tensorScale ts]

/-! ### Sum-product values (R55, R56, R277, R278) -/

/-- The canonical NaN of a mode. -/
def spCanon (mode : Nat) : Nat := if mode = 2 then 0xFFF80000 else ffNaN (spFmt mode)

/-- A word as it is read under a mode. -/
def spAsRead (mode w : Nat) : Nat := if isNaN (spValue mode w) then spCanon mode else if mode = 2 then w else spFlush mode w

/-- Does a float's encoding hold a subnormal? -/
def SubnormalBits (f : FFmt) (r : Nat) : Prop := 0 < r % 2 ^ (ffWidth f - 1) ∧ r % 2 ^ (ffWidth f - 1) < 2 ^ ffFracBits f

/-- Underflow, which always comes with inexact (R51, R56). -/
def flagUF : FpFlags := { uf := true, nx := true }

/-- NV for a signalling NaN among words as they are read; SPQ sets no status for a NaN (R56, R277). -/
def spSignals (mode : Nat) (l : List Nat) : FpFlags := { nv := decide (mode ≠ 2) && l.any fun w => isSNaN (spValue mode w) }

/-- The word of an exact number of a sign and its events: in SPQ 21 significant bits, or zero, or the largest value; in a float mode one
rounding, and +0 for a subnormal. -/
def SpRounded (mode : Nat) (x : ℚ) (n : Bool) (y : Nat × FpFlags) : Prop :=
  if mode = 2 then
    (x = 0 → y = (0xFFF00000, noFlags)) ∧
    ∀ k : Int, 2 ^ (k + 20) ≤ x → x < 2 ^ (k + 21) →
      let z : ℚ := roundQ .rne (x / 2 ^ k) * 2 ^ k
      (z < 2 ^ (-4063 : Int) → y = (0xFFF00000, flagUF)) ∧ (valQ (spqDecode 0x000FFFFF) < z → y = (0x000FFFFF, flagOF)) ∧
        (2 ^ (-4063 : Int) ≤ z → z ≤ valQ (spqDecode 0x000FFFFF) →
          isFinite (spqDecode y.1) = true ∧ valQ (spqDecode y.1) = z ∧ y.1 < 2 ^ 32 ∧ y.2 = { nx := decide (z ≠ x) })
  else ∃ r g, Delivered (spFmt mode) .rne x n (r, g) ∧ (SubnormalBits (spFmt mode) r → y = (0, flagsOr g flagUF)) ∧
    (¬ SubnormalBits (spFmt mode) r → y = (r, g))

/-- What a node delivers for two words, and its events: 0 add, 1 multiply, 2 max, 3 pass. -/
def SpOpRule (mode op i j : Nat) (y : Nat × FpFlags) : Prop :=
  let a := spValue mode i
  let b := spValue mode j
  let inf (n : Bool) : Nat × FpFlags := infOf (spFmt mode) n
  (op = 3 → y = (spAsRead mode i, spSignals mode [i])) ∧
  (op < 3 → isNaN a = true ∨ isNaN b = true → y = (spCanon mode, spSignals mode [i, j])) ∧
  (isNaN a = false → isNaN b = false →
    (op = 0 → (isFinite a = true → isFinite b = true → ∃ n, SpRounded mode (valQ a + valQ b) n y) ∧
      (∀ n, a = .inf n → b = .inf (!n) → y = (spCanon mode, flagNV)) ∧
      ∀ n, (a = .inf n ∧ b ≠ .inf (!n)) ∨ (b = .inf n ∧ a ≠ .inf (!n)) → y = inf n) ∧
    (op = 1 → (isFinite a = true → isFinite b = true → SpRounded mode (valQ a * valQ b) (signNeg a != signNeg b) y) ∧
      (InfTimesZero a b → y = (spCanon mode, flagNV)) ∧
      (¬ InfTimesZero a b → isFinite a = false ∨ isFinite b = false → y = inf (signNeg a != signNeg b))) ∧
    (op = 2 → (valE b < valE a → y = (spAsRead mode i, noFlags)) ∧ (valE a < valE b → y = (spAsRead mode j, noFlags)) ∧
      (valE a = valE b → y = (if signNeg a then spAsRead mode j else spAsRead mode i, noFlags))))

/-- Is a child of the tree present: a node above a used leaf, or a used leaf (R278)? -/
def spHas (leaves c : Nat) : Bool :=
  if 7 ≤ c then leaves.testBit (c - 7)
  else if 3 ≤ c then decide (leaves / 4 ^ (c - 3) % 4 ≠ 0)
  else if c = 0 then decide (leaves % 256 ≠ 0)
  else decide (leaves / 16 ^ (c - 1) % 16 ≠ 0)

/-- Every present node has its value, and its events (R278, R282). -/
def UpwardRule (mode op leaves : Nat) (v : Nat → Nat) (f : Nat → FpFlags) : Prop :=
  ∀ n, n < 7 →
    (spHas leaves n = false → f n = noFlags) ∧
    (spHas leaves n = true →
      match spHas leaves (2 * n + 1), spHas leaves (2 * n + 2) with
      | true, true => SpOpRule mode (op / 4 ^ n % 4) (v (2 * n + 1)) (v (2 * n + 2)) (v n, f n)
      | true, false => v n = spAsRead mode (v (2 * n + 1)) ∧ f n = spSignals mode [v (2 * n + 1)]
      | _, _ => v n = spAsRead mode (v (2 * n + 2)) ∧ f n = spSignals mode [v (2 * n + 2)])

/-- Does a node of the downward pass multiply: a multiply node with both children (R283)? -/
def spMultiplies (op leaves n : Nat) : Bool :=
  spHas leaves n && spHas leaves (2 * n + 1) && spHas leaves (2 * n + 2) && decide (op / 4 ^ n % 4 = 1)

/-- Every present child of a present node has its adjoint, from the stored values; the products of a multiply node have events (R283). -/
def DownwardRule (mode op leaves : Nat) (v g : Nat → Nat) (f : Nat → FpFlags) : Prop :=
  (∀ n, n < 7 → spMultiplies op leaves n = false → f n = noFlags) ∧
  ∀ n, n < 7 → spHas leaves n = true →
    let l := 2 * n + 1
    let r := 2 * n + 2
    let nil := if mode = 2 then 0xFFF00000 else 0
    let a := spValue mode (v l)
    let b := spValue mode (v r)
    let left : Prop := isNaN a = true ∨ isNaN b = true ∨ valE b ≤ valE a
    match spHas leaves l, spHas leaves r with
    | true, true =>
      (op / 4 ^ n % 4 = 0 → g l = g n ∧ g r = g n) ∧
      (op / 4 ^ n % 4 = 1 → ∃ e h, SpOpRule mode 1 (g n) (v r) (g l, e) ∧ SpOpRule mode 1 (g n) (v l) (g r, h) ∧ f n = flagsOr e h) ∧
      (op / 4 ^ n % 4 = 3 ∨ (op / 4 ^ n % 4 = 2 ∧ left) → g l = g n ∧ g r = nil) ∧
      (op / 4 ^ n % 4 = 2 → ¬ left → g l = nil ∧ g r = g n)
    | true, false => g l = g n
    | _, _ => g r = g n

/-- A word of scratch holds a value that can be read (R276, R280). -/
def ScratchHolds (s : State) (q i w : Nat) : Prop := (localRead s (.spm q) (4 * i) 4).map ofBytes = some w

/-- A word of SPNRM's run after the common shift, and its events (R286). -/
def ScaledRule (mode : Nat) (sh : Int) (w : Nat) (y : Nat × FpFlags) : Prop :=
  let v := spValue mode w
  (isFinite v = false ∨ valQ v = 0 → y = (if mode = 2 then w else spFlush mode w, noFlags)) ∧
  (isFinite v = true → valQ v ≠ 0 →
    (mode = 2 → y = if 4094 < (w / 2 ^ 20 : Int) + sh then (0xFFF00000, flagUF)
      else (((w / 2 ^ 20 : Int) + sh).toNat * 2 ^ 20 + w % 2 ^ 20, noFlags)) ∧
    (mode ≠ 2 → (|valQ v| * 2 ^ (-sh) < 2 ^ (-126 : Int) → y = (0, flagUF)) ∧
      (2 ^ (-126 : Int) ≤ |valQ v| * 2 ^ (-sh) →
        isFinite (fdecode (spFmt mode) y.1) = true ∧ valQ (fdecode (spFmt mode) y.1) = valQ v * 2 ^ (-sh) ∧ y.2 = noFlags)))

/-- The value at the root of a pairwise tree of so many levels, adjacent leaves first, and the events of all its steps (R64). -/
def treeValue (op : Nat → Nat → Nat × FpFlags) : Nat → (Nat → Nat) → Nat
  | 0, x => x 0
  | n + 1, x => treeValue op n fun i => (op (x (2 * i)) (x (2 * i + 1))).1
def treeEvents (op : Nat → Nat → Nat × FpFlags) : Nat → (Nat → Nat) → FpFlags
  | 0, _ => noFlags
  | n + 1, x => flagsOr (flagsAll ((List.range (2 ^ n)).map fun i => (op (x (2 * i)) (x (2 * i + 1))).2))
      (treeEvents op n fun i => (op (x (2 * i)) (x (2 * i + 1))).1)

/-! ### Vector forms (R109, R112 to R123) -/

/-- Events ORed into FPCTL (R51). -/
def flagged (s : State) (f : FpFlags) : State :=
  modThread s s.cur fun x => { x with fpctl := x.fpctl ||| BitVec.ofNat 64 (flagsToNat f) }

/-- Does a mask register enable an element? -/
def enabled (s : State) (k : MReg) (i : Nat) : Bool := (kValue (me s) k).getLsbD i

/-- The lanes of a result under a merging mask: enabled elements are new, the others keep their old bits, which a port has
none of (R109). -/
def Merged (s : State) (d : Reg) (k : MReg) (t : Tag) (r : BitVec 512) (f : Nat → Nat) : Prop :=
  ∀ i, i < tagLanes t → lane (tagLane t) r.toNat i =
    if enabled s k i then f i % 2 ^ tagLane t else if isVPort d then 0 else lane (tagLane t) (vValue (me s) d).bits.toNat i

/-- What a form does with one element of an integer and of a float tag, where it takes such tags. -/
structure LaneRule where
  ints : Option (Nat → Bool → Int → Int → Int) := none
  flts : Option (RMode → FVal → FVal → FRes) := none

/-- Does the form take a tag class? -/
def LaneRule.takes (r : LaneRule) : TagClass → Bool
  | .int _ _ => r.ints.isSome
  | .flt _ => r.flts.isSome
  | _ => false

/-- An element's result: integers modulo 2^W, floats rounded once (R112). -/
def LaneRule.result (r : LaneRule) (t : Tag) (rm : RMode) (x y : Nat) : Nat × FpFlags :=
  match tagClass t, r.ints, r.flts with
  | .int w sg, some f, _ => (ofInt w (f w sg (laneInt w sg x) (laneInt w sg y)), noFlags)
  | .flt ff, _, some f => deliver ff rm (f rm (fdecode ff x) (fdecode ff y))
  | _, _, _ => (0, noFlags)

/-- The binary forms of R113 on equal tags. -/
def vecBinary : List ((Reg → Reg → Reg → MReg → Instr) × LaneRule) :=
  [(.vadd, { ints := some fun _ _ x y => x + y, flts := some fadd }),
   (.vsub, { ints := some fun _ _ x y => x - y, flts := some fsub }),
   (.vmul, { ints := some fun _ _ x y => x * y, flts := some fun _ x y => fmul x y }),
   (.vdiv, { flts := some fun _ x y => fdiv x y }),
   (.vmin, { ints := some fun _ _ x y => min x y, flts := some fun _ x y => fminmax false x y }),
   (.vmax, { ints := some fun _ _ x y => max x y, flts := some fun _ x y => fminmax true x y }),
   (.vadds, { ints := some fun w sg x y => max (intLo w sg) (min (intHi w sg) (x + y)) }),
   (.vsubs, { ints := some fun w sg x y => max (intLo w sg) (min (intHi w sg) (x - y)) }),
   (.vmulh, { ints := some fun w _ x y => x * y / 2 ^ w }),
   (.vsll, { ints := some fun w _ x y => x * 2 ^ (y % (w : Int)).toNat }),
   (.vsrl, { ints := some fun w _ x y => x % 2 ^ w / 2 ^ (y % (w : Int)).toNat }),
   (.vsra, { ints := some fun w _ x y => x.bmod (2 ^ w) / 2 ^ (y % (w : Int)).toNat })]

/-- The unary forms of R113. -/
def vecUnary : List ((Reg → Reg → MReg → Instr) × LaneRule) :=
  [(.vabs, { ints := some fun _ _ x _ => |x|, flts := some fun _ x _ => fabsVal x }),
   (.vneg, { ints := some fun _ _ x _ => -x, flts := some fun _ x _ => fnegVal x }),
   (.vsqrt, { flts := some fun _ x _ => fsqrt x }),
   (.vrcp, { flts := some fun _ x _ => frcp x }),
   (.vrsq, { flts := some fun _ x _ => frsq x }),
   (.vexp2, { flts := some fun _ x _ => fexp2 x }),
   (.vlog2, { flts := some fun _ x _ => flog2 x })]

/-- The fused forms of R115: the signs of the product and of the addend. -/
def vecFused : List ((Reg → Reg → Reg → MReg → Reg → Instr) × Bool × Bool) :=
  [(.vfma, false, false), (.vfms, false, true), (.vfnma, true, false), (.vfnms, true, true)]

/-- The forms that move elements of two vector sources: the tag, both sources and the element's number (R113, R119, R122). -/
def vecMoves : List ((Reg → Reg → Reg → MReg → Instr) × (Tag → BitVec 512 → BitVec 512 → Nat → Nat)) :=
  [(.vand, fun t a b i => lane (tagLane t) (a &&& b).toNat i),
   (.vor, fun t a b i => lane (tagLane t) (a ||| b).toNat i),
   (.vxor, fun t a b i => lane (tagLane t) (a ^^^ b).toNat i),
   (.vperm, fun t a b i =>
     lane (tagLane t) a.toNat
       (if tagLanes t = 128 then 2 * (lane 8 b.toNat (i / 2) % 64) + i % 2 else lane (tagLane t) b.toNat i % tagLanes t)),
   (.vzip, fun t a b i => if i % 2 = 0 then lane (tagLane t) a.toNat (i / 2) else lane (tagLane t) b.toNat (i / 2)),
   (.vunzip, fun t a b i =>
     if i < tagLanes t / 2 then lane (tagLane t) a.toNat (2 * i) else lane (tagLane t) b.toNat (2 * (i - tagLanes t / 2)))]

/-- The slides and the broadcast: the tag, the source, B and the element's number (R119). -/
def vecSlides : List ((Reg → Reg → Reg → MReg → Instr) × (Tag → BitVec 512 → Nat → Nat → Nat)) :=
  [(.vslup, fun t a b i => if b ≤ i then lane (tagLane t) a.toNat (i - b) else 0),
   (.vsldn, fun t a b i => if i + b < tagLanes t then lane (tagLane t) a.toNat (i + b) else 0),
   (.vbcast, fun t a b _ => lane (tagLane t) a.toNat (b % tagLanes t))]

/-- The mask forms with two sources (R124). -/
def maskBinary : List ((MReg → MReg → MReg → Instr) × (Bool → Bool → Bool)) :=
  [(.kand, fun a b => a && b), (.kor, fun a b => a || b), (.kxor, fun a b => a != b), (.kandn, fun a b => a && !b)]

/-- The scalar float forms with a rounding field (R125). -/
def floatBinary : List ((Reg → Reg → Reg → BitVec 3 → Instr) × (RMode → FVal → FVal → FRes)) :=
  [(.fadd, fadd), (.fsub, fsub), (.fmul, fun _ x y => fmul x y), (.fdiv, fun _ x y => fdiv x y)]

/-- The scalar comparisons with their condition codes (R117, R125). -/
def floatCompare : List ((Reg → Reg → Reg → Instr) × Nat) := [(.feq, 0), (.flt, 2), (.fle, 3)]

/-- The state after both vector sources are read. -/
def afterVV (s : State) (a b : Reg) : State := afterV (afterV s a) b

/-- An instruction that reads these vector sources finds its ports ready and their tags in agreement. -/
def VectorReady (s : State) (a b d : Reg) : Prop :=
  PortsReady s [] [a, b] [] [d] ∧ TagsAgree s a ∧ TagsAgree (afterV s a) b

end Sys2Proof.Safety
end

