-- ==== Sys2Proof/Certificates/Slice0/Obligations.lean ====
section
/-! DEFINITION. The statements for the provers. -/
open Sys2Proof Sys2Proof.Machine Sys2Proof.Safety

/-! ### Integer forms and control flow -/

/-- R97: with the ports it names ready, each two-source integer form retires with its table's value of A and B given to d.

R97: CLZ, CTZ and POPC retire with the counted value given to d; MOVZ and MOVN give A to d when the condition on B holds,
and otherwise give nothing to it. The first clause names the forms of intTable and countTable one by one. -/
def Obligations.IntegerResults : Prop :=
  (∀ (d a b : Reg) (s : State),
    (PortsReady s [a, b] [] [d] [] →
      ∀ i ∈ [Instr.add d a b, .sub d a b, .and d a b, .or d a b, .xor d a b, .sll d a b, .srl d a b, .sra d a b, .slt d a b,
          .sltu d a b, .min d a b, .max d a b, .minu d a b, .maxu d a b, .mul d a b, .mulh d a b, .mulhu d a b, .div d a b,
          .divu d a b, .rem d a b, .remu d a b, .addw d a b, .subw d a b],
        ∃ v, exec i s = .next (retired 4 s (giveG (afterG (afterG s a) b) d v))) ∧
      (PortsReady s [a] [] [d] [] →
        ∀ i ∈ [Instr.clz d a, .ctz d a, .popc d a], ∃ v, exec i s = .next (retired 4 s (giveG (afterG s a) d v)))) ∧
  (∀ p ∈ intTable, ∀ (d a b : Reg) (s : State), PortsReady s [a, b] [] [d] [] →
    exec (p.1 d a b) s =
      .next (retired 4 s (giveG (afterG (afterG s a) b) d (p.2 (valueG s a) (valueG (afterG s a) b))))) ∧
  ((∀ p ∈ countTable, ∀ (d a : Reg) (s : State), PortsReady s [a] [] [d] [] →
    exec (p.1 d a) s = .next (retired 4 s (giveG (afterG s a) d (p.2 (valueG s a))))) ∧
  ∀ (d a b : Reg) (s : State), PortsReady s [a, b] [] [] [] →
    let t := afterG (afterG s a) b
    let y := valueG (afterG s a) b
    (y ≠ 0 → exec (.movz d a b) s = .next (retired 4 s t)) ∧
      (y = 0 → exec (.movn d a b) s = .next (retired 4 s t)) ∧
      (PortsReady s [a, b] [] [d] [] →
        (y = 0 → exec (.movz d a b) s = .next (retired 4 s (giveG t d (valueG s a)))) ∧
          (y ≠ 0 → exec (.movn d a b) s = .next (retired 4 s (giveG t d (valueG s a))))))

/-- R98, R99, R100: the immediate forms, the shifts by an immediate and the bit fields retire with their value given to d. The
first clause names the forms of immTable and shiftTable one by one. -/
def Obligations.ImmediateResults : Prop :=
  (∀ (d a : Reg) (x : BitVec 16) (n : BitVec 6) (s : State), PortsReady s [a] [] [d] [] →
    ∀ i ∈ [Instr.addi d a x, .andi d a x, .ori d a x, .xori d a x, .slti d a x, .sltui d a x, .insh d a x, .slli d a n, .srli d a n,
        .srai d a n],
      ∃ v, exec i s = .next (retired 4 s (giveG (afterG s a) d v))) ∧
  (∀ p ∈ immTable, ∀ (d a : Reg) (i : BitVec 16) (s : State), PortsReady s [a] [] [d] [] →
    exec (p.1 d a i) s = .next (retired 4 s (giveG (afterG s a) d (p.2 (valueG s a) i)))) ∧
  (∀ (d : Reg) (i : BitVec 16) (s : State), PortsReady s [] [] [d] [] →
    exec (.lui d i) s = .next (retired 4 s (giveG s d (BitVec.ofInt 64 (BitVec.ofNat 32 (i.toNat * 2 ^ 16)).toInt)))) ∧
  (∀ p ∈ shiftTable, ∀ (d a : Reg) (n : BitVec 6) (s : State), PortsReady s [a] [] [d] [] →
    exec (p.1 d a n) s = .next (retired 4 s (giveG (afterG s a) d (p.2 (valueG s a) n)))) ∧
  (∀ (d a : Reg) (w l : BitVec 6) (s : State), PortsReady s [a] [] [d] [] →
    let n := w.toNat + 1
    let f := (valueG s a).toNat / 2 ^ l.toNat % 2 ^ n
    exec (.bfxu d a w l) s = .next (retired 4 s (giveG (afterG s a) d (BitVec.ofNat 64 f))) ∧
      exec (.bfxs d a w l) s =
        .next (retired 4 s (giveG (afterG s a) d (BitVec.ofInt 64 (if f < 2 ^ w.toNat then (f : Int) else (f : Int) - 2 ^ n))))) ∧
  ∀ (d a : Reg) (w l : BitVec 6) (s : State), PortsReady s [a] [] [] [] → wellFormed (.bfi d a w l) = true →
    ∃ v : Word, exec (.bfi d a w l) s = .next (retired 4 s (giveG (afterG s a) d v)) ∧
      ∀ i, i < 64 → v.getLsbD i =
        if l.toNat ≤ i ∧ i ≤ l.toNat + w.toNat then (valueG s a).getLsbD (i - l.toNat) else (gValue (me s) d).getLsbD i

/-- R101: ADDPC is major 0x0D with imm21 in bits [20:0]; it makes no check and gives PC + 4 × sext(imm21, 21) to d. -/
def Obligations.AddToPc : Prop :=
  ∀ (d : Reg) (i : BitVec 21) (s : State),
    encode (.addpc d i) = [0x0D#6 ++ d ++ i] ∧
      (PortsReady s [] [] [d] [] → exec (.addpc d i) s = .next (retired 4 s (giveG s d (offTarget (me s).pc i))))

/-- R103: a branch whose condition fails goes to PC + 4 and makes no check; one whose condition holds goes to
PC + 4 × sext(off16, 16) if the target passes the check of R102. The first clause names the forms of branchTable one by one. -/
def Obligations.BranchResults : Prop :=
  (∀ (a b : Reg) (off : BitVec 16) (s : State), PortsReady s [a, b] [] [] [] → GoodTarget (offTarget (me s).pc off) →
    ∀ i ∈ [Instr.beq a b off, .bne a b off, .blt a b off, .bge a b off, .bltu a b off, .bgeu a b off],
      ∃ pc, (pc = (me s).pc + 4 ∨ pc = offTarget (me s).pc off) ∧ exec i s = .next (retiredAt s (afterG (afterG s a) b) pc)) ∧
  ∀ p ∈ branchTable, ∀ (a b : Reg) (off : BitVec 16) (s : State), PortsReady s [a, b] [] [] [] →
    let t := afterG (afterG s a) b
    (p.2 (valueG s a) (valueG (afterG s a) b) = false → exec (p.1 a b off) s = .next (retired 4 s t)) ∧
      (p.2 (valueG s a) (valueG (afterG s a) b) = true → GoodTarget (offTarget (me s).pc off) →
        exec (p.1 a b off) s = .next (retiredAt s t (offTarget (me s).pc off)))

/-- R104, R105: J and JAL go to PC + 4 × sext(off26, 26), JR and JALR to A, where the target passes its checks; JAL writes
PC + 4 to g31 and JALR to d, after A is read.

R106: LOOP writes A − 1 and jumps while that is not zero, and writes 0 and falls through when it is. -/
def Obligations.JumpAndLoopResults : Prop :=
  ((∀ (off : BitVec 26) (s : State), GoodTarget (offTarget (me s).pc off) →
    exec (.j off) s = .next (retiredAt s s (offTarget (me s).pc off)) ∧
      exec (.jal off) s = .next (retiredAt s (giveG s 31 ((me s).pc + 4)) (offTarget (me s).pc off))) ∧
  (∀ (a : Reg) (s : State), PortsReady s [a] [] [] [] → GoodTarget (valueG s a) →
    exec (.jr a) s = .next (retiredAt s (afterG s a) (valueG s a))) ∧
  ∀ (d a : Reg) (s : State), PortsReady s [a] [] [d] [] → GoodTarget (valueG s a) →
    exec (.jalr d a) s = .next (retiredAt s (giveG (afterG s a) d ((me s).pc + 4)) (valueG s a))) ∧
  (∀ (a : Reg) (off : BitVec 16) (s : State), wellFormed (.loop a off) = true →
    let n := gValue (me s) a - 1
    (n ≠ 0 → GoodTarget (offTarget (me s).pc off) →
        exec (.loop a off) s = .next (retiredAt s (giveG s a n) (offTarget (me s).pc off))) ∧
      (n = 0 → exec (.loop a off) s = .next (retired 4 s (giveG s a 0))))

/-- R102: a taken branch, a jump or a LOOP whose target fails the check traps, Alignment before Address, with the target as
TRAPVAL, and writes no register. -/
def Obligations.BadTargetTraps : Prop :=
  ∀ (s : State) (t : Word), ¬ GoodTarget t →
    let cause := if t.toNat % 4 ≠ 0 then causeAlignment else causeAddress
    (∀ off : BitVec 26, t = offTarget (me s).pc off →
      exec (.j off) s = .next (takeTrap s s.cur cause t) ∧ exec (.jal off) s = .next (takeTrap s s.cur cause t)) ∧
    (∀ (a : Reg) (off : BitVec 16), wellFormed (.loop a off) = true → gValue (me s) a - 1 ≠ 0 → t = offTarget (me s).pc off →
      exec (.loop a off) s = .next (takeTrap s s.cur cause t)) ∧
    (∀ p ∈ branchTable, ∀ (a b : Reg) (off : BitVec 16), PortsReady s [a, b] [] [] [] →
      p.2 (valueG s a) (valueG (afterG s a) b) = true → t = offTarget (me s).pc off →
      exec (p.1 a b off) s = .next (takeTrap (holdDirs (namedDirs [a, b] []) s) s.cur cause t)) ∧
    ∀ d a : Reg, valueG s a = t →
      (PortsReady s [a] [] [] [] →
          exec (.jr a) s = .next (takeTrap (holdDirs (namedDirs [a] []) s) s.cur cause t)) ∧
        (PortsReady s [a] [] [d] [] →
          exec (.jalr d a) s = .next (takeTrap (holdDirs (namedDirs [a, d] []) s) s.cur cause t))

/-! ### System registers, modes and traps -/

/-- R16, R86: MFS gives the register to d where its mode may read it, and a context register reads as what the context holds;
in app mode a register of the trap group raises the Privilege trap with the instruction's word.

R16, R86: MTS writes where its mode may, field by field: reserved and read-only fields read as zero after it, a read-only
register ignores the write, and in app mode every register but FPCTL, MPROG and CBSEL raises the Privilege trap.

R88, R92, R94, R95, R292: FPCTL, the DOMAIN registers, FETCHDUTY, the counters and INSTRET take their writes by their own rules.

R89 to R91, R93 to R96: the other writable registers keep the bits that their maps give, and the identity, licence, power and counter
registers read as their maps say, on each kind of core.

The model's choices here: that bits [5:0] of BIVBASE, BIVLIMIT and BIVOVF stay zero under MTS (log entry 25), and the operating point that
PWRSTATE shows on a service core (log entry 9). -/
def Obligations.SystemRegisterMoves : Prop :=
  (∀ (d : Reg) (r : BitVec 12) (s : State), wellFormed (.mfs d r) = true →
    (r.toNat < 0x100 ∨ InSys s → PortsReady s [] [] [d] [] →
      exec (.mfs d r) s = .next (retired 4 s (giveG s d (sysRead s s.cur r.toNat)))) ∧
    (0x100 ≤ r.toNat → ¬ InSys s →
      exec (.mfs d r) s = .next (takeTrap s s.cur causePrivilege (((encode (.mfs d r)).headD 0).setWidth 64))) ∧
    ∀ p ∈ contextRegs, r.toNat = p.1 → sysRead s s.cur r.toNat = p.2 (me s)) ∧
  (∀ (a : Reg) (r : BitVec 12) (s : State), wellFormed (.mts a r) = true →
    (1 ≤ r.toNat ∧ r.toNat ≤ 3 ∨ InSys s → PortsReady s [a] [] [] [] →
      exec (.mts a r) s = .next (retired 4 s (sysWrite (afterG s a) s.cur r.toNat (valueG s a)))) ∧
    (¬ (1 ≤ r.toNat ∧ r.toNat ≤ 3) → ¬ InSys s →
      exec (.mts a r) s = .next (takeTrap s s.cur causePrivilege (((encode (.mts a r)).headD 0).setWidth 64))) ∧
    ∀ v : Word,
      (∀ p ∈ maskedRegs, contextReg (getThread (sysWrite s s.cur p.1 v) s.cur) p.1 = v &&& p.2) ∧
        (∀ n ∈ readOnlyRegs, sysWrite s s.cur n v = s) ∧
        (∀ i, i < 64 → (getThread (sysWrite s s.cur 0 v) s.cur).status.getLsbD i =
          if i = 1 then v.getLsbD i else (me s).status.getLsbD i) ∧
        fpctlRm (getThread (sysWrite s s.cur 1 v) s.cur) = (if v.toNat / 32 % 8 < 5 then v.toNat / 32 % 8 else fpctlRm (me s)) ∧
        (getThread (sysWrite s s.cur 1 v) s.cur).fpctl.toNat % 32 = v.toNat % 32 ∧
        (getThread (sysWrite s s.cur 1 v) s.cur).fpctl.toNat < 256 ∧
        (getThread (sysWrite s s.cur 0x018 v) s.cur).domain1 = (if fieldOf v 23 20 = 0 then v &&& 0xFFFF else (me s).domain1) ∧
        (∀ p ∈ [(0x019, 2), (0x01A, 3), (0x01B, 4)],
          contextReg (getThread (sysWrite s s.cur p.1 v) s.cur) p.1 =
            if ∃ n ∈ [2, 3, 4], n ≠ p.2 ∧ domTree (domainOf (me s) n) = fieldOf v 23 20 then contextReg (me s) p.1
            else v &&& 0xF0FFFF) ∧
        (getCore (sysWrite s s.cur 0x031 v) s.cur.core).fetchDuty =
          (if 1 ≤ fieldOf v 4 0 ∧ fieldOf v 4 0 ≤ 16 then fieldOf v 4 0 else (getCore s s.cur.core).fetchDuty) ∧
        (getCore (sysWrite s s.cur 0x038 v) s.cur.core).msgSent = v ∧ (getCore (sysWrite s s.cur 0x039 v) s.cur.core).msgRecv = v) ∧
  (∀ (a : Reg) (s : State), InSys s → PortsReady s [a] [] [] [] →
    ∃ t, exec (.mts a 0x041) s = .next t ∧ (getThread t s.cur).instret = valueG s a) ∧
  ∀ (s : State) (t : ThreadRef), threadExists t = true →
    let rd (n : Nat) : Word := sysRead s t n
    let app : Prop := isService t.core = false
    let d := dieOf t.core
    let c := getCore s t.core
    let h := (getPair s (pairKey t.core)).holder
    let own := sideOf t.core
    (rd 0x010 = BitVec.ofNat 64 t.slot ∧ rd 0x031 = BitVec.ofNat 64 c.fetchDuty ∧ rd 0x038 = c.msgSent ∧ rd 0x039 = c.msgRecv ∧
      rd 0x040 = BitVec.ofNat 64 s.cycle) ∧
    (¬ app → rd 0x011 = 0 ∧ rd 0x012 = 0 ∧ rd 0x014 = 0) ∧
    (app → fieldOf (rd 0x011) 7 0 = colOf t.core ∧ fieldOf (rd 0x011) 15 8 = rowOf t.core ∧ fieldOf (rd 0x011) 17 16 = qcoreOf t.core ∧
      fieldOf (rd 0x011) 31 18 = 0 ∧ fieldOf (rd 0x011) 63 48 = 0 ∧
      (threadRegion s t = none → fieldOf (rd 0x011) 47 32 = 0 ∧ rd 0x014 = 0) ∧
      (∀ r, threadRegion s t = some r →
        fieldOf (rd 0x011) 47 40 = packRow t.core - r.prow ∧ fieldOf (rd 0x011) 39 32 = packCol t.core - r.pcol ∧
          fieldOf (rd 0x014) 31 8 = r.inst % 2 ^ 24 ∧ fieldOf (rd 0x014) 4 0 = amGet r.rowCounters d 0 % 32 ∧
          fieldOf (rd 0x014) 7 5 = 0 ∧ fieldOf (rd 0x014) 63 32 = 0) ∧
      fieldOf (rd 0x012) 6 0 = 8 * (rowOf t.core / 2) + colOf t.core / 4 ∧ fieldOf (rd 0x012) 7 7 = 0 ∧
      fieldOf (rd 0x012) 11 8 = rowOf t.core / 2 ∧ fieldOf (rd 0x012) 14 12 = colOf t.core / 4 ∧ fieldOf (rd 0x012) 63 15 = 0) ∧
    (fieldOf (rd 0x013) 2 0 = d ∧ fieldOf (rd 0x013) 7 3 = 0 ∧ fieldOf (rd 0x013) 9 8 = stackOf d ∧ fieldOf (rd 0x013) 10 10 = layerOf d ∧
      fieldOf (rd 0x013) 63 11 = 0) ∧
    (hasArray (threadRegion s t) = false → rd 0x028 = 3) ∧
    (hasArray (threadRegion s t) = true →
      fieldOf (rd 0x028) 1 0 = (if h = 0 then 0 else if h = own then 1 else 2) ∧
        fieldOf (rd 0x028) 2 2 = bit (requested (getPair s (pairKey t.core)) own) ∧
        fieldOf (rd 0x028) 3 3 = bit (requested (getPair s (pairKey t.core)) (otherSide own)) ∧ fieldOf (rd 0x028) 63 4 = 0) ∧
    (fieldOf (rd 0x030) 0 0 = bit c.low ∧ fieldOf (rd 0x030) 3 1 = 0 ∧ fieldOf (rd 0x030) 8 4 = c.fetchDuty % 32 ∧
      fieldOf (rd 0x030) 9 9 = bit c.skip ∧ fieldOf (rd 0x030) 11 10 = 0 ∧ fieldOf (rd 0x030) 15 12 = coreOpp s t.core % 16 ∧
      fieldOf (rd 0x030) 63 16 = 0)

/-- R15, R70, R86, R95: an MTS that completes changes no general, vector or mask register, no byte of memory, no other thread and no system register
but the one it names, and MFS changes no register but d and no other thread; INSTRET counts each of them, but not an MTS to
itself. -/
def Obligations.SystemRegisterFrame : Prop :=
  ∀ (g : Reg) (r : BitVec 12) (s t : State),
    (exec (.mfs g r) s = .next t → SameMemory s t ∧ RegsExcept (me s) (getThread t s.cur) [g] [] []) ∧
      (exec (.mts g r) s = .next t → SameMemory s t ∧ RegsExcept (me s) (getThread t s.cur) [] [] []) ∧
      (exec (.mts g r) s = .next t → Retired s t ∨ isRoped (me s) = false → OthersSame s t) ∧
      let rest (n : Nat) : Prop :=
        (∀ p ∈ contextRegs, p.1 ≠ n → p.1 ≠ 0x041 → p.2 (getThread t s.cur) = p.2 (me s)) ∧ (n ≠ 0x041 → Retired s t) ∧
          (n ≠ 0x031 → (getCore t s.cur.core).fetchDuty = (getCore s s.cur.core).fetchDuty) ∧
          (n ≠ 0x038 → (getCore t s.cur.core).msgSent = (getCore s s.cur.core).msgSent) ∧
          (n ≠ 0x039 → (getCore t s.cur.core).msgRecv = (getCore s s.cur.core).msgRecv) ∧ t.cycle = s.cycle ∧ ArraySame s t ∧ OthersSame s t
      (r.toNat < 0x100 ∨ InSys s → PortsReady s [] [] [g] [] → exec (.mfs g r) s = .next t → rest 0x1000) ∧
        (1 ≤ r.toNat ∧ r.toNat ≤ 3 ∨ InSys s → PortsReady s [g] [] [] [] → exec (.mts g r) s = .next t → rest r.toNat)

/-- R26: in app mode each sys-only form, and on an application core each service-only form in either mode, raises the
Privilege trap with the instruction's first word as TRAPVAL. -/
def Obligations.PrivilegeTraps : Prop :=
  ∀ (i : Instr) (s : State),
    (sysOnly i = true ∧ ¬ InSys s) ∨ (serviceOnly i = true ∧ isService s.cur.core = false) →
      exec i s = .next (takeTrap s s.cur causePrivilege (((encode i).headD 0).setWidth 64))

/-- R318, R319: a trap writes TRAPPC, TRAPCAUSE and TRAPVAL, saves the mode and enters the handler that TRAPVEC or HVEC names;
on an application core a trap in sys mode, or one without a handler, stops the thread and posts a THREADFAULT.

R84, R318: whatever the rope, a trap changes no general, vector or mask register of any thread and no byte of memory. -/
def Obligations.TrapEntry : Prop :=
  (∀ (s : State) (u : ThreadRef) (cause : Nat) (val : Word), cause < 256 → isRoped (getThread s u) = false →
    let x := getThread s u
    let t := takeTrap s u cause val
    let hv := hvecOf s x.part x.func
    let app := isService u.core = false
    (modeSys x = true → app → StoppedAtTrap s t u cause val true) ∧
      (modeSys x = false ∨ ¬ app → vectorOf x.trapvec ≠ 0 → Entered x (getThread t u) cause val (vectorOf x.trapvec)) ∧
      (modeSys x = false → app → vectorOf x.trapvec = 0 → hv.getLsbD 0 = true → Entered x (getThread t u) cause val (vectorOf hv)) ∧
      (modeSys x = false → app → vectorOf x.trapvec = 0 → hv.getLsbD 0 = false → StoppedAtTrap s t u cause val false) ∧
      (¬ app → vectorOf x.trapvec = 0 → (getThread t u).wait = .otair ∧ t.otairReports = s.otairReports ++ [u])) ∧
  (∀ (s : State) (u v : ThreadRef) (cause : Nat) (val : Word),
    SameMemory s (takeTrap s u cause val) ∧ RegsExcept (getThread s v) (getThread (takeTrap s u cause val) v) [] [] [])

/-- R320: TRAP is major 0x30, fn 2, with n in imm12 and d and a zero, and raises the Break trap with n as TRAPVAL; TRAPPC is
its own address. -/
def Obligations.TrapInstruction : Prop :=
  ∀ (n : BitVec 12) (s : State),
    encode (.trap n) = [0x30#6 ++ 0#5 ++ 0#5 ++ n ++ 2#4] ∧
      exec (.trap n) s = .next (takeTrap s s.cur causeBreak (BitVec.ofNat 64 n.toNat)) ∧
      (getThread (takeTrap s s.cur causeBreak (BitVec.ofNat 64 n.toNat)) s.cur).trappc = (me s).pc

/-- R26, R321: ERET in sys mode goes to TRAPPC if it is a good target; the mode becomes PMODE, or stays sys on a service core, PMODE
becomes 0, and the trap registers are left as they are. -/
def Obligations.ReturnFromTrap : Prop :=
  ∀ s : State, InSys s → GoodTarget (me s).trappc →
    ∃ t, exec .eret s = .next t ∧
      let y := getThread t s.cur
      y.pc = (me s).trappc ∧ modeSys y = (pmodeSys (me s) || isService s.cur.core) ∧ pmodeSys y = false ∧ y.inTrap = false ∧ y.trappc = (me s).trappc ∧
        y.trapcause = (me s).trapcause ∧ y.trapval = (me s).trapval ∧ y.trapvec = (me s).trapvec ∧ y.g = (me s).g ∧
        y.v = (me s).v ∧ y.k = (me s).k ∧ Retired s t ∧ SameMemory s t ∧ OthersSame s t

/-! ### Threads, ropes and slots -/

/-- R78, R79, R80, R85, R324: HALT frees its slot once no engine command of the thread is on its way; HALT with retain takes its
handle first; the HALT that empties the core keeps the scratchpad under that handle, or powers it down; YIELD n keeps the thread from
issuing for n cycles, and YIELD 0 passes it over once; SPLIT ends the rope; CAIRN does nothing more without a pre-emption request, and
stops the thread behind it with one. -/
def Obligations.ThreadControl : Prop :=
  ∀ s : State,
    (fenceWaits s s.cur 0 = false → exec .halt s = .next (haltThread s s.cur none)) ∧
    (∀ a : Reg, isGPort a = false → fenceWaits s s.cur 0 = false →
      exec (.haltRetain a) s = .next (haltThread s s.cur (some (gValue (me s) a)))) ∧
    (∀ h,
      let u := performAll s s.cur
      let t := haltThread s s.cur h
      let last : Prop := ∀ i, i < 4 → i ≠ s.cur.slot → (getThread u { core := s.cur.core, slot := i }).slotState = .free
      (getCore u s.cur.core).waiting = [] →
        (getThread t s.cur).slotState = .free ∧ getThread t s.cur = {} ∧
          (last → h = none → (getCore t s.cur.core).retention = none ∧ (getCore t s.cur.core).powered = false ∧
            ∀ a, memGet (getCore t s.cur.core).scratch.cells a = 0) ∧
          ∀ w, h = some w → last →
            (∀ a, memGet (getCore t s.cur.core).scratch.cells a = memGet (getCore u s.cur.core).scratch.cells a) ∧
              ∃ p, (getCore t s.cur.core).retention = some p ∧ p.handle = w ∧
                ∀ r, threadRegion u s.cur = some r → p.row = packRow s.cur.core - r.prow ∧ p.col = packCol s.cur.core - r.pcol) ∧
    (∀ n : BitVec 12, ∃ t, exec (.yield n) s = .next t ∧
      let y := getThread t s.cur
      (n ≠ 0 → y.yieldLeft = n.toNat + 2) ∧ (n = 0 → y.passScalar = some s.cycle ∧ y.passVector = some s.cycle) ∧
        y.pc = (me s).pc + 4 ∧ y.g = (me s).g ∧ SameMemory s t ∧ OthersSame s t) ∧
    (exec .split s = .next (retired 4 s (dissolveRope s s.cur)) ∧
      (isRoped (me s) = false → exec .split s = .next (retired 4 s s)) ∧
      (isRoped (me s) = true → ∀ u ∈ ropeMembers s s.cur, isRoped (getThread (dissolveRope s s.cur) u) = false)) ∧
    ∀ i : BitVec 12,
      ((∀ r, threadRegion s s.cur = some r → r.preempt = none) → exec (.cairn i) s = .next (retired 4 s s)) ∧
        ∀ r p, threadRegion s s.cur = some r → r.preempt = some p →
          ∃ t, exec (.cairn i) s = .next t ∧ (getThread t s.cur).pc = (me s).pc + 4 ∧
            (getThread t s.cur).slotState = .stopped (r.forced || cairnFull s r s.cur.core i.toNat) i.toNat

/-- R82: a ROPE of a rope with that mask gives the rank and has no other effect; one in a case that R82 refuses gives all ones and ends
with all ones each pending arrival that names its core; one that completes a formation makes every named core's slot a member with its
rank, and the thread goes on behind the leader's ROPE; any other waits for the named cores, and ends the arrivals of other masks that
name its core. A destination that is a port gets the result as a link word.

Of the refused cases, that of a service core, which stands in no region, is the model's choice (log entry 24). -/
def Obligations.RopeResults : Prop :=
  ∀ (d : Reg) (mask : BitVec 4) (s : State), PortsReady s [] [] [d] [] → arrivalOf (me s) = none →
    let m := mask.toNat
    let q := qcoreOf s.cur.core
    let peer (i : Nat) : ThreadRef := ropePeer s.cur i
    let other (i : Nat) : Prop := i < 4 ∧ m.testBit i = true ∧ i ≠ q
    let refusedNow : Prop :=
      m ∉ [3, 5, 6, 9, 10, 12, 15] ∨ m.testBit q = false ∨ isService s.cur.core = true ∨
        (∀ r, threadRegion s s.cur = some r → r.quad = false) ∨ isRoped (me s) = true ∨
        ∃ i, other i ∧ ((getThread s (peer i)).slotState = .free ∨ isRoped (getThread s (peer i)) = true ∨
          (∃ k e, (getThread s (peer i)).wait = .rope k e ∧ k ≠ m) ∨ (getThread s (peer i)).ropeRefusedAt = some s.cycle)
    let complete : Prop := ∀ i, other i → ∃ e, (getThread s (peer i)).wait = .rope m e
    let gets (t : State) (u : ThreadRef) (e : Nat) (v : Word) : Prop := isGPort (BitVec.ofNat 5 e) = false → e ≠ 0 → e < 32 →
      gValue (getThread t u) (BitVec.ofNat 5 e) = v
    (isRoped (me s) = true ∧ ropeMask (me s) = m →
      exec (.rope d mask) s = .next (retired 4 s (giveG s d (BitVec.ofNat 64 (ropeRank (me s)))))) ∧
    (¬ (isRoped (me s) = true ∧ ropeMask (me s) = m) → refusedNow → q < 4 → isService s.cur.core = false →
      let fallen (i k e : Nat) : Prop := i < 4 ∧ peer i ≠ s.cur ∧ (getThread s (peer i)).wait = .rope k e ∧ k.testBit q = true
      ∃ t, exec (.rope d mask) s = .next t ∧ gets t s.cur d.toNat (BitVec.allOnes 64) ∧ Retired s t ∧
        (getThread t s.cur).pc = (me s).pc + 4 ∧ (me t).ropeRefusedAt = some s.cycle ∧
        (isGPort d = true → ∃ u, t = retired 4 s (giveG u d (BitVec.allOnes 64))) ∧
        ∀ i k e, fallen i k e → (getThread t (peer i)).wait = .none ∧ (getThread t (peer i)).pc = (getThread s (peer i)).pc + 4 ∧
          gets t (peer i) e (BitVec.allOnes 64)) ∧
    (¬ (isRoped (me s) = true ∧ ropeMask (me s) = m) → isService s.cur.core = true →
      ∃ t, exec (.rope d mask) s = .next t ∧ gets t s.cur d.toNat (BitVec.allOnes 64) ∧ Retired s t) ∧
    (¬ refusedNow → complete →
      (∀ i k e, i < 4 → (getThread s (peer i)).wait = .rope k e → k.testBit q = true → k = m) →
      ∃ t, exec (.rope d mask) s = .next t ∧
        (∀ i, i < 4 → m.testBit i = true → isRoped (getThread t (peer i)) = true ∧ ropeMask (getThread t (peer i)) = m ∧
          ropeRank (getThread t (peer i)) = popcount i m ∧
          (getThread t (peer i)).pc = (getThread s (peer (firstOne 4 m))).pc + 4) ∧
        gets t s.cur d.toNat (BitVec.ofNat 64 (popcount q m)) ∧
        (isGPort d = true → ∃ u, t = retiredAt s (giveG u d (BitVec.ofNat 64 (popcount q m))) ((getThread s (peer (firstOne 4 m))).pc + 4)) ∧
        ∀ i e, other i → (getThread s (peer i)).wait = .rope m e → gets t (peer i) e (BitVec.ofNat 64 (popcount i m))) ∧
    (¬ refusedNow → ¬ complete →
      ∃ t, exec (.rope d mask) s = .next t ∧ (me t).wait = .rope m d.toNat ∧ (me t).pc = (me s).pc ∧ (me t).instret = (me s).instret ∧
        RegsExcept (me s) (me t) [] [] [] ∧ SameMemory s t ∧
        ∀ i k e, i < 4 → peer i ≠ s.cur → (getThread s (peer i)).wait = .rope k e → k.testBit q = true → k ≠ m →
          (getThread t (peer i)).wait = .none ∧ gets t (peer i) e (BitVec.allOnes 64))

/-! ### Service cores: mailbox, tokens, LAUNCH -/

/-- R219: MBXRD takes the oldest message into d to d + 3, or 0 into d where nb asks not to wait and the mailbox is empty;
MBXWR sends its reply to the requester that the handle names. -/
def Obligations.MailboxForms : Prop :=
  ∀ s : State, InService s →
    (∀ (d : Reg) (nb : BitVec 1) (m : List Word) (rest : List (List Word)), wellFormed (.mbxrd d nb) = true →
      (getCore s s.cur.core).mailbox = m :: rest →
      ∃ t, exec (.mbxrd d nb) s = .next t ∧ (getCore t s.cur.core).mailbox = rest ∧
        (∀ i, i < 4 → gValue (getThread t s.cur) (d + BitVec.ofNat 5 i) = m.getD i 0) ∧
        RegsExcept (me s) (getThread t s.cur) [d, d + 1, d + 2, d + 3] [] [] ∧ SameMemory s t ∧ Retired s t) ∧
    (∀ d : Reg, wellFormed (.mbxrd d 1) = true → (getCore s s.cur.core).mailbox = [] →
      exec (.mbxrd d 1) s = .next (retired 4 s (giveG s d 0))) ∧
    ∀ a : Reg, PortsReady s [a] [] [] [] →
      exec (.mbxwrRetry a) s = .next (retired 4 s { afterG s a with net := s.net ++ [.reply s.cur.core (valueG s a) false] }) ∧
        exec (.mbxwrRefuse a) s = .next (retired 4 s { afterG s a with net := s.net ++ [.reply s.cur.core (valueG s a) true] })

/-- R190, R214, R215: each RLTOK form whose operand is good performs the thread's writes as fence.package does, passes its token over
every quad and LLTC of the partition, and gives the count of removed latches to d.

R214, R215: a quad that a token has passed holds no translation that the token matches in its cores' L1 TLBs, its L2 TLB and the
latches of its copy channels, and no entry of its functions in its walk cache; an LLTC and the latches of the stream nodes beside it
hold none either; and each is one generation further.

The model's choices here: the monitors of pages that are mapped no more are dropped once the token has passed (log entry 28), the
stream nodes stand with the LLTC of the die beside their stack (log entry 12), and the cores of a quad are with quad 0 of a die its
service cores too (log entry 9). -/
def Obligations.TokenForms : Prop :=
  (∀ s : State, InSys s → s.defer = false → (∀ n, (me s).wait ≠ .tokenDone n) →
    let passed (t : State) (k : Token) : State × Nat := passAll k (publish t s.cur 6)
    let after (t : State) (k : Token) : State := dropUnmapped (passed t k).1 k.part
    (∀ (d a : Reg) (g : BitVec 1) (n : BitVec 6), PortsReady s [a] [] [d] [] →
      let x := valueG s a
      let k : Token :=
        { part := (me s).part, scope := 0, func := fieldOf x 6 0, va := fieldOf x 56 12 * 4096, bits := 12 + n.toNat, global := g = 1 }
      fieldOf x 63 57 = 0 → fieldOf x 11 7 = 0 → fieldOf x 6 0 ≤ 64 → n.toNat ≤ 45 → fieldOf x 56 12 % 2 ^ n.toNat = 0 →
      CanGive (after (afterG s a) k) d →
      exec (.rltokRange d a g n) s =
        .next (retired 4 s (giveG (after (afterG s a) k) d (BitVec.ofNat 64 (passed (afterG s a) k).2)))) ∧
    (∀ (d a : Reg) (g : BitVec 1), PortsReady s [a] [] [d] [] →
      let x := valueG s a
      let k : Token := { part := (me s).part, scope := 1, func := fieldOf x 6 0, global := g = 1 }
      fieldOf x 63 7 = 0 → fieldOf x 6 0 ≤ 64 → CanGive (after (afterG s a) k) d →
      exec (.rltokFunc d a g) s =
        .next (retired 4 s (giveG (after (afterG s a) k) d (BitVec.ofNat 64 (passed (afterG s a) k).2)))) ∧
    ∀ d : Reg, PortsReady s [] [] [d] [] →
      let k : Token := { part := (me s).part, scope := 2 }
      CanGive (after s k) d →
      exec (.rltokPart d) s = .next (retired 4 s (giveG (after s k) d (BitVec.ofNat 64 (passed s k).2)))) ∧
  (∀ (k : Token) (s : State) (n quad : Nat), quad < 1024 →
    let t := (passTarget k (s, n) quad).1
    let gone (l : List TlbEntry) : Prop := ∀ e ∈ l, ¬ Matches k e
    (∀ c ∈ quadCores quad, gone (getCore t c).dtlb ∧ gone (getCore t c).itlb) ∧ gone (getQuad t quad).l2 ∧
      (∀ w ∈ (getQuad t quad).walkCache, k.scope ≠ 2 ∧ w.func ≠ k.func) ∧
      (∀ m ∈ quadMemTiles quad, ∀ c ∈ (getTile t m).chans, gone c.2.latch) ∧ (getQuad t quad).gen = (getQuad s quad).gen + 1) ∧
  ∀ (k : Token) (s : State) (n die : Nat),
    let t := (passTarget k (s, n) (1024 + die)).1
    (∀ e ∈ (getLltc t die).entries, ¬ Matches k e) ∧ (getLltc t die).gen = (getLltc s die).gen + 1 ∧
      ∀ m, m < 32 → ∀ e ∈ (getSwitch t (nodeKey die m)).latch, ¬ Matches k e

/-- R333: LAUNCH's forms give their codes to d: install what its record allows, packet the answer that has come back, preempt
the answer to its request, abort 0 for a resident launch and 1 for none, unretain 0 where a scratchpad was retained. A packet whose
region is there is sent to the core that it names, and the form waits; one whose region is not there is answered with 1.

R333: install answers BADREC, REFUSED, BADSAVE, AREA, NORES or INSTALLED, the first that applies, with the save size in bits
[63:32] of the last three; preempt answers 1 for no such region, 2 for one already asked, 3 for a faulted one, and 0 elsewhere.

The model's choices here (log entry 31): an INST of 2^24 or more gives BADREC to install and 1 to preempt; whether every output leads
to an element of the region (R143) is judged at the record's base. The function in which a
restored launch's CMD lies is the saved region's (R203, R330; log entry 31). -/
def Obligations.LaunchForms : Prop :=
  (∀ (t : State) (part func : Nat) (l : List Byte),
    let cmd := dwordAt l 0
    let save := dwordAt l 1
    let inst := numAt l 20 4
    let f := recordFunc t part inst func save.toNat
    let w := whoCommand t part f
    let b : Base := { prow := numAt l 16 1, pcol := numAt l 17 1, layer := numAt l 18 1 }
    let answers (u : State) (code units : Nat) : Prop :=
      installRecord t part func l = (u, BitVec.ofNat 64 (units % 2 ^ 32 * 2 ^ 32 + code))
    let bad : Prop := zeroAt l 19 1 = false ∨ zeroAt l 24 8 = false ∨ 2 ^ 24 ≤ inst ∨ (getRegion t (regionKey part inst)).isSome = true
    (bad → answers t 4 0) ∧
      (¬ bad →
        (∀ u, rdLaunch w cmd t = (none, u) → answers u 3 0) ∧
          ∀ c g u, rdLaunch w cmd t = (some (c, g), u) →
            let units := saveUnits g.head
            let outside : Bool := (allocate (residentRegions u) part g.head c.nt c.share b).any fun a => !exitsAt g.head b a
            (outside = true → answers u 3 0) ∧
            (outside = false → save = 0 →
              (areaOk u part g.head c.handle (residentRegions u) (fun _ => false) b = false → answers u 1 units) ∧
                (areaOk u part g.head c.handle (residentRegions u) (fun _ => false) b = true →
                  (allocate (residentRegions u) part g.head c.nt c.share b = none → answers u 2 units) ∧
                    ∀ a, allocate (residentRegions u) part g.head c.nt c.share b = some a →
                      answers (installLaunch u { part := part, func := f, eligibleAt := u.cycle, cmd := cmd } inst c g b a) 0 units)) ∧
              (outside = false → save ≠ 0 →
                (∀ v, rdSave (rdArea (whoCommand t part func) save) g.head inst cmd u = (none, v) → answers v 5 0) ∧
                  ∀ x v, rdSave (rdArea (whoCommand t part func) save) g.head inst cmd u = (some x, v) →
                    let fits : Bool := areaOk v part g.head c.handle (residentRegions v) (fun _ => false) b &&
                      (namedSave v part inst func save.toNat x.2).all fun y => sameCut g.head y b
                    (fits = false → answers v 1 units) ∧
                      (fits = true →
                        (allocate (residentRegions v) part g.head c.nt c.share b = none → answers v 2 units) ∧
                          ((allocate (residentRegions v) part g.head c.nt c.share b).isSome = true → ∃ w, answers w 0 units))))) ∧
  (∀ (s : State) (rk area : Nat),
    let faulted (r : Region) : Prop :=
      r.faulted = true ∨ ∃ t ∈ regionThreads s r, ∃ dbl, (getThread s t).wait = .threadFault dbl
    (getRegion s rk = none → requestPreempt s rk area = (s, 1)) ∧
      ∀ r, getRegion s rk = some r →
        (r.preempt.isSome = true → requestPreempt s rk area = (s, 2)) ∧
          (r.preempt = none → faulted r → requestPreempt s rk area = (s, 3)) ∧
          (r.preempt = none → ¬ faulted r → ∃ t q, requestPreempt s rk area = (t, 0) ∧ getRegion t rk = some q ∧
            q.preempt = some (s.cycle, area)) ∧
          ∀ func, (requestSave s func rk area).2 = (requestPreempt s rk area).2 ∧
            ∀ q, (requestPreempt s rk area).2 = 0 → getRegion (requestSave s func rk area).1 rk = some q →
              q.preempt = some (s.cycle, area) ∧ q.saveFunc = func) ∧
  ∀ (s : State) (d a : Reg), InSys s → PortsReady s [a] [] [d] [] →
    let x := valueG s a
    let u := afterG s a
    let rk := regionKey (me s).part (x.toNat % 2 ^ 24)
    (∀ l t, x.toNat % 32 = 0 → Loads u x 32 l t →
      let r := installRecord t (me t).part (me t).func l
      CanGive r.1 d → exec (.launchInstall d a) s = .next (retired 4 s (giveG r.1 d r.2))) ∧
    (∀ n, (me s).wait = .packetDone n → exec (.launchPacket d a) s = .next (retired 4 s (giveG u d (BitVec.ofNat 64 n)))) ∧
    (∀ l t, (∀ n, (me s).wait ≠ .packetDone n) → x.toNat % 32 = 0 → Loads u x 32 l t →
      let p := parsePacket (me s).part s.cur l
      let counted (w : State) : Prop := (getCore w s.cur.core).msgSent = (getCore s s.cur.core).msgSent + 1
      (∀ r, packetRegion t p = some r → ∃ w, exec (.launchPacket d a) s = .next w ∧ (me w).wait = .packet ∧ (me w).pc = (me s).pc ∧
        RegsExcept (me s) (me w) [] [] [] ∧ counted w ∧ w.net = s.net ++ [.packet (regionTile r p.trow p.tcol p.layer) p]) ∧
      (packetRegion t p = none → isGPort d = false → ∃ w, exec (.launchPacket d a) s = .next w ∧ Retired s w ∧ counted w ∧
        (d ≠ 0 → gValue (me w) d = 1) ∧ RegsExcept (me s) (me w) [d] [] [])) ∧
    (∀ l t, x.toNat % 64 = 0 → Loads u x 8 l t → ofBytes l < 2 ^ 24 →
      let r := requestSave t (me s).func (regionKey (me s).part (ofBytes l)) x.toNat
      CanGive r.1 d → exec (.launchPreempt d a) s = .next (retired 4 s (giveG r.1 d (BitVec.ofNat 64 r.2)))) ∧
    (getRegion s rk = none → exec (.launchAbort d a) s = .next (retired 4 s (giveG u d 1))) ∧
    (∀ r, getRegion s rk = some r → (getThread (abortLaunch (giveG u d 0) rk) s.cur).slotState ≠ .free →
      exec (.launchAbort d a) s = .next (retired 4 s (abortLaunch (giveG u d 0) rk))) ∧
    (∀ l t, x.toNat % 64 = 0 → Loads u x 8 l t → 2 ^ 24 ≤ ofBytes l → CanGive t d →
      exec (.launchPreempt d a) s = .next (retired 4 s (giveG t d 1))) ∧
    let kept : Prop := (s.cores.any fun c => retainsFor (me s).part x c.2) = true ∨
      ∃ e ∈ (getPart s (me s).part).evacuated, e.ret.handle = x
    (¬ kept → exec (.launchUnretain d a) s = .next (retired 4 s (giveG u d 1))) ∧
    (kept → ∃ t, exec (.launchUnretain d a) s = .next t ∧ (d ≠ 0 → isGPort d = false → gValue (getThread t s.cur) d = 0) ∧
        Retired s t ∧ (∀ c ∈ t.cores, retainsFor (me s).part x c.2 = false) ∧
        ∀ e ∈ (getPart t (me s).part).evacuated, e.ret.handle ≠ x)

/-! ### The vector unit -/

/-- R109, R112, R113: on tags of an accepted class, equal for two sources, each arithmetic form retires with every enabled
element at its table's result, the others as they were, and the events of the enabled elements ORed into FPCTL. The first clause
names the forms of vecBinary and vecUnary one by one, by the classes they take.

R50 to R52, R112 to R114: what the float forms deliver (FloatValues): the exact sum, difference, product, quotient, root, reciprocal
and reciprocal root rounded once with its events, the special values of R114, the lesser and the greater; of VEXP2 and VLOG2 the
special values, the exact powers and logarithms, and elsewhere the two powers or integers between which the rounded number lies. The
sign of an exact zero sum is log entry 35.

R44, R112: a binary form whose first source has a class it does not take, or whose second source has another tag than the
first, raises the Tag trap with that register, the expected tag (0 for a class) and the found one. -/
def Obligations.VectorArithmetic : Prop :=
  ((∀ (d a b : Reg) (k : MReg) (s : State),
    let va := valueV s a
    let ends (i : Instr) (t : State) : Prop :=
      ∃ r fl, exec i s = .next (retired 4 s (flagged (giveV t d { bits := r, tag := va.tag }) fl))
    (VectorReady s a b d → (valueV (afterV s a) b).tag = va.tag →
      (isIntOrFloat (tagClass va.tag) = true →
        ∀ i ∈ [Instr.vadd d a b k, .vsub d a b k, .vmul d a b k, .vmin d a b k, .vmax d a b k], ends i (afterVV s a b)) ∧
      (isFloatClass (tagClass va.tag) = true → ends (.vdiv d a b k) (afterVV s a b)) ∧
      (isIntClass (tagClass va.tag) = true →
        ∀ i ∈ [Instr.vadds d a b k, .vsubs d a b k, .vmulh d a b k, .vsll d a b k, .vsrl d a b k, .vsra d a b k],
          ends i (afterVV s a b))) ∧
      (PortsReady s [] [a] [] [d] → TagsAgree s a →
        (isIntOrFloat (tagClass va.tag) = true → ∀ i ∈ [Instr.vabs d a k, .vneg d a k], ends i (afterV s a)) ∧
        (isFloatClass (tagClass va.tag) = true →
          ∀ i ∈ [Instr.vsqrt d a k, .vrcp d a k, .vrsq d a k, .vexp2 d a k, .vlog2 d a k], ends i (afterV s a)))) ∧
  ((∀ p ∈ vecBinary, ∀ (d a b : Reg) (k : MReg) (s : State), VectorReady s a b d →
    let va := valueV s a
    let vb := valueV (afterV s a) b
    p.2.takes (tagClass va.tag) = true → vb.tag = va.tag →
    let f (i : Nat) : Nat × FpFlags := p.2.result va.tag (rmodeDyn (fpctlRm (me s)) 7) (lane (tagLane va.tag) va.bits.toNat i)
      (lane (tagLane va.tag) vb.bits.toNat i)
    ∃ r : BitVec 512, Merged s d k va.tag r (fun i => (f i).1) ∧
      exec (p.1 d a b k) s =
        .next (retired 4 s (flagged (giveV (afterVV s a b) d { bits := r, tag := va.tag })
          (flagsAll ((List.range (tagLanes va.tag)).map fun i => if enabled s k i then (f i).2 else noFlags))))) ∧
  ∀ p ∈ vecUnary, ∀ (d a : Reg) (k : MReg) (s : State), PortsReady s [] [a] [] [d] → TagsAgree s a →
    let va := valueV s a
    p.2.takes (tagClass va.tag) = true →
    let f (i : Nat) : Nat × FpFlags := p.2.result va.tag (rmodeDyn (fpctlRm (me s)) 7) (lane (tagLane va.tag) va.bits.toNat i) 0
    ∃ r : BitVec 512, Merged s d k va.tag r (fun i => (f i).1) ∧
      exec (p.1 d a k) s =
        .next (retired 4 s (flagged (giveV (afterV s a) d { bits := r, tag := va.tag })
          (flagsAll ((List.range (tagLanes va.tag)).map fun i => if enabled s k i then (f i).2 else noFlags))))) ∧
  (∀ p ∈ vecBinary, ∀ (d a b : Reg) (k : MReg) (s : State), VectorReady s a b d →
    let va := valueV s a
    let vb := valueV (afterV s a) b
    let trap (r : Reg) (expected found : Tag) : State :=
      takeTrap (holdDirs (namedDirs [] [a, b, d]) s) s.cur causeTag
        (BitVec.ofNat 64 (r.toNat * 2 ^ 16 + expected.toNat * 2 ^ 8 + found.toNat))
    (p.2.takes (tagClass va.tag) = false → exec (p.1 d a b k) s = .next (trap a 0 va.tag)) ∧
      (p.2.takes (tagClass va.tag) = true → p.2.takes (tagClass vb.tag) = true → vb.tag ≠ va.tag →
        exec (p.1 d a b k) s = .next (trap b va.tag vb.tag)))) ∧
  (∀ f ∈ [FFmt.fp32, .bf16, .fp16], FloatValues f)

/-- R115, R116: the fused forms on equal tags give each enabled element x × y + z with the form's signs, rounded once or modulo
2^W, with R115's canonical NaN for infinity times zero and opposite infinities; the dots give each enabled 32-bit element the exact
sum of its addend and g products, rounded once or modulo 2^32. What a rounding delivers is VectorConversions'. -/
def Obligations.VectorFusedForms : Prop :=
  ∀ (d a b : Reg) (k : MReg) (c : Reg) (s : State), PortsReady s [] [a, b, c] [] [d] → TagsAgree s a → TagsAgree (afterV s a) b →
    TagsAgree (afterVV s a b) c →
    let va := valueV s a
    let vb := valueV (afterV s a) b
    let vc := valueV (afterVV s a b) c
    let rm := rmodeDyn (fpctlRm (me s)) 7
    let w := tagLane va.tag
    let out (t : Tag) (r : BitVec 512) (f : Nat → Nat × FpFlags) : State :=
      retired 4 s (flagged (giveV (afterV (afterVV s a b) c) d { bits := r, tag := t })
        (flagsAll ((List.range (tagLanes t)).map fun i => if enabled s k i then (f i).2 else noFlags)))
    (∀ p ∈ vecFused, isIntOrFloat (tagClass va.tag) = true → vb.tag = va.tag → vc.tag = va.tag →
      let f (i : Nat) : Nat × FpFlags :=
        laneFma va.tag rm ⟨p.2.1, p.2.2⟩ (lane w va.bits.toNat i) (lane w vb.bits.toNat i) (lane w vc.bits.toNat i)
      ∃ r, Merged s d k va.tag r (fun i => (f i).1) ∧ exec (p.1 d a b k c) s = .next (out va.tag r f)) ∧
    (isIntOrFloat (tagClass va.tag) = true → vb.tag = va.tag → vc.tag = va.tag →
      ∀ i ∈ [Instr.vfma d a b k c, .vfms d a b k c, .vfnma d a b k c, .vfnms d a b k c], ∃ r f, exec i s = .next (out va.tag r f)) ∧
    (∀ t, vb.tag = va.tag → vc.tag = t → (dot4Tag va.tag = some t → ∃ r f, exec (.vdot4 d a b k c) s = .next (out t r f)) ∧
      (dot2Tag va.tag = some t → ∃ r f, exec (.vdot2 d a b k c) s = .next (out t r f))) ∧
    (∀ x y z : Nat, ∀ n sg, tagClass va.tag = .int n sg → ∀ p ∈ vecFused,
      laneFma va.tag rm ⟨p.2.1, p.2.2⟩ x y z =
        (ofInt n ((if p.2.1 then -1 else 1) * (laneInt n sg x * laneInt n sg y) + (if p.2.2 then -1 else 1) * laneInt n sg z),
          noFlags)) ∧
    (∀ i j l : Nat, ∀ ff, tagClass va.tag = .flt ff → ∀ p ∈ vecFused,
      let x := fdecode ff i
      let y := fdecode ff j
      let z := fdecode ff l
      let r := laneFma va.tag rm ⟨p.2.1, p.2.2⟩ i j l
      (isFinite x = true → isFinite y = true → isFinite z = true → ∃ v, isFinite v = true ∧
        valQ v = (if p.2.1 then -1 else 1) * (valQ x * valQ y) + (if p.2.2 then -1 else 1) * valQ z ∧ r = deliver ff rm (v, noFlags)) ∧
      (InfTimesZero x y → r = (ffNaN ff, flagNV)) ∧
      (¬ InfTimesZero x y → isNaN x = true ∨ isNaN y = true ∨ isNaN z = true →
        r = (ffNaN ff, { nv := isSNaN x || isSNaN y || isSNaN z })) ∧
      (¬ InfTimesZero x y → isNaN x = false → isNaN y = false → isFinite x = false ∨ isFinite y = false →
        ∀ n, z = .inf n → ((p.2.1 != (signNeg x != signNeg y)) != (p.2.2 != n)) = true → r = (ffNaN ff, flagNV))) ∧
    (∀ g i z : Nat, 0 < g →
      let x (j : Nat) : Nat := lane w va.bits.toNat (g * i + j)
      let y (j : Nat) : Nat := lane w vb.bits.toNat (g * i + j)
      let r := laneDot va.tag rm g va.bits.toNat vb.bits.toNat z i
      (∀ n sg, tagClass va.tag = .int n sg →
        r = (ofInt 32 (laneInt 32 sg z + ((List.range g).map fun j => laneInt n sg (x j) * laneInt n sg (y j)).sum), noFlags)) ∧
      (isIntClass (tagClass va.tag) = false →
        let fx (j : Nat) : FVal := laneFloat va.tag (x j)
        let fy (j : Nat) : FVal := laneFloat va.tag (y j)
        let fz := fdecode .fp32 z
        (isFinite fz = true → (∀ j, j < g → isFinite (fx j) = true ∧ isFinite (fy j) = true) → ∃ v, isFinite v = true ∧
          valQ v = valQ fz + ((List.range g).map fun j => valQ (fx j) * valQ (fy j)).sum ∧ r = deliver .fp32 rm (v, noFlags)) ∧
        ((∃ j, j < g ∧ InfTimesZero (fx j) (fy j)) → r = (ffNaN .fp32, flagNV)) ∧
        (isNaN fz = false → (∀ j, j < g → isNaN (fmul (fx j) (fy j)).1 = false) →
          (let l := fz :: (List.range g).map fun j => (fmul (fx j) (fy j)).1
           .inf false ∈ l ∧ .inf true ∈ l) → r = (ffNaN .fp32, flagNV)))) ∧
    ∀ q ∈ [(Instr.vdot4 d a b k c, 4, dot4Tag va.tag), (Instr.vdot2 d a b k c, 2, dot2Tag va.tag)], ∀ t, q.2.2 = some t →
      vb.tag = va.tag → vc.tag = t →
      let f (i : Nat) : Nat × FpFlags := laneDot va.tag rm q.2.1 va.bits.toNat vb.bits.toNat (lane 32 vc.bits.toNat i) i
      ∃ r, Merged s d k t r (fun i => (f i).1) ∧ exec q.1 s = .next (out t r f)

/-- R113, R118 to R122: the moving forms check no tag, take element width and count from Tag(va), give the tag of va and move
whole elements; VSEL and VCMPRS select with their mask; VEXT and VINS move one element. The first clause names the forms of vecMoves
and vecSlides one by one. -/
def Obligations.VectorMoves : Prop :=
  (∀ (d a b : Reg) (k : MReg) (s : State),
    let va := valueV s a
    (VectorReady s a b d →
      ∀ i ∈ [Instr.vand d a b k, .vor d a b k, .vxor d a b k, .vperm d a b k, .vzip d a b k, .vunzip d a b k],
        ∃ r, exec i s = .next (retired 4 s (flagged (giveV (afterVV s a b) d { bits := r, tag := va.tag }) noFlags))) ∧
      (PortsReady s [b] [a] [] [d] → TagsAgree s a →
        ∀ i ∈ [Instr.vslup d a b k, .vsldn d a b k, .vbcast d a b k],
          ∃ r, exec i s = .next (retired 4 s (flagged (giveV (afterG (afterV s a) b) d { bits := r, tag := va.tag }) noFlags)))) ∧
  (∀ p ∈ vecMoves, ∀ (d a b : Reg) (k : MReg) (s : State), VectorReady s a b d →
    let va := valueV s a
    let vb := valueV (afterV s a) b
    ∃ r, Merged s d k va.tag r (p.2 va.tag va.bits vb.bits) ∧
      exec (p.1 d a b k) s = .next (retired 4 s (flagged (giveV (afterVV s a b) d { bits := r, tag := va.tag }) noFlags))) ∧
  (∀ p ∈ vecSlides, ∀ (d a b : Reg) (k : MReg) (s : State), PortsReady s [b] [a] [] [d] → TagsAgree s a →
    let va := valueV s a
    ∃ r, Merged s d k va.tag r (p.2 va.tag va.bits (valueG (afterV s a) b).toNat) ∧
      exec (p.1 d a b k) s =
        .next (retired 4 s (flagged (giveV (afterG (afterV s a) b) d { bits := r, tag := va.tag }) noFlags))) ∧
  (∀ (d a : Reg) (k : MReg) (s : State), PortsReady s [] [a] [] [d] → TagsAgree s a →
    let va := valueV s a
    let w := tagLane va.tag
    let sel := (List.range (tagLanes va.tag)).filter fun i => enabled s k i
    (∃ r, Merged s d k va.tag r (lane w va.bits.toNat) ∧
      exec (.vmov d a k) s = .next (retired 4 s (flagged (giveV (afterV s a) d { bits := r, tag := va.tag }) noFlags))) ∧
    ∃ r : BitVec 512, (∀ j, j < tagLanes va.tag →
        lane w r.toNat j = (if j < sel.length then lane w va.bits.toNat (sel.getD j 0) else 0)) ∧
      exec (.vcmprs d a k) s = .next (retired 4 s (flagged (giveV (afterV s a) d { bits := r, tag := va.tag }) noFlags))) ∧
  (∀ (d a b : Reg) (k : MReg) (s : State), VectorReady s a b d →
    let va := valueV s a
    let vb := valueV (afterV s a) b
    ∃ r : BitVec 512, (∀ i, i < tagLanes va.tag → lane (tagLane va.tag) r.toNat i =
        if enabled s k i then lane (tagLane va.tag) va.bits.toNat i else lane (tagLane va.tag) vb.bits.toNat i) ∧
      exec (.vsel d a b k) s = .next (retired 4 s (flagged (giveV (afterVV s a b) d { bits := r, tag := va.tag }) noFlags))) ∧
  (∀ (d a b : Reg) (s : State), PortsReady s [b] [a] [d] [] → TagsAgree s a →
    let va := valueV s a
    let e := (valueG (afterV s a) b).toNat % tagLanes va.tag
    ∃ v : Word, exec (.vext d a b) s = .next (retired 4 s (giveG (afterG (afterV s a) b) d v)) ∧
      v = (match tagClass va.tag with
        | .int n true => BitVec.ofInt 64 (toSigned n (lane n va.bits.toNat e))
        | _ => BitVec.ofNat 64 (lane (tagLane va.tag) va.bits.toNat e % 2 ^ tagElemBits va.tag))) ∧
  ∀ (d a b : Reg) (s : State), PortsReady s [a, b] [] [] [] → isVPort d = false →
    let v := vValue (me s) d
    let e := (valueG (afterG s a) b).toNat % tagLanes v.tag
    ∃ r : BitVec 512, (∀ i, i < tagLanes v.tag → lane (tagLane v.tag) r.toNat i =
        if i = e then (valueG s a).toNat % 2 ^ tagElemBits v.tag else lane (tagLane v.tag) v.bits.toNat i) ∧
      exec (.vins d a b) s = .next (retired 4 s (giveV (afterG (afterG s a) b) d { bits := r, tag := v.tag }))

/-- R64, R123: a reduction gives element 0 and zeroes the others; on integer tags the sum is that of the selected elements
modulo 2^W, and the maximum and minimum are those of the selected elements, or the lane's least or greatest value for none; on float
tags the result is the root of the pairwise tree of R64, adjacent lanes first, each step rounded or chosen as VADD, VMAX or VMIN does
(R113, R114), with −0, −infinity or +infinity for each element that is not selected, and the events are those of all steps.

R117: VCMP on equal tags of an accepted class writes every bit of kd: set where the mask enables the element and the
condition holds, clear elsewhere; the condition compares integers by the tag's signedness and floats as numbers, with R117's bits
and events for NaNs. -/
def Obligations.VectorReductionsAndCompare : Prop :=
  (∀ (t : Tag) (c x y : Nat), c < 8 →
    let r := laneCmp t c x y
    (∀ n sg, tagClass t = .int n sg → r.2 = noFlags ∧ (r.1 = true ↔ Holds c (laneInt n sg x) (laneInt n sg y))) ∧
      ∀ f, tagClass t = .flt f →
        let u := fdecode f x
        let v := fdecode f y
        (isNaN u = false → isNaN v = false → r.2 = noFlags ∧ (r.1 = true ↔ Holds c (valE u) (valE v))) ∧
          (isNaN u = true ∨ isNaN v = true → (r.1 = true ↔ c = 1 ∨ c = 6) ∧
            r.2 = if 2 ≤ c ∧ c ≤ 5 then flagNV else { nv := isSNaN u || isSNaN v })) ∧
  (∀ (d a : Reg) (k : MReg) (s : State), PortsReady s [] [a] [] [d] → TagsAgree s a →
    let va := valueV s a
    let sel := (List.range (tagLanes va.tag)).filter fun i => enabled s k i
    isIntOrFloat (tagClass va.tag) = true →
    ∀ q ∈ [(Instr.vredsum d a k, 0), (Instr.vredmax d a k, 1), (Instr.vredmin d a k, 2)],
      ∃ (r : BitVec 512) (fl : FpFlags),
        exec q.1 s = .next (retired 4 s (flagged (giveV (afterV s a) d { bits := r, tag := va.tag }) fl)) ∧
        (∀ i, 1 ≤ i → i < tagLanes va.tag → lane (tagLane va.tag) r.toNat i = 0) ∧
        (∀ n sg, tagClass va.tag = .int n sg →
          let x (i : Nat) : Int := laneInt n sg (lane n va.bits.toNat i)
          fl = noFlags ∧
            (q.2 = 0 → lane n r.toNat 0 = ofInt n ((sel.map x).sum)) ∧
            (q.2 = 1 → lane n r.toNat 0 = ofInt n ((sel.map x).foldl max (intLo n sg))) ∧
            (q.2 = 2 → lane n r.toNat 0 = ofInt n ((sel.map x).foldl min (intHi n sg)))) ∧
        ∀ ff, tagClass va.tag = .flt ff →
          let rm := rmodeDyn (fpctlRm (me s)) 7
          let w := ffWidth ff
          let step (i j : Nat) : Nat × FpFlags :=
            let x := fdecode ff i
            let y := fdecode ff j
            deliver ff rm (if q.2 = 0 then fadd rm x y else fminmax (q.2 == 1) x y)
          let none_ : Nat := if q.2 = 0 then withSign ff true 0 else withSign ff (q.2 == 1) (ffInf ff)
          let leaf (i : Nat) : Nat := if enabled s k i = true then lane w va.bits.toNat i else none_
          let levels := if w = 32 then 4 else 5
          lane w r.toNat 0 = treeValue step levels leaf ∧ fl = treeEvents step levels leaf) ∧
  (∀ (d : MReg) (a b : Reg) (k : MReg) (c : BitVec 3) (s : State), PortsReady s [] [a, b] [] [] → TagsAgree s a →
    TagsAgree (afterV s a) b →
    let va := valueV s a
    let vb := valueV (afterV s a) b
    let w := tagLane va.tag
    let f (i : Nat) : Bool × FpFlags := laneCmp va.tag c.toNat (lane w va.bits.toNat i) (lane w vb.bits.toNat i)
    isIntOrFloat (tagClass va.tag) = true → vb.tag = va.tag →
    ∃ m : BitVec 128,
      (∀ i, i < 128 → m.getLsbD i = (decide (i < tagLanes va.tag) && enabled s k i && (f i).1)) ∧
        exec (.vcmp d a b k c) s =
          .next (retired 4 s (flagged (modThread (afterVV s a b) s.cur fun x => kWrite x d m)
            (flagsAll ((List.range (tagLanes va.tag)).map fun i => if enabled s k i then (f i).2 else noFlags)))))

/-- R65 to R68: the conversions and the narrowing shifts give their lanes under the destination's tag; VTCHK on the right tag
changes nothing, and on another raises the Tag trap that names it.

R65: which source element a lane of VCVT and VCVTH takes, and which lanes are zeroed or kept.

R50 to R54, R57: what an element's conversion delivers, and what one rounding to a format delivers (deliver, encodeF).

R68: the narrowing shift rounds the exact quotient and clamps it or keeps its low bits.

The model's choices here (log entry 21): a value that its own format holds is returned as it is, an infinity with sat = 1 included, and the
entry that replaces a CB4 element is a BF16 input. -/
def Obligations.VectorConversions : Prop :=
  (∀ (cb : Nat → Nat → Nat) (high : Bool) (src dst : Tag) (rm : RMode) (sat : Bool) (mask x old : Nat),
    let ns := tagLanes src
    let nd := tagLanes dst
    let r := cvtLanes cb high src dst rm sat mask x old
    let lo := if high = true ∧ ns < nd then ns else 0
    let from_ (j : Nat) : Option Nat :=
      if ns ≤ nd then (if lo ≤ j ∧ j < lo + ns then some (j - lo) else none) else some (j + if high then nd else 0)
    let e (i : Nat) : Nat × FpFlags := cvtElem cb src dst rm sat (lane (tagLane src) x i)
    (∀ j, j < nd → lane (tagLane dst) r.1 j =
      match from_ j with
      | some i => if mask.testBit j then (e i).1 % 2 ^ tagLane dst else lane (tagLane dst) old j
      | none => if high then lane (tagLane dst) old j else 0) ∧
      r.2 = flagsAll ((List.range nd).map fun j =>
        match from_ j with
        | some i => if mask.testBit j then (e i).2 else noFlags
        | none => noFlags)) ∧
  (∀ (cb : Nat → Nat → Nat) (src dst : Tag) (rm : RMode) (sat : Bool) (x : Nat),
    let r := cvtElem cb src dst rm sat x
    let own : Prop := (cvtInput cb src x).1 = dst
    (∀ n sg w sd, tagClass src = .int n sg → tagClass dst = .int w sd →
      r = (ofInt w (if sat then clampZ (intLo w sd) (intHi w sd) (laneInt n sg x) else laneInt n sg x), noFlags)) ∧
    (∀ n sg f, tagClass src = .int n sg → tagClass dst = .flt f ∨ tagClass dst = .narrow f →
      ∃ v, isFinite v = true ∧ valQ v = laneInt n sg x ∧ RoundedTo f rm sat v r) ∧
    (∀ n sg, tagClass src = .int n sg → tagClass dst = .spq → ∃ v, isFinite v = true ∧ valQ v = laneInt n sg x ∧ RoundedToSpq rm v r) ∧
    ∀ v, elemVal cb src x = .real v →
      (∀ w sd, tagClass dst = .int w sd → RoundedToInt w (intLo w sd) (intHi w sd) rm v r) ∧
      (tagClass dst = .spq → RoundedToSpq rm v r) ∧
      ∀ f, tagClass dst = .flt f ∨ tagClass dst = .narrow f →
        (¬ own → RoundedTo f rm sat v r) ∧
          (own → (∀ s, v = .nan s → r = (ffNaN f, { nv := s })) ∧
            (isNaN v = false → r = ((cvtInput cb src x).2 % 2 ^ ffWidth f, noFlags)))) ∧
  (∀ (f : FFmt) (rm : RMode) (v : FVal) (fl : FpFlags),
    RoundedTo f rm false v (encodeF f rm false v) ∧
      deliver f rm (v, fl) = ((encodeF f rm false v).1, flagsOr fl (encodeF f rm false v).2)) ∧
  (∀ (src dst : Tag) (rm : RMode) (sat : Bool) (sh x : Nat), sh < 64 → ∀ n sg w sd, tagClass src = .int n sg → tagClass dst = .int w sd →
    let y := roundQ rm ((laneInt n sg x : ℚ) / 2 ^ sh)
    laneShrn src dst rm sat sh x = ofInt w (if sat then clampZ (intLo w sd) (intHi w sd) y else y)) ∧
  (∀ (d a : Reg) (t : Tag) (k : MReg) (r : BitVec 3) (sat : BitVec 1) (s : State), PortsReady s [] [a] [] [d] → TagsAgree s a →
    let va := valueV s a
    let old := if isVPort d then 0 else (vValue (me s) d).bits.toNat
    let conv (high : Bool) : Nat × FpFlags :=
      cvtLanes (coreCode (getCore s s.cur.core)) high va.tag t (rmodeDyn (fpctlRm (me s)) r.toNat) (sat == 1)
        (kValue (me s) k).toNat va.bits.toNat old
    tagClass va.tag ≠ .none →
      exec (.vcvt d a t k r sat) s =
          .next (retired 4 s (flagged (giveV (afterV s a) d { bits := BitVec.ofNat 512 (conv false).1, tag := t }) (conv false).2)) ∧
        exec (.vcvth d a t k r sat) s =
          .next (retired 4 s (flagged (giveV (afterV s a) d { bits := BitVec.ofNat 512 (conv true).1, tag := t }) (conv true).2))) ∧
  (∀ (d a b : Reg) (k : MReg) (r : BitVec 3) (sat : BitVec 1) (s : State), PortsReady s [b] [a] [] [d] → TagsAgree s a →
    let va := valueV s a
    let n := (valueG (afterV s a) b).toNat % 64
    (∀ t, (shrn8Tag va.tag = some t → ∃ v, exec (.vshrn8 d a b k r sat) s =
        .next (retired 4 s (flagged (giveV (afterG (afterV s a) b) d { bits := v, tag := t }) noFlags))) ∧
      (shrn16Tag va.tag = some t → ∃ v, exec (.vshrn16 d a b k r sat) s =
        .next (retired 4 s (flagged (giveV (afterG (afterV s a) b) d { bits := v, tag := t }) noFlags)))) ∧
    ∀ q ∈ [(Instr.vshrn8 d a b k r sat, shrn8Tag va.tag), (Instr.vshrn16 d a b k r sat, shrn16Tag va.tag)], ∀ t, q.2 = some t →
      ∃ v : BitVec 512,
        exec q.1 s = .next (retired 4 s (flagged (giveV (afterG (afterV s a) b) d { bits := v, tag := t }) noFlags)) ∧
        (∀ i, tagLanes va.tag ≤ i → i < tagLanes t → lane (tagLane t) v.toNat i = 0) ∧
        ∀ i, i < tagLanes va.tag → enabled s k i = true → lane (tagLane t) v.toNat i =
          laneShrn va.tag t (rmodeDyn (fpctlRm (me s)) r.toNat) (sat == 1) n (lane (tagLane va.tag) va.bits.toNat i) % 2 ^ tagLane t) ∧
  ∀ (a : Reg) (t : Tag) (s : State), PortsReady s [] [a] [] [] → TagsAgree s a →
    let va := valueV s a
    (va.tag = t → exec (.vtchk a t) s = .next (retired 4 s (afterV s a))) ∧
      (va.tag ≠ t → exec (.vtchk a t) s =
        .next (takeTrap (holdDirs (namedDirs [] [a]) s) s.cur causeTag
          (BitVec.ofNat 64 (a.toNat * 2 ^ 16 + t.toNat * 2 ^ 8 + va.tag.toNat))))

/-- R14, R44, R66: VTAG is fn 2 with the new tag in the vb field and k, rm and sat zero, no instruction for a reserved tag; it moves va bit
for bit under the new tag, checks no tag, and a port whose two words disagree raises the Tag trap of R14, with the second word's tag
as FOUND. EXPECTED is the first word's tag there: the model's choice (log entry 38). -/
def Obligations.Retag : Prop :=
  ∀ (d a : Reg) (t : Tag) (s : State),
    encode (.vtag d a t) = [0x20#6 ++ d ++ a ++ t ++ 0#3 ++ 0#3 ++ 0#1 ++ 2#4] ∧
      (wellFormed (.vtag d a t) = true ↔ t.toNat ≤ 0x16) ∧
      (PortsReady s [] [a] [] [d] → TagsAgree s a →
        exec (.vtag d a t) s = .next (retired 4 s (giveV (afterV s a) d { bits := (valueV s a).bits, tag := t }))) ∧
      (PortsReady s [] [a] [] [d] → ¬ TagsAgree s a →
        let w0 := frontWord s (vPortDir a)
        let w1 := frontWord (dropWord s (vPortDir a)) (vPortDir a)
        exec (.vtag d a t) s =
          .next (takeTrap (holdDirs (namedDirs [] [a, d]) s) s.cur causeTag
            (BitVec.ofNat 64 (a.toNat * 2 ^ 16 + w0.side.toNat % 32 * 2 ^ 8 + w1.side.toNat % 32))))

/-- R13, R124: the mask forms work bit by bit, KMOVL and KMOVH move one half and keep the other, KPOPC counts the one bits,
KFIRST finds the lowest one or gives 128; k0 reads all ones and keeps what is written to it from being seen. The first clause names
the forms of maskBinary one by one. -/
def Obligations.MaskForms : Prop :=
  (∀ (d a b : MReg) (s : State), ∀ i ∈ [Instr.kand d a b, .kor d a b, .kxor d a b, .kandn d a b],
    ∃ m, exec i s = .next (retired 4 s (modThread s s.cur fun x => kWrite x d m))) ∧
  (∀ p ∈ maskBinary, ∀ (d a b : MReg) (s : State), ∃ m : BitVec 128,
    (∀ i, i < 128 → m.getLsbD i = p.2 ((kValue (me s) a).getLsbD i) ((kValue (me s) b).getLsbD i)) ∧
      exec (p.1 d a b) s = .next (retired 4 s (modThread s s.cur fun x => kWrite x d m))) ∧
  (∀ (d : MReg) (a : Reg) (s : State), PortsReady s [a] [] [] [] →
    let x := kValue (me s) d
    exec (.kmovlToMask d a) s =
        .next (retired 4 s (modThread (afterG s a) s.cur fun y => kWrite y d (x.extractLsb' 64 64 ++ valueG s a))) ∧
      exec (.kmovhToMask d a) s =
        .next (retired 4 s (modThread (afterG s a) s.cur fun y => kWrite y d (valueG s a ++ x.extractLsb' 0 64)))) ∧
  (∀ (d : Reg) (a : MReg) (s : State), PortsReady s [] [] [d] [] →
    let x := kValue (me s) a
    exec (.kmovlFromMask d a) s = .next (retired 4 s (giveG s d (x.extractLsb' 0 64))) ∧
      exec (.kmovhFromMask d a) s = .next (retired 4 s (giveG s d (x.extractLsb' 64 64))) ∧
      exec (.kpopc d a) s =
        .next (retired 4 s (giveG s d (BitVec.ofNat 64 ((List.range 128).filter fun i => x.getLsbD i).length))) ∧
      exec (.kfirst d a) s =
        .next (retired 4 s (giveG s d (BitVec.ofNat 64 ((List.range 128).takeWhile fun i => !x.getLsbD i).length)))) ∧
  ∀ (x : Thread) (k : MReg) (v : BitVec 128),
    kValue x 0 = BitVec.allOnes 128 ∧ kWrite x 0 v = x ∧ (k ≠ 0 → kValue (kWrite x k v) k = v)

/-- R125, R126: the scalar float forms take FP32 from bits [31:0] of their sources, deliver a result rounded once and
zero-extended, and OR their events into FPCTL. The first clause names the forms of floatBinary and floatCompare one by one.

R53, R112 to R115, R117, R126: what they deliver: the values of FloatValues for FP32, the fused sum of FMA, the comparisons, and of
FCVT the integer rounded into its range or the integer's own value rounded to FP32. The sign of an exact zero sum is log entry 35. -/
def Obligations.ScalarFloatForms : Prop :=
  ∀ s : State,
    let x32 (w : Word) : FVal := fdecode .fp32 (w.toNat % 2 ^ 32)
    let mode (r : BitVec 3) : RMode := rmodeDyn (fpctlRm (me s)) r.toNat
    let put (t : State) (d : Reg) (r : Nat × FpFlags) : State := retired 4 s (flagged (giveG t d (BitVec.ofNat 64 r.1)) r.2)
    (∀ d a b : Reg, PortsReady s [a, b] [] [d] [] →
      let u := afterG (afterG s a) b
      let x := x32 (valueG s a)
      let y := x32 (valueG (afterG s a) b)
      (∀ r : BitVec 3, ∀ i ∈ [Instr.fadd d a b r, .fsub d a b r, .fmul d a b r, .fdiv d a b r, .feq d a b, .flt d a b, .fle d a b],
        ∃ v, exec i s = .next (put u d v)) ∧
        (∀ p ∈ floatBinary, ∀ r, exec (p.1 d a b r) s = .next (put u d (deliver .fp32 (mode r) (p.2 (mode r) x y)))) ∧
        exec (.fmin d a b) s = .next (put u d (deliver .fp32 (mode 0) (fminmax false x y))) ∧
        exec (.fmax d a b) s = .next (put u d (deliver .fp32 (mode 0) (fminmax true x y))) ∧
        ∀ p ∈ floatCompare,
          exec (p.1 d a b) s = .next (put u d (if (fcond p.2 x y).1 then 1 else 0, (fcond p.2 x y).2))) ∧
    (∀ d a : Reg, PortsReady s [a] [] [d] [] → ∀ r : BitVec 3,
      exec (.fsqrt d a r) s = .next (put (afterG s a) d (deliver .fp32 (mode r) (fsqrt (x32 (valueG s a))))) ∧
        ∀ c : BitVec 4, exec (.fcvt d a c r) s =
          .next (retired 4 s (flagged (giveG (afterG s a) d (fcvtResult c.toNat (mode r) (valueG s a)).1)
            (fcvtResult c.toNat (mode r) (valueG s a)).2))) ∧
    (∀ d a b : Reg, PortsReady s [a, b] [] [] [] → isGPort d = false → ∀ r : BitVec 3,
      exec (.fma d a b r) s =
        .next (put (afterG (afterG s a) b) d (deliver .fp32 (mode r)
          (ffma (mode r) (x32 (valueG s a)) (x32 (valueG (afterG s a) b)) (x32 (gValue (me s) d)))))) ∧
    FloatValues .fp32 ∧
    (∀ rm (i j k : Nat), FusedRule .fp32 rm (fdecode .fp32 i) (fdecode .fp32 j) (fdecode .fp32 k)
      (deliver .fp32 rm (ffma rm (fdecode .fp32 i) (fdecode .fp32 j) (fdecode .fp32 k)))) ∧
    (∀ p ∈ floatCompare, ∀ i j : Nat,
      let u := fdecode .fp32 i
      let v := fdecode .fp32 j
      let r := fcond p.2 u v
      (isNaN u = false → isNaN v = false → r.2 = noFlags ∧ (r.1 = true ↔ Holds p.2 (valE u) (valE v))) ∧
        (isNaN u = true ∨ isNaN v = true → r = (false, if p.2 = 0 then { nv := isSNaN u || isSNaN v } else flagNV))) ∧
    ∀ rm (x : Word),
      let gives (c : Nat) (q : Nat × FpFlags) : Prop := fcvtResult c rm x = (BitVec.ofNat 64 q.1, q.2)
      (∃ q, RoundedToInt 64 (-2 ^ 63) (2 ^ 63 - 1) rm (x32 x) q ∧ gives 0 q) ∧
        (∃ q, RoundedToInt 64 0 (2 ^ 64 - 1) rm (x32 x) q ∧ gives 1 q) ∧
        (∃ q, Delivered .fp32 rm x.toInt false q ∧ gives 2 q) ∧ ∃ q, Delivered .fp32 rm x.toNat false q ∧ gives 3 q

/-- R65 to R68, R97 to R106, R109, R112 to R126: the register-only forms change no byte of memory, no special register but FPCTL, no other
thread, and no register but their destination, whatever next state they reach; a trap they take changes what R318 says. The forms are
those of intTable, immTable, branchTable, vecBinary, vecUnary, vecMoves, maskBinary and floatBinary, and by name the other integer
forms, jumps and LOOP, the fused forms and dots, slides, moves, reductions, comparisons, conversions, narrowing shifts, mask moves and
scalar float forms. The integer forms and the jumps leave FPCTL as it is too. -/
def Obligations.RegisterFormFrames : Prop :=
  ∀ (s t : State) (d a b c : Reg) (k m : MReg) (tag : Tag) (n w l : BitVec 6) (i16 : BitVec 16) (i21 : BitVec 21) (i26 : BitVec 26)
    (rm : BitVec 3) (cv : BitVec 4) (sat : BitVec 1),
    let keeps (gs vs : List Reg) (ks : List MReg) : Prop :=
      SameMemory s t ∧ RegsExcept (me s) (getThread t s.cur) gs vs ks ∧ SameView (me s) (getThread t s.cur) ∧ ArraySame s t ∧
        (Retired s t → SpecialSame (me s) (getThread t s.cur) ∧ OthersSame s t)
    (∀ p ∈ [(Instr.clz d a, [d]), (.ctz d a, [d]), (.popc d a, [d]), (.movz d a b, [d]), (.movn d a b, [d]), (.lui d i16, [d]),
        (.slli d a n, [d]), (.srli d a n, [d]), (.srai d a n, [d]), (.bfxu d a w l, [d]), (.bfxs d a w l, [d]), (.bfi d a w l, [d]),
        (.addpc d i21, [d]), (.j i26, []), (.jal i26, [31]), (.jr a, []), (.jalr d a, [d]), (.loop a i16, [a])],
      exec p.1 s = .next t → keeps p.2 [] [] ∧ (getThread t s.cur).fpctl = (me s).fpctl) ∧
    (∀ i ∈ [Instr.vslup d a b k, .vsldn d a b k, .vbcast d a b k, .vmov d a k, .vcmprs d a k, .vsel d a b k, .vins d a b,
        .vfma d a b k c, .vfms d a b k c, .vfnma d a b k c, .vfnms d a b k c, .vdot4 d a b k c, .vdot2 d a b k c, .vredsum d a k,
        .vredmax d a k, .vredmin d a k, .vcvt d a tag k rm sat, .vcvth d a tag k rm sat, .vshrn8 d a b k rm sat,
        .vshrn16 d a b k rm sat, .vtag d a tag], exec i s = .next t → keeps [] [d] []) ∧
    (∀ i ∈ [Instr.vext d a b, .fmin d a b, .fmax d a b, .feq d a b, .flt d a b, .fle d a b, .fsqrt d a rm, .fcvt d a cv rm,
        .fma d a b rm, .kmovlFromMask d k, .kmovhFromMask d k, .kpopc d k, .kfirst d k], exec i s = .next t → keeps [d] [] []) ∧
    (∀ i ∈ [Instr.vcmp m a b k rm, .kmovlToMask m a, .kmovhToMask m a], exec i s = .next t → keeps [] [] [m]) ∧
    (exec (.vtchk a tag) s = .next t → keeps [] [] []) ∧
    (∀ p ∈ intTable, exec (p.1 d a b) s = .next t → keeps [d] [] [] ∧ (getThread t s.cur).fpctl = (me s).fpctl) ∧
      (∀ p ∈ immTable, ∀ i, exec (p.1 d a i) s = .next t → keeps [d] [] [] ∧ (getThread t s.cur).fpctl = (me s).fpctl) ∧
      (∀ p ∈ branchTable, ∀ i, exec (p.1 a b i) s = .next t → keeps [] [] [] ∧ (getThread t s.cur).fpctl = (me s).fpctl) ∧
      (∀ p ∈ vecBinary, exec (p.1 d a b k) s = .next t → keeps [] [d] []) ∧
      (∀ p ∈ vecUnary, exec (p.1 d a k) s = .next t → keeps [] [d] []) ∧
      (∀ p ∈ vecMoves, exec (p.1 d a b k) s = .next t → keeps [] [d] []) ∧
      (∀ p ∈ maskBinary, ∀ x y z : MReg, exec (p.1 x y z) s = .next t → keeps [] [] [x]) ∧
      (∀ p ∈ floatBinary, ∀ r, exec (p.1 d a b r) s = .next t → keeps [d] [] [])

/-! ### Scalar and vector memory forms -/

/-- R155, R169, R198: a scalar load of an aligned address outside the channel registers gives d its extended bytes; LDL does the
same on a local address and reads a global one coherently; a channel register is read whole. -/
def Obligations.ScalarLoads : Prop :=
  ∀ (d a : Reg) (sz : BitVec 2) (imm : BitVec 14) (s : State), PortsReady s [a] [] [d] [] →
    let ea := valueG s a + sext64 imm
    let n := 2 ^ sz.toNat
    let u := afterG s a
    let sx (l : List Byte) : Word := BitVec.ofInt 64 (toSigned (8 * n) (ofBytes l))
    ea.toNat % n = 0 →
    (¬ (isLocal ea = true ∧ localKind ea = 3) → ∀ l t, Loads u ea n l t → CanGive t d →
      exec (.ld d a sz imm) s = .next (retired 4 s (giveG t d (sx l))) ∧
        exec (.ldu d a sz imm) s = .next (retired 4 s (giveG t d (BitVec.ofNat 64 (ofBytes l)))) ∧
        (isLocal ea = true → exec (.ldl d a sz imm) s = .next (retired 4 s (giveG t d (sx l))))) ∧
    (∀ k off, isLocal ea = true → localKind ea = 3 → resolve u u.cur ea 8 = .loc (.regs k) off → sz = 3 → Answered u →
      ∀ i ∈ [Instr.ld d a sz imm, .ldu d a sz imm, .ldl d a sz imm],
        exec i s = .next (retired 4 s (giveG u d (chanRead u k off)))) ∧
    ∀ w e l t, isGlobal ea = true → Answered u → Hit u w ea.toNat false e →
      let x := performLine w w.cur (tlbPa e ea.toNat)
      cohRead x (whoThread x x.cur) (tlbPa e ea.toNat) n e.t = (t, some l) → l.length = n → CanGive t d →
      exec (.ldl d a sz imm) s = .next (retired 4 s (giveG t d (sx l)))

/-- R155, R169: an aligned ST stores the low bytes of D; in sys mode a store to a channel register writes it.

R155, R169: a misaligned scalar access raises the Alignment trap; an aligned one at an address that is neither local nor
global, or at a channel register with sz other than 3, raises the Address trap; after both checks a store to a channel register
in app mode raises the Privilege trap. TRAPVAL is the effective address, or the instruction's word for the last. -/
def Obligations.ScalarStoresAndAccessTraps : Prop :=
  (∀ (d a : Reg) (sz : BitVec 2) (imm : BitVec 14) (s : State), PortsReady s [a, d] [] [] [] →
    let ea := valueG s a + sext64 imm
    let n := 2 ^ sz.toNat
    let u := afterG (afterG s a) d
    let v := valueG (afterG s a) d
    ea.toNat % n = 0 →
    (¬ (isLocal ea = true ∧ localKind ea = 3) → ∀ t, StoreReady u ea (toBytes n v.toNat) 0 t →
      exec (.st d a sz imm) s = .next (retired 4 s t)) ∧
    ∀ k off, isLocal ea = true → localKind ea = 3 → resolve u u.cur ea 8 = .loc (.regs k) off → sz = 3 → InSys s →
      exec (.st d a sz imm) s = .next (retired 4 s (chanWrite u k off v))) ∧
  (∀ (d a : Reg) (sz : BitVec 2) (imm : BitVec 14) (s : State),
    let ea := valueG s a + sext64 imm
    let n := 2 ^ sz.toNat
    let trap (c : Nat) (v : Word) : Host.Outcome State Fault Refusal :=
      .next (takeTrap (holdDirs (namedDirs [a, d] []) s) s.cur c v)
    (PortsReady s [a] [] [d] [] → ∀ i ∈ [Instr.ld d a sz imm, .ldu d a sz imm, .ldl d a sz imm],
      (ea.toNat % n ≠ 0 → exec i s = trap causeAlignment ea) ∧
        (ea.toNat % n = 0 → (isLocal ea = false ∧ isGlobal ea = false ∨ isLocal ea = true ∧ localKind ea = 3 ∧ sz ≠ 3) →
          exec i s = trap causeAddress ea)) ∧
    (PortsReady s [a, d] [] [] [] →
      let u := afterG (afterG s a) d
      (ea.toNat % n ≠ 0 → exec (.st d a sz imm) s = trap causeAlignment ea) ∧
        (ea.toNat % n = 0 → (isLocal ea = false ∧ isGlobal ea = false ∨ isLocal ea = true ∧ localKind ea = 3 ∧ sz ≠ 3) →
          exec (.st d a sz imm) s = trap causeAddress ea) ∧
        (∀ k off, ea.toNat % n = 0 → isLocal ea = true → localKind ea = 3 → sz = 3 → resolve u u.cur ea 8 = .loc (.regs k) off →
          ¬ InSys s → exec (.st d a sz imm) s = trap causePrivilege (((encode (.st d a sz imm)).headD 0).setWidth 64))))

/-- R153, R154, R182, R183, R356: a plain store to a local object changes its own bytes of that object alone, and they read as
stored; one to a global address changes only what the thread itself reads at the bytes stored to, and no byte of memory, where
the thread has no RED to perform; one to ring pages that a locked interface freezes changes nothing. -/
def Obligations.StoreFrame : Prop :=
  ∀ (s t : State) (ea : Word) (l : List Byte),
    (∀ o off, LocalRange s ea l.length o off → StoreReady s ea l 0 t →
      (∀ a, memGet t.gmem.cells a = memGet s.gmem.cells a) ∧
        (∀ o' a, ¬ (o' = o ∧ off ≤ a ∧ a < off + l.length) →
          memGet (localMem t o').cells a = memGet (localMem s o').cells a) ∧
        (∀ i, i < l.length → memGet (localMem t o).cells (off + i) = l.getD i 0) ∧
        ∀ v, getThread t v = getThread s v) ∧
    ∀ u e, isGlobal ea = true → Hit s u ea.toNat true e → e.t = false → (me s).reds = [] →
      ownControl (whoThread s s.cur) (tlbPa e ea.toNat) = none → l.length ≤ 64 →
      let pa := tlbPa e ea.toNat
      let w := plainStore u u.cur e ea.toNat l 0
      SameMemory s w ∧ RegsExcept (me s) (me w) [] [] [] ∧ SpecialSame (me s) (me w) ∧ OthersSame s w ∧
        (∀ a, ¬ (pa ≤ a ∧ a < pa + l.length) → amFind (me w).own a = amFind (me s).own a) ∧
        ((∀ i, i < l.length → ringFrozen u (pa + i) = false) → ∀ i, i < l.length → amFind (me w).own (pa + i) = some (l.getD i 0)) ∧
        ((∀ i, i < l.length → ringFrozen u (pa + i) = true) → (me w).own = (me s).own ∧ (me w).stores = (me s).stores)

/-- R109, R158, R160: a vector load whose address checks pass reads the enabled elements' bytes and gives d their lanes under the
form's tag, the disabled elements keeping their old bits. An address of VLD, or of an enabled element of the other forms, that is no
multiple of the element's bytes raises the Alignment trap with that address. -/
def Obligations.VectorLoads : Prop :=
  (∀ (d a : Reg) (tag : Tag) (k : MReg) (imm : BitVec 8) (s : State), PortsReady s [a] [] [] [d] →
    let ea := vectorEa (valueG s a) imm
    (ea.toNat % vecAlign tag ≠ 0 →
      exec (.vld d a tag k imm) s = .next (takeTrap (holdDirs (namedDirs [a] [d]) s) s.cur causeAlignment ea)) ∧
    let runs := enabledRuns (byteEnabled tag (kValue (me s) k).toNat) (vecBytes tag)
    let span := runsSpan runs
    let u := afterG s a
    (ea.toNat % vecAlign tag = 0 → (span.2 ≠ 0 → RangeOk u (ea + BitVec.ofNat 64 span.1) span.2) →
    ∀ l t, LoadsAll u (runs.flatMap fun r => pagePieces (ea + BitVec.ofNat 64 r.1) r.2) l t → writeBlocked t [] [d] = none →
      ∃ r, Filled s t d k tag (fromImage tag (imageOf (vecBytes tag) runs l)) r ∧
        exec (.vld d a tag k imm) s = .next (retired 4 s (giveV t d { bits := r, tag := tag })))) ∧
  (∀ (d a b : Reg) (k : MReg) (tag : Tag) (s : State),
    let w := elemBytes tag
    let el := enabledElems tag (kValue (me s) k).toNat
    let gathers (i : Instr) (gs vs : List Reg) (u : State) (addr : Nat → Word) : Prop :=
      ((∀ j ∈ el, (addr j).toNat % w = 0 ∧ RangeOk u (addr j) w) →
        ∀ l t, LoadsAll u (el.map fun j => (addr j, w)) l t → writeBlocked t [] [d] = none →
          ∃ r, Filled s t d k tag (ofBytes (imageOf 64 (el.map fun j => (j * w, w)) l)) r ∧
            exec i s = .next (retired 4 s (giveV t d { bits := r, tag := tag }))) ∧
      ∀ j ∈ el, (addr j).toNat % w ≠ 0 → (∀ x ∈ el, x < j → (addr x).toNat % w = 0) →
        exec i s = .next (takeTrap (holdDirs (namedDirs gs vs) s) s.cur causeAlignment (addr j))
    (PortsReady s [a, b] [] [] [d] →
      gathers (.vlds d a b k tag) [a, b] [d] (afterG (afterG s a) b) (strideAddr (valueG s a) (valueG (afterG s a) b))) ∧
      (PortsReady s [a] [b] [] [d] → TagsAgree (afterG s a) b →
        let vb := valueV (afterG s a) b
        isIntClass (tagClass vb.tag) = true → tagLanes tag ≤ tagLanes vb.tag →
        gathers (.vldx d a b k tag) [a] [b, d] (afterV (afterG s a) b) (indexAddr (valueG s a) w vb)) ∧
      (PortsReady s [a] [] [] [d] → gathers (.vldb d a k tag) [a] [d] (afterG s a) fun _ => valueG s a))

/-- R44, R158 to R160: a vector store whose checks pass stores the enabled units from MPROG on, in ascending order, and leaves
MPROG zero; a misaligned address raises the Alignment trap with it, before the tag is checked. -/
def Obligations.VectorStores : Prop :=
  (∀ (d a : Reg) (tag : Tag) (k : MReg) (imm : BitVec 8) (s : State), PortsReady s [a] [d] [] [] → TagsAgree (afterG s a) d →
    let ea := vectorEa (valueG s a) imm
    let mask := (kValue (me s) k).toNat
    let span := runsSpan (enabledRuns (byteEnabled tag mask) (vecBytes tag))
    let v := valueV (afterG s a) d
    let u := afterV (afterG s a) d
    (ea.toNat % vecAlign tag ≠ 0 →
      exec (.vst d a tag k imm) s = .next (takeTrap (holdDirs (namedDirs [a] [d]) s) s.cur causeAlignment ea)) ∧
    (ea.toNat % vecAlign tag = 0 → (tag = 0 ∨ v.tag = tag) → (span.2 ≠ 0 → RangeOk u (ea + BitVec.ofNat 64 span.1) span.2) →
    ∀ t, StoresAll u (vstStores ea tag v mask (prog s)) t → exec (.vst d a tag k imm) s = .next (retired 4 s (progDone t)))) ∧
  (∀ (d a b : Reg) (k : MReg) (tag : Tag) (s : State),
    let w := elemBytes tag
    let el := enabledElems tag (kValue (me s) k).toNat
    let scatters (i : Instr) (gs vs : List Reg) (u : State) (v : VReg) (addr : Nat → Word) : Prop :=
      ((∀ j ∈ el, (addr j).toNat % w = 0 ∧ RangeOk u (addr j) w) → (tag = 0 ∨ v.tag = tag) →
        ∀ t, StoresAll u ((el.filter fun j => decide (prog s ≤ j * w)).map fun j =>
            (addr j, toBytes w (lane (8 * w) v.bits.toNat j), 0)) t →
          exec i s = .next (retired 4 s (progDone t))) ∧
      ∀ j ∈ el, (addr j).toNat % w ≠ 0 → (∀ x ∈ el, x < j → (addr x).toNat % w = 0) →
        exec i s = .next (takeTrap (holdDirs (namedDirs gs vs) s) s.cur causeAlignment (addr j))
    (PortsReady s [a, b] [d] [] [] → TagsAgree (afterG (afterG s a) b) d →
      let u := afterG (afterG s a) b
      scatters (.vsts d a b k tag) [a, b] [d] (afterV u d) (valueV u d) (strideAddr (valueG s a) (valueG (afterG s a) b))) ∧
      (PortsReady s [a] [b, d] [] [] → TagsAgree (afterG s a) b → TagsAgree (afterV (afterG s a) b) d →
        let vb := valueV (afterG s a) b
        let u := afterV (afterG s a) b
        isIntClass (tagClass vb.tag) = true → tagLanes tag ≤ tagLanes vb.tag →
        scatters (.vstx d a b k tag) [a] [b, d] (afterV u d) (valueV u d) (indexAddr (valueG s a) w vb)))

/-- R164: SPILLM, FILLM, VSPILL and VFILL move the registers of their range from MPROG on and leave MPROG zero; a misaligned
address raises the Alignment trap. -/
def Obligations.MultipleTransfers : Prop :=
  ∀ (f a l : Reg) (s : State), PortsReady s [a] [] [] [] →
    let x := valueG s a
    let u := afterG s a
    let js := rangeFrom (prog s) f l
    let n := rangeCount f l
    let out (t : State) : Host.Outcome State Fault Refusal := .next (retired 4 s (progDone t))
    (x.toNat % 8 = 0 → RangeOk u x (8 * n) → ∀ t,
      (Spilled x f js u t → exec (.spillm f a l) s = out t) ∧ (Refilled x f js u t → exec (.fillm f a l) s = out t)) ∧
    (x.toNat % 64 = 0 → RangeOk u x (64 + 64 * n) → ∀ t,
      (VSpilled x f js u t → exec (.vspill f a l) s = out t) ∧ (VRefilled x f js u t → exec (.vfill f a l) s = out t)) ∧
    (x.toNat % 8 ≠ 0 → ∀ i ∈ [Instr.spillm f a l, .fillm f a l],
      exec i s = .next (takeTrap (holdDirs (namedDirs [a] []) s) s.cur causeAlignment x)) ∧
    (x.toNat % 64 ≠ 0 → ∀ i ∈ [Instr.vspill f a l, .vfill f a l],
      exec i s = .next (takeTrap (holdDirs (namedDirs [a] []) s) s.cur causeAlignment x))

/-- R162: FRAME opens a frame of a good size above the top frame, or at BIVOVF where it does not fit, and UNFRAME closes the top
one; a size that breaks the rule, a g30 that names no frame and no base, and an UNFRAME without a frame, raise the Address trap.

The header is reached at the address in g30 or at N as it is, with no check of its alignment: the model's choice (log entry 38). -/
def Obligations.FrameForms : Prop :=
  ∀ s : State,
    (∀ a : Reg, PortsReady s [a] [] [] [] →
      let sz := valueG s a
      let u := afterG s a
      let g := gValue (me s) 30
      let fits (top : Nat) : Word :=
        if top + sz.toNat ≤ (me s).bivlimit.toNat then BitVec.ofNat 64 (0xFF00000000000000 + top) else (me s).bivovf
      (¬ (sz.toNat % 64 = 0 ∧ 64 ≤ sz.toNat ∧ sz.toNat ≤ 65536) →
        exec (.frame a) s = .next (takeTrap (holdDirs (namedDirs [a] []) s) s.cur causeAddress sz)) ∧
      (sz.toNat % 64 = 0 → 64 ≤ sz.toNat → sz.toNat ≤ 65536 →
        (∀ t, g.toNat < 2 ^ 18 → FrameOpened u (fits g.toNat) sz t → exec (.frame a) s = .next (retired 4 s t)) ∧
        (∀ l w t, isLocal g = true → fieldOf g 55 39 = 0 → (me s).bivbase.toNat ≤ fieldOf g 38 0 →
          fieldOf g 38 0 < (me s).bivlimit.toNat → Loads u (g + 8) 8 l w →
          FrameOpened w (fits (fieldOf g 38 0 + ofBytes l)) sz t → exec (.frame a) s = .next (retired 4 s t)) ∧
        (∀ t, isGlobal g = true → 2 ^ 18 ≤ g.toNat → FrameOpened u (me s).bivovf sz t →
          exec (.frame a) s = .next (retired 4 s t)) ∧
        (isGlobal g = false →
          ¬ (isLocal g = true ∧ localKind g = 0 ∧ (me s).bivbase.toNat ≤ fieldOf g 38 0 ∧ fieldOf g 38 0 < (me s).bivlimit.toNat) →
          exec (.frame a) s = .next (takeTrap (holdDirs (namedDirs [a] []) s) s.cur causeAddress g)))) ∧
    (let g := gValue (me s) 30
     (g.toNat < 2 ^ 18 → exec .unframe s = .next (takeTrap s s.cur causeAddress g)) ∧
      ∀ l t, 2 ^ 18 ≤ g.toNat → Loads s g 8 l t →
        exec .unframe s =
          .next (retired 4 s (modThread t t.cur fun x =>
            gWrite { x with bivovf := if isGlobal g then bivovfWord g else x.bivovf } 30 (wordOf l))))

/-! ### Coherent accesses, atomics and fences -/

/-- R193 to R195: AMO, AMOF and AMOCAS on an aligned address write what Op of the old value and B gives, AMOCAS only where the
old value is the expected one, and give the old value to d; RED writes or posts its operation and gives nothing.

R193, R194: Op of the atomics on operands of n bytes, and of AMOF on FP32 words: the sum rounded to the nearest, and the lesser and the
greater as VMIN and VMAX choose them (SumRule, MinMaxRule). AMO, AMOF, AMOCAS and RED on a misaligned address raise the Alignment trap.

The model's choice here (log entry 25): AMOCAS reads d as a source, after a and b. -/
def Obligations.AtomicForms : Prop :=
  (∀ (d a b : Reg) (z : BitVec 2) (op : BitVec 4) (s : State),
    let ea := valueG s a
    let n := atomicBytes z
    let u := afterG (afterG s a) b
    let y := (valueG (afterG s a) b).toNat
    (PortsReady s [a, b] [] [d] [] → ea.toNat % n = 0 →
      (∀ old t, AtomicDone u ea n (fun old => some (amoOp op.toNat n old (y % 2 ^ (8 * n)))) old t → CanGive t d →
        exec (.amo d a b z op) s = .next (retired 4 s (giveG t d (atomicResult (op = 6 || op = 7) n old))))) ∧
    (PortsReady s [a, b] [] [d] [] → ea.toNat % 4 = 0 →
      (∀ old t, AtomicDone u ea 4 (fun old => some (amoFloat op.toNat old (y % 2 ^ 32))) old t → CanGive t d →
        exec (.amof d a b op) s = .next (retired 4 s (giveG t d (BitVec.ofNat 64 old))))) ∧
    (PortsReady s [a, b, d] [] [d] [] → ea.toNat % n = 0 →
      let x := (valueG u d).toNat
      ∀ old t, AtomicDone (afterG u d) ea n (fun old => if old = x % 2 ^ (8 * n) then some (y % 2 ^ (8 * n)) else none) old t →
        CanGive t d → exec (.amocas d a b z) s = .next (retired 4 s (giveG t d (BitVec.ofInt 64 (toSigned (8 * n) old))))) ∧
    (PortsReady s [a, b] [] [] [] → ea.toNat % n = 0 →
      (∀ o off l, LocalRange u ea n o off → localKind ea ≤ 2 → localRead u o off n = some l →
        exec (.red a b z op) s =
          .next (retired 4 s (localWrite u o off (toBytes n (amoOp op.toNat n (ofBytes l) (y % 2 ^ (8 * n))))))) ∧
      ∀ w e, isGlobal ea = true → Hit u w ea.toNat true e →
        let pa := tlbPa e ea.toNat
        let p := predictAtomic (performStores w w.cur (storeTouches pa)) (quadKey w.cur.core) pa e.t
        exec (.red a b z op) s = .next (retired 4 s { modThread p p.cur fun x =>
          { x with reds := x.reds ++ [{ pa := pa, size := n, op := op.toNat, operand := y % 2 ^ (8 * n), func := x.func
                                        va := ea.toNat, global := e.g, moving := e.t, reached := p.gateSeq }] } with
          gateSeq := p.gateSeq + 1 })) ∧
    ((PortsReady s [a, b] [] [d] [] → ea.toNat % n ≠ 0 →
        exec (.amo d a b z op) s = .next (takeTrap (holdDirs (namedDirs [a, b, d] []) s) s.cur causeAlignment ea)) ∧
      (PortsReady s [a, b] [] [d] [] → ea.toNat % 4 ≠ 0 →
        exec (.amof d a b op) s = .next (takeTrap (holdDirs (namedDirs [a, b, d] []) s) s.cur causeAlignment ea)) ∧
      (PortsReady s [a, b, d] [] [d] [] → ea.toNat % n ≠ 0 →
        exec (.amocas d a b z) s = .next (takeTrap (holdDirs (namedDirs [a, b, d, d] []) s) s.cur causeAlignment ea)) ∧
      (PortsReady s [a, b] [] [] [] → ea.toNat % n ≠ 0 →
        exec (.red a b z op) s = .next (takeTrap (holdDirs (namedDirs [a, b] []) s) s.cur causeAlignment ea)))) ∧
  (∀ x y : Nat, x < 2 ^ 32 → y < 2 ^ 32 →
    (∃ f, SumRule .fp32 .rne (fdecode .fp32 x) (fdecode .fp32 y) (amoFloat 0 x y, f)) ∧
      (∃ f, MinMaxRule .fp32 false x y (amoFloat 1 x y, f)) ∧ ∃ f, MinMaxRule .fp32 true x y (amoFloat 2 x y, f)) ∧
  (∀ n x y : Nat, (n = 4 ∨ n = 8) → x < 2 ^ (8 * n) → y < 2 ^ (8 * n) →
    amoOp 0 n x y = (x + y) % 2 ^ (8 * n) ∧ amoOp 1 n x y = x &&& y ∧ amoOp 2 n x y = x ||| y ∧ amoOp 3 n x y = x ^^^ y ∧
      toSigned (8 * n) (amoOp 4 n x y) = min (toSigned (8 * n) x) (toSigned (8 * n) y) ∧
      toSigned (8 * n) (amoOp 5 n x y) = max (toSigned (8 * n) x) (toSigned (8 * n) y) ∧
      amoOp 6 n x y = min x y ∧ amoOp 7 n x y = max x y ∧ amoOp 8 n x y = y ∧ ∀ op, amoOp op n x y < 2 ^ (8 * n))

/-- R181, R185, R190, R199 to R202: FENCE brings every write of the thread to its die's slices, where its scope lies within the die, and
else to its home, and retires once no engine command that its scope names is left; GET and PUT move their lines from MPROG on; PREF retires; WAITA gives 0 where the doubleword differs already, 2 where no
monitor is free, and its status once it is woken; else it waits under a monitor of its address and value, until a deadline if it names
one.

The model's choices here: FENCE of thread or core scope performs the thread's writes at their homes at once, which R190 only orders (log
entry 8), and region scope is die scope for a thread in no region (log entry 40). -/
def Obligations.FenceAndLineForms : Prop :=
  ∀ s : State,
    (∀ sc : BitVec 4, (sc = 7 → InSys s) →
      let u := publish s s.cur sc.toNat
      (me u).reds = [] ∧ (if withinDie s s.cur sc.toNat then ∀ p ∈ (me u).stores, p.reached ≠ none else (me u).stores = []) ∧
        (fenceWaits u u.cur sc.toNat = false → exec (.fence sc) s = .next (retired 4 s u))) ∧
    (∀ (a b : Reg) (n : BitVec 4), PortsReady s [a, b] [] [] [] →
      let x := valueG s a
      let y := valueG (afterG s a) b
      let u := afterG (afterG s a) b
      let js := (List.range (n.toNat + 1)).filter fun j => decide (prog s ≤ j)
      let ok (l g : Word) : Prop := l.toNat % 64 = 0 ∧ g.toNat % 64 = 0 ∧ localKind l ≤ 2 ∧ isGlobal g = true ∧
        ∃ o off, LocalRange u l (64 * (n.toNat + 1)) o off
      ∀ t, (ok x y → LinesMoved GotLine x y js u t → exec (.get a b n) s = .next (retired 4 s (progDone t))) ∧
        (ok y x → LinesMoved PutLine y x js u t → exec (.put a b n) s = .next (retired 4 s (progDone t)))) ∧
    (∀ (a : Reg) (h : BitVec 4), PortsReady s [a] [] [] [] →
      ∃ t, exec (.pref a h) s = .next (retired 4 s t) ∧ SameMemory (afterG s a) t ∧ ∀ v, getThread t v = getThread s v) ∧
    ∀ (d a b : Reg) (tm : BitVec 4), PortsReady s [a, b] [] [d] [] →
      let x := valueG s a
      let y := valueG (afterG s a) b
      let u := afterG (afterG s a) b
      (∀ st, (me s).wait = .woken st → exec (.waita d a b tm) s = .next (retired 4 s (giveG u d (BitVec.ofNat 64 st)))) ∧
        ((∀ st, (me s).wait ≠ .woken st) →
          (x.toNat % 8 ≠ 0 →
            exec (.waita d a b tm) s = .next (takeTrap (holdDirs (namedDirs [a, b, d] []) s) s.cur causeAlignment x)) ∧
          (x.toNat % 8 = 0 → isGlobal x = false →
            exec (.waita d a b tm) s = .next (takeTrap (holdDirs (namedDirs [a, b, d] []) s) s.cur causeAddress x)) ∧
          ∀ w e l t, x.toNat % 8 = 0 → isGlobal x = true → Answered u → Hit u w x.toNat false e →
            CohReads w e (tlbPa e x.toNat) 8 l t → CanGive t d →
            (wordOf l ≠ y → exec (.waita d a b tm) s = .next (retired 4 s (giveG t d 0))) ∧
              (wordOf l = y → takeMonitor t (me t).part x.toNat (tlbPa e x.toNat) y t.cur = none →
                exec (.waita d a b tm) s = .next (retired 4 s (giveG t d 2))) ∧
              (wordOf l = y → (takeMonitor t (me t).part x.toNat (tlbPa e x.toNat) y t.cur).isSome = true →
                ∃ z, exec (.waita d a b tm) s = .next z ∧ (me z).pc = (me s).pc ∧ RegsExcept (me s) (me z) [] [] [] ∧
                  (me z).wait = .monitor (tlbPa e x.toNat) y (if tm = 0 then none else some (t.cycle + 2 ^ (tm.toNat + 5))) ∧
                  (isGPort a = false → isGPort b = false → ∃ k, ∃ m ∈ (getSlice z k).monitors,
                    m.va = x.toNat ∧ m.func = (me s).func ∧ m.value = y ∧ s.cur ∈ m.waiters)))

/-- R179, R181, R183, R190: a plain store of one line to memory that is there, beside which the gateway of its die holds no other write to the line, performed by FENCE or by its own step, puts its bytes
where it names, changes no other byte, and leaves the thread's list of stores. -/
def Obligations.StoreReachesMemory : Prop :=
  ∀ (s : State) (p : PendingStore), (me s).stores = [p] → (me s).reds = [] → p.moving = false → p.skip = 0 → p.bytes ≠ [] →
    p.pa / 64 = (p.pa + p.bytes.length - 1) / 64 → controlBlock p.pa = none → populated s (me s).part p.pa = true →
    ringFrozen s p.pa = false → gateLine (modThread s s.cur fun x => { x with stores := [] }) (dieOf s.cur.core) p.pa = [] →
    let done (t : State) : Prop :=
      (∀ i, i < p.bytes.length → memGet t.gmem.cells (p.pa + i) = p.bytes.getD i 0) ∧
        (∀ a, ¬ (p.pa ≤ a ∧ a < p.pa + p.bytes.length) → memGet t.gmem.cells a = memGet s.gmem.cells a) ∧
        (getThread t s.cur).stores = []
    done (performAll s s.cur) ∧
      ∃ t, exec (.plainStorePerform s.cur.core s.cur.slot 0) s = .next t ∧ done t

/-! ### Engines -/

/-- R165 to R167, R174 to R177: MTCFG installs a good personality on an idle memory tile; CPY and CPYM put their checked command
into a bound channel's queue and CPYQ into its quad's combining node; WPRD gives WPTR and WPWAIT goes on once it is reached. -/
def Obligations.CopyForms : Prop :=
  ∀ (s : State) (a b : Reg), PortsReady s [a, b] [] [] [] →
    let x := valueG s a
    let y := valueG (afterG s a) b
    let u := afterG (afterG s a) b
    (∀ k l t p, InSys s → x.toNat % 64 = 0 → tileOf u y = some k → Loads u x 64 l t → parsePersonality l = some p →
      channelsIdle (getTile t k) = true →
      (∀ r, threadRegion t t.cur = some r → (segmentOf r (stackOf (dieOf k))).running = false) →
      exec (.mtcfg a b) s =
        .next (retired 8 s (modSwitch (setTile t k (installPersonality (getTile t k) p)) k fun w =>
          { w with adapter := [], adapterHalf := none }))) ∧
    (∀ k l t, InSys s → x.toNat % 64 = 0 → isLocal x = true → tileOf u y = some k → Loads u x 64 l t → parsePersonality l = none →
      exec (.mtcfg a b) s = .next (takeTrap (holdDirs (namedDirs [a, b] []) s) s.cur causeAddress x)) ∧
    (∀ c l t d, x.toNat % 128 = 0 → channelOf u u.cur y = some c → Loads u x 128 l t → parseDesc l = some d → d.tag = 0 →
      sideOk t t.cur d.src d d.sstrides = true → sideOk t t.cur d.dst d d.dstrides = true → heldForChannel t t.cur y = false →
      (∀ id, d.follow = false → channelRoom t c.1 c.2 = true →
        exec (.cpy a b id) s = .next (retired 8 s (enqueueCopy t c.1 c.2 (copyCmd t d l id none)))) ∧
      (∀ id f w, d.follow = true → followOn x d t = .ok (f, w) → heldForChannel w w.cur y = false →
        channelRoom w c.1 c.2 = true →
        exec (.cpym a b id) s = .next (retired 8 s (enqueueCopy w c.1 c.2 (copyCmd w d l id (some f))))) ∧
      ∀ (mask : BitVec 4) (id : BitVec 8), d.follow = false → mask.getLsbD (qcoreOf s.cur.core) = true →
        exec (.cpyq a b mask id) s =
          .next (retired 8 s (drainNode
            (modQuad t (quadKey t.cur.core) fun q => combine q y mask.toNat (copyCmd t d l id none))
            (quadKey t.cur.core)))) ∧
    (channelOf u u.cur y = none → x.toNat % 128 = 0 → ∀ id,
      exec (.cpy a b id) s = .next (takeTrap (holdDirs (namedDirs [a, b] []) s) s.cur causeAddress y)) ∧
    (∀ c, channelOf u u.cur x = some c →
      (y.toNat ≤ (getChan u c.1 c.2).wptr.toNat → exec (.wpwait a b) s = .next (retired 4 s u)) ∧
        ((getChan u c.1 c.2).wptr.toNat < y.toNat →
          ∃ t, exec (.wpwait a b) s = .next t ∧ (getThread t s.cur).wait = .wpwait c.1 c.2 ∧ (getThread t s.cur).pc = (me s).pc)) ∧
    ∀ (d : Reg) c, PortsReady s [a] [] [d] [] → channelOf (afterG s a) s.cur x = some c →
      exec (.wprd d a) s = .next (retired 4 s (giveG (afterG s a) d (getChan (afterG s a) c.1 c.2).wptr))

/-- R149 to R152: PSTAT gives the core's queue counts in the table's fields, and 0 on a service core, which has no queues (the model's choice,
log entry 24); PTRY gives the head word and 0, or 1 for an empty direction and 2 for no
direction; DSEND puts a message for a compute tile of the region into the injection queue; DRECV takes the oldest of a channel, unless an
earlier DRECV of the core waits for one. -/
def Obligations.NetworkForms : Prop :=
  ∀ s : State,
    (∀ d : Reg, PortsReady s [] [] [d] [] →
      let x := getSwitch s s.cur.core
      let held (m : AMap Fifo) (n : Nat) : Nat := (amGet m n {}).words.length
      let g := ((coreRegion s s.cur.core).map fun r => segmentOf r (stackOf (dieOf s.cur.core))).getD {}
      ∃ v, exec (.pstat d) s = .next (retired 4 s (giveG s d v)) ∧ (isService s.cur.core = true → v = 0) ∧
        (isService s.cur.core = false →
          (∀ n, n < 5 → held x.recv n < 8 → fieldOf v (3 * n + 2) (3 * n) = held x.recv n) ∧
            (∀ n, n < 5 → held x.send n < 8 → fieldOf v (3 * n + 18) (3 * n + 16) = held x.send n) ∧
            (∀ c l, c < 4 → amGet (getCore s s.cur.core).recv c [] = l → l.length < 16 → fieldOf v (4 * c + 35) (4 * c + 32) = l.length) ∧
            v.getLsbD 48 = g.running ∧ v.getLsbD 49 = g.lastHeld ∧ fieldOf v 15 15 = 0 ∧ fieldOf v 31 31 = 0 ∧ fieldOf v 63 50 = 0)) ∧
    (∀ d a b : Reg, PortsReady s [a] [] [] [] → wellFormed (.ptry d a b) = true →
      let dir := (valueG s a).toNat % 8
      let u := afterG s a
      let f := amGet (getSwitch u s.cur.core).recv (dir - 1) {}
      (dir = 0 ∨ 5 < dir → exec (.ptry d a b) s = .next (retired 4 s (giveG u b 2))) ∧
        (1 ≤ dir → dir ≤ 5 → dirHeld (getCore s s.cur.core) s.cur.slot (dir - 1) = false →
          (fifoHead s.cycle f = none → exec (.ptry d a b) s = .next (retired 4 s (giveG u b 1))) ∧
            ∀ w, fifoHead s.cycle f = some w →
              exec (.ptry d a b) s = .next (retired 4 s (giveG (giveG (dropWord u (dir - 1)) d (w.data.setWidth 64)) b 0)))) ∧
    (∀ a b : Reg, PortsReady s [a, b] [] [] [] →
      let x := valueG s a
      let u := afterG (afterG s a) b
      (∀ k, dsendTarget (threadRegion u u.cur) x = some k → (getCore u s.cur.core).inject.length < 8 →
        ∃ t, exec (.dsend a b) s = .next t ∧
          (getCore t s.cur.core).inject = (getCore s s.cur.core).inject ++
            [{ dst := k, chan := fieldOf x 18 17, src := s.cur.core, data := valueG (afterG s a) b }] ∧
          (getCore t s.cur.core).msgSent = (getCore s s.cur.core).msgSent + 1 ∧
          RegsExcept (me s) (getThread t s.cur) [] [] [] ∧ SameMemory s t ∧ Retired s t) ∧
      (dsendTarget (threadRegion u u.cur) x = none →
        exec (.dsend a b) s = .next (takeTrap (holdDirs (namedDirs [a, b] []) s) s.cur causeAddress x))) ∧
    ∀ d a : Reg, PortsReady s [a] [] [d] [] →
      let c := (valueG s a).toNat % 4
      ∀ m rest, amGet (getCore s s.cur.core).recv c [] = m :: rest → drecvBehind s s.cur c (drecvQueue s s.cur c) = false →
        ∃ t, exec (.drecv d a) s = .next t ∧ amGet (getCore t s.cur.core).recv c [] = rest ∧
          (getCore t s.cur.core).msgRecv = (getCore s s.cur.core).msgRecv + 1 ∧
          (isGPort d = false → d ≠ 0 → gValue (getThread t s.cur) d = m) ∧ RegsExcept (me s) (getThread t s.cur) [d] [] [] ∧
          SameMemory s t ∧ Retired s t

/-- R184, R294, R297 to R299: ARRIVE sets PEND of its level; WAIT and BTEST see it; PHASE publishes, arrives, waits and goes on
once it is released; BMEM writes the quad's entry from the next cycle on; DOMAIN writes a good word. -/
def Obligations.BelayForms : Prop :=
  ∀ s : State,
    (∀ l : BitVec 2,
      let n := levelOf l
      let member : Prop := n = 1 ∨ ∃ r, threadRegion s s.cur = some r ∧ domTree (domainOf (me s) n) < r.nt ∧
        entryIn (belayEntry r (quadIndex r s.cur.core) (domTree (domainOf (me s) n))) (domGroup (domainOf (me s) n)) = true
      (member → pendAt (me s) n = false →
        exec (.arrive l) s = .next (retired 4 s (modThread s s.cur fun x => setPend x n true))) ∧
      (¬ member → exec (.arrive l) s = .next (takeTrap s s.cur causeAddress (domainOf (me s) n))) ∧
      (pendAt (me s) n = false → exec (.wait l) s = .next (retired 4 s s)) ∧
      (pendAt (me s) n = true → exec (.wait l) s = .next (blockThread s s.cur (.belay n))) ∧
      (∀ d : Reg, PortsReady s [] [] [d] [] →
        exec (.btest d l) s = .next (retired 4 s (giveG s d (if pendAt (me s) n then 0 else 1)))) ∧
      (let u := publish s s.cur (publishScope n)
       (me s).wait ≠ .phase n →
        (member → pendAt (me s) n = false →
          exec (.phase l) s = .next (blockThread (modThread u u.cur fun x => setPend x n true) s.cur (.phase n))) ∧
        (member → pendAt (me s) n = true → exec (.phase l) s = .next (blockThread u s.cur (.arrive n))) ∧
        (¬ member → exec (.phase l) s = .next (takeTrap s s.cur causeAddress (domainOf (me s) n)))) ∧
      ((me s).wait = .phase n → pendAt (me s) n = true → exec (.phase l) s = .next (blockThread s s.cur (.phase n))) ∧
      ((me s).wait = .phase n → pendAt (me s) n = false → exec (.phase l) s = .next (retired 4 s s)) ∧
      ∀ a : Reg, PortsReady s [a] [] [] [] →
        let v := valueG s a
        let nt := ((threadRegion s s.cur).map (·.nt)).getD 0
        let good : Prop := fieldOf v 63 24 = 0 ∧ fieldOf v 19 16 = 0 ∧ pendAt (me s) n = false ∧
          (n = 1 → domTree v = 0) ∧ (n ≠ 1 → domTree v < nt ∧ ∀ m, 2 ≤ m → m ≤ 4 → m ≠ n → domTree (domainOf (me s) m) ≠ domTree v)
        (good → exec (.domain a l) s = .next (retired 4 s (modThread (afterG s a) s.cur fun x => setDomain x n v))) ∧
          (¬ good → exec (.domain a l) s = .next (takeTrap (holdDirs (namedDirs [a] []) s) s.cur causeAddress v))) ∧
    ∀ a : Reg, PortsReady s [a] [] [] [] → ∀ r, threadRegion s s.cur = some r →
      let v := valueG s a
      fieldOf v 63 32 = 0 → fieldOf v 15 5 = 0 → fieldOf v 3 0 < r.nt → treeBusy s r s.cur.core (fieldOf v 3 0) = false →
      exec (.bmem a) s =
        .next (retired 4 s (modRegion (afterG s a) (regionKey r.part r.inst) fun r =>
          { r with entriesNext := amInsert r.entriesNext (quadIndex r s.cur.core * 16 + fieldOf v 3 0)
                     (BitVec.ofNat 32 (fieldOf v 31 16 * 65536 + fieldOf v 4 4)) }))

/-- R249, R250, R253, R257 to R263, R266, R267: with the licence held, operands good and room in the stream, each matrix command
enters its pair's stream and retires; without the licence each of them raises the Licence trap with LICENCE.HOLDER; MLIC takes a free
licence, and while the twin holds it gives 1 or leaves its request and waits. -/
def Obligations.MatrixForms : Prop :=
  ∀ (s : State) (d a b : Reg) (acc : BitVec 4) (kg : BitVec 7) (af bf : BitVec 4) (sa sb : BitVec 1) (asl : BitVec 2) (bsl : BitVec 3),
    let pk := pairKey s.cur.core
    let licensed : Prop := holdsLicence s (threadRegion s s.cur) s.cur.core = true
    let inside (t : State) (ea : Word) (n : Nat) : Prop := localKind ea ≤ 2 ∧ ∃ o off, LocalRange t ea n o off
    let enters (t : State) (k : MKind) : Host.Outcome State Fault Refusal :=
      .next (retired 8 s (enterStream t pk s.cur.core s.cur.slot k))
    let scale (t : State) : Option Nat := if d = 0 then none else some ((valueG t d).toNat % 2 ^ 32)
    let done (t : State) : State := if d = 0 then t else afterG t d
    (licensed → issueRoom s pk = true →
      (PortsReady s [a, b, d] [] [] [] →
        let u := afterG (afterG s a) b
        let x := valueG s a
        let y := valueG (afterG s a) b
        x.toNat % 64 = 0 → y.toNat % 64 = 0 → inside u x (operandA af.toNat kg.toNat) → inside u y (operandB bf.toNat kg.toNat) →
        exec (.mma d a b acc kg af bf sa sb asl bsl) s =
          enters (done u) (.mma acc.toNat kg.toNat af.toNat bf.toNat (sa == 1) (sb == 1) asl.toNat bsl.toNat x y (scale u))) ∧
      (PortsReady s [b, d] [] [] [] →
        let u := afterG s b
        let y := valueG s b
        y.toNat % 64 = 0 → inside u y (operandB bf.toNat kg.toNat) → ∀ src : BitVec 4,
        exec (.mmac d src b acc kg af bf sa sb asl bsl) s =
          enters (done u) (.mmac acc.toNat src.toNat kg.toNat af.toNat bf.toNat (sa == 1) (sb == 1) asl.toNat bsl.toNat y (scale u))) ∧
      (∀ n : BitVec 4, exec (.mzero acc n) s = enters s (.mzero acc.toNat n.toNat)) ∧
      (PortsReady s [] [a] [] [] → TagsAgree s a → ∀ (row : BitVec 6) (half : BitVec 1) l, mwrValues (valueV s a) half = some l →
        exec (.mwr a acc row half) s = enters (afterV s a) (.mwr acc.toNat (32 * row.toNat + 16 * half.toNat) l)) ∧
      (PortsReady s [a] [] [] [] → ∀ soff len : BitVec 9,
        let x := valueG s a
        x.toNat % 64 = 0 → inside (afterG s a) x ((len.toNat + 1) * 64) →
        exec (.mscl a soff len) s = enters (afterG s a) (.mscl x soff.toNat (len.toNat + 1)))) ∧
    (licensed → followOnsDue s pk = false → exec .mrel s = .next (retired 8 s (releaseLicence s pk (sideOf s.cur.core)))) ∧
    (¬ licensed →
      let code := BitVec.ofNat 64 (holderCode s (threadRegion s s.cur) s.cur.core)
      let trap (gs vs : List Reg) : Host.Outcome State Fault Refusal :=
        .next (takeTrap (holdDirs (namedDirs gs vs) s) s.cur causeLicence code)
      exec .mrel s = .next (takeTrap s s.cur causeLicence code) ∧
        (∀ n : BitVec 4, exec (.mzero acc n) s = .next (takeTrap s s.cur causeLicence code)) ∧
        (PortsReady s [a, b, d] [] [] [] → exec (.mma d a b acc kg af bf sa sb asl bsl) s = trap [a, b, d] []) ∧
        (PortsReady s [b, d] [] [] [] → ∀ src : BitVec 4, exec (.mmac d src b acc kg af bf sa sb asl bsl) s = trap [b, d] []) ∧
        (PortsReady s [] [a] [] [] → TagsAgree s a → ∀ (row : BitVec 6) (half : BitVec 1), exec (.mwr a acc row half) s = trap [] [a]) ∧
        (PortsReady s [a] [] [] [] → ∀ soff len : BitVec 9, exec (.mscl a soff len) s = trap [a] [])) ∧
    (hasArray (threadRegion s s.cur) = true → PortsReady s [] [] [d] [] →
      let h := (getPair s pk).holder
      (∀ t : BitVec 1, h = sideOf s.cur.core ∨ (me s).wait = .licenceGranted → exec (.mlic d t) s = .next (retired 8 s (giveG s d 0))) ∧
        (∀ t : BitVec 1, h = 0 → (me s).wait ≠ .licenceGranted → CanGive (grantLicence s pk (sideOf s.cur.core)) d →
          exec (.mlic d t) s = .next (retired 8 s (giveG (grantLicence s pk (sideOf s.cur.core)) d 0))) ∧
        (h ≠ 0 → h ≠ sideOf s.cur.core → (me s).wait ≠ .licenceGranted → exec (.mlic d 1) s = .next (retired 8 s (giveG s d 1))) ∧
        (h ≠ 0 → h ≠ sideOf s.cur.core → (me s).wait ≠ .licenceGranted →
          ∃ t, exec (.mlic d 0) s = .next t ∧ (getThread t s.cur).wait = .licence ∧ (getThread t s.cur).pc = (me s).pc ∧
            requested (getPair t pk) (sideOf s.cur.core) = true ∧ (getPair t pk).holder = h ∧
            (getPair t pk).stream = (getPair s pk).stream ∧ RegsExcept (me s) (getThread t s.cur) [] [] [] ∧ SameMemory s t))

/-- R62, R63, R69, R250, R262, R264: MRD and an array CBRD send their command and wait, and give its value once it has executed; MRD
without the licence raises the Licence trap; MWAIT
gives the matrix status once the commands before it are gone, and clears it; the core's own codebook tables are read and written
whole. -/
def Obligations.StreamReads : Prop :=
  ∀ (s : State) (d a : Reg),
    let pk := pairKey s.cur.core
    (∀ (acc : BitVec 4) (row : BitVec 6) (half : BitVec 1) (tag : Tag) (sat sc : BitVec 1) (asl : BitVec 2) (rm : BitVec 3),
      PortsReady s [a] [] [] [d] →
      (∀ v, (me s).wait = .matrixDone v → exec (.mrd d a acc row half tag sat sc asl rm) s =
        .next (retired 8 s (match v with
          | some v => giveV (if a = 0 then s else afterG s a) d v
          | none => if a = 0 then s else afterG s a))) ∧
        ((∀ v, (me s).wait ≠ .matrixDone v) → holdsLicence s (threadRegion s s.cur) s.cur.core = false →
          exec (.mrd d a acc row half tag sat sc asl rm) s = .next (takeTrap (holdDirs (namedDirs [a] [d]) s) s.cur causeLicence
            (BitVec.ofNat 64 (holderCode s (threadRegion s s.cur) s.cur.core)))) ∧
        ((∀ v, (me s).wait ≠ .matrixDone v) → holdsLicence s (threadRegion s s.cur) s.cur.core = true → issueRoom s pk = true →
          ∃ t, exec (.mrd d a acc row half tag sat sc asl rm) s = .next t ∧ (getThread t s.cur).wait = .matrix (getPair s pk).entered ∧
            (getThread t s.cur).pc = (me s).pc ∧ (getPair t pk).stream = (getPair s pk).stream ++
              [{ num := (getPair s pk).entered, core := s.cur.core, slot := s.cur.slot
                 kind := .mrd acc.toNat row.toNat half.toNat tag.toNat (sat == 1) (sc == 1) asl.toNat
                   (if rm.toNat = 7 then fpctlRm (me s) else rm.toNat)
                   (if a = 0 then none else some ((valueG s a).toNat % 2 ^ 32)) }])) ∧
    (∀ t : BitVec 2, PortsReady s [] [] [] [d] →
      ((me s).cbsel.getLsbD 0 = false →
        exec (.cbrd d t) s = .next (retired 4 s (giveV s d
          { bits := BitVec.ofNat 512 (tableBits (getCore s s.cur.core).cbt t.toNat), tag := 0x0B }))) ∧
        ((me s).cbsel.getLsbD 0 = true →
          (∀ v, (me s).wait = .matrixDone (some v) → exec (.cbrd d t) s = .next (retired 4 s (giveV s d v))) ∧
          ((∀ v, (me s).wait ≠ .matrixDone v) → holdsLicence s (threadRegion s s.cur) s.cur.core = false →
            exec (.cbrd d t) s = .next (takeTrap (holdDirs (namedDirs [] [d]) s) s.cur causeLicence
              (BitVec.ofNat 64 (holderCode s (threadRegion s s.cur) s.cur.core)))) ∧
          ((∀ v, (me s).wait ≠ .matrixDone v) → holdsLicence s (threadRegion s s.cur) s.cur.core = true → issueRoom s pk = true →
            ∃ u, exec (.cbrd d t) s = .next u ∧ (getThread u s.cur).wait = .matrix (getPair s pk).entered ∧
              (getThread u s.cur).pc = (me s).pc ∧ (getPair u pk).stream = (getPair s pk).stream ++
                [{ num := (getPair s pk).entered, core := s.cur.core, slot := s.cur.slot, kind := .cbrd t.toNat }]))) ∧
    (∀ t : BitVec 2, PortsReady s [] [a] [] [] → TagsAgree s a → (valueV s a).tag = 0x0B →
      ((me s).cbsel.getLsbD 0 = false →
        ∃ u, exec (.cbld t a) s = .next u ∧ Retired s u ∧ ∀ i, i < 16 →
          amGet (getCore u s.cur.core).cbtNext (t.toNat * 16 + i) 0 = BitVec.ofNat 16 (lane 16 (valueV s a).bits.toNat i)) ∧
        ((me s).cbsel.getLsbD 0 = true → holdsLicence s (threadRegion s s.cur) s.cur.core = true → issueRoom s pk = true →
          exec (.cbld t a) s = .next (retired 4 s
            (enterStream (afterV s a) pk s.cur.core s.cur.slot (.cbld t.toNat ((valueV s a).bits.toNat % 2 ^ 256)))))) ∧
    (PortsReady s [] [] [d] [] → hasArray (threadRegion s s.cur) = true →
      (∀ c ∈ (getPair s pk).stream, ∀ n, (me s).wait = .mwait n → n ≤ c.num) →
      ((∀ n, (me s).wait ≠ .mwait n) → ∀ c ∈ (getPair s pk).stream, (getPair s pk).entered ≤ c.num) →
      ∃ t, exec (.mwait d) s = .next t ∧ (getCore t s.cur.core).matStatus = 0 ∧ Retired s t ∧
        (isGPort d = false → d ≠ 0 → gValue (getThread t s.cur) d = (getCore s s.cur.core).matStatus))

/-- R250, R268 to R270: in a region without an array TWX, HRD and HWR raise the Licence trap; TWX waits for its twin's, and the second
of the two swaps the registers and lets both go on; HRD gives a window register and HWR's value is there from the next cycle on. -/
def Obligations.TwinForms : Prop :=
  (∀ (s : State) (d a : Reg) (h : MReg), hasArray (threadRegion s s.cur) = false →
    exec (.twx d) s = .next (takeTrap s s.cur causeLicence 3) ∧
      (PortsReady s [] [] [d] [] → exec (.hrd d h) s = .next (takeTrap (holdDirs (namedDirs [d] []) s) s.cur causeLicence 3)) ∧
      (PortsReady s [a] [] [] [] → exec (.hwr h a) s = .next (takeTrap (holdDirs (namedDirs [a] []) s) s.cur causeLicence 3))) ∧
  ∀ s : State, hasArray (threadRegion s s.cur) = true →
    let pk := pairKey s.cur.core
    let u : ThreadRef := { core := twinOf s.cur.core, slot := s.cur.slot }
    let y := getThread s u
    (∀ (d : Reg) (e : Nat), isGPort d = false → e < 24 → y.slotState = .live → y.wait = .twx e → u ≠ s.cur →
      ∃ t, exec (.twx d) s = .next t ∧ (d ≠ 0 → gValue (getThread t s.cur) d = gValue y (BitVec.ofNat 5 e)) ∧
        (e ≠ 0 → gValue (getThread t u) (BitVec.ofNat 5 e) = gValue (me s) d) ∧ (getThread t u).wait = .none ∧
        (getThread t s.cur).pc = (me s).pc + 4 ∧ (getThread t u).pc = y.pc + 4 ∧ SameMemory s t) ∧
    (∀ d : Reg, (¬ ∃ e, y.slotState = .live ∧ y.wait = .twx e) → exec (.twx d) s = .next (blockThread s s.cur (.twx d.toNat))) ∧
    (∀ (d : Reg) (h : MReg), PortsReady s [] [] [d] [] →
      exec (.hrd d h) s = .next (retired 4 s (giveG s d (amGet (getPair s pk).window h.toNat 0)))) ∧
    ∀ (a : Reg) (h : MReg), PortsReady s [a] [] [] [] →
      exec (.hwr h a) s = .next (retired 4 s (windowWrite (afterG s a) pk (sideOf s.cur.core) h.toNat (valueG s a))) ∧
        ((getPair s pk).windowNext = [] →
          amFind (getPair (windowWrite (afterG s a) pk (sideOf s.cur.core) h.toNat (valueG s a)) pk).windowNext h.toNat =
            some (sideOf s.cur.core, valueG s a))

/-- R272 to R275, R277, R278, R280 to R287: in a region with the engines, with room in the queue that its core's turn allows, each
sum-product form with good operands sends its command on the way and waits; the form retires once the command is accepted, SPWAIT once
it is done, with the status. A form in a region without the engines raises the Address trap. A command that completes leaves the words of
its tree, run or move and merges the events of all its steps into its core's status, or writes nothing and sets ERR where a
word that it reads cannot be read. An entry of the queue is taken when the command is sent, and a rope sends when there is one for each
member (log entry 40); what a command reads or
writes ahead of its completion is log entry 19; words that SPDN moves, and the sign of zero results, are log entry 20. -/
def Obligations.SumProductForms : Prop :=
  ∀ (s : State) (d a b : Reg) (op : BitVec 14) (leaves : BitVec 8) (f : BitVec 1) (idx : BitVec 13) (n : BitVec 9) (m : BitVec 2),
    let q := quadKey s.cur.core
    let forms : List (Instr × List Reg × State) :=
      [(.spup d a b op leaves f, [a, b, d], afterG (afterG (afterG s a) b) d),
       (.spdn d a b op leaves f, [a, b, d], afterG (afterG (afterG s a) b) d),
       (.spld a idx n, [a], afterG s a), (.spst a idx n, [a], afterG s a), (.spnrm a idx n, [a], afterG s a), (.spmode m, [], s)]
    (∀ p ∈ forms, PortsReady s p.2.1 [] [] [] → (me s).wait = .spAccepted → exec p.1 s = .next (retired 8 s p.2.2)) ∧
    (∀ v, PortsReady s [] [] [d] [] → (me s).wait = .spDone v → exec (.spwait d) s = .next (retired 8 s (giveG s d v))) ∧
    ((∀ r, threadRegion s s.cur = some r → r.quad = false) → (me s).wait = .none →
      let trap (gs : List Reg) : Host.Outcome State Fault Refusal :=
        .next (takeTrap (holdDirs (namedDirs gs []) s) s.cur causeAddress 0xFF40000000000000)
      (∀ p ∈ forms, PortsReady s p.2.1 [] [] [] → exec p.1 s = trap p.2.1) ∧ (PortsReady s [] [] [d] [] → exec (.spwait d) s = trap [d])) ∧
    ((∃ r, threadRegion s s.cur = some r ∧ r.quad = true) → (me s).wait = .none →
      spRoom s s.cur = true →
      let sends (i : Instr) (k : SpKind) : Prop := ∃ t, exec i s = .next t ∧ (getThread t s.cur).wait = .spAccept (getQuad s q).sent ∧
        (getThread t s.cur).pc = (me s).pc ∧ (getQuad t q).path = spEnter (getQuad s q).path
          { num := (getQuad s q).sent, core := s.cur.core, slot := s.cur.slot, at_ := (getQuad s q).ticks, kind := k } ∧
        RegsExcept (me s) (getThread t s.cur) [] [] [] ∧ SameMemory s t
      let x := valueG s a
      let y := valueG (afterG s a) b
      let z := valueG (afterG (afterG s a) b) d
      let localAt (n : Nat) : Prop := x.toNat % 4 = 0 ∧ isLocal x = true ∧ localKind x ≤ 2 ∧
        ∃ o off, resolve (afterG s a) s.cur x (4 * n) = .loc o off
      sends (.spmode m) (.mode m.toNat) ∧
        (PortsReady s [] [] [d] [] → sends (.spwait d) .wait) ∧
        (PortsReady s [a] [] [] [] → localAt (n.toNat + 1) → sends (.spld a idx n) (.load x idx.toNat (n.toNat + 1)) ∧
          sends (.spst a idx n) (.store x idx.toNat (n.toNat + 1))) ∧
        (PortsReady s [a] [] [] [] → fieldOf x 63 13 = 0 →
          (fieldOf x 12 0 < idx.toNat ∨ idx.toNat + n.toNat < fieldOf x 12 0) →
          sends (.spnrm a idx n) (.norm idx.toNat (n.toNat + 1) (fieldOf x 12 0))) ∧
        (PortsReady s [a, b, d] [] [] [] → spLeavesOk x (leaves.toNat % 16) = true → spLeavesOk y (leaves.toNat / 16) = true →
          (fieldOf z 63 13 = 0 → (f = 1 ∨ fieldOf z 12 0 + 6 ≤ 8191) → sends (.spup d a b op leaves f) (.up x y (fieldOf z 12 0) op.toNat leaves.toNat (f == 1))) ∧
            (fieldOf z 63 45 = 0 → fieldOf z 31 29 = 0 → fieldOf z 15 13 = 0 → fieldOf z 12 0 + 6 ≤ 8191 →
              fieldOf z 44 32 + 7 ≤ 8191 →
              sends (.spdn d a b op leaves f)
                (.down x y (fieldOf z 12 0) (fieldOf z 28 16) (fieldOf z 44 32) op.toNat leaves.toNat (f == 1))))) ∧
    ∀ (k : Nat) (c : SpCmd) (rest : List SpCmd), (getQuad s k).queue = c :: rest → quadRuns s k = true → c.seen = [] → c.wrote = [] →
      (spTree c = true → spTreesTaken s k [] (c :: rest) c.num < 8) →
      let mode := (getQuad s k).mode
      let leaf (a b : Word) (i : Nat) : Nat := fieldOf (if i < 4 then a else b) (16 * (i % 4) + 12) (16 * (i % 4))
      ∃ t, exec (.spCommandComplete k) s = .next t ∧
        let merged (e : FpFlags) : Prop :=
          (getCore t c.core).spStatus = (getCore s c.core).spStatus ||| BitVec.ofNat 64 (flagsToNat e)
        (∀ u, (getThread t u).fpctl = (getThread s u).fpctl) ∧ (∀ n, n ≠ c.core → (getCore t n).spStatus = (getCore s n).spStatus) ∧
        ((∀ m, c.kind ≠ .mode m) → c.kind ≠ .wait → spValues s k c = none →
          (∀ o, localMem t o = localMem s o) ∧ (getCore t c.core).spStatus = (getCore s c.core).spStatus ||| 0x800) ∧
        (∀ a b d op leaves root (W : Nat → Nat), c.kind = .up a b d op leaves root →
          (∀ i, i < 8 → leaves.testBit i = true → ScratchHolds s k (leaf a b i) (W i)) →
          ∃ (v : Nat → Nat) (f : Nat → FpFlags), (∀ i, i < 8 → leaves.testBit i = true → v (7 + i) = spRaw mode (W i)) ∧
            UpwardRule mode op leaves v f ∧ merged (flagsAll ((List.range 7).map f)) ∧
            (root = true → spHas leaves 0 = true → ScratchHolds t k d (v 0)) ∧
            (root = false → ∀ n, n < 7 → spHas leaves n = true → ScratchHolds t k (d + n) (v n))) ∧
        (∀ a b d u e op leaves acc (V O : Nat → Nat) U, c.kind = .down a b d u e op leaves acc →
          (∀ n, 1 ≤ n → n < 7 → spHas leaves n = true → ScratchHolds s k (d + n) (V n)) →
          (∀ i, i < 8 → leaves.testBit i = true → ScratchHolds s k (leaf a b i) (V (7 + i))) → ScratchHolds s k u U →
          (acc = true → ∀ i, i < 8 → leaves.testBit i = true → ScratchHolds s k (e + i) (O i)) →
          ∃ (g : Nat → Nat) (f h : Nat → FpFlags), g 0 = spRaw mode U ∧ DownwardRule mode op leaves (fun n => spRaw mode (V n)) g f ∧
            merged (flagsOr (flagsAll ((List.range 7).map f)) (flagsAll ((List.range 8).map h))) ∧
            ∀ i, i < 8 →
              (acc = false ∨ leaves.testBit i = false → h i = noFlags) ∧
              (leaves.testBit i = true → ∃ y, ScratchHolds t k (e + i) y ∧ (acc = false → y = g (7 + i)) ∧
                (acc = true → SpOpRule mode 0 (spRaw mode (O i)) (g (7 + i)) (y, h i)))) ∧
        (∀ a idx n o off (W : Nat → Nat), c.kind = .load a idx n → resolveIn (spRegion s c.core) c.core a (4 * n) = .loc o off →
          (∀ j, j < n → (localRead s o (off + 4 * j) 4).map ofBytes = some (W j)) →
          merged noFlags ∧ ∀ j, j < n → ScratchHolds t k (idx + j) (W j)) ∧
        (∀ a idx n o off (W : Nat → Nat), c.kind = .store a idx n → resolveIn (spRegion s c.core) c.core a (4 * n) = .loc o off → (∀ j, o ≠ .regs j) →
          (∀ j, j < n → ScratchHolds s k (idx + j) (W j) ∧ (localRead s o (off + 4 * j) 4).isSome = true) →
          merged noFlags ∧ ∀ j, j < n → (localRead t o (off + 4 * j) 4).map ofBytes = some (W j)) ∧
        ∀ idx n x (W : Nat → Nat) X, c.kind = .norm idx n x → x < idx ∨ idx + n ≤ x → (∀ i, i < n → ScratchHolds s k (idx + i) (W i)) →
          ScratchHolds s k x X →
          let v (i : Nat) : FVal := spValue mode (spRaw mode (W i))
          let counts (i : Nat) : Prop := i < n ∧ isFinite (v i) = true ∧ valQ (v i) ≠ 0
          ∃ sh : Int, ((∀ i, ¬ counts i) → sh = 0) ∧
            (∀ e : Int, (∃ i, counts i ∧ (2 : ℚ) ^ e ≤ |valQ (v i)|) → (∀ i, counts i → |valQ (v i)| < (2 : ℚ) ^ (e + 1)) → sh = e) ∧
            (∃ f : Nat → FpFlags, merged (flagsAll ((List.range n).map f)) ∧
              ∀ i, i < n → ∃ y, ScratchHolds t k (idx + i) y ∧ ScaledRule mode sh (spRaw mode (W i)) (y, f i)) ∧
            ∃ y, ScratchHolds t k x y ∧ (y : Int) = ((X : Int) + sh) % 2 ^ 32

/-- R238 to R241: MIGR START on a page that can move takes the lowest free slot of its engine, passes the page's token and lets
the slot copy, with status 0; each condition that fails gives its status and moves nothing; MIGR ABORT of a copying page begins its
abort, with status 8, of a finishing one gives 10, and of a page in no slot 7.

R241: HEAT reads a window's counts and a page's, sets the mode and clears the tables; any other operand raises the Address trap. That
a bit of A[7:4] counts as outside the table in the two reads is the model's choice (log entry 38).

R214, R225, R239: TQRY gives a line's word from the caches or from its walk, and 3 where nothing maps it; one that finds no walker waits, one whose walk a token has overtaken starts at L4, and
the word's fields are the table's. The model's choices here: the walk is made at once where a walker is free, its fills are those of any
translation, and the other misses of its page share it (log entry 9); a leaf that has changed meanwhile gives the status of the change
(log entry 34). -/
def Obligations.TierForms : Prop :=
  ∀ s : State,
    (∀ (d a b : Reg), InSys s → PortsReady s [a, b] [] [d] [] → s.defer = false → (∀ k, (me s).wait ≠ .tokenDone k) →
      let x := valueG s a
      let y := valueG (afterG s a) b
      let u := afterG (afterG s a) b
      let w := whoThread s s.cur
      let va := fieldOf x 56 12 * 4096
      let gives (t : State) (v : Word) : Prop := CanGive t d → exec (.migr d a b) s = .next (retired 4 s (giveG t d v))
      fieldOf x 63 57 = 0 → fieldOf x 8 7 = 0 → fieldOf x 6 0 ≤ 64 →
      (fieldOf x 11 9 = 0 ∧ fieldOf y 63 52 = 0 ∧ fieldOf y 11 2 = 0 ∧ fieldOf y 1 0 ≠ 3 ∨ fieldOf x 11 9 = 1 ∧ y = 0) →
      (∀ s1, queryLeaf u w (fieldOf x 6 0) va = (s1, none) → gives s1 (migrWord 4 0 0)) ∧
        ∀ s1 level addr e, queryLeaf u w (fieldOf x 6 0) va = (s1, some (level, addr, e)) →
          (level = 2 → gives s1 (migrWord 3 0 0)) ∧
          ∀ r f, level ≠ 2 → pageOf s1 w va level addr e = (r, f) →
            let size := fieldOf y 1 0
            let dst := fieldOf y 51 12 * 4096
            let g := homeStack r w.part f.src
            (fieldOf x 11 9 = 0 → pteT e = true → gives r (migrWord 2 0 0)) ∧
              (fieldOf x 11 9 = 0 → pteT e = false → f.size ≠ size → gives r (migrWord 5 0 0)) ∧
              (fieldOf x 11 9 = 0 → pteT e = false → f.size = size → badDestination r w.part dst (pageBytes size) f.src = true →
                gives r (migrWord 6 0 0)) ∧
              (fieldOf x 11 9 = 0 → pteT e = false → f.size = size → badDestination r w.part dst (pageBytes size) f.src = false →
                (freeSlot (getEngine r g) = none → gives r (migrWord 1 0 0)) ∧
                  ∀ n b, freeSlot (getEngine r g) = some n →
                    (beginTraverse r w g n f (fieldOf x 6 0) dst (migrOwner r r.cur) = (b, true) →
                        gives (startCopying (passAll (migrToken b g n) b).1 g n) (migrWord 0 n g)) ∧
                      (beginTraverse r w g n f (fieldOf x 6 0) dst (migrOwner r r.cur) = (b, false) → gives b (migrWord 9 0 0))) ∧
              (fieldOf x 11 9 = 1 → pteT e = false ∨ slotOf r (me r).part f.src = none → gives r (migrWord 7 0 0)) ∧
              ∀ g n, fieldOf x 11 9 = 1 → pteT e = true → slotOf r (getThread r r.cur).part f.src = some (g, n) →
                let st := (getTSlot r g n).state
                (st = .copying → gives (abortSlot r g n 4) (migrWord 8 n g)) ∧ (st = .aborting → gives r (migrWord 8 n g)) ∧
                  (st = .finishing → gives r (migrWord 10 n g))) ∧
    (∀ (d a : Reg), InSys s → PortsReady s [a] [] [d] [] →
      let x := valueG s a
      let u := afterG s a
      let p := (me s).part
      let op := fieldOf x 3 0
      let gives (t : State) (v : Word) : Prop := CanGive t d → exec (.heat d a) s = .next (retired 4 s (giveG t d v))
      let window : Prop := op = 0 ∧ fieldOf x 63 52 = 0 ∧ fieldOf x 20 4 = 0 ∧ populated u p (fieldOf x 51 21 * 2 ^ 21) = true
      let page : Prop := op = 1 ∧ fieldOf x 63 52 = 0 ∧ fieldOf x 11 4 = 0 ∧ populated u p (fieldOf x 51 12 * 4096) = true
      let mode : Prop := op = 2 ∧ fieldOf x 63 5 = 0
      let clear : Prop := op = 3 ∧ fieldOf x 63 4 = 0
      (window →
        let h := (getEngine u (homeStack u p (fieldOf x 51 21 * 2 ^ 21))).heat.find? fun h => h.window == fieldOf x 51 21
        (h = none → gives u 0) ∧ ∀ y, h = some y → y.deliv < 2 ^ 32 → y.starve < 2 ^ 32 →
          ∃ v, gives u v ∧ fieldOf v 63 32 = y.starve ∧ fieldOf v 31 0 = y.deliv) ∧
      (page →
        let l := u.slices.flatMap fun y => y.2.gravity.filter fun g => g.page == fieldOf x 51 12
        ∃ v, gives u v ∧ fieldOf v 15 0 = min 65535 (l.map (·.count)).sum ∧ fieldOf v 27 16 = min 4095 (l.map (·.q0)).sum ∧
          fieldOf v 39 28 = min 4095 (l.map (·.q1)).sum ∧ fieldOf v 51 40 = min 4095 (l.map (·.q2)).sum ∧
          fieldOf v 63 52 = min 4095 (l.map (·.q3)).sum) ∧
      (mode → gives (modPart u p fun t => { t with heatMode := fieldOf x 4 4 }) (BitVec.ofNat 64 (getPart s p).heatMode)) ∧
      (clear → ∃ t, gives t 0 ∧ (∀ e ∈ t.engines, (getPart s p).stackSet.testBit e.1 = true → e.2.heat = []) ∧
        (∀ y ∈ t.slices, (getPart s p).stackSet.testBit (y.1 / 128) = true → y.2.gravity = []) ∧ SameMemory u t) ∧
      (¬ (window ∨ page ∨ mode ∨ clear) →
        exec (.heat d a) s = .next (takeTrap (holdDirs (namedDirs [a, d] []) s) s.cur causeAddress x))) ∧
    (∀ (t : State) (p pa bits : Nat) (moving : Bool),
      let v := tqryWord t p pa bits moving
      let q := sectorPos t p pa
      let r := sectorRecord t q.sector q.lineNo
      fieldOf v 63 32 = 0 ∧ fieldOf v 20 16 = 0 ∧ fieldOf v 6 2 = 0 ∧
        fieldOf v 1 0 = (match tierOf pa with
          | .hbm _ => 0
          | .lpddr => 1
          | .cxl _ => 2
          | .none => 3) ∧
        (∀ z ∈ [(12, 0), (16, 1), (21, 2), (25, 3), (30, 4)], bits = z.1 → fieldOf v 9 7 = z.2) ∧
        v.getLsbD 10 = moving ∧ (moving = false → fieldOf v 15 11 = 0) ∧
        (∀ e n, moving = true → n < 16 → slotOf t p pa = some (e, n) →
          fieldOf v 15 12 = n ∧ v.getLsbD 11 = (getTSlot t e n).copied.testBit ((pa - (getTSlot t e n).src) / 64)) ∧
        (tierOf pa ≠ .lpddr ∨ t.scsize = 0 → fieldOf v 31 21 = 0) ∧
        (tierOf pa = .lpddr → t.scsize ≠ 0 → fieldOf v 31 24 = fieldOf r 7 0 ∧ v.getLsbD 23 = r.getLsbD 11 ∧ v.getLsbD 22 = r.getLsbD 10 ∧
          (v.getLsbD 21 = true ↔ r.getLsbD 11 = true ∧ fieldOf r 7 0 = q.tag))) ∧
    ∀ (d a : Reg), PortsReady s [a] [] [d] [] → fieldOf (valueG s a) 63 57 = 0 →
      let va := (valueG s a).toNat
      let u := afterG s a
      let answer (t : State) (e : TlbEntry) : Word :=
        if modeSys (me s) || e.a then tqryWord t (me s).part (tlbPa e va) e.bits e.t else 3
      (∀ s1 e, cacheLookup u s.cur.core (me s).func va false false false = (s1, some e) → CanGive s1 d →
        exec (.tqry d a) s = .next (retired 4 s (giveG s1 d (answer s1 e)))) ∧
        ∀ s0, cacheLookup u s.cur.core (me s).func va false false false = (s0, none) →
          let q := quadKey s.cur.core
          let turn := walkerJob u q fun j => j.threads.contains s.cur
          let word (t : State) (r : Option TlbEntry) : Word := match r with
            | some e => answer t e
            | none => 3
          (turn = none → walkerFree u q (me s).func va = true → ∀ s1 r, tqryWalk u s.cur va false = (s1, r) → CanGive s1 d →
            exec (.tqry d a) s = .next (retired 4 s (giveG s1 d (word s1 r)))) ∧
          (∀ j s1 r, turn = some j →
            let late : Bool := j.gen != some (getQuad u q).gen
            tqryWalk (leaveWalks (if late then walkReads u (whoThread u s.cur) q va else u) q j) s.cur va (j.fromRoot || late) = (s1, r) →
            let z := r.elim (walkUndecided j s1) fun e => walkShared e j s1
            CanGive z d → exec (.tqry d a) s = .next (retired 4 s (giveG z d (word s1 r)))) ∧
          (turn = none → walkerFree u q (me s).func va = false →
            ∃ t, exec (.tqry d a) s = .next t ∧ (me t).wait = .query va ∧ (me t).pc = (me s).pc ∧ RegsExcept (me s) (me t) [] [] [] ∧
              SameMemory s t)

/-! ### Steps of the device -/

/-- R71, R74, R76, R80, R148, R335: a launch packet that its core takes occupies its slot; a creation whose reads succeed, in a cycle in which
the core advances, makes a live thread at the entry; a YIELD that has run out is over; the oldest user message of a source enters its channel; the data of a load comes back and the
load completes, in the same step where the thread is unroped and its core advances in the cycle. These steps and their moments are log
entry 5, what a creation's reads see of the gateways log entry 7, which source's message comes first log entry 39. -/
def Obligations.CoreEvents : Prop :=
  ∀ s : State,
    (∀ core p i, packetFor s core = some p →
      let u := countPacket { s with net := s.net.erase (.packet core p) } core p
      packetOk u core p = true → slotFor (answerSender u p 0) core p = some i →
      exec (.launchPacketArrival core) s = .next (acceptPacket (answerSender u p 0) core i p) ∧
        (getThread (acceptPacket (answerSender u p 0) core i p) { core := core, slot := i }).slotState = .creating p) ∧
    (∀ core slot p r u v w h pc ls,
      let t : ThreadRef := { core := core, slot := slot }
      coreAdvances s core = true → (getThread s t).slotState = .creating p → (getThread s t).wait = .none → packetRegion s p = some r →
      u = modThread s t (fun x => { x with snap := (amGet s.gatePrev (dieOf core) []).foldl overlayGate s.gmemPrev, own := [] }) → creationRead u t p.image 16 = (v, .ok h) →
      entryPc r p (dwordAt h 0) (dwordAt h 1) = some pc →
      creationParts t p.image
        [((dwordAt h 1).getLsbD 3, 0x10, 16), ((dwordAt h 1).getLsbD 1, 0x20, 32), ((dwordAt h 1).getLsbD 0, 0x40, 256),
         ((dwordAt h 1).getLsbD 2, 0x140, 128), ((dwordAt h 1).getLsbD 1, 0x1C0, 2048)] v = (w, .ok ls) →
      (∀ y, regionForced (setThread (dropParty w t) t y) t = false) →
      ∃ z, exec (.threadCreation core slot) s = .next z ∧
        let y := getThread z t
        y.slotState = .live ∧ y.pc = pc ∧ modeSys y = isService core ∧ isRoped y = false ∧ y.mprog = 0 ∧ y.instret = 0 ∧ y.stalls = 0 ∧
          y.bivbase = BitVec.ofNat 64 p.bivb ∧ y.bivlimit = BitVec.ofNat 64 p.bivl ∧ y.bivovf = BitVec.ofNat 64 p.bivo ∧ y.wait = .none ∧
          y.pend = 0 ∧ y.trapvec = 0 ∧
          ((dwordAt h 1).getLsbD 0 = false → ∀ g : Reg, gValue y g = if g = 30 then BitVec.ofNat 64 p.bivb else 0) ∧
          ((dwordAt h 1).getLsbD 1 = false → ∀ x : Reg, vValue y x = {}) ∧
          ((dwordAt h 1).getLsbD 2 = false → ∀ k : MReg, k ≠ 0 → kValue y k = 0) ∧
          ((dwordAt h 1).getLsbD 3 = false → y.fpctl = 0 ∧ y.cbsel = 0)) ∧
    (∀ core slot, coreAdvances s core = false → exec (.threadCreation core slot) s = .next s) ∧
    (∀ core slot,
      let t : ThreadRef := { core := core, slot := slot }
      (getThread s t).yieldLeft = 1 → exec (.yieldExpiry core slot) s = .next (modThread s t fun x => { x with yieldLeft := 0 })) ∧
    (∀ core chan m u,
      messageChoice s ((oldestBySource (s.net.filterMap (userFor core))).filter fun m => m.chan == chan) = (some m, u) →
      (amGet (getCore s core).recv chan []).length < 8 →
      ∃ t, exec (.userMessageArrival core chan) s = .next t ∧ t.net = s.net.erase (.user m) ∧ m.dst = core ∧ m.chan = chan ∧
        amGet (getCore t core).recv chan [] = amGet (getCore s core).recv chan [] ++ [m.data]) ∧
    ∀ core slot,
      let t : ThreadRef := { core := core, slot := slot }
      let u := modThread s t fun x => { x with wait := .replied }
      (getThread s t).wait = .reply →
        (isRoped (getThread s t) = true ∨ coreAdvances s core = false → exec (.memoryReply core slot) s = .next u) ∧
          ∀ v i r, isRoped (getThread s t) = false → coreAdvances s core = true →
            nextInstr { u with cur := t, defer := false } t = (v, .ok i) →
            completeAccess i v = .next r →
            (∀ d a sz imm, i = .ld d a sz imm → exec i v = .next r) ∧
              let q := { r with cur := s.cur, defer := s.defer }
              exec (.memoryReply core slot) s = .next (if regionForced q t then stopForced q t else q)

/-- R140, R141, R224, R336, R343: once the words that are due have landed, a segment whose step can be performed performs it and
counts it, and makes a held attempt in a cycle that is not enabled in all its quads; a word that crosses lands in its
FIFO when its cycle has come; a stream node's read generator fetches one word. The moments of these steps are log entry 5; the bytes
that fill a last word are free (log entry 38). -/
def Obligations.SegmentEvents : Prop :=
  ∀ z : State,
    let s := landDue z
    (∀ rk st r l u, getRegion s rk = some r →
      let g := segmentOf r st
      g.running = true → g.attemptAt ≠ some s.cycle → st ∈ regionStacks r → ¬ (r.ending = true ∧ r.frames = 0) →
      segmentClocked s r st = true → g.fault = none →
      trapHold s r st = false → cairnHold s r st g.c = false → echoHold s r st = false →
      evalStep s r st g.c = some l → (∀ x ∈ l, x.2.fault = none) → prepareWrites l s = (u, none) →
      exec (.segmentAttempt rk st) z = .next (advanceSegment (l.foldl (performRow r) u) rk st r)) ∧
    (∀ rk st r, getRegion s rk = some r →
      let g := segmentOf r st
      g.running = true → g.attemptAt ≠ some s.cycle → st ∈ regionStacks r → ¬ (r.ending = true ∧ r.frames = 0) →
      segmentClocked s r st = true →
      (g.fault.isSome = true ∨ trapHold s r st = true ∨ cairnHold s r st g.c = true ∨ evalStep s r st g.c = none) →
      exec (.segmentAttempt rk st) z = .next (holdSegment s rk st g.c r true)) ∧
    (∀ rk st r, getRegion s rk = some r →
      let g := segmentOf r st
      g.running = true → g.attemptAt ≠ some s.cycle → st ∈ regionStacks r → ¬ (r.ending = true ∧ r.frames = 0) →
      segmentClocked s r st = false →
      exec (.segmentAttempt rk st) z = .next (setSegment s rk st fun g => { g with lastHeld := true, attemptAt := some s.cycle })) ∧
    (∀ node port c, z.crossings.find? (fun c => c.dst == node && c.port == port) = some c →
      (c.timed = true → c.at_ ≤ z.cycle) → amGet (getSwitch z node).retrainUntil port 0 ≤ z.cycle →
      exec (.crossingWordArrival node port false) z = .next (landWord { z with crossings := z.crossings.erase c } c) ∧
        (c.port ≠ 5 →
          (inputOf (landWord { z with crossings := z.crossings.erase c } c) c.dst c.port).words =
            (inputOf z c.dst c.port).words ++ [{ word := c.word, at_ := z.cycle }])) ∧
    ∀ k d rk r u l v e,
      let g := nodeGen z k false
      let q := genPieces g false
      g.desc = some d → elementRegion z k = some (rk, r) → elKind k = .stream → q ≠ [] → g.stalled = none → g.refused = false →
      fifoRoom 16 z.cycle 1 (getSwitch z k).queue = true → nodeRead k q z = (u, .ok l) →
      let p := padWord u l
      let w : LinkWord := { data := BitVec.ofNat 256 (ofBytes p.2), side := BitVec.ofNat 8 (d.tag % 32) }
      let x := modGen (modSwitch p.1 k fun y => { y with queue := fifoPush (p.1.cycle + 1) w y.queue }) k false fun g =>
        { g with done := g.done + piecesLen q }
      let va := (q.headD (0, 0)).1.toNat
      nodeXlate x k false va = (v, .ok e) → exec (.streamFetch k) z = .next (countNodeHeat v k (tlbPa e va) 32)

/-- R171 to R176, R335: a copy channel moves one piece of its command in a cycle that is enabled for its quad, and no second one in
that cycle, and counts its bytes; ERR is cleared by its write; a follow-on that found no room enters the stream later, with the
command's last byte; an incomplete CPYQ set leaves its node after 1,024 cycles of its quad. A piece is what lies in one destination
granule of 64 bytes (R173), and where its last byte lands before it counts is log entry 40. -/
def Obligations.CopyEvents : Prop :=
  ∀ (s : State) (k c : Nat),
    (quadRuns s (quadKey k) = false → exec (.copyPiece k c) s = .next s) ∧
    (quadRuns s (quadKey k) = true → (getChan (startChannel s k c) k c).pieceAt = some (startChannel s k c).cycle →
      exec (.copyPiece k c) s = .next (startChannel s k c)) ∧
    (∀ x v w l l',
      let u := startChannel s k c
      let ch := getChan u k c
      let n := l.length
      quadRuns s (quadKey k) = true → ch.pieceAt ≠ some u.cycle →
      ch.active = some x → ch.followDue = false → ch.stalled = none → ch.err = false →
      readParts k c x (descPieces x.desc.src x.desc x.desc.sstrides 64 ch.done (pieceLength x.desc ch.done)) u = (v, l, none) →
      writeParts k c x (descPieces x.desc.dst x.desc x.desc.dstrides 64 ch.done n) l v = (w, .ok l') →
      let y := if isLocal x.desc.src = true then w
        else countParts k c (descPieces x.desc.src x.desc x.desc.sstrides 64 ch.done n) ch.done w
      exec (.copyPiece k c) s = .next (landPiece y k c x n) ∧
        ((getChan y k c).done + n < descTotal x.desc →
          (getChan (landPiece y k c x n) k c).wptr = (getChan y k c).wptr + BitVec.ofNat 64 n ∧
            (getChan (landPiece y k c x n) k c).done = (getChan y k c).done + n)) ∧
    (∃ t, exec (.copyErrClear k c) s = .next t ∧ (getChan t k c).err = false ∧ (getChan t k c).abortedBy = []) ∧
    (∀ x f, (getChan s k c).active = some x → x.follow = some f → (getChan s k c).followDue = true →
      quadRuns s (quadKey k) = true → streamRoom s (pairKey x.core) = true →
      ∃ t, exec (.cpymFollowOn k c) s = .next t ∧ (getChan t k c).active = none ∧ (getChan t k c).lastId = x.id ∧
        (getChan t k c).wptr = (getChan s k c).wptr + 1 ∧
        (getPair t (pairKey x.core)).stream = (getPair s (pairKey x.core)).stream ++
          [{ num := (getPair s (pairKey x.core)).entered, core := x.core, slot := x.slot, kind := f }]) ∧
    ∀ (quad : Nat) (b : Word) h, (getQuad s quad).held.find? (fun h => h.designator == b) = some h → h.opened + 1024 ≤ (getQuad s quad).ticks →
      ∃ t, exec (.cpyqSetRelease quad b) s = .next t ∧ ∀ x ∈ (getQuad t quad).held, x.designator ≠ b

/-- R195, R196, R201, R206, R214, R217 to R219, R332, R364: one RED is performed, after what reached its gateway for the line before it; a WAITA
whose time is over returns TIMEOUT; a contention count falls after 4,096 cycles; a walk that has a walker fills the caches for every
thread and channel that shares it, begins again after a token with its line reads made, or ends in fault messages; a token passes a
target; a message enters a mailbox with room, and a fault report aborts its launch there; the first reply of a sender reaches the requester that waits under its number. The moments of these steps are log
entry 5, the gateway's order entry 7, the order of walks and tokens entry 9, what a token drops by tables entry 28, and which sender's
message comes first into a mailbox entry 40. -/
def Obligations.MemoryEvents : Prop :=
  ∀ s : State,
    (∀ core slot i r,
      let t : ThreadRef := { core := core, slot := slot }
      (getThread s t).reds[i]? = some r → (∀ q ∈ (getThread s t).reds.take i, sameLine q.pa r.pa = false) →
      exec (.redPerform core slot i) s =
        .next (performRed (forwardUpTo (modThread s t fun x => { x with reds := (getThread s t).reds.eraseIdx i }) (dieOf core) r.pa
          (some r.reached)) (whoThread s t) r)) ∧
    (∀ core slot pa v dl,
      let t : ThreadRef := { core := core, slot := slot }
      (getThread s t).wait = .monitor pa v (some dl) → dl ≤ s.cycle →
      ∃ u, exec (.waitaTimeout core slot) s = .next u ∧ (getThread u t).wait = .woken 1) ∧
    (∀ quad line e, e ∈ (getQuad s quad).predictor → e.line = line → e.since + 4096 ≤ s.cycle →
      ∃ u, exec (.predictorDecay quad line) s = .next u ∧ { e with count := e.count - 1, since := e.since + 4096 } ∈ (getQuad u quad).predictor) ∧
    (∀ core slot va w f c j,
      let t : ThreadRef := { core := core, slot := slot }
      let q := quadKey core
      let now := (getQuad s q).gen
      let jobs := startWalks now (pendingWalks s q)
      (getThread s t).wait = .walk va w f c → (jobs.take 2).find? (fun j => j.threads.contains t) = some j →
      (j.gen ≠ some now → exec (.walkEnd core slot) s = .next (modQuad (walkReads s (whoThread s t) q va) q fun y =>
        { y with walks := jobs.map fun x => if sameWalk j x then { x with gen := some now, fromRoot := true } else x })) ∧
        (j.gen = some now →
          let u := modQuad s q fun y => { y with walks := startWalks now (jobs.filter fun x => !sameWalk j x) }
          (∀ v e, threadWalk u t va w f j.fromRoot = (v, .ok e) →
            exec (.walkEnd core slot) s = .next (walkShared e j v) ∧
              ∀ x ∈ j.threads, ∀ va w f c, (getThread (walkShared e j v) x).wait ≠ .walk va w f c) ∧
          ∀ v a l e, threadWalk u t va w f j.fromRoot = (v, .fault a l e) →
            let req := threadReq s t va w f
            exec (.walkEnd core slot) s = .next (j.ports.foldl (chanLost req a l e) (j.threads.foldl (walkLost req now.toNat a l e) v)) ∧
              (j.threads = [t] → j.ports = [] → getThread v t = getThread s t →
                ∃ x h rest, exec (.walkEnd core slot) s = .next x ∧
                  (getThread x t).wait = .fault (BitVec.ofNat 64 (faultVa v t va f)) ∧
                  x.net = v.net ++ [.mail (getThread s t).part h (faultHead a l w f (!modeSys (getThread s t)) c
                    (requestKind (getThread s t)) now.toNat (getThread s t).func :: rest)]))) ∧
    (∀ n target k, s.tokens.find? (fun k => k.id == n && k.targets.contains target) = some k →
      let r := passTarget k (s, k.removed) target
      let left := k.targets.filter fun x => x != target
      let others := r.1.tokens.filter fun x => x.id != n
      (left ≠ [] → exec (.tokenPass n target) s = .next { r.1 with tokens := others ++ [{ k with targets := left, removed := r.2 }] }) ∧
        (left = [] → exec (.tokenPass n target) s =
          .next (tokenFinished (dropUnmapped (forceAll k { r.1 with tokens := others }) k.part) k r.2))) ∧
    (∀ k l, mailFor s k = some l → (getCore s k).mailbox.length < 64 →
      let u := modCore { s with net := s.net.erase (.mail (partOfCore s k) k l) } k fun c => { c with mailbox := c.mailbox ++ [l] }
      exec (.mailboxArrival k) s = .next (faultAbort u k l) ∧
        (fieldOf (l.getD 0 0) 7 0 ≠ 0x21 → fieldOf (l.getD 0 0) 7 0 ≠ 0x22 → faultAbort u k l = u)) ∧
    ∀ i k h refuse, s.net[i]? = some (.reply k h refuse) → (s.net.take i).any (replyFrom k (fieldOf h 15 0)) = false →
      partOfStack s (stackOf (fieldOf h 15 13)) = partOfCore s k → fieldOf h 15 0 % 8 = 0 ∨ fieldOf h 15 0 % 8 = 4 →
      let t : ThreadRef := { core := coreAt (fieldOf h 15 0), slot := fieldOf h 23 16 }
      ∀ va, (getThread s t).seq.toNat = fieldOf h 47 32 → (getThread s t).slotState = .live → (getThread s t).wait = .fault va →
        ∃ u, exec (.faultReply i) s = .next u ∧ u.net = s.net.eraseIdx i ∧
          (getThread u t).wait = (if refuse then .refused va else .none)

/-- R227, R228, R231 to R235, R240, R244 to R246: the sector cache's controller serves the writes of a sector, and a record may turn
out unreadable where its sector is not disabled; a traverse copies its lowest line in its turn,
ends with DONE or ABORTED and frees its slot; stream heat goes to its engine in a cycle of reports; a layer or a die that is taken offline drains, and is
gone once it is empty. That the waiting writes of a sector are served together, and which cycles those of reports are, is
log entry 33; that an error at the destination (c = 1) starts the abort of a finishing slot with cause DSTERR is log entry 11; the space in use and the capacity that a removal asks about, and the steps it takes, are log entry 16. -/
def Obligations.TierEvents : Prop :=
  ∀ s : State,
    (∀ pa p, lpddrPart s pa = some p →
      ((s.sector.pending.any fun x => x.1 == p && x.2 / 64 == pa / 64) = true →
        exec (.sectorCacheAccess pa true false) s =
          .next ((s.sector.pending.filter (sameSector s p pa)).foldl (fun s x => sectorAccess s x.1 x.2 true)
            { s with sector := { s.sector with pending := s.sector.pending.filter fun x => !sameSector s p pa x } })) ∧
        ∀ w, s.scsize ≠ 0 →
          (sectorDisabled s (sectorPos s p pa).sector = true → exec (.sectorCacheAccess pa w true) s = .next s) ∧
          (sectorDisabled s (sectorPos s p pa).sector = false → ∃ t, exec (.sectorCacheAccess pa w true) s = .next t ∧
            (sectorPos s p pa).sector / 64 + (sectorPos s p pa).lineNo ∈ t.sector.badRecords)) ∧
    (∀ e n j u l,
      let x := getTSlot s e n
      (copyingInTurn (getEngine s e)).head? = some n → (getEngine s e).lineAt ≠ some s.cycle → nextLine x = some j →
      lineRead s (whoSlot e x) (x.src + 64 * j) 64 = (u, some l) → populated u x.part (x.dst + 64 * j) = true →
      ∃ t, exec (.traverseLineCopy e n) s = .next t ∧ (getTSlot t e n).copied = x.copied + 2 ^ j ∧
        (nextLine { x with copied := x.copied + 2 ^ j } = none → (getTSlot t e n).state = .finishing) ∧ (getEngine t e).turn = (n + 1) % 16) ∧
    (∀ e n u, (getTSlot s e n).state = .finishing →
      let x := getTSlot s e n
      swapLeaves (landedLeaf x) (whoSlot e x) x.leaf 0 s = (u, true) →
      (getTSlot (moveRings (passAll (slotToken x) u).1 x) e n).state = .finishing →
      ∃ t l k w rest, exec (.traverseFinish e n) s = .next t ∧ (getTSlot t e n).state = .free ∧ t.net = l ++ [.mail x.part k (w :: rest)] ∧
        w.toNat % 256 = 0x10) ∧
    (∀ e n c, (getTSlot s e n).state = .aborting ∨
        (((getTSlot s e n).state = .copying ∨ (getTSlot s e n).state = .finishing) ∧ c = 1) →
      ∃ t l k w rest, exec (.traverseAbort e n c) s = .next t ∧ (getTSlot t e n).state = .free ∧
        t.net = l ++ [.mail (getTSlot s e n).part k (w :: rest)] ∧ w.toNat % 256 = 0x11) ∧
    (s.cycle % 4096 ≠ 0 → ∀ k c, exec (.heatReport k c) s = .next s) ∧
    (∀ k c, s.cycle % 4096 = 0 → k < 8192 → (getPart s (partOfCore s k)).heatMode = 0 → ¬ ((getChan s k c).deliv = 0 ∧ (getChan s k c).starve = 0) →
      ∃ t, exec (.heatReport k c) s = .next t ∧ (getChan t k c).deliv = 0 ∧ (getChan t k c).starve = 0) ∧
    (∀ p v h l tiers,
      let u := if fieldOf v 15 12 = 1 then offreqWrite s p v else s
      (getPart u p).offReq = some (1, h, l, tiers) → u.draining.contains (h, l) = false →
      (freeCapacity u p tiers (some (h, l)) < usedIn u p (layerBase h l) (2 ^ 32) →
        ∃ t, exec (.offreqLayer p v) s = .next t ∧ (getPart t p).offStatus = 3 ∧ (getPart t p).offReq = none) ∧
        (¬ freeCapacity u p tiers (some (h, l)) < usedIn u p (layerBase h l) (2 ^ 32) →
          ∃ t, exec (.offreqLayer p v) s = .next t ∧ (h, l) ∈ t.draining)) ∧
    (∀ p v d z tiers,
      let u := if (getPart s p).exists_ && fieldOf v 15 12 != 1 then offreqWrite s p v else s
      (getPart u p).offReq = some (2, d, z, tiers) → u.freezing.contains d = false →
      (freeCapacity u p tiers none < dieSpace u p d →
        ∃ t, exec (.offreqDie p v) s = .next t ∧ (getPart t p).offStatus = 3 ∧ (getPart t p).offReq = none) ∧
        (¬ freeCapacity u p tiers none < dieSpace u p d → ∃ t, exec (.offreqDie p v) s = .next t ∧ d ∈ t.freezing)) ∧
    (∀ p h l z, (getPart s p).offReq = some (1, h, l, z) → s.draining.contains (h, l) = true → usedIn s p (layerBase h l) (2 ^ 32) = 0 →
      (∀ e ∈ s.engines, ∀ x ∈ e.2.slots, x.2.state = .free) →
      ∃ t, exec (.layerRemoved p) s = .next t ∧ layerPresent t h l = false ∧ (getPart t p).offStatus = 1 ∧ (getPart t p).offReq = none ∧
        (h, l) ∉ t.draining) ∧
    ∀ p d a b, (getPart s p).offReq = some (2, d, a, b) → s.freezing.contains d = true → regionsOnDie s p d = [] →
      ∃ t, exec (.dieOfflineDone p) s = .next t ∧ d ∈ t.offlineDies ∧ d ∉ t.freezing ∧ (getPart t p).offStatus = 1 ∧
        (getPart t p).offReq = none ∧ (d < 32 → (getPart t p).ready.getLsbD (32 + d) = false)

/-- R52, R64, R69, R253, R256, R259 to R263, R265, R272, R274, R275, R287, R294, R297, R335: the oldest matrix command of a pair's stream
takes its effect and leaves: a product tile gets the sum of each K-group rounded once, MRD's register the converted quotients, and the
events of all its steps join the matrix status of its core and no FPCTL; one that meets an uncorrectable error writes nothing and sets ERR.
The first sum-product command on the way is accepted, and the oldest accepted one takes its effect where a tree is free for it, or else
waits; an episode's release clears PEND of every participant.

These steps and their moments are log entries 5 and 19, the sign of a zero sum is log entry 35. The model's choices here: an accumulator
element that MRD reads as FP32 over a divisor of 1.0 is returned as it is, whatever sat (log entry 21), and NV for a signalling NaN of the
accumulator (log entry 38). -/
def Obligations.EngineEvents : Prop :=
  ∀ s : State,
    (∀ pk c rest, (getPair s pk).stream = c :: rest → arrayAdvances s pk = true →
      exec (.matrixCommandComplete pk) s = .next (admitSaved (modPair (runMatrix s pk c) pk fun p => { p with stream := rest }) pk) ∧
        ∀ t, exec (.matrixCommandComplete pk) s = .next t →
          let p := getPair s pk
          let old (i : Nat) : Nat := (amGet p.acc i 0).toNat
          let new (i : Nat) : Nat := (amGet (getPair t pk).acc i 0).toNat
          let waiter : ThreadRef := { core := c.core, slot := c.slot }
          let one : FVal := .fin false 1 0
          let merged (e : FpFlags) : Prop :=
            (getCore t c.core).matStatus = (getCore s c.core).matStatus ||| BitVec.ofNat 64 (flagsToNat e)
          let group (kg : Nat) (f : Nat → Nat → FpFlags) : List FpFlags :=
            (List.range 2048).flatMap fun i => (List.range (kg + 1)).map fun g => f i g
          (amFind p.saved p.holder = none → (getPair t pk).stream = rest) ∧
          (∀ u, (getThread t u).fpctl = (getThread s u).fpctl) ∧ (∀ n, n ≠ c.core → (getCore t n).matStatus = (getCore s n).matStatus) ∧
          (scaleFails p c.kind = true ∨ (∃ k, k < (operandsOf c.kind).length ∧ operandBytes s c k = none) →
            (getCore t c.core).matStatus = (getCore s c.core).matStatus ||| 0x800 ∧ (getPair t pk).acc = p.acc ∧ (getPair t pk).scale = p.scale ∧
              (getPair t pk).tables = p.tables) ∧
          ((∃ acc n, c.kind = .mzero acc n) ∨ (∃ acc i l, c.kind = .mwr acc i l) ∨ (∃ tb bits, c.kind = .cbld tb bits) ∨
            (∃ tb, c.kind = .cbrd tb) → merged noFlags) ∧
          (∀ acc kg af bf sa sb asl bsl a b ts la lb, c.kind = .mma acc kg af bf sa sb asl bsl a b ts →
            operandBytes s c 0 = some la → operandBytes s c 1 = some lb → scaleFails p c.kind = false →
            (∃ (y : Nat → Nat → Nat) (f : Nat → Nat → FpFlags), merged (flagsAll (group kg f)) ∧
              ∀ i, i < 2048 → y i 0 = old (acc * 2048 + i) ∧ new (acc * 2048 + i) = y i (kg + 1) ∧
                ∀ g, g ≤ kg → GroupRule False (y i g)
                  ((List.range 32).map fun j => factorsA p af sa asl ts la g (i / 32) j ++ factorsB p bf sb bsl lb g (i % 32) j)
                  (y i (g + 1), f i g)) ∧
            ∀ i, i / 2048 ≠ acc → new i = old i) ∧
          (∀ acc src kg af bf sa sb asl bsl b ts lb, c.kind = .mmac acc src kg af bf sa sb asl bsl b ts →
            operandBytes s c 0 = some lb → scaleFails p c.kind = false →
            (∃ (q : Nat → Nat → Nat) (h : Nat → Nat → FpFlags) (y : Nat → Nat → Nat) (f : Nat → Nat → FpFlags),
              merged (flagsOr (flagsAll (group kg f)) (flagsAll (group kg fun i g => h g i))) ∧
              ∀ i, i < 2048 → y i 0 = old (acc * 2048 + i) ∧ new (acc * 2048 + i) = y i (kg + 1) ∧
                ∀ g, g ≤ kg →
                  let row := 32 * (i / 32)
                  let scales : List FVal := [if sa = true then scaleAt p (asl * 8192 + 128 * (i / 32) + (src + g)) else one, tensorScale ts]
                  (∀ j, j < 32 → DownRule (floatOf (mfmtTag af)) .rne true
                    (fdecode .fp32 (old ((src + g) * 2048 + row + j))) scales (q g (row + j), h g (row + j))) ∧
                  GroupRule (∃ j, j < 32 ∧ (h g (row + j)).nv = true) (y i g) ((List.range 32).map fun j =>
                    (matElem p af (q g (row + j)) :: scales) ++ factorsB p bf sb bsl lb g (i % 32) j) (y i (g + 1), f i g)) ∧
            ∀ i, i / 2048 ≠ acc → new i = old i) ∧
          (∀ acc row half tag sat sc asl rm ts m, c.kind = .mrd acc row half tag sat sc asl rm ts → rmodeOf rm = some m → 10 ≤ tag → tag ≤ 17 →
            scaleFails p c.kind = false → (getThread s waiter).wait = .matrix c.num →
            let tg : Tag := BitVec.ofNat 5 tag
            ∃ (v : VReg) (r : Nat → Nat × FpFlags), (getThread t waiter).wait = .matrixDone (some v) ∧ v.tag = tg ∧
              merged (flagsAll ((List.range (tagLanes tg)).map fun i => (r i).2)) ∧ ∀ i, i < tagLanes tg →
              let e := 32 * row + 16 * half + i
              let x := fdecode .fp32 (old (acc * 2048 + e))
              let scales : List FVal := [if sc = true then scaleAt p (asl * 8192 + 128 * (e / 32) + acc) else one, tensorScale ts]
              let own : Prop := tag = 10 ∧ (∀ y ∈ scales, isFinite y = true) ∧ factorsQ scales = 1
              lane (tagLane tg) v.bits.toNat i = (r i).1 % 2 ^ tagLane tg ∧
                (own → r i = (if isNaN x = true then ffNaN .fp32 else old (acc * 2048 + e), { nv := isSNaN x })) ∧
                (¬ own → DownRule (floatOf tg) m sat x scales (r i))) ∧
          (∀ tb, c.kind = .cbrd tb → (getThread s waiter).wait = .matrix c.num →
            ∃ v, (getThread t waiter).wait = .matrixDone (some v) ∧ v.tag = 0x0B ∧
              ∀ i, i < 16 → lane 16 v.bits.toNat i = (amGet p.tables (tb * 16 + i) 0).toNat) ∧
          (∀ tb bits i, c.kind = .cbld tb bits → i < 16 → amGet (getPair t pk).tables (tb * 16 + i) 0 = BitVec.ofNat 16 (lane 16 bits i)) ∧
          (∀ acc n i, c.kind = .mzero acc n → acc ≤ i / 2048 → i / 2048 ≤ acc + n → amGet (getPair t pk).acc i 0 = 0) ∧
          (∀ acc first l i, c.kind = .mwr acc first l → i < l.length →
            amGet (getPair t pk).acc (acc * 2048 + first + i) 0 = BitVec.ofNat 32 (l.getD i 0)) ∧
          ∀ src soff n l i, c.kind = .mscl src soff n → operandBytes s c 0 = some l → i < l.length →
            memGet (getPair t pk).scale.cells (soff * 64 + i) = l.getD i 0) ∧
    (∀ pk, arrayAdvances s pk = false → exec (.matrixCommandComplete pk) s = .next s) ∧
    (∀ q c rest, (getQuad s q).path = c :: rest → (getQuad s q).queue.length < 32 → c.at_ + 2 ≤ (getQuad s q).ticks →
      quadRuns s q = true →
      let t : ThreadRef := { core := c.core, slot := c.slot }
      ∃ u, exec (.spCommandAccept q) s = .next u ∧ (getQuad u q).path = rest ∧ (getQuad u q).queue = (getQuad s q).queue ++ [c] ∧
        ((getThread s t).wait = .spAccept c.num → (getThread u t).wait = spAccepted c)) ∧
    (∀ q c rest, (getQuad s q).queue = c :: rest → quadRuns s q = true →
      let free : Prop := spTree c = true → spStarted c = true ∨ spTreesTaken s q [] (c :: rest) c.num < 8
      let u := modQuad (spRun s q (getQuad s q).mode c) q fun x => { x with queue := rest }
      (free → exec (.spCommandComplete q) s = .next u ∧
        (∀ m, c.kind = .mode m → (getQuad u q).mode = m) ∧
        (c.kind = .wait →
          let t : ThreadRef := { core := c.core, slot := c.slot }
          (getThread s t).wait = .spwait c.num → (getThread u t).wait = .spDone (getCore s c.core).spStatus ∧ (getCore u c.core).spStatus = 0)) ∧
        (¬ free → ∀ t, exec (.spCommandComplete q) s = .next t → c ∈ (getQuad t q).queue)) ∧
    (∀ rk q tree g e, (getQuad s q).detected.find? (fun e => e.group == g) = some e →
      ∃ t, exec (.episodeRelease rk q 1 tree g) s = .next t ∧
        ∀ p ∈ e.parties, p.saved = none → 1 ≤ p.level → p.level ≤ 4 → pendAt (getThread t p.thread) p.level = false) ∧
    ∀ rk q n tree g e r, n ≠ 1 → getRegion s rk = some r →
      r.detected.find? (fun e => e.tree == some tree && e.group == g) = some e →
      ∃ t, exec (.episodeRelease rk q n tree g) s = .next t ∧
        ∀ p ∈ e.parties, p.saved = none → 1 ≤ p.level → p.level ≤ 4 → pendAt (getThread t p.thread) p.level = false

/-- R242, R301 to R303, R306, R308 to R310, R326, R327: the summit remembers its sweep, and the second of two that agree ends the
launch; the queue registers take their writes; a head launch becomes ready, is staged, and is eligible at the latest at its staging
deadline; placement turns, reservations, forced halts and saves do their work. That these are steps of their own which the agenda
gives, that data which cannot be read refuses the launch, and that one LAUNCH_READY stages one page, is log entry 17. -/
def Obligations.CommandEvents : Prop :=
  ∀ s : State,
    (∀ rk r, getRegion s rk = some r →
      let z := setRegion s rk { r with lastSweep := some (sweepOf s r), nextSweep := s.cycle + 256 }
      let agree : Prop := (sweepOf s r).1 = true ∧ (sweepOf s r).2.1 = (sweepOf s r).2.2 ∧ r.lastSweep = some (sweepOf s r)
      (r.nextSweep ≠ s.cycle ∨ r.ending = true → exec (.summitSweep rk) s = .next s) ∧
        (r.nextSweep = s.cycle → r.ending = false → ¬ agree → exec (.summitSweep rk) s = .next z) ∧
        (r.nextSweep = s.cycle → r.ending = false → agree → ∃ t, exec (.summitSweep rk) s = .next t ∧
          ∀ q, getRegion t rk = some q → q.ending = true ∧ q.preempt = none)) ∧
    (∀ p q, (getPart s p).exists_ = true →
      let x := getQueue s p q
      (∀ v : Word, ∃ t, exec (.qtailWrite p q v) s = .next t ∧
        (pendingEntries { x with tail := v.toNat % 2 ^ 16 } ≤ ringSize x → (getQueue t p q).tail = v.toNat % 2 ^ 16) ∧
          (ringSize x < pendingEntries { x with tail := v.toNat % 2 ^ 16 } →
            (getQueue t p q).tail = x.tail ∧ (getQueue t p q).ovf = true)) ∧
      (∀ v : Word, ∃ t, exec (.qctlWrite p q v) s = .next t ∧
        (queueLocked s p q = true → t = s) ∧
          (queueLocked s p q = false → queueBusy s p q = false → (getQueue t p q).qctl = v &&& 0xFFF03) ∧
          (queueLocked s p q = false → queueBusy s p q = true → ∀ i, i < 64 →
            (getQueue t p q).qctl.getLsbD i = if i = 8 then v.getLsbD 8 else x.qctl.getLsbD i)) ∧
      (∃ t, exec (.qstatSkip p q) s = .next t ∧
        (x.err = true → (getQueue t p q).head = (x.head + 1) % 2 ^ 16 ∧ (getQueue t p q).launch = none) ∧
          (x.err = false → (getQueue t p q).head = x.head)) ∧
      (∃ t, exec (.qstatErrClear p q) s = .next t ∧ (getQueue t p q).err = false ∧ (getQueue t p q).ovf = x.ovf) ∧
      ∃ t, exec (.qstatOvfClear p q) s = .next t ∧ (getQueue t p q).ovf = false ∧ (getQueue t p q).err = x.err) ∧
    (∀ p q, queueTakes s p q = true →
      let x := getQueue s p q
      let w := whoCommand s p (queueFunc x)
      (∀ u, rdLaunch w (headAddr x) s = (none, u) →
        ∃ t, exec (.launchReady p q) s = .next t ∧ (getQueue t p q).err = true ∧ (getQueue t p q).launch = none) ∧
      ∀ c g u v, rdLaunch w (headAddr x) s = (some (c, g), u) → x.launch = none → c.deps.foldl (depMet w) (u, true) = (v, true) →
        ∃ t h, exec (.launchReady p q) s = .next t ∧ (getQueue t p q).launch = some h ∧
          h.readyAt = u.cycle ∧ h.deadline = u.cycle + c.deadline * 1050 ∧
          (c.deadline = 0 → h.eligibleAt = some u.cycle) ∧
          (c.deadline ≠ 0 → stagedRanges c.working = [] → h.eligibleAt = some v.cycle) ∧
          (c.deadline ≠ 0 → (stagedPage (stagedRanges c.working) 0).isSome = true →
            h.eligibleAt = none ∧ (stagedFirst v p q = false → h.nextPage = 1))) ∧
    (∀ p q h, (getQueue s p q).launch = some h → h.eligibleAt = none → h.deadline ≤ s.cycle →
      (∃ t, exec (.stagingDeadline p q) s = .next t ∧ (getQueue t p q).launch = some { h with eligibleAt := some h.deadline }) ∧
        headEligible s.cycle h = some h.deadline) ∧
    (∀ p, (haltRequested (getPart s p) = true → exec (.placementTurn p) s = .next s) ∧
      (haltRequested (getPart s p) = false →
        exec (.placementTurn p) s = .next (placementLoop p (candidates s p).length (candidates s p) s))) ∧
    (∀ p q c rest u, (candidates s p).filter (fun c => c.queue == q && decide (c.eligibleAt + 2100000 ≤ s.cycle)) = c :: rest →
      reserver s p = none → reservationBase s p c = (u, none) → exec (.reservation p q) s = .next (reserveFirst p rest u)) ∧
    (∀ p q c rest u g b, (candidates s p).filter (fun c => c.queue == q && decide (c.eligibleAt + 2100000 ≤ s.cycle)) = c :: rest →
      reserver s p = none → reservationBase s p c = (u, some (g, b)) →
      ∃ t r, exec (.reservation p q) s = .next t ∧ (getPart t p).reservation = some r ∧ r.queue = q ∧ r.prow = b.prow ∧ r.pcol = b.pcol ∧
        r.layer = b.layer ∧ r.h = g.h ∧ r.w = g.w ∧ r.twin = g.twin) ∧
    (∀ p r c, reserver s p = some (r, c) → r.since + 1050000 ≤ s.cycle →
      exec (.reservationPreempt p) s = .next (s.regions.foldl (fun s e =>
        if e.2.part = p ∧ e.2.prio < c.prio ∧ ((regionTiles e.2).any fun k => regionHas (reservedArea r) k) then
          commandPreempt 7 s e.1
        else s) s)) ∧
    (∀ rk r t0 a, getRegion s rk = some r → r.preempt = some (t0, a) → r.forced = false → t0 + forceCycles ≤ s.cycle →
      (regionThreads s r).all (fun t => slotQuiet (getThread s t)) = false →
      exec (.forcedHalt rk) s = .next ((regionThreads s r).foldl stopForced (setRegion s rk { r with forced := true }))) ∧
    ∀ rk r t0 a, getRegion s rk = some r → r.preempt = some (t0, a) → saveReady s r = true → (ownArea s r).isSome = true →
      ∃ t l k w rest, exec (.regionSave rk) s = .next t ∧ getRegion t rk = none ∧ (amFind (getPart t r.part).saves r.inst).isSome = true ∧
        t.net = l ++ [.mail r.part k (w :: rest)] ∧ w.toNat % 256 = 0x23

/-- R337, R339 to R346: a budget period gives each core DUTY and LOW from its partition's grant and the sum of demands, sets and clears
SKIP by what the core drew, gives each quad its operating point, charges each account, and starts once in its cycle; a core that SKIP gates
advances in the enabled cycles of its rate alone; a sag stretches the clock for at least 16 cycles; a link that retrains delivers no word; a slack
window moves BINOFF by at most one bin. That a period and a window come once in their cycle is log entry 5; what the rails and the peers
report, and a link's retraining, are arguments (log entry 14); the exact share, the unit
in which it is whole, the charging of arrays, engines and accounts, and the period whose grant clears SKIP are log entry 26. -/
def Obligations.PowerEvents : Prop :=
  ∀ s : State,
    (∀ (demands drawn : List (Draw × Nat)) (charges : List (Activity × Nat)) (own : List (Upkeep × Nat)), s.cycle % 10500 = 0 → s.cycle ≠ s.periodStart →
      ∃ t, exec (.budgetPeriod demands drawn charges own) s = .next t ∧ t.periodStart = s.cycle ∧
        t.overhead = s.overhead + BitVec.ofNat 64 (chargedTo s none charges + (own.map (·.2)).sum) ∧
        (∀ p, p ∈ s.parts.map (·.1) → (getPart t p).energy = (getPart s p).energy + BitVec.ofNat 64 (chargedTo s (some p) charges)) ∧
        (∀ k ∈ s.cores.map (·.1), isService k = false →
          let request (n : Nat) : Nat :=
            if (getCore s n).slots.any fun x => decide (x.2.slotState ≠ .free) then 7 - (getPart s (partOfCore s n)).collBin else 0
          (∀ n ∈ quadMembers (quadKey k), request n ≤ (getQuad t (quadKey k)).opp) ∧
            ∃ n ∈ quadMembers (quadKey k), request n = (getQuad t (quadKey k)).opp) ∧
        exec (.budgetPeriod demands drawn charges own) t = .next t ∧
        ∀ p k, p ∈ s.parts.map (·.1) → k ∈ budgetCores s p (demands ++ drawn) →
          let total := ((budgetCores s p (demands ++ drawn)).map (chargedCore s demands)).sum
          let unit := commonUnit s
          let grant := (getPart s p).grant * 1000000 * unit
          let c := getCore s k
          let pk := chargedCore s drawn k
          let exceeds : Prop := c.low = true ∧ c.grantNum * unit < pk * c.grantDen
          let fits : Prop := chargedCore s demands k * c.grantDen ≤ c.grantNum * unit
          ((s.parts.map (·.1)).Nodup →
            (exceeds → (getCore t k).skip = true ∧ (getCore t k).skipRate = max 1 (16 * (c.grantNum * unit) / (c.grantDen * pk))) ∧
              (¬ exceeds → fits → (getCore t k).skip = false) ∧ (¬ exceeds → ¬ fits → (getCore t k).skip = c.skip)) ∧
          (total ≤ grant ∨ chargedCore s demands k = 0 → (getCore t k).fetchDuty = 16 ∧ (getCore t k).low = false) ∧
            (grant < total → 0 < chargedCore s demands k →
              (getCore t k).fetchDuty = max 1 (16 * grant / total) ∧ (getCore t k).low = true)) ∧
    (∀ reports k, (chargedCore s reports k : ℚ) / commonUnit s = (reports.map fun x => match x.1 with
      | .core c => if c = k then (x.2 : ℚ) else 0
      | .array pair side => if isService k = false ∧ pairKey k = pair ∧ sideOf k = side then (x.2 : ℚ) else 0
      | .engine quad =>
        if isService k = false ∧ quadKey k = quad then
          (x.2 : ℚ) * (getCore s k).spIssued / max 1 ((quadMembers quad).map fun n => (getCore s n).spIssued).sum
        else 0).sum) ∧
    (∀ k, coreAdvances s k = true ↔
      s.cycle * (coreOpp s k + 9) % 16 < coreOpp s k + 9 ∧
        ((getCore s k).skip = false ∨ enabledSince s (coreOpp s k) * (getCore s k).skipRate % 16 < (getCore s k).skipRate)) ∧
    (∀ die stretch, die < 8 → stretch ≤ 50 → ∃ u, s.cycle + 16 ≤ u ∧
      exec (.sagDetect die stretch) s = .next { s with stretch := stretch, stretchUntil := u }) ∧
    (∀ node port n, ∃ t, exec (.linkRetrain node port n) s = .next t ∧ t.crossings = s.crossings ∧
      (0 < n → ∀ e, (e = false ∨ (s.crossings.any fun c => c.dst == node && c.port == port) = true) →
        exec (.crossingWordArrival node port e) t = .next t)) ∧
    ∀ part tag peers,
      let p := getPart s part
      p.collEn = true → s.cycle % 1050000 = 0 → s.cycle ≠ p.windowAt →
      let f := p.yarnexHeld
      let thr := p.thrAt.any fun c => decide (s.cycle ≤ c + 1050000)
      let mine : SlackPeer := { en := true, held := f, thr := thr, bin := p.collBin }
      let exchange := (mine :: peers.filter fun x => x.en && tag == p.collTag).filter fun x => !x.thr && x.bin == 0
      ∃ t, exec (.slackWindow part tag peers) s = .next t ∧
        let b := (getPart t part).collBin
        (getPart t part).collThr = thr ∧ (exchange = [] → b = p.collBin) ∧
          ∀ r, (exchange.map (·.held)).min? = some r →
            (1050000 < 20 * ((f : Int) - r) → b = min 7 (p.collBin + 1)) ∧
              (20 * ((f : Int) - r) < -1050000 → 0 < p.collBin → b = p.collBin - 1) ∧
              (-1050000 ≤ 20 * ((f : Int) - r) → 20 * ((f : Int) - r) ≤ 1050000 → b = p.collBin)

/-- R6, R186, R201, R203, R235, R304, R317, R348 to R350, R354, R356 to R360: control-block registers take aligned doublewords and read as written;
functions and readiness bits change; a host write through BAR2 reaches the token array; resets and merges leave what their rules say. The
arguments of a module reset are log entry 2, its memory contents log entry 3, its grants log entry 26; which requests an interface accepts
is log entry 15, which Yarnex ports a partition owns log entry 13; what a merge waits for to be quiet log entry 27; that a NumVFs above 64 is ignored, and that functions above it are
unlocked, log entry 40. -/
def Obligations.PartitionEvents : Prop :=
  ∀ (s : State) (p : Nat), (getPart s p).exists_ = true →
    (∀ (off width : Nat) (v : Word),
      (∀ stream, (off % 8 = 0 → exec (.registerWrite ⟨p, 0, stream⟩ off 8 v) s = .next (ctlWrite s p off v)) ∧
        (width % 8 ≠ 0 ∨ off % 8 ≠ 0 → exec (.registerWrite ⟨p, 0, stream⟩ off width v) s = .next s) ∧
        ∀ vf, vf ≠ 0 →
          (vfEnabled s p vf = true → acceptsHost s p vf stream = true → off % 8 = 0 → off < 8192 → off % 32 ≠ 8 →
              fieldOf (getQueue s p (off / 32)).qctl 15 9 = vf →
              exec (.registerWrite ⟨p, vf, stream⟩ off 8 v) s = .next (ctlWrite s p (0x1000 + off) v)) ∧
            (vfEnabled s p vf = false ∨ acceptsHost s p vf stream = false ∨ off % 32 = 8 ∨ 8192 ≤ off ∨
                fieldOf (getQueue s p (off / 32)).qctl 15 9 ≠ vf → exec (.registerWrite ⟨p, vf, stream⟩ off width v) s = .next s)) ∧
        (ctlRead (ctlWrite s p 0 v) p 0 = v &&& 0x1F ∧ ctlRead (ctlWrite s p 0x500 v) p 0x500 = v &&& 0x000FFFFFFFFF8001) ∧
        ∀ f, f ≤ 64 →
          ctlRead (ctlWrite s p (0x100 + 8 * f) v) p (0x100 + 8 * f) =
              (if funcLocked (getPart s p) f = true then ctlRead s p (0x100 + 8 * f) else v &&& 0x000FFFFFFFFFF001) ∧
            ctlRead (ctlWrite s p (0x600 + 8 * f) v) p (0x600 + 8 * f) =
              (if funcLocked (getPart s p) f = true then ctlRead s p (0x600 + 8 * f) else v &&& 0x01FFFFFFFFFFFFFD)) ∧
    (∀ n, (64 < n → exec (.numvfsWrite p n) s = .next s) ∧
      (n ≤ 64 → ∃ t, exec (.numvfsWrite p n) s = .next t ∧ (getPart t p).nvf = n ∧ ∀ vf, n < vf → vfState t p vf = .unlocked)) ∧
    (∀ reg b on,
      (ownsFunction s p reg b = false → exec (.functionReadinessChange p reg b on) s = .next s) ∧
        (ownsFunction s p reg b = true → b < 64 → ∃ t, exec (.functionReadinessChange p reg b on) s = .next t ∧
          (∀ j, j < 64 → (readyReg (getPart t p) reg).getLsbD j = if j = b then on else (readyReg (getPart s p) reg).getLsbD j) ∧
          t.interrupts = s.interrupts ++
            if (readyReg (getPart s p) reg).getLsbD b = true ∧ on = false then [(p, 0, 2)] else [])) ∧
    (∀ (off : Nat) (l : List Byte),
      let base := (getPart s p).tokbase
      let pa := fieldOf base 51 15 * 2 ^ 15 + off
      (base.getLsbD 0 = false ∨ 32768 < off + l.length → exec (.hostPortWrite p off l) s = .next s) ∧
      (base.getLsbD 0 = true → off + l.length ≤ 32768 → l ≠ [] → pa / 64 = (pa + l.length - 1) / 64 → populated s p pa = true →
        ringFrozen s pa = false →
        ∃ t, exec (.hostPortWrite p off l) s = .next t ∧ (∀ i, i < l.length → memGet t.gmem.cells (pa + i) = l.getD i 0) ∧
          (gateLine s (2 * p) pa = [] → ∀ a, ¬ (pa ≤ a ∧ a < pa + l.length) → memGet t.gmem.cells a = memGet s.gmem.cells a))) ∧
    (∃ t, exec (.partitionReset p) s = .next t ∧ (∀ e, ownsStack (getPart s p) e = true → (getEngine t e).slots = []) ∧
      (getPart t p).dbgHalt = false ∧ (getPart t p).dbgTrace = false ∧ (getPart t p).dbgPerf = false ∧ dbgctlWord (getPart t p) = 0) ∧
    (∀ v : Word,
      let a := fieldOf v 3 0
      let q := firstOne 4 a
      let x := getPart s p
      let y := getPart s q
      let layoutOk : Prop := y.exists_ = true ∧ y.stackSet = a ∧ p < q ∧ lpAdjacent x y = true ∧ x.stackSet + a ∈ [3, 12, 15]
      let locked : Prop := ∃ z ∈ x.vfs ++ y.vfs, z.2 ≠ .unlocked
      let ends (n : Nat) : Prop := exec (.mergeRequest p v) s = .next (modPart s p fun t => { t with mergeStatus := n })
      (x.mergeStatus = 5 → exec (.mergeRequest p v) s = .next s) ∧
        (x.mergeStatus ≠ 5 →
          (¬ layoutOk → ends 3) ∧ (layoutOk → locked → ends 4) ∧
            (layoutOk → ¬ locked → ∃ t m, exec (.mergeRequest p v) s = .next t ∧ (getPart t p).mergeStatus = 5 ∧
              (getPart t p).merge = some m ∧ m.absorb = q ∧ m.deadline = s.cycle + fieldOf v 31 16 * 1050000 ∧
              ∀ n, (getQueue t p n).qctl.getLsbD 8 = false ∧ (getQueue t q n).qctl.getLsbD 8 = false))) ∧
    (∀ m, (getPart s p).merge = some m →
      let gone : Prop := m.waited = true ∨ (mergeQuiet s p m.absorb m = true ∧ s.cycle ≤ m.deadline)
      (¬ gone → exec (.mergeExecute p) s = .next s) ∧ (gone → exec (.mergeDeadline p) s = .next s) ∧
      (gone → p ≠ m.absorb →
        ∃ t, exec (.mergeExecute p) s = .next t ∧ (getPart t p).mergeStatus = 1 ∧ (getPart t p).merge = none ∧
          (getPart t m.absorb).exists_ = false ∧ (getPart t p).stackSet = (getPart s p).stackSet + (getPart s m.absorb).stackSet ∧
          (getPart t p).lpbase = min (getPart s p).lpbase (getPart s m.absorb).lpbase ∧
          (getPart t p).lpsize = (getPart s p).lpsize + (getPart s m.absorb).lpsize ∧ dbgstatWord (getPart t p) = 0 ∧
          (getPart t p).spdm.sessions = [] ∧ (p, 0, 2) ∈ t.interrupts ∧
          ((∀ c ∈ s.cores, ∀ x ∈ c.2.slots, x.2.stores = [] ∧ x.2.reds = []) →
            ∀ st a, st ∈ partStacks (getPart s m.absorb) → 0x100000000000 + st * 2 ^ 37 ≤ a → a < 0x100000000000 + (st + 1) * 2 ^ 37 →
            memGet t.gmem.cells a = 0)) ∧
        (¬ gone → m.deadline ≤ s.cycle →
          ∃ t, exec (.mergeDeadline p) s = .next t ∧ (getPart t p).mergeStatus = 2 ∧ (getPart t p).merge = none ∧
            ∀ x ∈ m.enabled, (getQueue t x.1 x.2).qctl.getLsbD 8 = true)) ∧
    ∀ (layout : List Nat) (sc : Nat) (lp cxl grants : List (Nat × Nat)),
      layout ∈ [[15], [3, 12], [1, 2, 4, 8], [3, 4, 8], [1, 2, 12]] → sc ≤ 4 → lp.length = layout.length → lpRangesOk lp = true →
      (let ports := layout.map fun m => amGet cxl (firstOne 4 m) 0
       ports.sum = ports.foldl (fun a b => a ||| b) 0 ∧ ∀ m ∈ ports, m < 16) →
      (layout.map fun m => amGet grants (firstOne 4 m) 0).sum ≤ min 4600 Config.grantBudget →
      ∃ t, exec (.moduleReset layout sc lp cxl grants) s = .next t ∧ t.cycle = 0 ∧ t.gmem = State.reset.gmem ∧ t.cores = [] ∧
        t.tiles = [] ∧ t.regions = [] ∧ t.scsize = sc ∧
        ∀ m ∈ layout, (getPart t (firstOne 4 m)).exists_ = true ∧ (getPart t (firstOne 4 m)).stackSet = m ∧
          ctlRead t (firstOne 4 m) 0x958 = 0 ∧ ctlRead t (firstOne 4 m) 0x988 = 0 ∧ ∀ n, (getQueue t (firstOne 4 m) n).qctl = 0

/-- R355 to R357: an SPDM request is answered where the ones before it allow it, and with ERROR elsewhere; FINISH establishes
the session that KEY_EXCHANGE began and sets the key of its IDE stream; interfaces change their states, and a lock freezes their
queues and binds a stream; an accepted policy opens its
classes, and a DBGCTL bit is set only while its class is open. Which requests must come before which, the IDE stream that KEY_EXCHANGE
names and FINISH keys, the stream that a lock binds, the states from which an interface's steps take effect, and the tenant's key are
the model's choices, all of log entry 15. -/
def Obligations.TrustEvents : Prop :=
  ∀ (s : State) (p : Nat), (getPart s p).exists_ = true →
    let x := (getPart s p).spdm
    let answers (i : Instr) (t : State) : Prop := exec i s = .next t ∧ t.responses.length = s.responses.length + 1
    let asks (i : Instr) (ready : Bool) (f : Spdm → Prop) : Prop :=
      (ready = true → ∃ t, answers i t ∧ f (getPart t p).spdm) ∧ (ready = false → exec i s = .next (respondError s p))
    let n := negotiated x
    (asks (.getVersion p) true (fun y => y.version = true ∧ y.capabilities = false ∧ y.p384 = none) ∧
      asks (.getCapabilities p) x.version (fun y => y.capabilities = true) ∧
      (∀ b, asks (.negotiateAlgorithms p b) x.capabilities (fun y => y.p384 = some b)) ∧
      asks (.getDigests p) n (fun y => y = x) ∧ asks (.getCertificate p) n (fun y => y = x) ∧
      (∀ k, asks (.challenge p k) n (fun y => y = x)) ∧ (∀ k, asks (.getMeasurements p k) n (fun y => y = x)) ∧
      (∀ k i, asks (.keyExchange p ⟨k, i⟩) n (fun y => y.pending = some x.nextSession ∧ y.sessions = x.sessions ∧ y.pendingKey = (i, k))) ∧
      ∀ k, asks (.finish p k) (x.pending == some k) (fun y => y.sessions = x.sessions ++ [k] ∧ y.pending = none)) ∧
    (∀ k, x.pending = some k → x.pendingKey.1 < 8 →
      ∃ t, exec (.finish p k) s = .next t ∧ (amFind (getPart t p).ideKeys x.pendingKey.1).isSome = true) ∧
    (∀ vf,
      let st := vfState s p vf
      let becomes (i : Instr) (z : VfState) : Prop := ∃ t, exec i s = .next t ∧ vfState t p vf = z
      (∀ stream, vfEnabled s p vf = true → st = .unlocked → ∃ t, exec (.lockInterface p ⟨vf, stream⟩) s = .next t ∧
          vfState t p vf = .locked ∧ amFind (getPart t p).bound vf = some stream ∧ ∀ q v, fieldOf (getQueue s p q).qctl 15 9 = vf → exec (.qctlWrite p q v) t = .next t) ∧
        (∀ stream, st ≠ .unlocked → exec (.lockInterface p ⟨vf, stream⟩) s = .next s) ∧
        (st = .locked → becomes (.startInterface p vf) .run) ∧ (st ≠ .locked → exec (.startInterface p vf) s = .next s) ∧
        becomes (.stopInterface p vf) .unlocked ∧
        (st = .locked ∨ st = .run → exec (.tdispLockBreach p vf) s =
          .next ((s.regions.filter fun e => e.2.part == p && e.2.func == vf).foldl (fun s e => abortLaunch s e.1)
            (modPart s p fun t => { t with vfs := amInsert t.vfs vf .error }))) ∧
        (st = .unlocked ∨ st = .error → exec (.tdispLockBreach p vf) s = .next s)) ∧
    (∀ signer m classes,
      (signer = Config.tenantKey p ∧ m = measurement s p 2 → ∃ t, exec (.debugPolicyAccept p signer m classes) s = .next t ∧
        (dbgstatWord (getPart t p)).toNat = classes % 8 ∧ (getPart t p).spdm.sessions = [] ∧ (getPart t p).spdm.pending = none) ∧
        (¬ (signer = Config.tenantKey p ∧ m = measurement s p 2) → exec (.debugPolicyAccept p signer m classes) s = .next s)) ∧
    ∀ on, ∀ q ∈ [(Instr.dbgHaltreq p on, (getPart s p).dbgHalt, 2), (Instr.dbgTraceen p on, (getPart s p).dbgTrace, 1),
        (Instr.dbgPerfen p on, (getPart s p).dbgPerf, 0)],
      ∃ t, exec q.1 s = .next t ∧ ∀ j, j < 64 →
        (dbgctlWord (getPart t p)).getLsbD j = if j = q.2.2 then (on && q.2.1) else (dbgctlWord (getPart s p)).getLsbD j

/-! ### The machine as a whole -/

/-- R18 to R24: every well-formed instruction that has words decodes from them, whatever its operands: from its one word, or from
its two where the first word says so, and the bytes that follow it are left over. -/
def Obligations.DecodeEncode : Prop :=
  ∀ i : Instr, wellFormed i = true →
    (∀ w, encode i = [w] → isLong w = false ∧ decodeWords w 0 = .ok i) ∧
      (∀ w v, encode i = [w, v] → isLong w = true ∧ decodeWords w v = .ok i) ∧
      (encode i ≠ [] → ∀ rest, decode (encodeBytes i ++ rest) = .ok (i, rest))

/-- R24, R78, R80, R82, R86, R97 to R99, R103 to R105, R320, R321: words made from the fields of these rules decode to the
instructions they stand for, and words with a reserved
major, a reserved fn, a field that must be zero or an excluded operand are no instructions. -/
def Obligations.SpelledWords : Prop :=
  (∀ p ∈ [(0x04E53011, Instr.div 7 5 6), (0x20601234, .lui 3 0x1234), (0x28640205, .srai 3 4 5), (0x3C80FFFB, .bne 4 0 0xFFFB),
      (0x5BEC0001, .jalr 31 12), (0x54000040, .jal 64), (0xC0A00400, .mfs 5 0x040), (0xC0060011, .mts 6 0x001), (0xC0000208, .yield 32),
      (0xC1200055, .rope 9 5), (0xC0090014, .haltRetain 9), (0xC0000052, .trap 5), (0xC0000003, .eret)],
    decodeTableWord 32 p.1 = some p.2) ∧
  ∀ w ∈ [0x00000000, 0xFC000000, 0x0400001C, 0xC0000013, 0x20610000, 0x5BEC0801, 0x5C000001], decodeTableWord 32 w = none

/-- R6, R12, R24, R75, R110, R127: a turn of a thread that may issue runs the instruction that the words at its PC decode to, and
what exec answers is followed by the note of the issue and, where no turn is asked for, by the end of the cycle; an instruction that
has begun and waits runs again without a fetch; one that names a port direction which is not free issues in a later turn; a step of
the device and the end of a cycle run as such. The turns and their order are the model's choice (log entry 5), and so is the fetch of
the contents at the launch's begin through the present mapping (log entry 23). -/
def Obligations.StepRunsDecoded : Prop :=
  (∀ (s : State) (t : ThreadRef) (rest : List Turn) (late : Bool),
    let x := getThread s t
    let s0 : State := { s with agenda := rest, defer := late, cur := t }
    threadExists t = true → threadReady s t = true → contenders s0 t = [] → passPending s0 t (nextInClass s0 true t) = false →
    isRoped x = false → (∀ va, x.wait ≠ .refused va) →
    ∀ (i : Instr) (u : State), nextInstr s0 t = (u, .ok i) →
      let path := pathOf u t i
      pathOpen u t.core path = true → ∀ r0, exec i { u with cur := t } = .next r0 →
        let r := if begunWait (getThread r0 t).wait = true then modThread r0 t fun y => { y with begun := some i } else r0
        let dirs := touchedDirs i u r t
        let v := if dirsFree u t path dirs = true then noteDirs (afterIssue r t path) t.core dirs else u
        (s.agenda = .run t :: rest → late = false → step s = .next v) ∧
          (s.agenda = .issue t :: rest → late = true → step s = .next v) ∧
          (s.agenda = [] → rest = [] → late = false → s.cur = t → step s = .next (cycleEnd v))) ∧
  (∀ (s : State) (t : ThreadRef) (i : Instr),
    ((getThread s t).begun = none ∨ begunWait (getThread s t).wait = false → nextInstr s t = fetchInstr s t) ∧
      ((getThread s t).begun = some i → begunWait (getThread s t).wait = true → nextInstr s t = (s, .ok i))) ∧
  (∀ (s u v : State) (t : ThreadRef) (e : TlbEntry) (w : Word32) (i : Instr),
    let pc := (getThread s t).pc
    isGlobal pc = true → threadXlate s t pc.toNat false true false = (u, .ok e) →
    noticeError u (getThread u t).part (tlbPa e pc.toNat) e.t = v → codeWord v t (tlbPa e pc.toNat) e.t = some w →
    (isLong w = false → decodeWords w 0 = .ok i → fetchInstr s t = (v, .ok i)) ∧
      ∀ w2 z, isLong w = true → fetchWord v t (pc + 4) = (z, .ok w2) → decodeWords w w2 = .ok i → fetchInstr s t = (z, .ok i)) ∧
  ∀ (s : State) (rest : List Turn),
    (∀ i, s.agenda = .event i :: rest → encode i = [] → step s = exec i { s with agenda := rest, defer := false }) ∧
      (s.agenda = .tick :: rest → step s = .next (cycleEnd { s with agenda := rest })) ∧
      (cycleEnd s).cycle = s.cycle + 1

/-- No instruction and no step of the device is refused or faults, in any state; a step faults exactly where the turn it takes
names a thread slot or core that the part does not have (R3, R71), and is never refused. The turns, and the fault of one that names no
thread, are the model's own (log entry 5). -/
def Obligations.EveryStepAnswers : Prop :=
  (∀ (i : Instr) (s : State), ∃ t, exec i s = .next t) ∧
  ∀ s : State,
    let turn : Turn := s.agenda.headD (.run s.cur)
    (TurnExists turn → ∃ t, step s = .next t) ∧ (¬ TurnExists turn → step s = .fault .noSuchThread)

/-- R180, R186: global memory keeps its one canonical form, which is the model's own (log entry 3), through every step, from any
state that has it. -/
def Obligations.MemoryStaysCanonical : Prop :=
  ∀ s t : State, Memory.wf s.gmem.cells = true → step s = .next t → Memory.wf t.gmem.cells = true

/-- R6, R71, R94, R95, R203, R243, R246, R265, R281, R302, R304, R317, R344, R345, R347, R348, R357 to R359: module reset leaves every
slot free, CYCLE, the core registers, the control-block registers that have a reset value and the queues at it, every layer present.
Three clauses are the model's choice: that a STATUS, for which R87 gives MODE no value at reset outside a live thread, and the other
registers of a context are 0 (log entry 4), that memory lists nothing and has its canonical form (log entry 3), and partition 0 with the
layout Full (log entry 2). -/
def Obligations.ResetState : Prop :=
  Memory.wf State.reset.gmem.cells = true ∧ State.reset.cycle = 0 ∧
  (∀ t, (getThread State.reset t).slotState = .free ∧ (getThread State.reset t).status = 0 ∧ (getThread State.reset t).fpctl = 0 ∧
    (getThread State.reset t).mprog = 0 ∧ (getThread State.reset t).instret = 0 ∧ (getThread State.reset t).trappc = 0) ∧
  (∀ k, (getCore State.reset k).fetchDuty = 16 ∧ (getCore State.reset k).low = false ∧ (getCore State.reset k).skip = false ∧
    (getCore State.reset k).matStatus = 0 ∧ (getCore State.reset k).spStatus = 0) ∧
  (∀ h l, h < 8 → l < 16 → layerPresent State.reset h l = true) ∧
  (∀ off ∈ [0, 0x500, 0x900, 0x908, 0x920, 0x958, 0x960, 0x968, 0x970, 0x978, 0x988, 0x998], ctlRead State.reset 0 off = 0) ∧
  (∀ f, f ≤ 64 → ctlRead State.reset 0 (0x100 + 8 * f) = 0 ∧ ctlRead State.reset 0 (0x600 + 8 * f) = 0) ∧
  ∀ q off, q < 256 → off < 4 → ctlRead State.reset 0 (0x1000 + 32 * q + 8 * off) = 0
end

