-- ==== Sys2Proof/Laws/Maps.lean ====
section
/-! SUPPORT. The sparse map: reading after writing, and the rising order of its keys. -/
namespace Sys2Proof.Machine

@[simp] theorem amFind_amInsert_same {α : Type} (m : AMap α) (x : Nat) (a : α) : amFind (amInsert m x a) x = some a := by
  induction m with
  | nil => simp [amInsert, amFind]
  | cons p t ih =>
    obtain ⟨k, v⟩ := p
    simp only [amInsert]
    split
    · simp [amFind]
    · split
      · simp [amFind]
      · have : k ≠ x := by omega
        simp [amFind, this, ih]

@[simp] theorem amFind_amInsert_other {α : Type} (m : AMap α) {x y : Nat} (a : α) (h : y ≠ x) :
    amFind (amInsert m x a) y = amFind m y := by
  induction m with
  | nil => simp [amInsert, amFind, h.symm]
  | cons p t ih =>
    obtain ⟨k, v⟩ := p
    simp only [amInsert]
    split
    · simp [amFind, h.symm]
    · split
      · next hk => subst hk; simp [amFind, h.symm]
      · simp [amFind, ih]

@[simp] theorem amFind_amErase_same {α : Type} (m : AMap α) (x : Nat) : amFind (amErase m x) x = none := by
  induction m with
  | nil => simp [amErase, amFind]
  | cons p t ih =>
    obtain ⟨k, v⟩ := p
    simp only [amErase]
    split
    · exact ih
    · next hk => simp [amFind, hk, ih]

@[simp] theorem amFind_amErase_other {α : Type} (m : AMap α) {x y : Nat} (h : y ≠ x) : amFind (amErase m x) y = amFind m y := by
  induction m with
  | nil => simp [amErase, amFind]
  | cons p t ih =>
    obtain ⟨k, v⟩ := p
    simp only [amErase]
    split
    · next hk => subst hk; simp [amFind, h.symm, ih]
    · simp [amFind, ih]

@[simp] theorem amGet_amInsert_same {α : Type} (m : AMap α) (x : Nat) (a d : α) : amGet (amInsert m x a) x d = a := by
  simp [amGet]

@[simp] theorem amGet_amInsert_other {α : Type} (m : AMap α) {x y : Nat} (a d : α) (h : y ≠ x) :
    amGet (amInsert m x a) y d = amGet m y d := by
  simp [amGet, h]

@[simp] theorem amGet_amPut_same {α : Type} [DecidableEq α] (d : α) (m : AMap α) (x : Nat) (a : α) :
    amGet (amPut d m x a) x d = a := by
  unfold amPut
  split
  · next h => simp [amGet, h]
  · simp

@[simp] theorem amGet_amPut_other {α : Type} [DecidableEq α] (d : α) (m : AMap α) {x y : Nat} (a e : α) (h : y ≠ x) :
    amGet (amPut d m x a) y e = amGet m y e := by
  unfold amPut
  split <;> simp [amGet, h]

@[simp] theorem amGet_nil {α : Type} (x : Nat) (d : α) : amGet [] x d = d := rfl

/-- A key that is not where another map is read. -/
theorem amGet_amInsert {α : Type} (m : AMap α) (x y : Nat) (a d : α) :
    amGet (amInsert m x a) y d = if y = x then a else amGet m y d := by
  split
  · next h => subst h; simp
  · next h => simp [h]

theorem amGet_amPut {α : Type} [DecidableEq α] (d : α) (m : AMap α) (x y : Nat) (a : α) :
    amGet (amPut d m x a) y d = if y = x then a else amGet m y d := by
  split
  · next h => subst h; simp
  · next h => simp [h]

/-! ### Keys in rising order -/

/-- The keys of a map rise strictly. -/
def Rising {α : Type} (m : AMap α) : Prop := m.Pairwise fun p q => p.1 < q.1

theorem rising_nil {α : Type} : Rising ([] : AMap α) := List.Pairwise.nil

theorem mem_amInsert {α : Type} {m : AMap α} {x : Nat} {a : α} {p : Nat × α} (h : p ∈ amInsert m x a) :
    p = (x, a) ∨ p ∈ m := by
  induction m with
  | nil => simpa [amInsert] using h
  | cons q t ih =>
    obtain ⟨k, v⟩ := q
    simp only [amInsert] at h
    split at h
    · simp at h; simp; tauto
    · split at h
      · simp at h; simp; tauto
      · simp only [List.mem_cons] at h ⊢
        rcases h with h | h
        · tauto
        · rcases ih h with h | h <;> tauto

theorem rising_amInsert {α : Type} {m : AMap α} (x : Nat) (a : α) (h : Rising m) : Rising (amInsert m x a) := by
  induction m with
  | nil => simp [amInsert, Rising]
  | cons q t ih =>
    obtain ⟨k, v⟩ := q
    obtain ⟨h1, h2⟩ := List.pairwise_cons.1 h
    simp only [amInsert]
    split
    · next hx =>
      refine List.pairwise_cons.2 ⟨fun p hp => ?_, h⟩
      rcases List.mem_cons.1 hp with rfl | hp
      · exact hx
      · exact hx.trans (h1 p hp)
    · split
      · next hk => subst hk; exact List.pairwise_cons.2 ⟨h1, h2⟩
      · refine List.pairwise_cons.2 ⟨fun p hp => ?_, ih h2⟩
        rcases mem_amInsert hp with rfl | hp
        · show k < x
          omega
        · exact h1 p hp

theorem amErase_eq_filter {α : Type} (m : AMap α) (x : Nat) : amErase m x = m.filter fun p => p.1 != x := by
  induction m with
  | nil => rfl
  | cons p t ih =>
    obtain ⟨k, v⟩ := p
    simp only [amErase]
    split
    · next h => simp [h, ih]
    · next h => simp [h, ih]

theorem rising_filter {α : Type} {m : AMap α} (f : Nat × α → Bool) (h : Rising m) : Rising (m.filter f) :=
  List.Pairwise.sublist List.filter_sublist h

theorem rising_amErase {α : Type} {m : AMap α} (x : Nat) (h : Rising m) : Rising (amErase m x) := by
  rw [amErase_eq_filter]
  exact rising_filter _ h

theorem rising_amPut {α : Type} [DecidableEq α] {m : AMap α} (d : α) (x : Nat) (a : α) (h : Rising m) :
    Rising (amPut d m x a) := by
  unfold amPut
  split
  · exact rising_amErase x h
  · exact rising_amInsert x a h

end Sys2Proof.Machine
end

