-- ==== Sys2Proof/Laws/Memory.lean ====
section
/-! SUPPORT. Byte memories: reading after writing, and that every operation keeps the canonical form. -/
namespace Sys2Proof.Machine

/-! ### Reading after writing -/

@[simp] theorem memGet_nil (a : Nat) : memGet [] a = emptyByte := rfl

@[simp] theorem memGet_memSet_same (m : Memory) (a : Nat) (b : Byte) : memGet (memSet m a b) a = b := by
  simp [memGet, memSet]

@[simp] theorem memGet_memSet_other (m : Memory) {a x : Nat} (b : Byte) (h : x ≠ a) : memGet (memSet m a b) x = memGet m x := by
  simp [memGet, memSet, h]

/-- A write leaves every byte outside its range. -/
theorem memGet_memWrite_outside (l : List Byte) (m : Memory) (a x : Nat) (h : x < a ∨ a + l.length ≤ x) :
    memGet (memWrite m a l) x = memGet m x := by
  induction l generalizing m a with
  | nil => rfl
  | cons b t ih =>
    simp only [List.length_cons] at h
    rw [memWrite, ih _ _ (by omega)]
    exact memGet_memSet_other m b (by omega)

/-- A byte in the range of a write is the one written there. -/
theorem memGet_memWrite_inside (l : List Byte) (m : Memory) (a x : Nat) (h : a ≤ x) (h2 : x < a + l.length) :
    memGet (memWrite m a l) x = l.getD (x - a) 0 := by
  induction l generalizing m a with
  | nil => simp at h2; omega
  | cons b t ih =>
    simp only [List.length_cons] at h2
    rw [memWrite]
    by_cases e : x = a
    · subst e
      rw [memGet_memWrite_outside _ _ _ _ (by omega)]
      simp
    · rw [ih _ _ (by omega) (by omega)]
      obtain ⟨d, rfl⟩ : ∃ d, x = a + 1 + d := ⟨x - (a + 1), by omega⟩
      have e1 : a + 1 + d - (a + 1) = d := by omega
      have e2 : a + 1 + d - a = d + 1 := by omega
      simp [e1, e2]

theorem memRead_length (m : Memory) (a n : Nat) : (memRead m a n).length = n := by simp [memRead]

/-- Reading what was written gives it back. -/
theorem memRead_memWrite (m : Memory) (a : Nat) (l : List Byte) : memRead (memWrite m a l) a l.length = l := by
  apply List.ext_getElem
  · simp [memRead]
  · intro i h1 h2
    simp only [memRead, List.getElem_map, List.getElem_range]
    rw [memGet_memWrite_inside _ _ _ _ (by omega) (by omega)]
    have : a + i - a = i := by omega
    simp [this, h2]

@[simp] theorem memStore_cells (g : Nat) (m : Mem) (a : Nat) (l : List Byte) : (memStore g m a l).cells = memWrite m.cells a l := rfl

@[simp] theorem memPoison_cells (m : Mem) (k : Nat) : (memPoison m k).cells = m.cells := by
  unfold memPoison
  split <;> rfl

/-! ### The canonical form -/

/-- The form said of all entries at once. -/
theorem memory_wf_iff (m : Memory) : Memory.wf m = true ↔ Rising m ∧ ∀ p ∈ m, p.2 ≠ emptyByte := by
  induction m with
  | nil => simp [Memory.wf, Rising]
  | cons p t ih =>
    obtain ⟨a, b⟩ := p
    cases t with
    | nil => simp [Memory.wf, Rising]
    | cons q t =>
      obtain ⟨a', b'⟩ := q
      simp only [Memory.wf, Bool.and_eq_true, ih, decide_eq_true_eq, bne_iff_ne, ne_eq]
      constructor
      · rintro ⟨⟨hb, hlt⟩, hr, hall⟩
        refine ⟨List.pairwise_cons.2 ⟨fun p hp => ?_, hr⟩, fun p hp => ?_⟩
        · rcases List.mem_cons.1 hp with rfl | hp
          · exact hlt
          · exact hlt.trans ((List.pairwise_cons.1 hr).1 p hp)
        · rcases List.mem_cons.1 hp with rfl | hp
          · exact hb
          · exact hall p hp
      · rintro ⟨hr, hall⟩
        obtain ⟨h1, h2⟩ := List.pairwise_cons.1 hr
        exact ⟨⟨hall (a, b) (by simp), h1 (a', b') (by simp)⟩, h2, fun p hp => hall p (by simp [List.mem_cons.1 hp])⟩

theorem wf_nil : Memory.wf [] = true := rfl

theorem wf_filter {m : Memory} (f : Host.Cell → Bool) (h : Memory.wf m = true) : Memory.wf (m.filter f) = true := by
  rw [memory_wf_iff] at h ⊢
  exact ⟨rising_filter f h.1, fun p hp => h.2 p (List.mem_filter.1 hp).1⟩

theorem wf_memSet {m : Memory} (a : Nat) (b : Byte) (h : Memory.wf m = true) : Memory.wf (memSet m a b) = true := by
  rw [memory_wf_iff] at h ⊢
  refine ⟨rising_amPut emptyByte a b h.1, fun p hp => ?_⟩
  unfold memSet amPut at hp
  split at hp
  · rw [amErase_eq_filter] at hp
    exact h.2 p (List.mem_filter.1 hp).1
  · next hb =>
    rcases mem_amInsert hp with rfl | hp
    · exact hb
    · exact h.2 p hp

theorem wf_memWrite (l : List Byte) {m : Memory} (a : Nat) (h : Memory.wf m = true) : Memory.wf (memWrite m a l) = true := by
  induction l generalizing m a with
  | nil => exact h
  | cons b t ih => exact ih _ (wf_memSet a b h)

theorem wf_memErase {m : Memory} (a n : Nat) (h : Memory.wf m = true) : Memory.wf (memErase m a n) = true := wf_filter _ h

theorem wf_memWindow {m : Memory} (a n : Nat) (h : Memory.wf m = true) : Memory.wf (memWindow m a n) = true := wf_filter _ h

theorem wf_memStore {m : Mem} (g a : Nat) (l : List Byte) (h : Memory.wf m.cells = true) :
    Memory.wf (memStore g m a l).cells = true := wf_memWrite l a h

theorem wf_memPoison {m : Mem} (k : Nat) (h : Memory.wf m.cells = true) : Memory.wf (memPoison m k).cells = true := by
  rw [memPoison_cells]
  exact h

theorem wf_memCopyLine {dst : Mem} (src : Mem) (a b : Nat) (h : Memory.wf dst.cells = true) :
    Memory.wf (memCopyLine src dst a b).cells = true := by
  unfold memCopyLine
  split
  · exact wf_memPoison _ (wf_memStore 64 b _ h)
  · exact wf_memStore 64 b _ h

/-- Entries written one after the other keep the form. -/
theorem wf_foldl_memSet (l : List Host.Cell) {m : Memory} (h : Memory.wf m = true) :
    Memory.wf (l.foldl (fun m c => memSet m c.1 c.2) m) = true := by
  induction l generalizing m with
  | nil => exact h
  | cons c t ih => exact ih (wf_memSet c.1 c.2 h)

/-- Two canonical memories that read alike are one. -/
theorem memory_ext {m n : Memory} (hm : Memory.wf m = true) (hn : Memory.wf n = true) (h : ∀ a, memGet m a = memGet n a) :
    m = n := by
  have find_none : ∀ {k : Memory} {x : Nat}, (∀ p ∈ k, x < p.1) → amFind k x = none := by
    intro k x hk
    induction k with
    | nil => rfl
    | cons p t ih =>
      obtain ⟨y, v⟩ := p
      have := hk (y, v) (by simp)
      have hne : y ≠ x := by simp at this; omega
      simp [amFind, hne, ih fun q hq => hk q (by simp [hq])]
  induction m generalizing n with
  | nil =>
    cases n with
    | nil => rfl
    | cons p t =>
      obtain ⟨a, b⟩ := p
      have := h a
      simp [memGet, amGet, amFind] at this
      exact absurd this.symm (((memory_wf_iff _).1 hn).2 (a, b) (by simp))
  | cons p t ih =>
    obtain ⟨a, b⟩ := p
    have hm' := (memory_wf_iff _).1 hm
    obtain ⟨hm1, hm2⟩ := List.pairwise_cons.1 hm'.1
    cases n with
    | nil =>
      have := h a
      simp [memGet, amGet, amFind] at this
      exact absurd this (hm'.2 (a, b) (by simp))
    | cons q u =>
      obtain ⟨c, d⟩ := q
      have hn' := (memory_wf_iff _).1 hn
      obtain ⟨hn1, hn2⟩ := List.pairwise_cons.1 hn'.1
      have hac : a = c := by
        rcases Nat.lt_trichotomy a c with hlt | he | hlt
        · have := h a
          have hf : amFind ((c, d) :: u) a = none :=
            find_none fun p hp => by
              rcases List.mem_cons.1 hp with rfl | hp
              · exact hlt
              · exact hlt.trans (hn1 p hp)
          rw [memGet, memGet, amGet, amGet, hf] at this
          simp [amFind] at this
          exact absurd this (hm'.2 (a, b) (by simp))
        · exact he
        · have := h c
          have hf : amFind ((a, b) :: t) c = none :=
            find_none fun p hp => by
              rcases List.mem_cons.1 hp with rfl | hp
              · exact hlt
              · exact hlt.trans (hm1 p hp)
          rw [memGet, memGet, amGet, amGet, hf] at this
          simp [amFind] at this
          exact absurd this.symm (hn'.2 (c, d) (by simp))
      subst hac
      have hbd : b = d := by
        have := h a
        simpa [memGet, amGet, amFind] using this
      subst hbd
      congr 1
      refine ih ((memory_wf_iff _).2 ⟨hm2, fun p hp => hm'.2 p (by simp [hp])⟩)
        ((memory_wf_iff _).2 ⟨hn2, fun p hp => hn'.2 p (by simp [hp])⟩) fun x => ?_
      by_cases e : x = a
      · subst e
        rw [memGet, memGet, amGet, amGet, find_none hm1, find_none hn1]
      · have := h x
        simpa [memGet, amGet, amFind, Ne.symm e] using this

end Sys2Proof.Machine
end

