-- ==== Sys2Proof/Laws/State.lean ====
section
/-! SUPPORT. What each update of the state leaves in each field, and reading a part after writing a part. -/
namespace Sys2Proof.Machine

/-! ### Changes are writes of the changed part -/

@[simp] theorem modCore_eq (s : State) (k : Nat) (f : Core → Core) : modCore s k f = setCore s k (f (getCore s k)) := rfl
@[simp] theorem modTile_eq (s : State) (k : Nat) (f : MemTile → MemTile) : modTile s k f = setTile s k (f (getTile s k)) := rfl
@[simp] theorem modSwitch_eq (s : State) (k : Nat) (f : Switch → Switch) : modSwitch s k f = setSwitch s k (f (getSwitch s k)) := rfl
@[simp] theorem modPair_eq (s : State) (k : Nat) (f : Pair → Pair) : modPair s k f = setPair s k (f (getPair s k)) := rfl
@[simp] theorem modQuad_eq (s : State) (k : Nat) (f : Quad → Quad) : modQuad s k f = setQuad s k (f (getQuad s k)) := rfl
@[simp] theorem modPart_eq (s : State) (k : Nat) (f : Partition → Partition) : modPart s k f = setPart s k (f (getPart s k)) := rfl
@[simp] theorem modThread_eq (s : State) (k : ThreadRef) (f : Thread → Thread) : modThread s k f = setThread s k (f (getThread s k)) := rfl
@[simp] theorem modQueue_eq (s : State) (p q : Nat) (f : Queue → Queue) : modQueue s p q f = setQueue s p q (f (getQueue s p q)) := rfl

/-! ### setCore -/

@[simp] theorem setCore_cycle (s : State) (k : Nat) (c : Core) : (setCore s k c).cycle = s.cycle := rfl
@[simp] theorem setCore_periodStart (s : State) (k : Nat) (c : Core) : (setCore s k c).periodStart = s.periodStart := rfl
@[simp] theorem setCore_agenda (s : State) (k : Nat) (c : Core) : (setCore s k c).agenda = s.agenda := rfl
@[simp] theorem setCore_cur (s : State) (k : Nat) (c : Core) : (setCore s k c).cur = s.cur := rfl
@[simp] theorem setCore_defer (s : State) (k : Nat) (c : Core) : (setCore s k c).defer = s.defer := rfl
@[simp] theorem setCore_fresh (s : State) (k : Nat) (c : Core) : (setCore s k c).fresh = s.fresh := rfl
@[simp] theorem setCore_gmem (s : State) (k : Nat) (c : Core) : (setCore s k c).gmem = s.gmem := rfl
@[simp] theorem setCore_gmemPrev (s : State) (k : Nat) (c : Core) : (setCore s k c).gmemPrev = s.gmemPrev := rfl
@[simp] theorem setCore_gateSeq (s : State) (k : Nat) (c : Core) : (setCore s k c).gateSeq = s.gateSeq := rfl
@[simp] theorem setCore_gatePrev (s : State) (k : Nat) (c : Core) : (setCore s k c).gatePrev = s.gatePrev := rfl
@[simp] theorem setCore_tokens (s : State) (k : Nat) (c : Core) : (setCore s k c).tokens = s.tokens := rfl
@[simp] theorem setCore_nextToken (s : State) (k : Nat) (c : Core) : (setCore s k c).nextToken = s.nextToken := rfl
@[simp] theorem setCore_tiles (s : State) (k : Nat) (c : Core) : (setCore s k c).tiles = s.tiles := rfl
@[simp] theorem setCore_switches (s : State) (k : Nat) (c : Core) : (setCore s k c).switches = s.switches := rfl
@[simp] theorem setCore_crossings (s : State) (k : Nat) (c : Core) : (setCore s k c).crossings = s.crossings := rfl
@[simp] theorem setCore_pairs (s : State) (k : Nat) (c : Core) : (setCore s k c).pairs = s.pairs := rfl
@[simp] theorem setCore_quads (s : State) (k : Nat) (c : Core) : (setCore s k c).quads = s.quads := rfl
@[simp] theorem setCore_lltcs (s : State) (k : Nat) (c : Core) : (setCore s k c).lltcs = s.lltcs := rfl
@[simp] theorem setCore_slices (s : State) (k : Nat) (c : Core) : (setCore s k c).slices = s.slices := rfl
@[simp] theorem setCore_engines (s : State) (k : Nat) (c : Core) : (setCore s k c).engines = s.engines := rfl
@[simp] theorem setCore_sector (s : State) (k : Nat) (c : Core) : (setCore s k c).sector = s.sector := rfl
@[simp] theorem setCore_scsize (s : State) (k : Nat) (c : Core) : (setCore s k c).scsize = s.scsize := rfl
@[simp] theorem setCore_layers (s : State) (k : Nat) (c : Core) : (setCore s k c).layers = s.layers := rfl
@[simp] theorem setCore_draining (s : State) (k : Nat) (c : Core) : (setCore s k c).draining = s.draining := rfl
@[simp] theorem setCore_cxlBytes (s : State) (k : Nat) (c : Core) : (setCore s k c).cxlBytes = s.cxlBytes := rfl
@[simp] theorem setCore_offlineDies (s : State) (k : Nat) (c : Core) : (setCore s k c).offlineDies = s.offlineDies := rfl
@[simp] theorem setCore_freezing (s : State) (k : Nat) (c : Core) : (setCore s k c).freezing = s.freezing := rfl
@[simp] theorem setCore_parts (s : State) (k : Nat) (c : Core) : (setCore s k c).parts = s.parts := rfl
@[simp] theorem setCore_regions (s : State) (k : Nat) (c : Core) : (setCore s k c).regions = s.regions := rfl
@[simp] theorem setCore_netbnd (s : State) (k : Nat) (c : Core) : (setCore s k c).netbnd = s.netbnd := rfl
@[simp] theorem setCore_overhead (s : State) (k : Nat) (c : Core) : (setCore s k c).overhead = s.overhead := rfl
@[simp] theorem setCore_stretchUntil (s : State) (k : Nat) (c : Core) : (setCore s k c).stretchUntil = s.stretchUntil := rfl
@[simp] theorem setCore_stretch (s : State) (k : Nat) (c : Core) : (setCore s k c).stretch = s.stretch := rfl
@[simp] theorem setCore_ballast (s : State) (k : Nat) (c : Core) : (setCore s k c).ballast = s.ballast := rfl
@[simp] theorem setCore_powerUnit (s : State) (k : Nat) (c : Core) : (setCore s k c).powerUnit = s.powerUnit := rfl
@[simp] theorem setCore_grains (s : State) (k : Nat) (c : Core) : (setCore s k c).grains = s.grains := rfl
@[simp] theorem setCore_net (s : State) (k : Nat) (c : Core) : (setCore s k c).net = s.net := rfl
@[simp] theorem setCore_interrupts (s : State) (k : Nat) (c : Core) : (setCore s k c).interrupts = s.interrupts := rfl
@[simp] theorem setCore_responses (s : State) (k : Nat) (c : Core) : (setCore s k c).responses = s.responses := rfl
@[simp] theorem setCore_otairReports (s : State) (k : Nat) (c : Core) : (setCore s k c).otairReports = s.otairReports := rfl

/-! ### setTile -/

@[simp] theorem setTile_cycle (s : State) (k : Nat) (x : MemTile) : (setTile s k x).cycle = s.cycle := rfl
@[simp] theorem setTile_periodStart (s : State) (k : Nat) (x : MemTile) : (setTile s k x).periodStart = s.periodStart := rfl
@[simp] theorem setTile_agenda (s : State) (k : Nat) (x : MemTile) : (setTile s k x).agenda = s.agenda := rfl
@[simp] theorem setTile_cur (s : State) (k : Nat) (x : MemTile) : (setTile s k x).cur = s.cur := rfl
@[simp] theorem setTile_defer (s : State) (k : Nat) (x : MemTile) : (setTile s k x).defer = s.defer := rfl
@[simp] theorem setTile_fresh (s : State) (k : Nat) (x : MemTile) : (setTile s k x).fresh = s.fresh := rfl
@[simp] theorem setTile_gmem (s : State) (k : Nat) (x : MemTile) : (setTile s k x).gmem = s.gmem := rfl
@[simp] theorem setTile_gmemPrev (s : State) (k : Nat) (x : MemTile) : (setTile s k x).gmemPrev = s.gmemPrev := rfl
@[simp] theorem setTile_gateSeq (s : State) (k : Nat) (x : MemTile) : (setTile s k x).gateSeq = s.gateSeq := rfl
@[simp] theorem setTile_gatePrev (s : State) (k : Nat) (x : MemTile) : (setTile s k x).gatePrev = s.gatePrev := rfl
@[simp] theorem setTile_tokens (s : State) (k : Nat) (x : MemTile) : (setTile s k x).tokens = s.tokens := rfl
@[simp] theorem setTile_nextToken (s : State) (k : Nat) (x : MemTile) : (setTile s k x).nextToken = s.nextToken := rfl
@[simp] theorem setTile_cores (s : State) (k : Nat) (x : MemTile) : (setTile s k x).cores = s.cores := rfl
@[simp] theorem setTile_switches (s : State) (k : Nat) (x : MemTile) : (setTile s k x).switches = s.switches := rfl
@[simp] theorem setTile_crossings (s : State) (k : Nat) (x : MemTile) : (setTile s k x).crossings = s.crossings := rfl
@[simp] theorem setTile_pairs (s : State) (k : Nat) (x : MemTile) : (setTile s k x).pairs = s.pairs := rfl
@[simp] theorem setTile_quads (s : State) (k : Nat) (x : MemTile) : (setTile s k x).quads = s.quads := rfl
@[simp] theorem setTile_lltcs (s : State) (k : Nat) (x : MemTile) : (setTile s k x).lltcs = s.lltcs := rfl
@[simp] theorem setTile_slices (s : State) (k : Nat) (x : MemTile) : (setTile s k x).slices = s.slices := rfl
@[simp] theorem setTile_engines (s : State) (k : Nat) (x : MemTile) : (setTile s k x).engines = s.engines := rfl
@[simp] theorem setTile_sector (s : State) (k : Nat) (x : MemTile) : (setTile s k x).sector = s.sector := rfl
@[simp] theorem setTile_scsize (s : State) (k : Nat) (x : MemTile) : (setTile s k x).scsize = s.scsize := rfl
@[simp] theorem setTile_layers (s : State) (k : Nat) (x : MemTile) : (setTile s k x).layers = s.layers := rfl
@[simp] theorem setTile_draining (s : State) (k : Nat) (x : MemTile) : (setTile s k x).draining = s.draining := rfl
@[simp] theorem setTile_cxlBytes (s : State) (k : Nat) (x : MemTile) : (setTile s k x).cxlBytes = s.cxlBytes := rfl
@[simp] theorem setTile_offlineDies (s : State) (k : Nat) (x : MemTile) : (setTile s k x).offlineDies = s.offlineDies := rfl
@[simp] theorem setTile_freezing (s : State) (k : Nat) (x : MemTile) : (setTile s k x).freezing = s.freezing := rfl
@[simp] theorem setTile_parts (s : State) (k : Nat) (x : MemTile) : (setTile s k x).parts = s.parts := rfl
@[simp] theorem setTile_regions (s : State) (k : Nat) (x : MemTile) : (setTile s k x).regions = s.regions := rfl
@[simp] theorem setTile_netbnd (s : State) (k : Nat) (x : MemTile) : (setTile s k x).netbnd = s.netbnd := rfl
@[simp] theorem setTile_overhead (s : State) (k : Nat) (x : MemTile) : (setTile s k x).overhead = s.overhead := rfl
@[simp] theorem setTile_stretchUntil (s : State) (k : Nat) (x : MemTile) : (setTile s k x).stretchUntil = s.stretchUntil := rfl
@[simp] theorem setTile_stretch (s : State) (k : Nat) (x : MemTile) : (setTile s k x).stretch = s.stretch := rfl
@[simp] theorem setTile_ballast (s : State) (k : Nat) (x : MemTile) : (setTile s k x).ballast = s.ballast := rfl
@[simp] theorem setTile_powerUnit (s : State) (k : Nat) (x : MemTile) : (setTile s k x).powerUnit = s.powerUnit := rfl
@[simp] theorem setTile_grains (s : State) (k : Nat) (x : MemTile) : (setTile s k x).grains = s.grains := rfl
@[simp] theorem setTile_net (s : State) (k : Nat) (x : MemTile) : (setTile s k x).net = s.net := rfl
@[simp] theorem setTile_interrupts (s : State) (k : Nat) (x : MemTile) : (setTile s k x).interrupts = s.interrupts := rfl
@[simp] theorem setTile_responses (s : State) (k : Nat) (x : MemTile) : (setTile s k x).responses = s.responses := rfl
@[simp] theorem setTile_otairReports (s : State) (k : Nat) (x : MemTile) : (setTile s k x).otairReports = s.otairReports := rfl

/-! ### setSwitch -/

@[simp] theorem setSwitch_cycle (s : State) (k : Nat) (x : Switch) : (setSwitch s k x).cycle = s.cycle := rfl
@[simp] theorem setSwitch_periodStart (s : State) (k : Nat) (x : Switch) : (setSwitch s k x).periodStart = s.periodStart := rfl
@[simp] theorem setSwitch_agenda (s : State) (k : Nat) (x : Switch) : (setSwitch s k x).agenda = s.agenda := rfl
@[simp] theorem setSwitch_cur (s : State) (k : Nat) (x : Switch) : (setSwitch s k x).cur = s.cur := rfl
@[simp] theorem setSwitch_defer (s : State) (k : Nat) (x : Switch) : (setSwitch s k x).defer = s.defer := rfl
@[simp] theorem setSwitch_fresh (s : State) (k : Nat) (x : Switch) : (setSwitch s k x).fresh = s.fresh := rfl
@[simp] theorem setSwitch_gmem (s : State) (k : Nat) (x : Switch) : (setSwitch s k x).gmem = s.gmem := rfl
@[simp] theorem setSwitch_gmemPrev (s : State) (k : Nat) (x : Switch) : (setSwitch s k x).gmemPrev = s.gmemPrev := rfl
@[simp] theorem setSwitch_gateSeq (s : State) (k : Nat) (x : Switch) : (setSwitch s k x).gateSeq = s.gateSeq := rfl
@[simp] theorem setSwitch_gatePrev (s : State) (k : Nat) (x : Switch) : (setSwitch s k x).gatePrev = s.gatePrev := rfl
@[simp] theorem setSwitch_tokens (s : State) (k : Nat) (x : Switch) : (setSwitch s k x).tokens = s.tokens := rfl
@[simp] theorem setSwitch_nextToken (s : State) (k : Nat) (x : Switch) : (setSwitch s k x).nextToken = s.nextToken := rfl
@[simp] theorem setSwitch_cores (s : State) (k : Nat) (x : Switch) : (setSwitch s k x).cores = s.cores := rfl
@[simp] theorem setSwitch_tiles (s : State) (k : Nat) (x : Switch) : (setSwitch s k x).tiles = s.tiles := rfl
@[simp] theorem setSwitch_crossings (s : State) (k : Nat) (x : Switch) : (setSwitch s k x).crossings = s.crossings := rfl
@[simp] theorem setSwitch_pairs (s : State) (k : Nat) (x : Switch) : (setSwitch s k x).pairs = s.pairs := rfl
@[simp] theorem setSwitch_quads (s : State) (k : Nat) (x : Switch) : (setSwitch s k x).quads = s.quads := rfl
@[simp] theorem setSwitch_lltcs (s : State) (k : Nat) (x : Switch) : (setSwitch s k x).lltcs = s.lltcs := rfl
@[simp] theorem setSwitch_slices (s : State) (k : Nat) (x : Switch) : (setSwitch s k x).slices = s.slices := rfl
@[simp] theorem setSwitch_engines (s : State) (k : Nat) (x : Switch) : (setSwitch s k x).engines = s.engines := rfl
@[simp] theorem setSwitch_sector (s : State) (k : Nat) (x : Switch) : (setSwitch s k x).sector = s.sector := rfl
@[simp] theorem setSwitch_scsize (s : State) (k : Nat) (x : Switch) : (setSwitch s k x).scsize = s.scsize := rfl
@[simp] theorem setSwitch_layers (s : State) (k : Nat) (x : Switch) : (setSwitch s k x).layers = s.layers := rfl
@[simp] theorem setSwitch_draining (s : State) (k : Nat) (x : Switch) : (setSwitch s k x).draining = s.draining := rfl
@[simp] theorem setSwitch_cxlBytes (s : State) (k : Nat) (x : Switch) : (setSwitch s k x).cxlBytes = s.cxlBytes := rfl
@[simp] theorem setSwitch_offlineDies (s : State) (k : Nat) (x : Switch) : (setSwitch s k x).offlineDies = s.offlineDies := rfl
@[simp] theorem setSwitch_freezing (s : State) (k : Nat) (x : Switch) : (setSwitch s k x).freezing = s.freezing := rfl
@[simp] theorem setSwitch_parts (s : State) (k : Nat) (x : Switch) : (setSwitch s k x).parts = s.parts := rfl
@[simp] theorem setSwitch_regions (s : State) (k : Nat) (x : Switch) : (setSwitch s k x).regions = s.regions := rfl
@[simp] theorem setSwitch_netbnd (s : State) (k : Nat) (x : Switch) : (setSwitch s k x).netbnd = s.netbnd := rfl
@[simp] theorem setSwitch_overhead (s : State) (k : Nat) (x : Switch) : (setSwitch s k x).overhead = s.overhead := rfl
@[simp] theorem setSwitch_stretchUntil (s : State) (k : Nat) (x : Switch) : (setSwitch s k x).stretchUntil = s.stretchUntil := rfl
@[simp] theorem setSwitch_stretch (s : State) (k : Nat) (x : Switch) : (setSwitch s k x).stretch = s.stretch := rfl
@[simp] theorem setSwitch_ballast (s : State) (k : Nat) (x : Switch) : (setSwitch s k x).ballast = s.ballast := rfl
@[simp] theorem setSwitch_powerUnit (s : State) (k : Nat) (x : Switch) : (setSwitch s k x).powerUnit = s.powerUnit := rfl
@[simp] theorem setSwitch_grains (s : State) (k : Nat) (x : Switch) : (setSwitch s k x).grains = s.grains := rfl
@[simp] theorem setSwitch_net (s : State) (k : Nat) (x : Switch) : (setSwitch s k x).net = s.net := rfl
@[simp] theorem setSwitch_interrupts (s : State) (k : Nat) (x : Switch) : (setSwitch s k x).interrupts = s.interrupts := rfl
@[simp] theorem setSwitch_responses (s : State) (k : Nat) (x : Switch) : (setSwitch s k x).responses = s.responses := rfl
@[simp] theorem setSwitch_otairReports (s : State) (k : Nat) (x : Switch) : (setSwitch s k x).otairReports = s.otairReports := rfl

/-! ### setPair -/

@[simp] theorem setPair_cycle (s : State) (k : Nat) (x : Pair) : (setPair s k x).cycle = s.cycle := rfl
@[simp] theorem setPair_periodStart (s : State) (k : Nat) (x : Pair) : (setPair s k x).periodStart = s.periodStart := rfl
@[simp] theorem setPair_agenda (s : State) (k : Nat) (x : Pair) : (setPair s k x).agenda = s.agenda := rfl
@[simp] theorem setPair_cur (s : State) (k : Nat) (x : Pair) : (setPair s k x).cur = s.cur := rfl
@[simp] theorem setPair_defer (s : State) (k : Nat) (x : Pair) : (setPair s k x).defer = s.defer := rfl
@[simp] theorem setPair_fresh (s : State) (k : Nat) (x : Pair) : (setPair s k x).fresh = s.fresh := rfl
@[simp] theorem setPair_gmem (s : State) (k : Nat) (x : Pair) : (setPair s k x).gmem = s.gmem := rfl
@[simp] theorem setPair_gmemPrev (s : State) (k : Nat) (x : Pair) : (setPair s k x).gmemPrev = s.gmemPrev := rfl
@[simp] theorem setPair_gateSeq (s : State) (k : Nat) (x : Pair) : (setPair s k x).gateSeq = s.gateSeq := rfl
@[simp] theorem setPair_gatePrev (s : State) (k : Nat) (x : Pair) : (setPair s k x).gatePrev = s.gatePrev := rfl
@[simp] theorem setPair_tokens (s : State) (k : Nat) (x : Pair) : (setPair s k x).tokens = s.tokens := rfl
@[simp] theorem setPair_nextToken (s : State) (k : Nat) (x : Pair) : (setPair s k x).nextToken = s.nextToken := rfl
@[simp] theorem setPair_cores (s : State) (k : Nat) (x : Pair) : (setPair s k x).cores = s.cores := rfl
@[simp] theorem setPair_tiles (s : State) (k : Nat) (x : Pair) : (setPair s k x).tiles = s.tiles := rfl
@[simp] theorem setPair_switches (s : State) (k : Nat) (x : Pair) : (setPair s k x).switches = s.switches := rfl
@[simp] theorem setPair_crossings (s : State) (k : Nat) (x : Pair) : (setPair s k x).crossings = s.crossings := rfl
@[simp] theorem setPair_quads (s : State) (k : Nat) (x : Pair) : (setPair s k x).quads = s.quads := rfl
@[simp] theorem setPair_lltcs (s : State) (k : Nat) (x : Pair) : (setPair s k x).lltcs = s.lltcs := rfl
@[simp] theorem setPair_slices (s : State) (k : Nat) (x : Pair) : (setPair s k x).slices = s.slices := rfl
@[simp] theorem setPair_engines (s : State) (k : Nat) (x : Pair) : (setPair s k x).engines = s.engines := rfl
@[simp] theorem setPair_sector (s : State) (k : Nat) (x : Pair) : (setPair s k x).sector = s.sector := rfl
@[simp] theorem setPair_scsize (s : State) (k : Nat) (x : Pair) : (setPair s k x).scsize = s.scsize := rfl
@[simp] theorem setPair_layers (s : State) (k : Nat) (x : Pair) : (setPair s k x).layers = s.layers := rfl
@[simp] theorem setPair_draining (s : State) (k : Nat) (x : Pair) : (setPair s k x).draining = s.draining := rfl
@[simp] theorem setPair_cxlBytes (s : State) (k : Nat) (x : Pair) : (setPair s k x).cxlBytes = s.cxlBytes := rfl
@[simp] theorem setPair_offlineDies (s : State) (k : Nat) (x : Pair) : (setPair s k x).offlineDies = s.offlineDies := rfl
@[simp] theorem setPair_freezing (s : State) (k : Nat) (x : Pair) : (setPair s k x).freezing = s.freezing := rfl
@[simp] theorem setPair_parts (s : State) (k : Nat) (x : Pair) : (setPair s k x).parts = s.parts := rfl
@[simp] theorem setPair_regions (s : State) (k : Nat) (x : Pair) : (setPair s k x).regions = s.regions := rfl
@[simp] theorem setPair_netbnd (s : State) (k : Nat) (x : Pair) : (setPair s k x).netbnd = s.netbnd := rfl
@[simp] theorem setPair_overhead (s : State) (k : Nat) (x : Pair) : (setPair s k x).overhead = s.overhead := rfl
@[simp] theorem setPair_stretchUntil (s : State) (k : Nat) (x : Pair) : (setPair s k x).stretchUntil = s.stretchUntil := rfl
@[simp] theorem setPair_stretch (s : State) (k : Nat) (x : Pair) : (setPair s k x).stretch = s.stretch := rfl
@[simp] theorem setPair_ballast (s : State) (k : Nat) (x : Pair) : (setPair s k x).ballast = s.ballast := rfl
@[simp] theorem setPair_powerUnit (s : State) (k : Nat) (x : Pair) : (setPair s k x).powerUnit = s.powerUnit := rfl
@[simp] theorem setPair_grains (s : State) (k : Nat) (x : Pair) : (setPair s k x).grains = s.grains := rfl
@[simp] theorem setPair_net (s : State) (k : Nat) (x : Pair) : (setPair s k x).net = s.net := rfl
@[simp] theorem setPair_interrupts (s : State) (k : Nat) (x : Pair) : (setPair s k x).interrupts = s.interrupts := rfl
@[simp] theorem setPair_responses (s : State) (k : Nat) (x : Pair) : (setPair s k x).responses = s.responses := rfl
@[simp] theorem setPair_otairReports (s : State) (k : Nat) (x : Pair) : (setPair s k x).otairReports = s.otairReports := rfl

/-! ### setQuad -/

@[simp] theorem setQuad_cycle (s : State) (k : Nat) (x : Quad) : (setQuad s k x).cycle = s.cycle := rfl
@[simp] theorem setQuad_periodStart (s : State) (k : Nat) (x : Quad) : (setQuad s k x).periodStart = s.periodStart := rfl
@[simp] theorem setQuad_agenda (s : State) (k : Nat) (x : Quad) : (setQuad s k x).agenda = s.agenda := rfl
@[simp] theorem setQuad_cur (s : State) (k : Nat) (x : Quad) : (setQuad s k x).cur = s.cur := rfl
@[simp] theorem setQuad_defer (s : State) (k : Nat) (x : Quad) : (setQuad s k x).defer = s.defer := rfl
@[simp] theorem setQuad_fresh (s : State) (k : Nat) (x : Quad) : (setQuad s k x).fresh = s.fresh := rfl
@[simp] theorem setQuad_gmem (s : State) (k : Nat) (x : Quad) : (setQuad s k x).gmem = s.gmem := rfl
@[simp] theorem setQuad_gmemPrev (s : State) (k : Nat) (x : Quad) : (setQuad s k x).gmemPrev = s.gmemPrev := rfl
@[simp] theorem setQuad_gateSeq (s : State) (k : Nat) (x : Quad) : (setQuad s k x).gateSeq = s.gateSeq := rfl
@[simp] theorem setQuad_gatePrev (s : State) (k : Nat) (x : Quad) : (setQuad s k x).gatePrev = s.gatePrev := rfl
@[simp] theorem setQuad_tokens (s : State) (k : Nat) (x : Quad) : (setQuad s k x).tokens = s.tokens := rfl
@[simp] theorem setQuad_nextToken (s : State) (k : Nat) (x : Quad) : (setQuad s k x).nextToken = s.nextToken := rfl
@[simp] theorem setQuad_cores (s : State) (k : Nat) (x : Quad) : (setQuad s k x).cores = s.cores := rfl
@[simp] theorem setQuad_tiles (s : State) (k : Nat) (x : Quad) : (setQuad s k x).tiles = s.tiles := rfl
@[simp] theorem setQuad_switches (s : State) (k : Nat) (x : Quad) : (setQuad s k x).switches = s.switches := rfl
@[simp] theorem setQuad_crossings (s : State) (k : Nat) (x : Quad) : (setQuad s k x).crossings = s.crossings := rfl
@[simp] theorem setQuad_pairs (s : State) (k : Nat) (x : Quad) : (setQuad s k x).pairs = s.pairs := rfl
@[simp] theorem setQuad_lltcs (s : State) (k : Nat) (x : Quad) : (setQuad s k x).lltcs = s.lltcs := rfl
@[simp] theorem setQuad_slices (s : State) (k : Nat) (x : Quad) : (setQuad s k x).slices = s.slices := rfl
@[simp] theorem setQuad_engines (s : State) (k : Nat) (x : Quad) : (setQuad s k x).engines = s.engines := rfl
@[simp] theorem setQuad_sector (s : State) (k : Nat) (x : Quad) : (setQuad s k x).sector = s.sector := rfl
@[simp] theorem setQuad_scsize (s : State) (k : Nat) (x : Quad) : (setQuad s k x).scsize = s.scsize := rfl
@[simp] theorem setQuad_layers (s : State) (k : Nat) (x : Quad) : (setQuad s k x).layers = s.layers := rfl
@[simp] theorem setQuad_draining (s : State) (k : Nat) (x : Quad) : (setQuad s k x).draining = s.draining := rfl
@[simp] theorem setQuad_cxlBytes (s : State) (k : Nat) (x : Quad) : (setQuad s k x).cxlBytes = s.cxlBytes := rfl
@[simp] theorem setQuad_offlineDies (s : State) (k : Nat) (x : Quad) : (setQuad s k x).offlineDies = s.offlineDies := rfl
@[simp] theorem setQuad_freezing (s : State) (k : Nat) (x : Quad) : (setQuad s k x).freezing = s.freezing := rfl
@[simp] theorem setQuad_parts (s : State) (k : Nat) (x : Quad) : (setQuad s k x).parts = s.parts := rfl
@[simp] theorem setQuad_regions (s : State) (k : Nat) (x : Quad) : (setQuad s k x).regions = s.regions := rfl
@[simp] theorem setQuad_netbnd (s : State) (k : Nat) (x : Quad) : (setQuad s k x).netbnd = s.netbnd := rfl
@[simp] theorem setQuad_overhead (s : State) (k : Nat) (x : Quad) : (setQuad s k x).overhead = s.overhead := rfl
@[simp] theorem setQuad_stretchUntil (s : State) (k : Nat) (x : Quad) : (setQuad s k x).stretchUntil = s.stretchUntil := rfl
@[simp] theorem setQuad_stretch (s : State) (k : Nat) (x : Quad) : (setQuad s k x).stretch = s.stretch := rfl
@[simp] theorem setQuad_ballast (s : State) (k : Nat) (x : Quad) : (setQuad s k x).ballast = s.ballast := rfl
@[simp] theorem setQuad_powerUnit (s : State) (k : Nat) (x : Quad) : (setQuad s k x).powerUnit = s.powerUnit := rfl
@[simp] theorem setQuad_grains (s : State) (k : Nat) (x : Quad) : (setQuad s k x).grains = s.grains := rfl
@[simp] theorem setQuad_net (s : State) (k : Nat) (x : Quad) : (setQuad s k x).net = s.net := rfl
@[simp] theorem setQuad_interrupts (s : State) (k : Nat) (x : Quad) : (setQuad s k x).interrupts = s.interrupts := rfl
@[simp] theorem setQuad_responses (s : State) (k : Nat) (x : Quad) : (setQuad s k x).responses = s.responses := rfl
@[simp] theorem setQuad_otairReports (s : State) (k : Nat) (x : Quad) : (setQuad s k x).otairReports = s.otairReports := rfl

/-! ### setPart -/

@[simp] theorem setPart_cycle (s : State) (p : Nat) (x : Partition) : (setPart s p x).cycle = s.cycle := rfl
@[simp] theorem setPart_periodStart (s : State) (p : Nat) (x : Partition) : (setPart s p x).periodStart = s.periodStart := rfl
@[simp] theorem setPart_agenda (s : State) (p : Nat) (x : Partition) : (setPart s p x).agenda = s.agenda := rfl
@[simp] theorem setPart_cur (s : State) (p : Nat) (x : Partition) : (setPart s p x).cur = s.cur := rfl
@[simp] theorem setPart_defer (s : State) (p : Nat) (x : Partition) : (setPart s p x).defer = s.defer := rfl
@[simp] theorem setPart_fresh (s : State) (p : Nat) (x : Partition) : (setPart s p x).fresh = s.fresh := rfl
@[simp] theorem setPart_gmem (s : State) (p : Nat) (x : Partition) : (setPart s p x).gmem = s.gmem := rfl
@[simp] theorem setPart_gmemPrev (s : State) (p : Nat) (x : Partition) : (setPart s p x).gmemPrev = s.gmemPrev := rfl
@[simp] theorem setPart_gateSeq (s : State) (p : Nat) (x : Partition) : (setPart s p x).gateSeq = s.gateSeq := rfl
@[simp] theorem setPart_gatePrev (s : State) (p : Nat) (x : Partition) : (setPart s p x).gatePrev = s.gatePrev := rfl
@[simp] theorem setPart_tokens (s : State) (p : Nat) (x : Partition) : (setPart s p x).tokens = s.tokens := rfl
@[simp] theorem setPart_nextToken (s : State) (p : Nat) (x : Partition) : (setPart s p x).nextToken = s.nextToken := rfl
@[simp] theorem setPart_cores (s : State) (p : Nat) (x : Partition) : (setPart s p x).cores = s.cores := rfl
@[simp] theorem setPart_tiles (s : State) (p : Nat) (x : Partition) : (setPart s p x).tiles = s.tiles := rfl
@[simp] theorem setPart_switches (s : State) (p : Nat) (x : Partition) : (setPart s p x).switches = s.switches := rfl
@[simp] theorem setPart_crossings (s : State) (p : Nat) (x : Partition) : (setPart s p x).crossings = s.crossings := rfl
@[simp] theorem setPart_pairs (s : State) (p : Nat) (x : Partition) : (setPart s p x).pairs = s.pairs := rfl
@[simp] theorem setPart_quads (s : State) (p : Nat) (x : Partition) : (setPart s p x).quads = s.quads := rfl
@[simp] theorem setPart_lltcs (s : State) (p : Nat) (x : Partition) : (setPart s p x).lltcs = s.lltcs := rfl
@[simp] theorem setPart_slices (s : State) (p : Nat) (x : Partition) : (setPart s p x).slices = s.slices := rfl
@[simp] theorem setPart_engines (s : State) (p : Nat) (x : Partition) : (setPart s p x).engines = s.engines := rfl
@[simp] theorem setPart_sector (s : State) (p : Nat) (x : Partition) : (setPart s p x).sector = s.sector := rfl
@[simp] theorem setPart_scsize (s : State) (p : Nat) (x : Partition) : (setPart s p x).scsize = s.scsize := rfl
@[simp] theorem setPart_layers (s : State) (p : Nat) (x : Partition) : (setPart s p x).layers = s.layers := rfl
@[simp] theorem setPart_draining (s : State) (p : Nat) (x : Partition) : (setPart s p x).draining = s.draining := rfl
@[simp] theorem setPart_cxlBytes (s : State) (p : Nat) (x : Partition) : (setPart s p x).cxlBytes = s.cxlBytes := rfl
@[simp] theorem setPart_offlineDies (s : State) (p : Nat) (x : Partition) : (setPart s p x).offlineDies = s.offlineDies := rfl
@[simp] theorem setPart_freezing (s : State) (p : Nat) (x : Partition) : (setPart s p x).freezing = s.freezing := rfl
@[simp] theorem setPart_regions (s : State) (p : Nat) (x : Partition) : (setPart s p x).regions = s.regions := rfl
@[simp] theorem setPart_netbnd (s : State) (p : Nat) (x : Partition) : (setPart s p x).netbnd = s.netbnd := rfl
@[simp] theorem setPart_overhead (s : State) (p : Nat) (x : Partition) : (setPart s p x).overhead = s.overhead := rfl
@[simp] theorem setPart_stretchUntil (s : State) (p : Nat) (x : Partition) : (setPart s p x).stretchUntil = s.stretchUntil := rfl
@[simp] theorem setPart_stretch (s : State) (p : Nat) (x : Partition) : (setPart s p x).stretch = s.stretch := rfl
@[simp] theorem setPart_ballast (s : State) (p : Nat) (x : Partition) : (setPart s p x).ballast = s.ballast := rfl
@[simp] theorem setPart_powerUnit (s : State) (p : Nat) (x : Partition) : (setPart s p x).powerUnit = s.powerUnit := rfl
@[simp] theorem setPart_grains (s : State) (p : Nat) (x : Partition) : (setPart s p x).grains = s.grains := rfl
@[simp] theorem setPart_net (s : State) (p : Nat) (x : Partition) : (setPart s p x).net = s.net := rfl
@[simp] theorem setPart_interrupts (s : State) (p : Nat) (x : Partition) : (setPart s p x).interrupts = s.interrupts := rfl
@[simp] theorem setPart_responses (s : State) (p : Nat) (x : Partition) : (setPart s p x).responses = s.responses := rfl
@[simp] theorem setPart_otairReports (s : State) (p : Nat) (x : Partition) : (setPart s p x).otairReports = s.otairReports := rfl

/-! ### setRegion -/

@[simp] theorem setRegion_cycle (s : State) (k : Nat) (r : Region) : (setRegion s k r).cycle = s.cycle := rfl
@[simp] theorem setRegion_periodStart (s : State) (k : Nat) (r : Region) : (setRegion s k r).periodStart = s.periodStart := rfl
@[simp] theorem setRegion_agenda (s : State) (k : Nat) (r : Region) : (setRegion s k r).agenda = s.agenda := rfl
@[simp] theorem setRegion_cur (s : State) (k : Nat) (r : Region) : (setRegion s k r).cur = s.cur := rfl
@[simp] theorem setRegion_defer (s : State) (k : Nat) (r : Region) : (setRegion s k r).defer = s.defer := rfl
@[simp] theorem setRegion_fresh (s : State) (k : Nat) (r : Region) : (setRegion s k r).fresh = s.fresh := rfl
@[simp] theorem setRegion_gmem (s : State) (k : Nat) (r : Region) : (setRegion s k r).gmem = s.gmem := rfl
@[simp] theorem setRegion_gmemPrev (s : State) (k : Nat) (r : Region) : (setRegion s k r).gmemPrev = s.gmemPrev := rfl
@[simp] theorem setRegion_gateSeq (s : State) (k : Nat) (r : Region) : (setRegion s k r).gateSeq = s.gateSeq := rfl
@[simp] theorem setRegion_gatePrev (s : State) (k : Nat) (r : Region) : (setRegion s k r).gatePrev = s.gatePrev := rfl
@[simp] theorem setRegion_tokens (s : State) (k : Nat) (r : Region) : (setRegion s k r).tokens = s.tokens := rfl
@[simp] theorem setRegion_nextToken (s : State) (k : Nat) (r : Region) : (setRegion s k r).nextToken = s.nextToken := rfl
@[simp] theorem setRegion_cores (s : State) (k : Nat) (r : Region) : (setRegion s k r).cores = s.cores := rfl
@[simp] theorem setRegion_tiles (s : State) (k : Nat) (r : Region) : (setRegion s k r).tiles = s.tiles := rfl
@[simp] theorem setRegion_switches (s : State) (k : Nat) (r : Region) : (setRegion s k r).switches = s.switches := rfl
@[simp] theorem setRegion_crossings (s : State) (k : Nat) (r : Region) : (setRegion s k r).crossings = s.crossings := rfl
@[simp] theorem setRegion_pairs (s : State) (k : Nat) (r : Region) : (setRegion s k r).pairs = s.pairs := rfl
@[simp] theorem setRegion_quads (s : State) (k : Nat) (r : Region) : (setRegion s k r).quads = s.quads := rfl
@[simp] theorem setRegion_lltcs (s : State) (k : Nat) (r : Region) : (setRegion s k r).lltcs = s.lltcs := rfl
@[simp] theorem setRegion_slices (s : State) (k : Nat) (r : Region) : (setRegion s k r).slices = s.slices := rfl
@[simp] theorem setRegion_engines (s : State) (k : Nat) (r : Region) : (setRegion s k r).engines = s.engines := rfl
@[simp] theorem setRegion_sector (s : State) (k : Nat) (r : Region) : (setRegion s k r).sector = s.sector := rfl
@[simp] theorem setRegion_scsize (s : State) (k : Nat) (r : Region) : (setRegion s k r).scsize = s.scsize := rfl
@[simp] theorem setRegion_layers (s : State) (k : Nat) (r : Region) : (setRegion s k r).layers = s.layers := rfl
@[simp] theorem setRegion_draining (s : State) (k : Nat) (r : Region) : (setRegion s k r).draining = s.draining := rfl
@[simp] theorem setRegion_cxlBytes (s : State) (k : Nat) (r : Region) : (setRegion s k r).cxlBytes = s.cxlBytes := rfl
@[simp] theorem setRegion_offlineDies (s : State) (k : Nat) (r : Region) : (setRegion s k r).offlineDies = s.offlineDies := rfl
@[simp] theorem setRegion_freezing (s : State) (k : Nat) (r : Region) : (setRegion s k r).freezing = s.freezing := rfl
@[simp] theorem setRegion_parts (s : State) (k : Nat) (r : Region) : (setRegion s k r).parts = s.parts := rfl
@[simp] theorem setRegion_netbnd (s : State) (k : Nat) (r : Region) : (setRegion s k r).netbnd = s.netbnd := rfl
@[simp] theorem setRegion_overhead (s : State) (k : Nat) (r : Region) : (setRegion s k r).overhead = s.overhead := rfl
@[simp] theorem setRegion_stretchUntil (s : State) (k : Nat) (r : Region) : (setRegion s k r).stretchUntil = s.stretchUntil := rfl
@[simp] theorem setRegion_stretch (s : State) (k : Nat) (r : Region) : (setRegion s k r).stretch = s.stretch := rfl
@[simp] theorem setRegion_ballast (s : State) (k : Nat) (r : Region) : (setRegion s k r).ballast = s.ballast := rfl
@[simp] theorem setRegion_powerUnit (s : State) (k : Nat) (r : Region) : (setRegion s k r).powerUnit = s.powerUnit := rfl
@[simp] theorem setRegion_grains (s : State) (k : Nat) (r : Region) : (setRegion s k r).grains = s.grains := rfl
@[simp] theorem setRegion_net (s : State) (k : Nat) (r : Region) : (setRegion s k r).net = s.net := rfl
@[simp] theorem setRegion_interrupts (s : State) (k : Nat) (r : Region) : (setRegion s k r).interrupts = s.interrupts := rfl
@[simp] theorem setRegion_responses (s : State) (k : Nat) (r : Region) : (setRegion s k r).responses = s.responses := rfl
@[simp] theorem setRegion_otairReports (s : State) (k : Nat) (r : Region) : (setRegion s k r).otairReports = s.otairReports := rfl

/-! ### setThread -/

@[simp] theorem setThread_cycle (s : State) (t : ThreadRef) (x : Thread) : (setThread s t x).cycle = s.cycle := rfl
@[simp] theorem setThread_periodStart (s : State) (t : ThreadRef) (x : Thread) : (setThread s t x).periodStart = s.periodStart := rfl
@[simp] theorem setThread_agenda (s : State) (t : ThreadRef) (x : Thread) : (setThread s t x).agenda = s.agenda := rfl
@[simp] theorem setThread_cur (s : State) (t : ThreadRef) (x : Thread) : (setThread s t x).cur = s.cur := rfl
@[simp] theorem setThread_defer (s : State) (t : ThreadRef) (x : Thread) : (setThread s t x).defer = s.defer := rfl
@[simp] theorem setThread_fresh (s : State) (t : ThreadRef) (x : Thread) : (setThread s t x).fresh = s.fresh := rfl
@[simp] theorem setThread_gmem (s : State) (t : ThreadRef) (x : Thread) : (setThread s t x).gmem = s.gmem := rfl
@[simp] theorem setThread_gmemPrev (s : State) (t : ThreadRef) (x : Thread) : (setThread s t x).gmemPrev = s.gmemPrev := rfl
@[simp] theorem setThread_gateSeq (s : State) (t : ThreadRef) (x : Thread) : (setThread s t x).gateSeq = s.gateSeq := rfl
@[simp] theorem setThread_gatePrev (s : State) (t : ThreadRef) (x : Thread) : (setThread s t x).gatePrev = s.gatePrev := rfl
@[simp] theorem setThread_tokens (s : State) (t : ThreadRef) (x : Thread) : (setThread s t x).tokens = s.tokens := rfl
@[simp] theorem setThread_nextToken (s : State) (t : ThreadRef) (x : Thread) : (setThread s t x).nextToken = s.nextToken := rfl
@[simp] theorem setThread_tiles (s : State) (t : ThreadRef) (x : Thread) : (setThread s t x).tiles = s.tiles := rfl
@[simp] theorem setThread_switches (s : State) (t : ThreadRef) (x : Thread) : (setThread s t x).switches = s.switches := rfl
@[simp] theorem setThread_crossings (s : State) (t : ThreadRef) (x : Thread) : (setThread s t x).crossings = s.crossings := rfl
@[simp] theorem setThread_pairs (s : State) (t : ThreadRef) (x : Thread) : (setThread s t x).pairs = s.pairs := rfl
@[simp] theorem setThread_quads (s : State) (t : ThreadRef) (x : Thread) : (setThread s t x).quads = s.quads := rfl
@[simp] theorem setThread_lltcs (s : State) (t : ThreadRef) (x : Thread) : (setThread s t x).lltcs = s.lltcs := rfl
@[simp] theorem setThread_slices (s : State) (t : ThreadRef) (x : Thread) : (setThread s t x).slices = s.slices := rfl
@[simp] theorem setThread_engines (s : State) (t : ThreadRef) (x : Thread) : (setThread s t x).engines = s.engines := rfl
@[simp] theorem setThread_sector (s : State) (t : ThreadRef) (x : Thread) : (setThread s t x).sector = s.sector := rfl
@[simp] theorem setThread_scsize (s : State) (t : ThreadRef) (x : Thread) : (setThread s t x).scsize = s.scsize := rfl
@[simp] theorem setThread_layers (s : State) (t : ThreadRef) (x : Thread) : (setThread s t x).layers = s.layers := rfl
@[simp] theorem setThread_draining (s : State) (t : ThreadRef) (x : Thread) : (setThread s t x).draining = s.draining := rfl
@[simp] theorem setThread_cxlBytes (s : State) (t : ThreadRef) (x : Thread) : (setThread s t x).cxlBytes = s.cxlBytes := rfl
@[simp] theorem setThread_offlineDies (s : State) (t : ThreadRef) (x : Thread) : (setThread s t x).offlineDies = s.offlineDies := rfl
@[simp] theorem setThread_freezing (s : State) (t : ThreadRef) (x : Thread) : (setThread s t x).freezing = s.freezing := rfl
@[simp] theorem setThread_parts (s : State) (t : ThreadRef) (x : Thread) : (setThread s t x).parts = s.parts := rfl
@[simp] theorem setThread_regions (s : State) (t : ThreadRef) (x : Thread) : (setThread s t x).regions = s.regions := rfl
@[simp] theorem setThread_netbnd (s : State) (t : ThreadRef) (x : Thread) : (setThread s t x).netbnd = s.netbnd := rfl
@[simp] theorem setThread_overhead (s : State) (t : ThreadRef) (x : Thread) : (setThread s t x).overhead = s.overhead := rfl
@[simp] theorem setThread_stretchUntil (s : State) (t : ThreadRef) (x : Thread) : (setThread s t x).stretchUntil = s.stretchUntil := rfl
@[simp] theorem setThread_stretch (s : State) (t : ThreadRef) (x : Thread) : (setThread s t x).stretch = s.stretch := rfl
@[simp] theorem setThread_ballast (s : State) (t : ThreadRef) (x : Thread) : (setThread s t x).ballast = s.ballast := rfl
@[simp] theorem setThread_powerUnit (s : State) (t : ThreadRef) (x : Thread) : (setThread s t x).powerUnit = s.powerUnit := rfl
@[simp] theorem setThread_grains (s : State) (t : ThreadRef) (x : Thread) : (setThread s t x).grains = s.grains := rfl
@[simp] theorem setThread_net (s : State) (t : ThreadRef) (x : Thread) : (setThread s t x).net = s.net := rfl
@[simp] theorem setThread_interrupts (s : State) (t : ThreadRef) (x : Thread) : (setThread s t x).interrupts = s.interrupts := rfl
@[simp] theorem setThread_responses (s : State) (t : ThreadRef) (x : Thread) : (setThread s t x).responses = s.responses := rfl
@[simp] theorem setThread_otairReports (s : State) (t : ThreadRef) (x : Thread) : (setThread s t x).otairReports = s.otairReports := rfl

/-! ### modLltc -/

@[simp] theorem modLltc_cycle (s : State) (d : Nat) (f : Lltc → Lltc) : (modLltc s d f).cycle = s.cycle := rfl
@[simp] theorem modLltc_periodStart (s : State) (d : Nat) (f : Lltc → Lltc) : (modLltc s d f).periodStart = s.periodStart := rfl
@[simp] theorem modLltc_agenda (s : State) (d : Nat) (f : Lltc → Lltc) : (modLltc s d f).agenda = s.agenda := rfl
@[simp] theorem modLltc_cur (s : State) (d : Nat) (f : Lltc → Lltc) : (modLltc s d f).cur = s.cur := rfl
@[simp] theorem modLltc_defer (s : State) (d : Nat) (f : Lltc → Lltc) : (modLltc s d f).defer = s.defer := rfl
@[simp] theorem modLltc_fresh (s : State) (d : Nat) (f : Lltc → Lltc) : (modLltc s d f).fresh = s.fresh := rfl
@[simp] theorem modLltc_gmem (s : State) (d : Nat) (f : Lltc → Lltc) : (modLltc s d f).gmem = s.gmem := rfl
@[simp] theorem modLltc_gmemPrev (s : State) (d : Nat) (f : Lltc → Lltc) : (modLltc s d f).gmemPrev = s.gmemPrev := rfl
@[simp] theorem modLltc_gateSeq (s : State) (d : Nat) (f : Lltc → Lltc) : (modLltc s d f).gateSeq = s.gateSeq := rfl
@[simp] theorem modLltc_gatePrev (s : State) (d : Nat) (f : Lltc → Lltc) : (modLltc s d f).gatePrev = s.gatePrev := rfl
@[simp] theorem modLltc_tokens (s : State) (d : Nat) (f : Lltc → Lltc) : (modLltc s d f).tokens = s.tokens := rfl
@[simp] theorem modLltc_nextToken (s : State) (d : Nat) (f : Lltc → Lltc) : (modLltc s d f).nextToken = s.nextToken := rfl
@[simp] theorem modLltc_cores (s : State) (d : Nat) (f : Lltc → Lltc) : (modLltc s d f).cores = s.cores := rfl
@[simp] theorem modLltc_tiles (s : State) (d : Nat) (f : Lltc → Lltc) : (modLltc s d f).tiles = s.tiles := rfl
@[simp] theorem modLltc_switches (s : State) (d : Nat) (f : Lltc → Lltc) : (modLltc s d f).switches = s.switches := rfl
@[simp] theorem modLltc_crossings (s : State) (d : Nat) (f : Lltc → Lltc) : (modLltc s d f).crossings = s.crossings := rfl
@[simp] theorem modLltc_pairs (s : State) (d : Nat) (f : Lltc → Lltc) : (modLltc s d f).pairs = s.pairs := rfl
@[simp] theorem modLltc_quads (s : State) (d : Nat) (f : Lltc → Lltc) : (modLltc s d f).quads = s.quads := rfl
@[simp] theorem modLltc_slices (s : State) (d : Nat) (f : Lltc → Lltc) : (modLltc s d f).slices = s.slices := rfl
@[simp] theorem modLltc_engines (s : State) (d : Nat) (f : Lltc → Lltc) : (modLltc s d f).engines = s.engines := rfl
@[simp] theorem modLltc_sector (s : State) (d : Nat) (f : Lltc → Lltc) : (modLltc s d f).sector = s.sector := rfl
@[simp] theorem modLltc_scsize (s : State) (d : Nat) (f : Lltc → Lltc) : (modLltc s d f).scsize = s.scsize := rfl
@[simp] theorem modLltc_layers (s : State) (d : Nat) (f : Lltc → Lltc) : (modLltc s d f).layers = s.layers := rfl
@[simp] theorem modLltc_draining (s : State) (d : Nat) (f : Lltc → Lltc) : (modLltc s d f).draining = s.draining := rfl
@[simp] theorem modLltc_cxlBytes (s : State) (d : Nat) (f : Lltc → Lltc) : (modLltc s d f).cxlBytes = s.cxlBytes := rfl
@[simp] theorem modLltc_offlineDies (s : State) (d : Nat) (f : Lltc → Lltc) : (modLltc s d f).offlineDies = s.offlineDies := rfl
@[simp] theorem modLltc_freezing (s : State) (d : Nat) (f : Lltc → Lltc) : (modLltc s d f).freezing = s.freezing := rfl
@[simp] theorem modLltc_parts (s : State) (d : Nat) (f : Lltc → Lltc) : (modLltc s d f).parts = s.parts := rfl
@[simp] theorem modLltc_regions (s : State) (d : Nat) (f : Lltc → Lltc) : (modLltc s d f).regions = s.regions := rfl
@[simp] theorem modLltc_netbnd (s : State) (d : Nat) (f : Lltc → Lltc) : (modLltc s d f).netbnd = s.netbnd := rfl
@[simp] theorem modLltc_overhead (s : State) (d : Nat) (f : Lltc → Lltc) : (modLltc s d f).overhead = s.overhead := rfl
@[simp] theorem modLltc_stretchUntil (s : State) (d : Nat) (f : Lltc → Lltc) : (modLltc s d f).stretchUntil = s.stretchUntil := rfl
@[simp] theorem modLltc_stretch (s : State) (d : Nat) (f : Lltc → Lltc) : (modLltc s d f).stretch = s.stretch := rfl
@[simp] theorem modLltc_ballast (s : State) (d : Nat) (f : Lltc → Lltc) : (modLltc s d f).ballast = s.ballast := rfl
@[simp] theorem modLltc_powerUnit (s : State) (d : Nat) (f : Lltc → Lltc) : (modLltc s d f).powerUnit = s.powerUnit := rfl
@[simp] theorem modLltc_grains (s : State) (d : Nat) (f : Lltc → Lltc) : (modLltc s d f).grains = s.grains := rfl
@[simp] theorem modLltc_net (s : State) (d : Nat) (f : Lltc → Lltc) : (modLltc s d f).net = s.net := rfl
@[simp] theorem modLltc_interrupts (s : State) (d : Nat) (f : Lltc → Lltc) : (modLltc s d f).interrupts = s.interrupts := rfl
@[simp] theorem modLltc_responses (s : State) (d : Nat) (f : Lltc → Lltc) : (modLltc s d f).responses = s.responses := rfl
@[simp] theorem modLltc_otairReports (s : State) (d : Nat) (f : Lltc → Lltc) : (modLltc s d f).otairReports = s.otairReports := rfl

/-! ### modSlice -/

@[simp] theorem modSlice_cycle (s : State) (k : Nat) (f : Slice → Slice) : (modSlice s k f).cycle = s.cycle := rfl
@[simp] theorem modSlice_periodStart (s : State) (k : Nat) (f : Slice → Slice) : (modSlice s k f).periodStart = s.periodStart := rfl
@[simp] theorem modSlice_agenda (s : State) (k : Nat) (f : Slice → Slice) : (modSlice s k f).agenda = s.agenda := rfl
@[simp] theorem modSlice_cur (s : State) (k : Nat) (f : Slice → Slice) : (modSlice s k f).cur = s.cur := rfl
@[simp] theorem modSlice_defer (s : State) (k : Nat) (f : Slice → Slice) : (modSlice s k f).defer = s.defer := rfl
@[simp] theorem modSlice_fresh (s : State) (k : Nat) (f : Slice → Slice) : (modSlice s k f).fresh = s.fresh := rfl
@[simp] theorem modSlice_gmem (s : State) (k : Nat) (f : Slice → Slice) : (modSlice s k f).gmem = s.gmem := rfl
@[simp] theorem modSlice_gmemPrev (s : State) (k : Nat) (f : Slice → Slice) : (modSlice s k f).gmemPrev = s.gmemPrev := rfl
@[simp] theorem modSlice_gateSeq (s : State) (k : Nat) (f : Slice → Slice) : (modSlice s k f).gateSeq = s.gateSeq := rfl
@[simp] theorem modSlice_gatePrev (s : State) (k : Nat) (f : Slice → Slice) : (modSlice s k f).gatePrev = s.gatePrev := rfl
@[simp] theorem modSlice_tokens (s : State) (k : Nat) (f : Slice → Slice) : (modSlice s k f).tokens = s.tokens := rfl
@[simp] theorem modSlice_nextToken (s : State) (k : Nat) (f : Slice → Slice) : (modSlice s k f).nextToken = s.nextToken := rfl
@[simp] theorem modSlice_cores (s : State) (k : Nat) (f : Slice → Slice) : (modSlice s k f).cores = s.cores := rfl
@[simp] theorem modSlice_tiles (s : State) (k : Nat) (f : Slice → Slice) : (modSlice s k f).tiles = s.tiles := rfl
@[simp] theorem modSlice_switches (s : State) (k : Nat) (f : Slice → Slice) : (modSlice s k f).switches = s.switches := rfl
@[simp] theorem modSlice_crossings (s : State) (k : Nat) (f : Slice → Slice) : (modSlice s k f).crossings = s.crossings := rfl
@[simp] theorem modSlice_pairs (s : State) (k : Nat) (f : Slice → Slice) : (modSlice s k f).pairs = s.pairs := rfl
@[simp] theorem modSlice_quads (s : State) (k : Nat) (f : Slice → Slice) : (modSlice s k f).quads = s.quads := rfl
@[simp] theorem modSlice_lltcs (s : State) (k : Nat) (f : Slice → Slice) : (modSlice s k f).lltcs = s.lltcs := rfl
@[simp] theorem modSlice_engines (s : State) (k : Nat) (f : Slice → Slice) : (modSlice s k f).engines = s.engines := rfl
@[simp] theorem modSlice_sector (s : State) (k : Nat) (f : Slice → Slice) : (modSlice s k f).sector = s.sector := rfl
@[simp] theorem modSlice_scsize (s : State) (k : Nat) (f : Slice → Slice) : (modSlice s k f).scsize = s.scsize := rfl
@[simp] theorem modSlice_layers (s : State) (k : Nat) (f : Slice → Slice) : (modSlice s k f).layers = s.layers := rfl
@[simp] theorem modSlice_draining (s : State) (k : Nat) (f : Slice → Slice) : (modSlice s k f).draining = s.draining := rfl
@[simp] theorem modSlice_cxlBytes (s : State) (k : Nat) (f : Slice → Slice) : (modSlice s k f).cxlBytes = s.cxlBytes := rfl
@[simp] theorem modSlice_offlineDies (s : State) (k : Nat) (f : Slice → Slice) : (modSlice s k f).offlineDies = s.offlineDies := rfl
@[simp] theorem modSlice_freezing (s : State) (k : Nat) (f : Slice → Slice) : (modSlice s k f).freezing = s.freezing := rfl
@[simp] theorem modSlice_parts (s : State) (k : Nat) (f : Slice → Slice) : (modSlice s k f).parts = s.parts := rfl
@[simp] theorem modSlice_regions (s : State) (k : Nat) (f : Slice → Slice) : (modSlice s k f).regions = s.regions := rfl
@[simp] theorem modSlice_netbnd (s : State) (k : Nat) (f : Slice → Slice) : (modSlice s k f).netbnd = s.netbnd := rfl
@[simp] theorem modSlice_overhead (s : State) (k : Nat) (f : Slice → Slice) : (modSlice s k f).overhead = s.overhead := rfl
@[simp] theorem modSlice_stretchUntil (s : State) (k : Nat) (f : Slice → Slice) : (modSlice s k f).stretchUntil = s.stretchUntil := rfl
@[simp] theorem modSlice_stretch (s : State) (k : Nat) (f : Slice → Slice) : (modSlice s k f).stretch = s.stretch := rfl
@[simp] theorem modSlice_ballast (s : State) (k : Nat) (f : Slice → Slice) : (modSlice s k f).ballast = s.ballast := rfl
@[simp] theorem modSlice_powerUnit (s : State) (k : Nat) (f : Slice → Slice) : (modSlice s k f).powerUnit = s.powerUnit := rfl
@[simp] theorem modSlice_grains (s : State) (k : Nat) (f : Slice → Slice) : (modSlice s k f).grains = s.grains := rfl
@[simp] theorem modSlice_net (s : State) (k : Nat) (f : Slice → Slice) : (modSlice s k f).net = s.net := rfl
@[simp] theorem modSlice_interrupts (s : State) (k : Nat) (f : Slice → Slice) : (modSlice s k f).interrupts = s.interrupts := rfl
@[simp] theorem modSlice_responses (s : State) (k : Nat) (f : Slice → Slice) : (modSlice s k f).responses = s.responses := rfl
@[simp] theorem modSlice_otairReports (s : State) (k : Nat) (f : Slice → Slice) : (modSlice s k f).otairReports = s.otairReports := rfl

/-! ### modEngine -/

@[simp] theorem modEngine_cycle (s : State) (k : Nat) (f : Engine → Engine) : (modEngine s k f).cycle = s.cycle := rfl
@[simp] theorem modEngine_periodStart (s : State) (k : Nat) (f : Engine → Engine) : (modEngine s k f).periodStart = s.periodStart := rfl
@[simp] theorem modEngine_agenda (s : State) (k : Nat) (f : Engine → Engine) : (modEngine s k f).agenda = s.agenda := rfl
@[simp] theorem modEngine_cur (s : State) (k : Nat) (f : Engine → Engine) : (modEngine s k f).cur = s.cur := rfl
@[simp] theorem modEngine_defer (s : State) (k : Nat) (f : Engine → Engine) : (modEngine s k f).defer = s.defer := rfl
@[simp] theorem modEngine_fresh (s : State) (k : Nat) (f : Engine → Engine) : (modEngine s k f).fresh = s.fresh := rfl
@[simp] theorem modEngine_gmem (s : State) (k : Nat) (f : Engine → Engine) : (modEngine s k f).gmem = s.gmem := rfl
@[simp] theorem modEngine_gmemPrev (s : State) (k : Nat) (f : Engine → Engine) : (modEngine s k f).gmemPrev = s.gmemPrev := rfl
@[simp] theorem modEngine_gateSeq (s : State) (k : Nat) (f : Engine → Engine) : (modEngine s k f).gateSeq = s.gateSeq := rfl
@[simp] theorem modEngine_gatePrev (s : State) (k : Nat) (f : Engine → Engine) : (modEngine s k f).gatePrev = s.gatePrev := rfl
@[simp] theorem modEngine_tokens (s : State) (k : Nat) (f : Engine → Engine) : (modEngine s k f).tokens = s.tokens := rfl
@[simp] theorem modEngine_nextToken (s : State) (k : Nat) (f : Engine → Engine) : (modEngine s k f).nextToken = s.nextToken := rfl
@[simp] theorem modEngine_cores (s : State) (k : Nat) (f : Engine → Engine) : (modEngine s k f).cores = s.cores := rfl
@[simp] theorem modEngine_tiles (s : State) (k : Nat) (f : Engine → Engine) : (modEngine s k f).tiles = s.tiles := rfl
@[simp] theorem modEngine_switches (s : State) (k : Nat) (f : Engine → Engine) : (modEngine s k f).switches = s.switches := rfl
@[simp] theorem modEngine_crossings (s : State) (k : Nat) (f : Engine → Engine) : (modEngine s k f).crossings = s.crossings := rfl
@[simp] theorem modEngine_pairs (s : State) (k : Nat) (f : Engine → Engine) : (modEngine s k f).pairs = s.pairs := rfl
@[simp] theorem modEngine_quads (s : State) (k : Nat) (f : Engine → Engine) : (modEngine s k f).quads = s.quads := rfl
@[simp] theorem modEngine_lltcs (s : State) (k : Nat) (f : Engine → Engine) : (modEngine s k f).lltcs = s.lltcs := rfl
@[simp] theorem modEngine_slices (s : State) (k : Nat) (f : Engine → Engine) : (modEngine s k f).slices = s.slices := rfl
@[simp] theorem modEngine_sector (s : State) (k : Nat) (f : Engine → Engine) : (modEngine s k f).sector = s.sector := rfl
@[simp] theorem modEngine_scsize (s : State) (k : Nat) (f : Engine → Engine) : (modEngine s k f).scsize = s.scsize := rfl
@[simp] theorem modEngine_layers (s : State) (k : Nat) (f : Engine → Engine) : (modEngine s k f).layers = s.layers := rfl
@[simp] theorem modEngine_draining (s : State) (k : Nat) (f : Engine → Engine) : (modEngine s k f).draining = s.draining := rfl
@[simp] theorem modEngine_cxlBytes (s : State) (k : Nat) (f : Engine → Engine) : (modEngine s k f).cxlBytes = s.cxlBytes := rfl
@[simp] theorem modEngine_offlineDies (s : State) (k : Nat) (f : Engine → Engine) : (modEngine s k f).offlineDies = s.offlineDies := rfl
@[simp] theorem modEngine_freezing (s : State) (k : Nat) (f : Engine → Engine) : (modEngine s k f).freezing = s.freezing := rfl
@[simp] theorem modEngine_parts (s : State) (k : Nat) (f : Engine → Engine) : (modEngine s k f).parts = s.parts := rfl
@[simp] theorem modEngine_regions (s : State) (k : Nat) (f : Engine → Engine) : (modEngine s k f).regions = s.regions := rfl
@[simp] theorem modEngine_netbnd (s : State) (k : Nat) (f : Engine → Engine) : (modEngine s k f).netbnd = s.netbnd := rfl
@[simp] theorem modEngine_overhead (s : State) (k : Nat) (f : Engine → Engine) : (modEngine s k f).overhead = s.overhead := rfl
@[simp] theorem modEngine_stretchUntil (s : State) (k : Nat) (f : Engine → Engine) : (modEngine s k f).stretchUntil = s.stretchUntil := rfl
@[simp] theorem modEngine_stretch (s : State) (k : Nat) (f : Engine → Engine) : (modEngine s k f).stretch = s.stretch := rfl
@[simp] theorem modEngine_ballast (s : State) (k : Nat) (f : Engine → Engine) : (modEngine s k f).ballast = s.ballast := rfl
@[simp] theorem modEngine_powerUnit (s : State) (k : Nat) (f : Engine → Engine) : (modEngine s k f).powerUnit = s.powerUnit := rfl
@[simp] theorem modEngine_grains (s : State) (k : Nat) (f : Engine → Engine) : (modEngine s k f).grains = s.grains := rfl
@[simp] theorem modEngine_net (s : State) (k : Nat) (f : Engine → Engine) : (modEngine s k f).net = s.net := rfl
@[simp] theorem modEngine_interrupts (s : State) (k : Nat) (f : Engine → Engine) : (modEngine s k f).interrupts = s.interrupts := rfl
@[simp] theorem modEngine_responses (s : State) (k : Nat) (f : Engine → Engine) : (modEngine s k f).responses = s.responses := rfl
@[simp] theorem modEngine_otairReports (s : State) (k : Nat) (f : Engine → Engine) : (modEngine s k f).otairReports = s.otairReports := rfl

/-! ### setTSlot -/

@[simp] theorem setTSlot_cycle (s : State) (e n : Nat) (x : TSlot) : (setTSlot s e n x).cycle = s.cycle := rfl
@[simp] theorem setTSlot_periodStart (s : State) (e n : Nat) (x : TSlot) : (setTSlot s e n x).periodStart = s.periodStart := rfl
@[simp] theorem setTSlot_agenda (s : State) (e n : Nat) (x : TSlot) : (setTSlot s e n x).agenda = s.agenda := rfl
@[simp] theorem setTSlot_cur (s : State) (e n : Nat) (x : TSlot) : (setTSlot s e n x).cur = s.cur := rfl
@[simp] theorem setTSlot_defer (s : State) (e n : Nat) (x : TSlot) : (setTSlot s e n x).defer = s.defer := rfl
@[simp] theorem setTSlot_fresh (s : State) (e n : Nat) (x : TSlot) : (setTSlot s e n x).fresh = s.fresh := rfl
@[simp] theorem setTSlot_gmem (s : State) (e n : Nat) (x : TSlot) : (setTSlot s e n x).gmem = s.gmem := rfl
@[simp] theorem setTSlot_gmemPrev (s : State) (e n : Nat) (x : TSlot) : (setTSlot s e n x).gmemPrev = s.gmemPrev := rfl
@[simp] theorem setTSlot_gateSeq (s : State) (e n : Nat) (x : TSlot) : (setTSlot s e n x).gateSeq = s.gateSeq := rfl
@[simp] theorem setTSlot_gatePrev (s : State) (e n : Nat) (x : TSlot) : (setTSlot s e n x).gatePrev = s.gatePrev := rfl
@[simp] theorem setTSlot_tokens (s : State) (e n : Nat) (x : TSlot) : (setTSlot s e n x).tokens = s.tokens := rfl
@[simp] theorem setTSlot_nextToken (s : State) (e n : Nat) (x : TSlot) : (setTSlot s e n x).nextToken = s.nextToken := rfl
@[simp] theorem setTSlot_cores (s : State) (e n : Nat) (x : TSlot) : (setTSlot s e n x).cores = s.cores := rfl
@[simp] theorem setTSlot_tiles (s : State) (e n : Nat) (x : TSlot) : (setTSlot s e n x).tiles = s.tiles := rfl
@[simp] theorem setTSlot_switches (s : State) (e n : Nat) (x : TSlot) : (setTSlot s e n x).switches = s.switches := rfl
@[simp] theorem setTSlot_crossings (s : State) (e n : Nat) (x : TSlot) : (setTSlot s e n x).crossings = s.crossings := rfl
@[simp] theorem setTSlot_pairs (s : State) (e n : Nat) (x : TSlot) : (setTSlot s e n x).pairs = s.pairs := rfl
@[simp] theorem setTSlot_quads (s : State) (e n : Nat) (x : TSlot) : (setTSlot s e n x).quads = s.quads := rfl
@[simp] theorem setTSlot_lltcs (s : State) (e n : Nat) (x : TSlot) : (setTSlot s e n x).lltcs = s.lltcs := rfl
@[simp] theorem setTSlot_slices (s : State) (e n : Nat) (x : TSlot) : (setTSlot s e n x).slices = s.slices := rfl
@[simp] theorem setTSlot_sector (s : State) (e n : Nat) (x : TSlot) : (setTSlot s e n x).sector = s.sector := rfl
@[simp] theorem setTSlot_scsize (s : State) (e n : Nat) (x : TSlot) : (setTSlot s e n x).scsize = s.scsize := rfl
@[simp] theorem setTSlot_layers (s : State) (e n : Nat) (x : TSlot) : (setTSlot s e n x).layers = s.layers := rfl
@[simp] theorem setTSlot_draining (s : State) (e n : Nat) (x : TSlot) : (setTSlot s e n x).draining = s.draining := rfl
@[simp] theorem setTSlot_cxlBytes (s : State) (e n : Nat) (x : TSlot) : (setTSlot s e n x).cxlBytes = s.cxlBytes := rfl
@[simp] theorem setTSlot_offlineDies (s : State) (e n : Nat) (x : TSlot) : (setTSlot s e n x).offlineDies = s.offlineDies := rfl
@[simp] theorem setTSlot_freezing (s : State) (e n : Nat) (x : TSlot) : (setTSlot s e n x).freezing = s.freezing := rfl
@[simp] theorem setTSlot_parts (s : State) (e n : Nat) (x : TSlot) : (setTSlot s e n x).parts = s.parts := rfl
@[simp] theorem setTSlot_regions (s : State) (e n : Nat) (x : TSlot) : (setTSlot s e n x).regions = s.regions := rfl
@[simp] theorem setTSlot_netbnd (s : State) (e n : Nat) (x : TSlot) : (setTSlot s e n x).netbnd = s.netbnd := rfl
@[simp] theorem setTSlot_overhead (s : State) (e n : Nat) (x : TSlot) : (setTSlot s e n x).overhead = s.overhead := rfl
@[simp] theorem setTSlot_stretchUntil (s : State) (e n : Nat) (x : TSlot) : (setTSlot s e n x).stretchUntil = s.stretchUntil := rfl
@[simp] theorem setTSlot_stretch (s : State) (e n : Nat) (x : TSlot) : (setTSlot s e n x).stretch = s.stretch := rfl
@[simp] theorem setTSlot_ballast (s : State) (e n : Nat) (x : TSlot) : (setTSlot s e n x).ballast = s.ballast := rfl
@[simp] theorem setTSlot_powerUnit (s : State) (e n : Nat) (x : TSlot) : (setTSlot s e n x).powerUnit = s.powerUnit := rfl
@[simp] theorem setTSlot_grains (s : State) (e n : Nat) (x : TSlot) : (setTSlot s e n x).grains = s.grains := rfl
@[simp] theorem setTSlot_net (s : State) (e n : Nat) (x : TSlot) : (setTSlot s e n x).net = s.net := rfl
@[simp] theorem setTSlot_interrupts (s : State) (e n : Nat) (x : TSlot) : (setTSlot s e n x).interrupts = s.interrupts := rfl
@[simp] theorem setTSlot_responses (s : State) (e n : Nat) (x : TSlot) : (setTSlot s e n x).responses = s.responses := rfl
@[simp] theorem setTSlot_otairReports (s : State) (e n : Nat) (x : TSlot) : (setTSlot s e n x).otairReports = s.otairReports := rfl

/-! ### setQueue -/

@[simp] theorem setQueue_cycle (s : State) (p q : Nat) (x : Queue) : (setQueue s p q x).cycle = s.cycle := rfl
@[simp] theorem setQueue_periodStart (s : State) (p q : Nat) (x : Queue) : (setQueue s p q x).periodStart = s.periodStart := rfl
@[simp] theorem setQueue_agenda (s : State) (p q : Nat) (x : Queue) : (setQueue s p q x).agenda = s.agenda := rfl
@[simp] theorem setQueue_cur (s : State) (p q : Nat) (x : Queue) : (setQueue s p q x).cur = s.cur := rfl
@[simp] theorem setQueue_defer (s : State) (p q : Nat) (x : Queue) : (setQueue s p q x).defer = s.defer := rfl
@[simp] theorem setQueue_fresh (s : State) (p q : Nat) (x : Queue) : (setQueue s p q x).fresh = s.fresh := rfl
@[simp] theorem setQueue_gmem (s : State) (p q : Nat) (x : Queue) : (setQueue s p q x).gmem = s.gmem := rfl
@[simp] theorem setQueue_gmemPrev (s : State) (p q : Nat) (x : Queue) : (setQueue s p q x).gmemPrev = s.gmemPrev := rfl
@[simp] theorem setQueue_gateSeq (s : State) (p q : Nat) (x : Queue) : (setQueue s p q x).gateSeq = s.gateSeq := rfl
@[simp] theorem setQueue_gatePrev (s : State) (p q : Nat) (x : Queue) : (setQueue s p q x).gatePrev = s.gatePrev := rfl
@[simp] theorem setQueue_tokens (s : State) (p q : Nat) (x : Queue) : (setQueue s p q x).tokens = s.tokens := rfl
@[simp] theorem setQueue_nextToken (s : State) (p q : Nat) (x : Queue) : (setQueue s p q x).nextToken = s.nextToken := rfl
@[simp] theorem setQueue_cores (s : State) (p q : Nat) (x : Queue) : (setQueue s p q x).cores = s.cores := rfl
@[simp] theorem setQueue_tiles (s : State) (p q : Nat) (x : Queue) : (setQueue s p q x).tiles = s.tiles := rfl
@[simp] theorem setQueue_switches (s : State) (p q : Nat) (x : Queue) : (setQueue s p q x).switches = s.switches := rfl
@[simp] theorem setQueue_crossings (s : State) (p q : Nat) (x : Queue) : (setQueue s p q x).crossings = s.crossings := rfl
@[simp] theorem setQueue_pairs (s : State) (p q : Nat) (x : Queue) : (setQueue s p q x).pairs = s.pairs := rfl
@[simp] theorem setQueue_quads (s : State) (p q : Nat) (x : Queue) : (setQueue s p q x).quads = s.quads := rfl
@[simp] theorem setQueue_lltcs (s : State) (p q : Nat) (x : Queue) : (setQueue s p q x).lltcs = s.lltcs := rfl
@[simp] theorem setQueue_slices (s : State) (p q : Nat) (x : Queue) : (setQueue s p q x).slices = s.slices := rfl
@[simp] theorem setQueue_engines (s : State) (p q : Nat) (x : Queue) : (setQueue s p q x).engines = s.engines := rfl
@[simp] theorem setQueue_sector (s : State) (p q : Nat) (x : Queue) : (setQueue s p q x).sector = s.sector := rfl
@[simp] theorem setQueue_scsize (s : State) (p q : Nat) (x : Queue) : (setQueue s p q x).scsize = s.scsize := rfl
@[simp] theorem setQueue_layers (s : State) (p q : Nat) (x : Queue) : (setQueue s p q x).layers = s.layers := rfl
@[simp] theorem setQueue_draining (s : State) (p q : Nat) (x : Queue) : (setQueue s p q x).draining = s.draining := rfl
@[simp] theorem setQueue_cxlBytes (s : State) (p q : Nat) (x : Queue) : (setQueue s p q x).cxlBytes = s.cxlBytes := rfl
@[simp] theorem setQueue_offlineDies (s : State) (p q : Nat) (x : Queue) : (setQueue s p q x).offlineDies = s.offlineDies := rfl
@[simp] theorem setQueue_freezing (s : State) (p q : Nat) (x : Queue) : (setQueue s p q x).freezing = s.freezing := rfl
@[simp] theorem setQueue_regions (s : State) (p q : Nat) (x : Queue) : (setQueue s p q x).regions = s.regions := rfl
@[simp] theorem setQueue_netbnd (s : State) (p q : Nat) (x : Queue) : (setQueue s p q x).netbnd = s.netbnd := rfl
@[simp] theorem setQueue_overhead (s : State) (p q : Nat) (x : Queue) : (setQueue s p q x).overhead = s.overhead := rfl
@[simp] theorem setQueue_stretchUntil (s : State) (p q : Nat) (x : Queue) : (setQueue s p q x).stretchUntil = s.stretchUntil := rfl
@[simp] theorem setQueue_stretch (s : State) (p q : Nat) (x : Queue) : (setQueue s p q x).stretch = s.stretch := rfl
@[simp] theorem setQueue_ballast (s : State) (p q : Nat) (x : Queue) : (setQueue s p q x).ballast = s.ballast := rfl
@[simp] theorem setQueue_powerUnit (s : State) (p q : Nat) (x : Queue) : (setQueue s p q x).powerUnit = s.powerUnit := rfl
@[simp] theorem setQueue_grains (s : State) (p q : Nat) (x : Queue) : (setQueue s p q x).grains = s.grains := rfl
@[simp] theorem setQueue_net (s : State) (p q : Nat) (x : Queue) : (setQueue s p q x).net = s.net := rfl
@[simp] theorem setQueue_interrupts (s : State) (p q : Nat) (x : Queue) : (setQueue s p q x).interrupts = s.interrupts := rfl
@[simp] theorem setQueue_responses (s : State) (p q : Nat) (x : Queue) : (setQueue s p q x).responses = s.responses := rfl
@[simp] theorem setQueue_otairReports (s : State) (p q : Nat) (x : Queue) : (setQueue s p q x).otairReports = s.otairReports := rfl

/-! ### postMail -/

@[simp] theorem postMail_cycle (s : State) (part service : Nat) (l : List Word) : (postMail s part service l).cycle = s.cycle := rfl
@[simp] theorem postMail_periodStart (s : State) (part service : Nat) (l : List Word) : (postMail s part service l).periodStart = s.periodStart := rfl
@[simp] theorem postMail_agenda (s : State) (part service : Nat) (l : List Word) : (postMail s part service l).agenda = s.agenda := rfl
@[simp] theorem postMail_cur (s : State) (part service : Nat) (l : List Word) : (postMail s part service l).cur = s.cur := rfl
@[simp] theorem postMail_defer (s : State) (part service : Nat) (l : List Word) : (postMail s part service l).defer = s.defer := rfl
@[simp] theorem postMail_fresh (s : State) (part service : Nat) (l : List Word) : (postMail s part service l).fresh = s.fresh := rfl
@[simp] theorem postMail_gmem (s : State) (part service : Nat) (l : List Word) : (postMail s part service l).gmem = s.gmem := rfl
@[simp] theorem postMail_gmemPrev (s : State) (part service : Nat) (l : List Word) : (postMail s part service l).gmemPrev = s.gmemPrev := rfl
@[simp] theorem postMail_gateSeq (s : State) (part service : Nat) (l : List Word) : (postMail s part service l).gateSeq = s.gateSeq := rfl
@[simp] theorem postMail_gatePrev (s : State) (part service : Nat) (l : List Word) : (postMail s part service l).gatePrev = s.gatePrev := rfl
@[simp] theorem postMail_tokens (s : State) (part service : Nat) (l : List Word) : (postMail s part service l).tokens = s.tokens := rfl
@[simp] theorem postMail_nextToken (s : State) (part service : Nat) (l : List Word) : (postMail s part service l).nextToken = s.nextToken := rfl
@[simp] theorem postMail_cores (s : State) (part service : Nat) (l : List Word) : (postMail s part service l).cores = s.cores := rfl
@[simp] theorem postMail_tiles (s : State) (part service : Nat) (l : List Word) : (postMail s part service l).tiles = s.tiles := rfl
@[simp] theorem postMail_switches (s : State) (part service : Nat) (l : List Word) : (postMail s part service l).switches = s.switches := rfl
@[simp] theorem postMail_crossings (s : State) (part service : Nat) (l : List Word) : (postMail s part service l).crossings = s.crossings := rfl
@[simp] theorem postMail_pairs (s : State) (part service : Nat) (l : List Word) : (postMail s part service l).pairs = s.pairs := rfl
@[simp] theorem postMail_quads (s : State) (part service : Nat) (l : List Word) : (postMail s part service l).quads = s.quads := rfl
@[simp] theorem postMail_lltcs (s : State) (part service : Nat) (l : List Word) : (postMail s part service l).lltcs = s.lltcs := rfl
@[simp] theorem postMail_slices (s : State) (part service : Nat) (l : List Word) : (postMail s part service l).slices = s.slices := rfl
@[simp] theorem postMail_engines (s : State) (part service : Nat) (l : List Word) : (postMail s part service l).engines = s.engines := rfl
@[simp] theorem postMail_sector (s : State) (part service : Nat) (l : List Word) : (postMail s part service l).sector = s.sector := rfl
@[simp] theorem postMail_scsize (s : State) (part service : Nat) (l : List Word) : (postMail s part service l).scsize = s.scsize := rfl
@[simp] theorem postMail_layers (s : State) (part service : Nat) (l : List Word) : (postMail s part service l).layers = s.layers := rfl
@[simp] theorem postMail_draining (s : State) (part service : Nat) (l : List Word) : (postMail s part service l).draining = s.draining := rfl
@[simp] theorem postMail_cxlBytes (s : State) (part service : Nat) (l : List Word) : (postMail s part service l).cxlBytes = s.cxlBytes := rfl
@[simp] theorem postMail_offlineDies (s : State) (part service : Nat) (l : List Word) : (postMail s part service l).offlineDies = s.offlineDies := rfl
@[simp] theorem postMail_freezing (s : State) (part service : Nat) (l : List Word) : (postMail s part service l).freezing = s.freezing := rfl
@[simp] theorem postMail_parts (s : State) (part service : Nat) (l : List Word) : (postMail s part service l).parts = s.parts := rfl
@[simp] theorem postMail_regions (s : State) (part service : Nat) (l : List Word) : (postMail s part service l).regions = s.regions := rfl
@[simp] theorem postMail_netbnd (s : State) (part service : Nat) (l : List Word) : (postMail s part service l).netbnd = s.netbnd := rfl
@[simp] theorem postMail_overhead (s : State) (part service : Nat) (l : List Word) : (postMail s part service l).overhead = s.overhead := rfl
@[simp] theorem postMail_stretchUntil (s : State) (part service : Nat) (l : List Word) : (postMail s part service l).stretchUntil = s.stretchUntil := rfl
@[simp] theorem postMail_stretch (s : State) (part service : Nat) (l : List Word) : (postMail s part service l).stretch = s.stretch := rfl
@[simp] theorem postMail_ballast (s : State) (part service : Nat) (l : List Word) : (postMail s part service l).ballast = s.ballast := rfl
@[simp] theorem postMail_powerUnit (s : State) (part service : Nat) (l : List Word) : (postMail s part service l).powerUnit = s.powerUnit := rfl
@[simp] theorem postMail_grains (s : State) (part service : Nat) (l : List Word) : (postMail s part service l).grains = s.grains := rfl
@[simp] theorem postMail_interrupts (s : State) (part service : Nat) (l : List Word) : (postMail s part service l).interrupts = s.interrupts := rfl
@[simp] theorem postMail_responses (s : State) (part service : Nat) (l : List Word) : (postMail s part service l).responses = s.responses := rfl
@[simp] theorem postMail_otairReports (s : State) (part service : Nat) (l : List Word) : (postMail s part service l).otairReports = s.otairReports := rfl

/-! ### postEngineError -/

@[simp] theorem postEngineError_cycle (s : State) (p cause addr pos inst func : Nat) : (postEngineError s p cause addr pos inst func).cycle = s.cycle := rfl
@[simp] theorem postEngineError_periodStart (s : State) (p cause addr pos inst func : Nat) : (postEngineError s p cause addr pos inst func).periodStart = s.periodStart := rfl
@[simp] theorem postEngineError_agenda (s : State) (p cause addr pos inst func : Nat) : (postEngineError s p cause addr pos inst func).agenda = s.agenda := rfl
@[simp] theorem postEngineError_cur (s : State) (p cause addr pos inst func : Nat) : (postEngineError s p cause addr pos inst func).cur = s.cur := rfl
@[simp] theorem postEngineError_defer (s : State) (p cause addr pos inst func : Nat) : (postEngineError s p cause addr pos inst func).defer = s.defer := rfl
@[simp] theorem postEngineError_fresh (s : State) (p cause addr pos inst func : Nat) : (postEngineError s p cause addr pos inst func).fresh = s.fresh := rfl
@[simp] theorem postEngineError_gmem (s : State) (p cause addr pos inst func : Nat) : (postEngineError s p cause addr pos inst func).gmem = s.gmem := rfl
@[simp] theorem postEngineError_gmemPrev (s : State) (p cause addr pos inst func : Nat) : (postEngineError s p cause addr pos inst func).gmemPrev = s.gmemPrev := rfl
@[simp] theorem postEngineError_gateSeq (s : State) (p cause addr pos inst func : Nat) : (postEngineError s p cause addr pos inst func).gateSeq = s.gateSeq := rfl
@[simp] theorem postEngineError_gatePrev (s : State) (p cause addr pos inst func : Nat) : (postEngineError s p cause addr pos inst func).gatePrev = s.gatePrev := rfl
@[simp] theorem postEngineError_tokens (s : State) (p cause addr pos inst func : Nat) : (postEngineError s p cause addr pos inst func).tokens = s.tokens := rfl
@[simp] theorem postEngineError_nextToken (s : State) (p cause addr pos inst func : Nat) : (postEngineError s p cause addr pos inst func).nextToken = s.nextToken := rfl
@[simp] theorem postEngineError_cores (s : State) (p cause addr pos inst func : Nat) : (postEngineError s p cause addr pos inst func).cores = s.cores := rfl
@[simp] theorem postEngineError_tiles (s : State) (p cause addr pos inst func : Nat) : (postEngineError s p cause addr pos inst func).tiles = s.tiles := rfl
@[simp] theorem postEngineError_switches (s : State) (p cause addr pos inst func : Nat) : (postEngineError s p cause addr pos inst func).switches = s.switches := rfl
@[simp] theorem postEngineError_crossings (s : State) (p cause addr pos inst func : Nat) : (postEngineError s p cause addr pos inst func).crossings = s.crossings := rfl
@[simp] theorem postEngineError_pairs (s : State) (p cause addr pos inst func : Nat) : (postEngineError s p cause addr pos inst func).pairs = s.pairs := rfl
@[simp] theorem postEngineError_quads (s : State) (p cause addr pos inst func : Nat) : (postEngineError s p cause addr pos inst func).quads = s.quads := rfl
@[simp] theorem postEngineError_lltcs (s : State) (p cause addr pos inst func : Nat) : (postEngineError s p cause addr pos inst func).lltcs = s.lltcs := rfl
@[simp] theorem postEngineError_slices (s : State) (p cause addr pos inst func : Nat) : (postEngineError s p cause addr pos inst func).slices = s.slices := rfl
@[simp] theorem postEngineError_engines (s : State) (p cause addr pos inst func : Nat) : (postEngineError s p cause addr pos inst func).engines = s.engines := rfl
@[simp] theorem postEngineError_sector (s : State) (p cause addr pos inst func : Nat) : (postEngineError s p cause addr pos inst func).sector = s.sector := rfl
@[simp] theorem postEngineError_scsize (s : State) (p cause addr pos inst func : Nat) : (postEngineError s p cause addr pos inst func).scsize = s.scsize := rfl
@[simp] theorem postEngineError_layers (s : State) (p cause addr pos inst func : Nat) : (postEngineError s p cause addr pos inst func).layers = s.layers := rfl
@[simp] theorem postEngineError_draining (s : State) (p cause addr pos inst func : Nat) : (postEngineError s p cause addr pos inst func).draining = s.draining := rfl
@[simp] theorem postEngineError_cxlBytes (s : State) (p cause addr pos inst func : Nat) : (postEngineError s p cause addr pos inst func).cxlBytes = s.cxlBytes := rfl
@[simp] theorem postEngineError_offlineDies (s : State) (p cause addr pos inst func : Nat) : (postEngineError s p cause addr pos inst func).offlineDies = s.offlineDies := rfl
@[simp] theorem postEngineError_freezing (s : State) (p cause addr pos inst func : Nat) : (postEngineError s p cause addr pos inst func).freezing = s.freezing := rfl
@[simp] theorem postEngineError_parts (s : State) (p cause addr pos inst func : Nat) : (postEngineError s p cause addr pos inst func).parts = s.parts := rfl
@[simp] theorem postEngineError_regions (s : State) (p cause addr pos inst func : Nat) : (postEngineError s p cause addr pos inst func).regions = s.regions := rfl
@[simp] theorem postEngineError_netbnd (s : State) (p cause addr pos inst func : Nat) : (postEngineError s p cause addr pos inst func).netbnd = s.netbnd := rfl
@[simp] theorem postEngineError_overhead (s : State) (p cause addr pos inst func : Nat) : (postEngineError s p cause addr pos inst func).overhead = s.overhead := rfl
@[simp] theorem postEngineError_stretchUntil (s : State) (p cause addr pos inst func : Nat) : (postEngineError s p cause addr pos inst func).stretchUntil = s.stretchUntil := rfl
@[simp] theorem postEngineError_stretch (s : State) (p cause addr pos inst func : Nat) : (postEngineError s p cause addr pos inst func).stretch = s.stretch := rfl
@[simp] theorem postEngineError_ballast (s : State) (p cause addr pos inst func : Nat) : (postEngineError s p cause addr pos inst func).ballast = s.ballast := rfl
@[simp] theorem postEngineError_powerUnit (s : State) (p cause addr pos inst func : Nat) : (postEngineError s p cause addr pos inst func).powerUnit = s.powerUnit := rfl
@[simp] theorem postEngineError_grains (s : State) (p cause addr pos inst func : Nat) : (postEngineError s p cause addr pos inst func).grains = s.grains := rfl
@[simp] theorem postEngineError_interrupts (s : State) (p cause addr pos inst func : Nat) : (postEngineError s p cause addr pos inst func).interrupts = s.interrupts := rfl
@[simp] theorem postEngineError_responses (s : State) (p cause addr pos inst func : Nat) : (postEngineError s p cause addr pos inst func).responses = s.responses := rfl
@[simp] theorem postEngineError_otairReports (s : State) (p cause addr pos inst func : Nat) : (postEngineError s p cause addr pos inst func).otairReports = s.otairReports := rfl

/-! ### raiseVector -/

@[simp] theorem raiseVector_cycle (s : State) (p func vector : Nat) : (raiseVector s p func vector).cycle = s.cycle := rfl
@[simp] theorem raiseVector_periodStart (s : State) (p func vector : Nat) : (raiseVector s p func vector).periodStart = s.periodStart := rfl
@[simp] theorem raiseVector_agenda (s : State) (p func vector : Nat) : (raiseVector s p func vector).agenda = s.agenda := rfl
@[simp] theorem raiseVector_cur (s : State) (p func vector : Nat) : (raiseVector s p func vector).cur = s.cur := rfl
@[simp] theorem raiseVector_defer (s : State) (p func vector : Nat) : (raiseVector s p func vector).defer = s.defer := rfl
@[simp] theorem raiseVector_fresh (s : State) (p func vector : Nat) : (raiseVector s p func vector).fresh = s.fresh := rfl
@[simp] theorem raiseVector_gmem (s : State) (p func vector : Nat) : (raiseVector s p func vector).gmem = s.gmem := rfl
@[simp] theorem raiseVector_gmemPrev (s : State) (p func vector : Nat) : (raiseVector s p func vector).gmemPrev = s.gmemPrev := rfl
@[simp] theorem raiseVector_gateSeq (s : State) (p func vector : Nat) : (raiseVector s p func vector).gateSeq = s.gateSeq := rfl
@[simp] theorem raiseVector_gatePrev (s : State) (p func vector : Nat) : (raiseVector s p func vector).gatePrev = s.gatePrev := rfl
@[simp] theorem raiseVector_tokens (s : State) (p func vector : Nat) : (raiseVector s p func vector).tokens = s.tokens := rfl
@[simp] theorem raiseVector_nextToken (s : State) (p func vector : Nat) : (raiseVector s p func vector).nextToken = s.nextToken := rfl
@[simp] theorem raiseVector_cores (s : State) (p func vector : Nat) : (raiseVector s p func vector).cores = s.cores := rfl
@[simp] theorem raiseVector_tiles (s : State) (p func vector : Nat) : (raiseVector s p func vector).tiles = s.tiles := rfl
@[simp] theorem raiseVector_switches (s : State) (p func vector : Nat) : (raiseVector s p func vector).switches = s.switches := rfl
@[simp] theorem raiseVector_crossings (s : State) (p func vector : Nat) : (raiseVector s p func vector).crossings = s.crossings := rfl
@[simp] theorem raiseVector_pairs (s : State) (p func vector : Nat) : (raiseVector s p func vector).pairs = s.pairs := rfl
@[simp] theorem raiseVector_quads (s : State) (p func vector : Nat) : (raiseVector s p func vector).quads = s.quads := rfl
@[simp] theorem raiseVector_lltcs (s : State) (p func vector : Nat) : (raiseVector s p func vector).lltcs = s.lltcs := rfl
@[simp] theorem raiseVector_slices (s : State) (p func vector : Nat) : (raiseVector s p func vector).slices = s.slices := rfl
@[simp] theorem raiseVector_engines (s : State) (p func vector : Nat) : (raiseVector s p func vector).engines = s.engines := rfl
@[simp] theorem raiseVector_sector (s : State) (p func vector : Nat) : (raiseVector s p func vector).sector = s.sector := rfl
@[simp] theorem raiseVector_scsize (s : State) (p func vector : Nat) : (raiseVector s p func vector).scsize = s.scsize := rfl
@[simp] theorem raiseVector_layers (s : State) (p func vector : Nat) : (raiseVector s p func vector).layers = s.layers := rfl
@[simp] theorem raiseVector_draining (s : State) (p func vector : Nat) : (raiseVector s p func vector).draining = s.draining := rfl
@[simp] theorem raiseVector_cxlBytes (s : State) (p func vector : Nat) : (raiseVector s p func vector).cxlBytes = s.cxlBytes := rfl
@[simp] theorem raiseVector_offlineDies (s : State) (p func vector : Nat) : (raiseVector s p func vector).offlineDies = s.offlineDies := rfl
@[simp] theorem raiseVector_freezing (s : State) (p func vector : Nat) : (raiseVector s p func vector).freezing = s.freezing := rfl
@[simp] theorem raiseVector_parts (s : State) (p func vector : Nat) : (raiseVector s p func vector).parts = s.parts := rfl
@[simp] theorem raiseVector_regions (s : State) (p func vector : Nat) : (raiseVector s p func vector).regions = s.regions := rfl
@[simp] theorem raiseVector_netbnd (s : State) (p func vector : Nat) : (raiseVector s p func vector).netbnd = s.netbnd := rfl
@[simp] theorem raiseVector_overhead (s : State) (p func vector : Nat) : (raiseVector s p func vector).overhead = s.overhead := rfl
@[simp] theorem raiseVector_stretchUntil (s : State) (p func vector : Nat) : (raiseVector s p func vector).stretchUntil = s.stretchUntil := rfl
@[simp] theorem raiseVector_stretch (s : State) (p func vector : Nat) : (raiseVector s p func vector).stretch = s.stretch := rfl
@[simp] theorem raiseVector_ballast (s : State) (p func vector : Nat) : (raiseVector s p func vector).ballast = s.ballast := rfl
@[simp] theorem raiseVector_powerUnit (s : State) (p func vector : Nat) : (raiseVector s p func vector).powerUnit = s.powerUnit := rfl
@[simp] theorem raiseVector_grains (s : State) (p func vector : Nat) : (raiseVector s p func vector).grains = s.grains := rfl
@[simp] theorem raiseVector_net (s : State) (p func vector : Nat) : (raiseVector s p func vector).net = s.net := rfl
@[simp] theorem raiseVector_responses (s : State) (p func vector : Nat) : (raiseVector s p func vector).responses = s.responses := rfl
@[simp] theorem raiseVector_otairReports (s : State) (p func vector : Nat) : (raiseVector s p func vector).otairReports = s.otairReports := rfl

/-! ### Reading a part after writing one -/

@[simp] theorem getCore_setCore_same (s : State) (k : Nat) (x : Core) : getCore (setCore s k x) k = x := by simp [getCore, setCore]
@[simp] theorem getCore_setCore_other (s : State) {j k : Nat} (x : Core) (h : j ≠ k) : getCore (setCore s k x) j = getCore s j := by simp [getCore, setCore, h]
@[simp] theorem getTile_setTile_same (s : State) (k : Nat) (x : MemTile) : getTile (setTile s k x) k = x := by simp [getTile, setTile]
@[simp] theorem getTile_setTile_other (s : State) {j k : Nat} (x : MemTile) (h : j ≠ k) : getTile (setTile s k x) j = getTile s j := by simp [getTile, setTile, h]
@[simp] theorem getSwitch_setSwitch_same (s : State) (k : Nat) (x : Switch) : getSwitch (setSwitch s k x) k = x := by simp [getSwitch, setSwitch]
@[simp] theorem getSwitch_setSwitch_other (s : State) {j k : Nat} (x : Switch) (h : j ≠ k) : getSwitch (setSwitch s k x) j = getSwitch s j := by simp [getSwitch, setSwitch, h]
@[simp] theorem getPair_setPair_same (s : State) (k : Nat) (x : Pair) : getPair (setPair s k x) k = x := by simp [getPair, setPair]
@[simp] theorem getPair_setPair_other (s : State) {j k : Nat} (x : Pair) (h : j ≠ k) : getPair (setPair s k x) j = getPair s j := by simp [getPair, setPair, h]
@[simp] theorem getQuad_setQuad_same (s : State) (k : Nat) (x : Quad) : getQuad (setQuad s k x) k = x := by simp [getQuad, setQuad]
@[simp] theorem getQuad_setQuad_other (s : State) {j k : Nat} (x : Quad) (h : j ≠ k) : getQuad (setQuad s k x) j = getQuad s j := by simp [getQuad, setQuad, h]
@[simp] theorem getPart_setPart_same (s : State) (k : Nat) (x : Partition) : getPart (setPart s k x) k = x := by simp [getPart, setPart]
@[simp] theorem getPart_setPart_other (s : State) {j k : Nat} (x : Partition) (h : j ≠ k) : getPart (setPart s k x) j = getPart s j := by simp [getPart, setPart, h]
@[simp] theorem getRegion_setRegion_same (s : State) (k : Nat) (x : Region) : getRegion (setRegion s k x) k = some x := by simp [getRegion, setRegion]
@[simp] theorem getRegion_setRegion_other (s : State) {j k : Nat} (x : Region) (h : j ≠ k) : getRegion (setRegion s k x) j = getRegion s j := by simp [getRegion, setRegion, h]
@[simp] theorem getLltc_modLltc_same (s : State) (k : Nat) (f : Lltc → Lltc) : getLltc (modLltc s k f) k = f (getLltc s k) := by simp [getLltc, modLltc]
@[simp] theorem getLltc_modLltc_other (s : State) {j k : Nat} (f : Lltc → Lltc) (h : j ≠ k) : getLltc (modLltc s k f) j = getLltc s j := by simp [getLltc, modLltc, h]
@[simp] theorem getSlice_modSlice_same (s : State) (k : Nat) (f : Slice → Slice) : getSlice (modSlice s k f) k = f (getSlice s k) := by simp [getSlice, modSlice]
@[simp] theorem getSlice_modSlice_other (s : State) {j k : Nat} (f : Slice → Slice) (h : j ≠ k) : getSlice (modSlice s k f) j = getSlice s j := by simp [getSlice, modSlice, h]
@[simp] theorem getEngine_modEngine_same (s : State) (k : Nat) (f : Engine → Engine) : getEngine (modEngine s k f) k = f (getEngine s k) := by simp [getEngine, modEngine]
@[simp] theorem getEngine_modEngine_other (s : State) {j k : Nat} (f : Engine → Engine) (h : j ≠ k) : getEngine (modEngine s k f) j = getEngine s j := by simp [getEngine, modEngine, h]

@[simp] theorem getCore_setTile (s : State) (k : Nat) (x : MemTile) (j : Nat) : getCore (setTile s k x) j = getCore s j := rfl
@[simp] theorem getCore_setSwitch (s : State) (k : Nat) (x : Switch) (j : Nat) : getCore (setSwitch s k x) j = getCore s j := rfl
@[simp] theorem getCore_setPair (s : State) (k : Nat) (x : Pair) (j : Nat) : getCore (setPair s k x) j = getCore s j := rfl
@[simp] theorem getCore_setQuad (s : State) (k : Nat) (x : Quad) (j : Nat) : getCore (setQuad s k x) j = getCore s j := rfl
@[simp] theorem getCore_setPart (s : State) (p : Nat) (x : Partition) (j : Nat) : getCore (setPart s p x) j = getCore s j := rfl
@[simp] theorem getCore_setRegion (s : State) (k : Nat) (r : Region) (j : Nat) : getCore (setRegion s k r) j = getCore s j := rfl
@[simp] theorem getCore_modLltc (s : State) (d : Nat) (f : Lltc → Lltc) (j : Nat) : getCore (modLltc s d f) j = getCore s j := rfl
@[simp] theorem getCore_modSlice (s : State) (k : Nat) (f : Slice → Slice) (j : Nat) : getCore (modSlice s k f) j = getCore s j := rfl
@[simp] theorem getCore_modEngine (s : State) (k : Nat) (f : Engine → Engine) (j : Nat) : getCore (modEngine s k f) j = getCore s j := rfl
@[simp] theorem getCore_setTSlot (s : State) (e n : Nat) (x : TSlot) (j : Nat) : getCore (setTSlot s e n x) j = getCore s j := rfl
@[simp] theorem getCore_setQueue (s : State) (p q : Nat) (x : Queue) (j : Nat) : getCore (setQueue s p q x) j = getCore s j := rfl
@[simp] theorem getCore_postMail (s : State) (part service : Nat) (l : List Word) (j : Nat) : getCore (postMail s part service l) j = getCore s j := rfl
@[simp] theorem getCore_postEngineError (s : State) (p cause addr pos inst func : Nat) (j : Nat) : getCore (postEngineError s p cause addr pos inst func) j = getCore s j := rfl
@[simp] theorem getCore_raiseVector (s : State) (p func vector : Nat) (j : Nat) : getCore (raiseVector s p func vector) j = getCore s j := rfl
@[simp] theorem getTile_setCore (s : State) (k : Nat) (c : Core) (j : Nat) : getTile (setCore s k c) j = getTile s j := rfl
@[simp] theorem getTile_setSwitch (s : State) (k : Nat) (x : Switch) (j : Nat) : getTile (setSwitch s k x) j = getTile s j := rfl
@[simp] theorem getTile_setPair (s : State) (k : Nat) (x : Pair) (j : Nat) : getTile (setPair s k x) j = getTile s j := rfl
@[simp] theorem getTile_setQuad (s : State) (k : Nat) (x : Quad) (j : Nat) : getTile (setQuad s k x) j = getTile s j := rfl
@[simp] theorem getTile_setPart (s : State) (p : Nat) (x : Partition) (j : Nat) : getTile (setPart s p x) j = getTile s j := rfl
@[simp] theorem getTile_setRegion (s : State) (k : Nat) (r : Region) (j : Nat) : getTile (setRegion s k r) j = getTile s j := rfl
@[simp] theorem getTile_setThread (s : State) (t : ThreadRef) (x : Thread) (j : Nat) : getTile (setThread s t x) j = getTile s j := rfl
@[simp] theorem getTile_modLltc (s : State) (d : Nat) (f : Lltc → Lltc) (j : Nat) : getTile (modLltc s d f) j = getTile s j := rfl
@[simp] theorem getTile_modSlice (s : State) (k : Nat) (f : Slice → Slice) (j : Nat) : getTile (modSlice s k f) j = getTile s j := rfl
@[simp] theorem getTile_modEngine (s : State) (k : Nat) (f : Engine → Engine) (j : Nat) : getTile (modEngine s k f) j = getTile s j := rfl
@[simp] theorem getTile_setTSlot (s : State) (e n : Nat) (x : TSlot) (j : Nat) : getTile (setTSlot s e n x) j = getTile s j := rfl
@[simp] theorem getTile_setQueue (s : State) (p q : Nat) (x : Queue) (j : Nat) : getTile (setQueue s p q x) j = getTile s j := rfl
@[simp] theorem getTile_postMail (s : State) (part service : Nat) (l : List Word) (j : Nat) : getTile (postMail s part service l) j = getTile s j := rfl
@[simp] theorem getTile_postEngineError (s : State) (p cause addr pos inst func : Nat) (j : Nat) : getTile (postEngineError s p cause addr pos inst func) j = getTile s j := rfl
@[simp] theorem getTile_raiseVector (s : State) (p func vector : Nat) (j : Nat) : getTile (raiseVector s p func vector) j = getTile s j := rfl
@[simp] theorem getSwitch_setCore (s : State) (k : Nat) (c : Core) (j : Nat) : getSwitch (setCore s k c) j = getSwitch s j := rfl
@[simp] theorem getSwitch_setTile (s : State) (k : Nat) (x : MemTile) (j : Nat) : getSwitch (setTile s k x) j = getSwitch s j := rfl
@[simp] theorem getSwitch_setPair (s : State) (k : Nat) (x : Pair) (j : Nat) : getSwitch (setPair s k x) j = getSwitch s j := rfl
@[simp] theorem getSwitch_setQuad (s : State) (k : Nat) (x : Quad) (j : Nat) : getSwitch (setQuad s k x) j = getSwitch s j := rfl
@[simp] theorem getSwitch_setPart (s : State) (p : Nat) (x : Partition) (j : Nat) : getSwitch (setPart s p x) j = getSwitch s j := rfl
@[simp] theorem getSwitch_setRegion (s : State) (k : Nat) (r : Region) (j : Nat) : getSwitch (setRegion s k r) j = getSwitch s j := rfl
@[simp] theorem getSwitch_setThread (s : State) (t : ThreadRef) (x : Thread) (j : Nat) : getSwitch (setThread s t x) j = getSwitch s j := rfl
@[simp] theorem getSwitch_modLltc (s : State) (d : Nat) (f : Lltc → Lltc) (j : Nat) : getSwitch (modLltc s d f) j = getSwitch s j := rfl
@[simp] theorem getSwitch_modSlice (s : State) (k : Nat) (f : Slice → Slice) (j : Nat) : getSwitch (modSlice s k f) j = getSwitch s j := rfl
@[simp] theorem getSwitch_modEngine (s : State) (k : Nat) (f : Engine → Engine) (j : Nat) : getSwitch (modEngine s k f) j = getSwitch s j := rfl
@[simp] theorem getSwitch_setTSlot (s : State) (e n : Nat) (x : TSlot) (j : Nat) : getSwitch (setTSlot s e n x) j = getSwitch s j := rfl
@[simp] theorem getSwitch_setQueue (s : State) (p q : Nat) (x : Queue) (j : Nat) : getSwitch (setQueue s p q x) j = getSwitch s j := rfl
@[simp] theorem getSwitch_postMail (s : State) (part service : Nat) (l : List Word) (j : Nat) : getSwitch (postMail s part service l) j = getSwitch s j := rfl
@[simp] theorem getSwitch_postEngineError (s : State) (p cause addr pos inst func : Nat) (j : Nat) : getSwitch (postEngineError s p cause addr pos inst func) j = getSwitch s j := rfl
@[simp] theorem getSwitch_raiseVector (s : State) (p func vector : Nat) (j : Nat) : getSwitch (raiseVector s p func vector) j = getSwitch s j := rfl
@[simp] theorem getPair_setCore (s : State) (k : Nat) (c : Core) (j : Nat) : getPair (setCore s k c) j = getPair s j := rfl
@[simp] theorem getPair_setTile (s : State) (k : Nat) (x : MemTile) (j : Nat) : getPair (setTile s k x) j = getPair s j := rfl
@[simp] theorem getPair_setSwitch (s : State) (k : Nat) (x : Switch) (j : Nat) : getPair (setSwitch s k x) j = getPair s j := rfl
@[simp] theorem getPair_setQuad (s : State) (k : Nat) (x : Quad) (j : Nat) : getPair (setQuad s k x) j = getPair s j := rfl
@[simp] theorem getPair_setPart (s : State) (p : Nat) (x : Partition) (j : Nat) : getPair (setPart s p x) j = getPair s j := rfl
@[simp] theorem getPair_setRegion (s : State) (k : Nat) (r : Region) (j : Nat) : getPair (setRegion s k r) j = getPair s j := rfl
@[simp] theorem getPair_setThread (s : State) (t : ThreadRef) (x : Thread) (j : Nat) : getPair (setThread s t x) j = getPair s j := rfl
@[simp] theorem getPair_modLltc (s : State) (d : Nat) (f : Lltc → Lltc) (j : Nat) : getPair (modLltc s d f) j = getPair s j := rfl
@[simp] theorem getPair_modSlice (s : State) (k : Nat) (f : Slice → Slice) (j : Nat) : getPair (modSlice s k f) j = getPair s j := rfl
@[simp] theorem getPair_modEngine (s : State) (k : Nat) (f : Engine → Engine) (j : Nat) : getPair (modEngine s k f) j = getPair s j := rfl
@[simp] theorem getPair_setTSlot (s : State) (e n : Nat) (x : TSlot) (j : Nat) : getPair (setTSlot s e n x) j = getPair s j := rfl
@[simp] theorem getPair_setQueue (s : State) (p q : Nat) (x : Queue) (j : Nat) : getPair (setQueue s p q x) j = getPair s j := rfl
@[simp] theorem getPair_postMail (s : State) (part service : Nat) (l : List Word) (j : Nat) : getPair (postMail s part service l) j = getPair s j := rfl
@[simp] theorem getPair_postEngineError (s : State) (p cause addr pos inst func : Nat) (j : Nat) : getPair (postEngineError s p cause addr pos inst func) j = getPair s j := rfl
@[simp] theorem getPair_raiseVector (s : State) (p func vector : Nat) (j : Nat) : getPair (raiseVector s p func vector) j = getPair s j := rfl
@[simp] theorem getQuad_setCore (s : State) (k : Nat) (c : Core) (j : Nat) : getQuad (setCore s k c) j = getQuad s j := rfl
@[simp] theorem getQuad_setTile (s : State) (k : Nat) (x : MemTile) (j : Nat) : getQuad (setTile s k x) j = getQuad s j := rfl
@[simp] theorem getQuad_setSwitch (s : State) (k : Nat) (x : Switch) (j : Nat) : getQuad (setSwitch s k x) j = getQuad s j := rfl
@[simp] theorem getQuad_setPair (s : State) (k : Nat) (x : Pair) (j : Nat) : getQuad (setPair s k x) j = getQuad s j := rfl
@[simp] theorem getQuad_setPart (s : State) (p : Nat) (x : Partition) (j : Nat) : getQuad (setPart s p x) j = getQuad s j := rfl
@[simp] theorem getQuad_setRegion (s : State) (k : Nat) (r : Region) (j : Nat) : getQuad (setRegion s k r) j = getQuad s j := rfl
@[simp] theorem getQuad_setThread (s : State) (t : ThreadRef) (x : Thread) (j : Nat) : getQuad (setThread s t x) j = getQuad s j := rfl
@[simp] theorem getQuad_modLltc (s : State) (d : Nat) (f : Lltc → Lltc) (j : Nat) : getQuad (modLltc s d f) j = getQuad s j := rfl
@[simp] theorem getQuad_modSlice (s : State) (k : Nat) (f : Slice → Slice) (j : Nat) : getQuad (modSlice s k f) j = getQuad s j := rfl
@[simp] theorem getQuad_modEngine (s : State) (k : Nat) (f : Engine → Engine) (j : Nat) : getQuad (modEngine s k f) j = getQuad s j := rfl
@[simp] theorem getQuad_setTSlot (s : State) (e n : Nat) (x : TSlot) (j : Nat) : getQuad (setTSlot s e n x) j = getQuad s j := rfl
@[simp] theorem getQuad_setQueue (s : State) (p q : Nat) (x : Queue) (j : Nat) : getQuad (setQueue s p q x) j = getQuad s j := rfl
@[simp] theorem getQuad_postMail (s : State) (part service : Nat) (l : List Word) (j : Nat) : getQuad (postMail s part service l) j = getQuad s j := rfl
@[simp] theorem getQuad_postEngineError (s : State) (p cause addr pos inst func : Nat) (j : Nat) : getQuad (postEngineError s p cause addr pos inst func) j = getQuad s j := rfl
@[simp] theorem getQuad_raiseVector (s : State) (p func vector : Nat) (j : Nat) : getQuad (raiseVector s p func vector) j = getQuad s j := rfl
@[simp] theorem getPart_setCore (s : State) (k : Nat) (c : Core) (j : Nat) : getPart (setCore s k c) j = getPart s j := rfl
@[simp] theorem getPart_setTile (s : State) (k : Nat) (x : MemTile) (j : Nat) : getPart (setTile s k x) j = getPart s j := rfl
@[simp] theorem getPart_setSwitch (s : State) (k : Nat) (x : Switch) (j : Nat) : getPart (setSwitch s k x) j = getPart s j := rfl
@[simp] theorem getPart_setPair (s : State) (k : Nat) (x : Pair) (j : Nat) : getPart (setPair s k x) j = getPart s j := rfl
@[simp] theorem getPart_setQuad (s : State) (k : Nat) (x : Quad) (j : Nat) : getPart (setQuad s k x) j = getPart s j := rfl
@[simp] theorem getPart_setRegion (s : State) (k : Nat) (r : Region) (j : Nat) : getPart (setRegion s k r) j = getPart s j := rfl
@[simp] theorem getPart_setThread (s : State) (t : ThreadRef) (x : Thread) (j : Nat) : getPart (setThread s t x) j = getPart s j := rfl
@[simp] theorem getPart_modLltc (s : State) (d : Nat) (f : Lltc → Lltc) (j : Nat) : getPart (modLltc s d f) j = getPart s j := rfl
@[simp] theorem getPart_modSlice (s : State) (k : Nat) (f : Slice → Slice) (j : Nat) : getPart (modSlice s k f) j = getPart s j := rfl
@[simp] theorem getPart_modEngine (s : State) (k : Nat) (f : Engine → Engine) (j : Nat) : getPart (modEngine s k f) j = getPart s j := rfl
@[simp] theorem getPart_setTSlot (s : State) (e n : Nat) (x : TSlot) (j : Nat) : getPart (setTSlot s e n x) j = getPart s j := rfl
@[simp] theorem getPart_postMail (s : State) (part service : Nat) (l : List Word) (j : Nat) : getPart (postMail s part service l) j = getPart s j := rfl
@[simp] theorem getPart_postEngineError (s : State) (p cause addr pos inst func : Nat) (j : Nat) : getPart (postEngineError s p cause addr pos inst func) j = getPart s j := rfl
@[simp] theorem getPart_raiseVector (s : State) (p func vector : Nat) (j : Nat) : getPart (raiseVector s p func vector) j = getPart s j := rfl
@[simp] theorem getRegion_setCore (s : State) (k : Nat) (c : Core) (j : Nat) : getRegion (setCore s k c) j = getRegion s j := rfl
@[simp] theorem getRegion_setTile (s : State) (k : Nat) (x : MemTile) (j : Nat) : getRegion (setTile s k x) j = getRegion s j := rfl
@[simp] theorem getRegion_setSwitch (s : State) (k : Nat) (x : Switch) (j : Nat) : getRegion (setSwitch s k x) j = getRegion s j := rfl
@[simp] theorem getRegion_setPair (s : State) (k : Nat) (x : Pair) (j : Nat) : getRegion (setPair s k x) j = getRegion s j := rfl
@[simp] theorem getRegion_setQuad (s : State) (k : Nat) (x : Quad) (j : Nat) : getRegion (setQuad s k x) j = getRegion s j := rfl
@[simp] theorem getRegion_setPart (s : State) (p : Nat) (x : Partition) (j : Nat) : getRegion (setPart s p x) j = getRegion s j := rfl
@[simp] theorem getRegion_setThread (s : State) (t : ThreadRef) (x : Thread) (j : Nat) : getRegion (setThread s t x) j = getRegion s j := rfl
@[simp] theorem getRegion_modLltc (s : State) (d : Nat) (f : Lltc → Lltc) (j : Nat) : getRegion (modLltc s d f) j = getRegion s j := rfl
@[simp] theorem getRegion_modSlice (s : State) (k : Nat) (f : Slice → Slice) (j : Nat) : getRegion (modSlice s k f) j = getRegion s j := rfl
@[simp] theorem getRegion_modEngine (s : State) (k : Nat) (f : Engine → Engine) (j : Nat) : getRegion (modEngine s k f) j = getRegion s j := rfl
@[simp] theorem getRegion_setTSlot (s : State) (e n : Nat) (x : TSlot) (j : Nat) : getRegion (setTSlot s e n x) j = getRegion s j := rfl
@[simp] theorem getRegion_setQueue (s : State) (p q : Nat) (x : Queue) (j : Nat) : getRegion (setQueue s p q x) j = getRegion s j := rfl
@[simp] theorem getRegion_postMail (s : State) (part service : Nat) (l : List Word) (j : Nat) : getRegion (postMail s part service l) j = getRegion s j := rfl
@[simp] theorem getRegion_postEngineError (s : State) (p cause addr pos inst func : Nat) (j : Nat) : getRegion (postEngineError s p cause addr pos inst func) j = getRegion s j := rfl
@[simp] theorem getRegion_raiseVector (s : State) (p func vector : Nat) (j : Nat) : getRegion (raiseVector s p func vector) j = getRegion s j := rfl
@[simp] theorem getLltc_setCore (s : State) (k : Nat) (c : Core) (j : Nat) : getLltc (setCore s k c) j = getLltc s j := rfl
@[simp] theorem getLltc_setTile (s : State) (k : Nat) (x : MemTile) (j : Nat) : getLltc (setTile s k x) j = getLltc s j := rfl
@[simp] theorem getLltc_setSwitch (s : State) (k : Nat) (x : Switch) (j : Nat) : getLltc (setSwitch s k x) j = getLltc s j := rfl
@[simp] theorem getLltc_setPair (s : State) (k : Nat) (x : Pair) (j : Nat) : getLltc (setPair s k x) j = getLltc s j := rfl
@[simp] theorem getLltc_setQuad (s : State) (k : Nat) (x : Quad) (j : Nat) : getLltc (setQuad s k x) j = getLltc s j := rfl
@[simp] theorem getLltc_setPart (s : State) (p : Nat) (x : Partition) (j : Nat) : getLltc (setPart s p x) j = getLltc s j := rfl
@[simp] theorem getLltc_setRegion (s : State) (k : Nat) (r : Region) (j : Nat) : getLltc (setRegion s k r) j = getLltc s j := rfl
@[simp] theorem getLltc_setThread (s : State) (t : ThreadRef) (x : Thread) (j : Nat) : getLltc (setThread s t x) j = getLltc s j := rfl
@[simp] theorem getLltc_modSlice (s : State) (k : Nat) (f : Slice → Slice) (j : Nat) : getLltc (modSlice s k f) j = getLltc s j := rfl
@[simp] theorem getLltc_modEngine (s : State) (k : Nat) (f : Engine → Engine) (j : Nat) : getLltc (modEngine s k f) j = getLltc s j := rfl
@[simp] theorem getLltc_setTSlot (s : State) (e n : Nat) (x : TSlot) (j : Nat) : getLltc (setTSlot s e n x) j = getLltc s j := rfl
@[simp] theorem getLltc_setQueue (s : State) (p q : Nat) (x : Queue) (j : Nat) : getLltc (setQueue s p q x) j = getLltc s j := rfl
@[simp] theorem getLltc_postMail (s : State) (part service : Nat) (l : List Word) (j : Nat) : getLltc (postMail s part service l) j = getLltc s j := rfl
@[simp] theorem getLltc_postEngineError (s : State) (p cause addr pos inst func : Nat) (j : Nat) : getLltc (postEngineError s p cause addr pos inst func) j = getLltc s j := rfl
@[simp] theorem getLltc_raiseVector (s : State) (p func vector : Nat) (j : Nat) : getLltc (raiseVector s p func vector) j = getLltc s j := rfl
@[simp] theorem getSlice_setCore (s : State) (k : Nat) (c : Core) (j : Nat) : getSlice (setCore s k c) j = getSlice s j := rfl
@[simp] theorem getSlice_setTile (s : State) (k : Nat) (x : MemTile) (j : Nat) : getSlice (setTile s k x) j = getSlice s j := rfl
@[simp] theorem getSlice_setSwitch (s : State) (k : Nat) (x : Switch) (j : Nat) : getSlice (setSwitch s k x) j = getSlice s j := rfl
@[simp] theorem getSlice_setPair (s : State) (k : Nat) (x : Pair) (j : Nat) : getSlice (setPair s k x) j = getSlice s j := rfl
@[simp] theorem getSlice_setQuad (s : State) (k : Nat) (x : Quad) (j : Nat) : getSlice (setQuad s k x) j = getSlice s j := rfl
@[simp] theorem getSlice_setPart (s : State) (p : Nat) (x : Partition) (j : Nat) : getSlice (setPart s p x) j = getSlice s j := rfl
@[simp] theorem getSlice_setRegion (s : State) (k : Nat) (r : Region) (j : Nat) : getSlice (setRegion s k r) j = getSlice s j := rfl
@[simp] theorem getSlice_setThread (s : State) (t : ThreadRef) (x : Thread) (j : Nat) : getSlice (setThread s t x) j = getSlice s j := rfl
@[simp] theorem getSlice_modLltc (s : State) (d : Nat) (f : Lltc → Lltc) (j : Nat) : getSlice (modLltc s d f) j = getSlice s j := rfl
@[simp] theorem getSlice_modEngine (s : State) (k : Nat) (f : Engine → Engine) (j : Nat) : getSlice (modEngine s k f) j = getSlice s j := rfl
@[simp] theorem getSlice_setTSlot (s : State) (e n : Nat) (x : TSlot) (j : Nat) : getSlice (setTSlot s e n x) j = getSlice s j := rfl
@[simp] theorem getSlice_setQueue (s : State) (p q : Nat) (x : Queue) (j : Nat) : getSlice (setQueue s p q x) j = getSlice s j := rfl
@[simp] theorem getSlice_postMail (s : State) (part service : Nat) (l : List Word) (j : Nat) : getSlice (postMail s part service l) j = getSlice s j := rfl
@[simp] theorem getSlice_postEngineError (s : State) (p cause addr pos inst func : Nat) (j : Nat) : getSlice (postEngineError s p cause addr pos inst func) j = getSlice s j := rfl
@[simp] theorem getSlice_raiseVector (s : State) (p func vector : Nat) (j : Nat) : getSlice (raiseVector s p func vector) j = getSlice s j := rfl
@[simp] theorem getEngine_setCore (s : State) (k : Nat) (c : Core) (j : Nat) : getEngine (setCore s k c) j = getEngine s j := rfl
@[simp] theorem getEngine_setTile (s : State) (k : Nat) (x : MemTile) (j : Nat) : getEngine (setTile s k x) j = getEngine s j := rfl
@[simp] theorem getEngine_setSwitch (s : State) (k : Nat) (x : Switch) (j : Nat) : getEngine (setSwitch s k x) j = getEngine s j := rfl
@[simp] theorem getEngine_setPair (s : State) (k : Nat) (x : Pair) (j : Nat) : getEngine (setPair s k x) j = getEngine s j := rfl
@[simp] theorem getEngine_setQuad (s : State) (k : Nat) (x : Quad) (j : Nat) : getEngine (setQuad s k x) j = getEngine s j := rfl
@[simp] theorem getEngine_setPart (s : State) (p : Nat) (x : Partition) (j : Nat) : getEngine (setPart s p x) j = getEngine s j := rfl
@[simp] theorem getEngine_setRegion (s : State) (k : Nat) (r : Region) (j : Nat) : getEngine (setRegion s k r) j = getEngine s j := rfl
@[simp] theorem getEngine_setThread (s : State) (t : ThreadRef) (x : Thread) (j : Nat) : getEngine (setThread s t x) j = getEngine s j := rfl
@[simp] theorem getEngine_modLltc (s : State) (d : Nat) (f : Lltc → Lltc) (j : Nat) : getEngine (modLltc s d f) j = getEngine s j := rfl
@[simp] theorem getEngine_modSlice (s : State) (k : Nat) (f : Slice → Slice) (j : Nat) : getEngine (modSlice s k f) j = getEngine s j := rfl
@[simp] theorem getEngine_setQueue (s : State) (p q : Nat) (x : Queue) (j : Nat) : getEngine (setQueue s p q x) j = getEngine s j := rfl
@[simp] theorem getEngine_postMail (s : State) (part service : Nat) (l : List Word) (j : Nat) : getEngine (postMail s part service l) j = getEngine s j := rfl
@[simp] theorem getEngine_postEngineError (s : State) (p cause addr pos inst func : Nat) (j : Nat) : getEngine (postEngineError s p cause addr pos inst func) j = getEngine s j := rfl
@[simp] theorem getEngine_raiseVector (s : State) (p func vector : Nat) (j : Nat) : getEngine (raiseVector s p func vector) j = getEngine s j := rfl

@[simp] theorem getThread_setTile (s : State) (k : Nat) (x : MemTile) (u : ThreadRef) : getThread (setTile s k x) u = getThread s u := rfl
@[simp] theorem getThread_setSwitch (s : State) (k : Nat) (x : Switch) (u : ThreadRef) : getThread (setSwitch s k x) u = getThread s u := rfl
@[simp] theorem getThread_setPair (s : State) (k : Nat) (x : Pair) (u : ThreadRef) : getThread (setPair s k x) u = getThread s u := rfl
@[simp] theorem getThread_setQuad (s : State) (k : Nat) (x : Quad) (u : ThreadRef) : getThread (setQuad s k x) u = getThread s u := rfl
@[simp] theorem getThread_setPart (s : State) (p : Nat) (x : Partition) (u : ThreadRef) : getThread (setPart s p x) u = getThread s u := rfl
@[simp] theorem getThread_setRegion (s : State) (k : Nat) (r : Region) (u : ThreadRef) : getThread (setRegion s k r) u = getThread s u := rfl
@[simp] theorem getThread_modLltc (s : State) (d : Nat) (f : Lltc → Lltc) (u : ThreadRef) : getThread (modLltc s d f) u = getThread s u := rfl
@[simp] theorem getThread_modSlice (s : State) (k : Nat) (f : Slice → Slice) (u : ThreadRef) : getThread (modSlice s k f) u = getThread s u := rfl
@[simp] theorem getThread_modEngine (s : State) (k : Nat) (f : Engine → Engine) (u : ThreadRef) : getThread (modEngine s k f) u = getThread s u := rfl
@[simp] theorem getThread_setTSlot (s : State) (e n : Nat) (x : TSlot) (u : ThreadRef) : getThread (setTSlot s e n x) u = getThread s u := rfl
@[simp] theorem getThread_setQueue (s : State) (p q : Nat) (x : Queue) (u : ThreadRef) : getThread (setQueue s p q x) u = getThread s u := rfl
@[simp] theorem getThread_postMail (s : State) (part service : Nat) (l : List Word) (u : ThreadRef) : getThread (postMail s part service l) u = getThread s u := rfl
@[simp] theorem getThread_postEngineError (s : State) (p cause addr pos inst func : Nat) (u : ThreadRef) : getThread (postEngineError s p cause addr pos inst func) u = getThread s u := rfl
@[simp] theorem getThread_raiseVector (s : State) (p func vector : Nat) (u : ThreadRef) : getThread (raiseVector s p func vector) u = getThread s u := rfl
@[simp] theorem getQueue_setCore (s : State) (k : Nat) (c : Core) (i j : Nat) : getQueue (setCore s k c) i j = getQueue s i j := rfl
@[simp] theorem getQueue_setTile (s : State) (k : Nat) (x : MemTile) (i j : Nat) : getQueue (setTile s k x) i j = getQueue s i j := rfl
@[simp] theorem getQueue_setSwitch (s : State) (k : Nat) (x : Switch) (i j : Nat) : getQueue (setSwitch s k x) i j = getQueue s i j := rfl
@[simp] theorem getQueue_setPair (s : State) (k : Nat) (x : Pair) (i j : Nat) : getQueue (setPair s k x) i j = getQueue s i j := rfl
@[simp] theorem getQueue_setQuad (s : State) (k : Nat) (x : Quad) (i j : Nat) : getQueue (setQuad s k x) i j = getQueue s i j := rfl
@[simp] theorem getQueue_setRegion (s : State) (k : Nat) (r : Region) (i j : Nat) : getQueue (setRegion s k r) i j = getQueue s i j := rfl
@[simp] theorem getQueue_setThread (s : State) (t : ThreadRef) (x : Thread) (i j : Nat) : getQueue (setThread s t x) i j = getQueue s i j := rfl
@[simp] theorem getQueue_modLltc (s : State) (d : Nat) (f : Lltc → Lltc) (i j : Nat) : getQueue (modLltc s d f) i j = getQueue s i j := rfl
@[simp] theorem getQueue_modSlice (s : State) (k : Nat) (f : Slice → Slice) (i j : Nat) : getQueue (modSlice s k f) i j = getQueue s i j := rfl
@[simp] theorem getQueue_modEngine (s : State) (k : Nat) (f : Engine → Engine) (i j : Nat) : getQueue (modEngine s k f) i j = getQueue s i j := rfl
@[simp] theorem getQueue_setTSlot (s : State) (e n : Nat) (x : TSlot) (i j : Nat) : getQueue (setTSlot s e n x) i j = getQueue s i j := rfl
@[simp] theorem getQueue_postMail (s : State) (part service : Nat) (l : List Word) (i j : Nat) : getQueue (postMail s part service l) i j = getQueue s i j := rfl
@[simp] theorem getQueue_postEngineError (s : State) (p cause addr pos inst func : Nat) (i j : Nat) : getQueue (postEngineError s p cause addr pos inst func) i j = getQueue s i j := rfl
@[simp] theorem getQueue_raiseVector (s : State) (p func vector : Nat) (i j : Nat) : getQueue (raiseVector s p func vector) i j = getQueue s i j := rfl
@[simp] theorem getTSlot_setCore (s : State) (k : Nat) (c : Core) (i j : Nat) : getTSlot (setCore s k c) i j = getTSlot s i j := rfl
@[simp] theorem getTSlot_setTile (s : State) (k : Nat) (x : MemTile) (i j : Nat) : getTSlot (setTile s k x) i j = getTSlot s i j := rfl
@[simp] theorem getTSlot_setSwitch (s : State) (k : Nat) (x : Switch) (i j : Nat) : getTSlot (setSwitch s k x) i j = getTSlot s i j := rfl
@[simp] theorem getTSlot_setPair (s : State) (k : Nat) (x : Pair) (i j : Nat) : getTSlot (setPair s k x) i j = getTSlot s i j := rfl
@[simp] theorem getTSlot_setQuad (s : State) (k : Nat) (x : Quad) (i j : Nat) : getTSlot (setQuad s k x) i j = getTSlot s i j := rfl
@[simp] theorem getTSlot_setPart (s : State) (p : Nat) (x : Partition) (i j : Nat) : getTSlot (setPart s p x) i j = getTSlot s i j := rfl
@[simp] theorem getTSlot_setRegion (s : State) (k : Nat) (r : Region) (i j : Nat) : getTSlot (setRegion s k r) i j = getTSlot s i j := rfl
@[simp] theorem getTSlot_setThread (s : State) (t : ThreadRef) (x : Thread) (i j : Nat) : getTSlot (setThread s t x) i j = getTSlot s i j := rfl
@[simp] theorem getTSlot_modLltc (s : State) (d : Nat) (f : Lltc → Lltc) (i j : Nat) : getTSlot (modLltc s d f) i j = getTSlot s i j := rfl
@[simp] theorem getTSlot_modSlice (s : State) (k : Nat) (f : Slice → Slice) (i j : Nat) : getTSlot (modSlice s k f) i j = getTSlot s i j := rfl
@[simp] theorem getTSlot_setQueue (s : State) (p q : Nat) (x : Queue) (i j : Nat) : getTSlot (setQueue s p q x) i j = getTSlot s i j := rfl
@[simp] theorem getTSlot_postMail (s : State) (part service : Nat) (l : List Word) (i j : Nat) : getTSlot (postMail s part service l) i j = getTSlot s i j := rfl
@[simp] theorem getTSlot_postEngineError (s : State) (p cause addr pos inst func : Nat) (i j : Nat) : getTSlot (postEngineError s p cause addr pos inst func) i j = getTSlot s i j := rfl
@[simp] theorem getTSlot_raiseVector (s : State) (p func vector : Nat) (i j : Nat) : getTSlot (raiseVector s p func vector) i j = getTSlot s i j := rfl

@[simp] theorem getThread_setThread_same (s : State) (t : ThreadRef) (x : Thread) : getThread (setThread s t x) t = x := by
  simp [getThread, setThread]

@[simp] theorem getThread_setThread_other (s : State) {t u : ThreadRef} (x : Thread) (h : u ≠ t) :
    getThread (setThread s t x) u = getThread s u := by
  obtain ⟨c, i⟩ := t
  obtain ⟨d, j⟩ := u
  simp only [getThread, setThread, modCore_eq]
  by_cases e : d = c
  · subst e
    have : j ≠ i := fun e => h (by rw [e])
    simp [this]
  · simp [e]

@[simp] theorem getCore_setThread_other (s : State) {t : ThreadRef} (x : Thread) {k : Nat} (h : k ≠ t.core) :
    getCore (setThread s t x) k = getCore s k := by simp [setThread, h]

@[simp] theorem getCore_setThread_same (s : State) (t : ThreadRef) (x : Thread) :
    getCore (setThread s t x) t.core = { getCore s t.core with slots := amInsert (getCore s t.core).slots t.slot x } := by
  simp [setThread]

/-- A write of a core with the same slots leaves every thread. -/
theorem getThread_setCore (s : State) (k : Nat) (c : Core) (h : c.slots = (getCore s k).slots) (u : ThreadRef) :
    getThread (setCore s k c) u = getThread s u := by
  unfold getThread
  by_cases e : u.core = k
  · rw [e, getCore_setCore_same, h]
  · rw [getCore_setCore_other s c e]

@[simp] theorem getQueue_setQueue_same (s : State) (p q : Nat) (x : Queue) : getQueue (setQueue s p q x) p q = x := by
  simp [getQueue, setQueue]

@[simp] theorem getTSlot_setTSlot_same (s : State) (e n : Nat) (x : TSlot) : getTSlot (setTSlot s e n x) e n = x := by
  simp [getTSlot, setTSlot]

/-- A change of the partition that leaves its queues alone leaves them. -/
theorem getQueue_setPart (s : State) (p : Nat) (x : Partition) (h : x.queues = (getPart s p).queues) (i j : Nat) :
    getQueue (setPart s p x) i j = getQueue s i j := by
  unfold getQueue
  by_cases e : i = p
  · rw [e, getPart_setPart_same, h]
  · rw [getPart_setPart_other s x e]

end Sys2Proof.Machine
end

