-- ==== Sys2Proof/Laws/Operands.lean ====
section
/-! SUPPORT. What each operand form does, in the vocabulary of claims: the ports that an instruction names, its sources, its
destinations, and its end. -/
namespace Sys2Proof.Machine
open Sys2Proof.Safety

/-! ### The monad -/

@[simp] theorem m_pure_run {α : Type} (a : α) (s : State) : (pure a : M α) s = .ok (a, s) := rfl

theorem m_bind_run {α β : Type} (m : M α) (f : α → M β) (s : State) :
    (m >>= f) s = (match m s with
      | .ok (a, t) => f a t
      | .error e => .error e) := by
  show (StateT.bind m f) s = _
  unfold StateT.bind
  cases h : m s <;> rfl

theorem m_bind_ok {α β : Type} {m : M α} {f : α → M β} {s t : State} {a : α} (h : m s = .ok (a, t)) : (m >>= f) s = f a t := by
  rw [m_bind_run, h]

theorem m_bind_error {α β : Type} {m : M α} {f : α → M β} {s : State} {e : Halt} (h : m s = .error e) :
    (m >>= f) s = .error e := by
  rw [m_bind_run, h]

@[simp] theorem getS_run (s : State) : getS s = .ok (s, s) := rfl
@[simp] theorem self_run (s : State) : self s = .ok (getThread s s.cur, s) := rfl
@[simp] theorem selfCore_run (s : State) : selfCore s = .ok (s.cur.core, s) := rfl
@[simp] theorem modS_run (f : State → State) (s : State) : modS f s = .ok ((), f s) := rfl
@[simp] theorem modSelf_run (f : Thread → Thread) (s : State) : modSelf f s = .ok ((), modThread s s.cur f) := rfl

@[simp] theorem trapM_run {α : Type} (c : Nat) (v : Word) (s : State) : (trapM c v : M α) s = .error (.trap c v id) := rfl
@[simp] theorem waitM_run {α : Type} (w : Wait) (s : State) : (waitM w : M α) s = .error (.wait w id) := rfl

/-! ### How an instruction ends -/

theorem finish_ok {len : Nat} {m : M (Option Word)} {s t : State} {pc : Option Word} (h : m s = .ok (pc, t)) :
    finish len m s = .next (retiredAt s t (pc.getD ((me s).pc + BitVec.ofNat 64 len))) := by
  unfold finish
  rw [h]
  rfl

theorem finish_trap {len : Nat} {m : M (Option Word)} {s : State} {c : Nat} {v : Word} {k : State → State}
    (h : m s = .error (.trap c v k)) : finish len m s = .next (takeTrap (k s) s.cur c v) := by
  simp [finish, h]

theorem finish_wait {len : Nat} {m : M (Option Word)} {s : State} {w : Wait} {k : State → State}
    (h : m s = .error (.wait w k)) : finish len m s = .next (blockThread (k s) s.cur w) := by
  simp [finish, h]

/-- An instruction of a program always has a next state. -/
theorem finish_next (len : Nat) (m : M (Option Word)) (s : State) : ∃ t, finish len m s = .next t := by
  unfold finish
  cases h : m s with
  | ok r => exact ⟨_, rfl⟩
  | error e => cases e <;> exact ⟨_, rfl⟩

theorem run4_ok {m : M Unit} {s t : State} (h : m s = .ok ((), t)) : run4 m s = .next (retired 4 s t) := by
  unfold run4
  rw [finish_ok (pc := none) (t := t) (by rw [m_bind_ok h]; rfl)]
  rfl

theorem run8_ok {m : M Unit} {s t : State} (h : m s = .ok ((), t)) : run8 m s = .next (retired 8 s t) := by
  unfold run8
  rw [finish_ok (pc := none) (t := t) (by rw [m_bind_ok h]; rfl)]
  rfl

theorem runJump_ok {m : M (Option Word)} {s t : State} {pc : Option Word} (h : m s = .ok (pc, t)) :
    runJump m s = .next (retiredAt s t (pc.getD ((me s).pc + 4))) := finish_ok h

theorem run4_trap {m : M Unit} {s : State} {c : Nat} {v : Word} {k : State → State} (h : m s = .error (.trap c v k)) :
    run4 m s = .next (takeTrap (k s) s.cur c v) := by
  unfold run4
  exact finish_trap (m_bind_error h)

theorem run4_wait {m : M Unit} {s : State} {w : Wait} {k : State → State} (h : m s = .error (.wait w k)) :
    run4 m s = .next (blockThread (k s) s.cur w) := by
  unfold run4
  exact finish_wait (m_bind_error h)

/-! ### Ports -/

theorem needPorts_ok {s : State} {gs vs gd vd : List Reg} (h : PortsReady s gs vs gd vd) :
    needPorts gs vs gd vd s = .ok ((), s) := by
  unfold needPorts
  rw [m_bind_ok (getS_run s)]
  simp [h.1, h.2]

theorem withPorts_ok {α : Type} {s t : State} {gs vs gd vd : List Reg} {m : M α} {a : α} (h : PortsReady s gs vs gd vd)
    (hm : m s = .ok (a, t)) : withPorts gs vs gd vd m s = .ok (a, t) := by
  simp [withPorts, needPorts_ok h, hm]

theorem withPorts_trap {α : Type} {s : State} {gs vs gd vd : List Reg} {m : M α} {c : Nat} {v : Word} {k : State → State}
    (h : PortsReady s gs vs gd vd) (hm : m s = .error (.trap c v k)) :
    withPorts gs vs gd vd m s = .error (.trap c v fun s => holdDirs (namedDirs (gs ++ gd) (vs ++ vd)) (k s)) := by
  simp [withPorts, needPorts_ok h, hm]

/-- Names no port. -/
theorem portsReady_nil (s : State) : PortsReady s [] [] [] [] := by
  constructor <;> simp [readBlocked, writeBlocked, popsOf]

theorem gPortDir_lt {r : Reg} (h : isGPort r = true) : gPortDir r < 5 := by
  simp [isGPort] at h
  unfold gPortDir
  omega

theorem vPortDir_lt {r : Reg} (h : isVPort r = true) : vPortDir r < 5 := by
  simp [isVPort] at h
  unfold vPortDir
  have := r.isLt
  omega

/-- How many words are ready in a receive FIFO of the executing core. -/
def readyIn (s : State) (dir : Nat) : Nat := fifoReady s.cycle (amGet (getSwitch s s.cur.core).recv dir {})

/-- Is there room for n words in a send FIFO of the executing core? -/
def roomFor (s : State) (dir n : Nat) : Bool := fifoRoom 4 s.cycle n (amGet (getSwitch s s.cur.core).send dir {})

theorem readBlocked_none {s : State} {gs vs : List Reg} (h : readBlocked s gs vs = none) {dir : Nat} (hd : dir < 5) :
    popsOf gs vs dir ≤ readyIn s dir := by
  unfold readBlocked at h
  rw [List.find?_eq_none] at h
  have := h dir (List.mem_range.2 hd)
  simp at this
  by_cases e : popsOf gs vs dir = 0
  · omega
  · exact (this e).2

theorem writeBlocked_none {s : State} {gd vd : List Reg} (h : writeBlocked s gd vd = none) {dir : Nat} (hd : dir < 5)
    (hn : popsOf gd vd dir ≠ 0) : roomFor s dir (popsOf gd vd dir) = true := by
  unfold writeBlocked at h
  rw [List.find?_eq_none] at h
  have := h dir (List.mem_range.2 hd)
  simp at this
  exact (this hn).2

theorem fifoHead_of_ready {now : Nat} {f : Fifo} (h : 1 ≤ fifoReady now f) :
    fifoHead now f = some (((f.words.head?).map (·.word)).getD {}) := by
  unfold fifoReady at h
  unfold fifoHead
  cases hw : f.words with
  | nil => simp [hw] at h
  | cons q t =>
    simp only [hw, List.takeWhile_cons] at h
    split at h
    · next hq => simp at hq; simp [hq]
    · simp at h

theorem fifoReady_pop (now : Nat) (f : Fifo) : fifoReady now f ≤ fifoReady now (fifoPop now f) + 1 := by
  unfold fifoReady fifoPop
  cases f.words with
  | nil => simp
  | cons q t =>
    simp only [List.takeWhile_cons, List.tail_cons]
    split <;> simp

@[simp] theorem dropWord_cur (s : State) (dir : Nat) : (dropWord s dir).cur = s.cur := rfl
@[simp] theorem dropWord_cycle (s : State) (dir : Nat) : (dropWord s dir).cycle = s.cycle := rfl
@[simp] theorem pushWord_cur (s : State) (dir : Nat) (w : LinkWord) : (pushWord s dir w).cur = s.cur := rfl
@[simp] theorem pushWord_cycle (s : State) (dir : Nat) (w : LinkWord) : (pushWord s dir w).cycle = s.cycle := rfl
@[simp] theorem me_dropWord (s : State) (dir : Nat) : me (dropWord s dir) = me s := rfl
@[simp] theorem me_pushWord (s : State) (dir : Nat) (w : LinkWord) : me (pushWord s dir w) = me s := rfl
@[simp] theorem afterG_cur (s : State) (r : Reg) : (afterG s r).cur = s.cur := by unfold afterG; split <;> rfl
@[simp] theorem afterG_cycle (s : State) (r : Reg) : (afterG s r).cycle = s.cycle := by unfold afterG; split <;> rfl
@[simp] theorem me_afterG (s : State) (r : Reg) : me (afterG s r) = me s := by unfold afterG; split <;> rfl
@[simp] theorem afterV_cur (s : State) (r : Reg) : (afterV s r).cur = s.cur := by unfold afterV; split <;> rfl
@[simp] theorem afterV_cycle (s : State) (r : Reg) : (afterV s r).cycle = s.cycle := by unfold afterV; split <;> rfl
@[simp] theorem me_afterV (s : State) (r : Reg) : me (afterV s r) = me s := by unfold afterV; split <;> rfl
@[simp] theorem giveG_cur (s : State) (r : Reg) (v : Word) : (giveG s r v).cur = s.cur := by unfold giveG; split <;> rfl
@[simp] theorem giveG_cycle (s : State) (r : Reg) (v : Word) : (giveG s r v).cycle = s.cycle := by unfold giveG; split <;> rfl

theorem popPort_ok {s : State} {dir : Nat} (h : 1 ≤ readyIn s dir) : popPort dir s = .ok (frontWord s dir, dropWord s dir) := by
  unfold popPort
  rw [m_bind_ok (getS_run s)]
  simp only [fifoHead_of_ready h]
  rfl

theorem pushPort_ok {s : State} {dir : Nat} {w : LinkWord} (h : roomFor s dir 1 = true) :
    pushPort dir w s = .ok ((), pushWord s dir w) := by
  unfold pushPort
  rw [m_bind_ok (getS_run s)]
  have h' : fifoRoom 4 s.cycle 1 (amGet (getSwitch s s.cur.core).send dir {}) = true := h
  simp only [h', if_true]
  rfl

@[simp] theorem roomFor_dropWord (s : State) (d dir n : Nat) : roomFor (dropWord s d) dir n = roomFor s dir n := by
  simp [roomFor, dropWord]

theorem readyIn_dropWord_same (s : State) (dir : Nat) : readyIn s dir ≤ readyIn (dropWord s dir) dir + 1 := by
  have := fifoReady_pop s.cycle (amGet (getSwitch s s.cur.core).recv dir {})
  simpa [readyIn, dropWord] using this

theorem readyIn_dropWord_other (s : State) {d dir : Nat} (h : dir ≠ d) : readyIn (dropWord s d) dir = readyIn s dir := by
  simp [readyIn, dropWord, h]

theorem roomFor_mono {s : State} {dir m n : Nat} (h : m ≤ n) (hn : roomFor s dir n = true) : roomFor s dir m = true := by
  simp [roomFor, fifoRoom] at hn ⊢
  omega

theorem roomFor_pushWord (s : State) (dir : Nat) (w : LinkWord) (h : roomFor s dir 2 = true) :
    roomFor (pushWord s dir w) dir 1 = true := by
  simp [roomFor, fifoRoom, pushWord, fifoPush] at h ⊢
  omega

/-! ### Operands -/

theorem readG_ok {s : State} {r : Reg} (h : isGPort r = true → 1 ≤ readyIn s (gPortDir r)) :
    readG r s = .ok (valueG s r, afterG s r) := by
  unfold readG valueG afterG
  cases e : isGPort r with
  | true => simp [m_bind_ok (popPort_ok (h e))]
  | false => simp [m_bind_ok (self_run s), me]

theorem writeG_ok {s : State} {r : Reg} {v : Word} (h : isGPort r = true → roomFor s (gPortDir r) 1 = true) :
    writeG r v s = .ok ((), giveG s r v) := by
  unfold writeG giveG
  cases e : isGPort r with
  | true => simp [pushPort_ok (h e)]
  | false => simp

theorem readV_ok {s : State} {r : Reg} (h : isVPort r = true → 2 ≤ readyIn s (vPortDir r)) (ht : TagsAgree s r) :
    readV r s = .ok (valueV s r, afterV s r) := by
  unfold readV valueV afterV
  cases e : isVPort r with
  | false => simp [m_bind_ok (self_run s), me]
  | true =>
    have h2 := h e
    have h3 := readyIn_dropWord_same s (vPortDir r)
    have := ht e
    simp [m_bind_ok (popPort_ok (show 1 ≤ readyIn s (vPortDir r) by omega)),
      m_bind_ok (popPort_ok (show 1 ≤ readyIn (dropWord s (vPortDir r)) (vPortDir r) by omega)), this]

theorem writeV_ok {s : State} {r : Reg} {v : VReg} (h : isVPort r = true → roomFor s (vPortDir r) 2 = true) :
    writeV r v s = .ok ((), giveV s r v) := by
  unfold writeV giveV
  cases e : isVPort r with
  | false => simp
  | true =>
    have h2 := h e
    simp [m_bind_ok (pushPort_ok (w := (splitWords v).1) (roomFor_mono (by omega) h2)),
      pushPort_ok (roomFor_pushWord s (vPortDir r) (splitWords v).1 h2)]

theorem readyIn_afterG (s : State) (r : Reg) (dir : Nat) :
    readyIn s dir ≤ readyIn (afterG s r) dir + (if isGPort r && gPortDir r == dir then 1 else 0) := by
  unfold afterG
  by_cases e : isGPort r = true
  · by_cases d : gPortDir r = dir
    · subst d
      simpa [e] using readyIn_dropWord_same s (gPortDir r)
    · simp [e, d, readyIn_dropWord_other s (Ne.symm d)]
  · simp [e]

theorem readyIn_afterV (s : State) (r : Reg) (dir : Nat) :
    readyIn s dir ≤ readyIn (afterV s r) dir + (if isVPort r && vPortDir r == dir then 2 else 0) := by
  unfold afterV
  by_cases e : isVPort r = true
  · by_cases d : vPortDir r = dir
    · subst d
      have h1 := readyIn_dropWord_same s (vPortDir r)
      have h2 := readyIn_dropWord_same (dropWord s (vPortDir r)) (vPortDir r)
      simp [e]
      omega
    · simp [e, readyIn_dropWord_other _ (Ne.symm d)]
  · simp [e]

@[simp] theorem roomFor_afterG (s : State) (r : Reg) (dir n : Nat) : roomFor (afterG s r) dir n = roomFor s dir n := by
  unfold afterG; split <;> simp

@[simp] theorem roomFor_afterV (s : State) (r : Reg) (dir n : Nat) : roomFor (afterV s r) dir n = roomFor s dir n := by
  unfold afterV; split <;> simp

theorem popsOf_cons_g (r : Reg) (gs vs : List Reg) (dir : Nat) :
    popsOf (r :: gs) vs dir = popsOf gs vs dir + (if isGPort r && gPortDir r == dir then 1 else 0) := by
  simp only [popsOf, List.filter_cons]
  split
  · simp
    omega
  · simp

theorem popsOf_cons_v (r : Reg) (gs vs : List Reg) (dir : Nat) :
    popsOf gs (r :: vs) dir = popsOf gs vs dir + (if isVPort r && vPortDir r == dir then 2 else 0) := by
  simp only [popsOf, List.filter_cons]
  split
  · simp
    omega
  · simp

/-- Enough words are ready for sources that are still to be read. -/
def SourcesReady (s : State) (gs vs : List Reg) : Prop := ∀ dir, dir < 5 → popsOf gs vs dir ≤ readyIn s dir

/-- There is room for destinations that are still to be written. -/
def RoomReady (s : State) (gd vd : List Reg) : Prop := ∀ dir, dir < 5 → popsOf gd vd dir ≠ 0 → roomFor s dir (popsOf gd vd dir) = true

end Sys2Proof.Machine

namespace Sys2Proof.Safety
open Sys2Proof.Machine

theorem PortsReady.sources {s : State} {gs vs gd vd : List Reg} (h : PortsReady s gs vs gd vd) : SourcesReady s gs vs :=
  fun _ hd => readBlocked_none h.1 hd

theorem PortsReady.room {s : State} {gs vs gd vd : List Reg} (h : PortsReady s gs vs gd vd) : RoomReady s gd vd :=
  fun _ hd hn => writeBlocked_none h.2 hd hn

end Sys2Proof.Safety

namespace Sys2Proof.Machine
open Sys2Proof.Safety

/-- The first general source is read; the others are as ready as they must be. -/
theorem SourcesReady.takeG {s : State} {r : Reg} {gs vs : List Reg} (h : SourcesReady s (r :: gs) vs) :
    readG r s = .ok (valueG s r, afterG s r) ∧ SourcesReady (afterG s r) gs vs := by
  constructor
  · apply readG_ok
    intro e
    have := h _ (gPortDir_lt e)
    rw [popsOf_cons_g] at this
    simp [e] at this
    omega
  · intro dir hd
    have h1 := h dir hd
    have h2 := readyIn_afterG s r dir
    rw [popsOf_cons_g] at h1
    omega

/-- The first vector source is read. -/
theorem SourcesReady.takeV {s : State} {r : Reg} {gs vs : List Reg} (h : SourcesReady s gs (r :: vs)) (ht : TagsAgree s r) :
    readV r s = .ok (valueV s r, afterV s r) ∧ SourcesReady (afterV s r) gs vs := by
  constructor
  · refine readV_ok (fun e => ?_) ht
    have := h _ (vPortDir_lt e)
    rw [popsOf_cons_v] at this
    simp [e] at this
    omega
  · intro dir hd
    have h1 := h dir hd
    have h2 := readyIn_afterV s r dir
    rw [popsOf_cons_v] at h1
    omega

theorem RoomReady.afterG {s : State} {gd vd : List Reg} (h : RoomReady s gd vd) (r : Reg) : RoomReady (afterG s r) gd vd := by
  intro dir hd hn
  rw [roomFor_afterG]
  exact h dir hd hn

theorem RoomReady.afterV {s : State} {gd vd : List Reg} (h : RoomReady s gd vd) (r : Reg) : RoomReady (afterV s r) gd vd := by
  intro dir hd hn
  rw [roomFor_afterV]
  exact h dir hd hn

/-- The one general destination is written. -/
theorem RoomReady.giveG {s : State} {r : Reg} (h : RoomReady s [r] []) (v : Word) : writeG r v s = .ok ((), giveG s r v) := by
  apply writeG_ok
  intro e
  have := h _ (gPortDir_lt e)
  rw [popsOf_cons_g] at this
  simpa [e, popsOf] using this

/-- The one vector destination is written. -/
theorem RoomReady.giveV {s : State} {r : Reg} (h : RoomReady s [] [r]) (v : VReg) : writeV r v s = .ok ((), giveV s r v) := by
  apply writeV_ok
  intro e
  have := h _ (vPortDir_lt e)
  rw [popsOf_cons_v] at this
  simpa [e, popsOf] using this

end Sys2Proof.Machine
end

