-- ==== Sys2Proof/Laws/Access.lean ====
section
/-! SUPPORT. What plain loads and stores and the restartable forms do, in the vocabulary of claims (R153 to R159). -/
namespace Sys2Proof.Machine
open Sys2Proof.Safety

/-! ### A cached translation -/

theorem isLocal_of_isGlobal {ea : Word} (h : isGlobal ea = true) : isLocal ea = false := by
  simp [isGlobal, isLocal, fieldOf, bitsOf] at *
  omega

@[simp] theorem fillL1_cur (s : State) (core : Nat) (f : Bool) (e : TlbEntry) : (fillL1 s core f e).cur = s.cur := rfl
@[simp] theorem fillL1_defer (s : State) (core : Nat) (f : Bool) (e : TlbEntry) : (fillL1 s core f e).defer = s.defer := rfl
@[simp] theorem fillL2_cur (s : State) (q : Nat) (e : TlbEntry) : (fillL2 s q e).cur = s.cur := rfl
@[simp] theorem fillL2_defer (s : State) (q : Nat) (e : TlbEntry) : (fillL2 s q e).defer = s.defer := rfl
@[simp] theorem fillLltc_cur (s : State) (d : Nat) (e : TlbEntry) : (fillLltc s d e).cur = s.cur := by unfold fillLltc; split <;> rfl
@[simp] theorem fillLltc_defer (s : State) (d : Nat) (e : TlbEntry) : (fillLltc s d e).defer = s.defer := by
  unfold fillLltc; split <;> rfl

@[simp] theorem getThread_fillL1 (s : State) (core : Nat) (f : Bool) (e : TlbEntry) (t : ThreadRef) :
    getThread (fillL1 s core f e) t = getThread s t := by
  unfold fillL1 getThread
  by_cases h : t.core = core
  · subst h; cases f <;> simp
  · simp [h]

@[simp] theorem getThread_fillL2 (s : State) (q : Nat) (e : TlbEntry) (t : ThreadRef) : getThread (fillL2 s q e) t = getThread s t := rfl
@[simp] theorem getThread_fillLltc (s : State) (d : Nat) (e : TlbEntry) (t : ThreadRef) :
    getThread (fillLltc s d e) t = getThread s t := by unfold fillLltc; split <;> rfl

/-- A look-up changes caches alone: the thread, its turn and every context are as before. -/
theorem cacheLookup_keeps (s : State) (core func va : Nat) (w f a : Bool) :
    (cacheLookup s core func va w f a).1.cur = s.cur ∧ (cacheLookup s core func va w f a).1.defer = s.defer ∧
      ∀ t, getThread (cacheLookup s core func va w f a).1 t = getThread s t := by
  unfold cacheLookup
  simp only
  split
  · simp
  · split
    · simp
    · split
      · unfold fillFromLltc
        simp only
        split <;> simp
      · simp

theorem hit_cur {s u : State} {va : Nat} {w : Bool} {e : TlbEntry} (h : Hit s u va w e) : u.cur = s.cur := by
  have := (cacheLookup_keeps s s.cur.core (me s).func va w false (!modeSys (me s))).1
  rw [h] at this; exact this

theorem hit_defer {s u : State} {va : Nat} {w : Bool} {e : TlbEntry} (h : Hit s u va w e) : u.defer = s.defer := by
  have := (cacheLookup_keeps s s.cur.core (me s).func va w false (!modeSys (me s))).2.1
  rw [h] at this; exact this

theorem hit_thread {s u : State} {va : Nat} {w : Bool} {e : TlbEntry} (h : Hit s u va w e) (t : ThreadRef) :
    getThread u t = getThread s t := by
  have := (cacheLookup_keeps s s.cur.core (me s).func va w false (!modeSys (me s))).2.2 t
  rw [h] at this; exact this

theorem hit_me {s u : State} {va : Nat} {w : Bool} {e : TlbEntry} (h : Hit s u va w e) : Safety.me u = Safety.me s := by
  unfold Safety.me
  rw [hit_cur h, hit_thread h]

theorem hit_answered {s u : State} {va : Nat} {w : Bool} {e : TlbEntry} (h : Hit s u va w e) (a : Answered s) : Answered u := by
  unfold Answered
  rw [hit_defer h, hit_me h]
  exact a

/-- An instruction's work on one cached translation. -/
theorem withXlates_hit {α : Type} {s u t : State} {va : Nat} {w coh : Bool} {e : TlbEntry} {k : List TlbEntry → M α} {a : α}
    (h : Hit s u va w e) (hk : k [e] u = .ok (a, t)) : withXlates [va] w coh k s = .ok (a, t) := by
  have h' : threadXlate s s.cur va w false coh = (u, .ok e) := by
    unfold threadXlate
    have := h
    unfold Hit Safety.me at this
    simp [this]
  simp [withXlates, threadXlates, h', hk]

theorem variableLatency_ok {s : State} (h : Answered s) : variableLatency s = .ok ((), s) := by
  unfold variableLatency
  rw [m_bind_ok (getS_run s), m_bind_ok (self_run s)]
  unfold Answered Safety.me at h
  cases hd : s.defer with
  | false => simp only [Bool.false_eq_true, if_false]; cases (getThread s s.cur).wait <;> rfl
  | true => simp [h.resolve_left (by simp [hd])]

theorem resolveM_local {s : State} {ea val : Word} {n off : Nat} {o : LObj} (h : LocalRange s ea n o off) :
    resolveM ea n val s = .ok (.loc o off, s) := by
  unfold resolveM
  rw [m_bind_ok (getS_run s), h.2.1]
  cases o <;> first | rfl | exact absurd rfl (h.2.2 _)

theorem resolveM_global {s : State} {ea val : Word} {n : Nat} (h : isGlobal ea = true) :
    resolveM ea n val s = .ok (.glob ea.toNat, s) := by
  unfold resolveM
  rw [m_bind_ok (getS_run s)]
  simp [resolve, isLocal_of_isGlobal h, h]

theorem requireLocalRange_ok {s : State} {ea val : Word} {n : Nat} (h : RangeOk s ea n) : requireLocalRange ea n val s = .ok ((), s) := by
  unfold requireLocalRange
  cases hl : isLocal ea with
  | false => rfl
  | true =>
    obtain ⟨o, off, ho⟩ := h hl
    simp only [if_true]
    rw [m_bind_ok (resolveM_local ho)]
    rfl

theorem requireAligned_ok {s : State} {n : Nat} {ea : Word} (h : ea.toNat % n = 0) : requireAligned n ea s = .ok ((), s) := by
  simp [requireAligned, h]

/-! ### Loads -/

theorem localLatency_ok {s : State} {o : LObj} (h : o = .scratch s.cur.core ∨ Answered s) : localLatency o s = .ok ((), s) := by
  unfold localLatency
  rcases h with rfl | h
  · simp only
    rw [m_bind_ok (selfCore_run s)]
    simp
  · cases o with
    | scratch k =>
      simp only
      rw [m_bind_ok (selfCore_run s)]
      split
      · rfl
      · exact variableLatency_ok h
    | _ => exact variableLatency_ok h

/-- A load that is ready goes on with its bytes in the state it leaves. -/
theorem loadPiece_ok {α : Type} {s t r : State} {ea val : Word} {n : Nat} {l : List Byte} {k : List Byte → M α} {a : α}
    (h : LoadReady s ea n l t) (hk : k l t = .ok (a, r)) : loadPiece ea n val k s = .ok (a, r) := by
  unfold loadPiece
  obtain ⟨-, ⟨o, off, hl, hw, hr, rfl⟩ | ⟨hg, ha, u, e, hit, rfl, hr⟩⟩ := h
  · rw [m_bind_ok (resolveM_local hl)]
    simp only
    rw [m_bind_ok (localLatency_ok hw), m_bind_ok (getS_run t)]
    simp only [hr]
    exact hk
  · rw [m_bind_ok (resolveM_global hg)]
    simp only
    refine withXlates_hit hit ?_
    rw [m_bind_ok (variableLatency_ok (hit_answered hit ha)), m_bind_ok (modS_run _ _), m_bind_ok (getS_run _)]
    simp only [List.headD_cons]
    unfold Safety.me at hr hk
    simp only [hr]
    exact hk

theorem loadPieces_ok {α : Type} {s t r : State} {ps : List (Word × Nat)} {val : Word × Nat → Word} {acc l : List Byte}
    {k : List Byte → M α} {a : α} (h : LoadsAll s ps l t) (hk : k (acc ++ l) t = .ok (a, r)) :
    loadPieces (ps.map fun q => (q.1, q.2, val q)) acc k s = .ok (a, r) := by
  induction ps generalizing s acc l with
  | nil =>
    obtain ⟨rfl, rfl⟩ := h
    simpa [loadPieces] using hk
  | cons q rest ih =>
    obtain ⟨b, c, u, rfl, h1, h2⟩ := h
    simp only [List.map_cons, loadPieces]
    exact loadPiece_ok h1 (ih h2 (by simpa using hk))

/-- A plain load of any length. -/
theorem loadBytes_ok {α : Type} {s t r : State} {ea val : Word} {n : Nat} {l : List Byte} {k : List Byte → M α} {a : α}
    (h : Loads s ea n l t) (hk : k l t = .ok (a, r)) : loadBytes ea n val k s = .ok (a, r) :=
  loadPieces_ok (val := fun _ => val) h (by simpa using hk)

theorem loadsAll_length {s t : State} {ps : List (Word × Nat)} {l : List Byte} (h : LoadsAll s ps l t) :
    l.length = (ps.map (·.2)).sum := by
  induction ps generalizing s l with
  | nil => simp [h.1]
  | cons q rest ih =>
    obtain ⟨b, c, u, rfl, h1, h2⟩ := h
    simp [h1.1, ih h2]

/-! ### Stores -/

theorem storeThen_ok {α : Type} {s t r : State} {ea val : Word} {l : List Byte} {skip : Nat} {k : M α} {a : α}
    (h : StoreReady s ea l skip t) (hk : k t = .ok (a, r)) : storeThen ea l skip val k s = .ok (a, r) := by
  unfold storeThen
  obtain ⟨o, off, hl, rfl⟩ | ⟨hg, u, e, hit, rfl⟩ := h
  · rw [m_bind_ok (resolveM_local hl)]
    simp only
    rw [m_bind_ok (modS_run _ _)]
    exact hk
  · rw [m_bind_ok (resolveM_global hg)]
    simp only
    refine withXlates_hit hit ?_
    rw [m_bind_ok (modS_run _ _)]
    exact hk

theorem storePiece_ok {s t : State} {ea val : Word} {l : List Byte} {skip : Nat} (h : StoreReady s ea l skip t) :
    storePiece ea l skip val s = .ok ((), t) := storeThen_ok h rfl

/-! ### Restartable forms -/

/-- Steps done one after the other. -/
def StepsOk : List (M Unit) → State → State → Prop
  | [], s, t => t = s
  | m :: rest, s, t => ∃ u, m s = .ok ((), u) ∧ StepsOk rest u t

/-- A restartable form whose steps can all be done leaves MPROG zero. -/
theorem restartable_ok {l : List (Nat × M Unit)} {s t : State} (h : StepsOk (l.map (·.2)) s t) :
    restartable l s = .ok ((), progDone t) := by
  induction l generalizing s with
  | nil => obtain rfl := h; rfl
  | cons q rest ih =>
    obtain ⟨u, h1, h2⟩ := h
    simp [restartable, h1, ih h2]

theorem progress_run (s : State) : progress s = .ok (prog s, s) := rfl

theorem storesAll_steps {s t : State} {l : List (Word × List Byte × Nat)} (h : StoresAll s l t) (val : Word × List Byte × Nat → Word) :
    StepsOk (l.map fun q => storePiece q.1 q.2.1 q.2.2 (val q)) s t := by
  induction l generalizing s with
  | nil => exact h
  | cons q rest ih =>
    obtain ⟨u, h1, h2⟩ := h
    exact ⟨u, storePiece_ok h1, ih h2⟩

end Sys2Proof.Machine
end

