-- ==== Sys2Proof/Laws/PerInstr.lean ====
section
/-! SUPPORT. One law per instruction, about its words: the row that the major and function fields of an instruction's words select
is the instruction itself, whatever its operands, and the first word says how many words there are (R9 to R24). -/
namespace Sys2Proof.Laws
set_option Elab.async false

/-- A field that lies in the low part of two joined words. -/
theorem extract_low {n m s k : Nat} {x : BitVec n} {y : BitVec m} {z : BitVec k} (e : y.extractLsb' s k = z)
    (h : s + k ≤ m := by decide) : (x ++ y).extractLsb' s k = z := by
  rw [← e]
  apply BitVec.eq_of_getLsbD_eq
  intro i hi
  simp only [BitVec.getLsbD_extractLsb', BitVec.getLsbD_append, hi]
  rw [if_pos (by omega)]

/-- A field that lies in the high part of two joined words. -/
theorem extract_high {n m s k : Nat} {x : BitVec n} {y : BitVec m} {z : BitVec k} (e : x.extractLsb' (s - m) k = z)
    (h : m ≤ s := by decide) : (x ++ y).extractLsb' s k = z := by
  rw [← e]
  apply BitVec.eq_of_getLsbD_eq
  intro i hi
  simp only [BitVec.getLsbD_extractLsb', BitVec.getLsbD_append, hi]
  rw [if_neg (by omega)]
  congr 2
  omega

/-- A whole word as a field of itself. -/
theorem extract_all {n : Nat} {x : BitVec n} : x.extractLsb' 0 n = x := by simp

/-- The law: one word that is no first word of two, or two words, and either way the row that they select is the instruction. -/
def RoundTrip.Statement (i : Instr) : Prop :=
  (∀ w, encode i = [w] → isLong w = false ∧ candidate w 0 = some i) ∧
    (∀ w v, encode i = [w, v] → isLong w = true ∧ candidate w v = some i) ∧ (encode i).length ≤ 2

theorem RoundTrip.of_one {i : Instr} {w : Word32} (he : encode i = [w]) (hl : isLong w = false) (hc : candidate w 0 = some i) :
    RoundTrip.Statement i := by
  refine ⟨fun x hx => ?_, fun x y hx => ?_, ?_⟩ <;> simp_all

theorem RoundTrip.of_two {i : Instr} {w v : Word32} (he : encode i = [w, v]) (hl : isLong w = true) (hc : candidate w v = some i) :
    RoundTrip.Statement i := by
  refine ⟨fun x hx => ?_, fun x y hx => ?_, ?_⟩ <;> simp_all

theorem RoundTrip.of_none {i : Instr} (he : encode i = []) : RoundTrip.Statement i := by
  refine ⟨fun x hx => ?_, fun x y hx => ?_, ?_⟩ <;> simp_all

theorem RoundTrip.isLong_major {w : Word32} {m : BitVec 6} (h : w.extractLsb' 26 6 = m) :
    isLong w = (m.toNat == 0x28 || m.toNat == 0x2C || m.toNat == 0x2E) := by
  unfold isLong
  rw [h]

theorem RoundTrip.major01 {w v : Word32} (h : w.extractLsb' 26 6 = 0x1#6) : candidate w v = candidate01 w := by
  delta candidate
  rw [h]
  rfl

theorem RoundTrip.major02 {w v : Word32} (h : w.extractLsb' 26 6 = 0x2#6) : candidate w v = candidate02 w := by
  delta candidate
  rw [h]
  rfl

theorem RoundTrip.major03 {w v : Word32} (h : w.extractLsb' 26 6 = 0x3#6) : candidate w v = candidate03 w := by
  delta candidate
  rw [h]
  rfl

theorem RoundTrip.major04 {w v : Word32} (h : w.extractLsb' 26 6 = 0x4#6) : candidate w v = candidate04 w := by
  delta candidate
  rw [h]
  rfl

theorem RoundTrip.major05 {w v : Word32} (h : w.extractLsb' 26 6 = 0x5#6) : candidate w v = candidate05 w := by
  delta candidate
  rw [h]
  rfl

theorem RoundTrip.major06 {w v : Word32} (h : w.extractLsb' 26 6 = 0x6#6) : candidate w v = candidate06 w := by
  delta candidate
  rw [h]
  rfl

theorem RoundTrip.major07 {w v : Word32} (h : w.extractLsb' 26 6 = 0x7#6) : candidate w v = candidate07 w := by
  delta candidate
  rw [h]
  rfl

theorem RoundTrip.major08 {w v : Word32} (h : w.extractLsb' 26 6 = 0x8#6) : candidate w v = candidate08 w := by
  delta candidate
  rw [h]
  rfl

theorem RoundTrip.major09 {w v : Word32} (h : w.extractLsb' 26 6 = 0x9#6) : candidate w v = candidate09 w := by
  delta candidate
  rw [h]
  rfl

theorem RoundTrip.major0A {w v : Word32} (h : w.extractLsb' 26 6 = 0xa#6) : candidate w v = candidate0A w := by
  delta candidate
  rw [h]
  rfl

theorem RoundTrip.major0B {w v : Word32} (h : w.extractLsb' 26 6 = 0xb#6) : candidate w v = candidate0B w := by
  delta candidate
  rw [h]
  rfl

theorem RoundTrip.major0C {w v : Word32} (h : w.extractLsb' 26 6 = 0xc#6) : candidate w v = candidate0C w := by
  delta candidate
  rw [h]
  rfl

theorem RoundTrip.major0D {w v : Word32} (h : w.extractLsb' 26 6 = 0xd#6) : candidate w v = candidate0D w := by
  delta candidate
  rw [h]
  rfl

theorem RoundTrip.major0E {w v : Word32} (h : w.extractLsb' 26 6 = 0xe#6) : candidate w v = candidate0E w := by
  delta candidate
  rw [h]
  rfl

theorem RoundTrip.major0F {w v : Word32} (h : w.extractLsb' 26 6 = 0xf#6) : candidate w v = candidate0F w := by
  delta candidate
  rw [h]
  rfl

theorem RoundTrip.major10 {w v : Word32} (h : w.extractLsb' 26 6 = 0x10#6) : candidate w v = candidate10 w := by
  delta candidate
  rw [h]
  rfl

theorem RoundTrip.major11 {w v : Word32} (h : w.extractLsb' 26 6 = 0x11#6) : candidate w v = candidate11 w := by
  delta candidate
  rw [h]
  rfl

theorem RoundTrip.major12 {w v : Word32} (h : w.extractLsb' 26 6 = 0x12#6) : candidate w v = candidate12 w := by
  delta candidate
  rw [h]
  rfl

theorem RoundTrip.major13 {w v : Word32} (h : w.extractLsb' 26 6 = 0x13#6) : candidate w v = candidate13 w := by
  delta candidate
  rw [h]
  rfl

theorem RoundTrip.major14 {w v : Word32} (h : w.extractLsb' 26 6 = 0x14#6) : candidate w v = candidate14 w := by
  delta candidate
  rw [h]
  rfl

theorem RoundTrip.major15 {w v : Word32} (h : w.extractLsb' 26 6 = 0x15#6) : candidate w v = candidate15 w := by
  delta candidate
  rw [h]
  rfl

theorem RoundTrip.major16 {w v : Word32} (h : w.extractLsb' 26 6 = 0x16#6) : candidate w v = candidate16 w := by
  delta candidate
  rw [h]
  rfl

theorem RoundTrip.major17 {w v : Word32} (h : w.extractLsb' 26 6 = 0x17#6) : candidate w v = candidate17 w := by
  delta candidate
  rw [h]
  rfl

theorem RoundTrip.major18 {w v : Word32} (h : w.extractLsb' 26 6 = 0x18#6) : candidate w v = candidate18 w := by
  delta candidate
  rw [h]
  rfl

theorem RoundTrip.major19 {w v : Word32} (h : w.extractLsb' 26 6 = 0x19#6) : candidate w v = candidate19 w := by
  delta candidate
  rw [h]
  rfl

theorem RoundTrip.major1A {w v : Word32} (h : w.extractLsb' 26 6 = 0x1a#6) : candidate w v = candidate1A w := by
  delta candidate
  rw [h]
  rfl

theorem RoundTrip.major1B {w v : Word32} (h : w.extractLsb' 26 6 = 0x1b#6) : candidate w v = candidate1B w := by
  delta candidate
  rw [h]
  rfl

theorem RoundTrip.major1C {w v : Word32} (h : w.extractLsb' 26 6 = 0x1c#6) : candidate w v = candidate1C w := by
  delta candidate
  rw [h]
  rfl

theorem RoundTrip.major1D {w v : Word32} (h : w.extractLsb' 26 6 = 0x1d#6) : candidate w v = candidate1D w := by
  delta candidate
  rw [h]
  rfl

theorem RoundTrip.major1E {w v : Word32} (h : w.extractLsb' 26 6 = 0x1e#6) : candidate w v = candidate1E w := by
  delta candidate
  rw [h]
  rfl

theorem RoundTrip.major1F {w v : Word32} (h : w.extractLsb' 26 6 = 0x1f#6) : candidate w v = candidate1F w := by
  delta candidate
  rw [h]
  rfl

theorem RoundTrip.major20 {w v : Word32} (h : w.extractLsb' 26 6 = 0x20#6) : candidate w v = candidate20 w := by
  delta candidate
  rw [h]
  rfl

theorem RoundTrip.major21 {w v : Word32} (h : w.extractLsb' 26 6 = 0x21#6) : candidate w v = candidate21 w := by
  delta candidate
  rw [h]
  rfl

theorem RoundTrip.major22 {w v : Word32} (h : w.extractLsb' 26 6 = 0x22#6) : candidate w v = candidate22 w := by
  delta candidate
  rw [h]
  rfl

theorem RoundTrip.major23 {w v : Word32} (h : w.extractLsb' 26 6 = 0x23#6) : candidate w v = candidate23 w := by
  delta candidate
  rw [h]
  rfl

theorem RoundTrip.major24 {w v : Word32} (h : w.extractLsb' 26 6 = 0x24#6) : candidate w v = candidate24 w := by
  delta candidate
  rw [h]
  rfl

theorem RoundTrip.major25 {w v : Word32} (h : w.extractLsb' 26 6 = 0x25#6) : candidate w v = candidate25 w := by
  delta candidate
  rw [h]
  rfl

theorem RoundTrip.major26 {w v : Word32} (h : w.extractLsb' 26 6 = 0x26#6) : candidate w v = candidate26 w := by
  delta candidate
  rw [h]
  rfl

theorem RoundTrip.major27 {w v : Word32} (h : w.extractLsb' 26 6 = 0x27#6) : candidate w v = candidate27 w := by
  delta candidate
  rw [h]
  rfl

theorem RoundTrip.major28 {w v : Word32} (h : w.extractLsb' 26 6 = 0x28#6) : candidate w v = candidate28 w v := by
  delta candidate
  rw [h]
  rfl

theorem RoundTrip.major29 {w v : Word32} (h : w.extractLsb' 26 6 = 0x29#6) : candidate w v = candidate29 w := by
  delta candidate
  rw [h]
  rfl

theorem RoundTrip.major2A {w v : Word32} (h : w.extractLsb' 26 6 = 0x2a#6) : candidate w v = candidate2A w := by
  delta candidate
  rw [h]
  rfl

theorem RoundTrip.major2B {w v : Word32} (h : w.extractLsb' 26 6 = 0x2b#6) : candidate w v = candidate2B w := by
  delta candidate
  rw [h]
  rfl

theorem RoundTrip.major2C {w v : Word32} (h : w.extractLsb' 26 6 = 0x2c#6) : candidate w v = candidate2C w v := by
  delta candidate
  rw [h]
  rfl

theorem RoundTrip.major2D {w v : Word32} (h : w.extractLsb' 26 6 = 0x2d#6) : candidate w v = candidate2D w := by
  delta candidate
  rw [h]
  rfl

theorem RoundTrip.major2E {w v : Word32} (h : w.extractLsb' 26 6 = 0x2e#6) : candidate w v = candidate2E w v := by
  delta candidate
  rw [h]
  rfl

theorem RoundTrip.major2F {w v : Word32} (h : w.extractLsb' 26 6 = 0x2f#6) : candidate w v = candidate2F w := by
  delta candidate
  rw [h]
  rfl

theorem RoundTrip.major30 {w v : Word32} (h : w.extractLsb' 26 6 = 0x30#6) : candidate w v = candidate30 w := by
  delta candidate
  rw [h]
  rfl

theorem RoundTrip.major31 {w v : Word32} (h : w.extractLsb' 26 6 = 0x31#6) : candidate w v = candidate31 w := by
  delta candidate
  rw [h]
  rfl

theorem RoundTrip.add_row {w : Word32} {x1 : BitVec 5} {x2 : BitVec 5} {x3 : BitVec 5} (hs0 : w.extractLsb' 0 11 = 0x0#11) (hf0 : w.extractLsb' 21 5 = x1) (hf1 : w.extractLsb' 16 5 = x2) (hf2 : w.extractLsb' 11 5 = x3) :
    candidate01 w = some (.add x1 x2 x3) := by
  subst hf0 hf1 hf2
  delta candidate01
  rw [hs0]
  rfl

theorem RoundTrip.add : ∀ x1 x2 x3, RoundTrip.Statement (.add x1 x2 x3) := by
  intro x1 x2 x3
  exact RoundTrip.of_one rfl (RoundTrip.isLong_major (m := 0x1#6) (extract_high (extract_high (extract_high (extract_high rfl))))) ((RoundTrip.major01 (extract_high (extract_high (extract_high (extract_high rfl))))).trans (RoundTrip.add_row (extract_low rfl) (extract_high (extract_high (extract_high (extract_low extract_all)))) (extract_high (extract_high (extract_low extract_all))) (extract_high (extract_low extract_all))))

theorem RoundTrip.sub_row {w : Word32} {x1 : BitVec 5} {x2 : BitVec 5} {x3 : BitVec 5} (hs0 : w.extractLsb' 0 11 = 0x1#11) (hf0 : w.extractLsb' 21 5 = x1) (hf1 : w.extractLsb' 16 5 = x2) (hf2 : w.extractLsb' 11 5 = x3) :
    candidate01 w = some (.sub x1 x2 x3) := by
  subst hf0 hf1 hf2
  delta candidate01
  rw [hs0]
  rfl

theorem RoundTrip.sub : ∀ x1 x2 x3, RoundTrip.Statement (.sub x1 x2 x3) := by
  intro x1 x2 x3
  exact RoundTrip.of_one rfl (RoundTrip.isLong_major (m := 0x1#6) (extract_high (extract_high (extract_high (extract_high rfl))))) ((RoundTrip.major01 (extract_high (extract_high (extract_high (extract_high rfl))))).trans (RoundTrip.sub_row (extract_low rfl) (extract_high (extract_high (extract_high (extract_low extract_all)))) (extract_high (extract_high (extract_low extract_all))) (extract_high (extract_low extract_all))))

theorem RoundTrip.and_row {w : Word32} {x1 : BitVec 5} {x2 : BitVec 5} {x3 : BitVec 5} (hs0 : w.extractLsb' 0 11 = 0x2#11) (hf0 : w.extractLsb' 21 5 = x1) (hf1 : w.extractLsb' 16 5 = x2) (hf2 : w.extractLsb' 11 5 = x3) :
    candidate01 w = some (.and x1 x2 x3) := by
  subst hf0 hf1 hf2
  delta candidate01
  rw [hs0]
  rfl

theorem RoundTrip.and : ∀ x1 x2 x3, RoundTrip.Statement (.and x1 x2 x3) := by
  intro x1 x2 x3
  exact RoundTrip.of_one rfl (RoundTrip.isLong_major (m := 0x1#6) (extract_high (extract_high (extract_high (extract_high rfl))))) ((RoundTrip.major01 (extract_high (extract_high (extract_high (extract_high rfl))))).trans (RoundTrip.and_row (extract_low rfl) (extract_high (extract_high (extract_high (extract_low extract_all)))) (extract_high (extract_high (extract_low extract_all))) (extract_high (extract_low extract_all))))

theorem RoundTrip.or_row {w : Word32} {x1 : BitVec 5} {x2 : BitVec 5} {x3 : BitVec 5} (hs0 : w.extractLsb' 0 11 = 0x3#11) (hf0 : w.extractLsb' 21 5 = x1) (hf1 : w.extractLsb' 16 5 = x2) (hf2 : w.extractLsb' 11 5 = x3) :
    candidate01 w = some (.or x1 x2 x3) := by
  subst hf0 hf1 hf2
  delta candidate01
  rw [hs0]
  rfl

theorem RoundTrip.or : ∀ x1 x2 x3, RoundTrip.Statement (.or x1 x2 x3) := by
  intro x1 x2 x3
  exact RoundTrip.of_one rfl (RoundTrip.isLong_major (m := 0x1#6) (extract_high (extract_high (extract_high (extract_high rfl))))) ((RoundTrip.major01 (extract_high (extract_high (extract_high (extract_high rfl))))).trans (RoundTrip.or_row (extract_low rfl) (extract_high (extract_high (extract_high (extract_low extract_all)))) (extract_high (extract_high (extract_low extract_all))) (extract_high (extract_low extract_all))))

theorem RoundTrip.xor_row {w : Word32} {x1 : BitVec 5} {x2 : BitVec 5} {x3 : BitVec 5} (hs0 : w.extractLsb' 0 11 = 0x4#11) (hf0 : w.extractLsb' 21 5 = x1) (hf1 : w.extractLsb' 16 5 = x2) (hf2 : w.extractLsb' 11 5 = x3) :
    candidate01 w = some (.xor x1 x2 x3) := by
  subst hf0 hf1 hf2
  delta candidate01
  rw [hs0]
  rfl

theorem RoundTrip.xor : ∀ x1 x2 x3, RoundTrip.Statement (.xor x1 x2 x3) := by
  intro x1 x2 x3
  exact RoundTrip.of_one rfl (RoundTrip.isLong_major (m := 0x1#6) (extract_high (extract_high (extract_high (extract_high rfl))))) ((RoundTrip.major01 (extract_high (extract_high (extract_high (extract_high rfl))))).trans (RoundTrip.xor_row (extract_low rfl) (extract_high (extract_high (extract_high (extract_low extract_all)))) (extract_high (extract_high (extract_low extract_all))) (extract_high (extract_low extract_all))))

theorem RoundTrip.sll_row {w : Word32} {x1 : BitVec 5} {x2 : BitVec 5} {x3 : BitVec 5} (hs0 : w.extractLsb' 0 11 = 0x5#11) (hf0 : w.extractLsb' 21 5 = x1) (hf1 : w.extractLsb' 16 5 = x2) (hf2 : w.extractLsb' 11 5 = x3) :
    candidate01 w = some (.sll x1 x2 x3) := by
  subst hf0 hf1 hf2
  delta candidate01
  rw [hs0]
  rfl

theorem RoundTrip.sll : ∀ x1 x2 x3, RoundTrip.Statement (.sll x1 x2 x3) := by
  intro x1 x2 x3
  exact RoundTrip.of_one rfl (RoundTrip.isLong_major (m := 0x1#6) (extract_high (extract_high (extract_high (extract_high rfl))))) ((RoundTrip.major01 (extract_high (extract_high (extract_high (extract_high rfl))))).trans (RoundTrip.sll_row (extract_low rfl) (extract_high (extract_high (extract_high (extract_low extract_all)))) (extract_high (extract_high (extract_low extract_all))) (extract_high (extract_low extract_all))))

theorem RoundTrip.srl_row {w : Word32} {x1 : BitVec 5} {x2 : BitVec 5} {x3 : BitVec 5} (hs0 : w.extractLsb' 0 11 = 0x6#11) (hf0 : w.extractLsb' 21 5 = x1) (hf1 : w.extractLsb' 16 5 = x2) (hf2 : w.extractLsb' 11 5 = x3) :
    candidate01 w = some (.srl x1 x2 x3) := by
  subst hf0 hf1 hf2
  delta candidate01
  rw [hs0]
  rfl

theorem RoundTrip.srl : ∀ x1 x2 x3, RoundTrip.Statement (.srl x1 x2 x3) := by
  intro x1 x2 x3
  exact RoundTrip.of_one rfl (RoundTrip.isLong_major (m := 0x1#6) (extract_high (extract_high (extract_high (extract_high rfl))))) ((RoundTrip.major01 (extract_high (extract_high (extract_high (extract_high rfl))))).trans (RoundTrip.srl_row (extract_low rfl) (extract_high (extract_high (extract_high (extract_low extract_all)))) (extract_high (extract_high (extract_low extract_all))) (extract_high (extract_low extract_all))))

theorem RoundTrip.sra_row {w : Word32} {x1 : BitVec 5} {x2 : BitVec 5} {x3 : BitVec 5} (hs0 : w.extractLsb' 0 11 = 0x7#11) (hf0 : w.extractLsb' 21 5 = x1) (hf1 : w.extractLsb' 16 5 = x2) (hf2 : w.extractLsb' 11 5 = x3) :
    candidate01 w = some (.sra x1 x2 x3) := by
  subst hf0 hf1 hf2
  delta candidate01
  rw [hs0]
  rfl

theorem RoundTrip.sra : ∀ x1 x2 x3, RoundTrip.Statement (.sra x1 x2 x3) := by
  intro x1 x2 x3
  exact RoundTrip.of_one rfl (RoundTrip.isLong_major (m := 0x1#6) (extract_high (extract_high (extract_high (extract_high rfl))))) ((RoundTrip.major01 (extract_high (extract_high (extract_high (extract_high rfl))))).trans (RoundTrip.sra_row (extract_low rfl) (extract_high (extract_high (extract_high (extract_low extract_all)))) (extract_high (extract_high (extract_low extract_all))) (extract_high (extract_low extract_all))))

theorem RoundTrip.slt_row {w : Word32} {x1 : BitVec 5} {x2 : BitVec 5} {x3 : BitVec 5} (hs0 : w.extractLsb' 0 11 = 0x8#11) (hf0 : w.extractLsb' 21 5 = x1) (hf1 : w.extractLsb' 16 5 = x2) (hf2 : w.extractLsb' 11 5 = x3) :
    candidate01 w = some (.slt x1 x2 x3) := by
  subst hf0 hf1 hf2
  delta candidate01
  rw [hs0]
  rfl

theorem RoundTrip.slt : ∀ x1 x2 x3, RoundTrip.Statement (.slt x1 x2 x3) := by
  intro x1 x2 x3
  exact RoundTrip.of_one rfl (RoundTrip.isLong_major (m := 0x1#6) (extract_high (extract_high (extract_high (extract_high rfl))))) ((RoundTrip.major01 (extract_high (extract_high (extract_high (extract_high rfl))))).trans (RoundTrip.slt_row (extract_low rfl) (extract_high (extract_high (extract_high (extract_low extract_all)))) (extract_high (extract_high (extract_low extract_all))) (extract_high (extract_low extract_all))))

theorem RoundTrip.sltu_row {w : Word32} {x1 : BitVec 5} {x2 : BitVec 5} {x3 : BitVec 5} (hs0 : w.extractLsb' 0 11 = 0x9#11) (hf0 : w.extractLsb' 21 5 = x1) (hf1 : w.extractLsb' 16 5 = x2) (hf2 : w.extractLsb' 11 5 = x3) :
    candidate01 w = some (.sltu x1 x2 x3) := by
  subst hf0 hf1 hf2
  delta candidate01
  rw [hs0]
  rfl

theorem RoundTrip.sltu : ∀ x1 x2 x3, RoundTrip.Statement (.sltu x1 x2 x3) := by
  intro x1 x2 x3
  exact RoundTrip.of_one rfl (RoundTrip.isLong_major (m := 0x1#6) (extract_high (extract_high (extract_high (extract_high rfl))))) ((RoundTrip.major01 (extract_high (extract_high (extract_high (extract_high rfl))))).trans (RoundTrip.sltu_row (extract_low rfl) (extract_high (extract_high (extract_high (extract_low extract_all)))) (extract_high (extract_high (extract_low extract_all))) (extract_high (extract_low extract_all))))

theorem RoundTrip.min_row {w : Word32} {x1 : BitVec 5} {x2 : BitVec 5} {x3 : BitVec 5} (hs0 : w.extractLsb' 0 11 = 0xa#11) (hf0 : w.extractLsb' 21 5 = x1) (hf1 : w.extractLsb' 16 5 = x2) (hf2 : w.extractLsb' 11 5 = x3) :
    candidate01 w = some (.min x1 x2 x3) := by
  subst hf0 hf1 hf2
  delta candidate01
  rw [hs0]
  rfl

theorem RoundTrip.min : ∀ x1 x2 x3, RoundTrip.Statement (.min x1 x2 x3) := by
  intro x1 x2 x3
  exact RoundTrip.of_one rfl (RoundTrip.isLong_major (m := 0x1#6) (extract_high (extract_high (extract_high (extract_high rfl))))) ((RoundTrip.major01 (extract_high (extract_high (extract_high (extract_high rfl))))).trans (RoundTrip.min_row (extract_low rfl) (extract_high (extract_high (extract_high (extract_low extract_all)))) (extract_high (extract_high (extract_low extract_all))) (extract_high (extract_low extract_all))))

theorem RoundTrip.max_row {w : Word32} {x1 : BitVec 5} {x2 : BitVec 5} {x3 : BitVec 5} (hs0 : w.extractLsb' 0 11 = 0xb#11) (hf0 : w.extractLsb' 21 5 = x1) (hf1 : w.extractLsb' 16 5 = x2) (hf2 : w.extractLsb' 11 5 = x3) :
    candidate01 w = some (.max x1 x2 x3) := by
  subst hf0 hf1 hf2
  delta candidate01
  rw [hs0]
  rfl

theorem RoundTrip.max : ∀ x1 x2 x3, RoundTrip.Statement (.max x1 x2 x3) := by
  intro x1 x2 x3
  exact RoundTrip.of_one rfl (RoundTrip.isLong_major (m := 0x1#6) (extract_high (extract_high (extract_high (extract_high rfl))))) ((RoundTrip.major01 (extract_high (extract_high (extract_high (extract_high rfl))))).trans (RoundTrip.max_row (extract_low rfl) (extract_high (extract_high (extract_high (extract_low extract_all)))) (extract_high (extract_high (extract_low extract_all))) (extract_high (extract_low extract_all))))

theorem RoundTrip.minu_row {w : Word32} {x1 : BitVec 5} {x2 : BitVec 5} {x3 : BitVec 5} (hs0 : w.extractLsb' 0 11 = 0xc#11) (hf0 : w.extractLsb' 21 5 = x1) (hf1 : w.extractLsb' 16 5 = x2) (hf2 : w.extractLsb' 11 5 = x3) :
    candidate01 w = some (.minu x1 x2 x3) := by
  subst hf0 hf1 hf2
  delta candidate01
  rw [hs0]
  rfl

theorem RoundTrip.minu : ∀ x1 x2 x3, RoundTrip.Statement (.minu x1 x2 x3) := by
  intro x1 x2 x3
  exact RoundTrip.of_one rfl (RoundTrip.isLong_major (m := 0x1#6) (extract_high (extract_high (extract_high (extract_high rfl))))) ((RoundTrip.major01 (extract_high (extract_high (extract_high (extract_high rfl))))).trans (RoundTrip.minu_row (extract_low rfl) (extract_high (extract_high (extract_high (extract_low extract_all)))) (extract_high (extract_high (extract_low extract_all))) (extract_high (extract_low extract_all))))

theorem RoundTrip.maxu_row {w : Word32} {x1 : BitVec 5} {x2 : BitVec 5} {x3 : BitVec 5} (hs0 : w.extractLsb' 0 11 = 0xd#11) (hf0 : w.extractLsb' 21 5 = x1) (hf1 : w.extractLsb' 16 5 = x2) (hf2 : w.extractLsb' 11 5 = x3) :
    candidate01 w = some (.maxu x1 x2 x3) := by
  subst hf0 hf1 hf2
  delta candidate01
  rw [hs0]
  rfl

theorem RoundTrip.maxu : ∀ x1 x2 x3, RoundTrip.Statement (.maxu x1 x2 x3) := by
  intro x1 x2 x3
  exact RoundTrip.of_one rfl (RoundTrip.isLong_major (m := 0x1#6) (extract_high (extract_high (extract_high (extract_high rfl))))) ((RoundTrip.major01 (extract_high (extract_high (extract_high (extract_high rfl))))).trans (RoundTrip.maxu_row (extract_low rfl) (extract_high (extract_high (extract_high (extract_low extract_all)))) (extract_high (extract_high (extract_low extract_all))) (extract_high (extract_low extract_all))))

theorem RoundTrip.mul_row {w : Word32} {x1 : BitVec 5} {x2 : BitVec 5} {x3 : BitVec 5} (hs0 : w.extractLsb' 0 11 = 0xe#11) (hf0 : w.extractLsb' 21 5 = x1) (hf1 : w.extractLsb' 16 5 = x2) (hf2 : w.extractLsb' 11 5 = x3) :
    candidate01 w = some (.mul x1 x2 x3) := by
  subst hf0 hf1 hf2
  delta candidate01
  rw [hs0]
  rfl

theorem RoundTrip.mul : ∀ x1 x2 x3, RoundTrip.Statement (.mul x1 x2 x3) := by
  intro x1 x2 x3
  exact RoundTrip.of_one rfl (RoundTrip.isLong_major (m := 0x1#6) (extract_high (extract_high (extract_high (extract_high rfl))))) ((RoundTrip.major01 (extract_high (extract_high (extract_high (extract_high rfl))))).trans (RoundTrip.mul_row (extract_low rfl) (extract_high (extract_high (extract_high (extract_low extract_all)))) (extract_high (extract_high (extract_low extract_all))) (extract_high (extract_low extract_all))))

theorem RoundTrip.mulh_row {w : Word32} {x1 : BitVec 5} {x2 : BitVec 5} {x3 : BitVec 5} (hs0 : w.extractLsb' 0 11 = 0xf#11) (hf0 : w.extractLsb' 21 5 = x1) (hf1 : w.extractLsb' 16 5 = x2) (hf2 : w.extractLsb' 11 5 = x3) :
    candidate01 w = some (.mulh x1 x2 x3) := by
  subst hf0 hf1 hf2
  delta candidate01
  rw [hs0]
  rfl

theorem RoundTrip.mulh : ∀ x1 x2 x3, RoundTrip.Statement (.mulh x1 x2 x3) := by
  intro x1 x2 x3
  exact RoundTrip.of_one rfl (RoundTrip.isLong_major (m := 0x1#6) (extract_high (extract_high (extract_high (extract_high rfl))))) ((RoundTrip.major01 (extract_high (extract_high (extract_high (extract_high rfl))))).trans (RoundTrip.mulh_row (extract_low rfl) (extract_high (extract_high (extract_high (extract_low extract_all)))) (extract_high (extract_high (extract_low extract_all))) (extract_high (extract_low extract_all))))

theorem RoundTrip.mulhu_row {w : Word32} {x1 : BitVec 5} {x2 : BitVec 5} {x3 : BitVec 5} (hs0 : w.extractLsb' 0 11 = 0x10#11) (hf0 : w.extractLsb' 21 5 = x1) (hf1 : w.extractLsb' 16 5 = x2) (hf2 : w.extractLsb' 11 5 = x3) :
    candidate01 w = some (.mulhu x1 x2 x3) := by
  subst hf0 hf1 hf2
  delta candidate01
  rw [hs0]
  rfl

theorem RoundTrip.mulhu : ∀ x1 x2 x3, RoundTrip.Statement (.mulhu x1 x2 x3) := by
  intro x1 x2 x3
  exact RoundTrip.of_one rfl (RoundTrip.isLong_major (m := 0x1#6) (extract_high (extract_high (extract_high (extract_high rfl))))) ((RoundTrip.major01 (extract_high (extract_high (extract_high (extract_high rfl))))).trans (RoundTrip.mulhu_row (extract_low rfl) (extract_high (extract_high (extract_high (extract_low extract_all)))) (extract_high (extract_high (extract_low extract_all))) (extract_high (extract_low extract_all))))

theorem RoundTrip.div_row {w : Word32} {x1 : BitVec 5} {x2 : BitVec 5} {x3 : BitVec 5} (hs0 : w.extractLsb' 0 11 = 0x11#11) (hf0 : w.extractLsb' 21 5 = x1) (hf1 : w.extractLsb' 16 5 = x2) (hf2 : w.extractLsb' 11 5 = x3) :
    candidate01 w = some (.div x1 x2 x3) := by
  subst hf0 hf1 hf2
  delta candidate01
  rw [hs0]
  rfl

theorem RoundTrip.div : ∀ x1 x2 x3, RoundTrip.Statement (.div x1 x2 x3) := by
  intro x1 x2 x3
  exact RoundTrip.of_one rfl (RoundTrip.isLong_major (m := 0x1#6) (extract_high (extract_high (extract_high (extract_high rfl))))) ((RoundTrip.major01 (extract_high (extract_high (extract_high (extract_high rfl))))).trans (RoundTrip.div_row (extract_low rfl) (extract_high (extract_high (extract_high (extract_low extract_all)))) (extract_high (extract_high (extract_low extract_all))) (extract_high (extract_low extract_all))))

theorem RoundTrip.divu_row {w : Word32} {x1 : BitVec 5} {x2 : BitVec 5} {x3 : BitVec 5} (hs0 : w.extractLsb' 0 11 = 0x12#11) (hf0 : w.extractLsb' 21 5 = x1) (hf1 : w.extractLsb' 16 5 = x2) (hf2 : w.extractLsb' 11 5 = x3) :
    candidate01 w = some (.divu x1 x2 x3) := by
  subst hf0 hf1 hf2
  delta candidate01
  rw [hs0]
  rfl

theorem RoundTrip.divu : ∀ x1 x2 x3, RoundTrip.Statement (.divu x1 x2 x3) := by
  intro x1 x2 x3
  exact RoundTrip.of_one rfl (RoundTrip.isLong_major (m := 0x1#6) (extract_high (extract_high (extract_high (extract_high rfl))))) ((RoundTrip.major01 (extract_high (extract_high (extract_high (extract_high rfl))))).trans (RoundTrip.divu_row (extract_low rfl) (extract_high (extract_high (extract_high (extract_low extract_all)))) (extract_high (extract_high (extract_low extract_all))) (extract_high (extract_low extract_all))))

theorem RoundTrip.rem_row {w : Word32} {x1 : BitVec 5} {x2 : BitVec 5} {x3 : BitVec 5} (hs0 : w.extractLsb' 0 11 = 0x13#11) (hf0 : w.extractLsb' 21 5 = x1) (hf1 : w.extractLsb' 16 5 = x2) (hf2 : w.extractLsb' 11 5 = x3) :
    candidate01 w = some (.rem x1 x2 x3) := by
  subst hf0 hf1 hf2
  delta candidate01
  rw [hs0]
  rfl

theorem RoundTrip.rem : ∀ x1 x2 x3, RoundTrip.Statement (.rem x1 x2 x3) := by
  intro x1 x2 x3
  exact RoundTrip.of_one rfl (RoundTrip.isLong_major (m := 0x1#6) (extract_high (extract_high (extract_high (extract_high rfl))))) ((RoundTrip.major01 (extract_high (extract_high (extract_high (extract_high rfl))))).trans (RoundTrip.rem_row (extract_low rfl) (extract_high (extract_high (extract_high (extract_low extract_all)))) (extract_high (extract_high (extract_low extract_all))) (extract_high (extract_low extract_all))))

theorem RoundTrip.remu_row {w : Word32} {x1 : BitVec 5} {x2 : BitVec 5} {x3 : BitVec 5} (hs0 : w.extractLsb' 0 11 = 0x14#11) (hf0 : w.extractLsb' 21 5 = x1) (hf1 : w.extractLsb' 16 5 = x2) (hf2 : w.extractLsb' 11 5 = x3) :
    candidate01 w = some (.remu x1 x2 x3) := by
  subst hf0 hf1 hf2
  delta candidate01
  rw [hs0]
  rfl

theorem RoundTrip.remu : ∀ x1 x2 x3, RoundTrip.Statement (.remu x1 x2 x3) := by
  intro x1 x2 x3
  exact RoundTrip.of_one rfl (RoundTrip.isLong_major (m := 0x1#6) (extract_high (extract_high (extract_high (extract_high rfl))))) ((RoundTrip.major01 (extract_high (extract_high (extract_high (extract_high rfl))))).trans (RoundTrip.remu_row (extract_low rfl) (extract_high (extract_high (extract_high (extract_low extract_all)))) (extract_high (extract_high (extract_low extract_all))) (extract_high (extract_low extract_all))))

theorem RoundTrip.clz_row {w : Word32} {x1 : BitVec 5} {x2 : BitVec 5} (hs0 : w.extractLsb' 0 11 = 0x15#11) (hf0 : w.extractLsb' 21 5 = x1) (hf1 : w.extractLsb' 16 5 = x2) :
    candidate01 w = some (.clz x1 x2) := by
  subst hf0 hf1
  delta candidate01
  rw [hs0]
  rfl

theorem RoundTrip.clz : ∀ x1 x2, RoundTrip.Statement (.clz x1 x2) := by
  intro x1 x2
  exact RoundTrip.of_one rfl (RoundTrip.isLong_major (m := 0x1#6) (extract_high (extract_high (extract_high rfl)))) ((RoundTrip.major01 (extract_high (extract_high (extract_high rfl)))).trans (RoundTrip.clz_row (extract_low rfl) (extract_high (extract_high (extract_low extract_all))) (extract_high (extract_low extract_all))))

theorem RoundTrip.ctz_row {w : Word32} {x1 : BitVec 5} {x2 : BitVec 5} (hs0 : w.extractLsb' 0 11 = 0x16#11) (hf0 : w.extractLsb' 21 5 = x1) (hf1 : w.extractLsb' 16 5 = x2) :
    candidate01 w = some (.ctz x1 x2) := by
  subst hf0 hf1
  delta candidate01
  rw [hs0]
  rfl

theorem RoundTrip.ctz : ∀ x1 x2, RoundTrip.Statement (.ctz x1 x2) := by
  intro x1 x2
  exact RoundTrip.of_one rfl (RoundTrip.isLong_major (m := 0x1#6) (extract_high (extract_high (extract_high rfl)))) ((RoundTrip.major01 (extract_high (extract_high (extract_high rfl)))).trans (RoundTrip.ctz_row (extract_low rfl) (extract_high (extract_high (extract_low extract_all))) (extract_high (extract_low extract_all))))

theorem RoundTrip.popc_row {w : Word32} {x1 : BitVec 5} {x2 : BitVec 5} (hs0 : w.extractLsb' 0 11 = 0x17#11) (hf0 : w.extractLsb' 21 5 = x1) (hf1 : w.extractLsb' 16 5 = x2) :
    candidate01 w = some (.popc x1 x2) := by
  subst hf0 hf1
  delta candidate01
  rw [hs0]
  rfl

theorem RoundTrip.popc : ∀ x1 x2, RoundTrip.Statement (.popc x1 x2) := by
  intro x1 x2
  exact RoundTrip.of_one rfl (RoundTrip.isLong_major (m := 0x1#6) (extract_high (extract_high (extract_high rfl)))) ((RoundTrip.major01 (extract_high (extract_high (extract_high rfl)))).trans (RoundTrip.popc_row (extract_low rfl) (extract_high (extract_high (extract_low extract_all))) (extract_high (extract_low extract_all))))

theorem RoundTrip.movz_row {w : Word32} {x1 : BitVec 5} {x2 : BitVec 5} {x3 : BitVec 5} (hs0 : w.extractLsb' 0 11 = 0x18#11) (hf0 : w.extractLsb' 21 5 = x1) (hf1 : w.extractLsb' 16 5 = x2) (hf2 : w.extractLsb' 11 5 = x3) :
    candidate01 w = some (.movz x1 x2 x3) := by
  subst hf0 hf1 hf2
  delta candidate01
  rw [hs0]
  rfl

theorem RoundTrip.movz : ∀ x1 x2 x3, RoundTrip.Statement (.movz x1 x2 x3) := by
  intro x1 x2 x3
  exact RoundTrip.of_one rfl (RoundTrip.isLong_major (m := 0x1#6) (extract_high (extract_high (extract_high (extract_high rfl))))) ((RoundTrip.major01 (extract_high (extract_high (extract_high (extract_high rfl))))).trans (RoundTrip.movz_row (extract_low rfl) (extract_high (extract_high (extract_high (extract_low extract_all)))) (extract_high (extract_high (extract_low extract_all))) (extract_high (extract_low extract_all))))

theorem RoundTrip.movn_row {w : Word32} {x1 : BitVec 5} {x2 : BitVec 5} {x3 : BitVec 5} (hs0 : w.extractLsb' 0 11 = 0x19#11) (hf0 : w.extractLsb' 21 5 = x1) (hf1 : w.extractLsb' 16 5 = x2) (hf2 : w.extractLsb' 11 5 = x3) :
    candidate01 w = some (.movn x1 x2 x3) := by
  subst hf0 hf1 hf2
  delta candidate01
  rw [hs0]
  rfl

theorem RoundTrip.movn : ∀ x1 x2 x3, RoundTrip.Statement (.movn x1 x2 x3) := by
  intro x1 x2 x3
  exact RoundTrip.of_one rfl (RoundTrip.isLong_major (m := 0x1#6) (extract_high (extract_high (extract_high (extract_high rfl))))) ((RoundTrip.major01 (extract_high (extract_high (extract_high (extract_high rfl))))).trans (RoundTrip.movn_row (extract_low rfl) (extract_high (extract_high (extract_high (extract_low extract_all)))) (extract_high (extract_high (extract_low extract_all))) (extract_high (extract_low extract_all))))

theorem RoundTrip.addw_row {w : Word32} {x1 : BitVec 5} {x2 : BitVec 5} {x3 : BitVec 5} (hs0 : w.extractLsb' 0 11 = 0x1a#11) (hf0 : w.extractLsb' 21 5 = x1) (hf1 : w.extractLsb' 16 5 = x2) (hf2 : w.extractLsb' 11 5 = x3) :
    candidate01 w = some (.addw x1 x2 x3) := by
  subst hf0 hf1 hf2
  delta candidate01
  rw [hs0]
  rfl

theorem RoundTrip.addw : ∀ x1 x2 x3, RoundTrip.Statement (.addw x1 x2 x3) := by
  intro x1 x2 x3
  exact RoundTrip.of_one rfl (RoundTrip.isLong_major (m := 0x1#6) (extract_high (extract_high (extract_high (extract_high rfl))))) ((RoundTrip.major01 (extract_high (extract_high (extract_high (extract_high rfl))))).trans (RoundTrip.addw_row (extract_low rfl) (extract_high (extract_high (extract_high (extract_low extract_all)))) (extract_high (extract_high (extract_low extract_all))) (extract_high (extract_low extract_all))))

theorem RoundTrip.subw_row {w : Word32} {x1 : BitVec 5} {x2 : BitVec 5} {x3 : BitVec 5} (hs0 : w.extractLsb' 0 11 = 0x1b#11) (hf0 : w.extractLsb' 21 5 = x1) (hf1 : w.extractLsb' 16 5 = x2) (hf2 : w.extractLsb' 11 5 = x3) :
    candidate01 w = some (.subw x1 x2 x3) := by
  subst hf0 hf1 hf2
  delta candidate01
  rw [hs0]
  rfl

theorem RoundTrip.subw : ∀ x1 x2 x3, RoundTrip.Statement (.subw x1 x2 x3) := by
  intro x1 x2 x3
  exact RoundTrip.of_one rfl (RoundTrip.isLong_major (m := 0x1#6) (extract_high (extract_high (extract_high (extract_high rfl))))) ((RoundTrip.major01 (extract_high (extract_high (extract_high (extract_high rfl))))).trans (RoundTrip.subw_row (extract_low rfl) (extract_high (extract_high (extract_high (extract_low extract_all)))) (extract_high (extract_high (extract_low extract_all))) (extract_high (extract_low extract_all))))

theorem RoundTrip.addi_row {w : Word32} {x1 : BitVec 5} {x2 : BitVec 5} {x3 : BitVec 16} (hf0 : w.extractLsb' 21 5 = x1) (hf1 : w.extractLsb' 16 5 = x2) (hf2 : w.extractLsb' 0 16 = x3) :
    candidate02 w = some (.addi x1 x2 x3) := by
  subst hf0 hf1 hf2
  delta candidate02
  rfl

theorem RoundTrip.addi : ∀ x1 x2 x3, RoundTrip.Statement (.addi x1 x2 x3) := by
  intro x1 x2 x3
  exact RoundTrip.of_one rfl (RoundTrip.isLong_major (m := 0x2#6) (extract_high (extract_high (extract_high rfl)))) ((RoundTrip.major02 (extract_high (extract_high (extract_high rfl)))).trans (RoundTrip.addi_row (extract_high (extract_high (extract_low extract_all))) (extract_high (extract_low extract_all)) (extract_low extract_all)))

theorem RoundTrip.andi_row {w : Word32} {x1 : BitVec 5} {x2 : BitVec 5} {x3 : BitVec 16} (hf0 : w.extractLsb' 21 5 = x1) (hf1 : w.extractLsb' 16 5 = x2) (hf2 : w.extractLsb' 0 16 = x3) :
    candidate03 w = some (.andi x1 x2 x3) := by
  subst hf0 hf1 hf2
  delta candidate03
  rfl

theorem RoundTrip.andi : ∀ x1 x2 x3, RoundTrip.Statement (.andi x1 x2 x3) := by
  intro x1 x2 x3
  exact RoundTrip.of_one rfl (RoundTrip.isLong_major (m := 0x3#6) (extract_high (extract_high (extract_high rfl)))) ((RoundTrip.major03 (extract_high (extract_high (extract_high rfl)))).trans (RoundTrip.andi_row (extract_high (extract_high (extract_low extract_all))) (extract_high (extract_low extract_all)) (extract_low extract_all)))

theorem RoundTrip.ori_row {w : Word32} {x1 : BitVec 5} {x2 : BitVec 5} {x3 : BitVec 16} (hf0 : w.extractLsb' 21 5 = x1) (hf1 : w.extractLsb' 16 5 = x2) (hf2 : w.extractLsb' 0 16 = x3) :
    candidate04 w = some (.ori x1 x2 x3) := by
  subst hf0 hf1 hf2
  delta candidate04
  rfl

theorem RoundTrip.ori : ∀ x1 x2 x3, RoundTrip.Statement (.ori x1 x2 x3) := by
  intro x1 x2 x3
  exact RoundTrip.of_one rfl (RoundTrip.isLong_major (m := 0x4#6) (extract_high (extract_high (extract_high rfl)))) ((RoundTrip.major04 (extract_high (extract_high (extract_high rfl)))).trans (RoundTrip.ori_row (extract_high (extract_high (extract_low extract_all))) (extract_high (extract_low extract_all)) (extract_low extract_all)))

theorem RoundTrip.xori_row {w : Word32} {x1 : BitVec 5} {x2 : BitVec 5} {x3 : BitVec 16} (hf0 : w.extractLsb' 21 5 = x1) (hf1 : w.extractLsb' 16 5 = x2) (hf2 : w.extractLsb' 0 16 = x3) :
    candidate05 w = some (.xori x1 x2 x3) := by
  subst hf0 hf1 hf2
  delta candidate05
  rfl

theorem RoundTrip.xori : ∀ x1 x2 x3, RoundTrip.Statement (.xori x1 x2 x3) := by
  intro x1 x2 x3
  exact RoundTrip.of_one rfl (RoundTrip.isLong_major (m := 0x5#6) (extract_high (extract_high (extract_high rfl)))) ((RoundTrip.major05 (extract_high (extract_high (extract_high rfl)))).trans (RoundTrip.xori_row (extract_high (extract_high (extract_low extract_all))) (extract_high (extract_low extract_all)) (extract_low extract_all)))

theorem RoundTrip.slti_row {w : Word32} {x1 : BitVec 5} {x2 : BitVec 5} {x3 : BitVec 16} (hf0 : w.extractLsb' 21 5 = x1) (hf1 : w.extractLsb' 16 5 = x2) (hf2 : w.extractLsb' 0 16 = x3) :
    candidate06 w = some (.slti x1 x2 x3) := by
  subst hf0 hf1 hf2
  delta candidate06
  rfl

theorem RoundTrip.slti : ∀ x1 x2 x3, RoundTrip.Statement (.slti x1 x2 x3) := by
  intro x1 x2 x3
  exact RoundTrip.of_one rfl (RoundTrip.isLong_major (m := 0x6#6) (extract_high (extract_high (extract_high rfl)))) ((RoundTrip.major06 (extract_high (extract_high (extract_high rfl)))).trans (RoundTrip.slti_row (extract_high (extract_high (extract_low extract_all))) (extract_high (extract_low extract_all)) (extract_low extract_all)))

theorem RoundTrip.sltui_row {w : Word32} {x1 : BitVec 5} {x2 : BitVec 5} {x3 : BitVec 16} (hf0 : w.extractLsb' 21 5 = x1) (hf1 : w.extractLsb' 16 5 = x2) (hf2 : w.extractLsb' 0 16 = x3) :
    candidate07 w = some (.sltui x1 x2 x3) := by
  subst hf0 hf1 hf2
  delta candidate07
  rfl

theorem RoundTrip.sltui : ∀ x1 x2 x3, RoundTrip.Statement (.sltui x1 x2 x3) := by
  intro x1 x2 x3
  exact RoundTrip.of_one rfl (RoundTrip.isLong_major (m := 0x7#6) (extract_high (extract_high (extract_high rfl)))) ((RoundTrip.major07 (extract_high (extract_high (extract_high rfl)))).trans (RoundTrip.sltui_row (extract_high (extract_high (extract_low extract_all))) (extract_high (extract_low extract_all)) (extract_low extract_all)))

theorem RoundTrip.lui_row {w : Word32} {x1 : BitVec 5} {x2 : BitVec 16} (hf0 : w.extractLsb' 21 5 = x1) (hf1 : w.extractLsb' 0 16 = x2) :
    candidate08 w = some (.lui x1 x2) := by
  subst hf0 hf1
  delta candidate08
  rfl

theorem RoundTrip.lui : ∀ x1 x2, RoundTrip.Statement (.lui x1 x2) := by
  intro x1 x2
  exact RoundTrip.of_one rfl (RoundTrip.isLong_major (m := 0x8#6) (extract_high (extract_high (extract_high rfl)))) ((RoundTrip.major08 (extract_high (extract_high (extract_high rfl)))).trans (RoundTrip.lui_row (extract_high (extract_high (extract_low extract_all))) (extract_low extract_all)))

theorem RoundTrip.insh_row {w : Word32} {x1 : BitVec 5} {x2 : BitVec 5} {x3 : BitVec 16} (hf0 : w.extractLsb' 21 5 = x1) (hf1 : w.extractLsb' 16 5 = x2) (hf2 : w.extractLsb' 0 16 = x3) :
    candidate09 w = some (.insh x1 x2 x3) := by
  subst hf0 hf1 hf2
  delta candidate09
  rfl

theorem RoundTrip.insh : ∀ x1 x2 x3, RoundTrip.Statement (.insh x1 x2 x3) := by
  intro x1 x2 x3
  exact RoundTrip.of_one rfl (RoundTrip.isLong_major (m := 0x9#6) (extract_high (extract_high (extract_high rfl)))) ((RoundTrip.major09 (extract_high (extract_high (extract_high rfl)))).trans (RoundTrip.insh_row (extract_high (extract_high (extract_low extract_all))) (extract_high (extract_low extract_all)) (extract_low extract_all)))

theorem RoundTrip.slli_row {w : Word32} {x1 : BitVec 5} {x2 : BitVec 5} {x3 : BitVec 6} (hs0 : w.extractLsb' 8 8 = 0x0#8) (hf0 : w.extractLsb' 21 5 = x1) (hf1 : w.extractLsb' 16 5 = x2) (hf2 : w.extractLsb' 0 6 = x3) :
    candidate0A w = some (.slli x1 x2 x3) := by
  subst hf0 hf1 hf2
  delta candidate0A
  rw [hs0]
  rfl

theorem RoundTrip.slli : ∀ x1 x2 x3, RoundTrip.Statement (.slli x1 x2 x3) := by
  intro x1 x2 x3
  exact RoundTrip.of_one rfl (RoundTrip.isLong_major (m := 0xa#6) (extract_high (extract_high (extract_high (extract_high rfl))))) ((RoundTrip.major0A (extract_high (extract_high (extract_high (extract_high rfl))))).trans (RoundTrip.slli_row (extract_high (extract_low rfl)) (extract_high (extract_high (extract_high (extract_low extract_all)))) (extract_high (extract_high (extract_low extract_all))) (extract_low extract_all)))

theorem RoundTrip.srli_row {w : Word32} {x1 : BitVec 5} {x2 : BitVec 5} {x3 : BitVec 6} (hs0 : w.extractLsb' 8 8 = 0x1#8) (hf0 : w.extractLsb' 21 5 = x1) (hf1 : w.extractLsb' 16 5 = x2) (hf2 : w.extractLsb' 0 6 = x3) :
    candidate0A w = some (.srli x1 x2 x3) := by
  subst hf0 hf1 hf2
  delta candidate0A
  rw [hs0]
  rfl

theorem RoundTrip.srli : ∀ x1 x2 x3, RoundTrip.Statement (.srli x1 x2 x3) := by
  intro x1 x2 x3
  exact RoundTrip.of_one rfl (RoundTrip.isLong_major (m := 0xa#6) (extract_high (extract_high (extract_high (extract_high rfl))))) ((RoundTrip.major0A (extract_high (extract_high (extract_high (extract_high rfl))))).trans (RoundTrip.srli_row (extract_high (extract_low rfl)) (extract_high (extract_high (extract_high (extract_low extract_all)))) (extract_high (extract_high (extract_low extract_all))) (extract_low extract_all)))

theorem RoundTrip.srai_row {w : Word32} {x1 : BitVec 5} {x2 : BitVec 5} {x3 : BitVec 6} (hs0 : w.extractLsb' 8 8 = 0x2#8) (hf0 : w.extractLsb' 21 5 = x1) (hf1 : w.extractLsb' 16 5 = x2) (hf2 : w.extractLsb' 0 6 = x3) :
    candidate0A w = some (.srai x1 x2 x3) := by
  subst hf0 hf1 hf2
  delta candidate0A
  rw [hs0]
  rfl

theorem RoundTrip.srai : ∀ x1 x2 x3, RoundTrip.Statement (.srai x1 x2 x3) := by
  intro x1 x2 x3
  exact RoundTrip.of_one rfl (RoundTrip.isLong_major (m := 0xa#6) (extract_high (extract_high (extract_high (extract_high rfl))))) ((RoundTrip.major0A (extract_high (extract_high (extract_high (extract_high rfl))))).trans (RoundTrip.srai_row (extract_high (extract_low rfl)) (extract_high (extract_high (extract_high (extract_low extract_all)))) (extract_high (extract_high (extract_low extract_all))) (extract_low extract_all)))

theorem RoundTrip.bfxu_row {w : Word32} {x1 : BitVec 5} {x2 : BitVec 5} {x3 : BitVec 6} {x4 : BitVec 6} (hs0 : w.extractLsb' 15 1 = 0x0#1) (hf0 : w.extractLsb' 21 5 = x1) (hf1 : w.extractLsb' 16 5 = x2) (hf2 : w.extractLsb' 6 6 = x3) (hf3 : w.extractLsb' 0 6 = x4) :
    candidate0B w = some (.bfxu x1 x2 x3 x4) := by
  subst hf0 hf1 hf2 hf3
  delta candidate0B
  rw [hs0]
  rfl

theorem RoundTrip.bfxu : ∀ x1 x2 x3 x4, RoundTrip.Statement (.bfxu x1 x2 x3 x4) := by
  intro x1 x2 x3 x4
  exact RoundTrip.of_one rfl (RoundTrip.isLong_major (m := 0xb#6) (extract_high (extract_high (extract_high (extract_high (extract_high rfl)))))) ((RoundTrip.major0B (extract_high (extract_high (extract_high (extract_high (extract_high rfl)))))).trans (RoundTrip.bfxu_row (extract_high (extract_high (extract_low rfl))) (extract_high (extract_high (extract_high (extract_high (extract_low extract_all))))) (extract_high (extract_high (extract_high (extract_low extract_all)))) (extract_high (extract_low extract_all)) (extract_low extract_all)))

theorem RoundTrip.bfxs_row {w : Word32} {x1 : BitVec 5} {x2 : BitVec 5} {x3 : BitVec 6} {x4 : BitVec 6} (hs0 : w.extractLsb' 15 1 = 0x1#1) (hf0 : w.extractLsb' 21 5 = x1) (hf1 : w.extractLsb' 16 5 = x2) (hf2 : w.extractLsb' 6 6 = x3) (hf3 : w.extractLsb' 0 6 = x4) :
    candidate0B w = some (.bfxs x1 x2 x3 x4) := by
  subst hf0 hf1 hf2 hf3
  delta candidate0B
  rw [hs0]
  rfl

theorem RoundTrip.bfxs : ∀ x1 x2 x3 x4, RoundTrip.Statement (.bfxs x1 x2 x3 x4) := by
  intro x1 x2 x3 x4
  exact RoundTrip.of_one rfl (RoundTrip.isLong_major (m := 0xb#6) (extract_high (extract_high (extract_high (extract_high (extract_high rfl)))))) ((RoundTrip.major0B (extract_high (extract_high (extract_high (extract_high (extract_high rfl)))))).trans (RoundTrip.bfxs_row (extract_high (extract_high (extract_low rfl))) (extract_high (extract_high (extract_high (extract_high (extract_low extract_all))))) (extract_high (extract_high (extract_high (extract_low extract_all)))) (extract_high (extract_low extract_all)) (extract_low extract_all)))

theorem RoundTrip.bfi_row {w : Word32} {x1 : BitVec 5} {x2 : BitVec 5} {x3 : BitVec 6} {x4 : BitVec 6} (hf0 : w.extractLsb' 21 5 = x1) (hf1 : w.extractLsb' 16 5 = x2) (hf2 : w.extractLsb' 6 6 = x3) (hf3 : w.extractLsb' 0 6 = x4) :
    candidate0C w = some (.bfi x1 x2 x3 x4) := by
  subst hf0 hf1 hf2 hf3
  delta candidate0C
  rfl

theorem RoundTrip.bfi : ∀ x1 x2 x3 x4, RoundTrip.Statement (.bfi x1 x2 x3 x4) := by
  intro x1 x2 x3 x4
  exact RoundTrip.of_one rfl (RoundTrip.isLong_major (m := 0xc#6) (extract_high (extract_high (extract_high (extract_high (extract_high rfl)))))) ((RoundTrip.major0C (extract_high (extract_high (extract_high (extract_high (extract_high rfl)))))).trans (RoundTrip.bfi_row (extract_high (extract_high (extract_high (extract_high (extract_low extract_all))))) (extract_high (extract_high (extract_high (extract_low extract_all)))) (extract_high (extract_low extract_all)) (extract_low extract_all)))

theorem RoundTrip.addpc_row {w : Word32} {x1 : BitVec 5} {x2 : BitVec 21} (hf0 : w.extractLsb' 21 5 = x1) (hf1 : w.extractLsb' 0 21 = x2) :
    candidate0D w = some (.addpc x1 x2) := by
  subst hf0 hf1
  delta candidate0D
  rfl

theorem RoundTrip.addpc : ∀ x1 x2, RoundTrip.Statement (.addpc x1 x2) := by
  intro x1 x2
  exact RoundTrip.of_one rfl (RoundTrip.isLong_major (m := 0xd#6) (extract_high (extract_high rfl))) ((RoundTrip.major0D (extract_high (extract_high rfl))).trans (RoundTrip.addpc_row (extract_high (extract_low extract_all)) (extract_low extract_all)))

theorem RoundTrip.beq_row {w : Word32} {x1 : BitVec 5} {x2 : BitVec 5} {x3 : BitVec 16} (hf0 : w.extractLsb' 21 5 = x1) (hf1 : w.extractLsb' 16 5 = x2) (hf2 : w.extractLsb' 0 16 = x3) :
    candidate0E w = some (.beq x1 x2 x3) := by
  subst hf0 hf1 hf2
  delta candidate0E
  rfl

theorem RoundTrip.beq : ∀ x1 x2 x3, RoundTrip.Statement (.beq x1 x2 x3) := by
  intro x1 x2 x3
  exact RoundTrip.of_one rfl (RoundTrip.isLong_major (m := 0xe#6) (extract_high (extract_high (extract_high rfl)))) ((RoundTrip.major0E (extract_high (extract_high (extract_high rfl)))).trans (RoundTrip.beq_row (extract_high (extract_high (extract_low extract_all))) (extract_high (extract_low extract_all)) (extract_low extract_all)))

theorem RoundTrip.bne_row {w : Word32} {x1 : BitVec 5} {x2 : BitVec 5} {x3 : BitVec 16} (hf0 : w.extractLsb' 21 5 = x1) (hf1 : w.extractLsb' 16 5 = x2) (hf2 : w.extractLsb' 0 16 = x3) :
    candidate0F w = some (.bne x1 x2 x3) := by
  subst hf0 hf1 hf2
  delta candidate0F
  rfl

theorem RoundTrip.bne : ∀ x1 x2 x3, RoundTrip.Statement (.bne x1 x2 x3) := by
  intro x1 x2 x3
  exact RoundTrip.of_one rfl (RoundTrip.isLong_major (m := 0xf#6) (extract_high (extract_high (extract_high rfl)))) ((RoundTrip.major0F (extract_high (extract_high (extract_high rfl)))).trans (RoundTrip.bne_row (extract_high (extract_high (extract_low extract_all))) (extract_high (extract_low extract_all)) (extract_low extract_all)))

theorem RoundTrip.blt_row {w : Word32} {x1 : BitVec 5} {x2 : BitVec 5} {x3 : BitVec 16} (hf0 : w.extractLsb' 21 5 = x1) (hf1 : w.extractLsb' 16 5 = x2) (hf2 : w.extractLsb' 0 16 = x3) :
    candidate10 w = some (.blt x1 x2 x3) := by
  subst hf0 hf1 hf2
  delta candidate10
  rfl

theorem RoundTrip.blt : ∀ x1 x2 x3, RoundTrip.Statement (.blt x1 x2 x3) := by
  intro x1 x2 x3
  exact RoundTrip.of_one rfl (RoundTrip.isLong_major (m := 0x10#6) (extract_high (extract_high (extract_high rfl)))) ((RoundTrip.major10 (extract_high (extract_high (extract_high rfl)))).trans (RoundTrip.blt_row (extract_high (extract_high (extract_low extract_all))) (extract_high (extract_low extract_all)) (extract_low extract_all)))

theorem RoundTrip.bge_row {w : Word32} {x1 : BitVec 5} {x2 : BitVec 5} {x3 : BitVec 16} (hf0 : w.extractLsb' 21 5 = x1) (hf1 : w.extractLsb' 16 5 = x2) (hf2 : w.extractLsb' 0 16 = x3) :
    candidate11 w = some (.bge x1 x2 x3) := by
  subst hf0 hf1 hf2
  delta candidate11
  rfl

theorem RoundTrip.bge : ∀ x1 x2 x3, RoundTrip.Statement (.bge x1 x2 x3) := by
  intro x1 x2 x3
  exact RoundTrip.of_one rfl (RoundTrip.isLong_major (m := 0x11#6) (extract_high (extract_high (extract_high rfl)))) ((RoundTrip.major11 (extract_high (extract_high (extract_high rfl)))).trans (RoundTrip.bge_row (extract_high (extract_high (extract_low extract_all))) (extract_high (extract_low extract_all)) (extract_low extract_all)))

theorem RoundTrip.bltu_row {w : Word32} {x1 : BitVec 5} {x2 : BitVec 5} {x3 : BitVec 16} (hf0 : w.extractLsb' 21 5 = x1) (hf1 : w.extractLsb' 16 5 = x2) (hf2 : w.extractLsb' 0 16 = x3) :
    candidate12 w = some (.bltu x1 x2 x3) := by
  subst hf0 hf1 hf2
  delta candidate12
  rfl

theorem RoundTrip.bltu : ∀ x1 x2 x3, RoundTrip.Statement (.bltu x1 x2 x3) := by
  intro x1 x2 x3
  exact RoundTrip.of_one rfl (RoundTrip.isLong_major (m := 0x12#6) (extract_high (extract_high (extract_high rfl)))) ((RoundTrip.major12 (extract_high (extract_high (extract_high rfl)))).trans (RoundTrip.bltu_row (extract_high (extract_high (extract_low extract_all))) (extract_high (extract_low extract_all)) (extract_low extract_all)))

theorem RoundTrip.bgeu_row {w : Word32} {x1 : BitVec 5} {x2 : BitVec 5} {x3 : BitVec 16} (hf0 : w.extractLsb' 21 5 = x1) (hf1 : w.extractLsb' 16 5 = x2) (hf2 : w.extractLsb' 0 16 = x3) :
    candidate13 w = some (.bgeu x1 x2 x3) := by
  subst hf0 hf1 hf2
  delta candidate13
  rfl

theorem RoundTrip.bgeu : ∀ x1 x2 x3, RoundTrip.Statement (.bgeu x1 x2 x3) := by
  intro x1 x2 x3
  exact RoundTrip.of_one rfl (RoundTrip.isLong_major (m := 0x13#6) (extract_high (extract_high (extract_high rfl)))) ((RoundTrip.major13 (extract_high (extract_high (extract_high rfl)))).trans (RoundTrip.bgeu_row (extract_high (extract_high (extract_low extract_all))) (extract_high (extract_low extract_all)) (extract_low extract_all)))

theorem RoundTrip.j_row {w : Word32} {x1 : BitVec 26} (hf0 : w.extractLsb' 0 26 = x1) :
    candidate14 w = some (.j x1) := by
  subst hf0
  delta candidate14
  rfl

theorem RoundTrip.j : ∀ x1, RoundTrip.Statement (.j x1) := by
  intro x1
  exact RoundTrip.of_one rfl (RoundTrip.isLong_major (m := 0x14#6) (extract_high rfl)) ((RoundTrip.major14 (extract_high rfl)).trans (RoundTrip.j_row (extract_low extract_all)))

theorem RoundTrip.jal_row {w : Word32} {x1 : BitVec 26} (hf0 : w.extractLsb' 0 26 = x1) :
    candidate15 w = some (.jal x1) := by
  subst hf0
  delta candidate15
  rfl

theorem RoundTrip.jal : ∀ x1, RoundTrip.Statement (.jal x1) := by
  intro x1
  exact RoundTrip.of_one rfl (RoundTrip.isLong_major (m := 0x15#6) (extract_high rfl)) ((RoundTrip.major15 (extract_high rfl)).trans (RoundTrip.jal_row (extract_low extract_all)))

theorem RoundTrip.jr_row {w : Word32} {x1 : BitVec 5} (hs0 : w.extractLsb' 0 11 = 0x0#11) (hf0 : w.extractLsb' 16 5 = x1) :
    candidate16 w = some (.jr x1) := by
  subst hf0
  delta candidate16
  rw [hs0]
  rfl

theorem RoundTrip.jr : ∀ x1, RoundTrip.Statement (.jr x1) := by
  intro x1
  exact RoundTrip.of_one rfl (RoundTrip.isLong_major (m := 0x16#6) (extract_high (extract_high (extract_high rfl)))) ((RoundTrip.major16 (extract_high (extract_high (extract_high rfl)))).trans (RoundTrip.jr_row (extract_low rfl) (extract_high (extract_low extract_all))))

theorem RoundTrip.jalr_row {w : Word32} {x1 : BitVec 5} {x2 : BitVec 5} (hs0 : w.extractLsb' 0 11 = 0x1#11) (hf0 : w.extractLsb' 21 5 = x1) (hf1 : w.extractLsb' 16 5 = x2) :
    candidate16 w = some (.jalr x1 x2) := by
  subst hf0 hf1
  delta candidate16
  rw [hs0]
  rfl

theorem RoundTrip.jalr : ∀ x1 x2, RoundTrip.Statement (.jalr x1 x2) := by
  intro x1 x2
  exact RoundTrip.of_one rfl (RoundTrip.isLong_major (m := 0x16#6) (extract_high (extract_high (extract_high rfl)))) ((RoundTrip.major16 (extract_high (extract_high (extract_high rfl)))).trans (RoundTrip.jalr_row (extract_low rfl) (extract_high (extract_high (extract_low extract_all))) (extract_high (extract_low extract_all))))

theorem RoundTrip.loop_row {w : Word32} {x1 : BitVec 5} {x2 : BitVec 16} (hf0 : w.extractLsb' 21 5 = x1) (hf1 : w.extractLsb' 0 16 = x2) :
    candidate17 w = some (.loop x1 x2) := by
  subst hf0 hf1
  delta candidate17
  rfl

theorem RoundTrip.loop : ∀ x1 x2, RoundTrip.Statement (.loop x1 x2) := by
  intro x1 x2
  exact RoundTrip.of_one rfl (RoundTrip.isLong_major (m := 0x17#6) (extract_high (extract_high (extract_high rfl)))) ((RoundTrip.major17 (extract_high (extract_high (extract_high rfl)))).trans (RoundTrip.loop_row (extract_high (extract_high (extract_low extract_all))) (extract_low extract_all)))

theorem RoundTrip.ld_row {w : Word32} {x1 : BitVec 5} {x2 : BitVec 5} {x3 : BitVec 2} {x4 : BitVec 14} (hf0 : w.extractLsb' 21 5 = x1) (hf1 : w.extractLsb' 16 5 = x2) (hf2 : w.extractLsb' 14 2 = x3) (hf3 : w.extractLsb' 0 14 = x4) :
    candidate18 w = some (.ld x1 x2 x3 x4) := by
  subst hf0 hf1 hf2 hf3
  delta candidate18
  rfl

theorem RoundTrip.ld : ∀ x1 x2 x3 x4, RoundTrip.Statement (.ld x1 x2 x3 x4) := by
  intro x1 x2 x3 x4
  exact RoundTrip.of_one rfl (RoundTrip.isLong_major (m := 0x18#6) (extract_high (extract_high (extract_high (extract_high rfl))))) ((RoundTrip.major18 (extract_high (extract_high (extract_high (extract_high rfl))))).trans (RoundTrip.ld_row (extract_high (extract_high (extract_high (extract_low extract_all)))) (extract_high (extract_high (extract_low extract_all))) (extract_high (extract_low extract_all)) (extract_low extract_all)))

theorem RoundTrip.ldu_row {w : Word32} {x1 : BitVec 5} {x2 : BitVec 5} {x3 : BitVec 2} {x4 : BitVec 14} (hf0 : w.extractLsb' 21 5 = x1) (hf1 : w.extractLsb' 16 5 = x2) (hf2 : w.extractLsb' 14 2 = x3) (hf3 : w.extractLsb' 0 14 = x4) :
    candidate19 w = some (.ldu x1 x2 x3 x4) := by
  subst hf0 hf1 hf2 hf3
  delta candidate19
  rfl

theorem RoundTrip.ldu : ∀ x1 x2 x3 x4, RoundTrip.Statement (.ldu x1 x2 x3 x4) := by
  intro x1 x2 x3 x4
  exact RoundTrip.of_one rfl (RoundTrip.isLong_major (m := 0x19#6) (extract_high (extract_high (extract_high (extract_high rfl))))) ((RoundTrip.major19 (extract_high (extract_high (extract_high (extract_high rfl))))).trans (RoundTrip.ldu_row (extract_high (extract_high (extract_high (extract_low extract_all)))) (extract_high (extract_high (extract_low extract_all))) (extract_high (extract_low extract_all)) (extract_low extract_all)))

theorem RoundTrip.st_row {w : Word32} {x1 : BitVec 5} {x2 : BitVec 5} {x3 : BitVec 2} {x4 : BitVec 14} (hf0 : w.extractLsb' 21 5 = x1) (hf1 : w.extractLsb' 16 5 = x2) (hf2 : w.extractLsb' 14 2 = x3) (hf3 : w.extractLsb' 0 14 = x4) :
    candidate1A w = some (.st x1 x2 x3 x4) := by
  subst hf0 hf1 hf2 hf3
  delta candidate1A
  rfl

theorem RoundTrip.st : ∀ x1 x2 x3 x4, RoundTrip.Statement (.st x1 x2 x3 x4) := by
  intro x1 x2 x3 x4
  exact RoundTrip.of_one rfl (RoundTrip.isLong_major (m := 0x1a#6) (extract_high (extract_high (extract_high (extract_high rfl))))) ((RoundTrip.major1A (extract_high (extract_high (extract_high (extract_high rfl))))).trans (RoundTrip.st_row (extract_high (extract_high (extract_high (extract_low extract_all)))) (extract_high (extract_high (extract_low extract_all))) (extract_high (extract_low extract_all)) (extract_low extract_all)))

theorem RoundTrip.ldl_row {w : Word32} {x1 : BitVec 5} {x2 : BitVec 5} {x3 : BitVec 2} {x4 : BitVec 14} (hf0 : w.extractLsb' 21 5 = x1) (hf1 : w.extractLsb' 16 5 = x2) (hf2 : w.extractLsb' 14 2 = x3) (hf3 : w.extractLsb' 0 14 = x4) :
    candidate1B w = some (.ldl x1 x2 x3 x4) := by
  subst hf0 hf1 hf2 hf3
  delta candidate1B
  rfl

theorem RoundTrip.ldl : ∀ x1 x2 x3 x4, RoundTrip.Statement (.ldl x1 x2 x3 x4) := by
  intro x1 x2 x3 x4
  exact RoundTrip.of_one rfl (RoundTrip.isLong_major (m := 0x1b#6) (extract_high (extract_high (extract_high (extract_high rfl))))) ((RoundTrip.major1B (extract_high (extract_high (extract_high (extract_high rfl))))).trans (RoundTrip.ldl_row (extract_high (extract_high (extract_high (extract_low extract_all)))) (extract_high (extract_high (extract_low extract_all))) (extract_high (extract_low extract_all)) (extract_low extract_all)))

theorem RoundTrip.vadd_row {w : Word32} {x1 : BitVec 5} {x2 : BitVec 5} {x3 : BitVec 5} {x4 : BitVec 3} (hs0 : w.extractLsb' 0 8 = 0x0#8) (hf0 : w.extractLsb' 21 5 = x1) (hf1 : w.extractLsb' 16 5 = x2) (hf2 : w.extractLsb' 11 5 = x3) (hf3 : w.extractLsb' 8 3 = x4) :
    candidate1C w = some (.vadd x1 x2 x3 x4) := by
  subst hf0 hf1 hf2 hf3
  delta candidate1C
  rw [hs0]
  rfl

theorem RoundTrip.vadd : ∀ x1 x2 x3 x4, RoundTrip.Statement (.vadd x1 x2 x3 x4) := by
  intro x1 x2 x3 x4
  exact RoundTrip.of_one rfl (RoundTrip.isLong_major (m := 0x1c#6) (extract_high (extract_high (extract_high (extract_high (extract_high rfl)))))) ((RoundTrip.major1C (extract_high (extract_high (extract_high (extract_high (extract_high rfl)))))).trans (RoundTrip.vadd_row (extract_low rfl) (extract_high (extract_high (extract_high (extract_high (extract_low extract_all))))) (extract_high (extract_high (extract_high (extract_low extract_all)))) (extract_high (extract_high (extract_low extract_all))) (extract_high (extract_low extract_all))))

theorem RoundTrip.vsub_row {w : Word32} {x1 : BitVec 5} {x2 : BitVec 5} {x3 : BitVec 5} {x4 : BitVec 3} (hs0 : w.extractLsb' 0 8 = 0x1#8) (hf0 : w.extractLsb' 21 5 = x1) (hf1 : w.extractLsb' 16 5 = x2) (hf2 : w.extractLsb' 11 5 = x3) (hf3 : w.extractLsb' 8 3 = x4) :
    candidate1C w = some (.vsub x1 x2 x3 x4) := by
  subst hf0 hf1 hf2 hf3
  delta candidate1C
  rw [hs0]
  rfl

theorem RoundTrip.vsub : ∀ x1 x2 x3 x4, RoundTrip.Statement (.vsub x1 x2 x3 x4) := by
  intro x1 x2 x3 x4
  exact RoundTrip.of_one rfl (RoundTrip.isLong_major (m := 0x1c#6) (extract_high (extract_high (extract_high (extract_high (extract_high rfl)))))) ((RoundTrip.major1C (extract_high (extract_high (extract_high (extract_high (extract_high rfl)))))).trans (RoundTrip.vsub_row (extract_low rfl) (extract_high (extract_high (extract_high (extract_high (extract_low extract_all))))) (extract_high (extract_high (extract_high (extract_low extract_all)))) (extract_high (extract_high (extract_low extract_all))) (extract_high (extract_low extract_all))))

theorem RoundTrip.vmul_row {w : Word32} {x1 : BitVec 5} {x2 : BitVec 5} {x3 : BitVec 5} {x4 : BitVec 3} (hs0 : w.extractLsb' 0 8 = 0x2#8) (hf0 : w.extractLsb' 21 5 = x1) (hf1 : w.extractLsb' 16 5 = x2) (hf2 : w.extractLsb' 11 5 = x3) (hf3 : w.extractLsb' 8 3 = x4) :
    candidate1C w = some (.vmul x1 x2 x3 x4) := by
  subst hf0 hf1 hf2 hf3
  delta candidate1C
  rw [hs0]
  rfl

theorem RoundTrip.vmul : ∀ x1 x2 x3 x4, RoundTrip.Statement (.vmul x1 x2 x3 x4) := by
  intro x1 x2 x3 x4
  exact RoundTrip.of_one rfl (RoundTrip.isLong_major (m := 0x1c#6) (extract_high (extract_high (extract_high (extract_high (extract_high rfl)))))) ((RoundTrip.major1C (extract_high (extract_high (extract_high (extract_high (extract_high rfl)))))).trans (RoundTrip.vmul_row (extract_low rfl) (extract_high (extract_high (extract_high (extract_high (extract_low extract_all))))) (extract_high (extract_high (extract_high (extract_low extract_all)))) (extract_high (extract_high (extract_low extract_all))) (extract_high (extract_low extract_all))))

theorem RoundTrip.vdiv_row {w : Word32} {x1 : BitVec 5} {x2 : BitVec 5} {x3 : BitVec 5} {x4 : BitVec 3} (hs0 : w.extractLsb' 0 8 = 0x3#8) (hf0 : w.extractLsb' 21 5 = x1) (hf1 : w.extractLsb' 16 5 = x2) (hf2 : w.extractLsb' 11 5 = x3) (hf3 : w.extractLsb' 8 3 = x4) :
    candidate1C w = some (.vdiv x1 x2 x3 x4) := by
  subst hf0 hf1 hf2 hf3
  delta candidate1C
  rw [hs0]
  rfl

theorem RoundTrip.vdiv : ∀ x1 x2 x3 x4, RoundTrip.Statement (.vdiv x1 x2 x3 x4) := by
  intro x1 x2 x3 x4
  exact RoundTrip.of_one rfl (RoundTrip.isLong_major (m := 0x1c#6) (extract_high (extract_high (extract_high (extract_high (extract_high rfl)))))) ((RoundTrip.major1C (extract_high (extract_high (extract_high (extract_high (extract_high rfl)))))).trans (RoundTrip.vdiv_row (extract_low rfl) (extract_high (extract_high (extract_high (extract_high (extract_low extract_all))))) (extract_high (extract_high (extract_high (extract_low extract_all)))) (extract_high (extract_high (extract_low extract_all))) (extract_high (extract_low extract_all))))

theorem RoundTrip.vmin_row {w : Word32} {x1 : BitVec 5} {x2 : BitVec 5} {x3 : BitVec 5} {x4 : BitVec 3} (hs0 : w.extractLsb' 0 8 = 0x4#8) (hf0 : w.extractLsb' 21 5 = x1) (hf1 : w.extractLsb' 16 5 = x2) (hf2 : w.extractLsb' 11 5 = x3) (hf3 : w.extractLsb' 8 3 = x4) :
    candidate1C w = some (.vmin x1 x2 x3 x4) := by
  subst hf0 hf1 hf2 hf3
  delta candidate1C
  rw [hs0]
  rfl

theorem RoundTrip.vmin : ∀ x1 x2 x3 x4, RoundTrip.Statement (.vmin x1 x2 x3 x4) := by
  intro x1 x2 x3 x4
  exact RoundTrip.of_one rfl (RoundTrip.isLong_major (m := 0x1c#6) (extract_high (extract_high (extract_high (extract_high (extract_high rfl)))))) ((RoundTrip.major1C (extract_high (extract_high (extract_high (extract_high (extract_high rfl)))))).trans (RoundTrip.vmin_row (extract_low rfl) (extract_high (extract_high (extract_high (extract_high (extract_low extract_all))))) (extract_high (extract_high (extract_high (extract_low extract_all)))) (extract_high (extract_high (extract_low extract_all))) (extract_high (extract_low extract_all))))

theorem RoundTrip.vmax_row {w : Word32} {x1 : BitVec 5} {x2 : BitVec 5} {x3 : BitVec 5} {x4 : BitVec 3} (hs0 : w.extractLsb' 0 8 = 0x5#8) (hf0 : w.extractLsb' 21 5 = x1) (hf1 : w.extractLsb' 16 5 = x2) (hf2 : w.extractLsb' 11 5 = x3) (hf3 : w.extractLsb' 8 3 = x4) :
    candidate1C w = some (.vmax x1 x2 x3 x4) := by
  subst hf0 hf1 hf2 hf3
  delta candidate1C
  rw [hs0]
  rfl

theorem RoundTrip.vmax : ∀ x1 x2 x3 x4, RoundTrip.Statement (.vmax x1 x2 x3 x4) := by
  intro x1 x2 x3 x4
  exact RoundTrip.of_one rfl (RoundTrip.isLong_major (m := 0x1c#6) (extract_high (extract_high (extract_high (extract_high (extract_high rfl)))))) ((RoundTrip.major1C (extract_high (extract_high (extract_high (extract_high (extract_high rfl)))))).trans (RoundTrip.vmax_row (extract_low rfl) (extract_high (extract_high (extract_high (extract_high (extract_low extract_all))))) (extract_high (extract_high (extract_high (extract_low extract_all)))) (extract_high (extract_high (extract_low extract_all))) (extract_high (extract_low extract_all))))

theorem RoundTrip.vabs_row {w : Word32} {x1 : BitVec 5} {x2 : BitVec 5} {x3 : BitVec 3} (hs0 : w.extractLsb' 0 8 = 0x6#8) (hf0 : w.extractLsb' 21 5 = x1) (hf1 : w.extractLsb' 16 5 = x2) (hf2 : w.extractLsb' 8 3 = x3) :
    candidate1C w = some (.vabs x1 x2 x3) := by
  subst hf0 hf1 hf2
  delta candidate1C
  rw [hs0]
  rfl

theorem RoundTrip.vabs : ∀ x1 x2 x3, RoundTrip.Statement (.vabs x1 x2 x3) := by
  intro x1 x2 x3
  exact RoundTrip.of_one rfl (RoundTrip.isLong_major (m := 0x1c#6) (extract_high (extract_high (extract_high (extract_high (extract_high rfl)))))) ((RoundTrip.major1C (extract_high (extract_high (extract_high (extract_high (extract_high rfl)))))).trans (RoundTrip.vabs_row (extract_low rfl) (extract_high (extract_high (extract_high (extract_high (extract_low extract_all))))) (extract_high (extract_high (extract_high (extract_low extract_all)))) (extract_high (extract_low extract_all))))

theorem RoundTrip.vneg_row {w : Word32} {x1 : BitVec 5} {x2 : BitVec 5} {x3 : BitVec 3} (hs0 : w.extractLsb' 0 8 = 0x7#8) (hf0 : w.extractLsb' 21 5 = x1) (hf1 : w.extractLsb' 16 5 = x2) (hf2 : w.extractLsb' 8 3 = x3) :
    candidate1C w = some (.vneg x1 x2 x3) := by
  subst hf0 hf1 hf2
  delta candidate1C
  rw [hs0]
  rfl

theorem RoundTrip.vneg : ∀ x1 x2 x3, RoundTrip.Statement (.vneg x1 x2 x3) := by
  intro x1 x2 x3
  exact RoundTrip.of_one rfl (RoundTrip.isLong_major (m := 0x1c#6) (extract_high (extract_high (extract_high (extract_high (extract_high rfl)))))) ((RoundTrip.major1C (extract_high (extract_high (extract_high (extract_high (extract_high rfl)))))).trans (RoundTrip.vneg_row (extract_low rfl) (extract_high (extract_high (extract_high (extract_high (extract_low extract_all))))) (extract_high (extract_high (extract_high (extract_low extract_all)))) (extract_high (extract_low extract_all))))

theorem RoundTrip.vsqrt_row {w : Word32} {x1 : BitVec 5} {x2 : BitVec 5} {x3 : BitVec 3} (hs0 : w.extractLsb' 0 8 = 0x8#8) (hf0 : w.extractLsb' 21 5 = x1) (hf1 : w.extractLsb' 16 5 = x2) (hf2 : w.extractLsb' 8 3 = x3) :
    candidate1C w = some (.vsqrt x1 x2 x3) := by
  subst hf0 hf1 hf2
  delta candidate1C
  rw [hs0]
  rfl

theorem RoundTrip.vsqrt : ∀ x1 x2 x3, RoundTrip.Statement (.vsqrt x1 x2 x3) := by
  intro x1 x2 x3
  exact RoundTrip.of_one rfl (RoundTrip.isLong_major (m := 0x1c#6) (extract_high (extract_high (extract_high (extract_high (extract_high rfl)))))) ((RoundTrip.major1C (extract_high (extract_high (extract_high (extract_high (extract_high rfl)))))).trans (RoundTrip.vsqrt_row (extract_low rfl) (extract_high (extract_high (extract_high (extract_high (extract_low extract_all))))) (extract_high (extract_high (extract_high (extract_low extract_all)))) (extract_high (extract_low extract_all))))

theorem RoundTrip.vrcp_row {w : Word32} {x1 : BitVec 5} {x2 : BitVec 5} {x3 : BitVec 3} (hs0 : w.extractLsb' 0 8 = 0x9#8) (hf0 : w.extractLsb' 21 5 = x1) (hf1 : w.extractLsb' 16 5 = x2) (hf2 : w.extractLsb' 8 3 = x3) :
    candidate1C w = some (.vrcp x1 x2 x3) := by
  subst hf0 hf1 hf2
  delta candidate1C
  rw [hs0]
  rfl

theorem RoundTrip.vrcp : ∀ x1 x2 x3, RoundTrip.Statement (.vrcp x1 x2 x3) := by
  intro x1 x2 x3
  exact RoundTrip.of_one rfl (RoundTrip.isLong_major (m := 0x1c#6) (extract_high (extract_high (extract_high (extract_high (extract_high rfl)))))) ((RoundTrip.major1C (extract_high (extract_high (extract_high (extract_high (extract_high rfl)))))).trans (RoundTrip.vrcp_row (extract_low rfl) (extract_high (extract_high (extract_high (extract_high (extract_low extract_all))))) (extract_high (extract_high (extract_high (extract_low extract_all)))) (extract_high (extract_low extract_all))))

theorem RoundTrip.vrsq_row {w : Word32} {x1 : BitVec 5} {x2 : BitVec 5} {x3 : BitVec 3} (hs0 : w.extractLsb' 0 8 = 0xa#8) (hf0 : w.extractLsb' 21 5 = x1) (hf1 : w.extractLsb' 16 5 = x2) (hf2 : w.extractLsb' 8 3 = x3) :
    candidate1C w = some (.vrsq x1 x2 x3) := by
  subst hf0 hf1 hf2
  delta candidate1C
  rw [hs0]
  rfl

theorem RoundTrip.vrsq : ∀ x1 x2 x3, RoundTrip.Statement (.vrsq x1 x2 x3) := by
  intro x1 x2 x3
  exact RoundTrip.of_one rfl (RoundTrip.isLong_major (m := 0x1c#6) (extract_high (extract_high (extract_high (extract_high (extract_high rfl)))))) ((RoundTrip.major1C (extract_high (extract_high (extract_high (extract_high (extract_high rfl)))))).trans (RoundTrip.vrsq_row (extract_low rfl) (extract_high (extract_high (extract_high (extract_high (extract_low extract_all))))) (extract_high (extract_high (extract_high (extract_low extract_all)))) (extract_high (extract_low extract_all))))

theorem RoundTrip.vexp2_row {w : Word32} {x1 : BitVec 5} {x2 : BitVec 5} {x3 : BitVec 3} (hs0 : w.extractLsb' 0 8 = 0xb#8) (hf0 : w.extractLsb' 21 5 = x1) (hf1 : w.extractLsb' 16 5 = x2) (hf2 : w.extractLsb' 8 3 = x3) :
    candidate1C w = some (.vexp2 x1 x2 x3) := by
  subst hf0 hf1 hf2
  delta candidate1C
  rw [hs0]
  rfl

theorem RoundTrip.vexp2 : ∀ x1 x2 x3, RoundTrip.Statement (.vexp2 x1 x2 x3) := by
  intro x1 x2 x3
  exact RoundTrip.of_one rfl (RoundTrip.isLong_major (m := 0x1c#6) (extract_high (extract_high (extract_high (extract_high (extract_high rfl)))))) ((RoundTrip.major1C (extract_high (extract_high (extract_high (extract_high (extract_high rfl)))))).trans (RoundTrip.vexp2_row (extract_low rfl) (extract_high (extract_high (extract_high (extract_high (extract_low extract_all))))) (extract_high (extract_high (extract_high (extract_low extract_all)))) (extract_high (extract_low extract_all))))

theorem RoundTrip.vlog2_row {w : Word32} {x1 : BitVec 5} {x2 : BitVec 5} {x3 : BitVec 3} (hs0 : w.extractLsb' 0 8 = 0xc#8) (hf0 : w.extractLsb' 21 5 = x1) (hf1 : w.extractLsb' 16 5 = x2) (hf2 : w.extractLsb' 8 3 = x3) :
    candidate1C w = some (.vlog2 x1 x2 x3) := by
  subst hf0 hf1 hf2
  delta candidate1C
  rw [hs0]
  rfl

theorem RoundTrip.vlog2 : ∀ x1 x2 x3, RoundTrip.Statement (.vlog2 x1 x2 x3) := by
  intro x1 x2 x3
  exact RoundTrip.of_one rfl (RoundTrip.isLong_major (m := 0x1c#6) (extract_high (extract_high (extract_high (extract_high (extract_high rfl)))))) ((RoundTrip.major1C (extract_high (extract_high (extract_high (extract_high (extract_high rfl)))))).trans (RoundTrip.vlog2_row (extract_low rfl) (extract_high (extract_high (extract_high (extract_high (extract_low extract_all))))) (extract_high (extract_high (extract_high (extract_low extract_all)))) (extract_high (extract_low extract_all))))

theorem RoundTrip.vadds_row {w : Word32} {x1 : BitVec 5} {x2 : BitVec 5} {x3 : BitVec 5} {x4 : BitVec 3} (hs0 : w.extractLsb' 0 8 = 0xd#8) (hf0 : w.extractLsb' 21 5 = x1) (hf1 : w.extractLsb' 16 5 = x2) (hf2 : w.extractLsb' 11 5 = x3) (hf3 : w.extractLsb' 8 3 = x4) :
    candidate1C w = some (.vadds x1 x2 x3 x4) := by
  subst hf0 hf1 hf2 hf3
  delta candidate1C
  rw [hs0]
  rfl

theorem RoundTrip.vadds : ∀ x1 x2 x3 x4, RoundTrip.Statement (.vadds x1 x2 x3 x4) := by
  intro x1 x2 x3 x4
  exact RoundTrip.of_one rfl (RoundTrip.isLong_major (m := 0x1c#6) (extract_high (extract_high (extract_high (extract_high (extract_high rfl)))))) ((RoundTrip.major1C (extract_high (extract_high (extract_high (extract_high (extract_high rfl)))))).trans (RoundTrip.vadds_row (extract_low rfl) (extract_high (extract_high (extract_high (extract_high (extract_low extract_all))))) (extract_high (extract_high (extract_high (extract_low extract_all)))) (extract_high (extract_high (extract_low extract_all))) (extract_high (extract_low extract_all))))

theorem RoundTrip.vsubs_row {w : Word32} {x1 : BitVec 5} {x2 : BitVec 5} {x3 : BitVec 5} {x4 : BitVec 3} (hs0 : w.extractLsb' 0 8 = 0xe#8) (hf0 : w.extractLsb' 21 5 = x1) (hf1 : w.extractLsb' 16 5 = x2) (hf2 : w.extractLsb' 11 5 = x3) (hf3 : w.extractLsb' 8 3 = x4) :
    candidate1C w = some (.vsubs x1 x2 x3 x4) := by
  subst hf0 hf1 hf2 hf3
  delta candidate1C
  rw [hs0]
  rfl

theorem RoundTrip.vsubs : ∀ x1 x2 x3 x4, RoundTrip.Statement (.vsubs x1 x2 x3 x4) := by
  intro x1 x2 x3 x4
  exact RoundTrip.of_one rfl (RoundTrip.isLong_major (m := 0x1c#6) (extract_high (extract_high (extract_high (extract_high (extract_high rfl)))))) ((RoundTrip.major1C (extract_high (extract_high (extract_high (extract_high (extract_high rfl)))))).trans (RoundTrip.vsubs_row (extract_low rfl) (extract_high (extract_high (extract_high (extract_high (extract_low extract_all))))) (extract_high (extract_high (extract_high (extract_low extract_all)))) (extract_high (extract_high (extract_low extract_all))) (extract_high (extract_low extract_all))))

theorem RoundTrip.vmulh_row {w : Word32} {x1 : BitVec 5} {x2 : BitVec 5} {x3 : BitVec 5} {x4 : BitVec 3} (hs0 : w.extractLsb' 0 8 = 0xf#8) (hf0 : w.extractLsb' 21 5 = x1) (hf1 : w.extractLsb' 16 5 = x2) (hf2 : w.extractLsb' 11 5 = x3) (hf3 : w.extractLsb' 8 3 = x4) :
    candidate1C w = some (.vmulh x1 x2 x3 x4) := by
  subst hf0 hf1 hf2 hf3
  delta candidate1C
  rw [hs0]
  rfl

theorem RoundTrip.vmulh : ∀ x1 x2 x3 x4, RoundTrip.Statement (.vmulh x1 x2 x3 x4) := by
  intro x1 x2 x3 x4
  exact RoundTrip.of_one rfl (RoundTrip.isLong_major (m := 0x1c#6) (extract_high (extract_high (extract_high (extract_high (extract_high rfl)))))) ((RoundTrip.major1C (extract_high (extract_high (extract_high (extract_high (extract_high rfl)))))).trans (RoundTrip.vmulh_row (extract_low rfl) (extract_high (extract_high (extract_high (extract_high (extract_low extract_all))))) (extract_high (extract_high (extract_high (extract_low extract_all)))) (extract_high (extract_high (extract_low extract_all))) (extract_high (extract_low extract_all))))

theorem RoundTrip.vand_row {w : Word32} {x1 : BitVec 5} {x2 : BitVec 5} {x3 : BitVec 5} {x4 : BitVec 3} (hs0 : w.extractLsb' 0 8 = 0x10#8) (hf0 : w.extractLsb' 21 5 = x1) (hf1 : w.extractLsb' 16 5 = x2) (hf2 : w.extractLsb' 11 5 = x3) (hf3 : w.extractLsb' 8 3 = x4) :
    candidate1C w = some (.vand x1 x2 x3 x4) := by
  subst hf0 hf1 hf2 hf3
  delta candidate1C
  rw [hs0]
  rfl

theorem RoundTrip.vand : ∀ x1 x2 x3 x4, RoundTrip.Statement (.vand x1 x2 x3 x4) := by
  intro x1 x2 x3 x4
  exact RoundTrip.of_one rfl (RoundTrip.isLong_major (m := 0x1c#6) (extract_high (extract_high (extract_high (extract_high (extract_high rfl)))))) ((RoundTrip.major1C (extract_high (extract_high (extract_high (extract_high (extract_high rfl)))))).trans (RoundTrip.vand_row (extract_low rfl) (extract_high (extract_high (extract_high (extract_high (extract_low extract_all))))) (extract_high (extract_high (extract_high (extract_low extract_all)))) (extract_high (extract_high (extract_low extract_all))) (extract_high (extract_low extract_all))))

theorem RoundTrip.vor_row {w : Word32} {x1 : BitVec 5} {x2 : BitVec 5} {x3 : BitVec 5} {x4 : BitVec 3} (hs0 : w.extractLsb' 0 8 = 0x11#8) (hf0 : w.extractLsb' 21 5 = x1) (hf1 : w.extractLsb' 16 5 = x2) (hf2 : w.extractLsb' 11 5 = x3) (hf3 : w.extractLsb' 8 3 = x4) :
    candidate1C w = some (.vor x1 x2 x3 x4) := by
  subst hf0 hf1 hf2 hf3
  delta candidate1C
  rw [hs0]
  rfl

theorem RoundTrip.vor : ∀ x1 x2 x3 x4, RoundTrip.Statement (.vor x1 x2 x3 x4) := by
  intro x1 x2 x3 x4
  exact RoundTrip.of_one rfl (RoundTrip.isLong_major (m := 0x1c#6) (extract_high (extract_high (extract_high (extract_high (extract_high rfl)))))) ((RoundTrip.major1C (extract_high (extract_high (extract_high (extract_high (extract_high rfl)))))).trans (RoundTrip.vor_row (extract_low rfl) (extract_high (extract_high (extract_high (extract_high (extract_low extract_all))))) (extract_high (extract_high (extract_high (extract_low extract_all)))) (extract_high (extract_high (extract_low extract_all))) (extract_high (extract_low extract_all))))

theorem RoundTrip.vxor_row {w : Word32} {x1 : BitVec 5} {x2 : BitVec 5} {x3 : BitVec 5} {x4 : BitVec 3} (hs0 : w.extractLsb' 0 8 = 0x12#8) (hf0 : w.extractLsb' 21 5 = x1) (hf1 : w.extractLsb' 16 5 = x2) (hf2 : w.extractLsb' 11 5 = x3) (hf3 : w.extractLsb' 8 3 = x4) :
    candidate1C w = some (.vxor x1 x2 x3 x4) := by
  subst hf0 hf1 hf2 hf3
  delta candidate1C
  rw [hs0]
  rfl

theorem RoundTrip.vxor : ∀ x1 x2 x3 x4, RoundTrip.Statement (.vxor x1 x2 x3 x4) := by
  intro x1 x2 x3 x4
  exact RoundTrip.of_one rfl (RoundTrip.isLong_major (m := 0x1c#6) (extract_high (extract_high (extract_high (extract_high (extract_high rfl)))))) ((RoundTrip.major1C (extract_high (extract_high (extract_high (extract_high (extract_high rfl)))))).trans (RoundTrip.vxor_row (extract_low rfl) (extract_high (extract_high (extract_high (extract_high (extract_low extract_all))))) (extract_high (extract_high (extract_high (extract_low extract_all)))) (extract_high (extract_high (extract_low extract_all))) (extract_high (extract_low extract_all))))

theorem RoundTrip.vsll_row {w : Word32} {x1 : BitVec 5} {x2 : BitVec 5} {x3 : BitVec 5} {x4 : BitVec 3} (hs0 : w.extractLsb' 0 8 = 0x13#8) (hf0 : w.extractLsb' 21 5 = x1) (hf1 : w.extractLsb' 16 5 = x2) (hf2 : w.extractLsb' 11 5 = x3) (hf3 : w.extractLsb' 8 3 = x4) :
    candidate1C w = some (.vsll x1 x2 x3 x4) := by
  subst hf0 hf1 hf2 hf3
  delta candidate1C
  rw [hs0]
  rfl

theorem RoundTrip.vsll : ∀ x1 x2 x3 x4, RoundTrip.Statement (.vsll x1 x2 x3 x4) := by
  intro x1 x2 x3 x4
  exact RoundTrip.of_one rfl (RoundTrip.isLong_major (m := 0x1c#6) (extract_high (extract_high (extract_high (extract_high (extract_high rfl)))))) ((RoundTrip.major1C (extract_high (extract_high (extract_high (extract_high (extract_high rfl)))))).trans (RoundTrip.vsll_row (extract_low rfl) (extract_high (extract_high (extract_high (extract_high (extract_low extract_all))))) (extract_high (extract_high (extract_high (extract_low extract_all)))) (extract_high (extract_high (extract_low extract_all))) (extract_high (extract_low extract_all))))

theorem RoundTrip.vsrl_row {w : Word32} {x1 : BitVec 5} {x2 : BitVec 5} {x3 : BitVec 5} {x4 : BitVec 3} (hs0 : w.extractLsb' 0 8 = 0x14#8) (hf0 : w.extractLsb' 21 5 = x1) (hf1 : w.extractLsb' 16 5 = x2) (hf2 : w.extractLsb' 11 5 = x3) (hf3 : w.extractLsb' 8 3 = x4) :
    candidate1C w = some (.vsrl x1 x2 x3 x4) := by
  subst hf0 hf1 hf2 hf3
  delta candidate1C
  rw [hs0]
  rfl

theorem RoundTrip.vsrl : ∀ x1 x2 x3 x4, RoundTrip.Statement (.vsrl x1 x2 x3 x4) := by
  intro x1 x2 x3 x4
  exact RoundTrip.of_one rfl (RoundTrip.isLong_major (m := 0x1c#6) (extract_high (extract_high (extract_high (extract_high (extract_high rfl)))))) ((RoundTrip.major1C (extract_high (extract_high (extract_high (extract_high (extract_high rfl)))))).trans (RoundTrip.vsrl_row (extract_low rfl) (extract_high (extract_high (extract_high (extract_high (extract_low extract_all))))) (extract_high (extract_high (extract_high (extract_low extract_all)))) (extract_high (extract_high (extract_low extract_all))) (extract_high (extract_low extract_all))))

theorem RoundTrip.vsra_row {w : Word32} {x1 : BitVec 5} {x2 : BitVec 5} {x3 : BitVec 5} {x4 : BitVec 3} (hs0 : w.extractLsb' 0 8 = 0x15#8) (hf0 : w.extractLsb' 21 5 = x1) (hf1 : w.extractLsb' 16 5 = x2) (hf2 : w.extractLsb' 11 5 = x3) (hf3 : w.extractLsb' 8 3 = x4) :
    candidate1C w = some (.vsra x1 x2 x3 x4) := by
  subst hf0 hf1 hf2 hf3
  delta candidate1C
  rw [hs0]
  rfl

theorem RoundTrip.vsra : ∀ x1 x2 x3 x4, RoundTrip.Statement (.vsra x1 x2 x3 x4) := by
  intro x1 x2 x3 x4
  exact RoundTrip.of_one rfl (RoundTrip.isLong_major (m := 0x1c#6) (extract_high (extract_high (extract_high (extract_high (extract_high rfl)))))) ((RoundTrip.major1C (extract_high (extract_high (extract_high (extract_high (extract_high rfl)))))).trans (RoundTrip.vsra_row (extract_low rfl) (extract_high (extract_high (extract_high (extract_high (extract_low extract_all))))) (extract_high (extract_high (extract_high (extract_low extract_all)))) (extract_high (extract_high (extract_low extract_all))) (extract_high (extract_low extract_all))))

theorem RoundTrip.vmov_row {w : Word32} {x1 : BitVec 5} {x2 : BitVec 5} {x3 : BitVec 3} (hs0 : w.extractLsb' 0 8 = 0x16#8) (hf0 : w.extractLsb' 21 5 = x1) (hf1 : w.extractLsb' 16 5 = x2) (hf2 : w.extractLsb' 8 3 = x3) :
    candidate1C w = some (.vmov x1 x2 x3) := by
  subst hf0 hf1 hf2
  delta candidate1C
  rw [hs0]
  rfl

theorem RoundTrip.vmov : ∀ x1 x2 x3, RoundTrip.Statement (.vmov x1 x2 x3) := by
  intro x1 x2 x3
  exact RoundTrip.of_one rfl (RoundTrip.isLong_major (m := 0x1c#6) (extract_high (extract_high (extract_high (extract_high (extract_high rfl)))))) ((RoundTrip.major1C (extract_high (extract_high (extract_high (extract_high (extract_high rfl)))))).trans (RoundTrip.vmov_row (extract_low rfl) (extract_high (extract_high (extract_high (extract_high (extract_low extract_all))))) (extract_high (extract_high (extract_high (extract_low extract_all)))) (extract_high (extract_low extract_all))))

theorem RoundTrip.vfma_row {w : Word32} {x1 : BitVec 5} {x2 : BitVec 5} {x3 : BitVec 5} {x4 : BitVec 3} {x5 : BitVec 5} (hs0 : w.extractLsb' 0 3 = 0x0#3) (hf0 : w.extractLsb' 21 5 = x1) (hf1 : w.extractLsb' 16 5 = x2) (hf2 : w.extractLsb' 11 5 = x3) (hf3 : w.extractLsb' 8 3 = x4) (hf4 : w.extractLsb' 3 5 = x5) :
    candidate1D w = some (.vfma x1 x2 x3 x4 x5) := by
  subst hf0 hf1 hf2 hf3 hf4
  delta candidate1D
  rw [hs0]
  rfl

theorem RoundTrip.vfma : ∀ x1 x2 x3 x4 x5, RoundTrip.Statement (.vfma x1 x2 x3 x4 x5) := by
  intro x1 x2 x3 x4 x5
  exact RoundTrip.of_one rfl (RoundTrip.isLong_major (m := 0x1d#6) (extract_high (extract_high (extract_high (extract_high (extract_high (extract_high rfl))))))) ((RoundTrip.major1D (extract_high (extract_high (extract_high (extract_high (extract_high (extract_high rfl))))))).trans (RoundTrip.vfma_row (extract_low rfl) (extract_high (extract_high (extract_high (extract_high (extract_high (extract_low extract_all)))))) (extract_high (extract_high (extract_high (extract_high (extract_low extract_all))))) (extract_high (extract_high (extract_high (extract_low extract_all)))) (extract_high (extract_high (extract_low extract_all))) (extract_high (extract_low extract_all))))

theorem RoundTrip.vfms_row {w : Word32} {x1 : BitVec 5} {x2 : BitVec 5} {x3 : BitVec 5} {x4 : BitVec 3} {x5 : BitVec 5} (hs0 : w.extractLsb' 0 3 = 0x1#3) (hf0 : w.extractLsb' 21 5 = x1) (hf1 : w.extractLsb' 16 5 = x2) (hf2 : w.extractLsb' 11 5 = x3) (hf3 : w.extractLsb' 8 3 = x4) (hf4 : w.extractLsb' 3 5 = x5) :
    candidate1D w = some (.vfms x1 x2 x3 x4 x5) := by
  subst hf0 hf1 hf2 hf3 hf4
  delta candidate1D
  rw [hs0]
  rfl

theorem RoundTrip.vfms : ∀ x1 x2 x3 x4 x5, RoundTrip.Statement (.vfms x1 x2 x3 x4 x5) := by
  intro x1 x2 x3 x4 x5
  exact RoundTrip.of_one rfl (RoundTrip.isLong_major (m := 0x1d#6) (extract_high (extract_high (extract_high (extract_high (extract_high (extract_high rfl))))))) ((RoundTrip.major1D (extract_high (extract_high (extract_high (extract_high (extract_high (extract_high rfl))))))).trans (RoundTrip.vfms_row (extract_low rfl) (extract_high (extract_high (extract_high (extract_high (extract_high (extract_low extract_all)))))) (extract_high (extract_high (extract_high (extract_high (extract_low extract_all))))) (extract_high (extract_high (extract_high (extract_low extract_all)))) (extract_high (extract_high (extract_low extract_all))) (extract_high (extract_low extract_all))))

theorem RoundTrip.vfnma_row {w : Word32} {x1 : BitVec 5} {x2 : BitVec 5} {x3 : BitVec 5} {x4 : BitVec 3} {x5 : BitVec 5} (hs0 : w.extractLsb' 0 3 = 0x2#3) (hf0 : w.extractLsb' 21 5 = x1) (hf1 : w.extractLsb' 16 5 = x2) (hf2 : w.extractLsb' 11 5 = x3) (hf3 : w.extractLsb' 8 3 = x4) (hf4 : w.extractLsb' 3 5 = x5) :
    candidate1D w = some (.vfnma x1 x2 x3 x4 x5) := by
  subst hf0 hf1 hf2 hf3 hf4
  delta candidate1D
  rw [hs0]
  rfl

theorem RoundTrip.vfnma : ∀ x1 x2 x3 x4 x5, RoundTrip.Statement (.vfnma x1 x2 x3 x4 x5) := by
  intro x1 x2 x3 x4 x5
  exact RoundTrip.of_one rfl (RoundTrip.isLong_major (m := 0x1d#6) (extract_high (extract_high (extract_high (extract_high (extract_high (extract_high rfl))))))) ((RoundTrip.major1D (extract_high (extract_high (extract_high (extract_high (extract_high (extract_high rfl))))))).trans (RoundTrip.vfnma_row (extract_low rfl) (extract_high (extract_high (extract_high (extract_high (extract_high (extract_low extract_all)))))) (extract_high (extract_high (extract_high (extract_high (extract_low extract_all))))) (extract_high (extract_high (extract_high (extract_low extract_all)))) (extract_high (extract_high (extract_low extract_all))) (extract_high (extract_low extract_all))))

theorem RoundTrip.vfnms_row {w : Word32} {x1 : BitVec 5} {x2 : BitVec 5} {x3 : BitVec 5} {x4 : BitVec 3} {x5 : BitVec 5} (hs0 : w.extractLsb' 0 3 = 0x3#3) (hf0 : w.extractLsb' 21 5 = x1) (hf1 : w.extractLsb' 16 5 = x2) (hf2 : w.extractLsb' 11 5 = x3) (hf3 : w.extractLsb' 8 3 = x4) (hf4 : w.extractLsb' 3 5 = x5) :
    candidate1D w = some (.vfnms x1 x2 x3 x4 x5) := by
  subst hf0 hf1 hf2 hf3 hf4
  delta candidate1D
  rw [hs0]
  rfl

theorem RoundTrip.vfnms : ∀ x1 x2 x3 x4 x5, RoundTrip.Statement (.vfnms x1 x2 x3 x4 x5) := by
  intro x1 x2 x3 x4 x5
  exact RoundTrip.of_one rfl (RoundTrip.isLong_major (m := 0x1d#6) (extract_high (extract_high (extract_high (extract_high (extract_high (extract_high rfl))))))) ((RoundTrip.major1D (extract_high (extract_high (extract_high (extract_high (extract_high (extract_high rfl))))))).trans (RoundTrip.vfnms_row (extract_low rfl) (extract_high (extract_high (extract_high (extract_high (extract_high (extract_low extract_all)))))) (extract_high (extract_high (extract_high (extract_high (extract_low extract_all))))) (extract_high (extract_high (extract_high (extract_low extract_all)))) (extract_high (extract_high (extract_low extract_all))) (extract_high (extract_low extract_all))))

theorem RoundTrip.vdot4_row {w : Word32} {x1 : BitVec 5} {x2 : BitVec 5} {x3 : BitVec 5} {x4 : BitVec 3} {x5 : BitVec 5} (hs0 : w.extractLsb' 0 3 = 0x4#3) (hf0 : w.extractLsb' 21 5 = x1) (hf1 : w.extractLsb' 16 5 = x2) (hf2 : w.extractLsb' 11 5 = x3) (hf3 : w.extractLsb' 8 3 = x4) (hf4 : w.extractLsb' 3 5 = x5) :
    candidate1D w = some (.vdot4 x1 x2 x3 x4 x5) := by
  subst hf0 hf1 hf2 hf3 hf4
  delta candidate1D
  rw [hs0]
  rfl

theorem RoundTrip.vdot4 : ∀ x1 x2 x3 x4 x5, RoundTrip.Statement (.vdot4 x1 x2 x3 x4 x5) := by
  intro x1 x2 x3 x4 x5
  exact RoundTrip.of_one rfl (RoundTrip.isLong_major (m := 0x1d#6) (extract_high (extract_high (extract_high (extract_high (extract_high (extract_high rfl))))))) ((RoundTrip.major1D (extract_high (extract_high (extract_high (extract_high (extract_high (extract_high rfl))))))).trans (RoundTrip.vdot4_row (extract_low rfl) (extract_high (extract_high (extract_high (extract_high (extract_high (extract_low extract_all)))))) (extract_high (extract_high (extract_high (extract_high (extract_low extract_all))))) (extract_high (extract_high (extract_high (extract_low extract_all)))) (extract_high (extract_high (extract_low extract_all))) (extract_high (extract_low extract_all))))

theorem RoundTrip.vdot2_row {w : Word32} {x1 : BitVec 5} {x2 : BitVec 5} {x3 : BitVec 5} {x4 : BitVec 3} {x5 : BitVec 5} (hs0 : w.extractLsb' 0 3 = 0x5#3) (hf0 : w.extractLsb' 21 5 = x1) (hf1 : w.extractLsb' 16 5 = x2) (hf2 : w.extractLsb' 11 5 = x3) (hf3 : w.extractLsb' 8 3 = x4) (hf4 : w.extractLsb' 3 5 = x5) :
    candidate1D w = some (.vdot2 x1 x2 x3 x4 x5) := by
  subst hf0 hf1 hf2 hf3 hf4
  delta candidate1D
  rw [hs0]
  rfl

theorem RoundTrip.vdot2 : ∀ x1 x2 x3 x4 x5, RoundTrip.Statement (.vdot2 x1 x2 x3 x4 x5) := by
  intro x1 x2 x3 x4 x5
  exact RoundTrip.of_one rfl (RoundTrip.isLong_major (m := 0x1d#6) (extract_high (extract_high (extract_high (extract_high (extract_high (extract_high rfl))))))) ((RoundTrip.major1D (extract_high (extract_high (extract_high (extract_high (extract_high (extract_high rfl))))))).trans (RoundTrip.vdot2_row (extract_low rfl) (extract_high (extract_high (extract_high (extract_high (extract_high (extract_low extract_all)))))) (extract_high (extract_high (extract_high (extract_high (extract_low extract_all))))) (extract_high (extract_high (extract_high (extract_low extract_all)))) (extract_high (extract_high (extract_low extract_all))) (extract_high (extract_low extract_all))))

theorem RoundTrip.vcmp_row {w : Word32} {x1 : BitVec 3} {x2 : BitVec 5} {x3 : BitVec 5} {x4 : BitVec 3} {x5 : BitVec 3} (hf0 : w.extractLsb' 21 3 = x1) (hf1 : w.extractLsb' 16 5 = x2) (hf2 : w.extractLsb' 11 5 = x3) (hf3 : w.extractLsb' 8 3 = x4) (hf4 : w.extractLsb' 0 3 = x5) :
    candidate1E w = some (.vcmp x1 x2 x3 x4 x5) := by
  subst hf0 hf1 hf2 hf3 hf4
  delta candidate1E
  rfl

theorem RoundTrip.vcmp : ∀ x1 x2 x3 x4 x5, RoundTrip.Statement (.vcmp x1 x2 x3 x4 x5) := by
  intro x1 x2 x3 x4 x5
  exact RoundTrip.of_one rfl (RoundTrip.isLong_major (m := 0x1e#6) (extract_high (extract_high (extract_high (extract_high (extract_high (extract_high (extract_high rfl)))))))) ((RoundTrip.major1E (extract_high (extract_high (extract_high (extract_high (extract_high (extract_high (extract_high rfl)))))))).trans (RoundTrip.vcmp_row (extract_high (extract_high (extract_high (extract_high (extract_high (extract_low extract_all)))))) (extract_high (extract_high (extract_high (extract_high (extract_low extract_all))))) (extract_high (extract_high (extract_high (extract_low extract_all)))) (extract_high (extract_high (extract_low extract_all))) (extract_low extract_all)))

theorem RoundTrip.vperm_row {w : Word32} {x1 : BitVec 5} {x2 : BitVec 5} {x3 : BitVec 5} {x4 : BitVec 3} (hs0 : w.extractLsb' 0 8 = 0x0#8) (hf0 : w.extractLsb' 21 5 = x1) (hf1 : w.extractLsb' 16 5 = x2) (hf2 : w.extractLsb' 11 5 = x3) (hf3 : w.extractLsb' 8 3 = x4) :
    candidate1F w = some (.vperm x1 x2 x3 x4) := by
  subst hf0 hf1 hf2 hf3
  delta candidate1F
  rw [hs0]
  rfl

theorem RoundTrip.vperm : ∀ x1 x2 x3 x4, RoundTrip.Statement (.vperm x1 x2 x3 x4) := by
  intro x1 x2 x3 x4
  exact RoundTrip.of_one rfl (RoundTrip.isLong_major (m := 0x1f#6) (extract_high (extract_high (extract_high (extract_high (extract_high rfl)))))) ((RoundTrip.major1F (extract_high (extract_high (extract_high (extract_high (extract_high rfl)))))).trans (RoundTrip.vperm_row (extract_low rfl) (extract_high (extract_high (extract_high (extract_high (extract_low extract_all))))) (extract_high (extract_high (extract_high (extract_low extract_all)))) (extract_high (extract_high (extract_low extract_all))) (extract_high (extract_low extract_all))))

theorem RoundTrip.vslup_row {w : Word32} {x1 : BitVec 5} {x2 : BitVec 5} {x3 : BitVec 5} {x4 : BitVec 3} (hs0 : w.extractLsb' 0 8 = 0x1#8) (hf0 : w.extractLsb' 21 5 = x1) (hf1 : w.extractLsb' 16 5 = x2) (hf2 : w.extractLsb' 11 5 = x3) (hf3 : w.extractLsb' 8 3 = x4) :
    candidate1F w = some (.vslup x1 x2 x3 x4) := by
  subst hf0 hf1 hf2 hf3
  delta candidate1F
  rw [hs0]
  rfl

theorem RoundTrip.vslup : ∀ x1 x2 x3 x4, RoundTrip.Statement (.vslup x1 x2 x3 x4) := by
  intro x1 x2 x3 x4
  exact RoundTrip.of_one rfl (RoundTrip.isLong_major (m := 0x1f#6) (extract_high (extract_high (extract_high (extract_high (extract_high rfl)))))) ((RoundTrip.major1F (extract_high (extract_high (extract_high (extract_high (extract_high rfl)))))).trans (RoundTrip.vslup_row (extract_low rfl) (extract_high (extract_high (extract_high (extract_high (extract_low extract_all))))) (extract_high (extract_high (extract_high (extract_low extract_all)))) (extract_high (extract_high (extract_low extract_all))) (extract_high (extract_low extract_all))))

theorem RoundTrip.vsldn_row {w : Word32} {x1 : BitVec 5} {x2 : BitVec 5} {x3 : BitVec 5} {x4 : BitVec 3} (hs0 : w.extractLsb' 0 8 = 0x2#8) (hf0 : w.extractLsb' 21 5 = x1) (hf1 : w.extractLsb' 16 5 = x2) (hf2 : w.extractLsb' 11 5 = x3) (hf3 : w.extractLsb' 8 3 = x4) :
    candidate1F w = some (.vsldn x1 x2 x3 x4) := by
  subst hf0 hf1 hf2 hf3
  delta candidate1F
  rw [hs0]
  rfl

theorem RoundTrip.vsldn : ∀ x1 x2 x3 x4, RoundTrip.Statement (.vsldn x1 x2 x3 x4) := by
  intro x1 x2 x3 x4
  exact RoundTrip.of_one rfl (RoundTrip.isLong_major (m := 0x1f#6) (extract_high (extract_high (extract_high (extract_high (extract_high rfl)))))) ((RoundTrip.major1F (extract_high (extract_high (extract_high (extract_high (extract_high rfl)))))).trans (RoundTrip.vsldn_row (extract_low rfl) (extract_high (extract_high (extract_high (extract_high (extract_low extract_all))))) (extract_high (extract_high (extract_high (extract_low extract_all)))) (extract_high (extract_high (extract_low extract_all))) (extract_high (extract_low extract_all))))

theorem RoundTrip.vbcast_row {w : Word32} {x1 : BitVec 5} {x2 : BitVec 5} {x3 : BitVec 5} {x4 : BitVec 3} (hs0 : w.extractLsb' 0 8 = 0x3#8) (hf0 : w.extractLsb' 21 5 = x1) (hf1 : w.extractLsb' 16 5 = x2) (hf2 : w.extractLsb' 11 5 = x3) (hf3 : w.extractLsb' 8 3 = x4) :
    candidate1F w = some (.vbcast x1 x2 x3 x4) := by
  subst hf0 hf1 hf2 hf3
  delta candidate1F
  rw [hs0]
  rfl

theorem RoundTrip.vbcast : ∀ x1 x2 x3 x4, RoundTrip.Statement (.vbcast x1 x2 x3 x4) := by
  intro x1 x2 x3 x4
  exact RoundTrip.of_one rfl (RoundTrip.isLong_major (m := 0x1f#6) (extract_high (extract_high (extract_high (extract_high (extract_high rfl)))))) ((RoundTrip.major1F (extract_high (extract_high (extract_high (extract_high (extract_high rfl)))))).trans (RoundTrip.vbcast_row (extract_low rfl) (extract_high (extract_high (extract_high (extract_high (extract_low extract_all))))) (extract_high (extract_high (extract_high (extract_low extract_all)))) (extract_high (extract_high (extract_low extract_all))) (extract_high (extract_low extract_all))))

theorem RoundTrip.vext_row {w : Word32} {x1 : BitVec 5} {x2 : BitVec 5} {x3 : BitVec 5} (hs0 : w.extractLsb' 0 8 = 0x4#8) (hf0 : w.extractLsb' 21 5 = x1) (hf1 : w.extractLsb' 16 5 = x2) (hf2 : w.extractLsb' 11 5 = x3) :
    candidate1F w = some (.vext x1 x2 x3) := by
  subst hf0 hf1 hf2
  delta candidate1F
  rw [hs0]
  rfl

theorem RoundTrip.vext : ∀ x1 x2 x3, RoundTrip.Statement (.vext x1 x2 x3) := by
  intro x1 x2 x3
  exact RoundTrip.of_one rfl (RoundTrip.isLong_major (m := 0x1f#6) (extract_high (extract_high (extract_high (extract_high rfl))))) ((RoundTrip.major1F (extract_high (extract_high (extract_high (extract_high rfl))))).trans (RoundTrip.vext_row (extract_low rfl) (extract_high (extract_high (extract_high (extract_low extract_all)))) (extract_high (extract_high (extract_low extract_all))) (extract_high (extract_low extract_all))))

theorem RoundTrip.vins_row {w : Word32} {x1 : BitVec 5} {x2 : BitVec 5} {x3 : BitVec 5} (hs0 : w.extractLsb' 0 8 = 0x5#8) (hf0 : w.extractLsb' 21 5 = x1) (hf1 : w.extractLsb' 16 5 = x2) (hf2 : w.extractLsb' 11 5 = x3) :
    candidate1F w = some (.vins x1 x2 x3) := by
  subst hf0 hf1 hf2
  delta candidate1F
  rw [hs0]
  rfl

theorem RoundTrip.vins : ∀ x1 x2 x3, RoundTrip.Statement (.vins x1 x2 x3) := by
  intro x1 x2 x3
  exact RoundTrip.of_one rfl (RoundTrip.isLong_major (m := 0x1f#6) (extract_high (extract_high (extract_high (extract_high rfl))))) ((RoundTrip.major1F (extract_high (extract_high (extract_high (extract_high rfl))))).trans (RoundTrip.vins_row (extract_low rfl) (extract_high (extract_high (extract_high (extract_low extract_all)))) (extract_high (extract_high (extract_low extract_all))) (extract_high (extract_low extract_all))))

theorem RoundTrip.vsel_row {w : Word32} {x1 : BitVec 5} {x2 : BitVec 5} {x3 : BitVec 5} {x4 : BitVec 3} (hs0 : w.extractLsb' 0 8 = 0x6#8) (hf0 : w.extractLsb' 21 5 = x1) (hf1 : w.extractLsb' 16 5 = x2) (hf2 : w.extractLsb' 11 5 = x3) (hf3 : w.extractLsb' 8 3 = x4) :
    candidate1F w = some (.vsel x1 x2 x3 x4) := by
  subst hf0 hf1 hf2 hf3
  delta candidate1F
  rw [hs0]
  rfl

theorem RoundTrip.vsel : ∀ x1 x2 x3 x4, RoundTrip.Statement (.vsel x1 x2 x3 x4) := by
  intro x1 x2 x3 x4
  exact RoundTrip.of_one rfl (RoundTrip.isLong_major (m := 0x1f#6) (extract_high (extract_high (extract_high (extract_high (extract_high rfl)))))) ((RoundTrip.major1F (extract_high (extract_high (extract_high (extract_high (extract_high rfl)))))).trans (RoundTrip.vsel_row (extract_low rfl) (extract_high (extract_high (extract_high (extract_high (extract_low extract_all))))) (extract_high (extract_high (extract_high (extract_low extract_all)))) (extract_high (extract_high (extract_low extract_all))) (extract_high (extract_low extract_all))))

theorem RoundTrip.vredsum_row {w : Word32} {x1 : BitVec 5} {x2 : BitVec 5} {x3 : BitVec 3} (hs0 : w.extractLsb' 0 8 = 0x7#8) (hf0 : w.extractLsb' 21 5 = x1) (hf1 : w.extractLsb' 16 5 = x2) (hf2 : w.extractLsb' 8 3 = x3) :
    candidate1F w = some (.vredsum x1 x2 x3) := by
  subst hf0 hf1 hf2
  delta candidate1F
  rw [hs0]
  rfl

theorem RoundTrip.vredsum : ∀ x1 x2 x3, RoundTrip.Statement (.vredsum x1 x2 x3) := by
  intro x1 x2 x3
  exact RoundTrip.of_one rfl (RoundTrip.isLong_major (m := 0x1f#6) (extract_high (extract_high (extract_high (extract_high (extract_high rfl)))))) ((RoundTrip.major1F (extract_high (extract_high (extract_high (extract_high (extract_high rfl)))))).trans (RoundTrip.vredsum_row (extract_low rfl) (extract_high (extract_high (extract_high (extract_high (extract_low extract_all))))) (extract_high (extract_high (extract_high (extract_low extract_all)))) (extract_high (extract_low extract_all))))

theorem RoundTrip.vredmax_row {w : Word32} {x1 : BitVec 5} {x2 : BitVec 5} {x3 : BitVec 3} (hs0 : w.extractLsb' 0 8 = 0x8#8) (hf0 : w.extractLsb' 21 5 = x1) (hf1 : w.extractLsb' 16 5 = x2) (hf2 : w.extractLsb' 8 3 = x3) :
    candidate1F w = some (.vredmax x1 x2 x3) := by
  subst hf0 hf1 hf2
  delta candidate1F
  rw [hs0]
  rfl

theorem RoundTrip.vredmax : ∀ x1 x2 x3, RoundTrip.Statement (.vredmax x1 x2 x3) := by
  intro x1 x2 x3
  exact RoundTrip.of_one rfl (RoundTrip.isLong_major (m := 0x1f#6) (extract_high (extract_high (extract_high (extract_high (extract_high rfl)))))) ((RoundTrip.major1F (extract_high (extract_high (extract_high (extract_high (extract_high rfl)))))).trans (RoundTrip.vredmax_row (extract_low rfl) (extract_high (extract_high (extract_high (extract_high (extract_low extract_all))))) (extract_high (extract_high (extract_high (extract_low extract_all)))) (extract_high (extract_low extract_all))))

theorem RoundTrip.vredmin_row {w : Word32} {x1 : BitVec 5} {x2 : BitVec 5} {x3 : BitVec 3} (hs0 : w.extractLsb' 0 8 = 0x9#8) (hf0 : w.extractLsb' 21 5 = x1) (hf1 : w.extractLsb' 16 5 = x2) (hf2 : w.extractLsb' 8 3 = x3) :
    candidate1F w = some (.vredmin x1 x2 x3) := by
  subst hf0 hf1 hf2
  delta candidate1F
  rw [hs0]
  rfl

theorem RoundTrip.vredmin : ∀ x1 x2 x3, RoundTrip.Statement (.vredmin x1 x2 x3) := by
  intro x1 x2 x3
  exact RoundTrip.of_one rfl (RoundTrip.isLong_major (m := 0x1f#6) (extract_high (extract_high (extract_high (extract_high (extract_high rfl)))))) ((RoundTrip.major1F (extract_high (extract_high (extract_high (extract_high (extract_high rfl)))))).trans (RoundTrip.vredmin_row (extract_low rfl) (extract_high (extract_high (extract_high (extract_high (extract_low extract_all))))) (extract_high (extract_high (extract_high (extract_low extract_all)))) (extract_high (extract_low extract_all))))

theorem RoundTrip.vzip_row {w : Word32} {x1 : BitVec 5} {x2 : BitVec 5} {x3 : BitVec 5} {x4 : BitVec 3} (hs0 : w.extractLsb' 0 8 = 0xa#8) (hf0 : w.extractLsb' 21 5 = x1) (hf1 : w.extractLsb' 16 5 = x2) (hf2 : w.extractLsb' 11 5 = x3) (hf3 : w.extractLsb' 8 3 = x4) :
    candidate1F w = some (.vzip x1 x2 x3 x4) := by
  subst hf0 hf1 hf2 hf3
  delta candidate1F
  rw [hs0]
  rfl

theorem RoundTrip.vzip : ∀ x1 x2 x3 x4, RoundTrip.Statement (.vzip x1 x2 x3 x4) := by
  intro x1 x2 x3 x4
  exact RoundTrip.of_one rfl (RoundTrip.isLong_major (m := 0x1f#6) (extract_high (extract_high (extract_high (extract_high (extract_high rfl)))))) ((RoundTrip.major1F (extract_high (extract_high (extract_high (extract_high (extract_high rfl)))))).trans (RoundTrip.vzip_row (extract_low rfl) (extract_high (extract_high (extract_high (extract_high (extract_low extract_all))))) (extract_high (extract_high (extract_high (extract_low extract_all)))) (extract_high (extract_high (extract_low extract_all))) (extract_high (extract_low extract_all))))

theorem RoundTrip.vunzip_row {w : Word32} {x1 : BitVec 5} {x2 : BitVec 5} {x3 : BitVec 5} {x4 : BitVec 3} (hs0 : w.extractLsb' 0 8 = 0xb#8) (hf0 : w.extractLsb' 21 5 = x1) (hf1 : w.extractLsb' 16 5 = x2) (hf2 : w.extractLsb' 11 5 = x3) (hf3 : w.extractLsb' 8 3 = x4) :
    candidate1F w = some (.vunzip x1 x2 x3 x4) := by
  subst hf0 hf1 hf2 hf3
  delta candidate1F
  rw [hs0]
  rfl

theorem RoundTrip.vunzip : ∀ x1 x2 x3 x4, RoundTrip.Statement (.vunzip x1 x2 x3 x4) := by
  intro x1 x2 x3 x4
  exact RoundTrip.of_one rfl (RoundTrip.isLong_major (m := 0x1f#6) (extract_high (extract_high (extract_high (extract_high (extract_high rfl)))))) ((RoundTrip.major1F (extract_high (extract_high (extract_high (extract_high (extract_high rfl)))))).trans (RoundTrip.vunzip_row (extract_low rfl) (extract_high (extract_high (extract_high (extract_high (extract_low extract_all))))) (extract_high (extract_high (extract_high (extract_low extract_all)))) (extract_high (extract_high (extract_low extract_all))) (extract_high (extract_low extract_all))))

theorem RoundTrip.vcmprs_row {w : Word32} {x1 : BitVec 5} {x2 : BitVec 5} {x3 : BitVec 3} (hs0 : w.extractLsb' 0 8 = 0xc#8) (hf0 : w.extractLsb' 21 5 = x1) (hf1 : w.extractLsb' 16 5 = x2) (hf2 : w.extractLsb' 8 3 = x3) :
    candidate1F w = some (.vcmprs x1 x2 x3) := by
  subst hf0 hf1 hf2
  delta candidate1F
  rw [hs0]
  rfl

theorem RoundTrip.vcmprs : ∀ x1 x2 x3, RoundTrip.Statement (.vcmprs x1 x2 x3) := by
  intro x1 x2 x3
  exact RoundTrip.of_one rfl (RoundTrip.isLong_major (m := 0x1f#6) (extract_high (extract_high (extract_high (extract_high (extract_high rfl)))))) ((RoundTrip.major1F (extract_high (extract_high (extract_high (extract_high (extract_high rfl)))))).trans (RoundTrip.vcmprs_row (extract_low rfl) (extract_high (extract_high (extract_high (extract_high (extract_low extract_all))))) (extract_high (extract_high (extract_high (extract_low extract_all)))) (extract_high (extract_low extract_all))))

theorem RoundTrip.vcvt_row {w : Word32} {x1 : BitVec 5} {x2 : BitVec 5} {x3 : BitVec 5} {x4 : BitVec 3} {x5 : BitVec 3} {x6 : BitVec 1} (hs0 : w.extractLsb' 0 4 = 0x0#4) (hf0 : w.extractLsb' 21 5 = x1) (hf1 : w.extractLsb' 16 5 = x2) (hf2 : w.extractLsb' 11 5 = x3) (hf3 : w.extractLsb' 8 3 = x4) (hf4 : w.extractLsb' 5 3 = x5) (hf5 : w.extractLsb' 4 1 = x6) :
    candidate20 w = some (.vcvt x1 x2 x3 x4 x5 x6) := by
  subst hf0 hf1 hf2 hf3 hf4 hf5
  delta candidate20
  rw [hs0]
  rfl

theorem RoundTrip.vcvt : ∀ x1 x2 x3 x4 x5 x6, RoundTrip.Statement (.vcvt x1 x2 x3 x4 x5 x6) := by
  intro x1 x2 x3 x4 x5 x6
  exact RoundTrip.of_one rfl (RoundTrip.isLong_major (m := 0x20#6) (extract_high (extract_high (extract_high (extract_high (extract_high (extract_high (extract_high rfl)))))))) ((RoundTrip.major20 (extract_high (extract_high (extract_high (extract_high (extract_high (extract_high (extract_high rfl)))))))).trans (RoundTrip.vcvt_row (extract_low rfl) (extract_high (extract_high (extract_high (extract_high (extract_high (extract_high (extract_low extract_all))))))) (extract_high (extract_high (extract_high (extract_high (extract_high (extract_low extract_all)))))) (extract_high (extract_high (extract_high (extract_high (extract_low extract_all))))) (extract_high (extract_high (extract_high (extract_low extract_all)))) (extract_high (extract_high (extract_low extract_all))) (extract_high (extract_low extract_all))))

theorem RoundTrip.vcvth_row {w : Word32} {x1 : BitVec 5} {x2 : BitVec 5} {x3 : BitVec 5} {x4 : BitVec 3} {x5 : BitVec 3} {x6 : BitVec 1} (hs0 : w.extractLsb' 0 4 = 0x1#4) (hf0 : w.extractLsb' 21 5 = x1) (hf1 : w.extractLsb' 16 5 = x2) (hf2 : w.extractLsb' 11 5 = x3) (hf3 : w.extractLsb' 8 3 = x4) (hf4 : w.extractLsb' 5 3 = x5) (hf5 : w.extractLsb' 4 1 = x6) :
    candidate20 w = some (.vcvth x1 x2 x3 x4 x5 x6) := by
  subst hf0 hf1 hf2 hf3 hf4 hf5
  delta candidate20
  rw [hs0]
  rfl

theorem RoundTrip.vcvth : ∀ x1 x2 x3 x4 x5 x6, RoundTrip.Statement (.vcvth x1 x2 x3 x4 x5 x6) := by
  intro x1 x2 x3 x4 x5 x6
  exact RoundTrip.of_one rfl (RoundTrip.isLong_major (m := 0x20#6) (extract_high (extract_high (extract_high (extract_high (extract_high (extract_high (extract_high rfl)))))))) ((RoundTrip.major20 (extract_high (extract_high (extract_high (extract_high (extract_high (extract_high (extract_high rfl)))))))).trans (RoundTrip.vcvth_row (extract_low rfl) (extract_high (extract_high (extract_high (extract_high (extract_high (extract_high (extract_low extract_all))))))) (extract_high (extract_high (extract_high (extract_high (extract_high (extract_low extract_all)))))) (extract_high (extract_high (extract_high (extract_high (extract_low extract_all))))) (extract_high (extract_high (extract_high (extract_low extract_all)))) (extract_high (extract_high (extract_low extract_all))) (extract_high (extract_low extract_all))))

theorem RoundTrip.vtag_row {w : Word32} {x1 : BitVec 5} {x2 : BitVec 5} {x3 : BitVec 5} (hs0 : w.extractLsb' 0 4 = 0x2#4) (hf0 : w.extractLsb' 21 5 = x1) (hf1 : w.extractLsb' 16 5 = x2) (hf2 : w.extractLsb' 11 5 = x3) :
    candidate20 w = some (.vtag x1 x2 x3) := by
  subst hf0 hf1 hf2
  delta candidate20
  rw [hs0]
  rfl

theorem RoundTrip.vtag : ∀ x1 x2 x3, RoundTrip.Statement (.vtag x1 x2 x3) := by
  intro x1 x2 x3
  exact RoundTrip.of_one rfl (RoundTrip.isLong_major (m := 0x20#6) (extract_high (extract_high (extract_high (extract_high rfl))))) ((RoundTrip.major20 (extract_high (extract_high (extract_high (extract_high rfl))))).trans (RoundTrip.vtag_row (extract_low rfl) (extract_high (extract_high (extract_high (extract_low extract_all)))) (extract_high (extract_high (extract_low extract_all))) (extract_high (extract_low extract_all))))

theorem RoundTrip.vtchk_row {w : Word32} {x1 : BitVec 5} {x2 : BitVec 5} (hs0 : w.extractLsb' 0 4 = 0x3#4) (hf0 : w.extractLsb' 16 5 = x1) (hf1 : w.extractLsb' 11 5 = x2) :
    candidate20 w = some (.vtchk x1 x2) := by
  subst hf0 hf1
  delta candidate20
  rw [hs0]
  rfl

theorem RoundTrip.vtchk : ∀ x1 x2, RoundTrip.Statement (.vtchk x1 x2) := by
  intro x1 x2
  exact RoundTrip.of_one rfl (RoundTrip.isLong_major (m := 0x20#6) (extract_high (extract_high (extract_high (extract_high rfl))))) ((RoundTrip.major20 (extract_high (extract_high (extract_high (extract_high rfl))))).trans (RoundTrip.vtchk_row (extract_low rfl) (extract_high (extract_high (extract_low extract_all))) (extract_high (extract_low extract_all))))

theorem RoundTrip.vshrn8_row {w : Word32} {x1 : BitVec 5} {x2 : BitVec 5} {x3 : BitVec 5} {x4 : BitVec 3} {x5 : BitVec 3} {x6 : BitVec 1} (hs0 : w.extractLsb' 0 4 = 0x4#4) (hf0 : w.extractLsb' 21 5 = x1) (hf1 : w.extractLsb' 16 5 = x2) (hf2 : w.extractLsb' 11 5 = x3) (hf3 : w.extractLsb' 8 3 = x4) (hf4 : w.extractLsb' 5 3 = x5) (hf5 : w.extractLsb' 4 1 = x6) :
    candidate20 w = some (.vshrn8 x1 x2 x3 x4 x5 x6) := by
  subst hf0 hf1 hf2 hf3 hf4 hf5
  delta candidate20
  rw [hs0]
  rfl

theorem RoundTrip.vshrn8 : ∀ x1 x2 x3 x4 x5 x6, RoundTrip.Statement (.vshrn8 x1 x2 x3 x4 x5 x6) := by
  intro x1 x2 x3 x4 x5 x6
  exact RoundTrip.of_one rfl (RoundTrip.isLong_major (m := 0x20#6) (extract_high (extract_high (extract_high (extract_high (extract_high (extract_high (extract_high rfl)))))))) ((RoundTrip.major20 (extract_high (extract_high (extract_high (extract_high (extract_high (extract_high (extract_high rfl)))))))).trans (RoundTrip.vshrn8_row (extract_low rfl) (extract_high (extract_high (extract_high (extract_high (extract_high (extract_high (extract_low extract_all))))))) (extract_high (extract_high (extract_high (extract_high (extract_high (extract_low extract_all)))))) (extract_high (extract_high (extract_high (extract_high (extract_low extract_all))))) (extract_high (extract_high (extract_high (extract_low extract_all)))) (extract_high (extract_high (extract_low extract_all))) (extract_high (extract_low extract_all))))

theorem RoundTrip.vshrn16_row {w : Word32} {x1 : BitVec 5} {x2 : BitVec 5} {x3 : BitVec 5} {x4 : BitVec 3} {x5 : BitVec 3} {x6 : BitVec 1} (hs0 : w.extractLsb' 0 4 = 0x5#4) (hf0 : w.extractLsb' 21 5 = x1) (hf1 : w.extractLsb' 16 5 = x2) (hf2 : w.extractLsb' 11 5 = x3) (hf3 : w.extractLsb' 8 3 = x4) (hf4 : w.extractLsb' 5 3 = x5) (hf5 : w.extractLsb' 4 1 = x6) :
    candidate20 w = some (.vshrn16 x1 x2 x3 x4 x5 x6) := by
  subst hf0 hf1 hf2 hf3 hf4 hf5
  delta candidate20
  rw [hs0]
  rfl

theorem RoundTrip.vshrn16 : ∀ x1 x2 x3 x4 x5 x6, RoundTrip.Statement (.vshrn16 x1 x2 x3 x4 x5 x6) := by
  intro x1 x2 x3 x4 x5 x6
  exact RoundTrip.of_one rfl (RoundTrip.isLong_major (m := 0x20#6) (extract_high (extract_high (extract_high (extract_high (extract_high (extract_high (extract_high rfl)))))))) ((RoundTrip.major20 (extract_high (extract_high (extract_high (extract_high (extract_high (extract_high (extract_high rfl)))))))).trans (RoundTrip.vshrn16_row (extract_low rfl) (extract_high (extract_high (extract_high (extract_high (extract_high (extract_high (extract_low extract_all))))))) (extract_high (extract_high (extract_high (extract_high (extract_high (extract_low extract_all)))))) (extract_high (extract_high (extract_high (extract_high (extract_low extract_all))))) (extract_high (extract_high (extract_high (extract_low extract_all)))) (extract_high (extract_high (extract_low extract_all))) (extract_high (extract_low extract_all))))

theorem RoundTrip.kand_row {w : Word32} {x1 : BitVec 3} {x2 : BitVec 3} {x3 : BitVec 3} (hs0 : w.extractLsb' 0 11 = 0x0#11) (hf0 : w.extractLsb' 21 3 = x1) (hf1 : w.extractLsb' 16 3 = x2) (hf2 : w.extractLsb' 11 3 = x3) :
    candidate21 w = some (.kand x1 x2 x3) := by
  subst hf0 hf1 hf2
  delta candidate21
  rw [hs0]
  rfl

theorem RoundTrip.kand : ∀ x1 x2 x3, RoundTrip.Statement (.kand x1 x2 x3) := by
  intro x1 x2 x3
  exact RoundTrip.of_one rfl (RoundTrip.isLong_major (m := 0x21#6) (extract_high (extract_high (extract_high (extract_high (extract_high (extract_high (extract_high rfl)))))))) ((RoundTrip.major21 (extract_high (extract_high (extract_high (extract_high (extract_high (extract_high (extract_high rfl)))))))).trans (RoundTrip.kand_row (extract_low rfl) (extract_high (extract_high (extract_high (extract_high (extract_high (extract_low extract_all)))))) (extract_high (extract_high (extract_high (extract_low extract_all)))) (extract_high (extract_low extract_all))))

theorem RoundTrip.kor_row {w : Word32} {x1 : BitVec 3} {x2 : BitVec 3} {x3 : BitVec 3} (hs0 : w.extractLsb' 0 11 = 0x1#11) (hf0 : w.extractLsb' 21 3 = x1) (hf1 : w.extractLsb' 16 3 = x2) (hf2 : w.extractLsb' 11 3 = x3) :
    candidate21 w = some (.kor x1 x2 x3) := by
  subst hf0 hf1 hf2
  delta candidate21
  rw [hs0]
  rfl

theorem RoundTrip.kor : ∀ x1 x2 x3, RoundTrip.Statement (.kor x1 x2 x3) := by
  intro x1 x2 x3
  exact RoundTrip.of_one rfl (RoundTrip.isLong_major (m := 0x21#6) (extract_high (extract_high (extract_high (extract_high (extract_high (extract_high (extract_high rfl)))))))) ((RoundTrip.major21 (extract_high (extract_high (extract_high (extract_high (extract_high (extract_high (extract_high rfl)))))))).trans (RoundTrip.kor_row (extract_low rfl) (extract_high (extract_high (extract_high (extract_high (extract_high (extract_low extract_all)))))) (extract_high (extract_high (extract_high (extract_low extract_all)))) (extract_high (extract_low extract_all))))

theorem RoundTrip.kxor_row {w : Word32} {x1 : BitVec 3} {x2 : BitVec 3} {x3 : BitVec 3} (hs0 : w.extractLsb' 0 11 = 0x2#11) (hf0 : w.extractLsb' 21 3 = x1) (hf1 : w.extractLsb' 16 3 = x2) (hf2 : w.extractLsb' 11 3 = x3) :
    candidate21 w = some (.kxor x1 x2 x3) := by
  subst hf0 hf1 hf2
  delta candidate21
  rw [hs0]
  rfl

theorem RoundTrip.kxor : ∀ x1 x2 x3, RoundTrip.Statement (.kxor x1 x2 x3) := by
  intro x1 x2 x3
  exact RoundTrip.of_one rfl (RoundTrip.isLong_major (m := 0x21#6) (extract_high (extract_high (extract_high (extract_high (extract_high (extract_high (extract_high rfl)))))))) ((RoundTrip.major21 (extract_high (extract_high (extract_high (extract_high (extract_high (extract_high (extract_high rfl)))))))).trans (RoundTrip.kxor_row (extract_low rfl) (extract_high (extract_high (extract_high (extract_high (extract_high (extract_low extract_all)))))) (extract_high (extract_high (extract_high (extract_low extract_all)))) (extract_high (extract_low extract_all))))

theorem RoundTrip.kandn_row {w : Word32} {x1 : BitVec 3} {x2 : BitVec 3} {x3 : BitVec 3} (hs0 : w.extractLsb' 0 11 = 0x3#11) (hf0 : w.extractLsb' 21 3 = x1) (hf1 : w.extractLsb' 16 3 = x2) (hf2 : w.extractLsb' 11 3 = x3) :
    candidate21 w = some (.kandn x1 x2 x3) := by
  subst hf0 hf1 hf2
  delta candidate21
  rw [hs0]
  rfl

theorem RoundTrip.kandn : ∀ x1 x2 x3, RoundTrip.Statement (.kandn x1 x2 x3) := by
  intro x1 x2 x3
  exact RoundTrip.of_one rfl (RoundTrip.isLong_major (m := 0x21#6) (extract_high (extract_high (extract_high (extract_high (extract_high (extract_high (extract_high rfl)))))))) ((RoundTrip.major21 (extract_high (extract_high (extract_high (extract_high (extract_high (extract_high (extract_high rfl)))))))).trans (RoundTrip.kandn_row (extract_low rfl) (extract_high (extract_high (extract_high (extract_high (extract_high (extract_low extract_all)))))) (extract_high (extract_high (extract_high (extract_low extract_all)))) (extract_high (extract_low extract_all))))

theorem RoundTrip.kmovlToMask_row {w : Word32} {x1 : BitVec 3} {x2 : BitVec 5} (hs0 : w.extractLsb' 0 11 = 0x4#11) (hs1 : w.extractLsb' 11 5 = 0x0#5) (hf0 : w.extractLsb' 21 3 = x1) (hf1 : w.extractLsb' 16 5 = x2) :
    candidate21 w = some (.kmovlToMask x1 x2) := by
  subst hf0 hf1
  delta candidate21
  rw [hs0, hs1]
  rfl

theorem RoundTrip.kmovlToMask : ∀ x1 x2, RoundTrip.Statement (.kmovlToMask x1 x2) := by
  intro x1 x2
  exact RoundTrip.of_one rfl (RoundTrip.isLong_major (m := 0x21#6) (extract_high (extract_high (extract_high (extract_high rfl))))) ((RoundTrip.major21 (extract_high (extract_high (extract_high (extract_high rfl))))).trans (RoundTrip.kmovlToMask_row (extract_low rfl) (extract_low rfl) (extract_high (extract_high (extract_low extract_all))) (extract_high (extract_low extract_all))))

theorem RoundTrip.kmovlFromMask_row {w : Word32} {x1 : BitVec 5} {x2 : BitVec 3} (hs0 : w.extractLsb' 0 11 = 0x4#11) (hs1 : w.extractLsb' 11 5 = 0x1#5) (hf0 : w.extractLsb' 21 5 = x1) (hf1 : w.extractLsb' 16 3 = x2) :
    candidate21 w = some (.kmovlFromMask x1 x2) := by
  subst hf0 hf1
  delta candidate21
  rw [hs0, hs1]
  rfl

theorem RoundTrip.kmovlFromMask : ∀ x1 x2, RoundTrip.Statement (.kmovlFromMask x1 x2) := by
  intro x1 x2
  exact RoundTrip.of_one rfl (RoundTrip.isLong_major (m := 0x21#6) (extract_high (extract_high (extract_high (extract_high rfl))))) ((RoundTrip.major21 (extract_high (extract_high (extract_high (extract_high rfl))))).trans (RoundTrip.kmovlFromMask_row (extract_low rfl) (extract_low rfl) (extract_high (extract_high (extract_high (extract_low extract_all)))) (extract_high (extract_low extract_all))))

theorem RoundTrip.kmovhToMask_row {w : Word32} {x1 : BitVec 3} {x2 : BitVec 5} (hs0 : w.extractLsb' 0 11 = 0x5#11) (hs1 : w.extractLsb' 11 5 = 0x0#5) (hf0 : w.extractLsb' 21 3 = x1) (hf1 : w.extractLsb' 16 5 = x2) :
    candidate21 w = some (.kmovhToMask x1 x2) := by
  subst hf0 hf1
  delta candidate21
  rw [hs0, hs1]
  rfl

theorem RoundTrip.kmovhToMask : ∀ x1 x2, RoundTrip.Statement (.kmovhToMask x1 x2) := by
  intro x1 x2
  exact RoundTrip.of_one rfl (RoundTrip.isLong_major (m := 0x21#6) (extract_high (extract_high (extract_high (extract_high rfl))))) ((RoundTrip.major21 (extract_high (extract_high (extract_high (extract_high rfl))))).trans (RoundTrip.kmovhToMask_row (extract_low rfl) (extract_low rfl) (extract_high (extract_high (extract_low extract_all))) (extract_high (extract_low extract_all))))

theorem RoundTrip.kmovhFromMask_row {w : Word32} {x1 : BitVec 5} {x2 : BitVec 3} (hs0 : w.extractLsb' 0 11 = 0x5#11) (hs1 : w.extractLsb' 11 5 = 0x1#5) (hf0 : w.extractLsb' 21 5 = x1) (hf1 : w.extractLsb' 16 3 = x2) :
    candidate21 w = some (.kmovhFromMask x1 x2) := by
  subst hf0 hf1
  delta candidate21
  rw [hs0, hs1]
  rfl

theorem RoundTrip.kmovhFromMask : ∀ x1 x2, RoundTrip.Statement (.kmovhFromMask x1 x2) := by
  intro x1 x2
  exact RoundTrip.of_one rfl (RoundTrip.isLong_major (m := 0x21#6) (extract_high (extract_high (extract_high (extract_high rfl))))) ((RoundTrip.major21 (extract_high (extract_high (extract_high (extract_high rfl))))).trans (RoundTrip.kmovhFromMask_row (extract_low rfl) (extract_low rfl) (extract_high (extract_high (extract_high (extract_low extract_all)))) (extract_high (extract_low extract_all))))

theorem RoundTrip.kpopc_row {w : Word32} {x1 : BitVec 5} {x2 : BitVec 3} (hs0 : w.extractLsb' 0 11 = 0x6#11) (hf0 : w.extractLsb' 21 5 = x1) (hf1 : w.extractLsb' 16 3 = x2) :
    candidate21 w = some (.kpopc x1 x2) := by
  subst hf0 hf1
  delta candidate21
  rw [hs0]
  rfl

theorem RoundTrip.kpopc : ∀ x1 x2, RoundTrip.Statement (.kpopc x1 x2) := by
  intro x1 x2
  exact RoundTrip.of_one rfl (RoundTrip.isLong_major (m := 0x21#6) (extract_high (extract_high (extract_high (extract_high rfl))))) ((RoundTrip.major21 (extract_high (extract_high (extract_high (extract_high rfl))))).trans (RoundTrip.kpopc_row (extract_low rfl) (extract_high (extract_high (extract_high (extract_low extract_all)))) (extract_high (extract_low extract_all))))

theorem RoundTrip.kfirst_row {w : Word32} {x1 : BitVec 5} {x2 : BitVec 3} (hs0 : w.extractLsb' 0 11 = 0x7#11) (hf0 : w.extractLsb' 21 5 = x1) (hf1 : w.extractLsb' 16 3 = x2) :
    candidate21 w = some (.kfirst x1 x2) := by
  subst hf0 hf1
  delta candidate21
  rw [hs0]
  rfl

theorem RoundTrip.kfirst : ∀ x1 x2, RoundTrip.Statement (.kfirst x1 x2) := by
  intro x1 x2
  exact RoundTrip.of_one rfl (RoundTrip.isLong_major (m := 0x21#6) (extract_high (extract_high (extract_high (extract_high rfl))))) ((RoundTrip.major21 (extract_high (extract_high (extract_high (extract_high rfl))))).trans (RoundTrip.kfirst_row (extract_low rfl) (extract_high (extract_high (extract_high (extract_low extract_all)))) (extract_high (extract_low extract_all))))

theorem RoundTrip.cbld_row {w : Word32} {x1 : BitVec 2} {x2 : BitVec 5} (hs0 : w.extractLsb' 0 11 = 0x0#11) (hf0 : w.extractLsb' 21 2 = x1) (hf1 : w.extractLsb' 16 5 = x2) :
    candidate22 w = some (.cbld x1 x2) := by
  subst hf0 hf1
  delta candidate22
  rw [hs0]
  rfl

theorem RoundTrip.cbld : ∀ x1 x2, RoundTrip.Statement (.cbld x1 x2) := by
  intro x1 x2
  exact RoundTrip.of_one rfl (RoundTrip.isLong_major (m := 0x22#6) (extract_high (extract_high (extract_high (extract_high rfl))))) ((RoundTrip.major22 (extract_high (extract_high (extract_high (extract_high rfl))))).trans (RoundTrip.cbld_row (extract_low rfl) (extract_high (extract_high (extract_low extract_all))) (extract_high (extract_low extract_all))))

theorem RoundTrip.cbrd_row {w : Word32} {x1 : BitVec 5} {x2 : BitVec 2} (hs0 : w.extractLsb' 0 11 = 0x1#11) (hf0 : w.extractLsb' 21 5 = x1) (hf1 : w.extractLsb' 16 2 = x2) :
    candidate22 w = some (.cbrd x1 x2) := by
  subst hf0 hf1
  delta candidate22
  rw [hs0]
  rfl

theorem RoundTrip.cbrd : ∀ x1 x2, RoundTrip.Statement (.cbrd x1 x2) := by
  intro x1 x2
  exact RoundTrip.of_one rfl (RoundTrip.isLong_major (m := 0x22#6) (extract_high (extract_high (extract_high (extract_high rfl))))) ((RoundTrip.major22 (extract_high (extract_high (extract_high (extract_high rfl))))).trans (RoundTrip.cbrd_row (extract_low rfl) (extract_high (extract_high (extract_high (extract_low extract_all)))) (extract_high (extract_low extract_all))))

theorem RoundTrip.fadd_row {w : Word32} {x1 : BitVec 5} {x2 : BitVec 5} {x3 : BitVec 5} {x4 : BitVec 3} (hs0 : w.extractLsb' 0 4 = 0x0#4) (hf0 : w.extractLsb' 21 5 = x1) (hf1 : w.extractLsb' 16 5 = x2) (hf2 : w.extractLsb' 11 5 = x3) (hf3 : w.extractLsb' 4 3 = x4) :
    candidate23 w = some (.fadd x1 x2 x3 x4) := by
  subst hf0 hf1 hf2 hf3
  delta candidate23
  rw [hs0]
  rfl

theorem RoundTrip.fadd : ∀ x1 x2 x3 x4, RoundTrip.Statement (.fadd x1 x2 x3 x4) := by
  intro x1 x2 x3 x4
  exact RoundTrip.of_one rfl (RoundTrip.isLong_major (m := 0x23#6) (extract_high (extract_high (extract_high (extract_high (extract_high (extract_high rfl))))))) ((RoundTrip.major23 (extract_high (extract_high (extract_high (extract_high (extract_high (extract_high rfl))))))).trans (RoundTrip.fadd_row (extract_low rfl) (extract_high (extract_high (extract_high (extract_high (extract_high (extract_low extract_all)))))) (extract_high (extract_high (extract_high (extract_high (extract_low extract_all))))) (extract_high (extract_high (extract_high (extract_low extract_all)))) (extract_high (extract_low extract_all))))

theorem RoundTrip.fsub_row {w : Word32} {x1 : BitVec 5} {x2 : BitVec 5} {x3 : BitVec 5} {x4 : BitVec 3} (hs0 : w.extractLsb' 0 4 = 0x1#4) (hf0 : w.extractLsb' 21 5 = x1) (hf1 : w.extractLsb' 16 5 = x2) (hf2 : w.extractLsb' 11 5 = x3) (hf3 : w.extractLsb' 4 3 = x4) :
    candidate23 w = some (.fsub x1 x2 x3 x4) := by
  subst hf0 hf1 hf2 hf3
  delta candidate23
  rw [hs0]
  rfl

theorem RoundTrip.fsub : ∀ x1 x2 x3 x4, RoundTrip.Statement (.fsub x1 x2 x3 x4) := by
  intro x1 x2 x3 x4
  exact RoundTrip.of_one rfl (RoundTrip.isLong_major (m := 0x23#6) (extract_high (extract_high (extract_high (extract_high (extract_high (extract_high rfl))))))) ((RoundTrip.major23 (extract_high (extract_high (extract_high (extract_high (extract_high (extract_high rfl))))))).trans (RoundTrip.fsub_row (extract_low rfl) (extract_high (extract_high (extract_high (extract_high (extract_high (extract_low extract_all)))))) (extract_high (extract_high (extract_high (extract_high (extract_low extract_all))))) (extract_high (extract_high (extract_high (extract_low extract_all)))) (extract_high (extract_low extract_all))))

theorem RoundTrip.fmul_row {w : Word32} {x1 : BitVec 5} {x2 : BitVec 5} {x3 : BitVec 5} {x4 : BitVec 3} (hs0 : w.extractLsb' 0 4 = 0x2#4) (hf0 : w.extractLsb' 21 5 = x1) (hf1 : w.extractLsb' 16 5 = x2) (hf2 : w.extractLsb' 11 5 = x3) (hf3 : w.extractLsb' 4 3 = x4) :
    candidate23 w = some (.fmul x1 x2 x3 x4) := by
  subst hf0 hf1 hf2 hf3
  delta candidate23
  rw [hs0]
  rfl

theorem RoundTrip.fmul : ∀ x1 x2 x3 x4, RoundTrip.Statement (.fmul x1 x2 x3 x4) := by
  intro x1 x2 x3 x4
  exact RoundTrip.of_one rfl (RoundTrip.isLong_major (m := 0x23#6) (extract_high (extract_high (extract_high (extract_high (extract_high (extract_high rfl))))))) ((RoundTrip.major23 (extract_high (extract_high (extract_high (extract_high (extract_high (extract_high rfl))))))).trans (RoundTrip.fmul_row (extract_low rfl) (extract_high (extract_high (extract_high (extract_high (extract_high (extract_low extract_all)))))) (extract_high (extract_high (extract_high (extract_high (extract_low extract_all))))) (extract_high (extract_high (extract_high (extract_low extract_all)))) (extract_high (extract_low extract_all))))

theorem RoundTrip.fdiv_row {w : Word32} {x1 : BitVec 5} {x2 : BitVec 5} {x3 : BitVec 5} {x4 : BitVec 3} (hs0 : w.extractLsb' 0 4 = 0x3#4) (hf0 : w.extractLsb' 21 5 = x1) (hf1 : w.extractLsb' 16 5 = x2) (hf2 : w.extractLsb' 11 5 = x3) (hf3 : w.extractLsb' 4 3 = x4) :
    candidate23 w = some (.fdiv x1 x2 x3 x4) := by
  subst hf0 hf1 hf2 hf3
  delta candidate23
  rw [hs0]
  rfl

theorem RoundTrip.fdiv : ∀ x1 x2 x3 x4, RoundTrip.Statement (.fdiv x1 x2 x3 x4) := by
  intro x1 x2 x3 x4
  exact RoundTrip.of_one rfl (RoundTrip.isLong_major (m := 0x23#6) (extract_high (extract_high (extract_high (extract_high (extract_high (extract_high rfl))))))) ((RoundTrip.major23 (extract_high (extract_high (extract_high (extract_high (extract_high (extract_high rfl))))))).trans (RoundTrip.fdiv_row (extract_low rfl) (extract_high (extract_high (extract_high (extract_high (extract_high (extract_low extract_all)))))) (extract_high (extract_high (extract_high (extract_high (extract_low extract_all))))) (extract_high (extract_high (extract_high (extract_low extract_all)))) (extract_high (extract_low extract_all))))

theorem RoundTrip.fmin_row {w : Word32} {x1 : BitVec 5} {x2 : BitVec 5} {x3 : BitVec 5} (hs0 : w.extractLsb' 0 4 = 0x4#4) (hf0 : w.extractLsb' 21 5 = x1) (hf1 : w.extractLsb' 16 5 = x2) (hf2 : w.extractLsb' 11 5 = x3) :
    candidate23 w = some (.fmin x1 x2 x3) := by
  subst hf0 hf1 hf2
  delta candidate23
  rw [hs0]
  rfl

theorem RoundTrip.fmin : ∀ x1 x2 x3, RoundTrip.Statement (.fmin x1 x2 x3) := by
  intro x1 x2 x3
  exact RoundTrip.of_one rfl (RoundTrip.isLong_major (m := 0x23#6) (extract_high (extract_high (extract_high (extract_high rfl))))) ((RoundTrip.major23 (extract_high (extract_high (extract_high (extract_high rfl))))).trans (RoundTrip.fmin_row (extract_low rfl) (extract_high (extract_high (extract_high (extract_low extract_all)))) (extract_high (extract_high (extract_low extract_all))) (extract_high (extract_low extract_all))))

theorem RoundTrip.fmax_row {w : Word32} {x1 : BitVec 5} {x2 : BitVec 5} {x3 : BitVec 5} (hs0 : w.extractLsb' 0 4 = 0x5#4) (hf0 : w.extractLsb' 21 5 = x1) (hf1 : w.extractLsb' 16 5 = x2) (hf2 : w.extractLsb' 11 5 = x3) :
    candidate23 w = some (.fmax x1 x2 x3) := by
  subst hf0 hf1 hf2
  delta candidate23
  rw [hs0]
  rfl

theorem RoundTrip.fmax : ∀ x1 x2 x3, RoundTrip.Statement (.fmax x1 x2 x3) := by
  intro x1 x2 x3
  exact RoundTrip.of_one rfl (RoundTrip.isLong_major (m := 0x23#6) (extract_high (extract_high (extract_high (extract_high rfl))))) ((RoundTrip.major23 (extract_high (extract_high (extract_high (extract_high rfl))))).trans (RoundTrip.fmax_row (extract_low rfl) (extract_high (extract_high (extract_high (extract_low extract_all)))) (extract_high (extract_high (extract_low extract_all))) (extract_high (extract_low extract_all))))

theorem RoundTrip.fsqrt_row {w : Word32} {x1 : BitVec 5} {x2 : BitVec 5} {x3 : BitVec 3} (hs0 : w.extractLsb' 0 4 = 0x6#4) (hf0 : w.extractLsb' 21 5 = x1) (hf1 : w.extractLsb' 16 5 = x2) (hf2 : w.extractLsb' 4 3 = x3) :
    candidate23 w = some (.fsqrt x1 x2 x3) := by
  subst hf0 hf1 hf2
  delta candidate23
  rw [hs0]
  rfl

theorem RoundTrip.fsqrt : ∀ x1 x2 x3, RoundTrip.Statement (.fsqrt x1 x2 x3) := by
  intro x1 x2 x3
  exact RoundTrip.of_one rfl (RoundTrip.isLong_major (m := 0x23#6) (extract_high (extract_high (extract_high (extract_high (extract_high rfl)))))) ((RoundTrip.major23 (extract_high (extract_high (extract_high (extract_high (extract_high rfl)))))).trans (RoundTrip.fsqrt_row (extract_low rfl) (extract_high (extract_high (extract_high (extract_high (extract_low extract_all))))) (extract_high (extract_high (extract_high (extract_low extract_all)))) (extract_high (extract_low extract_all))))

theorem RoundTrip.feq_row {w : Word32} {x1 : BitVec 5} {x2 : BitVec 5} {x3 : BitVec 5} (hs0 : w.extractLsb' 0 4 = 0x7#4) (hf0 : w.extractLsb' 21 5 = x1) (hf1 : w.extractLsb' 16 5 = x2) (hf2 : w.extractLsb' 11 5 = x3) :
    candidate23 w = some (.feq x1 x2 x3) := by
  subst hf0 hf1 hf2
  delta candidate23
  rw [hs0]
  rfl

theorem RoundTrip.feq : ∀ x1 x2 x3, RoundTrip.Statement (.feq x1 x2 x3) := by
  intro x1 x2 x3
  exact RoundTrip.of_one rfl (RoundTrip.isLong_major (m := 0x23#6) (extract_high (extract_high (extract_high (extract_high rfl))))) ((RoundTrip.major23 (extract_high (extract_high (extract_high (extract_high rfl))))).trans (RoundTrip.feq_row (extract_low rfl) (extract_high (extract_high (extract_high (extract_low extract_all)))) (extract_high (extract_high (extract_low extract_all))) (extract_high (extract_low extract_all))))

theorem RoundTrip.flt_row {w : Word32} {x1 : BitVec 5} {x2 : BitVec 5} {x3 : BitVec 5} (hs0 : w.extractLsb' 0 4 = 0x8#4) (hf0 : w.extractLsb' 21 5 = x1) (hf1 : w.extractLsb' 16 5 = x2) (hf2 : w.extractLsb' 11 5 = x3) :
    candidate23 w = some (.flt x1 x2 x3) := by
  subst hf0 hf1 hf2
  delta candidate23
  rw [hs0]
  rfl

theorem RoundTrip.flt : ∀ x1 x2 x3, RoundTrip.Statement (.flt x1 x2 x3) := by
  intro x1 x2 x3
  exact RoundTrip.of_one rfl (RoundTrip.isLong_major (m := 0x23#6) (extract_high (extract_high (extract_high (extract_high rfl))))) ((RoundTrip.major23 (extract_high (extract_high (extract_high (extract_high rfl))))).trans (RoundTrip.flt_row (extract_low rfl) (extract_high (extract_high (extract_high (extract_low extract_all)))) (extract_high (extract_high (extract_low extract_all))) (extract_high (extract_low extract_all))))

theorem RoundTrip.fle_row {w : Word32} {x1 : BitVec 5} {x2 : BitVec 5} {x3 : BitVec 5} (hs0 : w.extractLsb' 0 4 = 0x9#4) (hf0 : w.extractLsb' 21 5 = x1) (hf1 : w.extractLsb' 16 5 = x2) (hf2 : w.extractLsb' 11 5 = x3) :
    candidate23 w = some (.fle x1 x2 x3) := by
  subst hf0 hf1 hf2
  delta candidate23
  rw [hs0]
  rfl

theorem RoundTrip.fle : ∀ x1 x2 x3, RoundTrip.Statement (.fle x1 x2 x3) := by
  intro x1 x2 x3
  exact RoundTrip.of_one rfl (RoundTrip.isLong_major (m := 0x23#6) (extract_high (extract_high (extract_high (extract_high rfl))))) ((RoundTrip.major23 (extract_high (extract_high (extract_high (extract_high rfl))))).trans (RoundTrip.fle_row (extract_low rfl) (extract_high (extract_high (extract_high (extract_low extract_all)))) (extract_high (extract_high (extract_low extract_all))) (extract_high (extract_low extract_all))))

theorem RoundTrip.fcvt_row {w : Word32} {x1 : BitVec 5} {x2 : BitVec 5} {x3 : BitVec 4} {x4 : BitVec 3} (hs0 : w.extractLsb' 0 4 = 0xa#4) (hf0 : w.extractLsb' 21 5 = x1) (hf1 : w.extractLsb' 16 5 = x2) (hf2 : w.extractLsb' 7 4 = x3) (hf3 : w.extractLsb' 4 3 = x4) :
    candidate23 w = some (.fcvt x1 x2 x3 x4) := by
  subst hf0 hf1 hf2 hf3
  delta candidate23
  rw [hs0]
  rfl

theorem RoundTrip.fcvt : ∀ x1 x2 x3 x4, RoundTrip.Statement (.fcvt x1 x2 x3 x4) := by
  intro x1 x2 x3 x4
  exact RoundTrip.of_one rfl (RoundTrip.isLong_major (m := 0x23#6) (extract_high (extract_high (extract_high (extract_high (extract_high (extract_high rfl))))))) ((RoundTrip.major23 (extract_high (extract_high (extract_high (extract_high (extract_high (extract_high rfl))))))).trans (RoundTrip.fcvt_row (extract_low rfl) (extract_high (extract_high (extract_high (extract_high (extract_high (extract_low extract_all)))))) (extract_high (extract_high (extract_high (extract_high (extract_low extract_all))))) (extract_high (extract_high (extract_low extract_all))) (extract_high (extract_low extract_all))))

theorem RoundTrip.fma_row {w : Word32} {x1 : BitVec 5} {x2 : BitVec 5} {x3 : BitVec 5} {x4 : BitVec 3} (hs0 : w.extractLsb' 0 4 = 0xb#4) (hf0 : w.extractLsb' 21 5 = x1) (hf1 : w.extractLsb' 16 5 = x2) (hf2 : w.extractLsb' 11 5 = x3) (hf3 : w.extractLsb' 4 3 = x4) :
    candidate23 w = some (.fma x1 x2 x3 x4) := by
  subst hf0 hf1 hf2 hf3
  delta candidate23
  rw [hs0]
  rfl

theorem RoundTrip.fma : ∀ x1 x2 x3 x4, RoundTrip.Statement (.fma x1 x2 x3 x4) := by
  intro x1 x2 x3 x4
  exact RoundTrip.of_one rfl (RoundTrip.isLong_major (m := 0x23#6) (extract_high (extract_high (extract_high (extract_high (extract_high (extract_high rfl))))))) ((RoundTrip.major23 (extract_high (extract_high (extract_high (extract_high (extract_high (extract_high rfl))))))).trans (RoundTrip.fma_row (extract_low rfl) (extract_high (extract_high (extract_high (extract_high (extract_high (extract_low extract_all)))))) (extract_high (extract_high (extract_high (extract_high (extract_low extract_all))))) (extract_high (extract_high (extract_high (extract_low extract_all)))) (extract_high (extract_low extract_all))))

theorem RoundTrip.vld_row {w : Word32} {x1 : BitVec 5} {x2 : BitVec 5} {x3 : BitVec 5} {x4 : BitVec 3} {x5 : BitVec 8} (hf0 : w.extractLsb' 21 5 = x1) (hf1 : w.extractLsb' 16 5 = x2) (hf2 : w.extractLsb' 11 5 = x3) (hf3 : w.extractLsb' 8 3 = x4) (hf4 : w.extractLsb' 0 8 = x5) :
    candidate24 w = some (.vld x1 x2 x3 x4 x5) := by
  subst hf0 hf1 hf2 hf3 hf4
  delta candidate24
  rfl

theorem RoundTrip.vld : ∀ x1 x2 x3 x4 x5, RoundTrip.Statement (.vld x1 x2 x3 x4 x5) := by
  intro x1 x2 x3 x4 x5
  exact RoundTrip.of_one rfl (RoundTrip.isLong_major (m := 0x24#6) (extract_high (extract_high (extract_high (extract_high (extract_high rfl)))))) ((RoundTrip.major24 (extract_high (extract_high (extract_high (extract_high (extract_high rfl)))))).trans (RoundTrip.vld_row (extract_high (extract_high (extract_high (extract_high (extract_low extract_all))))) (extract_high (extract_high (extract_high (extract_low extract_all)))) (extract_high (extract_high (extract_low extract_all))) (extract_high (extract_low extract_all)) (extract_low extract_all)))

theorem RoundTrip.vst_row {w : Word32} {x1 : BitVec 5} {x2 : BitVec 5} {x3 : BitVec 5} {x4 : BitVec 3} {x5 : BitVec 8} (hf0 : w.extractLsb' 21 5 = x1) (hf1 : w.extractLsb' 16 5 = x2) (hf2 : w.extractLsb' 11 5 = x3) (hf3 : w.extractLsb' 8 3 = x4) (hf4 : w.extractLsb' 0 8 = x5) :
    candidate25 w = some (.vst x1 x2 x3 x4 x5) := by
  subst hf0 hf1 hf2 hf3 hf4
  delta candidate25
  rfl

theorem RoundTrip.vst : ∀ x1 x2 x3 x4 x5, RoundTrip.Statement (.vst x1 x2 x3 x4 x5) := by
  intro x1 x2 x3 x4 x5
  exact RoundTrip.of_one rfl (RoundTrip.isLong_major (m := 0x25#6) (extract_high (extract_high (extract_high (extract_high (extract_high rfl)))))) ((RoundTrip.major25 (extract_high (extract_high (extract_high (extract_high (extract_high rfl)))))).trans (RoundTrip.vst_row (extract_high (extract_high (extract_high (extract_high (extract_low extract_all))))) (extract_high (extract_high (extract_high (extract_low extract_all)))) (extract_high (extract_high (extract_low extract_all))) (extract_high (extract_low extract_all)) (extract_low extract_all)))

theorem RoundTrip.vlds_row {w : Word32} {x1 : BitVec 5} {x2 : BitVec 5} {x3 : BitVec 5} {x4 : BitVec 3} {x5 : BitVec 5} (hs0 : w.extractLsb' 0 3 = 0x0#3) (hf0 : w.extractLsb' 21 5 = x1) (hf1 : w.extractLsb' 16 5 = x2) (hf2 : w.extractLsb' 11 5 = x3) (hf3 : w.extractLsb' 8 3 = x4) (hf4 : w.extractLsb' 3 5 = x5) :
    candidate26 w = some (.vlds x1 x2 x3 x4 x5) := by
  subst hf0 hf1 hf2 hf3 hf4
  delta candidate26
  rw [hs0]
  rfl

theorem RoundTrip.vlds : ∀ x1 x2 x3 x4 x5, RoundTrip.Statement (.vlds x1 x2 x3 x4 x5) := by
  intro x1 x2 x3 x4 x5
  exact RoundTrip.of_one rfl (RoundTrip.isLong_major (m := 0x26#6) (extract_high (extract_high (extract_high (extract_high (extract_high (extract_high rfl))))))) ((RoundTrip.major26 (extract_high (extract_high (extract_high (extract_high (extract_high (extract_high rfl))))))).trans (RoundTrip.vlds_row (extract_low rfl) (extract_high (extract_high (extract_high (extract_high (extract_high (extract_low extract_all)))))) (extract_high (extract_high (extract_high (extract_high (extract_low extract_all))))) (extract_high (extract_high (extract_high (extract_low extract_all)))) (extract_high (extract_high (extract_low extract_all))) (extract_high (extract_low extract_all))))

theorem RoundTrip.vsts_row {w : Word32} {x1 : BitVec 5} {x2 : BitVec 5} {x3 : BitVec 5} {x4 : BitVec 3} {x5 : BitVec 5} (hs0 : w.extractLsb' 0 3 = 0x1#3) (hf0 : w.extractLsb' 21 5 = x1) (hf1 : w.extractLsb' 16 5 = x2) (hf2 : w.extractLsb' 11 5 = x3) (hf3 : w.extractLsb' 8 3 = x4) (hf4 : w.extractLsb' 3 5 = x5) :
    candidate26 w = some (.vsts x1 x2 x3 x4 x5) := by
  subst hf0 hf1 hf2 hf3 hf4
  delta candidate26
  rw [hs0]
  rfl

theorem RoundTrip.vsts : ∀ x1 x2 x3 x4 x5, RoundTrip.Statement (.vsts x1 x2 x3 x4 x5) := by
  intro x1 x2 x3 x4 x5
  exact RoundTrip.of_one rfl (RoundTrip.isLong_major (m := 0x26#6) (extract_high (extract_high (extract_high (extract_high (extract_high (extract_high rfl))))))) ((RoundTrip.major26 (extract_high (extract_high (extract_high (extract_high (extract_high (extract_high rfl))))))).trans (RoundTrip.vsts_row (extract_low rfl) (extract_high (extract_high (extract_high (extract_high (extract_high (extract_low extract_all)))))) (extract_high (extract_high (extract_high (extract_high (extract_low extract_all))))) (extract_high (extract_high (extract_high (extract_low extract_all)))) (extract_high (extract_high (extract_low extract_all))) (extract_high (extract_low extract_all))))

theorem RoundTrip.vldx_row {w : Word32} {x1 : BitVec 5} {x2 : BitVec 5} {x3 : BitVec 5} {x4 : BitVec 3} {x5 : BitVec 5} (hs0 : w.extractLsb' 0 3 = 0x2#3) (hf0 : w.extractLsb' 21 5 = x1) (hf1 : w.extractLsb' 16 5 = x2) (hf2 : w.extractLsb' 11 5 = x3) (hf3 : w.extractLsb' 8 3 = x4) (hf4 : w.extractLsb' 3 5 = x5) :
    candidate26 w = some (.vldx x1 x2 x3 x4 x5) := by
  subst hf0 hf1 hf2 hf3 hf4
  delta candidate26
  rw [hs0]
  rfl

theorem RoundTrip.vldx : ∀ x1 x2 x3 x4 x5, RoundTrip.Statement (.vldx x1 x2 x3 x4 x5) := by
  intro x1 x2 x3 x4 x5
  exact RoundTrip.of_one rfl (RoundTrip.isLong_major (m := 0x26#6) (extract_high (extract_high (extract_high (extract_high (extract_high (extract_high rfl))))))) ((RoundTrip.major26 (extract_high (extract_high (extract_high (extract_high (extract_high (extract_high rfl))))))).trans (RoundTrip.vldx_row (extract_low rfl) (extract_high (extract_high (extract_high (extract_high (extract_high (extract_low extract_all)))))) (extract_high (extract_high (extract_high (extract_high (extract_low extract_all))))) (extract_high (extract_high (extract_high (extract_low extract_all)))) (extract_high (extract_high (extract_low extract_all))) (extract_high (extract_low extract_all))))

theorem RoundTrip.vstx_row {w : Word32} {x1 : BitVec 5} {x2 : BitVec 5} {x3 : BitVec 5} {x4 : BitVec 3} {x5 : BitVec 5} (hs0 : w.extractLsb' 0 3 = 0x3#3) (hf0 : w.extractLsb' 21 5 = x1) (hf1 : w.extractLsb' 16 5 = x2) (hf2 : w.extractLsb' 11 5 = x3) (hf3 : w.extractLsb' 8 3 = x4) (hf4 : w.extractLsb' 3 5 = x5) :
    candidate26 w = some (.vstx x1 x2 x3 x4 x5) := by
  subst hf0 hf1 hf2 hf3 hf4
  delta candidate26
  rw [hs0]
  rfl

theorem RoundTrip.vstx : ∀ x1 x2 x3 x4 x5, RoundTrip.Statement (.vstx x1 x2 x3 x4 x5) := by
  intro x1 x2 x3 x4 x5
  exact RoundTrip.of_one rfl (RoundTrip.isLong_major (m := 0x26#6) (extract_high (extract_high (extract_high (extract_high (extract_high (extract_high rfl))))))) ((RoundTrip.major26 (extract_high (extract_high (extract_high (extract_high (extract_high (extract_high rfl))))))).trans (RoundTrip.vstx_row (extract_low rfl) (extract_high (extract_high (extract_high (extract_high (extract_high (extract_low extract_all)))))) (extract_high (extract_high (extract_high (extract_high (extract_low extract_all))))) (extract_high (extract_high (extract_high (extract_low extract_all)))) (extract_high (extract_high (extract_low extract_all))) (extract_high (extract_low extract_all))))

theorem RoundTrip.vldb_row {w : Word32} {x1 : BitVec 5} {x2 : BitVec 5} {x3 : BitVec 3} {x4 : BitVec 5} (hs0 : w.extractLsb' 0 3 = 0x4#3) (hf0 : w.extractLsb' 21 5 = x1) (hf1 : w.extractLsb' 16 5 = x2) (hf2 : w.extractLsb' 8 3 = x3) (hf3 : w.extractLsb' 3 5 = x4) :
    candidate26 w = some (.vldb x1 x2 x3 x4) := by
  subst hf0 hf1 hf2 hf3
  delta candidate26
  rw [hs0]
  rfl

theorem RoundTrip.vldb : ∀ x1 x2 x3 x4, RoundTrip.Statement (.vldb x1 x2 x3 x4) := by
  intro x1 x2 x3 x4
  exact RoundTrip.of_one rfl (RoundTrip.isLong_major (m := 0x26#6) (extract_high (extract_high (extract_high (extract_high (extract_high (extract_high rfl))))))) ((RoundTrip.major26 (extract_high (extract_high (extract_high (extract_high (extract_high (extract_high rfl))))))).trans (RoundTrip.vldb_row (extract_low rfl) (extract_high (extract_high (extract_high (extract_high (extract_high (extract_low extract_all)))))) (extract_high (extract_high (extract_high (extract_high (extract_low extract_all))))) (extract_high (extract_high (extract_low extract_all))) (extract_high (extract_low extract_all))))

theorem RoundTrip.spillm_row {w : Word32} {x1 : BitVec 5} {x2 : BitVec 5} {x3 : BitVec 5} (hs0 : w.extractLsb' 0 11 = 0x0#11) (hf0 : w.extractLsb' 21 5 = x1) (hf1 : w.extractLsb' 16 5 = x2) (hf2 : w.extractLsb' 11 5 = x3) :
    candidate27 w = some (.spillm x1 x2 x3) := by
  subst hf0 hf1 hf2
  delta candidate27
  rw [hs0]
  rfl

theorem RoundTrip.spillm : ∀ x1 x2 x3, RoundTrip.Statement (.spillm x1 x2 x3) := by
  intro x1 x2 x3
  exact RoundTrip.of_one rfl (RoundTrip.isLong_major (m := 0x27#6) (extract_high (extract_high (extract_high (extract_high rfl))))) ((RoundTrip.major27 (extract_high (extract_high (extract_high (extract_high rfl))))).trans (RoundTrip.spillm_row (extract_low rfl) (extract_high (extract_high (extract_high (extract_low extract_all)))) (extract_high (extract_high (extract_low extract_all))) (extract_high (extract_low extract_all))))

theorem RoundTrip.fillm_row {w : Word32} {x1 : BitVec 5} {x2 : BitVec 5} {x3 : BitVec 5} (hs0 : w.extractLsb' 0 11 = 0x1#11) (hf0 : w.extractLsb' 21 5 = x1) (hf1 : w.extractLsb' 16 5 = x2) (hf2 : w.extractLsb' 11 5 = x3) :
    candidate27 w = some (.fillm x1 x2 x3) := by
  subst hf0 hf1 hf2
  delta candidate27
  rw [hs0]
  rfl

theorem RoundTrip.fillm : ∀ x1 x2 x3, RoundTrip.Statement (.fillm x1 x2 x3) := by
  intro x1 x2 x3
  exact RoundTrip.of_one rfl (RoundTrip.isLong_major (m := 0x27#6) (extract_high (extract_high (extract_high (extract_high rfl))))) ((RoundTrip.major27 (extract_high (extract_high (extract_high (extract_high rfl))))).trans (RoundTrip.fillm_row (extract_low rfl) (extract_high (extract_high (extract_high (extract_low extract_all)))) (extract_high (extract_high (extract_low extract_all))) (extract_high (extract_low extract_all))))

theorem RoundTrip.vspill_row {w : Word32} {x1 : BitVec 5} {x2 : BitVec 5} {x3 : BitVec 5} (hs0 : w.extractLsb' 0 11 = 0x2#11) (hf0 : w.extractLsb' 21 5 = x1) (hf1 : w.extractLsb' 16 5 = x2) (hf2 : w.extractLsb' 11 5 = x3) :
    candidate27 w = some (.vspill x1 x2 x3) := by
  subst hf0 hf1 hf2
  delta candidate27
  rw [hs0]
  rfl

theorem RoundTrip.vspill : ∀ x1 x2 x3, RoundTrip.Statement (.vspill x1 x2 x3) := by
  intro x1 x2 x3
  exact RoundTrip.of_one rfl (RoundTrip.isLong_major (m := 0x27#6) (extract_high (extract_high (extract_high (extract_high rfl))))) ((RoundTrip.major27 (extract_high (extract_high (extract_high (extract_high rfl))))).trans (RoundTrip.vspill_row (extract_low rfl) (extract_high (extract_high (extract_high (extract_low extract_all)))) (extract_high (extract_high (extract_low extract_all))) (extract_high (extract_low extract_all))))

theorem RoundTrip.vfill_row {w : Word32} {x1 : BitVec 5} {x2 : BitVec 5} {x3 : BitVec 5} (hs0 : w.extractLsb' 0 11 = 0x3#11) (hf0 : w.extractLsb' 21 5 = x1) (hf1 : w.extractLsb' 16 5 = x2) (hf2 : w.extractLsb' 11 5 = x3) :
    candidate27 w = some (.vfill x1 x2 x3) := by
  subst hf0 hf1 hf2
  delta candidate27
  rw [hs0]
  rfl

theorem RoundTrip.vfill : ∀ x1 x2 x3, RoundTrip.Statement (.vfill x1 x2 x3) := by
  intro x1 x2 x3
  exact RoundTrip.of_one rfl (RoundTrip.isLong_major (m := 0x27#6) (extract_high (extract_high (extract_high (extract_high rfl))))) ((RoundTrip.major27 (extract_high (extract_high (extract_high (extract_high rfl))))).trans (RoundTrip.vfill_row (extract_low rfl) (extract_high (extract_high (extract_high (extract_low extract_all)))) (extract_high (extract_high (extract_low extract_all))) (extract_high (extract_low extract_all))))

theorem RoundTrip.frame_row {w : Word32} {x1 : BitVec 5} (hs0 : w.extractLsb' 0 11 = 0x4#11) (hf0 : w.extractLsb' 16 5 = x1) :
    candidate27 w = some (.frame x1) := by
  subst hf0
  delta candidate27
  rw [hs0]
  rfl

theorem RoundTrip.frame : ∀ x1, RoundTrip.Statement (.frame x1) := by
  intro x1
  exact RoundTrip.of_one rfl (RoundTrip.isLong_major (m := 0x27#6) (extract_high (extract_high (extract_high rfl)))) ((RoundTrip.major27 (extract_high (extract_high (extract_high rfl)))).trans (RoundTrip.frame_row (extract_low rfl) (extract_high (extract_low extract_all))))

theorem RoundTrip.unframe_row {w : Word32} (hs0 : w.extractLsb' 0 11 = 0x5#11) :
    candidate27 w = some (.unframe) := by
  delta candidate27
  rw [hs0]
  rfl

theorem RoundTrip.unframe : RoundTrip.Statement (.unframe) := by
  exact RoundTrip.of_one rfl (RoundTrip.isLong_major (m := 0x27#6) (extract_high rfl)) ((RoundTrip.major27 (extract_high rfl)).trans (RoundTrip.unframe_row (extract_low rfl)))

theorem RoundTrip.wprd_row {w : Word32} {x1 : BitVec 5} {x2 : BitVec 5} (hs0 : w.extractLsb' 0 11 = 0x6#11) (hf0 : w.extractLsb' 21 5 = x1) (hf1 : w.extractLsb' 16 5 = x2) :
    candidate27 w = some (.wprd x1 x2) := by
  subst hf0 hf1
  delta candidate27
  rw [hs0]
  rfl

theorem RoundTrip.wprd : ∀ x1 x2, RoundTrip.Statement (.wprd x1 x2) := by
  intro x1 x2
  exact RoundTrip.of_one rfl (RoundTrip.isLong_major (m := 0x27#6) (extract_high (extract_high (extract_high rfl)))) ((RoundTrip.major27 (extract_high (extract_high (extract_high rfl)))).trans (RoundTrip.wprd_row (extract_low rfl) (extract_high (extract_high (extract_low extract_all))) (extract_high (extract_low extract_all))))

theorem RoundTrip.wpwait_row {w : Word32} {x1 : BitVec 5} {x2 : BitVec 5} (hs0 : w.extractLsb' 0 11 = 0x7#11) (hf0 : w.extractLsb' 16 5 = x1) (hf1 : w.extractLsb' 11 5 = x2) :
    candidate27 w = some (.wpwait x1 x2) := by
  subst hf0 hf1
  delta candidate27
  rw [hs0]
  rfl

theorem RoundTrip.wpwait : ∀ x1 x2, RoundTrip.Statement (.wpwait x1 x2) := by
  intro x1 x2
  exact RoundTrip.of_one rfl (RoundTrip.isLong_major (m := 0x27#6) (extract_high (extract_high (extract_high (extract_high rfl))))) ((RoundTrip.major27 (extract_high (extract_high (extract_high (extract_high rfl))))).trans (RoundTrip.wpwait_row (extract_low rfl) (extract_high (extract_high (extract_low extract_all))) (extract_high (extract_low extract_all))))

theorem RoundTrip.cpy_row {w v : Word32} {x1 : BitVec 5} {x2 : BitVec 5} {x3 : BitVec 8} (hs0 : w.extractLsb' 0 11 = 0x0#11) (hf0 : w.extractLsb' 16 5 = x1) (hf1 : w.extractLsb' 11 5 = x2) (hf2 : v.extractLsb' 0 8 = x3) :
    candidate28 w v = some (.cpy x1 x2 x3) := by
  subst hf0 hf1 hf2
  delta candidate28
  rw [hs0]
  rfl

theorem RoundTrip.cpy : ∀ x1 x2 x3, RoundTrip.Statement (.cpy x1 x2 x3) := by
  intro x1 x2 x3
  exact RoundTrip.of_two rfl (RoundTrip.isLong_major (m := 0x28#6) (extract_high (extract_high (extract_high (extract_high rfl))))) ((RoundTrip.major28 (extract_high (extract_high (extract_high (extract_high rfl))))).trans (RoundTrip.cpy_row (extract_low rfl) (extract_high (extract_high (extract_low extract_all))) (extract_high (extract_low extract_all)) (extract_low extract_all)))

theorem RoundTrip.cpym_row {w v : Word32} {x1 : BitVec 5} {x2 : BitVec 5} {x3 : BitVec 8} (hs0 : w.extractLsb' 0 11 = 0x1#11) (hf0 : w.extractLsb' 16 5 = x1) (hf1 : w.extractLsb' 11 5 = x2) (hf2 : v.extractLsb' 0 8 = x3) :
    candidate28 w v = some (.cpym x1 x2 x3) := by
  subst hf0 hf1 hf2
  delta candidate28
  rw [hs0]
  rfl

theorem RoundTrip.cpym : ∀ x1 x2 x3, RoundTrip.Statement (.cpym x1 x2 x3) := by
  intro x1 x2 x3
  exact RoundTrip.of_two rfl (RoundTrip.isLong_major (m := 0x28#6) (extract_high (extract_high (extract_high (extract_high rfl))))) ((RoundTrip.major28 (extract_high (extract_high (extract_high (extract_high rfl))))).trans (RoundTrip.cpym_row (extract_low rfl) (extract_high (extract_high (extract_low extract_all))) (extract_high (extract_low extract_all)) (extract_low extract_all)))

theorem RoundTrip.cpyq_row {w v : Word32} {x1 : BitVec 5} {x2 : BitVec 5} {x3 : BitVec 4} {x4 : BitVec 8} (hs0 : w.extractLsb' 0 11 = 0x2#11) (hf0 : w.extractLsb' 16 5 = x1) (hf1 : w.extractLsb' 11 5 = x2) (hf2 : v.extractLsb' 8 4 = x3) (hf3 : v.extractLsb' 0 8 = x4) :
    candidate28 w v = some (.cpyq x1 x2 x3 x4) := by
  subst hf0 hf1 hf2 hf3
  delta candidate28
  rw [hs0]
  rfl

theorem RoundTrip.cpyq : ∀ x1 x2 x3 x4, RoundTrip.Statement (.cpyq x1 x2 x3 x4) := by
  intro x1 x2 x3 x4
  exact RoundTrip.of_two rfl (RoundTrip.isLong_major (m := 0x28#6) (extract_high (extract_high (extract_high (extract_high rfl))))) ((RoundTrip.major28 (extract_high (extract_high (extract_high (extract_high rfl))))).trans (RoundTrip.cpyq_row (extract_low rfl) (extract_high (extract_high (extract_low extract_all))) (extract_high (extract_low extract_all)) (extract_high (extract_low extract_all)) (extract_low extract_all)))

theorem RoundTrip.mtcfg_row {w v : Word32} {x1 : BitVec 5} {x2 : BitVec 5} (hs0 : w.extractLsb' 0 11 = 0x3#11) (hf0 : w.extractLsb' 16 5 = x1) (hf1 : w.extractLsb' 11 5 = x2) :
    candidate28 w v = some (.mtcfg x1 x2) := by
  subst hf0 hf1
  delta candidate28
  rw [hs0]
  rfl

theorem RoundTrip.mtcfg : ∀ x1 x2, RoundTrip.Statement (.mtcfg x1 x2) := by
  intro x1 x2
  exact RoundTrip.of_two rfl (RoundTrip.isLong_major (m := 0x28#6) (extract_high (extract_high (extract_high (extract_high rfl))))) ((RoundTrip.major28 (extract_high (extract_high (extract_high (extract_high rfl))))).trans (RoundTrip.mtcfg_row (extract_low rfl) (extract_high (extract_high (extract_low extract_all))) (extract_high (extract_low extract_all))))

theorem RoundTrip.amo_row {w : Word32} {x1 : BitVec 5} {x2 : BitVec 5} {x3 : BitVec 5} {x4 : BitVec 2} {x5 : BitVec 4} (hs0 : w.extractLsb' 0 4 = 0x0#4) (hf0 : w.extractLsb' 21 5 = x1) (hf1 : w.extractLsb' 16 5 = x2) (hf2 : w.extractLsb' 11 5 = x3) (hf3 : w.extractLsb' 8 2 = x4) (hf4 : w.extractLsb' 4 4 = x5) :
    candidate29 w = some (.amo x1 x2 x3 x4 x5) := by
  subst hf0 hf1 hf2 hf3 hf4
  delta candidate29
  rw [hs0]
  rfl

theorem RoundTrip.amo : ∀ x1 x2 x3 x4 x5, RoundTrip.Statement (.amo x1 x2 x3 x4 x5) := by
  intro x1 x2 x3 x4 x5
  exact RoundTrip.of_one rfl (RoundTrip.isLong_major (m := 0x29#6) (extract_high (extract_high (extract_high (extract_high (extract_high (extract_high (extract_high rfl)))))))) ((RoundTrip.major29 (extract_high (extract_high (extract_high (extract_high (extract_high (extract_high (extract_high rfl)))))))).trans (RoundTrip.amo_row (extract_low rfl) (extract_high (extract_high (extract_high (extract_high (extract_high (extract_high (extract_low extract_all))))))) (extract_high (extract_high (extract_high (extract_high (extract_high (extract_low extract_all)))))) (extract_high (extract_high (extract_high (extract_high (extract_low extract_all))))) (extract_high (extract_high (extract_low extract_all))) (extract_high (extract_low extract_all))))

theorem RoundTrip.amocas_row {w : Word32} {x1 : BitVec 5} {x2 : BitVec 5} {x3 : BitVec 5} {x4 : BitVec 2} (hs0 : w.extractLsb' 0 4 = 0x1#4) (hf0 : w.extractLsb' 21 5 = x1) (hf1 : w.extractLsb' 16 5 = x2) (hf2 : w.extractLsb' 11 5 = x3) (hf3 : w.extractLsb' 8 2 = x4) :
    candidate29 w = some (.amocas x1 x2 x3 x4) := by
  subst hf0 hf1 hf2 hf3
  delta candidate29
  rw [hs0]
  rfl

theorem RoundTrip.amocas : ∀ x1 x2 x3 x4, RoundTrip.Statement (.amocas x1 x2 x3 x4) := by
  intro x1 x2 x3 x4
  exact RoundTrip.of_one rfl (RoundTrip.isLong_major (m := 0x29#6) (extract_high (extract_high (extract_high (extract_high (extract_high (extract_high rfl))))))) ((RoundTrip.major29 (extract_high (extract_high (extract_high (extract_high (extract_high (extract_high rfl))))))).trans (RoundTrip.amocas_row (extract_low rfl) (extract_high (extract_high (extract_high (extract_high (extract_high (extract_low extract_all)))))) (extract_high (extract_high (extract_high (extract_high (extract_low extract_all))))) (extract_high (extract_high (extract_high (extract_low extract_all)))) (extract_high (extract_low extract_all))))

theorem RoundTrip.amof_row {w : Word32} {x1 : BitVec 5} {x2 : BitVec 5} {x3 : BitVec 5} {x4 : BitVec 4} (hs0 : w.extractLsb' 0 4 = 0x2#4) (hf0 : w.extractLsb' 21 5 = x1) (hf1 : w.extractLsb' 16 5 = x2) (hf2 : w.extractLsb' 11 5 = x3) (hf3 : w.extractLsb' 4 4 = x4) :
    candidate29 w = some (.amof x1 x2 x3 x4) := by
  subst hf0 hf1 hf2 hf3
  delta candidate29
  rw [hs0]
  rfl

theorem RoundTrip.amof : ∀ x1 x2 x3 x4, RoundTrip.Statement (.amof x1 x2 x3 x4) := by
  intro x1 x2 x3 x4
  exact RoundTrip.of_one rfl (RoundTrip.isLong_major (m := 0x29#6) (extract_high (extract_high (extract_high (extract_high (extract_high (extract_high rfl))))))) ((RoundTrip.major29 (extract_high (extract_high (extract_high (extract_high (extract_high (extract_high rfl))))))).trans (RoundTrip.amof_row (extract_low rfl) (extract_high (extract_high (extract_high (extract_high (extract_high (extract_low extract_all)))))) (extract_high (extract_high (extract_high (extract_high (extract_low extract_all))))) (extract_high (extract_high (extract_high (extract_low extract_all)))) (extract_high (extract_low extract_all))))

theorem RoundTrip.red_row {w : Word32} {x1 : BitVec 5} {x2 : BitVec 5} {x3 : BitVec 2} {x4 : BitVec 4} (hs0 : w.extractLsb' 0 4 = 0x3#4) (hf0 : w.extractLsb' 16 5 = x1) (hf1 : w.extractLsb' 11 5 = x2) (hf2 : w.extractLsb' 8 2 = x3) (hf3 : w.extractLsb' 4 4 = x4) :
    candidate29 w = some (.red x1 x2 x3 x4) := by
  subst hf0 hf1 hf2 hf3
  delta candidate29
  rw [hs0]
  rfl

theorem RoundTrip.red : ∀ x1 x2 x3 x4, RoundTrip.Statement (.red x1 x2 x3 x4) := by
  intro x1 x2 x3 x4
  exact RoundTrip.of_one rfl (RoundTrip.isLong_major (m := 0x29#6) (extract_high (extract_high (extract_high (extract_high (extract_high (extract_high (extract_high rfl)))))))) ((RoundTrip.major29 (extract_high (extract_high (extract_high (extract_high (extract_high (extract_high (extract_high rfl)))))))).trans (RoundTrip.red_row (extract_low rfl) (extract_high (extract_high (extract_high (extract_high (extract_high (extract_low extract_all)))))) (extract_high (extract_high (extract_high (extract_high (extract_low extract_all))))) (extract_high (extract_high (extract_low extract_all))) (extract_high (extract_low extract_all))))

theorem RoundTrip.fence_row {w : Word32} {x1 : BitVec 4} (hs0 : w.extractLsb' 0 4 = 0x0#4) (hf0 : w.extractLsb' 4 4 = x1) :
    candidate2A w = some (.fence x1) := by
  subst hf0
  delta candidate2A
  rw [hs0]
  rfl

theorem RoundTrip.fence : ∀ x1, RoundTrip.Statement (.fence x1) := by
  intro x1
  exact RoundTrip.of_one rfl (RoundTrip.isLong_major (m := 0x2a#6) (extract_high (extract_high (extract_high rfl)))) ((RoundTrip.major2A (extract_high (extract_high (extract_high rfl)))).trans (RoundTrip.fence_row (extract_low rfl) (extract_high (extract_low extract_all))))

theorem RoundTrip.waita_row {w : Word32} {x1 : BitVec 5} {x2 : BitVec 5} {x3 : BitVec 5} {x4 : BitVec 4} (hs0 : w.extractLsb' 0 4 = 0x1#4) (hf0 : w.extractLsb' 21 5 = x1) (hf1 : w.extractLsb' 16 5 = x2) (hf2 : w.extractLsb' 11 5 = x3) (hf3 : w.extractLsb' 4 4 = x4) :
    candidate2A w = some (.waita x1 x2 x3 x4) := by
  subst hf0 hf1 hf2 hf3
  delta candidate2A
  rw [hs0]
  rfl

theorem RoundTrip.waita : ∀ x1 x2 x3 x4, RoundTrip.Statement (.waita x1 x2 x3 x4) := by
  intro x1 x2 x3 x4
  exact RoundTrip.of_one rfl (RoundTrip.isLong_major (m := 0x2a#6) (extract_high (extract_high (extract_high (extract_high (extract_high (extract_high rfl))))))) ((RoundTrip.major2A (extract_high (extract_high (extract_high (extract_high (extract_high (extract_high rfl))))))).trans (RoundTrip.waita_row (extract_low rfl) (extract_high (extract_high (extract_high (extract_high (extract_high (extract_low extract_all)))))) (extract_high (extract_high (extract_high (extract_high (extract_low extract_all))))) (extract_high (extract_high (extract_high (extract_low extract_all)))) (extract_high (extract_low extract_all))))

theorem RoundTrip.pref_row {w : Word32} {x1 : BitVec 5} {x2 : BitVec 4} (hs0 : w.extractLsb' 0 4 = 0x2#4) (hf0 : w.extractLsb' 16 5 = x1) (hf1 : w.extractLsb' 4 4 = x2) :
    candidate2A w = some (.pref x1 x2) := by
  subst hf0 hf1
  delta candidate2A
  rw [hs0]
  rfl

theorem RoundTrip.pref : ∀ x1 x2, RoundTrip.Statement (.pref x1 x2) := by
  intro x1 x2
  exact RoundTrip.of_one rfl (RoundTrip.isLong_major (m := 0x2a#6) (extract_high (extract_high (extract_high (extract_high (extract_high rfl)))))) ((RoundTrip.major2A (extract_high (extract_high (extract_high (extract_high (extract_high rfl)))))).trans (RoundTrip.pref_row (extract_low rfl) (extract_high (extract_high (extract_high (extract_low extract_all)))) (extract_high (extract_low extract_all))))

theorem RoundTrip.get_row {w : Word32} {x1 : BitVec 5} {x2 : BitVec 5} {x3 : BitVec 4} (hs0 : w.extractLsb' 0 4 = 0x3#4) (hf0 : w.extractLsb' 16 5 = x1) (hf1 : w.extractLsb' 11 5 = x2) (hf2 : w.extractLsb' 4 4 = x3) :
    candidate2A w = some (.get x1 x2 x3) := by
  subst hf0 hf1 hf2
  delta candidate2A
  rw [hs0]
  rfl

theorem RoundTrip.get : ∀ x1 x2 x3, RoundTrip.Statement (.get x1 x2 x3) := by
  intro x1 x2 x3
  exact RoundTrip.of_one rfl (RoundTrip.isLong_major (m := 0x2a#6) (extract_high (extract_high (extract_high (extract_high (extract_high (extract_high rfl))))))) ((RoundTrip.major2A (extract_high (extract_high (extract_high (extract_high (extract_high (extract_high rfl))))))).trans (RoundTrip.get_row (extract_low rfl) (extract_high (extract_high (extract_high (extract_high (extract_low extract_all))))) (extract_high (extract_high (extract_high (extract_low extract_all)))) (extract_high (extract_low extract_all))))

theorem RoundTrip.put_row {w : Word32} {x1 : BitVec 5} {x2 : BitVec 5} {x3 : BitVec 4} (hs0 : w.extractLsb' 0 4 = 0x4#4) (hf0 : w.extractLsb' 16 5 = x1) (hf1 : w.extractLsb' 11 5 = x2) (hf2 : w.extractLsb' 4 4 = x3) :
    candidate2A w = some (.put x1 x2 x3) := by
  subst hf0 hf1 hf2
  delta candidate2A
  rw [hs0]
  rfl

theorem RoundTrip.put : ∀ x1 x2 x3, RoundTrip.Statement (.put x1 x2 x3) := by
  intro x1 x2 x3
  exact RoundTrip.of_one rfl (RoundTrip.isLong_major (m := 0x2a#6) (extract_high (extract_high (extract_high (extract_high (extract_high (extract_high rfl))))))) ((RoundTrip.major2A (extract_high (extract_high (extract_high (extract_high (extract_high (extract_high rfl))))))).trans (RoundTrip.put_row (extract_low rfl) (extract_high (extract_high (extract_high (extract_high (extract_low extract_all))))) (extract_high (extract_high (extract_high (extract_low extract_all)))) (extract_high (extract_low extract_all))))

theorem RoundTrip.arrive_row {w : Word32} {x1 : BitVec 2} (hs0 : w.extractLsb' 0 4 = 0x0#4) (hf0 : w.extractLsb' 4 2 = x1) :
    candidate2B w = some (.arrive x1) := by
  subst hf0
  delta candidate2B
  rw [hs0]
  rfl

theorem RoundTrip.arrive : ∀ x1, RoundTrip.Statement (.arrive x1) := by
  intro x1
  exact RoundTrip.of_one rfl (RoundTrip.isLong_major (m := 0x2b#6) (extract_high (extract_high (extract_high rfl)))) ((RoundTrip.major2B (extract_high (extract_high (extract_high rfl)))).trans (RoundTrip.arrive_row (extract_low rfl) (extract_high (extract_low extract_all))))

theorem RoundTrip.wait_row {w : Word32} {x1 : BitVec 2} (hs0 : w.extractLsb' 0 4 = 0x1#4) (hf0 : w.extractLsb' 4 2 = x1) :
    candidate2B w = some (.wait x1) := by
  subst hf0
  delta candidate2B
  rw [hs0]
  rfl

theorem RoundTrip.wait : ∀ x1, RoundTrip.Statement (.wait x1) := by
  intro x1
  exact RoundTrip.of_one rfl (RoundTrip.isLong_major (m := 0x2b#6) (extract_high (extract_high (extract_high rfl)))) ((RoundTrip.major2B (extract_high (extract_high (extract_high rfl)))).trans (RoundTrip.wait_row (extract_low rfl) (extract_high (extract_low extract_all))))

theorem RoundTrip.btest_row {w : Word32} {x1 : BitVec 5} {x2 : BitVec 2} (hs0 : w.extractLsb' 0 4 = 0x2#4) (hf0 : w.extractLsb' 21 5 = x1) (hf1 : w.extractLsb' 4 2 = x2) :
    candidate2B w = some (.btest x1 x2) := by
  subst hf0 hf1
  delta candidate2B
  rw [hs0]
  rfl

theorem RoundTrip.btest : ∀ x1 x2, RoundTrip.Statement (.btest x1 x2) := by
  intro x1 x2
  exact RoundTrip.of_one rfl (RoundTrip.isLong_major (m := 0x2b#6) (extract_high (extract_high (extract_high (extract_high rfl))))) ((RoundTrip.major2B (extract_high (extract_high (extract_high (extract_high rfl))))).trans (RoundTrip.btest_row (extract_low rfl) (extract_high (extract_high (extract_high (extract_low extract_all)))) (extract_high (extract_low extract_all))))

theorem RoundTrip.bmem_row {w : Word32} {x1 : BitVec 5} (hs0 : w.extractLsb' 0 4 = 0x3#4) (hf0 : w.extractLsb' 16 5 = x1) :
    candidate2B w = some (.bmem x1) := by
  subst hf0
  delta candidate2B
  rw [hs0]
  rfl

theorem RoundTrip.bmem : ∀ x1, RoundTrip.Statement (.bmem x1) := by
  intro x1
  exact RoundTrip.of_one rfl (RoundTrip.isLong_major (m := 0x2b#6) (extract_high (extract_high (extract_high rfl)))) ((RoundTrip.major2B (extract_high (extract_high (extract_high rfl)))).trans (RoundTrip.bmem_row (extract_low rfl) (extract_high (extract_low extract_all))))

theorem RoundTrip.phase_row {w : Word32} {x1 : BitVec 2} (hs0 : w.extractLsb' 0 4 = 0x4#4) (hf0 : w.extractLsb' 4 2 = x1) :
    candidate2B w = some (.phase x1) := by
  subst hf0
  delta candidate2B
  rw [hs0]
  rfl

theorem RoundTrip.phase : ∀ x1, RoundTrip.Statement (.phase x1) := by
  intro x1
  exact RoundTrip.of_one rfl (RoundTrip.isLong_major (m := 0x2b#6) (extract_high (extract_high (extract_high rfl)))) ((RoundTrip.major2B (extract_high (extract_high (extract_high rfl)))).trans (RoundTrip.phase_row (extract_low rfl) (extract_high (extract_low extract_all))))

theorem RoundTrip.domain_row {w : Word32} {x1 : BitVec 5} {x2 : BitVec 2} (hs0 : w.extractLsb' 0 4 = 0x5#4) (hf0 : w.extractLsb' 16 5 = x1) (hf1 : w.extractLsb' 4 2 = x2) :
    candidate2B w = some (.domain x1 x2) := by
  subst hf0 hf1
  delta candidate2B
  rw [hs0]
  rfl

theorem RoundTrip.domain : ∀ x1 x2, RoundTrip.Statement (.domain x1 x2) := by
  intro x1 x2
  exact RoundTrip.of_one rfl (RoundTrip.isLong_major (m := 0x2b#6) (extract_high (extract_high (extract_high (extract_high (extract_high rfl)))))) ((RoundTrip.major2B (extract_high (extract_high (extract_high (extract_high (extract_high rfl)))))).trans (RoundTrip.domain_row (extract_low rfl) (extract_high (extract_high (extract_high (extract_low extract_all)))) (extract_high (extract_low extract_all))))

theorem RoundTrip.mma_row {w v : Word32} {x1 : BitVec 5} {x2 : BitVec 5} {x3 : BitVec 5} {x4 : BitVec 4} {x5 : BitVec 7} {x6 : BitVec 4} {x7 : BitVec 4} {x8 : BitVec 1} {x9 : BitVec 1} {x10 : BitVec 2} {x11 : BitVec 3} (hs0 : w.extractLsb' 0 11 = 0x0#11) (hf0 : w.extractLsb' 21 5 = x1) (hf1 : w.extractLsb' 16 5 = x2) (hf2 : w.extractLsb' 11 5 = x3) (hf3 : v.extractLsb' 22 4 = x4) (hf4 : v.extractLsb' 15 7 = x5) (hf5 : v.extractLsb' 11 4 = x6) (hf6 : v.extractLsb' 7 4 = x7) (hf7 : v.extractLsb' 6 1 = x8) (hf8 : v.extractLsb' 5 1 = x9) (hf9 : v.extractLsb' 3 2 = x10) (hf10 : v.extractLsb' 0 3 = x11) :
    candidate2C w v = some (.mma x1 x2 x3 x4 x5 x6 x7 x8 x9 x10 x11) := by
  subst hf0 hf1 hf2 hf3 hf4 hf5 hf6 hf7 hf8 hf9 hf10
  delta candidate2C
  rw [hs0]
  rfl

theorem RoundTrip.mma : ∀ x1 x2 x3 x4 x5 x6 x7 x8 x9 x10 x11, RoundTrip.Statement (.mma x1 x2 x3 x4 x5 x6 x7 x8 x9 x10 x11) := by
  intro x1 x2 x3 x4 x5 x6 x7 x8 x9 x10 x11
  exact RoundTrip.of_two rfl (RoundTrip.isLong_major (m := 0x2c#6) (extract_high (extract_high (extract_high (extract_high rfl))))) ((RoundTrip.major2C (extract_high (extract_high (extract_high (extract_high rfl))))).trans (RoundTrip.mma_row (extract_low rfl) (extract_high (extract_high (extract_high (extract_low extract_all)))) (extract_high (extract_high (extract_low extract_all))) (extract_high (extract_low extract_all)) (extract_high (extract_high (extract_high (extract_high (extract_high (extract_high (extract_high (extract_low extract_all)))))))) (extract_high (extract_high (extract_high (extract_high (extract_high (extract_high (extract_low extract_all))))))) (extract_high (extract_high (extract_high (extract_high (extract_high (extract_low extract_all)))))) (extract_high (extract_high (extract_high (extract_high (extract_low extract_all))))) (extract_high (extract_high (extract_high (extract_low extract_all)))) (extract_high (extract_high (extract_low extract_all))) (extract_high (extract_low extract_all)) (extract_low extract_all)))

theorem RoundTrip.mmac_row {w v : Word32} {x1 : BitVec 5} {x2 : BitVec 4} {x3 : BitVec 5} {x4 : BitVec 4} {x5 : BitVec 7} {x6 : BitVec 4} {x7 : BitVec 4} {x8 : BitVec 1} {x9 : BitVec 1} {x10 : BitVec 2} {x11 : BitVec 3} (hs0 : w.extractLsb' 0 11 = 0x1#11) (hf0 : w.extractLsb' 21 5 = x1) (hf1 : w.extractLsb' 16 4 = x2) (hf2 : w.extractLsb' 11 5 = x3) (hf3 : v.extractLsb' 22 4 = x4) (hf4 : v.extractLsb' 15 7 = x5) (hf5 : v.extractLsb' 11 4 = x6) (hf6 : v.extractLsb' 7 4 = x7) (hf7 : v.extractLsb' 6 1 = x8) (hf8 : v.extractLsb' 5 1 = x9) (hf9 : v.extractLsb' 3 2 = x10) (hf10 : v.extractLsb' 0 3 = x11) :
    candidate2C w v = some (.mmac x1 x2 x3 x4 x5 x6 x7 x8 x9 x10 x11) := by
  subst hf0 hf1 hf2 hf3 hf4 hf5 hf6 hf7 hf8 hf9 hf10
  delta candidate2C
  rw [hs0]
  rfl

theorem RoundTrip.mmac : ∀ x1 x2 x3 x4 x5 x6 x7 x8 x9 x10 x11, RoundTrip.Statement (.mmac x1 x2 x3 x4 x5 x6 x7 x8 x9 x10 x11) := by
  intro x1 x2 x3 x4 x5 x6 x7 x8 x9 x10 x11
  exact RoundTrip.of_two rfl (RoundTrip.isLong_major (m := 0x2c#6) (extract_high (extract_high (extract_high (extract_high rfl))))) ((RoundTrip.major2C (extract_high (extract_high (extract_high (extract_high rfl))))).trans (RoundTrip.mmac_row (extract_low rfl) (extract_high (extract_high (extract_high (extract_low extract_all)))) (extract_high (extract_high (extract_low (extract_low extract_all)))) (extract_high (extract_low extract_all)) (extract_high (extract_high (extract_high (extract_high (extract_high (extract_high (extract_high (extract_low extract_all)))))))) (extract_high (extract_high (extract_high (extract_high (extract_high (extract_high (extract_low extract_all))))))) (extract_high (extract_high (extract_high (extract_high (extract_high (extract_low extract_all)))))) (extract_high (extract_high (extract_high (extract_high (extract_low extract_all))))) (extract_high (extract_high (extract_high (extract_low extract_all)))) (extract_high (extract_high (extract_low extract_all))) (extract_high (extract_low extract_all)) (extract_low extract_all)))

theorem RoundTrip.mzero_row {w v : Word32} {x1 : BitVec 4} {x2 : BitVec 4} (hs0 : w.extractLsb' 0 11 = 0x2#11) (hf0 : v.extractLsb' 22 4 = x1) (hf1 : v.extractLsb' 18 4 = x2) :
    candidate2C w v = some (.mzero x1 x2) := by
  subst hf0 hf1
  delta candidate2C
  rw [hs0]
  rfl

theorem RoundTrip.mzero : ∀ x1 x2, RoundTrip.Statement (.mzero x1 x2) := by
  intro x1 x2
  exact RoundTrip.of_two rfl (RoundTrip.isLong_major (m := 0x2c#6) (extract_high (extract_high (extract_high (extract_high rfl))))) ((RoundTrip.major2C (extract_high (extract_high (extract_high (extract_high rfl))))).trans (RoundTrip.mzero_row (extract_low rfl) (extract_high (extract_high (extract_low extract_all))) (extract_high (extract_low extract_all))))

theorem RoundTrip.mrd_row {w v : Word32} {x1 : BitVec 5} {x2 : BitVec 5} {x3 : BitVec 4} {x4 : BitVec 6} {x5 : BitVec 1} {x6 : BitVec 5} {x7 : BitVec 1} {x8 : BitVec 1} {x9 : BitVec 2} {x10 : BitVec 3} (hs0 : w.extractLsb' 0 11 = 0x3#11) (hf0 : w.extractLsb' 21 5 = x1) (hf1 : w.extractLsb' 16 5 = x2) (hf2 : v.extractLsb' 22 4 = x3) (hf3 : v.extractLsb' 16 6 = x4) (hf4 : v.extractLsb' 15 1 = x5) (hf5 : v.extractLsb' 10 5 = x6) (hf6 : v.extractLsb' 9 1 = x7) (hf7 : v.extractLsb' 8 1 = x8) (hf8 : v.extractLsb' 6 2 = x9) (hf9 : v.extractLsb' 3 3 = x10) :
    candidate2C w v = some (.mrd x1 x2 x3 x4 x5 x6 x7 x8 x9 x10) := by
  subst hf0 hf1 hf2 hf3 hf4 hf5 hf6 hf7 hf8 hf9
  delta candidate2C
  rw [hs0]
  rfl

theorem RoundTrip.mrd : ∀ x1 x2 x3 x4 x5 x6 x7 x8 x9 x10, RoundTrip.Statement (.mrd x1 x2 x3 x4 x5 x6 x7 x8 x9 x10) := by
  intro x1 x2 x3 x4 x5 x6 x7 x8 x9 x10
  exact RoundTrip.of_two rfl (RoundTrip.isLong_major (m := 0x2c#6) (extract_high (extract_high (extract_high (extract_high rfl))))) ((RoundTrip.major2C (extract_high (extract_high (extract_high (extract_high rfl))))).trans (RoundTrip.mrd_row (extract_low rfl) (extract_high (extract_high (extract_high (extract_low extract_all)))) (extract_high (extract_high (extract_low extract_all))) (extract_high (extract_high (extract_high (extract_high (extract_high (extract_high (extract_high (extract_high (extract_low extract_all))))))))) (extract_high (extract_high (extract_high (extract_high (extract_high (extract_high (extract_high (extract_low extract_all)))))))) (extract_high (extract_high (extract_high (extract_high (extract_high (extract_high (extract_low extract_all))))))) (extract_high (extract_high (extract_high (extract_high (extract_high (extract_low extract_all)))))) (extract_high (extract_high (extract_high (extract_high (extract_low extract_all))))) (extract_high (extract_high (extract_high (extract_low extract_all)))) (extract_high (extract_high (extract_low extract_all))) (extract_high (extract_low extract_all))))

theorem RoundTrip.mwr_row {w v : Word32} {x1 : BitVec 5} {x2 : BitVec 4} {x3 : BitVec 6} {x4 : BitVec 1} (hs0 : w.extractLsb' 0 11 = 0x4#11) (hf0 : w.extractLsb' 16 5 = x1) (hf1 : v.extractLsb' 22 4 = x2) (hf2 : v.extractLsb' 16 6 = x3) (hf3 : v.extractLsb' 15 1 = x4) :
    candidate2C w v = some (.mwr x1 x2 x3 x4) := by
  subst hf0 hf1 hf2 hf3
  delta candidate2C
  rw [hs0]
  rfl

theorem RoundTrip.mwr : ∀ x1 x2 x3 x4, RoundTrip.Statement (.mwr x1 x2 x3 x4) := by
  intro x1 x2 x3 x4
  exact RoundTrip.of_two rfl (RoundTrip.isLong_major (m := 0x2c#6) (extract_high (extract_high (extract_high (extract_high rfl))))) ((RoundTrip.major2C (extract_high (extract_high (extract_high (extract_high rfl))))).trans (RoundTrip.mwr_row (extract_low rfl) (extract_high (extract_high (extract_low extract_all))) (extract_high (extract_high (extract_high (extract_low extract_all)))) (extract_high (extract_high (extract_low extract_all))) (extract_high (extract_low extract_all))))

theorem RoundTrip.mscl_row {w v : Word32} {x1 : BitVec 5} {x2 : BitVec 9} {x3 : BitVec 9} (hs0 : w.extractLsb' 0 11 = 0x5#11) (hf0 : w.extractLsb' 16 5 = x1) (hf1 : v.extractLsb' 17 9 = x2) (hf2 : v.extractLsb' 8 9 = x3) :
    candidate2C w v = some (.mscl x1 x2 x3) := by
  subst hf0 hf1 hf2
  delta candidate2C
  rw [hs0]
  rfl

theorem RoundTrip.mscl : ∀ x1 x2 x3, RoundTrip.Statement (.mscl x1 x2 x3) := by
  intro x1 x2 x3
  exact RoundTrip.of_two rfl (RoundTrip.isLong_major (m := 0x2c#6) (extract_high (extract_high (extract_high (extract_high rfl))))) ((RoundTrip.major2C (extract_high (extract_high (extract_high (extract_high rfl))))).trans (RoundTrip.mscl_row (extract_low rfl) (extract_high (extract_high (extract_low extract_all))) (extract_high (extract_high (extract_low extract_all))) (extract_high (extract_low extract_all))))

theorem RoundTrip.mwait_row {w v : Word32} {x1 : BitVec 5} (hs0 : w.extractLsb' 0 11 = 0x6#11) (hf0 : w.extractLsb' 21 5 = x1) :
    candidate2C w v = some (.mwait x1) := by
  subst hf0
  delta candidate2C
  rw [hs0]
  rfl

theorem RoundTrip.mwait : ∀ x1, RoundTrip.Statement (.mwait x1) := by
  intro x1
  exact RoundTrip.of_two rfl (RoundTrip.isLong_major (m := 0x2c#6) (extract_high (extract_high (extract_high (extract_high rfl))))) ((RoundTrip.major2C (extract_high (extract_high (extract_high (extract_high rfl))))).trans (RoundTrip.mwait_row (extract_low rfl) (extract_high (extract_high (extract_high (extract_low extract_all))))))

theorem RoundTrip.mlic_row {w v : Word32} {x1 : BitVec 5} {x2 : BitVec 1} (hs0 : w.extractLsb' 0 11 = 0x7#11) (hf0 : w.extractLsb' 21 5 = x1) (hf1 : v.extractLsb' 0 1 = x2) :
    candidate2C w v = some (.mlic x1 x2) := by
  subst hf0 hf1
  delta candidate2C
  rw [hs0]
  rfl

theorem RoundTrip.mlic : ∀ x1 x2, RoundTrip.Statement (.mlic x1 x2) := by
  intro x1 x2
  exact RoundTrip.of_two rfl (RoundTrip.isLong_major (m := 0x2c#6) (extract_high (extract_high (extract_high (extract_high rfl))))) ((RoundTrip.major2C (extract_high (extract_high (extract_high (extract_high rfl))))).trans (RoundTrip.mlic_row (extract_low rfl) (extract_high (extract_high (extract_high (extract_low extract_all)))) (extract_low extract_all)))

theorem RoundTrip.mrel_row {w v : Word32} (hs0 : w.extractLsb' 0 11 = 0x8#11) :
    candidate2C w v = some (.mrel) := by
  delta candidate2C
  rw [hs0]
  rfl

theorem RoundTrip.mrel : RoundTrip.Statement (.mrel) := by
  exact RoundTrip.of_two rfl (RoundTrip.isLong_major (m := 0x2c#6) (extract_high (extract_high (extract_high (extract_high rfl))))) ((RoundTrip.major2C (extract_high (extract_high (extract_high (extract_high rfl))))).trans (RoundTrip.mrel_row (extract_low rfl)))

theorem RoundTrip.twx_row {w : Word32} {x1 : BitVec 5} (hs0 : w.extractLsb' 0 11 = 0x0#11) (hf0 : w.extractLsb' 21 5 = x1) :
    candidate2D w = some (.twx x1) := by
  subst hf0
  delta candidate2D
  rw [hs0]
  rfl

theorem RoundTrip.twx : ∀ x1, RoundTrip.Statement (.twx x1) := by
  intro x1
  exact RoundTrip.of_one rfl (RoundTrip.isLong_major (m := 0x2d#6) (extract_high (extract_high rfl))) ((RoundTrip.major2D (extract_high (extract_high rfl))).trans (RoundTrip.twx_row (extract_low rfl) (extract_high (extract_low extract_all))))

theorem RoundTrip.hrd_row {w : Word32} {x1 : BitVec 5} {x2 : BitVec 3} (hs0 : w.extractLsb' 0 11 = 0x1#11) (hf0 : w.extractLsb' 21 5 = x1) (hf1 : w.extractLsb' 16 3 = x2) :
    candidate2D w = some (.hrd x1 x2) := by
  subst hf0 hf1
  delta candidate2D
  rw [hs0]
  rfl

theorem RoundTrip.hrd : ∀ x1 x2, RoundTrip.Statement (.hrd x1 x2) := by
  intro x1 x2
  exact RoundTrip.of_one rfl (RoundTrip.isLong_major (m := 0x2d#6) (extract_high (extract_high (extract_high (extract_high rfl))))) ((RoundTrip.major2D (extract_high (extract_high (extract_high (extract_high rfl))))).trans (RoundTrip.hrd_row (extract_low rfl) (extract_high (extract_high (extract_high (extract_low extract_all)))) (extract_high (extract_low extract_all))))

theorem RoundTrip.hwr_row {w : Word32} {x1 : BitVec 3} {x2 : BitVec 5} (hs0 : w.extractLsb' 0 11 = 0x2#11) (hf0 : w.extractLsb' 21 3 = x1) (hf1 : w.extractLsb' 16 5 = x2) :
    candidate2D w = some (.hwr x1 x2) := by
  subst hf0 hf1
  delta candidate2D
  rw [hs0]
  rfl

theorem RoundTrip.hwr : ∀ x1 x2, RoundTrip.Statement (.hwr x1 x2) := by
  intro x1 x2
  exact RoundTrip.of_one rfl (RoundTrip.isLong_major (m := 0x2d#6) (extract_high (extract_high (extract_high (extract_high rfl))))) ((RoundTrip.major2D (extract_high (extract_high (extract_high (extract_high rfl))))).trans (RoundTrip.hwr_row (extract_low rfl) (extract_high (extract_high (extract_low extract_all))) (extract_high (extract_low extract_all))))

theorem RoundTrip.spld_row {w v : Word32} {x1 : BitVec 5} {x2 : BitVec 13} {x3 : BitVec 9} (hs0 : w.extractLsb' 0 11 = 0x0#11) (hf0 : w.extractLsb' 16 5 = x1) (hf1 : v.extractLsb' 13 13 = x2) (hf2 : v.extractLsb' 4 9 = x3) :
    candidate2E w v = some (.spld x1 x2 x3) := by
  subst hf0 hf1 hf2
  delta candidate2E
  rw [hs0]
  rfl

theorem RoundTrip.spld : ∀ x1 x2 x3, RoundTrip.Statement (.spld x1 x2 x3) := by
  intro x1 x2 x3
  exact RoundTrip.of_two rfl (RoundTrip.isLong_major (m := 0x2e#6) (extract_high (extract_high (extract_high (extract_high rfl))))) ((RoundTrip.major2E (extract_high (extract_high (extract_high (extract_high rfl))))).trans (RoundTrip.spld_row (extract_low rfl) (extract_high (extract_high (extract_low extract_all))) (extract_high (extract_high (extract_low extract_all))) (extract_high (extract_low extract_all))))

theorem RoundTrip.spst_row {w v : Word32} {x1 : BitVec 5} {x2 : BitVec 13} {x3 : BitVec 9} (hs0 : w.extractLsb' 0 11 = 0x1#11) (hf0 : w.extractLsb' 16 5 = x1) (hf1 : v.extractLsb' 13 13 = x2) (hf2 : v.extractLsb' 4 9 = x3) :
    candidate2E w v = some (.spst x1 x2 x3) := by
  subst hf0 hf1 hf2
  delta candidate2E
  rw [hs0]
  rfl

theorem RoundTrip.spst : ∀ x1 x2 x3, RoundTrip.Statement (.spst x1 x2 x3) := by
  intro x1 x2 x3
  exact RoundTrip.of_two rfl (RoundTrip.isLong_major (m := 0x2e#6) (extract_high (extract_high (extract_high (extract_high rfl))))) ((RoundTrip.major2E (extract_high (extract_high (extract_high (extract_high rfl))))).trans (RoundTrip.spst_row (extract_low rfl) (extract_high (extract_high (extract_low extract_all))) (extract_high (extract_high (extract_low extract_all))) (extract_high (extract_low extract_all))))

theorem RoundTrip.spup_row {w v : Word32} {x1 : BitVec 5} {x2 : BitVec 5} {x3 : BitVec 5} {x4 : BitVec 14} {x5 : BitVec 8} {x6 : BitVec 1} (hs0 : w.extractLsb' 0 11 = 0x2#11) (hf0 : w.extractLsb' 21 5 = x1) (hf1 : w.extractLsb' 16 5 = x2) (hf2 : w.extractLsb' 11 5 = x3) (hf3 : v.extractLsb' 12 14 = x4) (hf4 : v.extractLsb' 4 8 = x5) (hf5 : v.extractLsb' 0 1 = x6) :
    candidate2E w v = some (.spup x1 x2 x3 x4 x5 x6) := by
  subst hf0 hf1 hf2 hf3 hf4 hf5
  delta candidate2E
  rw [hs0]
  rfl

theorem RoundTrip.spup : ∀ x1 x2 x3 x4 x5 x6, RoundTrip.Statement (.spup x1 x2 x3 x4 x5 x6) := by
  intro x1 x2 x3 x4 x5 x6
  exact RoundTrip.of_two rfl (RoundTrip.isLong_major (m := 0x2e#6) (extract_high (extract_high (extract_high (extract_high rfl))))) ((RoundTrip.major2E (extract_high (extract_high (extract_high (extract_high rfl))))).trans (RoundTrip.spup_row (extract_low rfl) (extract_high (extract_high (extract_high (extract_low extract_all)))) (extract_high (extract_high (extract_low extract_all))) (extract_high (extract_low extract_all)) (extract_high (extract_high (extract_high (extract_low extract_all)))) (extract_high (extract_high (extract_low extract_all))) (extract_low extract_all)))

theorem RoundTrip.spdn_row {w v : Word32} {x1 : BitVec 5} {x2 : BitVec 5} {x3 : BitVec 5} {x4 : BitVec 14} {x5 : BitVec 8} {x6 : BitVec 1} (hs0 : w.extractLsb' 0 11 = 0x3#11) (hf0 : w.extractLsb' 21 5 = x1) (hf1 : w.extractLsb' 16 5 = x2) (hf2 : w.extractLsb' 11 5 = x3) (hf3 : v.extractLsb' 12 14 = x4) (hf4 : v.extractLsb' 4 8 = x5) (hf5 : v.extractLsb' 0 1 = x6) :
    candidate2E w v = some (.spdn x1 x2 x3 x4 x5 x6) := by
  subst hf0 hf1 hf2 hf3 hf4 hf5
  delta candidate2E
  rw [hs0]
  rfl

theorem RoundTrip.spdn : ∀ x1 x2 x3 x4 x5 x6, RoundTrip.Statement (.spdn x1 x2 x3 x4 x5 x6) := by
  intro x1 x2 x3 x4 x5 x6
  exact RoundTrip.of_two rfl (RoundTrip.isLong_major (m := 0x2e#6) (extract_high (extract_high (extract_high (extract_high rfl))))) ((RoundTrip.major2E (extract_high (extract_high (extract_high (extract_high rfl))))).trans (RoundTrip.spdn_row (extract_low rfl) (extract_high (extract_high (extract_high (extract_low extract_all)))) (extract_high (extract_high (extract_low extract_all))) (extract_high (extract_low extract_all)) (extract_high (extract_high (extract_high (extract_low extract_all)))) (extract_high (extract_high (extract_low extract_all))) (extract_low extract_all)))

theorem RoundTrip.spmode_row {w v : Word32} {x1 : BitVec 2} (hs0 : w.extractLsb' 0 11 = 0x4#11) (hf0 : v.extractLsb' 0 2 = x1) :
    candidate2E w v = some (.spmode x1) := by
  subst hf0
  delta candidate2E
  rw [hs0]
  rfl

theorem RoundTrip.spmode : ∀ x1, RoundTrip.Statement (.spmode x1) := by
  intro x1
  exact RoundTrip.of_two rfl (RoundTrip.isLong_major (m := 0x2e#6) (extract_high (extract_high (extract_high (extract_high rfl))))) ((RoundTrip.major2E (extract_high (extract_high (extract_high (extract_high rfl))))).trans (RoundTrip.spmode_row (extract_low rfl) (extract_low extract_all)))

theorem RoundTrip.spnrm_row {w v : Word32} {x1 : BitVec 5} {x2 : BitVec 13} {x3 : BitVec 9} (hs0 : w.extractLsb' 0 11 = 0x5#11) (hf0 : w.extractLsb' 16 5 = x1) (hf1 : v.extractLsb' 13 13 = x2) (hf2 : v.extractLsb' 4 9 = x3) :
    candidate2E w v = some (.spnrm x1 x2 x3) := by
  subst hf0 hf1 hf2
  delta candidate2E
  rw [hs0]
  rfl

theorem RoundTrip.spnrm : ∀ x1 x2 x3, RoundTrip.Statement (.spnrm x1 x2 x3) := by
  intro x1 x2 x3
  exact RoundTrip.of_two rfl (RoundTrip.isLong_major (m := 0x2e#6) (extract_high (extract_high (extract_high (extract_high rfl))))) ((RoundTrip.major2E (extract_high (extract_high (extract_high (extract_high rfl))))).trans (RoundTrip.spnrm_row (extract_low rfl) (extract_high (extract_high (extract_low extract_all))) (extract_high (extract_high (extract_low extract_all))) (extract_high (extract_low extract_all))))

theorem RoundTrip.spwait_row {w v : Word32} {x1 : BitVec 5} (hs0 : w.extractLsb' 0 11 = 0x6#11) (hf0 : w.extractLsb' 21 5 = x1) :
    candidate2E w v = some (.spwait x1) := by
  subst hf0
  delta candidate2E
  rw [hs0]
  rfl

theorem RoundTrip.spwait : ∀ x1, RoundTrip.Statement (.spwait x1) := by
  intro x1
  exact RoundTrip.of_two rfl (RoundTrip.isLong_major (m := 0x2e#6) (extract_high (extract_high (extract_high (extract_high rfl))))) ((RoundTrip.major2E (extract_high (extract_high (extract_high (extract_high rfl))))).trans (RoundTrip.spwait_row (extract_low rfl) (extract_high (extract_high (extract_high (extract_low extract_all))))))

theorem RoundTrip.migr_row {w : Word32} {x1 : BitVec 5} {x2 : BitVec 5} {x3 : BitVec 5} (hs0 : w.extractLsb' 0 11 = 0x0#11) (hf0 : w.extractLsb' 21 5 = x1) (hf1 : w.extractLsb' 16 5 = x2) (hf2 : w.extractLsb' 11 5 = x3) :
    candidate2F w = some (.migr x1 x2 x3) := by
  subst hf0 hf1 hf2
  delta candidate2F
  rw [hs0]
  rfl

theorem RoundTrip.migr : ∀ x1 x2 x3, RoundTrip.Statement (.migr x1 x2 x3) := by
  intro x1 x2 x3
  exact RoundTrip.of_one rfl (RoundTrip.isLong_major (m := 0x2f#6) (extract_high (extract_high (extract_high (extract_high rfl))))) ((RoundTrip.major2F (extract_high (extract_high (extract_high (extract_high rfl))))).trans (RoundTrip.migr_row (extract_low rfl) (extract_high (extract_high (extract_high (extract_low extract_all)))) (extract_high (extract_high (extract_low extract_all))) (extract_high (extract_low extract_all))))

theorem RoundTrip.heat_row {w : Word32} {x1 : BitVec 5} {x2 : BitVec 5} (hs0 : w.extractLsb' 0 11 = 0x1#11) (hf0 : w.extractLsb' 21 5 = x1) (hf1 : w.extractLsb' 16 5 = x2) :
    candidate2F w = some (.heat x1 x2) := by
  subst hf0 hf1
  delta candidate2F
  rw [hs0]
  rfl

theorem RoundTrip.heat : ∀ x1 x2, RoundTrip.Statement (.heat x1 x2) := by
  intro x1 x2
  exact RoundTrip.of_one rfl (RoundTrip.isLong_major (m := 0x2f#6) (extract_high (extract_high (extract_high rfl)))) ((RoundTrip.major2F (extract_high (extract_high (extract_high rfl)))).trans (RoundTrip.heat_row (extract_low rfl) (extract_high (extract_high (extract_low extract_all))) (extract_high (extract_low extract_all))))

theorem RoundTrip.tqry_row {w : Word32} {x1 : BitVec 5} {x2 : BitVec 5} (hs0 : w.extractLsb' 0 11 = 0x2#11) (hf0 : w.extractLsb' 21 5 = x1) (hf1 : w.extractLsb' 16 5 = x2) :
    candidate2F w = some (.tqry x1 x2) := by
  subst hf0 hf1
  delta candidate2F
  rw [hs0]
  rfl

theorem RoundTrip.tqry : ∀ x1 x2, RoundTrip.Statement (.tqry x1 x2) := by
  intro x1 x2
  exact RoundTrip.of_one rfl (RoundTrip.isLong_major (m := 0x2f#6) (extract_high (extract_high (extract_high rfl)))) ((RoundTrip.major2F (extract_high (extract_high (extract_high rfl)))).trans (RoundTrip.tqry_row (extract_low rfl) (extract_high (extract_high (extract_low extract_all))) (extract_high (extract_low extract_all))))

theorem RoundTrip.mfs_row {w : Word32} {x1 : BitVec 5} {x2 : BitVec 12} (hs0 : w.extractLsb' 0 4 = 0x0#4) (hf0 : w.extractLsb' 21 5 = x1) (hf1 : w.extractLsb' 4 12 = x2) :
    candidate30 w = some (.mfs x1 x2) := by
  subst hf0 hf1
  delta candidate30
  rw [hs0]
  rfl

theorem RoundTrip.mfs : ∀ x1 x2, RoundTrip.Statement (.mfs x1 x2) := by
  intro x1 x2
  exact RoundTrip.of_one rfl (RoundTrip.isLong_major (m := 0x30#6) (extract_high (extract_high (extract_high (extract_high rfl))))) ((RoundTrip.major30 (extract_high (extract_high (extract_high (extract_high rfl))))).trans (RoundTrip.mfs_row (extract_low rfl) (extract_high (extract_high (extract_high (extract_low extract_all)))) (extract_high (extract_low extract_all))))

theorem RoundTrip.mts_row {w : Word32} {x1 : BitVec 5} {x2 : BitVec 12} (hs0 : w.extractLsb' 0 4 = 0x1#4) (hf0 : w.extractLsb' 16 5 = x1) (hf1 : w.extractLsb' 4 12 = x2) :
    candidate30 w = some (.mts x1 x2) := by
  subst hf0 hf1
  delta candidate30
  rw [hs0]
  rfl

theorem RoundTrip.mts : ∀ x1 x2, RoundTrip.Statement (.mts x1 x2) := by
  intro x1 x2
  exact RoundTrip.of_one rfl (RoundTrip.isLong_major (m := 0x30#6) (extract_high (extract_high (extract_high (extract_high rfl))))) ((RoundTrip.major30 (extract_high (extract_high (extract_high (extract_high rfl))))).trans (RoundTrip.mts_row (extract_low rfl) (extract_high (extract_high (extract_low extract_all))) (extract_high (extract_low extract_all))))

theorem RoundTrip.trap_row {w : Word32} {x1 : BitVec 12} (hs0 : w.extractLsb' 0 4 = 0x2#4) (hf0 : w.extractLsb' 4 12 = x1) :
    candidate30 w = some (.trap x1) := by
  subst hf0
  delta candidate30
  rw [hs0]
  rfl

theorem RoundTrip.trap : ∀ x1, RoundTrip.Statement (.trap x1) := by
  intro x1
  exact RoundTrip.of_one rfl (RoundTrip.isLong_major (m := 0x30#6) (extract_high (extract_high (extract_high rfl)))) ((RoundTrip.major30 (extract_high (extract_high (extract_high rfl)))).trans (RoundTrip.trap_row (extract_low rfl) (extract_high (extract_low extract_all))))

theorem RoundTrip.eret_row {w : Word32} (hs0 : w.extractLsb' 0 4 = 0x3#4) :
    candidate30 w = some (.eret) := by
  delta candidate30
  rw [hs0]
  rfl

theorem RoundTrip.eret : RoundTrip.Statement (.eret) := by
  exact RoundTrip.of_one rfl (RoundTrip.isLong_major (m := 0x30#6) (extract_high rfl)) ((RoundTrip.major30 (extract_high rfl)).trans (RoundTrip.eret_row (extract_low rfl)))

theorem RoundTrip.halt_row {w : Word32} (hs0 : w.extractLsb' 0 4 = 0x4#4) (hs1 : w.extractLsb' 4 1 = 0x0#1) :
    candidate30 w = some (.halt) := by
  delta candidate30
  rw [hs0, hs1]
  rfl

theorem RoundTrip.halt : RoundTrip.Statement (.halt) := by
  exact RoundTrip.of_one rfl (RoundTrip.isLong_major (m := 0x30#6) (extract_high rfl)) ((RoundTrip.major30 (extract_high rfl)).trans (RoundTrip.halt_row (extract_low rfl) (extract_low rfl)))

theorem RoundTrip.haltRetain_row {w : Word32} {x1 : BitVec 5} (hs0 : w.extractLsb' 0 4 = 0x4#4) (hs1 : w.extractLsb' 4 1 = 0x1#1) (hf0 : w.extractLsb' 16 5 = x1) :
    candidate30 w = some (.haltRetain x1) := by
  subst hf0
  delta candidate30
  rw [hs0, hs1]
  rfl

theorem RoundTrip.haltRetain : ∀ x1, RoundTrip.Statement (.haltRetain x1) := by
  intro x1
  exact RoundTrip.of_one rfl (RoundTrip.isLong_major (m := 0x30#6) (extract_high (extract_high (extract_high rfl)))) ((RoundTrip.major30 (extract_high (extract_high (extract_high rfl)))).trans (RoundTrip.haltRetain_row (extract_low rfl) (extract_low rfl) (extract_high (extract_low extract_all))))

theorem RoundTrip.rope_row {w : Word32} {x1 : BitVec 5} {x2 : BitVec 4} (hs0 : w.extractLsb' 0 4 = 0x5#4) (hf0 : w.extractLsb' 21 5 = x1) (hf1 : w.extractLsb' 4 4 = x2) :
    candidate30 w = some (.rope x1 x2) := by
  subst hf0 hf1
  delta candidate30
  rw [hs0]
  rfl

theorem RoundTrip.rope : ∀ x1 x2, RoundTrip.Statement (.rope x1 x2) := by
  intro x1 x2
  exact RoundTrip.of_one rfl (RoundTrip.isLong_major (m := 0x30#6) (extract_high (extract_high (extract_high (extract_high rfl))))) ((RoundTrip.major30 (extract_high (extract_high (extract_high (extract_high rfl))))).trans (RoundTrip.rope_row (extract_low rfl) (extract_high (extract_high (extract_high (extract_low extract_all)))) (extract_high (extract_low extract_all))))

theorem RoundTrip.split_row {w : Word32} (hs0 : w.extractLsb' 0 4 = 0x6#4) :
    candidate30 w = some (.split) := by
  delta candidate30
  rw [hs0]
  rfl

theorem RoundTrip.split : RoundTrip.Statement (.split) := by
  exact RoundTrip.of_one rfl (RoundTrip.isLong_major (m := 0x30#6) (extract_high rfl)) ((RoundTrip.major30 (extract_high rfl)).trans (RoundTrip.split_row (extract_low rfl)))

theorem RoundTrip.cairn_row {w : Word32} {x1 : BitVec 12} (hs0 : w.extractLsb' 0 4 = 0x7#4) (hf0 : w.extractLsb' 4 12 = x1) :
    candidate30 w = some (.cairn x1) := by
  subst hf0
  delta candidate30
  rw [hs0]
  rfl

theorem RoundTrip.cairn : ∀ x1, RoundTrip.Statement (.cairn x1) := by
  intro x1
  exact RoundTrip.of_one rfl (RoundTrip.isLong_major (m := 0x30#6) (extract_high (extract_high (extract_high rfl)))) ((RoundTrip.major30 (extract_high (extract_high (extract_high rfl)))).trans (RoundTrip.cairn_row (extract_low rfl) (extract_high (extract_low extract_all))))

theorem RoundTrip.yield_row {w : Word32} {x1 : BitVec 12} (hs0 : w.extractLsb' 0 4 = 0x8#4) (hf0 : w.extractLsb' 4 12 = x1) :
    candidate30 w = some (.yield x1) := by
  subst hf0
  delta candidate30
  rw [hs0]
  rfl

theorem RoundTrip.yield : ∀ x1, RoundTrip.Statement (.yield x1) := by
  intro x1
  exact RoundTrip.of_one rfl (RoundTrip.isLong_major (m := 0x30#6) (extract_high (extract_high (extract_high rfl)))) ((RoundTrip.major30 (extract_high (extract_high (extract_high rfl)))).trans (RoundTrip.yield_row (extract_low rfl) (extract_high (extract_low extract_all))))

theorem RoundTrip.mbxrd_row {w : Word32} {x1 : BitVec 5} {x2 : BitVec 1} (hs0 : w.extractLsb' 0 4 = 0x9#4) (hf0 : w.extractLsb' 21 5 = x1) (hf1 : w.extractLsb' 4 1 = x2) :
    candidate30 w = some (.mbxrd x1 x2) := by
  subst hf0 hf1
  delta candidate30
  rw [hs0]
  rfl

theorem RoundTrip.mbxrd : ∀ x1 x2, RoundTrip.Statement (.mbxrd x1 x2) := by
  intro x1 x2
  exact RoundTrip.of_one rfl (RoundTrip.isLong_major (m := 0x30#6) (extract_high (extract_high (extract_high (extract_high rfl))))) ((RoundTrip.major30 (extract_high (extract_high (extract_high (extract_high rfl))))).trans (RoundTrip.mbxrd_row (extract_low rfl) (extract_high (extract_high (extract_high (extract_low extract_all)))) (extract_high (extract_low extract_all))))

theorem RoundTrip.mbxwrRetry_row {w : Word32} {x1 : BitVec 5} (hs0 : w.extractLsb' 0 4 = 0xa#4) (hs1 : w.extractLsb' 4 1 = 0x0#1) (hf0 : w.extractLsb' 16 5 = x1) :
    candidate30 w = some (.mbxwrRetry x1) := by
  subst hf0
  delta candidate30
  rw [hs0, hs1]
  rfl

theorem RoundTrip.mbxwrRetry : ∀ x1, RoundTrip.Statement (.mbxwrRetry x1) := by
  intro x1
  exact RoundTrip.of_one rfl (RoundTrip.isLong_major (m := 0x30#6) (extract_high (extract_high (extract_high rfl)))) ((RoundTrip.major30 (extract_high (extract_high (extract_high rfl)))).trans (RoundTrip.mbxwrRetry_row (extract_low rfl) (extract_low rfl) (extract_high (extract_low extract_all))))

theorem RoundTrip.mbxwrRefuse_row {w : Word32} {x1 : BitVec 5} (hs0 : w.extractLsb' 0 4 = 0xa#4) (hs1 : w.extractLsb' 4 1 = 0x1#1) (hf0 : w.extractLsb' 16 5 = x1) :
    candidate30 w = some (.mbxwrRefuse x1) := by
  subst hf0
  delta candidate30
  rw [hs0, hs1]
  rfl

theorem RoundTrip.mbxwrRefuse : ∀ x1, RoundTrip.Statement (.mbxwrRefuse x1) := by
  intro x1
  exact RoundTrip.of_one rfl (RoundTrip.isLong_major (m := 0x30#6) (extract_high (extract_high (extract_high rfl)))) ((RoundTrip.major30 (extract_high (extract_high (extract_high rfl)))).trans (RoundTrip.mbxwrRefuse_row (extract_low rfl) (extract_low rfl) (extract_high (extract_low extract_all))))

theorem RoundTrip.rltokRange_row {w : Word32} {x1 : BitVec 5} {x2 : BitVec 5} {x3 : BitVec 1} {x4 : BitVec 6} (hs0 : w.extractLsb' 0 4 = 0xb#4) (hs1 : w.extractLsb' 14 2 = 0x0#2) (hf0 : w.extractLsb' 21 5 = x1) (hf1 : w.extractLsb' 16 5 = x2) (hf2 : w.extractLsb' 13 1 = x3) (hf3 : w.extractLsb' 4 6 = x4) :
    candidate30 w = some (.rltokRange x1 x2 x3 x4) := by
  subst hf0 hf1 hf2 hf3
  delta candidate30
  rw [hs0, hs1]
  rfl

theorem RoundTrip.rltokRange : ∀ x1 x2 x3 x4, RoundTrip.Statement (.rltokRange x1 x2 x3 x4) := by
  intro x1 x2 x3 x4
  exact RoundTrip.of_one rfl (RoundTrip.isLong_major (m := 0x30#6) (extract_high (extract_high (extract_high (extract_high (extract_high (extract_high (extract_high rfl)))))))) ((RoundTrip.major30 (extract_high (extract_high (extract_high (extract_high (extract_high (extract_high (extract_high rfl)))))))).trans (RoundTrip.rltokRange_row (extract_low rfl) (extract_high (extract_high (extract_high (extract_high (extract_low rfl))))) (extract_high (extract_high (extract_high (extract_high (extract_high (extract_high (extract_low extract_all))))))) (extract_high (extract_high (extract_high (extract_high (extract_high (extract_low extract_all)))))) (extract_high (extract_high (extract_high (extract_low extract_all)))) (extract_high (extract_low extract_all))))

theorem RoundTrip.rltokFunc_row {w : Word32} {x1 : BitVec 5} {x2 : BitVec 5} {x3 : BitVec 1} (hs0 : w.extractLsb' 0 4 = 0xb#4) (hs1 : w.extractLsb' 14 2 = 0x1#2) (hf0 : w.extractLsb' 21 5 = x1) (hf1 : w.extractLsb' 16 5 = x2) (hf2 : w.extractLsb' 13 1 = x3) :
    candidate30 w = some (.rltokFunc x1 x2 x3) := by
  subst hf0 hf1 hf2
  delta candidate30
  rw [hs0, hs1]
  rfl

theorem RoundTrip.rltokFunc : ∀ x1 x2 x3, RoundTrip.Statement (.rltokFunc x1 x2 x3) := by
  intro x1 x2 x3
  exact RoundTrip.of_one rfl (RoundTrip.isLong_major (m := 0x30#6) (extract_high (extract_high (extract_high (extract_high (extract_high rfl)))))) ((RoundTrip.major30 (extract_high (extract_high (extract_high (extract_high (extract_high rfl)))))).trans (RoundTrip.rltokFunc_row (extract_low rfl) (extract_high (extract_high (extract_low rfl))) (extract_high (extract_high (extract_high (extract_high (extract_low extract_all))))) (extract_high (extract_high (extract_high (extract_low extract_all)))) (extract_high (extract_low extract_all))))

theorem RoundTrip.rltokPart_row {w : Word32} {x1 : BitVec 5} (hs0 : w.extractLsb' 0 4 = 0xb#4) (hs1 : w.extractLsb' 14 2 = 0x2#2) (hf0 : w.extractLsb' 21 5 = x1) :
    candidate30 w = some (.rltokPart x1) := by
  subst hf0
  delta candidate30
  rw [hs0, hs1]
  rfl

theorem RoundTrip.rltokPart : ∀ x1, RoundTrip.Statement (.rltokPart x1) := by
  intro x1
  exact RoundTrip.of_one rfl (RoundTrip.isLong_major (m := 0x30#6) (extract_high (extract_high rfl))) ((RoundTrip.major30 (extract_high (extract_high rfl))).trans (RoundTrip.rltokPart_row (extract_low rfl) (extract_low rfl) (extract_high (extract_low extract_all))))

theorem RoundTrip.launchInstall_row {w : Word32} {x1 : BitVec 5} {x2 : BitVec 5} (hs0 : w.extractLsb' 0 4 = 0xc#4) (hs1 : w.extractLsb' 4 3 = 0x0#3) (hf0 : w.extractLsb' 21 5 = x1) (hf1 : w.extractLsb' 16 5 = x2) :
    candidate30 w = some (.launchInstall x1 x2) := by
  subst hf0 hf1
  delta candidate30
  rw [hs0, hs1]
  rfl

theorem RoundTrip.launchInstall : ∀ x1 x2, RoundTrip.Statement (.launchInstall x1 x2) := by
  intro x1 x2
  exact RoundTrip.of_one rfl (RoundTrip.isLong_major (m := 0x30#6) (extract_high (extract_high (extract_high rfl)))) ((RoundTrip.major30 (extract_high (extract_high (extract_high rfl)))).trans (RoundTrip.launchInstall_row (extract_low rfl) (extract_low rfl) (extract_high (extract_high (extract_low extract_all))) (extract_high (extract_low extract_all))))

theorem RoundTrip.launchPacket_row {w : Word32} {x1 : BitVec 5} {x2 : BitVec 5} (hs0 : w.extractLsb' 0 4 = 0xc#4) (hs1 : w.extractLsb' 4 3 = 0x1#3) (hf0 : w.extractLsb' 21 5 = x1) (hf1 : w.extractLsb' 16 5 = x2) :
    candidate30 w = some (.launchPacket x1 x2) := by
  subst hf0 hf1
  delta candidate30
  rw [hs0, hs1]
  rfl

theorem RoundTrip.launchPacket : ∀ x1 x2, RoundTrip.Statement (.launchPacket x1 x2) := by
  intro x1 x2
  exact RoundTrip.of_one rfl (RoundTrip.isLong_major (m := 0x30#6) (extract_high (extract_high (extract_high rfl)))) ((RoundTrip.major30 (extract_high (extract_high (extract_high rfl)))).trans (RoundTrip.launchPacket_row (extract_low rfl) (extract_low rfl) (extract_high (extract_high (extract_low extract_all))) (extract_high (extract_low extract_all))))

theorem RoundTrip.launchPreempt_row {w : Word32} {x1 : BitVec 5} {x2 : BitVec 5} (hs0 : w.extractLsb' 0 4 = 0xc#4) (hs1 : w.extractLsb' 4 3 = 0x2#3) (hf0 : w.extractLsb' 21 5 = x1) (hf1 : w.extractLsb' 16 5 = x2) :
    candidate30 w = some (.launchPreempt x1 x2) := by
  subst hf0 hf1
  delta candidate30
  rw [hs0, hs1]
  rfl

theorem RoundTrip.launchPreempt : ∀ x1 x2, RoundTrip.Statement (.launchPreempt x1 x2) := by
  intro x1 x2
  exact RoundTrip.of_one rfl (RoundTrip.isLong_major (m := 0x30#6) (extract_high (extract_high (extract_high rfl)))) ((RoundTrip.major30 (extract_high (extract_high (extract_high rfl)))).trans (RoundTrip.launchPreempt_row (extract_low rfl) (extract_low rfl) (extract_high (extract_high (extract_low extract_all))) (extract_high (extract_low extract_all))))

theorem RoundTrip.launchAbort_row {w : Word32} {x1 : BitVec 5} {x2 : BitVec 5} (hs0 : w.extractLsb' 0 4 = 0xc#4) (hs1 : w.extractLsb' 4 3 = 0x3#3) (hf0 : w.extractLsb' 21 5 = x1) (hf1 : w.extractLsb' 16 5 = x2) :
    candidate30 w = some (.launchAbort x1 x2) := by
  subst hf0 hf1
  delta candidate30
  rw [hs0, hs1]
  rfl

theorem RoundTrip.launchAbort : ∀ x1 x2, RoundTrip.Statement (.launchAbort x1 x2) := by
  intro x1 x2
  exact RoundTrip.of_one rfl (RoundTrip.isLong_major (m := 0x30#6) (extract_high (extract_high (extract_high rfl)))) ((RoundTrip.major30 (extract_high (extract_high (extract_high rfl)))).trans (RoundTrip.launchAbort_row (extract_low rfl) (extract_low rfl) (extract_high (extract_high (extract_low extract_all))) (extract_high (extract_low extract_all))))

theorem RoundTrip.launchUnretain_row {w : Word32} {x1 : BitVec 5} {x2 : BitVec 5} (hs0 : w.extractLsb' 0 4 = 0xc#4) (hs1 : w.extractLsb' 4 3 = 0x4#3) (hf0 : w.extractLsb' 21 5 = x1) (hf1 : w.extractLsb' 16 5 = x2) :
    candidate30 w = some (.launchUnretain x1 x2) := by
  subst hf0 hf1
  delta candidate30
  rw [hs0, hs1]
  rfl

theorem RoundTrip.launchUnretain : ∀ x1 x2, RoundTrip.Statement (.launchUnretain x1 x2) := by
  intro x1 x2
  exact RoundTrip.of_one rfl (RoundTrip.isLong_major (m := 0x30#6) (extract_high (extract_high (extract_high rfl)))) ((RoundTrip.major30 (extract_high (extract_high (extract_high rfl)))).trans (RoundTrip.launchUnretain_row (extract_low rfl) (extract_low rfl) (extract_high (extract_high (extract_low extract_all))) (extract_high (extract_low extract_all))))

theorem RoundTrip.pstat_row {w : Word32} {x1 : BitVec 5} (hs0 : w.extractLsb' 0 11 = 0x0#11) (hf0 : w.extractLsb' 21 5 = x1) :
    candidate31 w = some (.pstat x1) := by
  subst hf0
  delta candidate31
  rw [hs0]
  rfl

theorem RoundTrip.pstat : ∀ x1, RoundTrip.Statement (.pstat x1) := by
  intro x1
  exact RoundTrip.of_one rfl (RoundTrip.isLong_major (m := 0x31#6) (extract_high (extract_high rfl))) ((RoundTrip.major31 (extract_high (extract_high rfl))).trans (RoundTrip.pstat_row (extract_low rfl) (extract_high (extract_low extract_all))))

theorem RoundTrip.ptry_row {w : Word32} {x1 : BitVec 5} {x2 : BitVec 5} {x3 : BitVec 5} (hs0 : w.extractLsb' 0 11 = 0x1#11) (hf0 : w.extractLsb' 21 5 = x1) (hf1 : w.extractLsb' 16 5 = x2) (hf2 : w.extractLsb' 11 5 = x3) :
    candidate31 w = some (.ptry x1 x2 x3) := by
  subst hf0 hf1 hf2
  delta candidate31
  rw [hs0]
  rfl

theorem RoundTrip.ptry : ∀ x1 x2 x3, RoundTrip.Statement (.ptry x1 x2 x3) := by
  intro x1 x2 x3
  exact RoundTrip.of_one rfl (RoundTrip.isLong_major (m := 0x31#6) (extract_high (extract_high (extract_high (extract_high rfl))))) ((RoundTrip.major31 (extract_high (extract_high (extract_high (extract_high rfl))))).trans (RoundTrip.ptry_row (extract_low rfl) (extract_high (extract_high (extract_high (extract_low extract_all)))) (extract_high (extract_high (extract_low extract_all))) (extract_high (extract_low extract_all))))

theorem RoundTrip.dsend_row {w : Word32} {x1 : BitVec 5} {x2 : BitVec 5} (hs0 : w.extractLsb' 0 11 = 0x2#11) (hf0 : w.extractLsb' 16 5 = x1) (hf1 : w.extractLsb' 11 5 = x2) :
    candidate31 w = some (.dsend x1 x2) := by
  subst hf0 hf1
  delta candidate31
  rw [hs0]
  rfl

theorem RoundTrip.dsend : ∀ x1 x2, RoundTrip.Statement (.dsend x1 x2) := by
  intro x1 x2
  exact RoundTrip.of_one rfl (RoundTrip.isLong_major (m := 0x31#6) (extract_high (extract_high (extract_high (extract_high rfl))))) ((RoundTrip.major31 (extract_high (extract_high (extract_high (extract_high rfl))))).trans (RoundTrip.dsend_row (extract_low rfl) (extract_high (extract_high (extract_low extract_all))) (extract_high (extract_low extract_all))))

theorem RoundTrip.drecv_row {w : Word32} {x1 : BitVec 5} {x2 : BitVec 5} (hs0 : w.extractLsb' 0 11 = 0x3#11) (hf0 : w.extractLsb' 21 5 = x1) (hf1 : w.extractLsb' 16 5 = x2) :
    candidate31 w = some (.drecv x1 x2) := by
  subst hf0 hf1
  delta candidate31
  rw [hs0]
  rfl

theorem RoundTrip.drecv : ∀ x1 x2, RoundTrip.Statement (.drecv x1 x2) := by
  intro x1 x2
  exact RoundTrip.of_one rfl (RoundTrip.isLong_major (m := 0x31#6) (extract_high (extract_high (extract_high rfl)))) ((RoundTrip.major31 (extract_high (extract_high (extract_high rfl)))).trans (RoundTrip.drecv_row (extract_low rfl) (extract_high (extract_high (extract_low extract_all))) (extract_high (extract_low extract_all))))

theorem RoundTrip.launchPacketArrival : ∀ x1, RoundTrip.Statement (.launchPacketArrival x1) := fun _ => RoundTrip.of_none rfl

theorem RoundTrip.threadCreation : ∀ x1 x2, RoundTrip.Statement (.threadCreation x1 x2) := fun _ _ => RoundTrip.of_none rfl

theorem RoundTrip.yieldExpiry : ∀ x1 x2, RoundTrip.Statement (.yieldExpiry x1 x2) := fun _ _ => RoundTrip.of_none rfl

theorem RoundTrip.segmentAttempt : ∀ x1 x2, RoundTrip.Statement (.segmentAttempt x1 x2) := fun _ _ => RoundTrip.of_none rfl

theorem RoundTrip.crossingWordArrival : ∀ x1 x2 x3, RoundTrip.Statement (.crossingWordArrival x1 x2 x3) := fun _ _ _ => RoundTrip.of_none rfl

theorem RoundTrip.streamFetch : ∀ x1, RoundTrip.Statement (.streamFetch x1) := fun _ => RoundTrip.of_none rfl

theorem RoundTrip.userMessageArrival : ∀ x1 x2, RoundTrip.Statement (.userMessageArrival x1 x2) := fun _ _ => RoundTrip.of_none rfl

theorem RoundTrip.copyPiece : ∀ x1 x2, RoundTrip.Statement (.copyPiece x1 x2) := fun _ _ => RoundTrip.of_none rfl

theorem RoundTrip.copyErrClear : ∀ x1 x2, RoundTrip.Statement (.copyErrClear x1 x2) := fun _ _ => RoundTrip.of_none rfl

theorem RoundTrip.cpymFollowOn : ∀ x1 x2, RoundTrip.Statement (.cpymFollowOn x1 x2) := fun _ _ => RoundTrip.of_none rfl

theorem RoundTrip.cpyqSetRelease : ∀ x1 x2, RoundTrip.Statement (.cpyqSetRelease x1 x2) := fun _ _ => RoundTrip.of_none rfl

theorem RoundTrip.plainStorePerform : ∀ x1 x2 x3, RoundTrip.Statement (.plainStorePerform x1 x2 x3) := fun _ _ _ => RoundTrip.of_none rfl

theorem RoundTrip.redPerform : ∀ x1 x2 x3, RoundTrip.Statement (.redPerform x1 x2 x3) := fun _ _ _ => RoundTrip.of_none rfl

theorem RoundTrip.waitaTimeout : ∀ x1 x2, RoundTrip.Statement (.waitaTimeout x1 x2) := fun _ _ => RoundTrip.of_none rfl

theorem RoundTrip.predictorDecay : ∀ x1 x2, RoundTrip.Statement (.predictorDecay x1 x2) := fun _ _ => RoundTrip.of_none rfl

theorem RoundTrip.walkEnd : ∀ x1 x2, RoundTrip.Statement (.walkEnd x1 x2) := fun _ _ => RoundTrip.of_none rfl

theorem RoundTrip.tokenPass : ∀ x1 x2, RoundTrip.Statement (.tokenPass x1 x2) := fun _ _ => RoundTrip.of_none rfl

theorem RoundTrip.mailboxArrival : ∀ x1, RoundTrip.Statement (.mailboxArrival x1) := fun _ => RoundTrip.of_none rfl

theorem RoundTrip.faultReply : ∀ x1, RoundTrip.Statement (.faultReply x1) := fun _ => RoundTrip.of_none rfl

theorem RoundTrip.sectorCacheAccess : ∀ x1 x2 x3, RoundTrip.Statement (.sectorCacheAccess x1 x2 x3) := fun _ _ _ => RoundTrip.of_none rfl

theorem RoundTrip.traverseLineCopy : ∀ x1 x2, RoundTrip.Statement (.traverseLineCopy x1 x2) := fun _ _ => RoundTrip.of_none rfl

theorem RoundTrip.traverseFinish : ∀ x1 x2, RoundTrip.Statement (.traverseFinish x1 x2) := fun _ _ => RoundTrip.of_none rfl

theorem RoundTrip.traverseAbort : ∀ x1 x2 x3, RoundTrip.Statement (.traverseAbort x1 x2 x3) := fun _ _ _ => RoundTrip.of_none rfl

theorem RoundTrip.heatReport : ∀ x1 x2, RoundTrip.Statement (.heatReport x1 x2) := fun _ _ => RoundTrip.of_none rfl

theorem RoundTrip.offreqLayer : ∀ x1 x2, RoundTrip.Statement (.offreqLayer x1 x2) := fun _ _ => RoundTrip.of_none rfl

theorem RoundTrip.offreqDie : ∀ x1 x2, RoundTrip.Statement (.offreqDie x1 x2) := fun _ _ => RoundTrip.of_none rfl

theorem RoundTrip.layerRemoved : ∀ x1, RoundTrip.Statement (.layerRemoved x1) := fun _ => RoundTrip.of_none rfl

theorem RoundTrip.dieOfflineDone : ∀ x1, RoundTrip.Statement (.dieOfflineDone x1) := fun _ => RoundTrip.of_none rfl

theorem RoundTrip.matrixCommandComplete : ∀ x1, RoundTrip.Statement (.matrixCommandComplete x1) := fun _ => RoundTrip.of_none rfl

theorem RoundTrip.spCommandAccept : ∀ x1, RoundTrip.Statement (.spCommandAccept x1) := fun _ => RoundTrip.of_none rfl

theorem RoundTrip.spCommandComplete : ∀ x1, RoundTrip.Statement (.spCommandComplete x1) := fun _ => RoundTrip.of_none rfl

theorem RoundTrip.episodeRelease : ∀ x1 x2 x3 x4 x5, RoundTrip.Statement (.episodeRelease x1 x2 x3 x4 x5) := fun _ _ _ _ _ => RoundTrip.of_none rfl

theorem RoundTrip.summitSweep : ∀ x1, RoundTrip.Statement (.summitSweep x1) := fun _ => RoundTrip.of_none rfl

theorem RoundTrip.qtailWrite : ∀ x1 x2 x3, RoundTrip.Statement (.qtailWrite x1 x2 x3) := fun _ _ _ => RoundTrip.of_none rfl

theorem RoundTrip.qctlWrite : ∀ x1 x2 x3, RoundTrip.Statement (.qctlWrite x1 x2 x3) := fun _ _ _ => RoundTrip.of_none rfl

theorem RoundTrip.qstatSkip : ∀ x1 x2, RoundTrip.Statement (.qstatSkip x1 x2) := fun _ _ => RoundTrip.of_none rfl

theorem RoundTrip.qstatErrClear : ∀ x1 x2, RoundTrip.Statement (.qstatErrClear x1 x2) := fun _ _ => RoundTrip.of_none rfl

theorem RoundTrip.qstatOvfClear : ∀ x1 x2, RoundTrip.Statement (.qstatOvfClear x1 x2) := fun _ _ => RoundTrip.of_none rfl

theorem RoundTrip.launchReady : ∀ x1 x2, RoundTrip.Statement (.launchReady x1 x2) := fun _ _ => RoundTrip.of_none rfl

theorem RoundTrip.stagingDeadline : ∀ x1 x2, RoundTrip.Statement (.stagingDeadline x1 x2) := fun _ _ => RoundTrip.of_none rfl

theorem RoundTrip.placementTurn : ∀ x1, RoundTrip.Statement (.placementTurn x1) := fun _ => RoundTrip.of_none rfl

theorem RoundTrip.reservation : ∀ x1 x2, RoundTrip.Statement (.reservation x1 x2) := fun _ _ => RoundTrip.of_none rfl

theorem RoundTrip.reservationPreempt : ∀ x1, RoundTrip.Statement (.reservationPreempt x1) := fun _ => RoundTrip.of_none rfl

theorem RoundTrip.forcedHalt : ∀ x1, RoundTrip.Statement (.forcedHalt x1) := fun _ => RoundTrip.of_none rfl

theorem RoundTrip.regionSave : ∀ x1, RoundTrip.Statement (.regionSave x1) := fun _ => RoundTrip.of_none rfl

theorem RoundTrip.budgetPeriod : ∀ x1 x2 x3 x4, RoundTrip.Statement (.budgetPeriod x1 x2 x3 x4) := fun _ _ _ _ => RoundTrip.of_none rfl

theorem RoundTrip.sagDetect : ∀ x1 x2, RoundTrip.Statement (.sagDetect x1 x2) := fun _ _ => RoundTrip.of_none rfl

theorem RoundTrip.linkRetrain : ∀ x1 x2 x3, RoundTrip.Statement (.linkRetrain x1 x2 x3) := fun _ _ _ => RoundTrip.of_none rfl

theorem RoundTrip.slackWindow : ∀ x1 x2 x3, RoundTrip.Statement (.slackWindow x1 x2 x3) := fun _ _ _ => RoundTrip.of_none rfl

theorem RoundTrip.mergeRequest : ∀ x1 x2, RoundTrip.Statement (.mergeRequest x1 x2) := fun _ _ => RoundTrip.of_none rfl

theorem RoundTrip.mergeExecute : ∀ x1, RoundTrip.Statement (.mergeExecute x1) := fun _ => RoundTrip.of_none rfl

theorem RoundTrip.mergeDeadline : ∀ x1, RoundTrip.Statement (.mergeDeadline x1) := fun _ => RoundTrip.of_none rfl

theorem RoundTrip.getVersion : ∀ x1, RoundTrip.Statement (.getVersion x1) := fun _ => RoundTrip.of_none rfl

theorem RoundTrip.getCapabilities : ∀ x1, RoundTrip.Statement (.getCapabilities x1) := fun _ => RoundTrip.of_none rfl

theorem RoundTrip.negotiateAlgorithms : ∀ x1 x2, RoundTrip.Statement (.negotiateAlgorithms x1 x2) := fun _ _ => RoundTrip.of_none rfl

theorem RoundTrip.getDigests : ∀ x1, RoundTrip.Statement (.getDigests x1) := fun _ => RoundTrip.of_none rfl

theorem RoundTrip.getCertificate : ∀ x1, RoundTrip.Statement (.getCertificate x1) := fun _ => RoundTrip.of_none rfl

theorem RoundTrip.challenge : ∀ x1 x2, RoundTrip.Statement (.challenge x1 x2) := fun _ _ => RoundTrip.of_none rfl

theorem RoundTrip.getMeasurements : ∀ x1 x2, RoundTrip.Statement (.getMeasurements x1 x2) := fun _ _ => RoundTrip.of_none rfl

theorem RoundTrip.keyExchange : ∀ x1 x2, RoundTrip.Statement (.keyExchange x1 x2) := fun _ _ => RoundTrip.of_none rfl

theorem RoundTrip.finish : ∀ x1 x2, RoundTrip.Statement (.finish x1 x2) := fun _ _ => RoundTrip.of_none rfl

theorem RoundTrip.lockInterface : ∀ x1 x2, RoundTrip.Statement (.lockInterface x1 x2) := fun _ _ => RoundTrip.of_none rfl

theorem RoundTrip.tdispLockBreach : ∀ x1 x2, RoundTrip.Statement (.tdispLockBreach x1 x2) := fun _ _ => RoundTrip.of_none rfl

theorem RoundTrip.debugPolicyAccept : ∀ x1 x2 x3 x4, RoundTrip.Statement (.debugPolicyAccept x1 x2 x3 x4) := fun _ _ _ _ => RoundTrip.of_none rfl

theorem RoundTrip.dbgHaltreq : ∀ x1 x2, RoundTrip.Statement (.dbgHaltreq x1 x2) := fun _ _ => RoundTrip.of_none rfl

theorem RoundTrip.dbgTraceen : ∀ x1 x2, RoundTrip.Statement (.dbgTraceen x1 x2) := fun _ _ => RoundTrip.of_none rfl

theorem RoundTrip.dbgPerfen : ∀ x1 x2, RoundTrip.Statement (.dbgPerfen x1 x2) := fun _ _ => RoundTrip.of_none rfl

theorem RoundTrip.registerWrite : ∀ x1 x2 x3 x4, RoundTrip.Statement (.registerWrite x1 x2 x3 x4) := fun _ _ _ _ => RoundTrip.of_none rfl

theorem RoundTrip.moduleReset : ∀ x1 x2 x3 x4 x5, RoundTrip.Statement (.moduleReset x1 x2 x3 x4 x5) := fun _ _ _ _ _ => RoundTrip.of_none rfl

theorem RoundTrip.memoryReply : ∀ x1 x2, RoundTrip.Statement (.memoryReply x1 x2) := fun _ _ => RoundTrip.of_none rfl

theorem RoundTrip.partitionReset : ∀ x1, RoundTrip.Statement (.partitionReset x1) := fun _ => RoundTrip.of_none rfl

theorem RoundTrip.hostPortWrite : ∀ x1 x2 x3, RoundTrip.Statement (.hostPortWrite x1 x2 x3) := fun _ _ _ => RoundTrip.of_none rfl

theorem RoundTrip.functionReadinessChange : ∀ x1 x2 x3 x4, RoundTrip.Statement (.functionReadinessChange x1 x2 x3 x4) := fun _ _ _ _ => RoundTrip.of_none rfl

theorem RoundTrip.startInterface : ∀ x1 x2, RoundTrip.Statement (.startInterface x1 x2) := fun _ _ => RoundTrip.of_none rfl

theorem RoundTrip.stopInterface : ∀ x1 x2, RoundTrip.Statement (.stopInterface x1 x2) := fun _ _ => RoundTrip.of_none rfl

theorem RoundTrip.numvfsWrite : ∀ x1 x2, RoundTrip.Statement (.numvfsWrite x1 x2) := fun _ _ => RoundTrip.of_none rfl

end Sys2Proof.Laws
end

