-- ==== Sys2Proof/Tests/Slice0.lean ====
section
/-! SUPPORT. Tests: ill-formed terms, words spelled from the encoding tables, one step of an instruction each, and a state and
operands that meet the hypotheses of each statement. Expected values come from the specification's tables and examples. -/
namespace Sys2Proof.Tests
open Sys2Proof Sys2Proof.Machine Sys2Proof.Safety
set_option Elab.async false

/-! ### Ill-formed terms: one for each check of WellFormed -/

theorem test_illformed_bfxu : wellFormed (.bfxu 1 2 32 32) = false := by decide
theorem test_illformed_bfxs : wellFormed (.bfxs 1 2 63 1) = false := by decide
theorem test_illformed_bfi_width : wellFormed (.bfi 1 2 63 1) = false := by decide
theorem test_illformed_bfi_port : wellFormed (.bfi 24 2 0 0) = false := by decide
theorem test_illformed_loop_zero : wellFormed (.loop 0 1) = false := by decide
theorem test_illformed_loop_port : wellFormed (.loop 28 1) = false := by decide
theorem test_illformed_ldu : wellFormed (.ldu 1 2 3 0) = false := by decide
theorem test_illformed_vins : wellFormed (.vins 27 1 2) = false := by decide
theorem test_illformed_vcvt_tag : wellFormed (.vcvt 1 2 0x17 0 0 0) = false := by decide
theorem test_illformed_vcvt_rm : wellFormed (.vcvt 1 2 0x0C 0 5 0) = false := by decide
theorem test_illformed_vcvth : wellFormed (.vcvth 1 2 0x1F 0 0 0) = false := by decide
theorem test_illformed_vtag : wellFormed (.vtag 1 2 0x17) = false := by decide
theorem test_illformed_vtchk : wellFormed (.vtchk 1 0x17) = false := by decide
theorem test_illformed_vshrn8 : wellFormed (.vshrn8 1 2 3 0 6 0) = false := by decide
theorem test_illformed_vshrn16 : wellFormed (.vshrn16 1 2 3 0 5 0) = false := by decide
theorem test_illformed_fadd : wellFormed (.fadd 1 2 3 5) = false := by decide
theorem test_illformed_fsub : wellFormed (.fsub 1 2 3 6) = false := by decide
theorem test_illformed_fmul : wellFormed (.fmul 1 2 3 5) = false := by decide
theorem test_illformed_fdiv : wellFormed (.fdiv 1 2 3 5) = false := by decide
theorem test_illformed_fsqrt : wellFormed (.fsqrt 1 2 5) = false := by decide
theorem test_illformed_fcvt : wellFormed (.fcvt 1 2 4 0) = false := by decide
theorem test_illformed_fma : wellFormed (.fma 24 2 3 0) = false := by decide
theorem test_illformed_vld : wellFormed (.vld 1 2 0x17 0 0) = false := by decide
theorem test_illformed_vst : wellFormed (.vst 1 2 0x1F 0 0) = false := by decide
theorem test_illformed_vlds : wellFormed (.vlds 1 2 3 0 8) = false := by decide
theorem test_illformed_vsts : wellFormed (.vsts 1 2 3 0 9) = false := by decide
theorem test_illformed_vldx : wellFormed (.vldx 1 2 3 0 0x0F) = false := by decide
theorem test_illformed_vstx : wellFormed (.vstx 1 2 3 0 0x11) = false := by decide
theorem test_illformed_vldb : wellFormed (.vldb 1 2 0 0x17) = false := by decide
theorem test_illformed_spillm : wellFormed (.spillm 20 1 26) = false := by decide
theorem test_illformed_fillm_falling : wellFormed (.fillm 9 1 8) = false := by decide
theorem test_illformed_fillm_base : wellFormed (.fillm 1 2 3) = false := by decide
theorem test_illformed_vspill : wellFormed (.vspill 20 1 27) = false := by decide
theorem test_illformed_vfill : wellFormed (.vfill 9 1 8) = false := by decide
theorem test_illformed_amo_size : wellFormed (.amo 1 2 3 1 0) = false := by decide
theorem test_illformed_amo_op : wellFormed (.amo 1 2 3 2 9) = false := by decide
theorem test_illformed_amocas : wellFormed (.amocas 1 2 3 0) = false := by decide
theorem test_illformed_amof : wellFormed (.amof 1 2 3 3) = false := by decide
theorem test_illformed_red_size : wellFormed (.red 1 2 0 0) = false := by decide
theorem test_illformed_red_swap : wellFormed (.red 1 2 3 8) = false := by decide
theorem test_illformed_fence : wellFormed (.fence 8) = false := by decide
theorem test_illformed_pref : wellFormed (.pref 1 2) = false := by decide
theorem test_illformed_mma : wellFormed (.mma 1 2 3 0 0 12 0 0 0 0 0) = false := by decide
theorem test_illformed_mmac_overlap : wellFormed (.mmac 1 2 3 3 1 0 0 0 0 0 0) = false := by decide
theorem test_illformed_mzero : wellFormed (.mzero 15 1) = false := by decide
theorem test_illformed_mrd_tag : wellFormed (.mrd 1 2 0 0 0 9 0 0 0 0) = false := by decide
theorem test_illformed_mrd_end : wellFormed (.mrd 1 2 0 63 0 0x0E 0 0 0 0) = false := by decide
theorem test_illformed_mscl : wellFormed (.mscl 1 511 1) = false := by decide
theorem test_illformed_twx : wellFormed (.twx 24) = false := by decide
theorem test_illformed_spld : wellFormed (.spld 1 8191 1) = false := by decide
theorem test_illformed_spst : wellFormed (.spst 1 7681 511) = false := by decide
theorem test_illformed_spnrm : wellFormed (.spnrm 1 8191 1) = false := by decide
theorem test_illformed_spup : wellFormed (.spup 1 2 3 0 0 0) = false := by decide
theorem test_illformed_spdn : wellFormed (.spdn 1 2 3 0 0 1) = false := by decide
theorem test_illformed_spmode : wellFormed (.spmode 3) = false := by decide
theorem test_illformed_mfs : wellFormed (.mfs 1 0x004) = false := by decide
theorem test_illformed_mts : wellFormed (.mts 1 0x104) = false := by decide
theorem test_illformed_haltRetain : wellFormed (.haltRetain 0) = false := by decide
theorem test_illformed_mbxrd : wellFormed (.mbxrd 21 0) = false := by decide
theorem test_illformed_ptry : wellFormed (.ptry 5 6 5) = false := by decide

/-! ### Words spelled from the encoding tables of the specification -/

/-- R97: `div g7, g5, g6`. -/
theorem test_decode_div : decodeTableWord 32 0x04E53011 = some (.div 7 5 6) := by decide
/-- R98: `lui g3, 0x1234`. -/
theorem test_decode_lui : decodeTableWord 32 0x20601234 = some (.lui 3 0x1234) := by decide
/-- R99: `srai g3, g4, 5`. -/
theorem test_decode_srai : decodeTableWord 32 0x28640205 = some (.srai 3 4 5) := by decide
/-- R103: `bne g4, g0, back` with back five words earlier. -/
theorem test_decode_bne : decodeTableWord 32 0x3C80FFFB = some (.bne 4 0 0xFFFB) := by decide
/-- R105: `jalr g31, g12`. -/
theorem test_decode_jalr : decodeTableWord 32 0x5BEC0001 = some (.jalr 31 12) := by decide
/-- R86: `mfs g5, CYCLE`. -/
theorem test_decode_mfs : decodeTableWord 32 0xC0A00400 = some (.mfs 5 0x040) := by decide
/-- R82: `rope g9, 0x5`. -/
theorem test_decode_rope : decodeTableWord 32 0xC1200055 = some (.rope 9 5) := by decide
/-- R320: `trap 5`. -/
theorem test_decode_trap : decodeTableWord 32 0xC0000052 = some (.trap 5) := by decide
/-- R99, R100: the worked word of BFXS. -/
theorem test_decode_bfxs : decodeTableWord 32 0x2D0981CC = some (.bfxs 8 9 7 12) := by decide
/-- R112, R117, R119, R123, R124: the worked words of the vector and mask forms. -/
theorem test_decode_vector : [0x70E3220D, 0x78411102, 0x84611000, 0x84A20805, 0x7CA40207].map (decodeTableWord 32) =
    [some (.vadds 7 3 4 2), some (.vcmp 2 1 2 1 2), some (.kand 3 1 2), some (.kmovhFromMask 5 2), some (.vredsum 5 4 2)] := by
  decide
/-- R155, R160, R164, R177: the worked words of the load and store forms. -/
theorem test_decode_memory : [0x60A48008, 0x68DEC010, 0x98242850, 0x9E07B800, 0x9CA60006, 0x9C063807].map (decodeTableWord 32) =
    [some (.ld 5 4 2 8), some (.st 6 30 3 16), some (.vlds 1 4 5 0 0x0A), some (.spillm 16 7 23), some (.wprd 5 6),
     some (.wpwait 6 7)] := by decide
/-- R190, R193 to R195, R198 to R201: the worked words of the coherent forms. -/
theorem test_decode_coherent :
    [0xA8000020, 0xA8000070, 0xA4A63B00, 0xA4A63A01, 0xA4A63A02, 0xA4063B73, 0xA8084834, 0xA8060012, 0xA8A63801, 0x6CA6C008].map
      (decodeTableWord 32) =
    [some (.fence 2), some (.fence 7), some (.amo 5 6 7 3 0), some (.amocas 5 6 7 2), some (.amof 5 6 7 0), some (.red 6 7 3 7),
     some (.put 8 9 3), some (.pref 6 1), some (.waita 5 6 7 0), some (.ldl 5 6 3 8)] := by decide
/-- R215, R219, R239 to R241: the worked words of the token, mailbox and tier forms. -/
theorem test_decode_service : [0xC0A6004B, 0xC0A0800B, 0xC1000009, 0xC00B001A, 0xBCA63800, 0xBCA60001, 0xBCA60002].map (decodeTableWord 32) =
    [some (.rltokRange 5 6 0 4), some (.rltokPart 5), some (.mbxrd 8 0), some (.mbxwrRefuse 11), some (.migr 5 6 7), some (.heat 5 6),
     some (.tqry 5 6)] := by decide
/-- R149, R151, R269, R297 to R299, R324: the worked words of the network, twin and belay forms. -/
theorem test_decode_network :
    [0xC4A00000, 0xC4A73001, 0xC4084802, 0xB4E00000, 0xAC000010, 0xACA00022, 0xAC060003, 0xAC000034, 0xAC070015, 0xC0000037].map
      (decodeTableWord 32) =
    [some (.pstat 5), some (.ptry 5 7 6), some (.dsend 8 9), some (.twx 7), some (.arrive 1), some (.btest 5 2), some (.bmem 6),
     some (.phase 3), some (.domain 7 1), some (.cairn 3)] := by decide
/-- R257 to R267, R282 to R287: the worked words of the 64-bit forms, the second word in the upper half. -/
theorem test_decode_long :
    [0x00000001B0400007, 0x003C0000B0000002, 0x00800700B0070005, 0x00000000B0000008, 0x01009148B0C02801, 0x00000002B8000004,
     0x00000000B9200006, 0x002003F0B8030000].map (decodeTableWord 64) =
    [some (.mlic 2 1), some (.mzero 0 15), some (.mscl 7 64 7), some .mrel, some (.mmac 6 0 5 4 1 2 2 1 0 1 0), some (.spmode 2),
     some (.spwait 9), some (.spld 3 256 63)] := by decide

/-! ### Small states -/

/-- A live sys-mode thread of service core 0 with some general registers. -/
def sys (l : List (Reg × Word)) : State :=
  let s := State.reset.withFetchWord 32 0
  l.foldl (fun s p => modThread s s.cur fun x => gWrite x p.1 p.2) s

/-- A region of two rows and four columns with quads and arrays, at the corner of die 0. -/
def area : Region := { inst := 1, h := 2, w := 4, twin := true, quad := true, nt := 1, entries := [(0, 0x00050001)] }

/-- A cached translation of the page at 0x10000000, which can be written, to the first frame of HBM4E stack 0. -/
def page : TlbEntry := { va := 0x10000000, frame := 0x100000000, w := true, x := true, a := true, d := true, tier := 0 }

/-- A live thread of core 0 in that region, in the given mode, with some general registers. -/
def app (mode : Word) (l : List (Reg × Word)) : State :=
  let x : Thread := { slotState := .live, pc := 0x40000000, status := mode, inst := 1, domain2 := 5 }
  let s : State := { State.reset with cores := [(0, { slots := [(0, x)], dtlb := [page] })], regions := [(1, area)] }
  l.foldl (fun s p => modThread s s.cur fun x => gWrite x p.1 p.2) s

/-- The same with changes to the thread. -/
def appWith (mode : Word) (l : List (Reg × Word)) (f : Thread → Thread) : State := modThread (app mode l) { } f

/-- The same with vector registers of one tag, each lane of every register holding the same bits. -/
def vec (t : Tag) (l : List (Reg × Nat)) : State :=
  l.foldl (fun s p => modThread s s.cur fun x => vWrite x p.1 { bits := BitVec.ofNat 512 p.2, tag := t }) (app 0 [])

/-- A state in which port 0 of core 0 holds some link words. -/
def withPort (s : State) (l : List LinkWord) : State := modSwitch s 0 fun x => { x with recv := [(0, { words := l.map fun w => { word := w } })] }

/-- What exec answers, where that is a next state. -/
def after (i : Instr) (s : State) : State :=
  match exec i s with
  | .next t => t
  | _ => s

/-! ### One step each -/

/-- R98: ADDI sign-extends its immediate and wraps; the placed instruction is the one that the step runs. -/
theorem test_addi_wraps : (match step (State.reset.withFetchWord 32 0x08A0FFFF) with
    | .next t => gValue (getThread t { core := 8192 }) 5
    | _ => 0) = BitVec.allOnes 64 := by decide
/-- R97: a division by zero gives all ones, and the most negative number over −1 gives itself. -/
theorem test_div_corners : gValue (me (after (.div 3 1 2) (sys [(1, 7)]))) 3 = BitVec.allOnes 64 ∧
    gValue (me (after (.div 3 1 2) (sys [(1, 1 <<< 63), (2, BitVec.allOnes 64)]))) 3 = 1 <<< 63 := by decide
/-- R97: ADDW sign-extends bit 31. -/
theorem test_addw : gValue (me (after (.addw 3 1 2) (sys [(1, 0x7FFFFFFF), (2, 1)]))) 3 = 0xFFFFFFFF80000000 := by decide
/-- R98: LUI sign-extends from bit 31. -/
theorem test_lui : gValue (me (after (.lui 3 0x8000) (sys []))) 3 = 0xFFFFFFFF80000000 := by decide
/-- R13: g0 keeps zero. -/
theorem test_g0 : gValue (me (after (.addi 0 1 5) (sys [(1, 7)]))) 0 = 0 := by decide
/-- R14: a port loses its word to the instruction that names it. -/
theorem test_port : gValue (me (after (.addi 3 24 1) (withPort (app 0 []) [{ data := 41 }]))) 3 = 42 ∧
    (amGet (getSwitch (after (.addi 3 24 1) (withPort (app 0 []) [{ data := 41 }])) 0).recv 0 {}).words = [] := by decide
/-- R105: JALR with d = a jumps to the old value. -/
theorem test_jalr_same : (me (after (.jalr 5 5) (sys [(5, 0x1000)]))).pc = 0x1000 ∧
    gValue (me (after (.jalr 5 5) (sys [(5, 0x1000)]))) 5 = 0x40000004 := by decide
/-- R106: a counter of 1 falls through. -/
theorem test_loop_end : (me (after (.loop 5 0xFFFF) (sys [(5, 1)]))).pc = 0x40000004 ∧ gValue (me (after (.loop 5 0xFFFF) (sys [(5, 1)]))) 5 = 0 := by
  decide
/-- R102: a misaligned target raises Alignment, on an application core in app mode without a handler a THREADFAULT. -/
theorem test_jr_misaligned : (me (after (.jr 5) (app 0 [(5, 2)]))).trapcause = 4 ∧ (me (after (.jr 5) (app 0 [(5, 2)]))).trapval = 2 ∧
    (me (after (.jr 5) (app 0 [(5, 2)]))).wait = .threadFault false := by decide
/-- R26: ERET in app mode raises Privilege with the instruction's word. -/
theorem test_eret_app : (me (after .eret (app 0 []))).trapcause = 2 ∧ (me (after .eret (app 0 []))).trapval = 0xC0000003 := by decide
/-- R16: reserved bits of MPROG read zero after MTS, and CYCLE ignores it. -/
theorem test_mts : (me (after (.mts 5 0x002) (sys [(5, BitVec.allOnes 64)]))).mprog = 0xFFFFFFFF ∧
    (after (.mts 5 0x040) (sys [(5, 9)])).cycle = 0 := by decide
/-- R155: a store to the scratchpad is read back with its sign, little-endian. -/
theorem test_scratchpad : gValue (me (after (.ld 6 4 1 0)
    (after (.st 5 4 2 0) (app 0 [(4, 0xFF00000000000100), (5, 0x12348001)])))) 6 = 0xFFFFFFFFFFFF8001 := by decide
/-- R155: a misaligned access raises Alignment with the effective address. -/
theorem test_misaligned : (me (after (.ld 6 4 3 1) (app 0 [(4, 0xFF00000000000100)]))).trapval = 0xFF00000000000101 := by decide
/-- R182: a thread reads its own store to a global address before it is performed. -/
theorem test_own_store : gValue (me (after (.ldu 6 4 0 0) (after (.st 5 4 0 0) (app 0 [(4, 0x10000008), (5, 0x1AB)])))) 6 = 0xAB ∧
    (after (.st 5 4 0 0) (app 0 [(4, 0x10000008), (5, 0x1AB)])).gmem.cells = [] := by decide
/-- R193: AMOADD returns the old value and adds. -/
theorem test_amo : memGet (after (.amo 6 4 5 2 0) (app 0 [(4, 0x10000008), (5, 3)])).gmem.cells 0x100000000008 = 3 ∧
    gValue (me (after (.amo 6 4 5 2 0) (app 0 [(4, 0x10000008), (5, 3)]))) 6 = 0 := by decide
/-- R112, R113: VADDS clamps a signed sum (tag INT8). -/
theorem test_vadds : lane 8 (vValue (me (after (.vadds 3 1 2 0) (vec 0x06 [(1, 0x7F), (2, 0x01)]))) 3).bits.toNat 0 = 0x7F := by decide +kernel
/-- R45, R112: a reserved class or another tag raises the Tag trap. -/
theorem test_vadd_tag : (me (after (.vadd 3 1 2 0) (vec 0x00 [(1, 1), (2, 1)]))).trapcause = 3 := by decide +kernel
/-- R117: VCMP clears the bits above the lanes. -/
theorem test_vcmp : kValue (me (after (.vcmp 1 1 2 0 0) (vec 0x0A [(1, 0x3F800000), (2, 0x3F800000)]))) 1 = 0xFFFF := by decide +kernel
/-- R124: KFIRST of no bit is 128. -/
theorem test_kfirst : gValue (me (after (.kfirst 5 1) (app 0 []))) 5 = 128 := by decide
/-- R82: a service core is refused. -/
theorem test_rope_refused : gValue (me (after (.rope 9 5) (sys []))) 9 = BitVec.allOnes 64 := by decide

/-! ### States and operands that meet the hypotheses of the statements -/

/-- Something there with a property, from a computation that says so. -/
theorem some_of {α : Type} {o : Option α} {P : α → Prop} [DecidablePred P] (h : o.any (fun r => decide (P r)) = true) :
    ∃ r, o = some r ∧ P r := by
  cases o with
  | none => simp at h
  | some r => exact ⟨r, rfl, by simpa using h⟩

/-- A state and a result, where the result is there. -/
theorem pair_some {α β : Type} {f : α × Option β} {b : β} (h : f.2 = some b) : f = (f.1, some b) := by
  cases f; simp_all

/-- A link word that a port of core 0 holds twice, and room in every send FIFO. -/
def ported : State := withPort (app 0 []) [{ data := 1 }, { data := 2 }]

theorem witness_IntegerResults :
    ((∃ p ∈ intTable, p.1 3 1 2 = .add 3 1 2) ∧ PortsReady (sys []) [1, 2] [] [3] [] ∧ PortsReady ported [24, 24] [] [24] []) ∧
      ((∃ p ∈ countTable, p.1 3 1 = .clz 3 1) ∧ PortsReady (sys []) [31] [] [0] []) ∧
      (PortsReady (sys [(2, 1)]) [1, 2] [] [3] [] ∧ valueG (afterG (sys [(2, 1)]) 1) 2 ≠ 0) ∧
      PortsReady (sys []) [1, 2] [] [3] [] ∧ valueG (afterG (sys []) 1) 2 = 0 := by
  refine ⟨⟨⟨_, List.mem_cons_self, rfl⟩, ?_⟩, ⟨⟨_, List.mem_cons_self, rfl⟩, ?_⟩, ?_⟩ <;> unfold PortsReady <;> decide

theorem witness_ImmediateResults :
    ((∃ p ∈ immTable, p.1 3 1 5 = .addi 3 1 5) ∧ PortsReady (sys []) [1] [] [3] []) ∧ PortsReady (sys []) [] [] [28] [] ∧
      ((∃ p ∈ shiftTable, p.1 3 1 63 = .slli 3 1 63) ∧ PortsReady ported [24] [] [27] []) ∧
      (PortsReady (sys []) [1] [] [] [] ∧ wellFormed (.bfi 3 1 63 0) = true ∧ wellFormed (.bfi 3 1 0 63) = true) := by
  refine ⟨⟨⟨_, List.mem_cons_self, rfl⟩, ?_⟩, ?_, ⟨⟨_, List.mem_cons_self, rfl⟩, ?_⟩, ?_⟩ <;> unfold PortsReady <;> decide

theorem witness_AddToPc : PortsReady (sys []) [] [] [3] [] ∧ PortsReady ported [] [] [28] [] := by unfold PortsReady; decide

theorem witness_BranchResults : (∃ p ∈ branchTable, p.1 1 2 0 = .beq 1 2 0 ∧ p.2 (valueG (sys []) 1) (valueG (afterG (sys []) 1) 2) = true ∧
      p.2 (valueG (sys [(1, 1)]) 1) (valueG (afterG (sys [(1, 1)]) 1) 2) = false) ∧
    PortsReady (sys []) [1, 2] [] [] [] ∧ PortsReady (sys [(1, 1)]) [1, 2] [] [] [] ∧
    GoodTarget (offTarget (me (sys [])).pc (0x8000#16)) ∧ GoodTarget (offTarget (me (sys [])).pc (0x7FFF#16)) := by
  refine ⟨⟨_, List.mem_cons_self, rfl, by decide, by decide⟩, ?_⟩
  unfold PortsReady GoodTarget
  decide

theorem witness_JumpAndLoopResults : GoodTarget (offTarget (me (sys [])).pc (0x1FFFFFF#26)) ∧
    (PortsReady (sys [(5, 0x01FFFFFFFFFFFFFC)]) [5] [] [] [] ∧ GoodTarget (valueG (sys [(5, 0x01FFFFFFFFFFFFFC)]) 5)) ∧
    (PortsReady (sys [(5, 0)]) [5] [] [31] [] ∧ GoodTarget (valueG (sys [(5, 0)]) 5)) ∧
    (wellFormed (.loop 5 0xFFFF) = true ∧ gValue (me (sys [(5, 2)])) 5 - 1 ≠ 0 ∧ GoodTarget (offTarget (me (sys [(5, 2)])).pc (0xFFFF#16))) ∧
    gValue (me (sys [(5, 1)])) 5 - 1 = 0 := by
  unfold PortsReady GoodTarget
  decide

/-- A thread whose next word lies at the end of the global addresses. -/
def atEnd (l : List (Reg × Word)) : State := appWith 0 l fun x => { x with pc := 0x01FFFFFFFFFFFFFC }

theorem witness_BadTargetTraps :
    (¬ GoodTarget 0x0200000000000000 ∧ (0x0200000000000000 : Word) = offTarget (me (atEnd [])).pc (1#26)) ∧
    (wellFormed (.loop 5 1) = true ∧ gValue (me (atEnd [(5, 2)])) 5 - 1 ≠ 0 ∧
      (0x0200000000000000 : Word) = offTarget (me (atEnd [(5, 2)])).pc (1#16)) ∧
    ((∃ p ∈ branchTable, p.1 1 2 1 = .beq 1 2 1 ∧ p.2 (valueG (atEnd []) 1) (valueG (afterG (atEnd []) 1) 2) = true) ∧
      PortsReady (atEnd []) [1, 2] [] [] [] ∧ (0x0200000000000000 : Word) = offTarget (me (atEnd [])).pc (1#16)) ∧
    ¬ GoodTarget 1 ∧ valueG (sys [(5, 1)]) 5 = 1 ∧ PortsReady (sys [(5, 1)]) [5] [] [31] [] := by
  refine ⟨?_, ?_, ⟨⟨_, List.mem_cons_self, rfl, by decide⟩, ?_⟩, ?_⟩ <;> (try unfold GoodTarget) <;> (try unfold PortsReady) <;> decide

theorem witness_SystemRegisterMoves :
    (wellFormed (.mfs 5 0x042) = true ∧ PortsReady (app 0 []) [] [] [5] []) ∧
    (wellFormed (.mfs 5 0x103) = true ∧ InSys (sys []) ∧ ¬ InSys (app 0 [])) ∧
    (wellFormed (.mts 5 0x001) = true ∧ PortsReady (app 0 []) [5] [] [] []) ∧
    (wellFormed (.mts 5 0x000) = true ∧ InSys (sys []) ∧ ¬ InSys (app 0 [])) ∧
    (threadExists {} = true ∧ isService ({} : ThreadRef).core = false ∧ hasArray (threadRegion (app 0 []) {}) = true ∧
      threadRegion State.reset {} = none ∧ hasArray (threadRegion State.reset {}) = false) ∧
    (threadExists (sys []).cur = true ∧ isService (sys []).cur.core = true) ∧
    ∃ p ∈ contextRegs, p.1 = 0x103 := by
  refine ⟨?_, ?_, ?_, ?_, by decide, by decide, ⟨(0x103, (·.trapvec)), by simp [contextRegs], rfl⟩⟩ <;> (try unfold PortsReady) <;> (try unfold InSys) <;> decide

theorem witness_SystemRegisterFrame : (∃ t, exec (.mfs 5 0x040) (sys []) = .next t) ∧
    (∃ t, exec (.mts 5 0x040) (sys []) = .next t ∧ Retired (sys []) t) ∧ isRoped (me (sys [])) = false := by
  refine ⟨⟨_, rfl⟩, ⟨_, rfl, ?_⟩, by decide⟩
  unfold Retired
  decide

theorem witness_PrivilegeTraps : (sysOnly .eret = true ∧ ¬ InSys (app 0 [])) ∧ (sysOnly (.fence 7) = true ∧ sysOnly (.fence 6) = false) ∧
    serviceOnly (.mbxwrRefuse 5) = true ∧ isService (app 1 []).cur.core = false := by
  unfold InSys
  decide

/-- Threads with a handler of their own, with one of HVEC, and on a service core without one. -/
def handled : State := appWith 0 [] fun x => { x with trapvec := 0x1000 }
def vectored : State := modPart (app 0 []) 0 fun t => { t with hvec := [(0, 0x2001)] }

theorem witness_TrapEntry : (255 < 256 ∧ isRoped (getThread (app 0 []) {}) = false ∧ isRoped (getThread (app 1 []) {}) = false) ∧
    (modeSys (getThread (app 1 []) {}) = true ∧ isService ({} : ThreadRef).core = false) ∧
    (modeSys (getThread handled {}) = false ∧ vectorOf (getThread handled {}).trapvec ≠ 0) ∧
    (modeSys (getThread vectored {}) = false ∧ vectorOf (getThread vectored {}).trapvec = 0 ∧ (hvecOf vectored 0 0).getLsbD 0 = true) ∧
    (hvecOf (app 0 []) 0 0).getLsbD 0 = false ∧
    (isService (sys []).cur.core = true ∧ vectorOf (getThread (sys []) (sys []).cur).trapvec = 0) := by decide

theorem witness_ReturnFromTrap : InSys (appWith 1 [] fun x => { x with trappc := 0x01FFFFFFFFFFFFFC }) ∧
    GoodTarget (me (appWith 1 [] fun x => { x with trappc := 0x01FFFFFFFFFFFFFC })).trappc := by
  unfold InSys GoodTarget
  decide

/-- Region 1 with a pre-emption requested, and core 0 and core 2 in a rope. -/
def preempted : State := modRegion (app 0 []) 1 fun r => { r with preempt := some (0, 0x10000000) }
def roped : State :=
  let x : Thread := { slotState := .live, pc := 0x40000000, inst := 1 }
  { app 0 [] with cores := [(0, { slots := [(0, { x with status := statusWord false false true 0 3 })] }),
                            (2, { slots := [(0, { x with status := statusWord false false true 1 3 })] })] }

theorem witness_ThreadControl : fenceWaits (sys []) (sys []).cur 0 = false ∧ isGPort 31 = false ∧
    (isService (sys []).cur.core = true ∧ (getCore (sys []) (sys []).cur.core).waiting = [] ∧ (me (sys [])).stores = [] ∧
      (me (sys [])).reds = []) ∧
    (∀ i, i < 4 → i ≠ (sys []).cur.slot →
      (getThread (performAll (sys []) (sys []).cur) { core := (sys []).cur.core, slot := i }).slotState = .free) ∧
    isRoped (me (sys [])) = false ∧ (isRoped (me roped) = true ∧ { core := 2 } ∈ ropeMembers roped roped.cur) ∧
    (∃ r, threadRegion (app 0 []) (app 0 []).cur = some r ∧ r.preempt = none) ∧
    ∃ r, threadRegion preempted preempted.cur = some r ∧ r.preempt = some (0, 0x10000000) := by
  refine ⟨by decide, by decide, by decide, by decide, by decide, by decide, some_of (by decide +kernel), some_of (by decide +kernel)⟩

/-- Core 2 waits in a ROPE with mask 3 for core 0. -/
def arriving : State :=
  { app 0 [] with cores := [(0, { slots := [(0, { slotState := .live, pc := 0x40000000, inst := 1 })] }),
                            (2, { slots := [(0, { slotState := .live, pc := 0x40000000, inst := 1, wait := .rope 3 5 })] })] }

/-- Core 0 and core 2 of one quad run, in no rope. -/
def standing : State :=
  { app 0 [] with cores := [(0, { slots := [(0, { slotState := .live, pc := 0x40000000, inst := 1 })] }),
                            (2, { slots := [(0, { slotState := .live, pc := 0x40000000, inst := 1 })] })] }

theorem witness_RopeResults :
    (PortsReady roped [] [] [9] [] ∧ arrivalOf (me roped) = none ∧ isRoped (me roped) = true ∧ ropeMask (me roped) = 3) ∧
    (PortsReady (sys []) [] [] [9] [] ∧ arrivalOf (me (sys [])) = none ∧ isService (sys []).cur.core = true ∧ isRoped (me (sys [])) = false) ∧
    (PortsReady (app 0 []) [] [] [9] [] ∧ qcoreOf (app 0 []).cur.core < 4 ∧ isService (app 0 []).cur.core = false ∧
      isRoped (me (app 0 [])) = false ∧ (getThread (app 0 []) (ropePeer (app 0 []).cur 1)).slotState = .free) ∧
    (PortsReady arriving [] [] [9] [] ∧ arrivalOf (me arriving) = none ∧ isRoped (me arriving) = false ∧ 3 ∈ [3, 5, 6, 9, 10, 12, 15] ∧
      (3 : Nat).testBit (qcoreOf arriving.cur.core) = true ∧ isService arriving.cur.core = false ∧
      (∃ r, threadRegion arriving arriving.cur = some r ∧ r.quad = true) ∧
      (∀ i, i < 4 → (3 : Nat).testBit i = true → i ≠ qcoreOf arriving.cur.core →
        (getThread arriving (ropePeer arriving.cur i)).slotState ≠ .free ∧ isRoped (getThread arriving (ropePeer arriving.cur i)) = false ∧
          (getThread arriving (ropePeer arriving.cur i)).wait = .rope 3 5 ∧
          (getThread arriving (ropePeer arriving.cur i)).ropeRefusedAt ≠ some arriving.cycle) ∧
      ∀ i, i < 4 → i ≠ 1 → (getThread arriving (ropePeer arriving.cur i)).wait = .none) ∧
    (ropePeer arriving.cur 1 ≠ arriving.cur ∧ (getThread arriving (ropePeer arriving.cur 1)).wait = .rope 3 5 ∧ (3 : Nat) ≠ 15 ∧
      (3 : Nat).testBit (qcoreOf arriving.cur.core) = true) ∧
    (PortsReady standing [] [] [24] [] ∧ isRoped (me standing) = false ∧ (∃ r, threadRegion standing standing.cur = some r ∧ r.quad = true) ∧
      ∀ i, i < 4 → (3 : Nat).testBit i = true → i ≠ qcoreOf standing.cur.core →
        (getThread standing (ropePeer standing.cur i)).slotState ≠ .free ∧ isRoped (getThread standing (ropePeer standing.cur i)) = false ∧
          (getThread standing (ropePeer standing.cur i)).wait = .none ∧
          (getThread standing (ropePeer standing.cur i)).ropeRefusedAt ≠ some standing.cycle) := by
  refine ⟨?_, ?_, ?_, ⟨?_, ?_, ?_, ?_, ?_, ?_, some_of (by decide +kernel), ?_⟩, ?_, ?_, ?_, some_of (by decide +kernel), ?_⟩ <;>
    (try unfold PortsReady) <;> decide +kernel

/-- A service core with one message in its mailbox. -/
def mailed : State := modCore (sys []) 8192 fun c => { c with mailbox := [[1, 2, 3, 4]] }

theorem witness_MailboxForms : InService mailed ∧ (wellFormed (.mbxrd 20 0) = true ∧ (getCore mailed mailed.cur.core).mailbox = [1, 2, 3, 4] :: []) ∧
    (InService (sys []) ∧ wellFormed (.mbxrd 1 1) = true ∧ (getCore (sys []) (sys []).cur.core).mailbox = []) ∧
    PortsReady (sys []) [11] [] [] [] := by
  unfold InService PortsReady
  decide

theorem witness_TokenForms : (InSys (sys []) ∧ (sys []).defer = false ∧ (me (sys [])).wait = .none) ∧
    (PortsReady (sys [(6, 0x01FFE00000000040)]) [6] [] [5] [] ∧ fieldOf (valueG (sys [(6, 0x01FFE00000000040)]) 6) 6 0 = 64 ∧
      fieldOf (valueG (sys [(6, 0x01FFE00000000040)]) 6) 63 57 = 0 ∧ fieldOf (valueG (sys [(6, 0x01FFE00000000040)]) 6) 11 7 = 0 ∧
      fieldOf (valueG (sys [(6, 0x01FFE00000000040)]) 6) 56 12 % 2 ^ 4 = 0) ∧
    (PortsReady (sys [(6, 64)]) [6] [] [5] [] ∧ fieldOf (valueG (sys [(6, 64)]) 6) 63 7 = 0) ∧
    CanGive (dropUnmapped (passAll { part := 0, scope := 2 } (publish (sys []) (sys []).cur 6)).1 0) 5 ∧
    CanGive (dropUnmapped (passAll { part := 0, scope := 1, func := 64 } (publish (sys [(6, 64)]) (sys []).cur 6)).1 0) 5 ∧
    CanGive (dropUnmapped (passAll { part := 0, scope := 0, func := 64, va := 0x01FFE00000000000, bits := 16 }
      (publish (sys [(6, 0x01FFE00000000040)]) (sys []).cur 6)).1 0) 5 ∧
    ∃ e, e ∈ (getQuad (passTarget { scope := 0, func := 9 } (modQuad (sys []) 3 fun q => { q with l2 := [page] }, 0) 3).1 3).l2 := by
  refine ⟨?_, ?_, ?_, ?_, ?_, ?_, ⟨page, ?_⟩⟩ <;> (try unfold InSys) <;> (try unfold PortsReady) <;> (try unfold CanGive) <;> decide +kernel

/-- The scratchpad address with offset 256. -/
def pad : Word := 0xFF00000000000100

/-- A range of the own scratchpad is a local range, which a load reads and a store writes. -/
theorem pad_range {s : State} {ea : Word} {n : Nat} (off : Nat) (h : isLocal ea = true)
    (hr : resolve s s.cur ea n = .loc (.scratch s.cur.core) off) : LocalRange s ea n (.scratch s.cur.core) off :=
  ⟨h, hr, by simp⟩

theorem pad_load {s : State} {ea : Word} {n : Nat} {l : List Byte} (off : Nat) (h : isLocal ea = true)
    (hr : resolve s s.cur ea n = .loc (.scratch s.cur.core) off)
    (hl : localRead s (.scratch s.cur.core) off n = some l) (hn : l.length = n) : LoadReady s ea n l s :=
  ⟨hn, .inl ⟨_, off, pad_range off h hr, .inl rfl, hl, rfl⟩⟩

theorem pad_loads {s : State} {ea : Word} {n : Nat} {l : List Byte} (off : Nat) (h : isLocal ea = true)
    (hr : resolve s s.cur ea n = .loc (.scratch s.cur.core) off)
    (hl : localRead s (.scratch s.cur.core) off n = some l) (hn : l.length = n) : Loads s ea n l s := by
  rw [Loads, pagePieces, if_pos h]
  exact ⟨l, [], s, by simp, pad_load off h hr hl hn, rfl, rfl⟩

theorem pad_store {s : State} {ea : Word} {l : List Byte} {skip : Nat} (off : Nat) (h : isLocal ea = true)
    (hr : resolve s s.cur ea l.length = .loc (.scratch s.cur.core) off) :
    StoreReady s ea l skip (localWriteSkip s (.scratch s.cur.core) off skip l) :=
  .inl ⟨_, off, pad_range off h hr, rfl⟩

/-- A service thread beside a region, one whose LAUNCH.packet has its answer, and one whose partition retains a scratchpad. -/
def sysIn (l : List (Reg × Word)) : State := { sys l with regions := [(1, area)] }
def answered : State := modThread (sys []) (sys []).cur fun x => { x with wait := .packetDone 3 }
def retained : State := modCore (sys [(5, 9)]) 0 fun c => { c with retention := some { handle := 9 } }

/-- The same with bytes in the scratchpad at 256. -/
def padded (s : State) (l : List Byte) : State := localWrite s (.scratch s.cur.core) 256 l

/-- What a load of the scratchpad there gives. -/
def padAt (s : State) (n : Nat) : List Byte := memRead (getCore s s.cur.core).scratch.cells 256 n

/-- A launch packet of instance 1. -/
def packetBytes : List Byte := List.replicate 12 0 ++ [1] ++ List.replicate 19 0

theorem witness_LaunchForms :
    (∃ l, InSys (sys [(5, pad)]) ∧ PortsReady (sys [(5, pad)]) [5] [] [9] [] ∧ pad.toNat % 32 = 0 ∧
      Loads (sys [(5, pad)]) pad 32 l (sys [(5, pad)]) ∧ CanGive (installRecord (sys [(5, pad)]) 0 0 l).1 9 ∧
      (me (sys [(5, pad)])).wait = .none ∧ packetRegion (sys [(5, pad)]) (parsePacket 0 (sys []).cur l) = none) ∧
    (PortsReady answered [5] [] [9] [] ∧ (me answered).wait = .packetDone 3) ∧
    (let s := padded (sysIn [(5, pad)]) packetBytes
     Loads s pad 32 (padAt s 32) s ∧ ∃ r, packetRegion s (parsePacket 0 s.cur (padAt s 32)) = some r ∧ r.inst = 1) ∧
    (∃ l, pad.toNat % 64 = 0 ∧ Loads (sys [(5, pad)]) pad 8 l (sys [(5, pad)]) ∧ ofBytes l < 2 ^ 24 ∧
      CanGive (requestSave (sys [(5, pad)]) 0 (regionKey 0 (ofBytes l)) pad.toNat).1 9) ∧
    (let s := padded (sys [(5, pad)]) (toBytes 8 (2 ^ 24))
     Loads s pad 8 (padAt s 8) s ∧ 2 ^ 24 ≤ ofBytes (padAt s 8) ∧ CanGive s 9) ∧
    getRegion (sys [(5, 1)]) (regionKey 0 1) = none ∧
    (∃ r, getRegion (sysIn [(5, 1)]) (regionKey 0 1) = some r ∧
      (getThread (abortLaunch (giveG (sysIn [(5, 1)]) 9 0) (regionKey 0 1)) (sysIn []).cur).slotState ≠ .free) ∧
    (((sys [(5, 9)]).cores.any fun c => retainsFor 0 9 c.2) = false ∧ (getPart (sys []) 0).evacuated = []) ∧
    (retained.cores.any fun c => retainsFor 0 9 c.2) = true ∧
    ((∃ r, getRegion preempted 1 = some r ∧ r.preempt.isSome = true) ∧
      (∃ r, getRegion (modRegion (app 0 []) 1 fun r => { r with faulted := true }) 1 = some r ∧ (r.preempt = none ∧ r.faulted = true)) ∧
      ∃ r, getRegion (app 0 []) 1 = some r ∧ (r.preempt = none ∧ r.faulted = false ∧
        ((∀ t ∈ regionThreads (app 0 []) r, (getThread (app 0 []) t).wait = .none) ∧ (requestPreempt (app 0 []) 1 64).2 = 0))) := by
  refine ⟨⟨List.replicate 32 0, by unfold InSys; decide, by unfold PortsReady; decide, by decide,
      pad_loads 256 (by decide) (by decide) (by decide) (by decide), by unfold CanGive; decide +kernel, by decide, by decide +kernel⟩,
    by unfold PortsReady; decide,
    ⟨pad_loads 256 (by decide) (by decide +kernel) (by decide +kernel) (by decide +kernel), some_of (by decide +kernel)⟩,
    ⟨List.replicate 8 0, by decide, pad_loads 256 (by decide) (by decide) (by decide) (by decide), by decide,
      by unfold CanGive; decide +kernel⟩,
    ⟨pad_loads 256 (by decide) (by decide +kernel) (by decide +kernel) (by decide +kernel), by decide +kernel, by unfold CanGive; decide +kernel⟩,
    by decide, some_of (by decide +kernel), by decide, by decide, some_of (by decide +kernel), some_of (by decide +kernel), some_of (by decide +kernel)⟩

theorem witness_VectorArithmetic :
    ((∃ p ∈ vecBinary, p.1 3 1 2 1 = .vadd 3 1 2 1 ∧ p.2.takes (tagClass 0x06) = true) ∧
      VectorReady (vec 0x06 [(1, 1), (2, 2)]) 1 2 3 ∧ (valueV (vec 0x06 [(1, 1), (2, 2)]) 1).tag = 0x06 ∧
      (valueV (afterV (vec 0x06 [(1, 1), (2, 2)]) 1) 2).tag = 0x06) ∧
    (VectorReady ported 27 1 24 ∧ (valueV ported 27).tag = 0) ∧
    ((∃ p ∈ vecUnary, p.1 3 1 1 = .vsqrt 3 1 1 ∧ p.2.takes (tagClass 0x0A) = true) ∧ PortsReady (vec 0x0A [(1, 1)]) [] [1] [] [3] ∧
      TagsAgree (vec 0x0A [(1, 1)]) 1) ∧
    (∃ p ∈ vecBinary, p.1 3 1 2 1 = .vdiv 3 1 2 1 ∧ p.2.takes (tagClass 0x06) = false ∧ p.2.takes (tagClass 0x0A) = true ∧
      p.2.takes (tagClass 0x0B) = true ∧ (0x0B : Tag) ≠ 0x0A) := by
  refine ⟨⟨⟨_, List.mem_cons_self, rfl, by decide⟩, ?_⟩, ?_, ⟨⟨vecUnary[2], List.getElem_mem _, rfl, by decide⟩, ?_⟩,
    ⟨vecBinary[3], List.getElem_mem _, rfl, by decide⟩⟩ <;> (try unfold VectorReady) <;> unfold PortsReady <;> unfold TagsAgree <;> decide +kernel

theorem witness_VectorFusedForms :
    (PortsReady (vec 0x06 []) [] [1, 2, 4] [] [3] ∧ TagsAgree (vec 0x06 []) 1 ∧ TagsAgree (afterV (vec 0x06 []) 1) 2 ∧
      TagsAgree (afterVV (vec 0x06 []) 1 2) 4) ∧
    (PortsReady ported [] [27, 1, 1] [] [27] ∧ TagsAgree ported 27 ∧ TagsAgree (afterV ported 27) 1 ∧ TagsAgree (afterVV ported 27 1) 1) ∧
    ((∃ p ∈ vecFused, p.1 3 1 2 0 4 = .vfma 3 1 2 0 4) ∧ isIntOrFloat (tagClass 0x06) = true ∧ tagClass 0x06 = .int 8 true ∧
      valueV (vec 0x06 [(1, 1), (2, 1), (4, 1)]) 1 = { bits := 1, tag := 0x06 } ∧
      (valueV (afterV (vec 0x06 [(1, 1), (2, 1), (4, 1)]) 1) 2).tag = 0x06 ∧
      (valueV (afterVV (vec 0x06 [(1, 1), (2, 1), (4, 1)]) 1 2) 4).tag = 0x06) ∧
    (dot4Tag 0x06 = some 0x02 ∧ dot2Tag 0x0B = some 0x0A ∧
      ∀ p ∈ [((0x06 : Tag), (0x02 : Tag)), (0x0B, 0x0A)],
        let s := modThread (vec p.1 [(1, 1), (2, 1)]) {} fun x => vWrite x 4 { bits := 1, tag := p.2 }
        (valueV s 1).tag = p.1 ∧ (valueV (afterV s 1) 2).tag = p.1 ∧ (valueV (afterVV s 1 2) 4).tag = p.2) := by
  refine ⟨?_, ?_, ⟨⟨_, List.mem_cons_self, rfl⟩, ?_⟩, ?_⟩ <;> (try unfold PortsReady) <;> (try unfold TagsAgree) <;> decide +kernel

theorem witness_VectorMoves :
    ((∃ p ∈ vecMoves, p.1 3 1 2 0 = .vand 3 1 2 0) ∧ VectorReady (vec 0x00 [(1, 1), (2, 1)]) 1 2 3 ∧ VectorReady ported 27 1 27) ∧
    ((∃ p ∈ vecSlides, p.1 3 1 2 0 = .vslup 3 1 2 0) ∧ PortsReady (vec 0x08 [(1, 1)]) [2] [1] [] [3] ∧ TagsAgree (vec 0x08 [(1, 1)]) 1) ∧
    (PortsReady ported [] [27] [] [3] ∧ TagsAgree ported 27) ∧
    (PortsReady (vec 0x01 [(1, 1)]) [2] [1] [0] [] ∧ TagsAgree (vec 0x01 [(1, 1)]) 1) ∧
    PortsReady (vec 0x0C [(26, 1)]) [1, 2] [] [] [] ∧ isVPort 26 = false := by
  refine ⟨⟨⟨_, List.mem_cons_self, rfl⟩, ?_⟩, ⟨⟨_, List.mem_cons_self, rfl⟩, ?_⟩, ?_⟩ <;> (try unfold VectorReady) <;> unfold PortsReady <;>
    unfold TagsAgree <;> decide +kernel

theorem witness_VectorReductionsAndCompare :
    (PortsReady (vec 0x07 [(1, 200)]) [] [1] [] [3] ∧ TagsAgree (vec 0x07 [(1, 200)]) 1 ∧
      isIntOrFloat (tagClass (valueV (vec 0x07 [(1, 200)]) 1).tag) = true ∧ tagClass (valueV (vec 0x07 [(1, 200)]) 1).tag = .int 8 false) ∧
    PortsReady (vec 0x0B [(1, 1), (2, 1)]) [] [1, 2] [] [] ∧ TagsAgree (vec 0x0B [(1, 1), (2, 1)]) 1 ∧
      TagsAgree (afterV (vec 0x0B [(1, 1), (2, 1)]) 1) 2 ∧ isIntOrFloat (tagClass 0x0B) = true ∧
      (valueV (vec 0x0B [(1, 1), (2, 1)]) 1).tag = 0x0B ∧ (valueV (afterV (vec 0x0B [(1, 1), (2, 1)]) 1) 2).tag = 0x0B := by
  unfold PortsReady TagsAgree
  decide +kernel

theorem witness_VectorConversions :
    (PortsReady (vec 0x0A [(1, 1)]) [] [1] [] [3] ∧ TagsAgree (vec 0x0A [(1, 1)]) 1 ∧ tagClass (valueV (vec 0x0A [(1, 1)]) 1).tag ≠ .none) ∧
    (PortsReady (vec 0x02 [(1, 1)]) [2] [1] [] [3] ∧ TagsAgree (vec 0x02 [(1, 1)]) 1 ∧ shrn8Tag (valueV (vec 0x02 [(1, 1)]) 1).tag = some 0x06 ∧
      shrn16Tag (valueV (vec 0x02 [(1, 1)]) 1).tag = some 0x04) ∧
    PortsReady (vec 0x16 [(1, 1)]) [] [1] [] [] ∧ (valueV (vec 0x16 [(1, 1)]) 1).tag = 0x16 ∧ (valueV (vec 0x16 [(1, 1)]) 1).tag ≠ 0x15 := by
  unfold PortsReady TagsAgree
  decide +kernel

/-- A port whose two words carry different tags. -/
def tornPort : State := withPort (app 0 []) [{ data := 1, side := 6 }, { data := 2, side := 7 }]

theorem witness_Retag : (PortsReady ported [] [27] [] [3] ∧ TagsAgree ported 27) ∧ (PortsReady tornPort [] [27] [] [27] ∧ ¬ TagsAgree tornPort 27) ∧
    wellFormed (.vtag 3 1 0x16) = true ∧ wellFormed (.vtag 3 1 0x17) = false := by
  unfold PortsReady TagsAgree
  decide

theorem witness_MaskForms : (∃ p ∈ maskBinary, p.1 1 2 3 = .kand 1 2 3) ∧ PortsReady ported [24] [] [] [] ∧ PortsReady ported [] [] [24] [] ∧
    (7 : MReg) ≠ 0 := by
  refine ⟨⟨_, List.mem_cons_self, rfl⟩, ?_⟩
  unfold PortsReady
  decide

theorem witness_ScalarFloatForms : PortsReady ported [24, 24] [] [24] [] ∧ PortsReady ported [24] [] [0] [] ∧
    (PortsReady (app 0 []) [1, 2] [] [] [] ∧ isGPort 31 = false) ∧ (∃ p ∈ floatBinary, p.1 3 1 2 7 = .fadd 3 1 2 7) ∧
    ∃ p ∈ floatCompare, p.1 3 1 2 = .feq 3 1 2 := by
  refine ⟨?_, ?_, ?_, ⟨_, List.mem_cons_self, rfl⟩, ⟨_, List.mem_cons_self, rfl⟩⟩ <;> unfold PortsReady <;> decide

/-- An instruction that retired has a next state. -/
theorem retired_next {i : Instr} {s : State} (h : Retired s (after i s)) : ∃ t, exec i s = .next t ∧ Retired s t := by
  refine ⟨after i s, ?_, h⟩
  revert h
  unfold after
  cases exec i s with
  | next t => intro _; rfl
  | fault => intro h; simp [Retired, me] at h
  | refused => intro h; simp [Retired, me] at h

/-- An instruction that answers a next state. -/
theorem next_of {i : Instr} {s : State} (h : (match exec i s with | .next _ => true | _ => false) = true) : ∃ t, exec i s = .next t := by
  cases h' : exec i s with
  | next t => exact ⟨t, rfl⟩
  | fault => simp [h'] at h
  | refused => simp [h'] at h

theorem witness_RegisterFormFrames :
    (∀ i ∈ [Instr.clz 3 1, .movz 3 1 2, .lui 3 5, .srai 3 1 63, .bfi 3 1 0 63, .addpc 3 1, .j 1, .jal 1, .jr 0, .jalr 3 0, .loop 5 1],
      ∃ t, exec i (sys []) = .next t ∧ Retired (sys []) t) ∧
    (∀ i ∈ [Instr.vslup 3 1 2 0, .vcmprs 3 1 0, .vsel 3 1 2 0, .vins 3 1 2, .vfma 3 1 2 0 4, .vdot4 3 1 2 0 4, .vcvt 3 1 0x0A 0 0 0,
        .vshrn16 3 1 2 0 0 0, .vtag 3 1 0x16], ∃ t, exec i (vec 0x02 [(1, 1), (2, 1)]) = .next t) ∧
    (∀ i ∈ [Instr.vext 3 1 2, .fmin 3 1 2, .fle 3 1 2, .fsqrt 3 1 0, .fcvt 3 1 2 0, .fma 3 1 2 0, .kpopc 3 1, .kmovhFromMask 3 0],
      ∃ t, exec i (sys []) = .next t ∧ Retired (sys []) t) ∧
    ((∃ t, exec (.vcmp 2 1 2 0 1) (vec 0x06 []) = .next t) ∧ (∃ t, exec (.kmovlToMask 2 1) (sys []) = .next t) ∧
      (∃ t, exec (.vtchk 1 0x06) (vec 0x06 [(1, 1)]) = .next t) ∧ ∃ t, exec (.vredsum 3 1 0) (vec 0x06 [(1, 1)]) = .next t) ∧
    (∃ p ∈ intTable, ∃ t, exec (p.1 3 1 2) (sys []) = .next t ∧ Retired (sys []) t) ∧
    (∃ p ∈ immTable, ∃ t, exec (p.1 3 1 5) (sys []) = .next t ∧ Retired (sys []) t) ∧
    (∃ p ∈ branchTable, ∃ t, exec (p.1 1 2 5) (sys []) = .next t ∧ Retired (sys []) t) ∧
    (∃ p ∈ vecBinary, ∃ t, exec (p.1 3 1 2 0) (vec 0x06 [(1, 1), (2, 1)]) = .next t ∧ Retired (vec 0x06 [(1, 1), (2, 1)]) t) ∧
    (∃ p ∈ vecUnary, ∃ t, exec (p.1 3 1 0) (vec 0x06 [(1, 1)]) = .next t ∧ Retired (vec 0x06 [(1, 1)]) t) ∧
    (∃ p ∈ vecMoves, ∃ t, exec (p.1 3 1 2 0) (vec 0x06 [(1, 1)]) = .next t ∧ Retired (vec 0x06 [(1, 1)]) t) ∧
    (∃ p ∈ maskBinary, ∃ t, exec (p.1 3 1 2) (sys []) = .next t ∧ Retired (sys []) t) ∧
    ∃ p ∈ floatBinary, ∃ t, exec (p.1 3 1 2 7) (sys []) = .next t ∧ Retired (sys []) t := by
  refine ⟨fun i hi => retired_next ?_, fun i hi => next_of ?_, fun i hi => retired_next ?_, ⟨next_of ?_, next_of ?_, next_of ?_, next_of ?_⟩,
    ⟨_, List.mem_cons_self, retired_next ?_⟩, ⟨_, List.mem_cons_self, retired_next ?_⟩,
    ⟨_, List.mem_cons_self, retired_next ?_⟩, ⟨_, List.mem_cons_self, retired_next ?_⟩, ⟨_, List.mem_cons_self, retired_next ?_⟩, ⟨_, List.mem_cons_self, retired_next ?_⟩,
    ⟨_, List.mem_cons_self, retired_next ?_⟩, ⟨_, List.mem_cons_self, retired_next ?_⟩⟩ <;> (try unfold Retired)
  · revert i; decide +kernel
  · revert i; decide +kernel
  · revert i; decide +kernel
  all_goals decide +kernel

/-- A cached translation that permits the access is a hit. -/
theorem hit_of {s : State} {va : Nat} {w : Bool} {e : TlbEntry}
    (h : (cacheLookup s s.cur.core (me s).func va w false (!modeSys (me s))).2 = some e) :
    Hit s (cacheLookup s s.cur.core (me s).func va w false (!modeSys (me s))).1 va w e := pair_some h

/-- A coherent read that gives bytes. -/
theorem coh_of {s : State} {e : TlbEntry} {pa n : Nat} {l : List Byte}
    (h : let x := performLine s s.cur pa; (cohRead x (whoThread x x.cur) pa n e.t).2 = some l) :
    CohReads s e pa n l (let x := performLine s s.cur pa; (cohRead x (whoThread x x.cur) pa n e.t).1) := pair_some h

/-- A plain load of a global address through a cached translation. -/
theorem page_load {s : State} {ea : Word} {n : Nat} {l : List Byte} (e : TlbEntry) (hg : isGlobal ea = true) (hd : s.defer = false)
    (h : (cacheLookup s s.cur.core (me s).func ea.toNat false false (!modeSys (me s))).2 = some e)
    (hl : let u := (cacheLookup s s.cur.core (me s).func ea.toNat false false (!modeSys (me s))).1
      let t := noticeErrors u (me u).part (tlbPa e ea.toNat) n e.t
      plainRead t t.cur e ea.toNat n = some l) (hn : l.length = n) : ∃ t, LoadReady s ea n l t :=
  ⟨_, hn, .inr ⟨hg, .inl hd, _, e, hit_of h, rfl, hl⟩⟩

/-- A global address of the cached page, and the registers of channel 1 of the memory tile beside core 0. -/
def vaWord : Word := 0x10000008
def chanWord : Word := 0xFF30010000000040
def tileWord : Word := 0xFF10010000000000

theorem witness_ScalarLoads :
    PortsReady (app 0 [(4, pad)]) [4] [] [5] [] ∧
    (pad.toNat % 2 ^ (3#2).toNat = 0 ∧ ¬ (isLocal pad = true ∧ localKind pad = 3) ∧
      ∃ l, Loads (app 0 [(4, pad)]) pad 8 l (app 0 [(4, pad)])) ∧
    (vaWord.toNat % 2 ^ (3#2).toNat = 0 ∧ ¬ (isLocal vaWord = true ∧ localKind vaWord = 3) ∧
      ∃ l t, LoadReady (app 0 [(4, vaWord)]) vaWord 8 l t) ∧
    (isLocal chanWord = true ∧ localKind chanWord = 3 ∧
      resolve (app 0 [(4, chanWord)]) (app 0 []).cur chanWord 8 = .loc (.regs 1) 64 ∧ Answered (app 0 [(4, chanWord)])) ∧
    (isGlobal vaWord = true ∧ ∃ w t l, Hit (app 0 [(4, vaWord)]) w vaWord.toNat false page ∧
      CohReads w page (tlbPa page vaWord.toNat) 8 l t ∧ l.length = 8) := by
  refine ⟨by unfold PortsReady; decide, ⟨by decide, by decide, List.replicate 8 0, pad_loads 256 (by decide) (by decide) (by decide) (by decide)⟩,
    ⟨by decide, by decide, List.replicate 8 0, page_load page (by decide) (by decide) (by decide +kernel) (by decide +kernel) (by decide)⟩,
    ⟨by decide, by decide, by decide +kernel, .inl (by decide)⟩,
    ⟨by decide, _, _, List.replicate 8 0, hit_of (by decide +kernel), coh_of (by decide +kernel), by decide⟩⟩

theorem witness_ScalarStoresAndAccessTraps :
    (PortsReady (app 0 [(4, pad)]) [4, 5] [] [] [] ∧ pad.toNat % 4 = 0 ∧ ¬ (isLocal pad = true ∧ localKind pad = 3) ∧
      ∃ t, StoreReady (app 0 [(4, pad)]) pad (toBytes 4 5) 0 t) ∧
    (PortsReady (app 0 [(4, vaWord)]) [4, 5] [] [] [] ∧ isGlobal vaWord = true ∧ ∃ u, Hit (app 0 [(4, vaWord)]) u vaWord.toNat true page) ∧
    (isLocal chanWord = true ∧ localKind chanWord = 3 ∧ resolve (app 1 []) (app 1 []).cur chanWord 8 = .loc (.regs 1) 64 ∧
      InSys (app 1 []) ∧ resolve (app 0 []) (app 0 []).cur chanWord 8 = .loc (.regs 1) 64 ∧ ¬ InSys (app 0 [])) ∧
    (pad + 1).toNat % 2 ≠ 0 ∧ PortsReady (app 0 [(4, pad + 1)]) [4] [] [5] [] ∧
    (isLocal 0x0200000000000000 = false ∧ isGlobal 0x0200000000000000 = false) ∧ chanWord.toNat % 4 = 0 ∧ (2 : BitVec 2) ≠ 3 := by
  refine ⟨⟨by unfold PortsReady; decide, by decide, by decide, _, pad_store 256 (by decide) (by decide)⟩,
    ⟨by unfold PortsReady; decide, by decide, _, hit_of (by decide +kernel)⟩, ?_, ?_⟩ <;>
    (try unfold InSys) <;> (try unfold PortsReady) <;> decide +kernel

/-- The page is a ring page that a locked interface froze. -/
def ringHeld : State := modPart (app 0 []) 0 fun p => { p with ringPages := [(1, [0x100000000])] }

theorem witness_StoreFrame :
    (LocalRange (app 0 []) pad 4 (.scratch 0) 256 ∧ ∃ t, StoreReady (app 0 []) pad (toBytes 4 7) 0 t) ∧
    (isGlobal vaWord = true ∧ (∃ u, Hit (app 0 []) u vaWord.toNat true page) ∧ page.t = false ∧ (me (app 0 [])).reds = [] ∧
      ownControl (whoThread (app 0 []) (app 0 []).cur) (tlbPa page vaWord.toNat) = none ∧ (toBytes 64 7).length ≤ 64 ∧
      ∀ i, i < 64 → ringFrozen (app 0 []) (tlbPa page vaWord.toNat + i) = false) ∧
    ((∃ u, Hit ringHeld u vaWord.toNat true page) ∧ ∀ i, i < 64 → ringFrozen ringHeld (tlbPa page vaWord.toNat + i) = true) := by
  refine ⟨⟨pad_range 256 (by decide) (by decide), _, pad_store 256 (by decide) (by decide)⟩,
    ⟨by decide, ⟨_, hit_of (by decide +kernel)⟩, by decide +kernel⟩, ⟨_, hit_of (by decide +kernel)⟩, by decide +kernel⟩

/-- A state whose vectors have lanes at the scratchpad and whose index vector names elements 0. -/
def vecAt (t : Tag) : State := modThread (vec t [(1, 0), (2, 0), (3, 9)]) {} fun x => gWrite x 4 pad

/-- One piece after another of the own scratchpad. -/
theorem pad_all {s : State} {l : List (Word × Nat)} (h : ∀ q ∈ l, isLocal q.1 = true ∧
      resolve s s.cur q.1 q.2 = .loc (.scratch s.cur.core) 256 ∧ localRead s (.scratch s.cur.core) 256 q.2 = some (List.replicate q.2 0)) :
    ∃ b, LoadsAll s l b s := by
  induction l with
  | nil => exact ⟨[], rfl, rfl⟩
  | cons q rest ih =>
    obtain ⟨b, hb⟩ := ih fun r hr => h r (List.mem_cons_of_mem _ hr)
    have hq := h q List.mem_cons_self
    exact ⟨List.replicate q.2 0 ++ b, _, b, s, rfl, pad_load 256 hq.1 hq.2.1 hq.2.2 (by simp), hb⟩

theorem witness_VectorLoads :
    (PortsReady (vecAt 0x0A) [4] [] [] [5] ∧ vectorEa pad 0 = pad ∧ pad.toNat % vecAlign 0x0A = 0 ∧
      runsSpan (enabledRuns (byteEnabled 0x0A (kValue (me (vecAt 0x0A)) 0).toNat) (vecBytes 0x0A)) = (0, 64) ∧
      RangeOk (vecAt 0x0A) (pad + BitVec.ofNat 64 0) 64 ∧
      ∃ l, LoadsAll (vecAt 0x0A) ((enabledRuns (byteEnabled 0x0A (kValue (me (vecAt 0x0A)) 0).toNat) (vecBytes 0x0A)).flatMap fun r =>
        pagePieces (pad + BitVec.ofNat 64 r.1) r.2) l (vecAt 0x0A)) ∧
    (runsSpan (enabledRuns (byteEnabled 0x0A (kValue (me (vecAt 0x0A)) 1).toNat) (vecBytes 0x0A))).2 = 0 ∧
    (PortsReady (vecAt 0x0A) [4, 0] [] [] [5] ∧ PortsReady (vecAt 0x02) [4] [1] [] [5] ∧ TagsAgree (vecAt 0x02) 1 ∧
      isIntClass (tagClass (valueV (vecAt 0x02) 1).tag) = true ∧ tagLanes 0x0A ≤ tagLanes (valueV (vecAt 0x02) 1).tag) ∧
    (∀ j ∈ enabledElems 0x0A (kValue (me (vecAt 0x02)) 0).toNat, strideAddr pad 0 j = pad ∧
      indexAddr pad 4 (valueV (vecAt 0x02) 1) j = pad) ∧
    (pad.toNat % elemBytes 0x0A = 0 ∧ RangeOk (vecAt 0x02) pad 4) ∧
    (∃ l, LoadsAll (vecAt 0x02) ((enabledElems 0x0A (kValue (me (vecAt 0x02)) 0).toNat).map fun _ => (pad, 4)) l (vecAt 0x02)) ∧
    (PortsReady (app 0 [(4, pad + 1)]) [4] [] [] [5] ∧ (vectorEa (pad + 1) 0).toNat % vecAlign 0x0A ≠ 0 ∧
      0 ∈ enabledElems 0x0A (kValue (me (app 0 [(4, pad + 1)])) 0).toNat ∧ (strideAddr (pad + 1) 0 0).toNat % elemBytes 0x0A ≠ 0) := by
  refine ⟨⟨by unfold PortsReady; decide, by decide, by decide, by decide +kernel, fun _ => ⟨_, _, pad_range 256 (by decide) (by decide)⟩,
      pad_all (by decide +kernel)⟩, by decide +kernel, ?_, by decide +kernel,
    ⟨by decide, fun _ => ⟨_, _, pad_range 256 (by decide) (by decide)⟩⟩, pad_all (by decide +kernel), ?_⟩
  · unfold PortsReady TagsAgree
    decide +kernel
  · unfold PortsReady
    decide +kernel

theorem witness_VectorStores :
    (PortsReady (vecAt 0x0A) [4] [3] [] [] ∧ TagsAgree (afterG (vecAt 0x0A) 4) 3 ∧ (valueV (vecAt 0x0A) 3).tag = 0x0A ∧
      prog (vecAt 0x0A) = 0 ∧ RangeOk (vecAt 0x0A) pad 64 ∧
      vstStores pad 0x0A (valueV (vecAt 0x0A) 3) (kValue (me (vecAt 0x0A)) 0).toNat 0 =
        [(pad, toImage 0x0A (valueV (vecAt 0x0A) 3), 0)] ∧
      ∃ t, StoresAll (vecAt 0x0A) [(pad, toImage 0x0A (valueV (vecAt 0x0A) 3), 0)] t) ∧
    (PortsReady (vecAt 0x0A) [4, 0] [3] [] [] ∧ TagsAgree (afterG (afterG (vecAt 0x0A) 4) 0) 3 ∧
      kValue (me (vecAt 0x0A)) 1 = 0 ∧ enabledElems 0x0A 0 = [] ∧ ∃ t, StoresAll (vecAt 0x0A) [] t) ∧
    (PortsReady (vecAt 0x02) [4] [1, 3] [] [] ∧ TagsAgree (afterG (vecAt 0x02) 4) 1 ∧ TagsAgree (afterV (afterG (vecAt 0x02) 4) 1) 3 ∧
      isIntClass (tagClass (valueV (vecAt 0x02) 1).tag) = true ∧ (valueV (vecAt 0x02) 3).tag = 0x02 ∧
      indexAddr pad 4 (valueV (vecAt 0x02) 1) 15 = pad ∧ pad.toNat % elemBytes 0x02 = 0 ∧
      ∃ t, StoresAll (vecAt 0x02) [(pad, toBytes 4 9, 0), (pad, toBytes 4 9, 0)] t) ∧
    ((vectorEa (pad + 1) 0).toNat % vecAlign 0x0A ≠ 0 ∧ (strideAddr pad 2 1).toNat % elemBytes 0x0A ≠ 0 ∧
      ∀ x ∈ enabledElems 0x0A (kValue (me (vecAt 0x0A)) 0).toNat, x < 1 → (strideAddr pad 2 x).toNat % elemBytes 0x0A = 0) := by
  refine ⟨⟨by unfold PortsReady; decide, by unfold TagsAgree; decide +kernel, by decide +kernel, by decide, fun _ => ⟨_, _, pad_range 256 (by decide) (by decide)⟩,
      by decide +kernel, _, _, pad_store 256 (by decide) (by decide +kernel), rfl⟩,
    ⟨by unfold PortsReady; decide, by unfold TagsAgree; decide +kernel, by decide +kernel, by decide +kernel, _, rfl⟩,
    ⟨by unfold PortsReady; decide, by unfold TagsAgree; decide +kernel, by unfold TagsAgree; decide +kernel, by decide +kernel, by decide +kernel, by decide +kernel, by decide,
      _, _, pad_store 256 (by decide) (by decide), _, pad_store 256 (by decide) (by decide +kernel), rfl⟩, by decide +kernel⟩

theorem witness_MultipleTransfers :
    (PortsReady (app 0 [(4, pad)]) [4] [] [] [] ∧ pad.toNat % 64 = 0 ∧ rangeFrom (prog (app 0 [])) 3 4 = [0, 1] ∧ rangeCount 3 4 = 2 ∧
      RangeOk (app 0 [(4, pad)]) pad (8 * 2) ∧ RangeOk (app 0 [(4, pad)]) pad (64 + 64 * 1) ∧ rangeFrom 0 5 5 = [0] ∧ rangeCount 5 5 = 1) ∧
    (∃ t, Spilled pad 3 [0, 1] (app 0 [(4, pad)]) t) ∧ (∃ t, Refilled pad 5 [0] (app 0 [(4, pad)]) t) ∧
    (∃ t, VSpilled pad 5 [0] (app 0 [(4, pad)]) t) ∧ (∃ t, VRefilled pad 5 [0] (app 0 [(4, pad)]) t) ∧
    (pad + 4).toNat % 8 ≠ 0 ∧ (pad + 8).toNat % 64 ≠ 0 := by
  refine ⟨⟨by unfold PortsReady; decide, by decide, by decide, by decide, fun _ => ⟨_, _, pad_range 256 (by decide) (by decide)⟩,
      fun _ => ⟨_, _, pad_range 256 (by decide) (by decide)⟩, by decide, by decide⟩,
    ⟨_, _, pad_store 256 (by decide) (by decide), _, pad_store 264 (by decide) (by decide +kernel), rfl⟩,
    ⟨_, List.replicate 8 0, _, pad_loads 256 (by decide) (by decide) (by decide) (by decide), rfl⟩,
    ⟨_, _, _, pad_store 256 (by decide) (by decide), pad_store 320 (by decide) (by decide +kernel), rfl⟩,
    ⟨_, List.replicate 65 0, _,
      ⟨[0], List.replicate 64 0, _, rfl, pad_load 256 (by decide) (by decide) (by decide) (by decide),
        List.replicate 64 0, [], _, rfl, pad_load 320 (by decide) (by decide) (by decide) (by decide), rfl, rfl⟩, by decide, rfl⟩,
    by decide⟩

/-- A thread whose local frame area is 1,024 bytes at 256, with a top frame given by g30. -/
def framed (g : Word) : State := appWith 0 [(4, 64), (30, g)] fun x => { x with bivbase := 256, bivlimit := 1280, bivovf := vaWord }

/-- The first address above that area. -/
def topWord : Word := 0xFF00000000000500

theorem witness_FrameForms :
    (PortsReady (framed 256) [4] [] [] [] ∧ ¬ (valueG (app 0 [(4, 65)]) 4).toNat % 64 = 0) ∧
    ((64 : Word).toNat % 64 = 0 ∧ (256 : Word).toNat < 2 ^ 18 ∧ ∃ t, FrameOpened (framed 256) pad 64 t) ∧
    (isLocal pad = true ∧ fieldOf pad 55 39 = 0 ∧ (me (framed pad)).bivbase.toNat ≤ fieldOf pad 38 0 ∧
      fieldOf pad 38 0 < (me (framed pad)).bivlimit.toNat ∧ Loads (framed pad) (pad + 8) 8 (List.replicate 8 0) (framed pad) ∧
      ∃ t, FrameOpened (framed pad) pad 64 t) ∧
    (isGlobal vaWord = true ∧ 2 ^ 18 ≤ vaWord.toNat ∧ ∃ u e, Hit (framed vaWord) u vaWord.toNat true e) ∧
    ((isGlobal 0x0200000000000000 = false ∧ isLocal 0x0200000000000000 = false) ∧ (isGlobal chanWord = false ∧ localKind chanWord ≠ 0) ∧
      isGlobal topWord = false ∧ (me (framed topWord)).bivlimit.toNat ≤ fieldOf topWord 38 0) ∧
    ((3 : Word).toNat < 2 ^ 18 ∧ 2 ^ 18 ≤ pad.toNat ∧ Loads (framed pad) pad 8 (List.replicate 8 0) (framed pad)) := by
  refine ⟨⟨by unfold PortsReady; decide, by decide⟩,
    ⟨by decide, by decide, _, _, _, pad_store 256 (by decide) (by decide), pad_store 264 (by decide) (by decide +kernel), rfl⟩,
    ⟨by decide, by decide, by decide, by decide, pad_loads 264 (by decide) (by decide) (by decide) (by decide),
      _, _, _, pad_store 256 (by decide) (by decide), pad_store 264 (by decide) (by decide +kernel), rfl⟩,
    ⟨by decide, by decide, _, page, hit_of (by decide +kernel)⟩, by decide +kernel,
    by decide, by decide, pad_loads 256 (by decide) (by decide) (by decide) (by decide)⟩

theorem witness_AtomicForms :
    (PortsReady (app 0 [(4, pad)]) [4, 5] [] [6] [] ∧ PortsReady ported [24, 24] [] [24] [] ∧ PortsReady (app 0 []) [4, 5, 6] [] [6] []) ∧
    (pad.toNat % atomicBytes 3 = 0 ∧ ∃ old t, AtomicDone (app 0 [(4, pad)]) pad (atomicBytes 3) (fun old => some old) old t) ∧
    (vaWord.toNat % 4 = 0 ∧ ∃ old t, AtomicDone (app 0 [(4, vaWord)]) vaWord 4 (fun _ => none) old t) ∧
    (LocalRange (app 0 []) pad 4 (.scratch 0) 256 ∧ localKind pad ≤ 2 ∧ localRead (app 0 []) (.scratch 0) 256 4 = some [0, 0, 0, 0]) ∧
    (isGlobal vaWord = true ∧ ∃ w, Hit (app 0 []) w vaWord.toNat true page) ∧ (pad + 2).toNat % atomicBytes 2 ≠ 0 ∧
    (2 ^ 32 - 1 < 2 ^ (8 * 4) ∧ 2 ^ 64 - 1 < 2 ^ (8 * 8)) := by
  refine ⟨by unfold PortsReady; decide, ⟨by decide, _, _, .inl ⟨_, _, List.replicate 8 0, pad_range 256 (by decide) (by decide), by decide, .inl rfl, by decide, rfl, rfl⟩⟩,
    ⟨by decide, _, _, .inr ⟨by decide, .inl (by decide), _, page, _, List.replicate 4 0, hit_of (by decide +kernel), coh_of (by decide +kernel), rfl, rfl⟩⟩,
    ⟨pad_range 256 (by decide) (by decide), by decide, by decide⟩, ⟨by decide, _, hit_of (by decide +kernel)⟩, by decide, by decide⟩

/-- A line-aligned global address of the page, threads in the middle of a WAITA, and a slice without a free monitor. -/
def vaLine : Word := 0x10000040
def woken : State := appWith 0 [] fun x => { x with wait := .woken 1 }
def crowded : State :=
  { app 0 [(4, vaWord)] with
    slices := [(homeKey (app 0 []) 0 (tlbPa page vaWord.toNat), { monitors := (List.range 128).map fun i => { va := 64 * i } })] }

theorem witness_FenceAndLineForms :
    ((7 : BitVec 4) = 7 ∧ InSys (sys []) ∧ fenceWaits (performAll (sys []) (sys []).cur) (performAll (sys []) (sys []).cur).cur 7 = false) ∧
    (PortsReady (app 0 []) [4, 5] [] [] [] ∧ pad.toNat % 64 = 0 ∧ vaLine.toNat % 64 = 0 ∧ localKind pad ≤ 2 ∧ isGlobal vaLine = true ∧
      LocalRange (app 0 []) pad (64 * (0 + 1)) (.scratch 0) 256 ∧ LocalRange (app 0 []) pad (64 * (15 + 1)) (.scratch 0) 256 ∧
      (∃ t, LinesMoved GotLine pad vaLine [0] (app 0 []) t) ∧ ∃ t, LinesMoved PutLine pad vaLine [0] (app 0 []) t) ∧
    (PortsReady woken [4, 5] [] [6] [] ∧ (me woken).wait = .woken 1) ∧
    ((me (app 0 [])).wait = .none ∧ (vaWord + 4).toNat % 8 ≠ 0 ∧ pad.toNat % 8 = 0 ∧ isGlobal pad = false) ∧
    (vaWord.toNat % 8 = 0 ∧ isGlobal vaWord = true ∧ (∃ w t, Hit (app 0 []) w vaWord.toNat false page ∧
      CohReads w page (tlbPa page vaWord.toNat) 8 (List.replicate 8 0) t ∧ wordOf (List.replicate 8 0) = 0 ∧ (0 : Word) ≠ 1) ∧
      takeMonitor crowded 0 vaWord.toNat (tlbPa page vaWord.toNat) 0 crowded.cur = none ∧
      (takeMonitor (app 0 []) 0 vaWord.toNat (tlbPa page vaWord.toNat) 0 (app 0 []).cur).isSome = true ∧ isGPort 4 = false) := by
  refine ⟨⟨by decide, by unfold InSys; decide, by decide +kernel⟩,
    ⟨by unfold PortsReady; decide, by decide, by decide, by decide, by decide, pad_range 256 (by decide) (by decide), pad_range 256 (by decide) (by decide),
      ⟨_, _, ⟨by decide, .inl (by decide), _, page, List.replicate 64 0, _, hit_of (by decide +kernel), coh_of (by decide +kernel),
        pad_store 256 (by decide) (by decide +kernel)⟩, rfl⟩,
      ⟨_, _, ⟨by decide, List.replicate 64 0, _, _, page, pad_load 256 (by decide) (by decide) (by decide) (by decide), .inl (by decide),
        hit_of (by decide +kernel), rfl⟩, rfl⟩⟩,
    ⟨by unfold PortsReady; decide, by decide⟩, by decide,
    ⟨by decide, by decide, ⟨_, _, hit_of (by decide +kernel), coh_of (by decide +kernel), by decide, by decide⟩, by decide +kernel, by decide +kernel,
      by decide⟩⟩

/-- One store of a whole line to HBM4E waits to be performed. -/
def storing : State := appWith 0 [] fun x => { x with stores := [{ pa := 0x100000000040, bytes := List.replicate 64 7 }] }

theorem witness_StoreReachesMemory :
    ∃ p, (me storing).stores = [p] ∧ (me storing).reds = [] ∧ p.moving = false ∧ p.skip = 0 ∧ p.bytes ≠ [] ∧
      p.pa / 64 = (p.pa + p.bytes.length - 1) / 64 ∧ controlBlock p.pa = none ∧ populated storing (me storing).part p.pa = true ∧
      ringFrozen storing p.pa = false ∧ p.reached = none ∧ gateLine storing (dieOf storing.cur.core) p.pa = [] :=
  ⟨_, rfl, by decide, by decide, by decide, by decide, by decide, by decide, by decide, by decide, by decide, by decide⟩

/-- A memory tile whose channel 1 is bound, and a descriptor of 16 bytes from the scratchpad to the cached page. -/
def copying (mode : Word) (l : List (Reg × Word)) : State :=
  let s := app mode l
  let d : List Byte := toBytes 8 pad.toNat ++ toBytes 8 vaWord.toNat ++ toBytes 4 16 ++ [1, 0, 0, 0]
  localWrite { s with tiles := [(1, { pers := { chmask := 2 } })] } (.scratch 0) 256 d

/-- The same with an MMA of register operands as follow-on, and the licence held. -/
def fused : State :=
  let s := app 0 [(4, pad), (5, chanWord), (6, pad), (7, pad)]
  let w := encode (.mma 0 6 7 0 0 0 0 0 0 0 0)
  let d : List Byte := toBytes 8 pad.toNat ++ toBytes 8 vaWord.toNat ++ toBytes 4 16 ++ [1, 1, 0, 0] ++ toBytes 4 (w.headD 0).toNat ++ toBytes 4 (w.getD 1 0).toNat
  localWrite { s with tiles := [(1, { pers := { chmask := 2 } })], pairs := [(0, { holder := 1 })] } (.scratch 0) 256 d

/-- What a load of the scratchpad gives in such a state. -/
def padBytes (s : State) (n : Nat) : List Byte := memRead (getCore s 0).scratch.cells 256 n

theorem witness_CopyForms :
    (InSys (app 1 [(4, pad), (5, tileWord)]) ∧ PortsReady (app 1 [(4, pad), (5, tileWord)]) [4, 5] [] [] [] ∧
      tileOf (app 1 [(4, pad), (5, tileWord)]) tileWord = some 1 ∧
      Loads (app 1 [(4, pad), (5, tileWord)]) pad 64 (List.replicate 64 0) (app 1 [(4, pad), (5, tileWord)]) ∧
      (parsePersonality (List.replicate 64 0)).isSome = true ∧ channelsIdle (getTile (app 1 []) 1) = true ∧
      ∀ r, threadRegion (app 1 []) (app 1 []).cur = some r → (segmentOf r (stackOf (dieOf 1))).running = false) ∧
    (InSys (copying 1 []) ∧ Loads (copying 1 []) pad 64 (padBytes (copying 1 []) 64) (copying 1 []) ∧
      parsePersonality (padBytes (copying 1 []) 64) = none) ∧
    (pad.toNat % 128 = 0 ∧ channelOf (copying 0 []) (copying 0 []).cur chanWord = some (1, 1) ∧
      Loads (copying 0 []) pad 128 (padBytes (copying 0 []) 128) (copying 0 []) ∧
      (∃ d, parseDesc (padBytes (copying 0 []) 128) = some d ∧ (d.tag = 0 ∧ sideOk (copying 0 []) {} d.src d d.sstrides = true ∧
        sideOk (copying 0 []) {} d.dst d d.dstrides = true ∧ d.follow = false)) ∧
      heldForChannel (copying 0 []) {} chanWord = false ∧ channelRoom (copying 0 []) 1 1 = true ∧
      (1#4).getLsbD (qcoreOf (copying 0 []).cur.core) = true) ∧
    (∃ d, parseDesc (padBytes fused 128) = some d ∧ (d.tag = 0 ∧ d.follow = true ∧ heldForChannel fused {} chanWord = false ∧
      (match followOn pad d fused with
       | .ok p => !heldForChannel p.2 {} chanWord && channelRoom p.2 1 1
       | .error _ => false) = true)) ∧
    (channelOf (app 0 []) (app 0 []).cur chanWord = none ∧ pad.toNat % 128 = 0) ∧
    ((0 : Word).toNat ≤ (getChan (copying 0 []) 1 1).wptr.toNat ∧ (getChan (copying 0 []) 1 1).wptr.toNat < (1 : Word).toNat) ∧
    PortsReady (copying 0 []) [4] [] [6] [] := by
  refine ⟨⟨by unfold InSys; decide, by unfold PortsReady; decide, by decide, pad_loads 256 (by decide) (by decide) (by decide) (by decide), by decide +kernel,
      by decide, fun r h => ?_⟩,
    ⟨by unfold InSys; decide +kernel, pad_loads 256 (by decide) (by decide +kernel) (by decide +kernel) (by decide +kernel), by decide +kernel⟩,
    ⟨by decide, by decide +kernel, pad_loads 256 (by decide) (by decide +kernel) (by decide +kernel) (by decide +kernel), some_of (by decide +kernel),
      by decide +kernel, by decide +kernel, by decide⟩, some_of (by decide +kernel), by decide +kernel, by decide +kernel, by unfold PortsReady; decide +kernel⟩
  have : threadRegion (app 1 []) (app 1 []).cur = some area := by decide +kernel
  rw [this] at h
  cases h
  decide

/-- A core with a user message in channel 3. -/
def messaged : State := modCore (app 0 [(4, 3)]) 0 fun c => { c with recv := [(3, [9])] }

theorem witness_NetworkForms :
    (PortsReady (app 0 []) [] [] [0] [] ∧ PortsReady (sys []) [] [] [5] [] ∧ isService (sys []).cur.core = true ∧ isService (app 0 []).cur.core = false ∧
      (amGet (getSwitch ported 0).recv 0 {}).words.length = 2 ∧ amGet (getCore messaged 0).recv 3 [] = [9]) ∧
    (PortsReady (app 0 [(4, 6)]) [4] [] [] [] ∧ wellFormed (.ptry 5 4 6) = true ∧ 5 < (valueG (app 0 [(4, 6)]) 4).toNat % 8) ∧
    ((valueG (app 0 [(4, 5)]) 4).toNat % 8 = 5 ∧ dirHeld (getCore (app 0 []) 0) 0 4 = false ∧
      fifoHead 0 (amGet (getSwitch (app 0 [(4, 5)]) 0).recv 4 {}) = none) ∧
    (dirHeld (getCore ported 0) 0 0 = false ∧ fifoHead ported.cycle (amGet (getSwitch ported 0).recv 0 {}) = some { data := 1 }) ∧
    (PortsReady (app 0 []) [4, 5] [] [] [] ∧ dsendTarget (threadRegion (app 0 []) {}) 0 = some 0 ∧ (getCore (app 0 []) 0).inject.length < 8 ∧
      dsendTarget (threadRegion (app 0 []) {}) 0x100 = none ∧ dsendTarget (threadRegion (sys []) (sys []).cur) 0 = none) ∧
    (PortsReady messaged [4] [] [5] [] ∧ amGet (getCore messaged messaged.cur.core).recv ((valueG messaged 4).toNat % 4) [] = 9 :: [] ∧
      drecvBehind messaged messaged.cur ((valueG messaged 4).toNat % 4)
        (drecvQueue messaged messaged.cur ((valueG messaged 4).toNat % 4)) = false) := by
  unfold PortsReady
  decide +kernel

/-- Threads that have arrived, and whose PHASE waits. -/
def arrived (l : Nat) (w : Wait) : State := appWith 0 [] fun x => { setPend x l true with wait := w }
def phasing : State := appWith 0 [] fun x => { x with wait := .phase 2 }

theorem witness_BelayForms :
    (levelOf 0 = 1 ∧ pendAt (me (app 0 [])) 1 = false) ∧
    (levelOf 1 = 2 ∧ pendAt (me (app 0 [])) 2 = false ∧ ∃ r, threadRegion (app 0 []) (app 0 []).cur = some r ∧
      (domTree (domainOf (me (app 0 [])) 2) < r.nt ∧
        entryIn (belayEntry r (quadIndex r 0) (domTree (domainOf (me (app 0 [])) 2))) (domGroup (domainOf (me (app 0 [])) 2)) = true)) ∧
    (levelOf 3 = 4 ∧ ∃ r, threadRegion (app 0 []) (app 0 []).cur = some r ∧
      ¬ entryIn (belayEntry r (quadIndex r 0) (domTree (domainOf (me (app 0 [])) 4))) (domGroup (domainOf (me (app 0 [])) 4)) = true) ∧
    (pendAt (me (arrived 4 .none)) 4 = true ∧ PortsReady (app 0 []) [] [] [5] [] ∧ (me (app 0 [])).wait ≠ .phase 1) ∧
    ((me (arrived 2 (.phase 2))).wait = .phase 2 ∧ pendAt (me (arrived 2 (.phase 2))) 2 = true) ∧
    ((me phasing).wait = .phase 2 ∧ pendAt (me phasing) 2 = false) ∧
    (PortsReady (app 0 []) [4] [] [] [] ∧ fieldOf (0xFFFF : Word) 63 24 = 0 ∧ fieldOf (0xFFFF : Word) 19 16 = 0 ∧ domTree 0xFFFF = 0 ∧
      domTree (0xFFFF : Word) < ((threadRegion (app 0 []) (app 0 []).cur).map (·.nt)).getD 0 ∧ fieldOf (0x1000000 : Word) 63 24 ≠ 0) ∧
    ∃ r, threadRegion (app 0 []) (app 0 []).cur = some r ∧ (fieldOf (0xFFFF0010 : Word) 63 32 = 0 ∧ fieldOf (0xFFFF0010 : Word) 15 5 = 0 ∧
      fieldOf (0xFFFF0010 : Word) 3 0 < r.nt ∧ treeBusy (app 0 []) r 0 0 = false) := by
  refine ⟨by decide, ⟨by decide, by decide, some_of (by decide +kernel)⟩, ⟨by decide, some_of (by decide +kernel)⟩, ?_, by decide, by decide, ?_,
    some_of (by decide +kernel)⟩ <;> unfold PortsReady <;> decide +kernel

/-- Core 0 holds its pair's licence, a command stands in the stream, or the upper twin holds it. -/
def licensed (l : List (Reg × Word)) : State := { app 0 l with pairs := [(0, { holder := 1 })] }
def taken : State := { app 0 [] with pairs := [(0, { holder := 2 })] }
def waitingFor (w : Wait) : State := appWith 0 [] fun x => { x with wait := w }

theorem witness_MatrixForms :
    (holdsLicence (licensed []) (threadRegion (licensed []) {}) 0 = true ∧ issueRoom (licensed []) (pairKey 0) = true) ∧
    (PortsReady (licensed [(4, pad), (5, pad)]) [4, 5, 0] [] [] [] ∧ pad.toNat % 64 = 0 ∧ localKind pad ≤ 2 ∧
      LocalRange (licensed [(4, pad), (5, pad)]) pad (operandA 0 0) (.scratch 0) 256 ∧
      LocalRange (licensed [(4, pad), (5, pad)]) pad (operandB 0 0) (.scratch 0) 256) ∧
    (PortsReady (licensed [(5, pad)]) [5, 6] [] [] [] ∧ LocalRange (licensed [(5, pad)]) pad (operandB 0 0) (.scratch 0) 256) ∧
    (PortsReady (licensed []) [] [3] [] [] ∧ TagsAgree (licensed []) 3 ∧
      mwrValues { bits := 0, tag := 0x0A } 1 = some (List.replicate 16 0) ∧ mwrValues { bits := 0, tag := 0x0B } 0 = some (List.replicate 32 0)) ∧
    (PortsReady (licensed [(4, pad)]) [4] [] [] [] ∧ LocalRange (licensed [(4, pad)]) pad ((511 + 1) * 64) (.scratch 0) 256) ∧
    followOnsDue (licensed []) (pairKey 0) = false ∧
    (holdsLicence (app 0 []) (threadRegion (app 0 []) {}) 0 = false ∧ PortsReady (app 0 []) [4, 5, 6] [3] [] [] ∧ TagsAgree (app 0 []) 3) ∧
    (hasArray (threadRegion (app 0 []) {}) = true ∧ PortsReady (app 0 []) [] [] [5] [] ∧ (getPair (licensed []) 0).holder = sideOf 0 ∧
      (me (waitingFor .licenceGranted)).wait = .licenceGranted) ∧
    ((getPair (app 0 []) 0).holder = 0 ∧ (me (app 0 [])).wait ≠ .licenceGranted ∧ CanGive (grantLicence (app 0 []) 0 (sideOf 0)) 5) ∧
    ((getPair taken 0).holder ≠ 0 ∧ (getPair taken 0).holder ≠ sideOf 0 ∧ (me taken).wait ≠ .licenceGranted ∧
      hasArray (threadRegion taken taken.cur) = true ∧ PortsReady taken [] [] [5] []) := by
  refine ⟨by decide +kernel, ⟨by unfold PortsReady; decide, by decide, by decide, pad_range 256 (by decide) (by decide), pad_range 256 (by decide) (by decide)⟩,
    ⟨by unfold PortsReady; decide, pad_range 256 (by decide) (by decide)⟩, ?_,
    ⟨by unfold PortsReady; decide, pad_range 256 (by decide) (by decide)⟩, by decide +kernel, ?_, ?_, ?_, ?_⟩ <;>
    (try unfold PortsReady) <;> (try unfold TagsAgree) <;> (try unfold CanGive) <;> decide +kernel

/-- An MRD or an array CBRD has its value; CBSEL names the array's tables; a BF16 vector in v3; one command before an MWAIT. -/
def arrayed (w : Wait) : State :=
  { appWith 0 [] fun x => vWrite { x with cbsel := 1, wait := w } 3 { bits := 7, tag := 0x0B } with pairs := [(0, { holder := 1 })] }
def bf16 : State := appWith 0 [] fun x => vWrite x 3 { bits := 7, tag := 0x0B }
def drained : State :=
  { waitingFor (.mwait 4) with pairs := [(0, { stream := [{ num := 4, core := 0, slot := 0, kind := .mzero 0 0 }], entered := 5 })] }

theorem witness_StreamReads :
    (∀ v ∈ [none, some {}], PortsReady (waitingFor (.matrixDone v)) [4] [] [] [3] ∧ (me (waitingFor (.matrixDone v))).wait = .matrixDone v) ∧
    (PortsReady (licensed []) [0] [] [] [3] ∧ (me (licensed [])).wait = .none ∧
      holdsLicence (licensed []) (threadRegion (licensed []) {}) 0 = true ∧ issueRoom (licensed []) 0 = true) ∧
    (PortsReady (app 0 []) [0] [] [] [3] ∧ (me (app 0 [])).wait = .none ∧ holdsLicence (app 0 []) (threadRegion (app 0 []) {}) 0 = false) ∧
    (PortsReady (app 0 []) [] [] [] [3] ∧ (me (app 0 [])).cbsel.getLsbD 0 = false) ∧
    (PortsReady (arrayed .none) [] [] [] [3] ∧ (me (arrayed .none)).cbsel.getLsbD 0 = true ∧ (me (arrayed .none)).wait = .none ∧
      (let s := appWith 0 [] fun x => { x with cbsel := 1 }
       PortsReady s [] [] [] [3] ∧ (me s).cbsel.getLsbD 0 = true ∧ (me s).wait = .none ∧ holdsLicence s (threadRegion s {}) 0 = false)) ∧
    ((me (arrayed (.matrixDone (some {})))).cbsel.getLsbD 0 = true ∧ (me (arrayed (.matrixDone (some {})))).wait = .matrixDone (some {})) ∧
    (PortsReady bf16 [] [3] [] [] ∧ TagsAgree bf16 3 ∧ (valueV bf16 3).tag = 0x0B ∧ (me bf16).cbsel.getLsbD 0 = false) ∧
    (PortsReady (arrayed .none) [] [3] [] [] ∧ TagsAgree (arrayed .none) 3 ∧ (valueV (arrayed .none) 3).tag = 0x0B ∧
      holdsLicence (arrayed .none) (threadRegion (arrayed .none) {}) 0 = true ∧ issueRoom (arrayed .none) 0 = true) ∧
    (PortsReady drained [] [] [5] [] ∧ hasArray (threadRegion drained {}) = true ∧ (me drained).wait = .mwait 4 ∧
      ∀ c ∈ (getPair drained 0).stream, 4 ≤ c.num) ∧
    (PortsReady (app 0 []) [] [] [5] [] ∧ hasArray (threadRegion (app 0 []) {}) = true ∧ (me (app 0 [])).wait = .none ∧
      (getPair (app 0 []) 0).stream = []) := by
  unfold PortsReady TagsAgree
  decide +kernel

/-- The twin of core 0 waits in a TWX with g23. -/
def twinned : State :=
  modThread { app 0 [(5, 7)] with cores := (app 0 [(5, 7)]).cores ++ [(1024, {})] } { core := 1024 } fun _ =>
    { slotState := .live, pc := 0x40000000, inst := 1, wait := .twx 23 }

theorem witness_TwinForms :
    (hasArray (threadRegion twinned {}) = true ∧ twinOf 0 = 1024 ∧ isGPort 5 = false ∧ 23 < 24 ∧
      (getThread twinned { core := 1024 }).slotState = .live ∧ (getThread twinned { core := 1024 }).wait = .twx 23 ∧
      ({ core := 1024 } : ThreadRef) ≠ twinned.cur) ∧
    (hasArray (threadRegion (app 0 []) {}) = true ∧ (getThread (app 0 []) { core := 1024 }).wait = .none) ∧
    (hasArray (threadRegion (sys []) (sys []).cur) = false ∧ PortsReady (sys []) [5] [] [] [] ∧ PortsReady (sys []) [] [] [5] []) ∧
    PortsReady (app 0 []) [] [] [24] [] ∧ PortsReady ported [24] [] [] [] ∧ (getPair (app 0 []) 0).windowNext = [] := by
  unfold PortsReady
  decide +kernel

theorem witness_SumProductForms :
    (PortsReady (waitingFor .spAccepted) [4, 5, 6] [] [] [] ∧ (me (waitingFor .spAccepted)).wait = .spAccepted) ∧
    (PortsReady (waitingFor (.spDone 1)) [] [] [5] [] ∧ (me (waitingFor (.spDone 1))).wait = .spDone 1) ∧
    (threadRegion (sys []) (sys []).cur = none ∧ PortsReady (sys []) [4, 5, 6] [] [] [] ∧ PortsReady (sys []) [] [] [5] [] ∧
      (me (sys [])).wait = .none) ∧
    ((∃ r, threadRegion (app 0 []) {} = some r ∧ r.quad = true) ∧ (me (app 0 [])).wait = .none ∧ spRoom (app 0 []) {} = true) ∧
    (PortsReady (app 0 [(4, pad)]) [4] [] [] [] ∧ pad.toNat % 4 = 0 ∧ isLocal pad = true ∧ localKind pad ≤ 2 ∧
      resolve (app 0 [(4, pad)]) {} pad (4 * (511 + 1)) = .loc (.scratch 0) 256) ∧
    (fieldOf (8191 : Word) 63 13 = 0 ∧ 7000 + 511 < fieldOf (8191 : Word) 12 0 ∧ fieldOf (0 : Word) 12 0 < 1) ∧
    (PortsReady (app 0 []) [4, 5, 6] [] [] [] ∧ spLeavesOk 0x1FFF1FFF1FFF1FFF 15 = true ∧ fieldOf (8185 : Word) 63 13 = 0 ∧
      fieldOf (8185 : Word) 12 0 + 6 ≤ 8191) ∧
    (fieldOf (0x1FF81FFF1FF9 : Word) 63 45 = 0 ∧ fieldOf (0x1FF81FFF1FF9 : Word) 31 29 = 0 ∧ fieldOf (0x1FF81FFF1FF9 : Word) 15 13 = 0 ∧
      fieldOf (0x1FF81FFF1FF9 : Word) 12 0 + 6 ≤ 8191 ∧ fieldOf (0x1FF81FFF1FF9 : Word) 44 32 + 7 ≤ 8191) := by
  refine ⟨?_, ?_, ?_, ⟨some_of (by decide +kernel), by decide +kernel⟩, ?_, by decide, ?_, by decide⟩ <;> unfold PortsReady <;> decide +kernel

/-- A quad whose oldest accepted command is this one, over a scratch of zeros; and one whose tree word 0 cannot be read. -/
def computing (k : SpKind) : State := { app 0 [] with quads := [(0, { queue := [{ num := 0, core := 0, slot := 0, at_ := 0, kind := k }] })] }

/-- The commands of each kind that the witnesses use. -/
def spCommands : List SpKind :=
  [.up 0x0003000200010000 0 100 0 0x0F true, .up 0x0003000200010000 0 100 0 0x0F false, .down 0x0003000200010000 0 100 0 200 0 0x0F false,
   .down 0x0003000200010000 0 100 0 200 0 0x0F true, .load pad 3 16, .store pad 3 16, .norm 0 4 9]

/-- A sum-product command computes: its queue, its words, and a node that it has. -/
theorem witness_SumProductValues :
    (∀ k ∈ spCommands, ∃ c, (getQuad (computing k) 0).queue = [c] ∧ c.kind = k ∧ c.seen = [] ∧ c.wrote = [] ∧ quadRuns (computing k) 0 = true ∧
      spTreesTaken (computing k) 0 [] [c] c.num < 8 ∧
      (spValues (computing k) 0 c).isSome = true ∧
      ∀ i ∈ [0, 1, 2, 3, 9, 18, 100, 106, 200, 203], ScratchHolds (computing k) 0 i 0) ∧
    (spHas 0x0F 0 = true ∧ spHas 0x0F 3 = true ∧ (0x0F : Nat).testBit 3 = true ∧ (0x0F : Nat).testBit 4 = false) ∧
    (let s := computing (.load pad 3 16)
     resolveIn (spRegion s 0) 0 pad (4 * 16) = .loc (.scratch 0) 256 ∧ (localRead s (.scratch 0) (256 + 4 * 15) 4).map ofBytes = some 0) ∧
    (let s := computing (.store 0xFFFFFFFFFFFFFFFC 3 16)
     spValues s 0 { core := 0, kind := .store 0xFFFFFFFFFFFFFFFC 3 16 } = none) := by
  refine ⟨?_, ?_, ?_, ?_⟩
  · intro k hk
    refine ⟨_, rfl, rfl, rfl, rfl, ?_⟩
    revert k
    unfold ScratchHolds
    decide +kernel
  all_goals decide +kernel

/-- A service thread over a table that maps the page at 0x10000000 to the first frame of HBM4E stack 0, with a leaf of some
low bits at a level; the tables stand in the frames after it. -/
def mapped (leaf level : Nat) (l : List (Reg × Word)) : State :=
  let e (n idx v : Nat) : List (Nat × Nat) := [(0x100000001000 + 4096 * n + 8 * idx, v)]
  let next (n : Nat) : Nat := 0x100000001000 + 4096 * n + 1
  let tables := e 0 0 (next 1) ++ e 1 0 (next 2) ++
    (if level = 2 then e 2 0 (0x100000000000 + leaf) else e 2 0 (next 3) ++ e 3 0x80 (next 4) ++ e 4 0 (0x100000000000 + leaf))
  let s := modPart (sys l) 0 fun p => { p with txroot := [(0, 0x100000001001)] }
  { s with gmem := { cells := tables.foldl (fun m p => memWrite m p.1 (toBytes 8 p.2)) s.gmem.cells } }

/-- Operands of MIGR START and ABORT on that page in function 0: the page 0x100000010000 as destination. -/
def startWord : Word := 0x10000000
def abortWord : Word := 0x10000200
def destWord : Word := 0x100000010000

/-- The same page where the leaf's own page is a ring that a locked interface freezes: no swap of the leaf takes. -/
def frozen : State :=
  modPart (mapped 0xD3 0 [(4, startWord), (5, destWord)]) 0 fun p => { p with vfs := [(1, .locked)], ringPages := [(1, [0x100000005])] }

/-- Does MIGR START on that page take slot 0? -/
def begins (s : State) : Option Bool :=
  match queryLeaf (afterG (afterG s 4) 5) (whoThread s s.cur) 0 0x10000000 with
  | (t, some (level, addr, e)) =>
    let p := pageOf t (whoThread s s.cur) 0x10000000 level addr e
    some (beginTraverse p.1 (whoThread s s.cur) 0 0 p.2 0 (fieldOf (valueG s 5) 51 12 * 4096) (migrOwner p.1 p.1.cur)).2
  | _ => none

/-- The state of the slot whose page the leaf names. -/
def slotFound (s : State) : Option TState :=
  match queryLeaf (afterG (afterG s 4) 5) (whoThread s s.cur) 0 0x10000000 with
  | (t, some (level, addr, e)) =>
    let p := pageOf t (whoThread s s.cur) 0x10000000 level addr e
    if pteT e then (slotOf p.1 0 p.2.src).map fun x => (getTSlot p.1 x.1 x.2).state else none
  | _ => none

/-- The leaf that a query finds, as MIGR reads it. -/
def found (s : State) : Option (Nat × Nat × Nat) := (queryLeaf (afterG (afterG s 4) 5) (whoThread s s.cur) 0 0x10000000).2

/-- The page of that leaf: T, its size, whether the destination is bad, and the engine's lowest free slot. -/
def pageFacts (s : State) : Option (Bool × Nat × Bool × Option Nat) :=
  match queryLeaf (afterG (afterG s 4) 5) (whoThread s s.cur) 0 0x10000000 with
  | (t, some (level, addr, e)) =>
    let p := pageOf t (whoThread s s.cur) 0x10000000 level addr e
    some (pteT e, p.2.size, badDestination p.1 0 (fieldOf (valueG s 5) 51 12 * 4096) (pageBytes p.2.size) p.2.src,
      freeSlot (getEngine p.1 (homeStack p.1 0 p.2.src)))
  | _ => none

/-- A traverse of that page that has copied the lines of a bitmap, in a state. -/
def traversing (st : TState) (copied : Nat) (l : List (Reg × Word)) : State :=
  { mapped 0x2D3 0 l with
    engines := [(0, { slots := [(2, { state := st, size := 0, src := 0x100000000000, dst := 0x100000010000, copied := copied
                                      leaf := [(0x100000005000, 0x1000000002D3)] })] })] }

/-- The same with every slot of the page's engine taken. -/
def busy : State :=
  { mapped 0xD3 0 [(4, startWord), (5, destWord)] with
    engines := [(0, { slots := (List.range 16).map fun n => (n, { state := .copying }) })] }

/-- A thread whose TQRY has a walker, with a table generation or from before; one whose page another thread's walk is on; an engine that has counted a window. -/
def queryingAt (gen : Option (BitVec 16)) : State :=
  modQuad (modThread (mapped 0xD3 0 []) (sys []).cur fun x => { x with wait := .query 0x10000008 }) (quadKey 8192) fun q =>
    { q with walks := [{ page := 0x10000, threads := [(sys []).cur], gen := gen }] }
def querying : State := queryingAt none

/-- Has a token overtaken the walk of that TQRY? -/
def overtaken (gen : Option (BitVec 16)) : Option Bool :=
  (walkerJob (queryingAt gen) (quadKey 8192) fun j => j.threads.contains (sys []).cur).map fun j =>
    j.gen != some (getQuad (queryingAt gen) (quadKey 8192)).gen

def sharing : State :=
  let t : ThreadRef := { (sys []).cur with slot := 1 }
  modQuad (modThread (mapped 0xD3 0 []) t fun _ => { slotState := .live, wait := .query 0x10000010 }) (quadKey 8192) fun q =>
    { q with walks := [{ page := 0x10000, threads := [t] }] }
def counted : State := { sys [] with engines := [(0, { heat := [{ window := 0x800000, deliv := 5, starve := 6 }] })] }

theorem witness_TierForms :
    (InSys (mapped 0xD3 0 [(4, startWord), (5, destWord)]) ∧ PortsReady (mapped 0xD3 0 [(4, startWord), (5, destWord)]) [4, 5] [] [6] [] ∧
      (mapped 0xD3 0 []).defer = false ∧ (me (mapped 0xD3 0 [])).wait = .none ∧ fieldOf startWord 63 57 = 0 ∧ fieldOf startWord 8 7 = 0 ∧
      fieldOf startWord 6 0 ≤ 64 ∧ fieldOf startWord 11 9 = 0 ∧ fieldOf destWord 63 52 = 0 ∧ fieldOf destWord 11 2 = 0 ∧
      fieldOf destWord 1 0 ≠ 3 ∧ fieldOf abortWord 11 9 = 1) ∧
    found (sys [(4, startWord), (5, destWord)]) = none ∧
    ((found (mapped 0xD3 2 [(4, startWord), (5, destWord)])).map (·.1)) = some 2 ∧
    ((found (mapped 0xD3 0 [(4, startWord), (5, destWord)])).map (·.1)) = some 0 ∧
    pageFacts (mapped 0xD3 0 [(4, startWord), (5, destWord)]) = some (false, 0, false, some 0) ∧
    pageFacts (mapped 0xD3 0 [(4, startWord), (5, 0x100000000000)]) = some (false, 0, true, some 0) ∧
    pageFacts (mapped 0x2D3 0 [(4, startWord), (5, destWord)]) = some (true, 0, false, some 0) ∧
    pageFacts busy = some (false, 0, false, none) ∧ fieldOf (destWord + 1) 1 0 ≠ 0 ∧
    begins (mapped 0xD3 0 [(4, startWord), (5, destWord)]) = some true ∧ begins frozen = some false ∧
    (∀ st ∈ [TState.copying, .aborting, .finishing], slotFound (traversing st 0 [(4, abortWord)]) = some st) ∧
    ((heatOp (sys [(4, 0x100000000000)]) 0 0x100000000000).isSome = true ∧ PortsReady (sys [(4, 0x100000000000)]) [4] [] [5] []) ∧
    ((∃ e, (cacheLookup (app 0 []) 0 0 0x10000008 false false false).2 = some e ∧ e.a = true) ∧
      (cacheLookup (mapped 0xD3 0 []) 8192 0 0x10000008 false false false).2 = none ∧ walkerFree (mapped 0xD3 0 []) (quadKey 8192) 0 0x10000008 = true ∧
      ((tqryWalk (mapped 0xD3 0 []) (sys []).cur 0x10000008 false).2).isSome = true ∧ (tqryWalk (sys []) (sys []).cur 0x10000008 false).2 = none) ∧
    (walkerFree querying (quadKey 8192) 0 0x10000008 = false ∧ (walkerJob querying (quadKey 8192) fun j => j.threads.contains (sys []).cur).isSome = true ∧
      overtaken (some 1) = some true ∧ overtaken (some 0) = some false ∧
      (walkerJob sharing (quadKey 8192) fun j => j.threads.contains (sys []).cur) = none ∧ walkerFree sharing (quadKey 8192) 0 0x10000008 = false ∧
      (cacheLookup sharing 8192 0 0x10000008 false false false).2 = none) ∧
    ((((getEngine counted 0).heat.find? fun h => h.window == fieldOf (0x100000000000 : Word) 51 21).map fun h => (h.deliv, h.starve)) = some (5, 6) ∧
      ((getEngine (sys []) 0).heat.find? fun h => h.window == fieldOf (0x100000000000 : Word) 51 21) = none ∧
      homeStack counted 0 (fieldOf (0x100000000000 : Word) 51 21 * 2 ^ 21) = 0 ∧ populated counted 0 0x100000000000 = true ∧
      fieldOf (0x12 : Word) 63 5 = 0 ∧ fieldOf (0x12 : Word) 3 0 = 2 ∧ fieldOf (0x20 : Word) 63 5 ≠ 0) := by
  refine ⟨?_, by decide +kernel, by decide +kernel, by decide +kernel, by decide +kernel, by decide +kernel, by decide +kernel, by decide +kernel, by decide,
    by decide +kernel, by decide +kernel, by decide +kernel, ?_, ⟨some_of (by decide +kernel), by decide +kernel, by decide +kernel⟩, by decide +kernel,
    by decide +kernel⟩ <;> (try unfold InSys) <;> unfold PortsReady <;> decide +kernel

/-- A result with a state, from the result. -/
theorem pair_is {α β : Type} {f : α × β} {b : β} (h : f.2 = b) : f = (f.1, b) := by
  cases f; simp_all

/-- An answer that is there. -/
theorem ok_of {ε α : Type} [DecidableEq α] {e : Except ε α} {a : α} (h : (match e with | .ok b => decide (b = a) | .error _ => false) = true) :
    e = .ok a := by
  cases e <;> simp_all

/-- Two answers of one computation. -/
theorem both {α β : Type} {P : α → Prop} {f : α × β} (h : P f.1) : ∃ a b, f = (a, b) ∧ P a := ⟨f.1, f.2, rfl, h⟩

/-- A launch packet for tile (0, 0) of the region, with its image at 0x10000040. -/
def packet : LaunchPacket := { image := 0x10000040, slot := 0xFF, inst := 1, bivl := 262144 }

/-- A core whose packet is on its way; whose slot 1 is being created from zeros; whose threads wait for a YIELD and for data. -/
def posted : State := { app 0 [] with net := [.packet 0 packet] }
def creating : State := modThread { app 0 [] with cores := [(0, { dtlb := [{ page with a := true }] })] } { slot := 1 } fun _ =>
  { slotState := .creating packet, inst := 1 }
def yielded : State := appWith 0 [] fun x => { x with yieldLeft := 1 }
def sent : State := { app 0 [] with net := [.user { dst := 0, chan := 3, src := 2, data := 5 }] }
def replying (mode : Word) : State :=
  let w := (encode (.ld 6 4 3 0)).headD 0
  let s := appWith mode [(4, vaWord)] fun x => { x with wait := .reply, code := { cells := memWrite [] 0x100000001000 (toBytes 4 w.toNat) } }
  modCore s 0 fun c => { c with itlb := [{ va := 0x40000000, frame := 0x100000001, x := true, a := true, tier := 0 }] }

/-- The state in which that load completes. -/
def replied : State := { modThread (replying 0) {} fun x => { x with wait := .replied } with cur := {}, defer := false }

/-- Where no region has been asked to stop, no thread's region has been halted by force. -/
theorem not_forced {s : State} (h : s.regions.all (fun e => e.2.preempt.isNone) = true) (t : ThreadRef) (y : Thread) :
    regionForced (setThread s t y) t = false := by
  have found : ∀ (l : AMap Region) k r, l.all (fun e => e.2.preempt.isNone) = true → amFind l k = some r → r.preempt = none := by
    intro l
    induction l with
    | nil => intro k r _ hf; cases hf
    | cons p l ih =>
      intro k r hl hf
      simp only [List.all_cons, Bool.and_eq_true] at hl
      unfold amFind at hf
      split at hf
      · cases hf; simpa using hl.1
      · exact ih k r hl.2 hf
  unfold regionForced threadRegion
  simp only
  split
  · rfl
  · cases hg : getRegion (setThread s t y) (regionKey (getThread (setThread s t y) t).part (getThread (setThread s t y) t).inst) with
    | none => rfl
    | some r => simp [found s.regions _ r h hg]

theorem witness_CoreEvents :
    (packetFor posted 0 = some packet ∧ (let u := countPacket { posted with net := posted.net.erase (.packet 0 packet) } 0 packet
      packetOk u 0 packet = true ∧ slotFor (answerSender u packet 0) 0 packet = some 1)) ∧
    ((getThread creating { slot := 1 }).slotState = .creating packet ∧ (getThread creating { slot := 1 }).wait = .none ∧
      (∃ r, packetRegion creating packet = some r ∧ entryPc r packet 0 0 = some 0) ∧
      (let u := modThread creating { slot := 1 } fun x => { x with snap := (amGet creating.gatePrev (dieOf 0) []).foldl overlayGate creating.gmemPrev, own := [] }
       ∃ v, creationRead u { slot := 1 } packet.image 16 = (v, .ok (List.replicate 16 0)) ∧ dwordAt (List.replicate 16 0) 0 = 0 ∧
         dwordAt (List.replicate 16 0) 1 = 0 ∧
         ∃ w ls, creationParts { slot := 1 } packet.image [(false, 0x10, 16), (false, 0x20, 32), (false, 0x40, 256), (false, 0x140, 128),
           (false, 0x1C0, 2048)] v = (w, .ok ls) ∧ ∀ y, regionForced (setThread (dropParty w { slot := 1 }) { slot := 1 } y) { slot := 1 } = false)) ∧
    (getThread yielded {}).yieldLeft = 1 ∧
    ((messageChoice sent ((oldestBySource (sent.net.filterMap (userFor 0))).filter fun m => m.chan == 3)).1 =
        some { dst := 0, chan := 3, src := 2, data := 5 } ∧ (amGet (getCore sent 0).recv 3 []).length < 8) ∧
    ((getThread (replying (statusWord false false true 0 3)) {}).wait = .reply ∧
      isRoped (getThread (replying (statusWord false false true 0 3)) {}) = true) ∧
    (coreAdvances (replying 0) 0 = true ∧ coreAdvances { replying 0 with cycle := 1, quads := [(0, { opp := 0 })] } 0 = false ∧
      coreAdvances creating 0 = true) ∧
    ((getThread (replying 0) {}).wait = .reply ∧ isRoped (getThread (replying 0) {}) = false ∧
      ∃ v r, nextInstr replied {} = (v, .ok (.ld 6 4 3 0)) ∧ completeAccess (.ld 6 4 3 0) v = .next r) := by
  refine ⟨by decide +kernel, ⟨by decide, by decide, some_of (by decide +kernel), _, pair_is (by decide +kernel), by decide, by decide, _, [[], [], [], [], []], pair_is (by decide +kernel),
      fun y => not_forced (by decide +kernel) _ y⟩, by decide, by decide, by decide, by decide, by decide, by decide +kernel, ?_⟩
  have h : Retired (nextInstr replied {}).1 (after (.ld 6 4 3 0) (nextInstr replied {}).1) := by unfold Retired; decide +kernel
  obtain ⟨r, hr, -⟩ := retired_next h
  exact ⟨_, r, pair_is (ok_of (by decide +kernel)), hr⟩

/-- A translation that is there. -/
theorem xlate_of {x : ChanXlate} {e : TlbEntry} (h : (match x with | .ok b => decide (b = e) | _ => false) = true) : x = .ok e := by
  cases x <;> simp_all

/-- The region runs its schedule on stack 0; the same with an element fault; a word on its way to core 0; a stream node with a read
descriptor and a latched translation. -/
def scheduled (g : Segment) : State := { app 0 [] with regions := [(1, { area with segments := [(0, g)] })] }
def slowed : State := { scheduled { running := true } with cycle := 1, quads := [(0, { opp := 0 })] }
def crossing : State := { app 0 [] with crossings := [{ src := 1, dst := 0, port := 1, word := { data := 5 } }] }
def noded : State :=
  { app 0 [] with
    regions := [(1, { area with nodes := [16384] })]
    switches := [(16384, { reader := { desc := some { src := 0x10000000, count0 := 64 } }, latch := [page] })] }

theorem witness_SegmentEvents :
    (landDue (scheduled { running := true }) = scheduled { running := true } ∧
      (∃ r, getRegion (scheduled { running := true }) 1 = some r ∧ r.ending = false) ∧ landDue slowed = slowed ∧
      landDue (scheduled { running := true, fault := some (0, 1) }) = scheduled { running := true, fault := some (0, 1) }) ∧
    (∃ r, getRegion (scheduled { running := true }) 1 = some r ∧ ((segmentOf r 0).running = true ∧ (segmentOf r 0).attemptAt ≠ some 0 ∧
      0 ∈ regionStacks r ∧ segmentClocked (scheduled { running := true }) r 0 = true ∧ (segmentOf r 0).fault = none ∧
      trapHold (scheduled { running := true }) r 0 = false ∧ cairnHold (scheduled { running := true }) r 0 (segmentOf r 0).c = false ∧
      echoHold (scheduled { running := true }) r 0 = false ∧
      (match evalStep (scheduled { running := true }) r 0 (segmentOf r 0).c with
       | some l => l.all (fun x => x.2.fault.isNone) && (prepareWrites l (scheduled { running := true })).2.isNone
       | none => false) = true)) ∧
    (∃ r, getRegion (scheduled { running := true, fault := some (0, 1) }) 1 = some r ∧ ((segmentOf r 0).running = true ∧
      (segmentOf r 0).attemptAt ≠ some 0 ∧ 0 ∈ regionStacks r ∧ (segmentOf r 0).fault.isSome = true)) ∧
    (∃ r, getRegion slowed 1 = some r ∧ ((segmentOf r 0).running = true ∧ (segmentOf r 0).attemptAt ≠ some 1 ∧ 0 ∈ regionStacks r ∧
      segmentClocked slowed r 0 = false)) ∧
    (∃ c, crossing.crossings.find? (fun c => c.dst == 0 && c.port == 1) = some c ∧ (c.timed = true ∧ c.at_ ≤ crossing.cycle ∧
      amGet (getSwitch crossing 0).retrainUntil 1 0 ≤ crossing.cycle ∧ c.port ≠ 5)) ∧
    ((∃ d, (nodeGen noded 16384 false).desc = some d ∧ d.count0 = 64) ∧ (∃ p, elementRegion noded 16384 = some p ∧ p.1 = 1) ∧
      elKind 16384 = .stream ∧ genPieces (nodeGen noded 16384 false) false ≠ [] ∧ (nodeGen noded 16384 false).stalled = none ∧
      (nodeGen noded 16384 false).refused = false ∧ fifoRoom 16 noded.cycle 1 (getSwitch noded 16384).queue = true ∧
      (∃ u, nodeRead 16384 (genPieces (nodeGen noded 16384 false) false) noded = (u, .ok (List.replicate 32 0))) ∧
      (nodeXlate noded 16384 false 0x10000000).2 = .ok page) := by
  refine ⟨⟨by decide, some_of (by decide +kernel), by decide, by decide⟩, some_of (by decide +kernel), some_of (by decide +kernel),
    some_of (by decide +kernel), some_of (by decide +kernel),
    some_of (by decide +kernel), some_of (by decide +kernel), by decide, by decide +kernel, by decide, by decide, by decide, ⟨_, pair_is (by decide +kernel)⟩,
    xlate_of (by decide +kernel)⟩

/-- A copy under way from the scratchpad to the cached page in channel 1, one whose follow-on is due, and an open CPYQ set. -/
def moving : State :=
  { app 0 [] with
    tiles := [(1, { pers := { chmask := 2 }
                    chans := [(1, { active := some { desc := { src := pad, dst := vaWord, count0 := 128 }, targets := [{}] }, latch := [page] })] })] }
def moved : State := after (.copyPiece 1 1) moving
def misplaced : State :=
  { app 0 [] with
    tiles := [(1, { pers := { chmask := 2 }
                    chans := [(1, { active := some { desc := { src := vaWord + 4, dst := pad + 8, count0 := 256 }, targets := [{}] }, latch := [page] })] })] }
def followDue : State :=
  { app 0 [] with
    tiles := [(1, { chans := [(1, { active := some { follow := some (.mzero 0 0) }, followDue := true })] })] }
def held : State := { app 0 [] with quads := [(0, { ticks := 1024, held := [{ designator := chanWord }] })] }

theorem witness_CopyEvents :
    (quadRuns { moving with cycle := 1, quads := [(0, { opp := 0 })] } (quadKey 1) = false ∧ quadRuns moving (quadKey 1) = true) ∧
    (getChan (startChannel moved 1 1) 1 1).pieceAt = some (startChannel moved 1 1).cycle ∧
    (∀ s ∈ [moving, misplaced], ∃ x, (getChan (startChannel s 1 1) 1 1).active = some x ∧ (let u := startChannel s 1 1
      let ch := getChan u 1 1
      quadRuns s (quadKey 1) = true ∧ ch.pieceAt ≠ some u.cycle ∧ ch.followDue = false ∧ ch.stalled = none ∧ ch.err = false ∧
      (let r := readParts 1 1 x (descPieces x.desc.src x.desc x.desc.sstrides 64 ch.done (pieceLength x.desc ch.done)) u
       r.2.2 = none ∧ r.2.1.length < descTotal x.desc ∧
         (match (writeParts 1 1 x (descPieces x.desc.dst x.desc x.desc.dstrides 64 ch.done r.2.1.length) r.2.1 r.1).2 with
          | .ok _ => true
          | _ => false) = true))) ∧
    (∃ x, (getChan followDue 1 1).active = some x ∧ (x.follow = some (.mzero 0 0) ∧ (getChan followDue 1 1).followDue = true ∧
      quadRuns followDue (quadKey 1) = true ∧ streamRoom followDue (pairKey x.core) = true)) ∧
    ∃ h, (getQuad held 0).held.find? (fun h => h.designator == chanWord) = some h ∧ h.opened + 1024 ≤ (getQuad held 0).ticks := by
  refine ⟨by decide, by decide +kernel, ?_, some_of (by decide +kernel), some_of (by decide +kernel)⟩
  intro s hs
  refine some_of ?_
  revert s
  decide +kernel

/-- R171, R173: a piece ends at the destination's granule: with 8 bytes to it from a source misaligned to 4, 56 bytes move at once, and
a second COPY_PIECE of the cycle moves nothing. -/
theorem test_piece_is_one_granule :
    (getChan (after (.copyPiece 1 1) misplaced) 1 1).wptr = 56 ∧ (getChan (after (.copyPiece 1 1) (after (.copyPiece 1 1) misplaced)) 1 1).wptr = 56 := by
  decide +kernel

/-- Threads with a RED to perform, in a WAITA past its time, in a walk, in a fault; tokens and messages on their way. -/
def posting : State := appWith 0 [] fun x => { x with reds := [{ pa := 0x100000000040 }] }
def overdue : State := { waitingFor (.monitor 0x100000000008 0 (some 7)) with cycle := 7 }
def decaying : State := { app 0 [] with cycle := 4096, quads := [(0, { predictor := [{ line := 5, count := 3 }] })] }
def walker (gen : BitVec 16) (s : State) : State :=
  modQuad (modThread s (sys []).cur fun x => { x with wait := .walk 0x10000008 false false false }) (quadKey 8192) fun q =>
    { q with walks := [{ page := 0x10000, gen := some gen, threads := [(sys []).cur] }] }
def walking (gen : BitVec 16) : State := walker gen (mapped 0xD3 0 [])
def lost : State := walker 0 (sys [])

/-- The walk of such a thread, if it has a walker. -/
def atWalker (s : State) : Option WalkJob :=
  ((startWalks 0 (pendingWalks s (quadKey 8192))).take 2).find? fun j => j.threads.contains (sys []).cur
def passing (l : List Nat) : State := { app 0 [] with tokens := [{ id := 3, targets := l }] }
def letter : State := { sys [] with net := [.mail (partOfCore (sys []) 8192) 8192 [0x20, 0, 0, 0]] }
def answering : State :=
  { waitingFor (.fault 0x1000) with net := [.reply 8192 0 true] }

theorem witness_MemoryEvents :
    (∃ r, (getThread posting {}).reds[0]? = some r ∧ ∀ q ∈ (getThread posting {}).reds.take 0, sameLine q.pa r.pa = false) ∧
    ((getThread overdue {}).wait = .monitor 0x100000000008 0 (some 7) ∧ 7 ≤ overdue.cycle) ∧
    (∃ e, e ∈ (getQuad decaying 0).predictor ∧ e.line = 5 ∧ e.since + 4096 ≤ decaying.cycle) ∧
    ((getThread (walking 0) (sys []).cur).wait = .walk 0x10000008 false false false ∧ (getQuad (walking 0) (quadKey 8192)).gen = 0 ∧
      (getThread (walking 1) (sys []).cur).wait = .walk 0x10000008 false false false ∧ (getQuad (walking 1) (quadKey 8192)).gen = 0) ∧
    (atWalker (walking 0) = some { page := 0x10000, gen := some 0, threads := [(sys []).cur] } ∧
      atWalker (walking 1) = some { page := 0x10000, gen := some 1, threads := [(sys []).cur] }) ∧
    (let u := modQuad (walking 0) (quadKey 8192) fun y => { y with walks := [] }
     (match (threadWalk u (sys []).cur 0x10000008 false false false).2 with | .ok _ => true | _ => false) = true) ∧
    ((getThread lost (sys []).cur).wait = .walk 0x10000008 false false false ∧
      atWalker lost = some { page := 0x10000, gen := some 0, threads := [(sys []).cur] } ∧
      let r := threadWalk (modQuad lost (quadKey 8192) fun y => { y with walks := [] }) (sys []).cur 0x10000008 false false false
      (match r.2 with | .fault _ _ _ => true | _ => false) = true ∧ getThread r.1 (sys []).cur = getThread lost (sys []).cur) ∧
    (∃ k, (passing [4, 5]).tokens.find? (fun k => k.id == 3 && k.targets.contains 4) = some k ∧ k.targets.filter (fun x => x != 4) ≠ []) ∧
    (∃ k, (passing [4]).tokens.find? (fun k => k.id == 3 && k.targets.contains 4) = some k ∧ k.targets.filter (fun x => x != 4) = []) ∧
    (mailFor letter 8192 = some [0x20, 0, 0, 0] ∧ (getCore letter 8192).mailbox.length < 64 ∧ fieldOf (0x20 : Word) 7 0 ≠ 0x21) ∧
    (answering.net[0]? = some (.reply 8192 0 true) ∧ partOfStack answering (stackOf (fieldOf (0 : Word) 15 13)) = partOfCore answering 8192 ∧ fieldOf (0 : Word) 15 0 % 8 = 0 ∧
      (getThread answering { core := coreAt 0, slot := 0 }).seq.toNat = 0 ∧
      (getThread answering { core := coreAt 0, slot := 0 }).slotState = .live ∧
      (getThread answering { core := coreAt 0, slot := 0 }).wait = .fault 0x1000) := by
  refine ⟨some_of (by decide +kernel), by decide +kernel, ⟨_, List.mem_cons_self, by decide⟩, by decide +kernel, by decide +kernel, by decide +kernel,
    by decide +kernel, some_of (by decide +kernel), some_of (by decide +kernel), by decide +kernel, by decide +kernel⟩

/-- A request to take a layer or a die of stack 0 offline, one under way, a die's channel with heat. -/
def asked : State := modPart State.reset 0 fun p => { p with offReq := none }
def draining : State := { modPart State.reset 0 fun p => { p with offReq := some (1, 0, 15, 7) } with draining := [(0, 15)] }
def freezing : State := { modPart State.reset 0 fun p => { p with offReq := some (2, 1, 0, 7) } with freezing := [1] }
def pendingSector : State := { State.reset with scsize := 1, sector := { pending := [(0, 0x1000)] } }
def starved : State := { modPart (app 0 []) 0 (fun p => { p with heatMode := 0 }) with tiles := [(1, { chans := [(0, { deliv := 5, starve := 1 })] })] }
def offLayer : Word := 0x10F7
def offDie : Word := 0x2107

/-- A finishing slot on a machine whose cores, memory tiles and switches are all as after reset; and its new leaf, written. -/
def alone : State := { traversing .finishing (2 ^ 64 - 1) [] with cores := [], tiles := [], switches := [] }
def landing : State × Bool := swapLeaves (landedLeaf (getTSlot alone 0 2)) (whoSlot 0 (getTSlot alone 0 2)) (getTSlot alone 0 2).leaf 0 alone

/-- On such a machine a token's passing leaves the engines as they are. -/
theorem passAll_engines (k : Token) {s : State} (h : s.cores = [] ∧ s.tiles = [] ∧ s.switches = []) : (passAll k s).1.engines = s.engines := by
  have one (r : State × Nat) (n : Nat) (h : r.1.cores = [] ∧ r.1.tiles = [] ∧ r.1.switches = []) :
      ((passTarget k r n).1.cores = [] ∧ (passTarget k r n).1.tiles = [] ∧ (passTarget k r n).1.switches = []) ∧
        (passTarget k r n).1.engines = r.1.engines := by
    have fixed {α β : Type} (g : β → α → β) (l : List α) (b : β) (hg : ∀ a, g b a = b) : l.foldl g b = b := by
      induction l with
      | nil => rfl
      | cons a l ih => rw [List.foldl_cons, hg a, ih]
    obtain ⟨hc, ht, hw⟩ := h
    unfold passTarget
    split
    · unfold passQuad
      rw [fixed (passCore k) _ _ fun a => by simp [passCore, hc, amFind]]
      simp only
      rw [fixed (passTile k) _ _ fun a => by simp [passTile, ht, amFind, modQuad, setQuad]]
      simp [hc, ht, hw, modQuad, setQuad]
    · unfold passLltc
      simp only
      rw [fixed _ _ _ fun a => by simp [hw, amFind, modLltc]]
      simp [hc, ht, hw, modLltc]
  unfold passAll
  suffices ∀ (l : List Nat) (r : State × Nat), r.1.cores = [] ∧ r.1.tiles = [] ∧ r.1.switches = [] →
      (l.foldl (passTarget k) r).1.engines = r.1.engines from this _ (s, 0) h
  intro l
  induction l with
  | nil => intro r _; rfl
  | cons n l ih => intro r hr; rw [List.foldl_cons, ih _ (one r n hr).1, (one r n hr).2]

/-- Nor does it move a slot on, nor do the ring pages. -/
theorem tokenPassed_slot (k : Token) {s : State} (x : TSlot) (e n : Nat) (h : s.cores = [] ∧ s.tiles = [] ∧ s.switches = []) :
    getTSlot (moveRings (passAll k s).1 x) e n = getTSlot s e n := by
  have hm (u : State) : (moveRings u x).engines = u.engines := by
    unfold moveRings
    simp only
    split <;> rfl
  unfold getTSlot getEngine
  rw [hm, passAll_engines k h]

theorem witness_TierEvents :
    (lpddrPart pendingSector 0x1000 = some 0 ∧ (pendingSector.sector.pending.any fun x => x.1 == 0 && x.2 / 64 == 0x1000 / 64) = true ∧
      pendingSector.scsize ≠ 0 ∧ sectorDisabled pendingSector (sectorPos pendingSector 0 0x1000).sector = false ∧
      sectorDisabled { pendingSector with layers := [] } (sectorPos pendingSector 0 0x1000).sector = true) ∧
    (∀ c ∈ [(1, 1), (2 ^ 63 - 1, 63)],
      let s := traversing .copying c.1 []
      let x := getTSlot s 0 2
      (copyingInTurn (getEngine s 0)).head? = some 2 ∧ (getEngine s 0).lineAt ≠ some s.cycle ∧ nextLine x = some c.2 ∧
        (nextLine { x with copied := x.copied + 2 ^ c.2 } = none ↔ c.2 = 63) ∧
        (lineRead s (whoSlot 0 x) (0x100000000000 + 64 * c.2) 64).2 = some (List.replicate 64 0) ∧
        populated (lineRead s (whoSlot 0 x) (0x100000000000 + 64 * c.2) 64).1 0 (0x100000010000 + 64 * c.2) = true) ∧
    ((getTSlot alone 0 2).state = .finishing ∧ landing.2 = true ∧
      (getTSlot (moveRings (passAll (slotToken (getTSlot alone 0 2)) landing.1).1 (getTSlot alone 0 2)) 0 2).state = .finishing) ∧
    ((getTSlot (traversing .aborting 0 []) 0 2).state = .aborting ∧ (getTSlot (traversing .copying 0 []) 0 2).state = .copying ∧
      (getTSlot (traversing .finishing 0 []) 0 2).state = .finishing) ∧
    (starved.cycle % 4096 = 0 ∧ { starved with cycle := 1 }.cycle % 4096 ≠ 0 ∧ 1 < 8192 ∧ (getPart starved (partOfCore starved 1)).heatMode = 0 ∧ ¬ ((getChan starved 1 0).deliv = 0 ∧ (getChan starved 1 0).starve = 0)) ∧
    ((getPart (offreqWrite State.reset 0 offLayer) 0).offReq = some (1, 0, 15, 7) ∧ State.reset.draining.contains (0, 15) = false ∧
      fieldOf offLayer 15 12 = 1 ∧ ¬ freeCapacity (offreqWrite State.reset 0 offLayer) 0 7 (some (0, 15)) <
        usedIn (offreqWrite State.reset 0 offLayer) 0 (layerBase 0 15) (2 ^ 32)) ∧
    ((getPart (offreqWrite State.reset 0 offDie) 0).offReq = some (2, 1, 0, 7) ∧ State.reset.freezing.contains 1 = false ∧
      (getPart State.reset 0).exists_ = true ∧ ¬ freeCapacity (offreqWrite State.reset 0 offDie) 0 7 none < dieSpace State.reset 0 1) ∧
    ((getPart draining 0).offReq = some (1, 0, 15, 7) ∧ draining.draining.contains (0, 15) = true ∧
      usedIn draining 0 (layerBase 0 15) (2 ^ 32) = 0 ∧ draining.engines = []) ∧
    ((getPart freezing 0).offReq = some (2, 1, 0, 7) ∧ freezing.freezing.contains 1 = true ∧ regionsOnDie freezing 0 1 = []) := by
  refine ⟨?_, ?_, ⟨by decide +kernel, by decide +kernel, by
    rw [tokenPassed_slot _ _ _ _ (by decide +kernel)]; decide +kernel⟩, ?_, ?_, ?_, ?_, ?_, ?_⟩ <;> decide +kernel

/-- A stream with one command, sum-product commands on the way and in the queue, and detected episodes. -/
def streaming (k : MKind) : State := { app 0 [(4, pad)] with pairs := [(0, { stream := [{ num := 0, core := 0, slot := 0, kind := k }], entered := 1 })] }
def spQueued : State :=
  { waitingFor (.spAccept 3) with
    quads := [(0, { ticks := 2, path := [{ num := 3, core := 0, slot := 0, at_ := 0, kind := .mode 1 }], queue := [{ num := 2, core := 0, slot := 0, at_ := 0, kind := .mode 3 }] })] }
def spWaiting : State :=
  { waitingFor (.spwait 3) with quads := [(0, { queue := [{ num := 3, core := 0, slot := 0, at_ := 0, kind := .wait }] })] }
/-- A queue whose oldest command needs a tree, while later ones, which have started, hold this many. -/
def spHeld (n : Nat) : State :=
  let c : SpCmd := { kind := .up 0x0003000200010000 0 100 0 0x0F true }
  { app 0 [] with quads := [(0, { queue := c :: (List.range n).map fun i => { c with num := i + 1, seen := [(0, none)] } })] }

/-- A command whose operand cannot be read, and one whose scale bytes cannot be. -/
def unreadable : State := streaming (.mscl 0xFFFFFFFFFFFFFFC0 511 1)
def unscaled : State := modPair (streaming (.mrd 0 0 0 10 false true 0 4 none)) 0 fun p => { p with scale := { bad := [0] } }
def episode (tree : Option Nat) : Episode := { tree := tree, group := 5, parties := [{ thread := {}, level := 2 }] }
def detected : State :=
  { app 0 [] with quads := [(0, { detected := [episode none] })], regions := [(1, { area with detected := [episode (some 0)] })] }

/-- The same with the issuing thread waiting for it. -/
def streamed (k : MKind) : State := modThread (streaming k) {} fun x => { x with wait := .matrix 0 }

theorem witness_EngineEvents :
    (∀ k ∈ [MKind.mzero 15 0, .mwr 0 2032 [1], .mscl pad 511 1, .cbld 1 7], ∃ c rest, (getPair (streaming k) 0).stream = c :: rest ∧ c.kind = k ∧
      arrayAdvances (streaming k) 0 = true ∧ amFind (getPair (streaming k) 0).saved (getPair (streaming k) 0).holder = none) ∧
    (∀ k ∈ [MKind.mma 1 0 0 0 true true 0 0 pad pad none, .mma 1 0 11 11 false false 0 0 pad pad (some 0x3F800000),
        .mmac 2 1 0 0 0 true false 0 0 pad none],
      let s := streaming k
      ∃ c rest, (getPair s 0).stream = c :: rest ∧ c.kind = k ∧ (operandBytes s c 0).isSome = true ∧ (operandBytes s c 1).isSome = true ∧
        scaleFails (getPair s 0) k = false) ∧
    (∀ k ∈ [MKind.mrd 0 63 1 0x0B false false 0 0 none, .mrd 0 0 0 10 false false 0 0 none, .mrd 0 0 0 10 false true 0 4 none, .cbrd 3],
      ∃ c rest, (getPair (streamed k) 0).stream = c :: rest ∧ c.kind = k ∧ arrayAdvances (streamed k) 0 = true ∧
        scaleFails (getPair (streamed k) 0) k = false ∧ (getThread (streamed k) {}).wait = .matrix c.num) ∧
    (factorsQ [.fin false 1 0, tensorScale none] = 1 ∧
      (let p := getPair (streamed (.mrd 0 0 0 10 false true 0 4 none)) 0
       isFinite (scaleAt p 0) = true ∧ factorsQ [scaleAt p 0, tensorScale none] ≠ 1)) ∧
    (scaleFails (getPair unscaled 0) (.mrd 0 0 0 10 false true 0 4 none) = true ∧
      ∃ c, (getPair unreadable 0).stream = [c] ∧ (operandsOf c.kind).length = 1 ∧ operandBytes unreadable c 0 = none) ∧
    (∀ n ∈ [7, 8], ∃ c rest, (getQuad (spHeld n) 0).queue = c :: rest ∧ quadRuns (spHeld n) 0 = true ∧ spTree c = true ∧ spStarted c = false ∧
      spTreesTaken (spHeld n) 0 [] (c :: rest) c.num = n) ∧
    ((rmodeOf 4).isSome = true ∧ (rmodeOf 0).isSome = true ∧
      arrayAdvances { streaming (.mzero 0 0) with cycle := 1, quads := [(0, { opp := 0 })] } 0 = false) ∧
    (∃ c, (getPair (streaming (.mscl pad 511 1)) 0).stream = [c] ∧ arrayAdvances (streaming (.mscl pad 511 1)) 0 = true ∧
      operandBytes (streaming (.mscl pad 511 1)) c 0 = some (List.replicate 64 0)) ∧
    (∃ c, (getQuad spQueued 0).path = [c] ∧ (getQuad spQueued 0).queue.length < 32 ∧ c.at_ + 2 ≤ (getQuad spQueued 0).ticks ∧
      quadRuns spQueued 0 = true ∧
      (getThread spQueued {}).wait = .spAccept c.num) ∧
    (∃ c, (getQuad spQueued 0).queue = [c] ∧ c.kind = .mode 3 ∧ quadRuns spQueued 0 = true) ∧
    (∃ c, (getQuad spWaiting 0).queue = [c] ∧ c.kind = .wait ∧ quadRuns spWaiting 0 = true ∧ (getThread spWaiting {}).wait = .spwait c.num) ∧
    (∃ e, (getQuad detected 0).detected.find? (fun e => e.group == 5) = some e ∧ ∃ p ∈ e.parties, p.saved = none ∧ 1 ≤ p.level ∧ p.level ≤ 4) ∧
    ∃ r, getRegion detected 1 = some r ∧ ((r.detected.find? fun e => e.tree == some 0 && e.group == 5).any fun e => !e.parties.isEmpty) = true := by
  refine ⟨?_, ?_, ?_, ⟨by decide +kernel, by decide +kernel⟩, ⟨by decide +kernel, _, rfl, by decide +kernel⟩, ?_, by decide +kernel, ?_, ⟨_, rfl, by decide, by decide, by decide, by decide⟩, ⟨_, rfl, rfl, by decide⟩, ⟨_, rfl, rfl, by decide, by decide⟩, ⟨_, rfl, _, List.mem_cons_self, by decide⟩,
    some_of (by decide +kernel)⟩
  · intro k hk
    refine ⟨_, _, rfl, rfl, ?_⟩
    revert k
    decide +kernel
  · intro k hk
    refine ⟨_, _, rfl, rfl, ?_⟩
    revert k
    decide +kernel
  · intro k hk
    refine ⟨_, _, rfl, rfl, ?_⟩
    revert k
    decide +kernel
  · intro n hn
    refine ⟨_, _, rfl, ?_⟩
    revert n
    decide +kernel
  · exact ⟨_, rfl, by decide +kernel, by decide +kernel⟩

/-- A queue whose ring, launch command, configuration of one tile and domain table stand in the page at 0x10000000. -/
def ringed (head : Option HeadLaunch) (q : Queue → Queue) : State :=
  let s := mapped 0xD3 0 []
  let cmd : List Byte := toBytes 8 0x10000400 ++ List.replicate 24 0 ++ toBytes 8 0x10000800 ++ List.replicate 69 0 ++ [1] ++ List.replicate 18 0
  let image : List Byte := toBytes 4 0x10000 ++ toBytes 2 1 ++ toBytes 2 1 ++ toBytes 2 1 ++ toBytes 2 1 ++ List.replicate 52 0
  let doms : List Byte := List.replicate 16 0 ++ toBytes 8 0x100000 ++ toBytes 8 0x200000
  let cells := memWrite (memWrite (memWrite s.gmem.cells 0x100000000000 cmd) 0x100000000400 image) 0x100000000800 doms
  modPart { s with gmem := { cells := cells } } 0 fun p =>
    { p with ready := BitVec.allOnes 64, queues := [(7, q { qbase := 0x10000000, qctl := 0x10102, tail := 1, launch := head })] }

/-- The same with a working set of one page, that of the ring, in HBM4E. -/
def declaring : State :=
  let s := ringed none id
  let cells := memWrite (memWrite s.gmem.cells 0x100000000018 (toBytes 8 0x10000600)) 0x100000000068 [9, 0, 0, 0, 1]
  { s with gmem := { cells := memWrite cells 0x100000000600 (toBytes 8 0x10000000 ++ toBytes 8 1) } }

/-- R242, R308: a launch with a working set is not eligible when it becomes ready; its first page is taken. -/
theorem test_staging_begins :
    (getQueue (after (.launchReady 0 7) declaring) 0 7).launch.map (fun h => (h.eligibleAt, h.nextPage)) = some (none, 1) := by
  decide +kernel

/-- Placement records for that command: a byte that must be zero, a command that is not there, the command, and the same with a save
area that holds none. -/
def recordFor (cmd save : Nat) (z : Byte) : List Byte := toBytes 8 cmd ++ toBytes 8 save ++ [0, 0, 0, z] ++ toBytes 4 5 ++ List.replicate 8 0

/-- An empty save area of instance 5 in the page. -/
def areaSaved : State :=
  let s := ringed none id
  { s with gmem := { cells := memWrite s.gmem.cells 0x100000000900 (toBytes 8 5 ++ toBytes 8 0x10000000 ++ toBytes 4 64) } }

theorem witness_LaunchRecords :
    zeroAt (recordFor 0x10000000 0 1) 19 1 = false ∧
    (zeroAt (recordFor 0x20000000 0 0) 19 1 = true ∧ zeroAt (recordFor 0x20000000 0 0) 24 8 = true ∧
      (getRegion (ringed none id) (regionKey 0 5)).isSome = false ∧ numAt (recordFor 0x20000000 0 0) 20 4 = 5 ∧
      (rdLaunch (whoCommand (ringed none id) 0 0) (dwordAt (recordFor 0x20000000 0 0) 0) (ringed none id)).1.isNone = true) ∧
    (match rdLaunch (whoCommand (ringed none id) 0 0) 0x10000000 (ringed none id) with
     | (some (c, g), u) =>
       !((allocate (residentRegions u) 0 g.head c.nt c.share {}).any fun a => !exitsAt g.head {} a) && areaOk u 0 g.head c.handle (residentRegions u) (fun _ => false) {} && (allocate (residentRegions u) 0 g.head c.nt c.share {}).isSome &&
         !areaOk u 0 g.head c.handle (residentRegions u) (fun _ => false) { prow := 31 } &&
         (rdSave (rdArea (whoCommand (ringed none id) 0 0) 0x10000600) g.head 5 0x10000000 u).1.isNone
     | _ => false) = true ∧
    (match rdLaunch (whoCommand areaSaved 0 0) 0x10000000 areaSaved with
     | (some (c, g), u) =>
       !((allocate (residentRegions u) 0 g.head c.nt c.share {}).any fun a => !exitsAt g.head {} a) && (match rdSave (rdArea (whoCommand areaSaved 0 0) 0x10000900) g.head 5 0x10000000 u with
        | (some x, v) => areaOk v 0 g.head c.handle (residentRegions v) (fun _ => false) {} && (namedSave v 0 5 0 0x10000900 x.2).isNone &&
            !areaOk v 0 g.head c.handle (residentRegions v) (fun _ => false) { prow := 31 } &&
            (allocate (residentRegions v) 0 g.head c.nt c.share {}).isSome
        | _ => false)
     | _ => false) = true := by
  decide +kernel

/-- The head launch is eligible since cycle 0, and placement has been kept waiting. -/
def eligible : State := { ringed (some { eligibleAt := some 0 }) id with cycle := 2100000 }
def staging : State := { ringed (some { deadline := 9 }) id with cycle := 9 }

/-- A partition with a reservation for that queue, and regions that have been asked to stop. -/
def reserved : State := { modPart (ringed (some { eligibleAt := some 0 }) id) 0 fun p => { p with reservation := some { queue := 7 } } with cycle := 1050000 }
def stopping : State := { preempted with cycle := forceCycles }
def emptied : State := { sys [] with regions := [(1, { area with preempt := some (0, 0x10000000) })] }

/-- A region without threads whose last sweep agrees with the next; a command with a staging deadline and no working set; an overdue
launch whose command cannot be read. -/
def swept : State := { sys [] with regions := [(1, { area with lastSweep := some (true, 0, 0) })] }
def deadlined : State :=
  let s := ringed none id
  { s with gmem := { cells := memWrite s.gmem.cells 0x100000000068 [9] } }
def unplaced : State := { ringed (some { eligibleAt := some 0 }) fun q => { q with qbase := 0x20000000 } with cycle := 2100000 }

theorem witness_CommandEvents :
    (∃ r, getRegion (app 0 []) 1 = some r ∧ (r.nextSweep = (app 0 []).cycle ∧ r.ending = false ∧ r.lastSweep = none)) ∧
    ((∃ r, getRegion swept 1 = some r ∧ (r.nextSweep = swept.cycle ∧ r.ending = false ∧ sweepOf swept r = (true, 0, 0) ∧
        r.lastSweep = some (sweepOf swept r))) ∧
      (let x := getQueue deadlined 0 7
       queueTakes deadlined 0 7 && (match rdLaunch (whoCommand deadlined 0 (queueFunc x)) (headAddr x) deadlined with
        | (some (c, _), u) => x.launch.isNone && decide (c.deadline ≠ 0) && (stagedRanges c.working).isEmpty &&
            (c.deps.foldl (depMet (whoCommand deadlined 0 (queueFunc x))) (u, true)).2
        | _ => false)) = true ∧
      ∃ c, (candidates unplaced 0).filter (fun c => c.queue == 7 && decide (c.eligibleAt + 2100000 ≤ unplaced.cycle)) = [c] ∧
        reserver unplaced 0 = none ∧ (reservationBase unplaced 0 c).2.isNone = true) ∧
    ((getPart (ringed none id) 0).exists_ = true ∧ queueLocked (ringed none id) 0 7 = false ∧ queueBusy (ringed none fun q => { q with tail := 0 }) 0 7 = false ∧
      queueBusy (ringed none id) 0 7 = true ∧ (getQueue (ringed none fun q => { q with err := true }) 0 7).err = true ∧
      pendingEntries { getQueue (ringed none id) 0 7 with tail := 1 } ≤ ringSize (getQueue (ringed none id) 0 7) ∧
      ringSize (getQueue (ringed none id) 0 7) < pendingEntries { getQueue (ringed none id) 0 7 with tail := 0xFFFF }) ∧
    (queueTakes (ringed none id) 0 7 = true ∧
      (let x := getQueue (ringed none id) 0 7
       match rdLaunch (whoCommand (ringed none id) 0 (queueFunc x)) (headAddr x) (ringed none id) with
       | (some (c, _), u) => x.launch.isNone && (c.deps.foldl (depMet (whoCommand (ringed none id) 0 (queueFunc x))) (u, true)).2
       | _ => false) = true ∧
      (let q := declaring
       let x := getQueue q 0 7
       queueTakes q 0 7 && (match rdLaunch (whoCommand q 0 (queueFunc x)) (headAddr x) q with
       | (some (c, _), u) => x.launch.isNone && decide (c.deadline ≠ 0) && (stagedPage (stagedRanges c.working) 0).isSome && (c.deps.foldl (depMet (whoCommand q 0 (queueFunc x))) (u, true)).2 &&
           !stagedFirst (c.deps.foldl (depMet (whoCommand q 0 (queueFunc x))) (u, true)).1 0 7
       | _ => false)) = true ∧
      (let q := ringed none fun q => { q with qbase := 0x20000000 }
       let x := getQueue q 0 7
       queueTakes q 0 7 && (rdLaunch (whoCommand q 0 (queueFunc x)) (headAddr x) q).1.isNone) = true) ∧
    (∃ h, (getQueue staging 0 7).launch = some h ∧ (h.eligibleAt = none ∧ h.deadline ≤ staging.cycle)) ∧
    (haltRequested (getPart (sys []) 0) = false ∧
      haltRequested (getPart (modPart (sys []) 0 fun p => { p with haltreq := true, dbgHalt := true }) 0) = true) ∧
    (∃ c, ((candidates eligible 0).filter (fun c => c.queue == 7 && decide (c.eligibleAt + 2100000 ≤ eligible.cycle))).head? = some c ∧
      (reserver eligible 0 = none ∧ (reservationBase eligible 0 c).2.isSome = true)) ∧
    (∃ r, reserver reserved 0 = some r ∧ r.1.since + 1050000 ≤ reserved.cycle) ∧
    (∃ r, getRegion stopping 1 = some r ∧ (r.preempt = some (0, 0x10000000) ∧ r.forced = false ∧ 0 + forceCycles ≤ stopping.cycle ∧
      (regionThreads stopping r).all (fun t => slotQuiet (getThread stopping t)) = false)) ∧
    ∃ r, getRegion emptied 1 = some r ∧ (r.preempt = some (0, 0x10000000) ∧ saveReady emptied r = true ∧ (ownArea emptied r).isSome = true) := by
  refine ⟨some_of (by decide +kernel), ⟨some_of (by decide +kernel), by decide +kernel,
      { queue := 7, saved := none, prio := 2, eligibleAt := 0 }, by decide +kernel⟩, ?_, ?_, some_of (by decide +kernel), by decide, some_of (by decide +kernel), some_of (by decide +kernel),
    some_of (by decide +kernel), some_of (by decide +kernel)⟩ <;> decide +kernel

/-- The end of a slack window of a partition, with a count of held cycles; a peer may have held for fewer, as many, or more. -/
def slack (n : Nat) : State := modPart { sys [] with cycle := 1050000 } 0 fun p => { p with collEn := true, collBin := 3, yarnexHeld := n }

/-- A service core in the third period, whose last grant was one microwatt; and a period on a core of an array with a live thread. -/
def granted (low : Bool) : State := modCore { sys [] with cycle := 21000 } 8192 fun c => { c with low := low, grantNum := 1 }
def demanding : State := { app 0 [] with cycle := 10500 }

theorem witness_PowerEvents :
    ({ sys [] with cycle := 10500 }.cycle % 10500 = 0 ∧ { sys [] with cycle := 10500 }.cycle ≠ (sys []).periodStart) ∧
    (0 ∈ (sys []).parts.map (·.1) ∧ ∀ n ∈ [0, 5], 8192 ∈ budgetCores (sys []) 0 [(.core 8192, n)] ∧
      chargedCore (sys []) [(.core 8192, n)] 8192 = n ∧ ((getPart (sys []) 0).grant * 1000000 < n ↔ n = 5)) ∧
    ((granted true).cycle % 10500 = 0 ∧ (granted true).cycle ≠ (granted true).periodStart ∧ ((granted true).parts.map (·.1)).Nodup ∧
      commonUnit (granted true) = 1 ∧ (getCore (granted true) 8192).low = true ∧ (getCore (granted false) 8192).low = false ∧
      ∀ n ∈ [1, 2], chargedCore (granted true) [(.core 8192, n)] 8192 = n ∧
        ((getCore (granted true) 8192).grantNum * 1 < n * (getCore (granted true) 8192).grantDen ↔ n = 2)) ∧
    (demanding.cycle % 10500 = 0 ∧ demanding.cycle ≠ demanding.periodStart ∧ 0 ∈ demanding.cores.map (·.1) ∧ isService 0 = false ∧
      ((getCore demanding 0).slots.any fun x => decide (x.2.slotState ≠ .free)) = true) ∧
    (7 < 8 ∧ 50 ≤ 50) ∧
    (crossing.crossings.any fun c => c.dst == 0 && c.port == 1) = true ∧
    (∀ h ∈ [0, 525000, 1050000], (getPart (slack h) 0).collEn = true ∧ (slack h).cycle % 1050000 = 0 ∧
      (slack h).cycle ≠ (getPart (slack h) 0).windowAt ∧ (getPart (slack h) 0).yarnexHeld = h ∧ 0 < (getPart (slack h) 0).collBin) := by
  decide +kernel

/-- Layout Halves, with a request to merge under way that is quiet, and one that is past its deadline. -/
def halves : State :=
  { State.reset with
    parts := [(0, { exists_ := true, stackSet := 3, lpbase := 0, lpsize := 1024 }), (2, { exists_ := true, stackSet := 12, lpbase := 1024, lpsize := 1024 })] }
def merging : State := modPart halves 0 fun t => { t with mergeStatus := 5, merge := some { absorb := 2, deadline := 7 } }
def late : State :=
  { merging with
    cycle := 7, engines := [(0, { slots := [(0, { state := .copying })] })] }

def waited : State := modPart halves 0 fun t => { t with mergeStatus := 5, merge := some { absorb := 2, deadline := 7, waited := true } }

/-- A token array in HBM4E, and a virtual function with queue 7. -/
def hosting : State :=
  modPart State.reset 0 fun p => { p with tokbase := 0x100000000001, nvf := 1, queues := [(7, { qctl := 0x200 })] }

theorem witness_PartitionEvents :
    ((getPart State.reset 0).exists_ = true ∧ (8 : Nat) % 8 = 0 ∧ funcLocked (getPart State.reset 0) 64 = false ∧ (64 : Nat) ≤ 64) ∧
    (ownsFunction State.reset 0 0 53 = true ∧ ownsFunction State.reset 0 0 54 = false) ∧
    (vfEnabled hosting 0 1 = true ∧ acceptsHost hosting 0 1 none = true ∧ fieldOf (getQueue hosting 0 (224 / 32)).qctl 15 9 = 1 ∧
      vfEnabled hosting 0 2 = false ∧ fieldOf (getQueue hosting 0 (0 / 32)).qctl 15 9 ≠ 1) ∧
    (let pa := fieldOf (getPart hosting 0).tokbase 51 15 * 2 ^ 15 + 32767
     (getPart State.reset 0).tokbase.getLsbD 0 = false ∧ (getPart hosting 0).tokbase.getLsbD 0 = true ∧ 32767 + ([1] : List Byte).length ≤ 32768 ∧
       pa / 64 = (pa + ([1] : List Byte).length - 1) / 64 ∧ populated hosting 0 pa = true ∧ ringFrozen hosting pa = false) ∧
    ((getPart halves 0).exists_ = true ∧ (getPart halves 0).mergeStatus ≠ 5 ∧ firstOne 4 12 = 2 ∧ (getPart halves 2).exists_ = true ∧
      (getPart halves 2).stackSet = 12 ∧ 0 < 2 ∧ lpAdjacent (getPart halves 0) (getPart halves 2) = true ∧ 3 + 12 ∈ [3, 12, 15] ∧
      (getPart halves 0).vfs ++ (getPart halves 2).vfs = []) ∧
    (getPart merging 0).mergeStatus = 5 ∧
    (∃ m, (getPart merging 0).merge = some m ∧ (mergeQuiet merging 0 m.absorb m = true ∧ merging.cycle ≤ m.deadline ∧ 0 ≠ m.absorb ∧
      ∀ c ∈ merging.cores, ∀ x ∈ c.2.slots, x.2.stores = [] ∧ x.2.reds = [])) ∧
    (∃ m, (getPart late 0).merge = some m ∧ (mergeQuiet late 0 m.absorb m = false ∧ m.deadline ≤ late.cycle ∧ m.waited = false)) ∧
    (∃ m, (getPart waited 0).merge = some m ∧ m.waited = true) ∧ gateLine hosting 0 (fieldOf (getPart hosting 0).tokbase 51 15 * 2 ^ 15) = [] ∧
    ([3, 12] ∈ [[15], [3, 12], [1, 2, 4, 8], [3, 4, 8], [1, 2, 12]] ∧ lpRangesOk [(0, 1024), (1024, 1024)] = true ∧
      ([3, 12].map fun m => amGet [(0, 5), (2, 10)] (firstOne 4 m) 0) = [5, 10] ∧ [5, 10].sum = [5, 10].foldl (fun a b => a ||| b) 0 ∧
      ([3, 12].map fun m => amGet ([] : List (Nat × Nat)) (firstOne 4 m) 0).sum ≤ min 4600 Config.grantBudget) := by
  refine ⟨by decide, by decide, by decide +kernel, by decide +kernel, by decide +kernel, by decide, some_of (by decide +kernel), some_of (by decide +kernel),
    some_of (by decide +kernel), by decide +kernel, by decide, by decide, by decide, by decide, Nat.zero_le _⟩

/-- Interfaces in each state, and a device that waits for FINISH. -/
def interfaces : State := modPart State.reset 0 fun p => { p with nvf := 3, vfs := [(1, .locked), (2, .run), (3, .error)], spdm := { pending := some 4 } }

theorem witness_TrustEvents :
    ((getPart interfaces 0).exists_ = true ∧ (getPart interfaces 0).spdm.pending = some 4 ∧ (getPart interfaces 0).spdm.version = false ∧
      (getPart interfaces 0).spdm.pendingKey.1 < 8) ∧
    (vfEnabled interfaces 0 3 = true ∧ vfState interfaces 0 1 = .locked ∧ vfState interfaces 0 2 = .run ∧ vfState interfaces 0 3 = .error ∧
      vfState interfaces 0 0 = .unlocked) ∧
    (∃ vf, vfEnabled interfaces 0 vf = true ∧ vfState (modPart State.reset 0 fun p => { p with nvf := 3 }) 0 vf = .unlocked) ∧
    fieldOf (getQueue interfaces 0 0).qctl 15 9 = 0 ∧
    ∃ signer m, signer = Config.tenantKey 0 ∧ m = measurement interfaces 0 2 := by
  refine ⟨by decide, by decide, ⟨3, by decide, by decide⟩, by decide, _, _, rfl, rfl⟩

theorem witness_DecodeEncode : (wellFormed (.add 3 1 2) = true ∧ ∃ w, encode (.add 3 1 2) = [w]) ∧
    (wellFormed (.mzero 1 2) = true ∧ ∃ w v, encode (.mzero 1 2) = [w, v]) ∧ encode (.add 3 1 2) ≠ [] :=
  ⟨⟨by decide, _, rfl⟩, ⟨by decide, _, _, rfl⟩, by decide⟩

/-- A thread whose first word is ADDI g5, g0, 1, on an agenda. -/
def placed : State := State.reset.withFetchWord 32 0x08A00001
def loadAt (l : List Turn) : State := { placed with agenda := l }

theorem witness_StepRunsDecoded :
    (threadExists placed.cur = true ∧ threadReady placed placed.cur = true ∧ isRoped (getThread placed placed.cur) = false ∧
      contenders placed placed.cur = [] ∧ passPending placed placed.cur (nextInClass placed true placed.cur) = false ∧
      (getThread placed placed.cur).wait = .none ∧ placed.agenda = [] ∧
      (∃ u, nextInstr { placed with agenda := [], defer := false, cur := placed.cur } placed.cur = (u, .ok (.addi 5 0 1)) ∧
        pathOpen u placed.cur.core (pathOf u placed.cur (.addi 5 0 1)) = true ∧
        ∃ r, exec (.addi 5 0 1) { u with cur := placed.cur } = .next r)) ∧
    ((loadAt [.run placed.cur]).agenda = .run placed.cur :: [] ∧ (loadAt [.issue placed.cur]).agenda = .issue placed.cur :: []) ∧
    (isGlobal (getThread placed placed.cur).pc = true ∧
      (match (threadXlate placed placed.cur (getThread placed placed.cur).pc.toNat false true false).2 with | .ok _ => true | _ => false) = true ∧
      isLong 0x08A00001 = false ∧ decodeWords 0x08A00001 0 = .ok (.addi 5 0 1)) ∧
    (let s := modThread placed placed.cur fun x => { x with begun := some (.ld 6 4 3 0), wait := .replied }
     (getThread s s.cur).begun = some (.ld 6 4 3 0) ∧ begunWait (getThread s s.cur).wait = true ∧ begunWait .none = false) ∧
    (encode (.budgetPeriod [] [] [] []) = [] ∧ (loadAt [.tick]).agenda = .tick :: []) := by
  refine ⟨⟨by decide, by decide, by decide, by decide +kernel, by decide +kernel, by decide, by decide, _, pair_is (ok_of (by decide +kernel)), by decide +kernel, ?_⟩, by decide, ?_, by decide, by decide⟩
  · have h : ∀ s, Retired s (after (.addi 5 0 1) s) → ∃ r, exec (.addi 5 0 1) s = .next r := fun s h => (retired_next h).imp fun _ h => h.1
    exact h _ (by unfold Retired; decide +kernel)
  · refine ⟨by decide, by decide +kernel, by decide, ok_of (by decide)⟩

theorem witness_EveryStepAnswers : TurnExists (State.reset.agenda.headD (.run State.reset.cur)) ∧
    ¬ TurnExists ({ State.reset with agenda := [.pick 8224] }.agenda.headD (.run State.reset.cur)) := by
  constructor
  · show threadExists _ = true; decide
  · show ¬ threadExists _ = true; decide

theorem witness_MemoryStaysCanonical : Memory.wf State.reset.gmem.cells = true ∧ ∃ t, step State.reset = .next t := by
  refine ⟨by decide, ?_⟩
  cases h : step State.reset with
  | next t => exact ⟨t, rfl⟩
  | fault e => exact absurd (show (match step State.reset with | .fault _ => true | _ => false) = true by rw [h]) (by decide)
  | refused e => exact absurd (show (match step State.reset with | .refused _ => true | _ => false) = true by rw [h]) (by decide)

end Sys2Proof.Tests
end

section
/-! CYCLE counts once in a cycle and nowhere else: no operation that the end of a cycle is made of changes it. One lemma per operation of
the model, in the model's order. -/
namespace Sys2Proof.Cycle
open Sys2Proof.Machine Sys2Proof.Safety

/-- Work done for each element of a list, one after the other. -/
theorem foldl_cycle {α : Type} {f : State → α → State} (hf : ∀ s x, (f s x).cycle = s.cycle) (l : List α) (s : State) :
    (l.foldl f s).cycle = s.cycle := by
  induction l generalizing s with
  | nil => rfl
  | cons x l ih => exact (ih _).trans (hf s x)

/-- The same for a state that goes along with another value. -/
theorem foldl_fst_cycle {α β : Type} {f : State × β → α → State × β} (hf : ∀ p x, (f p x).1.cycle = p.1.cycle) (l : List α)
    (p : State × β) : (l.foldl f p).1.cycle = p.1.cycle := by
  induction l generalizing p with
  | nil => rfl
  | cons x l ih => exact (ih _).trans (hf p x)

/-- The state that a match on a pair names. -/
theorem cycle_of_eq {α : Type} {p : State × α} {u : State} {r : α} (h : p = (u, r)) : u.cycle = p.1.cycle := by rw [h]

/-- Reads of the command processor in sequence. -/
theorem rd_bind_cycle {α β : Type} {m : Rd α} {k : α → Rd β} (hm : ∀ s : State, (m s).2.cycle = s.cycle)
    (hk : ∀ a (s : State), (k a s).2.cycle = s.cycle) (s : State) : ((m >>= k) s).2.cycle = s.cycle := by
  have first := hm s
  simp only [bind, OptionT.bind, OptionT.mk, StateT.bind]
  generalize m s = p at first ⊢
  obtain ⟨_ | a, u⟩ := p
  · exact first
  · exact (hk a u).trans first

/-! ### Traps and the end of an instruction -/

@[simp] theorem modRegion_cycle (s : State) (k : Nat) (f : Region → Region) : (modRegion s k f).cycle = s.cycle := by
  unfold modRegion
  split <;> rfl

@[simp] theorem dissolveRope_cycle (s : State) (t : ThreadRef) : (dissolveRope s t).cycle = s.cycle := by
  unfold dissolveRope
  split
  · exact foldl_cycle (fun s u => setThread_cycle s u _) _ _
  · rfl

@[simp] theorem threadFault_cycle (s : State) (t : ThreadRef) (dbl : Bool) : (threadFault s t dbl).cycle = s.cycle := by rfl

@[simp] theorem takeTrap_cycle (s : State) (t : ThreadRef) (cause : Nat) (val : Word) : (takeTrap s t cause val).cycle = s.cycle := by
  simp [takeTrap, apply_ite State.cycle]

@[simp] theorem retire_cycle (s : State) (t : ThreadRef) (pc : Word) : (retire s t pc).cycle = s.cycle := by rfl

@[simp] theorem releasePorts_cycle (s : State) (t : ThreadRef) (x : Thread) : (releasePorts s t x).cycle = s.cycle := by
  simp only [releasePorts]
  split <;> simp

@[simp] theorem blockThread_cycle (s : State) (t : ThreadRef) (w : Wait) : (blockThread s t w).cycle = s.cycle := by rfl

@[simp] theorem markIssued_cycle (s : State) (t : ThreadRef) (path : Nat) : (markIssued s t path).cycle = s.cycle := by rfl

/-! ### Operands -/

/-- A write to a general register or a port that succeeds. -/
theorem writeG_cycle {r : Reg} {v : Word} {s u : State} (h : writeG r v s = .ok ((), u)) : u.cycle = s.cycle := by
  unfold writeG at h
  split at h
  · simp only [pushPort, m_bind_run, getS_run] at h
    split at h
    · cases h
      rfl
    · cases h
  · cases h
    rfl

/-! ### Control-block writes -/

@[simp] theorem setQueueOvf_cycle (s : State) (p q : Nat) : (setQueueOvf s p q).cycle = s.cycle := by rfl

@[simp] theorem setQueueErr_cycle (s : State) (p q : Nat) : (setQueueErr s p q).cycle = s.cycle := by rfl

@[simp] theorem noteQuiet_cycle (s : State) (pq : Nat × Nat) : (noteQuiet s pq).cycle = s.cycle := by
  simp [noteQuiet, apply_ite State.cycle]

@[simp] theorem tailWrite_cycle (s : State) (p q : Nat) (v : Word) : (tailWrite s p q v).cycle = s.cycle := by
  simp [tailWrite, apply_ite State.cycle]

@[simp] theorem qctlWrite_cycle (s : State) (p q : Nat) (v : Word) : (qctlWrite s p q v).cycle = s.cycle := by
  simp [qctlWrite, apply_ite State.cycle]

@[simp] theorem qbaseWrite_cycle (s : State) (p q : Nat) (v : Word) : (qbaseWrite s p q v).cycle = s.cycle := by
  simp [qbaseWrite, apply_ite State.cycle]

@[simp] theorem qstatWrite_cycle (s : State) (p q : Nat) (v : Word) : (qstatWrite s p q v).cycle = s.cycle := by rfl

@[simp] theorem queueWrite_cycle (s : State) (p q off : Nat) (v : Word) : (queueWrite s p q off v).cycle = s.cycle := by
  simp only [queueWrite]
  split <;> simp

@[simp] theorem offreqWrite_cycle (s : State) (p : Nat) (v : Word) : (offreqWrite s p v).cycle = s.cycle := by
  simp [offreqWrite, apply_ite State.cycle]

@[simp] theorem setQueueEn_cycle (s : State) (pq : Nat × Nat) (on : Bool) : (setQueueEn s pq on).cycle = s.cycle := by rfl

@[simp] theorem mergeWrite_cycle (s : State) (p : Nat) (v : Word) : (mergeWrite s p v).cycle = s.cycle := by
  simp [mergeWrite, foldl_cycle, apply_ite State.cycle]

@[simp] theorem requestPreempt_cycle (s : State) (rk : Nat) (area : Nat) : (requestPreempt s rk area).1.cycle = s.cycle := by
  simp only [requestPreempt]
  (repeat' split) <;> simp

@[simp] theorem commandPreempt_cycle (tiers : Nat) (s : State) (rk : Nat) : (commandPreempt tiers s rk).cycle = s.cycle := by
  simp only [commandPreempt]
  split
  · rfl
  · split <;> next h => simp [cycle_of_eq h]

@[simp] theorem haltLaunches_cycle (before : Partition) (s : State) (p : Nat) : (haltLaunches before s p).cycle = s.cycle := by
  simp [haltLaunches, foldl_cycle, apply_ite State.cycle]

@[simp] theorem dbgctlWrite_cycle (s : State) (p : Nat) (v : Word) : (dbgctlWrite s p v).cycle = s.cycle := by
  simp [dbgctlWrite]

@[simp] theorem ctlWrite_cycle (s : State) (p off : Nat) (v : Word) : (ctlWrite s p off v).cycle = s.cycle := by
  simp [ctlWrite, apply_ite State.cycle]

/-! ### The point of coherence -/

@[simp] theorem setSectorRecord_cycle (s : State) (sector l : Nat) (r : BitVec 12) :
    (setSectorRecord s sector l r).cycle = s.cycle := by rfl

@[simp] theorem bumpSector_cycle (s : State) (p st : Nat) (c : ScCount) (n : Nat) : (bumpSector s p st c n).cycle = s.cycle := by rfl

@[simp] theorem mendLines_cycle (s : State) (first n : Nat) : (mendLines s first n).cycle = s.cycle := by rfl

@[simp] theorem carryErrors_cycle (s : State) (q : SectorPos) (tag : Nat) : (carryErrors s q tag).cycle = s.cycle := by
  simp [carryErrors, foldl_cycle, apply_ite State.cycle]

@[simp] theorem sectorAccess_cycle (s : State) (p pa : Nat) (write : Bool) : (sectorAccess s p pa write).cycle = s.cycle := by
  simp only [sectorAccess]
  split
  · rfl
  · split
    · rfl
    · split
      · split <;> simp [apply_ite State.cycle]
      · simp only [apply_ite State.cycle, bumpSector_cycle, setSectorRecord_cycle, ite_self]
        rw [foldl_cycle fun s l => setSectorRecord_cycle s _ _ _]
        simp

@[simp] theorem serveWrites_cycle (s : State) (sel : Nat × Nat → Bool) : (serveWrites s sel).cycle = s.cycle := by
  simp only [serveWrites]
  split <;> simp [foldl_cycle]

@[simp] theorem tierAccess_cycle (s : State) (p pa : Nat) (write : Bool) : (tierAccess s p pa write).cycle = s.cycle := by
  simp only [tierAccess]
  (repeat' split) <;> simp

@[simp] theorem gravityCount_cycle (s : State) (w : Who) (pa : Nat) : (gravityCount s w pa).cycle = s.cycle := by
  simp [gravityCount, apply_ite State.cycle]

@[simp] theorem recallOwner_cycle (s : State) (w : Who) (line : Nat) : (recallOwner s w line).cycle = s.cycle := by
  simp [recallOwner, apply_ite State.cycle]

@[simp] theorem wakeThread_cycle (st : Nat) (s : State) (t : ThreadRef) : (wakeThread st s t).cycle = s.cycle := by rfl

@[simp] theorem wakeMonitors_cycle (s : State) (p watched at_ : Nat) : (wakeMonitors s p watched at_).cycle = s.cycle := by
  simp only [wakeMonitors]
  split <;> simp [foldl_cycle]

@[simp] theorem leaveMonitor_cycle (s : State) (p pa : Nat) (v : Word) (t : ThreadRef) : (leaveMonitor s p pa v t).cycle = s.cycle := by rfl

@[simp] theorem controlWrite_cycle (s : State) (p off : Nat) (l : List Byte) (skip : Nat) :
    (controlWrite s p off l skip).cycle = s.cycle := by
  simp [controlWrite, foldl_cycle, apply_ite State.cycle]

@[simp] theorem lineRead_cycle (s : State) (w : Who) (pa n : Nat) : (lineRead s w pa n).1.cycle = s.cycle := by
  simp only [lineRead]
  (repeat' split) <;> simp

@[simp] theorem postSliceError_cycle (s : State) (w : Who) (pa : Nat) : (postSliceError s w pa).cycle = s.cycle := by rfl

@[simp] theorem linePut_cycle (s : State) (w : Who) (watched pa : Nat) (l : List Byte) : (linePut s w watched pa l).cycle = s.cycle := by
  simp [linePut, apply_ite State.cycle]

@[simp] theorem lineWriteAs_cycle (s : State) (w : Who) (watched pa : Nat) (l : List Byte) :
    (lineWriteAs s w watched pa l).cycle = s.cycle := by
  simp only [lineWriteAs]
  (repeat' split) <;> simp

@[simp] theorem lineWrite_cycle (s : State) (w : Who) (pa : Nat) (l : List Byte) : (lineWrite s w pa l).cycle = s.cycle := by
  simp [lineWrite]

@[simp] theorem moveViews_cycle (s : State) (src dst : Nat) : (moveViews s src dst).cycle = s.cycle := by rfl

@[simp] theorem returnViews_cycle (x : TSlot) (s : State) : (returnViews x s).cycle = s.cycle := by
  simp [returnViews, foldl_cycle]

@[simp] theorem abortSlot_cycle (s : State) (e n cause : Nat) : (abortSlot s e n cause).cycle = s.cycle := by
  simp [abortSlot]

@[simp] theorem noticeError_cycle (s : State) (p pa : Nat) (moving : Bool) : (noticeError s p pa moving).cycle = s.cycle := by
  simp only [noticeError]
  (repeat' split) <;> simp

@[simp] theorem cohRead_cycle (s : State) (w : Who) (pa n : Nat) (moving : Bool) : (cohRead s w pa n moving).1.cycle = s.cycle := by
  simp [cohRead]

@[simp] theorem cohWrite_cycle (s : State) (w : Who) (pa : Nat) (moving : Bool) (l : List Byte) :
    (cohWrite s w pa moving l).cycle = s.cycle := by
  simp only [cohWrite]
  split <;> simp

@[simp] theorem cohWriteAll_cycle (s : State) (w : Who) (pa : Nat) (moving : Bool) (l : List Byte) :
    (cohWriteAll s w pa moving l).cycle = s.cycle := by
  simp [cohWriteAll, foldl_cycle]

@[simp] theorem cohReadAll_cycle (s : State) (w : Who) (pa n : Nat) (moving : Bool) : (cohReadAll s w pa n moving).1.cycle = s.cycle := by
  refine foldl_fst_cycle (fun p q => ?_) _ _
  split
  · rfl
  · split <;> next h => simp [cycle_of_eq h]

@[simp] theorem performPiece_cycle (s : State) (w : Who) (pa : Nat) (moving : Bool) (skip first : Nat) (l : List Byte) :
    (performPiece s w pa moving skip first l).cycle = s.cycle := by
  simp [performPiece, apply_ite State.cycle]

@[simp] theorem performStore_cycle (s : State) (w : Who) (p : PendingStore) : (performStore s w p).cycle = s.cycle := by
  simp [performStore, foldl_cycle]

@[simp] theorem performRed_cycle (s : State) (w : Who) (r : PendingRed) : (performRed s w r).cycle = s.cycle := by
  simp only [performRed]
  (repeat' split) <;> next h => simp [cycle_of_eq h]

@[simp] theorem performHeld_cycle (s : State) (t : ThreadRef) (g : GateWrite) : (performHeld s t g).cycle = s.cycle := by
  cases g <;> simp [performHeld]

@[simp] theorem forwardUpTo_cycle (s : State) (die line : Nat) (place : Option Nat) : (forwardUpTo s die line place).cycle = s.cycle := by
  unfold forwardUpTo
  split
  · rfl
  · exact foldl_cycle (fun s x => performHeld_cycle s _ _) _ _

@[simp] theorem forwardRange_cycle (s : State) (die pa n : Nat) (place : Option Nat) : (forwardRange s die pa n place).cycle = s.cycle := by
  simp [forwardRange, foldl_cycle]

@[simp] theorem forwardGates_cycle (s : State) (die pa n : Nat) : (forwardGates s die pa n).cycle = s.cycle := by
  simp [forwardGates]

@[simp] theorem performInOrder_cycle (s : State) (t : ThreadRef) (p : PendingStore) : (performInOrder s t p).cycle = s.cycle := by
  simp [performInOrder]

@[simp] theorem performRedInOrder_cycle (s : State) (t : ThreadRef) (r : PendingRed) : (performRedInOrder s t r).cycle = s.cycle := by
  simp [performRedInOrder]

@[simp] theorem engineRead_cycle (s : State) (w : Who) (pa n : Nat) (moving : Bool) : (engineRead s w pa n moving).1.cycle = s.cycle := by
  simp [engineRead]

@[simp] theorem engineWrite_cycle (s : State) (w : Who) (pa : Nat) (moving : Bool) (l : List Byte) :
    (engineWrite s w pa moving l).cycle = s.cycle := by
  simp [engineWrite]

@[simp] theorem tableRead_cycle (s : State) (w : Who) (pa n : Nat) : (tableRead s w pa n).1.cycle = s.cycle := by
  simp [tableRead]

@[simp] theorem tableWrite_cycle (s : State) (w : Who) (pa : Nat) (l : List Byte) : (tableWrite s w pa l).cycle = s.cycle := by
  simp [tableWrite]

@[simp] theorem performStores_cycle (s : State) (t : ThreadRef) (sel : PendingStore → Bool) : (performStores s t sel).cycle = s.cycle := by
  simp only [performStores]
  split <;> simp [foldl_cycle]

@[simp] theorem performReds_cycle (s : State) (t : ThreadRef) (sel : PendingRed → Bool) : (performReds s t sel).cycle = s.cycle := by
  simp only [performReds]
  split <;> simp [foldl_cycle]

@[simp] theorem performAll_cycle (s : State) (t : ThreadRef) : (performAll s t).cycle = s.cycle := by
  simp [performAll]

@[simp] theorem takeBoundary_cycle (s : State) (t : ThreadRef) : (takeBoundary s t).cycle = s.cycle := by rfl

/-! ### Translation -/

@[simp] theorem swapEntry_cycle (s : State) (w : Who) (addr new : Nat) : (swapEntry s w addr new).cycle = s.cycle := by
  simp [swapEntry]

@[simp] theorem touchLeaf_cycle (s : State) (w : Who) (addr e : Nat) (write : Bool) : (touchLeaf s w addr e write).cycle = s.cycle := by
  simp [touchLeaf, apply_ite State.cycle]

@[simp] theorem readGroup_cycle (s : State) (w : Who) (base : Nat) : (readGroup s w base).1.cycle = s.cycle := by
  unfold readGroup
  split
  · next h => simp [cycle_of_eq h]
  · next h => split <;> next h2 => simp [cycle_of_eq h2, cycle_of_eq h]

@[simp] theorem touchGroup_cycle (s : State) (w : Who) (base : Nat) (l : List Nat) (write : Bool) :
    (touchGroup s w base l write).cycle = s.cycle := by
  simp [touchGroup, apply_ite State.cycle]

@[simp] theorem finishLeaf_cycle (s : State) (r : WalkReq) (level addr e : Nat) : (finishLeaf s r level addr e).1.cycle = s.cycle := by
  simp only [finishLeaf]
  split
  · split
    · next h => simp [cycle_of_eq h]
    · next h => split <;> simp [cycle_of_eq h]
  · simp

@[simp] theorem walkFrom_cycle (r : WalkReq) (n : Nat) (s : State) (table : Nat) (path : List WalkEntry) :
    (walkFrom r n s table path).1.cycle = s.cycle := by
  induction n generalizing s table path with
  | zero => rfl
  | succ n ih =>
    simp only [walkFrom]
    split
    · next h => simp [cycle_of_eq h]
    · next h => (repeat' split) <;> simp [ih, cycle_of_eq h]

@[simp] theorem walk_cycle (s : State) (r : WalkReq) (cache : List WalkEntry) : (walk s r cache).1.cycle = s.cycle := by
  simp only [walk]
  split
  · rfl
  · split <;> simp

@[simp] theorem fillLltc_cycle (s : State) (die : Nat) (e : TlbEntry) : (fillLltc s die e).cycle = s.cycle := by
  simp [fillLltc, apply_ite State.cycle]

/-! ### Local memories -/

@[simp] theorem setLocalMem_cycle (s : State) (o : LObj) (m : Mem) : (setLocalMem s o m).cycle = s.cycle := by
  simp only [setLocalMem]
  split <;> simp

@[simp] theorem localWrite_cycle (s : State) (o : LObj) (off : Nat) (l : List Byte) : (localWrite s o off l).cycle = s.cycle := by
  simp [localWrite]

@[simp] theorem modChan_cycle (s : State) (tile c : Nat) (f : Channel → Channel) : (modChan s tile c f).cycle = s.cycle := by rfl

/-! ### Clocks -/

@[simp] theorem countTicks_cycle (s : State) : (countTicks s).cycle = s.cycle := by rfl

/-! ### The licence and the command stream -/

@[simp] theorem wakeLicence_cycle (s : State) (core : Nat) : (wakeLicence s core).cycle = s.cycle := by
  refine foldl_cycle (fun s i => ?_) _ _
  simp only
  split <;> simp

@[simp] theorem enterStream_cycle (s : State) (pk core slot : Nat) (k : MKind) : (enterStream s pk core slot k).cycle = s.cycle := by rfl

@[simp] theorem resumeHolder_cycle (s : State) (core : Nat) : (resumeHolder s core).cycle = s.cycle := by
  simp [resumeHolder]

@[simp] theorem admitSaved_cycle (s : State) (pk : Nat) : (admitSaved s pk).cycle = s.cycle := by
  simp only [admitSaved]
  (repeat' split) <;> simp

@[simp] theorem grantLicence_cycle (s : State) (pk side : Nat) : (grantLicence s pk side).cycle = s.cycle := by
  simp [grantLicence, apply_ite State.cycle]

@[simp] theorem releaseLicence_cycle (s : State) (pk side : Nat) : (releaseLicence s pk side).cycle = s.cycle := by
  simp [releaseLicence, apply_ite State.cycle]

/-! ### Steps of memory -/

@[simp] theorem timeOut_cycle (s : State) (t : ThreadRef) : (timeOut s t).cycle = s.cycle := by
  simp only [timeOut]
  (repeat' split) <;> simp

@[simp] theorem timeOutAll_cycle (s : State) : (timeOutAll s).cycle = s.cycle := by
  simp [timeOutAll, foldl_cycle]

@[simp] theorem decayAll_cycle (s : State) : (decayAll s).cycle = s.cycle := by rfl

/-! ### Heat reports -/

@[simp] theorem reportHeat_cycle (s : State) (p : Nat) (window : Option Nat) (deliv starve : Nat) :
    (reportHeat s p window deliv starve).cycle = s.cycle := by
  simp only [reportHeat]
  (repeat' split) <;> simp

@[simp] theorem heatReport_cycle (port channel : Nat) (s : State) : (heatReport port channel s).cycle = s.cycle := by
  simp [heatReport, apply_ite State.cycle]

@[simp] theorem heatReports_cycle (s : State) : (heatReports s).cycle = s.cycle := by
  simp [heatReports, foldl_cycle, apply_ite State.cycle]

/-! ### Copy channels -/

@[simp] theorem enqueueCopy_cycle (s : State) (k c : Nat) (x : CopyCmd) : (enqueueCopy s k c x).cycle = s.cycle := by rfl

@[simp] theorem drainNode_cycle (s : State) (quad : Nat) : (drainNode s quad).cycle = s.cycle := by
  simp only [drainNode]
  split
  · rfl
  · rw [modQuad_eq, setQuad_cycle]
    refine foldl_fst_cycle (fun p e => ?_) _ _
    split
    · split <;> simp
    · rfl

@[simp] theorem drainNodes_cycle (s : State) : (drainNodes s).cycle = s.cycle := by
  simp [drainNodes, foldl_cycle, apply_ite State.cycle]

@[simp] theorem releaseSets_cycle (s : State) : (releaseSets s).cycle = s.cycle := by
  refine foldl_cycle (fun s e => ?_) _ _
  split <;> simp

@[simp] theorem countStarve_cycle (s : State) (k c : Nat) : (countStarve s k c).cycle = s.cycle := by
  simp [countStarve, apply_ite State.cycle]

@[simp] theorem countStarves_cycle (s : State) : (countStarves s).cycle = s.cycle := by
  refine foldl_cycle (fun s c => foldl_cycle (fun s x => ?_) _ _) _ _
  split <;> simp

@[simp] theorem forgetGrains_cycle (s : State) (k c : Nat) : (forgetGrains s k c).cycle = s.cycle := by rfl

@[simp] theorem completeCopy_cycle (s : State) (k c : Nat) (x : CopyCmd) : (completeCopy s k c x).cycle = s.cycle := by rfl

@[simp] theorem enterFollowOn_cycle (s : State) (k c : Nat) (x : CopyCmd) (f : MKind) (n : Nat) :
    (enterFollowOn s k c x f n).cycle = s.cycle := by rfl

@[simp] theorem startChannel_cycle (s : State) (k c : Nat) : (startChannel s k c).cycle = s.cycle := by
  simp only [startChannel]
  (repeat' split) <;> simp

@[simp] theorem startChannels_cycle (s : State) : (startChannels s).cycle = s.cycle := by
  simp [startChannels, foldl_cycle, apply_ite State.cycle]

@[simp] theorem followOnEnters_cycle (s : State) (tile chan : Nat) : (followOnEnters s tile chan).cycle = s.cycle := by
  simp only [followOnEnters]
  (repeat' split) <;> simp

@[simp] theorem followOnsEnter_cycle (s : State) : (followOnsEnter s).cycle = s.cycle := by
  simp [followOnsEnter, foldl_cycle, apply_ite State.cycle]

/-! ### The static network -/

@[simp] theorem sendLink_cycle (s : State) (k : Nat) (l : Link) (w : LinkWord) : (sendLink s k l w).cycle = s.cycle := by
  simp [sendLink, apply_ite State.cycle]

@[simp] theorem popInput_cycle (s : State) (r : Region) (k p : Nat) : (popInput s r k p).cycle = s.cycle := by rfl

@[simp] theorem advanceRead_cycle (s : State) (k j : Nat) : (advanceRead s k j).cycle = s.cycle := by rfl

@[simp] theorem doWrite_cycle (s : State) (k b : Nat) (w : LinkWord) : (doWrite s k b w).cycle = s.cycle := by rfl

@[simp] theorem modGen_cycle (s : State) (k : Nat) (write : Bool) (f : Generator → Generator) :
    (modGen s k write f).cycle = s.cycle := by rfl

@[simp] theorem latchNode_cycle (s : State) (k : Nat) (write : Bool) (e : Option TlbEntry) :
    (latchNode s k write e).cycle = s.cycle := by rfl

@[simp] theorem nodeWalk_cycle (s : State) (k : Nat) (write : Bool) (va : Nat) : (nodeWalk s k write va).1.cycle = s.cycle := by
  simp only [nodeWalk]
  split <;> simp

theorem takeWalker_cycle {s u : State} {k va : Nat} {write : Bool} (h : takeWalker s k write va = some u) : u.cycle = s.cycle := by
  simp only [takeWalker] at h
  split at h
  · cases h
    rfl
  · split at h <;> cases h
    rfl

@[simp] theorem queueNode_cycle (s : State) (k : Nat) (write : Bool) (va : Nat) : (queueNode s k write va).cycle = s.cycle := by
  simp [queueNode, apply_ite State.cycle]

theorem nodeCached_cycle {s : State} {k va : Nat} {write : Bool} {p : State × ChanXlate} (h : nodeCached s k write va = some p) :
    p.1.cycle = s.cycle := by
  simp only [nodeCached] at h
  split at h
  · cases h
    simp
  · obtain ⟨e, -, rfl⟩ := Option.map_eq_some_iff.1 h
    simp

@[simp] theorem nodeXlate_cycle (s : State) (k : Nat) (write : Bool) (va : Nat) : (nodeXlate s k write va).1.cycle = s.cycle := by
  unfold nodeXlate
  split
  · next h => exact nodeCached_cycle h
  · split
    · next h => simp [takeWalker_cycle h]
    · simp

@[simp] theorem stallNode_cycle (s : State) (k : Nat) (write : Bool) (va cause level entry : Nat) :
    (stallNode s k write va cause level entry).cycle = s.cycle := by rfl

@[simp] theorem nodePrepare_cycle (k : Nat) (l : List (Word × Nat)) (s : State) : (nodePrepare k l s).1.cycle = s.cycle := by
  induction l generalizing s with
  | nil => rfl
  | cons x rest ih =>
    simp only [nodePrepare]
    split
    · rfl
    · split <;> next h => simp [ih, cycle_of_eq h]

@[simp] theorem nodeWrite_cycle (k : Nat) (q : List (Word × Nat)) (l : List Byte) (s : State) : (nodeWrite k q l s).cycle = s.cycle := by
  induction q generalizing l s with
  | nil => rfl
  | cons x rest ih =>
    simp only [nodeWrite]
    split <;> next h => simp [ih, cycle_of_eq h]

@[simp] theorem elementFault_cycle (s : State) (rk k cause : Nat) : (elementFault s rk k cause).cycle = s.cycle := by
  simp only [elementFault]
  (repeat' split) <;> simp

@[simp] theorem prepareWrites_cycle (l : List (Nat × RowEff)) (s : State) : (prepareWrites l s).1.cycle = s.cycle := by
  refine foldl_fst_cycle (fun p x => ?_) _ _
  split
  · rfl
  · simp only
    split
    · rfl
    · split <;> next h => simp [cycle_of_eq h]

@[simp] theorem deliverC_cycle (s : State) (k : Nat) (e : RowEff) : (deliverC s k e).cycle = s.cycle := by
  simp only [deliverC]
  split
  · rfl
  · split
    · simp
    · split <;> simp
    · simp
    · simp

@[simp] theorem performRow_cycle (r : Region) (s : State) (x : Nat × RowEff) : (performRow r s x).cycle = s.cycle := by
  simp only [performRow]
  rw [foldl_cycle (fun s o => by split <;> simp), deliverC_cycle]
  split <;> simp [foldl_cycle]

@[simp] theorem countNodeStarve_cycle (s : State) (r : Region) (st c : Nat) : (countNodeStarve s r st c).cycle = s.cycle := by
  simp [countNodeStarve, foldl_cycle, apply_ite State.cycle]

@[simp] theorem setSegment_cycle (s : State) (rk st : Nat) (f : Segment → Segment) : (setSegment s rk st f).cycle = s.cycle := by
  simp [setSegment]

@[simp] theorem startSegment_cycle (s : State) (rk st : Nat) : (startSegment s rk st).cycle = s.cycle := by
  simp only [startSegment]
  (repeat' split) <;> simp [foldl_cycle]

@[simp] theorem holdSegment_cycle (s : State) (rk st c : Nat) (r : Region) (own : Bool) :
    (holdSegment s rk st c r own).cycle = s.cycle := by
  simp [holdSegment]

@[simp] theorem advanceSegment_cycle (s : State) (rk st : Nat) (r : Region) : (advanceSegment s rk st r).cycle = s.cycle := by
  simp only [advanceSegment]
  (repeat' split) <;> simp

@[simp] theorem attemptSegment_cycle (s : State) (rk st : Nat) : (attemptSegment s rk st).cycle = s.cycle := by
  simp only [attemptSegment]
  split
  · rfl
  · split
    · rfl
    · split
      · simp
      · split
        · simp
        · split
          · simp
          · split
            · split <;> simp
            · split
              · simp
              · split <;> next h => simp [cycle_of_eq h, foldl_cycle]

@[simp] theorem attemptAll_cycle (s : State) : (attemptAll s).cycle = s.cycle := by
  simp [attemptAll, foldl_cycle]

@[simp] theorem outerLanded_cycle (s : State) (c : Crossing) : (outerLanded s c).cycle = s.cycle := by
  simp [outerLanded, apply_ite State.cycle]

@[simp] theorem landWord_cycle (s : State) (c : Crossing) : (landWord s c).cycle = s.cycle := by
  simp [landWord, apply_ite State.cycle]

@[simp] theorem linkFault_cycle (s : State) (node : Nat) : (linkFault s node).cycle = s.cycle := by
  simp only [linkFault]
  split <;> simp

@[simp] theorem loseWord_cycle (s : State) (node port : Nat) : (loseWord s node port).cycle = s.cycle := by
  simp only [loseWord]
  (repeat' split) <;> simp

@[simp] theorem crossingArrival_cycle (s : State) (node port : Nat) (err : Bool) : (crossingArrival s node port err).cycle = s.cycle := by
  simp only [crossingArrival]
  (repeat' split) <;> simp

@[simp] theorem landDue_cycle (s : State) : (landDue s).cycle = s.cycle := by
  simp [landDue, foldl_cycle, apply_ite State.cycle]

@[simp] theorem injectAll_cycle (s : State) : (injectAll s).cycle = s.cycle := by
  refine foldl_cycle (fun s p => ?_) _ _
  split <;> simp

/-! ### Episodes -/

@[simp] theorem detectTree_cycle (rk : Nat) (s : State) (tg : Nat × Nat) : (detectTree rk s tg).cycle = s.cycle := by
  simp only [detectTree]
  (repeat' split) <;> simp

@[simp] theorem detectBarrier_cycle (q : Nat) (s : State) (g : Nat) : (detectBarrier q s g).cycle = s.cycle := by
  simp only [detectBarrier]
  (repeat' split) <;> simp

@[simp] theorem commitEntries_cycle (s : State) : (commitEntries s).cycle = s.cycle := by rfl

@[simp] theorem releaseParty_cycle (part : Nat) (s : State) (p : Party) : (releaseParty part s p).cycle = s.cycle := by
  simp only [releaseParty]
  (repeat' split) <;> simp

@[simp] theorem advanceSaved_cycle (part g : Nat) (s : State) (p : Nat × Nat) : (advanceSaved part g s p).cycle = s.cycle := by rfl

@[simp] theorem completeSaved_cycle (part : Nat) (v : Saved) (s : State) (tg : Nat × Nat) :
    (completeSaved part v s tg).cycle = s.cycle := by
  simp only [completeSaved]
  split <;> simp [foldl_cycle]

@[simp] theorem detectSaved_cycle (s : State) (part : Nat) : (detectSaved s part).cycle = s.cycle := by
  simp [detectSaved, foldl_cycle, apply_ite State.cycle]

@[simp] theorem detectEpisodes_cycle (s : State) : (detectEpisodes s).cycle = s.cycle := by
  simp [detectEpisodes, foldl_cycle, apply_ite State.cycle]

/-! ### Reads of the command processor -/

@[simp] theorem rdPiece_cycle (w : Who) (va n : Nat) (s : State) : (rdPiece w va n s).2.cycle = s.cycle := by
  unfold rdPiece
  split
  · next h => split <;> next h2 => simp [cycle_of_eq h2, cycle_of_eq h]
  · next h => simp [cycle_of_eq h]

@[simp] theorem rdPieces_cycle (w : Who) (l : List (Nat × Nat)) (s : State) : (rdPieces w l s).2.cycle = s.cycle := by
  induction l generalizing s with
  | nil => rfl
  | cons x rest ih =>
    rw [rdPieces, rd_bind_cycle (rdPiece_cycle w x.1 x.2) fun l => ?_]
    exact rd_bind_cycle ih fun m s => rfl

@[simp] theorem rdBytes_cycle (w : Who) (va : Word) (n : Nat) (s : State) : (rdBytes w va n s).2.cycle = s.cycle := by
  refine rd_bind_cycle (fun s => ?_) (fun _ => rdPieces_cycle w _) s
  unfold rdCheck
  split <;> rfl

/-! ### Slots and HALT -/

@[simp] theorem acceptPacket_cycle (s : State) (core slot : Nat) (p : LaunchPacket) : (acceptPacket s core slot p).cycle = s.cycle := by rfl

@[simp] theorem admitWaiting_cycle (s : State) (core : Nat) : (admitWaiting s core).cycle = s.cycle := by
  refine foldl_cycle (fun s p => ?_) _ _
  split <;> simp

theorem asThread_cycle {m : M Unit} (hm : ∀ {s u : State}, m s = .ok ((), u) → u.cycle = s.cycle) (s : State) (t : ThreadRef) :
    (asThread s t m).cycle = s.cycle := by
  simp only [asThread, effectOf]
  split
  · next h => exact (hm h :)
  · rfl

@[simp] theorem noteRefusal_cycle (s : State) (t : ThreadRef) : (noteRefusal s t).cycle = s.cycle := by rfl

@[simp] theorem endArrival_cycle (s : State) (u : ThreadRef) (d : Nat) (result pc : Word) :
    (endArrival s u d result pc).cycle = s.cycle := by
  simp [endArrival, asThread_cycle writeG_cycle]

@[simp] theorem refuseArrivals_cycle (t : ThreadRef) (n : Nat) (sel : Nat → Nat → Bool) (s : State) :
    (refuseArrivals t n sel s).cycle = s.cycle := by
  induction n generalizing sel s with
  | zero => rfl
  | succ n ih =>
    simp only [refuseArrivals]
    split
    · rfl
    · rw [ih]
      refine foldl_cycle (fun s q => ?_) _ _
      split <;> simp

@[simp] theorem refuseNaming_cycle (s : State) (t : ThreadRef) (q : Nat) : (refuseNaming s t q).cycle = s.cycle := by
  simp [refuseNaming]

@[simp] theorem retainScratch_cycle (s : State) (t : ThreadRef) (handle : Word) : (retainScratch s t handle).cycle = s.cycle := by rfl

@[simp] theorem freeSlotOf_cycle (s : State) (t : ThreadRef) : (freeSlotOf s t).cycle = s.cycle := by
  simp [freeSlotOf, apply_ite State.cycle]

theorem coreEmptied_cycle {s : State} {retained : Option State} (h : ∀ r ∈ retained, r.cycle = s.cycle) (t : ThreadRef) :
    (coreEmptied s t retained).cycle = s.cycle := by
  cases retained with
  | none => simp [coreEmptied, apply_ite State.cycle]
  | some r => simp [coreEmptied, apply_ite State.cycle, h r rfl]

@[simp] theorem haltThread_cycle (s : State) (t : ThreadRef) (handle : Option Word) : (haltThread s t handle).cycle = s.cycle := by
  cases handle with
  | none => simp [haltThread, apply_ite State.cycle, coreEmptied_cycle]
  | some h => simp [haltThread, apply_ite State.cycle, coreEmptied_cycle]

/-! ### Ballast -/

@[simp] theorem addBallast_cycle (s : State) (d n : Nat) : (addBallast s d n).cycle = s.cycle := by rfl

@[simp] theorem ballastRegion_cycle (s : State) (r : Region) : (ballastRegion s r).cycle = s.cycle := by
  simp [ballastRegion, foldl_cycle, apply_ite State.cycle]

/-! ### The end of a region -/

@[simp] theorem signalToken_cycle (s : State) (w : Who) (sig : Word) : (signalToken s w sig).cycle = s.cycle := by
  unfold signalToken
  split
  · rfl
  · split
    · split <;> next h => simp [cycle_of_eq h]
    · rfl

@[simp] theorem queueNames_cycle (p : Nat) (handle : Word) (r : State × Bool) (q : Nat × Queue) :
    (queueNames p handle r q).1.cycle = r.1.cycle := by
  refine foldl_fst_cycle (fun r a => ?_) _ _
  split <;> simp

@[simp] theorem handleQueued_cycle (s : State) (p : Nat) (handle : Word) : (handleQueued s p handle).1.cycle = s.cycle := by
  unfold handleQueued
  split
  · rfl
  · exact foldl_fst_cycle (queueNames_cycle p handle) _ _

@[simp] theorem reclaimRetentions_cycle (s : State) (r : Region) : (reclaimRetentions s r).cycle = s.cycle := by
  simp only [reclaimRetentions, apply_ite State.cycle, modPart_eq, setPart_cycle]
  rw [foldl_fst_cycle fun a e => ?evacuated, ite_self]
  case evacuated =>
    split
    · split <;> next h => simp [cycle_of_eq h]
    · rfl
  refine foldl_cycle (fun s k => ?_) _ _
  split
  · rfl
  · split <;> next h => simp [cycle_of_eq h]

@[simp] theorem dropWaiter_cycle (s : State) (t : ThreadRef) : (dropWaiter s t).cycle = s.cycle := by rfl

@[simp] theorem answerSender_cycle (s : State) (p : LaunchPacket) (status : Nat) : (answerSender s p status).cycle = s.cycle := by
  simp only [answerSender]
  (repeat' split) <;> simp

@[simp] theorem countPacket_cycle (s : State) (core : Nat) (p : LaunchPacket) : (countPacket s core p).cycle = s.cycle := by
  simp [countPacket, apply_ite State.cycle]

@[simp] theorem refusePackets_cycle (s : State) (r : Region) : (refusePackets s r).cycle = s.cycle := by
  refine foldl_cycle (fun s m => ?_) _ _
  split
  · split <;> simp
  · rfl

@[simp] theorem releaseRegion_cycle (s : State) (rk : Nat) : (releaseRegion s rk).cycle = s.cycle := by
  simp only [releaseRegion]
  split
  · rfl
  · next r _ =>
    have quads := foldl_cycle fun s k => setQuad_cycle s k (freshQuad (getQuad s k))
    have switches := foldl_cycle fun s k => setSwitch_cycle s k (freshSwitch (getSwitch s k) [] [] ([], []) (none, none))
    have tiles := foldl_cycle fun s k => setTile_cycle s k (freshTile (getTile s k) {})
    have cores := foldl_cycle fun s k => setCore_cycle s k (vacateCore (getCore s k))
    have pairs := foldl_cycle (f := fun s k => { s with pairs := amErase s.pairs k }) fun _ _ => rfl
    simp only [modQuad_eq, modSwitch_eq, modTile_eq, modCore_eq, quads, pairs, switches, tiles, cores, foldl_cycle outerLanded_cycle,
      ballastRegion_cycle, refusePackets_cycle]

@[simp] theorem finishRegion_cycle (s : State) (rk : Nat) (aborted : Bool) : (finishRegion s rk aborted).cycle = s.cycle := by
  simp only [finishRegion]
  (repeat' split) <;> simp

@[simp] theorem endDrained_cycle (s : State) : (endDrained s).cycle = s.cycle := by
  simp [endDrained, foldl_cycle, apply_ite State.cycle]

@[simp] theorem summitSweep_cycle (s : State) (rk : Nat) : (summitSweep s rk).cycle = s.cycle := by
  simp only [summitSweep]
  (repeat' split) <;> simp [foldl_cycle]

@[simp] theorem sweepAll_cycle (s : State) : (sweepAll s).cycle = s.cycle := by
  simp [sweepAll, foldl_cycle]

/-! ### Pre-emption -/

@[simp] theorem stopThread_cycle (full : Bool) (cairn : Nat) (s : State) (t : ThreadRef) : (stopThread full cairn s t).cycle = s.cycle := by
  simp only [stopThread]
  split <;> simp

@[simp] theorem stopBlocked_cycle (s : State) (r : Region) : (stopBlocked s r).cycle = s.cycle := by
  simp [stopBlocked, foldl_cycle, apply_ite State.cycle]

@[simp] theorem stopForced_cycle (s : State) (t : ThreadRef) : (stopForced s t).cycle = s.cycle := by
  simp [stopForced, foldl_cycle, apply_ite State.cycle]

@[simp] theorem forceHalt_cycle (s : State) (region : Nat) : (forceHalt s region).cycle = s.cycle := by
  simp only [forceHalt]
  (repeat' split) <;> simp [foldl_cycle]

@[simp] theorem forceHalts_cycle (s : State) : (forceHalts s).cycle = s.cycle := by
  simp [forceHalts, foldl_cycle, apply_ite State.cycle]

@[simp] theorem handOverSide_cycle (r : Region) (pk : Nat) (s : State) (side : Nat) : (handOverSide r pk s side).cycle = s.cycle := by
  simp only [handOverSide]
  split
  · rw [releaseLicence_cycle]
    exact foldl_cycle (fun s t => setThread_cycle s t _) _ _
  · rfl

@[simp] theorem handOvers_cycle (s : State) (r : Region) : (handOvers s r).cycle = s.cycle := by
  simp [handOvers, foldl_cycle, apply_ite State.cycle]

@[simp] theorem stopAllForced_cycle (s : State) (r : Region) : (stopAllForced s r).cycle = s.cycle := by
  simp [stopAllForced, foldl_cycle, apply_ite State.cycle]

@[simp] theorem preemptTick_cycle (s : State) : (preemptTick s).cycle = s.cycle := by
  refine foldl_cycle (fun s e => ?_) _ _
  split <;> simp

/-! ### Merges -/

@[simp] theorem mergeTick_cycle (s : State) : (mergeTick s).cycle = s.cycle := by
  simp [mergeTick, apply_ite State.cycle]

/-! ### The slack controller -/

@[simp] theorem countSlack_cycle (s : State) : (countSlack s).cycle = s.cycle := by rfl

/-! ### The end of a cycle -/

@[simp] theorem commitTables_cycle (s : State) : (commitTables s).cycle = s.cycle := by
  simp [commitTables, apply_ite State.cycle]

@[simp] theorem commitWindows_cycle (s : State) : (commitWindows s).cycle = s.cycle := by
  simp [commitWindows, apply_ite State.cycle]

@[simp] theorem endThreads_cycle (s : State) : (endThreads s).cycle = s.cycle := by rfl

@[simp] theorem cycleDuties_cycle (s : State) : (cycleDuties s).cycle = s.cycle := by
  simp [cycleDuties]

@[simp] theorem startDuties_cycle (s : State) : (startDuties s).cycle = s.cycle := by
  simp [startDuties]

@[simp] theorem keepMemory_cycle (s : State) : (keepMemory s).cycle = s.cycle := by rfl

/-- The end of a cycle counts CYCLE once, and nothing that it brings about counts it again. -/
@[simp] theorem cycleEnd_cycle (s : State) : (cycleEnd s).cycle = s.cycle + 1 := by
  simp [cycleEnd]

end Sys2Proof.Cycle
end

section
/-! The step function is total up to turns that name no thread: every instruction, every part of a turn and every turn of a thread that
exists answers a next state (R3, R71; log entry 5). -/
namespace Sys2Proof.EveryStepAnswers
open Sys2Proof.Machine Sys2Proof.Safety

/-- The outcome is a next state: neither a fault nor a refusal. -/
def Answers (o : Host.Outcome State Fault Refusal) : Prop := ∃ t, o = .next t

theorem answers_next (s : State) : Answers (.next s) := ⟨s, rfl⟩

/-! ### Instructions -/

theorem answers_run4 (m : M Unit) (s : State) : Answers (run4 m s) := finish_next 4 _ s

/-- HALT ends without `finish`: its thread is gone, traps, or waits. -/
theorem answers_haltWork (h : M (Option Word)) (s : State) : Answers (haltWork h s) := by
  simp only [haltWork]
  split <;> exact answers_next _

/-- LAUNCH.abort frees its own thread, or ends as a 32-bit form does. -/
theorem answers_runMaybeGone (m : M Unit) (s : State) : Answers (runMaybeGone m s) := by
  unfold runMaybeGone
  split
  · split
    · exact answers_next _
    · exact answers_run4 m s
  · exact answers_run4 m s

theorem completeAccess_answers (i : Instr) (s : State) : Answers (completeAccess i s) := by
  cases i with
  | ld | ldu | ldl | vld | vlds | vldx | vldb | fillm | vfill | frame | unframe | wprd | cpy | cpym | cpyq | mtcfg | amo | amocas | amof
  | waita | get | put | launchInstall | launchPacket | launchPreempt => exact finish_next _ _ s
  | _ => exact answers_next s

theorem finishAccess_answers (s : State) (t : ThreadRef) : Answers (finishAccess s t) := by
  unfold finishAccess
  split
  · exact answers_next s
  · next u i _ =>
    obtain ⟨r, hr⟩ := completeAccess_answers i u
    rw [hr]
    exact answers_next _

theorem memoryReply_answers (core slot : Nat) (s : State) : Answers (execMemoryReply core slot s) := by
  simp only [execMemoryReply]
  split
  · exact answers_next s
  · split
    · exact answers_next _
    · exact finishAccess_answers _ _

/-- A step of the device, and an instruction whose work is one change or one trap, is a function of the state. Every other instruction
ends in `finish`, but for the four that come first. -/
theorem exec_answers (i : Instr) (s : State) : Answers (exec i s) := by
  cases i with
  | halt | haltRetain => exact answers_haltWork _ s
  | launchAbort => exact answers_runMaybeGone _ s
  | memoryReply core slot => exact memoryReply_answers core slot s
  | kand | kor | kxor | kandn | trap | split | cairn | yield => exact answers_next _
  | launchPacketArrival | threadCreation | yieldExpiry | segmentAttempt | crossingWordArrival | streamFetch | userMessageArrival
  | copyPiece | copyErrClear | cpymFollowOn | cpyqSetRelease | plainStorePerform | redPerform | waitaTimeout | predictorDecay | walkEnd
  | tokenPass | mailboxArrival | faultReply | sectorCacheAccess | traverseLineCopy | traverseFinish | traverseAbort | heatReport
  | offreqLayer | offreqDie | layerRemoved | dieOfflineDone | matrixCommandComplete | spCommandAccept | spCommandComplete
  | episodeRelease | summitSweep | qtailWrite | qctlWrite | qstatSkip | qstatErrClear | qstatOvfClear | launchReady | stagingDeadline
  | placementTurn | reservation | reservationPreempt | forcedHalt | regionSave | budgetPeriod | sagDetect | linkRetrain | slackWindow
  | mergeRequest | mergeExecute | mergeDeadline | getVersion | getCapabilities | negotiateAlgorithms | getDigests | getCertificate
  | challenge | getMeasurements | keyExchange | finish | lockInterface | tdispLockBreach | debugPolicyAccept | dbgHaltreq | dbgTraceen
  | dbgPerfen | registerWrite | moduleReset | partitionReset | hostPortWrite | functionReadinessChange | startInterface | stopInterface
  | numvfsWrite => exact answers_next _
  | _ => exact finish_next _ _ s

/-! ### Turns -/

theorem answers_andThen {o : Host.Outcome State Fault Refusal} {f : State → Host.Outcome State Fault Refusal} (ho : Answers o)
    (hf : ∀ s, Answers (f s)) : Answers (andThen o f) := by
  obtain ⟨t, rfl⟩ := ho
  exact hf t

theorem answers_eachTurn {α : Type} {f : α → State → Host.Outcome State Fault Refusal} (l : List α)
    (hf : ∀ x ∈ l, ∀ s, Answers (f x s)) (s : State) : Answers (eachTurn f l s) := by
  induction l generalizing s with
  | nil => exact answers_next s
  | cons x rest ih =>
    exact answers_andThen (hf x (by simp) s) (ih fun y hy => hf y (by simp [hy]))

theorem execAs_answers (i : Instr) (t : ThreadRef) (s : State) : Answers (execAs i t s) :=
  answers_andThen (exec_answers i _) fun _ => answers_next _

theorem issueAlone_answers (i : Instr) (t : ThreadRef) (s : State) : Answers (issueAlone i t s) := by
  simp only [issueAlone]
  split
  · exact answers_next s
  · exact answers_andThen (execAs_answers i t s) fun _ => answers_next _

theorem runAlone_answers (t : ThreadRef) (s : State) : Answers (runAlone t s) := by
  unfold runAlone
  split
  · exact answers_next _
  · exact answers_next _
  · exact issueAlone_answers _ _ _

theorem issueRope_answers (i : Instr) (ts : List ThreadRef) (s : State) : Answers (issueRope i ts s) := by
  simp only [issueRope]
  split
  · exact answers_eachTurn _ (fun t _ s => answers_andThen (execAs_answers i t s) fun _ => answers_next _) s
  · refine answers_andThen (answers_eachTurn ts (fun t _ s => execAs_answers i t s) s) fun r => ?_
    split <;> exact answers_next _

theorem runRope_answers (ts : List ThreadRef) (leader : ThreadRef) (s : State) : Answers (runRope ts leader s) := by
  simp only [runRope]
  split
  · refine answers_eachTurn _ (fun t _ s => ?_) s
    split
    · exact runAlone_answers t s
    · exact answers_next s
  · split
    · exact answers_next _
    · split
      · split
        · exact answers_next _
        · exact answers_next _
        · split
          · exact answers_next _
          · split
            · exact answers_eachTurn ts (fun t _ s => issueAlone_answers _ t s) _
            · exact issueRope_answers _ _ _
      · exact answers_next s

theorem issueTurn_answers (t : ThreadRef) (s : State) : Answers (issueTurn t s) := by
  simp only [issueTurn]
  split
  · exact answers_next _
  · split
    · split
      · exact runRope_answers _ _ _
      · exact answers_next s
    · exact runAlone_answers t s

theorem readyTurn_answers (t : ThreadRef) (s : State) : Answers (readyTurn t s) := by
  simp only [readyTurn]
  split
  · split
    · exact answers_next _
    · exact issueTurn_answers t _
  · exact issueTurn_answers t s

theorem threadTurn_answers (late : Bool) {t : ThreadRef} (h : threadExists t = true) (s : State) : Answers (threadTurn late t s) := by
  simp only [threadTurn, h]
  split
  · contradiction
  · split
    · exact answers_andThen (answers_eachTurn _ (fun u _ s => readyTurn_answers u s) _) (readyTurn_answers t)
    · exact answers_next s

theorem threadTurn_faults (late : Bool) {t : ThreadRef} (h : ¬ threadExists t = true) (s : State) :
    threadTurn late t s = .fault .noSuchThread := by
  simp [threadTurn, h]

/-- A core has its slot 0 exactly when it has each of its four slots. -/
theorem threadExists_slot {core slot : Nat} (h : threadExists { core := core, slot := 0 } = true) (hs : slot < 4) :
    threadExists { core := core, slot := slot } = true := by
  simpa [threadExists, hs] using h

theorem slotsAfter_lt {last i : Nat} (h : i ∈ slotsAfter last) : i < 4 := by
  obtain ⟨j, -, rfl⟩ := List.mem_map.1 h
  exact Nat.mod_lt _ (by decide)

theorem classTurn_answers {core : Nat} (h : threadExists { core := core, slot := 0 } = true) (vec : Bool) {slot : Nat} (hs : slot < 4)
    (s : State) : Answers (classTurn core vec slot s) := by
  simp only [classTurn]
  split
  · exact threadTurn_answers _ (threadExists_slot h hs) s
  · exact answers_next s

theorem coreTurn_answers {core : Nat} (h : threadExists { core := core, slot := 0 } = true) (s : State) : Answers (coreTurn core s) := by
  have class_ (vec : Bool) (last : Nat) (s : State) : Answers (eachTurn (classTurn core vec) (slotsAfter last) s) :=
    answers_eachTurn _ (fun _ hi s => classTurn_answers h vec (slotsAfter_lt hi) s) s
  simp only [coreTurn, h]
  exact answers_andThen (class_ false _ _) (class_ true _)

theorem conflictTurn_answers {t : ThreadRef} (h : threadExists t = true) (s : State) : Answers (conflictTurn t s) := by
  simp only [conflictTurn, h]
  split
  · contradiction
  · split <;> exact answers_next _

theorem eventTurn_answers (i : Instr) (s : State) : Answers (eventTurn i s) := by
  unfold eventTurn
  split
  · exact exec_answers i _
  · exact answers_next s

theorem runTurn_answers {t : Turn} (h : TurnExists t) (s : State) : Answers (runTurn t s) := by
  cases t with
  | run t => exact threadTurn_answers false h s
  | issue t => exact threadTurn_answers true h s
  | pick core => exact coreTurn_answers h s
  | conflict t => exact conflictTurn_answers h s
  | event i => exact eventTurn_answers i s
  | rowConflict | spRead | spWrite | arrayRead | tick => exact answers_next _

theorem runTurn_faults {t : Turn} (h : ¬ TurnExists t) (s : State) : runTurn t s = .fault .noSuchThread := by
  cases t with
  | run t => exact threadTurn_faults false h s
  | issue t => exact threadTurn_faults true h s
  | pick core => simp only [TurnExists] at h; simp [runTurn, coreTurn, h]
  | conflict t => simp only [TurnExists] at h; simp [runTurn, conflictTurn, h]
  | rowConflict | spRead | spWrite | arrayRead | event | tick => exact absurd trivial h

theorem step_answers {s : State} (h : TurnExists (s.agenda.headD (.run s.cur))) : Answers (step s) := by
  unfold step nextTurn
  split
  · next t rest e => rw [e] at h; exact runTurn_answers h _
  · next e => rw [e] at h; exact answers_andThen (threadTurn_answers false h s) fun _ => answers_next _

theorem step_faults {s : State} (h : ¬ TurnExists (s.agenda.headD (.run s.cur))) : step s = .fault .noSuchThread := by
  unfold step nextTurn
  split
  · next t rest e => rw [e] at h; exact runTurn_faults h _
  · next e => rw [e] at h; rw [threadTurn_faults false h]; rfl

/-- Settles O58: an instruction ends in `finish` or is a function of the state, and a turn only sequences instructions. -/
theorem everyStepAnswers : Obligations.EveryStepAnswers :=
  ⟨exec_answers, fun _ => ⟨step_answers, step_faults⟩⟩

end Sys2Proof.EveryStepAnswers
end

section
/-! What a turn of a thread is made of: the fetch, the execution, the note of the issue, and the end of the cycle (log entries 5, 23). -/
namespace Sys2Proof.StepRunsDecoded
open Sys2Proof.Machine Sys2Proof.Safety

/-! ### The instruction that a turn executes -/

theorem nextInstr_fetches {s : State} {t : ThreadRef} (h : (getThread s t).begun = none ∨ begunWait (getThread s t).wait = false) :
    nextInstr s t = fetchInstr s t := by
  unfold nextInstr
  cases hb : (getThread s t).begun with
  | none => rfl
  | some i =>
    have hw : begunWait (getThread s t).wait = false := h.resolve_left (by simp [hb])
    simp [hw]

theorem nextInstr_begun {s : State} {t : ThreadRef} {i : Instr} (hb : (getThread s t).begun = some i)
    (hw : begunWait (getThread s t).wait = true) : nextInstr s t = (s, .ok i) := by
  simp [nextInstr, hb, hw]

theorem fetchWord_ok {s u v : State} {t : ThreadRef} {va : Word} {e : TlbEntry} {w : Word32} (hg : isGlobal va = true)
    (hx : threadXlate s t va.toNat false true false = (u, .ok e))
    (hn : noticeError u (getThread u t).part (tlbPa e va.toNat) e.t = v) (hc : codeWord v t (tlbPa e va.toNat) e.t = some w) :
    fetchWord s t va = (v, .ok w) := by
  simp only [fetchWord, hg, hx, hn, hc]
  rfl

theorem decodeFetched_ok {w v : Word32} {i : Instr} (h : decodeWords w v = .ok i) : decodeFetched w v = .ok i := by
  simp only [decodeFetched, h]

theorem fetchInstr_short {s v : State} {t : ThreadRef} {w : Word32} {i : Instr} (hf : fetchWord s t (getThread s t).pc = (v, .ok w))
    (hl : isLong w = false) (hd : decodeWords w 0 = .ok i) : fetchInstr s t = (v, .ok i) := by
  simp only [fetchInstr, hf, hl, decodeFetched_ok hd]
  rfl

theorem fetchInstr_long {s v z : State} {t : ThreadRef} {w w2 : Word32} {i : Instr}
    (hf : fetchWord s t (getThread s t).pc = (v, .ok w)) (hl : isLong w = true)
    (h2 : fetchWord v t ((getThread s t).pc + 4) = (z, .ok w2)) (hd : decodeWords w w2 = .ok i) : fetchInstr s t = (z, .ok i) := by
  simp only [fetchInstr, hf, hl, h2, decodeFetched_ok hd]
  rfl

/-! ### The turn of an unroped thread -/

/-- What a turn leaves of what exec answered: the instruction is kept where it has begun, and the turn is undone where a port direction
that it names is not free. -/
def issued (i : Instr) (t : ThreadRef) (u r0 : State) : State :=
  let r := noteBegun i t r0
  let dirs := touchedDirs i u r t
  if dirsFree u t (pathOf u t i) dirs then noteDirs (afterIssue r t (pathOf u t i)) t.core dirs else u

theorem issueAlone_open {i : Instr} {t : ThreadRef} {u r0 : State} (hp : pathOpen u t.core (pathOf u t i) = true)
    (hx : exec i { u with cur := t } = .next r0) : issueAlone i t u = .next (issued i t u r0) := by
  simp only [issueAlone, hp, execAs, hx]
  rfl

theorem issueTurn_unroped {s : State} {t : ThreadRef} (hr : isRoped (getThread s t) = false)
    (hw : ∀ va, (getThread s t).wait ≠ .refused va) : issueTurn t s = runAlone t s := by
  -- `hw` rules out the arm of a refused fault message
  simp only [issueTurn, hr, Bool.false_eq_true, if_false]

/-- The turn of a ready, unroped thread that no YIELD passes over. -/
theorem readyTurn_issues {s u r0 : State} {t : ThreadRef} {i : Instr} (hp : passPending s t (nextInClass s true t) = false)
    (hr : isRoped (getThread s t) = false) (hw : ∀ va, (getThread s t).wait ≠ .refused va) (hn : nextInstr s t = (u, .ok i))
    (ho : pathOpen u t.core (pathOf u t i) = true) (hx : exec i { u with cur := t } = .next r0) :
    readyTurn t s = .next (issued i t u r0) := by
  calc readyTurn t s = issueTurn t s := by simp [readyTurn, hp]
    _ = runAlone t s := issueTurn_unroped hr hw
    _ = issueAlone i t u := by simp only [runAlone, hn]
    _ = .next (issued i t u r0) := issueAlone_open ho hx

theorem threadTurn_ready {s : State} {t : ThreadRef} {late : Bool} (he : threadExists t = true) (hr : threadReady s t = true)
    (hc : contenders { s with defer := late, cur := t } t = []) : threadTurn late t s = readyTurn t { s with defer := late, cur := t } := by
  simp [threadTurn, he, hr, hc, eachTurn, andThen]

/-! ### Turns of the agenda -/

theorem step_agenda {s : State} {t : Turn} {rest : List Turn} (h : s.agenda = t :: rest) :
    step s = runTurn t { s with agenda := rest } := by
  simp [step, nextTurn, h]

theorem step_empty {s u : State} (h : s.agenda = []) (hu : threadTurn false s.cur s = .next u) : step s = .next (cycleEnd u) := by
  simp [step, nextTurn, h, hu, andThen]

theorem step_event {s : State} {i : Instr} {rest : List Turn} (h : s.agenda = .event i :: rest) (he : encode i = []) :
    step s = exec i { s with agenda := rest, defer := false } := by
  simp [step_agenda h, runTurn, eventTurn, isDeviceStep, he]

theorem step_tick {s : State} {rest : List Turn} (h : s.agenda = .tick :: rest) :
    step s = .next (cycleEnd { s with agenda := rest }) := step_agenda h

/-- Settles O57: the turn is `readyTurn` in the state that the agenda leaves, and the fetch goes word by word. -/
theorem stepRunsDecoded : Obligations.StepRunsDecoded := by
  refine ⟨?turn, fun s t i => ⟨nextInstr_fetches, nextInstr_begun⟩, ?fetch,
    fun s rest => ⟨fun i => step_event, step_tick, Cycle.cycleEnd_cycle s⟩⟩
  case turn =>
    intro s t rest late x s0 he hr hc hp ho hw i u hn path hopen r0 hx
    have ready : readyTurn t s0 = .next (issued i t u r0) := readyTurn_issues hp ho hw hn hopen hx
    have turn (z : State) (hz : { z with defer := late, cur := t } = s0) (hrz : threadReady z t = true) :
        threadTurn late t z = .next (issued i t u r0) := by
      rw [threadTurn_ready he hrz (hz ▸ hc), hz, ready]
    refine ⟨fun ha hl => ?_, fun ha hl => ?_, fun ha hrest hl hcur => ?_⟩
    · subst hl
      exact (step_agenda ha).trans (turn _ rfl hr)
    · subst hl
      exact (step_agenda ha).trans (turn _ rfl hr)
    · subst hl hrest hcur
      exact step_empty ha (turn s (congrArg (fun a => { s with agenda := a, defer := false }) ha) hr)
  case fetch =>
    intro s u v t e w i pc hg hx hn hc
    have first : fetchWord s t pc = (v, .ok w) := fetchWord_ok hg hx hn hc
    exact ⟨fetchInstr_short first, fun w2 z => fetchInstr_long first⟩

end Sys2Proof.StepRunsDecoded
end

section
/-! The reset state holds no core, no thread and no queue, and one partition whose registers are clear (log entries 2 to 4). -/
namespace Sys2Proof.ResetState
open Sys2Proof.Machine Sys2Proof.Safety

theorem getCore_reset (k : Nat) : getCore State.reset k = {} := rfl

theorem getThread_reset (t : ThreadRef) : getThread State.reset t = {} := rfl

theorem getPart_reset : getPart State.reset 0 = resetPartition := rfl

theorem getQueue_reset (q : Nat) : getQueue State.reset 0 q = {} := rfl

/-- No region and no saved launch stands for a queue, and its TAIL is its HEAD. -/
theorem queueBusy_reset (q : Nat) : queueBusy State.reset 0 q = false := rfl

theorem queueRead_reset (q off : Nat) : queueRead State.reset 0 q off = 0 := by
  unfold queueRead
  rw [getQueue_reset, queueBusy_reset]
  split <;> rfl

theorem layerPresent_reset {h l : Nat} (hh : h < 8) (hl : l < 16) : layerPresent State.reset h l = true := by
  have all : ∀ h < 8, ∀ l < 16, layerPresent State.reset h l = true := by decide
  exact all h hh l hl

theorem ctlRead_reset_txroot {f : Nat} (hf : f ≤ 64) : ctlRead State.reset 0 (0x100 + 8 * f) = 0 := by
  simp only [ctlRead]
  rw [if_neg (by omega), if_pos (by omega)]
  rfl

theorem ctlRead_reset_hvec {f : Nat} (hf : f ≤ 64) : ctlRead State.reset 0 (0x600 + 8 * f) = 0 := by
  simp only [ctlRead]
  repeat rw [if_neg (by omega)]
  rw [if_pos (by omega)]
  rfl

theorem ctlRead_reset_queue {q off : Nat} (hq : q < 256) (ho : off < 4) : ctlRead State.reset 0 (0x1000 + 32 * q + 8 * off) = 0 := by
  simp only [ctlRead]
  repeat rw [if_neg (by omega)]
  rw [if_pos (by omega)]
  exact queueRead_reset _ _

/-- Settles O60, by reading each register of `State.reset`. -/
theorem resetState : Obligations.ResetState := by
  refine ⟨rfl, rfl, fun t => ?thread, fun k => ?core, fun h l => layerPresent_reset, ?control, fun f hf => ?perFunction,
    fun q off => ctlRead_reset_queue⟩
  case thread => simp [getThread_reset]
  case core => simp [getCore_reset]
  case control => decide
  case perFunction => exact ⟨ctlRead_reset_txroot hf, ctlRead_reset_hvec hf⟩

end Sys2Proof.ResetState
end

section
/-! Why O53 fails: a host write through BAR2 passes the gateway of its die (R181, log entry 7), and what the gateway held may be a table
entry that makes the token's page a ring page of a locked interface, which ignores the write (R356). -/
namespace Sys2Proof.PartitionEvents
open Sys2Proof.Machine Sys2Proof.Safety

/-- The page of the token array, which is also the page of the tables. -/
def tokenPage : Nat := 0x100000000000

/-- Two table entries: one that names the page as its own next table, and a leaf that maps a page to it. -/
def selfEntries : List Byte := toBytes 8 (tokenPage + 1) ++ toBytes 8 (tokenPage + 3)

/-- Function 1 has locked its interface, with a ring of one entry at VA 0x1000 and its tables in the token page. The tables are empty:
the store of their entries stands at the gateway of die 0. -/
def lockedRing : State :=
  { State.reset with
    parts := [(0, { resetPartition with
      nvf := 1, tokbase := 0x100000000001, txroot := [(1, 0x100000000001)], vfs := [(1, .locked)], ringPages := [(1, [])]
      queues := [(0, { qbase := 0x1000, qctl := 0x200 })] })]
    cores := [(0, { slots := [(0, { slotState := .live, stores := [{ pa := tokenPage, bytes := selfEntries, reached := some 0 }] })] })] }

theorem lockedRing_populated : populated lockedRing 0 (tokenPage + 16) = true := by decide

theorem lockedRing_not_frozen : ringFrozen lockedRing (tokenPage + 16) = false := by decide +kernel

/-- The byte that the host writes is not there afterwards. -/
theorem lockedRing_write_ignored {t : State} (h : exec (.hostPortWrite 0 16 [1]) lockedRing = .next t) :
    memGet t.gmem.cells (tokenPage + 16) = 0 := by
  have ht : t = reached lockedRing (exec (.hostPortWrite 0 16 [1]) lockedRing) := by rw [h]; rfl
  rw [ht]
  decide +kernel

/-- Refutes O53: BAR2 takes the write of one byte at offset 16 of the token array, whose page is no ring page when the write arrives but
is one when it is performed. -/
theorem not_partitionEvents : ¬ Obligations.PartitionEvents := by
  intro holds
  obtain ⟨-, -, -, hostPort, -⟩ := holds lockedRing 0 (by decide)
  obtain ⟨t, hexec, written, -⟩ :=
    (hostPort 16 [1]).2 (by decide) (by decide) (by decide) (by decide) lockedRing_populated lockedRing_not_frozen
  have one : memGet t.gmem.cells (tokenPage + 16) = 1 := written 0 (by decide)
  rw [lockedRing_write_ignored hexec] at one
  exact absurd one (by decide)

end Sys2Proof.PartitionEvents
end

section
/-! Every well-formed instruction decodes from its words: the law of each instruction's fields (R9 to R24), gathered over all of them. -/
namespace Sys2Proof.DecodeEncode
open Sys2Proof.Laws

/-- Every instruction keeps its law, in the order of the opcode table. -/
theorem roundTrip (i : Instr) : RoundTrip.Statement i :=
  Instr.casesOn (motive := RoundTrip.Statement) i
    RoundTrip.add RoundTrip.sub RoundTrip.and RoundTrip.or RoundTrip.xor RoundTrip.sll RoundTrip.srl RoundTrip.sra RoundTrip.slt
    RoundTrip.sltu RoundTrip.min RoundTrip.max RoundTrip.minu RoundTrip.maxu RoundTrip.mul RoundTrip.mulh RoundTrip.mulhu RoundTrip.div
    RoundTrip.divu RoundTrip.rem RoundTrip.remu RoundTrip.clz RoundTrip.ctz RoundTrip.popc RoundTrip.movz RoundTrip.movn RoundTrip.addw
    RoundTrip.subw RoundTrip.addi RoundTrip.andi RoundTrip.ori RoundTrip.xori RoundTrip.slti RoundTrip.sltui RoundTrip.lui RoundTrip.insh
    RoundTrip.slli RoundTrip.srli RoundTrip.srai RoundTrip.bfxu RoundTrip.bfxs RoundTrip.bfi RoundTrip.addpc RoundTrip.beq RoundTrip.bne
    RoundTrip.blt RoundTrip.bge RoundTrip.bltu RoundTrip.bgeu RoundTrip.j RoundTrip.jal RoundTrip.jr RoundTrip.jalr RoundTrip.loop
    RoundTrip.ld RoundTrip.ldu RoundTrip.st RoundTrip.ldl RoundTrip.vadd RoundTrip.vsub RoundTrip.vmul RoundTrip.vdiv RoundTrip.vmin
    RoundTrip.vmax RoundTrip.vabs RoundTrip.vneg RoundTrip.vsqrt RoundTrip.vrcp RoundTrip.vrsq RoundTrip.vexp2 RoundTrip.vlog2
    RoundTrip.vadds RoundTrip.vsubs RoundTrip.vmulh RoundTrip.vand RoundTrip.vor RoundTrip.vxor RoundTrip.vsll RoundTrip.vsrl
    RoundTrip.vsra RoundTrip.vmov RoundTrip.vfma RoundTrip.vfms RoundTrip.vfnma RoundTrip.vfnms RoundTrip.vdot4 RoundTrip.vdot2
    RoundTrip.vcmp RoundTrip.vperm RoundTrip.vslup RoundTrip.vsldn RoundTrip.vbcast RoundTrip.vext RoundTrip.vins RoundTrip.vsel
    RoundTrip.vredsum RoundTrip.vredmax RoundTrip.vredmin RoundTrip.vzip RoundTrip.vunzip RoundTrip.vcmprs RoundTrip.vcvt RoundTrip.vcvth
    RoundTrip.vtag RoundTrip.vtchk RoundTrip.vshrn8 RoundTrip.vshrn16 RoundTrip.kand RoundTrip.kor RoundTrip.kxor RoundTrip.kandn
    RoundTrip.kmovlToMask RoundTrip.kmovlFromMask RoundTrip.kmovhToMask RoundTrip.kmovhFromMask RoundTrip.kpopc RoundTrip.kfirst
    RoundTrip.cbld RoundTrip.cbrd RoundTrip.fadd RoundTrip.fsub RoundTrip.fmul RoundTrip.fdiv RoundTrip.fmin RoundTrip.fmax
    RoundTrip.fsqrt RoundTrip.feq RoundTrip.flt RoundTrip.fle RoundTrip.fcvt RoundTrip.fma RoundTrip.vld RoundTrip.vst RoundTrip.vlds
    RoundTrip.vsts RoundTrip.vldx RoundTrip.vstx RoundTrip.vldb RoundTrip.spillm RoundTrip.fillm RoundTrip.vspill RoundTrip.vfill
    RoundTrip.frame RoundTrip.unframe RoundTrip.wprd RoundTrip.wpwait RoundTrip.cpy RoundTrip.cpym RoundTrip.cpyq RoundTrip.mtcfg
    RoundTrip.amo RoundTrip.amocas RoundTrip.amof RoundTrip.red RoundTrip.fence RoundTrip.waita RoundTrip.pref RoundTrip.get RoundTrip.put
    RoundTrip.arrive RoundTrip.wait RoundTrip.btest RoundTrip.bmem RoundTrip.phase RoundTrip.domain RoundTrip.mma RoundTrip.mmac
    RoundTrip.mzero RoundTrip.mrd RoundTrip.mwr RoundTrip.mscl RoundTrip.mwait RoundTrip.mlic RoundTrip.mrel RoundTrip.twx RoundTrip.hrd
    RoundTrip.hwr RoundTrip.spld RoundTrip.spst RoundTrip.spup RoundTrip.spdn RoundTrip.spmode RoundTrip.spnrm RoundTrip.spwait
    RoundTrip.migr RoundTrip.heat RoundTrip.tqry RoundTrip.mfs RoundTrip.mts RoundTrip.trap RoundTrip.eret RoundTrip.halt
    RoundTrip.haltRetain RoundTrip.rope RoundTrip.split RoundTrip.cairn RoundTrip.yield RoundTrip.mbxrd RoundTrip.mbxwrRetry
    RoundTrip.mbxwrRefuse RoundTrip.rltokRange RoundTrip.rltokFunc RoundTrip.rltokPart RoundTrip.launchInstall RoundTrip.launchPacket
    RoundTrip.launchPreempt RoundTrip.launchAbort RoundTrip.launchUnretain RoundTrip.pstat RoundTrip.ptry RoundTrip.dsend RoundTrip.drecv
    RoundTrip.launchPacketArrival RoundTrip.threadCreation RoundTrip.yieldExpiry RoundTrip.segmentAttempt RoundTrip.crossingWordArrival
    RoundTrip.streamFetch RoundTrip.userMessageArrival RoundTrip.copyPiece RoundTrip.copyErrClear RoundTrip.cpymFollowOn
    RoundTrip.cpyqSetRelease RoundTrip.plainStorePerform RoundTrip.redPerform RoundTrip.waitaTimeout RoundTrip.predictorDecay
    RoundTrip.walkEnd RoundTrip.tokenPass RoundTrip.mailboxArrival RoundTrip.faultReply RoundTrip.sectorCacheAccess
    RoundTrip.traverseLineCopy RoundTrip.traverseFinish RoundTrip.traverseAbort RoundTrip.heatReport RoundTrip.offreqLayer
    RoundTrip.offreqDie RoundTrip.layerRemoved RoundTrip.dieOfflineDone RoundTrip.matrixCommandComplete RoundTrip.spCommandAccept
    RoundTrip.spCommandComplete RoundTrip.episodeRelease RoundTrip.summitSweep RoundTrip.qtailWrite RoundTrip.qctlWrite
    RoundTrip.qstatSkip RoundTrip.qstatErrClear RoundTrip.qstatOvfClear RoundTrip.launchReady RoundTrip.stagingDeadline
    RoundTrip.placementTurn RoundTrip.reservation RoundTrip.reservationPreempt RoundTrip.forcedHalt RoundTrip.regionSave
    RoundTrip.budgetPeriod RoundTrip.sagDetect RoundTrip.linkRetrain RoundTrip.slackWindow RoundTrip.mergeRequest RoundTrip.mergeExecute
    RoundTrip.mergeDeadline RoundTrip.getVersion RoundTrip.getCapabilities RoundTrip.negotiateAlgorithms RoundTrip.getDigests
    RoundTrip.getCertificate RoundTrip.challenge RoundTrip.getMeasurements RoundTrip.keyExchange RoundTrip.finish RoundTrip.lockInterface
    RoundTrip.tdispLockBreach RoundTrip.debugPolicyAccept RoundTrip.dbgHaltreq RoundTrip.dbgTraceen RoundTrip.dbgPerfen
    RoundTrip.registerWrite RoundTrip.moduleReset RoundTrip.memoryReply RoundTrip.partitionReset RoundTrip.hostPortWrite
    RoundTrip.functionReadinessChange RoundTrip.startInterface RoundTrip.stopInterface RoundTrip.numvfsWrite

/-- The decoder keeps a row whose operands are well formed and whose words are those that it read. -/
theorem decodeWords_ok {w v : Word32} {i : Instr} (hc : candidate w v = some i) (hi : wellFormed i = true)
    (he : encode i = if isLong w then [w, v] else [w]) : decodeWords w v = .ok i := by
  simp [decodeWords, hc, hi, ← he]

theorem decodeWords_one {i : Instr} {w : Word32} (hi : wellFormed i = true) (he : encode i = [w]) :
    isLong w = false ∧ decodeWords w 0 = .ok i := by
  obtain ⟨hl, hc⟩ := (roundTrip i).1 w he
  exact ⟨hl, decodeWords_ok hc hi (by simp [hl, he])⟩

theorem decodeWords_two {i : Instr} {w v : Word32} (hi : wellFormed i = true) (he : encode i = [w, v]) :
    isLong w = true ∧ decodeWords w v = .ok i := by
  obtain ⟨hl, hc⟩ := (roundTrip i).2.1 w v he
  exact ⟨hl, decodeWords_ok hc hi (by simp [hl, he])⟩

/-- Every instruction with words has one word or two. -/
theorem encode_cases {i : Instr} (h : encode i ≠ []) : (∃ w, encode i = [w]) ∨ ∃ w v, encode i = [w, v] := by
  have hlen := (roundTrip i).2.2
  match he : encode i with
  | [] => exact absurd he h
  | [w] => exact .inl ⟨w, rfl⟩
  | [w, v] => exact .inr ⟨w, v, rfl⟩
  | _ :: _ :: _ :: _ => simp [he] at hlen

/-- The bytes of a word spell it (R5). -/
theorem wordOfBytes_bytes (w : Word32) :
    wordOfBytes (w.extractLsb' 0 8) (w.extractLsb' 8 8) (w.extractLsb' 16 8) (w.extractLsb' 24 8) = w := by
  unfold wordOfBytes
  rw [BitVec.extractLsb'_append_extractLsb'_eq_extractLsb' (by rfl), BitVec.extractLsb'_append_extractLsb'_eq_extractLsb' (by rfl),
    BitVec.extractLsb'_append_extractLsb'_eq_extractLsb' (by rfl)]
  exact BitVec.extractLsb'_eq_self

theorem decode_one {i : Instr} {w : Word32} (hl : isLong w = false) (hd : decodeWords w 0 = .ok i) (rest : List Byte) :
    decode (bytesOfWord w ++ rest) = .ok (i, rest) := by
  simp only [bytesOfWord, List.cons_append, List.nil_append, decode, wordOfBytes_bytes, hl, hd]
  rfl

theorem decode_two {i : Instr} {w v : Word32} (hl : isLong w = true) (hd : decodeWords w v = .ok i) (rest : List Byte) :
    decode (bytesOfWord w ++ (bytesOfWord v ++ rest)) = .ok (i, rest) := by
  simp only [bytesOfWord, List.cons_append, List.nil_append, decode, wordOfBytes_bytes, hl, hd]
  rfl

/-- Settles O55: the row that an instruction's words select is the instruction, whose operands pass the check and whose words are those
that were read. -/
theorem decodeEncode : Obligations.DecodeEncode := by
  intro i hi
  refine ⟨fun w he => decodeWords_one hi he, fun w v he => decodeWords_two hi he, fun hne rest => ?_⟩
  obtain ⟨w, he⟩ | ⟨w, v, he⟩ := encode_cases hne
  · obtain ⟨hl, hd⟩ := decodeWords_one hi he
    simpa [encodeBytes, he] using decode_one hl hd rest
  · obtain ⟨hl, hd⟩ := decodeWords_two hi he
    simpa [encodeBytes, he] using decode_two hl hd rest

end Sys2Proof.DecodeEncode
end

section
/-! The words that the rules spell from their fields, and the words that they exclude (R24). -/
namespace Sys2Proof.SpelledWords

/-- Settles O56, by decoding each of the words. -/
theorem spelledWords : Obligations.SpelledWords := by
  refine ⟨?spelled, ?excluded⟩
  case spelled => decide
  case excluded => decide

end Sys2Proof.SpelledWords
end

section
/-! The Privilege trap (R26): it comes before any other effect of a privileged form. -/
namespace Sys2Proof.PrivilegeTraps
open Sys2Proof.Machine Sys2Proof.Safety

theorem requireSys_ok {i : Instr} {s : State} (h : InSys s) : requireSys i s = .ok ((), s) := by
  unfold requireSys
  rw [m_bind_ok (self_run s)]
  exact if_pos h ▸ rfl

theorem requireSys_trap {i : Instr} {s : State} (h : ¬ InSys s) : requireSys i s = .error (.trap causePrivilege (instrWord i) id) := by
  unfold requireSys
  rw [m_bind_ok (self_run s)]
  exact if_neg h ▸ rfl

theorem requireService_trap {i : Instr} {s : State} (h : isService s.cur.core = false ∨ ¬ InSys s) :
    requireService i s = .error (.trap causePrivilege (instrWord i) id) := by
  unfold requireService
  rw [m_bind_ok (selfCore_run s)]
  cases hc : isService s.cur.core with
  | false => rfl
  | true => exact requireSys_trap (h.resolve_left (by simp [hc]))

/-- A form that opens with a check that traps raises the Privilege trap with its first word. -/
theorem finish_privilege {i : Instr} {len : Nat} {check : M Unit} {rest : Unit → M (Option Word)} {s : State}
    (h : check s = .error (.trap causePrivilege (instrWord i) id)) :
    finish len (check >>= rest) s = .next (takeTrap s s.cur causePrivilege (instrWord i)) :=
  finish_trap (k := id) (m_bind_error h)

theorem run4_privilege {i : Instr} {check : M Unit} {rest : Unit → M Unit} {s : State}
    (h : check s = .error (.trap causePrivilege (instrWord i) id)) :
    run4 (check >>= rest) s = .next (takeTrap s s.cur causePrivilege (instrWord i)) :=
  run4_trap (k := id) (m_bind_error (f := rest) h)

theorem run8_privilege {i : Instr} {check : M Unit} {rest : Unit → M Unit} {s : State}
    (h : check s = .error (.trap causePrivilege (instrWord i) id)) :
    run8 (check >>= rest) s = .next (takeTrap s s.cur causePrivilege (instrWord i)) :=
  finish_trap (k := id) (m_bind_error (m_bind_error (f := rest) h))

theorem runMaybeGone_privilege {i : Instr} {check : M Unit} {rest : Unit → M Unit} {s : State}
    (h : check s = .error (.trap causePrivilege (instrWord i) id)) :
    runMaybeGone (check >>= rest) s = .next (takeTrap s s.cur causePrivilege (instrWord i)) := by
  simp only [runMaybeGone, m_bind_error h]
  exact run4_privilege h

theorem exec_serviceOnly_trap {i : Instr} {s : State} (hi : serviceOnly i = true) (h : isService s.cur.core = false ∨ ¬ InSys s) :
    exec i s = .next (takeTrap s s.cur causePrivilege (instrWord i)) := by
  cases i with
  | mbxrd | mbxwrRetry | mbxwrRefuse => exact run4_privilege (requireService_trap h)
  | _ => exact absurd hi Bool.false_ne_true

theorem exec_sysOnly_trap {i : Instr} {s : State} (hi : sysOnly i = true) (h : ¬ InSys s) :
    exec i s = .next (takeTrap s s.cur causePrivilege (instrWord i)) := by
  cases i with
  | mbxrd | mbxwrRetry | mbxwrRefuse => exact exec_serviceOnly_trap rfl (.inr h)
  | eret => exact finish_privilege (requireSys_trap h)
  | mtcfg => exact run8_privilege (requireSys_trap h)
  | launchAbort => exact runMaybeGone_privilege (requireSys_trap h)
  | fence sc =>
    obtain rfl : sc = 7 := by simpa [sysOnly] using hi
    exact run4_privilege (requireSys_trap h)
  | rltokRange | rltokFunc | rltokPart | launchInstall | launchPacket | launchPreempt | launchUnretain | migr | heat =>
    exact run4_privilege (requireSys_trap h)
  | _ => exact absurd hi Bool.false_ne_true

/-- Settles O9: the check of the mode or of the core is the first thing that a privileged form does. -/
theorem privilegeTraps : Obligations.PrivilegeTraps := by
  rintro i s (⟨hi, hs⟩ | ⟨hi, hc⟩)
  · exact exec_sysOnly_trap hi hs
  · exact exec_serviceOnly_trap hi (.inl hc)

end Sys2Proof.PrivilegeTraps
end

section
/-! What the shared operations leave as it is: every memory, the matrix arrays, the clock, the executing thread and the counters of a
core under a change of threads and ports, and the contexts under the two ends of an instruction and under a trap (R70, R76, R318). -/
namespace Sys2Proof.Frames
open Sys2Proof.Machine Sys2Proof.Safety

/-! ### Everything but the contexts and the counters of a core -/

/-- The executing thread, the clock, the matrix arrays and every byte of memory are as before. -/
structure SameRest (s t : State) : Prop where
  cur : t.cur = s.cur
  cycle : t.cycle = s.cycle
  array : t.pairs = s.pairs
  memory : SameMemory s t

theorem SameRest.refl (s : State) : SameRest s s :=
  ⟨rfl, rfl, rfl, fun _ => rfl, fun _ _ => rfl, fun _ _ => rfl, fun _ _ => rfl⟩

theorem SameRest.trans {s t u : State} (h : SameRest s t) (k : SameRest t u) : SameRest s u := by
  obtain ⟨hglobal, hscratch, hsram, hquad⟩ := h.memory
  obtain ⟨kglobal, kscratch, ksram, kquad⟩ := k.memory
  exact ⟨k.cur.trans h.cur, k.cycle.trans h.cycle, k.array.trans h.array, fun a => (kglobal a).trans (hglobal a),
    fun c a => (kscratch c a).trans (hscratch c a), fun c a => (ksram c a).trans (hsram c a),
    fun c a => (kquad c a).trans (hquad c a)⟩

theorem sameRest_setCore {s : State} {k : Nat} {c : Core} (h : c.scratch = (getCore s k).scratch) : SameRest s (setCore s k c) := by
  refine ⟨rfl, rfl, rfl, fun _ => rfl, fun j a => ?_, fun _ _ => rfl, fun _ _ => rfl⟩
  by_cases e : j = k
  · rw [e, getCore_setCore_same, h]
  · rw [getCore_setCore_other s c e]

theorem sameRest_setThread (s : State) (t : ThreadRef) (x : Thread) : SameRest s (setThread s t x) := sameRest_setCore rfl

theorem sameRest_setSwitch (s : State) (k : Nat) (x : Switch) : SameRest s (setSwitch s k x) :=
  ⟨rfl, rfl, rfl, fun _ => rfl, fun _ _ => rfl, fun _ _ => rfl, fun _ _ => rfl⟩

/-- Messages and reports are no memory. -/
theorem sameRest_reports (s : State) (net : List NetMsg) (otair : List ThreadRef) :
    SameRest s { s with net := net, otairReports := otair } :=
  ⟨rfl, rfl, rfl, fun _ => rfl, fun _ _ => rfl, fun _ _ => rfl, fun _ _ => rfl⟩

/-! ### Registers -/

/-- The registers of a context, and its INSTRET, are as before. -/
structure SameRegs (x y : Thread) : Prop where
  g : y.g = x.g
  v : y.v = x.v
  k : y.k = x.k
  instret : y.instret = x.instret

/-- No memory and no register of any thread has changed, and no instruction has retired. -/
structure Undisturbed (s t : State) : Prop where
  rest : SameRest s t
  regs : ∀ u, SameRegs (getThread s u) (getThread t u)

theorem Undisturbed.refl (s : State) : Undisturbed s s := ⟨.refl s, fun _ => ⟨rfl, rfl, rfl, rfl⟩⟩

theorem Undisturbed.trans {s t u : State} (h : Undisturbed s t) (k : Undisturbed t u) : Undisturbed s u :=
  ⟨h.rest.trans k.rest, fun w => ⟨(k.regs w).g.trans (h.regs w).g, (k.regs w).v.trans (h.regs w).v, (k.regs w).k.trans (h.regs w).k,
    (k.regs w).instret.trans (h.regs w).instret⟩⟩

theorem Undisturbed.foldl {α : Type} {f : State → α → State} (h : ∀ s x, Undisturbed s (f s x)) (l : List α) (s : State) :
    Undisturbed s (l.foldl f s) := by
  induction l generalizing s with
  | nil => exact .refl s
  | cons x l ih => exact (h s x).trans (ih _)

theorem undisturbed_setThread {s : State} {t : ThreadRef} {x : Thread} (h : SameRegs (getThread s t) x) :
    Undisturbed s (setThread s t x) := by
  refine ⟨sameRest_setThread s t x, fun u => ?_⟩
  by_cases e : u = t
  · rw [e, getThread_setThread_same]
    exact h
  · rw [getThread_setThread_other s x e]
    exact ⟨rfl, rfl, rfl, rfl⟩

theorem undisturbed_reports (s : State) (net : List NetMsg) (otair : List ThreadRef) :
    Undisturbed s { s with net := net, otairReports := otair } :=
  ⟨sameRest_reports s net otair, fun _ => ⟨rfl, rfl, rfl, rfl⟩⟩

theorem Undisturbed.regsExcept {s t : State} (h : Undisturbed s t) (u : ThreadRef) (gs vs : List Reg) (ks : List MReg) :
    RegsExcept (getThread s u) (getThread t u) gs vs ks := by
  obtain ⟨hg, hv, hk, -⟩ := h.regs u
  exact ⟨fun r _ => by simp [gValue, hg], fun r _ => by simp [vValue, hv], fun k _ => by simp [kValue, hk]⟩

theorem Undisturbed.not_retired {s t : State} (h : Undisturbed s t) : ¬ Retired s t := by
  intro hr
  have same : (getThread t s.cur).instret = (me s).instret := (h.regs s.cur).instret
  rw [Retired, same] at hr
  exact absurd hr (by simp)

/-! ### Traps and waits -/

theorem dissolveRope_undisturbed (s : State) (t : ThreadRef) : Undisturbed s (dissolveRope s t) := by
  unfold dissolveRope
  split
  · refine .foldl (fun _ _ => ?_) _ s
    exact undisturbed_setThread ⟨rfl, rfl, rfl, rfl⟩
  · exact .refl s

theorem threadFault_undisturbed (s : State) (t : ThreadRef) (dbl : Bool) : Undisturbed s (threadFault s t dbl) := by
  refine .trans (undisturbed_setThread (t := t) ?_) (undisturbed_reports _ _ _)
  exact ⟨rfl, rfl, rfl, rfl⟩

/-- A trap writes the trap registers, the status and the PC of its thread and the status of its rope (R84, R318). -/
theorem takeTrap_undisturbed (s : State) (t : ThreadRef) (cause : Nat) (val : Word) : Undisturbed s (takeTrap s t cause val) := by
  refine (dissolveRope_undisturbed s t).trans ?_
  unfold takeTrap
  simp only
  split
  · refine .trans (undisturbed_setThread ?_) (threadFault_undisturbed _ t true)
    exact ⟨rfl, rfl, rfl, rfl⟩
  · split
    · exact undisturbed_setThread ⟨rfl, rfl, rfl, rfl⟩
    · split
      · refine .trans (undisturbed_setThread (t := t) ?_) (undisturbed_reports _ _ _)
        exact ⟨rfl, rfl, rfl, rfl⟩
      · split
        · exact undisturbed_setThread ⟨rfl, rfl, rfl, rfl⟩
        · refine .trans (undisturbed_setThread ?_) (threadFault_undisturbed _ t false)
          exact ⟨rfl, rfl, rfl, rfl⟩

theorem threadFault_others {s : State} {t u : ThreadRef} {dbl : Bool} (hu : u ≠ t) :
    getThread (threadFault s t dbl) u = getThread s u :=
  getThread_setThread_other s _ hu

/-- A thread that is in no rope traps alone. -/
theorem takeTrap_others {s : State} {t u : ThreadRef} {cause : Nat} {val : Word} (h : isRoped (getThread s t) = false) (hu : u ≠ t) :
    getThread (takeTrap s t cause val) u = getThread s u := by
  have alone : dissolveRope s t = s := by simp [dissolveRope, h]
  unfold takeTrap
  simp only [alone]
  split
  · exact (threadFault_others hu).trans (getThread_setThread_other s _ hu)
  · split
    · exact getThread_setThread_other s _ hu
    · split
      · exact getThread_setThread_other s _ hu
      · split
        · exact getThread_setThread_other s _ hu
        · exact (threadFault_others hu).trans (getThread_setThread_other s _ hu)

theorem blockThread_undisturbed (s : State) (t : ThreadRef) (w : Wait) : Undisturbed s (blockThread s t w) :=
  undisturbed_setThread ⟨rfl, rfl, rfl, rfl⟩

theorem blockThread_others {s : State} {t u : ThreadRef} {w : Wait} (hu : u ≠ t) : getThread (blockThread s t w) u = getThread s u :=
  getThread_setThread_other s _ hu

/-! ### Ports and the end of an instruction -/

/-- A core that holds other port directions. -/
def withHold (c : Core) (hold : AMap PortHold) : Core := { c with portHold := hold }

theorem releasePorts_cases (s : State) (t : ThreadRef) (x : Thread) :
    releasePorts s t x = s ∨ ∃ hold, releasePorts s t x = setCore s t.core (withHold (getCore s t.core) hold) := by
  unfold releasePorts
  split
  · exact .inl rfl
  · exact .inr ⟨_, rfl⟩

theorem releasePorts_sameRest (s : State) (t : ThreadRef) (x : Thread) : SameRest s (releasePorts s t x) := by
  obtain h | ⟨hold, h⟩ := releasePorts_cases s t x
  · rw [h]
    exact .refl s
  · rw [h]
    exact sameRest_setCore rfl

@[simp] theorem getThread_releasePorts (s : State) (t : ThreadRef) (x : Thread) (u : ThreadRef) :
    getThread (releasePorts s t x) u = getThread s u := by
  obtain h | ⟨hold, h⟩ := releasePorts_cases s t x
  · rw [h]
  · rw [h]
    exact getThread_setCore s t.core (withHold _ hold) rfl u

theorem retiredAt_sameRest (s t : State) (pc : Word) : SameRest t (retiredAt s t pc) :=
  (releasePorts_sameRest t s.cur (me s)).trans (sameRest_setThread _ _ _)

@[simp] theorem getThread_retiredAt (s t : State) (pc : Word) :
    getThread (retiredAt s t pc) s.cur =
      { getThread t s.cur with pc := pc, instret := (getThread t s.cur).instret + 1, wait := .none, begun := none } := by
  simp [retiredAt, retire]

theorem getThread_retiredAt_other {s t : State} {pc : Word} {u : ThreadRef} (hu : u ≠ s.cur) :
    getThread (retiredAt s t pc) u = getThread t u := by
  simp [retiredAt, retire, hu]

theorem afterG_sameRest (s : State) (r : Reg) : SameRest s (afterG s r) := by
  unfold afterG
  split
  · exact sameRest_setSwitch s _ _
  · exact .refl s

@[simp] theorem getThread_afterG (s : State) (r : Reg) (u : ThreadRef) : getThread (afterG s r) u = getThread s u := by
  unfold afterG
  split <;> rfl

@[simp] theorem getCore_afterG (s : State) (r : Reg) (k : Nat) : getCore (afterG s r) k = getCore s k := by
  unfold afterG
  split <;> rfl

/-- A general destination is a port, or a register of the executing thread. -/
theorem giveG_cases (s : State) (r : Reg) (v : Word) :
    (∃ k x, giveG s r v = setSwitch s k x) ∨ giveG s r v = setThread s s.cur (gWrite (me s) r v) := by
  unfold giveG
  split
  · exact .inl ⟨_, _, rfl⟩
  · exact .inr rfl

theorem giveG_sameRest (s : State) (r : Reg) (v : Word) : SameRest s (giveG s r v) := by
  obtain ⟨k, x, h⟩ | h := giveG_cases s r v
  · rw [h]
    exact sameRest_setSwitch s k x
  · rw [h]
    exact sameRest_setThread s _ _

theorem getThread_giveG_other {s : State} {r : Reg} {v : Word} {u : ThreadRef} (hu : u ≠ s.cur) :
    getThread (giveG s r v) u = getThread s u := by
  obtain ⟨k, x, h⟩ | h := giveG_cases s r v
  · rw [h, getThread_setSwitch]
  · rw [h, getThread_setThread_other s _ hu]

end Sys2Proof.Frames
end

section
/-! ERET (R321): the mode comes back from PMODE and execution goes on at TRAPPC. -/
namespace Sys2Proof.ReturnFromTrap
open Sys2Proof.Machine Sys2Proof.Safety Sys2Proof.Frames Sys2Proof.PrivilegeTraps

@[simp] theorem modeSys_setModes (x : Thread) (mode pmode : Bool) : modeSys (setModes x mode pmode) = mode := by
  unfold modeSys setModes statusWord
  rw [BitVec.getLsbD_ofNat, Nat.testBit_zero]
  generalize bit pmode = p, bit (isRoped x) = r
  cases mode <;> simp [bit] <;> omega

@[simp] theorem pmodeSys_setModes (x : Thread) (mode pmode : Bool) : pmodeSys (setModes x mode pmode) = pmode := by
  unfold pmodeSys setModes statusWord
  rw [BitVec.getLsbD_ofNat, Nat.testBit_eq_decide_div_mod_eq]
  generalize bit (isRoped x) = r
  cases mode <;> cases pmode <;> simp [bit] <;> omega

theorem checkTarget_ok {t : Word} {s : State} (h : GoodTarget t) : checkTarget t s = .ok ((), s) := by
  obtain ⟨aligned, below⟩ := h
  have low : fieldOf t 1 0 = 0 := by simpa [fieldOf, bitsOf] using aligned
  have high : fieldOf t 63 57 = 0 := by
    rw [fieldOf, bitsOf, Nat.shiftRight_eq_div_pow, Nat.div_eq_of_lt below, Nat.zero_mod]
  simp [checkTarget, low, high]

/-- The context that ERET leaves, before it retires. -/
def returnedThread (s : State) : Thread :=
  { setModes (me s) (pmodeSys (me s) || isService s.cur.core) false with inTrap := false, eretAt := some s.cycle }

theorem returnFromTrap_ok {s : State} (h : GoodTarget (me s).trappc) :
    returnFromTrap s = .ok (some (me s).trappc, setThread s s.cur (returnedThread s)) := by
  unfold returnFromTrap
  rw [m_bind_ok (self_run s), m_bind_ok (show checkTarget (getThread s s.cur).trappc s = _ from checkTarget_ok h),
    m_bind_ok (getS_run s), m_bind_ok (selfCore_run s), m_bind_ok (modSelf_run _ s)]
  rfl

theorem exec_eret {s : State} (hs : InSys s) (h : GoodTarget (me s).trappc) :
    exec .eret s = .next (retiredAt s (setThread s s.cur (returnedThread s)) (me s).trappc) :=
  runJump_ok (pc := some (me s).trappc) ((m_bind_ok (requireSys_ok hs)).trans (returnFromTrap_ok h))

/-- Settles O12: the context after ERET is read field by field. -/
theorem returnFromTrap : Obligations.ReturnFromTrap := by
  intro s hs h
  refine ⟨_, exec_eret hs h, ?_⟩
  have rest := (sameRest_setThread s s.cur (returnedThread s)).trans (retiredAt_sameRest s _ (me s).trappc)
  have others : OthersSame s (retiredAt s (setThread s s.cur (returnedThread s)) (me s).trappc) := fun u hu => by
    rw [getThread_retiredAt_other hu, getThread_setThread_other s _ hu]
  rw [Retired, getThread_retiredAt, getThread_setThread_same]
  exact ⟨rfl, modeSys_setModes _ _ _, pmodeSys_setModes _ _ _, rfl, rfl, rfl, rfl, rfl, rfl, rfl, rfl, rfl, rest.memory, others⟩

end Sys2Proof.ReturnFromTrap
end

section
/-! An instruction with one general source and no destination, or with one destination and no source; and one that finds its ports not
ready (R14, R25). -/
namespace Sys2Proof.OneOperand
open Sys2Proof.Machine Sys2Proof.Safety

theorem withPorts_source {α : Type} {s t : State} {a : Reg} {k : Word → M α} {x : α} (h : PortsReady s [a] [] [] [])
    (hk : k (valueG s a) (afterG s a) = .ok (x, t)) : withPorts [a] [] [] [] (readG a >>= k) s = .ok (x, t) :=
  withPorts_ok h ((m_bind_ok h.sources.takeG.1).trans hk)

theorem withPorts_dest {s : State} {d : Reg} {m : M Unit} {v : Word} (h : PortsReady s [] [] [d] []) (hm : m s = writeG d v s) :
    withPorts [] [] [d] [] m s = .ok ((), giveG s d v) :=
  withPorts_ok h (hm.trans (h.room.giveG v))

/-- Where a port is not ready, the instruction waits before it has done anything. -/
theorem withPorts_wait {α : Type} {s : State} {gs vs gd vd : List Reg} {m : M α} (h : ¬ PortsReady s gs vs gd vd) :
    ∃ w, withPorts gs vs gd vd m s = .error (.wait w id) := by
  have waits : ∃ w, needPorts gs vs gd vd s = .error (.wait w id) := by
    unfold needPorts
    rw [m_bind_ok (getS_run s)]
    cases hr : readBlocked s gs vs with
    | some dir => exact ⟨_, rfl⟩
    | none =>
      cases hw : writeBlocked s gd vd with
      | some dir => exact ⟨_, rfl⟩
      | none => exact absurd ⟨hr, hw⟩ h
  obtain ⟨w, hw⟩ := waits
  exact ⟨w, by simp only [withPorts, hw]⟩

end Sys2Proof.OneOperand
end

section
/-! VTAG (R66): the words of the form, its result, and the Tag trap of a port whose two words disagree (R14). -/
namespace Sys2Proof.Retag
open Sys2Proof.Machine Sys2Proof.Safety

theorem encode_vtag (d a : Reg) (t : Tag) : encode (.vtag d a t) = [0x20#6 ++ d ++ a ++ t ++ 0#3 ++ 0#3 ++ 0#1 ++ 2#4] := by
  have fields (x : BitVec 21) : (x ++ 0x2#11).toNat = (x ++ 0#3 ++ 0#3 ++ 0#1 ++ 2#4).toNat := by
    simp only [BitVec.toNat_append, BitVec.toNat_ofNat, Nat.zero_mod, Nat.or_zero, ← Nat.shiftLeft_add]
  exact congrArg (fun w : Word32 => [w]) (BitVec.eq_of_toNat_eq (fields (0x20#6 ++ d ++ a ++ t)))

theorem exec_vtag {d a : Reg} {s : State} (t : Tag) (h : PortsReady s [] [a] [] [d]) (ha : TagsAgree s a) :
    exec (.vtag d a t) s = .next (retired 4 s (giveV (afterV s a) d { bits := (valueV s a).bits, tag := t })) :=
  run4_ok (withPorts_ok h ((m_bind_ok (h.sources.takeV ha).1).trans ((h.room.afterV a).giveV _)))

/-- A port whose two words disagree in their tags is popped and traps. -/
theorem readV_disagree {s : State} {a : Reg} (h : SourcesReady s [] [a]) (ha : ¬ TagsAgree s a) :
    readV a s = .error (.trap causeTag (tagTrapVal a ((frontWord s (vPortDir a)).side.setWidth 5)
      ((frontWord (dropWord s (vPortDir a)) (vPortDir a)).side.setWidth 5)) id) := by
  obtain ⟨port, differ⟩ := Classical.not_imp.1 ha
  have two : 2 ≤ readyIn s (vPortDir a) := by
    have := h _ (vPortDir_lt port)
    rw [popsOf_cons_v] at this
    simp [port] at this
    omega
  have one := readyIn_dropWord_same s (vPortDir a)
  simp only [readV, port, if_true]
  rw [m_bind_ok (popPort_ok (by omega)), m_bind_ok (popPort_ok (by omega)), if_neg differ]
  rfl

theorem exec_vtag_disagree {d a : Reg} {s : State} (t : Tag) (h : PortsReady s [] [a] [] [d]) (ha : ¬ TagsAgree s a) :
    exec (.vtag d a t) s = .next (takeTrap (holdDirs (namedDirs [] [a, d]) s) s.cur causeTag
      (tagTrapVal a ((frontWord s (vPortDir a)).side.setWidth 5)
        ((frontWord (dropWord s (vPortDir a)) (vPortDir a)).side.setWidth 5))) :=
  run4_trap (withPorts_trap h (m_bind_error (readV_disagree h.sources ha)))

/-- Settles O23: the words field by field, and the two outcomes by whether the two words of the port carry one tag. -/
theorem retag : Obligations.Retag := by
  intro d a t s
  refine ⟨encode_vtag d a t, ?defined, fun h ha => exec_vtag t h ha, fun h ha => ?trap⟩
  case defined => simp [wellFormed, definedTag]
  case trap =>
    have := exec_vtag_disagree t h ha
    simpa [tagTrapVal] using this

end Sys2Proof.Retag
end

section
/-! The mask forms (R124), bit by bit, and k0 (R13). -/
namespace Sys2Proof.MaskForms
open Sys2Proof.Machine Sys2Proof.Safety Sys2Proof.OneOperand Sys2Proof.Frames

/-! ### Counting bits -/

theorem onesBelow_toNat {n : Nat} (x : BitVec n) (m : Nat) : onesBelow m x.toNat = (List.range m).filter fun i => x.getLsbD i := rfl

theorem headD_filter_range' (p : Nat → Bool) (a n : Nat) :
    ((List.range' a n).filter p).headD (a + n) = a + ((List.range' a n).takeWhile fun i => !p i).length := by
  induction n generalizing a with
  | zero => rfl
  | succ n ih =>
    rw [List.range'_succ, List.filter_cons, List.takeWhile_cons]
    cases p a with
    | true => rfl
    | false =>
      have rest := ih (a + 1)
      rw [show a + 1 + n = a + (n + 1) by omega] at rest
      exact rest.trans (by rw [Nat.add_assoc, Nat.add_comm 1]; rfl)

/-- The lowest one bit stands where the zero bits below it end. -/
theorem firstOne_toNat {n : Nat} (x : BitVec n) (m : Nat) :
    firstOne m x.toNat = ((List.range m).takeWhile fun i => !x.getLsbD i).length := by
  have first := headD_filter_range' x.getLsbD 0 m
  rw [Nat.zero_add, Nat.zero_add, ← List.range_eq_range'] at first
  exact first

/-! ### The forms -/

/-- What a form that writes m to mask d does. -/
def putMask (s : State) (d : MReg) (m : BitVec 128) : State := retired 4 s (modThread s s.cur fun x => kWrite x d m)

theorem exec_kand (d a b : MReg) (s : State) :
    exec (.kand d a b) s = .next (putMask s d (kValue (me s) a &&& kValue (me s) b)) := rfl

theorem exec_kor (d a b : MReg) (s : State) :
    exec (.kor d a b) s = .next (putMask s d (kValue (me s) a ||| kValue (me s) b)) := rfl

theorem exec_kxor (d a b : MReg) (s : State) :
    exec (.kxor d a b) s = .next (putMask s d (kValue (me s) a ^^^ kValue (me s) b)) := rfl

theorem exec_kandn (d a b : MReg) (s : State) :
    exec (.kandn d a b) s = .next (putMask s d (kValue (me s) a &&& ~~~kValue (me s) b)) := rfl

/-- A form that moves a general register into a mask, part of which it keeps. -/
theorem toMask_run {s : State} {d : MReg} {a : Reg} (f : BitVec 128 → Word → BitVec 128) (h : PortsReady s [a] [] [] []) :
    run4 (withPorts [a] [] [] [] (readG a >>= fun v => modSelf fun y => kWrite y d (f (kValue y d) v))) s =
      .next (retired 4 s (modThread (afterG s a) s.cur fun y => kWrite y d (f (kValue (me s) d) (valueG s a)))) := by
  refine run4_ok (withPorts_source h ?_)
  rw [modSelf_run, afterG_cur, modThread_eq, modThread_eq, getThread_afterG]
  rfl

/-- A form that gives a general register what it makes of a mask. -/
theorem fromMask_run {s : State} {d : Reg} {a : MReg} (f : BitVec 128 → Word) (h : PortsReady s [] [] [d] []) :
    run4 (withPorts [] [] [d] [] (self >>= fun x => writeG d (f (kValue x a)))) s =
      .next (retired 4 s (giveG s d (f (kValue (me s) a)))) :=
  run4_ok (withPorts_dest h rfl)

theorem kWrite_zero (x : Thread) (v : BitVec 128) : kWrite x 0 v = x := rfl

theorem kValue_kWrite {x : Thread} {k : MReg} {v : BitVec 128} (h : k ≠ 0) : kValue (kWrite x k v) k = v := by
  rw [kWrite, if_neg h, kValue, if_neg h]
  exact amGet_amPut_same 0 x.k k.toNat v

/-- Settles O24: the forms with two masks bit by bit, the moves between masks and general registers by their ports, and k0. -/
theorem maskForms : Obligations.MaskForms := by
  refine ⟨fun d a b s i hi => ?forms, fun p hp d a b s => ?bits, fun d a s h => ?toMask, fun d a s h => ?fromMask,
    fun x k v => ⟨rfl, kWrite_zero x v, kValue_kWrite⟩⟩
  case forms =>
    simp only [List.mem_cons, List.not_mem_nil, or_false] at hi
    obtain rfl | rfl | rfl | rfl := hi
    · exact ⟨_, exec_kand d a b s⟩
    · exact ⟨_, exec_kor d a b s⟩
    · exact ⟨_, exec_kxor d a b s⟩
    · exact ⟨_, exec_kandn d a b s⟩
  case bits =>
    simp only [maskBinary, List.mem_cons, List.not_mem_nil, or_false] at hp
    obtain rfl | rfl | rfl | rfl := hp
    · exact ⟨_, fun i hi => BitVec.getLsbD_and, exec_kand d a b s⟩
    · exact ⟨_, fun i hi => BitVec.getLsbD_or, exec_kor d a b s⟩
    · exact ⟨_, fun i hi => BitVec.getLsbD_xor, exec_kxor d a b s⟩
    · exact ⟨kValue (me s) a &&& ~~~kValue (me s) b, fun i hi => by simp [hi], exec_kandn d a b s⟩
  case toMask => exact ⟨toMask_run (fun x v => x.extractLsb' 64 64 ++ v) h, toMask_run (fun x v => v ++ x.extractLsb' 0 64) h⟩
  case fromMask =>
    simp only [← onesBelow_toNat, ← firstOne_toNat]
    exact ⟨fromMask_run (·.extractLsb' 0 64) h, fromMask_run (·.extractLsb' 64 64) h,
      fromMask_run (fun x => BitVec.ofNat 64 (popcount 128 x.toNat)) h,
      fromMask_run (fun x => BitVec.ofNat 64 (firstOne 128 x.toNat)) h⟩

end Sys2Proof.MaskForms
end

section
/-! MFS and MTS (R86): when each traps, waits or retires, and what a write of a system register leaves as it is (R15, R70). -/
namespace Sys2Proof.SystemRegisters
open Sys2Proof.Machine Sys2Proof.Safety Sys2Proof.Frames Sys2Proof.PrivilegeTraps Sys2Proof.OneOperand

/-! ### The three ends of each form -/

/-- MFS names a register that its mode may read (R16). -/
def MayRead (s : State) (r : BitVec 12) : Prop := r.toNat < 0x100 ∨ InSys s

/-- MTS names a register that its mode may write (R16). -/
def MayWrite (s : State) (r : BitVec 12) : Prop := 1 ≤ r.toNat ∧ r.toNat ≤ 3 ∨ InSys s

/-- A check that passes changes nothing. -/
theorem run4_check {check : M Unit} {rest : Unit → M Unit} {s : State} (h : check s = .ok ((), s)) :
    run4 (check >>= rest) s = run4 (rest ()) s := by
  simp only [run4, finish, m_bind_run, h]

theorem exec_mfs_open {d : Reg} {r : BitVec 12} {s : State} (h : MayRead s r) :
    exec (.mfs d r) s = run4 (withPorts [] [] [d] [] (getS >>= fun s => writeG d (sysRead s s.cur r.toNat))) s := by
  show execMfs d r s = _
  unfold execMfs
  cases hidden : sysHidden r.toNat with
  | false => rfl
  | true =>
    have := of_decide_eq_true hidden
    exact run4_check (requireSys_ok (h.resolve_left (by omega)))

theorem exec_mts_open {a : Reg} {r : BitVec 12} {s : State} (h : MayWrite s r) :
    exec (.mts a r) s = run4 (withPorts [a] [] [] [] (readG a >>= fun v => modS fun s => sysWrite s s.cur r.toNat v)) s := by
  show execMts a r s = _
  unfold execMts
  cases writable : appWritable r.toNat with
  | true => rfl
  | false => exact run4_check (requireSys_ok (h.resolve_left (of_decide_eq_false writable)))

theorem exec_mfs_ready {d : Reg} {r : BitVec 12} {s : State} (hm : MayRead s r) (h : PortsReady s [] [] [d] []) :
    exec (.mfs d r) s = .next (retired 4 s (giveG s d (sysRead s s.cur r.toNat))) :=
  (exec_mfs_open hm).trans (run4_ok (withPorts_dest h (m_bind_ok (getS_run s))))

theorem exec_mts_ready {a : Reg} {r : BitVec 12} {s : State} (hm : MayWrite s r) (h : PortsReady s [a] [] [] []) :
    exec (.mts a r) s = .next (retired 4 s (sysWrite (afterG s a) s.cur r.toNat (valueG s a))) :=
  (exec_mts_open hm).trans (run4_ok (withPorts_source h (by rw [modS_run, afterG_cur])))

theorem exec_mfs_blocked {d : Reg} {r : BitVec 12} {s : State} (hm : MayRead s r) (h : ¬ PortsReady s [] [] [d] []) :
    ∃ w, exec (.mfs d r) s = .next (blockThread s s.cur w) := by
  obtain ⟨w, hw⟩ := withPorts_wait h
  exact ⟨w, (exec_mfs_open hm).trans (run4_wait hw)⟩

theorem exec_mts_blocked {a : Reg} {r : BitVec 12} {s : State} (hm : MayWrite s r) (h : ¬ PortsReady s [a] [] [] []) :
    ∃ w, exec (.mts a r) s = .next (blockThread s s.cur w) := by
  obtain ⟨w, hw⟩ := withPorts_wait h
  exact ⟨w, (exec_mts_open hm).trans (run4_wait hw)⟩

theorem exec_mfs_privilege {d : Reg} {r : BitVec 12} {s : State} (h : ¬ MayRead s r) :
    exec (.mfs d r) s = .next (takeTrap s s.cur causePrivilege (instrWord (.mfs d r))) := by
  obtain ⟨above, hs⟩ := not_or.1 h
  have hidden : sysHidden r.toNat = true := decide_eq_true (by omega)
  show execMfs d r s = _
  simp only [execMfs, hidden, if_true]
  exact run4_privilege (requireSys_trap hs)

theorem exec_mts_privilege {a : Reg} {r : BitVec 12} {s : State} (h : ¬ MayWrite s r) :
    exec (.mts a r) s = .next (takeTrap s s.cur causePrivilege (instrWord (.mts a r))) := by
  obtain ⟨other, hs⟩ := not_or.1 h
  have closed : appWritable r.toNat = false := decide_eq_false other
  show execMts a r s = _
  simp only [execMts, closed, Bool.false_eq_true, if_false]
  exact run4_privilege (requireSys_trap hs)

/-- MFS does nothing before it retires: it traps or waits, or it gives the register to d. -/
theorem exec_mfs_cases {d : Reg} {r : BitVec 12} {s t : State} (h : exec (.mfs d r) s = .next t) :
    Undisturbed s t ∨ t = retired 4 s (giveG s d (sysRead s s.cur r.toNat)) := by
  by_cases hm : MayRead s r
  · by_cases hp : PortsReady s [] [] [d] []
    · rw [exec_mfs_ready hm hp] at h
      cases h
      exact .inr rfl
    · obtain ⟨w, hw⟩ := exec_mfs_blocked hm hp
      rw [hw] at h
      cases h
      exact .inl (blockThread_undisturbed s s.cur w)
  · rw [exec_mfs_privilege hm] at h
    cases h
    exact .inl (takeTrap_undisturbed s s.cur _ _)

/-- MTS does nothing before it retires: it traps or waits, and outside a rope no other thread notices, or it writes the register. -/
theorem exec_mts_cases {a : Reg} {r : BitVec 12} {s t : State} (h : exec (.mts a r) s = .next t) :
    (Undisturbed s t ∧ (isRoped (me s) = false → OthersSame s t)) ∨ t = retired 4 s (sysWrite (afterG s a) s.cur r.toNat (valueG s a)) := by
  by_cases hm : MayWrite s r
  · by_cases hp : PortsReady s [a] [] [] []
    · rw [exec_mts_ready hm hp] at h
      cases h
      exact .inr rfl
    · obtain ⟨w, hw⟩ := exec_mts_blocked hm hp
      rw [hw] at h
      cases h
      exact .inl ⟨blockThread_undisturbed s s.cur w, fun _ _ => blockThread_others⟩
  · rw [exec_mts_privilege hm] at h
    cases h
    exact .inl ⟨takeTrap_undisturbed s s.cur _ _, fun alone _ => takeTrap_others alone⟩

/-! ### What a write leaves as it is -/

/-- A change of a context that keeps its general, vector and mask registers and every system register but number n. -/
structure KeepsContext (n : Nat) (f : Thread → Thread) : Prop where
  g : ∀ x, (f x).g = x.g
  v : ∀ x, (f x).v = x.v
  k : ∀ x, (f x).k = x.k
  context : ∀ x, ∀ p ∈ contextRegs, p.1 ≠ n → p.2 (f x) = p.2 x

/-- Every register of a core but number n is as before. -/
structure KeepsCounters (n : Nat) (c d : Core) : Prop where
  fetchDuty : n ≠ 0x031 → d.fetchDuty = c.fetchDuty
  msgSent : n ≠ 0x038 → d.msgSent = c.msgSent
  msgRecv : n ≠ 0x039 → d.msgRecv = c.msgRecv

/-- A write of register n changes a context, a core, or nothing. -/
theorem sysWrite_cases (s : State) (t : ThreadRef) (n : Nat) (v : Word) :
    (∃ f, sysWrite s t n v = modThread s t f ∧ KeepsContext n f) ∨
      (∃ c, sysWrite s t n v = setCore s t.core c ∧ c.slots = (getCore s t.core).slots ∧ c.scratch = (getCore s t.core).scratch ∧
        KeepsCounters n (getCore s t.core) c) ∨ sysWrite s t n v = s := by
  unfold sysWrite
  split
  case h_12 =>
    simp only
    split
    · exact .inr (.inl ⟨_, rfl, rfl, rfl, absurd rfl, fun _ => rfl, fun _ => rfl⟩)
    · exact .inr (.inr rfl)
  case h_13 => exact .inr (.inl ⟨_, rfl, rfl, rfl, fun _ => rfl, absurd rfl, fun _ => rfl⟩)
  case h_14 => exact .inr (.inl ⟨_, rfl, rfl, rfl, fun _ => rfl, fun _ => rfl, absurd rfl⟩)
  case h_21 => exact .inr (.inr rfl)
  all_goals exact .inl ⟨_, rfl, fun _ => rfl, fun _ => rfl, fun _ => rfl, fun x => by simp [contextRegs]⟩

theorem sysWrite_sameRest (s : State) (t : ThreadRef) (n : Nat) (v : Word) : SameRest s (sysWrite s t n v) := by
  obtain ⟨f, h, -⟩ | ⟨c, h, slots, scratch, kept⟩ | h := sysWrite_cases s t n v
  · rw [h]
    exact sameRest_setThread s t _
  · rw [h]
    exact sameRest_setCore scratch
  · rw [h]
    exact .refl s

theorem getThread_sysWrite_other {s : State} {t u : ThreadRef} {n : Nat} {v : Word} (hu : u ≠ t) :
    getThread (sysWrite s t n v) u = getThread s u := by
  obtain ⟨f, h, -⟩ | ⟨c, h, slots, scratch, kept⟩ | h := sysWrite_cases s t n v
  · rw [h]
    exact getThread_setThread_other s _ hu
  · rw [h]
    exact getThread_setCore s t.core c slots u
  · rw [h]

/-- The context after a write of register n, as a change of the context before it. -/
theorem getThread_sysWrite (s : State) (t : ThreadRef) (n : Nat) (v : Word) :
    ∃ f, getThread (sysWrite s t n v) t = f (getThread s t) ∧ KeepsContext n f := by
  have nothing : KeepsContext n id := ⟨fun _ => rfl, fun _ => rfl, fun _ => rfl, fun _ _ _ _ => rfl⟩
  obtain ⟨f, h, kept⟩ | ⟨c, h, slots, scratch, kept⟩ | h := sysWrite_cases s t n v
  · exact ⟨f, by rw [h, modThread_eq, getThread_setThread_same], kept⟩
  · exact ⟨id, by rw [h]; exact getThread_setCore s t.core c slots t, nothing⟩
  · exact ⟨id, by rw [h]; rfl, nothing⟩

theorem getCore_sysWrite (s : State) (t : ThreadRef) (n : Nat) (v : Word) :
    KeepsCounters n (getCore s t.core) (getCore (sysWrite s t n v) t.core) := by
  obtain ⟨f, h, -⟩ | ⟨c, h, -, -, kept⟩ | h := sysWrite_cases s t n v
  · rw [h, modThread_eq, getCore_setThread_same]
    exact ⟨fun _ => rfl, fun _ => rfl, fun _ => rfl⟩
  · rw [h, getCore_setCore_same]
    exact kept
  · rw [h]
    exact ⟨fun _ => rfl, fun _ => rfl, fun _ => rfl⟩

/-! ### What the end of an instruction and a general destination leave as they are -/

/-- FETCHDUTY, MSGSENT and MSGRECV of a core (R94, R95). -/
def counters (s : State) (k : Nat) : Nat × Word × Word := ((getCore s k).fetchDuty, (getCore s k).msgSent, (getCore s k).msgRecv)

theorem counters_setThread (s : State) (t : ThreadRef) (x : Thread) (k : Nat) : counters (setThread s t x) k = counters s k := by
  unfold counters
  by_cases h : k = t.core
  · rw [h, getCore_setThread_same]
  · rw [getCore_setThread_other s x h]

theorem counters_retiredAt (s t : State) (pc : Word) (k : Nat) : counters (retiredAt s t pc) k = counters t k := by
  have released : counters (releasePorts t s.cur (me s)) k = counters t k := by
    obtain h | ⟨hold, h⟩ := releasePorts_cases t s.cur (me s)
    · rw [h]
    · rw [h]
      unfold counters
      by_cases e : k = s.cur.core
      · rw [e, getCore_setCore_same]
        rfl
      · rw [getCore_setCore_other _ _ e]
  exact (counters_setThread _ _ _ k).trans released

theorem counters_giveG (s : State) (r : Reg) (v : Word) (k : Nat) : counters (giveG s r v) k = counters s k := by
  obtain ⟨j, x, h⟩ | h := giveG_cases s r v
  · rw [h]
    rfl
  · rw [h, counters_setThread]

/-- A write of a general register keeps the context but for that register. -/
theorem gValue_gWrite_other {x : Thread} {r q : Reg} {v : Word} (h : q ≠ r) : gValue (gWrite x r v) q = gValue x q := by
  have apart : q.toNat ≠ r.toNat := fun e => h (BitVec.eq_of_toNat_eq e)
  unfold gWrite
  split
  · rfl
  · unfold gValue
    split
    · rfl
    · exact amGet_amPut_other 0 x.g v 0 apart

theorem gWrite_context (x : Thread) (r : Reg) (v : Word) : ∀ p ∈ contextRegs, p.2 (gWrite x r v) = p.2 x := by
  unfold gWrite
  split
  · exact fun _ _ => rfl
  · simp [contextRegs]

/-- The context after a general destination is written. -/
theorem getThread_giveG (s : State) (r : Reg) (v : Word) :
    getThread (giveG s r v) s.cur = me s ∨ getThread (giveG s r v) s.cur = gWrite (me s) r v := by
  obtain ⟨k, x, h⟩ | h := giveG_cases s r v
  · rw [h]
    exact .inl rfl
  · rw [h]
    exact .inr (getThread_setThread_same s s.cur _)

theorem giveG_regsExcept (s : State) (r : Reg) (v : Word) : RegsExcept (me s) (getThread (giveG s r v) s.cur) [r] [] [] := by
  obtain h | h := getThread_giveG s r v
  · rw [h]
    exact ⟨fun _ _ => rfl, fun _ _ => rfl, fun _ _ => rfl⟩
  · rw [h]
    refine ⟨fun q hq => gValue_gWrite_other (by simpa using hq), fun q _ => ?_, fun q _ => ?_⟩
    · unfold gWrite
      split <;> rfl
    · unfold gWrite
      split <;> rfl

theorem giveG_context (s : State) (r : Reg) (v : Word) : ∀ p ∈ contextRegs, p.2 (getThread (giveG s r v) s.cur) = p.2 (me s) := by
  obtain h | h := getThread_giveG s r v
  · rw [h]
    exact fun _ _ => rfl
  · rw [h]
    exact gWrite_context (me s) r v

/-- What the end of an instruction does to its thread's context (R76, R95). -/
def retiredThread (x : Thread) (pc : Word) : Thread := { x with pc := pc, instret := x.instret + 1, wait := .none, begun := none }

theorem retiredThread_context (x : Thread) (pc : Word) : ∀ p ∈ contextRegs, p.1 ≠ 0x041 → p.2 (retiredThread x pc) = p.2 x := by
  simp [contextRegs, retiredThread]

/-- Registers that are kept up to its end are kept by an instruction that retires. -/
theorem regsExcept_retiredAt {s t : State} {pc : Word} {gs vs : List Reg} {ks : List MReg}
    (h : RegsExcept (me s) (getThread t s.cur) gs vs ks) : RegsExcept (me s) (getThread (retiredAt s t pc) s.cur) gs vs ks := by
  rw [getThread_retiredAt]
  exact h

end Sys2Proof.SystemRegisters
end

section
/-! What MFS and MTS change (R15, R70, R86, R95). -/
namespace Sys2Proof.SystemRegisterFrame
open Sys2Proof.Machine Sys2Proof.Safety Sys2Proof.Frames Sys2Proof.SystemRegisters

/-- An instruction that retires and names at most one system register changes no other, nor another thread, the matrix arrays or the
clock. -/
def OthersKept (s t : State) (n : Nat) : Prop :=
  (∀ p ∈ contextRegs, p.1 ≠ n → p.1 ≠ 0x041 → p.2 (getThread t s.cur) = p.2 (me s)) ∧ (n ≠ 0x041 → Retired s t) ∧
    (n ≠ 0x031 → (getCore t s.cur.core).fetchDuty = (getCore s s.cur.core).fetchDuty) ∧
    (n ≠ 0x038 → (getCore t s.cur.core).msgSent = (getCore s s.cur.core).msgSent) ∧
    (n ≠ 0x039 → (getCore t s.cur.core).msgRecv = (getCore s s.cur.core).msgRecv) ∧ t.cycle = s.cycle ∧ ArraySame s t ∧ OthersSame s t

/-- The same of the state in which an instruction retires. -/
theorem othersKept_retiredAt {s w : State} {n : Nat} (pc : Word)
    (context : ∀ p ∈ contextRegs, p.1 ≠ n → p.2 (getThread w s.cur) = p.2 (me s))
    (duty : n ≠ 0x031 → (counters w s.cur.core).1 = (counters s s.cur.core).1)
    (sent : n ≠ 0x038 → (counters w s.cur.core).2.1 = (counters s s.cur.core).2.1)
    (received : n ≠ 0x039 → (counters w s.cur.core).2.2 = (counters s s.cur.core).2.2)
    (rest : SameRest s w) (others : OthersSame s w) : OthersKept s (retiredAt s w pc) n := by
  have core := counters_retiredAt s w pc s.cur.core
  have whole := rest.trans (retiredAt_sameRest s w pc)
  refine ⟨fun p hp hn hi => ?_, fun hn => ?_, fun hn => ?_, fun hn => ?_, fun hn => ?_, whole.cycle, whole.array, fun u hu => ?_⟩
  · rw [getThread_retiredAt]
    exact (retiredThread_context _ pc p hp hi).trans (context p hp hn)
  · have instret : (getThread w s.cur).instret = (me s).instret := context (0x041, (·.instret)) (by simp [contextRegs]) hn.symm
    rw [Retired, getThread_retiredAt]
    exact congrArg (· + 1) instret
  · exact (congrArg (·.1) core).trans (duty hn)
  · exact (congrArg (·.2.1) core).trans (sent hn)
  · exact (congrArg (·.2.2) core).trans (received hn)
  · exact (getThread_retiredAt_other hu).trans (others u hu)

theorem mfs_kept (s : State) (d : Reg) (v pc : Word) : OthersKept s (retiredAt s (giveG s d v) pc) 0x1000 := by
  have core := counters_giveG s d v s.cur.core
  exact othersKept_retiredAt pc (fun p hp _ => giveG_context s d v p hp) (fun _ => by rw [core]) (fun _ => by rw [core])
    (fun _ => by rw [core]) (giveG_sameRest s d v) fun u hu => getThread_giveG_other hu

theorem mts_kept (s : State) (a : Reg) (n : Nat) (v pc : Word) :
    OthersKept s (retiredAt s (sysWrite (afterG s a) s.cur n v) pc) n := by
  obtain ⟨f, context, kept⟩ := getThread_sysWrite (afterG s a) s.cur n v
  obtain ⟨duty, sent, received⟩ := getCore_sysWrite (afterG s a) s.cur n v
  rw [getThread_afterG] at context
  rw [getCore_afterG] at duty sent received
  refine othersKept_retiredAt pc (fun p hp hn => ?_) duty sent received
    ((afterG_sameRest s a).trans (sysWrite_sameRest _ s.cur n v)) fun u hu => ?_
  · rw [context]
    exact kept.context (me s) p hp hn
  · exact (getThread_sysWrite_other hu).trans (getThread_afterG s a u)

theorem mts_regs (s : State) (a : Reg) (n : Nat) (v : Word) :
    RegsExcept (me s) (getThread (sysWrite (afterG s a) s.cur n v) s.cur) [] [] [] := by
  obtain ⟨f, context, kept⟩ := getThread_sysWrite (afterG s a) s.cur n v
  rw [context, getThread_afterG]
  exact ⟨fun r _ => by simp [gValue, kept.g, me], fun r _ => by simp [vValue, kept.v, me], fun k _ => by simp [kValue, kept.k, me]⟩

/-- Settles O8: what does not retire is a trap or a wait and changes no register and no memory; what retires writes one register. -/
theorem systemRegisterFrame : Obligations.SystemRegisterFrame := by
  intro g r s t
  refine ⟨fun h => ?mfs, fun h => ?mts, fun h ends => ?others, fun hm hp h => ?mfsKept, fun hm hp h => ?mtsKept⟩
  case mfs =>
    obtain idle | rfl := exec_mfs_cases h
    · exact ⟨idle.rest.memory, idle.regsExcept s.cur [g] [] []⟩
    · exact ⟨((giveG_sameRest s g _).trans (retiredAt_sameRest s _ _)).memory, regsExcept_retiredAt (giveG_regsExcept s g _)⟩
  case mts =>
    obtain ⟨idle, -⟩ | rfl := exec_mts_cases h
    · exact ⟨idle.rest.memory, idle.regsExcept s.cur [] [] []⟩
    · exact ⟨(((afterG_sameRest s g).trans (sysWrite_sameRest _ s.cur _ _)).trans (retiredAt_sameRest s _ _)).memory,
        regsExcept_retiredAt (mts_regs s g _ _)⟩
  case others =>
    obtain ⟨idle, alone⟩ | rfl := exec_mts_cases h
    · exact alone (ends.resolve_left idle.not_retired)
    · obtain ⟨-, -, -, -, -, -, -, others⟩ := mts_kept s g r.toNat (valueG s g) ((me s).pc + BitVec.ofNat 64 4)
      exact others
  case mfsKept =>
    rw [exec_mfs_ready hm hp] at h
    cases h
    exact mfs_kept s g _ _
  case mtsKept =>
    rw [exec_mts_ready hm hp] at h
    cases h
    exact mts_kept s g _ _ _

end Sys2Proof.SystemRegisterFrame
end

section
/-! The values that MFS reads and MTS writes, register by register (R86 to R96). -/
namespace Sys2Proof.SystemRegisterMoves
open Sys2Proof.Machine Sys2Proof.Safety Sys2Proof.Frames Sys2Proof.SystemRegisters

/-! ### Fields -/

theorem fieldOf_eq {w : Nat} (x : BitVec w) (hi lo : Nat) : fieldOf x hi lo = x.toNat / 2 ^ lo % 2 ^ (hi + 1 - lo) := by
  rw [fieldOf, bitsOf, Nat.shiftRight_eq_div_pow]

theorem fieldOf_ofNat (w x hi lo : Nat) : fieldOf (BitVec.ofNat w x) hi lo = x % 2 ^ w / 2 ^ lo % 2 ^ (hi + 1 - lo) := by
  rw [fieldOf_eq, BitVec.toNat_ofNat]

theorem bit_lt (b : Bool) : bit b < 2 := by cases b <;> decide

/-! ### Writes -/

/-- The registers that MTS writes as plain bits keep those of their map (R89, R90, R93, R95, R96). -/
theorem sysWrite_masked (s : State) (v : Word) :
    ∀ p ∈ maskedRegs, contextReg (getThread (sysWrite s s.cur p.1 v) s.cur) p.1 = v &&& p.2 := by
  have written (f : Thread → Thread) : getThread (modThread s s.cur f) s.cur = f (me s) := getThread_setThread_same s s.cur _
  have whole : v = v &&& 0xFFFFFFFFFFFFFFFF := BitVec.and_allOnes.symm
  simp only [maskedRegs, List.forall_mem_cons]
  exact ⟨congrArg (·.mprog) (written _), congrArg (·.cbsel) (written _), congrArg (·.bivbase) (written _),
    congrArg (·.bivlimit) (written _), congrArg (·.bivovf) (written _), (congrArg (·.stalls) (written _)).trans whole,
    (congrArg (·.trappc) (written _)).trans whole, congrArg (·.trapcause) (written _),
    (congrArg (·.trapval) (written _)).trans whole, congrArg (·.trapvec) (written _), by simp⟩

theorem sysWrite_readOnly (s : State) (v : Word) : ∀ n ∈ readOnlyRegs, sysWrite s s.cur n v = s := by
  simp [readOnlyRegs, sysWrite]

/-- Of STATUS, PMODE alone is written (R87). -/
theorem sysWrite_status (s : State) (v : Word) {i : Nat} (hi : i < 64) :
    (getThread (sysWrite s s.cur 0 v) s.cur).status.getLsbD i = if i = 1 then v.getLsbD i else (me s).status.getLsbD i := by
  have written : (getThread (sysWrite s s.cur 0 v) s.cur).status = ((me s).status &&& ~~~2) ||| (v &&& 2) :=
    congrArg (·.status) (getThread_setThread_same s s.cur _)
  have pmode : (2 : Word).getLsbD i = decide (i = 1) := by
    rw [show (2 : Word) = BitVec.ofNat 64 (2 ^ 1) from rfl, BitVec.getLsbD_ofNat, Nat.testBit_two_pow]
    simp [hi, eq_comm]
  rw [written, BitVec.getLsbD_or, BitVec.getLsbD_and, BitVec.getLsbD_and, BitVec.getLsbD_not, pmode]
  split
  · next h => simp [h]
  · next h => simp [h, hi]

theorem sysWrite_fpctl (s : State) (v : Word) :
    (getThread (sysWrite s s.cur 1 v) s.cur).fpctl = fpctlWrite (me s).fpctl v :=
  congrArg (·.fpctl) (getThread_setThread_same s s.cur _)

/-- FPCTL takes RM where it is a mode, and the flags (R88). -/
theorem fpctlWrite_toNat (old v : Word) :
    (fpctlWrite old v).toNat = (if v.toNat / 32 % 8 < 5 then v.toNat / 32 % 8 else old.toNat / 32 % 8) * 32 + v.toNat % 32 := by
  simp only [fpctlWrite, fieldOf_eq, BitVec.toNat_ofNat, Nat.reducePow, Nat.reduceAdd, Nat.reduceSub, Nat.div_one]
  split <;> omega

/-- The value of FPCTL after a write (R88). -/
theorem sysWrite_fpctl_fields (s : State) (v : Word) :
    let x := getThread (sysWrite s s.cur 1 v) s.cur
    fpctlRm x = (if v.toNat / 32 % 8 < 5 then v.toNat / 32 % 8 else fpctlRm (me s)) ∧ x.fpctl.toNat % 32 = v.toNat % 32 ∧
      x.fpctl.toNat < 256 := by
  have value := fpctlWrite_toNat (me s).fpctl v
  simp only [fpctlRm, sysWrite_fpctl, fieldOf_eq, Nat.reducePow, Nat.reduceAdd, Nat.reduceSub]
  have mode : (if v.toNat / 32 % 8 < 5 then v.toNat / 32 % 8 else (me s).fpctl.toNat / 32 % 8) < 8 := by split <;> omega
  omega

/-- A DOMAIN register of level 2 to 4 keeps its value where another of them has the TREE that is written (R292). -/
theorem domainWrite_tree (x : Thread) (v old : Word) {level : Nat} (h : level ∈ [2, 3, 4]) :
    domainWrite x level old v =
      if ∃ n ∈ [2, 3, 4], n ≠ level ∧ domTree (domainOf x n) = fieldOf v 23 20 then old else v &&& 0xF0FFFF := by
  simp only [List.mem_cons, List.not_mem_nil, or_false] at h
  obtain rfl | rfl | rfl := h
  · simp [domainWrite, domTree, domainOf, eq_comm (a := fieldOf v 23 20)]
  · simp [domainWrite, domTree, domainOf, eq_comm (a := fieldOf v 23 20)]
  · simp [domainWrite, domTree, domainOf, eq_comm (a := fieldOf v 23 20)]

theorem sysWrite_domains (s : State) (v : Word) :
    ∀ p ∈ [(0x019, 2), (0x01A, 3), (0x01B, 4)], contextReg (getThread (sysWrite s s.cur p.1 v) s.cur) p.1 =
      if ∃ n ∈ [2, 3, 4], n ≠ p.2 ∧ domTree (domainOf (me s) n) = fieldOf v 23 20 then contextReg (me s) p.1 else v &&& 0xF0FFFF := by
  have written (f : Thread → Thread) : getThread (modThread s s.cur f) s.cur = f (me s) := getThread_setThread_same s s.cur _
  simp only [List.forall_mem_cons]
  exact ⟨(congrArg (·.domain2) (written _)).trans (domainWrite_tree (me s) v (me s).domain2 (level := 2) (by simp)),
    (congrArg (·.domain3) (written _)).trans (domainWrite_tree (me s) v (me s).domain3 (level := 3) (by simp)),
    (congrArg (·.domain4) (written _)).trans (domainWrite_tree (me s) v (me s).domain4 (level := 4) (by simp)), by simp⟩

/-- FETCHDUTY takes 1 to 16 (R94). -/
theorem sysWrite_fetchDuty (s : State) (v : Word) :
    (getCore (sysWrite s s.cur 0x031 v) s.cur.core).fetchDuty =
      if 1 ≤ fieldOf v 4 0 ∧ fieldOf v 4 0 ≤ 16 then fieldOf v 4 0 else (getCore s s.cur.core).fetchDuty := by
  simp only [sysWrite]
  split
  · exact congrArg (·.fetchDuty) (getCore_setCore_same s s.cur.core _)
  · rfl

/-- INSTRET takes the value less the one that its own MTS adds when it retires (R95). -/
theorem sysWrite_instret (s : State) (t : ThreadRef) (v : Word) : (getThread (sysWrite s t 0x041 v) t).instret = v - 1 :=
  congrArg (·.instret) (getThread_setThread_same s t _)

/-! ### Reads -/

theorem sysRead_context (s : State) : ∀ p ∈ contextRegs, sysRead s s.cur p.1 = p.2 (me s) := by
  simp [contextRegs, sysRead, me]

theorem serviceBase_eq : serviceBase = 8192 := by
  unfold serviceBase
  rfl

theorem isService_iff (k : Nat) : isService k = true ↔ 8192 ≤ k := by
  rw [isService, decide_eq_true_iff, serviceBase_eq]

/-- The keys of the cores (R3). -/
theorem core_lt {t : ThreadRef} (h : threadExists t = true) : t.core < 8224 := by
  simp only [threadExists, Bool.and_eq_true, decide_eq_true_eq] at h
  obtain ⟨-, place⟩ := h
  by_cases hs : isService t.core = true
  · rw [if_pos hs, decide_eq_true_iff, serviceBase_eq] at place
    exact place
  · rw [isService_iff] at hs
    omega

/-- The dies that they stand on (R3). -/
theorem dieOf_lt {t : ThreadRef} (h : threadExists t = true) : dieOf t.core < 8 := by
  have below := core_lt h
  unfold dieOf
  split
  · rw [serviceBase_eq]
    omega
  · next hs =>
    rw [isService_iff] at hs
    omega

/-- Where a core stands on its die (R3). -/
theorem position_lt (k : Nat) : rowOf k < 32 ∧ colOf k < 32 ∧ qcoreOf k < 4 := by
  simp only [rowOf, colOf, qcoreOf]
  refine ⟨?_, ?_, ?_⟩
  · split <;> omega
  · split <;> omega
  · split <;> omega

/-- The identity registers of a service core's thread (R91). -/
theorem sysRead_service {s : State} {t : ThreadRef} (h : isService t.core = true) :
    sysRead s t 0x011 = 0 ∧ sysRead s t 0x012 = 0 ∧ sysRead s t 0x014 = 0 := by
  simp [sysRead, coreidWord, quadidWord, regionidWord, threadRegion, qcoreOf, rowOf, colOf, h]

/-- The fields of COREID (R91). -/
theorem coreid_fields {i j q row col : Nat} (hi : i < 256) (hj : j < 256) (hq : q < 4) (hrow : row < 256) (hcol : col < 256) :
    let w : Word := BitVec.ofNat 64 (i * 2 ^ 40 + j * 2 ^ 32 + q * 2 ^ 16 + row * 2 ^ 8 + col)
    fieldOf w 7 0 = col ∧ fieldOf w 15 8 = row ∧ fieldOf w 17 16 = q ∧ fieldOf w 31 18 = 0 ∧ fieldOf w 63 48 = 0 ∧
      fieldOf w 47 40 = i ∧ fieldOf w 39 32 = j := by
  simp only [fieldOf_ofNat, Nat.reducePow, Nat.reduceAdd, Nat.reduceSub, Nat.div_one]
  omega

/-- The fields of QUADID (R91). -/
theorem quadid_fields (k : Nat) :
    fieldOf (quadidWord k) 6 0 = 8 * (rowOf k / 2) + colOf k / 4 ∧ fieldOf (quadidWord k) 7 7 = 0 ∧
      fieldOf (quadidWord k) 11 8 = rowOf k / 2 ∧ fieldOf (quadidWord k) 14 12 = colOf k / 4 ∧ fieldOf (quadidWord k) 63 15 = 0 := by
  obtain ⟨hrow, hcol, -⟩ := position_lt k
  have fields {i j quad : Nat} (hi : i < 16) (hj : j < 8) (hquad : quad < 128) :
      let w : Word := BitVec.ofNat 64 (j * 2 ^ 12 + i * 2 ^ 8 + quad)
      fieldOf w 6 0 = quad ∧ fieldOf w 7 7 = 0 ∧ fieldOf w 11 8 = i ∧ fieldOf w 14 12 = j ∧ fieldOf w 63 15 = 0 := by
    simp only [fieldOf_ofNat, Nat.reducePow, Nat.reduceAdd, Nat.reduceSub, Nat.div_one]
    omega
  exact fields (by omega) (by omega) (by omega)

/-- The fields of DIEID (R91). -/
theorem dieid_fields {k : Nat} (h : dieOf k < 8) :
    fieldOf (dieidWord k) 2 0 = dieOf k ∧ fieldOf (dieidWord k) 7 3 = 0 ∧ fieldOf (dieidWord k) 9 8 = stackOf (dieOf k) ∧
      fieldOf (dieidWord k) 10 10 = layerOf (dieOf k) ∧ fieldOf (dieidWord k) 63 11 = 0 := by
  have fields {layer stack die : Nat} (hl : layer < 2) (hs : stack < 4) (hd : die < 8) :
      let w : Word := BitVec.ofNat 64 (layer * 2 ^ 10 + stack * 2 ^ 8 + die)
      fieldOf w 2 0 = die ∧ fieldOf w 7 3 = 0 ∧ fieldOf w 9 8 = stack ∧ fieldOf w 10 10 = layer ∧ fieldOf w 63 11 = 0 := by
    simp only [fieldOf_ofNat, Nat.reducePow, Nat.reduceAdd, Nat.reduceSub, Nat.div_one]
    omega
  exact fields (Nat.mod_lt _ (by decide)) (Nat.div_lt_of_lt_mul h) h

/-- The fields of REGIONID in a region (R91). -/
theorem regionid_fields {s : State} {t : ThreadRef} {r : Region} (h : threadRegion s t = some r) :
    let w := regionidWord s t
    fieldOf w 31 8 = r.inst % 2 ^ 24 ∧ fieldOf w 4 0 = amGet r.rowCounters (dieOf t.core) 0 % 32 ∧ fieldOf w 7 5 = 0 ∧
      fieldOf w 63 32 = 0 := by
  simp only [regionidWord, h, fieldOf_ofNat, Nat.reducePow, Nat.reduceAdd, Nat.reduceSub, Nat.div_one]
  omega

theorem holderCode_array {s : State} {r : Option Region} (h : hasArray r = true) (k : Nat) :
    holderCode s r k =
      if (getPair s (pairKey k)).holder = 0 then 0 else if (getPair s (pairKey k)).holder = sideOf k then 1 else 2 := by
  simp [holderCode, h]

/-- The fields of LICENCE where the region has an array (R94). -/
theorem licence_fields {s : State} {t : ThreadRef} (h : hasArray (threadRegion s t) = true) :
    let w := licenceWord s t
    let p := getPair s (pairKey t.core)
    let own := sideOf t.core
    fieldOf w 1 0 = (if p.holder = 0 then 0 else if p.holder = own then 1 else 2) ∧ fieldOf w 2 2 = bit (requested p own) ∧
      fieldOf w 3 3 = bit (requested p (otherSide own)) ∧ fieldOf w 63 4 = 0 := by
  have fields {theirs mine code : Nat} (ht : theirs < 2) (hm : mine < 2) (hc : code < 3) :
      let w : Word := BitVec.ofNat 64 (8 * theirs + 4 * mine + code)
      fieldOf w 1 0 = code ∧ fieldOf w 2 2 = mine ∧ fieldOf w 3 3 = theirs ∧ fieldOf w 63 4 = 0 := by
    simp only [fieldOf_ofNat, Nat.reducePow, Nat.reduceAdd, Nat.reduceSub, Nat.div_one]
    omega
  simp only [licenceWord, h, if_true, ← holderCode_array h]
  refine fields (bit_lt _) (bit_lt _) ?_
  rw [holderCode_array h]
  split
  · decide
  · split <;> decide

/-- The fields of PWRSTATE (R94). -/
theorem pwrstate_fields (s : State) (k : Nat) :
    let w := pwrstateWord s k
    let c := getCore s k
    fieldOf w 0 0 = bit c.low ∧ fieldOf w 3 1 = 0 ∧ fieldOf w 8 4 = c.fetchDuty % 32 ∧ fieldOf w 9 9 = bit c.skip ∧
      fieldOf w 11 10 = 0 ∧ fieldOf w 15 12 = coreOpp s k % 16 ∧ fieldOf w 63 16 = 0 := by
  have low := bit_lt (getCore s k).low
  have skip := bit_lt (getCore s k).skip
  simp only [pwrstateWord, fieldOf_ofNat, Nat.reducePow, Nat.reduceAdd, Nat.reduceSub, Nat.div_one]
  omega

/-- COREID of a thread in no region (R91). -/
theorem coreidWord_regionless {s : State} {t : ThreadRef} (h : threadRegion s t = none) :
    coreidWord s t =
      BitVec.ofNat 64 (0 * 2 ^ 40 + 0 * 2 ^ 32 + qcoreOf t.core * 2 ^ 16 + rowOf t.core * 2 ^ 8 + colOf t.core) := by
  simp only [coreidWord, h]

/-- COREID of a thread in a region (R91). -/
theorem coreidWord_region {s : State} {t : ThreadRef} {r : Region} (h : threadRegion s t = some r) :
    coreidWord s t =
      BitVec.ofNat 64 ((packRow t.core - r.prow) * 2 ^ 40 + (packCol t.core - r.pcol) * 2 ^ 32 + qcoreOf t.core * 2 ^ 16 +
        rowOf t.core * 2 ^ 8 + colOf t.core) := by
  simp only [coreidWord, h, relPos]

/-- What the identity registers of an application core's thread read as (R91). -/
theorem sysRead_application (s : State) {t : ThreadRef} (h : threadExists t = true) :
    let w := sysRead s t 0x011
    let u := sysRead s t 0x014
    (fieldOf w 7 0 = colOf t.core ∧ fieldOf w 15 8 = rowOf t.core ∧ fieldOf w 17 16 = qcoreOf t.core ∧ fieldOf w 31 18 = 0 ∧
      fieldOf w 63 48 = 0) ∧
    (threadRegion s t = none → fieldOf w 47 32 = 0 ∧ u = 0) ∧
    ∀ r, threadRegion s t = some r →
      fieldOf w 47 40 = packRow t.core - r.prow ∧ fieldOf w 39 32 = packCol t.core - r.pcol ∧
        fieldOf u 31 8 = r.inst % 2 ^ 24 ∧ fieldOf u 4 0 = amGet r.rowCounters (dieOf t.core) 0 % 32 ∧
        fieldOf u 7 5 = 0 ∧ fieldOf u 63 32 = 0 := by
  obtain ⟨hrow, hcol, hq⟩ := position_lt t.core
  have hdie := dieOf_lt h
  have hr (r : Region) : packRow t.core - r.prow < 256 := by
    unfold packRow stackOf
    omega
  have hc (r : Region) : packCol t.core - r.pcol < 256 := by
    unfold packCol stackOf
    omega
  simp only [sysRead]
  cases hreg : threadRegion s t with
  | none =>
    obtain ⟨col, row, q, zero, high, -, -⟩ :=
      coreid_fields (i := 0) (j := 0) (by decide) (by decide) hq (Nat.lt_trans hrow (by decide)) (Nat.lt_trans hcol (by decide))
    rw [coreidWord_regionless hreg]
    refine ⟨⟨col, row, q, zero, high⟩, fun _ => ⟨?_, ?_⟩, fun r other => absurd other.symm (Option.some_ne_none r)⟩
    · simp only [fieldOf_ofNat, Nat.reducePow, Nat.reduceAdd, Nat.reduceSub]
      omega
    · simp only [regionidWord, hreg]
  | some r =>
    obtain ⟨col, row, q, zero, high, i, j⟩ :=
      coreid_fields (hr r) (hc r) hq (Nat.lt_trans hrow (by decide)) (Nat.lt_trans hcol (by decide))
    rw [coreidWord_region hreg]
    refine ⟨⟨col, row, q, zero, high⟩, fun outside => absurd outside (Option.some_ne_none r), fun r' same => ?_⟩
    obtain rfl := Option.some.inj same
    exact ⟨i, j, regionid_fields hreg⟩

/-- Settles O7: MFS and MTS by their outcomes, then the registers one by one as they are written and read. -/
theorem systemRegisterMoves : Obligations.SystemRegisterMoves := by
  refine ⟨fun d r s _ => ?mfs, fun a r s _ => ?mts, fun a s hs hp => ?instret, fun s t ht => ?read⟩
  case mfs =>
    refine ⟨exec_mfs_ready, fun above hs => exec_mfs_privilege (not_or.2 ⟨by omega, hs⟩), fun p hp hr => ?_⟩
    rw [hr]
    exact sysRead_context s p hp
  case mts =>
    refine ⟨exec_mts_ready, fun other hs => exec_mts_privilege (not_or.2 ⟨other, hs⟩), fun v => ?_⟩
    obtain ⟨rm, flags, below⟩ := sysWrite_fpctl_fields s v
    exact ⟨sysWrite_masked s v, sysWrite_readOnly s v, fun i hi => sysWrite_status s v hi, rm, flags, below,
      congrArg (·.domain1) (getThread_setThread_same s s.cur _), sysWrite_domains s v, sysWrite_fetchDuty s v,
      congrArg (·.msgSent) (getCore_setCore_same s s.cur.core _), congrArg (·.msgRecv) (getCore_setCore_same s s.cur.core _)⟩
  case instret =>
    refine ⟨_, exec_mts_ready (.inr hs) hp, ?_⟩
    rw [retired, getThread_retiredAt]
    exact (congrArg (· + 1) (sysWrite_instret (afterG s a) s.cur (valueG s a))).trans (BitVec.sub_add_cancel _ _)
  case read =>
    intro rd app d c h own
    refine ⟨⟨rfl, rfl, rfl, rfl, rfl⟩, fun service => sysRead_service (by simpa [app] using service), fun _ => ?application,
      dieid_fields (dieOf_lt ht), fun noArray => ?noArray, licence_fields, pwrstate_fields s t.core⟩
    case application =>
      obtain ⟨⟨col, row, q, zero, high⟩, outside, inside⟩ := sysRead_application s ht
      exact ⟨col, row, q, zero, high, outside, inside, quadid_fields t.core⟩
    case noArray =>
      simp [rd, sysRead, licenceWord, noArray]

end Sys2Proof.SystemRegisterMoves
end

section
/-! What the register-only forms may write: each is made of steps that write nothing but the named registers and, where it has float
events, FPCTL; and what they leave when they trap or wait (R13, R51, R70, R76, R318). -/
namespace Sys2Proof.RegisterForms
open Sys2Proof.Machine Sys2Proof.Safety Sys2Proof.Frames Sys2Proof.SystemRegisters

/-! ### Writes to named registers -/

/-- The registers that a form may write, and whether it may raise float events. -/
structure Dest where
  gs : List Reg := []
  vs : List Reg := []
  ks : List MReg := []
  events : Bool := false

/-- One context differs from another in the named registers and events alone. -/
structure OnlyIn (w : Dest) (x y : Thread) : Prop where
  regs : RegsExcept x y w.gs w.vs w.ks
  view : SameView x y
  special : SpecialSame x y
  instret : y.instret = x.instret
  fpctl : w.events = false → y.fpctl = x.fpctl

/-- The executing thread has written the named registers and events alone, and no other thread has changed. -/
structure Only (w : Dest) (s t : State) : Prop where
  rest : SameRest s t
  others : OthersSame s t
  own : OnlyIn w (getThread s s.cur) (getThread t s.cur)

theorem regsExcept_trans {x y z : Thread} {gs vs : List Reg} {ks : List MReg} (h : RegsExcept x y gs vs ks)
    (k : RegsExcept y z gs vs ks) : RegsExcept x z gs vs ks := by
  obtain ⟨hg, hv, hk⟩ := h
  obtain ⟨kg, kv, kk⟩ := k
  exact ⟨fun r hr => (kg r hr).trans (hg r hr), fun r hr => (kv r hr).trans (hv r hr), fun r hr => (kk r hr).trans (hk r hr)⟩

theorem sameView_trans {x y z : Thread} (h : SameView x y) (k : SameView y z) : SameView x z := by
  obtain ⟨h1, h2, h3, h4, h5⟩ := h
  obtain ⟨k1, k2, k3, k4, k5⟩ := k
  exact ⟨k1.trans h1, k2.trans h2, k3.trans h3, k4.trans h4, k5.trans h5⟩

theorem specialSame_trans {x y z : Thread} (h : SpecialSame x y) (k : SpecialSame y z) : SpecialSame x z := by
  unfold SpecialSame at *
  simp only [h, k, and_self]

theorem OnlyIn.trans {w : Dest} {x y z : Thread} (h : OnlyIn w x y) (k : OnlyIn w y z) : OnlyIn w x z :=
  ⟨regsExcept_trans h.regs k.regs, sameView_trans h.view k.view, specialSame_trans h.special k.special, k.instret.trans h.instret,
    fun e => (k.fpctl e).trans (h.fpctl e)⟩

/-- A change of a context that is none of its registers, its view, its special registers and INSTRET. -/
theorem onlyIn_of_same {w : Dest} {x y : Thread} (hr : SameRegs x y) (view : SameView x y) (special : SpecialSame x y)
    (fpctl : w.events = false → y.fpctl = x.fpctl) : OnlyIn w x y := by
  obtain ⟨hg, hv, hk, instret⟩ := hr
  exact ⟨⟨fun r _ => by rw [gValue, gValue, hg], fun r _ => by rw [vValue, vValue, hv], fun r _ => by rw [kValue, kValue, hk]⟩,
    view, special, instret, fpctl⟩

theorem sameView_refl (x : Thread) : SameView x x := ⟨rfl, rfl, rfl, rfl, rfl⟩

theorem specialSame_refl (x : Thread) : SpecialSame x x := by simp [SpecialSame]

theorem OnlyIn.refl (w : Dest) (x : Thread) : OnlyIn w x x :=
  onlyIn_of_same ⟨rfl, rfl, rfl, rfl⟩ (sameView_refl x) (specialSame_refl x) fun _ => rfl

theorem Only.refl (w : Dest) (s : State) : Only w s s := ⟨.refl s, fun _ _ => rfl, .refl w _⟩

theorem Only.trans {w : Dest} {s t u : State} (h : Only w s t) (k : Only w t u) : Only w s u := by
  refine ⟨h.rest.trans k.rest, fun v hv => (k.others v (by rwa [h.rest.cur])).trans (h.others v hv), h.own.trans ?_⟩
  have := k.own
  rwa [h.rest.cur] at this

theorem only_setSwitch (w : Dest) (s : State) (k : Nat) (x : Switch) : Only w s (setSwitch s k x) :=
  ⟨sameRest_setSwitch s k x, fun _ _ => rfl, .refl w _⟩

theorem only_modThread {w : Dest} {s : State} {f : Thread → Thread} (h : ∀ x, OnlyIn w x (f x)) : Only w s (modThread s s.cur f) := by
  refine ⟨sameRest_setThread s s.cur _, fun u hu => getThread_setThread_other s _ hu, ?_⟩
  rw [modThread_eq, getThread_setThread_same]
  exact h _

/-! ### Registers written -/

theorem vValue_vWrite_other {x : Thread} {r q : Reg} {v : VReg} (h : q ≠ r) : vValue (vWrite x r v) q = vValue x q :=
  amGet_amPut_other _ x.v v _ fun e => h (BitVec.eq_of_toNat_eq e)

theorem kValue_kWrite_other {x : Thread} {r q : MReg} {v : BitVec 128} (h : q ≠ r) : kValue (kWrite x r v) q = kValue x q := by
  unfold kWrite
  split
  · rfl
  · unfold kValue
    rw [amGet_amPut_other _ x.k v _ fun e => h (BitVec.eq_of_toNat_eq e)]

theorem onlyIn_gWrite {w : Dest} {r : Reg} (hr : r ∈ w.gs) (x : Thread) (v : Word) : OnlyIn w x (gWrite x r v) := by
  refine ⟨⟨fun q hq => gValue_gWrite_other fun e => hq (e ▸ hr), ?_, ?_⟩, ?_, ?_, ?_, fun _ => ?_⟩
  all_goals unfold gWrite; split <;> simp [SameView, SpecialSame, vValue, kValue]

theorem onlyIn_vWrite {w : Dest} {r : Reg} (hr : r ∈ w.vs) (x : Thread) (v : VReg) : OnlyIn w x (vWrite x r v) :=
  ⟨⟨fun _ _ => rfl, fun _ hq => vValue_vWrite_other fun e => hq (e ▸ hr), fun _ _ => rfl⟩, sameView_refl x, specialSame_refl x, rfl,
    fun _ => rfl⟩

theorem onlyIn_kWrite {w : Dest} {r : MReg} (hr : r ∈ w.ks) (x : Thread) (v : BitVec 128) : OnlyIn w x (kWrite x r v) := by
  refine ⟨⟨?_, ?_, fun q hq => kValue_kWrite_other fun e => hq (e ▸ hr)⟩, ?_, ?_, ?_, fun _ => ?_⟩
  all_goals unfold kWrite; split <;> simp [SameView, SpecialSame, vValue, gValue]

theorem onlyIn_fpctl {w : Dest} (h : w.events = true) (x : Thread) (v : Word) : OnlyIn w x { x with fpctl := v } :=
  onlyIn_of_same ⟨rfl, rfl, rfl, rfl⟩ (sameView_refl x) (specialSame_refl x) fun e => absurd (h.symm.trans e) (by decide)

/-! ### What a trap and a wait leave -/

/-- The thread's view of memory and its FPCTL are as before. -/
def SameOwn (x y : Thread) : Prop := SameView x y ∧ y.fpctl = x.fpctl

/-- No memory, no register, no view and no FPCTL of any thread has changed, and no instruction has retired. -/
structure Halted (s t : State) : Prop where
  calm : Undisturbed s t
  own : ∀ u, SameOwn (getThread s u) (getThread t u)

theorem sameOwn_refl (x : Thread) : SameOwn x x := ⟨sameView_refl x, rfl⟩

theorem Halted.refl (s : State) : Halted s s := ⟨.refl s, fun _ => sameOwn_refl _⟩

theorem Halted.trans {s t u : State} (h : Halted s t) (k : Halted t u) : Halted s u :=
  ⟨h.calm.trans k.calm, fun w => ⟨sameView_trans (h.own w).1 (k.own w).1, (k.own w).2.trans (h.own w).2⟩⟩

theorem halted_setThread {s : State} {t : ThreadRef} {x : Thread} (hr : SameRegs (getThread s t) x) (ho : SameOwn (getThread s t) x) :
    Halted s (setThread s t x) := by
  refine ⟨undisturbed_setThread hr, fun u => ?_⟩
  by_cases e : u = t
  · rw [e, getThread_setThread_same]
    exact ho
  · rw [getThread_setThread_other s x e]
    exact sameOwn_refl _

/-- A context with other trap registers, modes, PC and wait. -/
theorem halted_modes {s : State} {t : ThreadRef} {x : Thread} (h : SameRegs (getThread s t) x ∧ SameOwn (getThread s t) x) :
    Halted s (setThread s t x) := halted_setThread h.1 h.2

theorem halted_reports (s : State) (net : List NetMsg) (otair : List ThreadRef) :
    Halted s { s with net := net, otairReports := otair } :=
  ⟨undisturbed_reports s net otair, fun _ => sameOwn_refl _⟩

theorem Halted.foldl {α : Type} {f : State → α → State} (h : ∀ s x, Halted s (f s x)) (l : List α) (s : State) :
    Halted s (l.foldl f s) := by
  induction l generalizing s with
  | nil => exact .refl s
  | cons x l ih => exact (h s x).trans (ih _)

/-- The parts of a context that a trap and a wait leave: two contexts that agree in them. -/
theorem same_of_eq {x y : Thread} (h : (y.g, y.v, y.k, y.instret, y.snap, y.own, y.stores, y.reds, y.code, y.fpctl) =
    (x.g, x.v, x.k, x.instret, x.snap, x.own, x.stores, x.reds, x.code, x.fpctl)) : SameRegs x y ∧ SameOwn x y := by
  simp only [Prod.mk.injEq] at h
  obtain ⟨g, v, k, instret, snap, own, stores, reds, code, fpctl⟩ := h
  exact ⟨⟨g, v, k, instret⟩, ⟨snap, own, stores, reds, code⟩, fpctl⟩

theorem dissolveRope_halted (s : State) (t : ThreadRef) : Halted s (dissolveRope s t) := by
  unfold dissolveRope
  split
  · refine .foldl (fun _ _ => halted_modes ?_) _ s
    exact same_of_eq rfl
  · exact .refl s

theorem threadFault_halted (s : State) (t : ThreadRef) (dbl : Bool) : Halted s (threadFault s t dbl) := by
  refine .trans (halted_modes (t := t) ?_) (halted_reports _ _ _)
  exact same_of_eq rfl

theorem takeTrap_halted (s : State) (t : ThreadRef) (cause : Nat) (val : Word) : Halted s (takeTrap s t cause val) := by
  refine (dissolveRope_halted s t).trans ?_
  unfold takeTrap
  simp only
  split
  · refine .trans (halted_modes ?_) (threadFault_halted _ t true)
    exact same_of_eq rfl
  · split
    · exact halted_modes (same_of_eq rfl)
    · split
      · refine .trans (halted_modes (t := t) ?_) (halted_reports _ _ _)
        exact same_of_eq rfl
      · split
        · exact halted_modes (same_of_eq rfl)
        · refine .trans (halted_modes ?_) (threadFault_halted _ t false)
          exact same_of_eq rfl

theorem blockThread_halted (s : State) (t : ThreadRef) (w : Wait) : Halted s (blockThread s t w) := halted_modes (same_of_eq rfl)

theorem halted_setCore {s : State} {k : Nat} {c : Core} (slots : c.slots = (getCore s k).slots) (scratch : c.scratch = (getCore s k).scratch) :
    Halted s (setCore s k c) := by
  have same (u : ThreadRef) : getThread (setCore s k c) u = getThread s u := getThread_setCore s k c slots u
  exact ⟨⟨sameRest_setCore scratch, fun u => by rw [same]; exact ⟨rfl, rfl, rfl, rfl⟩⟩, fun u => by rw [same]; exact sameOwn_refl _⟩

theorem holdDirs_halted (dirs : List Nat) (s : State) : Halted s (holdDirs dirs s) := by
  unfold holdDirs
  split
  · exact .refl s
  · exact halted_setCore rfl rfl

/-! ### Steps that write named registers alone -/

/-- What a halt leaves of the state. -/
def keptBy : Halt → State → State
  | .trap _ _ keep => keep
  | .wait _ keep => keep

/-- A step writes the named registers and events alone; where it traps or waits it leaves no more than ports held. -/
structure Confined {α : Type} (w : Dest) (m : M α) : Prop where
  ok : ∀ {s t : State} {a : α}, m s = .ok (a, t) → Only w s t
  halt : ∀ {s : State} {e : Halt}, m s = .error e → ∀ u, Halted u (keptBy e u)

section
variable {α β : Type} {w : Dest}

theorem Confined.bind {m : M α} {f : α → M β} (hm : Confined w m) (hf : ∀ a, Confined w (f a)) : Confined w (m >>= f) := by
  refine ⟨fun {s t b} h => ?_, fun {s e} h => ?_⟩ <;> rw [m_bind_run] at h <;> split at h
  · next he => exact (hm.ok he).trans ((hf _).ok h)
  · cases h
  · exact (hf _).halt h
  · next he =>
    cases h
    exact hm.halt he

/-- A step that changes the state by a function and does not halt. -/
theorem confined_of_run {m : M α} (f : State → α × State) (hm : ∀ s, m s = .ok (f s)) (hf : ∀ s, Only w s (f s).2) : Confined w m := by
  refine ⟨fun {s t a} h => ?_, fun {s e} h => ?_⟩ <;> rw [hm s] at h
  · have : f s = (a, t) := by simpa using h
    simpa [this] using hf s
  · cases h

theorem confined_pure (a : α) : Confined w (pure a : M α) := confined_of_run (fun s => (a, s)) (fun _ => rfl) (.refl w)

theorem confined_getS : Confined w getS := confined_of_run (fun s => (s, s)) (fun _ => rfl) (.refl w)

theorem confined_self : Confined w self := confined_of_run (fun s => (getThread s s.cur, s)) (fun _ => rfl) (.refl w)

/-- A step that always halts and leaves nothing behind. -/
theorem confined_of_halt {m : M α} {e : Halt} (hm : ∀ s, m s = .error e) (h : keptBy e = id) : Confined w m := by
  refine ⟨fun {s t a} hs => ?_, fun {s e'} hs u => ?_⟩ <;> rw [hm s] at hs <;> cases hs
  rw [h]
  exact .refl u

theorem confined_trapM (cause : Nat) (val : Word) : Confined w (trapM cause val : M α) := confined_of_halt (fun _ => rfl) rfl

theorem confined_waitM (v : Wait) : Confined w (waitM v : M α) := confined_of_halt (fun _ => rfl) rfl

theorem confined_modS {f : State → State} (h : ∀ s, Only w s (f s)) : Confined w (modS f) :=
  confined_of_run (fun s => ((), f s)) (fun _ => rfl) h

theorem confined_modSelf {f : Thread → Thread} (h : ∀ x, OnlyIn w x (f x)) : Confined w (modSelf f) :=
  confined_of_run (fun s => ((), modThread s s.cur f)) (fun _ => rfl) fun _ => only_modThread h

theorem confined_ite {c : Prop} [Decidable c] {m n : M α} (hm : Confined w m) (hn : Confined w n) : Confined w (if c then m else n) := by
  split
  · exact hm
  · exact hn

/-! ### Operands -/

theorem confined_popPort (dir : Nat) : Confined w (popPort dir) := by
  refine confined_getS.bind fun s => ?_
  dsimp only
  split
  · exact confined_waitM _
  · exact (confined_modS fun _ => only_setSwitch w _ _ _).bind fun _ => confined_pure _

theorem confined_pushPort (dir : Nat) (x : LinkWord) : Confined w (pushPort dir x) := by
  refine confined_getS.bind fun s => confined_ite (confined_modS fun _ => only_setSwitch w _ _ _) (confined_waitM _)

theorem confined_readG (r : Reg) : Confined w (readG r) :=
  confined_ite ((confined_popPort _).bind fun _ => confined_pure _) (confined_self.bind fun _ => confined_pure _)

theorem confined_readV (r : Reg) : Confined w (readV r) :=
  confined_ite ((confined_popPort _).bind fun _ => (confined_popPort _).bind fun _ => confined_ite (confined_pure _) (confined_trapM _ _))
    (confined_self.bind fun _ => confined_pure _)

theorem confined_readK (k : MReg) : Confined w (readK k) := confined_self.bind fun _ => confined_pure _

theorem confined_oldBits (r : Reg) : Confined w (oldBits r) := confined_self.bind fun _ => confined_pure _

theorem confined_roundingOf (rm : Nat) : Confined w (roundingOf rm) := confined_self.bind fun _ => confined_pure _

theorem confined_selfCodes : Confined w selfCodes := confined_getS.bind fun _ => confined_pure _

theorem confined_requireClass (r : Reg) (v : VReg) (ok : TagClass → Bool) : Confined w (requireClass r v ok) :=
  confined_ite (confined_pure _) (confined_trapM _ _)

theorem confined_requireTag (r : Reg) (v : VReg) (t : Tag) : Confined w (requireTag r v t) :=
  confined_ite (confined_pure _) (confined_trapM _ _)

theorem confined_writeG {r : Reg} (hr : r ∈ w.gs) (v : Word) : Confined w (writeG r v) :=
  confined_ite (confined_pushPort _ _) (confined_modSelf fun x => onlyIn_gWrite hr x v)

theorem confined_writeV {r : Reg} (hr : r ∈ w.vs) (v : VReg) : Confined w (writeV r v) :=
  confined_ite ((confined_pushPort _ _).bind fun _ => confined_pushPort _ _) (confined_modSelf fun x => onlyIn_vWrite hr x v)

theorem confined_writeK {r : MReg} (hr : r ∈ w.ks) (v : Nat) : Confined w (writeK r v) :=
  confined_modSelf fun x => onlyIn_kWrite hr x _

theorem confined_orFlags (h : w.events = true) (f : FpFlags) : Confined w (orFlags f) := confined_modSelf fun x => onlyIn_fpctl h x _

theorem confined_needPorts (gs vs gd vd : List Reg) : Confined w (needPorts gs vs gd vd) := by
  refine confined_getS.bind fun s => ?_
  split
  · exact confined_waitM _
  · split
    · exact confined_waitM _
    · exact confined_pure _

/-- An instruction that traps or waits after its ports were ready holds their directions. -/
theorem confined_withPorts {gs vs gd vd : List Reg} {m : M α} (hm : Confined w m) : Confined w (withPorts gs vs gd vd m) := by
  have ports := confined_needPorts (w := w) gs vs gd vd
  refine ⟨fun {s t a} h => ?_, fun {s e} h u => ?_⟩ <;> simp only [withPorts] at h <;> split at h
  · cases h
  · next hn =>
    split at h
    · next hr =>
      cases h
      exact (ports.ok hn).trans (hm.ok hr)
    · cases h
    · cases h
  · next hn =>
    cases h
    exact ports.halt hn u
  · next hn =>
    split at h
    · cases h
    · next hr =>
      cases h
      exact (hm.halt hr u).trans (holdDirs_halted _ _)
    · next hr =>
      cases h
      exact (hm.halt hr u).trans (holdDirs_halted _ _)

theorem confined_checkTarget (t : Word) : Confined w (checkTarget t) :=
  confined_ite (confined_trapM _ _) (confined_ite (confined_trapM _ _) (confined_pure _))

theorem confined_jumpTo (t : Word) : Confined w (jumpTo t) := (confined_checkTarget t).bind fun _ => confined_pure _

theorem confined_putVec {d : Reg} (hd : d ∈ w.vs) (he : w.events = true) (t : Tag) (r : Nat × FpFlags) : Confined w (putVec d t r) :=
  (confined_writeV hd _).bind fun _ => confined_orFlags he _

theorem confined_putFloat {d : Reg} (hd : d ∈ w.gs) (he : w.events = true) (rm : RMode) (r : FRes) : Confined w (putFloat d rm r) :=
  (confined_writeG hd _).bind fun _ => confined_orFlags he _

theorem confined_vecMove {d : Reg} (hd : d ∈ w.vs) (he : w.events = true) (k : MReg) (va : VReg) (f : Nat → Nat) :
    Confined w (vecMove d k va f) :=
  (confined_readK k).bind fun _ => (confined_oldBits d).bind fun _ => confined_putVec hd he _ _

end

/-! ### What each shared form may write -/

/-- Forms that give a general register and have no events, and the same with events. -/
def intDest (gs : List Reg) : Dest := { gs := gs }
def floatDest (d : Reg) : Dest := { gs := [d], events := true }

/-- Forms that give a vector register, and forms that give a mask register; they may have events. -/
def vecDest (d : Reg) : Dest := { vs := [d], events := true }
def maskDest (m : MReg) : Dest := { ks := [m], events := true }

theorem alu2_confined (d a b : Reg) (f : Word → Word → Word) : Confined (intDest [d]) (alu2 d a b f) :=
  confined_withPorts ((confined_readG a).bind fun _ => (confined_readG b).bind fun _ => confined_writeG (by simp [intDest]) _)

theorem alu1_confined (d a : Reg) (f : Word → Word) : Confined (intDest [d]) (alu1 d a f) :=
  confined_withPorts ((confined_readG a).bind fun _ => confined_writeG (by simp [intDest]) _)

theorem condMove_confined (d a b : Reg) (c : Word → Bool) : Confined (intDest [d]) (condMove d a b c) :=
  confined_withPorts ((confined_readG a).bind fun _ => (confined_readG b).bind fun _ =>
    confined_ite (confined_writeG (by simp [intDest]) _) (confined_pure _))

theorem branch_confined (a b : Reg) (off : BitVec 16) (c : Word → Word → Bool) : Confined (intDest []) (branch a b off c) :=
  confined_withPorts ((confined_readG a).bind fun _ => (confined_readG b).bind fun _ =>
    confined_ite (confined_self.bind fun _ => confined_jumpTo _) (confined_pure _))

theorem vec1_confined (d a : Reg) (k : MReg) (ok : TagClass → Bool) (op : LaneOp) : Confined (vecDest d) (vec1 d a k ok op) :=
  confined_withPorts ((confined_readV a).bind fun _ => (confined_requireClass _ _ _).bind fun _ => (confined_readK k).bind fun _ =>
    (confined_oldBits d).bind fun _ => confined_self.bind fun _ => confined_putVec (by simp [vecDest]) rfl _ _)

theorem vec2_confined (d a b : Reg) (k : MReg) (ok : TagClass → Bool) (op : LaneOp) : Confined (vecDest d) (vec2 d a b k ok op) :=
  confined_withPorts ((confined_readV a).bind fun _ => (confined_requireClass _ _ _).bind fun _ => (confined_readV b).bind fun _ =>
    (confined_requireClass _ _ _).bind fun _ => (confined_requireTag _ _ _).bind fun _ => (confined_readK k).bind fun _ =>
    (confined_oldBits d).bind fun _ => confined_self.bind fun _ => confined_putVec (by simp [vecDest]) rfl _ _)

theorem vecMove_confined (d : Reg) (k : MReg) (va : VReg) (f : Nat → Nat) : Confined (vecDest d) (vecMove d k va f) :=
  confined_vecMove (by simp [vecDest]) rfl k va f

/-- A form that moves what it makes of two vector sources. -/
theorem move2_confined (d a b : Reg) (k : MReg) (f : VReg → VReg → Nat → Nat) :
    Confined (vecDest d) (withPorts [] [a, b] [] [d] (readV a >>= fun x => readV b >>= fun y => vecMove d k x (f x y))) :=
  confined_withPorts ((confined_readV a).bind fun _ => (confined_readV b).bind fun _ => vecMove_confined d k _ _)

/-- A form that moves what it makes of a vector source and a general one. -/
theorem slide_confined (d a b : Reg) (k : MReg) (f : VReg → Word → Nat → Nat) :
    Confined (vecDest d) (withPorts [b] [a] [] [d] (readV a >>= fun x => readG b >>= fun y => vecMove d k x (f x y))) :=
  confined_withPorts ((confined_readV a).bind fun _ => (confined_readG b).bind fun _ => vecMove_confined d k _ _)

theorem vmov_confined (d a : Reg) (k : MReg) (f : VReg → Nat → Nat) :
    Confined (vecDest d) (withPorts [] [a] [] [d] (readV a >>= fun x => vecMove d k x (f x))) :=
  confined_withPorts ((confined_readV a).bind fun _ => vecMove_confined d k _ _)

theorem vecFma_confined (d a b : Reg) (k : MReg) (c : Reg) (sg : FmaSigns) : Confined (vecDest d) (vecFma d a b k c sg) :=
  confined_withPorts ((confined_readV a).bind fun _ => (confined_requireClass _ _ _).bind fun _ => (confined_readV b).bind fun _ =>
    (confined_requireClass _ _ _).bind fun _ => (confined_requireTag _ _ _).bind fun _ => (confined_readV c).bind fun _ =>
    (confined_requireClass _ _ _).bind fun _ => (confined_requireTag _ _ _).bind fun _ => (confined_readK k).bind fun _ =>
    (confined_oldBits d).bind fun _ => confined_self.bind fun _ => confined_putVec (by simp [vecDest]) rfl _ _)

theorem vecDot_confined (d a b : Reg) (k : MReg) (c : Reg) (g : Nat) (rtag : Tag → Option Tag) :
    Confined (vecDest d) (vecDot d a b k c g rtag) := by
  refine confined_withPorts ((confined_readV a).bind fun va => ?_)
  split
  · exact confined_trapM _ _
  · exact (confined_readV b).bind fun _ => (confined_requireClass _ _ _).bind fun _ => (confined_requireTag _ _ _).bind fun _ =>
      (confined_readV c).bind fun _ => (confined_requireTag _ _ _).bind fun _ => (confined_readK k).bind fun _ =>
      (confined_oldBits d).bind fun _ => confined_self.bind fun _ => confined_putVec (by simp [vecDest]) rfl _ _

theorem vecReduce_confined (d a : Reg) (k : MReg) (kind : Nat) (op : LaneOp) : Confined (vecDest d) (vecReduce d a k kind op) :=
  confined_withPorts ((confined_readV a).bind fun _ => (confined_requireClass _ _ _).bind fun _ => (confined_readK k).bind fun _ =>
    confined_self.bind fun _ => confined_putVec (by simp [vecDest]) rfl _ _)

theorem vecConvert_confined (high : Bool) (d a : Reg) (t : Tag) (k : MReg) (r : BitVec 3) (sat : BitVec 1) :
    Confined (vecDest d) (vecConvert high d a t k r sat) :=
  confined_withPorts ((confined_readV a).bind fun _ => (confined_requireClass _ _ _).bind fun _ => (confined_readK k).bind fun _ =>
    (confined_oldBits d).bind fun _ => (confined_roundingOf _).bind fun _ => confined_selfCodes.bind fun _ =>
    confined_putVec (by simp [vecDest]) rfl _ _)

theorem vecShrn_confined (d a b : Reg) (k : MReg) (r : BitVec 3) (sat : BitVec 1) (rtag : Tag → Option Tag) :
    Confined (vecDest d) (vecShrn d a b k r sat rtag) := by
  refine confined_withPorts ((confined_readV a).bind fun va => ?_)
  split
  · exact confined_trapM _ _
  · exact (confined_readG b).bind fun _ => (confined_readK k).bind fun _ => (confined_oldBits d).bind fun _ =>
      (confined_roundingOf _).bind fun _ => confined_putVec (by simp [vecDest]) rfl _ _

theorem vsel_confined (d a b : Reg) (k : MReg) (f : VReg → VReg → Nat → Nat × FpFlags) :
    Confined (vecDest d) (withPorts [] [a, b] [] [d]
      (readV a >>= fun x => readV b >>= fun y => readK k >>= fun m => putVec d x.tag (f x y m))) :=
  confined_withPorts ((confined_readV a).bind fun _ => (confined_readV b).bind fun _ => (confined_readK k).bind fun _ =>
    confined_putVec (by simp [vecDest]) rfl _ _)

theorem vcmprs_confined (d a : Reg) (k : MReg) (f : VReg → Nat → Nat × FpFlags) :
    Confined (vecDest d) (withPorts [] [a] [] [d] (readV a >>= fun x => readK k >>= fun m => putVec d x.tag (f x m))) :=
  confined_withPorts ((confined_readV a).bind fun _ => (confined_readK k).bind fun _ => confined_putVec (by simp [vecDest]) rfl _ _)

theorem vins_confined (d a b : Reg) (f : Thread → Word → Word → VReg) :
    Confined (vecDest d) (withPorts [a, b] [] [] []
      (readG a >>= fun x => readG b >>= fun n => self >>= fun t => writeV d (f t x n))) :=
  confined_withPorts ((confined_readG a).bind fun _ => (confined_readG b).bind fun _ => confined_self.bind fun _ =>
    confined_writeV (by simp [vecDest]) _)

theorem vtag_confined (d a : Reg) (f : VReg → VReg) :
    Confined (vecDest d) (withPorts [] [a] [] [d] (readV a >>= fun x => writeV d (f x))) :=
  confined_withPorts ((confined_readV a).bind fun _ => confined_writeV (by simp [vecDest]) _)

theorem vext_confined (d a b : Reg) (f : VReg → Word → Word) :
    Confined (floatDest d) (withPorts [b] [a] [d] [] (readV a >>= fun x => readG b >>= fun n => writeG d (f x n))) :=
  confined_withPorts ((confined_readV a).bind fun _ => (confined_readG b).bind fun _ => confined_writeG (by simp [floatDest]) _)

theorem vtchk_confined (w : Dest) (a : Reg) (t : Tag) :
    Confined w (withPorts [] [a] [] [] (readV a >>= fun x => requireTag a x t)) :=
  confined_withPorts ((confined_readV a).bind fun _ => confined_requireTag _ _ _)

theorem sfp2_confined (d a b : Reg) (rm : Nat) (f : RMode → FVal → FVal → FRes) : Confined (floatDest d) (sfp2 d a b rm f) :=
  confined_withPorts ((confined_readG a).bind fun _ => (confined_readG b).bind fun _ => (confined_roundingOf _).bind fun _ =>
    confined_putFloat (by simp [floatDest]) rfl _ _)

theorem sfpCmp_confined (d a b : Reg) (c : Nat) : Confined (floatDest d) (sfpCmp d a b c) :=
  confined_withPorts ((confined_readG a).bind fun _ => (confined_readG b).bind fun _ =>
    (confined_writeG (by simp [floatDest]) _).bind fun _ => confined_orFlags rfl _)

theorem fromMask_confined (d : Reg) (f : Thread → Word) :
    Confined (floatDest d) (withPorts [] [] [d] [] (self >>= fun x => writeG d (f x))) :=
  confined_withPorts (confined_self.bind fun _ => confined_writeG (by simp [floatDest]) _)

theorem toMask_confined (m : MReg) (a : Reg) (f : Thread → Word → BitVec 128) :
    Confined (maskDest m) (withPorts [a] [] [] [] (readG a >>= fun v => modSelf fun x => kWrite x m (f x v))) :=
  confined_withPorts ((confined_readG a).bind fun _ => confined_modSelf fun x => onlyIn_kWrite (by simp [maskDest]) x _)

theorem maskOp_confined (m a b : MReg) (f : BitVec 128 → BitVec 128 → BitVec 128) : Confined (maskDest m) (maskOp m a b f) :=
  confined_modSelf fun x => onlyIn_kWrite (by simp [maskDest]) x _

/-! ### How such a form ends -/

/-- No byte of memory and no matrix array has changed, of the executing thread's registers the named ones alone, and of the rest what
a trap or a wait changes, or, once the form has retired, nothing but FPCTL. -/
def Kept (s t : State) (gs vs : List Reg) (ks : List MReg) : Prop :=
  SameMemory s t ∧ RegsExcept (me s) (getThread t s.cur) gs vs ks ∧ SameView (me s) (getThread t s.cur) ∧ ArraySame s t ∧
    (Retired s t → SpecialSame (me s) (getThread t s.cur) ∧ OthersSame s t)

theorem Halted.kept {s t : State} (h : Halted s t) (gs vs : List Reg) (ks : List MReg) : Kept s t gs vs ks :=
  ⟨h.calm.rest.memory, h.calm.regsExcept s.cur gs vs ks, (h.own s.cur).1, h.calm.rest.array, fun hr => absurd hr h.calm.not_retired⟩

theorem Only.kept {w : Dest} {s t : State} (h : Only w s t) (pc : Word) : Kept s (retiredAt s t pc) w.gs w.vs w.ks := by
  have rest := h.rest.trans (retiredAt_sameRest s t pc)
  refine ⟨rest.memory, regsExcept_retiredAt h.own.regs, ?_, rest.array, fun _ => ⟨?_, fun u hu => ?_⟩⟩
  · rw [getThread_retiredAt]
    exact h.own.view
  · rw [getThread_retiredAt]
    exact h.own.special
  · rw [getThread_retiredAt_other hu]
    exact h.others u hu

theorem Only.fpctl {w : Dest} {s t : State} (h : Only w s t) (he : w.events = false) (pc : Word) :
    (getThread (retiredAt s t pc) s.cur).fpctl = (me s).fpctl := by
  rw [getThread_retiredAt]
  exact h.own.fpctl he

section
variable {w : Dest} {s t : State}

/-- A form of confined work ends in a state that keeps all but its destination, and FPCTL too where it has no events. -/
theorem finish_kept {len : Nat} {m : M (Option Word)} (hm : Confined w m) (h : finish len m s = .next t) :
    Kept s t w.gs w.vs w.ks ∧ (w.events = false → (getThread t s.cur).fpctl = (me s).fpctl) := by
  cases hs : m s with
  | ok p =>
    obtain ⟨pc, u⟩ := p
    rw [finish_ok hs] at h
    cases h
    exact ⟨(hm.ok hs).kept _, fun he => (hm.ok hs).fpctl he _⟩
  | error e =>
    have halted : Halted s t := by
      cases e with
      | trap c v k =>
        rw [finish_trap hs] at h
        cases h
        exact (hm.halt hs s).trans (takeTrap_halted _ _ _ _)
      | wait v k =>
        rw [finish_wait hs] at h
        cases h
        exact (hm.halt hs s).trans (blockThread_halted _ _ _)
    exact ⟨halted.kept _ _ _, fun _ => (halted.own s.cur).2⟩

theorem run4_kept {m : M Unit} (hm : Confined w m) (h : run4 m s = .next t) :
    Kept s t w.gs w.vs w.ks ∧ (w.events = false → (getThread t s.cur).fpctl = (me s).fpctl) :=
  finish_kept (hm.bind fun _ => confined_pure _) h

end

/-- An instruction is a form of one confined work, which ends after its four bytes or jumps. -/
def RunsConfined (w : Dest) (i : Instr) : Prop := ∃ m : M (Option Word), Confined w m ∧ ∀ s, exec i s = finish 4 m s

theorem runsConfined_run4 {w : Dest} {i : Instr} {m : M Unit} (hm : Confined w m) (h : ∀ s, exec i s = run4 m s) : RunsConfined w i :=
  ⟨_, hm.bind fun _ => confined_pure none, h⟩

theorem RunsConfined.kept {w : Dest} {i : Instr} (hi : RunsConfined w i) {s t : State} (h : exec i s = .next t) :
    Kept s t w.gs w.vs w.ks := by
  obtain ⟨m, hm, he⟩ := hi
  exact (finish_kept hm ((he s).symm.trans h)).1

theorem RunsConfined.keptFpctl {gs : List Reg} {i : Instr} (hi : RunsConfined (intDest gs) i) {s t : State} (h : exec i s = .next t) :
    Kept s t gs [] [] ∧ (getThread t s.cur).fpctl = (me s).fpctl := by
  obtain ⟨m, hm, he⟩ := hi
  obtain ⟨kept, fpctl⟩ := finish_kept hm ((he s).symm.trans h)
  exact ⟨kept, fpctl rfl⟩

/-! ### The forms -/

theorem intTable_confined (d a b : Reg) : ∀ p ∈ intTable, RunsConfined (intDest [d]) (p.1 d a b) := by
  unfold intTable
  repeat refine List.forall_mem_cons.2 ⟨runsConfined_run4 (alu2_confined d a b _) fun _ => rfl, ?_⟩
  exact List.forall_mem_nil _

theorem immTable_confined (d a : Reg) (i : BitVec 16) : ∀ p ∈ immTable, RunsConfined (intDest [d]) (p.1 d a i) := by
  unfold immTable
  repeat refine List.forall_mem_cons.2 ⟨runsConfined_run4 (alu1_confined d a _) fun _ => rfl, ?_⟩
  exact List.forall_mem_nil _

theorem branchTable_confined (a b : Reg) (i : BitVec 16) : ∀ p ∈ branchTable, RunsConfined (intDest []) (p.1 a b i) := by
  unfold branchTable
  repeat refine List.forall_mem_cons.2 ⟨⟨_, branch_confined a b i _, fun _ => rfl⟩, ?_⟩
  exact List.forall_mem_nil _

theorem vecBinary_confined (d a b : Reg) (k : MReg) : ∀ p ∈ vecBinary, RunsConfined (vecDest d) (p.1 d a b k) := by
  unfold vecBinary
  repeat refine List.forall_mem_cons.2 ⟨runsConfined_run4 (vec2_confined d a b k _ _) fun _ => rfl, ?_⟩
  exact List.forall_mem_nil _

theorem vecUnary_confined (d a : Reg) (k : MReg) : ∀ p ∈ vecUnary, RunsConfined (vecDest d) (p.1 d a k) := by
  unfold vecUnary
  repeat refine List.forall_mem_cons.2 ⟨runsConfined_run4 (vec1_confined d a k _ _) fun _ => rfl, ?_⟩
  exact List.forall_mem_nil _

theorem vecMoves_confined (d a b : Reg) (k : MReg) : ∀ p ∈ vecMoves, RunsConfined (vecDest d) (p.1 d a b k) := by
  unfold vecMoves
  repeat refine List.forall_mem_cons.2 ⟨runsConfined_run4 (move2_confined d a b k _) fun _ => rfl, ?_⟩
  exact List.forall_mem_nil _

theorem maskBinary_confined (x y z : MReg) : ∀ p ∈ maskBinary, RunsConfined (maskDest x) (p.1 x y z) := by
  have form {i : Instr} (f : BitVec 128 → BitVec 128 → BitVec 128) (h : exec i = run4 (maskOp x y z f)) : RunsConfined (maskDest x) i :=
    runsConfined_run4 (maskOp_confined x y z f) (congrFun h)
  simp only [maskBinary, List.forall_mem_cons]
  exact ⟨form (· &&& ·) rfl, form (· ||| ·) rfl, form (· ^^^ ·) rfl, form (fun x y => x &&& ~~~y) rfl, List.forall_mem_nil _⟩

theorem floatBinary_confined (d a b : Reg) (r : BitVec 3) : ∀ p ∈ floatBinary, RunsConfined (floatDest d) (p.1 d a b r) := by
  unfold floatBinary
  repeat refine List.forall_mem_cons.2 ⟨runsConfined_run4 (sfp2_confined d a b _ _) fun _ => rfl, ?_⟩
  exact List.forall_mem_nil _

/-- Jumps: the link, if there is one, is written where the target is good. -/
theorem jal_confined (i : BitVec 26) : RunsConfined (intDest [31]) (.jal i) :=
  ⟨_, confined_self.bind fun _ => (confined_jumpTo _).bind fun _ => (confined_writeG (by simp [intDest]) _).bind fun _ => confined_pure _,
    fun _ => rfl⟩

theorem jalr_confined (d a : Reg) : RunsConfined (intDest [d]) (.jalr d a) :=
  ⟨_, confined_withPorts (confined_self.bind fun _ => (confined_readG a).bind fun _ => (confined_jumpTo _).bind fun _ =>
    (confined_writeG (by simp [intDest]) _).bind fun _ => confined_pure _), fun _ => rfl⟩

/-- LOOP writes its counter whether it jumps or falls through. -/
theorem loop_confined (a : Reg) (i : BitVec 16) : RunsConfined (intDest [a]) (.loop a i) := by
  have counter (v : Word) : Confined (intDest [a]) (writeG a v) := confined_writeG (by simp [intDest]) v
  exact ⟨_, confined_self.bind fun _ => (confined_readG a).bind fun _ => confined_ite
    ((confined_jumpTo _).bind fun _ => (counter _).bind fun _ => confined_pure _) ((counter 0).bind fun _ => confined_pure _), fun _ => rfl⟩

/-- The integer forms that the tables leave out, the jumps and LOOP, each with its destinations. -/
theorem intForms_confined (d a b : Reg) (n w l : BitVec 6) (i16 : BitVec 16) (i21 : BitVec 21) (i26 : BitVec 26) :
    ∀ p ∈ [(Instr.clz d a, [d]), (.ctz d a, [d]), (.popc d a, [d]), (.movz d a b, [d]), (.movn d a b, [d]), (.lui d i16, [d]),
      (.slli d a n, [d]), (.srli d a n, [d]), (.srai d a n, [d]), (.bfxu d a w l, [d]), (.bfxs d a w l, [d]), (.bfi d a w l, [d]),
      (.addpc d i21, [d]), (.j i26, []), (.jal i26, [31]), (.jr a, []), (.jalr d a, [d]), (.loop a i16, [a])],
      RunsConfined (intDest p.2) p.1 := by
  have one {i : Instr} {f : Word → Word} (h : ∀ s, exec i s = run4 (alu1 d a f) s) : RunsConfined (intDest [d]) i :=
    runsConfined_run4 (alu1_confined d a f) h
  have give (v : Word) : Confined (intDest [d]) (writeG d v) := confined_writeG (by simp [intDest]) v
  simp only [List.forall_mem_cons]
  refine ⟨one fun _ => rfl, one fun _ => rfl, one fun _ => rfl, ?movz, ?movn, ?lui, one fun _ => rfl, one fun _ => rfl, one fun _ => rfl,
    one fun _ => rfl, one fun _ => rfl, ?bfi, ?addpc, ?j, jal_confined i26, ?jr, jalr_confined d a, loop_confined a i16,
    List.forall_mem_nil _⟩
  case movz | movn => exact runsConfined_run4 (condMove_confined d a b _) fun _ => rfl
  case lui => exact runsConfined_run4 (confined_withPorts (give _)) fun _ => rfl
  case bfi =>
    exact runsConfined_run4
      (confined_withPorts ((confined_readG a).bind fun _ => (confined_readG d).bind fun _ => give _)) fun _ => rfl
  case addpc => exact runsConfined_run4 (confined_withPorts (confined_self.bind fun _ => give _)) fun _ => rfl
  case j => exact ⟨_, confined_self.bind fun _ => confined_jumpTo _, fun _ => rfl⟩
  case jr => exact ⟨_, confined_withPorts ((confined_readG a).bind fun _ => confined_jumpTo _), fun _ => rfl⟩

/-- The vector forms that the tables leave out. -/
theorem vecForms_confined (d a b c : Reg) (k : MReg) (tag : Tag) (rm : BitVec 3) (sat : BitVec 1) :
    ∀ i ∈ [Instr.vslup d a b k, .vsldn d a b k, .vbcast d a b k, .vmov d a k, .vcmprs d a k, .vsel d a b k, .vins d a b,
      .vfma d a b k c, .vfms d a b k c, .vfnma d a b k c, .vfnms d a b k c, .vdot4 d a b k c, .vdot2 d a b k c, .vredsum d a k,
      .vredmax d a k, .vredmin d a k, .vcvt d a tag k rm sat, .vcvth d a tag k rm sat, .vshrn8 d a b k rm sat,
      .vshrn16 d a b k rm sat, .vtag d a tag], RunsConfined (vecDest d) i := by
  have slide {i : Instr} {f : VReg → Word → Nat → Nat}
      (h : ∀ s, exec i s = run4 (withPorts [b] [a] [] [d] (readV a >>= fun x => readG b >>= fun y => vecMove d k x (f x y))) s) :
      RunsConfined (vecDest d) i := runsConfined_run4 (slide_confined d a b k f) h
  have fused {i : Instr} {sg : FmaSigns} (h : ∀ s, exec i s = run4 (vecFma d a b k c sg) s) : RunsConfined (vecDest d) i :=
    runsConfined_run4 (vecFma_confined d a b k c sg) h
  have reduce {i : Instr} {kind : Nat} {op : LaneOp} (h : ∀ s, exec i s = run4 (vecReduce d a k kind op) s) :
      RunsConfined (vecDest d) i := runsConfined_run4 (vecReduce_confined d a k kind op) h
  simp only [List.forall_mem_cons]
  refine ⟨slide fun _ => rfl, slide fun _ => rfl, slide fun _ => rfl, ?vmov, ?vcmprs, ?vsel, ?vins, fused fun _ => rfl, fused fun _ => rfl,
    fused fun _ => rfl, fused fun _ => rfl, ?vdot4, ?vdot2, reduce fun _ => rfl, reduce fun _ => rfl, reduce fun _ => rfl, ?vcvt, ?vcvth,
    ?vshrn8, ?vshrn16, ?vtag, List.forall_mem_nil _⟩
  case vmov => exact runsConfined_run4 (vmov_confined d a k _) fun _ => rfl
  case vcmprs => exact runsConfined_run4 (vcmprs_confined d a k _) fun _ => rfl
  case vsel => exact runsConfined_run4 (vsel_confined d a b k _) fun _ => rfl
  case vins => exact runsConfined_run4 (vins_confined d a b _) fun _ => rfl
  case vdot4 | vdot2 => exact runsConfined_run4 (vecDot_confined d a b k c _ _) fun _ => rfl
  case vcvt | vcvth => exact runsConfined_run4 (vecConvert_confined _ d a tag k rm sat) fun _ => rfl
  case vshrn8 | vshrn16 => exact runsConfined_run4 (vecShrn_confined d a b k rm sat _) fun _ => rfl
  case vtag => exact runsConfined_run4 (vtag_confined d a _) fun _ => rfl

/-- The other forms that give a general register. -/
theorem scalarForms_confined (d a b : Reg) (k : MReg) (rm : BitVec 3) (cv : BitVec 4) :
    ∀ i ∈ [Instr.vext d a b, .fmin d a b, .fmax d a b, .feq d a b, .flt d a b, .fle d a b, .fsqrt d a rm, .fcvt d a cv rm,
      .fma d a b rm, .kmovlFromMask d k, .kmovhFromMask d k, .kpopc d k, .kfirst d k], RunsConfined (floatDest d) i := by
  have compare {i : Instr} {c : Nat} (h : ∀ s, exec i s = run4 (sfpCmp d a b c) s) : RunsConfined (floatDest d) i :=
    runsConfined_run4 (sfpCmp_confined d a b c) h
  have mask {i : Instr} {f : Thread → Word} (h : ∀ s, exec i s = run4 (withPorts [] [] [d] [] (self >>= fun x => writeG d (f x))) s) :
      RunsConfined (floatDest d) i := runsConfined_run4 (fromMask_confined d f) h
  simp only [List.forall_mem_cons]
  refine ⟨?vext, ?fmin, ?fmax, compare fun _ => rfl, compare fun _ => rfl, compare fun _ => rfl, ?fsqrt, ?fcvt, ?fma, mask fun _ => rfl,
    mask fun _ => rfl, mask fun _ => rfl, mask fun _ => rfl, List.forall_mem_nil _⟩
  case vext => exact runsConfined_run4 (vext_confined d a b _) fun _ => rfl
  case fmin | fmax => exact runsConfined_run4 (sfp2_confined d a b _ _) fun _ => rfl
  case fsqrt =>
    exact runsConfined_run4 (confined_withPorts ((confined_readG a).bind fun _ => (confined_roundingOf _).bind fun _ =>
      confined_putFloat (by simp [floatDest]) rfl _ _)) fun _ => rfl
  case fcvt =>
    exact runsConfined_run4 (confined_withPorts ((confined_readG a).bind fun _ => (confined_roundingOf _).bind fun _ =>
      (confined_writeG (by simp [floatDest]) _).bind fun _ => confined_orFlags rfl _)) fun _ => rfl
  case fma =>
    exact runsConfined_run4 (confined_withPorts ((confined_readG a).bind fun _ => (confined_readG b).bind fun _ =>
      confined_self.bind fun _ => (confined_roundingOf _).bind fun _ => confined_putFloat (by simp [floatDest]) rfl _ _)) fun _ => rfl

/-- The forms that give a mask register. -/
theorem maskForms_confined (m k : MReg) (a b : Reg) (rm : BitVec 3) :
    ∀ i ∈ [Instr.vcmp m a b k rm, .kmovlToMask m a, .kmovhToMask m a], RunsConfined (maskDest m) i := by
  simp only [List.forall_mem_cons]
  refine ⟨?vcmp, ?kmovl, ?kmovh, List.forall_mem_nil _⟩
  case vcmp =>
    exact runsConfined_run4 (confined_withPorts ((confined_readV a).bind fun _ => (confined_requireClass _ _ _).bind fun _ =>
      (confined_readV b).bind fun _ => (confined_requireClass _ _ _).bind fun _ => (confined_requireTag _ _ _).bind fun _ =>
      (confined_readK k).bind fun _ => (confined_writeK (by simp [maskDest]) _).bind fun _ => confined_orFlags rfl _)) fun _ => rfl
  case kmovl | kmovh => exact runsConfined_run4 (toMask_confined m a _) fun _ => rfl

theorem vtchk_runsConfined (a : Reg) (t : Tag) : RunsConfined (intDest []) (.vtchk a t) :=
  runsConfined_run4 (vtchk_confined _ a t) fun _ => rfl

/-- Settles O26: each form is work that writes its destination alone. -/
theorem registerFormFrames : Obligations.RegisterFormFrames := by
  intro s t d a b c k m tag n w l i16 i21 i26 rm cv sat
  exact ⟨fun p hp h => (intForms_confined d a b n w l i16 i21 i26 p hp).keptFpctl h,
    fun i hi h => (vecForms_confined d a b c k tag rm sat i hi).kept h,
    fun i hi h => (scalarForms_confined d a b k rm cv i hi).kept h,
    fun i hi h => (maskForms_confined m k a b rm i hi).kept h,
    fun h => (vtchk_runsConfined a tag).kept h,
    fun p hp h => (intTable_confined d a b p hp).keptFpctl h,
    fun p hp i h => (immTable_confined d a i p hp).keptFpctl h,
    fun p hp i h => (branchTable_confined a b i p hp).keptFpctl h,
    fun p hp h => (vecBinary_confined d a b k p hp).kept h,
    fun p hp h => (vecUnary_confined d a k p hp).kept h,
    fun p hp h => (vecMoves_confined d a b k p hp).kept h,
    fun p hp x y z h => (maskBinary_confined x y z p hp).kept h,
    fun p hp r h => (floatBinary_confined d a b r p hp).kept h⟩

end Sys2Proof.RegisterForms
end

section
/-! Forms whose value comes from the matrix array's stream, and the core's own codebook tables (R63, R69, R250, R262, R264). -/
namespace Sys2Proof.StreamForms
open Sys2Proof.Machine Sys2Proof.Safety Sys2Proof.Frames Sys2Proof.SystemRegisters

/-! ### Reading a source changes switches alone -/

/-- A state differs from another in its switches alone. -/
def SwitchesOnly (s u : State) : Prop := ∃ x, u = { s with switches := x }

theorem SwitchesOnly.refl (s : State) : SwitchesOnly s s := ⟨s.switches, rfl⟩

theorem SwitchesOnly.trans {s t u : State} (h : SwitchesOnly s t) (k : SwitchesOnly t u) : SwitchesOnly s u := by
  obtain ⟨x, rfl⟩ := h
  obtain ⟨y, rfl⟩ := k
  exact ⟨y, rfl⟩

theorem switchesOnly_dropWord (s : State) (dir : Nat) : SwitchesOnly s (dropWord s dir) := ⟨_, rfl⟩

theorem switchesOnly_afterG (s : State) (r : Reg) : SwitchesOnly s (afterG s r) := by
  unfold afterG
  split
  · exact switchesOnly_dropWord s _
  · exact .refl s

theorem switchesOnly_afterV (s : State) (r : Reg) : SwitchesOnly s (afterV s r) := by
  unfold afterV
  split
  · exact (switchesOnly_dropWord s _).trans (switchesOnly_dropWord _ _)
  · exact .refl s

/-- Reading a source changes nothing that the licence and the stream depend on. -/
theorem SwitchesOnly.array {s u : State} (h : SwitchesOnly s u) : u.cur = s.cur ∧ me u = me s ∧
    holdsLicence u (threadRegion u u.cur) u.cur.core = holdsLicence s (threadRegion s s.cur) s.cur.core ∧
    holderCode u (threadRegion u u.cur) u.cur.core = holderCode s (threadRegion s s.cur) s.cur.core ∧
    issueRoom u (pairKey u.cur.core) = issueRoom s (pairKey s.cur.core) ∧ ∀ k, getPair u k = getPair s k := by
  obtain ⟨x, rfl⟩ := h
  exact ⟨rfl, rfl, rfl, rfl, rfl, fun _ => rfl⟩

/-! ### How a 64-bit form ends, and a form that waits with its ports held -/

theorem run8_trap {m : M Unit} {s : State} {c : Nat} {v : Word} {k : State → State} (h : m s = .error (.trap c v k)) :
    run8 m s = .next (takeTrap (k s) s.cur c v) := finish_trap (m_bind_error h)

theorem run8_wait {m : M Unit} {s : State} {w : Wait} {k : State → State} (h : m s = .error (.wait w k)) :
    run8 m s = .next (blockThread (k s) s.cur w) := finish_wait (m_bind_error h)

theorem withPorts_blocks {α : Type} {s : State} {gs vs gd vd : List Reg} {m : M α} {w : Wait} {k : State → State}
    (h : PortsReady s gs vs gd vd) (hm : m s = .error (.wait w k)) :
    withPorts gs vs gd vd m s = .error (.wait w fun s => holdDirs (namedDirs (gs ++ gd) (vs ++ vd)) (k s)) := by
  simp [withPorts, needPorts_ok h, hm]

/-- Which directions a core's slots hold is no part of a context. -/
theorem holdDirs_cases (dirs : List Nat) (s : State) :
    holdDirs dirs s = s ∨ ∃ hold, holdDirs dirs s = setCore s s.cur.core (withHold (getCore s s.cur.core) hold) := by
  unfold holdDirs
  split
  · exact .inl rfl
  · exact .inr ⟨_, rfl⟩

@[simp] theorem getThread_holdDirs (dirs : List Nat) (s : State) (u : ThreadRef) : getThread (holdDirs dirs s) u = getThread s u := by
  obtain h | ⟨hold, h⟩ := holdDirs_cases dirs s
  · rw [h]
  · rw [h]
    exact getThread_setCore s _ (withHold _ hold) rfl u

@[simp] theorem getPair_holdDirs (dirs : List Nat) (s : State) (k : Nat) : getPair (holdDirs dirs s) k = getPair s k := by
  obtain h | ⟨hold, h⟩ := holdDirs_cases dirs s <;> rw [h]
  exact getPair_setCore s _ _ k

@[simp] theorem getThread_enterStream (s : State) (pk core slot : Nat) (k : MKind) (u : ThreadRef) :
    getThread (enterStream s pk core slot k) u = getThread s u := rfl

theorem stream_enterStream (s : State) (pk core slot : Nat) (k : MKind) :
    (getPair (enterStream s pk core slot k) pk).stream =
      (getPair s pk).stream ++ [{ num := (getPair s pk).entered, core := core, slot := slot, kind := k }] := by
  simp [enterStream]

/-! ### The licence and the stream -/

section
variable {s : State} {d : Reg}

theorem requireLicence_ok (h : holdsLicence s (threadRegion s s.cur) s.cur.core = true) : requireLicence s = .ok ((), s) := by
  unfold requireLicence
  rw [m_bind_ok (getS_run s)]
  simp only [h, if_true]
  rfl

theorem requireLicence_trap (h : holdsLicence s (threadRegion s s.cur) s.cur.core = false) :
    requireLicence s = .error (.trap causeLicence (BitVec.ofNat 64 (holderCode s (threadRegion s s.cur) s.cur.core)) id) := by
  unfold requireLicence
  rw [m_bind_ok (getS_run s)]
  simp only [h, Bool.false_eq_true, if_false]
  rfl

theorem requireArray_ok (h : hasArray (threadRegion s s.cur) = true) : requireArray s = .ok ((), s) := by
  unfold requireArray
  rw [m_bind_ok (getS_run s)]
  simp only [h, if_true]
  rfl

/-- The state in which a thread waits for the value of the command that it has sent. -/
def sent (s : State) (dirs : List Nat) (k : MKind) : State :=
  blockThread (holdDirs dirs (enterStream s (pairKey s.cur.core) s.cur.core s.cur.slot k)) s.cur
    (.matrix (getPair s (pairKey s.cur.core)).entered)

/-- A command is sent: its thread waits at the same PC for the command's number, and the command is the last of the stream. -/
def Sent (s t : State) (k : MKind) : Prop :=
  (getThread t s.cur).wait = .matrix (getPair s (pairKey s.cur.core)).entered ∧ (getThread t s.cur).pc = (me s).pc ∧
    (getPair t (pairKey s.cur.core)).stream = (getPair s (pairKey s.cur.core)).stream ++
      [{ num := (getPair s (pairKey s.cur.core)).entered, core := s.cur.core, slot := s.cur.slot, kind := k }]

theorem sent_sent (s : State) (dirs : List Nat) (k : MKind) : Sent s (sent s dirs k) k := by
  refine ⟨?_, ?_, ?_⟩
  · simp [sent, blockThread]
  · simp [sent, blockThread, me]
  · simp only [sent, blockThread, modThread_eq, getPair_setThread, getPair_holdDirs]
    exact stream_enterStream s _ _ _ k

theorem issueForResult_ok (k : MKind) (h : issueRoom s (pairKey s.cur.core) = true) :
    issueForResult k s = .error (.wait (.matrix (getPair s (pairKey s.cur.core)).entered) fun v =>
      enterStream v (pairKey s.cur.core) v.cur.core v.cur.slot k) := by
  unfold issueForResult
  rw [m_bind_ok (getS_run s), if_pos h]
  rfl

theorem issueMatrix_ok (k : MKind) (h : issueRoom s (pairKey s.cur.core) = true) :
    issueMatrix k s = .ok ((), enterStream s (pairKey s.cur.core) s.cur.core s.cur.slot k) := by
  unfold issueMatrix
  rw [m_bind_ok (getS_run s), if_pos h]
  rfl

theorem awaitValue_done {start : M Unit} {v : Option VReg} (h : (me s).wait = .matrixDone v) :
    awaitValue d start s = (match v with
      | some v => writeV d v s
      | none => .ok ((), s)) := by
  have wait : (getThread s s.cur).wait = .matrixDone v := h
  unfold awaitValue
  rw [m_bind_ok (self_run s)]
  simp only [wait]
  cases v <;> rfl

theorem awaitValue_start {start : M Unit} (h : ∀ v, (me s).wait ≠ .matrixDone v) : awaitValue d start s = start s := by
  unfold awaitValue
  rw [m_bind_ok (self_run s)]
  have others : ∀ v, (getThread s s.cur).wait ≠ .matrixDone v := h
  revert others
  generalize (getThread s s.cur).wait = w
  intro others
  cases w with
  | matrixDone v => exact absurd rfl (others v)
  | _ => rfl

/-! ### MRD (R262) -/

/-- The tensor scale of an operand field, and the state after it is read (R257). -/
def scaleValue (s : State) (a : Reg) : Option Nat := if a = 0 then none else some ((valueG s a).toNat % 2 ^ 32)
def afterScale (s : State) (a : Reg) : State := if a = 0 then s else afterG s a

theorem switchesOnly_afterScale (s : State) (a : Reg) : SwitchesOnly s (afterScale s a) := by
  unfold afterScale
  split
  · exact .refl s
  · exact switchesOnly_afterG s a

@[simp] theorem me_afterScale (s : State) (a : Reg) : me (afterScale s a) = me s := by
  obtain ⟨x, hx⟩ := switchesOnly_afterScale s a
  rw [hx]
  rfl

theorem readScale_ok {a : Reg} (h : SourcesReady s [a] []) : readScale a s = .ok (scaleValue s a, afterScale s a) := by
  unfold readScale scaleValue afterScale
  split
  · rfl
  · rw [m_bind_ok h.takeG.1]
    rfl

theorem RoomReady.afterScale {gd vd : List Reg} (h : RoomReady s gd vd) (a : Reg) : RoomReady (afterScale s a) gd vd := by
  unfold StreamForms.afterScale
  split
  · exact h
  · exact h.afterG a

/-- The work of MRD once its scale is read. -/
def mrdStart (acc : BitVec 4) (row : BitVec 6) (half : BitVec 1) (tag : Tag) (sat sc : BitVec 1) (asl : BitVec 2) (rm : BitVec 3)
    (ts : Option Nat) : M Unit := do
  requireLicence
  let x ← self
  issueForResult (.mrd acc.toNat row.toNat half.toNat tag.toNat (sat == 1) (sc == 1) asl.toNat
    (if rm.toNat = 7 then fpctlRm x else rm.toNat) ts)

variable {a : Reg} {acc : BitVec 4} {row : BitVec 6} {half : BitVec 1} {tag : Tag} {sat sc : BitVec 1} {asl : BitVec 2} {rm : BitVec 3}

theorem exec_mrd_eq (s : State) : exec (.mrd d a acc row half tag sat sc asl rm) s =
    run8 (withPorts [a] [] [] [d] (readScale a >>= fun ts => awaitValue d (mrdStart acc row half tag sat sc asl rm ts))) s := rfl

theorem exec_mrd_done {v : Option VReg} (hp : PortsReady s [a] [] [] [d]) (h : (me s).wait = .matrixDone v) :
    exec (.mrd d a acc row half tag sat sc asl rm) s = .next (retired 8 s (match v with
      | some v => giveV (afterScale s a) d v
      | none => afterScale s a)) := by
  rw [exec_mrd_eq]
  refine run8_ok (withPorts_ok hp ((m_bind_ok (readScale_ok hp.sources)).trans
    ((awaitValue_done ((me_afterScale s a).symm ▸ h)).trans ?_)))
  cases v with
  | none => rfl
  | some v => exact (RoomReady.afterScale hp.room a).giveV v

theorem exec_mrd_licence (hp : PortsReady s [a] [] [] [d]) (h : ∀ v, (me s).wait ≠ .matrixDone v)
    (hl : holdsLicence s (threadRegion s s.cur) s.cur.core = false) :
    exec (.mrd d a acc row half tag sat sc asl rm) s = .next (takeTrap (holdDirs (namedDirs [a] [d]) s) s.cur causeLicence
      (BitVec.ofNat 64 (holderCode s (threadRegion s s.cur) s.cur.core))) := by
  obtain ⟨-, -, licence, code, -, -⟩ := (switchesOnly_afterScale s a).array
  have started := awaitValue_start (d := d) (start := mrdStart acc row half tag sat sc asl rm (scaleValue s a))
    ((me_afterScale s a).symm ▸ h)
  have trap : mrdStart acc row half tag sat sc asl rm (scaleValue s a) (afterScale s a) = _ :=
    m_bind_error (requireLicence_trap (licence.trans hl))
  rw [code] at trap
  rw [exec_mrd_eq]
  exact run8_trap (withPorts_trap hp ((m_bind_ok (readScale_ok hp.sources)).trans (started.trans trap)))

theorem exec_mrd_sends (hp : PortsReady s [a] [] [] [d]) (h : ∀ v, (me s).wait ≠ .matrixDone v)
    (hl : holdsLicence s (threadRegion s s.cur) s.cur.core = true) (room : issueRoom s (pairKey s.cur.core) = true) :
    exec (.mrd d a acc row half tag sat sc asl rm) s = .next (sent s (namedDirs [a] [d])
      (.mrd acc.toNat row.toNat half.toNat tag.toNat (sat == 1) (sc == 1) asl.toNat
        (if rm.toNat = 7 then fpctlRm (me s) else rm.toNat) (scaleValue s a))) := by
  obtain ⟨cur, own, licence, -, free, pair⟩ := (switchesOnly_afterScale s a).array
  have started := awaitValue_start (d := d) (start := mrdStart acc row half tag sat sc asl rm (scaleValue s a)) (own.symm ▸ h)
  have sends : mrdStart acc row half tag sat sc asl rm (scaleValue s a) (afterScale s a) = _ :=
    (m_bind_ok (requireLicence_ok (licence.trans hl))).trans
      ((m_bind_ok (self_run _)).trans (issueForResult_ok _ (free.trans room)))
  rw [show getThread (afterScale s a) (afterScale s a).cur = me s from own, cur, pair] at sends
  have work : (readScale a >>= fun ts => awaitValue d (mrdStart acc row half tag sat sc asl rm ts)) s = _ :=
    (m_bind_ok (readScale_ok hp.sources)).trans (started.trans sends)
  rw [exec_mrd_eq]
  exact run8_wait (withPorts_blocks hp work)

/-! ### CBRD (R69) -/

variable {t : BitVec 2}

/-- The work of CBRD once its port is ready. -/
def cbrdWork (d : Reg) (t : BitVec 2) : M Unit := do
  let x ← self
  if x.cbsel.getLsbD 0 then
    awaitValue d do
      requireLicence
      issueForResult (.cbrd t.toNat)
  else do
    let s ← getS
    writeV d { bits := BitVec.ofNat 512 (tableBits (getCore s s.cur.core).cbt t.toNat), tag := 0x0B }

theorem exec_cbrd_eq (s : State) : exec (.cbrd d t) s = run4 (withPorts [] [] [] [d] (cbrdWork d t)) s := rfl

theorem cbrdWork_core (h : (me s).cbsel.getLsbD 0 = false) : cbrdWork d t s =
    writeV d { bits := BitVec.ofNat 512 (tableBits (getCore s s.cur.core).cbt t.toNat), tag := 0x0B } s := by
  unfold cbrdWork
  rw [m_bind_ok (self_run s), if_neg (by rw [show (getThread s s.cur).cbsel.getLsbD 0 = false from h]; decide), m_bind_ok (getS_run s)]

theorem cbrdWork_array (h : (me s).cbsel.getLsbD 0 = true) : cbrdWork d t s =
    awaitValue d (requireLicence >>= fun _ => issueForResult (.cbrd t.toNat)) s := by
  unfold cbrdWork
  rw [m_bind_ok (self_run s), if_pos (show (getThread s s.cur).cbsel.getLsbD 0 = true from h)]

theorem exec_cbrd_core (hp : PortsReady s [] [] [] [d]) (h : (me s).cbsel.getLsbD 0 = false) :
    exec (.cbrd d t) s = .next (retired 4 s (giveV s d
      { bits := BitVec.ofNat 512 (tableBits (getCore s s.cur.core).cbt t.toNat), tag := 0x0B })) := by
  rw [exec_cbrd_eq]
  exact run4_ok (withPorts_ok hp ((cbrdWork_core h).trans (hp.room.giveV _)))

theorem exec_cbrd_done {v : VReg} (hp : PortsReady s [] [] [] [d]) (h : (me s).cbsel.getLsbD 0 = true)
    (hw : (me s).wait = .matrixDone (some v)) : exec (.cbrd d t) s = .next (retired 4 s (giveV s d v)) := by
  rw [exec_cbrd_eq]
  exact run4_ok (withPorts_ok hp ((cbrdWork_array h).trans ((awaitValue_done hw).trans (hp.room.giveV v))))

theorem exec_cbrd_licence (hp : PortsReady s [] [] [] [d]) (h : (me s).cbsel.getLsbD 0 = true)
    (hw : ∀ v, (me s).wait ≠ .matrixDone v) (hl : holdsLicence s (threadRegion s s.cur) s.cur.core = false) :
    exec (.cbrd d t) s = .next (takeTrap (holdDirs (namedDirs [] [d]) s) s.cur causeLicence
      (BitVec.ofNat 64 (holderCode s (threadRegion s s.cur) s.cur.core))) := by
  rw [exec_cbrd_eq]
  exact run4_trap (withPorts_trap hp
    ((cbrdWork_array h).trans ((awaitValue_start hw).trans (m_bind_error (requireLicence_trap hl)))))

theorem exec_cbrd_sends (hp : PortsReady s [] [] [] [d]) (h : (me s).cbsel.getLsbD 0 = true)
    (hw : ∀ v, (me s).wait ≠ .matrixDone v) (hl : holdsLicence s (threadRegion s s.cur) s.cur.core = true)
    (room : issueRoom s (pairKey s.cur.core) = true) :
    exec (.cbrd d t) s = .next (sent s (namedDirs [] [d]) (.cbrd t.toNat)) := by
  rw [exec_cbrd_eq]
  exact run4_wait (withPorts_blocks hp ((cbrdWork_array h).trans ((awaitValue_start hw).trans
    ((m_bind_ok (requireLicence_ok hl)).trans (issueForResult_ok _ room)))))

/-! ### CBLD (R63, R69) -/

/-- The pending writes of a core with a whole table written from a register's bits. -/
def withTable (m : AMap (BitVec 16)) (t bits : Nat) : AMap (BitVec 16) :=
  (List.range 16).foldl (fun m i => amInsert m (t * 16 + i) (BitVec.ofNat 16 (lane 16 bits i))) m

/-- The state in which the core's table is written at the end of the cycle. -/
def tableWritten (s : State) (t bits : Nat) : State :=
  modCore s s.cur.core fun c => { c with cbtNext := withTable c.cbtNext t bits }

theorem getThread_tableWritten (s : State) (t bits : Nat) (u : ThreadRef) : getThread (tableWritten s t bits) u = getThread s u :=
  getThread_setCore s s.cur.core { getCore s s.cur.core with cbtNext := withTable (getCore s s.cur.core).cbtNext t bits } rfl u

theorem cbtNext_tableWritten (s : State) (t bits : Nat) :
    (getCore (tableWritten s t bits) s.cur.core).cbtNext = withTable (getCore s s.cur.core).cbtNext t bits := by
  simp [tableWritten]

/-- The work of CBLD. -/
def cbldWork (t : BitVec 2) (a : Reg) : M Unit := do
  let v ← readV a
  let x ← self
  let array := x.cbsel.getLsbD 0
  if array then requireLicence else pure ()
  if v.tag = 0x0B then pure () else tagTrap a 0 v.tag
  let bits := v.bits.toNat % 2 ^ 256
  if array then issueMatrix (.cbld t.toNat bits)
  else modS fun s => tableWritten s t.toNat bits

theorem exec_cbld_eq (s : State) : exec (.cbld t a) s = run4 (withPorts [] [a] [] [] (cbldWork t a)) s := rfl

theorem cbldWork_core (hp : PortsReady s [] [a] [] []) (ht : TagsAgree s a) (tag : (valueV s a).tag = 0x0B)
    (h : (me s).cbsel.getLsbD 0 = false) :
    cbldWork t a s = .ok ((), tableWritten (afterV s a) t.toNat ((valueV s a).bits.toNat % 2 ^ 256)) := by
  have cbsel : (getThread (afterV s a) (afterV s a).cur).cbsel.getLsbD 0 = false := (congrArg (·.cbsel.getLsbD 0) (me_afterV s a)).trans h
  unfold cbldWork
  rw [m_bind_ok (hp.sources.takeV ht).1, m_bind_ok (self_run _)]
  simp only [cbsel, tag, if_true, Bool.false_eq_true, if_false]
  rfl

theorem cbldWork_array (hp : PortsReady s [] [a] [] []) (ht : TagsAgree s a) (tag : (valueV s a).tag = 0x0B)
    (h : (me s).cbsel.getLsbD 0 = true) (hl : holdsLicence s (threadRegion s s.cur) s.cur.core = true)
    (room : issueRoom s (pairKey s.cur.core) = true) :
    cbldWork t a s = .ok ((), enterStream (afterV s a) (pairKey s.cur.core) s.cur.core s.cur.slot
      (.cbld t.toNat ((valueV s a).bits.toNat % 2 ^ 256))) := by
  obtain ⟨cur, own, licence, -, free, -⟩ := (switchesOnly_afterV s a).array
  have cbsel : (getThread (afterV s a) (afterV s a).cur).cbsel.getLsbD 0 = true := (congrArg (·.cbsel.getLsbD 0) own).trans h
  unfold cbldWork
  rw [m_bind_ok (hp.sources.takeV ht).1, m_bind_ok (self_run _)]
  simp only [cbsel, tag, if_true]
  rw [m_bind_ok (requireLicence_ok (licence.trans hl)), issueMatrix_ok _ (free.trans room), cur]

/-- The entries of a table stand under keys of their own. -/
theorem amGet_withTable (m : AMap (BitVec 16)) (t bits : Nat) {i : Nat} (hi : i < 16) :
    amGet (withTable m t bits) (t * 16 + i) 0 = BitVec.ofNat 16 (lane 16 bits i) := by
  have prefixes (n : Nat) : ∀ i < n, amGet ((List.range n).foldl
      (fun m i => amInsert m (t * 16 + i) (BitVec.ofNat 16 (lane 16 bits i))) m) (t * 16 + i) 0 = BitVec.ofNat 16 (lane 16 bits i) := by
    induction n with
    | zero => intro i hi; omega
    | succ n ih =>
      intro i hi
      rw [List.range_succ, List.foldl_append, List.foldl_cons, List.foldl_nil, amGet_amInsert]
      split
      · next e => rw [show i = n by omega]
      · exact ih i (by omega)
  exact prefixes 16 i hi

/-- A lane below the cut of a number. -/
theorem lane_mod {w x i n : Nat} (h : w * (i + 1) ≤ n) : lane w (x % 2 ^ n) i = lane w x i := by
  apply Nat.eq_of_testBit_eq
  intro j
  simp only [lane, Nat.testBit_mod_two_pow, Nat.testBit_shiftRight]
  by_cases hj : j < w
  · have : w * i + j < n := by
      rw [Nat.mul_add] at h
      omega
    simp [this]
  · simp [hj]

/-- A part of a core that retiring leaves as it is: all but its contexts and the directions that its slots hold. -/
theorem core_retiredAt {α : Type} (part : Core → α) (h : ∀ c slots hold, part { c with slots := slots, portHold := hold } = part c)
    (s u : State) (pc : Word) : part (getCore (retiredAt s u pc) s.cur.core) = part (getCore u s.cur.core) := by
  simp only [retiredAt, retire, modThread_eq, getCore_setThread_same]
  refine (h _ _ (getCore (releasePorts u s.cur (me s)) s.cur.core).portHold).trans ?_
  obtain e | ⟨hold, e⟩ := releasePorts_cases u s.cur (me s) <;> rw [e]
  rw [getCore_setCore_same]
  exact h _ (getCore u s.cur.core).slots hold

theorem retired_retiredAt {s u : State} {pc : Word} (h : (getThread u s.cur).instret = (me s).instret) :
    Retired s (retiredAt s u pc) := by
  rw [Retired, getThread_retiredAt]
  exact congrArg (· + 1) h

theorem exec_cbld_core (hp : PortsReady s [] [a] [] []) (ht : TagsAgree s a) (tag : (valueV s a).tag = 0x0B)
    (h : (me s).cbsel.getLsbD 0 = false) :
    ∃ u, exec (.cbld t a) s = .next u ∧ Retired s u ∧ ∀ i, i < 16 →
      amGet (getCore u s.cur.core).cbtNext (t.toNat * 16 + i) 0 = BitVec.ofNat 16 (lane 16 (valueV s a).bits.toNat i) := by
  obtain ⟨cur, own, -⟩ := (switchesOnly_afterV s a).array
  refine ⟨retired 4 s (tableWritten (afterV s a) t.toNat ((valueV s a).bits.toNat % 2 ^ 256)), ?_, retired_retiredAt ?_, fun i hi => ?_⟩
  · rw [exec_cbld_eq]
    exact run4_ok (withPorts_ok hp (cbldWork_core hp ht tag h))
  · have same : getThread (afterV s a) s.cur = me s := cur ▸ own
    rw [getThread_tableWritten, same]
  · have table := cbtNext_tableWritten (afterV s a) t.toNat ((valueV s a).bits.toNat % 2 ^ 256)
    rw [cur] at table
    rw [retired, core_retiredAt (·.cbtNext) (fun _ _ _ => rfl), table, amGet_withTable _ _ _ hi, lane_mod (by omega)]

theorem exec_cbld_array (hp : PortsReady s [] [a] [] []) (ht : TagsAgree s a) (tag : (valueV s a).tag = 0x0B)
    (h : (me s).cbsel.getLsbD 0 = true) (hl : holdsLicence s (threadRegion s s.cur) s.cur.core = true)
    (room : issueRoom s (pairKey s.cur.core) = true) :
    exec (.cbld t a) s = .next (retired 4 s (enterStream (afterV s a) (pairKey s.cur.core) s.cur.core s.cur.slot
      (.cbld t.toNat ((valueV s a).bits.toNat % 2 ^ 256)))) := by
  rw [exec_cbld_eq]
  exact run4_ok (withPorts_ok hp (cbldWork_array hp ht tag h hl room))

/-! ### MWAIT (R264) -/

/-- The number of the first command that MWAIT does not wait for: that of its start, or where it starts now the next. -/
def mwaitBound (w : Wait) (entered : Nat) : Nat :=
  match w with
  | .mwait n => n
  | _ => entered

theorem mwaitBound_started (n entered : Nat) : mwaitBound (.mwait n) entered = n := rfl

theorem mwaitBound_new {w : Wait} (h : ∀ n, w ≠ .mwait n) (entered : Nat) : mwaitBound w entered = entered := by
  cases w with
  | mwait n => exact absurd rfl (h n)
  | _ => rfl

/-- The state in which the matrix status of the executing core is read and cleared. -/
def statusCleared (s : State) : State := modCore s s.cur.core fun c => { c with matStatus := 0 }

/-- The work of MWAIT once its port is ready. -/
def mwaitWork (d : Reg) : M Unit := do
  requireArray
  let s ← getS
  let x ← self
  let upto := mwaitBound x.wait (getPair s (pairKey s.cur.core)).entered
  if (getPair s (pairKey s.cur.core)).stream.any fun c => decide (c.num < upto) then waitM (.mwait upto)
  else do
    modS statusCleared
    writeG d (getCore s s.cur.core).matStatus

theorem exec_mwait_eq (s : State) : exec (.mwait d) s = run8 (withPorts [] [] [d] [] (mwaitWork d)) s := rfl

/-- Where no command before it is left, MWAIT gives the status and clears it. -/
theorem exec_mwait_done (hp : PortsReady s [] [] [d] []) (ha : hasArray (threadRegion s s.cur) = true)
    (gone : ∀ c ∈ (getPair s (pairKey s.cur.core)).stream,
      mwaitBound (me s).wait (getPair s (pairKey s.cur.core)).entered ≤ c.num) :
    exec (.mwait d) s = .next (retired 8 s (giveG (statusCleared s) d (getCore s s.cur.core).matStatus)) := by
  have none_left : ¬ (getPair s (pairKey s.cur.core)).stream.any
      (fun c => decide (c.num < mwaitBound (getThread s s.cur).wait (getPair s (pairKey s.cur.core)).entered)) = true := by
    rw [List.any_eq_true]
    rintro ⟨c, hc, before⟩
    exact absurd (of_decide_eq_true before) (Nat.not_lt.2 (gone c hc))
  have room : RoomReady (statusCleared s) [d] [] := hp.room
  have work : mwaitWork d s = .ok ((), giveG (statusCleared s) d (getCore s s.cur.core).matStatus) := by
    unfold mwaitWork
    rw [m_bind_ok (requireArray_ok ha), m_bind_ok (getS_run s), m_bind_ok (self_run s), if_neg none_left, m_bind_ok (modS_run _ s)]
    exact room.giveG _
  rw [exec_mwait_eq]
  exact run8_ok (withPorts_ok hp work)

end

theorem mwaitBound_le {s : State} (h1 : ∀ c ∈ (getPair s (pairKey s.cur.core)).stream, ∀ n, (me s).wait = .mwait n → n ≤ c.num)
    (h2 : (∀ n, (me s).wait ≠ .mwait n) → ∀ c ∈ (getPair s (pairKey s.cur.core)).stream,
      (getPair s (pairKey s.cur.core)).entered ≤ c.num) :
    ∀ c ∈ (getPair s (pairKey s.cur.core)).stream, mwaitBound (me s).wait (getPair s (pairKey s.cur.core)).entered ≤ c.num := by
  intro c hc
  by_cases started : ∃ n, (me s).wait = .mwait n
  · obtain ⟨n, hn⟩ := started
    rw [hn]
    exact h1 c hc n hn
  · have new : ∀ n, (me s).wait ≠ .mwait n := fun n hn => started ⟨n, hn⟩
    rw [mwaitBound_new new]
    exact h2 new c hc

theorem getThread_statusCleared (s : State) (u : ThreadRef) : getThread (statusCleared s) u = getThread s u :=
  getThread_setCore s s.cur.core { getCore s s.cur.core with matStatus := 0 } rfl u

/-- The status of a core is no part of a general destination. -/
theorem matStatus_giveG (s : State) (d : Reg) (v : Word) : (getCore (giveG s d v) s.cur.core).matStatus = (getCore s s.cur.core).matStatus := by
  obtain ⟨k, x, h⟩ | h := giveG_cases s d v
  · rw [h, getCore_setSwitch]
  · rw [h, getCore_setThread_same]

theorem gValue_gWrite_same {x : Thread} {r : Reg} {v : Word} (h : r ≠ 0) : gValue (gWrite x r v) r = v := by
  rw [gWrite, if_neg h, gValue, if_neg h]
  exact amGet_amPut_same 0 x.g r.toNat v

/-- What MWAIT leaves: no status, one more instruction, and the status in d. -/
theorem mwait_result {s : State} {d : Reg} :
    let t := retired 8 s (giveG (statusCleared s) d (getCore s s.cur.core).matStatus)
    (getCore t s.cur.core).matStatus = 0 ∧ Retired s t ∧
      (isGPort d = false → d ≠ 0 → gValue (getThread t s.cur) d = (getCore s s.cur.core).matStatus) := by
  have own : me (statusCleared s) = me s := getThread_statusCleared s s.cur
  refine ⟨?_, retired_retiredAt ?_, fun port zero => ?_⟩
  · rw [retired, core_retiredAt (·.matStatus) (fun _ _ _ => rfl)]
    refine (matStatus_giveG (statusCleared s) d _).trans ?_
    simp [statusCleared]
  · have kept := giveG_context (statusCleared s) d (getCore s s.cur.core).matStatus (0x041, (·.instret)) (by simp [contextRegs])
    exact kept.trans (congrArg (·.instret) own)
  · rw [retired, getThread_retiredAt, giveG, if_neg (by simp [port])]
    refine (congrArg (gValue · d) (getThread_setThread_same (statusCleared s) s.cur _)).trans ?_
    exact gValue_gWrite_same zero

/-- Settles O41: each form by what its thread waits for, the licence and the room in the stream. -/
theorem streamReads : Obligations.StreamReads := by
  intro s d a
  refine ⟨fun acc row half tag sat sc asl rm hp => ⟨fun v h => ?mrdDone, fun h hl => exec_mrd_licence hp h hl, fun h hl room => ?mrdSends⟩,
    fun t hp => ⟨exec_cbrd_core hp, fun array => ⟨fun v => exec_cbrd_done hp array, exec_cbrd_licence hp array, fun h hl room => ?cbrd⟩⟩,
    fun t hp ht tag => ⟨exec_cbld_core hp ht tag, exec_cbld_array hp ht tag⟩, fun hp ha h1 h2 => ?mwait⟩
  case mrdDone =>
    rw [exec_mrd_done hp h]
    cases v <;> rfl
  case mrdSends =>
    obtain ⟨wait, pc, stream⟩ := sent_sent s (namedDirs [a] [d]) (.mrd acc.toNat row.toNat half.toNat tag.toNat (sat == 1) (sc == 1)
      asl.toNat (if rm.toNat = 7 then fpctlRm (me s) else rm.toNat) (scaleValue s a))
    exact ⟨_, exec_mrd_sends hp h hl room, wait, pc, stream⟩
  case cbrd =>
    obtain ⟨wait, pc, stream⟩ := sent_sent s (namedDirs [] [d]) (.cbrd t.toNat)
    exact ⟨_, exec_cbrd_sends hp array h hl room, wait, pc, stream⟩
  case mwait => exact ⟨_, exec_mwait_done hp ha (mwaitBound_le h1 h2), mwait_result⟩

end Sys2Proof.StreamForms
end

section
/-! Vector stores (R44, R158 to R160): their checks, in the order of the form, and the pieces that they store from MPROG on. -/
namespace Sys2Proof.VectorStores
open Sys2Proof.Machine Sys2Proof.Safety Sys2Proof.Frames

section
variable {s t : State}

/-! ### Checks -/

theorem requireAligned_trap {n : Nat} {ea : Word} (h : ea.toNat % n ≠ 0) :
    requireAligned n ea s = .error (.trap causeAlignment ea id) := by
  rw [requireAligned, if_neg h]
  rfl

theorem requireStoreTag_ok {d : Reg} {v : VReg} {tag : Tag} (h : tag = 0 ∨ v.tag = tag) : requireStoreTag d v tag s = .ok ((), s) := by
  unfold requireStoreTag requireTag
  split
  · rfl
  · rw [if_pos (h.resolve_left ‹_›)]
    rfl

theorem requireIndexTag_ok {b : Reg} {v : VReg} {tag : Tag} (hi : isIntClass (tagClass v.tag) = true)
    (hl : tagLanes tag ≤ tagLanes v.tag) : requireIndexTag b v tag s = .ok ((), s) := by
  rw [requireIndexTag, if_pos (by simp [hi, hl])]
  rfl

theorem requireElemsAligned_ok {w : Nat} {l : List Word} (h : ∀ ea ∈ l, ea.toNat % w = 0) :
    requireElemsAligned w l s = .ok ((), s) := by
  induction l with
  | nil => rfl
  | cons ea rest ih =>
    obtain ⟨first, others⟩ := List.forall_mem_cons.1 h
    exact (m_bind_ok (requireAligned_ok first)).trans (ih others)

theorem requireElemsLocal_ok {w : Nat} {l : List Word} (h : ∀ ea ∈ l, RangeOk s ea w) : requireElemsLocal w l s = .ok ((), s) := by
  induction l with
  | nil => rfl
  | cons ea rest ih =>
    obtain ⟨first, others⟩ := List.forall_mem_cons.1 h
    exact (m_bind_ok (requireLocalRange_ok first)).trans (ih others)

/-- The first misaligned address of a list raises the trap. -/
theorem requireElemsAligned_trap {w : Nat} {before after : List Word} {ea : Word} (h : ∀ x ∈ before, x.toNat % w = 0)
    (bad : ea.toNat % w ≠ 0) : requireElemsAligned w (before ++ ea :: after) s = .error (.trap causeAlignment ea id) := by
  induction before with
  | nil => exact m_bind_error (requireAligned_trap bad)
  | cons x rest ih =>
    obtain ⟨first, others⟩ := List.forall_mem_cons.1 h
    exact (m_bind_ok (requireAligned_ok first)).trans (ih others)

end

/-! ### VST: the pieces from MPROG on -/

/-- Where a piece of the memory image is taken up at a progress p, and the span of its enabled bytes from there. -/
def pieceFrom (p : Nat) (q : Nat × Nat) : Nat := if q.1 < p then p else q.1
def pieceSpan (en : Nat → Bool) (p : Nat) (q : Nat × Nat) : Nat × Nat :=
  runsSpan (enabledRuns (fun i => en (pieceFrom p q + i)) (q.1 + q.2 - pieceFrom p q))

/-- What a piece stores: the address, the bytes and the bytes left alone. -/
def pieceStore (ea : Word) (img : List Byte) (en : Nat → Bool) (p : Nat) (q : Nat × Nat) : Word × List Byte × Nat :=
  (ea + BitVec.ofNat 64 (pieceFrom p q + (pieceSpan en p q).1), (img.drop (pieceFrom p q + (pieceSpan en p q).1)).take (pieceSpan en p q).2,
    packLanes 1 ((List.range (pieceSpan en p q).2).map fun i => bit (!en (pieceFrom p q + (pieceSpan en p q).1 + i))))

/-- The stores that are left at a progress p, and the steps of VST that are left: a step whose span is empty stores nothing. -/
def pieceStores (ea : Word) (img : List Byte) (en : Nat → Bool) (p : Nat) (q : Nat × Nat) : Option (Word × List Byte × Nat) :=
  if p < q.1 + q.2 ∧ (pieceSpan en p q).2 ≠ 0 then some (pieceStore ea img en p q) else none
def pieceSteps (ea : Word) (img : List Byte) (en : Nat → Bool) (p : Nat) (q : Nat × Nat) : Option (Nat × M Unit) :=
  if p < q.1 + q.2 then some (pieceFrom p q, storeImagePiece ea img en (pieceFrom p q) (q.1 + q.2)) else none

theorem vstStores_eq (ea : Word) (tag : Tag) (v : VReg) (mask p : Nat) : vstStores ea tag v mask p =
    (imagePieces ea (vecBytes tag)).filterMap (pieceStores ea (toImage tag v) (byteEnabled tag mask) p) := rfl

section
variable {s t : State} {ea : Word} {img : List Byte} {en : Nat → Bool} {p : Nat} {q : Nat × Nat}

theorem storeImagePiece_none (h : (pieceSpan en p q).2 = 0) :
    storeImagePiece ea img en (pieceFrom p q) (q.1 + q.2) s = .ok ((), s) := by
  unfold pieceSpan at h
  unfold storeImagePiece
  rw [if_pos h]
  rfl

theorem storeImagePiece_ok (h : (pieceSpan en p q).2 ≠ 0)
    (hs : StoreReady s (pieceStore ea img en p q).1 (pieceStore ea img en p q).2.1 (pieceStore ea img en p q).2.2 t) :
    storeImagePiece ea img en (pieceFrom p q) (q.1 + q.2) s = .ok ((), t) := by
  unfold pieceSpan at h
  unfold storeImagePiece
  rw [if_neg h]
  exact storePiece_ok hs

theorem stepsOk_pieces {qs : List (Nat × Nat)} (h : StoresAll s (qs.filterMap (pieceStores ea img en p)) t) :
    StepsOk ((qs.filterMap (pieceSteps ea img en p)).map (·.2)) s t := by
  induction qs generalizing s with
  | nil => exact h
  | cons q rest ih =>
    rw [List.filterMap_cons] at h ⊢
    by_cases left : p < q.1 + q.2
    · rw [pieceSteps, if_pos left]
      by_cases empty : (pieceSpan en p q).2 = 0
      · rw [pieceStores, if_neg (by simp [empty])] at h
        exact ⟨s, storeImagePiece_none empty, ih h⟩
      · rw [pieceStores, if_pos ⟨left, empty⟩] at h
        obtain ⟨u, hu, others⟩ := h
        exact ⟨u, storeImagePiece_ok empty hu, ih others⟩
    · rw [pieceStores, if_neg (by simp [left])] at h
      rw [pieceSteps, if_neg left]
      exact ih h

end

section
variable {d a b : Reg} {k : MReg} {tag : Tag} {imm : BitVec 8} {s : State}

/-- The work of VST once its sources are read. -/
def vstWork (d : Reg) (tag : Tag) (k : MReg) (ea : Word) (v : VReg) : M Unit := do
  requireAligned (vecAlign tag) ea
  requireStoreTag d v tag
  let mask ← readK k
  let span := runsSpan (enabledRuns (byteEnabled tag mask) (vecBytes tag))
  if span.2 = 0 then pure () else requireLocalRange (ea + BitVec.ofNat 64 span.1) span.2 ea
  let p ← progress
  restartable ((imagePieces ea (vecBytes tag)).filterMap (pieceSteps ea (toImage tag v) (byteEnabled tag mask) p))

theorem exec_vst_eq (s : State) : exec (.vst d a tag k imm) s =
    run4 (withPorts [a] [d] [] [] (readG a >>= fun x => readV d >>= fun v => vstWork d tag k (vectorEa x imm) v)) s := rfl

theorem vstWork_ok {t u : State} {ea : Word} {v : VReg} (aligned : ea.toNat % vecAlign tag = 0) (ht : tag = 0 ∨ v.tag = tag)
    (range : let span := runsSpan (enabledRuns (byteEnabled tag (kValue (me u) k).toNat) (vecBytes tag))
      span.2 ≠ 0 → RangeOk u (ea + BitVec.ofNat 64 span.1) span.2)
    (stores : StoresAll u (vstStores ea tag v (kValue (me u) k).toNat (prog u)) t) :
    vstWork d tag k ea v u = .ok ((), progDone t) := by
  have steps := restartable_ok (stepsOk_pieces stores)
  unfold vstWork
  rw [m_bind_ok (requireAligned_ok aligned), m_bind_ok (requireStoreTag_ok ht), m_bind_ok (show readK k u = .ok ((kValue (me u) k).toNat, u) from rfl)]
  by_cases empty : (runsSpan (enabledRuns (byteEnabled tag (kValue (me u) k).toNat) (vecBytes tag))).2 = 0
  · rw [if_pos empty]
    exact (m_bind_ok (progress_run u)).trans steps
  · rw [if_neg empty]
    refine (m_bind_ok (requireLocalRange_ok (range empty))).trans ?_
    exact (m_bind_ok (progress_run u)).trans steps

theorem exec_vst_trap (hp : PortsReady s [a] [d] [] []) (ht : TagsAgree (afterG s a) d)
    (h : (vectorEa (valueG s a) imm).toNat % vecAlign tag ≠ 0) :
    exec (.vst d a tag k imm) s =
      .next (takeTrap (holdDirs (namedDirs [a] [d]) s) s.cur causeAlignment (vectorEa (valueG s a) imm)) := by
  obtain ⟨readA, rest⟩ := hp.sources.takeG
  have trap : vstWork d tag k (vectorEa (valueG s a) imm) (valueV (afterG s a) d) (afterV (afterG s a) d) = _ :=
    m_bind_error (requireAligned_trap h)
  rw [exec_vst_eq]
  exact run4_trap (withPorts_trap hp ((m_bind_ok readA).trans ((m_bind_ok (rest.takeV ht).1).trans trap)))

theorem exec_vst_ok {t : State} (hp : PortsReady s [a] [d] [] []) (ht : TagsAgree (afterG s a) d)
    (work : vstWork d tag k (vectorEa (valueG s a) imm) (valueV (afterG s a) d) (afterV (afterG s a) d) = .ok ((), t)) :
    exec (.vst d a tag k imm) s = .next (retired 4 s t) := by
  obtain ⟨readA, rest⟩ := hp.sources.takeG
  rw [exec_vst_eq]
  exact run4_ok (withPorts_ok hp ((m_bind_ok readA).trans ((m_bind_ok (rest.takeV ht).1).trans work)))

end

/-! ### Strided and indexed stores -/

section
variable {d a b : Reg} {k : MReg} {tag : Tag} {s u t : State} {v : VReg} {mask : Nat} {addr : Nat → Word}

/-- The stores of a scatter that are left: the address and the bytes of each element. -/
def scatterStores (tag : Tag) (v : VReg) (mask p : Nat) (addr : Nat → Word) : List (Word × List Byte × Nat) :=
  ((enabledElems tag mask).filter fun j => decide (p ≤ j * elemBytes tag)).map fun j =>
    (addr j, toBytes (elemBytes tag) (lane (8 * elemBytes tag) v.bits.toNat j), 0)

theorem scatterStore_ok (checks : ∀ j ∈ enabledElems tag mask, (addr j).toNat % elemBytes tag = 0 ∧ RangeOk u (addr j) (elemBytes tag))
    (ht : tag = 0 ∨ v.tag = tag) (stores : StoresAll u (scatterStores tag v mask (prog u) addr) t) :
    scatterStore d v tag mask addr u = .ok ((), progDone t) := by
  have aligned : ∀ ea ∈ (enabledElems tag mask).map addr, ea.toNat % elemBytes tag = 0 := by
    rw [List.forall_mem_map]
    exact fun j hj => (checks j hj).1
  have ranges : ∀ ea ∈ (enabledElems tag mask).map addr, RangeOk u ea (elemBytes tag) := by
    rw [List.forall_mem_map]
    exact fun j hj => (checks j hj).2
  unfold scatterStore
  rw [m_bind_ok (requireElemsAligned_ok aligned), m_bind_ok (requireElemsLocal_ok ranges), m_bind_ok (requireStoreTag_ok ht),
    m_bind_ok (progress_run u)]
  refine restartable_ok ?_
  have steps := storesAll_steps stores fun q => q.1
  rw [scatterStores, List.map_map] at steps
  rw [List.map_map]
  exact steps

theorem scatterStore_trap {j : Nat} (hj : j ∈ enabledElems tag mask) (bad : (addr j).toNat % elemBytes tag ≠ 0)
    (first : ∀ x ∈ enabledElems tag mask, x < j → (addr x).toNat % elemBytes tag = 0) :
    scatterStore d v tag mask addr u = .error (.trap causeAlignment (addr j) id) := by
  have rising : (enabledElems tag mask).Pairwise (· < ·) := List.pairwise_lt_range.filter _
  obtain ⟨before, after, split⟩ := List.append_of_mem hj
  rw [split] at rising first
  have good : ∀ ea ∈ before.map addr, ea.toNat % elemBytes tag = 0 := by
    rw [List.forall_mem_map]
    exact fun x hx => first x (List.mem_append_left _ hx) (List.pairwise_append.1 rising |>.2.2 x hx j List.mem_cons_self)
  unfold scatterStore
  refine m_bind_error ?_
  rw [split, List.map_append, List.map_cons]
  exact requireElemsAligned_trap good bad

end

/-! ### The forms -/

section
variable {d a b : Reg} {k : MReg} {tag : Tag} {s : State}

/-- What the statement says of a strided or indexed store: u is the state once the sources are read. -/
theorem scatters_of_run {i : Instr} {gs vs : List Reg} {u : State} {v : VReg} {addr : Nat → Word} (hm : me u = me s)
    (done : ∀ {t}, scatterStore d v tag (kValue (me u) k).toNat addr u = .ok ((), t) → exec i s = .next (retired 4 s t))
    (trapped : ∀ {e}, scatterStore d v tag (kValue (me u) k).toNat addr u = .error (.trap causeAlignment e id) →
      exec i s = .next (takeTrap (holdDirs (namedDirs gs vs) s) s.cur causeAlignment e)) :
    ((∀ j ∈ enabledElems tag (kValue (me s) k).toNat, (addr j).toNat % elemBytes tag = 0 ∧ RangeOk u (addr j) (elemBytes tag)) →
        (tag = 0 ∨ v.tag = tag) → ∀ t, StoresAll u (scatterStores tag v (kValue (me s) k).toNat (prog s) addr) t →
          exec i s = .next (retired 4 s (progDone t))) ∧
      ∀ j ∈ enabledElems tag (kValue (me s) k).toNat, (addr j).toNat % elemBytes tag ≠ 0 →
        (∀ x ∈ enabledElems tag (kValue (me s) k).toNat, x < j → (addr x).toNat % elemBytes tag = 0) →
        exec i s = .next (takeTrap (holdDirs (namedDirs gs vs) s) s.cur causeAlignment (addr j)) := by
  have hk : kValue (me s) k = kValue (me u) k := by rw [hm]
  have hp : prog s = prog u := by rw [prog, prog, hm]
  rw [hk, hp]
  exact ⟨fun checks ht t stores => done (scatterStore_ok checks ht stores), fun j hj bad first => trapped (scatterStore_trap hj bad first)⟩

theorem exec_vsts_run (hp : PortsReady s [a, b] [d] [] []) (ht : TagsAgree (afterG (afterG s a) b) d) :
    let u := afterG (afterG s a) b
    let work := scatterStore d (valueV u d) tag (kValue (me (afterV u d)) k).toNat (strideAddr (valueG s a) (valueG (afterG s a) b)) (afterV u d)
    (∀ {t}, work = .ok ((), t) → exec (.vsts d a b k tag) s = .next (retired 4 s t)) ∧
      ∀ {e}, work = .error (.trap causeAlignment e id) →
        exec (.vsts d a b k tag) s = .next (takeTrap (holdDirs (namedDirs [a, b] [d]) s) s.cur causeAlignment e) := by
  obtain ⟨readA, restA⟩ := hp.sources.takeG
  obtain ⟨readB, restB⟩ := restA.takeG
  obtain ⟨readD, -⟩ := restB.takeV ht
  exact ⟨fun work => run4_ok (withPorts_ok hp ((m_bind_ok readA).trans ((m_bind_ok readB).trans ((m_bind_ok readD).trans work)))),
    fun work => run4_trap (withPorts_trap hp ((m_bind_ok readA).trans ((m_bind_ok readB).trans ((m_bind_ok readD).trans work))))⟩

theorem exec_vstx_run (hp : PortsReady s [a] [b, d] [] []) (hb : TagsAgree (afterG s a) b) (ht : TagsAgree (afterV (afterG s a) b) d)
    (index : isIntClass (tagClass (valueV (afterG s a) b).tag) = true) (lanes : tagLanes tag ≤ tagLanes (valueV (afterG s a) b).tag) :
    let u := afterV (afterG s a) b
    let work := scatterStore d (valueV u d) tag (kValue (me (afterV u d)) k).toNat
      (indexAddr (valueG s a) (elemBytes tag) (valueV (afterG s a) b)) (afterV u d)
    (∀ {t}, work = .ok ((), t) → exec (.vstx d a b k tag) s = .next (retired 4 s t)) ∧
      ∀ {e}, work = .error (.trap causeAlignment e id) →
        exec (.vstx d a b k tag) s = .next (takeTrap (holdDirs (namedDirs [a] [b, d]) s) s.cur causeAlignment e) := by
  obtain ⟨readA, restA⟩ := hp.sources.takeG
  obtain ⟨readB, restB⟩ := restA.takeV hb
  obtain ⟨readD, -⟩ := restB.takeV ht
  have checked := requireIndexTag_ok (s := afterV (afterV (afterG s a) b) d) (b := b) index lanes
  exact ⟨fun work => run4_ok (withPorts_ok hp ((m_bind_ok readA).trans ((m_bind_ok readB).trans ((m_bind_ok readD).trans
      ((m_bind_ok checked).trans work))))),
    fun work => run4_trap (withPorts_trap hp ((m_bind_ok readA).trans ((m_bind_ok readB).trans ((m_bind_ok readD).trans
      ((m_bind_ok checked).trans work)))))⟩

end

/-- Settles O31: VST piece by piece, the strided and indexed stores element by element, each after its checks. -/
theorem vectorStores : Obligations.VectorStores := by
  refine ⟨fun d a tag k imm s hp ht => ⟨exec_vst_trap hp ht, fun aligned tags range t stores => ?vst⟩, fun d a b k tag s => ⟨fun hp ht => ?vsts, fun hp hb ht index lanes => ?vstx⟩⟩
  case vst =>
    have hm : me (afterV (afterG s a) d) = me s := by simp
    refine exec_vst_ok hp ht (vstWork_ok aligned tags ?_ ?_)
    · rwa [hm]
    · rwa [prog, hm]
  case vsts =>
    obtain ⟨done, trapped⟩ := exec_vsts_run (tag := tag) (k := k) hp ht
    exact scatters_of_run (by simp) done trapped
  case vstx =>
    obtain ⟨done, trapped⟩ := exec_vstx_run (tag := tag) (k := k) hp hb ht index lanes
    exact scatters_of_run (by simp) done trapped

end Sys2Proof.VectorStores
end

section
/-! Lanes of a packed register, and what a vector form writes (R64, R109, R123). -/
namespace Sys2Proof.LaneLaws
open Sys2Proof.Machine Sys2Proof.Safety

/-! ### Lanes -/

/-- Lane 0 is the low bits, and the other lanes are those of the rest. -/
theorem lane_zero (w x : Nat) : lane w x 0 = x % 2 ^ w := by
  rw [lane, Nat.mul_zero, Nat.shiftRight_zero]

theorem lane_succ (w x i : Nat) : lane w x (i + 1) = lane w (x / 2 ^ w) i := by
  rw [lane, lane, Nat.mul_succ, Nat.add_comm, Nat.shiftRight_add, Nat.shiftRight_eq_div_pow x w]

theorem lane_packLanes (w : Nat) (l : List Nat) (i : Nat) : lane w (packLanes w l) i = l.getD i 0 % 2 ^ w := by
  induction l generalizing i with
  | nil => simp [packLanes, lane]
  | cons x rest ih =>
    have pos : 0 < 2 ^ w := Nat.two_pow_pos w
    cases i with
    | zero => rw [lane_zero, packLanes, Nat.add_mul_mod_self_left, Nat.mod_mod]; rfl
    | succ i =>
      rw [lane_succ, packLanes, Nat.add_mul_div_left _ _ pos, Nat.div_eq_of_lt (Nat.mod_lt _ pos), Nat.zero_add, ih]
      rfl

/-- A lane below a register's width is not cut by it. -/
theorem lane_ofNat {n w x i : Nat} (h : w * (i + 1) ≤ n) : lane w (BitVec.ofNat n x).toNat i = lane w x i := by
  rw [BitVec.toNat_ofNat, StreamForms.lane_mod h]

theorem lane_lt (w x i : Nat) : lane w x i < 2 ^ w := Nat.mod_lt _ (Nat.two_pow_pos w)

/-- The lanes of a list, in a register that is as long as the list or longer. -/
theorem lane_packed {w n i : Nat} {f : Nat → Nat} (hi : i < n) (fits : w * n ≤ 512) :
    lane w (BitVec.ofNat 512 (packLanes w ((List.range n).map f))).toNat i = f i % 2 ^ w := by
  have room : w * (i + 1) ≤ 512 := le_trans (Nat.mul_le_mul_left w hi) fits
  rw [lane_ofNat room, lane_packLanes]
  simp [hi]

theorem tagLane_pos (t : Tag) : 0 < tagLane t := by revert t; decide
theorem tagLanes_pos (t : Tag) : 0 < tagLanes t := by revert t; decide
theorem tagLane_mul_tagLanes (t : Tag) : tagLane t * tagLanes t = 512 := by revert t; decide

theorem tagLane_int {t : Tag} {n : Nat} {sg : Bool} (h : tagClass t = .int n sg) : tagLane t = n := by rw [tagLane, h]

/-- The mask of bits: bit i of the register is entry i of the list. -/
theorem getLsbD_packBits {l : List Bool} {n i : Nat} (hi : i < n) :
    (BitVec.ofNat n (packLanes 1 (l.map bit))).getLsbD i = l.getD i false := by
  have one : (packLanes 1 (l.map bit)).testBit i = decide (lane 1 (packLanes 1 (l.map bit)) i = 1) := by
    rw [lane, Nat.one_mul, Nat.testBit, Nat.one_and_eq_mod_two, pow_one]
    rcases Nat.mod_two_eq_zero_or_one (packLanes 1 (l.map bit) >>> i) with h | h <;> rw [h] <;> rfl
  rw [BitVec.getLsbD_ofNat, decide_eq_true hi, Bool.true_and, one, lane_packLanes]
  rcases lt_or_ge i l.length with h | h
  · simp only [List.getD_eq_getElem?_getD, List.getElem?_map, List.getElem?_eq_getElem h, Option.map_some, Option.getD_some]
    cases l[i] <;> rfl
  · simp [List.getElem?_eq_none h]

/-! ### What a form writes -/

theorem putVec_run {s : State} {d : Reg} (t : Tag) (r : Nat × FpFlags) (h : RoomReady s [] [d]) :
    putVec d t r s = .ok ((), flagged (giveV s d { bits := BitVec.ofNat 512 r.1, tag := t }) r.2) :=
  m_bind_ok (h.giveV _)

theorem requireClass_ok {s : State} {r : Reg} {v : VReg} {ok : TagClass → Bool} (h : ok (tagClass v.tag) = true) :
    requireClass r v ok s = .ok ((), s) := by
  rw [requireClass, if_pos h]
  rfl

theorem requireTag_ok {s : State} {r : Reg} {v : VReg} {t : Tag} (h : v.tag = t) : requireTag r v t s = .ok ((), s) := by
  rw [requireTag, if_pos h]
  rfl

/-! ### Events -/

theorem flagsOr_assoc (a b c : FpFlags) : flagsOr (flagsOr a b) c = flagsOr a (flagsOr b c) := by
  simp [flagsOr, Bool.or_assoc]

theorem noFlags_or (a : FpFlags) : flagsOr noFlags a = a := by simp [flagsOr, noFlags]

theorem or_noFlags (a : FpFlags) : flagsOr a noFlags = a := by simp [flagsOr, noFlags]

theorem flagsAll_noFlags {l : List FpFlags} (h : ∀ x ∈ l, x = noFlags) : flagsAll l = noFlags := by
  induction l with
  | nil => rfl
  | cons x rest ih =>
    obtain ⟨first, others⟩ := List.forall_mem_cons.1 h
    rw [flagsAll, first, ih others, noFlags_or]

end Sys2Proof.LaneLaws
end

section
/-! The exact numbers that values are, and their order (R47, R117). -/
namespace Sys2Proof.FloatValues
open Sys2Proof.Machine Sys2Proof.Safety

theorem signedMan_cast (n : Bool) (m : Nat) : ((signedMan n m : ℤ) : ℚ) = (if n then -1 else 1) * (m : ℚ) := by
  cases n <;> simp [signedMan]

/-- A finite value in units of a smaller power of two. -/
theorem valQ_units {n : Bool} {m : Nat} {e u : ℤ} (h : u ≤ e) :
    valQ (.fin n m e) = ((signedMan n (m <<< (e - u).toNat) : ℤ) : ℚ) * 2 ^ u := by
  have split : (2 : ℚ) ^ e = 2 ^ (e - u).toNat * 2 ^ u := by
    rw [← zpow_natCast, Int.toNat_of_nonneg (by omega), ← zpow_add₀ (by norm_num), Int.sub_add_cancel]
  rw [signedMan_cast, Nat.shiftLeft_eq, valQ, split]
  push_cast
  ring

/-- The order of the numbers of a list of equal units. -/
theorem strictMono_units (u : ℤ) : StrictMono fun z : ℤ => ((((z : ℚ) * 2 ^ u : ℚ) : WithTop ℚ) : WithBot (WithTop ℚ)) :=
  fun a b h => WithBot.coe_lt_coe.2 (WithTop.coe_lt_coe.2 (mul_lt_mul_of_pos_right (Int.cast_lt.2 h) (by positivity)))

theorem valE_fin (n : Bool) (m : Nat) (e : ℤ) : valE (.fin n m e) = ((valQ (.fin n m e) : WithTop ℚ) : WithBot (WithTop ℚ)) := rfl

theorem fcmp_fin (n1 n2 : Bool) (m1 m2 : Nat) (e1 e2 : ℤ) :
    fcmp (.fin n1 m1 e1) (.fin n2 m2 e2) = cmp (valE (.fin n1 m1 e1)) (valE (.fin n2 m2 e2)) := by
  have below : (if e1 < e2 then e1 else e2) ≤ e1 ∧ (if e1 < e2 then e1 else e2) ≤ e2 := by split <;> omega
  rw [valE_fin, valE_fin, valQ_units below.1, valQ_units below.2]
  exact (cmp_eq_compare _ _).symm.trans ((strictMono_units _).cmp_map_eq _ _).symm

/-- The comparison of two values that are no NaN is that of their places. -/
theorem fcmp_eq_cmp {x y : FVal} (hx : isNaN x = false) (hy : isNaN y = false) : fcmp x y = cmp (valE x) (valE y) := by
  cases x with
  | nan s => cases hx
  | inf a =>
    cases y with
    | nan s => cases hy
    | inf b => cases a <;> cases b <;> simp [fcmp, valE, cmp_eq_lt_iff, cmp_eq_gt_iff, eq_comm (a := Ordering.lt), eq_comm (a := Ordering.gt)]
    | fin n m e =>
      cases a with
      | true => exact ((cmp_eq_lt_iff _ _).2 (WithBot.bot_lt_coe _)).symm
      | false => exact ((cmp_eq_gt_iff _ _).2 (WithBot.coe_lt_coe.2 (WithTop.coe_lt_top _))).symm
  | fin n m e =>
    cases y with
    | nan s => cases hy
    | inf b =>
      cases b with
      | true => exact ((cmp_eq_gt_iff _ _).2 (WithBot.bot_lt_coe _)).symm
      | false => exact ((cmp_eq_lt_iff _ _).2 (WithBot.coe_lt_coe.2 (WithTop.coe_lt_top _))).symm
    | fin n' m' e' => exact fcmp_fin ..

/-! ### The conditions of R117 -/

theorem icond_iff {c : Nat} (hc : c < 8) (x y : Int) : icond c x y = true ↔ Holds c x y := by
  interval_cases c <;> simp [icond, Holds]

/-- The eight conditions, on an order's comparison. -/
theorem fcond_iff {c : Nat} (hc : c < 8) {x y : FVal} (hx : isNaN x = false) (hy : isNaN y = false) :
    (fcond c x y).2 = noFlags ∧ ((fcond c x y).1 = true ↔ Holds c (valE x) (valE y)) := by
  have lt := cmp_eq_lt_iff (valE x) (valE y)
  have eq := cmp_eq_eq_iff (valE x) (valE y)
  have gt := cmp_eq_gt_iff (valE x) (valE y)
  have le : cmp (valE x) (valE y) ≠ .gt ↔ valE x ≤ valE y := by rw [ne_eq, gt, not_lt]
  have ge : cmp (valE x) (valE y) ≠ .lt ↔ valE y ≤ valE x := by rw [ne_eq, lt, not_lt]
  rw [← fcmp_eq_cmp hx hy] at lt eq gt le ge
  interval_cases c <;> simp [fcond, Holds, hx, hy, lt, eq, gt, le, ge]

/-- On a NaN only "unequal" and "unordered" hold, and the ordered conditions are invalid. -/
theorem fcond_nan {c : Nat} (hc : c < 8) {x y : FVal} (h : isNaN x = true ∨ isNaN y = true) :
    ((fcond c x y).1 = true ↔ c = 1 ∨ c = 6) ∧
      (fcond c x y).2 = if 2 ≤ c ∧ c ≤ 5 then flagNV else { nv := isSNaN x || isSNaN y } := by
  have nan : (isNaN x || isNaN y) = true := by simpa using h
  interval_cases c <;> simp [fcond, nan, nvIfSNaN]

end Sys2Proof.FloatValues
end

section
/-! Integers and the lanes that hold them (R46, R112). -/
namespace Sys2Proof.LaneIntegers
open Sys2Proof.Machine Sys2Proof.Safety

theorem ofInt_lt (n : Nat) (z : Int) : ofInt n z < 2 ^ n := by
  have pos : (0 : Int) < ((2 ^ n : Nat) : Int) := by exact_mod_cast Nat.two_pow_pos n
  have := Int.emod_lt_of_pos z pos
  have := Int.emod_nonneg z pos.ne'
  unfold ofInt
  omega

theorem ofInt_cast (n : Nat) (z : Int) : ((ofInt n z : Nat) : Int) = z % ((2 ^ n : Nat) : Int) :=
  Int.toNat_of_nonneg (Int.emod_nonneg _ (by exact_mod_cast (Nat.two_pow_pos n).ne'))

/-- A lane shows its integer modulo 2^n. -/
theorem ofInt_eq_iff {n : Nat} {a b : Int} : ofInt n a = ofInt n b ↔ a ≡ b [ZMOD ((2 ^ n : Nat) : Int)] := by
  rw [← Int.natCast_inj, ofInt_cast, ofInt_cast]
  rfl

theorem laneInt_modEq (n : Nat) (sg : Bool) (x : Nat) : laneInt n sg x ≡ (x : Int) [ZMOD ((2 ^ n : Nat) : Int)] := by
  have low : (((x % 2 ^ n : Nat) : Int)) ≡ (x : Int) [ZMOD ((2 ^ n : Nat) : Int)] := by
    rw [Int.natCast_mod]
    exact Int.mod_modEq _ _
  unfold laneInt toSigned
  cases sg with
  | false => exact low
  | true =>
    simp only [if_true]
    split
    · exact low
    · exact (Int.sub_modulus_modEq_iff.2 low)

theorem ofInt_laneInt {n x : Nat} (sg : Bool) (h : x < 2 ^ n) : ofInt n (laneInt n sg x) = x := by
  rw [← Int.natCast_inj, ofInt_cast, laneInt_modEq n sg x, ← Int.natCast_mod, Nat.mod_eq_of_lt h]

/-- The integers of a lane are those of its range. -/
theorem laneInt_range {n : Nat} (hn : 0 < n) (sg : Bool) (x : Nat) : intLo n sg ≤ laneInt n sg x ∧ laneInt n sg x ≤ intHi n sg := by
  have double : 2 ^ n = 2 * 2 ^ (n - 1) := by rw [← pow_succ', Nat.sub_add_cancel hn]
  have low : x % 2 ^ n < 2 ^ n := Nat.mod_lt _ (Nat.two_pow_pos n)
  unfold laneInt toSigned intLo intHi
  rw [double] at low ⊢
  cases sg with
  | false => simp only [Bool.false_eq_true, if_false]; omega
  | true => simp only [if_true]; split <;> omega

theorem laneInt_ofInt_modEq (n : Nat) (sg : Bool) (z : Int) : laneInt n sg (ofInt n z) ≡ z [ZMOD ((2 ^ n : Nat) : Int)] := by
  have low : ((ofInt n z : Nat) : Int) ≡ z [ZMOD ((2 ^ n : Nat) : Int)] := by
    rw [ofInt_cast]
    exact Int.mod_modEq _ _
  exact (laneInt_modEq n sg (ofInt n z)).trans low

/-- An integer of a lane's range is read back as it is. -/
theorem laneInt_ofInt {n : Nat} (hn : 0 < n) {sg : Bool} {z : Int} (h : intLo n sg ≤ z ∧ z ≤ intHi n sg) :
    laneInt n sg (ofInt n z) = z := by
  have near := laneInt_ofInt_modEq n sg z
  have range := laneInt_range hn sg (ofInt n z)
  have double : 2 ^ n = 2 * 2 ^ (n - 1) := by rw [← pow_succ', Nat.sub_add_cancel hn]
  have width : intHi n sg - intLo n sg < ((2 ^ n : Nat) : Int) := by
    unfold intLo intHi
    rw [double]
    cases sg <;> simp only [if_true, Bool.false_eq_true, if_false] <;> omega
  exact sub_eq_zero.1 (Int.eq_zero_of_abs_lt_dvd near.symm.dvd (by rw [abs_lt]; omega))

end Sys2Proof.LaneIntegers
end

section
/-! Reductions (R64, R123): the pairwise tree, and what its root is on integers. -/
namespace Sys2Proof.Reductions
open Sys2Proof.Machine Sys2Proof.Safety Sys2Proof.LaneLaws Sys2Proof.LaneIntegers

/-! ### The tree -/

theorem treeValue_congr {op : Nat → Nat → Nat × FpFlags} {lev : Nat} {x y : Nat → Nat} (h : ∀ i, i < 2 ^ lev → x i = y i) :
    treeValue op lev x = treeValue op lev y := by
  induction lev generalizing x y with
  | zero => exact h 0 (by simp)
  | succ lev ih => exact ih fun i hi => by rw [h (2 * i) (by omega), h (2 * i + 1) (by omega)]

/-- The list of a level's leaves is reduced to the tree's root and all its events. -/
theorem reduceTree_eq (op : Nat → Nat → Nat × FpFlags) (lev : Nat) (x : Nat → Nat) (fl : FpFlags) :
    reduceTree op lev ((List.range (2 ^ lev)).map x) fl = (treeValue op lev x, flagsOr fl (treeEvents op lev x)) := by
  induction lev generalizing x fl with
  | zero => simp [reduceTree, treeValue, treeEvents, or_noFlags]
  | succ lev ih =>
    have pairs : ((List.range (((List.range (2 ^ (lev + 1))).map x).length / 2)).map fun i =>
        op (((List.range (2 ^ (lev + 1))).map x).getD (2 * i) 0) (((List.range (2 ^ (lev + 1))).map x).getD (2 * i + 1) 0)) =
        (List.range (2 ^ lev)).map fun i => op (x (2 * i)) (x (2 * i + 1)) := by
      have half : ((List.range (2 ^ (lev + 1))).map x).length / 2 = 2 ^ lev := by simp [pow_succ]
      rw [half]
      refine List.map_congr_left fun i hi => ?_
      have low : 2 * i < 2 ^ (lev + 1) := by have := List.mem_range.1 hi; omega
      have next : 2 * i + 1 < 2 ^ (lev + 1) := by omega
      simp [low, next]
    rw [reduceTree, pairs]
    simp only [List.map_map]
    exact (ih (fun i => (op (x (2 * i)) (x (2 * i + 1))).1) _).trans (by rw [flagsOr_assoc]; rfl)

theorem treeValue_lt {op : Nat → Nat → Nat × FpFlags} {b : Nat} (hop : ∀ i j, (op i j).1 < b) {lev : Nat} {x : Nat → Nat}
    (hx : ∀ i, x i < b) : treeValue op lev x < b := by
  induction lev generalizing x with
  | zero => exact hx 0
  | succ lev ih => exact ih fun i => hop _ _

theorem treeEvents_noFlags {op : Nat → Nat → Nat × FpFlags} (hop : ∀ i j, (op i j).2 = noFlags) (lev : Nat) (x : Nat → Nat) :
    treeEvents op lev x = noFlags := by
  induction lev generalizing x with
  | zero => rfl
  | succ lev ih =>
    rw [treeEvents, ih, or_noFlags]
    exact flagsAll_noFlags fun y hy => by obtain ⟨i, -, rfl⟩ := List.mem_map.1 hy; exact hop _ _

/-! ### A fold by an associative operation -/

/-- An operation that folds the members of a set from its neutral element e. -/
structure Folds (g : Int → Int → Int) (e : Int) (S : Int → Prop) : Prop where
  comm : ∀ a b, g a b = g b a
  assoc : ∀ a b c, g (g a b) c = g a (g b c)
  base : S e
  closed : ∀ a b, S a → S b → S (g a b)
  neutral : ∀ a, S a → g a e = a

section
variable {g : Int → Int → Int} {e : Int} {S : Int → Prop}

theorem Folds.foldr_mem (h : Folds g e S) {l : List Int} (hl : ∀ a ∈ l, S a) : S (l.foldr g e) := by
  induction l with
  | nil => exact h.base
  | cons a rest ih =>
    obtain ⟨first, others⟩ := List.forall_mem_cons.1 hl
    exact h.closed _ _ first (ih others)

/-- Adjacent members may be combined first. -/
theorem Folds.foldr_pairs (h : Folds g e S) (z : Nat → Int) (n : Nat) :
    ((List.range (2 * n)).map z).foldr g e = ((List.range n).map fun i => g (z (2 * i)) (z (2 * i + 1))).foldr g e := by
  induction n generalizing z with
  | zero => rfl
  | succ n ih =>
    rw [show 2 * (n + 1) = 2 * n + 1 + 1 by ring, List.range_succ_eq_map, List.range_succ_eq_map, List.range_succ_eq_map]
    simp only [List.map_cons, List.map_map, List.foldr_cons]
    rw [h.assoc]
    exact congrArg (fun r => g (z 0) (g (z 1) r)) (ih fun i => z (i + 2))

/-- Members that are left out count as the neutral element. -/
theorem Folds.foldr_filter (h : Folds g e S) (p : Nat → Bool) {x : Nat → Int} (hx : ∀ i, S (x i)) (l : List Nat) :
    (l.map fun i => if p i then x i else e).foldr g e = ((l.filter p).map x).foldr g e := by
  induction l with
  | nil => rfl
  | cons i rest ih =>
    rw [List.map_cons, List.foldr_cons, ih, List.filter_cons]
    cases p i with
    | true => rfl
    | false =>
      have rest_mem : S (((rest.filter p).map x).foldr g e) :=
        h.foldr_mem fun a ha => by obtain ⟨i, -, rfl⟩ := List.mem_map.1 ha; exact hx i
      simp only [Bool.false_eq_true, if_false]
      rw [h.comm, h.neutral _ rest_mem]

/-- A tree whose steps combine the integers of its lanes has the fold of its leaves as its root. -/
theorem Folds.treeValue_eq (h : Folds g e S) {op : Nat → Nat → Nat × FpFlags} {n : Nat}
    (hop : ∀ a b, S a → S b → (op (ofInt n a) (ofInt n b)).1 = ofInt n (g a b)) (lev : Nat) {z : Nat → Int} (hz : ∀ i, S (z i)) :
    treeValue op lev (fun i => ofInt n (z i)) = ofInt n (((List.range (2 ^ lev)).map z).foldr g e) := by
  induction lev generalizing z with
  | zero => exact congrArg (ofInt n) (h.neutral _ (hz 0)).symm
  | succ lev ih =>
    rw [pow_succ', h.foldr_pairs, ← ih fun i => h.closed _ _ (hz _) (hz _)]
    exact treeValue_congr fun i _ => hop _ _ (hz _) (hz _)

end

/-! ### Sum, maximum and minimum -/

theorem folds_add : Folds (· + ·) 0 fun _ => True where
  comm := Int.add_comm
  assoc := Int.add_assoc
  base := trivial
  closed _ _ _ _ := trivial
  neutral a _ := Int.add_zero a

theorem folds_max {lo hi : Int} (h : lo ≤ hi) : Folds max lo fun z => lo ≤ z ∧ z ≤ hi where
  comm := max_comm
  assoc := max_assoc
  base := ⟨le_rfl, h⟩
  closed _ _ ha hb := ⟨le_max_of_le_left ha.1, max_le ha.2 hb.2⟩
  neutral _ ha := max_eq_left ha.1

theorem folds_min {lo hi : Int} (h : lo ≤ hi) : Folds min hi fun z => lo ≤ z ∧ z ≤ hi where
  comm := min_comm
  assoc := min_assoc
  base := ⟨h, le_rfl⟩
  closed _ _ ha hb := ⟨le_min ha.1 hb.1, min_le_of_left_le ha.2⟩
  neutral _ ha := min_eq_left ha.2

section
variable {t : Tag} {n : Nat} {sg : Bool} {rm : RMode}

theorem laneBin_int (ht : tagClass t = .int n sg) (op : LaneOp) (x y : Nat) :
    laneBin t rm op x y = (ofInt n (op.onInt n sg (laneInt n sg x) (laneInt n sg y)), noFlags) := by
  rw [laneBin, ht]

theorem laneBin_flt {f : FFmt} (ht : tagClass t = .flt f) (op : LaneOp) (x y : Nat) :
    laneBin t rm op x y = deliver f rm (op.onFlt rm (fdecode f x) (fdecode f y)) := by
  rw [laneBin, ht]

theorem laneBin_add (ht : tagClass t = .int n sg) (a b : Int) : (laneBin t rm opAdd (ofInt n a) (ofInt n b)).1 = ofInt n (a + b) := by
  rw [laneBin_int ht]
  exact ofInt_eq_iff.2 ((laneInt_ofInt_modEq n sg a).add (laneInt_ofInt_modEq n sg b))

theorem laneBin_max (ht : tagClass t = .int n sg) (hn : 0 < n) {a b : Int} (ha : intLo n sg ≤ a ∧ a ≤ intHi n sg)
    (hb : intLo n sg ≤ b ∧ b ≤ intHi n sg) : (laneBin t rm opMax (ofInt n a) (ofInt n b)).1 = ofInt n (max a b) := by
  rw [laneBin_int ht, laneInt_ofInt hn ha, laneInt_ofInt hn hb, max_def]
  rfl

theorem laneBin_min (ht : tagClass t = .int n sg) (hn : 0 < n) {a b : Int} (ha : intLo n sg ≤ a ∧ a ≤ intHi n sg)
    (hb : intLo n sg ≤ b ∧ b ≤ intHi n sg) : (laneBin t rm opMin (ofInt n a) (ofInt n b)).1 = ofInt n (min a b) := by
  rw [laneBin_int ht, laneInt_ofInt hn ha, laneInt_ofInt hn hb, min_def]
  rfl

end

/-! ### The leaves and the result of a reduction -/

/-- A leaf of a reduction of register bits under a mask. -/
def reduceLeaf (t : Tag) (kind : Nat) (p : Nat → Bool) (bits i : Nat) : Nat :=
  if p i then lane (tagLane t) bits i else reduceIdentity t kind

theorem two_pow_levels {t : Tag} (h : isIntOrFloat (tagClass t) = true) : 2 ^ (tagLanes t).log2 = tagLanes t := by
  revert t; decide

theorem levels_flt {t : Tag} {f : FFmt} (h : tagClass t = .flt f) :
    (tagLanes t).log2 = (if ffWidth f = 32 then 4 else 5) ∧ tagLane t = ffWidth f ∧ ffHasInf f = true := by
  cases f <;> revert t <;> decide

section
variable {t : Tag} {n : Nat} {sg : Bool} {rm : RMode} {p : Nat → Bool} {bits : Nat}

/-- The root of an integer reduction, from its fold. -/
theorem treeValue_int (ht : tagClass t = .int n sg) {g : Int → Int → Int} {e : Int} {S : Int → Prop} (folds : Folds g e S)
    {op : LaneOp} {kind : Nat} (hop : ∀ a b, S a → S b → (laneBin t rm op (ofInt n a) (ofInt n b)).1 = ofInt n (g a b))
    (hid : reduceIdentity t kind = ofInt n e) (hx : ∀ i, S (laneInt n sg (lane n bits i))) :
    treeValue (laneBin t rm op) (tagLanes t).log2 (reduceLeaf t kind p bits) =
      ofInt n ((((List.range (tagLanes t)).filter p).map fun i => laneInt n sg (lane n bits i)).foldr g e) := by
  have width : tagLane t = n := tagLane_int ht
  have leaf (i : Nat) : reduceLeaf t kind p bits i = ofInt n (if p i then laneInt n sg (lane n bits i) else e) := by
    unfold reduceLeaf
    rw [width]
    split
    · exact (ofInt_laneInt sg (lane_lt n bits i)).symm
    · exact hid
  have lanesPow : 2 ^ (tagLanes t).log2 = tagLanes t := two_pow_levels (by rw [ht]; rfl)
  rw [show reduceLeaf t kind p bits = fun i => ofInt n (if p i then laneInt n sg (lane n bits i) else e) from funext leaf,
    folds.treeValue_eq hop _ fun i => by split <;> [exact hx i; exact folds.base], lanesPow, folds.foldr_filter p hx]

theorem reduceIdentity_int (ht : tagClass t = .int n sg) :
    reduceIdentity t 0 = ofInt n 0 ∧ reduceIdentity t 1 = ofInt n (intLo n sg) ∧ reduceIdentity t 2 = ofInt n (intHi n sg) := by
  simp [reduceIdentity, ht, ofInt]

theorem int_width_pos (ht : tagClass t = .int n sg) : 0 < n := tagLane_int ht ▸ tagLane_pos t

theorem sum_root (ht : tagClass t = .int n sg) : treeValue (laneBin t rm opAdd) (tagLanes t).log2 (reduceLeaf t 0 p bits) =
    ofInt n ((((List.range (tagLanes t)).filter p).map fun i => laneInt n sg (lane n bits i)).sum) :=
  treeValue_int ht folds_add (fun a b _ _ => laneBin_add ht a b) (reduceIdentity_int ht).1 fun _ => trivial

theorem max_root (ht : tagClass t = .int n sg) : treeValue (laneBin t rm opMax) (tagLanes t).log2 (reduceLeaf t 1 p bits) =
    ofInt n ((((List.range (tagLanes t)).filter p).map fun i => laneInt n sg (lane n bits i)).foldl max (intLo n sg)) := by
  have range := laneInt_range (int_width_pos ht) sg
  have folds := folds_max ((range 0).1.trans (range 0).2)
  rw [treeValue_int ht folds (fun _ _ => laneBin_max ht (int_width_pos ht)) (reduceIdentity_int ht).2.1 fun i => range _,
    List.foldl_eq_foldr]

theorem min_root (ht : tagClass t = .int n sg) : treeValue (laneBin t rm opMin) (tagLanes t).log2 (reduceLeaf t 2 p bits) =
    ofInt n ((((List.range (tagLanes t)).filter p).map fun i => laneInt n sg (lane n bits i)).foldl min (intHi n sg)) := by
  have range := laneInt_range (int_width_pos ht) sg
  have folds := folds_min ((range 0).1.trans (range 0).2)
  rw [treeValue_int ht folds (fun _ _ => laneBin_min ht (int_width_pos ht)) (reduceIdentity_int ht).2.2 fun i => range _,
    List.foldl_eq_foldr]

end

end Sys2Proof.Reductions
end

section
/-! O21: the reductions and VCMP as a whole. -/
namespace Sys2Proof.ReduceAndCompare
open Sys2Proof.Machine Sys2Proof.Safety Sys2Proof.LaneLaws Sys2Proof.LaneIntegers Sys2Proof.FloatValues Sys2Proof.Reductions

/-! ### What a rounding delivers fits its lane -/

theorem withSign_lt {f : FFmt} (neg : Bool) {mag : Nat} (h : mag < 2 ^ (ffWidth f - 1)) : withSign f neg mag < 2 ^ ffWidth f := by
  have double : 2 ^ ffWidth f = 2 * 2 ^ (ffWidth f - 1) := by rw [← pow_succ', Nat.sub_add_cancel (by unfold ffWidth; omega)]
  rw [withSign, double]
  split <;> omega

theorem ffMax_lt (f : FFmt) : ffMax f < 2 ^ (ffWidth f - 1) := by cases f <;> decide
theorem ffInf_lt (f : FFmt) : ffInf f < 2 ^ (ffWidth f - 1) := by cases f <;> decide
theorem ffNaN_lt (f : FFmt) : ffNaN f < 2 ^ ffWidth f := by cases f <;> decide

theorem overflowValue_lt (f : FFmt) (rm : RMode) (sat neg : Bool) : overflowValue f rm sat neg < 2 ^ ffWidth f := by
  have max := withSign_lt neg (ffMax_lt f)
  have inf := withSign_lt neg (ffInf_lt f)
  have nan := ffNaN_lt f
  unfold overflowValue
  split_ifs <;> assumption

theorem roundFinite_lt (f : FFmt) (rm : RMode) (sat neg : Bool) (man : Nat) (e : Int) :
    (roundFinite f rm sat neg man e).1 < 2 ^ ffWidth f := by
  unfold roundFinite
  extract_lets F q qmin quant r mag tiny
  by_cases h : ffMax f < mag
  · rw [if_pos h]
    exact overflowValue_lt f rm sat neg
  · rw [if_neg h]
    exact withSign_lt neg (lt_of_le_of_lt (not_lt.1 h) (ffMax_lt f))

theorem encodeF_lt (f : FFmt) (rm : RMode) (sat : Bool) (v : FVal) : (encodeF f rm sat v).1 < 2 ^ ffWidth f := by
  have max (neg : Bool) := withSign_lt neg (ffMax_lt f)
  have inf (neg : Bool) := withSign_lt neg (ffInf_lt f)
  have nan := ffNaN_lt f
  cases v with
  | nan s =>
    dsimp only [encodeF]
    split
    · exact nan
    · exact Nat.two_pow_pos _
  | inf neg =>
    dsimp only [encodeF]
    split_ifs
    · exact max neg
    · exact inf neg
    · exact nan
    · exact max neg
  | fin neg man e =>
    dsimp only [encodeF]
    split
    · exact withSign_lt neg (Nat.two_pow_pos _)
    · exact roundFinite_lt f rm sat neg man e

/-! ### The reductions -/

/-- The state and the register of a reduction. -/
def reduced (s : State) (a : Reg) (k : MReg) (kind : Nat) (op : LaneOp) : Nat × FpFlags :=
  let step := laneBin (valueV s a).tag (rmodeDyn (fpctlRm (me s)) 7) op
  let leaf := reduceLeaf (valueV s a).tag kind (enabled s k) (valueV s a).bits.toNat
  (treeValue step (tagLanes (valueV s a).tag).log2 leaf, treeEvents step (tagLanes (valueV s a).tag).log2 leaf)

section
variable {d a : Reg} {k : MReg} {s : State}

theorem vecReduce_run (kind : Nat) (op : LaneOp) (hp : PortsReady s [] [a] [] [d]) (ht : TagsAgree s a)
    (hc : isIntOrFloat (tagClass (valueV s a).tag) = true) :
    run4 (vecReduce d a k kind op) s = .next (retired 4 s (flagged (giveV (afterV s a) d
      { bits := BitVec.ofNat 512 (reduced s a k kind op).1, tag := (valueV s a).tag }) (reduced s a k kind op).2)) := by
  have tree := reduceTree_eq (laneBin (valueV s a).tag (rmodeDyn (fpctlRm (me s)) 7) op) (tagLanes (valueV s a).tag).log2
    (reduceLeaf (valueV s a).tag kind (enabled s k) (valueV s a).bits.toNat) noFlags
  rw [two_pow_levels hc, noFlags_or] at tree
  have write := putVec_run (valueV s a).tag (reduced s a k kind op) (hp.room.afterV a)
  refine run4_ok (withPorts_ok hp ((m_bind_ok (hp.sources.takeV ht).1).trans ((m_bind_ok (requireClass_ok hc)).trans ?_)))
  rw [← write, reduced, ← tree]
  show putVec _ _ (reduceTree (laneBin _ (rmodeDyn (fpctlRm (me (afterV s a))) 7) op) _ ((List.range _).map fun i =>
    if (kValue (me (afterV s a)) k).toNat.testBit i then _ else _) _) _ = _
  rw [me_afterV]
  rfl

/-- The result is a lane, so that element 0 holds it and the other elements are zero. -/
theorem lanes_of_root {t : Tag} {x : Nat} (hx : x < 2 ^ tagLane t) :
    lane (tagLane t) (BitVec.ofNat 512 x).toNat 0 = x ∧
      ∀ i, 1 ≤ i → i < tagLanes t → lane (tagLane t) (BitVec.ofNat 512 x).toNat i = 0 := by
  have fits {i : Nat} (hi : i < tagLanes t) : tagLane t * (i + 1) ≤ 512 :=
    tagLane_mul_tagLanes t ▸ Nat.mul_le_mul_left _ hi
  refine ⟨?_, fun i one hi => ?_⟩
  · rw [lane_ofNat (fits (tagLanes_pos t)), lane_zero, Nat.mod_eq_of_lt hx]
  · obtain ⟨i, rfl⟩ := Nat.exists_eq_add_of_le' one
    rw [lane_ofNat (fits hi), lane_succ, Nat.div_eq_of_lt hx, lane, Nat.zero_shiftRight, Nat.zero_mod]

theorem reduceIdentity_lt {t : Tag} (kind : Nat) : reduceIdentity t kind < 2 ^ tagLane t := by
  unfold reduceIdentity
  cases ht : tagClass t with
  | int n sg =>
    rw [tagLane_int ht]
    dsimp only
    split <;> [exact Nat.two_pow_pos n; exact ofInt_lt ..; exact ofInt_lt ..]
  | flt f =>
    rw [(levels_flt ht).2.1]
    dsimp only
    split <;> [exact withSign_lt _ (Nat.two_pow_pos _); exact withSign_lt _ (ffInf_lt f); exact withSign_lt _ (ffInf_lt f)]
  | _ => exact Nat.two_pow_pos _

theorem laneBin_lt {t : Tag} (rm : RMode) (op : LaneOp) (x y : Nat) : (laneBin t rm op x y).1 < 2 ^ tagLane t := by
  unfold laneBin
  cases ht : tagClass t with
  | int n sg => rw [tagLane_int ht]; exact ofInt_lt ..
  | flt f => rw [(levels_flt ht).2.1]; exact encodeF_lt ..
  | _ => exact Nat.two_pow_pos _

theorem reduced_lt (kind : Nat) (op : LaneOp) : (reduced s a k kind op).1 < 2 ^ tagLane (valueV s a).tag := by
  refine treeValue_lt (laneBin_lt _ op) fun i => ?_
  unfold reduceLeaf
  split
  · exact lane_lt ..
  · exact reduceIdentity_lt kind

theorem reduced_flags {n : Nat} {sg : Bool} (ht : tagClass (valueV s a).tag = .int n sg) (kind : Nat) (op : LaneOp) :
    (reduced s a k kind op).2 = noFlags :=
  treeEvents_noFlags (fun i j => by rw [laneBin_int ht]) _ _

/-- A float reduction is the tree over the float steps. -/
theorem reduced_flt {f : FFmt} (ht : tagClass (valueV s a).tag = .flt f) {kind : Nat} {op : LaneOp} {step : Nat → Nat → Nat × FpFlags}
    (hstep : ∀ i j, deliver f (rmodeDyn (fpctlRm (me s)) 7) (op.onFlt (rmodeDyn (fpctlRm (me s)) 7) (fdecode f i) (fdecode f j)) = step i j)
    {none_ : Nat} (hid : reduceIdentity (valueV s a).tag kind = none_) :
    let leaf (i : Nat) : Nat := if enabled s k i = true then lane (ffWidth f) (valueV s a).bits.toNat i else none_
    let levels := if ffWidth f = 32 then 4 else 5
    lane (ffWidth f) (BitVec.ofNat 512 (reduced s a k kind op).1).toNat 0 = treeValue step levels leaf ∧
      (reduced s a k kind op).2 = treeEvents step levels leaf := by
  have root : lane (ffWidth f) (BitVec.ofNat 512 (reduced s a k kind op).1).toNat 0 = (reduced s a k kind op).1 :=
    (levels_flt ht).2.1 ▸ (lanes_of_root (reduced_lt (s := s) (a := a) (k := k) kind op)).1
  obtain ⟨levels, width, -⟩ := levels_flt ht
  have steps : laneBin (valueV s a).tag (rmodeDyn (fpctlRm (me s)) 7) op = step :=
    funext fun i => funext fun j => (laneBin_flt ht op i j).trans (hstep i j)
  have leaves : reduceLeaf (valueV s a).tag kind (enabled s k) (valueV s a).bits.toNat =
      fun i => if enabled s k i = true then lane (ffWidth f) (valueV s a).bits.toNat i else none_ := by
    funext i
    rw [reduceLeaf, width, hid]
  rw [root, reduced, steps, leaves, levels]
  exact ⟨rfl, rfl⟩

/-- Element 0 of an integer reduction. -/
theorem reduced_lane_int {n : Nat} {sg : Bool} (ht : tagClass (valueV s a).tag = .int n sg) (kind : Nat) (op : LaneOp) :
    lane n (BitVec.ofNat 512 (reduced s a k kind op).1).toNat 0 = (reduced s a k kind op).1 :=
  tagLane_int ht ▸ (lanes_of_root (reduced_lt (s := s) (a := a) (k := k) kind op)).1

theorem exec_vredsum_eq : exec (.vredsum d a k) s = run4 (vecReduce d a k 0 opAdd) s := rfl
theorem exec_vredmax_eq : exec (.vredmax d a k) s = run4 (vecReduce d a k 1 opMax) s := rfl
theorem exec_vredmin_eq : exec (.vredmin d a k) s = run4 (vecReduce d a k 2 opMin) s := rfl

/-- The identity of a float reduction (R64). -/
theorem reduceIdentity_flt {t : Tag} {f : FFmt} (ht : tagClass t = .flt f) :
    reduceIdentity t 0 = withSign f true 0 ∧ reduceIdentity t 1 = withSign f true (ffInf f) ∧
      reduceIdentity t 2 = withSign f false (ffInf f) := by
  simp [reduceIdentity, ht]

end

/-! ### VCMP -/

section
variable {d : MReg} {a b : Reg} {k : MReg} {c : BitVec 3} {s : State}

/-- One lane of VCMP: the bit and the events, where the mask enables it. -/
def compared (s : State) (a b : Reg) (k : MReg) (c : BitVec 3) (i : Nat) : Bool × FpFlags :=
  if enabled s k i then
    laneCmp (valueV s a).tag c.toNat (lane (tagLane (valueV s a).tag) (valueV s a).bits.toNat i)
      (lane (tagLane (valueV s a).tag) (valueV (afterV s a) b).bits.toNat i)
  else (false, noFlags)

/-- The mask and the events of VCMP. -/
def comparedMask (s : State) (a b : Reg) (k : MReg) (c : BitVec 3) : BitVec 128 :=
  BitVec.ofNat 128 (packLanes 1 (((List.range (tagLanes (valueV s a).tag)).map fun i => (compared s a b k c i).1).map bit))

theorem exec_vcmp (hp : PortsReady s [] [a, b] [] []) (ha : TagsAgree s a) (hb : TagsAgree (afterV s a) b)
    (hc : isIntOrFloat (tagClass (valueV s a).tag) = true) (ht : (valueV (afterV s a) b).tag = (valueV s a).tag) :
    exec (.vcmp d a b k c) s = .next (retired 4 s (flagged (modThread (afterVV s a b) s.cur fun x => kWrite x d (comparedMask s a b k c))
      (flagsAll ((List.range (tagLanes (valueV s a).tag)).map fun i => (compared s a b k c i).2)))) := by
  obtain ⟨readA, rest⟩ := hp.sources.takeV ha
  have hc' : isIntOrFloat (tagClass (valueV (afterV s a) b).tag) = true := ht ▸ hc
  have cmp : cmpMask (valueV s a).tag c.toNat (kValue (me (afterV (afterV s a) b)) k).toNat (valueV s a).bits.toNat
      (valueV (afterV s a) b).bits.toNat =
      (packLanes 1 (((List.range (tagLanes (valueV s a).tag)).map fun i => (compared s a b k c i).1).map bit),
        flagsAll ((List.range (tagLanes (valueV s a).tag)).map fun i => (compared s a b k c i).2)) := by
    rw [me_afterV, me_afterV, cmpMask]
    simp only [List.map_map]
    rfl
  refine run4_ok (withPorts_ok hp ((m_bind_ok readA).trans ((m_bind_ok (requireClass_ok hc)).trans
    ((m_bind_ok (rest.takeV hb).1).trans ((m_bind_ok (requireClass_ok hc')).trans ((m_bind_ok (requireTag_ok ht)).trans
    ((m_bind_ok (show readK k _ = .ok ((kValue (me (afterV (afterV s a) b)) k).toNat, afterV (afterV s a) b) from rfl)).trans ?_)))))))
  rw [cmp]
  refine (m_bind_ok (modSelf_run _ _)).trans ?_
  rw [afterV_cur, afterV_cur]
  rfl

theorem getLsbD_comparedMask {i : Nat} (hi : i < 128) : (comparedMask s a b k c).getLsbD i =
    (decide (i < tagLanes (valueV s a).tag) && (compared s a b k c i).1) := by
  rw [comparedMask, getLsbD_packBits hi]
  by_cases h : i < tagLanes (valueV s a).tag <;> simp [h]

end

/-- Settles O21: the compare conditions, the reductions by their trees, and the mask of VCMP bit by bit. -/
theorem vectorReductionsAndCompare : Obligations.VectorReductionsAndCompare := by
  refine ⟨fun t c x y hc => ⟨fun n sg ht => ?ints, fun f ht => ?floats⟩, fun d a k s hp ht => ?reductions,
    fun d a b k c s hp ha hb => ?compare⟩
  case ints =>
    rw [laneCmp, ht]
    exact ⟨rfl, icond_iff hc _ _⟩
  case floats =>
    rw [laneCmp, ht]
    exact ⟨fun hx hy => fcond_iff hc hx hy, fun nan => fcond_nan hc nan⟩
  case reductions =>
    intro va sel hc q hq
    simp only [List.mem_cons, List.not_mem_nil, or_false] at hq
    obtain rfl | rfl | rfl := hq
    · refine ⟨_, _, exec_vredsum_eq.trans (vecReduce_run 0 opAdd hp ht hc), (lanes_of_root (reduced_lt 0 opAdd)).2,
        fun n sg hn => ⟨reduced_flags hn 0 opAdd, fun _ => ?_, fun h => absurd (show 0 = 1 from h) (by decide), fun h => absurd (show 0 = 2 from h) (by decide)⟩,
        fun f hf => reduced_flt hf (fun i j => rfl) (reduceIdentity_flt hf).1⟩
      exact (reduced_lane_int hn 0 opAdd).trans (sum_root hn)
    · refine ⟨_, _, exec_vredmax_eq.trans (vecReduce_run 1 opMax hp ht hc), (lanes_of_root (reduced_lt 1 opMax)).2,
        fun n sg hn => ⟨reduced_flags hn 1 opMax, fun h => absurd (show 1 = 0 from h) (by decide), fun _ => ?_, fun h => absurd (show 1 = 2 from h) (by decide)⟩,
        fun f hf => reduced_flt hf (fun i j => rfl) (reduceIdentity_flt hf).2.1⟩
      exact (reduced_lane_int hn 1 opMax).trans (max_root hn)
    · refine ⟨_, _, exec_vredmin_eq.trans (vecReduce_run 2 opMin hp ht hc), (lanes_of_root (reduced_lt 2 opMin)).2,
        fun n sg hn => ⟨reduced_flags hn 2 opMin, fun h => absurd (show 2 = 0 from h) (by decide), fun h => absurd (show 2 = 1 from h) (by decide), fun _ => ?_⟩,
        fun f hf => reduced_flt hf (fun i j => rfl) (reduceIdentity_flt hf).2.2⟩
      exact (reduced_lane_int hn 2 opMin).trans (min_root hn)
  case compare =>
    intro va vb w f hc tags
    refine ⟨comparedMask s a b k c, fun i hi => ?_, ?_⟩
    · rw [getLsbD_comparedMask hi, compared, Bool.and_assoc]
      cases enabled s k i <;> rfl
    · rw [exec_vcmp hp ha hb hc tags]
      simp only [compared, apply_ite Prod.snd]
      rfl

end Sys2Proof.ReduceAndCompare
end

section
/-! Rounding an exact number to a multiple of a power of two (R50). A significand stands for a number exactly, or its low bit says
that the number lies strictly between its two even neighbours. -/
namespace Sys2Proof.Rounding
open Sys2Proof.Machine Sys2Proof.Safety

/-! ### The integer that a mode makes of a number -/

/-- The mode that rounds the negated number to the negated integer. -/
def mirror : RMode → RMode
  | .rup => .rdn
  | .rdn => .rup
  | rm => rm

theorem roundsTo_neg (rm : RMode) (x : ℝ) (z : Int) : RoundsTo (mirror rm) x z → RoundsTo rm (-x) (-z) := by
  have gap : |-x - ((-z : Int) : ℝ)| = |x - z| := by rw [← abs_neg]; push_cast; ring_nf
  cases rm with
  | rne =>
    simp only [mirror, RoundsTo, gap]
    rintro (h | ⟨h, even⟩)
    · exact .inl h
    · exact .inr ⟨h, by omega⟩
  | rna =>
    simp only [mirror, RoundsTo, gap]
    rw [abs_neg, show |((-z : Int) : ℝ)| = |(z : ℝ)| by push_cast; exact abs_neg _]
    exact id
  | rtz =>
    simp only [mirror, RoundsTo]
    push_cast
    rintro ⟨up, down⟩
    refine ⟨fun h => ?_, fun h => ?_⟩
    · rcases h.lt_or_eq with pos | zero
      · obtain ⟨h1, h2⟩ := down (by linarith)
        constructor <;> linarith
      · obtain ⟨h1, h2⟩ := up (by linarith)
        have none : z ≤ 0 := by exact_mod_cast (show (z : ℝ) ≤ 0 by linarith)
        have one : -1 < z := by exact_mod_cast (show (-1 : ℝ) < z by linarith)
        obtain rfl : z = 0 := by omega
        constructor <;> push_cast <;> linarith
    · obtain ⟨h1, h2⟩ := up (by linarith)
      constructor <;> linarith
  | rup =>
    simp only [mirror, RoundsTo]
    push_cast
    rintro ⟨h1, h2⟩
    constructor <;> linarith
  | rdn =>
    simp only [mirror, RoundsTo]
    push_cast
    rintro ⟨h1, h2⟩
    constructor <;> linarith

/-- Two integers within half of a number that are not the same are its two neighbours. -/
theorem eq_or_neighbours {x : ℝ} {y z : Int} (hy : |x - y| ≤ 1 / 2) (hz : |x - z| ≤ 1 / 2) :
    y = z ∨ (z = y + 1 ∧ x = y + 1 / 2) ∨ (y = z + 1 ∧ x = z + 1 / 2) := by
  rw [abs_le] at hy hz
  have le : z ≤ y + 1 := by exact_mod_cast (show (z : ℝ) ≤ y + 1 by linarith)
  have ge : y ≤ z + 1 := by exact_mod_cast (show (y : ℝ) ≤ z + 1 by linarith)
  rcases (show y = z ∨ z = y + 1 ∨ y = z + 1 by omega) with h | rfl | rfl
  · exact .inl h
  · push_cast at hz
    exact .inr (.inl ⟨rfl, by linarith⟩)
  · push_cast at hy
    exact .inr (.inr ⟨rfl, by linarith⟩)

theorem not_both_farther {x : ℝ} {y : Int} (h : x = y + 1 / 2) : ¬ (|x| < |(y : ℝ)| ∧ |x| < |((y + 1 : Int) : ℝ)|) := by
  rintro ⟨h1, h2⟩
  push_cast at h2
  subst h
  rcases le_or_gt 0 y with pos | neg
  · have : (0 : ℝ) ≤ y := by exact_mod_cast pos
    rw [abs_of_nonneg (by linarith), abs_of_nonneg this] at h1
    linarith
  · have : (y : ℝ) ≤ -1 := by exact_mod_cast (show y ≤ -1 by omega)
    rw [abs_of_nonpos (by linarith), abs_of_nonpos (by linarith)] at h2
    linarith

/-- A mode makes one integer of a number. -/
theorem roundsTo_unique {rm : RMode} {x : ℝ} {y z : Int} (hy : RoundsTo rm x y) (hz : RoundsTo rm x z) : y = z := by
  cases rm with
  | rne =>
    have near {w : Int} (h : RoundsTo .rne x w) : |x - w| ≤ 1 / 2 := h.elim le_of_lt fun h => h.1.le
    have even {w : Int} (h : RoundsTo .rne x w) (half : |x - w| = 1 / 2) : w % 2 = 0 := h.elim (fun h => absurd half h.ne) fun h => h.2
    rcases eq_or_neighbours (near hy) (near hz) with h | ⟨rfl, hx⟩ | ⟨rfl, hx⟩
    · exact h
    · have := even hy (by rw [hx]; norm_num)
      have := even hz (by rw [hx]; push_cast; norm_num)
      omega
    · have := even hz (by rw [hx]; norm_num)
      have := even hy (by rw [hx]; push_cast; norm_num)
      omega
  | rna =>
    have near {w : Int} (h : RoundsTo .rna x w) : |x - w| ≤ 1 / 2 := h.elim le_of_lt fun h => h.1.le
    have far {w : Int} (h : RoundsTo .rna x w) (half : |x - w| = 1 / 2) : |x| < |(w : ℝ)| :=
      h.elim (fun h => absurd half h.ne) fun h => h.2
    rcases eq_or_neighbours (near hy) (near hz) with h | ⟨rfl, hx⟩ | ⟨rfl, hx⟩
    · exact h
    · exact absurd ⟨far hy (by rw [hx]; norm_num), far hz (by rw [hx]; push_cast; norm_num)⟩ (not_both_farther hx)
    · exact absurd ⟨far hz (by rw [hx]; norm_num), far hy (by rw [hx]; push_cast; norm_num)⟩ (not_both_farther hx)
  | rtz =>
    obtain ⟨upY, downY⟩ := hy
    obtain ⟨upZ, downZ⟩ := hz
    rcases le_or_gt 0 x with pos | neg
    · exact floor_unique (upY pos) (upZ pos)
    · obtain ⟨h1, h2⟩ := downY neg
      obtain ⟨h3, h4⟩ := downZ neg
      exact ceil_unique ⟨h1, h2⟩ ⟨h3, h4⟩
  | rup => exact ceil_unique hy hz
  | rdn => exact floor_unique hy hz
where
  floor_unique {x : ℝ} {y z : Int} (hy : (y : ℝ) ≤ x ∧ x < y + 1) (hz : (z : ℝ) ≤ x ∧ x < z + 1) : y = z := by
    have le : y < z + 1 := by exact_mod_cast (show (y : ℝ) < z + 1 by linarith)
    have ge : z < y + 1 := by exact_mod_cast (show (z : ℝ) < y + 1 by linarith)
    omega
  ceil_unique {x : ℝ} {y z : Int} (hy : x ≤ y ∧ (y : ℝ) - 1 < x) (hz : x ≤ z ∧ (z : ℝ) - 1 < x) : y = z := by
    have le : y < z + 1 := by exact_mod_cast (show (y : ℝ) < z + 1 by linarith)
    have ge : z < y + 1 := by exact_mod_cast (show (z : ℝ) < y + 1 by linarith)
    omega

theorem roundsTo_int (rm : RMode) (z : Int) : RoundsTo rm (z : ℝ) z := by
  cases rm <;> simp [RoundsTo]

/-- The integers next to a number in its interval. -/
theorem roundQ_roundsTo (rm : RMode) (x : ℚ) : RoundsTo rm (x : ℝ) (roundQ rm x) := by
  have floor_le := (Rat.cast_le (K := ℝ)).2 (Int.floor_le x)
  have lt_floor := (Rat.cast_lt (K := ℝ)).2 (Int.lt_floor_add_one x)
  have le_ceil := (Rat.cast_le (K := ℝ)).2 (Int.le_ceil x)
  have ceil_lt := (Rat.cast_lt (K := ℝ)).2 (show (⌈x⌉ : ℚ) - 1 < x by linarith [Int.ceil_lt_add_one x])
  push_cast at floor_le lt_floor le_ceil ceil_lt
  cases rm with
  | rne =>
    unfold roundQ RoundsTo
    dsimp only
    split_ifs with below above even
    · have h := (Rat.cast_lt (K := ℝ)).2 below
      push_cast at h
      exact .inl (by rw [abs_lt]; constructor <;> linarith)
    · have h := (Rat.cast_lt (K := ℝ)).2 above
      push_cast at h
      exact .inl (by rw [abs_lt]; push_cast; constructor <;> linarith)
    · have h := congrArg (Rat.cast : ℚ → ℝ) (le_antisymm (not_lt.1 above) (not_lt.1 below))
      push_cast at h
      exact .inr ⟨by rw [h]; norm_num, even⟩
    · have h := congrArg (Rat.cast : ℚ → ℝ) (le_antisymm (not_lt.1 above) (not_lt.1 below))
      push_cast at h
      refine .inr ⟨?_, by omega⟩
      rw [show (x : ℝ) - ((⌊x⌋ + 1 : Int) : ℝ) = -(1 / 2) by push_cast; linarith]
      norm_num
  | rtz =>
    refine ⟨fun h => ?_, fun h => ?_⟩
    · rw [roundQ, if_pos (by exact_mod_cast h)]
      exact ⟨floor_le, lt_floor⟩
    · rw [roundQ, if_neg (not_le.2 (by exact_mod_cast h))]
      exact ⟨le_ceil, ceil_lt⟩
  | rup => exact ⟨le_ceil, ceil_lt⟩
  | rdn => exact ⟨floor_le, lt_floor⟩
  | rna =>
    rcases le_or_gt 0 x with pos | neg
    · have low := (Rat.cast_le (K := ℝ)).2 (Int.floor_le (x + 1 / 2))
      have high := (Rat.cast_lt (K := ℝ)).2 (Int.lt_floor_add_one (x + 1 / 2))
      push_cast at low high
      have pos' : (0 : ℝ) ≤ x := by exact_mod_cast pos
      unfold roundQ RoundsTo
      dsimp only
      rw [if_pos pos]
      rcases low.lt_or_eq with h | h
      · exact .inl (by rw [abs_lt]; constructor <;> linarith)
      · refine .inr ⟨by rw [h, abs_of_nonpos] <;> linarith, ?_⟩
        rw [h, abs_of_nonneg pos', abs_of_nonneg] <;> linarith
    · have low := (Rat.cast_le (K := ℝ)).2 (Int.le_ceil (x - 1 / 2))
      have high := (Rat.cast_lt (K := ℝ)).2 (Int.ceil_lt_add_one (x - 1 / 2))
      push_cast at low high
      have neg' : (x : ℝ) < 0 := by exact_mod_cast neg
      unfold roundQ RoundsTo
      dsimp only
      rw [if_neg (not_le.2 neg)]
      rcases low.lt_or_eq with h | h
      · exact .inl (by rw [abs_lt]; constructor <;> linarith)
      · refine .inr ⟨by rw [← h, abs_of_nonneg] <;> linarith, ?_⟩
        rw [← h, abs_of_neg neg', abs_of_nonpos] <;> linarith

end Sys2Proof.Rounding
end

section
/-! What roundAt counts (R50): the integer that the mode makes of the number, and whether it is that number. -/
namespace Sys2Proof.Rounding
open Sys2Proof.Machine Sys2Proof.Safety

/-- man × 2^e stands for the number a in units of 2^q: exactly, or with an odd man for a number strictly between its neighbours, the
unit being four times its own or more. -/
def Stands (man : Nat) (e q : Int) (a : ℝ) : Prop :=
  a = man * (2 : ℝ) ^ e ∨ (man % 2 = 1 ∧ e + 2 ≤ q ∧ ((man : ℝ) - 1) * 2 ^ e < a ∧ a < ((man : ℝ) + 1) * 2 ^ e)

theorem Stands.mono {man : Nat} {e q q' : Int} {a : ℝ} (h : Stands man e q a) (hq : q ≤ q') : Stands man e q' a :=
  h.imp id fun ⟨odd, unit, range⟩ => ⟨odd, unit.trans hq, range⟩

/-- Does a mode round a positive number up, for the parity of its whole units and the order of its rest and one half? -/
def roundsUp (rm : RMode) (odd : Bool) (rest : Ordering) : Bool :=
  match rm with
  | .rne => rest == .gt || (rest == .eq && odd)
  | .rtz => false
  | .rup => true
  | .rdn => false
  | .rna => rest != .lt

/-- What the mode makes of a number between k and k + 1. -/
theorem roundsTo_frac (rm : RMode) {k : Nat} {y : ℝ} (low : (k : ℝ) < y) (high : y < k + 1) :
    RoundsTo rm y ((k + if roundsUp rm (k % 2 == 1) (cmp y ((k : ℝ) + 1 / 2)) then 1 else 0 : Nat) : Int) := by
  have pos : (0 : ℝ) ≤ k := Nat.cast_nonneg k
  cases rm with
  | rne =>
    rcases lt_trichotomy y ((k : ℝ) + 1 / 2) with less | half | more
    · rw [(cmp_eq_lt_iff _ _).2 less]
      exact .inl (by rw [abs_lt]; constructor <;> simp [roundsUp] <;> linarith)
    · rw [(cmp_eq_eq_iff _ _).2 half]
      rcases Nat.mod_two_eq_zero_or_one k with even | odd
      · exact .inr ⟨by simp [roundsUp, even, half], by simp [roundsUp, even]; omega⟩
      · exact .inr ⟨by simp [roundsUp, odd, half]; norm_num, by simp [roundsUp, odd]; omega⟩
    · rw [(cmp_eq_gt_iff _ _).2 more]
      exact .inl (by rw [abs_lt]; constructor <;> simp [roundsUp] <;> linarith)
  | rna =>
    rcases lt_trichotomy y ((k : ℝ) + 1 / 2) with less | half | more
    · rw [(cmp_eq_lt_iff _ _).2 less]
      exact .inl (by rw [abs_lt]; constructor <;> simp [roundsUp] <;> linarith)
    · rw [(cmp_eq_eq_iff _ _).2 half]
      refine .inr ⟨by simp [roundsUp, half]; norm_num, ?_⟩
      rw [half, abs_of_nonneg (by linarith), abs_of_nonneg (by positivity)]
      simp [roundsUp]
      norm_num
    · rw [(cmp_eq_gt_iff _ _).2 more]
      exact .inl (by rw [abs_lt]; constructor <;> simp [roundsUp] <;> linarith)
  | rtz => exact ⟨fun _ => ⟨by simpa [roundsUp] using low.le, by simpa [roundsUp] using high⟩, fun neg => by linarith⟩
  | rup => exact ⟨by simpa [roundsUp] using high.le, by simpa [roundsUp] using low⟩
  | rdn => exact ⟨by simpa [roundsUp] using low.le, by simpa [roundsUp] using high⟩

/-- The model's shift by s bits, where it drops a bit that is set. -/
theorem roundShift_eq (rm : RMode) {man s : Nat} (h : man % 2 ^ s ≠ 0) : roundShift rm false man s =
    man >>> s + if roundsUp rm (man >>> s % 2 == 1) (cmp (2 * (man % 2 ^ s)) (2 ^ s)) then 1 else 0 := by
  unfold roundShift
  dsimp only
  rw [if_neg h]
  generalize 2 * (man % 2 ^ s) = r
  generalize man >>> s = k
  have step (b : Bool) : (if b = true then k + 1 else k) = k + if b = true then 1 else 0 := by cases b <;> rfl
  refine (step _).trans (congrArg (fun b : Bool => k + if b = true then 1 else 0) ?_)
  rcases lt_trichotomy r (2 ^ s) with less | half | more
  · cases rm <;> simp [roundsUp, (cmp_eq_lt_iff _ _).2 less, less.not_gt, less.ne, less.not_ge]
  · cases rm <;> simp [roundsUp, half]
  · cases rm <;> simp [roundsUp, (cmp_eq_gt_iff _ _).2 more, more, more.le]

theorem roundShift_mirror (rm : RMode) (man s : Nat) : roundShift rm true man s = roundShift (mirror rm) false man s := by
  cases rm <;> rfl

theorem roundAt_mirror (rm : RMode) (man : Nat) (e q : Int) : roundAt rm true man e q = roundAt (mirror rm) false man e q := by
  unfold roundAt
  simp only [roundShift_mirror]

/-- The number in units of 2^q, as a quotient by 2^s. -/
theorem units_eq {m : ℝ} {e q : Int} (h : e ≤ q) : m * (2 : ℝ) ^ e / 2 ^ q = m / 2 ^ (q - e).toNat := by
  have split : (2 : ℝ) ^ q = 2 ^ (q - e).toNat * 2 ^ e := by
    rw [← zpow_natCast, Int.toNat_of_nonneg (by omega), ← zpow_add₀ (by norm_num), Int.sub_add_cancel]
  rw [split, mul_comm m, mul_comm ((2 : ℝ) ^ (q - e).toNat), mul_div_mul_left _ _ (by positivity)]

/-- A remainder that stands for a number: it compares with half a unit as the number does. -/
theorem stands_parts {man s : Nat} {y : ℝ} (h : y = (man : ℝ) / 2 ^ s ∨
      (man % 2 = 1 ∧ 2 ≤ s ∧ ((man : ℝ) - 1) / 2 ^ s < y ∧ y < ((man : ℝ) + 1) / 2 ^ s)) :
    (man % 2 ^ s = 0 → y = ((man >>> s : Nat) : ℝ)) ∧
      (man % 2 ^ s ≠ 0 → ((man >>> s : Nat) : ℝ) < y ∧ y < ((man >>> s : Nat) : ℝ) + 1 ∧
        cmp y (((man >>> s : Nat) : ℝ) + 1 / 2) = cmp (2 * (man % 2 ^ s)) (2 ^ s)) := by
  rw [Nat.shiftRight_eq_div_pow]
  have pos : (0 : ℝ) < 2 ^ s := by positivity
  have rem : man % 2 ^ s < 2 ^ s := Nat.mod_lt _ (Nat.two_pow_pos s)
  have split : (man : ℝ) = 2 ^ s * ((man / 2 ^ s : Nat) : ℝ) + ((man % 2 ^ s : Nat) : ℝ) := by
    exact_mod_cast (Nat.div_add_mod man (2 ^ s)).symm
  generalize hk : man / 2 ^ s = k at *
  generalize hr : man % 2 ^ s = r at *
  rcases h with exact_ | ⟨odd, two, low, high⟩
  · have hy : y = k + (r : ℝ) / 2 ^ s := by rw [exact_, split, add_div, mul_div_cancel_left₀ _ pos.ne']
    have scale : StrictMono fun i : Nat => (k : ℝ) + (i : ℝ) / (2 * 2 ^ s) := fun i j h =>
      add_lt_add_right (div_lt_div_of_pos_right (Nat.cast_lt.2 h) (by positivity)) _
    have half : cmp y ((k : ℝ) + 1 / 2) = cmp (2 * r) (2 ^ s) := by
      rw [← scale.cmp_map_eq, hy]
      congr 2 <;> push_cast <;> field_simp
    refine ⟨fun zero => by rw [hy, zero]; simp, fun nonzero => ⟨?_, ?_, half⟩⟩
    · have : (0 : ℝ) < r / 2 ^ s := div_pos (by exact_mod_cast Nat.pos_of_ne_zero nonzero) pos
      linarith
    · have : (r : ℝ) / 2 ^ s < 1 := by rw [div_lt_one pos]; exact_mod_cast rem
      linarith
  · obtain ⟨t, rfl⟩ := Nat.exists_eq_add_of_le' two
    have quarter : 2 ^ (t + 2) = 4 * 2 ^ t := by rw [pow_add]; ring
    have oddRem : r % 2 = 1 := by
      rw [← hr, quarter, Nat.mod_mod_of_dvd _ (Dvd.intro (2 * 2 ^ t) (by ring)), odd]
    rw [div_lt_iff₀ pos, split] at low
    rw [lt_div_iff₀ pos, split] at high
    have quarterR : (2 : ℝ) ^ (t + 2) = 4 * 2 ^ t := by rw [pow_add]; ring
    refine ⟨fun zero => absurd oddRem (by rw [zero]; decide), fun _ => ?_⟩
    have below : ((r : ℝ) + 1 ≤ 2 ^ (t + 2)) := by exact_mod_cast rem
    have above : (1 : ℝ) ≤ r := by exact_mod_cast (show 1 ≤ r by omega)
    have hpos : (0 : ℝ) < 2 ^ t := by positivity
    rw [quarterR] at low high below pos
    rw [quarter]
    have side : (2 * r < 4 * 2 ^ t ∧ y < (k : ℝ) + 1 / 2) ∨ (4 * 2 ^ t < 2 * r ∧ (k : ℝ) + 1 / 2 < y) := by
      rcases (show r + 1 ≤ 2 * 2 ^ t ∨ 2 * 2 ^ t + 1 ≤ r by omega) with h | h
      · have hR : (r : ℝ) + 1 ≤ 2 * 2 ^ t := by exact_mod_cast h
        exact .inl ⟨by omega, by nlinarith⟩
      · have hR : 2 * (2 : ℝ) ^ t + 1 ≤ r := by exact_mod_cast h
        exact .inr ⟨by omega, by nlinarith⟩
    refine ⟨by nlinarith, by nlinarith, ?_⟩
    rcases side with ⟨h1, h2⟩ | ⟨h1, h2⟩
    · rw [(cmp_eq_lt_iff _ _).2 h1, (cmp_eq_lt_iff _ _).2 h2]
    · rw [(cmp_eq_gt_iff _ _).2 h1, (cmp_eq_gt_iff _ _).2 h2]

theorem roundShift_spec {rm : RMode} {man s : Nat} {y : ℝ} (h : y = (man : ℝ) / 2 ^ s ∨
      (man % 2 = 1 ∧ 2 ≤ s ∧ ((man : ℝ) - 1) / 2 ^ s < y ∧ y < ((man : ℝ) + 1) / 2 ^ s)) :
    RoundsTo rm y (roundShift rm false man s : Int) ∧ (man % 2 ^ s = 0 ↔ y = (roundShift rm false man s : ℝ)) := by
  obtain ⟨whole, part⟩ := stands_parts h
  by_cases zero : man % 2 ^ s = 0
  · have count : roundShift rm false man s = man >>> s := by rw [roundShift]; exact if_pos zero
    rw [count, whole zero]
    exact ⟨roundsTo_int rm ((man >>> s : Nat) : Int), by simp [zero]⟩
  · obtain ⟨low, high, half⟩ := part zero
    rw [roundShift_eq rm zero, ← half]
    refine ⟨roundsTo_frac rm low high, fun h => absurd h zero, fun h => ?_⟩
    split_ifs at h <;> push_cast at h <;> linarith

/-- The signed number of a magnitude. -/
def signed (neg : Bool) (a : ℝ) : ℝ := if neg then -a else a

theorem signed_mul (neg : Bool) (a b : ℝ) : signed neg (a * b) = signed neg a * b := by
  cases neg <;> simp [signed]

theorem signed_div (neg : Bool) (a b : ℝ) : signed neg (a / b) = signed neg a / b := by
  cases neg <;> simp [signed, neg_div]

theorem signed_inj {neg : Bool} {a b : ℝ} : signed neg a = signed neg b ↔ a = b := by
  cases neg <;> simp [signed]

theorem signed_signedMan (neg : Bool) (n : Nat) : ((signedMan neg n : Int) : ℝ) = signed neg n := by
  cases neg <;> simp [signed, signedMan]

theorem Stands.shifted {man : Nat} {e q : Int} {a : ℝ} (h : Stands man e q a) (hq : e ≤ q) :
    a / 2 ^ q = (man : ℝ) / 2 ^ (q - e).toNat ∨ (man % 2 = 1 ∧ 2 ≤ (q - e).toNat ∧
      ((man : ℝ) - 1) / 2 ^ (q - e).toNat < a / 2 ^ q ∧ a / 2 ^ q < ((man : ℝ) + 1) / 2 ^ (q - e).toNat) := by
  have pos : (0 : ℝ) < 2 ^ q := by positivity
  rcases h with rfl | ⟨odd, unit, low, high⟩
  · exact .inl (units_eq hq)
  · refine .inr ⟨odd, by omega, ?_, ?_⟩
    · rw [← units_eq hq]
      exact div_lt_div_of_pos_right low pos
    · rw [← units_eq hq]
      exact div_lt_div_of_pos_right high pos

/-- What the model counts in units of 2^q is what the mode makes of the number, and it says whether it is the number. -/
theorem roundAt_spec {rm : RMode} (neg : Bool) {man : Nat} {e q : Int} {a : ℝ} (h : Stands man e q a) :
    RoundsTo rm (signed neg a / 2 ^ q) (signedMan neg (roundAt rm neg man e q).1) ∧
      ((roundAt rm neg man e q).2 = true ↔ ((roundAt rm neg man e q).1 : ℝ) * 2 ^ q = a) := by
  have positive (rm : RMode) : RoundsTo rm (a / 2 ^ q) ((roundAt rm false man e q).1 : Int) ∧
      ((roundAt rm false man e q).2 = true ↔ ((roundAt rm false man e q).1 : ℝ) * 2 ^ q = a) := by
    unfold roundAt
    by_cases fine_ : q ≤ e
    · have exact_ : a = man * (2 : ℝ) ^ e := h.resolve_right fun ⟨_, unit, _⟩ => by omega
      have units : a / 2 ^ q = ((man <<< (e - q).toNat : Nat) : ℝ) := by
        rw [exact_, Nat.shiftLeft_eq, Nat.cast_mul, mul_div_assoc, ← zpow_sub₀ (by norm_num)]
        rw [← Int.toNat_of_nonneg (show 0 ≤ e - q by omega), zpow_natCast]
        push_cast
        rfl
      rw [if_pos fine_]
      refine ⟨?_, by simp [← units, div_mul_cancel₀ a (zpow_pos (two_pos (α := ℝ)) q).ne']⟩
      rw [units]
      exact roundsTo_int rm ((man <<< (e - q).toNat : Nat) : Int)
    · rw [if_neg fine_]
      obtain ⟨rounds, whole⟩ := roundShift_spec (rm := rm) (h.shifted (by omega))
      refine ⟨rounds, ?_⟩
      rw [beq_iff_eq, whole, div_eq_iff (by positivity), eq_comm]
  cases neg with
  | false => exact positive rm
  | true =>
    rw [roundAt_mirror]
    obtain ⟨rounds, exact_⟩ := positive (mirror rm)
    refine ⟨?_, exact_⟩
    rw [signed, if_pos rfl, neg_div]
    exact roundsTo_neg rm _ _ rounds

end Sys2Proof.Rounding
end

section
/-! What one rounding to a format gives (R47, R50 to R52): the magnitudes of a format in order, and roundFinite. -/
namespace Sys2Proof.Rounding
open Sys2Proof.Machine Sys2Proof.Safety Sys2Proof.ReduceAndCompare

/-! ### The magnitudes of a format -/

/-- The number of a magnitude: subnormal below 2^F, else with its leading bit. -/
def magValue (f : FFmt) (mag : Nat) : ℚ :=
  if mag / 2 ^ ffFracBits f = 0 then (mag : ℚ) * 2 ^ ffQmin f
  else ((2 ^ ffFracBits f + mag % 2 ^ ffFracBits f : Nat) : ℚ) * 2 ^ (ffQmin f + ((mag / 2 ^ ffFracBits f : Nat) - 1 : Int))

/-- The decoding of a finite magnitude. -/
def magDecode (f : FFmt) (neg : Bool) (mag : Nat) : FVal :=
  if mag / 2 ^ ffFracBits f = 0 then .fin neg (mag % 2 ^ ffFracBits f) (ffQmin f)
  else .fin neg (2 ^ ffFracBits f + mag % 2 ^ ffFracBits f) (ffQmin f + ((mag / 2 ^ ffFracBits f : Nat) - 1 : Int))

theorem isFinite_magDecode (f : FFmt) (neg : Bool) (mag : Nat) : isFinite (magDecode f neg mag) = true := by
  unfold magDecode
  split <;> rfl

theorem signNeg_magDecode (f : FFmt) (neg : Bool) (mag : Nat) : signNeg (magDecode f neg mag) = neg := by
  unfold magDecode
  split <;> rfl

theorem valQ_magDecode (f : FFmt) (neg : Bool) (mag : Nat) :
    valQ (magDecode f neg mag) = (if neg then -1 else 1) * magValue f mag := by
  unfold magDecode magValue
  split
  · rw [Nat.mod_eq_of_lt ((Nat.div_eq_zero_iff.1 ‹_›).resolve_left (by positivity)), valQ, mul_assoc]
  · rw [valQ, mul_assoc]

/-- The fields of a signed magnitude. -/
theorem withSign_fields {f : FFmt} (neg : Bool) {mag : Nat} (h : mag < 2 ^ (ffWidth f - 1)) :
    (withSign f neg mag).testBit (ffWidth f - 1) = neg ∧ bitsOf (withSign f neg mag) (ffWidth f - 2) (ffFracBits f) = mag / 2 ^ ffFracBits f ∧
      withSign f neg mag % 2 ^ ffFracBits f = mag % 2 ^ ffFracBits f := by
  have split : 2 ^ (ffWidth f - 1) = 2 ^ ffFracBits f * 2 ^ ffExpBits f := by
    rw [← pow_add]
    exact congrArg _ (by unfold ffWidth; omega)
  have width : ffWidth f - 2 + 1 - ffFracBits f = ffExpBits f := by cases f <;> rfl
  have high : mag / 2 ^ ffFracBits f < 2 ^ ffExpBits f := Nat.div_lt_of_lt_mul (split ▸ h)
  unfold bitsOf withSign
  rw [width, Nat.shiftRight_eq_div_pow]
  cases neg with
  | false => exact ⟨Nat.testBit_lt_two_pow h, Nat.mod_eq_of_lt high, rfl⟩
  | true =>
    simp only [if_true]
    refine ⟨?_, ?_, ?_⟩
    · rw [Nat.add_comm, Nat.testBit_two_pow_add_eq, Nat.testBit_lt_two_pow h, Bool.not_false]
    · rw [split, Nat.add_mul_div_left _ _ (Nat.two_pow_pos _), Nat.add_mod_right, Nat.mod_eq_of_lt high]
    · rw [split, Nat.add_mul_mod_self_left]

/-- A magnitude up to the greatest is no special encoding. -/
theorem mag_not_special {f : FFmt} {mag : Nat} (h : mag ≤ ffMax f) :
    mag / 2 ^ ffFracBits f = 2 ^ ffExpBits f - 1 → ffHasInf f = false ∧ (f = .e4m3 → mag % 2 ^ ffFracBits f ≠ 7) := by
  cases f <;> simp only [ffMax, ffFracBits, ffExpBits, ffHasInf] at * <;> intro top <;> simp <;> omega

theorem fdecode_withSign {f : FFmt} (neg : Bool) {mag : Nat} (h : mag ≤ ffMax f) : fdecode f (withSign f neg mag) = magDecode f neg mag := by
  obtain ⟨sign, exponent, fraction⟩ := withSign_fields neg (lt_of_le_of_lt h (ffMax_lt f))
  have special := mag_not_special h
  unfold fdecode magDecode
  dsimp only
  rw [sign, exponent, fraction]
  by_cases top : mag / 2 ^ ffFracBits f = 2 ^ ffExpBits f - 1
  · obtain ⟨inf, nan⟩ := special top
    rw [if_pos top]
    cases f with
    | fp32 | fp16 | bf16 | e5m2 => exact absurd inf (by decide)
    | e4m3 => exact if_neg (nan rfl)
    | e3m2 | e2m3 | e2m1 => rfl
  · rw [if_neg top]

/-- Units of 2^(qmin + u) with a leading bit, or of the least power, are the magnitude u × 2^F + k. -/
theorem magValue_units {f : FFmt} {u k : Nat} (lead : u = 0 ∨ 2 ^ ffFracBits f ≤ k) (carry : k ≤ 2 ^ (ffFracBits f + 1)) :
    magValue f (u * 2 ^ ffFracBits f + k) = (k : ℚ) * 2 ^ (ffQmin f + (u : Int)) := by
  have pos : 0 < 2 ^ ffFracBits f := Nat.two_pow_pos _
  have carried : magValue f (u * 2 ^ ffFracBits f + 2 * 2 ^ ffFracBits f) = ((2 * 2 ^ ffFracBits f : Nat) : ℚ) * 2 ^ (ffQmin f + (u : Int)) := by
    have parts : u * 2 ^ ffFracBits f + 2 * 2 ^ ffFracBits f = (u + 2) * 2 ^ ffFracBits f := by ring
    rw [magValue, parts, Nat.mul_div_cancel _ pos, Nat.mul_mod_left, if_neg (by omega)]
    rw [show ffQmin f + (((u + 2 : Nat) : Int) - 1) = (ffQmin f + u) + 1 by push_cast; ring, zpow_add_one₀ (by norm_num)]
    push_cast
    ring
  rw [pow_succ'] at carry
  rcases lt_or_ge k (2 ^ ffFracBits f) with sub | norm
  · obtain rfl : u = 0 := by omega
    rw [magValue, if_pos (by rw [Nat.zero_mul, Nat.zero_add]; exact Nat.div_eq_of_lt sub)]
    simp
  · rcases carry.lt_or_eq with below | rfl
    · obtain ⟨j, rfl⟩ := Nat.exists_eq_add_of_le norm
      have parts : u * 2 ^ ffFracBits f + (2 ^ ffFracBits f + j) = j + (u + 1) * 2 ^ ffFracBits f := by ring
      rw [magValue, parts, Nat.add_mul_div_right _ _ pos, Nat.add_mul_mod_self_right, Nat.div_eq_of_lt (by omega),
        Nat.mod_eq_of_lt (by omega), if_neg (by omega)]
      push_cast
      ring_nf
    · exact carried

/-- A greater magnitude is a greater number. -/
theorem magValue_strictMono (f : FFmt) : StrictMono (magValue f) := by
  have pos : 0 < 2 ^ ffFracBits f := Nat.two_pow_pos _
  refine strictMono_nat_of_lt_succ fun mag => ?_
  have next {u k : Nat} (hm : mag = u * 2 ^ ffFracBits f + k) (lead : u = 0 ∨ 2 ^ ffFracBits f ≤ k) (carry : k < 2 * 2 ^ ffFracBits f) :
      magValue f mag < magValue f (mag + 1) := by
    rw [hm, Nat.add_assoc, magValue_units lead (by rw [pow_succ']; omega), magValue_units (by omega) (by rw [pow_succ']; omega)]
    exact mul_lt_mul_of_pos_right (by exact_mod_cast k.lt_succ_self) (by positivity)
  have rem := Nat.mod_lt mag pos
  have split := Nat.div_add_mod' mag (2 ^ ffFracBits f)
  rcases Nat.eq_zero_or_pos (mag / 2 ^ ffFracBits f) with zero | pos'
  · rw [zero] at split
    exact next split.symm (.inl rfl) (by omega)
  · obtain ⟨u, hu⟩ := Nat.exists_eq_add_of_le' pos'
    rw [hu] at split
    exact next (u := u) (k := 2 ^ ffFracBits f + mag % 2 ^ ffFracBits f) (by rw [← split]; ring_nf; simp) (.inr (by omega)) (by omega)

theorem top_eq (f : FFmt) : valQ (fdecode f (ffMax f)) = magValue f (ffMax f) := by
  have decoded : fdecode f (ffMax f) = magDecode f false (ffMax f) := fdecode_withSign false le_rfl
  rw [decoded, valQ_magDecode, if_neg (by decide), one_mul]

end Sys2Proof.Rounding
end

section
/-! One rounding of a number to a format (R50 to R52). -/
namespace Sys2Proof.Rounding
open Sys2Proof.Machine Sys2Proof.Safety Sys2Proof.ReduceAndCompare

/-! ### Bounds of what a mode makes of a number -/

/-- A mode makes the integer below or the integer above. -/
theorem roundsTo_adjacent {rm : RMode} {x : ℝ} {z : Int} (h : RoundsTo rm x z) :
    ((z : ℝ) ≤ x ∧ x < z + 1) ∨ (x ≤ z ∧ (z : ℝ) - 1 < x) := by
  have near (h : |x - z| ≤ 1 / 2) : ((z : ℝ) ≤ x ∧ x < z + 1) ∨ (x ≤ z ∧ (z : ℝ) - 1 < x) := by
    rw [abs_le] at h
    rcases le_total (z : ℝ) x with le | ge
    · exact .inl ⟨le, by linarith⟩
    · exact .inr ⟨ge, by linarith⟩
  cases rm with
  | rne => exact near (h.elim le_of_lt fun h => h.1.le)
  | rna => exact near (h.elim le_of_lt fun h => h.1.le)
  | rtz => exact (le_or_gt 0 x).imp h.1 h.2
  | rup => exact .inr h
  | rdn => exact .inl h

theorem roundsTo_ge {rm : RMode} {x : ℝ} {z n : Int} (h : RoundsTo rm x z) (hn : (n : ℝ) ≤ x) : n ≤ z := by
  rcases roundsTo_adjacent h with ⟨-, h⟩ | ⟨h, -⟩
  · exact Int.lt_add_one_iff.1 (by exact_mod_cast lt_of_le_of_lt hn h)
  · exact_mod_cast hn.trans h

theorem roundsTo_le {rm : RMode} {x : ℝ} {z n : Int} (h : RoundsTo rm x z) (hn : x ≤ n) : z ≤ n := by
  rcases roundsTo_adjacent h with ⟨h, -⟩ | ⟨-, h⟩
  · exact_mod_cast h.trans hn
  · have : (z : ℝ) < n + 1 := by linarith
    exact Int.lt_add_one_iff.1 (by exact_mod_cast this)

section
variable {rm : RMode} {neg : Bool} {man n : Nat} {e q : Int} {a : ℝ}

theorem roundAt_ge (h : Stands man e q a) (hn : (n : ℝ) ≤ a / 2 ^ q) : n ≤ (roundAt rm neg man e q).1 := by
  have rounds := (roundAt_spec (rm := rm) neg h).1
  cases neg with
  | false => exact Int.ofNat_le.1 (roundsTo_ge rounds (n := (n : Int)) (by exact_mod_cast hn))
  | true =>
    have := roundsTo_le rounds (n := -(n : Int)) (by rw [signed, if_pos rfl, neg_div]; push_cast; linarith)
    simp only [signedMan, if_true] at this
    omega

theorem roundAt_le (h : Stands man e q a) (hn : a / 2 ^ q ≤ n) : (roundAt rm neg man e q).1 ≤ n := by
  have rounds := (roundAt_spec (rm := rm) neg h).1
  cases neg with
  | false => exact Int.ofNat_le.1 (roundsTo_le rounds (n := (n : Int)) (by exact_mod_cast hn))
  | true =>
    have := roundsTo_ge rounds (n := -(n : Int)) (by rw [signed, if_pos rfl, neg_div]; push_cast; linarith)
    simp only [signedMan, if_true] at this
    omega

end

/-- The power of two below the number that a significand stands for. -/
theorem Stands.bounds {man : Nat} {e q : Int} {a : ℝ} (h : Stands man e q a) (hman : man ≠ 0) (hq : q ≤ man.log2 + e) :
    (2 : ℝ) ^ ((man.log2 : Int) + e) ≤ a ∧ a < (2 : ℝ) ^ ((man.log2 : Int) + e + 1) := by
  have low : 2 ^ man.log2 ≤ man := Nat.log2_self_le hman
  have high : man < 2 ^ (man.log2 + 1) := Nat.lt_log2_self
  have lowR : (2 : ℝ) ^ man.log2 ≤ man := by exact_mod_cast low
  have highR : (man : ℝ) + 1 ≤ 2 ^ (man.log2 + 1) := by exact_mod_cast high
  have pos : (0 : ℝ) < 2 ^ e := by positivity
  rw [show (man.log2 : Int) + e + 1 = ((man.log2 + 1 : Nat) : Int) + e by push_cast; ring, zpow_add₀ (by norm_num), zpow_add₀ (by norm_num),
    zpow_natCast, zpow_natCast]
  rcases h with rfl | ⟨odd, unit, below, above⟩
  · exact ⟨mul_le_mul_of_nonneg_right lowR pos.le, mul_lt_mul_of_pos_right (by linarith) pos⟩
  · refine ⟨?_, above.trans_le (mul_le_mul_of_nonneg_right highR pos.le)⟩
    have even : 2 ^ man.log2 = 2 * 2 ^ (man.log2 - 1) := by rw [← pow_succ', Nat.sub_add_cancel (by omega)]
    have gap : (2 : ℝ) ^ man.log2 ≤ man - 1 := by
      have : 2 ^ man.log2 + 1 ≤ man := by omega
      have : (2 : ℝ) ^ man.log2 + 1 ≤ man := by exact_mod_cast this
      linarith
    exact (mul_le_mul_of_nonneg_right gap pos.le).trans below.le

/-- A positive number has one leading bit. -/
theorem leading_unique {a : ℝ} {p q : Int} (hp : (2 : ℝ) ^ p ≤ a) (hp' : a < (2 : ℝ) ^ (p + 1)) (hq : (2 : ℝ) ^ q ≤ a)
    (hq' : a < (2 : ℝ) ^ (q + 1)) : p = q := by
  have h1 := (zpow_lt_zpow_iff_right₀ (by norm_num : (1 : ℝ) < 2)).1 (hp.trans_lt hq')
  have h2 := (zpow_lt_zpow_iff_right₀ (by norm_num : (1 : ℝ) < 2)).1 (hq.trans_lt hp')
  omega

/-! ### The rounding -/

/-- A number x of a sign that was rounded to the number y of a format, with t its rounding as if no exponent were too small. -/
structure RoundedFinite (f : FFmt) (neg : Bool) (x y t : ℝ) (r : Nat × FpFlags) : Prop where
  finite : isFinite (fdecode f r.1) = true
  value : ((valQ (fdecode f r.1) : ℚ) : ℝ) = y
  sign : signNeg (fdecode f r.1) = neg
  events : r.2 = { uf := r.2.uf, nx := r.2.nx }
  inexact : r.2.nx = true ↔ y ≠ x
  tiny : r.2.uf = true ↔ |t| < (2 : ℝ) ^ (ffQmin f + ffFracBits f) ∧ y ≠ x

theorem abs_signedMan_mul (neg : Bool) (k : Nat) (u : Int) : |((signedMan neg k : Int) : ℝ) * 2 ^ u| = (k : ℝ) * 2 ^ u := by
  have : |((signedMan neg k : Int) : ℝ)| = k := by cases neg <;> simp [signedMan]
  rw [abs_mul, this, abs_of_pos (by positivity : (0 : ℝ) < 2 ^ u)]

/-- The magnitude that the model makes of a count of units of 2^(max q qmin). -/
def unitsMag (f : FFmt) (q : Int) (k : Nat) : Nat := (max q (ffQmin f) - ffQmin f).toNat * 2 ^ ffFracBits f + k

theorem magValue_unitsMag {f : FFmt} {q : Int} {k : Nat} (lead : q ≤ ffQmin f ∨ 2 ^ ffFracBits f ≤ k) (carry : k ≤ 2 ^ (ffFracBits f + 1)) :
    magValue f (unitsMag f q k) = (k : ℚ) * 2 ^ max q (ffQmin f) := by
  rw [unitsMag, magValue_units (lead.imp (fun h => by omega) id) carry]
  congr 2
  omega

theorem roundFinite_eq (f : FFmt) (rm : RMode) (sat neg : Bool) (man : Nat) (e : Int) {q : Int} (hq : q = man.log2 + e - ffFracBits f) :
    roundFinite f rm sat neg man e =
      if ffMax f < unitsMag f q (roundAt rm neg man e (max q (ffQmin f))).1 then (overflowValue f rm sat neg, flagOF)
      else (withSign f neg (unitsMag f q (roundAt rm neg man e (max q (ffQmin f))).1),
        { uf := (decide (q < ffQmin f) && decide ((roundAt rm neg man e q).1 < 2 ^ (ffFracBits f + (ffQmin f - q).toNat))) &&
            !(roundAt rm neg man e (max q (ffQmin f))).2, nx := !(roundAt rm neg man e (max q (ffQmin f))).2 }) := by
  have quant : (if q < ffQmin f then ffQmin f else q) = max q (ffQmin f) := by
    split <;> omega
  subst hq
  rw [← quant, unitsMag, ← quant]
  rfl

/-- The count at an unbounded exponent is below the normal numbers where the number is. -/
theorem tiny_iff {rm : RMode} {neg : Bool} {f : FFmt} {man : Nat} {e q : Int} {a : ℝ} (h : Stands man e q a)
    (low : (2 : ℝ) ^ (q + ffFracBits f) ≤ a) :
    (q < ffQmin f ∧ (roundAt rm neg man e q).1 < 2 ^ (ffFracBits f + (ffQmin f - q).toNat)) ↔
      ((roundAt rm neg man e q).1 : ℝ) * 2 ^ q < (2 : ℝ) ^ (ffQmin f + ffFracBits f) := by
  have pos : (0 : ℝ) < 2 ^ q := by positivity
  by_cases sub : q < ffQmin f
  · have split : (2 : ℝ) ^ (ffQmin f + ffFracBits f) = ((2 ^ (ffFracBits f + (ffQmin f - q).toNat) : Nat) : ℝ) * 2 ^ q := by
      push_cast
      rw [← zpow_natCast, ← zpow_add₀ (by norm_num)]
      congr 1
      push_cast
      omega
    rw [split, mul_lt_mul_iff_left₀ pos, Nat.cast_lt]
    exact ⟨fun h => h.2, fun h => ⟨sub, h⟩⟩
  · refine ⟨fun h => absurd h.1 sub, fun h' => absurd h' (not_lt.2 ?_)⟩
    have count : 2 ^ ffFracBits f ≤ (roundAt rm neg man e q).1 := roundAt_ge h (by
      rw [le_div_iff₀ pos]
      rw [zpow_add₀ (by norm_num), zpow_natCast, mul_comm] at low
      exact_mod_cast low)
    calc (2 : ℝ) ^ (ffQmin f + ffFracBits f) ≤ 2 ^ (q + ffFracBits f) := zpow_le_zpow_right₀ (by norm_num) (by omega)
      _ = (2 ^ ffFracBits f : Nat) * 2 ^ q := by rw [zpow_add₀ (by norm_num), zpow_natCast, mul_comm]; push_cast; rfl
      _ ≤ _ := mul_le_mul_of_nonneg_right (by exact_mod_cast count) pos.le

/-- One rounding of a number that is not zero. -/
theorem roundFinite_spec {f : FFmt} {rm : RMode} (sat : Bool) {neg : Bool} {man : Nat} {e q z t : Int} {a : ℝ} (hman : man ≠ 0)
    (h : Stands man e (man.log2 + e - ffFracBits f) a) (low : (2 : ℝ) ^ (q + ffFracBits f) ≤ a) (high : a < (2 : ℝ) ^ (q + ffFracBits f + 1))
    (hz : RoundsTo rm (signed neg a / 2 ^ max q (ffQmin f)) z) (ht : RoundsTo rm (signed neg a / 2 ^ q) t) :
    let y : ℝ := z * 2 ^ max q (ffQmin f)
    let r := roundFinite f rm sat neg man e
    (|y| ≤ ((valQ (fdecode f (ffMax f)) : ℚ) : ℝ) → RoundedFinite f neg (signed neg a) y (t * 2 ^ q) r) ∧
      (((valQ (fdecode f (ffMax f)) : ℚ) : ℝ) < |y| → r = (overflowValue f rm sat neg, flagOF)) := by
  have bounds := h.bounds hman (by omega)
  have hq : q = man.log2 + e - ffFracBits f := by
    have := leading_unique low high bounds.1 bounds.2
    omega
  rw [← hq] at h
  have hu : Stands man e (max q (ffQmin f)) a := h.mono (le_max_left _ _)
  obtain ⟨rounds, exact_⟩ := roundAt_spec (rm := rm) neg hu
  obtain rfl := roundsTo_unique hz rounds
  obtain rfl := roundsTo_unique ht (roundAt_spec (rm := rm) neg h).1
  have carry : (roundAt rm neg man e (max q (ffQmin f))).1 ≤ 2 ^ (ffFracBits f + 1) := roundAt_le hu (by
    rw [div_le_iff₀ (by positivity)]
    refine (high.le.trans (zpow_le_zpow_right₀ (by norm_num) (show _ ≤ ((ffFracBits f + 1 : Nat) : Int) + max q (ffQmin f) by push_cast; omega))).trans ?_
    rw [zpow_add₀ (by norm_num), zpow_natCast]
    push_cast
    exact le_rfl)
  have lead : q ≤ ffQmin f ∨ 2 ^ ffFracBits f ≤ (roundAt rm neg man e (max q (ffQmin f))).1 := by
    refine (le_or_gt q (ffQmin f)).imp id fun norm => roundAt_ge hu ?_
    rw [le_div_iff₀ (by positivity), max_eq_left norm.le]
    rw [zpow_add₀ (by norm_num), zpow_natCast, mul_comm] at low
    exact_mod_cast low
  have value := magValue_unitsMag (f := f) lead carry
  have tiny := tiny_iff (rm := rm) (neg := neg) (f := f) h low
  rw [roundFinite_eq f rm sat neg man e hq]
  intro y r
  have size : |y| = ((magValue f (unitsMag f q (roundAt rm neg man e (max q (ffQmin f))).1) : ℚ) : ℝ) := by
    rw [value, show |y| = _ from abs_signedMan_mul ..]
    push_cast
    rfl
  have same : y = signed neg a ↔ (roundAt rm neg man e (max q (ffQmin f))).2 = true := by
    rw [exact_, show y = signed neg _ * _ from congrArg (· * _) (signed_signedMan ..), ← signed_mul, signed_inj]
  have order : |y| ≤ ((valQ (fdecode f (ffMax f)) : ℚ) : ℝ) ↔ ¬ ffMax f < unitsMag f q (roundAt rm neg man e (max q (ffQmin f))).1 := by
    rw [size, top_eq, Rat.cast_le, (magValue_strictMono f).le_iff_le, not_lt]
  refine ⟨fun fits => ?_, fun beyond => if_pos (not_not.1 fun h => absurd (order.2 h) (not_le.2 beyond))⟩
  have small := order.1 fits
  have result : r = _ := if_neg small
  have decoded := fdecode_withSign neg (not_lt.1 small)
  rw [result]
  refine ⟨?_, ?_, ?_, rfl, ?_, ?_⟩
  · exact decoded ▸ isFinite_magDecode ..
  · rw [decoded, valQ_magDecode, value]
    cases neg <;> simp [y, signedMan]
  · exact decoded ▸ signNeg_magDecode ..
  · simp [same]
  · rw [abs_signedMan_mul, ← tiny, ne_eq, same]
    simp

end Sys2Proof.Rounding
end

section
/-! The roundings of finite values in the words of claims: to a format, to an integer and to SPQ (R50 to R57). -/
namespace Sys2Proof.Rounding
open Sys2Proof.Machine Sys2Proof.Safety Sys2Proof.ReduceAndCompare

/-! ### Exact values -/

theorem valQ_cast (n : Bool) (m : Nat) (e : Int) : ((valQ (.fin n m e) : ℚ) : ℝ) = signed n ((m : ℝ) * 2 ^ e) := by
  cases n <;> simp [valQ, signed]

theorem valQ_fin_eq_zero {n : Bool} {m : Nat} {e : Int} : valQ (.fin n m e) = 0 ↔ m = 0 := by
  cases n <;> simp [valQ, zpow_ne_zero]

theorem abs_signed {a : ℝ} (n : Bool) (h : 0 ≤ a) : |signed n a| = a := by
  cases n <;> simp [signed, abs_of_nonneg h]

theorem Stands.pos {man : Nat} {e q : Int} {a : ℝ} (h : Stands man e q a) (hman : man ≠ 0) : 0 < a := by
  rcases h with rfl | ⟨-, -, low, -⟩
  · have : (0 : ℝ) < man := by exact_mod_cast Nat.pos_of_ne_zero hman
    positivity
  · have : (1 : ℝ) ≤ man := by exact_mod_cast Nat.pos_of_ne_zero hman
    exact lt_of_le_of_lt (mul_nonneg (by linarith) (by positivity)) low

/-- Only a zero significand stands for zero. -/
theorem Stands.eq_zero_iff {n : Bool} {man : Nat} {e q : Int} {x : ℚ} {a : ℝ} (h : Stands man e q a) (hx : (x : ℝ) = signed n a) :
    x = 0 ↔ man = 0 := by
  rw [← Rat.cast_inj (α := ℝ), hx, Rat.cast_zero]
  refine ⟨fun hx => ?_, fun hman => ?_⟩
  · by_contra hman
    have pos := h.pos hman
    cases n <;> simp only [signed, if_true, Bool.false_eq_true, if_false] at hx <;> linarith
  · rcases h with rfl | ⟨odd, -⟩
    · cases n <;> simp [signed, hman]
    · omega

/-- What a mode makes of a number that a quotient of rationals is. -/
theorem roundsTo_quotient (rm : RMode) (x : ℚ) (u : Int) : RoundsTo rm ((x : ℝ) / 2 ^ u) (roundQ rm (x / 2 ^ u)) := by
  have := roundQ_roundsTo rm (x / 2 ^ u)
  push_cast at this
  exact this

/-- What the model counts of an exact value is what the mode makes of it. -/
theorem roundQ_valQ (rm : RMode) (n : Bool) (m : Nat) (e q : Int) :
    roundQ rm (valQ (.fin n m e) / 2 ^ q) = signedMan n (roundAt rm n m e q).1 ∧
      ((roundAt rm n m e q).2 = true ↔ (roundQ rm (valQ (.fin n m e) / 2 ^ q) : ℚ) * 2 ^ q = valQ (.fin n m e)) := by
  have stands : Stands m e q ((m : ℝ) * 2 ^ e) := .inl rfl
  obtain ⟨rounds, exact_⟩ := roundAt_spec (rm := rm) n stands
  rw [← valQ_cast] at rounds
  have same := roundsTo_unique (roundsTo_quotient rm (valQ (.fin n m e)) q) rounds
  refine ⟨same, ?_⟩
  rw [same, exact_, ← Rat.cast_inj (α := ℝ), valQ_cast]
  push_cast
  rw [signed_signedMan, ← signed_mul, signed_inj]

/-! ### To a float or narrow-float format -/

theorem overflowValue_eq (f : FFmt) (rm : RMode) (sat n : Bool) : overflowValue f rm sat n =
    if sat || !ffHasNaN f || !(rm = .rne || rm = .rna || rm = .rup && !n || rm = .rdn && n) then withSign f n (ffMax f)
    else if ffHasInf f then withSign f n (ffInf f) else ffNaN f := by
  cases f <;> cases rm <;> cases sat <;> cases n <;> rfl

/-- What one rounding of a rational number gives, where a significand stands for it. -/
theorem roundedQ_of_stands (f : FFmt) (rm : RMode) (sat : Bool) {n : Bool} {m : Nat} {e : Int} {x : ℚ} {a : ℝ} (hx : (x : ℝ) = signed n a)
    (h : Stands m e (m.log2 + e - ffFracBits f) a) : RoundedQ f rm sat x n (encodeF f rm sat (.fin n m e)) := by
  have zero := h.eq_zero_iff hx
  refine ⟨fun h0 => if_pos (zero.1 h0), ?_⟩
  intro q low high u y tiny away
  have hm : m ≠ 0 := fun h0 => by
    rw [zero.2 h0, abs_zero] at low
    exact absurd low (not_le.2 (by positivity))
  have rounding : encodeF f rm sat (.fin n m e) = roundFinite f rm sat n m e := if_neg hm
  have lowR := (Rat.cast_le (K := ℝ)).2 low
  have highR := (Rat.cast_lt (K := ℝ)).2 high
  rw [Rat.cast_abs, hx, abs_signed n (h.pos hm).le] at lowR highR
  push_cast at lowR highR
  have hz := roundsTo_quotient rm x u
  have ht := roundsTo_quotient rm x q
  rw [hx] at hz ht
  obtain ⟨fits, beyond⟩ := roundFinite_spec sat hm h lowR highR hz ht
  have yR : ((roundQ rm (x / 2 ^ u) : Int) : ℝ) * 2 ^ u = ((y : ℚ) : ℝ) := by
    show _ = (((roundQ rm (x / 2 ^ u) : ℚ) * 2 ^ u : ℚ) : ℝ)
    push_cast; rfl
  have tR : ((roundQ rm (x / 2 ^ q) : Int) : ℝ) * 2 ^ q = (((roundQ rm (x / 2 ^ q) : ℚ) * 2 ^ q : ℚ) : ℝ) := by
    push_cast; rfl
  rw [rounding]
  refine ⟨fun le => ?_, fun lt => ?_⟩
  · have le' := (Rat.cast_le (K := ℝ)).2 le
    rw [Rat.cast_abs, ← yR] at le'
    obtain ⟨finite, value, sign, events, inexact, small⟩ := fits le'
    rw [← hx] at inexact small
    refine ⟨finite, Rat.cast_injective (value.trans yR), sign, events.trans ?_⟩
    have nx : (roundFinite f rm sat n m e).2.nx = decide (y ≠ x) := by
      rw [Bool.eq_iff_iff, inexact, decide_eq_true_iff, show _ = ((y : ℚ) : ℝ) from yR, ne_eq, Rat.cast_inj]
    have uf : (roundFinite f rm sat n m e).2.uf = (tiny && decide (y ≠ x)) := by
      rw [Bool.eq_iff_iff, small, Bool.and_eq_true, decide_eq_true_iff, decide_eq_true_iff, show _ = ((y : ℚ) : ℝ) from yR, ne_eq,
        Rat.cast_inj, tR, ← Rat.cast_abs, ← Rat.cast_lt (K := ℝ)]
      push_cast
      rfl
    rw [nx, uf]
  · have lt' := (Rat.cast_lt (K := ℝ)).2 lt
    rw [Rat.cast_abs, ← yR] at lt'
    rw [beyond lt', overflowValue_eq]
    exact ⟨rfl, rfl⟩

theorem roundedQ_encodeF (f : FFmt) (rm : RMode) (sat n : Bool) (m : Nat) (e : Int) :
    RoundedQ f rm sat (valQ (.fin n m e)) n (encodeF f rm sat (.fin n m e)) :=
  roundedQ_of_stands f rm sat (valQ_cast n m e) (.inl rfl)

theorem roundedTo_encodeF (f : FFmt) (rm : RMode) (sat : Bool) (v : FVal) : RoundedTo f rm sat v (encodeF f rm sat v) := by
  refine ⟨fun s hs => ?_, fun n hn => ?_, fun finite => ?_⟩
  · subst hs
    cases s <;> rfl
  · subst hn
    rfl
  · cases v with
    | fin n m e => exact roundedQ_encodeF f rm sat n m e
    | _ => cases finite

/-! ### A number that is no zero, in a format with infinities -/

theorem signed_neg_iff {n : Bool} {a : ℝ} (h : 0 < a) : n = true ↔ signed n a < 0 := by
  cases n <;> simp [signed, h, h.le]

/-- One rounding of a number that a significand stands for. -/
theorem roundedNumber_of_stands {f : FFmt} (hinf : ffHasInf f = true) (rm : RMode) {n : Bool} {man : Nat} {e : Int} {a : ℝ} (hman : man ≠ 0)
    (h : Stands man e (man.log2 + e - ffFracBits f) a) : RoundedNumber f rm (signed n a) (roundFinite f rm false n man e) := by
  have pos : 0 < a := h.pos hman
  intro q z t low high hz ht y
  rw [abs_signed n pos.le] at low high
  obtain ⟨fits, beyond⟩ := roundFinite_spec false hman h low high hz ht
  refine ⟨fun le => ?_, fun lt => ?_⟩
  · obtain ⟨finite, value, sign, events, inexact, small⟩ := fits le
    refine ⟨finite, value, by rw [sign, signed_neg_iff pos], ?_, ?_, ?_, inexact, small⟩ <;> rw [events]
  · rw [beyond lt]
    refine ⟨rfl, fun n' hn' => ?_⟩
    obtain rfl : n' = n := Bool.eq_iff_iff.2 (hn'.trans (signed_neg_iff pos).symm)
    have positive : 0 < signed n' a ↔ n' = false := by cases n' <;> simp [signed, pos, pos.le]
    intro away
    have hnan : ffHasNaN f = true := by revert hinf; cases f <;> decide
    have toInf : (rm = .rne || rm = .rna || rm = .rup && !n' || rm = .rdn && n') = true ↔ away := by
      simp only [away, positive, ← signed_neg_iff pos]
      simp [or_assoc]
    refine ⟨fun h => ?_, fun h => ?_⟩
    · rw [overflowValue_eq, toInf.2 h, hnan, hinf]
      rfl
    · rw [← toInf, Bool.not_eq_true] at h
      rw [overflowValue_eq, h, hnan]
      rfl

/-- What an exact number gives, where a significand stands for it. -/
theorem delivered_of_stands {f : FFmt} (hinf : ffHasInf f = true) (rm : RMode) {n : Bool} {man : Nat} {e : Int} {x : ℚ} {a : ℝ}
    (hx : (x : ℝ) = signed n a) (h : Stands man e (man.log2 + e - ffFracBits f) a) :
    Delivered f rm x n (encodeF f rm false (.fin n man e)) := by
  have zero := h.eq_zero_iff hx
  refine ⟨fun h0 => if_pos (zero.1 h0), fun h0 => ?_⟩
  have hman : man ≠ 0 := fun h => h0 (zero.2 h)
  have rounding : encodeF f rm false (.fin n man e) = roundFinite f rm false n man e := if_neg hman
  rw [hx, rounding]
  exact roundedNumber_of_stands hinf rm hman h

theorem delivered_valQ {f : FFmt} (hinf : ffHasInf f = true) (rm : RMode) (n : Bool) (m : Nat) (e : Int) :
    Delivered f rm (valQ (.fin n m e)) n (encodeF f rm false (.fin n m e)) :=
  delivered_of_stands hinf rm (valQ_cast n m e) (.inl rfl)

/-! ### To an integer and to SPQ -/

theorem ofInt_zero (w : Nat) : ofInt w 0 = 0 := by simp [ofInt]

theorem roundedToInt_encodeInt (w : Nat) (lo hi : Int) (rm : RMode) (v : FVal) :
    RoundedToInt w lo hi rm v (ofInt w (encodeInt lo hi rm v).1, (encodeInt lo hi rm v).2) := by
  refine ⟨fun s hs => ?_, fun n hn => ?_, fun finite => ?_⟩
  · subst hs
    exact Prod.ext (ofInt_zero w) rfl
  · subst hn
    rfl
  · cases v with
    | fin n m e =>
      obtain ⟨rounds, exact_⟩ := roundQ_valQ rm n m e 0
      rw [zpow_zero, div_one] at rounds exact_
      rw [mul_one] at exact_
      have flag : (!(roundAt rm n m e 0).2) = decide ((roundQ rm (valQ (.fin n m e)) : ℚ) ≠ valQ (.fin n m e)) := by
        rw [decide_not, Bool.not_inj_iff, Bool.eq_iff_iff, decide_eq_true_iff, exact_]
      intro z
      have counted : roundInt rm n m e = (z, (roundAt rm n m e 0).2) := Prod.ext rounds.symm rfl
      simp only [encodeInt, counted, flag]
      split_ifs <;> rfl
    | _ => cases finite

end Sys2Proof.Rounding
end

section
/-! Rounding to SPQ (R55 to R57). -/
namespace Sys2Proof.Rounding
open Sys2Proof.Machine Sys2Proof.Safety Sys2Proof.ReduceAndCompare

/-- The value of an encoding with a scale below 4095. -/
theorem spqDecode_fields {s fr : Nat} (hs : s < 4095) (hf : fr < 2 ^ 20) :
    spqDecode (s * 2 ^ 20 + fr) = .fin false (2 ^ 20 + fr) (11 - (s : Int)) := by
  have scale : bitsOf (s * 2 ^ 20 + fr) 31 20 = s := by
    rw [bitsOf, Nat.shiftRight_eq_div_pow]
    omega
  have fraction : (s * 2 ^ 20 + fr) % 2 ^ 20 = fr := by omega
  rw [spqDecode, scale, fraction]
  exact if_neg hs.ne

theorem spqMax_value : valQ (spqDecode spqMax) = (2 ^ 21 - 1) * 2 ^ (11 : Int) := by
  have fields := spqDecode_fields (s := 0) (fr := 2 ^ 20 - 1) (by decide) (by decide)
  rw [show spqMax = 0 * 2 ^ 20 + (2 ^ 20 - 1) from rfl, fields, valQ]
  norm_num

/-- The significand and the exponent once a carry out of 21 bits is taken up. -/
theorem spq_carry {k : Nat} {q : Int} (low : 2 ^ 20 ≤ k) (high : k ≤ 2 ^ 21) :
    let m := if k = 2 ^ 21 then 2 ^ 20 else k
    let p := if k = 2 ^ 21 then q + 1 else q
    2 ^ 20 ≤ m ∧ m < 2 ^ 21 ∧ q ≤ p ∧ (m : ℚ) * 2 ^ p = (k : ℚ) * 2 ^ q := by
  intro m p
  by_cases carry : k = 2 ^ 21
  · have hm : m = 2 ^ 20 := if_pos carry
    have hp : p = q + 1 := if_pos carry
    refine ⟨by omega, by omega, by omega, ?_⟩
    rw [hm, hp, carry, zpow_add_one₀ (by norm_num)]
    push_cast
    ring
  · have hm : m = k := if_neg carry
    have hp : p = q := if_neg carry
    exact ⟨by omega, by omega, by omega, by rw [hm, hp]⟩

/-- Which numbers of 21 significant bits are beyond the greatest value. -/
theorem spq_beyond_iff {m : Nat} {p : Int} (low : 2 ^ 20 ≤ m) (high : m < 2 ^ 21) :
    ((2 : ℚ) ^ 21 - 1) * 2 ^ (11 : Int) < (m : ℚ) * 2 ^ p ↔ 11 < p := by
  have lowQ : (2 : ℚ) ^ 20 ≤ m := by exact_mod_cast low
  have highQ : (m : ℚ) ≤ 2 ^ 21 - 1 := by
    have : (m : ℚ) + 1 ≤ 2 ^ 21 := by exact_mod_cast high
    linarith
  have pos : (0 : ℚ) < 2 ^ p := by positivity
  refine ⟨fun h => ?_, fun h => ?_⟩
  · by_contra hp
    have := zpow_le_zpow_right₀ (by norm_num : (1 : ℚ) ≤ 2) (not_lt.1 hp)
    exact absurd h (not_lt.2 (mul_le_mul highQ this pos.le (by norm_num)))
  · have scale := zpow_le_zpow_right₀ (by norm_num : (1 : ℚ) ≤ 2) (show (12 : Int) ≤ p by omega)
    calc ((2 : ℚ) ^ 21 - 1) * 2 ^ (11 : Int) < 2 ^ 20 * 2 ^ (12 : Int) := by norm_num
      _ ≤ (m : ℚ) * 2 ^ p := mul_le_mul lowQ scale (by positivity) (by positivity)

/-- One rounding to 21 significant bits: too great a number gives the greatest value. -/
theorem spqRound_spec {rm : RMode} {m : Nat} {e q : Int} (hq : -4083 ≤ q) (low : (2 : ℚ) ^ (q + 20) ≤ valQ (.fin false m e))
    (high : valQ (.fin false m e) < (2 : ℚ) ^ (q + 21)) :
    let y : ℚ := roundQ rm (valQ (.fin false m e) / 2 ^ q) * 2 ^ q
    let r := spqRound rm m e
    (y ≤ valQ (spqDecode spqMax) → valQ (spqDecode r.bits) = y ∧ r.overflow = false ∧ r.underflow = false ∧
        r.inexact = decide (y ≠ valQ (.fin false m e))) ∧
      (valQ (spqDecode spqMax) < y → r = ⟨spqMax, true, false, true⟩) := by
  have value : valQ (.fin false m e) = (m : ℚ) * 2 ^ e := by simp [valQ]
  have hm : m ≠ 0 := fun zero => by
    rw [value, zero, Nat.cast_zero, zero_mul] at low
    exact absurd low (not_le.2 (by positivity))
  have stands (u : Int) : Stands m e u ((m : ℝ) * 2 ^ e) := .inl rfl
  have lowR := (Rat.cast_le (K := ℝ)).2 (value ▸ low)
  have highR := (Rat.cast_lt (K := ℝ)).2 (value ▸ high)
  push_cast at lowR highR
  have leading : q = m.log2 + e - 20 := by
    obtain ⟨h1, h2⟩ := (stands _).bounds hm le_rfl
    have := leading_unique lowR (by rwa [show q + 20 + 1 = q + 21 by ring]) h1 h2
    omega
  have countLow : 2 ^ 20 ≤ (roundAt rm false m e q).1 := roundAt_ge (stands q) (by
    rw [le_div_iff₀ (by positivity)]
    rw [zpow_add₀ (by norm_num), mul_comm] at lowR
    exact_mod_cast lowR)
  have countHigh : (roundAt rm false m e q).1 ≤ 2 ^ 21 := roundAt_le (stands q) (by
    rw [div_le_iff₀ (by positivity)]
    rw [zpow_add₀ (by norm_num), mul_comm ((2 : ℝ) ^ q)] at highR
    exact_mod_cast highR.le)
  obtain ⟨count, exact_⟩ := roundQ_valQ rm false m e q
  have carry := spq_carry (q := q) countLow countHigh
  intro y r
  have hy : y = ((roundAt rm false m e q).1 : ℚ) * 2 ^ q := by
    show (roundQ _ _ : ℚ) * 2 ^ q = _
    rw [count]
    simp [signedMan]
  have shape : r = if (11 - if (roundAt rm false m e q).1 = 2 ^ 21 then q + 1 else q) < 0 then ⟨spqMax, true, false, true⟩
      else if 4094 < (11 - if (roundAt rm false m e q).1 = 2 ^ 21 then q + 1 else q) then ⟨spqZero, false, true, true⟩
      else ⟨(11 - if (roundAt rm false m e q).1 = 2 ^ 21 then q + 1 else q).toNat * 2 ^ 20 +
        ((if (roundAt rm false m e q).1 = 2 ^ 21 then 2 ^ 20 else (roundAt rm false m e q).1) - 2 ^ 20), false, false, !(roundAt rm false m e q).2⟩ := by
    show spqRound rm m e = _
    rw [spqRound, if_neg hm, leading]
  dsimp only at carry
  generalize (if (roundAt rm false m e q).1 = 2 ^ 21 then 2 ^ 20 else (roundAt rm false m e q).1) = k at *
  generalize (if (roundAt rm false m e q).1 = 2 ^ 21 then q + 1 else q) = p at *
  obtain ⟨kLow, kHigh, hp, same⟩ := carry
  have beyond := spq_beyond_iff (p := p) kLow kHigh
  rw [same, ← hy, ← spqMax_value] at beyond
  refine ⟨fun fits => ?_, fun lt => ?_⟩
  · have small : p ≤ 11 := not_lt.1 fun h => absurd (beyond.2 h) (not_lt.2 fits)
    rw [if_neg (by omega), if_neg (by omega)] at shape
    rw [shape]
    refine ⟨?_, rfl, rfl, ?_⟩
    · rw [spqDecode_fields (by omega) (by omega), hy, ← same, valQ, show 2 ^ 20 + (k - 2 ^ 20) = k by omega,
        show 11 - (((11 - p).toNat : Nat) : Int) = p by omega]
      simp
    · rw [decide_not, Bool.not_inj_iff, Bool.eq_iff_iff, decide_eq_true_iff, exact_]
  · rw [shape, if_pos (by have := beyond.1 lt; omega)]

theorem roundedToSpq_encodeSpq (rm : RMode) (v : FVal) : RoundedToSpq rm v (encodeSpq rm v) := by
  refine ⟨fun s hs => ?_, fun n hn => ?_, fun n m e hv => ⟨fun zero => ?_, fun hm hn => ?_, fun q hq low high => ?_⟩⟩
  · subst hs
    cases s <;> rfl
  · subst hn
    rfl
  · subst hv zero
    rfl
  · subst hv hn
    simp only [encodeSpq, if_neg hm, if_true]
    rfl
  · subst hv
    have hm : m ≠ 0 := fun zero => by
      rw [valQ_fin_eq_zero.2 zero] at low
      exact absurd low (not_le.2 (by positivity))
    obtain rfl : n = false := by
      by_contra hn
      have : valQ (.fin n m e) ≤ 0 := by
        rw [Bool.eq_true_of_not_eq_false hn, valQ]
        simp only [if_true, neg_mul, one_mul, neg_nonpos]
        positivity
      exact absurd low (not_le.2 (this.trans_lt (by positivity)))
    obtain ⟨fits, beyond⟩ := spqRound_spec (rm := rm) hq low high
    have shape : encodeSpq rm (.fin false m e) = ((spqRound rm m e).bits,
        { of := (spqRound rm m e).overflow, uf := (spqRound rm m e).underflow, nx := (spqRound rm m e).inexact }) := if_neg hm
    rw [shape]
    refine ⟨fun le => ?_, fun lt => ?_⟩
    · obtain ⟨value, noOverflow, noUnderflow, inexact⟩ := fits le
      exact ⟨value, by rw [noOverflow, noUnderflow, inexact]⟩
    · rw [beyond lt]
      rfl

end Sys2Proof.Rounding
end

section
/-! O22: the conversions element by element (R65), the narrowing shifts (R68), and VTCHK (R67). -/
namespace Sys2Proof.Conversions
open Sys2Proof.Machine Sys2Proof.Safety Sys2Proof.LaneLaws Sys2Proof.LaneIntegers Sys2Proof.Reductions Sys2Proof.Rounding

/-! ### Registers -/

/-- A lane of a list packed under a tag. -/
theorem lane_pack_range {w n j : Nat} (f : Nat → Nat × FpFlags) (hj : j < n) :
    lane w (packLanes w (((List.range n).map f).map (·.1))) j = (f j).1 % 2 ^ w := by
  rw [lane_packLanes]
  simp [hj]

theorem lane_mod_self (w x i : Nat) : lane w x i % 2 ^ w = lane w x i := Nat.mod_eq_of_lt (lane_lt w x i)

/-- Which source element a destination element takes (R65). -/
def sourceOf (high : Bool) (ns nd j : Nat) : Option Nat :=
  let lo := if high = true ∧ ns < nd then ns else 0
  if ns ≤ nd then (if lo ≤ j ∧ j < lo + ns then some (j - lo) else none) else some (j + if high then nd else 0)

theorem cvtSource_eq (high : Bool) (ns nd j : Nat) : cvtSource high ns nd j =
    match sourceOf high ns nd j with
    | some i => some (some i)
    | none => if high then none else some none := by
  have start : (if high && decide (ns < nd) then ns else 0) = if high = true ∧ ns < nd then ns else 0 := by simp
  unfold cvtSource sourceOf
  dsimp only
  rw [start]
  by_cases narrow : ns ≤ nd
  · rw [if_pos narrow, if_pos narrow]
    by_cases taken : (if high = true ∧ ns < nd then ns else 0) ≤ j ∧ j < (if high = true ∧ ns < nd then ns else 0) + ns
    · rw [if_pos taken, if_pos taken]
    · rw [if_neg taken, if_neg taken]
      cases high with
      | true => rfl
      | false =>
        have beyond : ns ≤ j := by simpa using taken
        simp [beyond]
  · rw [if_neg narrow, if_neg narrow]

section
variable {cb : Nat → Nat → Nat} {high : Bool} {src dst : Tag} {rm : RMode} {sat : Bool} {mask x old j : Nat}

/-- One destination element of VCVT and VCVTH. -/
def cvtLane (cb : Nat → Nat → Nat) (high : Bool) (src dst : Tag) (rm : RMode) (sat : Bool) (mask x old j : Nat) : Nat × FpFlags :=
  match sourceOf high (tagLanes src) (tagLanes dst) j with
  | some i => if mask.testBit j then cvtElem cb src dst rm sat (lane (tagLane src) x i) else (lane (tagLane dst) old j, noFlags)
  | none => (if high then lane (tagLane dst) old j else 0, noFlags)

theorem cvtLanes_eq : cvtLanes cb high src dst rm sat mask x old =
    (packLanes (tagLane dst) (((List.range (tagLanes dst)).map (cvtLane cb high src dst rm sat mask x old)).map (·.1)),
      flagsAll (((List.range (tagLanes dst)).map (cvtLane cb high src dst rm sat mask x old)).map (·.2))) := by
  have lanes : (List.range (tagLanes dst)).map (fun j =>
      match cvtSource high (tagLanes src) (tagLanes dst) j with
      | some (some i) => if mask.testBit j then cvtElem cb src dst rm sat (lane (tagLane src) x i) else (lane (tagLane dst) old j, noFlags)
      | some none => (0, noFlags)
      | none => (lane (tagLane dst) old j, noFlags)) = (List.range (tagLanes dst)).map (cvtLane cb high src dst rm sat mask x old) := by
    refine List.map_congr_left fun j _ => ?_
    rw [cvtSource_eq, cvtLane]
    cases sourceOf high (tagLanes src) (tagLanes dst) j with
    | some i => rfl
    | none => cases high <;> rfl
  rw [← lanes]
  rfl

theorem lane_cvtLanes (hj : j < tagLanes dst) : lane (tagLane dst) (cvtLanes cb high src dst rm sat mask x old).1 j =
    match sourceOf high (tagLanes src) (tagLanes dst) j with
    | some i => if mask.testBit j then (cvtElem cb src dst rm sat (lane (tagLane src) x i)).1 % 2 ^ tagLane dst else lane (tagLane dst) old j
    | none => if high then lane (tagLane dst) old j else 0 := by
  rw [cvtLanes_eq, lane_pack_range _ hj, cvtLane]
  cases sourceOf high (tagLanes src) (tagLanes dst) j with
  | some i =>
    dsimp only
    split
    · rfl
    · exact lane_mod_self ..
  | none =>
    dsimp only
    split
    · exact lane_mod_self ..
    · exact Nat.zero_mod _

theorem flags_cvtLanes : (cvtLanes cb high src dst rm sat mask x old).2 = flagsAll ((List.range (tagLanes dst)).map fun j =>
    match sourceOf high (tagLanes src) (tagLanes dst) j with
    | some i => if mask.testBit j then (cvtElem cb src dst rm sat (lane (tagLane src) x i)).2 else noFlags
    | none => noFlags) := by
  rw [cvtLanes_eq]
  refine congrArg flagsAll ?_
  rw [List.map_map]
  refine List.map_congr_left fun j _ => ?_
  rw [Function.comp, cvtLane]
  cases sourceOf high (tagLanes src) (tagLanes dst) j with
  | some i =>
    dsimp only
    split <;> rfl
  | none => rfl

/-! ### One element -/

theorem clampInt_eq {lo hi : Int} (h : lo ≤ hi) (z : Int) : clampInt lo hi z = clampZ lo hi z := by
  unfold clampInt clampZ
  split_ifs with below above
  · rw [max_eq_left ((min_le_right hi z).trans below.le)]
  · rw [min_eq_left above.le, max_eq_right h]
  · rw [min_eq_right (not_lt.1 above), max_eq_right (not_lt.1 below)]

theorem range_le {t : Tag} {w : Nat} {sg : Bool} (h : tagClass t = .int w sg) : intLo w sg ≤ intHi w sg :=
  have range := laneInt_range (int_width_pos h) sg 0
  range.1.trans range.2

theorem ofIntVal_value (z : Int) : valQ (ofIntVal z) = z := by
  rw [ofIntVal, valQ, zpow_zero, mul_one]
  by_cases neg : z < 0
  · rw [decide_eq_true neg, if_pos rfl, neg_one_mul, ← Int.cast_natCast, Int.ofNat_natAbs_of_nonpos neg.le]
    push_cast
    ring
  · rw [decide_eq_false neg, if_neg (by decide), one_mul, ← Int.cast_natCast, Int.natAbs_of_nonneg (not_lt.1 neg)]

variable {x : Nat}

theorem cvtElem_int {n : Nat} {sg : Bool} (h : tagClass src = .int n sg) :
    cvtElem cb src dst rm sat x = convert src dst rm sat x (.int (laneInt n sg x)) := by
  have input : cvtInput cb src x = (src, x) := by rw [cvtInput, h]
  have value : elemVal cb src x = .int (laneInt n sg x) := by rw [elemVal, h]
  rw [cvtElem, input, value]

theorem cvtElem_int_int {n w : Nat} {sg sd : Bool} (hs : tagClass src = .int n sg) (hd : tagClass dst = .int w sd) :
    cvtElem cb src dst rm sat x =
      (ofInt w (if sat then clampZ (intLo w sd) (intHi w sd) (laneInt n sg x) else laneInt n sg x), noFlags) := by
  rw [cvtElem_int hs, ← clampInt_eq (range_le hd)]
  unfold convert
  rw [hd]
  cases sat <;> rfl

theorem cvtElem_int_flt {n : Nat} {sg : Bool} {f : FFmt} (hs : tagClass src = .int n sg) (hd : tagClass dst = .flt f ∨ tagClass dst = .narrow f) :
    cvtElem cb src dst rm sat x = encodeF f rm sat (ofIntVal (laneInt n sg x)) := by
  rw [cvtElem_int hs]
  unfold convert
  rcases hd with hd | hd <;> rw [hd]

theorem cvtElem_int_spq {n : Nat} {sg : Bool} (hs : tagClass src = .int n sg) (hd : tagClass dst = .spq) :
    cvtElem cb src dst rm sat x = encodeSpq rm (ofIntVal (laneInt n sg x)) := by
  rw [cvtElem_int hs]
  unfold convert
  rw [hd]

/-- What a value gives whose bits a format holds already. -/
def ownValue (f : FFmt) (bits : Nat) : FVal → Nat × FpFlags
  | .nan s => (ffNaN f, if s then flagNV else noFlags)
  | _ => (bits % 2 ^ ffWidth f, noFlags)

section
variable {v : FVal} (hv : elemVal cb src x = .real v)
include hv

theorem cvtElem_real_int {w : Nat} {sd : Bool} (hd : tagClass dst = .int w sd) : cvtElem cb src dst rm sat x =
    (ofInt w (encodeInt (intLo w sd) (intHi w sd) rm v).1, (encodeInt (intLo w sd) (intHi w sd) rm v).2) := by
  rw [cvtElem, hv]
  unfold convert
  rw [hd]

theorem cvtElem_real_spq (hd : tagClass dst = .spq) : cvtElem cb src dst rm sat x = encodeSpq rm v := by
  rw [cvtElem, hv]
  unfold convert
  rw [hd]

theorem cvtElem_real_other {f : FFmt} (hd : tagClass dst = .flt f ∨ tagClass dst = .narrow f) (hown : (cvtInput cb src x).1 ≠ dst) :
    cvtElem cb src dst rm sat x = encodeF f rm sat v := by
  rw [cvtElem, hv]
  unfold convert
  rcases hd with hd | hd <;> rw [hd] <;> exact if_neg hown

/-- A value of the destination's own format is kept, and a NaN becomes the canonical one. -/
theorem cvtElem_real_own {f : FFmt} (hd : tagClass dst = .flt f ∨ tagClass dst = .narrow f) (hown : (cvtInput cb src x).1 = dst) :
    (∀ s, v = .nan s → cvtElem cb src dst rm sat x = (ffNaN f, { nv := s })) ∧
      (isNaN v = false → cvtElem cb src dst rm sat x = ((cvtInput cb src x).2 % 2 ^ ffWidth f, noFlags)) := by
  have kept : cvtElem cb src dst rm sat x = ownValue f (cvtInput cb src x).2 v := by
    rw [cvtElem, hv]
    unfold convert
    rcases hd with hd | hd <;> rw [hd] <;> exact if_pos hown
  rw [kept]
  refine ⟨fun s hs => ?_, fun number => ?_⟩
  · subst hs
    cases s <;> rfl
  · cases v with
    | nan s => cases number
    | _ => rfl

end

/-! ### The narrowing shifts -/

theorem laneShrn_eq {n w : Nat} {sg sd : Bool} (hs : tagClass src = .int n sg) (hd : tagClass dst = .int w sd) (sh : Nat) :
    laneShrn src dst rm sat sh x = ofInt w (if sat then clampZ (intLo w sd) (intHi w sd) (roundQ rm ((laneInt n sg x : ℚ) / 2 ^ sh))
      else roundQ rm ((laneInt n sg x : ℚ) / 2 ^ sh)) := by
  generalize hz : laneInt n sg x = z
  have value : valQ (.fin (decide (z < 0)) z.natAbs (-(sh : Int))) = (z : ℚ) / 2 ^ sh := by
    have int := ofIntVal_value z
    rw [ofIntVal, valQ, zpow_zero, mul_one] at int
    rw [valQ, int, zpow_neg, zpow_natCast, div_eq_mul_inv]
  have count := (roundQ_valQ rm (decide (z < 0)) z.natAbs (-(sh : Int)) 0).1
  rw [zpow_zero, div_one, value] at count
  unfold laneShrn
  rw [hs, hd]
  dsimp only
  rw [hz, count, ← clampInt_eq (range_le hd)]
  rfl

end

/-! ### The forms -/

section
variable {d a b : Reg} {k : MReg} {r : BitVec 3} {sat : BitVec 1} {s : State}

theorem getCore_afterV (s : State) (a : Reg) (c : Nat) : getCore (afterV s a) c = getCore s c := by
  unfold afterV
  split <;> rfl

/-- The old bits of a destination, whatever port the sources took. -/
theorem oldBits_run (d : Reg) {u : State} (h : me u = me s) :
    oldBits d u = .ok (if isVPort d then 0 else (vValue (me s) d).bits.toNat, u) := by
  rw [← h]
  rfl

/-- The lanes and the events of VCVT and VCVTH on a register. -/
def converted (s : State) (d a : Reg) (t : Tag) (k : MReg) (r : BitVec 3) (sat : BitVec 1) (high : Bool) : Nat × FpFlags :=
  cvtLanes (coreCode (getCore s s.cur.core)) high (valueV s a).tag t (rmodeDyn (fpctlRm (me s)) r.toNat) (sat == 1)
    (kValue (me s) k).toNat (valueV s a).bits.toNat (if isVPort d then 0 else (vValue (me s) d).bits.toNat)

theorem vecConvert_run (high : Bool) (t : Tag) (hp : PortsReady s [] [a] [] [d]) (ht : TagsAgree s a)
    (hc : tagClass (valueV s a).tag ≠ .none) : run4 (vecConvert high d a t k r sat) s = .next (retired 4 s (flagged (giveV (afterV s a) d
      { bits := BitVec.ofNat 512 (converted s d a t k r sat high).1, tag := t }) (converted s d a t k r sat high).2)) := by
  have accepted : isConvertible (tagClass (valueV s a).tag) = true := by
    generalize tagClass (valueV s a).tag = c at hc
    cases c with
    | none => exact absurd rfl hc
    | _ => rfl
  have hm : me (afterV s a) = me s := me_afterV s a
  have write := putVec_run t (converted s d a t k r sat high) (hp.room.afterV a)
  refine run4_ok (withPorts_ok hp ((m_bind_ok (hp.sources.takeV ht).1).trans ((m_bind_ok (requireClass_ok accepted)).trans
    ((m_bind_ok (show readK k (afterV s a) = .ok ((kValue (me s) k).toNat, afterV s a) by rw [← hm]; rfl)).trans
    ((m_bind_ok (oldBits_run d hm)).trans
    ((m_bind_ok (show roundingOf r.toNat (afterV s a) = .ok (rmodeDyn (fpctlRm (me s)) r.toNat, afterV s a) by rw [← hm]; rfl)).trans
    ((m_bind_ok (show selfCodes (afterV s a) = .ok (coreCode (getCore s s.cur.core), afterV s a) by
      rw [← getCore_afterV s a, ← afterV_cur s a]; rfl)).trans write)))))))

theorem exec_vcvt_eq (t : Tag) : exec (.vcvt d a t k r sat) s = run4 (vecConvert false d a t k r sat) s := rfl
theorem exec_vcvth_eq (t : Tag) : exec (.vcvth d a t k r sat) s = run4 (vecConvert true d a t k r sat) s := rfl
theorem exec_vshrn8_eq : exec (.vshrn8 d a b k r sat) s = run4 (vecShrn d a b k r sat shrn8Tag) s := rfl
theorem exec_vshrn16_eq : exec (.vshrn16 d a b k r sat) s = run4 (vecShrn d a b k r sat shrn16Tag) s := rfl

/-- One lane of a narrowing shift. -/
def shrunkLane (s : State) (d a b : Reg) (k : MReg) (r : BitVec 3) (sat : BitVec 1) (t : Tag) (i : Nat) : Nat :=
  if tagLanes (valueV s a).tag ≤ i then 0
  else if enabled s k i then laneShrn (valueV s a).tag t (rmodeDyn (fpctlRm (me s)) r.toNat) (sat == 1)
    ((valueG (afterV s a) b).toNat % 64) (lane (tagLane (valueV s a).tag) (valueV s a).bits.toNat i)
  else lane (tagLane t) (if isVPort d then 0 else (vValue (me s) d).bits.toNat) i

/-- The register of a narrowing shift. -/
def shrunk (s : State) (d a b : Reg) (k : MReg) (r : BitVec 3) (sat : BitVec 1) (t : Tag) : BitVec 512 :=
  BitVec.ofNat 512 (packLanes (tagLane t) ((List.range (tagLanes t)).map (shrunkLane s d a b k r sat t)))

/-- A narrowing shift has a lane for each lane of its source. -/
theorem shrn8Tag_lanes {src t : Tag} (h : shrn8Tag src = some t) : tagLanes src ≤ tagLanes t := by
  revert src t; decide
theorem shrn16Tag_lanes {src t : Tag} (h : shrn16Tag src = some t) : tagLanes src ≤ tagLanes t := by
  revert src t; decide

theorem lane_shrunk {t : Tag} {i : Nat} (hi : i < tagLanes t) :
    lane (tagLane t) (shrunk s d a b k r sat t).toNat i = shrunkLane s d a b k r sat t i % 2 ^ tagLane t :=
  lane_packed hi (tagLane_mul_tagLanes t).le

theorem vecShrn_run {rtag : Tag → Option Tag} {t : Tag} (hp : PortsReady s [b] [a] [] [d]) (ht : TagsAgree s a)
    (hr : rtag (valueV s a).tag = some t) : run4 (vecShrn d a b k r sat rtag) s =
      .next (retired 4 s (flagged (giveV (afterG (afterV s a) b) d { bits := shrunk s d a b k r sat t, tag := t }) noFlags)) := by
  obtain ⟨readA, rest⟩ := hp.sources.takeV ht
  obtain ⟨readB, -⟩ := rest.takeG
  have hm : me (afterG (afterV s a) b) = me s := by simp
  have write := putVec_run t (packLanes (tagLane t) ((List.range (tagLanes t)).map (shrunkLane s d a b k r sat t)), noFlags)
    ((hp.room.afterV a).afterG b)
  have shift : fieldOf (valueG (afterV s a) b) 5 0 = (valueG (afterV s a) b).toNat % 64 := by
    rw [SystemRegisterMoves.fieldOf_eq, pow_zero, Nat.div_one]
    rfl
  refine run4_ok (withPorts_ok hp ((m_bind_ok readA).trans ?_))
  rw [hr]
  refine (m_bind_ok readB).trans
    ((m_bind_ok (show readK k _ = .ok ((kValue (me s) k).toNat, afterG (afterV s a) b) by rw [← hm]; rfl)).trans
    ((m_bind_ok (oldBits_run d hm)).trans
    ((m_bind_ok (show roundingOf r.toNat _ = .ok (rmodeDyn (fpctlRm (me s)) r.toNat, afterG (afterV s a) b) by rw [← hm]; rfl)).trans ?_)))
  rw [shift]
  exact write

theorem exec_vtchk_ok {t : Tag} (hp : PortsReady s [] [a] [] []) (ht : TagsAgree s a) (h : (valueV s a).tag = t) :
    exec (.vtchk a t) s = .next (retired 4 s (afterV s a)) :=
  run4_ok (withPorts_ok hp ((m_bind_ok (hp.sources.takeV ht).1).trans (requireTag_ok h)))

theorem exec_vtchk_trap {t : Tag} (hp : PortsReady s [] [a] [] []) (ht : TagsAgree s a) (h : (valueV s a).tag ≠ t) :
    exec (.vtchk a t) s = .next (takeTrap (holdDirs (namedDirs [] [a]) s) s.cur causeTag (tagTrapVal a t (valueV s a).tag)) := by
  have trap : requireTag a (valueV s a) t (afterV s a) = .error (.trap causeTag (tagTrapVal a t (valueV s a).tag) id) := by
    rw [requireTag, if_neg h]
    rfl
  exact run4_trap (withPorts_trap hp ((m_bind_ok (hp.sources.takeV ht).1).trans trap))

end

/-- Settles O22: the conversions lane by lane and element by element, the rounding that each makes, the narrowing shifts, and VTCHK. -/
theorem vectorConversions : Obligations.VectorConversions := by
  refine ⟨fun cb high src dst rm sat mask x old => ⟨fun j hj => lane_cvtLanes hj, flags_cvtLanes⟩, fun cb src dst rm sat x => ?element,
    fun f rm v fl => ⟨roundedTo_encodeF f rm false v, rfl⟩, fun src dst rm sat sh x hsh n sg w sd hs hd => laneShrn_eq hs hd sh,
    fun d a t k r sat s hp ht => ?convert, fun d a b k r sat s hp ht => ?shift, fun a t s hp ht => ⟨exec_vtchk_ok hp ht, fun h => ?check⟩⟩
  case element =>
    refine ⟨fun n sg w sd hs hd => cvtElem_int_int hs hd, fun n sg f hs hd => ⟨_, rfl, ofIntVal_value _, ?_⟩,
      fun n sg hs hd => ⟨_, rfl, ofIntVal_value _, ?_⟩, fun v hv => ⟨fun w sd hd => ?_, fun hd => ?_, fun f hd => ⟨fun other => ?_, fun own => ?_⟩⟩⟩
    · rw [cvtElem_int_flt hs hd]
      exact roundedTo_encodeF f rm sat _
    · rw [cvtElem_int_spq hs hd]
      exact roundedToSpq_encodeSpq rm _
    · rw [cvtElem_real_int hv hd]
      exact roundedToInt_encodeInt w _ _ rm v
    · rw [cvtElem_real_spq hv hd]
      exact roundedToSpq_encodeSpq rm v
    · rw [cvtElem_real_other hv hd other]
      exact roundedTo_encodeF f rm sat v
    · exact cvtElem_real_own hv hd own
  case convert =>
    intro va old conv hc
    exact ⟨exec_vcvt_eq t |>.trans (vecConvert_run false t hp ht hc), exec_vcvth_eq t |>.trans (vecConvert_run true t hp ht hc)⟩
  case shift =>
    intro va n
    refine ⟨fun t => ⟨fun hr => ⟨_, exec_vshrn8_eq.trans (vecShrn_run hp ht hr)⟩, fun hr => ⟨_, exec_vshrn16_eq.trans (vecShrn_run hp ht hr)⟩⟩,
      fun q hq t hr => ⟨shrunk s d a b k r sat t, ?_, fun i beyond hi => ?_, fun i hi on => ?_⟩⟩
    · simp only [List.mem_cons, List.not_mem_nil, or_false] at hq
      rcases hq with rfl | rfl
      · exact exec_vshrn8_eq.trans (vecShrn_run hp ht hr)
      · exact exec_vshrn16_eq.trans (vecShrn_run hp ht hr)
    · rw [lane_shrunk hi, shrunkLane, if_pos beyond, Nat.zero_mod]
    · have narrower : tagLanes (valueV s a).tag ≤ tagLanes t := by
        simp only [List.mem_cons, List.not_mem_nil, or_false] at hq
        rcases hq with rfl | rfl
        · exact shrn8Tag_lanes hr
        · exact shrn16Tag_lanes hr
      rw [lane_shrunk (lt_of_lt_of_le hi narrower), shrunkLane, if_neg (not_le.2 hi), if_pos on]
  case check =>
    have := exec_vtchk_trap hp ht h
    simpa [tagTrapVal] using this

end Sys2Proof.Conversions
end

section
/-! The release of an episode whose participant has left (R294): the thread that was created in its slot since then keeps its own PEND. -/
namespace Sys2Proof.DepartedParty
open Sys2Proof.Machine Sys2Proof.Safety

/-- The slot of the participant. -/
def place : ThreadRef := { core := 0, slot := 0 }

/-- A quad barrier's episode, detected with the thread of that slot as its one participant. -/
def detected : State := modQuad {} 0 fun x => { x with detected := [{ quad := 0, group := 0, parties := [{ thread := place }] }] }

/-- Another thread was created in the slot, which takes no part in the episode, and has arrived at its own level 1. -/
def recreated : State := setThread (dropParty detected place) place { pend := 1 }

/-- The episode as it waits for its release: its participant is marked as gone. -/
def waiting : Episode := { quad := 0, group := 0, parties := [{ thread := place, gone := true }] }

theorem find_waiting : (getQuad recreated 0).detected.find? (fun e => e.group == 0) = some waiting := by decide

theorem exec_release : exec (.episodeRelease 0 0 1 0 0) recreated = .next (releaseBarrier recreated 0 waiting) := rfl

/-- The release passes over a participant that is gone. -/
theorem pend_kept : pendAt (getThread (releaseBarrier recreated 0 waiting) place) 1 = true := by decide

/-- Refutes O50: an episode's release clears PEND of every participant but those that are gone, in whose slot another thread was created
since the detection; where that thread has arrived in its turn, its PEND stays set. -/
theorem not_engineEvents : ¬ Obligations.EngineEvents := by
  intro h
  obtain ⟨-, -, -, -, release, -⟩ := h recreated
  obtain ⟨t, ran, cleared⟩ := release 0 0 0 0 waiting find_waiting
  rw [exec_release] at ran
  obtain rfl := Host.Outcome.next.inj ran
  have clear := cleared { thread := place, gone := true } List.mem_cons_self rfl le_rfl (by decide)
  rw [pend_kept] at clear
  cases clear

end Sys2Proof.DepartedParty
end

section
/-! The two-source, counting and conditional-move integer forms (R97). -/
namespace Sys2Proof.IntegerForms
open Sys2Proof.Machine Sys2Proof.Safety Sys2Proof.OneOperand Sys2Proof.Frames Sys2Proof.MaskForms

/-! ### Results as the tables write them -/

theorem sub_eq_ofInt {n : Nat} (x y : BitVec n) : x - y = BitVec.ofInt n ((x.toNat : Int) - y.toNat) := by
  rw [Int.sub_eq_add_neg, BitVec.ofInt_add, BitVec.ofInt_neg, BitVec.ofInt_natCast, BitVec.ofInt_natCast, BitVec.ofNat_toNat,
    BitVec.ofNat_toNat, BitVec.setWidth_eq, BitVec.setWidth_eq, BitVec.sub_eq_add_neg]

theorem mul_eq_ofNat {n : Nat} (x y : BitVec n) : x * y = BitVec.ofNat n (x.toNat * y.toNat) := by
  rw [BitVec.ofNat_mul, BitVec.ofNat_toNat, BitVec.ofNat_toNat, BitVec.setWidth_eq, BitVec.setWidth_eq]

theorem shiftLeft_eq_ofNat (x : Word) (n : Nat) : shiftLeft x n = BitVec.ofNat 64 (x.toNat * 2 ^ n) := by
  apply BitVec.eq_of_toNat_eq
  rw [shiftLeft, BitVec.toNat_shiftLeft, Nat.shiftLeft_eq, BitVec.toNat_ofNat]

theorem shiftRight_eq_ofNat (x : Word) (n : Nat) : shiftRight x n = BitVec.ofNat 64 (x.toNat / 2 ^ n) := by
  rw [← Nat.shiftRight_eq_div_pow, shiftRight, ← BitVec.toNat_ushiftRight, BitVec.ofNat_toNat, BitVec.setWidth_eq]

theorem shiftRightArith_eq_ofInt (x : Word) (n : Nat) : shiftRightArith x n = BitVec.ofInt 64 (x.toInt / 2 ^ n) := by
  rw [shiftRightArith, BitVec.sshiftRight, Int.shiftRight_eq_div_pow, Nat.cast_pow]
  rfl

theorem boolWord_decide (p : Prop) [Decidable p] : boolWord (decide p) = oneIf p := by
  by_cases h : p <;> simp [boolWord, oneIf, h]

/-- A choice of the lesser word: which one is taken where they are equal makes no difference. -/
theorem lesser_eq {α : Type} {f : Word → α} [LinearOrder α] (hf : Function.Injective f) (x y : Word) :
    (if decide (f x < f y) then x else y) = if f x ≤ f y then x else y := by
  rcases lt_trichotomy (f x) (f y) with h | h | h
  · simp [h, h.le]
  · simp [hf h]
  · simp [h.not_gt, h.not_ge]

theorem greater_eq {α : Type} {f : Word → α} [LinearOrder α] (hf : Function.Injective f) (x y : Word) :
    (if decide (f x < f y) then y else x) = if f x ≤ f y then y else x := by
  rcases lt_trichotomy (f x) (f y) with h | h | h
  · simp [h, h.le]
  · simp [hf h]
  · simp [h.not_gt, h.not_ge]

theorem toInt_injective : Function.Injective (BitVec.toInt : Word → Int) := fun _ _ => BitVec.eq_of_toInt_eq
theorem toNat_injective : Function.Injective (BitVec.toNat : Word → Nat) := fun _ _ => BitVec.eq_of_toNat_eq

theorem sdiv_eq_ofInt {n : Nat} (x y : BitVec n) : x.sdiv y = BitVec.ofInt n (x.toInt.tdiv y.toInt) :=
  BitVec.eq_of_toInt_eq (by rw [BitVec.toInt_sdiv, BitVec.toInt_ofInt])

theorem srem_eq_ofInt {n : Nat} (x y : BitVec n) : x.srem y = BitVec.ofInt n (x.toInt - y.toInt * x.toInt.tdiv y.toInt) := by
  rw [← Int.tmod_def, ← BitVec.toInt_srem, BitVec.ofInt_toInt]

/-- The quotient of the most negative number by -1 wraps to the number itself. -/
theorem divSigned_eq (x y : Word) : divSigned x y =
    if y = 0 then BitVec.allOnes 64
    else if x.toInt = -2 ^ 63 ∧ y.toInt = -1 then BitVec.ofInt 64 (-2 ^ 63)
    else BitVec.ofInt 64 (x.toInt.tdiv y.toInt) := by
  rw [divSigned, sdiv_eq_ofInt]
  congr 1
  split
  · next corner =>
    rw [corner.1, corner.2]
    decide
  · rfl

theorem remSigned_eq (x y : Word) : remSigned x y =
    if y = 0 then x
    else if x.toInt = -2 ^ 63 ∧ y.toInt = -1 then 0
    else BitVec.ofInt 64 (x.toInt - y.toInt * x.toInt.tdiv y.toInt) := by
  rw [remSigned, srem_eq_ofInt]
  congr 1
  split
  · next corner =>
    rw [corner.1, corner.2]
    decide
  · rfl

theorem sextWord_ofNat (n : Nat) : sextWord (BitVec.ofNat 64 n) = BitVec.ofInt 64 (BitVec.ofNat 32 n).toInt := by
  rw [sextWord, BitVec.setWidth_ofNat_of_le (by decide)]
  rfl

theorem sextWord_ofInt (z : Int) : sextWord (BitVec.ofInt 64 z) = BitVec.ofInt 64 (BitVec.ofInt 32 z).toInt := by
  have low : (BitVec.ofInt 64 z).setWidth 32 = BitVec.ofInt 32 z := by
    apply BitVec.eq_of_toNat_eq
    simp [BitVec.toNat_ofInt]
    omega
  rw [sextWord, low]
  rfl

/-! ### Counting -/

/-- How many numbers come before the first that fails a test. -/
theorem length_takeWhile_range {p : Nat → Bool} {m n : Nat} (hm : m ≤ n) (below : ∀ i < m, p i = true) (stop : m < n → p m = false) :
    ((List.range n).takeWhile p).length = m := by
  obtain ⟨k, rfl⟩ := Nat.exists_eq_add_of_le hm
  rw [List.range_add, List.takeWhile_append_of_pos fun i hi => below i (List.mem_range.1 hi)]
  cases k with
  | zero => simp
  | succ k => simp [List.range_succ_eq_map, stop (by omega)]

theorem countLeading_eq (x : Word) :
    countLeading x = BitVec.ofNat 64 ((List.range 64).takeWhile fun i => !x.getLsbD (63 - i)).length := by
  unfold countLeading
  split
  · next zero =>
    rw [length_takeWhile_range le_rfl (fun i _ => by simp [zero]) (fun h => absurd h (lt_irrefl _))]
    rfl
  · next nonzero =>
    have some : x.toNat ≠ 0 := fun h => nonzero (BitVec.eq_of_toNat_eq h)
    have top : x.toNat.log2 < 64 := (Nat.log2_lt some).2 x.isLt
    congr 1
    refine (length_takeWhile_range (by omega) (fun i hi => ?_) fun _ => ?_).symm
    · have high : x.toNat < 2 ^ (63 - i) := (Nat.log2_lt some).1 (by omega)
      simp [BitVec.getLsbD, Nat.testBit_lt_two_pow high]
    · rw [Nat.sub_sub_self (by omega)]
      simp [BitVec.getLsbD, Nat.testBit_log2 some]

theorem countTrailing_eq (x : Word) :
    countTrailing x = BitVec.ofNat 64 ((List.range 64).takeWhile fun i => !x.getLsbD i).length := by
  rw [countTrailing, firstOne_toNat]


/-! ### Shared operations -/

section
variable {d a b : Reg} {s : State}

/-- A general source and a general destination that are no ports. -/
theorem readG_plain (h : isGPort a = false) : readG a s = .ok (gValue (me s) a, s) := by
  rw [readG_ok fun port => absurd port (by simp [h]), valueG, afterG]
  simp [h]

theorem writeG_plain {v : Word} (h : isGPort d = false) : writeG d v s = .ok ((), giveG s d v) :=
  writeG_ok fun port => absurd port (by simp [h])

/-- Two general sources are read in order. -/
theorem readG_two {α : Type} {k : Word → Word → M α} (h : SourcesReady s [a, b] []) :
    (readG a >>= fun x => readG b >>= fun y => k x y) s = k (valueG s a) (valueG (afterG s a) b) (afterG (afterG s a) b) := by
  obtain ⟨readA, rest⟩ := h.takeG
  rw [m_bind_ok readA, m_bind_ok rest.takeG.1]

theorem alu2_run (f : Word → Word → Word) (h : PortsReady s [a, b] [] [d] []) : run4 (alu2 d a b f) s =
    .next (retired 4 s (giveG (afterG (afterG s a) b) d (f (valueG s a) (valueG (afterG s a) b)))) :=
  run4_ok (withPorts_ok h ((readG_two h.sources).trans (((h.room.afterG a).afterG b).giveG _)))

theorem alu1_run (f : Word → Word) (h : PortsReady s [a] [] [d] []) :
    run4 (alu1 d a f) s = .next (retired 4 s (giveG (afterG s a) d (f (valueG s a)))) :=
  run4_ok (withPorts_ok h ((m_bind_ok h.sources.takeG.1).trans ((h.room.afterG a).giveG _)))

/-- Ports that are ready for sources and a destination are ready for the sources. -/
theorem portsReady_sources {gs gd : List Reg} (h : PortsReady s gs [] gd []) : PortsReady s gs [] [] [] :=
  ⟨h.1, (portsReady_nil s).2⟩

theorem condMove_skips {c : Word → Bool} (h : PortsReady s [a, b] [] [] []) (hc : c (valueG (afterG s a) b) = false) :
    run4 (condMove d a b c) s = .next (retired 4 s (afterG (afterG s a) b)) :=
  run4_ok (withPorts_ok h ((readG_two h.sources).trans (by rw [hc]; rfl)))

theorem condMove_moves {c : Word → Bool} (h : PortsReady s [a, b] [] [d] []) (hc : c (valueG (afterG s a) b) = true) :
    run4 (condMove d a b c) s = .next (retired 4 s (giveG (afterG (afterG s a) b) d (valueG s a))) :=
  run4_ok (withPorts_ok (portsReady_sources h)
    ((readG_two h.sources).trans ((congrFun (if_pos hc) _).trans (((h.room.afterG a).afterG b).giveG _))))

theorem alu2_congr {f g : Word → Word → Word} (h : ∀ x y, f x y = g x y) : run4 (alu2 d a b f) s = run4 (alu2 d a b g) s := by
  rw [funext fun x => funext (h x)]

theorem alu1_congr {f g : Word → Word} (h : ∀ x, f x = g x) : run4 (alu1 d a f) s = run4 (alu1 d a g) s := by
  rw [funext h]

/-! ### The forms -/

theorem exec_intTable {p : (Reg → Reg → Reg → Instr) × (Word → Word → Word)} (hp : p ∈ intTable) :
    exec (p.1 d a b) s = run4 (alu2 d a b p.2) s := by
  simp only [intTable, List.mem_cons, List.not_mem_nil, or_false] at hp
  obtain rfl | rfl | rfl | rfl | rfl | rfl | rfl | rfl | rfl | rfl | rfl | rfl | rfl | rfl | rfl | rfl | rfl | rfl | rfl | rfl | rfl | rfl |
    rfl := hp
  · exact alu2_congr BitVec.add_def
  · exact alu2_congr sub_eq_ofInt
  · rfl
  · rfl
  · rfl
  · exact alu2_congr fun x y => shiftLeft_eq_ofNat x (y.toNat % 64)
  · exact alu2_congr fun x y => shiftRight_eq_ofNat x (y.toNat % 64)
  · exact alu2_congr fun x y => shiftRightArith_eq_ofInt x (y.toNat % 64)
  · exact alu2_congr fun x y => boolWord_decide (x.toInt < y.toInt)
  · exact alu2_congr fun x y => boolWord_decide (x.toNat < y.toNat)
  · exact alu2_congr (lesser_eq toInt_injective)
  · exact alu2_congr (greater_eq toInt_injective)
  · exact alu2_congr (lesser_eq toNat_injective)
  · exact alu2_congr (greater_eq toNat_injective)
  · exact alu2_congr mul_eq_ofNat
  · rfl
  · exact alu2_congr fun x y => BitVec.ofInt_natCast 64 (x.toNat * y.toNat / 2 ^ 64)
  · exact alu2_congr divSigned_eq
  · exact alu2_congr fun x y => by rw [divUnsigned, BitVec.udiv_def]
  · exact alu2_congr remSigned_eq
  · exact alu2_congr fun x y => by rw [remUnsigned, BitVec.umod_def]
  · exact alu2_congr fun x y => by rw [BitVec.add_def, sextWord_ofNat]
  · exact alu2_congr fun x y => by rw [sub_eq_ofInt, sextWord_ofInt]

theorem exec_countTable {p : (Reg → Reg → Instr) × (Word → Word)} (hp : p ∈ countTable) :
    exec (p.1 d a) s = run4 (alu1 d a p.2) s := by
  simp only [countTable, List.mem_cons, List.not_mem_nil, or_false] at hp
  obtain rfl | rfl | rfl := hp
  · exact alu1_congr countLeading_eq
  · exact alu1_congr countTrailing_eq
  · rfl

end

/-- Settles O1: the forms of the tables by their operations on words, and the conditional moves by their condition. -/
theorem integerResults : Obligations.IntegerResults := by
  have int : ∀ p ∈ intTable, ∀ (d a b : Reg) (s : State), PortsReady s [a, b] [] [d] [] → exec (p.1 d a b) s =
      .next (retired 4 s (giveG (afterG (afterG s a) b) d (p.2 (valueG s a) (valueG (afterG s a) b)))) :=
    fun p hp d a b s h => (exec_intTable hp).trans (alu2_run p.2 h)
  have count : ∀ p ∈ countTable, ∀ (d a : Reg) (s : State), PortsReady s [a] [] [d] [] →
      exec (p.1 d a) s = .next (retired 4 s (giveG (afterG s a) d (p.2 (valueG s a)))) :=
    fun p hp d a s h => (exec_countTable hp).trans (alu1_run p.2 h)
  refine ⟨fun d a b s => ⟨fun h i hi => ?_, fun h i hi => ?_⟩, int, count, fun d a b s h => ⟨fun hy => condMove_skips h (by simpa using hy),
    fun hy => condMove_skips h (by simpa using hy), fun hd => ⟨fun hy => condMove_moves hd (by simpa using hy),
      fun hy => condMove_moves hd (by simpa using hy)⟩⟩⟩
  · obtain ⟨p, hp, rfl⟩ := List.mem_map.1 (show i ∈ intTable.map fun p => p.1 d a b from hi)
    exact ⟨_, int p hp d a b s h⟩
  · obtain ⟨p, hp, rfl⟩ := List.mem_map.1 (show i ∈ countTable.map fun p => p.1 d a from hi)
    exact ⟨_, count p hp d a s h⟩

end Sys2Proof.IntegerForms
end

section
/-! The immediate forms, the shifts by an immediate and the bit fields (R98 to R100), and ADDPC (R101). -/
namespace Sys2Proof.ImmediateForms
open Sys2Proof.Machine Sys2Proof.Safety Sys2Proof.OneOperand Sys2Proof.Frames Sys2Proof.IntegerForms

/-! ### Results as the tables write them -/

theorem add_sext_eq_ofInt {n : Nat} (x : Word) (i : BitVec n) : x + sext64 i = BitVec.ofInt 64 ((x.toNat : Int) + i.toInt) := by
  rw [BitVec.ofInt_add, BitVec.ofInt_natCast, BitVec.ofNat_toNat, BitVec.setWidth_eq]
  rfl

theorem zext64_eq_ofNat {n : Nat} (i : BitVec n) : zext64 i = BitVec.ofNat 64 i.toNat := (BitVec.ofNat_toNat 64 i).symm

theorem insertHalf_eq_ofNat (x : Word) (i : BitVec 16) : x <<< 16 ||| zext64 i = BitVec.ofNat 64 (x.toNat * 2 ^ 16 + i.toNat) := by
  have shifted : x <<< 16 = BitVec.ofNat 64 (x.toNat * 2 ^ 16) := shiftLeft_eq_ofNat x 16
  rw [shifted, zext64_eq_ofNat, ← BitVec.ofNat_or, ← Nat.shiftLeft_eq, ← Nat.shiftLeft_add_eq_or_of_lt i.isLt]

theorem append_zeros_eq_ofNat (i : BitVec 16) : i ++ 0#16 = BitVec.ofNat 32 (i.toNat * 2 ^ 16) := by
  apply BitVec.eq_of_toNat_eq
  have := i.isLt
  rw [BitVec.toNat_append, BitVec.toNat_ofNat, BitVec.toNat_ofNat, Nat.zero_mod, Nat.or_zero, Nat.shiftLeft_eq, Nat.mod_eq_of_lt]
  omega

/-! ### Bit fields -/

theorem extractField_eq (x : Word) (l w : Nat) : extractField x l (w + 1) = x.toNat / 2 ^ l % 2 ^ (w + 1) := by
  rw [extractField, bitsOf, Nat.shiftRight_eq_div_pow, show l + (w + 1) - 1 + 1 - l = w + 1 by omega]

theorem toSigned_field {w f : Nat} (h : f < 2 ^ (w + 1)) :
    toSigned (w + 1) f = if f < 2 ^ w then (f : Int) else (f : Int) - 2 ^ (w + 1) := by
  rw [toSigned, Nat.mod_eq_of_lt h, Nat.add_sub_cancel, Nat.cast_pow]
  rfl

/-- BFI's result bit by bit: the low bits of the source at l, the old bits elsewhere. -/
theorem getLsbD_insertField (old a : Word) (l w : Nat) {i : Nat} (hi : i < 64) :
    (insertField old a l (w + 1)).getLsbD i = if l ≤ i ∧ i ≤ l + w then a.getLsbD (i - l) else old.getLsbD i := by
  have mask : (BitVec.ofNat 64 ((2 ^ (w + 1) - 1) * 2 ^ l)).getLsbD i = decide (l ≤ i ∧ i ≤ l + w) := by
    rw [BitVec.getLsbD_ofNat, Nat.testBit_mul_two_pow, Nat.testBit_two_pow_sub_one]
    simp only [hi, decide_true, Bool.true_and, ← Bool.decide_and, decide_eq_decide]
    omega
  have field : (BitVec.ofNat 64 (a.toNat % 2 ^ (w + 1) * 2 ^ l)).getLsbD i = (decide (l ≤ i ∧ i ≤ l + w) && a.getLsbD (i - l)) := by
    rw [BitVec.getLsbD_ofNat, Nat.testBit_mul_two_pow, Nat.testBit_mod_two_pow, BitVec.getLsbD, ← Bool.and_assoc, ← Bool.and_assoc]
    congr 1
    simp only [hi, decide_true, Bool.true_and, ← Bool.decide_and, decide_eq_decide]
    omega
  simp only [insertField, BitVec.getLsbD_or, BitVec.getLsbD_and, BitVec.getLsbD_not, hi, mask, field]
  by_cases inside : l ≤ i ∧ i ≤ l + w
  · rw [if_pos inside, decide_eq_true inside]
    simp
  · rw [if_neg inside, decide_eq_false inside]
    simp

/-! ### The forms -/

section
variable {d a : Reg} {s : State}

theorem exec_immTable {p : (Reg → Reg → BitVec 16 → Instr) × (Word → BitVec 16 → Word)} {i : BitVec 16} (hp : p ∈ immTable) :
    exec (p.1 d a i) s = run4 (alu1 d a fun x => p.2 x i) s := by
  simp only [immTable, List.mem_cons, List.not_mem_nil, or_false] at hp
  obtain rfl | rfl | rfl | rfl | rfl | rfl | rfl := hp
  · exact alu1_congr fun x => add_sext_eq_ofInt x i
  · exact alu1_congr fun x => congrArg (x &&& ·) (zext64_eq_ofNat i)
  · exact alu1_congr fun x => congrArg (x ||| ·) (zext64_eq_ofNat i)
  · exact alu1_congr fun x => congrArg (x ^^^ ·) (zext64_eq_ofNat i)
  · refine alu1_congr fun x => (boolWord_decide (x.toInt < (sext64 i).toInt)).trans ?_
    rw [sext64, BitVec.toInt_signExtend_of_le (by decide)]
  · exact alu1_congr fun x => boolWord_decide (x.toNat < (sext64 i).toNat)
  · exact alu1_congr fun x => insertHalf_eq_ofNat x i

theorem exec_shiftTable {p : (Reg → Reg → BitVec 6 → Instr) × (Word → BitVec 6 → Word)} {n : BitVec 6} (hp : p ∈ shiftTable) :
    exec (p.1 d a n) s = run4 (alu1 d a fun x => p.2 x n) s := by
  simp only [shiftTable, List.mem_cons, List.not_mem_nil, or_false] at hp
  obtain rfl | rfl | rfl := hp
  · exact alu1_congr fun x => shiftLeft_eq_ofNat x n.toNat
  · exact alu1_congr fun x => shiftRight_eq_ofNat x n.toNat
  · exact alu1_congr fun x => shiftRightArith_eq_ofInt x n.toNat

theorem exec_lui {i : BitVec 16} (h : PortsReady s [] [] [d] []) :
    exec (.lui d i) s = .next (retired 4 s (giveG s d (BitVec.ofInt 64 (BitVec.ofNat 32 (i.toNat * 2 ^ 16)).toInt))) := by
  rw [← append_zeros_eq_ofNat]
  exact run4_ok (withPorts_dest h rfl)

theorem exec_bfxu {w l : BitVec 6} (h : PortsReady s [a] [] [d] []) : exec (.bfxu d a w l) s =
    .next (retired 4 s (giveG (afterG s a) d (BitVec.ofNat 64 ((valueG s a).toNat / 2 ^ l.toNat % 2 ^ (w.toNat + 1))))) := by
  rw [← extractField_eq]
  exact alu1_run _ h

theorem exec_bfxs {w l : BitVec 6} {f : Nat} (hf : (valueG s a).toNat / 2 ^ l.toNat % 2 ^ (w.toNat + 1) = f) (h : PortsReady s [a] [] [d] []) :
    exec (.bfxs d a w l) s = .next (retired 4 s (giveG (afterG s a) d
      (BitVec.ofInt 64 (if f < 2 ^ w.toNat then (f : Int) else (f : Int) - 2 ^ (w.toNat + 1))))) := by
  rw [← toSigned_field (hf ▸ Nat.mod_lt _ (Nat.two_pow_pos _)), ← hf, ← extractField_eq]
  exact alu1_run _ h

/-- BFI reads its destination after its source, and writes it; the destination is no port. -/
theorem exec_bfi {w l : BitVec 6} (h : PortsReady s [a] [] [] []) (hd : isGPort d = false) : exec (.bfi d a w l) s =
    .next (retired 4 s (giveG (afterG s a) d (insertField (gValue (me s) d) (valueG s a) l.toNat (w.toNat + 1)))) := by
  have read : readG d (afterG s a) = .ok (gValue (me s) d, afterG s a) := Machine.me_afterG s a ▸ readG_plain hd
  exact run4_ok (withPorts_source h ((m_bind_ok read).trans (writeG_plain hd)))

end

/-- Settles O2: the forms of the tables by their operations on words, the bit fields by their bits. -/
theorem immediateResults : Obligations.ImmediateResults := by
  have imm : ∀ p ∈ immTable, ∀ (d a : Reg) (i : BitVec 16) (s : State), PortsReady s [a] [] [d] [] →
      exec (p.1 d a i) s = .next (retired 4 s (giveG (afterG s a) d (p.2 (valueG s a) i))) :=
    fun p hp d a i s h => (exec_immTable hp).trans (alu1_run (fun x => p.2 x i) h)
  have shift : ∀ p ∈ shiftTable, ∀ (d a : Reg) (n : BitVec 6) (s : State), PortsReady s [a] [] [d] [] →
      exec (p.1 d a n) s = .next (retired 4 s (giveG (afterG s a) d (p.2 (valueG s a) n))) :=
    fun p hp d a n s h => (exec_shiftTable hp).trans (alu1_run (fun x => p.2 x n) h)
  refine ⟨fun d a x n s h i hi => ?_, imm, fun d i s h => exec_lui h, shift, fun d a w l s h => ⟨exec_bfxu h, exec_bfxs rfl h⟩,
    fun d a w l s h hw => ?_⟩
  · have named : i ∈ (immTable.map fun p => p.1 d a x) ++ shiftTable.map fun p => p.1 d a n := hi
    obtain hi | hi := List.mem_append.1 named
    · obtain ⟨p, hp, rfl⟩ := List.mem_map.1 hi
      exact ⟨_, imm p hp d a x s h⟩
    · obtain ⟨p, hp, rfl⟩ := List.mem_map.1 hi
      exact ⟨_, shift p hp d a n s h⟩
  · have noPort : isGPort d = false := by
      simp only [wellFormed, Bool.and_eq_true, Bool.not_eq_true'] at hw
      exact hw.2
    exact ⟨_, exec_bfi h noPort, fun i hi => getLsbD_insertField _ _ _ _ hi⟩

end Sys2Proof.ImmediateForms
end

section
/-! Control flow: targets and their check, branches, jumps and LOOP (R9, R101 to R106). -/
namespace Sys2Proof.ControlFlow
open Sys2Proof.Machine Sys2Proof.Safety Sys2Proof.OneOperand Sys2Proof.Frames Sys2Proof.IntegerForms Sys2Proof.ReturnFromTrap
open Sys2Proof.ImmediateForms

/-! ### Targets -/

theorem toInt_append_zeros {n : Nat} (off : BitVec n) : (off ++ 0#2).toInt = 4 * off.toInt := by
  rw [BitVec.toInt_append]
  cases n with
  | zero => simp [BitVec.toInt_of_zero_length]
  | succ n => simp

theorem relTarget_eq {n : Nat} (pc : Word) (off : BitVec n) : relTarget pc off = offTarget pc off := by
  rw [relTarget, add_sext_eq_ofInt, toInt_append_zeros, offTarget]

/-- The cause of a target that fails its check (R102). -/
def badCause (t : Word) : Nat := if t.toNat % 4 ≠ 0 then causeAlignment else causeAddress

theorem checkTarget_bad {t : Word} {s : State} (h : ¬ GoodTarget t) : checkTarget t s = .error (.trap (badCause t) t id) := by
  have low : fieldOf t 1 0 = t.toNat % 4 := by simp [fieldOf, bitsOf]
  unfold checkTarget badCause
  rw [low]
  split
  · rfl
  · next aligned =>
    have beyond : ¬ t.toNat < 2 ^ 57 := fun below => h ⟨not_not.1 aligned, below⟩
    have high : fieldOf t 63 57 ≠ 0 := by
      have := t.isLt
      simp only [fieldOf, bitsOf, Nat.shiftRight_eq_div_pow]
      omega
    rw [if_pos high]
    rfl

theorem jumpTo_ok {t : Word} {s : State} (h : GoodTarget t) : jumpTo t s = .ok (some t, s) := m_bind_ok (checkTarget_ok h)

theorem jumpTo_bad {t : Word} {s : State} (h : ¬ GoodTarget t) : jumpTo t s = .error (.trap (badCause t) t id) :=
  m_bind_error (checkTarget_bad h)

theorem runJump_trap {m : M (Option Word)} {s : State} {c : Nat} {v : Word} {k : State → State} (h : m s = .error (.trap c v k)) :
    runJump m s = .next (takeTrap (k s) s.cur c v) := finish_trap h

/-! ### ADDPC -/

/-- Settles O3: the word of the form, and the sum as a target is computed. -/
theorem addToPc : Obligations.AddToPc := by
  intro d i s
  refine ⟨rfl, fun h => ?_⟩
  rw [← relTarget_eq]
  exact run4_ok (withPorts_dest h (m_bind_ok (self_run s)))

/-! ### Branches -/

section
variable {a b : Reg} {off : BitVec 16} {s : State}

theorem branch_falls {c : Word → Word → Bool} (h : PortsReady s [a, b] [] [] []) (hc : c (valueG s a) (valueG (afterG s a) b) = false) :
    runJump (branch a b off c) s = .next (retired 4 s (afterG (afterG s a) b)) :=
  runJump_ok (pc := none) (withPorts_ok h ((readG_two h.sources).trans (congrFun (if_neg (by simp [hc])) _)))

/-- A branch whose condition holds makes the jump in the state that its sources leave. -/
theorem branch_jumps {c : Word → Word → Bool} (h : PortsReady s [a, b] [] [] []) (hc : c (valueG s a) (valueG (afterG s a) b) = true) :
    (readG a >>= fun x => readG b >>= fun y => if c x y then self >>= fun t => jumpTo (relTarget t.pc off) else pure none) s =
      jumpTo (offTarget (me s).pc off) (afterG (afterG s a) b) := by
  have here : getThread (afterG (afterG s a) b) (afterG (afterG s a) b).cur = me s := by simp [me]
  rw [readG_two h.sources, if_pos hc, m_bind_ok (self_run _), here, relTarget_eq]

theorem branch_taken {c : Word → Word → Bool} (h : PortsReady s [a, b] [] [] []) (hc : c (valueG s a) (valueG (afterG s a) b) = true)
    (hg : GoodTarget (offTarget (me s).pc off)) :
    runJump (branch a b off c) s = .next (retiredAt s (afterG (afterG s a) b) (offTarget (me s).pc off)) :=
  runJump_ok (pc := some _) (withPorts_ok h ((branch_jumps h hc).trans (jumpTo_ok hg)))

theorem branch_bad {c : Word → Word → Bool} (h : PortsReady s [a, b] [] [] []) (hc : c (valueG s a) (valueG (afterG s a) b) = true)
    (hg : ¬ GoodTarget (offTarget (me s).pc off)) : runJump (branch a b off c) s =
      .next (takeTrap (holdDirs (namedDirs [a, b] []) s) s.cur (badCause (offTarget (me s).pc off)) (offTarget (me s).pc off)) :=
  runJump_trap (withPorts_trap h ((branch_jumps h hc).trans (jumpTo_bad hg)))

theorem branch_congr {c e : Word → Word → Bool} (h : ∀ x y, c x y = e x y) : runJump (branch a b off c) s = runJump (branch a b off e) s := by
  rw [funext fun x => funext (h x)]

theorem exec_branchTable {p : (Reg → Reg → BitVec 16 → Instr) × (Word → Word → Bool)} (hp : p ∈ branchTable) :
    exec (p.1 a b off) s = runJump (branch a b off p.2) s := by
  simp only [branchTable, List.mem_cons, List.not_mem_nil, or_false] at hp
  obtain rfl | rfl | rfl | rfl | rfl | rfl := hp
  · exact branch_congr fun x y => by simp [beq_eq_decide]
  · exact branch_congr fun x y => by simp [bne, beq_eq_decide]
  · rfl
  · exact branch_congr fun x y => by simp [BitVec.slt, ← decide_not]
  · rfl
  · exact branch_congr fun x y => by simp [BitVec.ult, ← decide_not]

end

/-- Settles O4: a branch of the table by whether its condition holds. -/
theorem branchResults : Obligations.BranchResults := by
  have falls : ∀ p ∈ branchTable, ∀ (a b : Reg) (off : BitVec 16) (s : State), PortsReady s [a, b] [] [] [] →
      p.2 (valueG s a) (valueG (afterG s a) b) = false → exec (p.1 a b off) s = .next (retired 4 s (afterG (afterG s a) b)) :=
    fun p hp a b off s h hc => (exec_branchTable hp).trans (branch_falls h hc)
  have taken : ∀ p ∈ branchTable, ∀ (a b : Reg) (off : BitVec 16) (s : State), PortsReady s [a, b] [] [] [] →
      p.2 (valueG s a) (valueG (afterG s a) b) = true → GoodTarget (offTarget (me s).pc off) →
        exec (p.1 a b off) s = .next (retiredAt s (afterG (afterG s a) b) (offTarget (me s).pc off)) :=
    fun p hp a b off s h hc hg => (exec_branchTable hp).trans (branch_taken h hc hg)
  refine ⟨fun a b off s h hg i hi => ?_, fun p hp a b off s h => ⟨falls p hp a b off s h, taken p hp a b off s h⟩⟩
  obtain ⟨p, hp, rfl⟩ := List.mem_map.1 (show i ∈ branchTable.map fun p => p.1 a b off from hi)
  cases hc : p.2 (valueG s a) (valueG (afterG s a) b) with
  | false => exact ⟨_, .inl rfl, falls p hp a b off s h hc⟩
  | true => exact ⟨_, .inr rfl, taken p hp a b off s h hc hg⟩

/-! ### Jumps -/

section
variable {a d : Reg} {s : State}

theorem exec_j {off : BitVec 26} : exec (.j off) s = runJump (jumpTo (offTarget (me s).pc off)) s := by
  rw [← relTarget_eq]
  rfl

theorem exec_j_bad {off : BitVec 26} (h : ¬ GoodTarget (offTarget (me s).pc off)) : exec (.j off) s =
    .next (takeTrap s s.cur (badCause (offTarget (me s).pc off)) (offTarget (me s).pc off)) :=
  exec_j.trans (runJump_trap (k := id) (jumpTo_bad h))

theorem exec_j_good {off : BitVec 26} (h : GoodTarget (offTarget (me s).pc off)) :
    exec (.j off) s = .next (retiredAt s s (offTarget (me s).pc off)) :=
  exec_j.trans (runJump_ok (pc := some _) (jumpTo_ok h))

theorem exec_jal {off : BitVec 26} : exec (.jal off) s =
    runJump (jumpTo (offTarget (me s).pc off) >>= fun t => writeG 31 ((me s).pc + 4) >>= fun _ => pure t) s := by
  rw [← relTarget_eq]
  rfl

theorem exec_jal_good {off : BitVec 26} (h : GoodTarget (offTarget (me s).pc off)) :
    exec (.jal off) s = .next (retiredAt s (giveG s 31 ((me s).pc + 4)) (offTarget (me s).pc off)) :=
  exec_jal.trans (runJump_ok (pc := some _) ((m_bind_ok (jumpTo_ok h)).trans (m_bind_ok (writeG_plain rfl))))

theorem exec_jal_bad {off : BitVec 26} (h : ¬ GoodTarget (offTarget (me s).pc off)) : exec (.jal off) s =
    .next (takeTrap s s.cur (badCause (offTarget (me s).pc off)) (offTarget (me s).pc off)) :=
  exec_jal.trans (runJump_trap (k := id) (m_bind_error (jumpTo_bad h)))

theorem exec_jr_good (h : PortsReady s [a] [] [] []) (hg : GoodTarget (valueG s a)) :
    exec (.jr a) s = .next (retiredAt s (afterG s a) (valueG s a)) :=
  runJump_ok (pc := some _) (withPorts_source h (jumpTo_ok hg))

theorem exec_jr_bad (h : PortsReady s [a] [] [] []) (hg : ¬ GoodTarget (valueG s a)) : exec (.jr a) s =
    .next (takeTrap (holdDirs (namedDirs [a] []) s) s.cur (badCause (valueG s a)) (valueG s a)) :=
  runJump_trap (withPorts_trap h ((m_bind_ok h.sources.takeG.1).trans (jumpTo_bad hg)))

theorem exec_jalr_good (h : PortsReady s [a] [] [d] []) (hg : GoodTarget (valueG s a)) :
    exec (.jalr d a) s = .next (retiredAt s (giveG (afterG s a) d ((me s).pc + 4)) (valueG s a)) :=
  runJump_ok (pc := some _) (withPorts_ok h ((m_bind_ok (self_run s)).trans ((m_bind_ok h.sources.takeG.1).trans
    ((m_bind_ok (jumpTo_ok hg)).trans (m_bind_ok ((h.room.afterG a).giveG _))))))

theorem exec_jalr_bad (h : PortsReady s [a] [] [d] []) (hg : ¬ GoodTarget (valueG s a)) : exec (.jalr d a) s =
    .next (takeTrap (holdDirs (namedDirs [a, d] []) s) s.cur (badCause (valueG s a)) (valueG s a)) :=
  runJump_trap (withPorts_trap h ((m_bind_ok (self_run s)).trans ((m_bind_ok h.sources.takeG.1).trans (m_bind_error (jumpTo_bad hg)))))

/-! ### LOOP -/

theorem noPort_of_loop {off : BitVec 16} (h : wellFormed (.loop a off) = true) : isGPort a = false := by
  simp only [wellFormed, loopCounter, Bool.and_eq_true, Bool.not_eq_true'] at h
  exact h.2

theorem exec_loop {off : BitVec 16} (h : wellFormed (.loop a off) = true) : exec (.loop a off) s =
    runJump (if gValue (me s) a - 1 ≠ 0 then
      jumpTo (offTarget (me s).pc off) >>= fun t => writeG a (gValue (me s) a - 1) >>= fun _ => pure t
      else writeG a 0 >>= fun _ => pure none) s := by
  rw [← relTarget_eq]
  show finish 4 (self >>= fun x => readG a >>= _) s = finish 4 _ s
  rw [finish, finish, m_bind_ok (self_run s), m_bind_ok (readG_plain (noPort_of_loop h))]
  rfl

theorem exec_loop_jumps {off : BitVec 16} (h : wellFormed (.loop a off) = true) (hn : gValue (me s) a - 1 ≠ 0)
    (hg : GoodTarget (offTarget (me s).pc off)) :
    exec (.loop a off) s = .next (retiredAt s (giveG s a (gValue (me s) a - 1)) (offTarget (me s).pc off)) := by
  rw [exec_loop h, if_pos hn]
  exact runJump_ok (pc := some _) ((m_bind_ok (jumpTo_ok hg)).trans
    (m_bind_ok (writeG_plain (noPort_of_loop h))))

theorem exec_loop_falls {off : BitVec 16} (h : wellFormed (.loop a off) = true) (hn : gValue (me s) a - 1 = 0) :
    exec (.loop a off) s = .next (retired 4 s (giveG s a 0)) := by
  rw [exec_loop h, if_neg (not_not.2 hn)]
  exact runJump_ok (pc := none) (m_bind_ok (writeG_plain (noPort_of_loop h)))

theorem exec_loop_bad {off : BitVec 16} (h : wellFormed (.loop a off) = true) (hn : gValue (me s) a - 1 ≠ 0)
    (hg : ¬ GoodTarget (offTarget (me s).pc off)) : exec (.loop a off) s =
      .next (takeTrap s s.cur (badCause (offTarget (me s).pc off)) (offTarget (me s).pc off)) := by
  rw [exec_loop h, if_pos hn]
  exact runJump_trap (k := id) (m_bind_error (jumpTo_bad hg))

end

/-- Settles O5: each jump where its target passes the check, and LOOP by whether its counter ends. -/
theorem jumpAndLoopResults : Obligations.JumpAndLoopResults :=
  ⟨⟨fun _ _ h => ⟨exec_j_good h, exec_jal_good h⟩, fun _ _ => exec_jr_good, fun _ _ _ => exec_jalr_good⟩,
    fun _ _ _ hw => ⟨exec_loop_jumps hw, exec_loop_falls hw⟩⟩

/-- Settles O6: each jump where its target fails the check; the link and the counter are written after it. -/
theorem badTargetTraps : Obligations.BadTargetTraps := by
  intro s t bad
  refine ⟨fun off ht => ?_, fun a off hw hn ht => ?_, fun p hp a b off h hc ht => ?_, fun d a ht => ?_⟩ <;> subst ht
  · exact ⟨exec_j_bad bad, exec_jal_bad bad⟩
  · exact exec_loop_bad hw hn bad
  · exact (exec_branchTable hp).trans (branch_bad h hc bad)
  · exact ⟨fun h => exec_jr_bad h bad, fun h => exec_jalr_bad h bad⟩

end Sys2Proof.ControlFlow
end

section
/-! Steps of a core: packets that arrive, creations, YIELDs that run out, user messages and replies of memory (R71, R74, R76, R80, R148;
log entry 5). -/
namespace Sys2Proof.CoreEvents
open Sys2Proof.Machine Sys2Proof.Safety

/-! ### Launch packets -/

/-- A packet that its core takes occupies the slot that is free for it. -/
theorem takePacket_accepts {s : State} {core i : Nat} {p : LaunchPacket} (hp : packetOk (countPacket s core p) core p = true)
    (hi : slotFor (answerSender (countPacket s core p) p 0) core p = some i) :
    takePacket s core p = acceptPacket (answerSender (countPacket s core p) p 0) core i p := by
  simp only [takePacket, hp, Bool.not_true, Bool.false_eq_true, if_false, hi]

theorem slotState_acceptPacket (s : State) (core i : Nat) (p : LaunchPacket) :
    (getThread (acceptPacket s core i p) { core := core, slot := i }).slotState = .creating p := by
  rw [acceptPacket, getThread_setThread_same]

/-! ### Thread creation -/

/-- The parts of a register image that its PARTS word selects: the special registers, the tags, g, k and v registers (R73). -/
def imageParts (parts : Word) : List (Bool × Nat × Nat) :=
  [(parts.getLsbD 3, 0x10, 16), (parts.getLsbD 1, 0x20, 32), (parts.getLsbD 0, 0x40, 256), (parts.getLsbD 2, 0x140, 128),
    (parts.getLsbD 1, 0x1C0, 2048)]

/-- A creation whose reads succeed puts the new context into its slot. -/
theorem createThread_live {s v w : State} {t : ThreadRef} {p : LaunchPacket} {r : Region} {h : List Byte} {pc : Word} {ls : List (List Byte)}
    (hc : (getThread s t).slotState = .creating p) (hw : (getThread s t).wait = .none) (hr : packetRegion s p = some r)
    (head : creationRead (takeBoundary s t) t p.image 16 = (v, .ok h)) (entry : entryPc r p (dwordAt h 0) (dwordAt h 1) = some pc)
    (image : creationParts t p.image (imageParts (dwordAt h 1)) v = (w, .ok ls))
    (free : ∀ y, regionForced (setThread (dropParty w t) t y) t = false) :
    createThread s t = setThread (dropParty w t) t (newThread r t.core p (getThread w t) pc (dwordAt h 1) ls) := by
  unfold imageParts at image
  simp only [createThread, hc, hw, hr, head, entry, image, free, Bool.false_eq_true, if_false]

theorem exec_threadCreation {s : State} {core slot : Nat} (adv : coreAdvances s core = true) :
    exec (.threadCreation core slot) s = .next (createThread s { core := core, slot := slot }) := by
  show execThreadCreation core slot s = _
  simp only [execThreadCreation, runStep, adv, if_true]

section
variable {r : Region} {core : Nat} {p : LaunchPacket} {x : Thread} {pc parts : Word} {ls : List (List Byte)}

theorem modeSys_newThread : modeSys (newThread r core p x pc parts ls) = isService core := by
  simp only [modeSys, newThread, boolWord]
  split <;> simp [*]

theorem isRoped_newThread : isRoped (newThread r core p x pc parts ls) = false := by
  simp only [isRoped, newThread, boolWord]
  split <;> rfl

/-- Without the g registers of the image, the bivouac's base stands in g30 alone. -/
theorem gValue_newThread (h : parts.getLsbD 0 = false) (g : Reg) :
    gValue (newThread r core p x pc parts ls) g = if g = 30 then BitVec.ofNat 64 p.bivb else 0 := by
  have g30 : (g.toNat = 30) = (g = 30) := propext ⟨fun e => BitVec.eq_of_toNat_eq e, congrArg BitVec.toNat⟩
  simp only [gValue, newThread, h, Bool.false_eq_true, if_false, amGet_amPut, amGet_nil, g30]
  by_cases zero : g = 0
  · subst zero
    rfl
  · rw [if_neg zero]

theorem vValue_newThread (h : parts.getLsbD 1 = false) (g : Reg) : vValue (newThread r core p x pc parts ls) g = {} := by
  simp only [vValue, newThread, h, Bool.false_eq_true, if_false, amGet_nil]

theorem kValue_newThread (h : parts.getLsbD 2 = false) {k : MReg} (hk : k ≠ 0) : kValue (newThread r core p x pc parts ls) k = 0 := by
  simp only [kValue, newThread, h, Bool.false_eq_true, if_false, if_neg hk, amGet_nil]

theorem special_newThread (h : parts.getLsbD 3 = false) :
    (newThread r core p x pc parts ls).fpctl = 0 ∧ (newThread r core p x pc parts ls).cbsel = 0 := by
  simp only [newThread, h, Bool.false_eq_true, if_false, and_self]

end

/-! ### User messages -/

theorem mem_of_mem_oldestBySource {m : UserMsg} {l : List UserMsg} (h : m ∈ oldestBySource l) : m ∈ l := by
  induction l with
  | nil => exact h
  | cons x l ih =>
    obtain rfl | later := List.mem_cons.1 h
    · exact List.mem_cons_self
    · exact List.mem_cons_of_mem x (ih (List.mem_of_mem_filter later))

/-- The choice is one of the messages, and changes no more than the count of free choices. -/
theorem messageChoice_some {s u : State} {l : List UserMsg} {m : UserMsg} (h : messageChoice s l = (some m, u)) :
    m ∈ l ∧ u = { s with fresh := u.fresh } := by
  unfold messageChoice at h
  split at h
  · cases h
  · cases h
    exact ⟨List.mem_cons_self, rfl⟩
  · next first rest _ =>
    cases h
    have inside : Config.messageChoice s.fresh % (first :: rest).length < (first :: rest).length := Nat.mod_lt _ (Nat.succ_pos _)
    rw [List.getD_eq_getElem _ _ inside]
    exact ⟨List.getElem_mem inside, rfl⟩

theorem mem_userFor {core : Nat} {m : UserMsg} {net : List NetMsg} (h : m ∈ net.filterMap (userFor core)) : m.dst = core := by
  obtain ⟨x, -, hx⟩ := List.mem_filterMap.1 h
  unfold userFor at hx
  split at hx
  · split at hx
    · next same =>
      cases hx
      exact same
    · cases hx
  · cases hx

/-- The state in which a message has entered a channel of its core. -/
def messageEntered (s : State) (core chan : Nat) (m : UserMsg) : State :=
  modCore { s with net := s.net.erase (.user m) } core fun c => { c with recv := amInsert c.recv chan (amGet c.recv chan [] ++ [m.data]) }

theorem exec_userMessageArrival {s u : State} {core chan : Nat} {m : UserMsg}
    (choice : messageChoice s ((oldestBySource (s.net.filterMap (userFor core))).filter fun m => m.chan == chan) = (some m, u))
    (room : (amGet (getCore s core).recv chan []).length < 8) :
    exec (.userMessageArrival core chan) s = .next (messageEntered u core chan m) := by
  have kept : u = { s with fresh := u.fresh } := (messageChoice_some choice).2
  show execUserMessageArrival core chan s = _
  simp only [execUserMessageArrival, runStep, if_neg (Nat.not_le.2 room), choice]
  rw [kept]
  rfl

/-! ### Replies of memory -/

/-- Whether a core advances rests on its skipping and on the clock, which no context holds. -/
theorem coreAdvances_setThread (s : State) (t : ThreadRef) (x : Thread) (core : Nat) :
    coreAdvances (setThread s t x) core = coreAdvances s core := by
  by_cases same : core = t.core
  · subst same
    simp only [coreAdvances, coreSkips, getCore_setThread_same]
    rfl
  · simp only [coreAdvances, coreSkips, getCore_setThread_other s x same]
    rfl

section
variable {s : State} {core slot : Nat}

theorem exec_memoryReply {x : Thread} (hx : getThread s { core := core, slot := slot } = x) (hw : x.wait = .reply) :
    exec (.memoryReply core slot) s =
      if isRoped x || !coreAdvances s core then .next (setThread s { core := core, slot := slot } { x with wait := .replied })
      else finishAccess (setThread s { core := core, slot := slot } { x with wait := .replied }) { core := core, slot := slot } := by
  show execMemoryReply core slot s = _
  simp only [execMemoryReply, hx, hw, ne_eq, not_true, if_false, coreAdvances_setThread]

theorem finishAccess_next {u v r : State} {t : ThreadRef} {i : Instr} (hn : nextInstr { u with cur := t, defer := false } t = (v, .ok i))
    (hr : completeAccess i v = .next r) :
    finishAccess u t = .next (if regionForced { r with cur := u.cur, defer := u.defer } t
      then stopForced { r with cur := u.cur, defer := u.defer } t else { r with cur := u.cur, defer := u.defer }) := by
  simp only [finishAccess, hn, hr]

end

/-- Settles O45: each event by its operation, and a new context field by field. -/
theorem coreEvents : Obligations.CoreEvents := by
  intro s
  refine ⟨fun core p i hp hok hi => ⟨?packet, slotState_acceptPacket _ _ _ _⟩,
    fun core slot p r u v w h pc ls adv hc hw hr hu head entry image free => ?creation, fun core slot adv => ?held, fun core slot hy => ?yield,
    fun core chan m u choice room => ?message, fun core slot hw => ⟨fun hnoted => ?noted, fun v i r alone adv hn hr => ⟨?load, ?completed⟩⟩⟩
  case packet =>
    show execLaunchPacketArrival core s = _
    simp only [execLaunchPacketArrival, runStep, hp]
    exact congrArg _ (takePacket_accepts hok hi)
  case creation =>
    subst hu
    refine ⟨_, (exec_threadCreation adv).trans (congrArg _ (createThread_live hc hw hr head entry image free)), ?_⟩
    simp only [getThread_setThread_same]
    exact ⟨rfl, rfl, modeSys_newThread, isRoped_newThread, rfl, rfl, rfl, rfl, rfl, rfl, rfl, rfl, rfl,
      gValue_newThread, vValue_newThread, fun off k => kValue_newThread off,
      special_newThread⟩
  case held =>
    show execThreadCreation core slot s = _
    simp only [execThreadCreation, runStep, adv, Bool.false_eq_true, if_false]
  case yield =>
    show execYieldExpiry core slot s = _
    simp only [execYieldExpiry, runStep]
    rw [if_pos hy]
  case message =>
    obtain ⟨chosen, kept⟩ := messageChoice_some choice
    obtain ⟨among, hchan⟩ := List.mem_filter.1 chosen
    have cores : u.cores = s.cores := by rw [kept]
    have net : u.net = s.net := by rw [kept]
    have same : getCore u core = getCore s core := by rw [getCore, getCore, cores]
    refine ⟨_, exec_userMessageArrival choice room, ?_, mem_userFor (mem_of_mem_oldestBySource among), beq_iff_eq.1 hchan, ?_⟩
    · rw [← net]
      rfl
    · rw [← same]
      simp only [messageEntered, modCore_eq, getCore_setCore_same, amGet_amInsert_same]
      rfl
  case noted =>
    rw [exec_memoryReply rfl hw, if_pos (by simpa using hnoted)]
    rfl
  case load =>
    rintro d a sz imm rfl
    exact hr
  case completed =>
    rw [exec_memoryReply rfl hw, if_neg (by simp [alone, adv])]
    exact finishAccess_next hn hr

end Sys2Proof.CoreEvents
end

section
/-! The slot that HALT frees: arrivals that name its core fall, which leaves the core itself alone, and the licence goes to the twin
(R71, R78, R79, R82, R249). -/
namespace Sys2Proof.SlotRelease
open Sys2Proof.Machine Sys2Proof.Safety Sys2Proof.Frames

/-! ### Arrivals that end -/

/-- A general destination is written as far as its port has room. -/
theorem effectOf_writeG (s : State) (r : Reg) (v : Word) : effectOf (writeG r v) s = s ∨ effectOf (writeG r v) s = giveG s r v := by
  by_cases h : isGPort r = true → roomFor s (gPortDir r) 1 = true
  · right
    rw [effectOf, writeG_ok h]
  · left
    obtain ⟨port, full⟩ := Classical.not_imp.1 h
    have blocked : writeG r v s = .error (.wait (.port (gPortDir r) true) id) := by
      rw [writeG, if_pos port, pushPort, m_bind_ok (getS_run s)]
      exact congrFun (if_neg full) s
    rw [effectOf, blocked]

/-- A destination of a thread lies on its core. -/
theorem getCore_giveG_other {s : State} {r : Reg} {v : Word} {k : Nat} (hk : k ≠ s.cur.core) : getCore (giveG s r v) k = getCore s k := by
  obtain ⟨j, x, h⟩ | h := giveG_cases s r v
  · rw [h, getCore_setSwitch]
  · rw [h, getCore_setThread_other s _ hk]

theorem getCore_asThread_writeG {s : State} {u : ThreadRef} {r : Reg} {v : Word} {k : Nat} (hk : k ≠ u.core) :
    getCore (asThread s u (writeG r v)) k = getCore s k := by
  show getCore (effectOf (writeG r v) { s with cur := u }) k = getCore s k
  obtain h | h := effectOf_writeG { s with cur := u } r v <;> rw [h]
  · rfl
  · exact getCore_giveG_other hk

theorem getCore_releasePorts_other {s : State} {u : ThreadRef} {x : Thread} {k : Nat} (hk : k ≠ u.core) :
    getCore (releasePorts s u x) k = getCore s k := by
  obtain h | ⟨hold, h⟩ := releasePorts_cases s u x
  · rw [h]
  · rw [h, getCore_setCore_other _ _ hk]

theorem getCore_endArrival_other {s : State} {u : ThreadRef} {d : Nat} {result pc : Word} {k : Nat} (hk : k ≠ u.core) :
    getCore (endArrival s u d result pc) k = getCore s k := by
  simp only [endArrival, markIssued, retire, modCore_eq, modThread_eq]
  rw [getCore_setCore_other _ _ hk, getCore_setThread_other _ _ hk, getCore_releasePorts_other hk, getCore_asThread_writeG hk]

/-- A state in which a core is as before. -/
theorem foldl_getCore {α : Type} {f : State → α → State} {k : Nat} {c : Core} (h : ∀ s x, getCore s k = c → getCore (f s x) k = c)
    (l : List α) {s : State} (hs : getCore s k = c) : getCore (l.foldl f s) k = c := by
  induction l generalizing s with
  | nil => exact hs
  | cons x l ih => exact ih (h s x hs)

/-- The cores of a quad whose arrivals a test selects. -/
def arrivalsHit (t : ThreadRef) (sel : Nat → Nat → Bool) (s : State) : List Nat :=
  (List.range 4).filter fun q =>
    match arrivalOf (getThread s (ropePeer t q)) with
    | some (m, _) => sel q m
    | none => false

/-- One of them is refused. -/
def refuseArrival (t : ThreadRef) (s : State) (q : Nat) : State :=
  match arrivalOf (getThread s (ropePeer t q)) with
  | some (_, d) => endArrival (noteRefusal s (ropePeer t q)) (ropePeer t q) d refusedWord ((getThread s (ropePeer t q)).pc + 4)
  | none => s

/-- One round of refusals, and those that fall with it. -/
theorem refuseArrivals_succ (t : ThreadRef) (n : Nat) (sel : Nat → Nat → Bool) (s : State) :
    refuseArrivals t (n + 1) sel s = if (arrivalsHit t sel s).isEmpty then s
      else refuseArrivals t n (fun _ m => (arrivalsHit t sel s).any fun q => m.testBit q) ((arrivalsHit t sel s).foldl (refuseArrival t) s) :=
  rfl

/-- An arrival that is refused stands in the thread's slot on another core: the thread itself waits in no ROPE. -/
theorem getCore_refuseArrival {s : State} {t : ThreadRef} (h : arrivalOf (getThread s t) = none) (q : Nat) :
    getCore (refuseArrival t s q) t.core = getCore s t.core := by
  rw [refuseArrival]
  split
  · next m d arrives =>
    have other : t.core ≠ (ropePeer t q).core := fun same => by
      have itself : ropePeer t q = t := congrArg (fun k => ({ core := k, slot := t.slot } : ThreadRef)) same.symm
      rw [itself, h] at arrives
      cases arrives
    rw [getCore_endArrival_other other, noteRefusal, modThread_eq, getCore_setThread_other _ _ other]
  · rfl

theorem getCore_refuseArrivals {s : State} {t : ThreadRef} (h : arrivalOf (getThread s t) = none) (n : Nat) (sel : Nat → Nat → Bool) :
    getCore (refuseArrivals t n sel s) t.core = getCore s t.core := by
  induction n generalizing sel s with
  | zero => rfl
  | succ n ih =>
    rw [refuseArrivals_succ]
    split
    · rfl
    · have round : getCore ((arrivalsHit t sel s).foldl (refuseArrival t) s) t.core = getCore s t.core :=
        foldl_getCore (fun z q hz => (getCore_refuseArrival (by rw [getThread, hz]; exact h) q).trans hz) _ rfl
      exact (ih (by rw [getThread, round]; exact h) _).trans round

/-! ### The freed slot -/

/-- A core whose slot is free and holds no port direction. -/
def freedCore (c : Core) (slot : Nat) : Core :=
  { c with slots := amInsert c.slots slot {}, portHold := c.portHold.filter fun p => p.2.slot ≠ slot }

/-- Where no packet waits, freeing a slot does no more to its core. -/
theorem getCore_freeSlotOf {s : State} {t : ThreadRef} (h : (getCore s t.core).waiting = []) :
    getCore (freeSlotOf s t) t.core = freedCore (getCore s t.core) t.slot := by
  let z := modCore (setThread s t {}) t.core fun c => { c with portHold := c.portHold.filter fun p => p.2.slot ≠ t.slot }
  have freed : getCore z t.core = freedCore (getCore s t.core) t.slot := by
    simp only [z, modCore_eq, getCore_setCore_same, getCore_setThread_same]
    rfl
  have gone : arrivalOf (getThread z t) = none := by
    rw [getThread, freed, freedCore, amGet_amInsert_same]
    rfl
  have refused : getCore (if isService t.core then z else refuseNaming z t (qcoreOf t.core)) t.core = freedCore (getCore s t.core) t.slot := by
    split
    · exact freed
    · exact (getCore_refuseArrivals gone 5 _).trans freed
  have nobody : (getCore (if isService t.core then z else refuseNaming z t (qcoreOf t.core)) t.core).waiting = [] := by
    rw [refused]
    exact h
  show getCore (admitWaiting (if isService t.core then z else refuseNaming z t (qcoreOf t.core)) t.core) t.core = _
  rw [admitWaiting, nobody]
  exact refused

theorem coreEmpty_iff (s : State) (core : Nat) :
    coreEmpty s core = true ↔ ∀ i < 4, (getThread s { core := core, slot := i }).slotState = .free := by
  simp [coreEmpty, slotFree]

/-- The freed slot empties its core where the others are free. -/
theorem coreEmpty_freeSlotOf {s : State} {t : ThreadRef} (h : (getCore s t.core).waiting = [])
    (last : ∀ i, i < 4 → i ≠ t.slot → (getThread s { core := t.core, slot := i }).slotState = .free) :
    coreEmpty (freeSlotOf s t) t.core = true := by
  refine (coreEmpty_iff _ _).2 fun i hi => ?_
  rw [getThread, getCore_freeSlotOf h, freedCore, amGet_amInsert]
  split
  · rfl
  · next other => exact last i hi other

/-! ### The licence -/

theorem getCore_wakeLicence_other (s : State) {core k : Nat} (hk : k ≠ core) : getCore (wakeLicence s core) k = getCore s k := by
  refine foldl_getCore (fun z i hz => ?_) _ rfl
  dsimp only
  split
  · rw [modThread_eq, getCore_setThread_other _ _ hk, hz]
  · exact hz

theorem getCore_resumeHolder_other (s : State) {core k : Nat} (hk : k ≠ core) : getCore (resumeHolder s core) k = getCore s k := by
  rw [resumeHolder, getCore_wakeLicence_other _ hk, modCore_eq, getCore_setCore_other _ _ hk]

theorem getCore_admitSaved_other (s : State) {pk k : Nat} (hk : k ≠ pairCore pk (getPair s pk).holder) :
    getCore (admitSaved s pk) k = getCore s k := by
  rw [admitSaved]
  dsimp only
  split
  · split
    · rw [getCore_resumeHolder_other _ hk]
      rfl
    · rfl
  · rfl

theorem getCore_grantLicence_other (s : State) {pk side k : Nat} (hk : k ≠ pairCore pk side) :
    getCore (grantLicence s pk side) k = getCore s k := by
  rw [grantLicence]
  dsimp only
  split
  · refine (getCore_admitSaved_other _ ?_).trans rfl
    simpa using hk
  · exact (getCore_resumeHolder_other _ hk).trans rfl

theorem getCore_releaseLicence_other (s : State) {pk side k : Nat} (hk : k ≠ pairCore pk (otherSide side)) :
    getCore (releaseLicence s pk side) k = getCore s k := by
  rw [releaseLicence]
  dsimp only
  split
  · rfl
  · split
    · exact (getCore_grantLicence_other _ hk).trans rfl
    · rfl

/-- The twin of a core stands on the other die of its stack. -/
theorem ne_twin {core : Nat} (h : isService core = false) : core ≠ pairCore (pairKey core) (otherSide (sideOf core)) := by
  have tile : core < 8192 := Nat.not_le.1 (of_decide_eq_false h)
  simp only [pairCore, pairKey, otherSide, sideOf, stackOf, rowOf, colOf, dieOf, h, Bool.false_eq_true, if_false]
  split <;> simp <;> omega

theorem getCore_coreEmptied_some (s r : State) (t : ThreadRef) : getCore (coreEmptied s t (some r)) t.core = getCore r t.core := by
  rw [coreEmptied]
  split
  · rfl
  · next tile => exact getCore_releaseLicence_other _ (ne_twin (Bool.eq_false_iff.2 tile))

theorem getCore_coreEmptied_none (s : State) (t : ThreadRef) :
    getCore (coreEmptied s t none) t.core = powerDown (getCore s t.core) := by
  refine Eq.trans ?_ (getCore_setCore_same s t.core _)
  exact getCore_coreEmptied_some s (modCore s t.core powerDown) t

/-! ### HALT -/

theorem getCore_retainScratch (s : State) (t : ThreadRef) (w : Word) :
    ∃ p, getCore (retainScratch s t w) t.core = { getCore s t.core with retention := some p } ∧ p.handle = w ∧
      ∀ r, threadRegion s t = some r → p.row = packRow t.core - r.prow ∧ p.col = packCol t.core - r.pcol := by
  unfold retainScratch
  refine ⟨_, getCore_setCore_same _ _ _, ?_⟩
  cases threadRegion s t with
  | none => exact ⟨rfl, fun r h => by cases h⟩
  | some r =>
    refine ⟨rfl, fun q h => ?_⟩
    cases h
    exact ⟨rfl, rfl⟩

section
variable {s : State} {t : ThreadRef} (h : (getCore (performAll s t) t.core).waiting = [])
include h

/-- The core after a HALT that leaves another thread on it. -/
theorem getCore_haltThread_shared {handle : Option Word} (shared : coreEmpty (freeSlotOf (performAll s t) t) t.core = false) :
    getCore (haltThread s t handle) t.core = freedCore (getCore (performAll s t) t.core) t.slot := by
  simp only [haltThread, shared, Bool.false_eq_true, if_false]
  exact getCore_freeSlotOf h

/-- The core after the HALT that empties it and retains nothing. -/
theorem getCore_haltThread_none (last : coreEmpty (freeSlotOf (performAll s t) t) t.core = true) :
    getCore (haltThread s t none) t.core = powerDown (freedCore (getCore (performAll s t) t.core) t.slot) := by
  simp only [haltThread, last, if_true]
  rw [getCore_coreEmptied_none, getCore_freeSlotOf h]

/-- The core after the HALT that empties it and retains the scratchpad. -/
theorem getCore_haltThread_some {w : Word} (last : coreEmpty (freeSlotOf (performAll s t) t) t.core = true) :
    ∃ p, getCore (haltThread s t (some w)) t.core = { freedCore (getCore (performAll s t) t.core) t.slot with retention := some p } ∧
      p.handle = w ∧ ∀ r, threadRegion (performAll s t) t = some r → p.row = packRow t.core - r.prow ∧ p.col = packCol t.core - r.pcol := by
  obtain ⟨p, kept, place⟩ := getCore_retainScratch (performAll s t) t w
  refine ⟨p, ?_, place⟩
  simp only [haltThread, last, if_true]
  rw [getCore_coreEmptied_some, getCore_freeSlotOf (by rw [kept]; exact h), kept]
  rfl

/-- HALT leaves a free slot. -/
theorem getThread_haltThread (handle : Option Word) : getThread (haltThread s t handle) t = {} := by
  have freed : (getCore (haltThread s t handle) t.core).slots = amInsert (getCore (performAll s t) t.core).slots t.slot {} := by
    cases last : coreEmpty (freeSlotOf (performAll s t) t) t.core with
    | false => rw [getCore_haltThread_shared h last, freedCore]
    | true =>
      cases handle with
      | none => rw [getCore_haltThread_none h last, powerDown, freedCore]
      | some w =>
        obtain ⟨p, core, -⟩ := getCore_haltThread_some h (w := w) last
        rw [core, freedCore]
  rw [getThread, freed, amGet_amInsert_same]

end

end Sys2Proof.SlotRelease
end

section
/-! HALT, YIELD, SPLIT and CAIRN (R78 to R80, R85, R324). -/
namespace Sys2Proof.ThreadControl
open Sys2Proof.Machine Sys2Proof.Safety Sys2Proof.Frames Sys2Proof.SlotRelease

theorem run4_modS (f : State → State) (s : State) : run4 (modS f) s = .next (retired 4 s (f s)) := run4_ok (modS_run f s)

/-! ### HALT -/

/-- HALT ends its thread once no engine command of it is on its way. -/
theorem haltWork_ends {s : State} {handle : M (Option Word)} {h : Option Word} (hh : handle s = .ok (h, s))
    (sent : fenceWaits s s.cur 0 = false) : haltWork handle s = .next (haltThread s s.cur h) := by
  simp only [haltWork]
  rw [m_bind_ok hh, m_bind_ok (getS_run s), sent]
  rfl

theorem exec_halt {s : State} (sent : fenceWaits s s.cur 0 = false) : exec .halt s = .next (haltThread s s.cur none) :=
  haltWork_ends rfl sent

theorem exec_haltRetain {s : State} {a : Reg} (ha : isGPort a = false) (sent : fenceWaits s s.cur 0 = false) :
    exec (.haltRetain a) s = .next (haltThread s s.cur (some (gValue (me s) a))) :=
  haltWork_ends (m_bind_ok (IntegerForms.readG_plain ha)) sent

/-! ### YIELD -/

/-- A context that waits for n cycles, or is passed over once. -/
def yielded (cycle : Nat) (n : BitVec 12) (x : Thread) : Thread :=
  if n = 0 then { x with passScalar := some cycle, passVector := some cycle } else { x with yieldLeft := n.toNat + 2 }

theorem exec_yield (s : State) (n : BitVec 12) : exec (.yield n) s = .next (retired 4 s (setThread s s.cur (yielded s.cycle n (me s)))) := by
  show execYield n s = _
  exact (run4_modS _ s).trans rfl

theorem yielded_g (cycle : Nat) (n : BitVec 12) (x : Thread) : (yielded cycle n x).g = x.g := by
  unfold yielded
  split <;> rfl

/-! ### SPLIT -/

theorem isRoped_setRope (x : Thread) (roped : Bool) (rank mask : Nat) : isRoped (setRope x roped rank mask) = roped := by
  have small (b : Bool) : bit b ≤ 1 := by cases b <;> decide
  have mode := small (modeSys x)
  have pmode := small (pmodeSys x)
  unfold isRoped setRope statusWord
  rw [BitVec.getLsbD_ofNat, Nat.testBit_eq_decide_div_mod_eq]
  generalize bit (modeSys x) = m at mode ⊢
  generalize bit (pmodeSys x) = n at pmode ⊢
  cases roped <;> simp [bit] <;> omega

/-- A change made to each of several threads is seen in each of them. -/
theorem foldl_modThread {P : Thread → Prop} {f : Thread → Thread} (hf : ∀ x, P (f x)) {u : ThreadRef} (l : List ThreadRef) {s : State}
    (h : P (getThread s u) ∨ u ∈ l) : P (getThread (l.foldl (fun s u => modThread s u f) s) u) := by
  induction l generalizing s with
  | nil => simpa using h
  | cons v l ih =>
    refine ih (s := setThread s v (f (getThread s v))) ?_
    by_cases same : u = v
    · subst same
      rw [getThread_setThread_same]
      exact .inl (hf _)
    · rw [getThread_setThread_other _ _ same]
      simpa [same] using h

theorem dissolveRope_alone {s : State} {t : ThreadRef} (h : isRoped (getThread s t) = false) : dissolveRope s t = s :=
  if_neg (by simp [h])

theorem isRoped_dissolveRope {s : State} {t u : ThreadRef} (h : isRoped (getThread s t) = true) (hu : u ∈ ropeMembers s t) :
    isRoped (getThread (dissolveRope s t) u) = false := by
  rw [dissolveRope, if_pos h]
  exact foldl_modThread (P := fun x => isRoped x = false) (fun x => isRoped_setRope x false 0 0) _ (.inr hu)

theorem exec_split (s : State) : exec .split s = .next (retired 4 s (dissolveRope s s.cur)) := run4_modS (fun s => dissolveRope s s.cur) s

/-! ### CAIRN -/

theorem slotState_stopThread (full : Bool) (id : Nat) (s : State) (t : ThreadRef) :
    (getThread (stopThread full id s t) t).slotState = .stopped full id := by
  rw [stopThread]
  dsimp only
  split
  · rw [modThread_eq, getThread_setThread_same]
  · rw [modPair_eq, getThread_setPair, modThread_eq, getThread_setThread_same]

/-- What CAIRN does before it retires: it stops its thread where a pre-emption is requested. -/
theorem exec_cairn_free {s : State} {i : BitVec 12} (h : ∀ r, threadRegion s s.cur = some r → r.preempt = none) :
    exec (.cairn i) s = .next (retired 4 s s) := by
  show execCairn i s = _
  refine (run4_modS _ s).trans ?_
  cases hr : threadRegion s s.cur with
  | none => rfl
  | some r => simp only [h r hr, Option.isSome_none, Bool.false_eq_true, if_false]

theorem exec_cairn_stops {s : State} {i : BitVec 12} {r : Region} {p : Nat × Nat} (hr : threadRegion s s.cur = some r)
    (hp : r.preempt = some p) : exec (.cairn i) s =
      .next (retired 4 s (stopThread (r.forced || cairnFull s r s.cur.core i.toNat) i.toNat s s.cur)) := by
  show execCairn i s = _
  refine (run4_modS _ s).trans ?_
  simp only [hr, hp, Option.isSome_some, if_true]

/-- Settles O13: HALT by the core that it leaves, the other forms by what they do to their threads. -/
theorem threadControl : Obligations.ThreadControl := by
  intro s
  refine ⟨exec_halt, fun a => exec_haltRetain, fun h nobody => ?halt, fun n => ⟨_, exec_yield s n, ?yield⟩, ⟨exec_split s, ?alone, ?roped⟩,
    fun i => ⟨exec_cairn_free, fun r p hr hp => ⟨_, exec_cairn_stops hr hp, ?stops⟩⟩⟩
  case halt =>
    refine ⟨by rw [getThread_haltThread nobody], getThread_haltThread nobody h, fun last hn => ?_, fun w hw last => ?_⟩ <;>
      have emptied := coreEmpty_freeSlotOf nobody last
    · subst hn
      rw [getCore_haltThread_none nobody emptied]
      exact ⟨rfl, rfl, fun a => rfl⟩
    · subst hw
      obtain ⟨p, core, handle, place⟩ := getCore_haltThread_some nobody (w := w) emptied
      rw [core]
      exact ⟨fun a => rfl, p, rfl, handle, place⟩
  case yield =>
    have rest := (sameRest_setThread s s.cur (yielded s.cycle n (me s))).trans (retiredAt_sameRest s _ ((me s).pc + 4))
    have others : OthersSame s (retired 4 s (setThread s s.cur (yielded s.cycle n (me s)))) := fun u hu => by
      rw [retired, getThread_retiredAt_other hu, getThread_setThread_other s _ hu]
    rw [retired, getThread_retiredAt, getThread_setThread_same]
    exact ⟨fun hn => by rw [yielded, if_neg hn], fun hn => by rw [yielded, if_pos hn]; exact ⟨rfl, rfl⟩, rfl, yielded_g _ _ _, rest.memory, others⟩
  case alone =>
    intro h
    rw [exec_split, dissolveRope_alone h]
  case roped => exact fun h u hu => isRoped_dissolveRope h hu
  case stops =>
    rw [retired, getThread_retiredAt]
    exact ⟨rfl, slotState_stopThread _ _ s s.cur⟩

end Sys2Proof.ThreadControl
end

section
/-! A ROPE of a thread that stands on no core (R81, R82): the QCORE number of a memory tile's place is that of a neighbour. -/
namespace Sys2Proof.RopeOffCore
open Sys2Proof.Machine Sys2Proof.Safety

/-- A region with quads. -/
def withQuads : Region := { inst := 1, h := 2, w := 4, quad := true }

/-- A thread at the place of the memory tile beside core 0, whose QCORE number is core 0's; the thread on core 2 waits in a ROPE with
core 0. -/
def misplaced : State :=
  { cur := { core := 1 }
    cores := [(1, { slots := [(0, { slotState := .live, inst := 1 })] }),
      (2, { slots := [(0, { slotState := .live, inst := 1, wait := .rope 3 5 })] })]
    regions := [(1, withQuads)] }

/-- The slot on core 0, and the one that waits. -/
def neighbour : ThreadRef := { core := 0 }
def waiting : ThreadRef := { core := 2 }

/-- The part has no slot there (R3, R71). -/
theorem no_core : threadExists misplaced.cur = false := by decide

theorem peer_one : ropePeer misplaced.cur 1 = waiting := by decide

theorem wait_waiting : (getThread misplaced waiting).wait = .rope 3 5 := by decide

theorem region_misplaced : (threadRegion misplaced misplaced.cur).map (·.quad) = some true := by decide

/-- The one other member that mask 3 names stands on core 2. -/
theorem named_other {i : Nat} (hi : i < 4) (named : (3 : Nat).testBit i = true) (other : i ≠ 0) : i = 1 := by
  interval_cases i
  · exact absurd rfl other
  · rfl
  · exact absurd named (by decide)
  · exact absurd named (by decide)

/-- Of the quad's slots only that of core 2 waits in a ROPE. -/
theorem waits_alone {i : Nat} (hi : i < 4) {k e : Nat} (h : (getThread misplaced (ropePeer misplaced.cur i)).wait = .rope k e) : k = 3 := by
  interval_cases i
  · cases (show Wait.none = .rope k e from h)
  · rw [peer_one, wait_waiting] at h
    cases h
    rfl
  · cases (show Wait.none = .rope k e from h)
  · cases (show Wait.none = .rope k e from h)

/-- The formation makes core 0's slot a member in the place of the executing thread, and leaves it at its PC. -/
theorem exec_misplaced : ∃ t, exec (.rope 9 3) misplaced = .next t ∧ (getThread t neighbour).pc = 0 := ⟨_, rfl, by decide⟩

/-- Refutes O14: where the executing thread stands at the place of a memory tile, its QCORE number names a neighbouring core, whose slot is
made a member though it has executed no ROPE, and stays at its PC. -/
theorem not_ropeResults : ¬ Obligations.RopeResults := by
  intro h
  have ports : PortsReady misplaced [] [] [9] [] := by
    unfold PortsReady
    decide
  obtain ⟨-, -, -, formed, -⟩ := h 9 3 misplaced ports (by decide)
  refine Exists.elim (formed ?allowed ?complete fun i k e hi arrives _ => waits_alone hi arrives) ?formation
  case allowed =>
    rintro (small | apart | service | quadless | roped | ⟨i, ⟨hi, named, other⟩, barred⟩)
    · exact small (by decide)
    · exact absurd apart (by decide)
    · exact absurd service (by decide)
    · obtain ⟨r, hr, quad⟩ := Option.map_eq_some_iff.1 region_misplaced
      exact absurd ((quadless r hr).symm.trans quad) (by decide)
    · exact absurd roped (by decide)
    · obtain rfl := named_other hi named other
      obtain free | roped | ⟨k, e, arrives, differs⟩ | fell := barred
      · exact absurd free (by decide)
      · exact absurd roped (by decide)
      · exact differs (waits_alone hi arrives)
      · exact absurd fell (by decide)
  case complete =>
    rintro i ⟨hi, named, other⟩
    obtain rfl := named_other hi named other
    exact ⟨5, wait_waiting⟩
  case formation =>
    rintro t ⟨ran, members, -⟩
    obtain ⟨z, ran', stays⟩ := exec_misplaced
    obtain rfl := Host.Outcome.next.inj (ran.symm.trans ran')
    obtain ⟨-, -, -, goes⟩ := members 0 (by decide) rfl
    have moved : (getThread t neighbour).pc = (getThread misplaced neighbour).pc + 4 := goes
    rw [stays] at moved
    exact absurd moved (by decide)

end Sys2Proof.RopeOffCore
end

section
/-! Vector loads (R109, R158, R160): their checks, and the lanes that they give from the bytes they read. -/
namespace Sys2Proof.VectorLoads
open Sys2Proof.Machine Sys2Proof.Safety Sys2Proof.LaneLaws Sys2Proof.VectorStores

/-! ### Lanes under a mask -/

/-- New lanes where the mask enables them, the old ones elsewhere. -/
theorem lane_mergeLanes {w n i mask old : Nat} {new : List Nat} (hi : i < n) (fits : w * n ≤ 512) :
    lane w (BitVec.ofNat 512 (mergeLanes w n mask old new)).toNat i =
      if mask.testBit i then new.getD i 0 % 2 ^ w else lane w old i := by
  rw [mergeLanes, lane_packed hi fits]
  split
  · rfl
  · exact Conversions.lane_mod_self ..

theorem getD_lanes {w n i : Nat} (x : Nat) (hi : i < n) : (lanes w n x).getD i 0 = lane w x i := by simp [lanes, hi]

section
variable {d a b : Reg} {k : MReg} {tag : Tag} {imm : BitVec 8} {s t u : State}

/-! ### What a load writes -/

/-- The register that a load writes in the state t: the lanes of the image x where the mask enables them. -/
def loaded (t : State) (d : Reg) (tag : Tag) (mask x : Nat) : BitVec 512 :=
  BitVec.ofNat 512 (mergeLanes (tagLane tag) (tagLanes tag) mask (if isVPort d then 0 else (vValue (me t) d).bits.toNat)
    (lanes (tagLane tag) (tagLanes tag) x))

theorem filled_loaded (x : Nat) : Filled s t d k tag x (loaded t d tag (kValue (me s) k).toNat x) := by
  intro i hi
  rw [loaded, lane_mergeLanes hi (tagLane_mul_tagLanes tag).le, getD_lanes x hi, Conversions.lane_mod_self]
  refine if_congr Iff.rfl rfl ?_
  split
  · rw [lane, Nat.zero_shiftRight, Nat.zero_mod]
  · rfl

/-- The state in which it has written it. -/
def given (t : State) (d : Reg) (tag : Tag) (mask x : Nat) : State := giveV t d { bits := loaded t d tag mask x, tag := tag }

theorem putLoaded_ok (room : writeBlocked t [] [d] = none) (mask x : Nat) :
    putLoaded d tag mask x t = .ok ((), given t d tag mask x) :=
  (m_bind_ok (Conversions.oldBits_run d rfl)).trans
    (RoomReady.giveV (PortsReady.room (gs := []) (vs := []) ⟨(portsReady_nil t).1, room⟩) _)

/-! ### VLD -/

/-- The work of VLD once its source is read. -/
def vldWork (d : Reg) (tag : Tag) (k : MReg) (ea : Word) : M Unit := do
  requireAligned (vecAlign tag) ea
  let mask ← readK k
  let runs := enabledRuns (byteEnabled tag mask) (vecBytes tag)
  let span := runsSpan runs
  if span.2 = 0 then pure () else requireLocalRange (ea + BitVec.ofNat 64 span.1) span.2 ea
  loadPieces (runs.flatMap fun r => (pagePieces (ea + BitVec.ofNat 64 r.1) r.2).map fun q => (q.1, q.2, ea)) [] fun l =>
    putLoaded d tag mask (fromImage tag (imageOf (vecBytes tag) runs l))

theorem exec_vld_eq : exec (.vld d a tag k imm) s =
    run4 (withPorts [a] [] [] [d] (readG a >>= fun x => vldWork d tag k (vectorEa x imm))) s := rfl

theorem exec_vld_trap (hp : PortsReady s [a] [] [] [d]) (bad : (vectorEa (valueG s a) imm).toNat % vecAlign tag ≠ 0) :
    exec (.vld d a tag k imm) s =
      .next (takeTrap (holdDirs (namedDirs [a] [d]) s) s.cur causeAlignment (vectorEa (valueG s a) imm)) :=
  run4_trap (withPorts_trap hp ((m_bind_ok hp.sources.takeG.1).trans (m_bind_error (requireAligned_trap bad))))

theorem vldWork_ok {ea : Word} {l : List Byte} (aligned : ea.toNat % vecAlign tag = 0)
    (range : let span := runsSpan (enabledRuns (byteEnabled tag (kValue (me u) k).toNat) (vecBytes tag))
      span.2 ≠ 0 → RangeOk u (ea + BitVec.ofNat 64 span.1) span.2)
    (loads : LoadsAll u ((enabledRuns (byteEnabled tag (kValue (me u) k).toNat) (vecBytes tag)).flatMap fun r =>
      pagePieces (ea + BitVec.ofNat 64 r.1) r.2) l t) (room : writeBlocked t [] [d] = none) :
    let mask := (kValue (me u) k).toNat
    vldWork d tag k ea u = .ok ((), given t d tag mask
      (fromImage tag (imageOf (vecBytes tag) (enabledRuns (byteEnabled tag mask) (vecBytes tag)) l))) := by
  intro mask
  have read := loadPieces_ok (val := fun _ => ea) (acc := []) (k := fun l => putLoaded d tag mask
    (fromImage tag (imageOf (vecBytes tag) (enabledRuns (byteEnabled tag mask) (vecBytes tag)) l))) loads (putLoaded_ok room _ _)
  rw [List.map_flatMap] at read
  unfold vldWork
  rw [m_bind_ok (requireAligned_ok aligned), m_bind_ok (show readK k u = .ok (mask, u) from rfl)]
  by_cases empty : (runsSpan (enabledRuns (byteEnabled tag mask) (vecBytes tag))).2 = 0
  · rw [if_pos empty]
    exact read
  · rw [if_neg empty]
    exact (m_bind_ok (requireLocalRange_ok (range empty))).trans read

/-! ### Strided, indexed and broadcast loads -/

variable {addr : Nat → Word} {mask : Nat}

theorem gatherLoad_ok {l : List Byte}
    (checks : ∀ j ∈ enabledElems tag mask, (addr j).toNat % elemBytes tag = 0 ∧ RangeOk u (addr j) (elemBytes tag))
    (loads : LoadsAll u ((enabledElems tag mask).map fun j => (addr j, elemBytes tag)) l t) (room : writeBlocked t [] [d] = none) :
    gatherLoad d tag mask addr u = .ok ((), given t d tag mask
      (ofBytes (imageOf 64 ((enabledElems tag mask).map fun j => (j * elemBytes tag, elemBytes tag)) l))) := by
  have aligned : ∀ ea ∈ (enabledElems tag mask).map addr, ea.toNat % elemBytes tag = 0 :=
    List.forall_mem_map.2 fun j hj => (checks j hj).1
  have ranges : ∀ ea ∈ (enabledElems tag mask).map addr, RangeOk u ea (elemBytes tag) :=
    List.forall_mem_map.2 fun j hj => (checks j hj).2
  have read := loadPieces_ok (val := fun q => q.1) (acc := []) (k := fun l => putLoaded d tag mask
    (ofBytes (imageOf 64 ((enabledElems tag mask).map fun j => (j * elemBytes tag, elemBytes tag)) l))) loads (putLoaded_ok room _ _)
  rw [List.map_map] at read
  exact (m_bind_ok (requireElemsAligned_ok aligned)).trans ((m_bind_ok (requireElemsLocal_ok ranges)).trans read)

/-- The first enabled element that is misaligned raises the trap. -/
theorem gatherLoad_trap {j : Nat} (hj : j ∈ enabledElems tag mask) (bad : (addr j).toNat % elemBytes tag ≠ 0)
    (first : ∀ x ∈ enabledElems tag mask, x < j → (addr x).toNat % elemBytes tag = 0) :
    gatherLoad d tag mask addr u = .error (.trap causeAlignment (addr j) id) := by
  have rising : (enabledElems tag mask).Pairwise (· < ·) := List.pairwise_lt_range.filter _
  obtain ⟨before, after, split⟩ := List.append_of_mem hj
  rw [split] at rising first
  have good : ∀ ea ∈ before.map addr, ea.toNat % elemBytes tag = 0 := List.forall_mem_map.2 fun x hx =>
    first x (List.mem_append_left _ hx) (List.pairwise_append.1 rising |>.2.2 x hx j List.mem_cons_self)
  refine m_bind_error ?_
  rw [split, List.map_append, List.map_cons]
  exact requireElemsAligned_trap good bad

/-- What the statement says of such a load: u is the state once the sources are read. -/
theorem gathers_of_run {i : Instr} {gs vs : List Reg} (hm : me u = me s)
    (done : ∀ {t}, gatherLoad d tag (kValue (me u) k).toNat addr u = .ok ((), t) → exec i s = .next (retired 4 s t))
    (trapped : ∀ {e}, gatherLoad d tag (kValue (me u) k).toNat addr u = .error (.trap causeAlignment e id) →
      exec i s = .next (takeTrap (holdDirs (namedDirs gs vs) s) s.cur causeAlignment e)) :
    let el := enabledElems tag (kValue (me s) k).toNat
    ((∀ j ∈ el, (addr j).toNat % elemBytes tag = 0 ∧ RangeOk u (addr j) (elemBytes tag)) →
        ∀ l t, LoadsAll u (el.map fun j => (addr j, elemBytes tag)) l t → writeBlocked t [] [d] = none →
          ∃ r, Filled s t d k tag (ofBytes (imageOf 64 (el.map fun j => (j * elemBytes tag, elemBytes tag)) l)) r ∧
            exec i s = .next (retired 4 s (giveV t d { bits := r, tag := tag }))) ∧
      ∀ j ∈ el, (addr j).toNat % elemBytes tag ≠ 0 → (∀ x ∈ el, x < j → (addr x).toNat % elemBytes tag = 0) →
        exec i s = .next (takeTrap (holdDirs (namedDirs gs vs) s) s.cur causeAlignment (addr j)) := by
  rw [hm] at done trapped
  exact ⟨fun checks l t loads room => ⟨_, filled_loaded _, done (gatherLoad_ok checks loads room)⟩,
    fun j hj bad first => trapped (gatherLoad_trap hj bad first)⟩

theorem exec_vlds_run (hp : PortsReady s [a, b] [] [] [d]) :
    let u := afterG (afterG s a) b
    let work := gatherLoad d tag (kValue (me u) k).toNat (strideAddr (valueG s a) (valueG (afterG s a) b)) u
    (∀ {t}, work = .ok ((), t) → exec (.vlds d a b k tag) s = .next (retired 4 s t)) ∧
      ∀ {e}, work = .error (.trap causeAlignment e id) →
        exec (.vlds d a b k tag) s = .next (takeTrap (holdDirs (namedDirs [a, b] [d]) s) s.cur causeAlignment e) := by
  obtain ⟨readA, rest⟩ := hp.sources.takeG
  obtain ⟨readB, -⟩ := rest.takeG
  exact ⟨fun work => run4_ok (withPorts_ok hp ((m_bind_ok readA).trans ((m_bind_ok readB).trans work))),
    fun work => run4_trap (withPorts_trap hp ((m_bind_ok readA).trans ((m_bind_ok readB).trans work)))⟩

theorem exec_vldx_run (hp : PortsReady s [a] [b] [] [d]) (hb : TagsAgree (afterG s a) b)
    (index : isIntClass (tagClass (valueV (afterG s a) b).tag) = true) (lanes : tagLanes tag ≤ tagLanes (valueV (afterG s a) b).tag) :
    let u := afterV (afterG s a) b
    let work := gatherLoad d tag (kValue (me u) k).toNat (indexAddr (valueG s a) (elemBytes tag) (valueV (afterG s a) b)) u
    (∀ {t}, work = .ok ((), t) → exec (.vldx d a b k tag) s = .next (retired 4 s t)) ∧
      ∀ {e}, work = .error (.trap causeAlignment e id) →
        exec (.vldx d a b k tag) s = .next (takeTrap (holdDirs (namedDirs [a] [b, d]) s) s.cur causeAlignment e) := by
  obtain ⟨readA, rest⟩ := hp.sources.takeG
  obtain ⟨readB, -⟩ := rest.takeV hb
  have checked := requireIndexTag_ok (s := afterV (afterG s a) b) (b := b) index lanes
  exact ⟨fun work => run4_ok (withPorts_ok hp ((m_bind_ok readA).trans ((m_bind_ok readB).trans ((m_bind_ok checked).trans work)))),
    fun work => run4_trap (withPorts_trap hp ((m_bind_ok readA).trans ((m_bind_ok readB).trans ((m_bind_ok checked).trans work))))⟩

theorem exec_vldb_run (hp : PortsReady s [a] [] [] [d]) :
    let work := gatherLoad d tag (kValue (me (afterG s a)) k).toNat (fun _ => valueG s a) (afterG s a)
    (∀ {t}, work = .ok ((), t) → exec (.vldb d a k tag) s = .next (retired 4 s t)) ∧
      ∀ {e}, work = .error (.trap causeAlignment e id) →
        exec (.vldb d a k tag) s = .next (takeTrap (holdDirs (namedDirs [a] [d]) s) s.cur causeAlignment e) :=
  ⟨fun work => run4_ok (withPorts_ok hp ((m_bind_ok hp.sources.takeG.1).trans work)),
    fun work => run4_trap (withPorts_trap hp ((m_bind_ok hp.sources.takeG.1).trans work))⟩

end

/-- Settles O30: VLD by its runs of enabled bytes, the other forms element by element, each after its checks. -/
theorem vectorLoads : Obligations.VectorLoads := by
  refine ⟨fun d a tag k imm s hp => ⟨exec_vld_trap hp, fun aligned range l t loads room => ⟨_, filled_loaded _, ?vld⟩⟩,
    fun d a b k tag s => ⟨fun hp => ?vlds, fun hp hb index lanes => ?vldx, fun hp => ?vldb⟩⟩
  case vld =>
    have hm : me (afterG s a) = me s := me_afterG s a
    rw [← hm] at range loads ⊢
    exact run4_ok (withPorts_ok hp ((m_bind_ok hp.sources.takeG.1).trans (vldWork_ok aligned range loads room)))
  case vlds =>
    obtain ⟨done, trapped⟩ := exec_vlds_run (tag := tag) (k := k) hp
    exact gathers_of_run (by simp) done trapped
  case vldx =>
    obtain ⟨done, trapped⟩ := exec_vldx_run (tag := tag) (k := k) hp hb index lanes
    exact gathers_of_run (by simp) done trapped
  case vldb =>
    obtain ⟨done, trapped⟩ := exec_vldb_run (tag := tag) (k := k) hp
    exact gathers_of_run (by simp) done trapped

end Sys2Proof.VectorLoads
end

section
/-! What a masked vector form writes (R51, R109): the enabled lanes are new, the others old, and the events are those of the enabled
lanes. -/
namespace Sys2Proof.MaskedForms
open Sys2Proof.Machine Sys2Proof.Safety Sys2Proof.LaneLaws

section
variable {s u : State} {d a b : Reg} {k : MReg} {t : Tag} {f : Nat → Nat × FpFlags}

/-- The lanes and the events of a form under its mask, as the model computes them. -/
def maskedLanes (s : State) (d : Reg) (k : MReg) (t : Tag) (f : Nat → Nat × FpFlags) : Nat × FpFlags :=
  mapLanes (tagLane t) (tagLanes t) (kValue (me s) k).toNat (if isVPort d then 0 else (vValue (me s) d).bits.toNat) f

/-- The register that the form gives. -/
def maskedBits (s : State) (d : Reg) (k : MReg) (t : Tag) (f : Nat → Nat × FpFlags) : BitVec 512 :=
  BitVec.ofNat 512 (maskedLanes s d k t f).1

/-- The events of the enabled lanes. -/
def maskedFlags (s : State) (k : MReg) (t : Tag) (f : Nat → Nat × FpFlags) : FpFlags :=
  flagsAll ((List.range (tagLanes t)).map fun i => if enabled s k i then (f i).2 else noFlags)

/-- The state in which the form has written both. -/
def wrote (s u : State) (d : Reg) (k : MReg) (t : Tag) (f : Nat → Nat × FpFlags) : State :=
  flagged (giveV u d { bits := maskedBits s d k t f, tag := t }) (maskedFlags s k t f)

theorem merged_maskedBits : Merged s d k t (maskedBits s d k t f) fun i => (f i).1 := by
  intro i hi
  have lanes : (maskedLanes s d k t f).1 = packLanes (tagLane t) ((List.range (tagLanes t)).map fun i =>
      if enabled s k i then (f i).1 else lane (tagLane t) (if isVPort d then 0 else (vValue (me s) d).bits.toNat) i) := by
    rw [maskedLanes, mapLanes]
    simp only [List.map_map, Function.comp_def, apply_ite Prod.fst]
    rfl
  rw [maskedBits, lanes, lane_packed hi (tagLane_mul_tagLanes t).le]
  cases enabled s k i with
  | true => rfl
  | false =>
    refine (Conversions.lane_mod_self ..).trans ?_
    cases isVPort d with
    | true => exact (congrArg (· % _) (Nat.zero_shiftRight _)).trans (Nat.zero_mod _)
    | false => rfl

theorem maskedLanes_flags : (maskedLanes s d k t f).2 = maskedFlags s k t f := by
  rw [maskedLanes, mapLanes, maskedFlags]
  simp only [List.map_map, Function.comp_def, apply_ite Prod.snd]
  rfl

theorem maskedFlags_noFlags (h : ∀ i, (f i).2 = noFlags) : maskedFlags s k t f = noFlags :=
  flagsAll_noFlags fun x hx => by
    obtain ⟨i, -, rfl⟩ := List.mem_map.1 hx
    rw [h, ite_self]

/-- A result of the lanes is written with its tag and its events, in a state in which the thread is as before. -/
theorem putMasked_run (room : RoomReady u [] [d]) : putVec d t (maskedLanes s d k t f) u = .ok ((), wrote s u d k t f) := by
  rw [putVec_run t _ room, maskedLanes_flags]
  rfl

/-- What the forms with lanes do once they have read their sources. -/
theorem readMasked_run (hm : me u = me s) (room : RoomReady u [] [d]) {f : RMode → Nat → Nat × FpFlags} :
    (readK k >>= fun mask => oldBits d >>= fun old => self >>= fun x =>
      putVec d t (mapLanes (tagLane t) (tagLanes t) mask old (f (rmodeDyn (fpctlRm x) 7)))) u =
      .ok ((), wrote s u d k t (f (rmodeDyn (fpctlRm (me s)) 7))) := by
  refine (m_bind_ok (show readK k u = .ok ((kValue (me s) k).toNat, u) by rw [← hm]; rfl)).trans
    ((m_bind_ok (Conversions.oldBits_run d hm)).trans ((m_bind_ok (self_run u)).trans ?_))
  have mine : getThread u u.cur = me s := hm
  rw [mine]
  exact putMasked_run room

/-- The forms that move elements have no events. -/
theorem vecMove_run (hm : me u = me s) (room : RoomReady u [] [d]) (v : VReg) (f : Nat → Nat) :
    vecMove d k v f u = .ok ((), flagged (giveV u d { bits := maskedBits s d k v.tag fun i => (f i, noFlags), tag := v.tag }) noFlags) := by
  refine (m_bind_ok (show readK k u = .ok ((kValue (me s) k).toNat, u) by rw [← hm]; rfl)).trans
    ((m_bind_ok (Conversions.oldBits_run d hm)).trans ((putMasked_run (s := s) (k := k) room).trans ?_))
  rw [wrote, maskedFlags_noFlags fun i => rfl]

/-- Two vector sources are read in order. -/
theorem readV_two {α : Type} {gs : List Reg} {m : VReg → VReg → M α} (h : SourcesReady s gs [a, b]) (ha : TagsAgree s a)
    (hb : TagsAgree (afterV s a) b) : (readV a >>= fun va => readV b >>= fun vb => m va vb) s =
      m (valueV s a) (valueV (afterV s a) b) (afterVV s a b) := by
  obtain ⟨readA, rest⟩ := h.takeV ha
  rw [m_bind_ok readA, m_bind_ok (rest.takeV hb).1, afterVV]

theorem me_afterVV (s : State) (a b : Reg) : me (afterVV s a b) = me s := by rw [afterVV, me_afterV, me_afterV]

theorem room_afterVV {vd : List Reg} (h : RoomReady s [] vd) (a b : Reg) : RoomReady (afterVV s a b) [] vd := (h.afterV a).afterV b

end

end Sys2Proof.MaskedForms
end

section
/-! The forms that move elements (R113, R118 to R122). -/
namespace Sys2Proof.VectorMoves
open Sys2Proof.Machine Sys2Proof.Safety Sys2Proof.LaneLaws Sys2Proof.MaskedForms

section
variable {d a b : Reg} {k : MReg} {s : State}

/-! ### Moves of two vector sources, slides and the broadcast -/

/-- A form that moves elements of two vector sources. -/
def moveTwo (d a b : Reg) (k : MReg) (f : Tag → BitVec 512 → BitVec 512 → Nat → Nat) : M Unit :=
  withPorts [] [a, b] [] [d] (readV a >>= fun va => readV b >>= fun vb => vecMove d k va (f va.tag va.bits vb.bits))

/-- A form that moves elements of a vector source by a count. -/
def moveBy (d a b : Reg) (k : MReg) (f : Tag → BitVec 512 → Nat → Nat → Nat) : M Unit :=
  withPorts [b] [a] [] [d] (readV a >>= fun va => readG b >>= fun n => vecMove d k va (f va.tag va.bits n.toNat))

theorem exec_vecMoves {p : (Reg → Reg → Reg → MReg → Instr) × (Tag → BitVec 512 → BitVec 512 → Nat → Nat)} (hp : p ∈ vecMoves) :
    exec (p.1 d a b k) s = run4 (moveTwo d a b k p.2) s := by
  simp only [vecMoves, List.mem_cons, List.not_mem_nil, or_false] at hp
  obtain rfl | rfl | rfl | rfl | rfl | rfl := hp
  case inr.inr.inr.inr.inl =>
    have pick (t : Tag) (x y : BitVec 512) : (fun i => if i % 2 = 0 then lane (tagLane t) x.toNat (i / 2) else lane (tagLane t) y.toNat (i / 2)) =
        fun i => lane (tagLane t) (if i % 2 = 0 then x.toNat else y.toNat) (i / 2) :=
      funext fun i => (apply_ite (lane (tagLane t) · (i / 2)) _ _ _).symm
    simp only [moveTwo, pick]
    rfl
  all_goals rfl

theorem exec_vecSlides {p : (Reg → Reg → Reg → MReg → Instr) × (Tag → BitVec 512 → Nat → Nat → Nat)} (hp : p ∈ vecSlides) :
    exec (p.1 d a b k) s = run4 (moveBy d a b k p.2) s := by
  simp only [vecSlides, List.mem_cons, List.not_mem_nil, or_false] at hp
  obtain rfl | rfl | rfl := hp <;> rfl

theorem moveTwo_run (h : VectorReady s a b d) (f : Tag → BitVec 512 → BitVec 512 → Nat → Nat) :
    let va := valueV s a
    let lanes (i : Nat) : Nat × FpFlags := (f va.tag va.bits (valueV (afterV s a) b).bits i, noFlags)
    run4 (moveTwo d a b k f) s =
      .next (retired 4 s (flagged (giveV (afterVV s a b) d { bits := maskedBits s d k va.tag lanes, tag := va.tag }) noFlags)) := by
  obtain ⟨hp, ha, hb⟩ := h
  exact run4_ok (withPorts_ok hp ((readV_two hp.sources ha hb).trans (vecMove_run (me_afterVV s a b) (room_afterVV hp.room a b) _ _)))

theorem moveBy_run (hp : PortsReady s [b] [a] [] [d]) (ha : TagsAgree s a) (f : Tag → BitVec 512 → Nat → Nat → Nat) :
    let va := valueV s a
    let lanes (i : Nat) : Nat × FpFlags := (f va.tag va.bits (valueG (afterV s a) b).toNat i, noFlags)
    run4 (moveBy d a b k f) s = .next (retired 4 s
      (flagged (giveV (afterG (afterV s a) b) d { bits := maskedBits s d k va.tag lanes, tag := va.tag }) noFlags)) := by
  obtain ⟨readA, rest⟩ := hp.sources.takeV ha
  exact run4_ok (withPorts_ok hp ((m_bind_ok readA).trans ((m_bind_ok rest.takeG.1).trans
    (vecMove_run (by simp) ((hp.room.afterV a).afterG b) _ _))))

/-! ### VMOV, VCMPRS and VSEL -/

theorem exec_vmov (hp : PortsReady s [] [a] [] [d]) (ha : TagsAgree s a) :
    let va := valueV s a
    exec (.vmov d a k) s = .next (retired 4 s (flagged (giveV (afterV s a) d
      { bits := maskedBits s d k va.tag fun i => (lane (tagLane va.tag) va.bits.toNat i, noFlags), tag := va.tag }) noFlags)) :=
  run4_ok (withPorts_ok hp ((m_bind_ok (hp.sources.takeV ha).1).trans (vecMove_run (me_afterV s a) (hp.room.afterV a) _ _)))

/-- The register of VCMPRS: the selected elements, packed. -/
def compressed (s : State) (a : Reg) (k : MReg) : BitVec 512 :=
  let va := valueV s a
  BitVec.ofNat 512 (packLanes (tagLane va.tag)
    (((List.range (tagLanes va.tag)).filter fun i => enabled s k i).map (lane (tagLane va.tag) va.bits.toNat)))

theorem exec_vcmprs (hp : PortsReady s [] [a] [] [d]) (ha : TagsAgree s a) : exec (.vcmprs d a k) s =
    .next (retired 4 s (flagged (giveV (afterV s a) d { bits := compressed s a k, tag := (valueV s a).tag }) noFlags)) := by
  have mask : readK k (afterV s a) = .ok ((kValue (me s) k).toNat, afterV s a) := by rw [← me_afterV s a]; rfl
  exact run4_ok (withPorts_ok hp ((m_bind_ok (hp.sources.takeV ha).1).trans ((m_bind_ok mask).trans (putVec_run _ _ (hp.room.afterV a)))))

theorem lane_compressed {j : Nat} (hj : j < tagLanes (valueV s a).tag) :
    let w := tagLane (valueV s a).tag
    let sel := (List.range (tagLanes (valueV s a).tag)).filter fun i => enabled s k i
    lane w (compressed s a k).toNat j = if j < sel.length then lane w (valueV s a).bits.toNat (sel.getD j 0) else 0 := by
  intro w sel
  have room : w * (j + 1) ≤ 512 := tagLane_mul_tagLanes (valueV s a).tag ▸ Nat.mul_le_mul_left w hj
  rw [compressed, lane_ofNat room, lane_packLanes]
  split
  · next hj => simpa [sel, hj] using Conversions.lane_mod_self ..
  · next hj => simp [sel, not_lt.1 hj]

/-- The register of VSEL. -/
def selected (s : State) (a b : Reg) (k : MReg) : BitVec 512 :=
  let t := (valueV s a).tag
  BitVec.ofNat 512 (mergeLanes (tagLane t) (tagLanes t) (kValue (me s) k).toNat (valueV (afterV s a) b).bits.toNat
    (lanes (tagLane t) (tagLanes t) (valueV s a).bits.toNat))

theorem exec_vsel (h : VectorReady s a b d) : exec (.vsel d a b k) s =
    .next (retired 4 s (flagged (giveV (afterVV s a b) d { bits := selected s a b k, tag := (valueV s a).tag }) noFlags)) := by
  obtain ⟨hp, ha, hb⟩ := h
  have mask : readK k (afterVV s a b) = .ok ((kValue (me s) k).toNat, afterVV s a b) := by rw [← me_afterVV s a b]; rfl
  exact run4_ok (withPorts_ok hp ((readV_two hp.sources ha hb).trans ((m_bind_ok mask).trans (putVec_run _ _ (room_afterVV hp.room a b)))))

theorem lane_selected {i : Nat} (hi : i < tagLanes (valueV s a).tag) :
    let w := tagLane (valueV s a).tag
    lane w (selected s a b k).toNat i =
      if enabled s k i then lane w (valueV s a).bits.toNat i else lane w (valueV (afterV s a) b).bits.toNat i := by
  intro w
  rw [selected, VectorLoads.lane_mergeLanes hi (tagLane_mul_tagLanes _).le, VectorLoads.getD_lanes _ hi, Conversions.lane_mod_self]
  rfl

/-! ### VEXT and VINS -/

theorem exec_vext (hp : PortsReady s [b] [a] [d] []) (ha : TagsAgree s a) :
    let va := valueV s a
    let e := (valueG (afterV s a) b).toNat % tagLanes va.tag
    exec (.vext d a b) s =
      .next (retired 4 s (giveG (afterG (afterV s a) b) d (extractElem va.tag (lane (tagLane va.tag) va.bits.toNat e)))) := by
  obtain ⟨readA, rest⟩ := hp.sources.takeV ha
  exact run4_ok (withPorts_ok hp ((m_bind_ok readA).trans ((m_bind_ok rest.takeG.1).trans (((hp.room.afterV a).afterG b).giveG _))))

/-- An element as R120 delivers it, by the class of the tag. -/
theorem extractElem_eq (t : Tag) (bits e : Nat) : extractElem t (lane (tagLane t) bits e) =
    match tagClass t with
    | .int n true => BitVec.ofInt 64 (toSigned n (lane n bits e))
    | _ => BitVec.ofNat 64 (lane (tagLane t) bits e % 2 ^ tagElemBits t) := by
  unfold extractElem
  cases ht : tagClass t with
  | int n sg =>
    rw [tagLane_int ht]
    cases sg <;> rfl
  | _ => rfl

theorem exec_vins (hp : PortsReady s [a, b] [] [] []) (hd : isVPort d = false) :
    let v := vValue (me s) d
    let e := (valueG (afterG s a) b).toNat % tagLanes v.tag
    exec (.vins d a b) s = .next (retired 4 s (giveV (afterG (afterG s a) b) d (insertElem v e (valueG s a)))) := by
  have mine : getThread (afterG (afterG s a) b) (afterG (afterG s a) b).cur = me s := by
    rw [← me, me_afterG, me_afterG]
  refine run4_ok (withPorts_ok hp ((IntegerForms.readG_two hp.sources).trans ((m_bind_ok (self_run _)).trans ?_)))
  rw [mine]
  exact writeV_ok fun port => absurd port (by simp [hd])

theorem tagElemBits_le (t : Tag) : tagElemBits t ≤ tagLane t := by revert t; decide

theorem lane_insertElem (v : VReg) (e : Nat) (x : Word) {i : Nat} (hi : i < tagLanes v.tag) :
    lane (tagLane v.tag) (insertElem v e x).bits.toNat i =
      if i = e then x.toNat % 2 ^ tagElemBits v.tag else lane (tagLane v.tag) v.bits.toNat i := by
  rw [insertElem, lane_packed hi (tagLane_mul_tagLanes v.tag).le]
  split
  · exact Nat.mod_eq_of_lt ((Nat.mod_lt _ (Nat.two_pow_pos _)).trans_le (Nat.pow_le_pow_right two_pos (tagElemBits_le v.tag)))
  · exact Conversions.lane_mod_self ..

end

/-- Settles O20: the tables' forms by one move each, and the selecting forms and the single elements lane by lane. -/
theorem vectorMoves : Obligations.VectorMoves := by
  refine ⟨fun d a b k s => ⟨fun h i hi => ?_, fun hp ha i hi => ?_⟩,
    fun p hp d a b k s h => ⟨_, merged_maskedBits, (exec_vecMoves hp).trans (moveTwo_run h p.2)⟩,
    fun p hp d a b k s h ha => ⟨_, merged_maskedBits, (exec_vecSlides hp).trans (moveBy_run h ha p.2)⟩,
    fun d a k s hp ha => ⟨⟨_, merged_maskedBits, exec_vmov hp ha⟩, _, fun j hj => lane_compressed hj, exec_vcmprs hp ha⟩,
    fun d a b k s h => ⟨_, fun i hi => lane_selected hi, exec_vsel h⟩,
    fun d a b s hp ha => ⟨_, exec_vext hp ha, extractElem_eq _ _ _⟩,
    fun d a b s hp hd => ⟨_, fun i hi => lane_insertElem _ _ _ hi, exec_vins hp hd⟩⟩
  · obtain ⟨p, hp, rfl⟩ := List.mem_map.1 (show i ∈ vecMoves.map fun p => p.1 d a b k from hi)
    exact ⟨_, (exec_vecMoves hp).trans (moveTwo_run h p.2)⟩
  · obtain ⟨q, hq, rfl⟩ := List.mem_map.1 (show i ∈ vecSlides.map fun p => p.1 d a b k from hi)
    exact ⟨_, (exec_vecSlides hq).trans (moveBy_run hp ha q.2)⟩

end Sys2Proof.VectorMoves
end

section
/-! Sums and products of exact values, and what a format delivers of them (R48, R52, R112 to R115). -/
namespace Sys2Proof.FloatArithmetic
open Sys2Proof.Machine Sys2Proof.Safety Sys2Proof.LaneLaws Sys2Proof.FloatValues Sys2Proof.Rounding

/-! ### What a format delivers -/

theorem hasNaN_of_hasInf {f : FFmt} (h : ffHasInf f = true) : ffHasNaN f = true := by
  revert h; cases f <;> decide

section
variable {f : FFmt} (hinf : ffHasInf f = true)
include hinf

theorem deliver_nan (rm : RMode) (fl : FpFlags) : deliver f rm (.nan false, fl) = (ffNaN f, fl) := by
  have encoded : encodeF f rm false (.nan false) = (ffNaN f, noFlags) := if_pos (hasNaN_of_hasInf hinf)
  rw [deliver, encoded, or_noFlags]

theorem deliver_inf (rm : RMode) (n : Bool) (fl : FpFlags) : deliver f rm (.inf n, fl) = (withSign f n (ffInf f), fl) := by
  have encoded : encodeF f rm false (.inf n) = (withSign f n (ffInf f), noFlags) := if_pos hinf
  rw [deliver, encoded, or_noFlags]

theorem deliver_invalid (rm : RMode) : deliver f rm invalid = nanOf f true := deliver_nan hinf rm flagNV

end

theorem deliver_zero (f : FFmt) (rm : RMode) (n : Bool) (e : Int) (fl : FpFlags) :
    deliver f rm (.fin n 0 e, fl) = (withSign f n 0, fl) := by
  have encoded : encodeF f rm false (.fin n 0 e) = (withSign f n 0, noFlags) := by simp [encodeF]
  rw [deliver, encoded, or_noFlags]

theorem deliver_noFlags (f : FFmt) (rm : RMode) (v : FVal) : deliver f rm (v, noFlags) = encodeF f rm false v :=
  Prod.ext rfl (noFlags_or _)

/-- A value that is not zero is rounded once. -/
theorem deliver_fin (f : FFmt) (rm : RMode) (n : Bool) {m : Nat} (e : Int) (h : m ≠ 0) :
    deliver f rm (.fin n m e, noFlags) = roundFinite f rm false n m e := (deliver_noFlags ..).trans (if_neg h)

/-- An exact value of a number, of the named sign where it is a zero, is delivered. -/
theorem delivered_of_value {f : FFmt} (hinf : ffHasInf f = true) (rm : RMode) {v : FVal} {x : ℚ} {n : Bool} (finite : isFinite v = true)
    (value : valQ v = x) (sign : x = 0 → signNeg v = n) : Delivered f rm x n (deliver f rm (v, noFlags)) := by
  rw [deliver_noFlags]
  subst value
  cases v with
  | fin k m e =>
    obtain ⟨zero, number⟩ := delivered_valQ hinf rm k m e
    exact ⟨fun h0 => (zero h0).trans (congrArg (zeroOf f) (sign h0)), number⟩
  | _ => cases finite

/-! ### Exact values -/

theorem isFinite_fneg (x : FVal) : isFinite (fneg x) = isFinite x := by cases x <;> rfl
theorem isNaN_fneg (x : FVal) : isNaN (fneg x) = isNaN x := by cases x <;> rfl
theorem isSNaN_fneg (x : FVal) : isSNaN (fneg x) = isSNaN x := by cases x <;> rfl

theorem valQ_fneg (x : FVal) : valQ (fneg x) = -valQ x := by
  cases x with
  | fin n m e => cases n <;> simp [fneg, valQ]
  | _ => exact neg_zero.symm

/-- The value of an integer in units of 2^e. -/
theorem valQ_int (z e : Int) : valQ (.fin (decide (z < 0)) z.natAbs e) = (z : ℚ) * 2 ^ e := by
  have int := Conversions.ofIntVal_value z
  rw [ofIntVal, valQ, zpow_zero, mul_one] at int
  rw [valQ, int]

/-- A value is finite, or infinite, or a NaN. -/
theorem not_finite {x : FVal} (number : isNaN x = false) (h : isFinite x = false) : ∃ n, x = .inf n := by
  cases x with
  | nan s => cases number
  | inf n => exact ⟨n, rfl⟩
  | fin n m e => cases h

theorem finite_fin {x : FVal} (h : isFinite x = true) : ∃ n m e, x = .fin n m e := by
  cases x with
  | fin n m e => exact ⟨n, m, e, rfl⟩
  | _ => cases h

theorem finite_not_nan {x : FVal} (h : isFinite x = true) : isNaN x = false := by
  obtain ⟨n, m, e, rfl⟩ := finite_fin h
  rfl

/-! ### Sums -/

theorem fadd_nan (rm : RMode) {x y : FVal} (h : isNaN x = true ∨ isNaN y = true) :
    fadd rm x y = (.nan false, { nv := isSNaN x || isSNaN y }) := by
  cases x <;> cases y <;> simp [isNaN, isSNaN, fadd] at h ⊢

theorem fadd_inf_inf (rm : RMode) (a b : Bool) : fadd rm (.inf a) (.inf b) = if a = b then (.inf a, noFlags) else invalid := rfl

theorem fadd_inf_finite (rm : RMode) (a : Bool) {y : FVal} (h : isFinite y = true) : fadd rm (.inf a) y = (.inf a, noFlags) := by
  obtain ⟨n, m, e, rfl⟩ := finite_fin h
  rfl

theorem fadd_finite_inf (rm : RMode) (a : Bool) {x : FVal} (h : isFinite x = true) : fadd rm x (.inf a) = (.inf a, noFlags) := by
  obtain ⟨n, m, e, rfl⟩ := finite_fin h
  rfl

/-- Terms of one sign have a sum of zero only where both are zero. -/
theorem signedMan_add_eq_zero {n : Bool} {a b : Nat} (h : signedMan n a + signedMan n b = 0) : a = 0 ∧ b = 0 := by
  cases n <;> simp only [signedMan, if_true, Bool.false_eq_true, if_false] at h <;> omega

theorem finAdd_spec (rm : RMode) (n1 n2 : Bool) (m1 m2 : Nat) (e1 e2 : Int) :
    isFinite (finAdd rm n1 m1 e1 n2 m2 e2) = true ∧
      valQ (finAdd rm n1 m1 e1 n2 m2 e2) = valQ (.fin n1 m1 e1) + valQ (.fin n2 m2 e2) ∧
      (valQ (.fin n1 m1 e1) + valQ (.fin n2 m2 e2) = 0 → signNeg (finAdd rm n1 m1 e1 n2 m2 e2) = zeroSign rm n1 n2) := by
  have below : (if e1 < e2 then e1 else e2) ≤ e1 ∧ (if e1 < e2 then e1 else e2) ≤ e2 := by split <;> omega
  rw [valQ_units below.1, valQ_units below.2, ← add_mul, ← Int.cast_add]
  unfold finAdd
  dsimp only
  generalize (if e1 < e2 then e1 else e2) = e
  by_cases zero : signedMan n1 (m1 <<< (e1 - e).toNat) + signedMan n2 (m2 <<< (e2 - e).toNat) = 0
  · rw [if_pos zero, zero]
    refine ⟨rfl, by simp [valQ], fun _ => ?_⟩
    show (if m1 = 0 ∧ m2 = 0 then zeroSign rm n1 n2 else decide (rm = .rdn)) = zeroSign rm n1 n2
    split
    · rfl
    · next nonzero =>
      refine (if_neg ?_).symm
      rintro rfl
      obtain ⟨h1, h2⟩ := signedMan_add_eq_zero zero
      exact nonzero ⟨(Nat.shiftLeft_eq_zero_iff).1 h1, (Nat.shiftLeft_eq_zero_iff).1 h2⟩
  · rw [if_neg zero]
    refine ⟨rfl, valQ_int _ e, fun h => absurd h ?_⟩
    exact mul_ne_zero (Int.cast_ne_zero.2 zero) (by positivity)

theorem fadd_finite (rm : RMode) {x y : FVal} (hx : isFinite x = true) (hy : isFinite y = true) : ∃ v, fadd rm x y = (v, noFlags) ∧
    isFinite v = true ∧ valQ v = valQ x + valQ y ∧ (valQ x + valQ y = 0 → signNeg v = zeroSign rm (signNeg x) (signNeg y)) := by
  obtain ⟨n1, m1, e1, rfl⟩ := finite_fin hx
  obtain ⟨n2, m2, e2, rfl⟩ := finite_fin hy
  exact ⟨_, rfl, finAdd_spec rm n1 n2 m1 m2 e1 e2⟩

section
variable {f : FFmt} (hinf : ffHasInf f = true) (rm : RMode)
include hinf

theorem sumRule_fadd (x y : FVal) : SumRule f rm x y (deliver f rm (fadd rm x y)) := by
  refine ⟨fun nan => ?_, fun a b hx hy => ?_, fun a hx hy => ?_, fun a hy hx => ?_, fun hx hy => ?_⟩
  · rw [fadd_nan rm nan]
    exact deliver_nan hinf rm _
  · rw [hx, hy, fadd_inf_inf]
    split
    · exact deliver_inf hinf rm a noFlags
    · exact deliver_invalid hinf rm
  · rw [hx, fadd_inf_finite rm a hy]
    exact deliver_inf hinf rm a noFlags
  · rw [hy, fadd_finite_inf rm a hx]
    exact deliver_inf hinf rm a noFlags
  · obtain ⟨v, sum, finite, value, sign⟩ := fadd_finite rm hx hy
    rw [sum]
    exact delivered_of_value hinf rm finite value sign

/-! ### Products -/

omit hinf in
theorem fmul_nan {x y : FVal} (h : isNaN x = true ∨ isNaN y = true) : fmul x y = (.nan false, { nv := isSNaN x || isSNaN y }) := by
  cases x <;> cases y <;> simp [isNaN, isSNaN, fmul] at h ⊢

omit hinf in
theorem fmul_infTimesZero {x y : FVal} (h : InfTimesZero x y) : fmul x y = invalid := by
  obtain ⟨⟨n, rfl⟩, finite, zero⟩ | ⟨⟨n, rfl⟩, finite, zero⟩ := h
  all_goals
    obtain ⟨k, m, e, rfl⟩ := finite_fin finite
    exact if_pos (valQ_fin_eq_zero.1 zero)

omit hinf in
/-- An infinite factor that meets no zero gives an infinity. -/
theorem fmul_inf {x y : FVal} (hx : isNaN x = false) (hy : isNaN y = false) (h : ¬ InfTimesZero x y)
    (infinite : isFinite x = false ∨ isFinite y = false) : fmul x y = (.inf (signNeg x != signNeg y), noFlags) := by
  have inf_fin {n k : Bool} {m : Nat} {e : Int} (h : ¬ InfTimesZero (.inf n) (.fin k m e)) : m ≠ 0 :=
    fun zero => h (.inl ⟨⟨n, rfl⟩, rfl, valQ_fin_eq_zero.2 zero⟩)
  have fin_inf {n k : Bool} {m : Nat} {e : Int} (h : ¬ InfTimesZero (.fin k m e) (.inf n)) : m ≠ 0 :=
    fun zero => h (.inr ⟨⟨n, rfl⟩, rfl, valQ_fin_eq_zero.2 zero⟩)
  cases x with
  | nan s => cases hx
  | inf a =>
    cases y with
    | nan s => cases hy
    | inf b => rfl
    | fin n m e => exact if_neg (inf_fin h)
  | fin n m e =>
    cases y with
    | nan s => cases hy
    | inf b => exact (if_neg (fin_inf h)).trans (by rw [bne_comm]; rfl)
    | fin n' m' e' => simp [isFinite] at infinite

omit hinf in
theorem fmul_finite {x y : FVal} (hx : isFinite x = true) (hy : isFinite y = true) : ∃ v, fmul x y = (v, noFlags) ∧
    isFinite v = true ∧ valQ v = valQ x * valQ y ∧ signNeg v = (signNeg x != signNeg y) := by
  obtain ⟨n1, m1, e1, rfl⟩ := finite_fin hx
  obtain ⟨n2, m2, e2, rfl⟩ := finite_fin hy
  refine ⟨_, rfl, rfl, ?_, rfl⟩
  rw [valQ, valQ, valQ, zpow_add₀ (by norm_num)]
  cases n1 <;> cases n2 <;> push_cast <;> simp <;> ring

theorem productRule_fmul (x y : FVal) : ProductRule f rm x y (deliver f rm (fmul x y)) := by
  refine ⟨fun nan => ?_, fun hx hy => ⟨fun invalid => ?_, fun valid infinite => ?_, fun hx hy => ?_⟩⟩
  · rw [fmul_nan nan]
    exact deliver_nan hinf rm _
  · rw [fmul_infTimesZero invalid]
    exact deliver_invalid hinf rm
  · rw [fmul_inf hx hy valid infinite]
    exact deliver_inf hinf rm _ noFlags
  · obtain ⟨v, product, finite, value, sign⟩ := fmul_finite hx hy
    rw [product]
    exact delivered_of_value hinf rm finite value fun _ => sign

/-! ### Fused sums -/

omit hinf in
/-- Infinity times zero is invalid whatever the addend. -/
theorem ffma_infTimesZero {x y : FVal} (z : FVal) (h : InfTimesZero x y) : ffma rm x y z = invalid := by
  have numbers : isNaN x = false ∧ isNaN y = false := by
    obtain ⟨⟨n, rfl⟩, finite, -⟩ | ⟨⟨n, rfl⟩, finite, -⟩ := h
    · exact ⟨rfl, finite_not_nan finite⟩
    · exact ⟨finite_not_nan finite, rfl⟩
  rw [ffma, fmul_infTimesZero h, numbers.1, numbers.2]
  simp [invalid, isNaN, flagsOr, flagNV, nvIfSNaN]

omit hinf in
theorem nvIfSNaN_three (x y z : FVal) : nvIfSNaN [x, y, z] = { nv := isSNaN x || isSNaN y || isSNaN z } := by
  simp [nvIfSNaN, Bool.or_assoc]

omit hinf in
theorem not_snan {x : FVal} (h : isNaN x = false) : isSNaN x = false := by
  cases x with
  | nan s => cases h
  | _ => rfl

omit hinf in
/-- Where the factors are numbers with a product, the fused sum is that of the product and the addend. -/
theorem ffma_eq_fadd {x y z p : FVal} (hx : isNaN x = false) (hy : isNaN y = false) (hp : fmul x y = (p, noFlags)) (number : isNaN p = false) :
    ffma rm x y z = fadd rm p z := by
  have event : nvIfSNaN [x, y, z] = { nv := isSNaN z } := by
    rw [nvIfSNaN_three, not_snan hx, not_snan hy, Bool.or_false, Bool.false_or]
  rw [ffma, hp, event, hx, hy]
  dsimp only
  rw [number, noFlags_or, Bool.or_false, if_neg (by decide), if_neg (by decide)]
  refine Prod.ext rfl ?_
  cases hz : isNaN z with
  | true =>
    rw [fadd_nan rm (.inr hz), not_snan number]
    simp [flagsOr]
  | false =>
    rw [not_snan hz]
    exact noFlags_or _

omit hinf in
/-- The product of two numbers that is not invalid: an infinity or a number, of the factors' sign. -/
theorem fmul_number {x y : FVal} (hx : isNaN x = false) (hy : isNaN y = false) (h : ¬ InfTimesZero x y) :
    ∃ p, fmul x y = (p, noFlags) ∧ isNaN p = false := by
  by_cases infinite : isFinite x = false ∨ isFinite y = false
  · exact ⟨_, fmul_inf hx hy h infinite, rfl⟩
  · rw [not_or, Bool.not_eq_false, Bool.not_eq_false] at infinite
    obtain ⟨v, product, finite, -, -⟩ := fmul_finite infinite.1 infinite.2
    exact ⟨v, product, finite_not_nan finite⟩

omit hinf in
theorem ffma_nan {x y z : FVal} (h : ¬ InfTimesZero x y) (nan : isNaN x = true ∨ isNaN y = true ∨ isNaN z = true) :
    ffma rm x y z = (.nan false, { nv := isSNaN x || isSNaN y || isSNaN z }) := by
  by_cases factor : (isNaN x || isNaN y) = true
  · rw [ffma, if_pos factor, nvIfSNaN_three]
  · obtain ⟨hx, hy⟩ := Bool.or_eq_false_iff.1 (Bool.not_eq_true _ ▸ factor)
    have hz : isNaN z = true := by simpa [hx, hy] using nan
    obtain ⟨p, product, number⟩ := fmul_number hx hy h
    rw [ffma_eq_fadd rm hx hy product number, fadd_nan rm (.inr hz), not_snan number, not_snan hx, not_snan hy, Bool.or_false]

theorem fusedRule_ffma (x y z : FVal) : FusedRule f rm x y z (deliver f rm (ffma rm x y z)) := by
  refine ⟨fun h => ?_, fun h nan => ?_, fun h hx hy infinite => ?_, fun hx hy => ?_⟩
  · rw [ffma_infTimesZero rm z h]
    exact deliver_invalid hinf rm
  · rw [ffma_nan rm h nan]
    exact deliver_nan hinf rm _
  · rw [ffma_eq_fadd rm hx hy (fmul_inf hx hy h infinite) rfl]
    obtain ⟨-, inf_inf, inf_finite, -⟩ := sumRule_fadd hinf rm (.inf (signNeg x != signNeg y)) z
    exact ⟨inf_finite _ rfl, fun a hz => (inf_inf _ a rfl hz).trans (by split <;> simp_all)⟩
  · obtain ⟨p, product, finite, value, sign⟩ := fmul_finite hx hy
    rw [ffma_eq_fadd rm (finite_not_nan hx) (finite_not_nan hy) product (finite_not_nan finite)]
    obtain ⟨-, -, -, finite_inf, sum⟩ := sumRule_fadd hinf rm p z
    rw [value, sign] at sum
    exact ⟨fun a hz => finite_inf a hz finite, sum finite⟩

end

end Sys2Proof.FloatArithmetic
end

section
/-! Quotients and roots (R113, R114): the model keeps the number's leading bits and a low bit that says whether it was cut. -/
namespace Sys2Proof.FloatArithmetic
open Sys2Proof.Machine Sys2Proof.Safety Sys2Proof.LaneLaws Sys2Proof.FloatValues Sys2Proof.Rounding

/-! ### A low bit for what was cut -/

/-- A count r with a low bit stands for the number between r and r + 1 from which it was cut. -/
theorem stands_cut {r : Nat} {a : ℝ} {whole : Prop} [Decidable whole] (low : (r : ℝ) ≤ a) (high : a < r + 1) (hw : whole ↔ a = r) {e q : Int}
    (unit : e + 1 ≤ q) : Stands (2 * r + if whole then 0 else 1) (e - 1) q (a * 2 ^ e) := by
  have pos : (0 : ℝ) < 2 ^ (e - 1) := by positivity
  have double : (2 : ℝ) ^ e = 2 * 2 ^ (e - 1) := by rw [← zpow_one_add₀ (by norm_num)]; ring_nf
  rw [double]
  by_cases h : whole
  · rw [if_pos h, hw.1 h]
    exact .inl (by push_cast; ring)
  · have above : (r : ℝ) < a := lt_of_le_of_ne low fun same => h (hw.2 same.symm)
    rw [if_neg h]
    exact .inr ⟨by omega, by omega, by push_cast; nlinarith, by push_cast; nlinarith⟩

/-- A count of 25 bits or more has a low bit that is small enough for every format. -/
theorem cut_unit (f : FFmt) {r c : Nat} (e : Int) (h : 2 ^ 24 ≤ r) : e + 1 ≤ ((2 * r + c).log2 : Int) + (e - 1) - ffFracBits f := by
  have bits : 25 ≤ (2 * r + c).log2 := (Nat.le_log2 (by omega)).2 (by omega)
  have fraction : ffFracBits f ≤ 23 := by cases f <;> decide
  omega

section
variable {f : FFmt} (hinf : ffHasInf f = true) (rm : RMode)
include hinf

/-! ### Quotients -/

omit hinf in
theorem fdiv_nan {x y : FVal} (h : isNaN x = true ∨ isNaN y = true) : fdiv x y = (.nan false, { nv := isSNaN x || isSNaN y }) := by
  cases x <;> cases y <;> simp [isNaN, isSNaN, fdiv] at h ⊢

omit hinf in
/-- The quotient of two naturals has 80 bits or more, and a low bit for the remainder. -/
theorem quotBits_stands (f : FFmt) {a b : Nat} (ha : a ≠ 0) (hb : b ≠ 0) (e : Int) :
    (quotBits a b).1 ≠ 0 ∧ Stands (quotBits a b).1 (e + (quotBits a b).2) ((quotBits a b).1.log2 + (e + (quotBits a b).2) - ffFracBits f)
      ((a : ℝ) / b * 2 ^ e) := by
  generalize hk : 80 + b.log2 = k
  have parts : quotBits a b = (2 * ((a <<< k) / b) + (if (a <<< k) % b = 0 then 0 else 1), -(k : Int) - 1) := by rw [← hk]; rfl
  have pos : (0 : ℝ) < b := by exact_mod_cast Nat.pos_of_ne_zero hb
  have large : 2 ^ 24 ≤ (a <<< k) / b := by
    rw [Nat.le_div_iff_mul_le (Nat.pos_of_ne_zero hb), Nat.shiftLeft_eq, ← hk]
    calc 2 ^ 24 * b ≤ 2 ^ 24 * 2 ^ (b.log2 + 1) := Nat.mul_le_mul_left _ Nat.lt_log2_self.le
      _ ≤ 2 ^ (80 + b.log2) := by rw [← pow_add]; exact Nat.pow_le_pow_right two_pos (by omega)
      _ ≤ a * 2 ^ (80 + b.log2) := Nat.le_mul_of_pos_left _ (Nat.pos_of_ne_zero ha)
  have number : (a : ℝ) / b * 2 ^ e = ((a <<< k : Nat) : ℝ) / b * 2 ^ (e - k) := by
    rw [Nat.shiftLeft_eq, zpow_sub₀ (by norm_num), zpow_natCast]
    push_cast
    field_simp
  have euclid : ((a <<< k : Nat) : ℝ) = b * ((a <<< k / b : Nat) : ℝ) + ((a <<< k % b : Nat) : ℝ) := by
    exact_mod_cast (Nat.div_add_mod (a <<< k) b).symm
  have rest : ((a <<< k % b : Nat) : ℝ) < b := by exact_mod_cast Nat.mod_lt _ (Nat.pos_of_ne_zero hb)
  rw [parts, number]
  dsimp only
  rw [show e + (-(k : Int) - 1) = e - k - 1 by ring]
  refine ⟨by omega, stands_cut ?_ ?_ ?_ (cut_unit f _ large)⟩
  · rw [le_div_iff₀ pos, euclid]
    have : (0 : ℝ) ≤ ((a <<< k % b : Nat) : ℝ) := Nat.cast_nonneg _
    linarith
  · rw [div_lt_iff₀ pos, euclid]
    linarith
  · rw [div_eq_iff pos.ne', ← Nat.cast_eq_zero (R := ℝ)]
    constructor <;> intro h <;> linarith

omit hinf in
theorem fdiv_finite {n1 n2 : Bool} {m1 m2 : Nat} {e1 e2 : Int} (h : m2 ≠ 0) : fdiv (.fin n1 m1 e1) (.fin n2 m2 e2) =
    (.fin (n1 != n2) (quotBits m1 m2).1 (e1 - e2 + (quotBits m1 m2).2), noFlags) := if_neg h

omit hinf in
/-- The number that the quotient of two exact values is. -/
theorem quotient_signed (n1 n2 : Bool) (m1 m2 : Nat) (e1 e2 : Int) :
    ((valQ (.fin n1 m1 e1) / valQ (.fin n2 m2 e2) : ℚ) : ℝ) = signed (n1 != n2) ((m1 : ℝ) / m2 * 2 ^ (e1 - e2)) := by
  rw [Rat.cast_div, valQ_cast, valQ_cast, zpow_sub₀ (by norm_num)]
  cases n1 <;> cases n2 <;> simp [signed] <;> field_simp

theorem quotientRule_fdiv (x y : FVal) : QuotientRule f rm x y (deliver f rm (fdiv x y)) := by
  refine ⟨fun nan => ?_, fun hx hy => ⟨fun ix iy => ?_, fun ix iy => ?_, fun ix iy => ?_, fun fx fy => ⟨fun zero => ?_, fun nonzero => ?_⟩⟩⟩
  · rw [fdiv_nan nan]
    exact deliver_nan hinf rm _
  · obtain ⟨a, rfl⟩ := not_finite hx ix
    obtain ⟨b, rfl⟩ := not_finite hy iy
    exact deliver_invalid hinf rm
  · obtain ⟨a, rfl⟩ := not_finite hx ix
    obtain ⟨n, m, e, rfl⟩ := finite_fin iy
    exact deliver_inf hinf rm _ noFlags
  · obtain ⟨n, m, e, rfl⟩ := finite_fin ix
    obtain ⟨b, rfl⟩ := not_finite hy iy
    exact deliver_zero f rm _ 0 noFlags
  · obtain ⟨n1, m1, e1, rfl⟩ := finite_fin fx
    obtain ⟨n2, m2, e2, rfl⟩ := finite_fin fy
    have quotient : fdiv (.fin n1 m1 e1) (.fin n2 m2 e2) = if m1 = 0 then invalid else (.inf (n1 != n2), flagDZ) :=
      if_pos (valQ_fin_eq_zero.1 zero)
    simp only [quotient, valQ_fin_eq_zero]
    split
    · exact deliver_invalid hinf rm
    · exact deliver_inf hinf rm _ flagDZ
  · obtain ⟨n1, m1, e1, rfl⟩ := finite_fin fx
    obtain ⟨n2, m2, e2, rfl⟩ := finite_fin fy
    have hm2 : m2 ≠ 0 := fun zero => nonzero (valQ_fin_eq_zero.2 zero)
    rw [fdiv_finite hm2]
    by_cases hm1 : m1 = 0
    · have zero : (quotBits m1 m2).1 = 0 := by simp [quotBits, hm1]
      have value : valQ (.fin n1 m1 e1) / valQ (.fin n2 m2 e2) = 0 := by rw [valQ_fin_eq_zero.2 hm1, zero_div]
      rw [zero, value, deliver_zero]
      exact ⟨fun _ => rfl, fun h => absurd rfl h⟩
    · rw [deliver_noFlags]
      exact delivered_of_stands hinf rm (quotient_signed ..) (quotBits_stands f hm1 hm2 _).2

end

/-! ### Integer square roots -/

/-- The search for the root keeps it between r and r + 2^i. -/
theorem isqrtAux_eq {x i r : Nat} (low : r * r ≤ x) (high : x < (r + 2 ^ i) * (r + 2 ^ i)) : isqrtAux x i r = Nat.sqrt x := by
  induction i generalizing r with
  | zero => exact Nat.eq_sqrt.2 ⟨low, high⟩
  | succ i ih =>
    rw [isqrtAux]
    split
    · next below => exact ih below (by rwa [Nat.add_assoc, ← two_mul, ← pow_succ'])
    · next above => exact ih low (not_le.1 above)

theorem isqrt_eq (x : Nat) : isqrt x = Nat.sqrt x := by
  refine isqrtAux_eq (Nat.zero_le _) ?_
  rw [Nat.zero_add, ← pow_add]
  exact Nat.lt_log2_self.trans_le (Nat.pow_le_pow_right two_pos (by omega))

/-- The integer root is the real one, cut. -/
theorem sqrt_between {n : Nat} {x : ℝ} (low : (n : ℝ) ≤ x) (high : x < n + 1) : (Nat.sqrt n : ℝ) ≤ √x ∧ √x < Nat.sqrt n + 1 := by
  have below : ((Nat.sqrt n : ℝ)) ^ 2 ≤ n := by exact_mod_cast (Nat.sqrt_le' n)
  have above : (n : ℝ) + 1 ≤ ((Nat.sqrt n : ℝ) + 1) ^ 2 := by exact_mod_cast (Nat.lt_succ_sqrt' n)
  exact ⟨Real.le_sqrt_of_sq_le (below.trans low), (Real.sqrt_lt' (by positivity)).2 (high.trans_le above)⟩

theorem sqrt_eq_natCast {x : ℝ} (hx : 0 ≤ x) (r : Nat) : √x = r ↔ x = (r * r : Nat) := by
  rw [Real.sqrt_eq_iff_mul_self_eq hx (Nat.cast_nonneg r), Nat.cast_mul]

/-! ### Square roots -/

/-- A significand over an even exponent, and half of that exponent. -/
def evenMan (m : Nat) (e : Int) : Nat := if e % 2 = 0 then m else 2 * m
def halfExp (e : Int) : Int := (if e % 2 = 0 then e else e - 1) / 2

theorem evenMan_pos {m : Nat} (h : m ≠ 0) (e : Int) : 1 ≤ evenMan m e := by
  unfold evenMan
  split <;> omega

theorem sqrt_evenMan (m : Nat) (e : Int) : √((m : ℝ) * 2 ^ e) = √(evenMan m e) * 2 ^ halfExp e := by
  have number : (m : ℝ) * 2 ^ e = evenMan m e * (2 ^ halfExp e) ^ 2 := by
    rw [← zpow_natCast, ← zpow_mul]
    unfold evenMan halfExp
    split
    · next even => rw [show e / 2 * ((2 : Nat) : Int) = e by push_cast; omega]
    · next odd =>
      rw [show (e - 1) / 2 * ((2 : Nat) : Int) = e - 1 by push_cast; omega, zpow_sub_one₀ (by norm_num)]
      push_cast
      ring
  rw [number, Real.sqrt_mul (Nat.cast_nonneg _), Real.sqrt_sq (by positivity)]

theorem rootBits_stands (f : FFmt) {m : Nat} (hm : m ≠ 0) (e : Int) : (rootBits m e).1 ≠ 0 ∧
    Stands (rootBits m e).1 (rootBits m e).2 ((rootBits m e).1.log2 + (rootBits m e).2 - ffFracBits f) (√((m : ℝ) * 2 ^ e)) := by
  generalize hn : evenMan m e <<< 160 = n
  have parts : rootBits m e = (2 * Nat.sqrt n + (if Nat.sqrt n * Nat.sqrt n = n then 0 else 1), halfExp e - 80 - 1) := by
    rw [← hn, ← isqrt_eq, sub_sub]
    rfl
  have large : 2 ^ 24 ≤ Nat.sqrt n := by
    rw [Nat.le_sqrt, ← hn, Nat.shiftLeft_eq]
    calc 2 ^ 24 * 2 ^ 24 ≤ 1 * 2 ^ 160 := by norm_num
      _ ≤ evenMan m e * 2 ^ 160 := Nat.mul_le_mul_right _ (evenMan_pos hm e)
  have number : √((m : ℝ) * 2 ^ e) = √(n : ℝ) * 2 ^ (halfExp e - 80) := by
    have root : √((2 : ℝ) ^ 160) = 2 ^ 80 := by rw [show 160 = 80 * 2 from rfl, pow_mul, Real.sqrt_sq (by positivity)]
    rw [sqrt_evenMan, ← hn, Nat.shiftLeft_eq, Nat.cast_mul, Nat.cast_pow, Nat.cast_ofNat, Real.sqrt_mul (Nat.cast_nonneg _), root,
      zpow_sub₀ (by norm_num), ← zpow_natCast (2 : ℝ) 80, mul_assoc]
    exact congrArg _ (mul_div_cancel₀ _ (zpow_ne_zero _ two_ne_zero)).symm
  have between := sqrt_between (n := n) le_rfl (lt_add_one _)
  rw [parts, number]
  refine ⟨by omega, stands_cut between.1 between.2 ?_ (cut_unit f _ large)⟩
  rw [sqrt_eq_natCast (Nat.cast_nonneg n), Nat.cast_inj, eq_comm]

/-- The significand and the exponent of one over a root, as the model finds them. -/
def rsqShift (m : Nat) (e : Int) : Nat :=
  if (200 + (evenMan m e).log2) % 2 = 0 then 200 + (evenMan m e).log2 else 200 + (evenMan m e).log2 + 1
def rsqRoot (m : Nat) (e : Int) : Nat := Nat.sqrt (2 ^ rsqShift m e / evenMan m e)
def rsqMan (m : Nat) (e : Int) : Nat :=
  2 * rsqRoot m e + if rsqRoot m e * rsqRoot m e * evenMan m e = 2 ^ rsqShift m e then 0 else 1
def rsqExp (m : Nat) (e : Int) : Int := -halfExp e - ((rsqShift m e / 2 : Nat) : Int) - 1

theorem frsq_fin {m : Nat} (h : m ≠ 0) (e : Int) : frsq (.fin false m e) = (.fin false (rsqMan m e) (rsqExp m e), noFlags) := by
  unfold frsq rsqMan rsqRoot
  simp only [if_neg h, ← isqrt_eq]
  rfl

theorem rsq_stands (f : FFmt) {m : Nat} (hm : m ≠ 0) (e : Int) : rsqMan m e ≠ 0 ∧
    Stands (rsqMan m e) (rsqExp m e) ((rsqMan m e).log2 + rsqExp m e - ffFracBits f) (1 / √((m : ℝ) * 2 ^ e)) := by
  have one := evenMan_pos hm e
  have pos : (0 : ℝ) < evenMan m e := by exact_mod_cast one
  obtain ⟨h, even⟩ : ∃ h, rsqShift m e = 2 * h := ⟨rsqShift m e / 2, by unfold rsqShift; split <;> omega⟩
  have long : 200 + (evenMan m e).log2 ≤ 2 * h := by rw [← even]; unfold rsqShift; split <;> omega
  have large : 2 ^ 24 ≤ rsqRoot m e := by
    rw [rsqRoot, even, Nat.le_sqrt, Nat.le_div_iff_mul_le one]
    calc 2 ^ 24 * 2 ^ 24 * evenMan m e ≤ 2 ^ 48 * 2 ^ ((evenMan m e).log2 + 1) := Nat.mul_le_mul (by norm_num) Nat.lt_log2_self.le
      _ ≤ 2 ^ (2 * h) := by rw [← pow_add]; exact Nat.pow_le_pow_right two_pos (by omega)
  have low : ((2 ^ (2 * h) / evenMan m e : Nat) : ℝ) ≤ 2 ^ (2 * h) / evenMan m e := by
    rw [le_div_iff₀ pos]
    exact_mod_cast Nat.div_mul_le_self (2 ^ (2 * h)) (evenMan m e)
  have high : (2 : ℝ) ^ (2 * h) / evenMan m e < ((2 ^ (2 * h) / evenMan m e : Nat) : ℝ) + 1 := by
    rw [div_lt_iff₀ pos]
    exact_mod_cast Nat.lt_mul_of_div_lt (Nat.lt_succ_self (2 ^ (2 * h) / evenMan m e)) one
  have between := sqrt_between low high
  have number : 1 / √((m : ℝ) * 2 ^ e) = √((2 : ℝ) ^ (2 * h) / evenMan m e) * 2 ^ (-halfExp e - (h : Int)) := by
    rw [sqrt_evenMan, Real.sqrt_div (by positivity), pow_mul', Real.sqrt_sq (by positivity), zpow_sub₀ (by norm_num), zpow_neg, zpow_natCast]
    field_simp
  rw [number]
  refine ⟨by unfold rsqMan; omega, ?_⟩
  have exponent : rsqExp m e = -halfExp e - (h : Int) - 1 := by rw [rsqExp, even, Nat.mul_div_cancel_left _ two_pos]
  rw [exponent]
  rw [← even] at between ⊢
  refine stands_cut between.1 between.2 ?_ (cut_unit f _ large)
  rw [sqrt_eq_natCast (by positivity), div_eq_iff pos.ne', eq_comm]
  exact_mod_cast Iff.rfl

section
variable {f : FFmt} (hinf : ffHasInf f = true) (rm : RMode)
include hinf

/-- One rounding of the number that a significand stands for. -/
theorem roundedNumber_fin {n : Bool} {m : Nat} {e : Int} {a : ℝ} (hm : m ≠ 0) (h : Stands m e (m.log2 + e - ffFracBits f) a) :
    RoundedNumber f rm (signed n a) (deliver f rm (.fin n m e, noFlags)) := by
  rw [deliver_fin f rm n e hm]
  exact roundedNumber_of_stands hinf rm hm h

omit hinf in
theorem fin_of_pos {x : FVal} (h : 0 < valQ x) : ∃ m e, x = .fin false m e ∧ m ≠ 0 := by
  cases x with
  | fin n m e =>
    cases n with
    | false => exact ⟨m, e, rfl, fun zero => h.ne' (valQ_fin_eq_zero.2 zero)⟩
    | true => exact absurd h (not_lt.2 (by simp [valQ]; positivity))
  | _ => exact absurd h (lt_irrefl _)

omit hinf in
theorem fin_of_neg {x : FVal} (h : valQ x < 0) : ∃ m e, x = .fin true m e ∧ m ≠ 0 := by
  cases x with
  | fin n m e =>
    cases n with
    | false => exact absurd h (not_lt.2 (by simp [valQ]; positivity))
    | true => exact ⟨m, e, rfl, fun zero => h.ne (valQ_fin_eq_zero.2 zero)⟩
  | _ => exact absurd h (lt_irrefl _)

theorem rootRule_fsqrt (x : FVal) : RootRule f rm false x (deliver f rm (fsqrt x)) := by
  refine ⟨fun nan => ?_, ?_, ?_, fun finite => ⟨fun zero => ?_, fun neg => ?_, fun pos => ?_⟩⟩
  · cases x with
    | nan s => exact deliver_nan hinf rm _
    | _ => cases nan
  · rintro rfl
    exact deliver_invalid hinf rm
  · rintro rfl
    exact deliver_inf hinf rm false noFlags
  · obtain ⟨n, m, e, rfl⟩ := finite_fin finite
    have root : fsqrt (.fin n m e) = (.fin n 0 0, noFlags) := if_pos (valQ_fin_eq_zero.1 zero)
    rw [root, deliver_zero]
    rfl
  · obtain ⟨m, e, rfl, hm⟩ := fin_of_neg neg
    have root : fsqrt (.fin true m e) = invalid := if_neg hm
    rw [root]
    exact deliver_invalid hinf rm
  · obtain ⟨m, e, rfl, hm⟩ := fin_of_pos pos
    have root : fsqrt (.fin false m e) = (.fin false (rootBits m e).1 (rootBits m e).2, noFlags) := if_neg hm
    rw [root, valQ_cast]
    exact roundedNumber_fin hinf rm (n := false) (rootBits_stands f hm e).1 (rootBits_stands f hm e).2

theorem rootRule_frsq (x : FVal) : RootRule f rm true x (deliver f rm (frsq x)) := by
  refine ⟨fun nan => ?_, ?_, ?_, fun finite => ⟨fun zero => ?_, fun neg => ?_, fun pos => ?_⟩⟩
  · cases x with
    | nan s => exact deliver_nan hinf rm _
    | _ => cases nan
  · rintro rfl
    exact deliver_invalid hinf rm
  · rintro rfl
    exact deliver_zero f rm false 0 noFlags
  · obtain ⟨n, m, e, rfl⟩ := finite_fin finite
    have root : frsq (.fin n m e) = (.inf n, flagDZ) := if_pos (valQ_fin_eq_zero.1 zero)
    rw [root]
    exact deliver_inf hinf rm n flagDZ
  · obtain ⟨m, e, rfl, hm⟩ := fin_of_neg neg
    have root : frsq (.fin true m e) = invalid := if_neg hm
    rw [root]
    exact deliver_invalid hinf rm
  · obtain ⟨m, e, rfl, hm⟩ := fin_of_pos pos
    rw [frsq_fin hm, valQ_cast]
    exact roundedNumber_fin hinf rm (n := false) (rsq_stands f hm e).1 (rsq_stands f hm e).2

end

end Sys2Proof.FloatArithmetic
end

section
/-! A format's own values are delivered as their own bits (R47, R48), and what follows for the minimum, the maximum, the absolute value
and the negation (R114). -/
namespace Sys2Proof.FloatArithmetic
open Sys2Proof.Machine Sys2Proof.Safety Sys2Proof.LaneLaws Sys2Proof.FloatValues Sys2Proof.Rounding Sys2Proof.ReduceAndCompare

/-! ### Encodings -/

/-- The sign and the magnitude of an encoding. -/
def encSign (f : FFmt) (i : Nat) : Bool := i.testBit (ffWidth f - 1)
def encMag (f : FFmt) (i : Nat) : Nat := i % 2 ^ (ffWidth f - 1)

theorem encMag_lt (f : FFmt) (i : Nat) : encMag f i < 2 ^ (ffWidth f - 1) := Nat.mod_lt _ (Nat.two_pow_pos _)

theorem withSign_enc {f : FFmt} {i : Nat} (h : i < 2 ^ ffWidth f) : withSign f (encSign f i) (encMag f i) = i := by
  have double : 2 ^ ffWidth f = 2 * 2 ^ (ffWidth f - 1) := by rw [← pow_succ', Nat.sub_add_cancel (by unfold ffWidth; omega)]
  have split := Nat.div_add_mod i (2 ^ (ffWidth f - 1))
  have top : i / 2 ^ (ffWidth f - 1) < 2 := by rw [Nat.div_lt_iff_lt_mul (Nat.two_pow_pos _)]; omega
  rw [withSign, encSign, encMag, Nat.testBit_eq_decide_div_mod_eq, Nat.mod_eq_of_lt top]
  obtain none | one := Nat.lt_succ_iff_lt_or_eq.1 top
  · rw [Nat.lt_one_iff.1 none] at split ⊢
    simpa using split
  · rw [one] at split ⊢
    simp only [decide_true, if_true]
    omega

/-- The decoding of an encoding of a format with infinities, by its magnitude. -/
theorem fdecode_enc {f : FFmt} (hinf : ffHasInf f = true) {i : Nat} (h : i < 2 ^ ffWidth f) : fdecode f i =
    if encMag f i ≤ ffMax f then magDecode f (encSign f i) (encMag f i)
    else if encMag f i = ffInf f then .inf (encSign f i) else .nan (!(encMag f i % 2 ^ ffFracBits f).testBit (ffFracBits f - 1)) := by
  obtain ⟨sign, exponent, fraction⟩ := withSign_fields (encSign f i) (encMag_lt f i)
  rw [withSign_enc h] at sign exponent fraction
  split
  · next finite => exact (congrArg (fdecode f) (withSign_enc h).symm).trans (fdecode_withSign _ finite)
  · next special =>
    have bound := encMag_lt f i
    unfold fdecode
    dsimp only
    rw [sign, exponent, fraction]
    generalize encMag f i = mag at *
    have top : mag / 2 ^ ffFracBits f = 2 ^ ffExpBits f - 1 ∧ (mag % 2 ^ ffFracBits f = 0 ↔ mag = ffInf f) := by
      cases f with
      | fp32 | fp16 | bf16 | e5m2 =>
        simp only [ffMax, ffInf, ffFracBits, ffExpBits, ffWidth] at *
        omega
      | e4m3 | e3m2 | e2m3 | e2m1 => cases hinf
    rw [if_pos top.1]
    cases f with
    | fp32 | fp16 | bf16 | e5m2 => exact if_congr top.2 rfl rfl
    | e4m3 | e3m2 | e2m3 | e2m1 => cases hinf

/-- The significand of a finite encoding has at most one bit more than the fraction. -/
theorem man_lt_of_fdecode {f : FFmt} {i m : Nat} {n : Bool} {e : Int} (h : fdecode f i = .fin n m e) : m < 2 ^ (ffFracBits f + 1) := by
  have fraction : i % 2 ^ ffFracBits f < 2 ^ ffFracBits f := Nat.mod_lt _ (Nat.two_pow_pos _)
  have finite {x : FVal} (hx : x = if bitsOf i (ffWidth f - 2) (ffFracBits f) = 0 then FVal.fin (i.testBit (ffWidth f - 1)) (i % 2 ^ ffFracBits f) (ffQmin f)
      else .fin (i.testBit (ffWidth f - 1)) (2 ^ ffFracBits f + i % 2 ^ ffFracBits f)
        (ffQmin f + ((bitsOf i (ffWidth f - 2) (ffFracBits f) : Int) - 1))) (hm : x = .fin n m e) : m < 2 ^ (ffFracBits f + 1) := by
    rw [pow_succ]
    rw [hx] at hm
    split at hm <;> cases hm <;> omega
  unfold fdecode at h
  dsimp only at h
  split at h
  · split at h
    · split at h <;> cases h
    · split at h <;> cases h
    · split at h <;> cases h
    · split at h <;> cases h
    · split at h
      · cases h
      · exact finite rfl h
    · exact finite rfl h
    · exact finite rfl h
    · exact finite rfl h
  · exact finite rfl h

/-! ### Rounding a format's own number -/

theorem roundAt_exact (rm : RMode) (neg : Bool) (man : Nat) (e : Int) : roundAt rm neg man e e = (man, true) := by
  rw [roundAt, if_pos le_rfl, Int.sub_self]
  rfl

theorem roundFinite_own (f : FFmt) (rm : RMode) (sat neg : Bool) {m u : Nat} (lead : u = 0 ∨ 2 ^ ffFracBits f ≤ m)
    (carry : m < 2 ^ (ffFracBits f + 1)) (hm : m ≠ 0) (fits : u * 2 ^ ffFracBits f + m ≤ ffMax f) :
    roundFinite f rm sat neg m (ffQmin f + u) = (withSign f neg (u * 2 ^ ffFracBits f + m), noFlags) := by
  have bits : m.log2 < ffFracBits f + 1 := (Nat.log2_lt hm).2 carry
  have unit : max ((m.log2 : Int) + (ffQmin f + u) - ffFracBits f) (ffQmin f) = ffQmin f + u := by
    rcases lead with rfl | lead
    · omega
    · have : ffFracBits f ≤ m.log2 := (Nat.le_log2 hm).2 lead
      omega
  have mag : unitsMag f ((m.log2 : Int) + (ffQmin f + u) - ffFracBits f) m = u * 2 ^ ffFracBits f + m := by
    rw [unitsMag, unit]
    congr 2
    omega
  rw [roundFinite_eq f rm sat neg m _ rfl, unit, roundAt_exact, mag, if_neg (not_lt.2 fits)]
  simp [noFlags]

theorem encodeF_magDecode (f : FFmt) (rm : RMode) (sat neg : Bool) {mag : Nat} (fits : mag ≤ ffMax f) :
    encodeF f rm sat (magDecode f neg mag) = (withSign f neg mag, noFlags) := by
  have pos : 0 < 2 ^ ffFracBits f := Nat.two_pow_pos _
  have split := Nat.div_add_mod' mag (2 ^ ffFracBits f)
  have rest := Nat.mod_lt mag pos
  unfold magDecode
  by_cases sub : mag / 2 ^ ffFracBits f = 0
  · rw [if_pos sub]
    rw [sub, Nat.zero_mul, Nat.zero_add] at split
    rw [split] at rest ⊢
    by_cases zero : mag = 0
    · exact (if_pos zero).trans (by rw [zero])
    · have own := roundFinite_own f rm sat neg (u := 0) (.inl rfl) (by rw [pow_succ]; omega) zero (by omega)
      rw [Nat.zero_mul, Nat.zero_add, Nat.cast_zero, add_zero] at own
      exact (if_neg zero).trans own
  · rw [if_neg sub]
    obtain ⟨u, hu⟩ := Nat.exists_eq_add_of_le' (Nat.pos_of_ne_zero sub)
    have whole : u * 2 ^ ffFracBits f + (2 ^ ffFracBits f + mag % 2 ^ ffFracBits f) = mag := by
      rw [hu, Nat.add_mul, Nat.one_mul] at split
      omega
    have own := roundFinite_own f rm sat neg (u := u) (m := 2 ^ ffFracBits f + mag % 2 ^ ffFracBits f) (.inr (by omega))
      (by rw [pow_succ]; omega) (by omega) (by omega)
    rw [whole] at own
    rw [show ((mag / 2 ^ ffFracBits f : Nat) : Int) - 1 = u by omega]
    exact (if_neg (by omega)).trans own

section
variable {f : FFmt} (hinf : ffHasInf f = true) (rm : RMode)
include hinf

/-- A number of the format is delivered as its own bits. -/
theorem deliver_own {i : Nat} (h : i < 2 ^ ffWidth f) (number : isNaN (fdecode f i) = false) (fl : FpFlags) :
    deliver f rm (fdecode f i, fl) = (i, fl) := by
  rw [fdecode_enc hinf h] at number ⊢
  split
  · next finite => rw [deliver, encodeF_magDecode f rm false _ finite, withSign_enc h, or_noFlags]
  · next special =>
    rw [if_neg special] at number
    split
    · next inf => rw [deliver_inf hinf, ← inf, withSign_enc h]
    · next nan =>
      rw [if_neg nan] at number
      cases number

/-! ### Minimum and maximum -/

omit hinf in
theorem magValue_nonneg (f : FFmt) (mag : Nat) : 0 ≤ magValue f mag := by
  unfold magValue
  split <;> positivity

omit hinf in
theorem magValue_zero (f : FFmt) : magValue f 0 = 0 := by simp [magValue]

/-- Two numbers of a format at one place are one encoding, or the two zeros. -/
theorem same_place {i j : Nat} (hi : i < 2 ^ ffWidth f) (hj : j < 2 ^ ffWidth f) (ni : isNaN (fdecode f i) = false)
    (nj : isNaN (fdecode f j) = false) (same : valE (fdecode f i) = valE (fdecode f j)) :
    i = j ∨ (signNeg (fdecode f i) ≠ signNeg (fdecode f j) ∧ ∀ k ∈ [i, j], k = withSign f (signNeg (fdecode f k)) 0) := by
  have bits {k l : Nat} (hk : k < 2 ^ ffWidth f) (hl : l < 2 ^ ffWidth f) (sign : encSign f k = encSign f l) (mag : encMag f k = encMag f l) :
      k = l := by rw [← withSign_enc hk, ← withSign_enc hl, sign, mag]
  have special {k : Nat} (h : isNaN (if encMag f k = ffInf f then FVal.inf (encSign f k)
      else .nan (!(encMag f k % 2 ^ ffFracBits f).testBit (ffFracBits f - 1))) = false) : encMag f k = ffInf f := by
    by_contra other
    rw [if_neg other] at h
    cases h
  have infinite {a : Bool} {v : FVal} (hv : isFinite v = true) : valE (.inf a) ≠ valE v := by
    obtain ⟨n, m, e, rfl⟩ := finite_fin hv
    cases a with
    | true => exact WithBot.bot_ne_coe
    | false => exact fun h => WithTop.top_ne_coe (WithBot.coe_injective h)
  have di := fdecode_enc hinf hi
  have dj := fdecode_enc hinf hj
  by_cases fi : encMag f i ≤ ffMax f
  · rw [if_pos fi] at di
    by_cases fj : encMag f j ≤ ffMax f
    · rw [if_pos fj] at dj
      have value {k : Nat} (dk : fdecode f k = magDecode f (encSign f k) (encMag f k)) : valE (fdecode f k) =
          (((if encSign f k then -1 else 1) * magValue f (encMag f k) : ℚ) : WithTop ℚ) := by
        rw [dk, ← valQ_magDecode]
        obtain ⟨n, m, e, hm⟩ := finite_fin (isFinite_magDecode f (encSign f k) (encMag f k))
        rw [hm, valE_fin]
      have equal := WithTop.coe_injective (WithBot.coe_injective ((value di).symm.trans (same.trans (value dj))))
      have nonneg_i := magValue_nonneg f (encMag f i)
      have nonneg_j := magValue_nonneg f (encMag f j)
      by_cases sign : encSign f i = encSign f j
      · rw [sign] at equal
        refine .inl (bits hi hj sign ((magValue_strictMono f).injective ?_))
        cases h : encSign f j <;> simpa [h] using equal
      · have zero {k : Nat} (h : magValue f (encMag f k) = 0) : encMag f k = 0 :=
          (magValue_strictMono f).injective (h.trans (magValue_zero f).symm)
        have zeros : magValue f (encMag f i) = 0 ∧ magValue f (encMag f j) = 0 := by
          cases hs : encSign f i <;> cases ht : encSign f j <;> simp [hs, ht] at sign equal <;> constructor <;> linarith
        have own {k : Nat} (hk : k < 2 ^ ffWidth f) (dk : fdecode f k = magDecode f (encSign f k) (encMag f k))
            (h : magValue f (encMag f k) = 0) : k = withSign f (signNeg (fdecode f k)) 0 := by
          rw [dk, signNeg_magDecode, ← zero h]
          exact (withSign_enc hk).symm
        refine .inr ⟨by rwa [di, dj, signNeg_magDecode, signNeg_magDecode], ?_⟩
        simp only [List.mem_cons, List.not_mem_nil, or_false]
        rintro k (rfl | rfl)
        · exact own hi di zeros.1
        · exact own hj dj zeros.2
    · rw [if_neg fj] at dj
      rw [dj] at nj
      rw [if_pos (special nj)] at dj
      exact absurd (dj ▸ same.symm) (infinite (di ▸ isFinite_magDecode ..))
  · rw [if_neg fi] at di
    rw [di] at ni
    have mi := special ni
    rw [if_pos mi] at di
    by_cases fj : encMag f j ≤ ffMax f
    · rw [if_pos fj] at dj
      exact absurd (di ▸ same) (infinite (dj ▸ isFinite_magDecode ..))
    · rw [if_neg fj] at dj
      rw [dj] at nj
      rw [if_pos (special nj)] at dj
      rw [di, dj] at same
      refine .inl (bits hi hj ?_ (mi.trans (special nj).symm))
      cases hs : encSign f i <;> cases ht : encSign f j <;> simp [valE, hs, ht] at same ⊢

omit hinf in
theorem nvIfSNaN_two (x y : FVal) : nvIfSNaN [x, y] = { nv := isSNaN x || isSNaN y } := by simp [nvIfSNaN]

omit hinf in
/-- The choice between two numbers, by their places, and by their signs at one place. -/
theorem fminmax_numbers (greater : Bool) {x y : FVal} (nx : isNaN x = false) (ny : isNaN y = false) :
    let event : FpFlags := { nv := isSNaN x || isSNaN y }
    (valE x < valE y → fminmax greater x y = (if greater then y else x, event)) ∧
      (valE y < valE x → fminmax greater x y = (if greater then x else y, event)) ∧
      (valE x = valE y → fminmax greater x y = (if signNeg x = greater then y else x, event)) := by
  have lt (h : fcmp x y = .lt) : fminmax greater x y = (if greater then y else x, nvIfSNaN [x, y]) := by rw [fminmax, nx, ny, h]; rfl
  have gt (h : fcmp x y = .gt) : fminmax greater x y = (if greater then x else y, nvIfSNaN [x, y]) := by rw [fminmax, nx, ny, h]; rfl
  have eq (h : fcmp x y = .eq) : fminmax greater x y = (if signNeg x = greater then y else x, nvIfSNaN [x, y]) := by
    rw [fminmax, nx, ny, h]
    rfl
  rw [fcmp_eq_cmp nx ny, nvIfSNaN_two] at lt gt eq
  exact ⟨fun h => lt ((cmp_eq_lt_iff _ _).2 h), fun h => gt ((cmp_eq_gt_iff _ _).2 h), fun h => eq ((cmp_eq_eq_iff _ _).2 h)⟩

omit hinf in
theorem fminmax_nan (greater : Bool) {x y : FVal} (h : isNaN x = true ∨ isNaN y = true) :
    fminmax greater x y = (if isNaN x && isNaN y then .nan false else if isNaN x then y else x, { nv := isSNaN x || isSNaN y }) := by
  rw [fminmax, nvIfSNaN_two]
  cases nx : isNaN x <;> cases ny : isNaN y <;> simp [nx, ny] at h ⊢

theorem minMaxRule_fminmax (greater : Bool) {i j : Nat} (hi : i < 2 ^ ffWidth f) (hj : j < 2 ^ ffWidth f) :
    MinMaxRule f greater i j (deliver f rm (fminmax greater (fdecode f i) (fdecode f j))) := by
  have own_i := deliver_own hinf rm hi
  have own_j := deliver_own hinf rm hj
  have pick {c : Prop} [Decidable c] (nx : isNaN (fdecode f i) = false) (ny : isNaN (fdecode f j) = false) (fl : FpFlags) :
      deliver f rm (if c then fdecode f j else fdecode f i, fl) = (if c then j else i, fl) := by
    split
    · exact own_j ny fl
    · exact own_i nx fl
  by_cases nan : isNaN (fdecode f i) = true ∨ isNaN (fdecode f j) = true
  · rw [fminmax_nan greater nan]
    cases nx : isNaN (fdecode f i) <;> cases ny : isNaN (fdecode f j)
    · simp [nx, ny] at nan
    · simp [MinMaxRule, nx, ny, own_i nx]
    · simp [MinMaxRule, nx, ny, own_j ny]
    · simp [MinMaxRule, nx, ny, deliver_nan hinf]
  · obtain ⟨nx, ny⟩ : isNaN (fdecode f i) = false ∧ isNaN (fdecode f j) = false := by simpa using nan
    obtain ⟨lt, gt, eq⟩ := fminmax_numbers greater nx ny
    refine ⟨?event, fun h => absurd h (by simp [nx]), fun h => absurd h (by simp [nx]), fun _ h => absurd h (by simp [ny]),
      fun _ _ => ⟨fun h => ?_, fun h => ?_, fun h => ⟨fun e => ?_, fun e => ?_⟩⟩⟩
    case event =>
      rcases lt_trichotomy (valE (fdecode f i)) (valE (fdecode f j)) with h | h | h
      · rw [lt h, pick nx ny]
      · rw [eq h, pick nx ny]
      · rw [gt h, ← ite_not, pick nx ny]
    · rw [lt h, pick nx ny]
    · rw [gt h, ← ite_not, pick nx ny, ite_not]
    · rw [eq h, pick nx ny, e, ite_self]
    · obtain ⟨signs, zeros⟩ := (same_place hinf hi hj nx ny h).resolve_left e
      rw [eq h, pick nx ny]
      split
      · next hs => exact (zeros j (by simp)).trans (by rw [Bool.eq_not_of_ne fun h => signs (hs.trans h.symm)])
      · next hs => exact (zeros i (by simp)).trans (by rw [Bool.eq_not_of_ne hs])

/-! ### Absolute value and negation -/

omit hinf in
theorem encMag_withSign (neg : Bool) {mag : Nat} (h : mag < 2 ^ (ffWidth f - 1)) :
    encSign f (withSign f neg mag) = neg ∧ encMag f (withSign f neg mag) = mag := by
  refine ⟨(withSign_fields neg h).1, ?_⟩
  rw [encMag, withSign]
  split
  · rw [Nat.add_mod_right, Nat.mod_eq_of_lt h]
  · exact Nat.mod_eq_of_lt h

omit hinf in
theorem fabsVal_nan {x : FVal} (h : isNaN x = true) : fabsVal x = (.nan false, { nv := isSNaN x }) := by
  cases x with
  | nan s => rfl
  | _ => cases h

omit hinf in
theorem fnegVal_nan {x : FVal} (h : isNaN x = true) : fnegVal x = (.nan false, { nv := isSNaN x }) := by
  cases x with
  | nan s => rfl
  | _ => cases h

omit hinf in
theorem fnegVal_number {x : FVal} (h : isNaN x = false) : fnegVal x = (fneg x, noFlags) := by
  cases x with
  | nan s => cases h
  | _ => rfl

/-- The same magnitude under any sign. -/
theorem fdecode_resign {i : Nat} (h : i < 2 ^ ffWidth f) (number : isNaN (fdecode f i) = false) (neg : Bool) :
    fdecode f (withSign f neg (encMag f i)) = if signNeg (fdecode f i) = neg then fdecode f i else fneg (fdecode f i) := by
  have resigned := fdecode_enc hinf (withSign_lt neg (encMag_lt f i))
  obtain ⟨sign, mag⟩ := encMag_withSign neg (encMag_lt f i)
  rw [sign, mag] at resigned
  rw [resigned]
  rw [fdecode_enc hinf h] at number ⊢
  split
  · next finite =>
    rw [signNeg_magDecode]
    unfold magDecode
    split <;> cases encSign f i <;> cases neg <;> rfl
  · next special =>
    rw [if_neg special] at number
    split
    · cases encSign f i <;> cases neg <;> rfl
    · next nan =>
      rw [if_neg nan] at number
      cases number

omit hinf in
theorem fabsVal_number {x : FVal} (h : isNaN x = false) : fabsVal x = (if signNeg x = false then x else fneg x, noFlags) := by
  cases x with
  | nan s => cases h
  | inf n => cases n <;> rfl
  | fin n m e => cases n <;> rfl

omit hinf in
theorem fneg_eq_resign (x : FVal) : fneg x = if signNeg x = !signNeg x then x else fneg x := by
  cases signNeg x <;> rfl

theorem deliver_resign {i : Nat} (h : i < 2 ^ ffWidth f) (number : isNaN (fdecode f i) = false) (neg : Bool) :
    deliver f rm (if signNeg (fdecode f i) = neg then fdecode f i else fneg (fdecode f i), noFlags) =
      (withSign f neg (encMag f i), noFlags) := by
  have resigned := fdecode_resign hinf h number neg
  rw [← resigned]
  refine deliver_own hinf rm (withSign_lt neg (encMag_lt f i)) ?_ noFlags
  rw [resigned]
  split
  · exact number
  · rw [isNaN_fneg, number]

theorem deliver_fabsVal {i : Nat} (h : i < 2 ^ ffWidth f) (number : isNaN (fdecode f i) = false) :
    deliver f rm (fabsVal (fdecode f i)) = (i % 2 ^ (ffWidth f - 1), noFlags) := by
  rw [fabsVal_number number, deliver_resign hinf rm h number]
  rfl

theorem deliver_fnegVal {i : Nat} (h : i < 2 ^ ffWidth f) (number : isNaN (fdecode f i) = false) :
    deliver f rm (fnegVal (fdecode f i)) = (withSign f (!signNeg (fdecode f i)) (i % 2 ^ (ffWidth f - 1)), noFlags) := by
  rw [fnegVal_number number, fneg_eq_resign, deliver_resign hinf rm h number]
  rfl

end

end Sys2Proof.FloatArithmetic
end

section
/-! The series behind VEXP2 and VLOG2 (R113, R114): every step is cut, so that a sum stays below its limit, and a greater ratio gives a
greater sum. -/
namespace Sys2Proof.FloatArithmetic
open Sys2Proof.Machine Sys2Proof.Safety
open scoped Nat

/-! ### Fixed-point numbers -/

theorem shiftRight_le (a : Nat) : ((a >>> fxBits : Nat) : ℝ) ≤ a / 2 ^ fxBits := by
  rw [Nat.shiftRight_eq_div_pow]
  exact_mod_cast Nat.cast_div_le (α := ℝ)

theorem fx_pos : (0 : ℝ) < 2 ^ fxBits := by positivity

/-! ### The exponential -/

theorem expSeries_ge (t n k p acc : Nat) : acc ≤ expSeries t n k p acc := by
  induction n generalizing k p acc with
  | zero => exact le_rfl
  | succ n ih => exact (Nat.le_add_right acc p).trans (ih (k + 1) _ (acc + p))

/-- The terms added are below those of the exponential's series. -/
theorem expSeries_le {t n k p acc : Nat} {x : ℝ} (hx : (t : ℝ) ≤ 2 ^ fxBits * x) (hp : (p : ℝ) ≤ 2 ^ fxBits * (x ^ k / k !))
    (hacc : (acc : ℝ) ≤ 2 ^ fxBits * ∑ i ∈ Finset.range k, x ^ i / i !) :
    (expSeries t n (k + 1) p acc : ℝ) ≤ 2 ^ fxBits * ∑ i ∈ Finset.range (k + n), x ^ i / i ! := by
  have pos : 0 ≤ x := nonneg_of_mul_nonneg_right ((Nat.cast_nonneg t).trans hx) fx_pos
  induction n generalizing k p acc with
  | zero => exact hacc
  | succ n ih =>
    rw [show k + (n + 1) = k + 1 + n by ring]
    refine ih ?_ ?_
    · calc (((p * t) >>> fxBits / (k + 1) : Nat) : ℝ) ≤ (((p * t) >>> fxBits : Nat) : ℝ) / ((k + 1 : Nat) : ℝ) := Nat.cast_div_le
        _ ≤ (p * t : Nat) / 2 ^ fxBits / ((k + 1 : Nat) : ℝ) := by gcongr; exact shiftRight_le _
        _ ≤ (2 ^ fxBits * (x ^ k / k !)) * (2 ^ fxBits * x) / 2 ^ fxBits / ((k + 1 : Nat) : ℝ) := by push_cast; gcongr
        _ = 2 ^ fxBits * (x ^ (k + 1) / (k + 1)!) := by
          rw [Nat.factorial_succ]
          push_cast
          field_simp
          ring
    · rw [Finset.sum_range_succ, mul_add]
      push_cast
      linarith

/-! ### The logarithm -/

/-- A sum is that of smaller terms or greater, by as much as it starts above. -/
theorem atanhSeries_mono {z z' : Nat} (hz : z ≤ z') {n k p p' acc acc' c : Nat} (hp : p ≤ p') (hacc : acc + c ≤ acc') :
    atanhSeries z n k p acc + c ≤ atanhSeries z' n k p' acc' := by
  induction n generalizing k p p' acc acc' with
  | zero => exact hacc
  | succ n ih =>
    refine ih ?_ ?_
    · rw [Nat.shiftRight_eq_div_pow, Nat.shiftRight_eq_div_pow]
      exact Nat.div_le_div_right (Nat.mul_le_mul hp hz)
    · have := Nat.div_le_div_right (c := 2 * k + 1) hp
      omega

theorem atanhSeries_ge (z n k p acc : Nat) : acc ≤ atanhSeries z n k p acc := by
  induction n generalizing k p acc with
  | zero => exact le_rfl
  | succ n ih => exact (Nat.le_add_right acc _).trans (ih (k + 1) _ _)

/-- The terms added are below those of the series. -/
theorem atanhSeries_le {z n k p acc : Nat} {x : ℝ} (pos : 0 ≤ x) (hz : (z : ℝ) ≤ 2 ^ fxBits * x ^ 2) (hp : (p : ℝ) ≤ 2 ^ fxBits * x ^ (2 * k + 1))
    (hacc : (acc : ℝ) ≤ 2 ^ fxBits * ∑ i ∈ Finset.range k, x ^ (2 * i + 1) / (2 * i + 1)) :
    (atanhSeries z n k p acc : ℝ) ≤ 2 ^ fxBits * ∑ i ∈ Finset.range (k + n), x ^ (2 * i + 1) / (2 * i + 1) := by
  induction n generalizing k p acc with
  | zero => exact hacc
  | succ n ih =>
    rw [show k + (n + 1) = k + 1 + n by ring]
    refine ih ?_ ?_
    · calc (((p * z) >>> fxBits : Nat) : ℝ) ≤ (p * z : Nat) / 2 ^ fxBits := shiftRight_le _
        _ ≤ (2 ^ fxBits * x ^ (2 * k + 1)) * (2 ^ fxBits * x ^ 2) / 2 ^ fxBits := by push_cast; gcongr
        _ = 2 ^ fxBits * x ^ (2 * (k + 1) + 1) := by
          field_simp
          ring
    · have term : ((p / (2 * k + 1) : Nat) : ℝ) ≤ 2 ^ fxBits * (x ^ (2 * k + 1) / (2 * k + 1)) := by
        refine Nat.cast_div_le.trans ?_
        push_cast
        rw [← mul_div_assoc]
        gcongr
      rw [Finset.sum_range_succ, mul_add]
      push_cast at term ⊢
      linarith

/-- The fixed-point ratio whose inverse hyperbolic tangent is half the logarithm. -/
def lnArg (a b : Nat) : Nat := ((a - b) <<< fxBits) / (a + b)

theorem lnRatio_series (a b : Nat) :
    lnRatio a b = 2 * atanhSeries ((lnArg a b * lnArg a b) >>> fxBits) 110 0 (lnArg a b) 0 := rfl

/-- The first term is the ratio itself. -/
theorem lnRatio_eq (a b : Nat) : lnRatio a b =
    2 * atanhSeries ((lnArg a b * lnArg a b) >>> fxBits) 109 1 ((lnArg a b * ((lnArg a b * lnArg a b) >>> fxBits)) >>> fxBits) (lnArg a b) := by
  have first : 0 + lnArg a b / (2 * 0 + 1) = lnArg a b := by omega
  rw [lnRatio_series, show 110 = 109 + 1 from rfl, atanhSeries, first]

theorem lnArg_le_lnRatio (a b : Nat) : 2 * lnArg a b ≤ lnRatio a b := by
  rw [lnRatio_eq]
  exact Nat.mul_le_mul_left 2 (atanhSeries_ge ..)

theorem lnRatio_lt {a b c d : Nat} (h : lnArg a b < lnArg c d) : lnRatio a b < lnRatio c d := by
  have squares : (lnArg a b * lnArg a b) >>> fxBits ≤ (lnArg c d * lnArg c d) >>> fxBits := by
    rw [Nat.shiftRight_eq_div_pow, Nat.shiftRight_eq_div_pow]
    exact Nat.div_le_div_right (Nat.mul_le_mul h.le h.le)
  have cubes : (lnArg a b * ((lnArg a b * lnArg a b) >>> fxBits)) >>> fxBits ≤ (lnArg c d * ((lnArg c d * lnArg c d) >>> fxBits)) >>> fxBits := by
    rw [Nat.shiftRight_eq_div_pow _ fxBits, Nat.shiftRight_eq_div_pow (lnArg c d * _) fxBits]
    exact Nat.div_le_div_right (Nat.mul_le_mul h.le squares)
  have less := atanhSeries_mono squares (n := 109) (k := 1) (c := 1) cubes h
  rw [lnRatio_eq, lnRatio_eq]
  omega

/-- The model's ln 2 is not above the number. -/
theorem fxLn2_le : (fxLn2 : ℝ) ≤ 2 ^ fxBits * Real.log 2 := by
  have arg : (lnArg 2 1 : ℝ) ≤ 2 ^ fxBits * (1 / 3) := by
    refine (Nat.cast_div_le (α := ℝ)).trans ?_
    rw [Nat.shiftLeft_eq]
    push_cast
    linarith
  have square : (((lnArg 2 1 * lnArg 2 1) >>> fxBits : Nat) : ℝ) ≤ 2 ^ fxBits * (1 / 3) ^ 2 := by
    calc (((lnArg 2 1 * lnArg 2 1) >>> fxBits : Nat) : ℝ) ≤ (lnArg 2 1 * lnArg 2 1 : Nat) / 2 ^ fxBits := shiftRight_le _
      _ ≤ (2 ^ fxBits * (1 / 3)) * (2 ^ fxBits * (1 / 3)) / 2 ^ fxBits := by push_cast; gcongr
      _ = 2 ^ fxBits * (1 / 3) ^ 2 := by field_simp
  have series := Real.hasSum_log_sub_log_of_abs_lt_one (show |(1 / 3 : ℝ)| < 1 by norm_num [abs_of_pos])
  have limit : Real.log (1 + 1 / 3) - Real.log (1 - 1 / 3) = Real.log 2 := by
    rw [← Real.log_div (by norm_num) (by norm_num)]
    norm_num
  rw [limit] at series
  have partial_ := sum_le_hasSum (Finset.range 110) (fun i _ => by positivity) series
  have sum := atanhSeries_le (n := 110) (k := 0) (p := lnArg 2 1) (acc := 0) (by norm_num) square (by simpa using arg) (by simp)
  have half : (2 : ℝ) * ∑ i ∈ Finset.range 110, (1 / 3 : ℝ) ^ (2 * i + 1) / (2 * i + 1) =
      ∑ i ∈ Finset.range 110, 2 * (1 / (2 * (i : ℝ) + 1)) * (1 / 3) ^ (2 * i + 1) := by
    rw [Finset.mul_sum]
    exact Finset.sum_congr rfl fun i _ => by ring
  calc (fxLn2 : ℝ) = 2 * (atanhSeries ((lnArg 2 1 * lnArg 2 1) >>> fxBits) 110 0 (lnArg 2 1) 0 : ℝ) := by
        rw [fxLn2, lnRatio_series, Nat.cast_mul, Nat.cast_ofNat]
    _ ≤ 2 * (2 ^ fxBits * ∑ i ∈ Finset.range 110, (1 / 3 : ℝ) ^ (2 * i + 1) / (2 * i + 1)) := by
        rw [Nat.zero_add] at sum
        linarith
    _ = 2 ^ fxBits * ∑ i ∈ Finset.range 110, 2 * (1 / (2 * (i : ℝ) + 1)) * (1 / 3) ^ (2 * i + 1) := by rw [← half]; ring
    _ ≤ _ := mul_le_mul_of_nonneg_left partial_ fx_pos.le

/-! ### Their bounds -/

theorem expSeries_first (t n k p acc : Nat) : acc + p ≤ expSeries t (n + 1) k p acc := expSeries_ge t n (k + 1) _ (acc + p)

/-- 2 to a fraction is from 1 to 2. -/
theorem fxExp2_bounds {f : Nat} (hf : f < 2 ^ fxBits) : 2 ^ fxBits ≤ fxExp2 f ∧ fxExp2 f < 2 * 2 ^ fxBits := by
  refine ⟨(Nat.le_add_left _ 0).trans (expSeries_first _ 79 1 _ 0), ?_⟩
  have fraction : (f : ℝ) < 2 ^ fxBits := by exact_mod_cast hf
  have small : ((f * fxLn2) >>> fxBits : Nat) ≤ 2 ^ fxBits * (f / 2 ^ fxBits * Real.log 2) := by
    calc (((f * fxLn2) >>> fxBits : Nat) : ℝ) ≤ (f * fxLn2 : Nat) / 2 ^ fxBits := shiftRight_le _
      _ ≤ f * (2 ^ fxBits * Real.log 2) / 2 ^ fxBits := by push_cast; gcongr; exact fxLn2_le
      _ = 2 ^ fxBits * (f / 2 ^ fxBits * Real.log 2) := by field_simp
  have log_pos : 0 < Real.log 2 := Real.log_pos one_lt_two
  have sum := expSeries_le (n := 80) (k := 0) (p := 2 ^ fxBits) (acc := 0) small (by simp) (by simp)
  have below : (fxExp2 f : ℝ) < 2 * 2 ^ fxBits := by
    calc (fxExp2 f : ℝ) ≤ 2 ^ fxBits * ∑ i ∈ Finset.range 80, (f / 2 ^ fxBits * Real.log 2) ^ i / i ! := by rwa [Nat.zero_add] at sum
      _ ≤ 2 ^ fxBits * Real.exp (f / 2 ^ fxBits * Real.log 2) := by
        gcongr
        exact Real.sum_le_exp_of_nonneg (by positivity) 80
      _ < 2 ^ fxBits * Real.exp (Real.log 2) := by
        gcongr
        exact mul_lt_of_lt_one_left log_pos ((div_lt_one fx_pos).2 fraction)
      _ = 2 * 2 ^ fxBits := by rw [Real.exp_log two_pos, mul_comm]
  exact_mod_cast below

/-- The fraction of a logarithm between two powers of two lies between 0 and 1. -/
theorem log_fraction_bounds {m l : Nat} (low : 2 ^ l < m) (high : m < 2 ^ (l + 1)) (small : l ≤ 23) :
    1 ≤ (lnRatio m (2 ^ l) <<< fxBits) / fxLn2 ∧ (lnRatio m (2 ^ l) <<< fxBits) / fxLn2 < 2 ^ fxBits := by
  rw [pow_succ] at high
  have room : 3 * (m + 2 ^ l) ≤ 2 ^ fxBits := by
    have : 2 ^ l ≤ 2 ^ 23 := Nat.pow_le_pow_right two_pos small
    have : 2 ^ 27 ≤ 2 ^ fxBits := pow_le_pow_right₀ one_le_two (show 27 ≤ fxBits by decide)
    omega
  have arg_pos : 1 ≤ lnArg m (2 ^ l) := by
    rw [lnArg, Nat.shiftLeft_eq, Nat.le_div_iff_mul_le (by omega)]
    exact (show 1 * (m + 2 ^ l) ≤ 2 ^ fxBits by omega).trans (Nat.le_mul_of_pos_left _ (by omega))
  have arg_lt : lnArg m (2 ^ l) < lnArg 2 1 := by
    have cut : lnArg m (2 ^ l) * (m + 2 ^ l) ≤ (m - 2 ^ l) * 2 ^ fxBits := by
      rw [lnArg, Nat.shiftLeft_eq]
      exact Nat.div_mul_le_self _ _
    have third : 3 * (m - 2 ^ l) + 1 ≤ m + 2 ^ l := by omega
    refine (Nat.le_div_iff_mul_le (by decide)).2 (Nat.le_of_mul_le_mul_right (c := m + 2 ^ l) ?_ (by omega))
    have scaled := Nat.mul_le_mul_right (2 ^ fxBits) third
    rw [Nat.shiftLeft_eq]
    generalize 2 ^ fxBits = one at *
    generalize lnArg m (2 ^ l) = z at *
    nlinarith
  have ratio := lnRatio_lt arg_lt
  have ln2_pos : 0 < fxLn2 := (Nat.zero_le _).trans_lt ratio
  have ln2_le : fxLn2 ≤ 2 ^ fxBits := by
    have : (fxLn2 : ℝ) ≤ 2 ^ fxBits := fxLn2_le.trans (mul_le_of_le_one_right fx_pos.le (Real.log_two_lt_d9.le.trans (by norm_num)))
    exact_mod_cast this
  rw [Nat.shiftLeft_eq]
  constructor
  · rw [Nat.le_div_iff_mul_le ln2_pos, Nat.one_mul]
    have := lnArg_le_lnRatio m (2 ^ l)
    exact ln2_le.trans (Nat.le_mul_of_pos_left _ (by omega))
  · have pos := Nat.two_pow_pos fxBits
    generalize 2 ^ fxBits = one at *
    rw [Nat.div_lt_iff_lt_mul ln2_pos, Nat.mul_comm]
    exact Nat.mul_lt_mul_of_pos_left ratio pos

end Sys2Proof.FloatArithmetic
end

section
/-! VEXP2 and VLOG2 (R113, R114): exact at integers and at powers of two; elsewhere one rounding of a number between two powers or two
integers. -/
namespace Sys2Proof.FloatArithmetic
open Sys2Proof.Machine Sys2Proof.Safety Sys2Proof.LaneLaws Sys2Proof.FloatValues Sys2Proof.Rounding Sys2Proof.ReduceAndCompare

/-! ### Roundings far from the numbers of every format -/

/-- How large and how small the exponents of the formats are. -/
theorem format_range (f : FFmt) : -200 + 8 < ffQmin f ∧ ffQmin f ≤ 0 ∧ ffFracBits f ≤ 23 ∧ ffExpBits f ≤ 8 ∧ 0 < ffMax f := by
  cases f <;> decide

/-- A number far above the greatest of a format overflows. -/
theorem roundFinite_huge (f : FFmt) (rm : RMode) (sat neg : Bool) {man : Nat} {e : Int} (h : 300 ≤ (man.log2 : Int) + e) :
    roundFinite f rm sat neg man e = (overflowValue f rm sat neg, flagOF) := by
  obtain ⟨-, qmin, fraction, exponent, -⟩ := format_range f
  have bits : ffWidth f - 1 = ffExpBits f + ffFracBits f := by unfold ffWidth; omega
  have range : 2 ^ ffExpBits f ≤ 2 ^ 8 := Nat.pow_le_pow_right two_pos exponent
  rw [roundFinite_eq f rm sat neg man e rfl, if_pos]
  calc ffMax f < 2 ^ ffExpBits f * 2 ^ ffFracBits f := by rw [← pow_add, ← bits]; exact ffMax_lt f
    _ ≤ (max ((man.log2 : Int) + e - ffFracBits f) (ffQmin f) - ffQmin f).toNat * 2 ^ ffFracBits f := Nat.mul_le_mul_right _ (by omega)
    _ ≤ _ := Nat.le_add_right _ _

/-- What a mode makes of a positive number far below a unit. -/
theorem roundAt_tiny (rm : RMode) {man : Nat} {e q : Int} (hman : man ≠ 0) (h : (man.log2 : Int) + e + 2 ≤ q) :
    roundAt rm false man e q = (if rm = .rup then 1 else 0, false) := by
  have small : 2 * man < 2 ^ (q - e).toNat := by
    calc 2 * man < 2 * 2 ^ (man.log2 + 1) := Nat.mul_lt_mul_of_pos_left Nat.lt_log2_self two_pos
      _ = 2 ^ (man.log2 + 2) := (pow_succ' 2 (man.log2 + 1)).symm
      _ ≤ 2 ^ (q - e).toNat := Nat.pow_le_pow_right two_pos (by omega)
  have rest : man % 2 ^ (q - e).toNat = man := Nat.mod_eq_of_lt (by omega)
  have whole : man >>> (q - e).toNat = 0 := by rw [Nat.shiftRight_eq_div_pow, Nat.div_eq_of_lt (by omega)]
  rw [roundAt, if_neg (by omega)]
  dsimp only
  rw [roundShift_eq rm (by rwa [rest]), rest, whole, (cmp_eq_lt_iff _ _).2 small]
  refine Prod.ext ?_ (beq_eq_false_iff_ne.2 hman)
  cases rm <;> rfl

/-- A positive number far below the least of a format gives zero or that least number. -/
theorem roundFinite_tiny (f : FFmt) (rm : RMode) (sat : Bool) {man : Nat} {e : Int} (hman : man ≠ 0) (h : (man.log2 : Int) + e ≤ -200) :
    roundFinite f rm sat false man e = (withSign f false (if rm = .rup then 1 else 0), { uf := true, nx := true }) := by
  obtain ⟨qmin, -, -, -, top⟩ := format_range f
  have unit : max ((man.log2 : Int) + e - ffFracBits f) (ffQmin f) = ffQmin f := max_eq_right (by omega)
  have stands : Stands man e ((man.log2 : Int) + e - ffFracBits f) ((man : ℝ) * 2 ^ e) := .inl rfl
  have count : (roundAt rm false man e ((man.log2 : Int) + e - ffFracBits f)).1 ≤ 2 ^ (ffFracBits f + 1) := roundAt_le stands (by
    rw [div_le_iff₀ (by positivity)]
    refine (stands.bounds hman (by omega)).2.le.trans (le_of_eq ?_)
    rw [Nat.cast_pow, Nat.cast_ofNat, ← zpow_natCast, ← zpow_add₀ (by norm_num)]
    congr 1
    push_cast
    ring)
  have below : (roundAt rm false man e ((man.log2 : Int) + e - ffFracBits f)).1 <
      2 ^ (ffFracBits f + (ffQmin f - ((man.log2 : Int) + e - ffFracBits f)).toNat) :=
    count.trans_lt (Nat.pow_lt_pow_right one_lt_two (by omega))
  rw [roundFinite_eq f rm sat false man e rfl, unit, roundAt_tiny rm hman (by omega), unitsMag, unit, Int.sub_self, Int.toNat_zero, Nat.zero_mul, Nat.zero_add]
  dsimp only
  rw [if_neg (by split <;> omega), decide_eq_true below, decide_eq_true (show (man.log2 : Int) + e - ffFracBits f < ffQmin f by omega)]
  simp

/-! ### The exponential -/

/-- A number y is 2^x at an integer x, and elsewhere it lies between the powers next to 2^x. -/
def PowerNear (x : ℚ) (y : ℝ) : Prop :=
  ∀ n : Int, (x = n → y = (2 : ℝ) ^ n) ∧ ((n : ℚ) < x → x < n + 1 → (2 : ℝ) ^ n < y ∧ y < (2 : ℝ) ^ (n + 1))

theorem powerNear_int (k : Int) : PowerNear k ((2 : ℝ) ^ k) := by
  refine fun n => ⟨fun h => by rw [Int.cast_inj.1 h], fun low high => ?_⟩
  have : n < k := by exact_mod_cast low
  have : k < n + 1 := by exact_mod_cast high
  omega

theorem powerNear_between {x : ℚ} {k : Int} {y : ℝ} (low : (k : ℚ) < x) (high : x < k + 1) (ylow : (2 : ℝ) ^ k < y) (yhigh : y < (2 : ℝ) ^ (k + 1)) :
    PowerNear x y := by
  refine fun n => ⟨fun h => ?_, fun low' high' => ?_⟩
  · subst h
    have : k < n := by exact_mod_cast low
    have : n < k + 1 := by exact_mod_cast high
    omega
  · have : k < n + 1 := by exact_mod_cast low.trans high'
    have : n < k + 1 := by exact_mod_cast low'.trans high
    obtain rfl : n = k := by omega
    exact ⟨ylow, yhigh⟩

/-- A number of units of 2^(-s), by its whole part and its rest. -/
theorem valQ_parts (neg : Bool) (m : Nat) {e : Int} (he : e < 0) :
    let s := (-e).toNat
    let z := signedMan neg m
    valQ (.fin neg m e) = ((z / ((2 ^ s : Nat) : Int) : Int) : ℚ) + ((z % ((2 ^ s : Nat) : Int)).toNat : ℚ) / 2 ^ s := by
  intro s z
  have pos : (0 : Int) < ((2 ^ s : Nat) : Int) := by exact_mod_cast Nat.two_pow_pos s
  have value : valQ (.fin neg m e) = (z : ℚ) / 2 ^ s := by
    rw [valQ, ← signedMan_cast, show e = -(s : Int) by omega, zpow_neg, zpow_natCast, div_eq_mul_inv]
  have rest : (((z % ((2 ^ s : Nat) : Int)).toNat : Int) : ℚ) = ((z % ((2 ^ s : Nat) : Int) : Int) : ℚ) := by
    rw [Int.toNat_of_nonneg (Int.emod_nonneg _ pos.ne')]
  have euclid : (z : ℚ) = 2 ^ s * ((z / ((2 ^ s : Nat) : Int) : Int) : ℚ) + ((z % ((2 ^ s : Nat) : Int) : Int) : ℚ) := by
    exact_mod_cast (Int.mul_ediv_add_emod z ((2 ^ s : Nat) : Int)).symm
  rw [value, euclid, ← rest, Int.cast_natCast]
  field_simp

/-- A fraction of a cut binary point is a fraction. -/
theorem cut_fraction_lt {fr s : Nat} (h : fr < 2 ^ s) : (fr <<< fxBits) >>> s < 2 ^ fxBits := by
  rw [Nat.shiftRight_eq_div_pow, Nat.shiftLeft_eq, Nat.div_lt_iff_lt_mul (Nat.two_pow_pos s), Nat.mul_comm]
  exact Nat.mul_lt_mul_of_pos_left h (Nat.two_pow_pos _)

/-- The power of a number that is not too large, up to the rounding. -/
theorem fexp2_near (neg : Bool) {m : Nat} {e : Int} (small : m = 0 ∨ ¬ 12 < (m.log2 : Int) + e) : ∃ man exp,
    fexp2 (.fin neg m e) = (.fin false man exp, noFlags) ∧ man ≠ 0 ∧ PowerNear (valQ (.fin neg m e)) ((man : ℝ) * 2 ^ exp) := by
  have power (k : Int) (hk : valQ (.fin neg m e) = k) : PowerNear (valQ (.fin neg m e)) (((1 : Nat) : ℝ) * 2 ^ k) := by
    rw [hk, Nat.cast_one, one_mul]
    exact powerNear_int k
  by_cases zero : m = 0
  · exact ⟨1, 0, if_pos zero, one_ne_zero, power 0 (by rw [valQ_fin_eq_zero.2 zero, Int.cast_zero])⟩
  by_cases whole : 0 ≤ e
  · refine ⟨1, signedMan neg (m <<< e.toNat), ?_, one_ne_zero, power _ ?_⟩
    · rw [fexp2, if_neg zero, if_neg (small.resolve_left zero), if_pos whole]
    · have units := valQ_units (n := neg) (m := m) whole
      rwa [Int.sub_zero, zpow_zero, mul_one] at units
  · have parts := valQ_parts neg m (not_le.1 whole)
    have pos : (0 : Int) < ((2 ^ (-e).toNat : Nat) : Int) := by exact_mod_cast Nat.two_pow_pos (-e).toNat
    have cut := Int.emod_lt_of_pos (signedMan neg m) pos
    have nonneg := Int.emod_nonneg (signedMan neg m) pos.ne'
    have form : fexp2 (.fin neg m e) =
        if (signedMan neg m % ((2 ^ (-e).toNat : Nat) : Int)).toNat = 0 then (.fin false 1 (signedMan neg m / ((2 ^ (-e).toNat : Nat) : Int)), noFlags)
        else (.fin false (2 * fxExp2 (((signedMan neg m % ((2 ^ (-e).toNat : Nat) : Int)).toNat <<< fxBits) >>> (-e).toNat) + 1)
          (signedMan neg m / ((2 ^ (-e).toNat : Nat) : Int) - (fxBits : Int) - 1), noFlags) := by
      rw [fexp2, if_neg zero, if_neg (small.resolve_left zero), if_neg whole]
    dsimp only at parts
    generalize signedMan neg m / ((2 ^ (-e).toNat : Nat) : Int) = k at *
    generalize hr : (signedMan neg m % ((2 ^ (-e).toNat : Nat) : Int)).toNat = fr at *
    have fraction : fr < 2 ^ (-e).toNat := by omega
    by_cases exact_ : fr = 0
    · rw [if_pos exact_] at form
      exact ⟨1, k, form, one_ne_zero, power k (by rw [parts, exact_]; simp)⟩
    · rw [if_neg exact_] at form
      refine ⟨_, _, form, Nat.succ_ne_zero _, ?_⟩
      obtain ⟨low, high⟩ := fxExp2_bounds (cut_fraction_lt fraction)
      generalize fxExp2 ((fr <<< fxBits) >>> (-e).toNat) = p at low high
      have lowR : (2 : ℝ) ^ fxBits ≤ p := by exact_mod_cast low
      have highR : (p : ℝ) + 1 ≤ 2 * 2 ^ fxBits := by exact_mod_cast high
      have scale : (2 : ℝ) ^ k = 2 * 2 ^ fxBits * 2 ^ (k - fxBits - 1) := by
        rw [zpow_sub_one₀ (by norm_num), zpow_sub₀ (by norm_num), zpow_natCast]
        field_simp
      have unit : (0 : ℝ) < 2 ^ (k - (fxBits : Int) - 1) := by positivity
      have frQ : (0 : ℚ) < fr := by exact_mod_cast Nat.pos_of_ne_zero exact_
      have denom : (0 : ℚ) < 2 ^ (-e).toNat := by positivity
      have below : (fr : ℚ) / 2 ^ (-e).toNat < 1 := by rw [div_lt_one denom]; exact_mod_cast fraction
      have above : 0 < (fr : ℚ) / 2 ^ (-e).toNat := div_pos frQ denom
      refine powerNear_between (k := k) (by rw [parts]; linarith) (by rw [parts]; linarith) ?_ ?_
      · rw [scale]
        push_cast
        exact mul_lt_mul_of_pos_right (by linarith) unit
      · rw [zpow_add_one₀ (by norm_num), scale]
        push_cast
        rw [mul_right_comm]
        exact mul_lt_mul_of_pos_right (by linarith) unit

/-- A number of every kind between two powers, or at one, has a significand of its own. -/
theorem valQ_large {neg : Bool} {m : Nat} {e : Int} (hm : m ≠ 0) (large : 12 < (m.log2 : Int) + e) :
    (neg = false → (8192 : ℚ) ≤ valQ (.fin neg m e)) ∧ (neg = true → valQ (.fin neg m e) ≤ -8192) := by
  have stands : Stands m e ((m.log2 : Int) + e) ((m : ℝ) * 2 ^ e) := .inl rfl
  have bound : (8192 : ℚ) ≤ m * 2 ^ e := by
    have low := (stands.bounds hm le_rfl).1
    have power : (2 : ℝ) ^ (13 : Int) ≤ 2 ^ ((m.log2 : Int) + e) := zpow_le_zpow_right₀ one_le_two (by omega)
    rw [← Rat.cast_le (K := ℝ)]
    push_cast
    exact le_trans (by norm_num) (power.trans low)
  constructor <;> rintro rfl
  · simpa [valQ] using bound
  · simpa [valQ] using bound

section
variable {f : FFmt} (hinf : ffHasInf f = true) (rm : RMode)
include hinf

theorem exp2Rule_fexp2 (x : FVal) : Exp2Rule f rm x (deliver f rm (fexp2 x)) := by
  refine ⟨fun nan => ?_, ?_, ?_, fun n finite => ?_⟩
  · cases x with
    | nan s => exact deliver_nan hinf rm _
    | _ => cases nan
  · rintro rfl
    exact deliver_zero f rm false 0 noFlags
  · rintro rfl
    exact deliver_inf hinf rm false noFlags
  · obtain ⟨neg, m, e, rfl⟩ := finite_fin finite
    by_cases small : m = 0 ∨ ¬ 12 < (m.log2 : Int) + e
    · obtain ⟨man, exp, power, hman, near⟩ := fexp2_near neg small
      obtain ⟨atInt, between⟩ := near n
      have rounded := roundedNumber_fin hinf rm (n := false) hman (.inl rfl : Stands man exp (man.log2 + exp - ffFracBits f) ((man : ℝ) * 2 ^ exp))
      rw [power]
      exact ⟨fun h => atInt h ▸ rounded, fun low high => ⟨_, (between low high).1, (between low high).2, rounded⟩⟩
    · obtain ⟨hm, large⟩ : m ≠ 0 ∧ 12 < (m.log2 : Int) + e := by simpa using small
      have power : fexp2 (.fin neg m e) = (.fin false 1 (if neg then -8192 else 8192), noFlags) := by
        rw [fexp2, if_neg hm, if_pos large]
      obtain ⟨above, below⟩ := valQ_large (neg := neg) hm large
      -- Every number so far away is rounded alike.
      have alike {man : Nat} {exp : Int} (hman : man ≠ 0) (far : if neg then (man.log2 : Int) + exp ≤ -200 else 300 ≤ (man.log2 : Int) + exp) :
          RoundedNumber f rm ((man : ℝ) * 2 ^ exp) (deliver f rm (fexp2 (.fin neg m e))) := by
        have rounded := roundedNumber_fin hinf rm (n := false) hman (.inl rfl : Stands man exp (man.log2 + exp - ffFracBits f) ((man : ℝ) * 2 ^ exp))
        have same : deliver f rm (fexp2 (.fin neg m e)) = deliver f rm (.fin false man exp, noFlags) := by
          rw [power, deliver_fin f rm false _ one_ne_zero, deliver_fin f rm false _ hman]
          cases neg with
          | true => rw [roundFinite_tiny f rm false one_ne_zero (by decide), roundFinite_tiny f rm false hman far]
          | false => rw [roundFinite_huge f rm false false (by decide), roundFinite_huge f rm false false far]
        rw [same]
        exact rounded
      have two : (1 : Nat).log2 = 0 := by decide
      have three : (3 : Nat).log2 = 1 := by decide
      refine ⟨fun h => ?_, fun low high => ⟨((3 : Nat) : ℝ) * 2 ^ (n - 1), ?_, ?_, alike (by decide) ?_⟩⟩
      · have := alike (man := 1) (exp := n) one_ne_zero (by
          cases neg with
          | true =>
            have : n ≤ -8192 := by exact_mod_cast h ▸ below rfl
            simp only [if_true, two]
            omega
          | false =>
            have : 8192 ≤ n := by exact_mod_cast h ▸ above rfl
            simp only [Bool.false_eq_true, if_false, two]
            omega)
        rwa [Nat.cast_one, one_mul] at this
      · rw [zpow_sub_one₀ (by norm_num)]
        have : (0 : ℝ) < 2 ^ n := by positivity
        push_cast
        linarith
      · rw [zpow_sub_one₀ (by norm_num), zpow_add_one₀ (by norm_num)]
        have : (0 : ℝ) < 2 ^ n := by positivity
        push_cast
        linarith
      · cases neg with
        | true =>
          have : n < -8192 := by exact_mod_cast low.trans_le (below rfl)
          simp only [if_true, three]
          omega
        | false =>
          have : 8192 < n + 1 := by exact_mod_cast (above rfl).trans_lt high
          simp only [Bool.false_eq_true, if_false, three]
          omega

/-! ### The logarithm -/

omit hinf in
theorem flog2_pos {m : Nat} (hm : m ≠ 0) (e : Int) :
    let n : Int := (m.log2 : Int) + e
    let fr := (lnRatio m (2 ^ m.log2) <<< fxBits) / fxLn2
    let z : Int := n * ((2 ^ fxBits : Nat) : Int) + (fr : Int)
    (m = 2 ^ m.log2 → flog2 (.fin false m e) = (.fin (decide (n < 0)) n.natAbs 0, noFlags)) ∧
      (m ≠ 2 ^ m.log2 → flog2 (.fin false m e) = (.fin (decide (z < 0)) (2 * z.natAbs + 1) (-(fxBits : Int) - 1), noFlags)) := by
  intro n fr z
  constructor <;> intro h
  · have form : flog2 (.fin false m e) = (if n = 0 then .fin false 0 0 else .fin (decide (n < 0)) n.natAbs 0, noFlags) := by
      rw [flog2, if_neg hm]
      simp only [Bool.false_eq_true, if_false]
      exact if_pos h
    rw [form]
    split
    · next zero => rw [zero]; rfl
    · rfl
  · rw [flog2, if_neg hm]
    simp only [Bool.false_eq_true, if_false]
    exact if_neg h

omit hinf in
/-- The number between two integers that the model has found. -/
theorem log_between {n : Int} {fr : Nat} (low : 1 ≤ fr) (high : fr < 2 ^ fxBits) :
    let z : Int := n * ((2 ^ fxBits : Nat) : Int) + (fr : Int)
    let y : ℝ := signed (decide (z < 0)) (((2 * z.natAbs + 1 : Nat) : ℝ) * 2 ^ (-(fxBits : Int) - 1))
    (n : ℝ) < y ∧ y < n + 1 := by
  intro z y
  have unit : (2 : ℝ) ^ (-(fxBits : Int) - 1) = 1 / (2 * 2 ^ fxBits) := by
    rw [zpow_sub_one₀ (by norm_num), zpow_neg, zpow_natCast]
    field_simp
  have pos : (0 : ℝ) < 2 * 2 ^ fxBits := by positivity
  have lowR : (1 : ℝ) ≤ fr := by exact_mod_cast low
  have highR : (fr : ℝ) + 1 ≤ 2 ^ fxBits := by exact_mod_cast high
  have zR : (z : ℝ) = n * 2 ^ fxBits + fr := by push_cast [z]; rfl
  have number : y = (2 * z + if z < 0 then -1 else 1) / (2 * 2 ^ fxBits) := by
    have size : (z.natAbs : ℝ) = if z < 0 then -(z : ℝ) else z := by
      rw [Nat.cast_natAbs]
      split
      · next neg => rw [abs_of_neg neg, Int.cast_neg]
      · next nonneg => rw [abs_of_nonneg (not_lt.1 nonneg)]
    show signed (decide (z < 0)) (((2 * z.natAbs + 1 : Nat) : ℝ) * 2 ^ (-(fxBits : Int) - 1)) = _
    rw [unit, mul_one_div, signed_div, Nat.cast_add, Nat.cast_mul, size]
    by_cases neg : z < 0
    · rw [decide_eq_true neg, if_pos neg, if_pos neg, signed, if_pos rfl]
      push_cast
      ring
    · rw [decide_eq_false neg, if_neg neg, if_neg neg, signed, if_neg (by decide)]
      push_cast
      ring
  rw [number, lt_div_iff₀ pos, div_lt_iff₀ pos, zR]
  by_cases neg : z < 0
  · rw [if_pos neg]
    constructor <;> linarith
  · rw [if_neg neg]
    constructor <;> linarith

theorem log2Rule_flog2 {x : FVal} (bits : ∀ n m e, x = .fin n m e → m < 2 ^ 24) : Log2Rule f rm x (deliver f rm (flog2 x)) := by
  refine ⟨fun nan => ?_, ?_, ?_, fun finite => ⟨fun zero => ?_, fun neg => ?_, fun n => ?_⟩⟩
  · cases x with
    | nan s => exact deliver_nan hinf rm _
    | _ => cases nan
  · rintro rfl
    exact deliver_invalid hinf rm
  · rintro rfl
    exact deliver_inf hinf rm false noFlags
  · obtain ⟨n, m, e, rfl⟩ := finite_fin finite
    have log : flog2 (.fin n m e) = (.inf true, flagDZ) := if_pos (valQ_fin_eq_zero.1 zero)
    rw [log]
    exact deliver_inf hinf rm true flagDZ
  · obtain ⟨m, e, rfl, hm⟩ := fin_of_neg neg
    have log : flog2 (.fin true m e) = invalid := if_neg hm
    rw [log]
    exact deliver_invalid hinf rm
  · by_cases pos : 0 < valQ x
    · obtain ⟨m, e, rfl, hm⟩ := fin_of_pos pos
      obtain ⟨power, other⟩ := flog2_pos hm e
      have value : ((valQ (.fin false m e) : ℚ) : ℝ) = m * 2 ^ e := (valQ_cast false m e).trans (if_neg (by decide))
      have stands : Stands m e ((m.log2 : Int) + e) ((m : ℝ) * 2 ^ e) := .inl rfl
      have leading := stands.bounds hm le_rfl
      have small : m.log2 ≤ 23 := Nat.lt_succ_iff.1 ((Nat.log2_lt hm).2 (bits _ _ _ rfl))
      refine ⟨fun h => ?_, fun low high => ?_⟩
      · have hR : (m : ℝ) * 2 ^ e = 2 ^ n := by rw [← value, h]; push_cast; rfl
        have hn : n = (m.log2 : Int) + e := leading_unique hR.ge (by rw [hR]; exact zpow_lt_zpow_right₀ one_lt_two (by omega)) leading.1 leading.2
        have hpow : m = 2 ^ m.log2 := by
          rw [hn, zpow_add₀ (by norm_num), zpow_natCast] at hR
          exact_mod_cast mul_right_cancel₀ (zpow_ne_zero e two_ne_zero) hR
        rw [power hpow, ← hn]
        refine delivered_of_value hinf rm rfl ((valQ_int n 0).trans (by simp)) fun h => ?_
        have : n = 0 := by exact_mod_cast h
        rw [this]
        rfl
      · have lowR := (Rat.cast_lt (K := ℝ)).2 low
        have highR := (Rat.cast_lt (K := ℝ)).2 high
        rw [value] at lowR highR
        push_cast at lowR highR
        have hn : n = (m.log2 : Int) + e := leading_unique lowR.le highR leading.1 leading.2
        have hlow : 2 ^ m.log2 < m := by
          rw [hn, zpow_add₀ (by norm_num), zpow_natCast] at lowR
          exact_mod_cast lt_of_mul_lt_mul_right lowR (by positivity)
        obtain ⟨one, below⟩ := log_fraction_bounds hlow Nat.lt_log2_self small
        obtain ⟨ylow, yhigh⟩ := log_between (n := (m.log2 : Int) + e) one below
        rw [other hlow.ne', hn]
        exact ⟨_, ylow, yhigh, roundedNumber_fin hinf rm (Nat.succ_ne_zero _) (.inl rfl)⟩
    · have none (k : Int) : (0 : ℚ) < 2 ^ k := by positivity
      exact ⟨fun h => absurd (h ▸ none n) pos, fun low => absurd ((none n).trans low) pos⟩

/-! ### What the forms of R113 deliver -/

theorem floatValues : FloatValues f := by
  intro rm i j hi hj x y sign
  have bits (n : Bool) (m : Nat) (e : Int) (h : x = .fin n m e) : m < 2 ^ 24 :=
    (man_lt_of_fdecode h).trans_le (Nat.pow_le_pow_right two_pos (by have := (format_range f).2.2.1; omega))
  refine ⟨sumRule_fadd hinf rm x y, sumRule_fadd hinf rm x (fneg y), productRule_fmul hinf rm x y, quotientRule_fdiv hinf rm x y,
    minMaxRule_fminmax hinf rm false hi hj, minMaxRule_fminmax hinf rm true hi hj, rootRule_fsqrt hinf rm x, rootRule_frsq hinf rm x,
    quotientRule_fdiv hinf rm fone x, exp2Rule_fexp2 hinf rm x, log2Rule_flog2 hinf rm bits, fun nan => ?_,
    fun number => ⟨deliver_fabsVal hinf rm hi number, deliver_fnegVal hinf rm hi number⟩⟩
  rw [fabsVal_nan nan, fnegVal_nan nan]
  exact ⟨deliver_nan hinf rm _, deliver_nan hinf rm _⟩

end

end Sys2Proof.FloatArithmetic
end

section
/-! The scalar float forms (R125, R126). -/
namespace Sys2Proof.ScalarFloats
open Sys2Proof.Machine Sys2Proof.Safety Sys2Proof.FloatValues Sys2Proof.Rounding Sys2Proof.IntegerForms Sys2Proof.FloatArithmetic

section
variable {d a b : Reg} {s u : State}

/-! ### What a form writes -/

/-- The end of a form that gives d a float result, its bits zero-extended, and its events. -/
def floatDone (s t : State) (d : Reg) (r : Nat × FpFlags) : State := retired 4 s (flagged (giveG t d (BitVec.ofNat 64 r.1)) r.2)

theorem putFloat_run (room : RoomReady u [d] []) (rm : RMode) (r : FRes) : putFloat d rm r u =
    .ok ((), flagged (giveG u d (BitVec.ofNat 64 (deliver .fp32 rm r).1)) (deliver .fp32 rm r).2) := m_bind_ok (room.giveG _)

/-- The rounding mode of a field, whatever ports the sources took. -/
theorem roundingOf_run (rm : Nat) (hm : me u = me s) : roundingOf rm u = .ok (rmodeDyn (fpctlRm (me s)) rm, u) := by
  rw [← hm]
  rfl

theorem me_afterGG (s : State) (a b : Reg) : me (afterG (afterG s a) b) = me s := by rw [me_afterG, me_afterG]

theorem sfp2_run (rm : Nat) (f : RMode → FVal → FVal → FRes) (h : PortsReady s [a, b] [] [d] []) :
    let m := rmodeDyn (fpctlRm (me s)) rm
    run4 (sfp2 d a b rm f) s = .next (floatDone s (afterG (afterG s a) b) d
      (deliver .fp32 m (f m (lowFloat (valueG s a)) (lowFloat (valueG (afterG s a) b))))) :=
  run4_ok (withPorts_ok h ((readG_two h.sources).trans ((m_bind_ok (roundingOf_run rm (me_afterGG s a b))).trans
    (putFloat_run ((h.room.afterG a).afterG b) _ _))))

theorem boolWord_eq (p : Bool) : boolWord p = BitVec.ofNat 64 (if p then 1 else 0) := by cases p <;> rfl

theorem sfpCmp_run (c : Nat) (h : PortsReady s [a, b] [] [d] []) :
    let r := fcond c (lowFloat (valueG s a)) (lowFloat (valueG (afterG s a) b))
    run4 (sfpCmp d a b c) s = .next (floatDone s (afterG (afterG s a) b) d (if r.1 then 1 else 0, r.2)) := by
  intro r
  rw [floatDone, ← boolWord_eq]
  exact run4_ok (withPorts_ok h ((readG_two h.sources).trans (m_bind_ok (((h.room.afterG a).afterG b).giveG _))))

/-! ### The forms -/

theorem exec_floatBinary {p : (Reg → Reg → Reg → BitVec 3 → Instr) × (RMode → FVal → FVal → FRes)} (hp : p ∈ floatBinary) (r : BitVec 3) :
    exec (p.1 d a b r) s = run4 (sfp2 d a b r.toNat p.2) s := by
  simp only [floatBinary, List.mem_cons, List.not_mem_nil, or_false] at hp
  obtain rfl | rfl | rfl | rfl := hp <;> rfl

theorem exec_floatCompare {p : (Reg → Reg → Reg → Instr) × Nat} (hp : p ∈ floatCompare) :
    exec (p.1 d a b) s = run4 (sfpCmp d a b p.2) s := by
  simp only [floatCompare, List.mem_cons, List.not_mem_nil, or_false] at hp
  obtain rfl | rfl | rfl := hp <;> rfl

theorem exec_fmin_eq : exec (.fmin d a b) s = run4 (sfp2 d a b 0 fun _ x y => fminmax false x y) s := rfl
theorem exec_fmax_eq : exec (.fmax d a b) s = run4 (sfp2 d a b 0 fun _ x y => fminmax true x y) s := rfl

theorem exec_fsqrt (r : BitVec 3) (h : PortsReady s [a] [] [d] []) : exec (.fsqrt d a r) s = .next (floatDone s (afterG s a) d
    (deliver .fp32 (rmodeDyn (fpctlRm (me s)) r.toNat) (fsqrt (lowFloat (valueG s a))))) :=
  run4_ok (withPorts_ok h ((m_bind_ok h.sources.takeG.1).trans ((m_bind_ok (roundingOf_run r.toNat (me_afterG s a))).trans
    (putFloat_run (h.room.afterG a) _ _))))

theorem exec_fcvt (c : BitVec 4) (r : BitVec 3) (h : PortsReady s [a] [] [d] []) :
    let p := fcvtResult c.toNat (rmodeDyn (fpctlRm (me s)) r.toNat) (valueG s a)
    exec (.fcvt d a c r) s = .next (retired 4 s (flagged (giveG (afterG s a) d p.1) p.2)) :=
  run4_ok (withPorts_ok h ((m_bind_ok h.sources.takeG.1).trans ((m_bind_ok (roundingOf_run r.toNat (me_afterG s a))).trans
    (m_bind_ok ((h.room.afterG a).giveG _)))))

theorem exec_fma (r : BitVec 3) (h : PortsReady s [a, b] [] [] []) (hd : isGPort d = false) :
    let m := rmodeDyn (fpctlRm (me s)) r.toNat
    exec (.fma d a b r) s = .next (floatDone s (afterG (afterG s a) b) d (deliver .fp32 m
      (ffma m (lowFloat (valueG s a)) (lowFloat (valueG (afterG s a) b)) (lowFloat (gValue (me s) d))))) := by
  have mine : getThread (afterG (afterG s a) b) (afterG (afterG s a) b).cur = me s := me_afterGG s a b
  refine run4_ok (withPorts_ok h ((readG_two h.sources).trans ((m_bind_ok (self_run _)).trans
    ((m_bind_ok (roundingOf_run r.toNat (me_afterGG s a b))).trans ?_))))
  rw [mine]
  exact m_bind_ok (writeG_plain hd)

end

/-! ### Conversions -/

theorem ofNat_ofInt (w : Nat) (z : Int) : BitVec.ofNat w (ofInt w z) = BitVec.ofInt w z := by
  apply BitVec.eq_of_toNat_eq
  rw [BitVec.toNat_ofNat, BitVec.toNat_ofInt, Nat.mod_eq_of_lt (LaneIntegers.ofInt_lt w z)]
  rfl

/-- An integer is rounded to FP32 from its own value. -/
theorem delivered_ofIntVal (rm : RMode) (z : Int) : Delivered .fp32 rm z false (encodeF .fp32 rm false (ofIntVal z)) := by
  rw [← deliver_noFlags]
  refine delivered_of_value (by decide) rm rfl (Conversions.ofIntVal_value z) fun h => ?_
  rw [Int.cast_eq_zero.1 h]
  rfl

/-- A value is rounded to an integer of a range. -/
theorem fcvtResult_toInt (rm : RMode) (x : Word) :
    (∃ q, RoundedToInt 64 (-2 ^ 63) (2 ^ 63 - 1) rm (lowFloat x) q ∧ fcvtResult 0 rm x = (BitVec.ofNat 64 q.1, q.2)) ∧
      ∃ q, RoundedToInt 64 0 (2 ^ 64 - 1) rm (lowFloat x) q ∧ fcvtResult 1 rm x = (BitVec.ofNat 64 q.1, q.2) := by
  refine ⟨⟨_, roundedToInt_encodeInt 64 (-2 ^ 63) (2 ^ 63 - 1) rm (lowFloat x), ?_⟩,
    ⟨_, roundedToInt_encodeInt 64 0 (2 ^ 64 - 1) rm (lowFloat x), ?_⟩⟩
  · rw [ofNat_ofInt]
    rfl
  · rw [ofNat_ofInt]
    rfl

/-- Settles O25: the forms by their one operation on FP32 values, and the values that they deliver. -/
theorem scalarFloatForms : Obligations.ScalarFloatForms := by
  intro s x32 mode put
  have hinf : ffHasInf .fp32 = true := by decide
  refine ⟨fun d a b h => ⟨fun r i hi => ?listed, fun p hp r => (exec_floatBinary hp r).trans (sfp2_run _ _ h), exec_fmin_eq.trans (sfp2_run 0 _ h),
      exec_fmax_eq.trans (sfp2_run 0 _ h), fun p hp => (exec_floatCompare hp).trans (sfpCmp_run _ h)⟩,
    fun d a h r => ⟨exec_fsqrt r h, fun c => exec_fcvt c r h⟩, fun d a b h hd r => exec_fma r h hd, floatValues hinf,
    fun rm i j k => fusedRule_ffma hinf rm _ _ _, fun p hp i j => ?compare, fun rm x => ?convert⟩
  case listed =>
    rcases List.mem_append.1 (show i ∈ (floatBinary.map fun p => p.1 d a b r) ++ floatCompare.map fun p => p.1 d a b from hi) with hi | hi
    · obtain ⟨p, hp, rfl⟩ := List.mem_map.1 hi
      exact ⟨_, (exec_floatBinary hp r).trans (sfp2_run _ _ h)⟩
    · obtain ⟨p, hp, rfl⟩ := List.mem_map.1 hi
      exact ⟨_, (exec_floatCompare hp).trans (sfpCmp_run _ h)⟩
  case compare =>
    have code : p.2 = 0 ∨ p.2 = 2 ∨ p.2 = 3 := by
      simp only [floatCompare, List.mem_cons, List.not_mem_nil, or_false] at hp
      obtain rfl | rfl | rfl := hp <;> simp
    have small : p.2 < 8 := by omega
    refine ⟨fun hx hy => fcond_iff small hx hy, fun nan => ?_⟩
    obtain ⟨bit, events⟩ := fcond_nan small nan
    refine Prod.ext (Bool.eq_false_iff.2 fun h => ?_) (events.trans ?_)
    · have := bit.1 h
      omega
    · by_cases zero : p.2 = 0
      · rw [if_pos zero, if_neg (by omega)]
      · rw [if_neg zero, if_pos (by omega)]
  case convert =>
    obtain ⟨signed, unsigned⟩ := fcvtResult_toInt rm x
    exact ⟨signed, unsigned, ⟨_, delivered_ofIntVal rm x.toInt, rfl⟩, _, delivered_ofIntVal rm x.toNat, rfl⟩

end Sys2Proof.ScalarFloats
end

section
/-! The arithmetic forms (R112, R113): one operation for each lane, under the tag of the first source. -/
namespace Sys2Proof.VectorArithmetic
open Sys2Proof.Machine Sys2Proof.Safety Sys2Proof.LaneLaws Sys2Proof.LaneIntegers Sys2Proof.Reductions Sys2Proof.MaskedForms

/-! ### Lanes -/

/-- The classes and the lane operation of a form are those of its rule. -/
structure Implements (ok : TagClass → Bool) (op : LaneOp) (r : LaneRule) : Prop where
  takes : ∀ c, ok c = r.takes c
  ints : ∀ f ∈ r.ints, ∀ w sg x y, 0 < w → op.onInt w sg x y = f w sg x y
  flts : ∀ f ∈ r.flts, op.onFlt = f

theorem Implements.laneBin_eq {ok : TagClass → Bool} {op : LaneOp} {r : LaneRule} (h : Implements ok op r) {t : Tag}
    (ht : r.takes (tagClass t) = true) (rm : RMode) (x y : Nat) : laneBin t rm op x y = r.result t rm x y := by
  cases hc : tagClass t with
  | int w sg =>
    rw [hc] at ht
    obtain ⟨f, hf⟩ := Option.isSome_iff_exists.1 ht
    have result : r.result t rm x y = (ofInt w (f w sg (laneInt w sg x) (laneInt w sg y)), noFlags) := by
      rw [LaneRule.result, hc, hf]
    rw [laneBin_int hc, result, h.ints f hf w sg _ _ (int_width_pos hc)]
  | flt g =>
    rw [hc] at ht
    obtain ⟨f, hf⟩ := Option.isSome_iff_exists.1 ht
    have result : r.result t rm x y = deliver g rm (f rm (fdecode g x) (fdecode g y)) := by
      rw [LaneRule.result, hc, hf]
    rw [laneBin_flt hc, result, h.flts f hf]
  | _ =>
    rw [hc] at ht
    cases ht

/-- The forms by the tags they take: both kinds, floats alone, integers alone. -/
theorem implements_both {op : LaneOp} {f : Nat → Bool → Int → Int → Int} (hf : ∀ w sg x y, 0 < w → op.onInt w sg x y = f w sg x y) :
    Implements isIntOrFloat op { ints := some f, flts := some op.onFlt } where
  takes c := by cases c <;> rfl
  ints g hg := by
    obtain rfl := Option.some.inj hg
    exact hf
  flts g hg := Option.some.inj hg

theorem implements_flt (g : RMode → FVal → FVal → FRes) : Implements isFloatClass (fltOnly g) { flts := some g } where
  takes c := by cases c <;> rfl
  ints f hf := nomatch hf
  flts f hf := Option.some.inj hf

theorem implements_int {op f : Nat → Bool → Int → Int → Int} (hf : ∀ w sg x y, 0 < w → op w sg x y = f w sg x y) :
    Implements isIntClass (intOnly op) { ints := some f } where
  takes c := by cases c <;> rfl
  ints g hg := by
    obtain rfl := Option.some.inj hg
    exact hf
  flts g hg := nomatch hg

/-! ### Integer operations as the table writes them -/

theorem clampLane_eq {w : Nat} (hw : 0 < w) (sg : Bool) (z : Int) : clampLane w sg z = max (intLo w sg) (min (intHi w sg) z) :=
  Conversions.clampInt_eq ((laneInt_range hw sg 0).1.trans (laneInt_range hw sg 0).2) z

theorem laneSll_eq (w : Nat) (sg : Bool) (x y : Int) : laneSll w sg x y = x * 2 ^ (y % (w : Int)).toNat := by
  rw [laneSll, Nat.cast_pow, Nat.cast_ofNat]

theorem laneSrl_eq (w : Nat) (sg : Bool) (x y : Int) : laneSrl w sg x y = x % 2 ^ w / 2 ^ (y % (w : Int)).toNat := by
  rw [laneSrl, Nat.shiftRight_eq_div_pow, Int.natCast_div, ofInt_cast]
  push_cast
  rfl

/-- The signed number of a lane is the balanced remainder. -/
theorem toSigned_ofInt {w : Nat} (hw : 0 < w) (x : Int) : toSigned w (ofInt w x) = x.bmod (2 ^ w) := by
  have double : 2 ^ w = 2 * 2 ^ (w - 1) := by rw [← pow_succ', Nat.sub_add_cancel hw]
  have low := ofInt_cast w x
  unfold toSigned Int.bmod
  dsimp only
  rw [Nat.mod_eq_of_lt (ofInt_lt w x), ← low, double]
  split <;> split <;> omega

theorem laneSra_eq {w : Nat} (hw : 0 < w) (sg : Bool) (x y : Int) : laneSra w sg x y = x.bmod (2 ^ w) / 2 ^ (y % (w : Int)).toNat := by
  rw [laneSra, toSigned_ofInt hw, Nat.cast_pow, Nat.cast_ofNat]

/-! ### The two shapes -/

section
variable {d a b : Reg} {k : MReg} {s : State} {ok : TagClass → Bool} {op : LaneOp}

theorem requireClass_trap {r : Reg} {v : VReg} (h : ok (tagClass v.tag) = false) :
    requireClass r v ok s = .error (.trap causeTag (tagTrapVal r 0 v.tag) id) := by
  rw [requireClass, if_neg (by simp [h])]
  rfl

theorem requireTag_trap {r : Reg} {v : VReg} {t : Tag} (h : v.tag ≠ t) :
    requireTag r v t s = .error (.trap causeTag (tagTrapVal r t v.tag) id) := by
  rw [requireTag, if_neg h]
  rfl

/-- The lanes of a form that reads one vector source, and of one that reads two. -/
def lanesOf1 (op : LaneOp) (s : State) (a : Reg) (i : Nat) : Nat × FpFlags :=
  let va := valueV s a
  laneBin va.tag (rmodeDyn (fpctlRm (me s)) 7) op (lane (tagLane va.tag) va.bits.toNat i) 0
def lanesOf2 (op : LaneOp) (s : State) (a b : Reg) (i : Nat) : Nat × FpFlags :=
  let va := valueV s a
  laneBin va.tag (rmodeDyn (fpctlRm (me s)) 7) op (lane (tagLane va.tag) va.bits.toNat i)
    (lane (tagLane va.tag) (valueV (afterV s a) b).bits.toNat i)

theorem vec1_run (hp : PortsReady s [] [a] [] [d]) (ha : TagsAgree s a) (hc : ok (tagClass (valueV s a).tag) = true) :
    run4 (vec1 d a k ok op) s = .next (retired 4 s (wrote s (afterV s a) d k (valueV s a).tag (lanesOf1 op s a))) := by
  have none (i : Nat) : lane (tagLane (valueV s a).tag) 0 i = 0 := by rw [lane, Nat.zero_shiftRight, Nat.zero_mod]
  have work := readMasked_run (k := k) (t := (valueV s a).tag) (me_afterV s a) (hp.room.afterV a)
    (f := fun rm i => laneBin (valueV s a).tag rm op (lane (tagLane (valueV s a).tag) (valueV s a).bits.toNat i) (lane (tagLane (valueV s a).tag) 0 i))
  refine run4_ok (withPorts_ok hp ((m_bind_ok (hp.sources.takeV ha).1).trans ((m_bind_ok (requireClass_ok hc)).trans (work.trans ?_))))
  simp only [none]
  rfl

theorem vec2_run (h : VectorReady s a b d) (hc : ok (tagClass (valueV s a).tag) = true)
    (ht : (valueV (afterV s a) b).tag = (valueV s a).tag) :
    run4 (vec2 d a b k ok op) s = .next (retired 4 s (wrote s (afterVV s a b) d k (valueV s a).tag (lanesOf2 op s a b))) := by
  obtain ⟨hp, ha, hb⟩ := h
  obtain ⟨readA, rest⟩ := hp.sources.takeV ha
  have hc' : ok (tagClass (valueV (afterV s a) b).tag) = true := by rw [ht, hc]
  exact run4_ok (withPorts_ok hp ((m_bind_ok readA).trans ((m_bind_ok (requireClass_ok hc)).trans
    ((m_bind_ok (rest.takeV hb).1).trans ((m_bind_ok (requireClass_ok hc')).trans ((m_bind_ok (requireTag_ok ht)).trans
    (readMasked_run (me_afterVV s a b) (room_afterVV hp.room a b)
      (f := fun rm i => laneBin _ rm op (lane _ (valueV s a).bits.toNat i) (lane _ (valueV (afterV s a) b).bits.toNat i)))))))))

theorem vec2_class_trap (h : VectorReady s a b d) (hc : ok (tagClass (valueV s a).tag) = false) :
    run4 (vec2 d a b k ok op) s =
      .next (takeTrap (holdDirs (namedDirs [] [a, b, d]) s) s.cur causeTag (tagTrapVal a 0 (valueV s a).tag)) :=
  run4_trap (withPorts_trap h.1 ((m_bind_ok (h.1.sources.takeV h.2.1).1).trans (m_bind_error (requireClass_trap hc))))

theorem vec2_tag_trap (h : VectorReady s a b d) (hc : ok (tagClass (valueV s a).tag) = true)
    (hc' : ok (tagClass (valueV (afterV s a) b).tag) = true) (ht : (valueV (afterV s a) b).tag ≠ (valueV s a).tag) :
    run4 (vec2 d a b k ok op) s = .next (takeTrap (holdDirs (namedDirs [] [a, b, d]) s) s.cur causeTag
      (tagTrapVal b (valueV s a).tag (valueV (afterV s a) b).tag)) := by
  obtain ⟨hp, ha, hb⟩ := h
  obtain ⟨readA, rest⟩ := hp.sources.takeV ha
  exact run4_trap (withPorts_trap hp ((m_bind_ok readA).trans ((m_bind_ok (requireClass_ok hc)).trans
    ((m_bind_ok (rest.takeV hb).1).trans ((m_bind_ok (requireClass_ok hc')).trans (m_bind_error (requireTag_trap ht)))))))

/-! ### The forms -/

theorem exec_vecBinary {p : (Reg → Reg → Reg → MReg → Instr) × LaneRule} (hp : p ∈ vecBinary) :
    ∃ ok op, Implements ok op p.2 ∧ ∀ (d a b : Reg) (k : MReg) (s : State), exec (p.1 d a b k) s = run4 (vec2 d a b k ok op) s := by
  simp only [vecBinary, List.mem_cons, List.not_mem_nil, or_false] at hp
  obtain rfl | rfl | rfl | rfl | rfl | rfl | rfl | rfl | rfl | rfl | rfl | rfl := hp
  · exact ⟨_, opAdd, implements_both fun _ _ _ _ _ => rfl, fun _ _ _ _ _ => rfl⟩
  · exact ⟨_, opSub, implements_both fun _ _ _ _ _ => rfl, fun _ _ _ _ _ => rfl⟩
  · exact ⟨_, opMul, implements_both fun _ _ _ _ _ => rfl, fun _ _ _ _ _ => rfl⟩
  · exact ⟨_, _, implements_flt _, fun _ _ _ _ _ => rfl⟩
  · exact ⟨_, opMin, implements_both fun _ _ x y _ => (min_def x y).symm, fun _ _ _ _ _ => rfl⟩
  · exact ⟨_, opMax, implements_both fun _ _ x y _ => (max_def x y).symm, fun _ _ _ _ _ => rfl⟩
  · exact ⟨_, _, implements_int fun _ sg x y hw => clampLane_eq hw sg (x + y), fun _ _ _ _ _ => rfl⟩
  · exact ⟨_, _, implements_int fun _ sg x y hw => clampLane_eq hw sg (x - y), fun _ _ _ _ _ => rfl⟩
  · exact ⟨_, _, implements_int fun w _ x y _ => by rw [Nat.cast_pow, Nat.cast_ofNat], fun _ _ _ _ _ => rfl⟩
  · exact ⟨_, _, implements_int fun w sg x y _ => laneSll_eq w sg x y, fun _ _ _ _ _ => rfl⟩
  · exact ⟨_, _, implements_int fun w sg x y _ => laneSrl_eq w sg x y, fun _ _ _ _ _ => rfl⟩
  · exact ⟨_, _, implements_int fun _ sg x y hw => laneSra_eq hw sg x y, fun _ _ _ _ _ => rfl⟩

theorem exec_vecUnary {p : (Reg → Reg → MReg → Instr) × LaneRule} (hp : p ∈ vecUnary) :
    ∃ ok op, Implements ok op p.2 ∧ ∀ (d a : Reg) (k : MReg) (s : State), exec (p.1 d a k) s = run4 (vec1 d a k ok op) s := by
  simp only [vecUnary, List.mem_cons, List.not_mem_nil, or_false] at hp
  obtain rfl | rfl | rfl | rfl | rfl | rfl | rfl := hp
  · exact ⟨_, opAbs, implements_both fun _ _ x _ _ => Int.natCast_natAbs x, fun _ _ _ _ => rfl⟩
  · exact ⟨_, opNeg, implements_both fun _ _ _ _ _ => rfl, fun _ _ _ _ => rfl⟩
  · exact ⟨_, _, implements_flt _, fun _ _ _ _ => rfl⟩
  · exact ⟨_, _, implements_flt _, fun _ _ _ _ => rfl⟩
  · exact ⟨_, _, implements_flt _, fun _ _ _ _ => rfl⟩
  · exact ⟨_, _, implements_flt _, fun _ _ _ _ => rfl⟩
  · exact ⟨_, _, implements_flt _, fun _ _ _ _ => rfl⟩

/-- A binary form on tags that it takes. -/
theorem binary_run {p : (Reg → Reg → Reg → MReg → Instr) × LaneRule} (hp : p ∈ vecBinary) (h : VectorReady s a b d)
    (hc : p.2.takes (tagClass (valueV s a).tag) = true) (ht : (valueV (afterV s a) b).tag = (valueV s a).tag) :
    let va := valueV s a
    exec (p.1 d a b k) s = .next (retired 4 s (wrote s (afterVV s a b) d k va.tag fun i =>
      p.2.result va.tag (rmodeDyn (fpctlRm (me s)) 7) (lane (tagLane va.tag) va.bits.toNat i)
        (lane (tagLane va.tag) (valueV (afterV s a) b).bits.toNat i))) := by
  obtain ⟨ok, op, implements, form⟩ := exec_vecBinary hp
  rw [form, vec2_run h ((implements.takes _).trans hc) ht, show lanesOf2 op s a b = _ from funext fun i => implements.laneBin_eq hc _ _ _]

/-- A unary form on a tag that it takes. -/
theorem unary_run {p : (Reg → Reg → MReg → Instr) × LaneRule} (hp : p ∈ vecUnary) (hr : PortsReady s [] [a] [] [d]) (ha : TagsAgree s a)
    (hc : p.2.takes (tagClass (valueV s a).tag) = true) :
    let va := valueV s a
    exec (p.1 d a k) s = .next (retired 4 s (wrote s (afterV s a) d k va.tag fun i =>
      p.2.result va.tag (rmodeDyn (fpctlRm (me s)) 7) (lane (tagLane va.tag) va.bits.toNat i) 0)) := by
  obtain ⟨ok, op, implements, form⟩ := exec_vecUnary hp
  rw [form, vec1_run hr ha ((implements.takes _).trans hc), show lanesOf1 op s a = _ from funext fun i => implements.laneBin_eq hc _ _ _]

end

/-! ### Which forms take a class -/

theorem takes_both {r : LaneRule} {c : TagClass} (h : (r.ints.isSome && r.flts.isSome) = true) (hc : isIntOrFloat c = true) :
    r.takes c = true := by
  obtain ⟨ints, flts⟩ := Bool.and_eq_true_iff.1 h
  cases c with
  | int w sg => exact ints
  | flt f => exact flts
  | _ => cases hc

theorem takes_flt {r : LaneRule} {c : TagClass} (h : r.flts.isSome = true) (hc : isFloatClass c = true) : r.takes c = true := by
  cases c with
  | flt f => exact h
  | _ => cases hc

theorem takes_int {r : LaneRule} {c : TagClass} (h : r.ints.isSome = true) (hc : isIntClass c = true) : r.takes c = true := by
  cases c with
  | int w sg => exact h
  | _ => cases hc

/-- Settles O18: the forms by their tables' rules, the Tag traps in the order of the checks, and the values of the float formats. -/
theorem vectorArithmetic : Obligations.VectorArithmetic := by
  have binary {d a b : Reg} {k : MReg} {s : State} (h : VectorReady s a b d) (ht : (valueV (afterV s a) b).tag = (valueV s a).tag) {i : Instr}
      {test : LaneRule → Bool} (hi : i ∈ (vecBinary.filter fun p => test p.2).map fun p => p.1 d a b k)
      (hc : ∀ r : LaneRule, test r = true → r.takes (tagClass (valueV s a).tag) = true) :
      ∃ r fl, exec i s = .next (retired 4 s (flagged (giveV (afterVV s a b) d { bits := r, tag := (valueV s a).tag }) fl)) := by
    obtain ⟨p, hp, rfl⟩ := List.mem_map.1 hi
    obtain ⟨hp, passes⟩ := List.mem_filter.1 hp
    exact ⟨_, _, binary_run hp h (hc _ passes) ht⟩
  have unary {d a : Reg} {k : MReg} {s : State} (hr : PortsReady s [] [a] [] [d]) (ha : TagsAgree s a) {i : Instr}
      {test : LaneRule → Bool} (hi : i ∈ (vecUnary.filter fun p => test p.2).map fun p => p.1 d a k)
      (hc : ∀ r : LaneRule, test r = true → r.takes (tagClass (valueV s a).tag) = true) :
      ∃ r fl, exec i s = .next (retired 4 s (flagged (giveV (afterV s a) d { bits := r, tag := (valueV s a).tag }) fl)) := by
    obtain ⟨p, hp, rfl⟩ := List.mem_map.1 hi
    obtain ⟨hp, passes⟩ := List.mem_filter.1 hp
    exact ⟨_, _, unary_run hp hr ha (hc _ passes)⟩
  refine ⟨⟨fun d a b k s => ⟨fun h ht => ⟨fun hc i hi => ?_, fun hc => ?_, fun hc i hi => ?_⟩, fun hr ha => ⟨fun hc i hi => ?_, fun hc i hi => ?_⟩⟩,
    ⟨fun p hp d a b k s h hc ht => ⟨_, merged_maskedBits, binary_run hp h hc ht⟩,
      fun p hp d a k s hr ha hc => ⟨_, merged_maskedBits, unary_run hp hr ha hc⟩⟩,
    fun p hp d a b k s h => ⟨fun hc => ?_, fun hc hc' ht => ?_⟩⟩, fun f hf => ?_⟩
  · exact binary h ht (test := fun r => r.ints.isSome && r.flts.isSome) hi fun r passes => takes_both passes hc
  · exact binary h ht (test := fun r => r.flts.isSome && !r.ints.isSome) (List.mem_singleton.2 rfl)
      fun r passes => takes_flt (Bool.and_eq_true_iff.1 passes).1 hc
  · exact binary h ht (test := fun r => r.ints.isSome && !r.flts.isSome) hi fun r passes => takes_int (Bool.and_eq_true_iff.1 passes).1 hc
  · exact unary hr ha (test := fun r => r.ints.isSome && r.flts.isSome) hi fun r passes => takes_both passes hc
  · exact unary hr ha (test := fun r => r.flts.isSome && !r.ints.isSome) hi fun r passes => takes_flt (Bool.and_eq_true_iff.1 passes).1 hc
  · obtain ⟨ok, op, implements, form⟩ := exec_vecBinary hp
    exact (form d a b k s).trans (vec2_class_trap h ((implements.takes _).trans hc))
  · obtain ⟨ok, op, implements, form⟩ := exec_vecBinary hp
    exact (form d a b k s).trans (vec2_tag_trap h ((implements.takes _).trans hc) ((implements.takes _).trans hc') ht)
  · simp only [List.mem_cons, List.not_mem_nil, or_false] at hf
    obtain rfl | rfl | rfl := hf
    · exact FloatArithmetic.floatValues (by decide)
    · exact FloatArithmetic.floatValues (by decide)
    · exact FloatArithmetic.floatValues (by decide)

end Sys2Proof.VectorArithmetic
end

section
/-! The fused forms and the dots (R115, R116): a product and an addend, or a row of products, rounded once. -/
namespace Sys2Proof.FusedForms
open Sys2Proof.Machine Sys2Proof.Safety Sys2Proof.LaneLaws Sys2Proof.FloatValues Sys2Proof.Rounding Sys2Proof.FloatArithmetic
  Sys2Proof.MaskedForms

/-! ### The signs of a fused form -/

/-- A value with the sign that a fused form gives it. -/
def negIf (neg : Bool) (x : FVal) : FVal := if neg then fneg x else x

theorem isFinite_negIf (neg : Bool) (x : FVal) : isFinite (negIf neg x) = isFinite x := by
  cases neg with
  | true => exact isFinite_fneg x
  | false => rfl

theorem isNaN_negIf (neg : Bool) (x : FVal) : isNaN (negIf neg x) = isNaN x := by
  cases neg with
  | true => exact isNaN_fneg x
  | false => rfl

theorem isSNaN_negIf (neg : Bool) (x : FVal) : isSNaN (negIf neg x) = isSNaN x := by
  cases neg with
  | true => exact isSNaN_fneg x
  | false => rfl

theorem valQ_negIf (neg : Bool) (x : FVal) : valQ (negIf neg x) = (if neg then -1 else 1) * valQ x := by
  cases neg with
  | true => exact (valQ_fneg x).trans (neg_one_mul _).symm
  | false => exact (one_mul _).symm

theorem signNeg_negIf (neg : Bool) {x : FVal} (h : isNaN x = false) : signNeg (negIf neg x) = (neg != signNeg x) := by
  cases neg with
  | false => exact (Bool.false_bne _).symm
  | true =>
    cases x with
    | nan s => cases h
    | _ => exact (Bool.true_bne _).symm

theorem negIf_inf (neg n : Bool) : negIf neg (.inf n) = .inf (neg != n) := by
  cases neg <;> cases n <;> rfl

theorem negIf_eq_inf {neg : Bool} {x : FVal} : (∃ n, negIf neg x = .inf n) ↔ ∃ n, x = .inf n := by
  cases neg with
  | false => rfl
  | true => cases x <;> simp [negIf, fneg]

/-- A sign changes nothing of infinity times zero. -/
theorem infTimesZero_negIf {neg : Bool} {x y : FVal} : InfTimesZero (negIf neg x) y ↔ InfTimesZero x y := by
  have zero : valQ (negIf neg x) = 0 ↔ valQ x = 0 := by
    rw [valQ_negIf, mul_eq_zero, or_iff_right (by split <;> norm_num)]
  rw [InfTimesZero, InfTimesZero, negIf_eq_inf, isFinite_negIf, zero]

/-! ### One lane of a fused form -/

section
variable {t : Tag} {rm : RMode} {sg : FmaSigns}

theorem laneFma_int {n : Nat} {signed : Bool} (ht : tagClass t = .int n signed) (x y z : Nat) :
    laneFma t rm sg x y z = (ofInt n ((if sg.negProduct then -1 else 1) * (laneInt n signed x * laneInt n signed y) +
      (if sg.negAddend then -1 else 1) * laneInt n signed z), noFlags) := by
  have sign (neg : Bool) (a : Int) : (if neg then -a else a) = (if neg then -1 else 1) * a := by cases neg <;> simp
  rw [laneFma, ht]
  dsimp only
  rw [sign _ (_ * _), sign _ (laneInt n signed z)]

theorem laneFma_flt {ff : FFmt} (ht : tagClass t = .flt ff) (i j l : Nat) : laneFma t rm sg i j l =
    deliver ff rm (ffma rm (negIf sg.negProduct (fdecode ff i)) (fdecode ff j) (negIf sg.negAddend (fdecode ff l))) := by
  rw [laneFma, ht]
  rfl

/-- A fused sum of finite values is their exact sum. -/
theorem ffma_finite {x y z : FVal} (hx : isFinite x = true) (hy : isFinite y = true) (hz : isFinite z = true) :
    ∃ v, isFinite v = true ∧ valQ v = valQ x * valQ y + valQ z ∧ ffma rm x y z = (v, noFlags) := by
  obtain ⟨p, product, hp, value, -⟩ := fmul_finite hx hy
  obtain ⟨v, sum, finite, total, -⟩ := fadd_finite rm hp hz
  rw [value] at total
  exact ⟨v, finite, total,
    (ffma_eq_fadd rm (finite_not_nan hx) (finite_not_nan hy) product (finite_not_nan hp)).trans sum⟩

end

/-! ### Exact sums -/

/-- The finite part of an exact sum. -/
def sumQ (s : ExactSum) : ℚ := s.z * 2 ^ s.e

theorem sumTerm_nan (s : ExactSum) (t : FRes) : (sumTerm s t).nan = (s.nan || isNaN t.1) := by
  obtain ⟨v, fl⟩ := t
  cases v with
  | nan q => simp [sumTerm, isNaN]
  | inf n => cases n <;> simp [sumTerm, isNaN]
  | fin n m e => by_cases h : m = 0 <;> simp [sumTerm, isNaN, h]

theorem sumTerm_invalid (s : ExactSum) (t : FRes) : (sumTerm s t).invalid = (s.invalid || t.2.nv) := by
  obtain ⟨v, fl⟩ := t
  cases v with
  | nan q => rfl
  | inf n => cases n <;> rfl
  | fin n m e => by_cases h : m = 0 <;> simp [sumTerm, h]

theorem sumTerm_posInf (s : ExactSum) (t : FRes) : (sumTerm s t).posInf = (s.posInf || decide (t.1 = .inf false)) := by
  obtain ⟨v, fl⟩ := t
  cases v with
  | nan q => simp [sumTerm]
  | inf n => cases n <;> simp [sumTerm]
  | fin n m e => by_cases h : m = 0 <;> simp [sumTerm, h]

theorem sumTerm_negInf (s : ExactSum) (t : FRes) : (sumTerm s t).negInf = (s.negInf || decide (t.1 = .inf true)) := by
  obtain ⟨v, fl⟩ := t
  cases v with
  | nan q => simp [sumTerm]
  | inf n => cases n <;> simp [sumTerm]
  | fin n m e => by_cases h : m = 0 <;> simp [sumTerm, h]

/-- A number in units of a smaller power of two. -/
theorem scaled_units (z : Int) {e u : Int} (h : u ≤ e) :
    ((z * ((2 ^ (e - u).toNat : Nat) : Int) : Int) : ℚ) * 2 ^ u = (z : ℚ) * 2 ^ e := by
  have split : (2 : ℚ) ^ e = 2 ^ (e - u).toNat * 2 ^ u := by
    rw [← zpow_natCast, Int.toNat_of_nonneg (by omega), ← zpow_add₀ (by norm_num), Int.sub_add_cancel]
  rw [split]
  push_cast
  ring

theorem sumTerm_sumQ (s : ExactSum) (t : FRes) : sumQ (sumTerm s t) = sumQ s + valQ t.1 := by
  obtain ⟨v, fl⟩ := t
  cases v with
  | nan q => exact (add_zero _).symm
  | inf n => cases n <;> exact (add_zero _).symm
  | fin n m e =>
    by_cases zero : m = 0
    · simp [sumTerm, sumQ, valQ, zero]
    · simp only [sumTerm, if_neg zero, sumQ]
      split
      · next empty => rw [empty, zero_mul, zero_add, Int.cast_zero, zero_mul, zero_add, valQ_units le_rfl]
      · split
        · next below => rw [valQ_units below.le, Int.cast_add, add_mul, scaled_units _ le_rfl]
        · next above => rw [valQ_units le_rfl, Int.cast_add, add_mul, scaled_units _ (by omega)]

/-- A mark that a term sets, and that stays, is set by a list where one of its terms sets it. -/
theorem foldl_mark {mark : ExactSum → Bool} {sets : FRes → Bool} (h : ∀ s t, mark (sumTerm s t) = (mark s || sets t)) (s : ExactSum)
    (l : List FRes) : mark (l.foldl sumTerm s) = (mark s || l.any sets) := by
  induction l generalizing s with
  | nil => exact (Bool.or_false _).symm
  | cons t l ih => rw [List.foldl_cons, ih, h, List.any_cons, Bool.or_assoc]

theorem foldl_sumQ (s : ExactSum) (l : List FRes) : sumQ (l.foldl sumTerm s) = sumQ s + (l.map fun t => valQ t.1).sum := by
  induction l generalizing s with
  | nil => exact (add_zero _).symm
  | cons t l ih => rw [List.foldl_cons, ih, sumTerm_sumQ, List.map_cons, List.sum_cons, add_assoc]

/-- The exact sum of a list of terms. -/
def sumOf (l : List FRes) : ExactSum := l.foldl sumTerm {}

section
variable {l : List FRes} (rm : RMode)

theorem sumOf_finite (finite : ∀ t ∈ l, isFinite t.1 = true) (quiet : ∀ t ∈ l, t.2 = noFlags) :
    ∃ v, isFinite v = true ∧ valQ v = (l.map fun t => valQ t.1).sum ∧ sumValue rm (sumOf l) = (v, noFlags) := by
  have unset {mark : ExactSum → Bool} {sets : FRes → Bool} (h : ∀ s t, mark (sumTerm s t) = (mark s || sets t))
      (start : mark {} = false) (none : ∀ t ∈ l, sets t = false) : mark (sumOf l) = false := by
    rw [sumOf, foldl_mark h, start, Bool.false_or, List.any_eq_false]
    exact fun t ht => Bool.eq_false_iff.1 (none t ht)
  have infinite (n : Bool) (t : FRes) (ht : t ∈ l) : decide (t.1 = .inf n) = false := by
    refine decide_eq_false fun same => ?_
    have := finite t ht
    rw [same] at this
    cases this
  have nan := unset sumTerm_nan rfl fun t ht => finite_not_nan (finite t ht)
  have valid := unset sumTerm_invalid rfl fun t ht => by rw [quiet t ht]; rfl
  have pos := unset sumTerm_posInf rfl (infinite false)
  have neg := unset sumTerm_negInf rfl (infinite true)
  have value : sumQ (sumOf l) = (l.map fun t => valQ t.1).sum := by
    rw [sumOf, foldl_sumQ, sumQ, Int.cast_zero, zero_mul, zero_add]
  rw [sumValue, nan, valid, pos, neg]
  by_cases zero : (sumOf l).z = 0
  · refine ⟨_, rfl, ?_, by rw [if_neg (by decide), if_neg (by decide), if_neg (by decide), if_pos zero]; rfl⟩
    rw [← value, sumQ, zero, valQ]
    simp
  · refine ⟨_, rfl, (valQ_int _ _).trans value, by rw [if_neg (by decide), if_neg (by decide), if_neg (by decide), if_neg zero]; rfl⟩

/-- An invalid term makes the sum a NaN, with its event. -/
theorem sumOf_invalid (h : invalid ∈ l) : sumValue rm (sumOf l) = invalid := by
  have nan : (sumOf l).nan = true := by
    rw [sumOf, foldl_mark sumTerm_nan, List.any_eq_true.2 ⟨_, h, rfl⟩, Bool.or_true]
  have event : (sumOf l).invalid = true := by
    rw [sumOf, foldl_mark sumTerm_invalid, List.any_eq_true.2 ⟨_, h, rfl⟩, Bool.or_true]
  rw [sumValue, nan, event]
  rfl

/-- Infinities of both signs have no sum. -/
theorem sumOf_infinities (pos : ∃ t ∈ l, t.1 = .inf false) (neg : ∃ t ∈ l, t.1 = .inf true) : sumValue rm (sumOf l) = invalid := by
  have both : (sumOf l).posInf = true ∧ (sumOf l).negInf = true := by
    obtain ⟨p, hp, isPos⟩ := pos
    obtain ⟨n, hn, isNeg⟩ := neg
    constructor
    · rw [sumOf, foldl_mark sumTerm_posInf, List.any_eq_true.2 ⟨p, hp, decide_eq_true isPos⟩, Bool.or_true]
    · rw [sumOf, foldl_mark sumTerm_negInf, List.any_eq_true.2 ⟨n, hn, decide_eq_true isNeg⟩, Bool.or_true]
  rw [sumValue, both.1, both.2]
  simp [invalid, flagNV]

end

/-! ### One lane of a dot -/

section
variable {t : Tag} {rm : RMode} {g a b z i : Nat}

theorem laneDot_int {n : Nat} {signed : Bool} (ht : tagClass t = .int n signed) : laneDot t rm g a b z i =
    (ofInt 32 (laneInt 32 signed z + ((List.range g).map fun j =>
      laneInt n signed (lane (tagLane t) a (g * i + j)) * laneInt n signed (lane (tagLane t) b (g * i + j))).sum), noFlags) := by
  have sum (f : Nat → Int) (l : List Nat) (c : Int) : l.foldl (fun acc j => acc + f j) c = c + (l.map f).sum := by
    induction l generalizing c with
    | nil => exact (add_zero _).symm
    | cons j l ih => rw [List.foldl_cons, ih, List.map_cons, List.sum_cons, add_assoc]
  rw [laneDot, ht]
  dsimp only
  rw [sum]

/-- The products of a dot on floats. -/
def dotProduct (t : Tag) (g a b i j : Nat) : FRes :=
  fmul (laneFloat t (lane (tagLane t) a (g * i + j))) (laneFloat t (lane (tagLane t) b (g * i + j)))

/-- The terms of a dot on floats: the addend, then the products. -/
def dotTerms (t : Tag) (g a b z i : Nat) : List FRes :=
  (fdecode .fp32 z, nvIfSNaN [fdecode .fp32 z]) :: (List.range g).map (dotProduct t g a b i)

theorem laneDot_flt (ht : isIntClass (tagClass t) = false) :
    laneDot t rm g a b z i = deliver .fp32 rm (sumValue rm (sumOf (dotTerms t g a b z i))) := by
  rw [sumOf, dotTerms, List.foldl_cons, List.foldl_map, laneDot]
  cases hc : tagClass t with
  | int n signed =>
    rw [hc] at ht
    cases ht
  | _ => rfl

end

/-! ### The forms -/

section
variable {d a b c : Reg} {k : MReg} {s : State}

/-- The state after three vector sources. -/
abbrev afterVVV (s : State) (a b c : Reg) : State := afterV (afterVV s a b) c

theorem me_afterVVV (s : State) (a b c : Reg) : me (afterVVV s a b c) = me s := (me_afterV _ _).trans (me_afterVV s a b)

theorem exec_vecFused {p : (Reg → Reg → Reg → MReg → Reg → Instr) × Bool × Bool} (hp : p ∈ vecFused) :
    exec (p.1 d a b k c) s = run4 (vecFma d a b k c ⟨p.2.1, p.2.2⟩) s := by
  simp only [vecFused, List.mem_cons, List.not_mem_nil, or_false] at hp
  obtain rfl | rfl | rfl | rfl := hp <;> rfl

theorem exec_vdot4 : exec (.vdot4 d a b k c) s = run4 (vecDot d a b k c 4 dot4Tag) s := rfl
theorem exec_vdot2 : exec (.vdot2 d a b k c) s = run4 (vecDot d a b k c 2 dot2Tag) s := rfl

section
variable (hp : PortsReady s [] [a, b, c] [] [d]) (ha : TagsAgree s a) (hb : TagsAgree (afterV s a) b) (hc : TagsAgree (afterVV s a b) c)
include hp ha hb hc

theorem vecFma_run (sg : FmaSigns) (ok : isIntOrFloat (tagClass (valueV s a).tag) = true)
    (hbt : (valueV (afterV s a) b).tag = (valueV s a).tag) (hct : (valueV (afterVV s a b) c).tag = (valueV s a).tag) :
    let va := valueV s a
    let w := tagLane va.tag
    run4 (vecFma d a b k c sg) s = .next (retired 4 s (wrote s (afterVVV s a b c) d k va.tag fun i =>
      laneFma va.tag (rmodeDyn (fpctlRm (me s)) 7) sg (lane w va.bits.toNat i) (lane w (valueV (afterV s a) b).bits.toNat i)
        (lane w (valueV (afterVV s a b) c).bits.toNat i))) := by
  obtain ⟨readA, rest⟩ := hp.sources.takeV ha
  obtain ⟨readB, rest⟩ := rest.takeV hb
  have okB : isIntOrFloat (tagClass (valueV (afterV s a) b).tag) = true := by rw [hbt, ok]
  have okC : isIntOrFloat (tagClass (valueV (afterVV s a b) c).tag) = true := by rw [hct, ok]
  exact run4_ok (withPorts_ok hp ((m_bind_ok readA).trans ((m_bind_ok (requireClass_ok ok)).trans
    ((m_bind_ok readB).trans ((m_bind_ok (requireClass_ok okB)).trans ((m_bind_ok (requireTag_ok hbt)).trans
    ((m_bind_ok (rest.takeV hc).1).trans ((m_bind_ok (requireClass_ok okC)).trans ((m_bind_ok (requireTag_ok hct)).trans
    (readMasked_run (me_afterVVV s a b c) ((room_afterVV hp.room a b).afterV c)
      (f := fun rm i => laneFma _ rm sg (lane _ (valueV s a).bits.toNat i) (lane _ (valueV (afterV s a) b).bits.toNat i)
        (lane _ (valueV (afterVV s a b) c).bits.toNat i))))))))))))

theorem vecDot_run (g : Nat) (rtag : Tag → Option Tag) {t : Tag} (ht : rtag (valueV s a).tag = some t)
    (shape : tagLane t = 32 ∧ tagLanes t = 16) (hbt : (valueV (afterV s a) b).tag = (valueV s a).tag)
    (hct : (valueV (afterVV s a b) c).tag = t) :
    run4 (vecDot d a b k c g rtag) s = .next (retired 4 s (wrote s (afterVVV s a b c) d k t fun i =>
      laneDot (valueV s a).tag (rmodeDyn (fpctlRm (me s)) 7) g (valueV s a).bits.toNat (valueV (afterV s a) b).bits.toNat
        (lane 32 (valueV (afterVV s a b) c).bits.toNat i) i)) := by
  obtain ⟨readA, rest⟩ := hp.sources.takeV ha
  obtain ⟨readB, rest⟩ := rest.takeV hb
  obtain ⟨lane32, lanes16⟩ := shape
  have okB : (rtag (valueV (afterV s a) b).tag).isSome = true := by rw [hbt, ht]; rfl
  have work := readMasked_run (k := k) (t := t) (me_afterVVV s a b c) ((room_afterVV hp.room a b).afterV c)
    (f := fun rm i => laneDot (valueV s a).tag rm g (valueV s a).bits.toNat (valueV (afterV s a) b).bits.toNat
      (lane 32 (valueV (afterVV s a b) c).bits.toNat i) i)
  rw [lane32, lanes16] at work
  refine run4_ok (withPorts_ok hp ((m_bind_ok readA).trans ?_))
  rw [ht]
  exact (m_bind_ok readB).trans ((m_bind_ok (requireClass_ok okB)).trans ((m_bind_ok (requireTag_ok hbt)).trans
    ((m_bind_ok (rest.takeV hc).1).trans ((m_bind_ok (requireTag_ok hct)).trans work))))

end

end

/-- A dot gives 16 elements of 32 bits. -/
theorem dotTag_shape {t r : Tag} (h : dot4Tag t = some r ∨ dot2Tag t = some r) : tagLane r = 32 ∧ tagLanes r = 16 := by
  revert t r; decide

/-! ### What the lanes deliver -/

/-- A fused form on float tags. -/
theorem laneFma_flt_rules {t : Tag} {ff : FFmt} (ht : tagClass t = .flt ff) (rm : RMode) (sg : FmaSigns) (i j l : Nat) :
    let x := fdecode ff i
    let y := fdecode ff j
    let z := fdecode ff l
    let r := laneFma t rm sg i j l
    (isFinite x = true → isFinite y = true → isFinite z = true → ∃ v, isFinite v = true ∧
      valQ v = (if sg.negProduct then -1 else 1) * (valQ x * valQ y) + (if sg.negAddend then -1 else 1) * valQ z ∧
        r = deliver ff rm (v, noFlags)) ∧
    (InfTimesZero x y → r = (ffNaN ff, flagNV)) ∧
    (¬ InfTimesZero x y → isNaN x = true ∨ isNaN y = true ∨ isNaN z = true →
      r = (ffNaN ff, { nv := isSNaN x || isSNaN y || isSNaN z })) ∧
    (¬ InfTimesZero x y → isNaN x = false → isNaN y = false → isFinite x = false ∨ isFinite y = false →
      ∀ n, z = .inf n → ((sg.negProduct != (signNeg x != signNeg y)) != (sg.negAddend != n)) = true → r = (ffNaN ff, flagNV)) := by
  intro x y z r
  have lane : r = deliver ff rm (ffma rm (negIf sg.negProduct x) y (negIf sg.negAddend z)) := laneFma_flt ht i j l
  obtain ⟨invalid, nan, infinite, -⟩ := fusedRule_ffma (Reductions.levels_flt ht).2.2 rm (negIf sg.negProduct x) y (negIf sg.negAddend z)
  rw [← lane, infTimesZero_negIf] at invalid nan infinite
  rw [isNaN_negIf, isNaN_negIf, isSNaN_negIf, isSNaN_negIf] at nan
  rw [isNaN_negIf, isFinite_negIf] at infinite
  refine ⟨fun hx hy hz => ?_, invalid, nan, fun valid hx hy inf n hz opposite => ?_⟩
  · obtain ⟨v, finite, value, sum⟩ := ffma_finite (rm := rm) ((isFinite_negIf sg.negProduct x).trans hx) hy
      ((isFinite_negIf sg.negAddend z).trans hz)
    refine ⟨v, finite, ?_, lane.trans (congrArg _ sum)⟩
    rw [value, valQ_negIf, valQ_negIf, mul_assoc]
  · rw [(infinite valid hx hy inf).2 _ (by rw [hz, negIf_inf]), signNeg_negIf _ hx, if_neg]
    · rfl
    · rw [bne_iff_ne, ← Bool.bne_assoc] at opposite
      exact opposite

/-- A dot on float tags. -/
theorem laneDot_flt_rules {t : Tag} (ht : isIntClass (tagClass t) = false) (rm : RMode) (g a b z i : Nat) :
    let fx (j : Nat) : FVal := laneFloat t (lane (tagLane t) a (g * i + j))
    let fy (j : Nat) : FVal := laneFloat t (lane (tagLane t) b (g * i + j))
    let fz := fdecode .fp32 z
    let r := laneDot t rm g a b z i
    (isFinite fz = true → (∀ j, j < g → isFinite (fx j) = true ∧ isFinite (fy j) = true) → ∃ v, isFinite v = true ∧
      valQ v = valQ fz + ((List.range g).map fun j => valQ (fx j) * valQ (fy j)).sum ∧ r = deliver .fp32 rm (v, noFlags)) ∧
    ((∃ j, j < g ∧ InfTimesZero (fx j) (fy j)) → r = (ffNaN .fp32, flagNV)) ∧
    ((let l := fz :: (List.range g).map fun j => (fmul (fx j) (fy j)).1
      .inf false ∈ l ∧ .inf true ∈ l) → r = (ffNaN .fp32, flagNV)) := by
  intro fx fy fz r
  have lane : r = deliver .fp32 rm (sumValue rm (sumOf (dotTerms t g a b z i))) := laneDot_flt ht
  have nanResult (h : sumValue rm (sumOf (dotTerms t g a b z i)) = invalid) : r = (ffNaN .fp32, flagNV) := by
    rw [lane, h]
    exact deliver_invalid (by decide) rm
  have product {j : Nat} (hj : j < g) : fmul (fx j) (fy j) ∈ dotTerms t g a b z i :=
    List.mem_cons_of_mem _ (List.mem_map.2 ⟨j, List.mem_range.2 hj, rfl⟩)
  refine ⟨fun hz numbers => ?_, fun ⟨j, hj, h⟩ => nanResult (sumOf_invalid rm ?_), fun ⟨pos, neg⟩ => nanResult ?_⟩
  · have terms (q : FRes) (hq : q ∈ dotTerms t g a b z i) : isFinite q.1 = true ∧ q.2 = noFlags := by
      obtain rfl | hq := List.mem_cons.1 hq
      · exact ⟨hz, congrArg (fun nv => ({ nv := nv } : FpFlags)) ((Bool.or_false _).trans (not_snan (finite_not_nan hz)))⟩
      · obtain ⟨j, hj, rfl⟩ := List.mem_map.1 hq
        obtain ⟨hx, hy⟩ := numbers j (List.mem_range.1 hj)
        obtain ⟨v, same, finite, -⟩ := fmul_finite hx hy
        rw [show dotProduct t g a b i j = (v, noFlags) from same]
        exact ⟨finite, rfl⟩
    obtain ⟨v, finite, value, sum⟩ := sumOf_finite rm (fun q hq => (terms q hq).1) fun q hq => (terms q hq).2
    refine ⟨v, finite, value.trans ?_, lane.trans (congrArg _ sum)⟩
    rw [dotTerms, List.map_cons, List.sum_cons, List.map_map]
    refine congrArg (valQ fz + List.sum ·) (List.map_congr_left fun j hj => ?_)
    obtain ⟨hx, hy⟩ := numbers j (List.mem_range.1 hj)
    obtain ⟨v, same, -, value, -⟩ := fmul_finite hx hy
    exact (congrArg (fun q : FRes => valQ q.1) same).trans value
  · rw [← fmul_infTimesZero h]
    exact product hj
  · have term {v : FVal} (hv : v ∈ fz :: (List.range g).map fun j => (fmul (fx j) (fy j)).1) : ∃ q ∈ dotTerms t g a b z i, q.1 = v := by
      obtain rfl | hv := List.mem_cons.1 hv
      · exact ⟨_, List.mem_cons_self, rfl⟩
      · obtain ⟨j, hj, rfl⟩ := List.mem_map.1 hv
        exact ⟨_, product (List.mem_range.1 hj), rfl⟩
    exact sumOf_infinities rm (term pos) (term neg)

/-- Settles O19: one run for the fused forms and one for the dots, and what their lanes deliver. -/
theorem vectorFusedForms : Obligations.VectorFusedForms := by
  intro d a b k c s hp ha hb hc va vb vc rm w out
  have fused {p : (Reg → Reg → Reg → MReg → Reg → Instr) × Bool × Bool} (mem : p ∈ vecFused) (ok : isIntOrFloat (tagClass va.tag) = true)
      (hbt : vb.tag = va.tag) (hct : vc.tag = va.tag) := (exec_vecFused mem).trans (vecFma_run (k := k) hp ha hb hc ⟨p.2.1, p.2.2⟩ ok hbt hct)
  have dot4 {t : Tag} (ht : dot4Tag va.tag = some t) (hbt : vb.tag = va.tag) (hct : vc.tag = t) :=
    exec_vdot4.trans (vecDot_run (k := k) hp ha hb hc 4 dot4Tag ht (dotTag_shape (.inl ht)) hbt hct)
  have dot2 {t : Tag} (ht : dot2Tag va.tag = some t) (hbt : vb.tag = va.tag) (hct : vc.tag = t) :=
    exec_vdot2.trans (vecDot_run (k := k) hp ha hb hc 2 dot2Tag ht (dotTag_shape (.inr ht)) hbt hct)
  refine ⟨fun p mem ok hbt hct => ⟨_, merged_maskedBits, fused mem ok hbt hct⟩, fun ok hbt hct i hi => ?listed,
    fun t hbt hct => ⟨fun ht => ⟨_, _, dot4 ht hbt hct⟩, fun ht => ⟨_, _, dot2 ht hbt hct⟩⟩,
    fun x y z n sg ht p _ => laneFma_int ht x y z, fun i j l ff ht p _ => laneFma_flt_rules ht rm ⟨p.2.1, p.2.2⟩ i j l,
    fun g i z _ => ⟨fun n sg ht => laneDot_int ht, fun ht => ?floats⟩, fun q mem t ht hbt hct => ?dots⟩
  case listed =>
    obtain ⟨p, mem, rfl⟩ := List.mem_map.1 (show i ∈ vecFused.map fun p => p.1 d a b k c from hi)
    exact ⟨_, _, fused mem ok hbt hct⟩
  case floats =>
    obtain ⟨finite, invalid, infinities⟩ := laneDot_flt_rules ht rm g va.bits.toNat vb.bits.toNat z i
    exact ⟨finite, invalid, fun _ _ => infinities⟩
  case dots =>
    simp only [List.mem_cons, List.not_mem_nil, or_false] at mem
    obtain rfl | rfl := mem
    · exact ⟨_, merged_maskedBits, dot4 ht hbt hct⟩
    · exact ⟨_, merged_maskedBits, dot2 ht hbt hct⟩

end Sys2Proof.FusedForms
end

section
/-! The forms of the dynamic network (R147 to R152): PSTAT's word field by field, PTRY by its direction and FIFO, and the messages that
DSEND and DRECV move. -/
namespace Sys2Proof.NetworkForms
open Sys2Proof.Machine Sys2Proof.Safety Sys2Proof.Frames Sys2Proof.OneOperand Sys2Proof.SystemRegisters Sys2Proof.StreamForms
  Sys2Proof.IntegerForms

/-! ### Fields of packed lanes -/

/-- A sum of fields of w bits, one beside the other from bit b on, is their packed number at bit b. -/
theorem sum_fields (w b n : Nat) (f : Nat → Nat) :
    ((List.range n).map fun d => f d % 2 ^ w * 2 ^ (b + w * d)).sum = 2 ^ b * packLanes w ((List.range n).map f) := by
  induction n generalizing b f with
  | zero => rfl
  | succ n ih =>
    have rest := ih (b + w) (f ∘ Nat.succ)
    have place (d : Nat) : b + w * (d + 1) = b + w + w * d := by rw [Nat.mul_succ]; omega
    simp only [List.range_succ_eq_map, List.map_cons, List.map_map, List.sum_cons, packLanes]
    simp only [Function.comp_def, Nat.succ_eq_add_one, place] at rest ⊢
    rw [rest, pow_add]
    ring

theorem packLanes_lt (w : Nat) (l : List Nat) : packLanes w l < 2 ^ (w * l.length) := by
  induction l with
  | nil => exact Nat.one_pos
  | cons x rest ih =>
    have low : x % 2 ^ w < 2 ^ w := Nat.mod_lt _ (Nat.two_pow_pos w)
    calc packLanes w (x :: rest) < 2 ^ w * (packLanes w rest + 1) := by rw [packLanes, Nat.mul_succ]; omega
      _ ≤ 2 ^ w * 2 ^ (w * rest.length) := Nat.mul_le_mul_left _ ih
      _ = 2 ^ (w * (x :: rest).length) := by rw [← pow_add, List.length_cons, Nat.mul_succ, Nat.add_comm]

theorem testBit_lane {w i : Nat} (x g : Nat) (h : i < w) : (lane w x g).testBit i = x.testBit (w * g + i) := by
  simp [lane, h]

/-- A field that lies within a lane is a field of the lane. -/
theorem bitsOf_lane {w hi : Nat} (x g lo : Nat) (h : hi < w) : bitsOf (lane w x g) hi lo = bitsOf x (w * g + hi) (w * g + lo) := by
  refine Nat.eq_of_testBit_eq fun i => ?_
  have width : w * g + hi + 1 - (w * g + lo) = hi + 1 - lo := by omega
  simp only [bitsOf, width, Nat.testBit_mod_two_pow, Nat.testBit_shiftRight]
  by_cases inside : i < hi + 1 - lo
  · rw [testBit_lane x g (by omega), Nat.add_assoc]
  · simp [inside]

/-- A field as wide as a lane and in its place is the lane. -/
theorem bitsOf_eq_lane {w : Nat} (x i : Nat) (h : 0 < w) : bitsOf x (w * i + (w - 1)) (w * i) = lane w x i := by
  rw [bitsOf, lane, show w * i + (w - 1) + 1 - w * i = w by omega]

theorem bitsOf_above {x hi lo : Nat} (h : x < 2 ^ lo) : bitsOf x hi lo = 0 := by
  rw [bitsOf, Nat.shiftRight_eq_div_pow, Nat.div_eq_of_lt h, Nat.zero_mod]

/-! ### PSTAT (R149) -/

section
variable {l : List Nat} {g : Nat}

/-- A word of four groups of 16 bits has the fields of its groups. -/
theorem fieldOf_group {hi : Nat} (lo : Nat) (hg : g < 4) (h : hi < 16) (fits : l.getD g 0 < 2 ^ 16) :
    fieldOf (BitVec.ofNat 64 (packLanes 16 l)) (16 * g + hi) (16 * g + lo) = bitsOf (l.getD g 0) hi lo := by
  rw [fieldOf, ← bitsOf_lane _ g lo h, LaneLaws.lane_ofNat (by omega), LaneLaws.lane_packLanes, Nat.mod_eq_of_lt fits]

theorem getLsbD_group {i : Nat} (hg : g < 4) (h : i < 16) (fits : l.getD g 0 < 2 ^ 16) :
    (BitVec.ofNat 64 (packLanes 16 l)).getLsbD (16 * g + i) = (l.getD g 0).testBit i := by
  rw [BitVec.getLsbD, ← testBit_lane _ g h, LaneLaws.lane_ofNat (by omega), LaneLaws.lane_packLanes, Nat.mod_eq_of_lt fits]

/-- A group that packs counts of w bits each has each count in its field. -/
theorem fieldOf_count {w n i : Nat} {f : Nat → Nat} (hg : g < 4) (group : l.getD g 0 = packLanes w ((List.range n).map f)) (hw : 0 < w)
    (fits : w * n ≤ 16) (hi : i < n) (small : f i < 2 ^ w) :
    fieldOf (BitVec.ofNat 64 (packLanes 16 l)) (16 * g + (w * i + (w - 1))) (16 * g + w * i) = f i := by
  have inside : w * i + w ≤ 16 := (Nat.mul_succ w i ▸ Nat.mul_le_mul_left w hi).trans fits
  have whole : packLanes w ((List.range n).map f) < 2 ^ 16 :=
    (packLanes_lt w _).trans_le (Nat.pow_le_pow_right (by omega) (by simpa using fits))
  rw [fieldOf_group _ hg (by omega) (group ▸ whole), group, bitsOf_eq_lane _ _ hw, LaneLaws.lane_packLanes]
  simp [hi, Nat.mod_eq_of_lt small]

end

/-- How many words the FIFO of a direction holds. -/
def heldIn (m : AMap Fifo) (d : Nat) : Nat := (amGet m d {}).words.length

/-- How many messages a channel of a core holds. -/
def queuedIn (c : Core) (i : Nat) : Nat := (amGet c.recv i []).length

/-- The segment whose attempts PSTAT reports. -/
def coreSegment (s : State) (core : Nat) : Segment :=
  ((coreRegion s core).map fun r => segmentOf r (stackOf (dieOf core))).getD {}

/-- The four groups of 16 bits of PSTAT's word: RECV, SEND, DQ, and RUN with HELD. -/
def pstatGroups (s : State) (core : Nat) : List Nat :=
  [packLanes 3 ((List.range 5).map (heldIn (getSwitch s core).recv)), packLanes 3 ((List.range 5).map (heldIn (getSwitch s core).send)),
    packLanes 4 ((List.range 4).map (queuedIn (getCore s core))), bit (coreSegment s core).running + 2 * bit (coreSegment s core).lastHeld]

theorem packed_fifos_lt (m : AMap Fifo) : packLanes 3 ((List.range 5).map (heldIn m)) < 2 ^ 15 := packLanes_lt 3 _
theorem packed_channels_lt (c : Core) : packLanes 4 ((List.range 4).map (queuedIn c)) < 2 ^ 16 := packLanes_lt 4 _

theorem flags_lt (a b : Bool) : bit a + 2 * bit b < 2 ^ 2 := by revert a b; decide

theorem testBit_flags (a b : Bool) : (bit a + 2 * bit b).testBit 0 = a ∧ (bit a + 2 * bit b).testBit 1 = b := by revert a b; decide

theorem pstatGroups_lt (s : State) (core g : Nat) : (pstatGroups s core).getD g 0 < 2 ^ 16 := by
  have widen {x n : Nat} (h : x < 2 ^ n) (hn : n ≤ 16) : x < 2 ^ 16 := h.trans_le (Nat.pow_le_pow_right (by omega) hn)
  match g with
  | 0 => exact widen (packed_fifos_lt _) (by decide)
  | 1 => exact widen (packed_fifos_lt _) (by decide)
  | 2 => exact packed_channels_lt _
  | 3 => exact widen (flags_lt _ _) (by decide)
  | _ + 4 => exact Nat.two_pow_pos 16

theorem packLanes_groups (s : State) (core : Nat) : packLanes 16 (pstatGroups s core) =
    packLanes 3 ((List.range 5).map (heldIn (getSwitch s core).recv)) +
      2 ^ 16 * packLanes 3 ((List.range 5).map (heldIn (getSwitch s core).send)) +
      2 ^ 32 * packLanes 4 ((List.range 4).map (queuedIn (getCore s core))) +
      2 ^ 48 * bit (coreSegment s core).running + 2 ^ 49 * bit (coreSegment s core).lastHeld := by
  have group (g : Nat) := Nat.mod_eq_of_lt (pstatGroups_lt s core g)
  have recv := group 0
  have send := group 1
  have channels := group 2
  have flags := group 3
  simp only [pstatGroups, List.getD_cons_zero, List.getD_cons_succ] at recv send channels flags
  simp only [pstatGroups, packLanes, recv, send, channels, flags]
  ring

theorem pstatWord_eq (s : State) (core : Nat) : pstatWord s core = BitVec.ofNat 64 (packLanes 16 (pstatGroups s core)) := by
  have segment : (match coreRegion s core with
      | some r => segmentOf r (stackOf (dieOf core))
      | none => {}) = coreSegment s core := by
    unfold coreSegment
    cases coreRegion s core <;> rfl
  have recv := sum_fields 3 0 5 (heldIn (getSwitch s core).recv)
  have send := sum_fields 3 16 5 (heldIn (getSwitch s core).send)
  have channels := sum_fields 4 32 4 (queuedIn (getCore s core))
  simp only [Nat.zero_add, pow_zero, Nat.one_mul] at recv
  rw [packLanes_groups, ← recv, ← send, ← channels, ← segment]
  rfl

/-- The fields of PSTAT's word as the table of R149 gives them. -/
theorem pstatWord_fields (s : State) (core : Nat) :
    let v := pstatWord s core
    (∀ n, n < 5 → heldIn (getSwitch s core).recv n < 8 → fieldOf v (3 * n + 2) (3 * n) = heldIn (getSwitch s core).recv n) ∧
      (∀ n, n < 5 → heldIn (getSwitch s core).send n < 8 → fieldOf v (3 * n + 18) (3 * n + 16) = heldIn (getSwitch s core).send n) ∧
      (∀ c, c < 4 → queuedIn (getCore s core) c < 16 → fieldOf v (4 * c + 35) (4 * c + 32) = queuedIn (getCore s core) c) ∧
      v.getLsbD 48 = (coreSegment s core).running ∧ v.getLsbD 49 = (coreSegment s core).lastHeld ∧
      fieldOf v 15 15 = 0 ∧ fieldOf v 31 31 = 0 ∧ fieldOf v 63 50 = 0 := by
  intro v
  have word : v = BitVec.ofNat 64 (packLanes 16 (pstatGroups s core)) := pstatWord_eq s core
  have fits := pstatGroups_lt s core
  rw [word]
  refine ⟨fun n hn small => ?recv, fun n hn small => ?send, fun c hc small => ?channels, ?run, ?held, ?zero15, ?zero31, ?zero63⟩
  case recv => simpa using fieldOf_count (l := pstatGroups s core) (g := 0) (by decide) rfl (by decide) (by decide) hn small
  case send =>
    have := fieldOf_count (l := pstatGroups s core) (g := 1) (by decide) rfl (by decide) (by decide) hn small
    rwa [show 16 * 1 + (3 * n + (3 - 1)) = 3 * n + 18 by omega, show 16 * 1 + 3 * n = 3 * n + 16 by omega] at this
  case channels =>
    have := fieldOf_count (l := pstatGroups s core) (g := 2) (by decide) rfl (by decide) (by decide) hc small
    rwa [show 16 * 2 + (4 * c + (4 - 1)) = 4 * c + 35 by omega, show 16 * 2 + 4 * c = 4 * c + 32 by omega] at this
  case run => exact (getLsbD_group (g := 3) (i := 0) (by decide) (by decide) (fits 3)).trans (testBit_flags _ _).1
  case held => exact (getLsbD_group (g := 3) (i := 1) (by decide) (by decide) (fits 3)).trans (testBit_flags _ _).2
  case zero15 =>
    rw [show (15 : Nat) = 16 * 0 + 15 from rfl, fieldOf_group 15 (by decide) (by decide) (fits 0)]
    exact bitsOf_above (packed_fifos_lt _)
  case zero31 =>
    rw [show (31 : Nat) = 16 * 1 + 15 from rfl, fieldOf_group 15 (by decide) (by decide) (fits 1)]
    exact bitsOf_above (packed_fifos_lt _)
  case zero63 =>
    rw [show (63 : Nat) = 16 * 3 + 15 from rfl, show (50 : Nat) = 16 * 3 + 2 from rfl, fieldOf_group 2 (by decide) (by decide) (fits 3)]
    exact bitsOf_above (flags_lt _ _)

theorem exec_pstat {s : State} {d : Reg} (h : PortsReady s [] [] [d] []) : exec (.pstat d) s =
    .next (retired 4 s (giveG s d (if isService s.cur.core then 0 else pstatWord s s.cur.core))) :=
  run4_ok (withPorts_dest h (m_bind_ok (getS_run s)))

/-! ### PTRY (R150) -/

/-- The work of PTRY on the value of its direction operand. -/
def ptryWork (d b : Reg) (x : Word) : M Unit := do
  let s ← getS
  let dir := x.toNat % 8
  if dir = 0 ∨ 5 < dir then writeG b 2
  else if dirHeld (getCore s s.cur.core) s.cur.slot (dir - 1) then waitM (.held (dir - 1))
  else
    let f := amGet (getSwitch s s.cur.core).recv (dir - 1) {}
    match fifoHead s.cycle f with
    | none => writeG b 1
    | some w => do
      modS fun s => modSwitch s s.cur.core fun y => { y with recv := amInsert y.recv (dir - 1) (fifoPop s.cycle f) }
      writeG d (w.data.setWidth 64)
      writeG b 0

section
variable {s t u : State} {d a b : Reg} {x : Word}

/-- The destinations of a well-formed PTRY are no ports. -/
theorem ptry_plain (h : wellFormed (.ptry d a b) = true) : isGPort d = false ∧ isGPort b = false := by
  simp only [wellFormed, Bool.and_eq_true, Bool.not_eq_true'] at h
  exact h.1

/-- Once its source is read, PTRY ends as its work does. -/
theorem exec_ptry (h : PortsReady s [a] [] [] []) (work : ptryWork d b (valueG s a) (afterG s a) = .ok ((), t)) :
    exec (.ptry d a b) s = .next (retired 4 s t) :=
  run4_ok (withPorts_source h work)

theorem ptryWork_noDirection (hb : isGPort b = false) (hx : x.toNat % 8 = 0 ∨ 5 < x.toNat % 8) :
    ptryWork d b x u = .ok ((), giveG u b 2) := by
  rw [ptryWork, m_bind_ok (getS_run u), if_pos hx]
  exact writeG_plain hb

theorem ptryWork_empty (hb : isGPort b = false) (low : 1 ≤ x.toNat % 8) (high : x.toNat % 8 ≤ 5)
    (free : dirHeld (getCore u u.cur.core) u.cur.slot (x.toNat % 8 - 1) = false)
    (empty : fifoHead u.cycle (amGet (getSwitch u u.cur.core).recv (x.toNat % 8 - 1) {}) = none) :
    ptryWork d b x u = .ok ((), giveG u b 1) := by
  rw [ptryWork, m_bind_ok (getS_run u), if_neg (by omega), if_neg (by simp [free]), empty]
  exact writeG_plain hb

theorem ptryWork_word {w : LinkWord} (hd : isGPort d = false) (hb : isGPort b = false) (low : 1 ≤ x.toNat % 8) (high : x.toNat % 8 ≤ 5)
    (free : dirHeld (getCore u u.cur.core) u.cur.slot (x.toNat % 8 - 1) = false)
    (head : fifoHead u.cycle (amGet (getSwitch u u.cur.core).recv (x.toNat % 8 - 1) {}) = some w) :
    ptryWork d b x u = .ok ((), giveG (giveG (dropWord u (x.toNat % 8 - 1)) d (w.data.setWidth 64)) b 0) := by
  rw [ptryWork, m_bind_ok (getS_run u), if_neg (by omega), if_neg (by simp [free]), head]
  exact (m_bind_ok (modS_run _ u)).trans ((m_bind_ok (writeG_plain hd)).trans (writeG_plain hb))

/-! ### DSEND (R151) -/

/-- The work of DSEND on its descriptor and its payload. -/
def dsendWork (x y : Word) : M Unit := do
  let s ← getS
  match dsendTarget (threadRegion s s.cur) x with
  | none => trapM causeAddress x
  | some k =>
    if 8 ≤ (getCore s s.cur.core).inject.length then waitM .injection
    else modS fun s => modCore s s.cur.core fun c =>
      { c with inject := c.inject ++ [{ dst := k, chan := fieldOf x 18 17, src := s.cur.core, data := y }], msgSent := c.msgSent + 1 }

/-- The core whose injection queue has taken a message. -/
def injected (c : Core) (m : UserMsg) : Core := { c with inject := c.inject ++ [m], msgSent := c.msgSent + 1 }

/-- The message that DSEND makes of its descriptor and payload. -/
def messageOf (s : State) (k : Nat) (x y : Word) : UserMsg := { dst := k, chan := fieldOf x 18 17, src := s.cur.core, data := y }

theorem dsendWork_ok {y : Word} {k : Nat} (target : dsendTarget (threadRegion u u.cur) x = some k)
    (room : (getCore u u.cur.core).inject.length < 8) :
    dsendWork x y u = .ok ((), setCore u u.cur.core (injected (getCore u u.cur.core) (messageOf u k x y))) := by
  rw [dsendWork, m_bind_ok (getS_run u), target]
  dsimp only
  rw [if_neg (Nat.not_le.2 room)]
  rfl

theorem dsendWork_trap {y : Word} (target : dsendTarget (threadRegion u u.cur) x = none) :
    dsendWork x y u = .error (.trap causeAddress x id) := by
  rw [dsendWork, m_bind_ok (getS_run u), target]
  rfl

theorem exec_dsend_eq (a b : Reg) (s : State) :
    exec (.dsend a b) s = run4 (withPorts [a, b] [] [] [] (readG a >>= fun x => readG b >>= fun y => dsendWork x y)) s := rfl

theorem exec_dsend_ok (h : PortsReady s [a, b] [] [] [])
    (work : dsendWork (valueG s a) (valueG (afterG s a) b) (afterG (afterG s a) b) = .ok ((), t)) :
    exec (.dsend a b) s = .next (retired 4 s t) := by
  rw [exec_dsend_eq]
  exact run4_ok (withPorts_ok h ((readG_two h.sources).trans work))

theorem exec_dsend_trap (h : PortsReady s [a, b] [] [] [])
    (target : dsendTarget (threadRegion (afterG (afterG s a) b) (afterG (afterG s a) b).cur) (valueG s a) = none) :
    exec (.dsend a b) s = .next (takeTrap (holdDirs (namedDirs [a, b] []) s) s.cur causeAddress (valueG s a)) := by
  rw [exec_dsend_eq]
  exact run4_trap (withPorts_trap h ((readG_two h.sources).trans (dsendWork_trap target)))

/-! ### DRECV (R152) -/

/-- The state with another order of the executing core's DRECV issues. -/
def withOrder (s : State) (l : List Nat) : State := modCore s s.cur.core fun c => { c with drecvOrder := l }

/-- The state in which a DRECV has popped its channel, and its thread has left the order of the issues. -/
def messageTaken (order : List Nat) (chan : Nat) (rest : List Word) (s : State) : State :=
  modCore (withOrder s (order.filter fun i => i != s.cur.slot)) s.cur.core fun c =>
    { c with recv := amInsert c.recv chan rest, msgRecv := c.msgRecv + 1 }

/-- The work of DRECV on the value of its channel operand. -/
def drecvWork (d : Reg) (x : Word) : M Unit := do
  let chan := x.toNat % 4
  let s ← getS
  let order := drecvQueue s s.cur chan
  match amGet (getCore s s.cur.core).recv chan [], drecvBehind s s.cur chan order with
  | m :: rest, false => do
    modS (messageTaken order chan rest)
    writeG d m
  | _, _ => waitKeepM (.drecv chan) fun s => withOrder s order

theorem drecvWork_ok {m : Word} {rest : List Word} (room : RoomReady u [d] [])
    (queue : amGet (getCore u u.cur.core).recv (x.toNat % 4) [] = m :: rest)
    (first : drecvBehind u u.cur (x.toNat % 4) (drecvQueue u u.cur (x.toNat % 4)) = false) :
    drecvWork d x u = .ok ((), giveG (messageTaken (drecvQueue u u.cur (x.toNat % 4)) (x.toNat % 4) rest u) d m) := by
  have kept : RoomReady (messageTaken (drecvQueue u u.cur (x.toNat % 4)) (x.toNat % 4) rest u) [d] [] := room
  rw [drecvWork, m_bind_ok (getS_run u), queue, first]
  exact (m_bind_ok (modS_run _ u)).trans (kept.giveG m)

theorem exec_drecv (h : PortsReady s [a] [] [d] []) (work : drecvWork d (valueG s a) (afterG s a) = .ok ((), t)) :
    exec (.drecv d a) s = .next (retired 4 s t) :=
  run4_ok (withPorts_ok h ((m_bind_ok h.sources.takeG.1).trans work))

end

/-! ### What the forms leave as it is -/

theorem undisturbed_setCore {s : State} {k : Nat} {c : Core} (slots : c.slots = (getCore s k).slots)
    (scratch : c.scratch = (getCore s k).scratch) : Undisturbed s (setCore s k c) :=
  ⟨sameRest_setCore scratch, fun u => by rw [getThread_setCore s k c slots u]; exact ⟨rfl, rfl, rfl, rfl⟩⟩

theorem undisturbed_afterG (s : State) (r : Reg) : Undisturbed s (afterG s r) :=
  ⟨afterG_sameRest s r, fun u => by rw [getThread_afterG]; exact ⟨rfl, rfl, rfl, rfl⟩⟩

theorem undisturbed_messageTaken (order : List Nat) (chan : Nat) (rest : List Word) (s : State) :
    Undisturbed s (messageTaken order chan rest s) := by
  have ordered : Undisturbed s (withOrder s (order.filter fun i => i != s.cur.slot)) := undisturbed_setCore rfl rfl
  exact ordered.trans (undisturbed_setCore rfl rfl)

section
variable {s u : State}

/-- An instruction that has changed no context when it retires. -/
theorem undisturbed_retires (h : Undisturbed s u) : RegsExcept (me s) (getThread (retired 4 s u) s.cur) [] [] [] ∧
    SameMemory s (retired 4 s u) ∧ Retired s (retired 4 s u) :=
  ⟨regsExcept_retiredAt (h.regsExcept s.cur [] [] []), (h.rest.trans (retiredAt_sameRest s u _)).memory,
    retired_retiredAt (h.regs s.cur).instret⟩

/-- The same of one that then gives its destination a value. -/
theorem undisturbed_retires_giveG (h : Undisturbed s u) (d : Reg) (m : Word) :
    (isGPort d = false → d ≠ 0 → gValue (getThread (retired 4 s (giveG u d m)) s.cur) d = m) ∧
      RegsExcept (me s) (getThread (retired 4 s (giveG u d m)) s.cur) [d] [] [] ∧ SameMemory s (retired 4 s (giveG u d m)) ∧
      Retired s (retired 4 s (giveG u d m)) := by
  have cur : u.cur = s.cur := h.rest.cur
  have kept := giveG_regsExcept u d m
  have instret := giveG_context u d m (0x041, (·.instret)) (by simp [contextRegs])
  simp only [me, cur] at kept instret
  refine ⟨fun port zero => ?_, regsExcept_retiredAt (RegisterForms.regsExcept_trans (h.regsExcept s.cur [d] [] []) kept),
    ((h.rest.trans (giveG_sameRest u d m)).trans (retiredAt_sameRest s _ _)).memory,
    retired_retiredAt (instret.trans (h.regs s.cur).instret)⟩
  rw [retired, getThread_retiredAt, giveG, if_neg (by simp [port]), ← cur]
  exact (congrArg (gValue · d) (getThread_setThread_same u u.cur _)).trans (gValue_gWrite_same zero)

/-- A part of a core that is none of its contexts is as before when a general destination is written. -/
theorem core_giveG {α : Type} (part : Core → α) (h : ∀ c slots, part { c with slots := slots } = part c) (s : State) (d : Reg) (v : Word) :
    part (getCore (giveG s d v) s.cur.core) = part (getCore s s.cur.core) := by
  obtain ⟨k, x, e⟩ | e := giveG_cases s d v
  · rw [e, getCore_setSwitch]
  · rw [e, getCore_setThread_same]
    exact h _ _

/-- The executing core after a DRECV. -/
theorem core_messageTaken {α : Type} (part : Core → α) (h : ∀ c slots hold, part { c with slots := slots, portHold := hold } = part c)
    (cur : u.cur = s.cur) (order : List Nat) (chan : Nat) (rest : List Word) (d : Reg) (m : Word) :
    part (getCore (retired 4 s (giveG (messageTaken order chan rest u) d m)) s.cur.core) =
      part { getCore u s.cur.core with
        drecvOrder := order.filter fun i => i != s.cur.slot, recv := amInsert (getCore u s.cur.core).recv chan rest
        msgRecv := (getCore u s.cur.core).msgRecv + 1 } := by
  have given := core_giveG part (fun c slots => h c slots c.portHold) (messageTaken order chan rest u) d m
  have taken : (messageTaken order chan rest u).cur = s.cur := cur
  rw [retired, core_retiredAt part h, ← taken, given]
  simp [messageTaken, withOrder, cur]

/-- Who waits for a channel is no matter of ports. -/
theorem drecvBehind_afterG (s : State) (r : Reg) (t : ThreadRef) (chan : Nat) :
    drecvBehind (afterG s r) t chan (drecvQueue (afterG s r) t chan) = drecvBehind s t chan (drecvQueue s t chan) := by
  obtain ⟨x, h⟩ := switchesOnly_afterG s r
  rw [h]
  rfl

end

/-- Settles O38: PSTAT by its word's fields, PTRY by its direction and the FIFO's head, DSEND by its target, DRECV by the channel's head. -/
theorem networkForms : Obligations.NetworkForms := by
  intro s
  refine ⟨fun d hp => ?pstat, fun d a b hp wf => ⟨fun none => ?noDirection, fun low high free => ⟨fun empty => ?empty, fun w head => ?word⟩⟩,
    fun a b hp => ⟨fun k target room => ?sends, exec_dsend_trap hp⟩, fun d a hp m rest queue first => ?receives⟩
  case pstat =>
    refine ⟨_, exec_pstat hp, fun service => if_pos service, fun app => ?_⟩
    rw [app]
    obtain ⟨recv, send, channels, rest⟩ := pstatWord_fields s s.cur.core
    exact ⟨recv, send, fun c l hc hl small => hl ▸ channels c hc (by rw [queuedIn, hl]; exact small), rest⟩
  case noDirection => exact exec_ptry hp (ptryWork_noDirection (ptry_plain wf).2 none)
  case empty => exact exec_ptry hp (ptryWork_empty (ptry_plain wf).2 low high (by simpa using free) (by simpa using empty))
  case word =>
    obtain ⟨plainD, plainB⟩ := ptry_plain wf
    exact exec_ptry hp (ptryWork_word plainD plainB low high (by simpa using free) (by simpa using head))
  case sends =>
    have sources := (undisturbed_afterG s a).trans (undisturbed_afterG (afterG s a) b)
    have work := dsendWork_ok (y := valueG (afterG s a) b) target (by simpa using room)
    simp only [afterG_cur, getCore_afterG] at work
    refine ⟨_, exec_dsend_ok hp work, ?_, ?_, undisturbed_retires (sources.trans (undisturbed_setCore ?_ ?_))⟩
    · rw [retired, core_retiredAt (·.inject) (fun _ _ _ => rfl), getCore_setCore_same]
      simp [injected, messageOf]
    · rw [retired, core_retiredAt (·.msgSent) (fun _ _ _ => rfl), getCore_setCore_same]
      rfl
    · simp [injected]
    · simp [injected]
  case receives =>
    have cur := afterG_cur s a
    have work := drecvWork_ok (hp.room.afterG a) (x := valueG s a) (m := m) (rest := rest) (by simpa using queue)
      (by rw [cur, drecvBehind_afterG]; exact first)
    generalize drecvQueue (afterG s a) (afterG s a).cur ((valueG s a).toNat % 4) = order at work
    have taken := (undisturbed_afterG s a).trans (undisturbed_messageTaken order ((valueG s a).toNat % 4) rest (afterG s a))
    refine ⟨_, exec_drecv hp work, ?_, ?_, undisturbed_retires_giveG taken d m⟩
    · rw [core_messageTaken (·.recv) (fun _ _ _ => rfl) cur]
      exact amGet_amInsert_same _ _ _ _
    · rw [core_messageTaken (·.msgRecv) (fun _ _ _ => rfl) cur, getCore_afterG]

end Sys2Proof.NetworkForms
end

section
/-! Steps of the static network (R140, R141, R224, R336, R343): a segment's attempt by what holds it, a word that crosses by its cycle, and
a stream node's fetch by the word it reads (log entries 5, 38). -/
namespace Sys2Proof.SegmentEvents
open Sys2Proof.Machine Sys2Proof.Safety

/-! ### Attempts (R140, R336) -/

/-- A segment that makes an attempt in this cycle: its run is under way, it has made none in the cycle, and the region still runs. -/
structure Attempts (s : State) (rk st : Nat) (r : Region) : Prop where
  region : getRegion s rk = some r
  running : (segmentOf r st).running = true
  fresh : (segmentOf r st).attemptAt ≠ some s.cycle
  covered : st ∈ regionStacks r
  lasting : ¬ (r.ending = true ∧ r.frames = 0)

/-- The step of a segment holds before its rows are looked at: an element fault, a trap, or a cairn. -/
def heldAhead (s : State) (r : Region) (st : Nat) : Bool :=
  (segmentOf r st).fault.isSome || trapHold s r st || cairnHold s r st (segmentOf r st).c

section
variable {s u : State} {rk st : Nat} {r : Region}

theorem Attempts.notIdle (h : Attempts s rk st r) : (!(segmentOf r st).running || (segmentOf r st).attemptAt == some s.cycle ||
    !(regionStacks r).contains st || (r.ending && decide (r.frames = 0))) = false := by
  obtain ⟨-, running, fresh, covered, lasting⟩ := h
  have runs : (r.ending && decide (r.frames = 0)) = false := by simpa using lasting
  simp [running, fresh, covered, runs]

theorem attemptSegment_unclocked (h : Attempts s rk st r) (off : segmentClocked s r st = false) :
    attemptSegment s rk st = setSegment s rk st fun g => { g with lastHeld := true, attemptAt := some s.cycle } := by
  simp only [attemptSegment, h.region, h.notIdle, off, Bool.not_false, Bool.false_eq_true, if_false, if_true]

/-- An own hold: before the rows are looked at, or because one of them cannot be performed. -/
theorem attemptSegment_holds (h : Attempts s rk st r) (on : segmentClocked s r st = true)
    (held : heldAhead s r st = true ∨ evalStep s r st (segmentOf r st).c = none) :
    attemptSegment s rk st = holdSegment s rk st (segmentOf r st).c r true := by
  simp only [attemptSegment, h.region, h.notIdle, on, Bool.not_true, Bool.false_eq_true, if_false]
  split
  · rfl
  · next ahead => simp only [held.resolve_left ahead]

/-- A step that nothing holds is performed and counted. -/
theorem attemptSegment_performs {l : List (Nat × RowEff)} (h : Attempts s rk st r) (on : segmentClocked s r st = true)
    (ahead : heldAhead s r st = false) (echo : echoHold s r st = false) (step : evalStep s r st (segmentOf r st).c = some l)
    (sound : ∀ x ∈ l, x.2.fault = none) (writes : prepareWrites l s = (u, none)) :
    attemptSegment s rk st = advanceSegment (l.foldl (performRow r) u) rk st r := by
  have noFault : (l.find? fun x => x.2.fault.isSome) = none := List.find?_eq_none.2 fun x hx => by simp [sound x hx]
  unfold heldAhead at ahead
  simp only [attemptSegment, h.region, h.notIdle, on, ahead, step, noFault, echo, writes, Bool.not_true, Bool.false_eq_true, if_false]

end

/-! ### Crossings (R141, R343) -/

section
variable {s : State} {node port : Nat} {c : Crossing}

/-- The oldest word of a link lands once it is due. -/
theorem crossingArrival_lands (oldest : s.crossings.find? (fun c => c.dst == node && c.port == port) = some c)
    (due : c.timed = true → c.at_ ≤ s.cycle) (trained : amGet (getSwitch s node).retrainUntil port 0 ≤ s.cycle) :
    crossingArrival s node port false = landWord { s with crossings := s.crossings.erase c } c := by
  obtain ⟨hdst, hport⟩ : c.dst = node ∧ c.port = port := by simpa using List.find?_some oldest
  have timely : notDue s c = false := by
    simp only [notDue, hdst, hport, Bool.or_eq_false_iff, Bool.and_eq_false_imp, decide_eq_false_iff_not, not_lt]
    exact ⟨due, trained⟩
  simp only [crossingArrival, oldest, timely, Bool.false_eq_true, if_false]

/-- On a link of the region it is the last word of its FIFO then, and can be taken at once. -/
theorem inputOf_landWord (inner : c.port ≠ 5) : (inputOf (landWord s c) c.dst c.port).words =
    (inputOf s c.dst c.port).words ++ [{ word := c.word, at_ := s.cycle }] := by
  simp [landWord, inner, inputOf, fifoPush]

end

/-! ### Stream fetches (R224) -/

/-- The link word that a stream node makes of the bytes it has fetched, under the tag of its descriptor. -/
def fetchedWord (l : List Byte) (tag : Nat) : LinkWord := { data := BitVec.ofNat 256 (ofBytes l), side := BitVec.ofNat 8 (tag % 32) }

/-- The state in which the read generator of a node has put its next word into the fetch queue. -/
def wordFetched (u : State) (k tag : Nat) (q : List (Word × Nat)) (l : List Byte) : State :=
  modGen (modSwitch (padWord u l).1 k fun y => { y with queue := fifoPush (u.cycle + 1) (fetchedWord (padWord u l).2 tag) y.queue }) k false
    fun g => { g with done := g.done + piecesLen q }

/-- A node whose generator can fetch and whose reads succeed puts one word into its queue. -/
theorem streamFetch_word {s u v : State} {k rk : Nat} {d : CopyDesc} {r : Region} {l : List Byte} {e : TlbEntry}
    (desc : (nodeGen s k false).desc = some d) (owner : elementRegion s k = some (rk, r)) (stream : elKind k = .stream)
    (more : genPieces (nodeGen s k false) false ≠ []) (moves : (nodeGen s k false).stalled = none)
    (accepted : (nodeGen s k false).refused = false) (room : fifoRoom 16 s.cycle 1 (getSwitch s k).queue = true)
    (reads : nodeRead k (genPieces (nodeGen s k false) false) s = (u, .ok l))
    (translated : nodeXlate (wordFetched u k d.tag (genPieces (nodeGen s k false) false) l) k false
      ((genPieces (nodeGen s k false) false).headD (0, 0)).1.toNat = (v, .ok e)) :
    streamFetch s k = countNodeHeat v k (tlbPa e ((genPieces (nodeGen s k false) false).headD (0, 0)).1.toNat) 32 := by
  have fetches : ¬ (elKind k ≠ .stream ∨ (genPieces (nodeGen s k false) false).isEmpty ∨ (nodeGen s k false).stalled.isSome ∨
      (nodeGen s k false).refused ∨ !fifoRoom 16 s.cycle 1 (getSwitch s k).queue) := by
    simp [stream, more, moves, accepted, room]
  simp only [streamFetch, desc, owner, if_neg fetches, reads]
  unfold wordFetched fetchedWord at translated
  simp only [translated]

/-- Settles O46: an attempt by what holds it, a crossing word by its link, a fetch by its reads. -/
theorem segmentEvents : Obligations.SegmentEvents := by
  intro z s
  refine ⟨fun rk st r l u region running fresh covered lasting on fault trap cairn echo step sound writes => ?performs,
    fun rk st r region running fresh covered lasting on held => ?holds, fun rk st r region running fresh covered lasting off => ?unclocked,
    fun node port c oldest due trained => ⟨?lands, inputOf_landWord⟩,
    fun k d rk r u l v e desc owner stream more moves accepted room reads translated => ?fetches⟩
  case performs =>
    have ahead : heldAhead s r st = false := by simp [heldAhead, fault, trap, cairn]
    exact congrArg _ (attemptSegment_performs ⟨region, running, fresh, covered, lasting⟩ on ahead echo step sound writes)
  case holds =>
    have own : heldAhead s r st = true ∨ evalStep s r st (segmentOf r st).c = none := by
      simpa only [heldAhead, Bool.or_eq_true, or_assoc] using held
    exact congrArg _ (attemptSegment_holds ⟨region, running, fresh, covered, lasting⟩ on own)
  case unclocked => exact congrArg _ (attemptSegment_unclocked ⟨region, running, fresh, covered, lasting⟩ off)
  case lands => exact congrArg _ (crossingArrival_lands oldest due trained)
  case fetches => exact congrArg _ (streamFetch_word desc owner stream more moves accepted room reads translated)

end Sys2Proof.SegmentEvents
end

section
/-! The pieces of a range that is cut at the boundaries of a step (R159): they lie within the range, hold each of its bytes, and are as
long as it is. -/
namespace Sys2Proof.Pieces
open Sys2Proof.Machine

/-- The fuel suffices for the pieces of a range. -/
def Suffices (step fuel a n : Nat) : Prop := n = 0 ∨ a % step + n ≤ step * fuel

section
variable {step fuel a n : Nat}

theorem lt_nextMultiple (hs : 0 < step) (a : Nat) : a < nextMultiple step a := by
  rw [nextMultiple, Nat.mul_comm]
  exact Nat.lt_mul_div_succ a hs

/-- The fuel of `piecesOf`. -/
theorem suffices_piecesOf (hs : 0 < step) (a n : Nat) : Suffices step (n / step + 2) a n := by
  have low : a % step < step := Nat.mod_lt a hs
  have whole : n < step * (n / step + 1) := Nat.lt_mul_div_succ n hs
  right
  rw [Nat.mul_succ] at whole ⊢
  rw [Nat.mul_succ]
  omega

theorem piecesAux_empty (step fuel a : Nat) : piecesAux step fuel a 0 = [] := by cases fuel <;> rfl

/-- The first piece of a range lies within it, and the others are the pieces of what is left. -/
theorem piecesAux_first (hs : 0 < step) (filled : n ≠ 0) (h : Suffices step (fuel + 1) a n) : ∃ k, 0 < k ∧ k ≤ n ∧
    Suffices step fuel (a + k) (n - k) ∧ piecesAux step (fuel + 1) a n = (a, k) :: piecesAux step fuel (a + k) (n - k) := by
  have low : a % step < step := Nat.mod_lt a hs
  have start := Nat.div_add_mod a step
  have next : nextMultiple step a = step * (a / step) + step := by rw [nextMultiple, Nat.succ_mul, Nat.mul_comm]
  have room : a % step + n ≤ step * fuel + step := h.resolve_left filled
  rw [piecesAux, if_neg filled]
  split
  · have aligned : (a + (nextMultiple step a - a)) % step = 0 := by
      rw [show a + (nextMultiple step a - a) = step * (a / step + 1) by rw [Nat.mul_succ]; omega, Nat.mul_mod_right]
    exact ⟨nextMultiple step a - a, by omega, by omega, .inr (by omega), rfl⟩
  · exact ⟨n, by omega, le_rfl, .inl (Nat.sub_self n), rfl⟩

theorem sum_piecesAux (hs : 0 < step) (h : Suffices step fuel a n) : ((piecesAux step fuel a n).map (·.2)).sum = n := by
  induction fuel generalizing a n with
  | zero =>
    obtain rfl : n = 0 := h.elim id fun room => by omega
    rfl
  | succ fuel ih =>
    by_cases empty : n = 0
    · rw [empty, piecesAux_empty]
      rfl
    · obtain ⟨k, -, le, enough, pieces⟩ := piecesAux_first hs empty h
      rw [pieces, List.map_cons, List.sum_cons, ih enough, Nat.add_sub_cancel' le]

/-- A piece lies within its range, and is not empty. -/
theorem piecesAux_within (hs : 0 < step) {q : Nat × Nat} (hq : q ∈ piecesAux step fuel a n) :
    a ≤ q.1 ∧ 0 < q.2 ∧ q.1 + q.2 ≤ a + n := by
  induction fuel generalizing a n with
  | zero => simp [piecesAux] at hq
  | succ fuel ih =>
    have above := lt_nextMultiple hs a
    unfold piecesAux at hq
    split at hq
    · simp at hq
    · obtain rfl | rest := List.mem_cons.1 hq
      · dsimp only
        split <;> omega
      · have := ih rest
        split at this <;> omega

/-- Every byte of a range lies in one of its pieces. -/
theorem piecesAux_covers (hs : 0 < step) (h : Suffices step fuel a n) {x : Nat} (low : a ≤ x) (high : x < a + n) :
    ∃ q ∈ piecesAux step fuel a n, q.1 ≤ x ∧ x < q.1 + q.2 := by
  induction fuel generalizing a n with
  | zero => exact h.elim (fun empty => by omega) fun room => by omega
  | succ fuel ih =>
    obtain ⟨k, pos, le, enough, pieces⟩ := piecesAux_first hs (by omega) h
    rw [pieces]
    by_cases first : x < a + k
    · exact ⟨(a, k), List.mem_cons_self, low, first⟩
    · obtain ⟨q, hq, inside⟩ := ih enough (by omega) (by omega)
      exact ⟨q, List.mem_cons_of_mem _ hq, inside⟩

theorem piecesOf_covers (hs : 0 < step) {x : Nat} (low : a ≤ x) (high : x < a + n) :
    ∃ q ∈ piecesOf step a n, q.1 ≤ x ∧ x < q.1 + q.2 :=
  piecesAux_covers hs (suffices_piecesOf hs a n) low high

end

/-! ### Pages -/

theorem sum_pagePieces (ea : Word) (n : Nat) : ((pagePieces ea n).map (·.2)).sum = n := by
  unfold pagePieces
  split
  · rfl
  · rw [List.map_map]
    exact sum_piecesAux (by decide) (suffices_piecesOf (by decide) _ n)

/-- The first piece of a range begins where the range does. -/
theorem pagePieces_head (ea : Word) {n : Nat} (h : 0 < n) : ∃ k rest, pagePieces ea n = (ea, k) :: rest := by
  unfold pagePieces
  split
  · exact ⟨n, [], rfl⟩
  · simp [piecesOf, piecesAux, Nat.ne_of_gt h]

end Sys2Proof.Pieces
end

section
/-! Scalar loads and stores (R155, R169, R198): the checks in their order, the bytes or the channel register that they move, and the traps
of a bad address. -/
namespace Sys2Proof.ScalarAccess
open Sys2Proof.Machine Sys2Proof.Safety Sys2Proof.PrivilegeTraps Sys2Proof.VectorStores Sys2Proof.IntegerForms Sys2Proof.Pieces

theorem length_of_loads {s t : State} {ea : Word} {n : Nat} {l : List Byte} (h : Loads s ea n l t) : l.length = n :=
  (loadsAll_length h).trans (sum_pagePieces ea n)

/-! ### Addresses that lead nowhere (R153) -/

section
variable {s t : State} {ea val : Word} {n : Nat}

theorem resolveM_nowhere (notLocal : isLocal ea = false) (notGlobal : isGlobal ea = false) :
    resolveM ea n val s = .error (.trap causeAddress val id) := by
  have bad : resolve s s.cur ea n = .bad := by simp [resolve, notLocal, notGlobal]
  rw [resolveM, m_bind_ok (getS_run s), bad]
  rfl

theorem loadBytes_nowhere {α : Type} {k : List Byte → M α} (notLocal : isLocal ea = false) (notGlobal : isGlobal ea = false) (h : 0 < n) :
    loadBytes ea n val k s = .error (.trap causeAddress val id) := by
  obtain ⟨m, rest, first⟩ := pagePieces_head ea h
  rw [loadBytes, first]
  exact m_bind_error (resolveM_nowhere notLocal notGlobal)

theorem storePiece_nowhere {l : List Byte} {skip : Nat} (notLocal : isLocal ea = false) (notGlobal : isGlobal ea = false) :
    storePiece ea l skip val s = .error (.trap causeAddress val id) :=
  m_bind_error (resolveM_nowhere notLocal notGlobal)

end

/-! ### Values and channel registers -/

theorem extendLoad_eq {l : List Byte} {n : Nat} (h : l.length = n) :
    extendLoad true l = BitVec.ofInt 64 (toSigned (8 * n) (ofBytes l)) ∧ extendLoad false l = BitVec.ofNat 64 (ofBytes l) := by
  rw [← h]
  exact ⟨rfl, rfl⟩

/-- Is the address one of a channel register: local, of kind 3 (R169)? -/
def channelSide (ea : Word) : Bool := isLocal ea && localKind ea == 3

theorem channelSide_true {ea : Word} (h : isLocal ea = true ∧ localKind ea = 3) : channelSide ea = true := by
  simpa [channelSide] using h

theorem channelSide_false {ea : Word} (h : ¬ (isLocal ea = true ∧ localKind ea = 3)) : channelSide ea = false := by
  rw [channelSide, Bool.and_eq_false_imp]
  exact fun inside => by simpa using fun kind => h ⟨inside, kind⟩

/-- An aligned address at which a scalar access of a size raises the Address trap (R155, R169). -/
def BadPlace (ea : Word) (sz : BitVec 2) : Prop :=
  isLocal ea = false ∧ isGlobal ea = false ∨ isLocal ea = true ∧ localKind ea = 3 ∧ sz ≠ 3

section
variable {s t u : State} {d a : Reg} {sz : BitVec 2} {imm : BitVec 14} {ea v : Word} {k off : Nat} {l : List Byte} {signed : Bool}

theorem chanRegister_ok (h : resolve u u.cur ea 8 = .loc (.regs k) off) : chanRegister ea u = .ok ((k, off), u) := by
  rw [chanRegister, m_bind_ok (getS_run u), h]
  rfl

theorem sizeBytes_pos (sz : BitVec 2) : 0 < sizeBytes sz := Nat.two_pow_pos _

theorem roomReady_of_canGive (h : CanGive t d) : RoomReady t [d] [] :=
  PortsReady.room (gs := []) (vs := []) ⟨(portsReady_nil t).1, h⟩

/-! ### Loads -/

theorem loadScalar_plain (h : channelSide ea = false) :
    loadScalar d ea sz signed = loadBytes ea (sizeBytes sz) ea fun l => writeG d (extendLoad signed l) := by
  unfold channelSide at h
  rw [loadScalar, h]
  rfl

theorem loadScalar_bytes (h : channelSide ea = false) (loads : Loads u ea (sizeBytes sz) l t) (room : CanGive t d) :
    loadScalar d ea sz signed u = .ok ((), giveG t d (extendLoad signed l)) := by
  rw [loadScalar_plain h]
  exact loadBytes_ok loads ((roomReady_of_canGive room).giveG _)

theorem loadScalar_channel (h : channelSide ea = true) (register : resolve u u.cur ea 8 = .loc (.regs k) off) (answered : Answered u)
    (room : RoomReady u [d] []) : loadScalar d ea 3 signed u = .ok ((), giveG u d (chanRead u k off)) := by
  unfold channelSide at h
  rw [loadScalar, if_pos h, if_pos rfl, m_bind_ok (chanRegister_ok register), m_bind_ok (variableLatency_ok answered),
    m_bind_ok (getS_run u)]
  exact room.giveG _

theorem loadScalar_trap (h : BadPlace ea sz) : loadScalar d ea sz signed u = .error (.trap causeAddress ea id) := by
  obtain ⟨inside, global⟩ | ⟨inside, kind, size⟩ := h
  · rw [loadScalar_plain (channelSide_false (by simp [inside]))]
    exact loadBytes_nowhere inside global (sizeBytes_pos sz)
  · have side : (isLocal ea && localKind ea == 3) = true := channelSide_true ⟨inside, kind⟩
    rw [loadScalar, if_pos side, if_neg size]
    rfl

/-- The work of LD and LDU, and of LDL, once the source is read. -/
def loadWork (d : Reg) (sz : BitVec 2) (signed : Bool) (ea : Word) : M Unit := do
  requireAligned (sizeBytes sz) ea
  loadScalar d ea sz signed

def ldlWork (d : Reg) (sz : BitVec 2) (ea : Word) : M Unit := do
  requireAligned (sizeBytes sz) ea
  if isLocal ea then loadScalar d ea sz true
  else do
    let _ ← resolveM ea (sizeBytes sz) ea
    withLine ea.toNat false fun e pa => do
      let l ← cohReadM e pa (sizeBytes sz) ea
      writeG d (extendLoad true l)

/-- The form that runs a work on the address of a load. -/
def LoadForm (i : Instr) (d a : Reg) (imm : BitVec 14) (work : Word → M Unit) : Prop :=
  ∀ s, exec i s = run4 (withPorts [a] [] [d] [] (readG a >>= fun x => work (scalarEa x imm))) s

theorem ld_form : LoadForm (.ld d a sz imm) d a imm (loadWork d sz true) := fun _ => rfl
theorem ldu_form : LoadForm (.ldu d a sz imm) d a imm (loadWork d sz false) := fun _ => rfl
theorem ldl_form : LoadForm (.ldl d a sz imm) d a imm (ldlWork d sz) := fun _ => rfl

theorem LoadForm.ok {i : Instr} {work : Word → M Unit} (form : LoadForm i d a imm work) (hp : PortsReady s [a] [] [d] [])
    (h : work (valueG s a + sext64 imm) (afterG s a) = .ok ((), t)) : exec i s = .next (retired 4 s t) := by
  rw [form s]
  exact run4_ok (withPorts_ok hp ((m_bind_ok hp.sources.takeG.1).trans h))

theorem LoadForm.trap {i : Instr} {work : Word → M Unit} {c : Nat} (form : LoadForm i d a imm work) (hp : PortsReady s [a] [] [d] [])
    (h : work (valueG s a + sext64 imm) (afterG s a) = .error (.trap c v id)) :
    exec i s = .next (takeTrap (holdDirs (namedDirs [a, d] []) s) s.cur c v) := by
  rw [form s]
  exact run4_trap (withPorts_trap hp ((m_bind_ok hp.sources.takeG.1).trans h))

theorem ldlWork_local (inside : isLocal ea = true) : ldlWork d sz ea = loadWork d sz true ea := by
  rw [ldlWork, if_pos inside]
  rfl

/-- LDL of a global address: the line is read after the thread's own writes to it (R185, R198). -/
theorem ldlWork_global {w : State} {e : TlbEntry} (aligned : ea.toNat % sizeBytes sz = 0) (global : isGlobal ea = true)
    (answered : Answered u) (hit : Hit u w ea.toNat false e) (read : CohReads w e (tlbPa e ea.toNat) (sizeBytes sz) l t)
    (room : CanGive t d) : ldlWork d sz ea u = .ok ((), giveG t d (extendLoad true l)) := by
  have line : cohReadM e (tlbPa e ea.toNat) (sizeBytes sz) ea (performLine w w.cur (tlbPa e ea.toNat)) = .ok (l, t) := by
    unfold CohReads at read
    rw [cohReadM, m_bind_ok (getS_run _), read]
    rfl
  rw [ldlWork, m_bind_ok (requireAligned_ok aligned), if_neg (ne_true_of_eq_false (isLocal_of_isGlobal global)),
    m_bind_ok (resolveM_global global)]
  refine withXlates_hit hit ?_
  rw [m_bind_ok (variableLatency_ok (hit_answered hit answered)), m_bind_ok (modS_run _ w)]
  exact (m_bind_ok line).trans ((roomReady_of_canGive room).giveG _)

theorem ldlWork_trap (aligned : ea.toNat % sizeBytes sz = 0) (bad : BadPlace ea sz) :
    ldlWork d sz ea u = .error (.trap causeAddress ea id) := by
  cases inside : isLocal ea with
  | true =>
    rw [ldlWork_local inside]
    exact (m_bind_ok (requireAligned_ok aligned)).trans (loadScalar_trap bad)
  | false =>
    obtain ⟨-, global⟩ : isLocal ea = false ∧ isGlobal ea = false := bad.resolve_right (by simp [inside])
    rw [ldlWork, m_bind_ok (requireAligned_ok aligned), if_neg (ne_true_of_eq_false inside)]
    exact m_bind_error (resolveM_nowhere inside global)

end

/-- Settles O27: a load by the bytes that are ready for it, by the channel register that it names, or by the line that it reads coherently. -/
theorem scalarLoads : Obligations.ScalarLoads := by
  intro d a sz imm s hp ea n u sx aligned
  have check := requireAligned_ok (s := u) (show ea.toNat % sizeBytes sz = 0 from aligned)
  have scalar {signed : Bool} {t : State} (h : loadScalar d ea sz signed u = .ok ((), t)) : loadWork d sz signed ea u = .ok ((), t) :=
    (m_bind_ok check).trans h
  refine ⟨fun plain l t loads room => ?bytes, fun k off inside kind register size answered => ?channel,
    fun w e l t global answered hit read length room => ?coherent⟩
  case bytes =>
    have signed : loadWork d sz true ea u = .ok ((), giveG t d (sx l)) := by
      have value : extendLoad true l = sx l := (extendLoad_eq (length_of_loads loads)).1
      rw [← value]
      exact scalar (loadScalar_bytes (channelSide_false plain) loads room)
    exact ⟨ld_form.ok hp signed, ldu_form.ok hp (scalar (loadScalar_bytes (channelSide_false plain) loads room)),
      fun inside => ldl_form.ok hp (by rw [← signed, ← ldlWork_local inside])⟩
  case channel =>
    subst size
    have work {signed : Bool} : loadWork d 3 signed ea u = .ok ((), giveG u d (chanRead u k off)) :=
      scalar (loadScalar_channel (channelSide_true ⟨inside, kind⟩) register answered (hp.room.afterG a))
    have coherent : ldlWork d 3 ea u = .ok ((), giveG u d (chanRead u k off)) := by rw [ldlWork_local inside, work]
    intro i hi
    simp only [List.mem_cons, List.not_mem_nil, or_false] at hi
    obtain rfl | rfl | rfl := hi
    · exact ld_form.ok hp work
    · exact ldu_form.ok hp work
    · exact ldl_form.ok hp coherent
  case coherent =>
    have work := ldlWork_global aligned global answered hit read room
    rw [(extendLoad_eq length).1] at work
    exact ldl_form.ok hp work

/-! ### Stores -/

section
variable {s t u : State} {d a : Reg} {sz : BitVec 2} {imm : BitVec 14} {ea v : Word} {k off : Nat} {i : Instr}

/-- The work of ST once its sources are read; `i` is the instruction, which a Privilege trap names. -/
def stWork (i : Instr) (sz : BitVec 2) (ea v : Word) : M Unit := do
  requireAligned (sizeBytes sz) ea
  if isLocal ea && localKind ea == 3 then
    if sz = 3 then do
      let p ← chanRegister ea
      requireSys i
      modS fun s => chanWrite s p.1 p.2 v
    else trapM causeAddress ea
  else storePiece ea (toBytes (sizeBytes sz) v.toNat) 0 ea

theorem exec_st_eq (s : State) : exec (.st d a sz imm) s = run4 (withPorts [a, d] [] [] []
    (readG a >>= fun x => readG d >>= fun v => stWork (.st d a sz imm) sz (scalarEa x imm) v)) s := rfl

theorem exec_st_ok (hp : PortsReady s [a, d] [] [] [])
    (h : stWork (.st d a sz imm) sz (valueG s a + sext64 imm) (valueG (afterG s a) d) (afterG (afterG s a) d) = .ok ((), t)) :
    exec (.st d a sz imm) s = .next (retired 4 s t) := by
  rw [exec_st_eq]
  exact run4_ok (withPorts_ok hp ((readG_two hp.sources).trans h))

theorem exec_st_trap {c : Nat} {val : Word} (hp : PortsReady s [a, d] [] [] [])
    (h : stWork (.st d a sz imm) sz (valueG s a + sext64 imm) (valueG (afterG s a) d) (afterG (afterG s a) d) = .error (.trap c val id)) :
    exec (.st d a sz imm) s = .next (takeTrap (holdDirs (namedDirs [a, d] []) s) s.cur c val) := by
  rw [exec_st_eq]
  exact run4_trap (withPorts_trap hp ((readG_two hp.sources).trans h))

theorem stWork_stores (aligned : ea.toNat % sizeBytes sz = 0) (plain : channelSide ea = false)
    (store : StoreReady u ea (toBytes (sizeBytes sz) v.toNat) 0 t) : stWork i sz ea v u = .ok ((), t) := by
  unfold channelSide at plain
  rw [stWork, m_bind_ok (requireAligned_ok aligned), if_neg (ne_true_of_eq_false plain)]
  exact storePiece_ok store

/-- The address checks of a store to a channel register are passed: what is left is the check of the mode and the write. -/
theorem stWork_channel (aligned : ea.toNat % sizeBytes 3 = 0) (side : channelSide ea = true)
    (register : resolve u u.cur ea 8 = .loc (.regs k) off) :
    stWork i 3 ea v u = (requireSys i >>= fun _ => modS fun s => chanWrite s k off v) u := by
  unfold channelSide at side
  rw [stWork, m_bind_ok (requireAligned_ok aligned), if_pos side, if_pos rfl, m_bind_ok (chanRegister_ok register)]

theorem stWork_trap (aligned : ea.toNat % sizeBytes sz = 0) (bad : BadPlace ea sz) :
    stWork i sz ea v u = .error (.trap causeAddress ea id) := by
  rw [stWork, m_bind_ok (requireAligned_ok aligned)]
  obtain ⟨inside, global⟩ | ⟨inside, kind, size⟩ := bad
  · rw [if_neg (by simp [inside])]
    exact storePiece_nowhere inside global
  · have side : (isLocal ea && localKind ea == 3) = true := channelSide_true ⟨inside, kind⟩
    rw [if_pos side, if_neg size]
    rfl

end

/-- Settles O28: a store by its bytes or its channel register, and each trap by the first check that fails. -/
theorem scalarStoresAndAccessTraps : Obligations.ScalarStoresAndAccessTraps := by
  constructor
  · intro d a sz imm s hp ea n u v aligned
    refine ⟨fun plain t store => exec_st_ok hp (stWork_stores aligned (channelSide_false plain) store),
      fun k off inside kind register size sys => ?_⟩
    subst size
    have mode : InSys u := by simpa [InSys, u] using sys
    refine exec_st_ok hp ((stWork_channel aligned (channelSide_true ⟨inside, kind⟩) register).trans ?_)
    exact m_bind_ok (requireSys_ok mode)
  · intro d a sz imm s ea n trap
    constructor
    · intro hp i hi
      have odd (h : ea.toNat % n ≠ 0) (w : State) : requireAligned (sizeBytes sz) ea w = .error (.trap causeAlignment ea id) :=
        requireAligned_trap h
      have bad (aligned : ea.toNat % n = 0) (h : BadPlace ea sz) (signed : Bool) :
          loadWork d sz signed ea (afterG s a) = .error (.trap causeAddress ea id) :=
        (m_bind_ok (requireAligned_ok aligned)).trans (loadScalar_trap h)
      simp only [List.mem_cons, List.not_mem_nil, or_false] at hi
      obtain rfl | rfl | rfl := hi
      · exact ⟨fun h => ld_form.trap hp (m_bind_error (odd h _)), fun aligned h => ld_form.trap hp (bad aligned h true)⟩
      · exact ⟨fun h => ldu_form.trap hp (m_bind_error (odd h _)), fun aligned h => ldu_form.trap hp (bad aligned h false)⟩
      · exact ⟨fun h => ldl_form.trap hp (m_bind_error (odd h _)), fun aligned h => ldl_form.trap hp (ldlWork_trap aligned h)⟩
    · intro hp u
      refine ⟨fun odd => exec_st_trap hp (m_bind_error (requireAligned_trap odd)),
        fun aligned bad => exec_st_trap hp (stWork_trap aligned bad), fun k off aligned inside kind size register app => ?_⟩
      subst size
      have mode : ¬ InSys u := by simpa [InSys, u] using app
      refine exec_st_trap hp ((stWork_channel aligned (channelSide_true ⟨inside, kind⟩) register).trans ?_)
      exact m_bind_error (requireSys_trap mode)

end Sys2Proof.ScalarAccess
end

section
/-! The multiple-register transfers (R164): the registers of a range from MPROG on, each by the accesses that are ready for it. -/
namespace Sys2Proof.MultipleTransfers
open Sys2Proof.Machine Sys2Proof.Safety Sys2Proof.OneOperand Sys2Proof.VectorStores

section
variable {s t : State} {f a l : Reg} {x : Word} {align bytes : Nat} {one : Word → Nat → M Unit} {i : Instr} {js : List Nat}

/-! ### What the four transfers share -/

/-- The work of a transfer once its address is read. -/
def transferWork (f l : Reg) (align bytes : Nat) (one : Word → Nat → M Unit) (x : Word) : M Unit := do
  requireAligned align x
  requireLocalRange x bytes x
  let p ← progress
  restartable ((rangeFrom p f l).map fun j => (j, one x j))

/-- An instruction that is a transfer of these registers. -/
def TransferForm (i : Instr) (f a l : Reg) (align bytes : Nat) (one : Word → Nat → M Unit) : Prop :=
  ∀ s, exec i s = run4 (withPorts [a] [] [] [] (readG a >>= transferWork f l align bytes one)) s

/-- A transfer whose checks pass and whose steps can all be done. -/
theorem TransferForm.ok (form : TransferForm i f a l align bytes one) (hp : PortsReady s [a] [] [] [])
    (aligned : (valueG s a).toNat % align = 0) (range : RangeOk (afterG s a) (valueG s a) bytes)
    (steps : StepsOk ((rangeFrom (prog s) f l).map (one (valueG s a))) (afterG s a) t) :
    exec i s = .next (retired 4 s (progDone t)) := by
  have progress_s : progress (afterG s a) = .ok (prog s, afterG s a) := by rw [progress_run, prog, prog, me_afterG]
  rw [form s]
  refine run4_ok (withPorts_source hp ?_)
  rw [transferWork, m_bind_ok (requireAligned_ok aligned), m_bind_ok (requireLocalRange_ok range), m_bind_ok progress_s]
  refine restartable_ok ?_
  rw [List.map_map]
  exact steps

theorem TransferForm.trap (form : TransferForm i f a l align bytes one) (hp : PortsReady s [a] [] [] [])
    (bad : (valueG s a).toNat % align ≠ 0) :
    exec i s = .next (takeTrap (holdDirs (namedDirs [a] []) s) s.cur causeAlignment (valueG s a)) := by
  rw [form s]
  exact run4_trap (withPorts_trap hp ((m_bind_ok hp.sources.takeG.1).trans (m_bind_error (requireAligned_trap bad))))

/-! ### The step of each, for the register j of the range -/

def spillOne (f : Reg) (x : Word) (j : Nat) : M Unit := do
  let t ← self
  storePiece (above x (8 * j)) (toBytes 8 (gValue t (rangeReg f j)).toNat) 0 (above x (8 * j))

def fillOne (f : Reg) (x : Word) (j : Nat) : M Unit :=
  loadBytes (above x (8 * j)) 8 (above x (8 * j)) fun b => modSelf fun t => gWrite t (rangeReg f j) (wordOf b)

def vspillOne (f : Reg) (x : Word) (j : Nat) : M Unit := do
  let t ← self
  storeThen (above x j) [(vValue t (rangeReg f j)).tag.setWidth 8] 0 (above x j)
    (storePiece (above x (64 + 64 * j)) (toBytes 64 (vValue t (rangeReg f j)).bits.toNat) 0 (above x (64 + 64 * j)))

/-- What VFILL does with the tag byte and the data of a register. -/
def vfillWrite (r : Reg) (b : List Byte) : M Unit :=
  let t : Tag := (b.headD 0).setWidth 5
  if tagReserved t then tagTrap r 0 t
  else modSelf fun x => vWrite x r { bits := BitVec.ofNat 512 (ofBytes (b.drop 1)), tag := t }

theorem vfillWrite_ok {r : Reg} {b : List Byte} (defined : tagReserved ((b.headD 0).setWidth 5 : Tag) = false) :
    vfillWrite r b s = .ok ((), modThread s s.cur fun y =>
      vWrite y r { bits := BitVec.ofNat 512 (ofBytes (b.drop 1)), tag := (b.headD 0).setWidth 5 }) := by
  rw [vfillWrite, if_neg (ne_true_of_eq_false defined)]
  exact modSelf_run _ s

def vfillOne (f : Reg) (x : Word) (j : Nat) : M Unit :=
  loadPieces [(above x j, 1, above x j), (above x (64 + 64 * j), 64, above x (64 + 64 * j))] [] (vfillWrite (rangeReg f j))

theorem spillm_form : TransferForm (.spillm f a l) f a l 8 (8 * rangeCount f l) (spillOne f) := fun _ => rfl
theorem fillm_form : TransferForm (.fillm f a l) f a l 8 (8 * rangeCount f l) (fillOne f) := fun _ => rfl
theorem vspill_form : TransferForm (.vspill f a l) f a l 64 (64 + 64 * rangeCount f l) (vspillOne f) := fun _ => rfl
theorem vfill_form : TransferForm (.vfill f a l) f a l 64 (64 + 64 * rangeCount f l) (vfillOne f) := fun _ => rfl

theorem stepsOk_spilled (h : Spilled x f js s t) : StepsOk (js.map (spillOne f x)) s t := by
  induction js generalizing s with
  | nil => exact h
  | cons j rest ih =>
    obtain ⟨u, store, others⟩ := h
    exact ⟨u, (m_bind_ok (self_run s)).trans (storePiece_ok store), ih others⟩

theorem stepsOk_refilled (h : Refilled x f js s t) : StepsOk (js.map (fillOne f x)) s t := by
  induction js generalizing s with
  | nil => exact h
  | cons j rest ih =>
    obtain ⟨b, u, loads, others⟩ := h
    exact ⟨_, loadBytes_ok loads (modSelf_run _ u), ih others⟩

theorem stepsOk_vspilled (h : VSpilled x f js s t) : StepsOk (js.map (vspillOne f x)) s t := by
  induction js generalizing s with
  | nil => exact h
  | cons j rest ih =>
    obtain ⟨u, w, tag, data, others⟩ := h
    exact ⟨w, (m_bind_ok (self_run s)).trans (storeThen_ok tag (storePiece_ok data)), ih others⟩

theorem stepsOk_vrefilled (h : VRefilled x f js s t) : StepsOk (js.map (vfillOne f x)) s t := by
  induction js generalizing s with
  | nil => exact h
  | cons j rest ih =>
    obtain ⟨b, u, loads, defined, others⟩ := h
    exact ⟨_, loadPieces_ok (val := fun q => q.1) loads (vfillWrite_ok defined), ih others⟩

end

/-- Settles O32: each transfer by its steps, one for each register of the range. -/
theorem multipleTransfers : Obligations.MultipleTransfers := by
  intro f a l s hp x u js n out
  refine ⟨fun aligned range t => ⟨fun h => spillm_form.ok hp aligned range (stepsOk_spilled h),
      fun h => fillm_form.ok hp aligned range (stepsOk_refilled h)⟩,
    fun aligned range t => ⟨fun h => vspill_form.ok hp aligned range (stepsOk_vspilled h),
      fun h => vfill_form.ok hp aligned range (stepsOk_vrefilled h)⟩, fun bad i hi => ?scalar, fun bad i hi => ?vector⟩
  case scalar =>
    simp only [List.mem_cons, List.not_mem_nil, or_false] at hi
    obtain rfl | rfl := hi
    · exact spillm_form.trap hp bad
    · exact fillm_form.trap hp bad
  case vector =>
    simp only [List.mem_cons, List.not_mem_nil, or_false] at hi
    obtain rfl | rfl := hi
    · exact vspill_form.trap hp bad
    · exact vfill_form.trap hp bad

end Sys2Proof.MultipleTransfers
end

section
/-! FRAME and UNFRAME (R161, R162): where the new frame goes, and which value of g30 names a frame. -/
namespace Sys2Proof.FrameForms
open Sys2Proof.Machine Sys2Proof.Safety Sys2Proof.OneOperand

section
variable {s t u w : State} {a : Reg} {g n sz : Word}

/-! ### The value of g30 (R161) -/

theorem noFrame_of_lt (h : g.toNat < 2 ^ 18) : noFrame g = true := by simpa [noFrame] using h

theorem noFrame_of_le (h : 2 ^ 18 ≤ g.toNat) : noFrame g = false := by simpa [noFrame] using h

theorem le_of_not_isGlobal (h : isGlobal g = false) : 2 ^ 18 ≤ g.toNat := by
  simp [isGlobal, fieldOf, bitsOf] at h
  omega

theorem le_of_isLocal (h : isLocal g = true) : 2 ^ 18 ≤ g.toNat := by
  simp [isLocal, fieldOf, bitsOf] at h
  omega

theorem localKind_zero (h : fieldOf g 55 39 = 0) : localKind g = 0 := by
  simp [localKind, fieldOf, bitsOf] at *
  omega

/-- g30 names a frame in the core's own bivouac (R162). -/
def namesFrame (x : Thread) (g : Word) : Bool :=
  isLocal g && localKind g == 0 && decide (bivBase x ≤ fieldOf g 38 0) && decide (fieldOf g 38 0 < bivLimit x)

theorem namesFrame_iff {x : Thread} : namesFrame x g = true ↔
    isLocal g = true ∧ localKind g = 0 ∧ x.bivbase.toNat ≤ fieldOf g 38 0 ∧ fieldOf g 38 0 < x.bivlimit.toNat := by
  simp only [namesFrame, Bool.and_eq_true, decide_eq_true_eq, beq_iff_eq, and_assoc]
  rfl

/-! ### FRAME -/

theorem openFrame_ok (h : FrameOpened u n sz t) : openFrame n sz u = .ok ((), t) := by
  obtain ⟨v, w, link, size, rfl⟩ := h
  rw [openFrame, m_bind_ok (self_run u)]
  exact storeThen_ok link (storeThen_ok size (modSelf_run _ w))

/-- The work of FRAME once its size is read. -/
def frameWork (sz : Word) : M Unit :=
  if sz.toNat % 64 ≠ 0 ∨ sz.toNat < 64 ∨ 65536 < sz.toNat then trapM causeAddress sz
  else do
    let x ← self
    let g := gValue x 30
    if noFrame g then openFrame (placeFrame x (some g.toNat) sz) sz
    else if namesFrame x g then
      loadBytes (g + 8) 8 (g + 8) fun b => openFrame (placeFrame x (some (fieldOf g 38 0 + ofBytes b)) sz) sz
    else if isGlobal g then openFrame (placeFrame x none sz) sz
    else trapM causeAddress g

theorem exec_frame_eq (a : Reg) (s : State) : exec (.frame a) s = run4 (withPorts [a] [] [] [] (readG a >>= frameWork)) s := rfl

/-- The sizes that FRAME takes. -/
def GoodSize (sz : Word) : Prop := sz.toNat % 64 = 0 ∧ 64 ≤ sz.toNat ∧ sz.toNat ≤ 65536

theorem frameWork_badSize (h : ¬ GoodSize sz) : frameWork sz u = .error (.trap causeAddress sz id) := by
  rw [frameWork, if_pos (by unfold GoodSize at h; omega)]
  rfl

theorem frameWork_good (h : GoodSize sz) : frameWork sz u =
    (if noFrame (gValue (me u) 30) then openFrame (placeFrame (me u) (some (gValue (me u) 30).toNat) sz) sz
     else if namesFrame (me u) (gValue (me u) 30) then
       loadBytes (gValue (me u) 30 + 8) 8 (gValue (me u) 30 + 8) fun b =>
         openFrame (placeFrame (me u) (some (fieldOf (gValue (me u) 30) 38 0 + ofBytes b)) sz) sz
     else if isGlobal (gValue (me u) 30) then openFrame (placeFrame (me u) none sz) sz
     else trapM causeAddress (gValue (me u) 30)) u := by
  rw [frameWork, if_neg (by unfold GoodSize at h; omega), m_bind_ok (self_run u)]
  rfl

theorem exec_frame_ok (hp : PortsReady s [a] [] [] []) (h : frameWork (valueG s a) (afterG s a) = .ok ((), t)) :
    exec (.frame a) s = .next (retired 4 s t) := by
  rw [exec_frame_eq]
  exact run4_ok (withPorts_source hp h)

theorem exec_frame_trap {c : Nat} {v : Word} (hp : PortsReady s [a] [] [] [])
    (h : frameWork (valueG s a) (afterG s a) = .error (.trap c v id)) :
    exec (.frame a) s = .next (takeTrap (holdDirs (namedDirs [a] []) s) s.cur c v) := by
  rw [exec_frame_eq]
  exact run4_trap (withPorts_trap hp ((m_bind_ok hp.sources.takeG.1).trans h))

/-! ### UNFRAME -/

theorem exec_unframe_trap (h : (gValue (me s) 30).toNat < 2 ^ 18) :
    exec .unframe s = .next (takeTrap s s.cur causeAddress (gValue (me s) 30)) := by
  have unframed : noFrame (gValue (getThread s s.cur) 30) = true := noFrame_of_lt h
  refine run4_trap (k := id) ((m_bind_ok (self_run s)).trans ?_)
  rw [if_pos unframed]
  rfl

theorem exec_unframe_closes {l : List Byte} (h : 2 ^ 18 ≤ (gValue (me s) 30).toNat) (loads : Loads s (gValue (me s) 30) 8 l t) :
    exec .unframe s = .next (retired 4 s (modThread t t.cur fun x =>
      gWrite { x with bivovf := if isGlobal (gValue (me s) 30) then bivovfWord (gValue (me s) 30) else x.bivovf } 30 (wordOf l))) := by
  have framed : noFrame (gValue (getThread s s.cur) 30) = false := noFrame_of_le h
  refine run4_ok ((m_bind_ok (self_run s)).trans ?_)
  rw [if_neg (ne_true_of_eq_false framed)]
  exact loadBytes_ok loads (modSelf_run _ t)

end

/-- Settles O33: FRAME by its size and by what g30 names, UNFRAME by whether there is a frame. -/
theorem frameForms : Obligations.FrameForms := by
  intro s
  refine ⟨?frame, exec_unframe_trap, fun l t => exec_unframe_closes⟩
  intro a hp sz u g fits
  have same : me u = me s := me_afterG s a
  refine ⟨fun bad => exec_frame_trap hp (frameWork_badSize bad), fun multiple low high => ?_⟩
  have work := frameWork_good (u := u) ⟨multiple, low, high⟩
  rw [same] at work
  refine ⟨fun t unframed opened => ?first, fun l w t inside kind base limit loads opened => ?above, fun t global framed opened => ?overflow,
    fun outside named => ?trap⟩
  case first =>
    refine exec_frame_ok hp (work.trans ?_)
    rw [if_pos (noFrame_of_lt unframed)]
    exact openFrame_ok opened
  case above =>
    refine exec_frame_ok hp (work.trans ?_)
    rw [if_neg (ne_true_of_eq_false (noFrame_of_le (le_of_isLocal inside))),
      if_pos (namesFrame_iff.2 ⟨inside, localKind_zero kind, base, limit⟩)]
    exact loadBytes_ok loads (openFrame_ok opened)
  case overflow =>
    have away : namesFrame (me s) g = false := by simp [namesFrame, isLocal_of_isGlobal global]
    refine exec_frame_ok hp (work.trans ?_)
    rw [if_neg (ne_true_of_eq_false (noFrame_of_le framed)), if_neg (ne_true_of_eq_false away), if_pos global]
    exact openFrame_ok opened
  case trap =>
    refine exec_frame_trap hp (work.trans ?_)
    rw [if_neg (ne_true_of_eq_false (noFrame_of_le (le_of_not_isGlobal outside))), if_neg (mt namesFrame_iff.1 named),
      if_neg (ne_true_of_eq_false outside)]
    rfl

end Sys2Proof.FrameForms
end

section
/-! The copy forms (R165 to R167, R174 to R177): the checks in their order, up to the command's place in a queue or a combining node, and
the personality's in its memory tile. -/
namespace Sys2Proof.CopyForms
open Sys2Proof.Machine Sys2Proof.Safety Sys2Proof.PrivilegeTraps Sys2Proof.IntegerForms Sys2Proof.OneOperand Sys2Proof.StreamForms

/-- A load of a local object goes on with its bytes, and leaves the state as it is. -/
theorem loadBytes_local {α : Type} {s t : State} {ea val : Word} {n : Nat} {l : List Byte} {k : List Byte → M α}
    (inside : isLocal ea = true) (h : Loads s ea n l t) : loadBytes ea n val k s = k l s := by
  have whole : pagePieces ea n = [(ea, n)] := by rw [pagePieces, if_pos inside]
  rw [Loads, whole] at h
  obtain ⟨b, rest, u, rfl, ⟨-, ready⟩, rfl, -⟩ := h
  obtain ⟨o, off, range, latency, bytes, -⟩ | ⟨global, -⟩ := ready
  · rw [loadBytes, whole]
    simp only [List.map_cons, List.map_nil, loadPieces, loadPiece]
    rw [m_bind_ok (resolveM_local range)]
    simp only [bytes, m_bind_ok (localLatency_ok latency), m_bind_ok (getS_run s), List.nil_append, List.append_nil]
  · simp [isLocal_of_isGlobal global] at inside

section
variable {s t u w : State} {a b d : Reg} {x y : Word} {k : Nat} {c : Nat × Nat} {l : List Byte} {num : BitVec 8} {e : CopyDesc}

/-! ### MTCFG (R165 to R167) -/

/-- The region's rows run on the stack of a memory tile. -/
def tileRuns (t : State) (k : Nat) : Bool := (threadRegion t t.cur).any fun r => (segmentOf r (stackOf (dieOf k))).running

/-- What MTCFG does with the bytes of its block: the personality is installed on an idle tile. -/
def install (x : Word) (k : Nat) (l : List Byte) : M Unit :=
  match parsePersonality l with
  | none => trapM causeAddress x
  | some p => do
    let s ← getS
    if !channelsIdle (getTile s k) || tileRuns s k then waitM .condition
    else modS fun s =>
      modSwitch (setTile s k (installPersonality (getTile s k) p)) k fun w => { w with adapter := [], adapterHalf := none }

/-- The work of MTCFG once its sources are read. -/
def mtcfgWork (x y : Word) : M Unit :=
  if x.toNat % 64 ≠ 0 then trapM causeAlignment x
  else do
    let s ← getS
    match tileOf s y with
    | none => trapM causeAddress y
    | some k => loadBytes x 64 x (install x k)

theorem exec_mtcfg_eq (a b : Reg) (s : State) : exec (.mtcfg a b) s = run8 (requireSys (.mtcfg a b) >>= fun _ =>
    withPorts [a, b] [] [] [] (readG a >>= fun x => readG b >>= fun y => mtcfgWork x y)) s := by rfl

theorem mtcfgWork_tile (aligned : x.toNat % 64 = 0) (tile : tileOf u y = some k) :
    mtcfgWork x y u = loadBytes x 64 x (install x k) u := by
  rw [mtcfgWork, if_neg (not_not.2 aligned), m_bind_ok (getS_run u), tile]

theorem install_ok {p : Personality} (good : parsePersonality l = some p) (idle : channelsIdle (getTile t k) = true)
    (still : ∀ r, threadRegion t t.cur = some r → (segmentOf r (stackOf (dieOf k))).running = false) :
    install x k l t = .ok ((), modSwitch (setTile t k (installPersonality (getTile t k) p)) k fun w =>
      { w with adapter := [], adapterHalf := none }) := by
  have stands : tileRuns t k = false := by
    cases region : threadRegion t t.cur with
    | none => simp [tileRuns, region]
    | some r => simp [tileRuns, region, still r region]
  unfold install
  rw [good]
  refine (m_bind_ok (getS_run t)).trans ?_
  rw [idle, stands]
  rfl

theorem install_trap (bad : parsePersonality l = none) : install x k l t = .error (.trap causeAddress x id) := by
  unfold install
  rw [bad]
  rfl

/-! ### The checks of a copy (R170, R174) -/

/-- A descriptor that passes the checks for a thread in a state. -/
structure GoodDesc (t : State) (l : List Byte) (e : CopyDesc) : Prop where
  parsed : parseDesc l = some e
  untagged : e.tag = 0
  source : sideOk t t.cur e.src e e.sstrides = true
  target : sideOk t t.cur e.dst e e.dstrides = true

theorem copyDescriptor_ok {fol : Bool} (h : GoodDesc t l e) (follow : e.follow = fol) : copyDescriptor x l fol t = .ok (e, t) := by
  rw [copyDescriptor, m_bind_ok (getS_run t), h.parsed]
  exact congrFun (if_pos ⟨h.untagged, follow, h.source, h.target⟩) t

theorem needChannel_ok (h : channelOf u u.cur y = some c) : needChannel y u = .ok (c, u) := by
  rw [needChannel, m_bind_ok (getS_run u), h]
  rfl

theorem needChannel_trap (h : channelOf u u.cur y = none) : needChannel y u = .error (.trap causeAddress y id) := by
  rw [needChannel, m_bind_ok (getS_run u), h]
  rfl

/-- The follow-on of a CPYM; the other forms have none. -/
def followPart (x : Word) (fol : Bool) (e : CopyDesc) : M (Option MKind) :=
  if fol then do
    let k ← followOn x e
    pure (some k)
  else pure none

/-- What a copy does once its descriptor is read: its checks, and then its place. -/
def placeCopy (x y : Word) (fol : Bool) (place : List Byte → CopyDesc → Option MKind → M Unit) (l : List Byte) : M Unit := do
  let d ← copyDescriptor x l fol
  let f ← followPart x fol d
  let s ← getS
  if heldForChannel s s.cur y then waitM .combining else place l d f

section
variable {mask : Option Nat} {fol : Bool} {place : Nat × Nat → List Byte → CopyDesc → Option MKind → M Unit} {f : Option MKind}

theorem startCopy_ok (aligned : x.toNat % 128 = 0) (channel : channelOf u u.cur y = some c)
    (named : ∀ m ∈ mask, m.testBit (qcoreOf u.cur.core) = true) (loads : Loads u x 128 l t)
    (good : GoodDesc t l e) (follow : e.follow = fol) (follower : followPart x fol e t = .ok (f, w))
    (free : heldForChannel w w.cur y = false) {r : State} (placed : place c l e f w = .ok ((), r)) : startCopy x y mask fol place u = .ok ((), r) := by
  have checked : placeCopy x y fol (place c) l t = .ok ((), r) := by
    rw [placeCopy, m_bind_ok (copyDescriptor_ok good follow), m_bind_ok follower, m_bind_ok (getS_run w),
      if_neg (ne_true_of_eq_false free)]
    exact placed
  have read : loadBytes x 128 x (placeCopy x y fol (place c)) u = .ok ((), r) := loadBytes_ok loads checked
  rw [startCopy, if_neg (not_not.2 aligned), m_bind_ok (needChannel_ok channel), m_bind_ok (selfCore_run u)]
  cases mask with
  | none => exact read
  | some m => exact (congrFun (if_pos (named m rfl)) u).trans read

theorem startCopy_unbound (aligned : x.toNat % 128 = 0) (unbound : channelOf u u.cur y = none) :
    startCopy x y mask fol place u = .error (.trap causeAddress y id) := by
  rw [startCopy, if_neg (not_not.2 aligned)]
  exact m_bind_error (needChannel_trap unbound)

end

/-! ### CPY, CPYM and CPYQ (R174 to R176) -/

/-- A command's place in the queue of its channel, or the wait for room there. -/
def queueCopy (num : BitVec 8) (c : Nat × Nat) (l : List Byte) (e : CopyDesc) (f : Option MKind) : M Unit := do
  let s ← getS
  if channelRoom s c.1 c.2 then modS fun s => enqueueCopy s c.1 c.2 (copyCmd s e l num f) else waitM .copyQueue

/-- A command's place in the combining node of its quad. -/
def combineCopy (y : Word) (mask : BitVec 4) (num : BitVec 8) (_ : Nat × Nat) (l : List Byte) (e : CopyDesc) (f : Option MKind) : M Unit :=
  modS fun s => drainNode (modQuad s (quadKey s.cur.core) fun q => combine q y mask.toNat (copyCmd s e l num f)) (quadKey s.cur.core)

theorem exec_cpy_eq (a b : Reg) (num : BitVec 8) (s : State) : exec (.cpy a b num) s = run8 (withPorts [a, b] [] [] []
    (readG a >>= fun x => readG b >>= fun y => startCopy x y none false (queueCopy num))) s := rfl

theorem exec_cpym_eq (a b : Reg) (num : BitVec 8) (s : State) : exec (.cpym a b num) s = run8 (withPorts [a, b] [] [] []
    (readG a >>= fun x => readG b >>= fun y => startCopy x y none true (queueCopy num))) s := rfl

theorem exec_cpyq_eq (a b : Reg) (mask : BitVec 4) (num : BitVec 8) (s : State) : exec (.cpyq a b mask num) s =
    run8 (withPorts [a, b] [] [] []
      (readG a >>= fun x => readG b >>= fun y => startCopy x y (some mask.toNat) false (combineCopy y mask num))) s := rfl

/-- A form with two sources whose work can be done, or traps. -/
theorem run8_two {work : Word → Word → M Unit} (hp : PortsReady s [a, b] [] [] [])
    (h : work (valueG s a) (valueG (afterG s a) b) (afterG (afterG s a) b) = .ok ((), t)) :
    run8 (withPorts [a, b] [] [] [] (readG a >>= fun x => readG b >>= fun y => work x y)) s = .next (retired 8 s t) :=
  run8_ok (withPorts_ok hp ((readG_two hp.sources).trans h))

theorem run8_two_trap {work : Word → Word → M Unit} {cause : Nat} {v : Word} (hp : PortsReady s [a, b] [] [] [])
    (h : work (valueG s a) (valueG (afterG s a) b) (afterG (afterG s a) b) = .error (.trap cause v id)) :
    run8 (withPorts [a, b] [] [] [] (readG a >>= fun x => readG b >>= fun y => work x y)) s =
      .next (takeTrap (holdDirs (namedDirs [a, b] []) s) s.cur cause v) :=
  run8_trap (withPorts_trap hp ((readG_two hp.sources).trans h))

theorem queueCopy_ok {f : Option MKind} (room : channelRoom w c.1 c.2 = true) :
    queueCopy num c l e f w = .ok ((), enqueueCopy w c.1 c.2 (copyCmd w e l num f)) := by
  rw [queueCopy, m_bind_ok (getS_run w), if_pos room]
  rfl

theorem followPart_follows {k : MKind} (h : followOn x e t = .ok (k, w)) : followPart x true e t = .ok (some k, w) := by
  rw [followPart, if_pos rfl, m_bind_ok h]
  rfl

/-! ### WPRD and WPWAIT (R177) -/

/-- The work of WPWAIT once its sources are read. -/
def wpwaitWork (x y : Word) : M Unit := do
  let c ← needChannel x
  let s ← getS
  if y.toNat ≤ (getChan s c.1 c.2).wptr.toNat then pure () else waitM (.wpwait c.1 c.2)

theorem exec_wpwait_eq (a b : Reg) (s : State) : exec (.wpwait a b) s =
    run4 (withPorts [a, b] [] [] [] (readG a >>= fun x => readG b >>= fun y => wpwaitWork x y)) s := rfl

theorem wpwaitWork_eq (h : channelOf u u.cur x = some c) : wpwaitWork x y u =
    (if y.toNat ≤ (getChan u c.1 c.2).wptr.toNat then pure () else waitM (.wpwait c.1 c.2) : M Unit) u := by
  rw [wpwaitWork, m_bind_ok (needChannel_ok h), m_bind_ok (getS_run u)]

theorem exec_wpwait_reached (hp : PortsReady s [a, b] [] [] [])
    (h : channelOf (afterG (afterG s a) b) (afterG (afterG s a) b).cur (valueG s a) = some c)
    (reached : (valueG (afterG s a) b).toNat ≤ (getChan (afterG (afterG s a) b) c.1 c.2).wptr.toNat) :
    exec (.wpwait a b) s = .next (retired 4 s (afterG (afterG s a) b)) := by
  rw [exec_wpwait_eq]
  refine run4_ok (withPorts_ok hp ((readG_two hp.sources).trans ((wpwaitWork_eq h).trans ?_)))
  rw [if_pos reached]
  rfl

theorem exec_wpwait_waits (hp : PortsReady s [a, b] [] [] [])
    (h : channelOf (afterG (afterG s a) b) (afterG (afterG s a) b).cur (valueG s a) = some c)
    (short : (getChan (afterG (afterG s a) b) c.1 c.2).wptr.toNat < (valueG (afterG s a) b).toNat) :
    exec (.wpwait a b) s = .next (blockThread (holdDirs (namedDirs [a, b] []) s) s.cur (.wpwait c.1 c.2)) := by
  rw [exec_wpwait_eq]
  refine run4_wait (withPorts_blocks (k := id) hp ((readG_two hp.sources).trans ((wpwaitWork_eq h).trans ?_)))
  rw [if_neg (Nat.not_le.2 short)]
  rfl

theorem exec_wprd (hp : PortsReady s [a] [] [d] []) (h : channelOf (afterG s a) s.cur (valueG s a) = some c) :
    exec (.wprd d a) s = .next (retired 4 s (giveG (afterG s a) d (getChan (afterG s a) c.1 c.2).wptr)) := by
  rw [← afterG_cur s a] at h
  exact run4_ok (withPorts_ok hp ((m_bind_ok hp.sources.takeG.1).trans ((m_bind_ok (needChannel_ok h)).trans
    ((m_bind_ok (getS_run _)).trans ((hp.room.afterG a).giveG _)))))

end

/-- Settles O37: MTCFG by its block and its tile, the copies by the checks of their descriptor, WPRD and WPWAIT by the channel's WPTR. -/
theorem copyForms : Obligations.CopyForms := by
  intro s a b hp x y u
  refine ⟨fun k l t p sys aligned tile loads good idle still => ?installs, fun k l t sys aligned inside tile loads bad => ?refuses,
    fun c l t d aligned channel loads parsed untagged source target free => ?copies, fun unbound aligned num => ?unbound,
    fun c channel => ⟨exec_wpwait_reached hp channel, fun short => ⟨_, exec_wpwait_waits hp channel short, ?waits⟩⟩,
    fun d c hd channel => exec_wprd hd channel⟩
  case installs =>
    rw [exec_mtcfg_eq]
    have work := (mtcfgWork_tile aligned tile).trans (loadBytes_ok loads (install_ok good idle still))
    exact run8_ok ((m_bind_ok (requireSys_ok sys)).trans (withPorts_ok hp ((readG_two hp.sources).trans work)))
  case refuses =>
    rw [exec_mtcfg_eq]
    have work := (mtcfgWork_tile aligned tile).trans ((loadBytes_local inside loads).trans (install_trap bad))
    exact run8_trap ((m_bind_ok (requireSys_ok sys)).trans (withPorts_trap hp ((readG_two hp.sources).trans work)))
  case copies =>
    have checks : GoodDesc t l d := ⟨parsed, untagged, source, target⟩
    refine ⟨fun num plain room => ?cpy, fun num f w follow follower still room => ?cpym, fun mask num plain named => ?cpyq⟩
    case cpy =>
      rw [exec_cpy_eq]
      exact run8_two hp (startCopy_ok aligned channel (by simp) loads checks plain rfl free (queueCopy_ok room))
    case cpym =>
      rw [exec_cpym_eq]
      exact run8_two hp (startCopy_ok aligned channel (by simp) loads checks follow (followPart_follows follower) still (queueCopy_ok room))
    case cpyq =>
      have core : u.cur.core = s.cur.core := by simp [u]
      have own : ∀ m ∈ some mask.toNat, m.testBit (qcoreOf u.cur.core) = true := by
        rw [core]
        rintro m ⟨⟩
        exact named
      rw [exec_cpyq_eq]
      exact run8_two hp (startCopy_ok aligned channel own loads checks plain rfl free rfl)
  case unbound =>
    rw [exec_cpy_eq]
    exact run8_two_trap hp (startCopy_unbound aligned unbound)
  case waits => simp [blockThread, me]

end Sys2Proof.CopyForms
end

section
/-! What a plain store changes (R153, R154, R182, R183, R356): the bytes of its local object, or what its own thread reads at the bytes of a
global range that no locked interface freezes. -/
namespace Sys2Proof.StoreFrame
open Sys2Proof.Machine Sys2Proof.Safety Sys2Proof.Frames Sys2Proof.Pieces

/-! ### Local objects (R153, R154) -/

section
variable {s t : State} {o : LObj} {m : Mem} {ea : Word} {n off : Nat} {l : List Byte}

/-- An object other than a channel's registers holds the memory that is put into it. -/
theorem localMem_setLocalMem_same (plain : ∀ k, o ≠ .regs k) : localMem (setLocalMem s o m) o = m := by
  cases o with
  | regs k => exact absurd rfl (plain k)
  | _ => simp [localMem, setLocalMem]

theorem localMem_setLocalMem_other {o' : LObj} (h : o' ≠ o) : localMem (setLocalMem s o m) o' = localMem s o' := by
  cases o with
  | scratch k =>
    cases o' with
    | scratch j => exact congrArg Core.scratch (getCore_setCore_other s _ fun e => h (congrArg _ e))
    | _ => rfl
  | sram k =>
    cases o' with
    | sram j => exact congrArg MemTile.sram (getTile_setTile_other s _ fun e => h (congrArg _ e))
    | _ => rfl
  | regs k => rfl
  | spm k =>
    cases o' with
    | spm j => exact congrArg Quad.scratch (getQuad_setQuad_other s _ fun e => h (congrArg _ e))
    | _ => rfl

theorem gmem_setLocalMem (s : State) (o : LObj) (m : Mem) : (setLocalMem s o m).gmem = s.gmem := by cases o <;> rfl

theorem getThread_setLocalMem (s : State) (o : LObj) (m : Mem) (v : ThreadRef) : getThread (setLocalMem s o m) v = getThread s v := by
  cases o with
  | scratch k => exact getThread_setCore s k { getCore s k with scratch := m } rfl v
  | _ => rfl

/-- Where a range leads is one place. -/
theorem localRange_unique {o' : LObj} {off' : Nat} (h : LocalRange s ea n o off) (h' : LocalRange s ea n o' off') : o' = o ∧ off' = off := by
  obtain ⟨-, place, -⟩ := h
  obtain ⟨-, place', -⟩ := h'
  simpa using place'.symm.trans place

/-- A store to a local range writes its bytes there. -/
theorem storeReady_local (h : LocalRange s ea l.length o off) (store : StoreReady s ea l 0 t) : t = localWrite s o off l := by
  obtain ⟨o', off', h', rfl⟩ | ⟨global, -⟩ := store
  · obtain ⟨rfl, rfl⟩ := localRange_unique h h'
    exact if_pos (Nat.zero_mod _)
  · exact absurd h.1 (by simp [isLocal_of_isGlobal global])

theorem localWrite_outside (plain : ∀ k, o ≠ .regs k) {o' : LObj} {a : Nat} (away : ¬ (o' = o ∧ off ≤ a ∧ a < off + l.length)) :
    memGet (localMem (localWrite s o off l) o').cells a = memGet (localMem s o').cells a := by
  by_cases same : o' = o
  · subst same
    rw [localWrite, localMem_setLocalMem_same plain, memStore_cells]
    exact memGet_memWrite_outside _ _ _ _ (by simp at away; omega)
  · rw [localWrite, localMem_setLocalMem_other same]

theorem localWrite_inside (plain : ∀ k, o ≠ .regs k) {i : Nat} (hi : i < l.length) :
    memGet (localMem (localWrite s o off l) o).cells (off + i) = l.getD i 0 := by
  rw [localWrite, localMem_setLocalMem_same plain, memStore_cells, memGet_memWrite_inside _ _ _ _ (by omega) (by omega),
    Nat.add_sub_cancel_left]

end

/-! ### Translations (R210) -/

theorem sameRest_setQuad {s : State} {k : Nat} {x : Quad} (h : x.scratch = (getQuad s k).scratch) : SameRest s (setQuad s k x) := by
  refine ⟨rfl, rfl, rfl, fun _ => rfl, fun _ _ => rfl, fun _ _ => rfl, fun j a => ?_⟩
  by_cases e : j = k
  · rw [e, getQuad_setQuad_same, h]
  · rw [getQuad_setQuad_other s x e]

section
variable (s : State) (e : TlbEntry)

theorem fillL1_sameRest (core : Nat) (f : Bool) : SameRest s (fillL1 s core f e) := by
  refine sameRest_setCore ?_
  split <;> rfl

theorem fillL2_sameRest (q : Nat) : SameRest s (fillL2 s q e) := sameRest_setQuad rfl

theorem fillLltc_sameRest (d : Nat) : SameRest s (fillLltc s d e) := by
  unfold fillLltc
  split
  · exact ⟨rfl, rfl, rfl, fun _ => rfl, fun _ _ => rfl, fun _ _ => rfl, fun _ _ => rfl⟩
  · exact .refl s

/-- A look-up changes caches alone: every memory is as before. -/
theorem cacheLookup_sameRest (core func va : Nat) (w f a : Bool) : SameRest s (cacheLookup s core func va w f a).1 := by
  unfold cacheLookup
  dsimp only
  split
  · exact fillL1_sameRest s _ core f
  · split
    · exact (fillL2_sameRest s _ _).trans (fillL1_sameRest _ _ core f)
    · split
      · unfold fillFromLltc
        dsimp only
        split
        · exact fillLltc_sameRest s _ _
        · exact ((fillLltc_sameRest s _ _).trans (fillL2_sameRest _ _ _)).trans (fillL1_sameRest _ _ core f)
      · exact .refl s

end

theorem hit_sameRest {s u : State} {va : Nat} {w : Bool} {e : TlbEntry} (h : Hit s u va w e) : SameRest s u := by
  have kept := cacheLookup_sameRest s s.cur.core (me s).func va w false (!modeSys (me s))
  rwa [h] at kept

/-! ### A store's piece (R182, R183, R356) -/

/-- Bytes put into a map from an address on. -/
def putBytes (m : AMap Byte) (a n : Nat) (f : Nat → Byte) : AMap Byte := (List.range n).foldl (fun m j => amInsert m (a + j) (f j)) m

theorem amFind_putBytes (m : AMap Byte) (a n x : Nat) (f : Nat → Byte) :
    amFind (putBytes m a n f) x = if a ≤ x ∧ x < a + n then some (f (x - a)) else amFind m x := by
  induction n with
  | zero => simp [putBytes, show ¬ (a ≤ x ∧ x < a) by omega]
  | succ n ih =>
    have step : putBytes m a (n + 1) f = amInsert (putBytes m a n f) (a + n) (f n) := by simp [putBytes, List.range_succ]
    rw [step]
    by_cases last : x = a + n
    · subst last
      simp
    · rw [amFind_amInsert_other _ _ last, ih]
      exact if_congr (by omega) rfl rfl

/-- The context of a thread that has stored a piece of the bytes `l` at `pa`. -/
def pieceStored (e : TlbEntry) (va pa : Nat) (l : List Byte) (q : Nat × Nat) (x : Thread) : Thread :=
  { x with
    own := putBytes x.own q.1 q.2 fun j => l.getD (q.1 - pa + j) 0
    stores := x.stores ++ [{ pa := q.1, bytes := (l.drop (q.1 - pa)).take q.2, skip := (0 >>> (q.1 - pa)) % 2 ^ q.2, func := x.func
                             va := va + (q.1 - pa), global := e.g, moving := e.t }] }

/-- A piece of a store by a thread that has no RED to perform: a frozen ring page ignores it (R356). -/
def storeStep (t : ThreadRef) (e : TlbEntry) (va pa : Nat) (l : List Byte) (s : State) (q : Nat × Nat) : State :=
  if ringFrozen s q.1 then s else setThread s t (pieceStored e va pa l q (getThread s t))

theorem performReds_none {s : State} {t : ThreadRef} {sel : PendingRed → Bool} (h : (getThread s t).reds = []) :
    performReds s t sel = s := by
  unfold performReds
  dsimp only
  rw [h]

/-- Two folds whose steps agree where an invariant of the second holds. -/
theorem foldl_congr_of_invariant {α β : Type} {f g : β → α → β} (I : β → Prop) (keeps : ∀ s x, I s → I (g s x))
    (agree : ∀ s x, I s → f s x = g s x) (l : List α) {s : β} (h : I s) : l.foldl f s = l.foldl g s := by
  induction l generalizing s with
  | nil => rfl
  | cons x l ih => rw [List.foldl_cons, List.foldl_cons, agree s x h, ih (keeps s x h)]

section
variable {s u : State} {t : ThreadRef} {e : TlbEntry} {va pa : Nat} {l : List Byte} {q : Nat × Nat} {qs : List (Nat × Nat)}

theorem storeStep_cases (t : ThreadRef) (e : TlbEntry) (va pa : Nat) (l : List Byte) (s : State) (q : Nat × Nat) :
    storeStep t e va pa l s q = s ∨ storeStep t e va pa l s q = setThread s t (pieceStored e va pa l q (getThread s t)) := by
  unfold storeStep
  split
  · exact .inl rfl
  · exact .inr rfl

theorem reds_storeStep (h : (getThread s t).reds = []) : (getThread (storeStep t e va pa l s q) t).reds = [] := by
  obtain same | stored := storeStep_cases t e va pa l s q
  · rw [same, h]
  · rw [stored, getThread_setThread_same]
    exact h

/-- A plain store is the steps of its pieces. -/
theorem plainStore_steps (reds : (getThread u t).reds = []) (still : e.t = false)
    (outside : ownControl (whoThread u t) (tlbPa e va) = none) :
    plainStore u t e va l 0 = (piecesOf 64 (tlbPa e va) l.length).foldl (storeStep t e va (tlbPa e va) l) u := by
  unfold plainStore
  dsimp only
  rw [outside]
  refine foldl_congr_of_invariant (fun s => (getThread s t).reds = []) (fun s q => reds_storeStep) (fun s q none => ?_) _ reds
  rw [performReds_none none, still]
  simp only [storeStep, pieceStored, putBytes, route, still, Nat.zero_testBit, Bool.false_eq_true, if_false, modThread_eq]

/-- Between two states nothing has changed but what a thread has stored. -/
structure StoredOnly (t : ThreadRef) (s u : State) : Prop where
  rest : SameRest s u
  others : ∀ v, v ≠ t → getThread u v = getThread s v
  thread : ∃ own stores, getThread u t = { getThread s t with own := own, stores := stores }
  frozen : ∀ a, ringFrozen u a = ringFrozen s a

theorem StoredOnly.refl (t : ThreadRef) (s : State) : StoredOnly t s s := ⟨.refl s, fun _ _ => rfl, ⟨_, _, rfl⟩, fun _ => rfl⟩

theorem StoredOnly.trans {v : State} (h : StoredOnly t s u) (k : StoredOnly t u v) : StoredOnly t s v := by
  obtain ⟨own, stores, first⟩ := h.thread
  obtain ⟨own', stores', second⟩ := k.thread
  exact ⟨h.rest.trans k.rest, fun w hw => (k.others w hw).trans (h.others w hw), ⟨own', stores', by rw [second, first]⟩,
    fun a => (k.frozen a).trans (h.frozen a)⟩

theorem storedOnly_storeStep (s : State) (q : Nat × Nat) : StoredOnly t s (storeStep t e va pa l s q) := by
  obtain same | stored := storeStep_cases t e va pa l s q
  · rw [same]
    exact .refl t s
  · rw [stored]
    exact ⟨sameRest_setThread s t _, fun v hv => getThread_setThread_other s _ hv, ⟨_, _, getThread_setThread_same s t _⟩, fun _ => rfl⟩

theorem storedOnly_steps (qs : List (Nat × Nat)) (s : State) : StoredOnly t s (qs.foldl (storeStep t e va pa l) s) := by
  induction qs generalizing s with
  | nil => exact .refl t s
  | cons q qs ih => exact (storedOnly_storeStep s q).trans (ih _)

/-- The bytes that a thread reads as its own after a piece. -/
theorem own_storeStep (s : State) (q : Nat × Nat) (a : Nat) : amFind (getThread (storeStep t e va pa l s q) t).own a =
    if q.1 ≤ a ∧ a < q.1 + q.2 ∧ ringFrozen s q.1 = false then some (l.getD (q.1 - pa + (a - q.1)) 0)
    else amFind (getThread s t).own a := by
  unfold storeStep
  split
  · next frozen => simp [frozen]
  · next free =>
    rw [getThread_setThread_same, pieceStored, amFind_putBytes]
    exact if_congr (by simp [free]) rfl rfl

/-- Outside the pieces a thread reads what it has read. -/
theorem own_steps_outside {a : Nat} (away : ∀ q ∈ qs, ¬ (q.1 ≤ a ∧ a < q.1 + q.2)) :
    amFind (getThread (qs.foldl (storeStep t e va pa l) s) t).own a = amFind (getThread s t).own a := by
  induction qs generalizing s with
  | nil => rfl
  | cons q qs ih =>
    obtain ⟨first, others⟩ := List.forall_mem_cons.1 away
    rw [List.foldl_cons, ih others, own_storeStep, if_neg fun h => first ⟨h.1, h.2.1⟩]

/-- A byte that lies in a piece reads as stored, where no piece is frozen. -/
theorem own_steps_inside {a : Nat} (within : ∀ q ∈ qs, pa ≤ q.1 ∧ ringFrozen s q.1 = false) (covered : ∃ q ∈ qs, q.1 ≤ a ∧ a < q.1 + q.2) :
    amFind (getThread (qs.foldl (storeStep t e va pa l) s) t).own a = some (l.getD (a - pa) 0) := by
  induction qs generalizing s with
  | nil => simp at covered
  | cons q qs ih =>
    obtain ⟨⟨low, free⟩, others⟩ := List.forall_mem_cons.1 within
    rw [List.foldl_cons]
    by_cases later : ∃ q ∈ qs, q.1 ≤ a ∧ a < q.1 + q.2
    · exact ih (fun p hp => ⟨(others p hp).1, ((storedOnly_storeStep s q).frozen p.1).trans (others p hp).2⟩) later
    · have here : q.1 ≤ a ∧ a < q.1 + q.2 := by
        obtain ⟨p, hp, inside⟩ := covered
        obtain rfl | rest := List.mem_cons.1 hp
        · exact inside
        · exact absurd ⟨p, rest, inside⟩ later
      rw [own_steps_outside fun p hp inside => later ⟨p, hp, inside⟩, own_storeStep, if_pos ⟨here.1, here.2, free⟩,
        show q.1 - pa + (a - q.1) = a - pa by omega]

/-- Pieces that are all frozen are ignored. -/
theorem steps_frozen (frozen : ∀ q ∈ qs, ringFrozen s q.1 = true) : qs.foldl (storeStep t e va pa l) s = s := by
  induction qs with
  | nil => rfl
  | cons q qs ih =>
    obtain ⟨first, others⟩ := List.forall_mem_cons.1 frozen
    rw [List.foldl_cons, storeStep, if_pos first, ih others]

end

/-! ### The whole store -/

section
variable {s t u : State} {ea : Word} {l : List Byte} {e : TlbEntry}

/-- The pieces of a range of bytes lie at its bytes. -/
theorem piece_at_byte {a n : Nat} {q : Nat × Nat} (hq : q ∈ piecesOf 64 a n) : ∃ i, i < n ∧ q.1 = a + i := by
  obtain ⟨low, some, high⟩ := piecesAux_within (by decide) hq
  exact ⟨q.1 - a, by omega, by omega⟩

/-- The frame of a store to a local object. -/
theorem storeReady_local_frame {o : LObj} {off : Nat} (range : LocalRange s ea l.length o off) (store : StoreReady s ea l 0 t) :
    (∀ a, memGet t.gmem.cells a = memGet s.gmem.cells a) ∧
      (∀ o' a, ¬ (o' = o ∧ off ≤ a ∧ a < off + l.length) → memGet (localMem t o').cells a = memGet (localMem s o').cells a) ∧
      (∀ i, i < l.length → memGet (localMem t o).cells (off + i) = l.getD i 0) ∧ ∀ v, getThread t v = getThread s v := by
  rw [storeReady_local range store]
  obtain ⟨-, -, plain⟩ := range
  refine ⟨fun a => ?_, fun o' a away => localWrite_outside plain away, fun i hi => localWrite_inside plain hi, fun v => ?_⟩
  · rw [localWrite, gmem_setLocalMem]
  · exact getThread_setLocalMem s o _ v

end

/-- Settles O29: a local store by the memory of its object, a global one by the pieces that its thread has stored. -/
theorem storeFrame : Obligations.StoreFrame := by
  intro s t ea l
  refine ⟨fun o off => storeReady_local_frame, ?_⟩
  intro u e global hit still reds outside short pa w
  have cur : u.cur = s.cur := hit_cur hit
  have same (v : ThreadRef) : getThread u v = getThread s v := hit_thread hit v
  have who : whoThread u u.cur = whoThread s s.cur := by rw [cur, whoThread, whoThread, same]
  have steps : w = (piecesOf 64 pa l.length).foldl (storeStep u.cur e ea.toNat pa l) u :=
    plainStore_steps (by rw [cur, same]; exact reds) still (by rw [who]; exact outside)
  have only : StoredOnly s.cur u w := by
    rw [steps, cur]
    exact storedOnly_steps _ u
  have rest : SameRest s w := (hit_sameRest hit).trans only.rest
  have mine : me w = getThread w s.cur := by rw [me, rest.cur]
  have before : me s = getThread u s.cur := (same s.cur).symm
  obtain ⟨own, stores, thread⟩ := only.thread
  refine ⟨rest.memory, ?registers, ?special, fun v hv => (only.others v hv).trans (same v), fun a away => ?outside,
    fun free i hi => ?stored, fun frozen => ?ignored⟩
  case registers =>
    rw [mine, thread, before]
    exact ⟨fun _ _ => rfl, fun _ _ => rfl, fun _ _ => rfl⟩
  case special =>
    rw [mine, thread, before]
    exact ⟨rfl, rfl, rfl, rfl, rfl, rfl, rfl, rfl, rfl, rfl, rfl, rfl, rfl, rfl⟩
  case outside =>
    rw [mine, before, steps, cur]
    refine own_steps_outside fun q hq inside => away ?_
    obtain ⟨low, -, high⟩ := piecesAux_within (by decide) hq
    omega
  case stored =>
    rw [mine, steps, cur, own_steps_inside (fun q hq => ?_) (piecesOf_covers (by decide) (by omega) (by omega)), Nat.add_sub_cancel_left]
    obtain ⟨j, hj, place⟩ := piece_at_byte hq
    exact ⟨by omega, place ▸ free j hj⟩
  case ignored =>
    have kept : w = u := by
      rw [steps]
      refine steps_frozen fun q hq => ?_
      obtain ⟨j, hj, place⟩ := piece_at_byte hq
      exact place ▸ frozen j hj
    rw [mine, before, kept]
    exact ⟨rfl, rfl⟩

end Sys2Proof.StoreFrame
end

section
/-! Steps of the copy channels (R171 to R176, R335): the piece that a channel moves in a cycle, the end of an error, a follow-on that enters
late, and an incomplete set that leaves its node. -/
namespace Sys2Proof.CopyEvents
open Sys2Proof.Machine Sys2Proof.Safety

section
variable {s t u v w : State} {k c j i n : Nat} {x : CopyCmd} {l l' : List Byte}

/-! ### A channel of a memory tile -/

@[simp] theorem getChan_modChan_same (s : State) (k c : Nat) (f : Channel → Channel) :
    getChan (modChan s k c f) k c = f (getChan s k c) := by simp [getChan, modChan]

@[simp] theorem getPair_modChan (s : State) (k c j : Nat) (f : Channel → Channel) : getPair (modChan s k c f) j = getPair s j := rfl

@[simp] theorem getChan_forgetGrains (s : State) (k c i j : Nat) : getChan (forgetGrains s k c) i j = getChan s i j := rfl

@[simp] theorem getChan_enterStream (s : State) (pk core slot : Nat) (f : MKind) (i j : Nat) :
    getChan (enterStream s pk core slot f) i j = getChan s i j := rfl

/-! ### Pieces (R171) -/

theorem exec_copyPiece_off (off : quadRuns s (quadKey k) = false) : exec (.copyPiece k c) s = .next s :=
  congrArg _ (if_neg (ne_true_of_eq_false off))

theorem exec_copyPiece_on (on : quadRuns s (quadKey k) = true) :
    exec (.copyPiece k c) s = .next (movePiece (startChannel s k c) k c) :=
  congrArg _ (if_pos on)

/-- A channel that has moved a piece in this cycle moves no other. -/
theorem movePiece_moved (moved : (getChan u k c).pieceAt = some u.cycle) : movePiece u k c = u := by
  unfold movePiece
  dsimp only
  split
  · rfl
  · exact if_pos (by simp [moved])

/-- A channel whose command can move a piece. -/
structure Moves (u : State) (k c : Nat) (x : CopyCmd) : Prop where
  active : (getChan u k c).active = some x
  fresh : (getChan u k c).pieceAt ≠ some u.cycle
  noFollow : (getChan u k c).followDue = false
  noStall : (getChan u k c).stalled = none
  noError : (getChan u k c).err = false

/-- The parts of one side of the piece that begins at a channel's next byte. -/
def sourceParts (u : State) (k c : Nat) (x : CopyCmd) (n : Nat) : List (Word × Nat) :=
  descPieces x.desc.src x.desc x.desc.sstrides 64 (getChan u k c).done n
def targetParts (u : State) (k c : Nat) (x : CopyCmd) (n : Nat) : List (Word × Nat) :=
  descPieces x.desc.dst x.desc x.desc.dstrides 64 (getChan u k c).done n

/-- A piece that is read and written whole lands, after the heat of a global source is counted. -/
theorem movePiece_lands (h : Moves u k c x)
    (read : readParts k c x (sourceParts u k c x (pieceLength x.desc (getChan u k c).done)) u = (v, l, none))
    (written : writeParts k c x (targetParts u k c x l.length) l v = (w, .ok l')) :
    movePiece u k c = landPiece (if isLocal x.desc.src = true then w
      else countParts k c (sourceParts u k c x l.length) (getChan u k c).done w) k c x l.length := by
  obtain ⟨active, fresh, follow, stall, error⟩ := h
  have moves : ((getChan u k c).followDue || (getChan u k c).stalled.isSome || (getChan u k c).err ||
      (getChan u k c).pieceAt == some u.cycle) = false := by simp [follow, stall, error, fresh]
  unfold sourceParts at read
  unfold targetParts at written
  simp only [movePiece, active, moves, Bool.false_eq_true, if_false, read, deliverPiece, written]
  rfl

/-- A piece that is not its command's last counts its bytes. -/
theorem landPiece_counts (more : (getChan u k c).done + n < descTotal x.desc) :
    (getChan (landPiece u k c x n) k c).wptr = (getChan u k c).wptr + BitVec.ofNat 64 n ∧
      (getChan (landPiece u k c x n) k c).done = (getChan u k c).done + n := by
  simp only [landPiece, if_pos more, getChan_modChan_same, and_self]

/-! ### The end of an error, and a late follow-on (R172, R175) -/

theorem chanWrite_clears (s : State) (k c : Nat) :
    chanWrite s k (64 * c + 8) 2 = modChan s k c fun ch => { ch with err := false, abortedBy := [] } := by
  have register : (64 * c + 8) % 64 = 8 ∧ (2 : Word).getLsbD 1 = true := ⟨by omega, by decide⟩
  have channel : (64 * c + 8) / 64 = c := by omega
  rw [chanWrite, if_pos register, channel]

/-- What the entry of a follow-on leaves in the channel and in the pair's stream. -/
theorem enterFollowOn_channel (s : State) (k c : Nat) (x : CopyCmd) (f : MKind) (n : Nat) :
    getChan (enterFollowOn s k c x f n) k c = { getChan s k c with
      wptr := (getChan s k c).wptr + BitVec.ofNat 64 n, lastId := x.id, active := none, done := 0, followDue := false
      doneAt := some s.cycle } := by
  simp only [enterFollowOn, completeCopy, getChan_modChan_same, getChan_forgetGrains, getChan_enterStream]
  rfl

theorem enterFollowOn_stream (s : State) (k c : Nat) (x : CopyCmd) (f : MKind) (n : Nat) :
    (getPair (enterFollowOn s k c x f n) (pairKey x.core)).stream = (getPair s (pairKey x.core)).stream ++
      [{ num := (getPair s (pairKey x.core)).entered, core := x.core, slot := x.slot, kind := f }] :=
  StreamForms.stream_enterStream s (pairKey x.core) x.core x.slot f

theorem followOnEnters_enters {f : MKind} (active : (getChan s k c).active = some x) (follow : x.follow = some f)
    (due : (getChan s k c).followDue = true) (on : quadRuns s (quadKey k) = true) (room : streamRoom s (pairKey x.core) = true) :
    followOnEnters s k c = enterFollowOn s k c x f 1 := by
  simp only [followOnEnters, active, follow, due, on, room, Bool.and_self, if_true]

/-! ### Combining nodes (R176) -/

/-- Commands that leave a node for their channels leave the sets that it holds. -/
theorem held_drainNode (s : State) (q : Nat) : (getQuad (drainNode s q) q).held = (getQuad s q).held := by
  unfold drainNode
  simp only
  split
  · rfl
  · rw [modQuad_eq, getQuad_setQuad_same]
    refine congrArg (fun m : AMap Quad => (amGet m q {}).held) ?_
    refine List.foldlRecOn (motive := fun r : State × List (Word × CopyCmd) => r.1.quads = s.quads) _ _ rfl fun r same e _ => ?_
    split
    · split <;> exact same
    · exact same

theorem designator_releaseSet {q : Quad} {h x : HeldSet} (hx : x ∈ (releaseSet q h).held) : x.designator ≠ h.designator := by
  simpa using (List.mem_filter.1 hx).2

end

/-- Settles O47: a channel's cycle by what stands in the way of a piece, the rest by what each step leaves in the channel or the node. -/
theorem copyEvents : Obligations.CopyEvents := by
  intro s k c
  refine ⟨exec_copyPiece_off, fun on moved => ?still, ?moves, ⟨chanWrite s k (64 * c + 8) 2, rfl, ?cleared⟩,
    fun x f active follow due on room => ?enters, fun quad b h found overdue => ?leaves⟩
  case still => rw [exec_copyPiece_on on, movePiece_moved moved]
  case moves =>
    intro x v w l l' u ch n on fresh active follow stall error read written y
    have piece := movePiece_lands ⟨active, fresh, follow, stall, error⟩ read written
    exact ⟨(exec_copyPiece_on on).trans (congrArg Host.Outcome.next piece), landPiece_counts⟩
  case cleared =>
    rw [chanWrite_clears, getChan_modChan_same]
    exact ⟨rfl, rfl⟩
  case enters =>
    refine ⟨_, congrArg Host.Outcome.next (followOnEnters_enters active follow due on room), ?_⟩
    rw [enterFollowOn_channel]
    exact ⟨rfl, rfl, rfl, enterFollowOn_stream s k c x f 1⟩
  case leaves =>
    have named : h.designator = b := by simpa using List.find?_some found
    refine ⟨drainNode (modQuad s quad fun q => releaseSet q h) quad, ?_, fun x hx => ?_⟩
    · refine congrArg Host.Outcome.next ?_
      simp only [found, if_pos overdue]
    · rw [held_drainNode, modQuad_eq, getQuad_setQuad_same] at hx
      exact named ▸ designator_releaseSet hx

end Sys2Proof.CopyEvents
end

section
/-! Every step keeps the canonical form of global memory (R180, R186): what the form survives, and how an instruction's work and an
outcome carry it. A lemma is named after the function of the model that keeps the form, so that a chain of them reads like the model. -/
namespace Sys2Proof.CanonicalMemory
open Sys2Proof.Machine Sys2Proof.Safety
set_option Elab.async false

/-- Global memory has its canonical form. -/
def Canonical (s : State) : Prop := Memory.wf s.gmem.cells = true

/-- The states that an operation may give have it. -/
def Canonical.Any (o : Option State) : Prop := ∀ t, o = some t → Canonical t
def Canonical.AnyFst {α : Type} (o : Option (State × α)) : Prop := ∀ r, o = some r → Canonical r.1

/-- The state that an outcome reaches, if it reaches one, has it. -/
def Answers (o : Host.Outcome State Fault Refusal) : Prop := ∀ t, o = .next t → Canonical t

/-- An instruction's work, however it ends: what it leaves has the form, and a trap or a wait leaves it where it was. -/
def KeepsHalt : Halt → Prop
  | .trap _ _ keep => ∀ s, Canonical s → Canonical (keep s)
  | .wait _ keep => ∀ s, Canonical s → Canonical (keep s)

def KeepsEnd {α : Type} : Except Halt (α × State) → Prop
  | .ok p => Canonical p.2
  | .error e => KeepsHalt e

def Keeps {α : Type} (m : M α) : Prop := ∀ s, Canonical s → KeepsEnd (m s)

/-- Work of the command processor keeps it. -/
def KeepsRd {α : Type} (m : Rd α) : Prop := ∀ s, Canonical s → Canonical (m s).2

variable {α β : Type} {s t : State}

/-! ### States -/

/-- The form looks at global memory alone. -/
theorem Canonical.elsewhere (h : Canonical s) (e : t.gmem = s.gmem := by rfl) : Canonical t := by
  rw [Canonical, e]
  exact h

theorem Canonical.stored {g a l} (h : Canonical s) : Canonical { s with gmem := memStore g s.gmem a l } := wf_memStore g a l h

theorem Canonical.poisoned {k} (h : Canonical s) : Canonical { s with gmem := memPoison s.gmem k } := wf_memPoison k h

theorem Canonical.cycleWith {n} (h : Canonical s) : Canonical { s with cycle := n } := h
theorem Canonical.sectorWith {x} (h : Canonical s) : Canonical { s with sector := x } := h
theorem Canonical.netbndWith {n} (h : Canonical s) : Canonical { s with netbnd := n } := h
theorem Canonical.netWith {l} (h : Canonical s) : Canonical { s with net := l } := h
theorem Canonical.partsWith {m} (h : Canonical s) : Canonical { s with parts := m } := h
theorem Canonical.chargedWith {w m} (h : Canonical s) : Canonical { s with overhead := w, parts := m } := h

theorem Canonical.of_eq {r : State × α} {a : α} (h : Canonical r.1) (e : r = (t, a)) : Canonical t := by
  subst e
  exact h

theorem Canonical.of_eqSnd {r : α × State} {a : α} (h : Canonical r.2) (e : r = (a, t)) : Canonical t := by
  subst e
  exact h

section
variable {c : Prop} {_ : Decidable c}

theorem Canonical.ite (hs : Canonical s) (ht : Canonical t) : Canonical (if c then s else t) := by
  split
  · exact hs
  · exact ht

theorem Canonical.iteFst {r p : State × α} (hr : Canonical r.1) (hp : Canonical p.1) : Canonical (if c then r else p).1 := by
  split
  · exact hr
  · exact hp

theorem Canonical.iteSnd {r p : α × State} (hr : Canonical r.2) (hp : Canonical p.2) : Canonical (if c then r else p).2 := by
  split
  · exact hr
  · exact hp

theorem Canonical.Any.ite {o p : Option State} (ho : Canonical.Any o) (hp : Canonical.Any p) : Canonical.Any (if c then o else p) := by
  split
  · exact ho
  · exact hp

theorem Canonical.AnyFst.ite {o p : Option (State × α)} (ho : Canonical.AnyFst o) (hp : Canonical.AnyFst p) :
    Canonical.AnyFst (if c then o else p) := by
  split
  · exact ho
  · exact hp

theorem Answers.ite {o p : Host.Outcome State Fault Refusal} (ho : Answers o) (hp : Answers p) : Answers (if c then o else p) := by
  split
  · exact ho
  · exact hp

theorem Keeps.ite {m n : M α} (hm : Keeps m) (hn : Keeps n) : Keeps (if c then m else n) := by
  split
  · exact hm
  · exact hn

theorem KeepsRd.ite {m n : Rd α} (hm : KeepsRd m) (hn : KeepsRd n) : KeepsRd (if c then m else n) := by
  split
  · exact hm
  · exact hn

end

theorem Canonical.foldl {f : State → β → State} {l : List β} (h : Canonical s) (hf : ∀ s x, Canonical s → Canonical (f s x)) :
    Canonical (l.foldl f s) :=
  List.foldlRecOn l f h fun s hs x _ => hf s x hs

theorem Canonical.foldlFst {f : State × α → β → State × α} {l : List β} {r : State × α} (h : Canonical r.1)
    (hf : ∀ r x, Canonical r.1 → Canonical (f r x).1) : Canonical (l.foldl f r).1 :=
  List.foldlRecOn (motive := fun r => Canonical r.1) l f h fun s hs x _ => hf s x hs

theorem Canonical.elim {o : Option β} {f : β → State} (h : Canonical s) (hf : ∀ x, Canonical (f x)) : Canonical (o.elim s f) := by
  cases o with
  | none => exact h
  | some x => exact hf x

theorem Canonical.Any.none : Canonical.Any none := fun _ e => nomatch e
theorem Canonical.Any.some (h : Canonical s) : Canonical.Any (some s) := fun _ e => Option.some.inj e ▸ h
theorem Canonical.AnyFst.none : Canonical.AnyFst (none : Option (State × α)) := fun _ e => nomatch e
theorem Canonical.AnyFst.some {r : State × α} (h : Canonical r.1) : Canonical.AnyFst (some r) := fun _ e => Option.some.inj e ▸ h

theorem Canonical.Any.eq {o : Option State} (ho : Canonical.Any o) (e : o = Option.some s) : Canonical s := ho s e
theorem Canonical.AnyFst.eq {o : Option (State × α)} {r : State × α} (ho : Canonical.AnyFst o)
  (e : o = Option.some r) : Canonical r.1 := ho r e

theorem Canonical.Any.getD {o : Option State} (ho : Canonical.Any o) (h : Canonical s) : Canonical (o.getD s) := by
  cases o with
  | none => exact h
  | some t => exact ho t rfl

theorem Canonical.AnyFst.getD {o : Option (State × α)} {r : State × α} (ho : Canonical.AnyFst o) (h : Canonical r.1) :
    Canonical (o.getD r).1 := by
  cases o with
  | none => exact h
  | some t => exact ho t rfl

theorem Canonical.AnyFst.map {o : Option β} {f : β → State × α} (hf : ∀ x, Canonical (f x).1) : Canonical.AnyFst (o.map f) := by
  cases o with
  | none => exact .none
  | some x => exact .some (hf x)

/-! ### Outcomes -/

theorem Answers.next (h : Canonical s) : Answers (.next s) := fun _ e => by cases e; exact h
theorem Answers.fault {r : Fault} : Answers (.fault r) := fun _ e => nomatch e
theorem Answers.refused {r : Refusal} : Answers (.refused r) := fun _ e => nomatch e

/-! ### An instruction's work -/

theorem Keeps.ok_run {m : M α} {a : α} (hm : Keeps m) (h : Canonical s) (e : m s = .ok (a, t)) : Canonical t :=
  show KeepsEnd (.ok (a, t)) from e ▸ hm s h

theorem Keeps.error_run {m : M α} {x : Halt} (hm : Keeps m) (h : Canonical s) (e : m s = .error x) : KeepsHalt x :=
  show KeepsEnd (.error x : Except Halt (α × State)) from e ▸ hm s h

theorem Keeps.pure {a : α} : Keeps (pure a : M α) := fun _ h => h

theorem Keeps.bind {m : M α} {f : α → M β} (hm : Keeps m) (hf : ∀ a, Keeps (f a)) : Keeps (m >>= f) := by
  intro s h
  cases r : m s with
  | ok x =>
    rw [m_bind_ok (a := x.1) (t := x.2) r]
    exact hf x.1 x.2 (hm.ok_run h r)
  | error e =>
    rw [m_bind_error r]
    exact hm.error_run h r

/-- What work reads of the state is a state of the form. -/
theorem Keeps.unless {c : Prop} {_ : Decidable c} {m : M Unit} {n : M α} (hm : Keeps m) (hn : Keeps n) :
    Keeps (if c then n else m >>= fun _ => n) :=
  .ite hn (.bind hm fun _ => hn)

theorem Keeps.getS_bind {f : State → M β} (hf : ∀ s, Canonical s → Keeps (f s)) : Keeps (getS >>= f) := by
  intro s h
  rw [m_bind_run]
  exact hf s h s h

/-! ### The command processor's reads -/

theorem KeepsRd.pure {a : α} : KeepsRd (pure a : Rd α) := fun _ h => h

theorem KeepsRd.bind {m : Rd α} {f : α → Rd β} (hm : KeepsRd m) (hf : ∀ a, KeepsRd (f a)) : KeepsRd (m >>= f) := by
  intro s h
  have first := hm s h
  simp only [Bind.bind, OptionT.bind, OptionT.mk, StateT.bind]
  generalize m s = p at first ⊢
  obtain ⟨_ | a, u⟩ := p
  · exact first
  · exact hf a u first


/-! ### Ops -/

theorem Canonical.setCore {s k c} (h : Canonical s) : Canonical (setCore s k c) :=
  h.elsewhere

theorem Canonical.modCore {s k f} (h : Canonical s) : Canonical (modCore s k f) :=
  h.elsewhere

theorem Canonical.setThread {s t x} (h : Canonical s) : Canonical (setThread s t x) :=
  h.elsewhere

theorem Canonical.modThread {s t f} (h : Canonical s) : Canonical (modThread s t f) :=
  h.elsewhere

theorem Canonical.setTile {s k x} (h : Canonical s) : Canonical (setTile s k x) :=
  h.elsewhere

theorem Canonical.modTile {s k f} (h : Canonical s) : Canonical (modTile s k f) :=
  h.elsewhere

theorem Canonical.setSwitch {s k x} (h : Canonical s) : Canonical (setSwitch s k x) :=
  h.elsewhere

theorem Canonical.modSwitch {s k f} (h : Canonical s) : Canonical (modSwitch s k f) :=
  h.elsewhere

theorem Canonical.setPair {s k x} (h : Canonical s) : Canonical (setPair s k x) :=
  h.elsewhere

theorem Canonical.modPair {s k f} (h : Canonical s) : Canonical (modPair s k f) :=
  h.elsewhere

theorem Canonical.setQuad {s k x} (h : Canonical s) : Canonical (setQuad s k x) :=
  h.elsewhere

theorem Canonical.modQuad {s k f} (h : Canonical s) : Canonical (modQuad s k f) :=
  h.elsewhere

theorem Canonical.modPart {s p f} (h : Canonical s) : Canonical (modPart s p f) :=
  h.elsewhere

theorem Canonical.setRegion {s k r} (h : Canonical s) : Canonical (setRegion s k r) :=
  h.elsewhere

theorem Canonical.modRegion {s k f} (h : Canonical s) : Canonical (modRegion s k f) := by
  unfold Machine.modRegion
  split
  · exact h.setRegion
  · exact h

theorem Canonical.modLltc {s d f} (h : Canonical s) : Canonical (modLltc s d f) :=
  h.elsewhere

theorem Canonical.modSlice {s k f} (h : Canonical s) : Canonical (modSlice s k f) :=
  h.elsewhere

theorem Canonical.modEngine {s k f} (h : Canonical s) : Canonical (modEngine s k f) :=
  h.elsewhere

theorem Canonical.setTSlot {s e n x} (h : Canonical s) : Canonical (setTSlot s e n x) :=
  h.elsewhere

theorem Canonical.setQueue {s p q x} (h : Canonical s) : Canonical (setQueue s p q x) :=
  h.elsewhere

theorem Canonical.modQueue {s p q f} (h : Canonical s) : Canonical (modQueue s p q f) :=
  h.elsewhere

theorem Canonical.freshCount {s} (h : Canonical s) : Canonical (freshCount s).2 := h.elsewhere

theorem Canonical.dissolveRope {s t} (h : Canonical s) : Canonical (dissolveRope s t) :=
  .ite (h.foldl (fun _ _ h' => h'.modThread)) h

theorem Canonical.postMail {s part service l} (h : Canonical s) : Canonical (postMail s part service l) :=
  h.elsewhere

theorem Canonical.postEngineError {s p cause addr pos inst func} (h : Canonical s) : Canonical
  (postEngineError s p cause addr pos inst func) :=
  h.elsewhere

theorem Canonical.raiseVector {s p func vector} (h : Canonical s) : Canonical (raiseVector s p func vector) :=
  h.elsewhere

theorem Keeps.trapM {cause val} : Keeps (trapM cause val : M α) := fun _ _ _ h => h

theorem Keeps.trapKeepM {cause val} {keep : State → State} (hkeep : ∀ s, Canonical s → Canonical (keep s)) :
    Keeps (trapKeepM cause val keep : M α) := fun _ _ => hkeep

theorem Keeps.waitM {w} : Keeps (waitM w : M α) := fun _ _ _ h => h

theorem Keeps.waitKeepM {w} {keep : State → State} (hkeep : ∀ s, Canonical s → Canonical (keep s)) :
    Keeps (waitKeepM w keep : M α) := fun _ _ => hkeep

theorem Canonical.threadFault {s t dbl} (h : Canonical s) : Canonical (threadFault s t dbl) :=
  h.elsewhere

theorem Canonical.takeTrap {s t cause val} (h : Canonical s) : Canonical (takeTrap s t cause val) :=
  .ite h.dissolveRope.setThread.threadFault (.ite h.dissolveRope.setThread (.ite h.dissolveRope.elsewhere
    (.ite h.dissolveRope.setThread h.dissolveRope.setThread.threadFault)))

theorem Canonical.retire {s t pc} (h : Canonical s) : Canonical (retire s t pc) :=
  h.elsewhere

theorem Canonical.releasePorts {s t x} (h : Canonical s) : Canonical (releasePorts s t x) := by
  unfold Machine.releasePorts
  split
  · exact h
  · exact h.modCore

theorem Canonical.blockThread {s t w} (h : Canonical s) : Canonical (blockThread s t w) :=
  h.elsewhere

theorem Answers.finish {len s} {m : M (Option Word)} (hm : Keeps m) (h : Canonical s) : Answers (finish len m s) := by
  unfold Machine.finish
  split <;> rename_i e
  · exact .next (hm.ok_run h e).releasePorts.retire
  · exact .next (hm.error_run h e s h).takeTrap
  · exact .next (hm.error_run h e s h).blockThread

theorem Answers.run4 {m : M Unit} {s} (hm : Keeps m) (h : Canonical s) : Answers (run4 m s) :=
  .finish (.bind hm fun _ => .pure) h

theorem Answers.run8 {m : M Unit} {s} (hm : Keeps m) (h : Canonical s) : Answers (run8 m s) :=
  .finish (.bind hm fun _ => .pure) h

theorem Answers.runJump {m : M (Option Word)} {s} (hm : Keeps m) (h : Canonical s) : Answers (runJump m s) :=
  .finish hm h

theorem Canonical.markIssued {s t path} (h : Canonical s) : Canonical (markIssued s t path) :=
  h.elsewhere

theorem Keeps.self : Keeps self := fun _ h => h
theorem Keeps.modSelf {f} : Keeps (modSelf f) := fun _ h => Canonical.modThread h
theorem Keeps.selfCore : Keeps selfCore := fun _ h => h
theorem Keeps.getS : Keeps getS := fun _ h => h
theorem Keeps.modS {f : State → State} (hf : ∀ s, Canonical s → Canonical (f s)) : Keeps (modS f) := hf
theorem Keeps.requireSys {i} : Keeps (requireSys i) := .bind .self fun _ => .ite .pure .trapM
theorem Keeps.requireService {i} : Keeps (requireService i) := .bind .selfCore fun _ => .ite .requireSys .trapM
theorem Keeps.checkTarget {t} : Keeps (checkTarget t) := .ite .trapM (.ite .trapM .pure)

theorem Keeps.returnFromTrap : Keeps returnFromTrap :=
  .bind .self fun _ => .bind .checkTarget fun _ => .bind .getS fun _ => .bind .selfCore fun _ => .bind .modSelf fun _ => .pure

/-! ### Operands -/

theorem Keeps.needPorts {gs vs gd vd} : Keeps (needPorts gs vs gd vd) :=
  .bind .getS fun _ => by
    split
    · exact .waitM
    · split
      · exact .waitM
      · exact .pure

theorem Canonical.holdDirs {dirs s} (h : Canonical s) : Canonical (holdDirs dirs s) := by
  unfold Machine.holdDirs
  split
  · exact h
  · exact h.modCore

theorem Keeps.withPorts {gs vs gd vd} {m : M α} (hm : Keeps m) : Keeps (withPorts gs vs gd vd m) := by
  intro s h
  unfold Machine.withPorts
  split <;> rename_i e
  · exact Keeps.error_run .needPorts h e
  have k := Keeps.ok_run .needPorts h e
  split <;> rename_i e
  · exact hm.ok_run k e
  · exact fun u hu => (hm.error_run k e u hu).holdDirs
  · exact fun u hu => (hm.error_run k e u hu).holdDirs

theorem Keeps.popPort {dir} : Keeps (popPort dir) :=
  .bind .getS fun _ => by
    dsimp only
    split
    · exact .waitM
    · exact .bind (.modS (fun _ h' => h'.modSwitch)) fun _ => .pure

theorem Keeps.pushPort {dir w} : Keeps (pushPort dir w) := .bind .getS fun _ => .ite (.modS (fun _ h' => h'.modSwitch)) .waitM
theorem Keeps.readG {r} : Keeps (readG r) := .ite (.bind .popPort fun _ => .pure) (.bind .self fun _ => .pure)
theorem Keeps.writeG {r v} : Keeps (writeG r v) := .ite .pushPort .modSelf
theorem Keeps.readK {k} : Keeps (readK k) := .bind .self fun _ => .pure
theorem Keeps.writeK {k v} : Keeps (writeK k v) := .modSelf
theorem Keeps.tagTrap {α : Type} {r expected found} : Keeps (tagTrap r expected found : M α) := .trapM

theorem Keeps.readV {r} : Keeps (readV r) :=
  .ite (.bind .popPort fun _ => .bind .popPort fun _ => .ite .pure .tagTrap) (.bind .self fun _ => .pure)

theorem Keeps.writeV {r v} : Keeps (writeV r v) := .ite (.bind .pushPort fun _ => .pushPort) .modSelf
theorem Keeps.oldBits {r} : Keeps (oldBits r) := .bind .self fun _ => .pure
theorem Keeps.requireClass {r v ok} : Keeps (requireClass r v ok) := .ite .pure .tagTrap
theorem Keeps.requireTag {r v t} : Keeps (requireTag r v t) := .ite .pure .tagTrap
theorem Keeps.roundingOf {rm} : Keeps (roundingOf rm) := .bind .self fun _ => .pure
theorem Keeps.orFlags {f} : Keeps (orFlags f) := .modSelf
theorem Keeps.selfCodes : Keeps selfCodes := .bind .getS fun _ => .pure

theorem Keeps.variableLatency : Keeps variableLatency :=
  .bind .getS fun _ => .bind .self fun _ => by
    split
    · exact .pure
    · exact .ite .waitM .pure

/-! ### Registers -/

theorem Canonical.setQueueOvf {s p q} (h : Canonical s) : Canonical (setQueueOvf s p q) :=
  h.elsewhere

theorem Canonical.setQueueErr {s p q} (h : Canonical s) : Canonical (setQueueErr s p q) :=
  h.elsewhere

theorem Canonical.noteQuiet {s pq} (h : Canonical s) : Canonical (noteQuiet s pq) := .ite h.elsewhere h

theorem Canonical.tailWrite {s p q v} (h : Canonical s) : Canonical (tailWrite s p q v) :=
  .ite (Canonical.ite h h.noteQuiet |>.setQueueOvf) (Canonical.ite h h.noteQuiet |>.setQueue)

theorem Canonical.qctlWrite {s p q v} (h : Canonical s) : Canonical (qctlWrite s p q v) :=
  .ite h (.ite h.modQueue h.modQueue)

theorem Canonical.qbaseWrite {s p q v} (h : Canonical s) : Canonical (qbaseWrite s p q v) := .ite h h.modQueue

theorem Canonical.qstatWrite {s p q v} (h : Canonical s) : Canonical (qstatWrite s p q v) :=
  h.elsewhere

theorem Canonical.queueWrite {s p q off v} (h : Canonical s) : Canonical (queueWrite s p q off v) := by
  unfold Machine.queueWrite
  split
  · exact h.qbaseWrite
  · exact h.qctlWrite
  · exact h.tailWrite
  · exact h.qstatWrite
  · exact h

theorem Canonical.offreqWrite {s p v} (h : Canonical s) : Canonical (offreqWrite s p v) :=
  .ite h (.ite h.modPart h.modPart)

theorem Canonical.setQueueEn {s pq on} (h : Canonical s) : Canonical (setQueueEn s pq on) :=
  h.elsewhere

theorem Canonical.mergeWrite {s p v} (h : Canonical s) : Canonical (mergeWrite s p v) :=
  .ite h (.ite h.modPart (.ite h.modPart (h.foldl (fun _ _ h' => h'.setQueueEn) |>.modPart)))

theorem Canonical.requestPreempt {s rk area} (h : Canonical s) : Canonical (requestPreempt s rk area).1 := by
  unfold Machine.requestPreempt
  split
  · exact h
  · exact .iteFst h (.iteFst h h.setRegion)

theorem Canonical.commandPreempt {tiers s rk} (h : Canonical s) : Canonical (commandPreempt tiers s rk) := by
  unfold Machine.commandPreempt
  split
  · exact h
  · split
    · exact h.requestPreempt.of_eq ‹_› |>.modRegion
    · exact h.requestPreempt.of_eq ‹_›

theorem Canonical.haltLaunches {before s p} (h : Canonical s) : Canonical (haltLaunches before s p) :=
  .ite (h.foldl (fun _ _ h' => h'.commandPreempt)) h

theorem Canonical.dbgctlWrite {s p v} (h : Canonical s) : Canonical (dbgctlWrite s p v) := h.modPart.haltLaunches

theorem Canonical.ctlWrite {s p off v} (h : Canonical s) : Canonical (ctlWrite s p off v) :=
  .ite h.modPart (.ite (.ite h h.modPart) (.ite h.modPart (.ite (.ite h h.modPart) (.ite h.modPart
    (.ite h.dbgctlWrite (.ite h.mergeWrite (.ite h.offreqWrite (.ite h.queueWrite h))))))))

/-! ### Physical -/

theorem Canonical.setSectorRecord {s sector l r} (h : Canonical s) : Canonical (setSectorRecord s sector l r) :=
  h.elsewhere

theorem Canonical.bumpSector {s p st c n} (h : Canonical s) : Canonical (bumpSector s p st c n) :=
  h.elsewhere

theorem Canonical.mendLines {s first n} (h : Canonical s) : Canonical (mendLines s first n) :=
  h.elsewhere

theorem Canonical.carryErrors {s q tag} (h : Canonical s) : Canonical (carryErrors s q tag) :=
  h.foldl fun _ _ h => .ite h.poisoned h

theorem Canonical.sectorAccess {s p pa write} (h : Canonical s) : Canonical (sectorAccess s p pa write) := by
  unfold Machine.sectorAccess
  split
  · exact h
  dsimp only
  split
  · exact h
  split
  · split
    · exact (Canonical.ite (Canonical.ite h.mendLines.poisoned h).setSectorRecord (.ite h.mendLines.poisoned h)).bumpSector
    · exact h.mendLines.setSectorRecord.bumpSector
  · have k := h.carryErrors (q := sectorPos s p pa) (tag := fieldOf (sectorRecord s (sectorPos s p pa).sector
      (sectorPos s p pa).lineNo) 7 0)
    refine .ite ?_ (.bumpSector ?_) <;> exact (k.mendLines.foldl fun _ _ h => h.setSectorRecord).setSectorRecord.bumpSector

theorem Canonical.serveWrites {s sel} (h : Canonical s) : Canonical (serveWrites s sel) := by
  unfold Machine.serveWrites
  split
  · exact h
  · exact h.elsewhere.foldl (fun _ _ h' => h'.sectorAccess)

theorem Canonical.tierAccess {s p pa write} (h : Canonical s) : Canonical (tierAccess s p pa write) := by
  unfold Machine.tierAccess
  split
  · exact .ite h (.ite h.serveWrites.elsewhere h.serveWrites.sectorAccess)
  · exact h

theorem Canonical.gravityCount {s w pa} (h : Canonical s) : Canonical (gravityCount s w pa) := .ite h.modSlice h
theorem Canonical.recallOwner {s w line} (h : Canonical s) : Canonical (recallOwner s w line) := .ite h.elsewhere h

theorem Canonical.wakeThread {st s t} (h : Canonical s) : Canonical (wakeThread st s t) :=
  h.elsewhere

theorem Canonical.wakeMonitors {s p watched at_} (h : Canonical s) : Canonical (wakeMonitors s p watched at_) := by
  unfold Machine.wakeMonitors
  dsimp only
  split
  · exact h
  · exact h.modSlice.foldl (fun _ _ h' => h'.foldl (fun _ _ h2 => h2.wakeThread))

theorem Canonical.dropMonitors {s sel} (h : Canonical s) : Canonical (dropMonitors s sel) :=
  h.foldl (fun _ _ h' => by
    dsimp only
    split
    · exact h'
    · exact h'.modSlice.foldl (fun _ _ h2 => h2.foldl (fun _ _ h3 => h3.wakeThread)))

theorem Canonical.leaveMonitor {s p pa v t} (h : Canonical s) : Canonical (leaveMonitor s p pa v t) :=
  h.elsewhere

theorem Canonical.controlWrite {s p off l skip} (h : Canonical s) : Canonical (controlWrite s p off l skip) :=
  .ite (h.foldl (fun _ _ h' => h'.ctlWrite)) h

theorem Canonical.lineRead {s w pa n} (h : Canonical s) : Canonical (lineRead s w pa n).1 := by
  unfold Machine.lineRead
  split
  · exact h
  · exact .iteFst h h.recallOwner.tierAccess.gravityCount

theorem Canonical.postSliceError {s w pa} (h : Canonical s) : Canonical (postSliceError s w pa) :=
  h.elsewhere

theorem Canonical.linePut {s w watched pa l} (h : Canonical s) : Canonical (linePut s w watched pa l) :=
  have k := h.recallOwner.tierAccess.stored
  (Canonical.ite k.elsewhere k).wakeMonitors

theorem Canonical.lineBack {s w pa l} (h : Canonical s) : Canonical (lineBack s w pa l) := .ite h.postSliceError h.linePut

theorem Canonical.lineWriteAs {s w watched pa l} (h : Canonical s) : Canonical (lineWriteAs s w watched pa l) := by
  unfold Machine.lineWriteAs
  split
  · exact h.controlWrite
  · exact .ite h.postSliceError (.ite h h.linePut)

theorem Canonical.lineWrite {s w pa l} (h : Canonical s) : Canonical (lineWrite s w pa l) := h.lineWriteAs

theorem Canonical.moveViews {s src dst} (h : Canonical s) : Canonical (moveViews s src dst) :=
  h.elsewhere

theorem Canonical.poisonLine {s k} (h : Canonical s) : Canonical (poisonLine s k) := h.poisoned.elsewhere
theorem Canonical.returnViews {x s} (h : Canonical s) : Canonical (returnViews x s) := h.foldl (fun _ _ h' => h'.moveViews)
theorem Canonical.abortSlot {s e n cause} (h : Canonical s) : Canonical (abortSlot s e n cause) := h.returnViews.setTSlot

theorem Canonical.noticeError {s p pa moving} (h : Canonical s) : Canonical (noticeError s p pa moving) :=
  .ite (by
    split
    · exact .ite h.abortSlot h
    · exact h) h

theorem Canonical.noticeErrors {s p pa n moving} (h : Canonical s) : Canonical (noticeErrors s p pa n moving) :=
  .ite (h.foldl (fun _ _ h' => h'.noticeError)) h

theorem Canonical.cohRead {s w pa n moving} (h : Canonical s) : Canonical (cohRead s w pa n moving).1 := h.noticeError.lineRead

theorem Canonical.cohWrite {s w pa moving l} (h : Canonical s) : Canonical (cohWrite s w pa moving l) := by
  unfold Machine.cohWrite
  dsimp only
  split
  · exact h.noticeError.lineWrite
  · exact h.noticeError.lineWriteAs.setTSlot

theorem Canonical.cohWriteAll {s w pa moving l} (h : Canonical s) : Canonical (cohWriteAll s w pa moving l) :=
  h.foldl (fun _ _ h' => h'.cohWrite)

theorem Canonical.cohReadAll {s w pa n moving} (h : Canonical s) : Canonical (cohReadAll s w pa n moving).1 :=
  h.foldlFst (fun _ _ h' => by
    split
    · exact h'
    · split <;> exact h'.cohRead.of_eq ‹_›)

theorem Canonical.performPiece {s w pa moving skip first l} (h : Canonical s) : Canonical (performPiece s w pa moving skip first l) :=
  .ite h.noticeError.cohWrite (.ite h.noticeError (.ite h.noticeError.cohWrite.poisoned h.noticeError.cohWrite))

theorem Canonical.performStore {s w p} (h : Canonical s) : Canonical (performStore s w p) :=
  h.foldl (fun _ _ h' => h'.performPiece)

theorem Canonical.performRed {s w r} (h : Canonical s) : Canonical (performRed s w r) := by
  unfold Machine.performRed
  split
  · exact h.cohRead.of_eq ‹_› |>.postEngineError
  · exact h.cohRead.of_eq ‹_› |>.cohWrite

theorem Canonical.performHeld {s t x} (h : Canonical s) : Canonical (performHeld s t x) := by
  unfold Machine.performHeld
  split
  · exact h.modThread.performStore
  · exact h.modThread.performRed

theorem Canonical.forwardUpTo {s die line place} (h : Canonical s) : Canonical (forwardUpTo s die line place) := by
  unfold Machine.forwardUpTo
  split
  · exact h
  · exact h.foldl (fun _ _ h' => h'.performHeld)

theorem Canonical.forwardGate {s die line} (h : Canonical s) : Canonical (forwardGate s die line) := h.forwardUpTo

theorem Canonical.forwardRange {s die pa n place} (h : Canonical s) : Canonical (forwardRange s die pa n place) :=
  h.foldl (fun _ _ h' => h'.forwardUpTo)

theorem Canonical.forwardGates {s die pa n} (h : Canonical s) : Canonical (forwardGates s die pa n) := h.forwardRange
theorem Canonical.performInOrder {s t p} (h : Canonical s) : Canonical (performInOrder s t p) := h.forwardRange.performStore
theorem Canonical.performRedInOrder {s t r} (h : Canonical s) : Canonical (performRedInOrder s t r) := h.forwardUpTo.performRed

theorem Canonical.engineRead {s w pa n moving} (h : Canonical s) : Canonical (engineRead s w pa n moving).1 :=
  h.forwardGates.cohReadAll

theorem Canonical.engineWrite {s w pa moving l} (h : Canonical s) : Canonical (engineWrite s w pa moving l) :=
  h.forwardGates.cohWriteAll.serveWrites

theorem Canonical.tableRead {s w pa n} (h : Canonical s) : Canonical (tableRead s w pa n).1 := h.forwardGates.lineRead
theorem Canonical.tableWrite {s w pa l} (h : Canonical s) : Canonical (tableWrite s w pa l) := h.forwardGates.lineWrite

theorem Canonical.performStores {s t sel} (h : Canonical s) : Canonical (performStores s t sel) := by
  unfold Machine.performStores
  dsimp only
  split
  · exact h
  · exact h.setThread.foldl (fun _ _ h' => h'.performInOrder)

theorem Canonical.performReds {s t sel} (h : Canonical s) : Canonical (performReds s t sel) := by
  unfold Machine.performReds
  dsimp only
  split
  · exact h
  · exact h.setThread.foldl (fun _ _ h' => h'.performRedInOrder)

theorem Canonical.performAll {s t} (h : Canonical s) : Canonical (performAll s t) := h.performStores.performReds
theorem Canonical.performFirst {s t p} (h : Canonical s) : Canonical (performFirst s t p) := h.modThread.performInOrder
theorem Canonical.reachDie {t s p} (h : Canonical s) : Canonical (reachDie t s p) := .ite h.performFirst h.elsewhere
theorem Canonical.reachAll {s t} (h : Canonical s) : Canonical (reachAll s t) := h.performReds.foldl (fun _ _ h' => h'.reachDie)

theorem Canonical.takeBoundary {s t} (h : Canonical s) : Canonical (takeBoundary s t) :=
  h.elsewhere

/-! ### Translate -/

theorem Canonical.swapEntry {s w addr new} (h : Canonical s) : Canonical (swapEntry s w addr new) := h.tierAccess.lineWrite

theorem Canonical.touchLeaf {s w addr e write} (h : Canonical s) : Canonical (touchLeaf s w addr e write) :=
  .ite h h.swapEntry

theorem Canonical.readGroup {s w base} (h : Canonical s) : Canonical (readGroup s w base).1 := by
  unfold Machine.readGroup
  split
  · exact h.tableRead.of_eq ‹_›
  · rename_i e
    have h2 := h.tableRead.of_eq e
    split <;> exact h2.tableRead.of_eq ‹_›

theorem Canonical.touchGroup {s w base l write} (h : Canonical s) : Canonical (touchGroup s w base l write) :=
  h.foldl (fun _ _ h' => .ite h' h'.tierAccess.lineWrite)

theorem Canonical.finishLeaf {s r level addr e} (h : Canonical s) : Canonical (finishLeaf s r level addr e).1 :=
  .iteFst (by
    dsimp only
    split
    · exact h.readGroup.of_eq ‹_› |>.touchLeaf
    · exact .iteFst (h.readGroup.of_eq ‹_› |>.touchGroup) (h.readGroup.of_eq ‹_› |>.touchLeaf)) h.touchLeaf

theorem Canonical.walkFrom {r n s table path} (h : Canonical s) : Canonical (walkFrom r n s table path).1 := by
  induction n generalizing s table path with
  | zero => exact h
  | succ n ih =>
    unfold Machine.walkFrom
    dsimp only
    split
    · exact h.tableRead.of_eq ‹_›
    next e =>
    have k := h.tableRead.of_eq e
    split
    · exact k
    split
    · exact k
    split
    · split
      · exact k
      · exact k.finishLeaf
    · exact ih k

theorem Canonical.walk {s r cache} (h : Canonical s) : Canonical (walk s r cache).1 :=
  .iteFst h (by
    split <;> exact h.walkFrom)

theorem Canonical.fillL1 {s core fetch e} (h : Canonical s) : Canonical (fillL1 s core fetch e) :=
  h.elsewhere

theorem Canonical.fillL2 {s quad e} (h : Canonical s) : Canonical (fillL2 s quad e) :=
  h.elsewhere

theorem Canonical.fillLltc {s die e} (h : Canonical s) : Canonical (fillLltc s die e) := .ite h.modLltc h

theorem Canonical.fillWalkCache {s quad path} (h : Canonical s) : Canonical (fillWalkCache s quad path) :=
  h.elsewhere

theorem Canonical.fillFromLltc {s die quad e} {near : State → State} (h : Canonical s)
  (hnear : ∀ s0, Canonical s0 → Canonical (near s0)) : Canonical (fillFromLltc s die quad e near) :=
  .ite h.fillLltc (hnear _ h.fillLltc.fillL2)

theorem Canonical.fillFromWalk {s die quad e} {near : State → State} (h : Canonical s)
  (hnear : ∀ s0, Canonical s0 → Canonical (near s0)) : Canonical (fillFromWalk s die quad e near) :=
  hnear _ (Canonical.ite h h.fillLltc |>.fillL2)

theorem Canonical.cacheLookup {s core func va write fetch needA} (h : Canonical s) : Canonical
  (cacheLookup s core func va write fetch needA).1 := by
  unfold Machine.cacheLookup
  dsimp only
  split
  · exact h.fillL1
  · split
    · exact h.fillL2.fillL1
    · split
      · exact h.fillFromLltc (fun _ h' => h'.fillL1)
      · exact h

theorem Canonical.threadWalk {s t va write fetch fromRoot} (h : Canonical s) : Canonical (threadWalk s t va write fetch fromRoot).1 := by
  unfold Machine.threadWalk
  dsimp only
  split
  · exact h.walk.fillWalkCache.fillFromWalk (fun _ h' => h'.fillL1)
  · exact h.walk.fillWalkCache

theorem Canonical.queueMiss {s q j} (h : Canonical s) : Canonical (queueMiss s q j) :=
  h.elsewhere

theorem Canonical.queueWalk {s t va} (h : Canonical s) : Canonical (queueWalk s t va) :=
  h.elsewhere

theorem Canonical.leaveWalks {s q j} (h : Canonical s) : Canonical (leaveWalks s q j) :=
  h.elsewhere

theorem Canonical.postThreadFault {s t va write fetch coh gen cause level entry} (h : Canonical s)
  : Canonical (postThreadFault s t va write fetch coh gen cause level entry) :=
  h.elsewhere

theorem Canonical.walkFailed {s t va write fetch coh gen cause level entry} (h : Canonical s)
  : Canonical (walkFailed s t va write fetch coh gen cause level entry).1 :=
  h.postThreadFault

theorem Canonical.threadXlate {s t va write fetch coh} (h : Canonical s) : Canonical (threadXlate s t va write fetch coh).1 := by
  unfold Machine.threadXlate
  dsimp only
  split
  · exact h.cacheLookup.of_eq ‹_›
  · exact .iteFst (h.cacheLookup.of_eq ‹_› |>.queueWalk) (by
      split
      · exact h.cacheLookup.of_eq ‹_› |>.threadWalk |>.of_eq ‹_›
      · exact h.cacheLookup.of_eq ‹_› |>.threadWalk |>.of_eq ‹_› |>.walkFailed)

theorem Canonical.threadXlates {t write coh l s} (h : Canonical s) : Canonical (threadXlates t write coh l s).1 := by
  induction l generalizing s with
  | nil => exact h
  | cons va rest ih =>
    unfold Machine.threadXlates
    split
    · exact h.threadXlate.of_eq ‹_›
    · split <;> exact (ih (h.threadXlate.of_eq ‹_›)).of_eq ‹_›

theorem Keeps.withXlates {vas write coh} {k : List TlbEntry → M α} (hk : ∀ l, Keeps (k l)) : Keeps (withXlates vas write coh k) := by
  intro s h
  unfold Machine.withXlates
  split <;> rename_i e
  · have g := h.threadXlates.of_eq e
    split <;> rename_i e
    · exact (hk _).ok_run g e
    · exact fun u hu => (hk _).error_run g e _ hu.threadXlates
    · exact fun u hu => (hk _).error_run g e _ hu.threadXlates
  · exact fun _ hu => hu.threadXlates

/-! ### Access -/

theorem Canonical.setLocalMem {s o m} (h : Canonical s) : Canonical (setLocalMem s o m) := by
  unfold Machine.setLocalMem
  split
  · exact h.modCore
  · exact h.modTile
  · exact h
  · exact h.modQuad

theorem Canonical.localWrite {s o off l} (h : Canonical s) : Canonical (localWrite s o off l) := h.setLocalMem

theorem Canonical.localPieceSkip {o off skip l s p} (h : Canonical s) : Canonical (localPieceSkip o off skip l s p) :=
  .ite h.localWrite (h.foldl (fun _ _ h' => .ite h' h'.localWrite))

theorem Canonical.localWriteSkip {s o off skip l} (h : Canonical s) : Canonical (localWriteSkip s o off skip l) :=
  .ite h.localWrite (h.foldl (fun _ _ h' => h'.localPieceSkip))

theorem Canonical.modChan {s tile c f} (h : Canonical s) : Canonical (modChan s tile c f) :=
  h.elsewhere

theorem Canonical.chanWrite {s tile off v} (h : Canonical s) : Canonical (chanWrite s tile off v) := .ite h.modChan h

theorem Canonical.plainStore {s t e va l skip} (h : Canonical s) : Canonical (plainStore s t e va l skip) := by
  unfold Machine.plainStore
  dsimp only
  split
  · exact h.controlWrite
  · exact h.foldl (fun _ _ h' => .ite h'.performReds h'.performReds.modThread)

theorem Keeps.resolveM {ea n val} : Keeps (resolveM ea n val) :=
  .bind .getS fun _ => by
    split
    · exact .trapM
    · exact .trapM
    · exact .pure

theorem Keeps.localLatency {x} : Keeps (localLatency x) := by
  unfold Machine.localLatency
  split
  · exact .variableLatency
  · exact .variableLatency
  · exact .bind .selfCore fun _ => .ite .pure .variableLatency
  · exact .variableLatency

theorem Keeps.loadPiece {α : Type} {ea n val} {k : List Byte → M α} (hk : ∀ x0, Keeps (k x0)) : Keeps (loadPiece ea n val k : M α) :=
  .bind .resolveM fun _ => by
    split
    · exact .bind .localLatency fun _ => .bind .getS fun _ => by
        split
        · exact hk _
        · exact .trapM
    · exact .withXlates (fun _ => .bind .variableLatency fun _ => .bind (.modS (fun _ h => h.noticeErrors)) fun _ =>
        .bind .getS fun _ => by
        split
        · exact hk _
        · exact .trapKeepM (fun _ h' => h'.noticeErrors))
    · exact .trapM

theorem Keeps.loadPieces {l acc} {k : List Byte → M α} (hk : ∀ l, Keeps (k l)) : Keeps (loadPieces l acc k) := by
  induction l generalizing acc with
  | nil => exact hk acc
  | cons p rest ih => exact .loadPiece fun _ => ih

theorem Keeps.loadBytes {α : Type} {ea n val} {k : List Byte → M α} (hk : ∀ x0, Keeps (k x0)) : Keeps (loadBytes ea n val k : M α) :=
  .loadPieces (fun _ => hk _)

theorem Keeps.storeThen {α : Type} {ea l skip val} {k : M α} (hk : Keeps k) : Keeps (storeThen ea l skip val k : M α) :=
  .bind .resolveM fun _ => by
    split
    · exact .bind (.modS (fun _ h => h.localWriteSkip)) fun _ => hk
    · exact .withXlates (fun _ => .bind (.modS (fun _ h => h.plainStore)) fun _ => hk)
    · exact .trapM

theorem Keeps.storePiece {ea l skip val} : Keeps (storePiece ea l skip val) := .storeThen .pure
theorem Keeps.progress : Keeps progress := .bind .self fun _ => .pure

theorem Canonical.effectOf {s} {m : M Unit} (hm : Keeps m) (h : Canonical s) : Canonical (effectOf m s) := by
  unfold Machine.effectOf
  split
  · exact hm.ok_run h ‹_›
  · exact h

theorem Keeps.restartable {l : List (Nat × M Unit)} (hl : ∀ p ∈ l, Keeps p.2) : Keeps (restartable l) := by
  induction l with
  | nil => exact .modSelf
  | cons p rest ih =>
    intro s h
    have hm : Keeps p.2 := hl p (by simp)
    have hrest := ih fun q hq => hl q (by simp [hq])
    unfold Machine.restartable
    split <;> rename_i e
    · exact fun u hu => (hm.error_run h e u hu).modThread
    · exact fun u hu => (hm.error_run h e u hu).modThread
    have k := hm.ok_run h e
    split <;> rename_i e
    · exact hrest.ok_run k e
    · exact fun u hu => hrest.error_run k e _ (.effectOf hm hu)
    · exact fun u hu => hrest.error_run k e _ (.effectOf hm hu)

theorem Keeps.restartableMap {β : Type} {l : List β} {f : β → Nat} {g : β → M Unit} (hg : ∀ x, Keeps (g x)) :
    Keeps (Machine.restartable (l.map fun x => (f x, g x))) :=
  .restartable fun p hp => by
    obtain ⟨x, -, rfl⟩ := List.mem_map.1 hp
    exact hg x

theorem Canonical.performLine {s t pa} (h : Canonical s) : Canonical (performLine s t pa) :=
  h.performStores.performReds.forwardGate

theorem Keeps.withLine {α : Type} {va write} {f : TlbEntry → Nat → M α} (hf : ∀ x0 x1, Keeps
  (f x0 x1)) : Keeps (withLine va write f : M α) :=
  .withXlates (fun _ => .bind .variableLatency fun _ => .bind (.modS (fun _ h => h.performLine)) fun _ => hf _ _)

theorem Keeps.cohReadM {e pa n val} : Keeps (cohReadM e pa n val) :=
  .getS_bind fun _ h => by
    split
    · exact .bind (.modS (fun _ h' => h.cohRead.of_eq ‹_›)) fun _ => .pure
    · exact .trapKeepM (fun _ h' => h'.cohRead)

theorem Keeps.cohWriteM {e pa l} : Keeps (cohWriteM e pa l) := .modS (fun _ h => h.cohWrite)

/-! ### Atomic -/

theorem Canonical.predictAtomic {s quad pa moving} (h : Canonical s) : Canonical (predictAtomic s quad pa moving) :=
  h.elsewhere

theorem Keeps.atomicAligned {ea n} : Keeps (atomicAt.requireAligned ea n) := .ite .pure .trapM

theorem Keeps.atomicAt {ea n new} {k : Nat → M α} (hk : ∀ n, Keeps (k n)) : Keeps (atomicAt ea n new k) :=
  .bind .atomicAligned fun _ => .ite .trapM (.bind .resolveM fun _ => by
    split
    · refine .bind .localLatency fun _ => .getS_bind fun _ _ => ?_
      split
      · exact .trapM
      dsimp only
      split
      · exact .bind (.modS fun _ h => h.localWrite) fun _ => hk _
      · exact hk _
    · refine .withLine fun _ _ => .bind .cohReadM fun _ => .bind (.modS fun _ h => h.predictAtomic) fun _ => ?_
      dsimp only
      split
      · exact .bind .cohWriteM fun _ => hk _
      · exact hk _
    · exact .trapM)

theorem Answers.execAmo {d a b z op s} (h : Canonical s) : Answers (execAmo d a b z op s) :=
  .run4 (.withPorts (.bind .readG fun _ => .bind .readG fun _ => .atomicAt (fun _ => .writeG))) h

theorem Answers.execAmocas {d a b z s} (h : Canonical s) : Answers (execAmocas d a b z s) :=
  .run4 (.withPorts (.bind .readG fun _ => .bind .readG fun _ => .bind .readG fun _ => .atomicAt (fun _ => .writeG))) h

theorem Answers.execAmof {d a b op s} (h : Canonical s) : Answers (execAmof d a b op s) :=
  .run4 (.withPorts (.bind .readG fun _ => .bind .readG fun _ => .atomicAt (fun _ => .writeG))) h

theorem Canonical.postRed {s r} (h : Canonical s) : Canonical (postRed s r) :=
  h.elsewhere

theorem Answers.execRed {a b z op s} (h : Canonical s) : Answers (execRed a b z op s) :=
  .run4 (.withPorts (.bind .readG fun _ => .bind .readG fun _ => .bind .atomicAligned fun _ => .ite .trapM (.bind .resolveM fun _ => by
    split
    · exact .bind .getS fun _ => by
        split
        · exact .pure
        · exact .modS (fun _ h2 => h2.localWrite)
    · exact .withXlates (fun _ => .bind (.modS (fun _ h' => h'.performStores.predictAtomic)) fun _ => .modS (fun _ h' => h'.postRed))
    · exact .trapM))) h

theorem Keeps.checkLines {l g n} : Keeps (checkLines l g n) :=
  .ite .trapM (.ite .trapM (.ite .trapM (.bind .resolveM fun _ => .ite .pure .trapM)))

theorem Keeps.getLine {l g} : Keeps (getLine l g) :=
  .bind .resolveM fun _ => by
    split
    · exact .withLine (fun _ _ => .bind .cohReadM fun _ => .storePiece)
    · exact .trapM

theorem Keeps.putLine {l g} : Keeps (putLine l g) :=
  .loadPiece (fun _ => .bind .resolveM fun _ => by
    split
    · exact .withLine (fun _ _ => .cohWriteM)
    · exact .trapM)

theorem Keeps.moveLines {l g n} {one : Word → Word → M Unit} (hone : ∀ x y, Keeps (one x y)) : Keeps (moveLines l g n one) :=
  .bind .checkLines fun _ => .bind .progress fun _ => .restartableMap fun _ => hone _ _

theorem Answers.execGet {a b n s} (h : Canonical s) : Answers (execGet a b n s) :=
  .run4 (.withPorts (.bind .readG fun _ => .bind .readG fun _ => .moveLines (fun _ _ => .getLine))) h

theorem Answers.execPut {a b n s} (h : Canonical s) : Answers (execPut a b n s) :=
  .run4 (.withPorts (.bind .readG fun _ => .bind .readG fun _ => .moveLines (fun _ _ => .putLine))) h

theorem Answers.execPref {a h' s} (h : Canonical s) : Answers (execPref a h' s) :=
  .run4 (.withPorts (.bind .readG fun _ => .bind .self fun _ => .bind .getS fun _ => .ite (by
    split
    · exact .modS (fun _ h2 => h2.modQuad)
    · exact .pure) .pure)) h

theorem Canonical.Any.takeMonitor {s p va pa v t} (h : Canonical s) : Canonical.Any (takeMonitor s p va pa v t) := by
  unfold Machine.takeMonitor
  dsimp only
  split
  · exact .some h.modSlice
  · exact .ite (.some h.modSlice) .none

theorem Canonical.blockOnMonitor {e va pa v s} (h : Canonical s) : Canonical (blockOnMonitor e va pa v s) :=
  Canonical.Any.getD (.takeMonitor h.performLine.cohRead) h.performLine.cohRead

theorem Keeps.waitaStart {d x y t} : Keeps (waitaStart d x y t) :=
  .ite .trapM (.ite .trapM (.withLine (fun _ _ => .bind .cohReadM fun _ => .ite .writeG (.bind .getS fun _ => by
    split
    · exact .writeG
    · exact .waitKeepM (fun _ h' => h'.blockOnMonitor)))))

theorem Answers.execWaita {d a b t s} (h : Canonical s) : Answers (execWaita d a b t s) :=
  .run4 (.withPorts (.bind .readG fun _ => .bind .readG fun _ => .bind .self fun _ => by
    split
    · exact .writeG
    · exact .waitaStart)) h

theorem Canonical.publish {s t scope} (h : Canonical s) : Canonical (publish s t scope) :=
  .ite h.reachAll (.ite h.performAll.serveWrites h.performAll)

theorem Answers.execFence {sc s} (h : Canonical s) : Answers (execFence sc s) :=
  .run4 (.ite (.bind .requireSys fun _ => .bind (.modS (fun _ h' => h'.publish)) fun _ => .bind .getS fun _ => .ite (.waitKeepM (fun _ h2 =>
    h2.publish)) .pure) (.bind (.modS (fun _ h' => h'.publish)) fun _ => .bind .getS fun _ => .ite (.waitKeepM (fun _ h2 =>
    h2.publish)) .pure)) h

/-! ### Clocks -/

theorem Canonical.countTicks {s} (h : Canonical s) : Canonical (countTicks s) :=
  h.elsewhere

/-! ### Vector -/

theorem Keeps.putVec {d t r} : Keeps (putVec d t r) := .bind .writeV fun _ => .orFlags

theorem Keeps.vec1 {d a k ok op} : Keeps (vec1 d a k ok op) :=
  .withPorts (.bind .readV fun _ => .bind .requireClass fun _ => .bind .readK fun _ => .bind .oldBits fun _ => .bind .self fun _ => .putVec)

theorem Keeps.vec2 {d a b k ok op} : Keeps (vec2 d a b k ok op) :=
  .withPorts (.bind .readV fun _ => .bind .requireClass fun _ => .bind .readV fun _ => .bind .requireClass fun _ =>
    .bind .requireTag fun _ => .bind .readK fun _ => .bind .oldBits fun _ => .bind .self fun _ => .putVec)

theorem Keeps.vecMove {d k va f} : Keeps (vecMove d k va f) := .bind .readK fun _ => .bind .oldBits fun _ => .putVec

theorem Keeps.vecLogic {d a b k f} : Keeps (vecLogic d a b k f) :=
  .withPorts (.bind .readV fun _ => .bind .readV fun _ => .vecMove)

theorem Answers.execVadd {d a b k s} (h : Canonical s) : Answers (execVadd d a b k s) := .run4 .vec2 h
theorem Answers.execVsub {d a b k s} (h : Canonical s) : Answers (execVsub d a b k s) := .run4 .vec2 h
theorem Answers.execVmul {d a b k s} (h : Canonical s) : Answers (execVmul d a b k s) := .run4 .vec2 h
theorem Answers.execVdiv {d a b k s} (h : Canonical s) : Answers (execVdiv d a b k s) := .run4 .vec2 h
theorem Answers.execVmin {d a b k s} (h : Canonical s) : Answers (execVmin d a b k s) := .run4 .vec2 h
theorem Answers.execVmax {d a b k s} (h : Canonical s) : Answers (execVmax d a b k s) := .run4 .vec2 h
theorem Answers.execVabs {d a k s} (h : Canonical s) : Answers (execVabs d a k s) := .run4 .vec1 h
theorem Answers.execVneg {d a k s} (h : Canonical s) : Answers (execVneg d a k s) := .run4 .vec1 h
theorem Answers.execVsqrt {d a k s} (h : Canonical s) : Answers (execVsqrt d a k s) := .run4 .vec1 h
theorem Answers.execVrcp {d a k s} (h : Canonical s) : Answers (execVrcp d a k s) := .run4 .vec1 h
theorem Answers.execVrsq {d a k s} (h : Canonical s) : Answers (execVrsq d a k s) := .run4 .vec1 h
theorem Answers.execVexp2 {d a k s} (h : Canonical s) : Answers (execVexp2 d a k s) := .run4 .vec1 h
theorem Answers.execVlog2 {d a k s} (h : Canonical s) : Answers (execVlog2 d a k s) := .run4 .vec1 h
theorem Answers.execVadds {d a b k s} (h : Canonical s) : Answers (execVadds d a b k s) := .run4 .vec2 h
theorem Answers.execVsubs {d a b k s} (h : Canonical s) : Answers (execVsubs d a b k s) := .run4 .vec2 h
theorem Answers.execVmulh {d a b k s} (h : Canonical s) : Answers (execVmulh d a b k s) := .run4 .vec2 h
theorem Answers.execVand {d a b k s} (h : Canonical s) : Answers (execVand d a b k s) := .run4 .vecLogic h
theorem Answers.execVor {d a b k s} (h : Canonical s) : Answers (execVor d a b k s) := .run4 .vecLogic h
theorem Answers.execVxor {d a b k s} (h : Canonical s) : Answers (execVxor d a b k s) := .run4 .vecLogic h
theorem Answers.execVsll {d a b k s} (h : Canonical s) : Answers (execVsll d a b k s) := .run4 .vec2 h
theorem Answers.execVsrl {d a b k s} (h : Canonical s) : Answers (execVsrl d a b k s) := .run4 .vec2 h
theorem Answers.execVsra {d a b k s} (h : Canonical s) : Answers (execVsra d a b k s) := .run4 .vec2 h

theorem Answers.execVmov {d a k s} (h : Canonical s) : Answers (execVmov d a k s) :=
  .run4 (.withPorts (.bind .readV fun _ => .vecMove)) h

theorem Keeps.vecFma {d a b k c sg} : Keeps (vecFma d a b k c sg) :=
  .withPorts (.bind .readV fun _ => .bind .requireClass fun _ => .bind .readV fun _ => .bind .requireClass fun _ =>
    .bind .requireTag fun _ => .bind .readV fun _ => .bind .requireClass fun _ => .bind .requireTag fun _ => .bind .readK fun _ =>
    .bind .oldBits fun _ => .bind .self fun _ => .putVec)

theorem Answers.execVfma {d a b k c s} (h : Canonical s) : Answers (execVfma d a b k c s) := .run4 .vecFma h
theorem Answers.execVfms {d a b k c s} (h : Canonical s) : Answers (execVfms d a b k c s) := .run4 .vecFma h
theorem Answers.execVfnma {d a b k c s} (h : Canonical s) : Answers (execVfnma d a b k c s) := .run4 .vecFma h
theorem Answers.execVfnms {d a b k c s} (h : Canonical s) : Answers (execVfnms d a b k c s) := .run4 .vecFma h

theorem Keeps.vecDot {d a b k c g rtag} : Keeps (vecDot d a b k c g rtag) :=
  .withPorts (.bind .readV fun _ => by
    split
    · exact .tagTrap
    · exact .bind .readV fun _ => .bind .requireClass fun _ => .bind .requireTag fun _ => .bind .readV fun _ => .bind .requireTag fun _ =>
        .bind .readK fun _ => .bind .oldBits fun _ => .bind .self fun _ => .putVec)

theorem Answers.execVdot4 {d a b k c s} (h : Canonical s) : Answers (execVdot4 d a b k c s) := .run4 .vecDot h
theorem Answers.execVdot2 {d a b k c s} (h : Canonical s) : Answers (execVdot2 d a b k c s) := .run4 .vecDot h

theorem Answers.execVcmp {d a b k c s} (h : Canonical s) : Answers (execVcmp d a b k c s) :=
  .run4 (.withPorts (.bind .readV fun _ => .bind .requireClass fun _ => .bind .readV fun _ => .bind .requireClass fun _ =>
    .bind .requireTag fun _ => .bind .readK fun _ => .bind .writeK fun _ => .orFlags)) h

theorem Answers.execVperm {d a b k s} (h : Canonical s) : Answers (execVperm d a b k s) :=
  .run4 (.withPorts (.bind .readV fun _ => .bind .readV fun _ => .vecMove)) h

theorem Answers.execVslup {d a b k s} (h : Canonical s) : Answers (execVslup d a b k s) :=
  .run4 (.withPorts (.bind .readV fun _ => .bind .readG fun _ => .vecMove)) h

theorem Answers.execVsldn {d a b k s} (h : Canonical s) : Answers (execVsldn d a b k s) :=
  .run4 (.withPorts (.bind .readV fun _ => .bind .readG fun _ => .vecMove)) h

theorem Answers.execVbcast {d a b k s} (h : Canonical s) : Answers (execVbcast d a b k s) :=
  .run4 (.withPorts (.bind .readV fun _ => .bind .readG fun _ => .vecMove)) h

theorem Answers.execVext {d a b s} (h : Canonical s) : Answers (execVext d a b s) :=
  .run4 (.withPorts (.bind .readV fun _ => .bind .readG fun _ => .writeG)) h

theorem Answers.execVins {d a b s} (h : Canonical s) : Answers (execVins d a b s) :=
  .run4 (.withPorts (.bind .readG fun _ => .bind .readG fun _ => .bind .self fun _ => .writeV)) h

theorem Answers.execVsel {d a b k s} (h : Canonical s) : Answers (execVsel d a b k s) :=
  .run4 (.withPorts (.bind .readV fun _ => .bind .readV fun _ => .bind .readK fun _ => .putVec)) h

theorem Keeps.vecReduce {d a k kind op} : Keeps (vecReduce d a k kind op) :=
  .withPorts (.bind .readV fun _ => .bind .requireClass fun _ => .bind .readK fun _ => .bind .self fun _ => .putVec)

theorem Answers.execVredsum {d a k s} (h : Canonical s) : Answers (execVredsum d a k s) := .run4 .vecReduce h
theorem Answers.execVredmax {d a k s} (h : Canonical s) : Answers (execVredmax d a k s) := .run4 .vecReduce h
theorem Answers.execVredmin {d a k s} (h : Canonical s) : Answers (execVredmin d a k s) := .run4 .vecReduce h

theorem Answers.execVzip {d a b k s} (h : Canonical s) : Answers (execVzip d a b k s) :=
  .run4 (.withPorts (.bind .readV fun _ => .bind .readV fun _ => .vecMove)) h

theorem Answers.execVunzip {d a b k s} (h : Canonical s) : Answers (execVunzip d a b k s) :=
  .run4 (.withPorts (.bind .readV fun _ => .bind .readV fun _ => .vecMove)) h

theorem Answers.execVcmprs {d a k s} (h : Canonical s) : Answers (execVcmprs d a k s) :=
  .run4 (.withPorts (.bind .readV fun _ => .bind .readK fun _ => .putVec)) h

theorem Keeps.maskOp {d a b f} : Keeps (maskOp d a b f) := .modSelf
theorem Answers.execKand {d a b s} (h : Canonical s) : Answers (execKand d a b s) := .run4 .maskOp h
theorem Answers.execKor {d a b s} (h : Canonical s) : Answers (execKor d a b s) := .run4 .maskOp h
theorem Answers.execKxor {d a b s} (h : Canonical s) : Answers (execKxor d a b s) := .run4 .maskOp h
theorem Answers.execKandn {d a b s} (h : Canonical s) : Answers (execKandn d a b s) := .run4 .maskOp h

theorem Answers.execKmovlToMask {d a s} (h : Canonical s) : Answers (execKmovlToMask d a s) :=
  .run4 (.withPorts (.bind .readG fun _ => .modSelf)) h

theorem Answers.execKmovlFromMask {d a s} (h : Canonical s) : Answers (execKmovlFromMask d a s) :=
  .run4 (.withPorts (.bind .self fun _ => .writeG)) h

theorem Answers.execKmovhToMask {d a s} (h : Canonical s) : Answers (execKmovhToMask d a s) :=
  .run4 (.withPorts (.bind .readG fun _ => .modSelf)) h

theorem Answers.execKmovhFromMask {d a s} (h : Canonical s) : Answers (execKmovhFromMask d a s) :=
  .run4 (.withPorts (.bind .self fun _ => .writeG)) h

theorem Answers.execKpopc {d a s} (h : Canonical s) : Answers (execKpopc d a s) :=
  .run4 (.withPorts (.bind .self fun _ => .writeG)) h

theorem Answers.execKfirst {d a s} (h : Canonical s) : Answers (execKfirst d a s) :=
  .run4 (.withPorts (.bind .self fun _ => .writeG)) h

theorem Keeps.putFloat {d rm r} : Keeps (putFloat d rm r) := .bind .writeG fun _ => .orFlags

theorem Keeps.sfp2 {d a b rm f} : Keeps (sfp2 d a b rm f) :=
  .withPorts (.bind .readG fun _ => .bind .readG fun _ => .bind .roundingOf fun _ => .putFloat)

theorem Keeps.sfpCmp {d a b c} : Keeps (sfpCmp d a b c) :=
  .withPorts (.bind .readG fun _ => .bind .readG fun _ => .bind .writeG fun _ => .orFlags)

theorem Answers.execFadd {d a b r s} (h : Canonical s) : Answers (execFadd d a b r s) := .run4 .sfp2 h
theorem Answers.execFsub {d a b r s} (h : Canonical s) : Answers (execFsub d a b r s) := .run4 .sfp2 h
theorem Answers.execFmul {d a b r s} (h : Canonical s) : Answers (execFmul d a b r s) := .run4 .sfp2 h
theorem Answers.execFdiv {d a b r s} (h : Canonical s) : Answers (execFdiv d a b r s) := .run4 .sfp2 h
theorem Answers.execFmin {d a b s} (h : Canonical s) : Answers (execFmin d a b s) := .run4 .sfp2 h
theorem Answers.execFmax {d a b s} (h : Canonical s) : Answers (execFmax d a b s) := .run4 .sfp2 h

theorem Answers.execFsqrt {d a r s} (h : Canonical s) : Answers (execFsqrt d a r s) :=
  .run4 (.withPorts (.bind .readG fun _ => .bind .roundingOf fun _ => .putFloat)) h

theorem Answers.execFeq {d a b s} (h : Canonical s) : Answers (execFeq d a b s) := .run4 .sfpCmp h
theorem Answers.execFlt {d a b s} (h : Canonical s) : Answers (execFlt d a b s) := .run4 .sfpCmp h
theorem Answers.execFle {d a b s} (h : Canonical s) : Answers (execFle d a b s) := .run4 .sfpCmp h

theorem Answers.execFcvt {d a c r s} (h : Canonical s) : Answers (execFcvt d a c r s) :=
  .run4 (.withPorts (.bind .readG fun _ => .bind .roundingOf fun _ => .bind .writeG fun _ => .orFlags)) h

theorem Answers.execFma {d a b r s} (h : Canonical s) : Answers (execFma d a b r s) :=
  .run4 (.withPorts (.bind .readG fun _ => .bind .readG fun _ => .bind .self fun _ => .bind .roundingOf fun _ => .putFloat)) h

/-! ### Matrix -/

theorem Keeps.licenceTrap {α : Type} {code} : Keeps (licenceTrap code : M α) := .trapM
theorem Keeps.requireLicence : Keeps requireLicence := .bind .getS fun _ => .ite .pure .licenceTrap
theorem Keeps.requireArray : Keeps requireArray := .bind .getS fun _ => .ite .pure .licenceTrap

theorem Canonical.wakeLicence {s core} (h : Canonical s) : Canonical (wakeLicence s core) :=
  h.foldl (fun _ _ h' => .ite h'.modThread h')

theorem Canonical.enterStream {s pk core slot k} (h : Canonical s) : Canonical (enterStream s pk core slot k) :=
  h.elsewhere

theorem Canonical.resumeHolder {s core} (h : Canonical s) : Canonical (resumeHolder s core) := h.modCore.wakeLicence

theorem Canonical.admitSaved {s pk} (h : Canonical s) : Canonical (admitSaved s pk) := by
  unfold Machine.admitSaved
  dsimp only
  split
  · exact .ite h.modPair.enterStream.resumeHolder h
  · exact h

theorem Canonical.grantLicence {s pk side} (h : Canonical s) : Canonical (grantLicence s pk side) :=
  .ite h.modPair.admitSaved h.modPair.resumeHolder

theorem Canonical.releaseLicence {s pk side} (h : Canonical s) : Canonical (releaseLicence s pk side) :=
  .ite h (.ite h.modPair.grantLicence h.modPair)

theorem Keeps.issueMatrix {k} : Keeps (issueMatrix k) := .bind .getS fun _ => .ite (.modS (fun _ h' => h'.enterStream)) .waitM

theorem Keeps.issueForResult {k} : Keeps (issueForResult k) :=
  .bind .getS fun _ => .ite (.waitKeepM (fun _ h' => h'.enterStream)) .waitM

theorem Keeps.operandAligned {ea} : Keeps (operandAligned ea) := .ite .pure .trapM

theorem Keeps.operandInside {ea n} : Keeps (operandInside ea n) :=
  .bind .getS fun _ => .ite (by
    split
    · exact .pure
    · exact .trapM) .trapM

theorem Canonical.mergeMatrix {s core bits} (h : Canonical s) : Canonical (mergeMatrix s core bits) :=
  h.elsewhere

theorem Canonical.abortMatrix {s core} (h : Canonical s) : Canonical (abortMatrix s core) :=
  h.elsewhere

theorem Canonical.finishProduct {s pk core acc l} (h : Canonical s) : Canonical (finishProduct s pk core acc l) :=
  h.elsewhere

theorem Canonical.giveResult {s c v} (h : Canonical s) : Canonical (giveResult s c v) := .ite h.modThread h
theorem Canonical.giveValue {s c v} (h : Canonical s) : Canonical (giveValue s c v) := h.giveResult

theorem Canonical.runMatrixCommand {s pk c} (h : Canonical s) : Canonical (runMatrixCommand s pk c) := by
  unfold Machine.runMatrixCommand
  dsimp only
  split
  · split
    · exact h.finishProduct
    · exact h.abortMatrix
  · split
    · exact h.finishProduct.mergeMatrix
    · exact h.abortMatrix
  · exact h.modPair
  · exact h.giveValue.mergeMatrix
  · exact h.modPair
  · split
    · exact h.modPair
    · exact h.abortMatrix
  · exact h.modPair
  · exact h.giveValue
  · exact h.modPair

theorem Canonical.runMatrix {s pk c} (h : Canonical s) : Canonical (runMatrix s pk c) :=
  .ite h.abortMatrix.giveResult h.runMatrixCommand

theorem Canonical.completeMatrix {s pk} (h : Canonical s) : Canonical (completeMatrix s pk) := by
  unfold Machine.completeMatrix
  split
  · exact h
  · exact h.runMatrix.modPair.admitSaved

theorem Canonical.arrayReadAhead {s pk g} (h : Canonical s) : Canonical (arrayReadAhead s pk g) := by
  unfold Machine.arrayReadAhead
  split
  · exact .ite h h.modPair
  · exact h

theorem Answers.execMatrixCommandComplete {pair s} (h : Canonical s) : Answers (execMatrixCommandComplete pair s) :=
  .next (.ite h.completeMatrix h)

theorem Keeps.readScale {d} : Keeps (readScale d) := .ite .pure (.bind .readG fun _ => .pure)

theorem Answers.execMma {d a b acc kg af bf sa sb asl bsl s} (h : Canonical s) : Answers (execMma d a b acc kg af bf sa sb asl bsl s) :=
  .run8 (.withPorts (.bind .readG fun _ => .bind .readG fun _ => .bind .readScale fun _ => .bind .requireLicence fun _ =>
    .bind .operandAligned fun _ => .bind .operandAligned fun _ => .bind .operandInside fun _ => .bind .operandInside fun _ =>
    .issueMatrix)) h

theorem Answers.execMmac {d src b acc kg af bf sa sb asl bsl s} (h : Canonical s) : Answers
  (execMmac d src b acc kg af bf sa sb asl bsl s) :=
  .run8 (.withPorts (.bind .readG fun _ => .bind .readScale fun _ => .bind .requireLicence fun _ => .ite (.bind .trapM fun _ =>
    .issueMatrix) (.bind .operandInside fun _ => .issueMatrix))) h

theorem Answers.execMzero {acc n s} (h : Canonical s) : Answers (execMzero acc n s) :=
  .run8 (.bind .requireLicence fun _ => .issueMatrix) h

theorem Answers.execMwr {a acc row half s} (h : Canonical s) : Answers (execMwr a acc row half s) :=
  .run8 (.withPorts (.bind .readV fun _ => .bind .requireLicence fun _ => by
    split
    · exact .tagTrap
    · exact .issueMatrix)) h

theorem Keeps.awaitValue {d} {start : M Unit} (hstart : Keeps start) : Keeps (awaitValue d start) :=
  .bind .self fun _ => by
    split
    · exact .writeV
    · exact .pure
    · exact hstart

theorem Answers.execMrd {d a acc row half tag sat sc asl rm s} (h : Canonical s) : Answers (execMrd d a acc row half tag sat sc asl rm s) :=
  .run8 (.withPorts (.bind .readScale fun _ => .awaitValue (.bind .requireLicence fun _ => .bind .self fun _ => .issueForResult))) h

theorem Answers.execMscl {a soff len s} (h : Canonical s) : Answers (execMscl a soff len s) :=
  .run8 (.withPorts (.bind .readG fun _ => .bind .requireLicence fun _ => .bind .operandAligned fun _ => .bind .operandInside fun _ =>
    .issueMatrix)) h

theorem Answers.execMwait {d s} (h : Canonical s) : Answers (execMwait d s) :=
  .run8 (.withPorts (.bind .requireArray fun _ => .bind .getS fun _ => .bind .self fun _ => .ite .waitM (.bind (.modS (fun _ h2 =>
    h2.modCore)) fun _ => .writeG))) h

theorem Answers.execMlic {d tryf s} (h : Canonical s) : Answers (execMlic d tryf s) :=
  .run8 (.withPorts (.bind .requireArray fun _ => .bind .getS fun _ => .bind .self fun _ => .ite .writeG (.ite (.bind (.modS (fun _ h2 =>
    h2.grantLicence)) fun _ => .writeG) (.ite .writeG (.waitKeepM (fun _ h2 => h2.modPair)))))) h

theorem Answers.execMrel {s} (h : Canonical s) : Answers (execMrel s) :=
  .run8 (.bind .requireLicence fun _ => .bind .getS fun _ => .ite .waitM (.modS (fun _ h2 => h2.releaseLicence))) h

theorem Answers.execCbld {t a s} (h : Canonical s) : Answers (Machine.execCbld t a s) :=
  .run4 (.withPorts (.bind .readV fun _ => .bind .self fun _ =>
    .ite (.bind .requireLicence fun _ => .unless .tagTrap (.ite .issueMatrix (.modS fun _ h' => h'.modCore)))
      (.unless .tagTrap (.ite .issueMatrix (.modS fun _ h' => h'.modCore))))) h

theorem Answers.execCbrd {d t s} (h : Canonical s) : Answers (execCbrd d t s) :=
  .run4 (.withPorts (.bind .self fun _ => .ite (.awaitValue (.bind .requireLicence fun _ => .issueForResult)) (.bind .getS fun _ =>
    .writeV))) h

theorem Canonical.windowWrite {s pk side h' v} (h : Canonical s) : Canonical (windowWrite s pk side h' v) :=
  h.elsewhere

theorem Answers.execTwx {d s} (h : Canonical s) : Answers (execTwx d s) :=
  .run4 (.bind .requireArray fun _ => .bind .getS fun _ => .bind .self fun _ => by
    dsimp only
    split
    · exact .bind (.modS (fun _ h2 => h2.modThread.retire.markIssued)) fun _ => .writeG
    · exact .waitM) h

theorem Answers.execHrd {d h' s} (h : Canonical s) : Answers (execHrd d h' s) :=
  .run4 (.withPorts (.bind .requireArray fun _ => .bind .getS fun _ => .writeG)) h

theorem Answers.execHwr {h' a s} (h : Canonical s) : Answers (execHwr h' a s) :=
  .run4 (.withPorts (.bind .readG fun _ => .bind .requireArray fun _ => .modS (fun _ h' => h'.windowWrite))) h

/-! ### Shootdown -/

theorem Canonical.forceThread {k s t} (h : Canonical s) : Canonical (forceThread k s t) := h.performStores.performReds

theorem Canonical.passTile {k} {r : State × Nat} {tile} (hr : Canonical r.1) : Canonical (passTile k r tile).1 := by
  unfold Machine.passTile
  split
  · exact hr
  · exact hr.setTile

theorem Canonical.passCore {k s core} (h : Canonical s) : Canonical (passCore k s core) := by
  unfold Machine.passCore
  split
  · exact h
  · exact h.foldl (fun _ _ h' => h'.forceThread) |>.modCore

theorem Canonical.passQuad {k} {r : State × Nat} {quad} (hr : Canonical r.1) : Canonical (passQuad k r quad).1 :=
  hr.foldl (fun _ _ h => h.passCore) |>.modQuad |>.foldlFst (fun _ _ h => Canonical.passTile h)

theorem Canonical.passLltc {k die} {r : State × Nat} (hr : Canonical r.1) : Canonical (passLltc k r die).1 :=
  .foldlFst (r := (_, _)) hr.modLltc fun _ _ h => by
    split
    · exact h
    · exact h.setSwitch

theorem Canonical.passTarget {k} {r : State × Nat} {target} (hr : Canonical r.1) : Canonical (passTarget k r target).1 :=
  .iteFst (Canonical.passQuad hr) (Canonical.passLltc hr)

theorem Canonical.passAll {k s} (h : Canonical s) : Canonical (passAll k s).1 := h.foldlFst (fun _ _ h' => Canonical.passTarget h')

theorem Canonical.sendToken {s k} (h : Canonical s) : Canonical (sendToken s k) :=
  h.elsewhere

theorem Canonical.dropUnmapped {s p} (h : Canonical s) : Canonical (dropUnmapped s p) := h.dropMonitors
theorem Canonical.startCopying {s e n} (h : Canonical s) : Canonical (startCopying s e n) := .ite h.setTSlot h

theorem Canonical.forceAll {k s} (h : Canonical s) : Canonical (forceAll k s) :=
  h.foldl (fun _ _ h' => .ite h'.forceThread h')

theorem Canonical.tokenFinished {s k removed} (h : Canonical s) : Canonical (tokenFinished s k removed) := by
  unfold Machine.tokenFinished
  cases k.slot with
  | none => exact h.elsewhere
  | some => exact h.startCopying.elsewhere

theorem Answers.execTokenPass {token target s} (h : Canonical s) : Answers (execTokenPass token target s) :=
  .next (by
    dsimp only
    split
    · exact h
    · exact .ite (Canonical.passTarget h |>.elsewhere |>.forceAll |>.dropUnmapped |>.tokenFinished) (Canonical.passTarget h |>.elsewhere))

theorem Canonical.beforeToken {s} (h : Canonical s) : Canonical (beforeToken s) := h.publish

theorem Keeps.relatch {d k} : Keeps (relatch d k) :=
  .bind .self fun _ => by
    split
    · exact .writeG
    · exact .getS_bind fun _ h => .ite (.waitKeepM (fun _ h' => h'.beforeToken.sendToken)) (.bind (.modS (fun _ h' =>
        h.beforeToken.passAll.dropUnmapped)) fun _ => .writeG)

theorem Answers.execRltokRange {d a g n s} (h : Canonical s) : Answers (execRltokRange d a g n s) :=
  .run4 (.bind .requireSys fun _ => .withPorts (.bind .readG fun _ => .bind .self fun _ => .ite .trapM .relatch)) h

theorem Answers.execRltokFunc {d a g s} (h : Canonical s) : Answers (execRltokFunc d a g s) :=
  .run4 (.bind .requireSys fun _ => .withPorts (.bind .readG fun _ => .bind .self fun _ => .ite .trapM .relatch)) h

theorem Answers.execRltokPart {d s} (h : Canonical s) : Answers (execRltokPart d s) :=
  .run4 (.bind .requireSys fun _ => .withPorts (.bind .self fun _ => .relatch)) h

theorem Answers.execMbxrd {d nb s} (h : Canonical s) : Answers (execMbxrd d nb s) :=
  .run4 (.bind .requireService fun _ => .bind .getS fun _ => by
    split
    · exact .ite .writeG .waitM
    · exact .bind (.modS (fun _ h2 => h2.modCore)) fun _ => .modSelf) h

theorem Keeps.sendReply {a refuse} : Keeps (sendReply a refuse) :=
  .withPorts (.bind .readG fun _ => .modS (fun _ h => h.elsewhere))

theorem Answers.execMbxwrRetry {a s} (h : Canonical s) : Answers (execMbxwrRetry a s) :=
  .run4 (.bind .requireService fun _ => .sendReply) h

theorem Answers.execMbxwrRefuse {a s} (h : Canonical s) : Answers (execMbxwrRefuse a s) :=
  .run4 (.bind .requireService fun _ => .sendReply) h

theorem Canonical.walkFound {e s t} (h : Canonical s) : Canonical (walkFound e s t) := by
  unfold Machine.walkFound
  split
  · exact h.fillL1.modThread
  · exact h

theorem Canonical.walkAgain {s t} (h : Canonical s) : Canonical (walkAgain s t) := by
  unfold Machine.walkAgain
  split
  · exact h.modThread
  · exact h

theorem Canonical.chanFound {e s p} (h : Canonical s) : Canonical (chanFound e s p) :=
  h.elsewhere

theorem Canonical.walkShared {e j s} (h : Canonical s) : Canonical (walkShared e j s) :=
  h.foldl (fun _ _ h' => h'.walkFound) |>.foldl (fun _ _ h' => h'.chanFound)

theorem Canonical.walkUndecided {j s} (h : Canonical s) : Canonical (walkUndecided j s) :=
  h.foldl (fun _ _ h' => h'.walkAgain) |>.foldl (fun _ _ h' => h'.chanFound)

theorem Answers.execPlainStorePerform {core slot index s} (h : Canonical s) : Answers (execPlainStorePerform core slot index s) :=
  .next (by
    dsimp only
    split
    · exact h
    · exact .ite h h.performFirst)

theorem Answers.execRedPerform {core slot index s} (h : Canonical s) : Answers (execRedPerform core slot index s) :=
  .next (by
    dsimp only
    split
    · exact h
    · exact .ite h h.modThread.performRedInOrder)

theorem Canonical.timeOut {s t} (h : Canonical s) : Canonical (timeOut s t) := by
  unfold Machine.timeOut
  split
  · exact .ite h.leaveMonitor.wakeThread h
  · exact h

theorem Answers.execWaitaTimeout {core slot s} (h : Canonical s) : Answers (execWaitaTimeout core slot s) := .next h.timeOut
theorem Canonical.timeOutAll {s} (h : Canonical s) : Canonical (timeOutAll s) := h.foldl (fun _ _ h' => h'.timeOut)
theorem Answers.execPredictorDecay {quad line s} (h : Canonical s) : Answers (execPredictorDecay quad line s) := .next h.modQuad

theorem Canonical.decayAll {s} (h : Canonical s) : Canonical (decayAll s) :=
  h.elsewhere

/-! ### Traverse -/

theorem Canonical.queryFrom {w va n s table path} (h : Canonical s) : Canonical (queryFrom w va n s table path).1 := by
  induction n generalizing s table path with
  | zero => exact h
  | succ n ih =>
    unfold Machine.queryFrom
    dsimp only
    split
    · exact h.tableRead.of_eq ‹_›
    next e =>
    have k := h.tableRead.of_eq e
    exact .iteFst k (.iteFst k (ih k))

theorem Canonical.queryLeaf {s w func va} (h : Canonical s) : Canonical (queryLeaf s w func va).1 := .iteFst h.queryFrom h

theorem Canonical.queryWalk {s w va cache} (h : Canonical s) : Canonical (queryWalk s w va cache).1 :=
  .iteFst h (by
    split <;> exact h.queryFrom)

theorem Canonical.leafGroup {s w va level addr e} (h : Canonical s) : Canonical (leafGroup s w va level addr e).1 :=
  .iteFst (by
    split <;> exact h.readGroup.of_eq ‹_›) h

theorem Canonical.postTraverse {s kind e n x cause} (h : Canonical s) : Canonical (postTraverse s kind e n x cause) :=
  h.elsewhere

theorem Answers.execTraverseLineCopy {engine slot s} (h : Canonical s) : Answers (execTraverseLineCopy engine slot s) :=
  .next (.ite h (by
    dsimp only
    split
    · exact h
    · split
      · exact h.lineRead.of_eq ‹_› |>.abortSlot
      · exact .ite (h.lineRead.of_eq ‹_› |>.abortSlot) (h.lineRead.of_eq ‹_› |>.lineWrite
          |>.serveWrites |>.moveViews |>.setTSlot |>.modEngine)))

theorem Canonical.discardErrors {s p base bytes} (h : Canonical s) : Canonical (discardErrors s p base bytes) :=
  .ite h h.elsewhere

theorem Canonical.discardLines {s p base bytes before routed} (h : Canonical s) :
    Canonical (discardLines s p base bytes before routed) := by
  have base : Canonical { s with gmem := {
      cells := (memWindow before.cells base bytes).foldl (fun m c => memSet m c.1 c.2) (memErase s.gmem.cells base bytes)
      bad := s.gmem.bad.filter fun k => !(decide (base ≤ k * 64) && decide (k * 64 < base + bytes)) } } :=
    wf_foldl_memSet _ (wf_memErase _ _ h)
  exact base.discardErrors.foldl fun _ _ h => .ite h.freshCount.stored h

theorem Canonical.dropPageMonitors {s x} (h : Canonical s) : Canonical (dropPageMonitors s x) := h.dropMonitors

theorem Canonical.swapLeaf {w addr e f s} (h : Canonical s) : Canonical (swapLeaf w addr e f s).1 := by
  unfold Machine.swapLeaf
  split
  · exact h.tableRead.of_eq ‹_›
  · exact .iteFst (h.tableRead.of_eq ‹_› |>.tableWrite) (h.tableRead.of_eq ‹_›)

theorem Canonical.swapLeaves {f w l k s} (h : Canonical s) : Canonical (swapLeaves f w l k s).1 := by
  induction l generalizing k s with
  | nil => exact h
  | cons x rest ih =>
    unfold Machine.swapLeaves
    split
    · exact ih (h.swapLeaf.of_eq ‹_›)
    · exact h.swapLeaf.of_eq ‹_›

theorem Canonical.leavesStand {w l s} (h : Canonical s) : Canonical (leavesStand w l s).1 :=
  h.foldlFst (fun _ _ h' => by
    split <;> exact h'.tableRead.of_eq ‹_›)

theorem Canonical.moveRings {s x} (h : Canonical s) : Canonical (moveRings s x) := .ite h h.modPart

theorem Answers.execTraverseFinish {engine slot s} (h : Canonical s) : Answers (execTraverseFinish engine slot s) :=
  .next (.ite h (by
    split
    · exact h.swapLeaves.of_eq ‹_› |>.abortSlot
    · exact .ite (h.swapLeaves.of_eq ‹_› |>.passAll |>.moveRings) (h.swapLeaves.of_eq ‹_›
        |>.passAll |>.moveRings |>.dropPageMonitors |>.discardLines |>.serveWrites |>.setTSlot |>.postTraverse)))

theorem Canonical.copyBack {e x s} (h : Canonical s) : Canonical (copyBack e x s).1 :=
  h.foldlFst (fun _ _ h' => by
    dsimp only
    split
    · exact h'.lineRead.of_eq ‹_› |>.lineBack |>.moveViews
    · exact h'.lineRead.of_eq ‹_› |>.moveViews |>.poisonLine)

theorem Answers.execTraverseAbort {engine slot cause s} (h : Canonical s) : Answers (Machine.execTraverseAbort engine slot cause s) :=
  have begun {c : Prop} {_ : Decidable c} : Canonical (if c then abortSlot s engine slot 1 else s) := .ite h.abortSlot h
  .next (.ite begun (Canonical.dropPageMonitors (by
    split
    · exact begun.copyBack.serveWrites.setTSlot.leavesStand.of_eq ‹_› |>.swapLeaves.passAll
    · exact begun.copyBack.serveWrites.setTSlot.leavesStand.of_eq ‹_›) |>.discardLines.serveWrites.setTSlot.postTraverse))

theorem Canonical.pageOf {s w va level addr e} (h : Canonical s) : Canonical (pageOf s w va level addr e).1 :=
  .iteFst (by
    split <;> exact h.leafGroup.of_eq ‹_›) h

theorem Canonical.beginTraverse {s w e n f func dst owner} (h : Canonical s) : Canonical (beginTraverse s w e n f func dst owner).1 := by
  unfold Machine.beginTraverse
  dsimp only
  split
  · exact h.swapLeaves.of_eq ‹_› |>.swapLeaves
  · exact h.swapLeaves.of_eq ‹_› |>.setTSlot

theorem Keeps.migrOperands {x y} : Keeps (migrOperands x y) := .ite .trapM (.ite (.ite .trapM .pure) (.ite .trapM .pure))

theorem Keeps.migrAbort {d f moving} : Keeps (migrAbort d f moving) :=
  .bind .getS fun _ => by
    split
    · exact .writeG
    · dsimp only
      split
      · exact .writeG
      · exact .bind (.modS (fun _ h' => h'.abortSlot)) fun _ => .writeG
      · exact .writeG

theorem Keeps.migrBegin {d f func dst e n} {reads : State → State} (hreads : ∀ s0, Canonical s0 → Canonical
  (reads s0)) : Keeps (migrBegin d f func dst e n reads) :=
  .bind .getS fun _ => .ite (.bind (.modS (fun _ h' => h'.beginTraverse)) fun _ => .writeG) (.ite (.waitKeepM (fun _ h' =>
    hreads _ h' |>.beginTraverse |>.sendToken)) (.bind (.modS (fun _ h' => h'.beginTraverse.passAll.startCopying)) fun _ => .writeG))

theorem Keeps.migrStart {d f moving func y} {reads : State → State} (hreads : ∀ s0, Canonical s0 → Canonical
  (reads s0)) : Keeps (migrStart d f moving func y reads) :=
  .bind .getS fun _ => .ite .writeG (.ite .writeG (.ite .writeG (by
    split
    · exact .writeG
    · exact .migrBegin (fun _ h' => hreads _ h'))))

theorem Canonical.migrLeaf {s w func va} (h : Canonical s) : Canonical (migrLeaf s w func va).1 := by
  unfold Machine.migrLeaf
  split
  · exact h.queryLeaf.of_eq ‹_›
  · exact .iteFst (h.queryLeaf.of_eq ‹_›) (h.queryLeaf.of_eq ‹_› |>.pageOf)

theorem Keeps.migrWalk {d x y} : Keeps (migrWalk d x y) :=
  .bind .getS fun _ => .bind (.modS (fun _ h' => h'.migrLeaf)) fun _ => by
    split
    · exact .writeG
    · exact .ite .writeG (.ite .migrAbort (.migrStart (fun _ h' => h'.migrLeaf)))

theorem Answers.execMigr {d a b s} (h : Canonical s) : Answers (execMigr d a b s) :=
  .run4 (.bind .requireSys fun _ => .withPorts (.bind .readG fun _ => .bind .readG fun _ => .bind .self fun _ => by
    split
    · exact .writeG
    · exact .bind .migrOperands fun _ => .migrWalk)) h

theorem Canonical.freeFrame {s p hint f} (h : Canonical s) : Canonical (freeFrame s p hint f).1 := h.elsewhere

theorem Canonical.chunksWrite {s w chunks off l} (h : Canonical s) : Canonical (chunksWrite s w chunks off l) :=
  h.foldl (fun _ _ h' => h'.engineWrite)

theorem Canonical.stageMove {s w e n f dst} (h : Canonical s) : Canonical (stageMove s w e n f dst).1 := by
  unfold Machine.stageMove
  split
  · exact h.beginTraverse.of_eq ‹_› |>.passAll |>.startCopying
  · exact h.beginTraverse.of_eq ‹_›

theorem Canonical.walkReads {s w q va} (h : Canonical s) : Canonical (walkReads s w q va) := h.queryWalk

theorem Canonical.tqryWalk {s t va fromRoot} (h : Canonical s) : Canonical (tqryWalk s t va fromRoot).1 := by
  unfold Machine.tqryWalk
  dsimp only
  split
  · exact h.queryWalk.fillWalkCache
  · exact h.queryWalk.fillWalkCache.leafGroup.fillFromWalk (fun _ h' => h'.fillL1)

theorem Canonical.tqryTurn {s t va x} (h : Canonical s) : Canonical (tqryTurn s t va x).1 := by
  unfold Machine.tqryTurn
  split
  · exact h.tqryWalk
  · exact Canonical.ite h.walkReads h |>.leaveWalks |>.tqryWalk

theorem Answers.execTqry {d a s} (h : Canonical s) : Answers (execTqry d a s) :=
  .run4 (.withPorts (.bind .readG fun _ => .ite .trapM (.getS_bind fun _ h => .bind .self fun _ => by
    dsimp only
    split
    · rename_i e
      exact .bind (.modS fun _ _ => h.cacheLookup.of_eq e) fun _ => .writeG
    · refine .ite (.waitKeepM fun _ h => h.queueWalk) (.bind (.modS fun _ _ => ?_) fun _ => .writeG)
      exact .elim h.tqryTurn fun _ => .elim h.tqryTurn.walkUndecided fun _ => h.tqryTurn.walkShared))) h

theorem Canonical.reportHeat {s p window deliv starve} (h : Canonical s) : Canonical (reportHeat s p window deliv starve) := by
  unfold Machine.reportHeat
  split
  · exact .ite h h.modEngine
  · exact h

theorem Canonical.heatReport {port channel s} (h : Canonical s) : Canonical (heatReport port channel s) :=
  .ite (.ite h h.modChan.reportHeat) (.ite h h.setSwitch.reportHeat)

theorem Answers.execHeatReport {port channel s} (h : Canonical s) : Answers (execHeatReport port channel s) :=
  .next (.ite h.heatReport h)

theorem Canonical.heatReports {s} (h : Canonical s) : Canonical (heatReports s) :=
  .ite (h.foldl (fun _ _ h' => h'.foldl (fun _ _ h2 => .ite h2 h2.heatReport)) |>.foldl (fun _ _ h' => .ite h' h'.heatReport)) h

theorem Canonical.clearHeat {s p} (h : Canonical s) : Canonical (clearHeat s p) :=
  h.elsewhere

theorem Canonical.AnyFst.heatOp {s p x} (h : Canonical s) : Canonical.AnyFst (heatOp s p x) := by
  unfold Machine.heatOp
  split
  · exact .ite .none (.some h)
  · exact .ite .none (.some h)
  · exact .ite .none (.some h.modPart)
  · exact .ite .none (.some h.clearHeat)
  · exact .none

theorem Answers.execHeat {d a s} (h : Canonical s) : Answers (execHeat d a s) :=
  .run4 (.bind .requireSys fun _ => .withPorts (.bind .readG fun _ => .bind .self fun _ => .getS_bind fun _ h => by
    split
    · exact .trapM
    · rename_i e
      exact .bind (.modS fun _ _ => (Canonical.AnyFst.heatOp h).eq e) fun _ => .writeG)) h

theorem Answers.execSectorCacheAccess {pa write recordError s} (h : Canonical s) : Answers (execSectorCacheAccess pa write recordError s) :=
  .next (by
    dsimp only
    split
    · exact h
    · exact .ite (.ite h h.elsewhere.postEngineError) (.ite h.serveWrites h))

theorem Canonical.abortInto {s h' l} (h : Canonical s) : Canonical (abortInto s h' l) := h.foldl (fun _ _ h' => h'.abortSlot)

theorem Canonical.moveOut {p tiers s l} (h : Canonical s) : Canonical (moveOut p tiers s l) := by
  unfold Machine.moveOut
  dsimp only
  split
  · exact h.migrLeaf.of_eq ‹_›
  · exact .ite (h.migrLeaf.of_eq ‹_›) (by
      split
      · exact h.migrLeaf.of_eq ‹_› |>.elsewhere |>.stageMove
      · exact h.migrLeaf.of_eq ‹_›)

theorem Canonical.drainLayer {s p h' l tiers} (h : Canonical s) : Canonical (drainLayer s p h' l tiers) :=
  h.foldl (fun _ _ h' => h'.moveOut)

theorem Answers.execOffreqLayer {part value s} (h : Canonical s) : Answers (execOffreqLayer part value s) :=
  .next (by
    dsimp only
    split
    · exact .ite (Canonical.ite h.offreqWrite h |>.drainLayer) (.ite (Canonical.ite h.offreqWrite h
        |>.modPart) (Canonical.ite h.offreqWrite h |>.elsewhere |>.abortInto |>.drainLayer))
    · exact .ite h.offreqWrite h)

theorem Canonical.emptySector {p h' s a} (h : Canonical s) : Canonical (emptySector p h' s a) :=
  Canonical.ite h.carryErrors.mendLines h.carryErrors.mendLines.bumpSector |>.foldl (fun _ _ h' => h'.setSectorRecord)

theorem Canonical.disableSector {p k s a} (h : Canonical s) : Canonical (disableSector p k s a) := .sectorWith h.emptySector

theorem Answers.execLayerRemoved {part s} (h : Canonical s) : Answers (execLayerRemoved part s) :=
  .next (by
    dsimp only
    split
    · exact .ite h (h.serveWrites.foldl (fun _ _ h' => h'.disableSector) |>.elsewhere |>.modPart |>.postMail |>.raiseVector)
    · exact h)

/-! ### Copy -/

theorem Answers.execMtcfg {a b s} (h : Canonical s) : Answers (execMtcfg a b s) :=
  .run8 (.bind .requireSys fun _ => .withPorts (.bind .readG fun _ => .bind .readG fun _ => .ite .trapM (.bind .getS fun _ => by
    split
    · exact .trapM
    · exact .loadBytes (fun _ => by
        split
        · exact .trapM
        · exact .bind .getS fun _ => .ite .waitM (.modS (fun _ h3 => h3.setTile.modSwitch)))))) h

theorem Keeps.needChannel {b} : Keeps (needChannel b) :=
  .bind .getS fun _ => by
    split
    · exact .pure
    · exact .trapM

theorem Keeps.followOn {a d} : Keeps (followOn a d) := by
  unfold Machine.followOn
  split
  · exact .bind .requireLicence fun _ => .withPorts (.bind .readG fun _ => .bind .readG fun _ => .bind .readScale fun _ =>
      .bind .operandAligned fun _ => .bind .operandAligned fun _ => .bind .operandInside fun _ => .bind .operandInside fun _ => .pure)
  · exact .bind .requireLicence fun _ => .withPorts (.bind .readG fun _ => .bind .readScale fun _ => .ite (.bind .trapM fun _ =>
      .pure) (.bind .operandInside fun _ => .pure))
  · exact .trapM

theorem Canonical.enqueueCopy {s k c x} (h : Canonical s) : Canonical (enqueueCopy s k c x) :=
  h.elsewhere

theorem Keeps.copyDescriptor {a l fol} : Keeps (copyDescriptor a l fol) :=
  .bind .getS fun _ => by
    split
    · exact .ite .pure .trapM
    · exact .trapM

theorem Keeps.startCopy {x y mask fol} {k : Nat × Nat → List Byte → CopyDesc → Option MKind → M Unit}
  (hk : ∀ x0 x1 x2 x3, Keeps (k x0 x1 x2 x3)) : Keeps (Machine.startCopy x y mask fol k) := by
  refine .ite .trapM (.bind .needChannel fun _ => .bind .selfCore fun _ => ?_)
  extract_lets rest
  have hrest : ∀ u, Keeps (rest u) := fun _ => .loadBytes fun _ => .bind .copyDescriptor fun _ =>
    .bind (.ite (.bind .followOn fun _ => .pure) .pure) fun _ => .bind .getS fun _ => .ite .waitM (hk _ _ _ _)
  split
  · exact .ite (hrest ()) (.bind .trapM hrest)
  · exact hrest ()

theorem Keeps.issueCopy {a b id fol} : Keeps (issueCopy a b id fol) :=
  .withPorts (.bind .readG fun _ => .bind .readG fun _ => .startCopy (fun _ _ _ _ => .bind .getS fun _ => .ite (.modS (fun _ h' =>
    h'.enqueueCopy)) .waitM))

theorem Answers.execCpy {a b id s} (h : Canonical s) : Answers (execCpy a b id s) := .run8 .issueCopy h
theorem Answers.execCpym {a b id s} (h : Canonical s) : Answers (execCpym a b id s) := .run8 .issueCopy h

theorem Canonical.drainNode {s quad} (h : Canonical s) : Canonical (drainNode s quad) := by
  unfold Machine.drainNode
  dsimp only
  split
  · exact h
  · exact h.foldlFst (fun _ _ h' => by
      split
      · exact .iteFst h'.enqueueCopy h'
      · exact h') |>.modQuad

theorem Canonical.drainNodes {s} (h : Canonical s) : Canonical (drainNodes s) :=
  h.foldl (fun _ _ h' => .ite h' h'.drainNode)

theorem Answers.execCpyq {a b mask id s} (h : Canonical s) : Answers (execCpyq a b mask id s) :=
  .run8 (.withPorts (.bind .readG fun _ => .bind .readG fun _ => .startCopy (fun _ _ _ _ => .modS (fun _ h' => h'.modQuad.drainNode)))) h

theorem Answers.execCpyqSetRelease {quad designator s} (h : Canonical s) : Answers (execCpyqSetRelease quad designator s) :=
  .next (by
    dsimp only
    split
    · exact .ite h.modQuad.drainNode h
    · exact h)

theorem Canonical.releaseSets {s} (h : Canonical s) : Canonical (releaseSets s) :=
  h.foldl (fun _ _ h' => by
    split
    · exact h'
    · exact h'.modQuad.drainNode)

theorem Answers.execWprd {d a s} (h : Canonical s) : Answers (execWprd d a s) :=
  .run4 (.withPorts (.bind .readG fun _ => .bind .needChannel fun _ => .bind .getS fun _ => .writeG)) h

theorem Canonical.countStarve {s k c} (h : Canonical s) : Canonical (countStarve s k c) := .ite h.modChan h

theorem Canonical.countStarves {s} (h : Canonical s) : Canonical (countStarves s) :=
  h.foldl (fun _ _ h' => h'.foldl (fun _ _ h2 => by
    split
    · exact h2.countStarve
    · exact h2))

theorem Answers.execWpwait {a b s} (h : Canonical s) : Answers (execWpwait a b s) :=
  .run4 (.withPorts (.bind .readG fun _ => .bind .readG fun _ => .bind .needChannel fun _ => .bind .getS fun _ => .ite .pure .waitM)) h

theorem Canonical.stallCopy {s k c va write cause level entry} (h : Canonical s) : Canonical (stallCopy s k c va write cause level entry) :=
  h.elsewhere

theorem Canonical.walkLost {r gen cause level entry s t} (h : Canonical s) : Canonical (walkLost r gen cause level entry s t) := by
  unfold Machine.walkLost
  split
  · exact .ite h.walkFailed.modThread h.walkAgain
  · exact h

theorem Canonical.chanLost {r cause level entry s p} (h : Canonical s) : Canonical (chanLost r cause level entry s p) :=
  .ite h.stallCopy h.chanFound

theorem Canonical.walkEnds {r gen others e s} (h : Canonical s) : Canonical (walkEnds r gen others e s) := by
  unfold Machine.walkEnds
  split
  · exact h.walkShared
  · exact h.foldl (fun _ _ h' => h'.walkLost) |>.foldl (fun _ _ h' => h'.chanLost)

theorem Answers.execWalkEnd {core slot s} (h : Canonical s) : Answers (execWalkEnd core slot s) :=
  .next (by
    dsimp only
    split
    · exact .ite h.leaveWalks.threadWalk.walkEnds h.walkReads.modQuad
    · exact h)

theorem Canonical.chanWalk {s k c va write fromRoot} (h : Canonical s) : Canonical (chanWalk s k c va write fromRoot).1 := by
  unfold Machine.chanWalk
  dsimp only
  split
  · exact h.walk.fillWalkCache.fillFromWalk (fun _ h' => h'.chanFound)
  · exact h.walk.fillWalkCache.chanFound

theorem Canonical.chanWalkTurn {s k c va write j} (h : Canonical s) : Canonical (chanWalkTurn s k c va write j).1 :=
  Canonical.ite h.walkReads h |>.leaveWalks |>.chanWalk

theorem Canonical.chanXlate {s k c va write} (h : Canonical s) : Canonical (chanXlate s k c va write).1 := by
  unfold Machine.chanXlate
  dsimp only
  split
  · exact h.chanFound
  · split
    · exact h.fillL2.chanFound
    · split
      · exact h.fillFromLltc (fun _ h' => h'.chanFound)
      · split
        · split <;> exact h.chanWalkTurn.walkEnds
        · exact .iteFst (by
            split <;> exact h.chanWalk.walkEnds) h.modChan.queueMiss

theorem Canonical.readPiece {s k c x a n} (h : Canonical s) : Canonical (readPiece s k c x a n).1 :=
  .iteFst (by
    split
    · split <;> exact h
    · exact h) (.iteFst h (by
    split
    · exact h.chanXlate.of_eq ‹_›
    · exact h.chanXlate.of_eq ‹_›
    · rename_i e
      have h2 := h.chanXlate.of_eq e
      split <;> exact h2.engineRead.of_eq ‹_›))

theorem Canonical.feedWritten {s k c o off n} (h : Canonical s) : Canonical (feedWritten s k c o off n) := by
  unfold Machine.feedWritten
  dsimp only
  split
  · exact .ite h.setTile h
  · exact h

theorem Canonical.touchGrain {s k c again o granule first n} (h : Canonical s) : Canonical (touchGrain s k c again o granule first n).1 :=
  h.elsewhere

theorem Canonical.forgetGrains {s k c} (h : Canonical s) : Canonical (forgetGrains s k c) :=
  h.elsewhere

theorem Canonical.writeLocal {s k c x o off l} (h : Canonical s) : Canonical (writeLocal s k c x o off l) :=
  h.touchGrain.foldl (fun _ _ h' => h'.localWrite)

theorem Canonical.writeGlobal {s k c x pa moving l} (h : Canonical s) : Canonical (writeGlobal s k c x pa moving l) :=
  h.touchGrain.foldl (fun _ _ h' => h'.engineWrite)

theorem Canonical.writePiece {s k c x a l} (h : Canonical s) : Canonical (writePiece s k c x a l).1 := by
  unfold Machine.writePiece
  split
  · refine h.foldlFst fun r t h => ?_
    split
    · split
      · exact h.writeLocal.feedWritten
      · exact h
    · exact h
  split
  · exact h
  split <;> (rename_i e; have k := h.chanXlate.of_eq e)
  · exact k
  · exact k
  · exact k.writeGlobal

theorem Canonical.abortCopy {s k c code a} (h : Canonical s) : Canonical (abortCopy s k c code a) :=
  h.elsewhere

theorem Canonical.completeCopy {s k c x} (h : Canonical s) : Canonical (completeCopy s k c x) :=
  h.elsewhere

theorem Canonical.countHeat {s k c pa n} (h : Canonical s) : Canonical (countHeat s k c pa n) :=
  .ite (.ite h.modChan h.reportHeat.modChan) h

theorem Canonical.countParts {k c l done s} (h : Canonical s) : Canonical (countParts k c l done s) := by
  induction l generalizing done s with
  | nil => exact h
  | cons p rest ih =>
    unfold Machine.countParts
    split
    · exact ih (h.chanXlate.of_eq ‹_›).countHeat
    · exact h.chanXlate.of_eq ‹_›

theorem Canonical.enterFollowOn {s k c x f n} (h : Canonical s) : Canonical (enterFollowOn s k c x f n) :=
  h.elsewhere

theorem Canonical.landPiece {s k c x n} (h : Canonical s) : Canonical (landPiece s k c x n) :=
  .ite h.modChan.modChan (by
    split
    · exact h.modChan.modChan.completeCopy
    · exact .ite h.modChan.enterFollowOn h.modChan.modChan)

theorem Canonical.startChannel {s k c} (h : Canonical s) : Canonical (startChannel s k c) := by
  unfold Machine.startChannel
  dsimp only
  split
  · exact .ite h h.forgetGrains.modChan.drainNodes
  · exact h

theorem Canonical.readParts {k c x l s} (h : Canonical s) : Canonical (readParts k c x l s).1 := by
  induction l generalizing s with
  | nil => exact h
  | cons p rest ih =>
    unfold Machine.readParts
    split
    · exact ih (h.readPiece.of_eq ‹_›)
    · exact h.readPiece.of_eq ‹_›

theorem Canonical.writeParts {k c x ps l s} (h : Canonical s) : Canonical (writeParts k c x ps l s).1 := by
  induction ps generalizing l s with
  | nil => exact h
  | cons p rest ih =>
    unfold Machine.writeParts
    split
    · exact ih (h.writePiece.of_eq ‹_›)
    · exact h.writePiece

theorem Canonical.pieceStops {s k c x} (h : Canonical s) : Canonical (pieceStops s k c x) := by
  unfold Machine.pieceStops
  split
  · exact h.abortCopy
  · exact h.stallCopy
  · exact h

theorem Canonical.deliverPiece {s k c x done l} (h : Canonical s) : Canonical (deliverPiece s k c x done l) := by
  unfold Machine.deliverPiece
  split
  · exact Canonical.ite (h.writeParts.of_eq ‹_›) (h.writeParts.of_eq ‹_› |>.countParts) |>.landPiece
  · exact h.writeParts.of_eq ‹_› |>.pieceStops

theorem Canonical.movePiece {s k c} (h : Canonical s) : Canonical (movePiece s k c) := by
  unfold Machine.movePiece
  dsimp only
  split
  · exact h
  · exact .ite h (by
      split
      · exact h.readParts.of_eq ‹_› |>.deliverPiece
      · exact .ite (h.readParts.of_eq ‹_› |>.abortCopy) (h.readParts.of_eq ‹_› |>.deliverPiece)
      · exact h.readParts.of_eq ‹_› |>.pieceStops)

theorem Canonical.startChannels {s} (h : Canonical s) : Canonical (startChannels s) :=
  h.foldl (fun _ _ h' => .ite (h'.foldl (fun _ _ h2 => .ite h2.startChannel h2)) h')

theorem Answers.execCopyPiece {tile chan s} (h : Canonical s) : Answers (execCopyPiece tile chan s) :=
  .next (.ite h.startChannel.movePiece h)

theorem Answers.execCopyErrClear {tile chan s} (h : Canonical s) : Answers (execCopyErrClear tile chan s) := .next h.chanWrite

theorem Canonical.followOnEnters {s tile chan} (h : Canonical s) : Canonical (followOnEnters s tile chan) := by
  unfold Machine.followOnEnters
  dsimp only
  split
  · split
    · exact .ite h.enterFollowOn h
    · exact h
  · exact h

theorem Answers.execCpymFollowOn {tile chan s} (h : Canonical s) : Answers (execCpymFollowOn tile chan s) := .next h.followOnEnters

theorem Canonical.followOnsEnter {s} (h : Canonical s) : Canonical (followOnsEnter s) :=
  h.foldl (fun _ _ h' => h'.foldl (fun _ _ h2 => .ite h2.followOnEnters h2))

/-! ### Fetch -/

theorem Canonical.fetchWord {s t va} (h : Canonical s) : Canonical (fetchWord s t va).1 :=
  .iteFst h (by
    split
    · exact h.threadXlate.of_eq ‹_›
    · rename_i e
      have h2 := h.threadXlate.of_eq e
      dsimp only
      split <;> exact h2.noticeError)

theorem Canonical.fetchInstr {s t} (h : Canonical s) : Canonical (fetchInstr s t).1 := by
  unfold Machine.fetchInstr
  dsimp only
  split <;> (rename_i e; have k := h.fetchWord.of_eq e)
  · exact k
  · refine .iteFst ?_ k
    split <;> exact k.fetchWord.of_eq ‹_›

theorem Canonical.nextInstr {s t} (h : Canonical s) : Canonical (nextInstr s t).1 := by
  unfold Machine.nextInstr
  split
  · exact .iteFst h h.fetchInstr
  · exact h.fetchInstr

theorem Canonical.noteBegun {i t s} (h : Canonical s) : Canonical (noteBegun i t s) := .ite h.modThread h

/-! ### Network -/

theorem Canonical.sendLink {s k l w} (h : Canonical s) : Canonical (sendLink s k l w) := .ite h.modSwitch h.elsewhere

theorem Canonical.popInput {s r k p} (h : Canonical s) : Canonical (popInput s r k p) :=
  h.elsewhere

theorem Canonical.advanceRead {s k j} (h : Canonical s) : Canonical (advanceRead s k j) :=
  h.elsewhere

theorem Canonical.doWrite {s k b w} (h : Canonical s) : Canonical (doWrite s k b w) := h.localWrite.modTile

theorem Canonical.modGen {s k write f} (h : Canonical s) : Canonical (modGen s k write f) :=
  h.elsewhere

theorem Canonical.latchNode {s k write e} (h : Canonical s) : Canonical (latchNode s k write e) :=
  h.elsewhere

theorem Canonical.nodeWalk {s k write va} (h : Canonical s) : Canonical (nodeWalk s k write va).1 := by
  unfold Machine.nodeWalk
  dsimp only
  split
  · exact h.walk.fillLltc.latchNode
  · exact h.walk.latchNode

theorem Canonical.Any.takeWalker {s k write va} (h : Canonical s) : Canonical.Any (takeWalker s k write va) :=
  .ite (.some h) (.ite (.some h.modLltc) .none)

theorem Canonical.queueNode {s k write va} (h : Canonical s) : Canonical (queueNode s k write va) :=
  .ite h.modGen h.modGen.modLltc

theorem Canonical.AnyFst.nodeCached {s k write va} (h : Canonical s) : Canonical.AnyFst (nodeCached s k write va) := by
  unfold Machine.nodeCached
  dsimp only
  split
  · exact .some h.latchNode
  · exact .map fun _ => h.fillLltc.latchNode

theorem Canonical.nodeXlate {s k write va} (h : Canonical s) : Canonical (nodeXlate s k write va).1 := by
  unfold Machine.nodeXlate
  split <;> rename_i e
  · exact (Canonical.AnyFst.nodeCached h).eq e
  split <;> rename_i e
  · exact ((Canonical.Any.takeWalker h).eq e).nodeWalk
  · exact h.queueNode

theorem Canonical.stallNode {s k write va cause level entry} (h : Canonical s) : Canonical (stallNode s k write va cause level entry) :=
  h.elsewhere

theorem Canonical.nodeRead {k l s} (h : Canonical s) : Canonical (nodeRead k l s).1 := by
  induction l generalizing s with
  | nil => exact h
  | cons p rest ih =>
    unfold Machine.nodeRead
    split
    · exact h
    split <;> (rename_i e; have k := h.nodeXlate.of_eq e)
    · exact k.stallNode
    · exact k
    split <;> (rename_i e; have k := k.engineRead.of_eq e)
    · exact k
    · split
      · exact (ih k).of_eq ‹_›
      · exact ih k

theorem Canonical.nodePrepare {k l s} (h : Canonical s) : Canonical (nodePrepare k l s).1 := by
  induction l generalizing s with
  | nil => exact h
  | cons p rest ih =>
    unfold Machine.nodePrepare
    split
    · exact h
    split <;> (rename_i e; have k := h.nodeXlate.of_eq e)
    · exact k.stallNode
    · exact k
    · exact ih k

theorem Canonical.nodeWrite {k ps l s} (h : Canonical s) : Canonical (nodeWrite k ps l s) := by
  induction ps generalizing l s with
  | nil => exact h
  | cons p rest ih =>
    unfold Machine.nodeWrite
    split
    · exact ih (h.nodeXlate.of_eq ‹_›).engineWrite
    · exact h.nodeXlate.of_eq ‹_›

theorem Canonical.elementFault {s rk k cause} (h : Canonical s) : Canonical (elementFault s rk k cause) := by
  unfold Machine.elementFault
  split
  · exact h
  · exact .ite h h.setRegion.postMail

theorem Canonical.prepareWrites {l s} (h : Canonical s) : Canonical (prepareWrites l s).1 :=
  h.foldlFst (fun _ _ h' => .iteFst h' (.iteFst h' (by
    split <;> exact h'.nodePrepare.of_eq ‹_›)))

theorem Canonical.deliverC {s k e} (h : Canonical s) : Canonical (deliverC s k e) := by
  unfold Machine.deliverC
  split
  · exact h
  · split
    · exact h.modSwitch
    · split
      · exact h.doWrite
      · exact h
    · exact h.nodeWrite.modGen
    · exact h.elsewhere

theorem Canonical.performRow {r s x} (h : Canonical s) : Canonical (performRow r s x) :=
  Canonical.deliverC (by
    split
    · exact h.foldl (fun _ _ h' => h'.popInput) |>.modSwitch |>.advanceRead
    · exact h.foldl (fun _ _ h' => h'.popInput) |>.modSwitch) |>.foldl (fun _ _ h' => by
    split
    · exact h'.sendLink
    · exact h')

theorem Canonical.countNodeStarve {s r st c} (h : Canonical s) : Canonical (countNodeStarve s r st c) :=
  .ite h (h.foldl (fun _ _ h' => .ite h'.modGen h'))

theorem Canonical.setSegment {s rk st f} (h : Canonical s) : Canonical (setSegment s rk st f) := h.modRegion

theorem Canonical.startSegment {s rk st} (h : Canonical s) : Canonical (startSegment s rk st) := by
  unfold Machine.startSegment
  split
  · exact h
  · exact .ite h.setSegment (h.setSegment.foldl (fun _ _ h' => h'.modGen.modSwitch))

theorem Canonical.startRun {s rk} (h : Canonical s) : Canonical (startRun s rk) := by
  unfold Machine.startRun
  split
  · exact h.foldl (fun _ _ h' => h'.startSegment)
  · exact h

theorem Canonical.holdSegment {s rk st c r own} (h : Canonical s) : Canonical (holdSegment s rk st c r own) :=
  h.countNodeStarve.setSegment

theorem Canonical.advanceSegment {s rk st r} (h : Canonical s) : Canonical (advanceSegment s rk st r) := by
  unfold Machine.advanceSegment
  dsimp only
  split
  · exact h.setSegment
  · exact .ite (.ite h.setSegment.setSegment.startSegment h.setSegment.setSegment) h.setSegment

theorem Canonical.attemptSegment {s rk st} (h : Canonical s) : Canonical (attemptSegment s rk st) := by
  unfold Machine.attemptSegment
  split
  · exact h
  · exact .ite h (.ite h.setSegment (.ite h.holdSegment (by
      split
      · exact h.holdSegment
      · split
        · exact .ite h.holdSegment h.elementFault.holdSegment
        · exact .ite h.holdSegment (by
            split
            · exact h.prepareWrites.of_eq ‹_› |>.elementFault |>.holdSegment
            · exact h.prepareWrites.of_eq ‹_› |>.holdSegment
            · exact h.prepareWrites.of_eq ‹_› |>.foldl (fun _ _ h' => h'.performRow) |>.advanceSegment))))

theorem Canonical.attemptAll {s} (h : Canonical s) : Canonical (attemptAll s) :=
  h.foldl (fun _ _ h' => h'.foldl (fun _ _ h2 => h2.attemptSegment))

theorem Canonical.outerLanded {s c} (h : Canonical s) : Canonical (outerLanded s c) := .ite h.modSwitch h
theorem Canonical.landWord {s c} (h : Canonical s) : Canonical (landWord s c) := .ite h.modSwitch.outerLanded h.modSwitch

theorem Canonical.linkFault {s node} (h : Canonical s) : Canonical (linkFault s node) := by
  unfold Machine.linkFault
  split
  · exact h.elementFault
  · exact h

theorem Canonical.loseWord {s node port} (h : Canonical s) : Canonical (loseWord s node port) := by
  unfold Machine.loseWord
  dsimp only
  split
  · exact .ite h.modSwitch.linkFault h
  · exact h

theorem Canonical.crossingArrival {s node port err} (h : Canonical s) : Canonical (crossingArrival s node port err) := by
  unfold Machine.crossingArrival
  split
  · exact .ite h.loseWord h
  · exact .ite h (.ite h.elsewhere.outerLanded.linkFault h.elsewhere.landWord)

theorem Canonical.landDue {s} (h : Canonical s) : Canonical (landDue s) :=
  h.foldl (fun _ _ h' => .ite h'.crossingArrival h')

theorem Answers.execSegmentAttempt {region stack s} (h : Canonical s) : Answers (execSegmentAttempt region stack s) :=
  .next h.landDue.attemptSegment

theorem Answers.execCrossingWordArrival {node port linkError s} (h : Canonical s) : Answers
  (execCrossingWordArrival node port linkError s) :=
  .next h.crossingArrival

theorem Canonical.countNodeHeat {s k pa n} (h : Canonical s) : Canonical (countNodeHeat s k pa n) :=
  .ite (.ite h.modGen h.reportHeat.modGen) h

theorem Canonical.padWord {s l} (h : Canonical s) : Canonical (padWord s l).1 := h.elsewhere

theorem Canonical.streamFetch {s k} (h : Canonical s) : Canonical (streamFetch s k) := by
  unfold Machine.streamFetch
  dsimp only
  split
  · exact .ite h (by
      split
      · exact h.nodeRead.of_eq ‹_› |>.elementFault
      · exact h.nodeRead.of_eq ‹_›
      · rename_i e
        have h2 := h.nodeRead.of_eq e
        split
        · exact h2.padWord.modSwitch.modGen.nodeXlate.of_eq ‹_› |>.countNodeHeat
        · exact h2.padWord.modSwitch.modGen.nodeXlate.of_eq ‹_›)
  · exact h

theorem Answers.execStreamFetch {node s} (h : Canonical s) : Answers (execStreamFetch node s) := .next h.streamFetch

theorem Canonical.injectAll {s} (h : Canonical s) : Canonical (injectAll s) :=
  h.foldl (fun _ _ h' => by
    split
    · exact h'.elsewhere
    · exact h')

theorem Canonical.messageChoice {s l} (h : Canonical s) : Canonical (messageChoice s l).2 := by
  unfold Machine.messageChoice
  split
  · exact h
  · exact h
  · exact h.elsewhere

theorem Answers.execUserMessageArrival {core chan s} (h : Canonical s) : Answers (execUserMessageArrival core chan s) :=
  .next (.ite h (by
    split
    · exact h.messageChoice.of_eqSnd ‹_› |>.elsewhere |>.modCore
    · exact h.messageChoice.of_eqSnd ‹_›))

theorem Answers.execPstat {d s} (h : Canonical s) : Answers (execPstat d s) := .run4 (.withPorts (.bind .getS fun _ => .writeG)) h

theorem Answers.execPtry {d a b s} (h : Canonical s) : Answers (execPtry d a b s) :=
  .run4 (.withPorts (.bind .readG fun _ => .bind .getS fun _ => .ite .writeG (.ite .waitM (by
    dsimp only
    split
    · exact .writeG
    · exact .bind (.modS (fun _ h2 => h2.modSwitch)) fun _ => .bind .writeG fun _ => .writeG)))) h

theorem Answers.execDsend {a b s} (h : Canonical s) : Answers (execDsend a b s) :=
  .run4 (.withPorts (.bind .readG fun _ => .bind .readG fun _ => .bind .getS fun _ => by
    split
    · exact .trapM
    · exact .ite .waitM (.modS (fun _ h2 => h2.modCore)))) h

theorem Answers.execDrecv {d a s} (h : Canonical s) : Answers (execDrecv d a s) :=
  .run4 (.withPorts (.bind .readG fun _ => .bind .getS fun _ => by
    dsimp only
    split
    · exact .bind (.modS (fun _ h2 => h2.modCore.modCore)) fun _ => .writeG
    · exact .waitKeepM (fun _ h2 => h2.modCore))) h

/-! ### Belay -/

theorem Canonical.detectTree {rk s tg} (h : Canonical s) : Canonical (detectTree rk s tg) := by
  unfold Machine.detectTree
  split
  · exact h
  · exact .ite h (by
      split
      · exact h.setRegion
      · exact h)

theorem Canonical.detectBarrier {q s g} (h : Canonical s) : Canonical (detectBarrier q s g) :=
  .ite h (by
    split
    · exact h.modQuad
    · exact h)

theorem Canonical.commitEntries {s} (h : Canonical s) : Canonical (commitEntries s) :=
  h.elsewhere

theorem Canonical.dropParty {s t} (h : Canonical s) : Canonical (dropParty s t) :=
  h.elsewhere

theorem Canonical.releaseParty {part s p} (h : Canonical s) : Canonical (releaseParty part s p) := by
  unfold Machine.releaseParty
  split
  · exact .ite h (.ite h.modThread.takeBoundary h.modThread)
  · exact h.modPart

theorem Canonical.advancePhase {e s p} (h : Canonical s) : Canonical (advancePhase e s p) := by
  unfold Machine.advancePhase
  split
  · exact h
  · exact .ite h.setRegion.startRun h.setRegion

theorem Canonical.advanceSaved {part g s p} (h : Canonical s) : Canonical (advanceSaved part g s p) :=
  h.elsewhere

theorem Canonical.releaseTree {s rk e t} (h : Canonical s) : Canonical (releaseTree s rk e t) := by
  unfold Machine.releaseTree
  split
  · exact h
  · exact h.setRegion.foldl (fun _ _ h' => h'.releaseParty) |>.foldl (fun _ _ h' => h'.advanceSaved) |>.foldl (fun _ _ h' =>
      h'.advancePhase)

theorem Canonical.releaseBarrier {s q e} (h : Canonical s) : Canonical (releaseBarrier s q e) := by
  unfold Machine.releaseBarrier
  dsimp only
  split
  · split
    · exact h.modQuad.foldl (fun _ _ h' => h'.releaseParty) |>.modRegion
    · exact h.modQuad.foldl (fun _ _ h' => h'.releaseParty)
  · exact h.modQuad.foldl (fun _ _ h' => h'.releaseParty)

theorem Answers.execEpisodeRelease {region quad level tree group s} (h : Canonical s)
  : Answers (execEpisodeRelease region quad level tree group s) :=
  .next (.ite (by
    split
    · exact h.releaseBarrier
    · exact h) (by
    split
    · exact h.releaseTree
    · exact h))

theorem Canonical.completeSaved {part v s tg} (h : Canonical s) : Canonical (completeSaved part v s tg) := by
  unfold Machine.completeSaved
  split
  · exact h.foldl (fun _ _ h' => h'.releaseParty) |>.foldl (fun _ _ h' => h'.advanceSaved)
  · exact h

theorem Canonical.detectSaved {s part} (h : Canonical s) : Canonical (detectSaved s part) :=
  h.foldl (fun _ _ h' => .ite (h'.foldl (fun _ _ h2 => h2.completeSaved)) h')

theorem Canonical.detectEpisodes {s} (h : Canonical s) : Canonical (detectEpisodes s) :=
  h.foldl (fun _ _ h' => h'.foldl (fun _ _ h2 => h2.detectTree)) |>.foldl (fun _ _ h' => h'.foldl (fun _ _ h2 =>
    h2.detectBarrier)) |>.foldl (fun _ _ h' => .ite h' h'.detectSaved)

theorem Keeps.memberCheck {l} : Keeps (memberCheck l) := .bind .getS fun _ => .bind .self fun _ => .ite .pure .trapM

theorem Answers.execArrive {l s} (h : Canonical s) : Answers (execArrive l s) :=
  .run4 (.bind .memberCheck fun _ => .bind .self fun _ => .ite .waitM .modSelf) h

theorem Answers.execWait {l s} (h : Canonical s) : Answers (execWait l s) := .run4 (.bind .self fun _ => .ite .waitM .pure) h

theorem Answers.execBtest {d l s} (h : Canonical s) : Answers (execBtest d l s) :=
  .run4 (.withPorts (.bind .self fun _ => .writeG)) h

theorem Answers.execBmem {a s} (h : Canonical s) : Answers (execBmem a s) :=
  .run4 (.withPorts (.bind .readG fun _ => .bind .getS fun _ => by
    split
    · exact .trapM
    · exact .ite .trapM (.ite .waitM (.modS (fun _ h2 => h2.modRegion))))) h

theorem Answers.execPhase {l s} (h : Canonical s) : Answers (execPhase l s) :=
  .run4 (.bind .self fun _ => .ite (.ite .waitM .pure) (.bind .memberCheck fun _ => .ite (.waitKeepM (fun _ h' =>
    h'.publish)) (.waitKeepM (fun _ h' => h'.publish.modThread)))) h

theorem Answers.execDomain {a l s} (h : Canonical s) : Answers (execDomain a l s) :=
  .run4 (.withPorts (.bind .readG fun _ => .bind .getS fun _ => .bind .self fun _ => .ite .trapM .modSelf)) h

/-! ### Image -/

theorem KeepsRd.rdFail : KeepsRd (rdFail : Rd α) := fun _ h => h
theorem KeepsRd.rdCheck {b} : KeepsRd (rdCheck b) := .ite .pure .rdFail
theorem KeepsRd.rdOpt {o} : KeepsRd (rdOpt o : Rd α) := fun _ h => h

theorem KeepsRd.rdPiece {w va n} : KeepsRd (rdPiece w va n) := by
  intro s h
  unfold Machine.rdPiece
  split
  · split <;> exact (h.walk.of_eq ‹_›).engineRead.of_eq ‹_›
  · exact h.walk.of_eq ‹_›

theorem KeepsRd.rdPieces {w l} : KeepsRd (rdPieces w l) := by
  induction l with
  | nil => exact .pure
  | cons p rest ih => exact .bind .rdPiece fun _ => .bind ih fun _ => .pure

theorem KeepsRd.rdBytes {w va n} : KeepsRd (rdBytes w va n) := .bind .rdCheck fun _ => .rdPieces

theorem KeepsRd.rdSections {w config l} : KeepsRd (rdSections w config l) := by
  induction l with
  | nil => exact .pure
  | cons e rest ih =>
    unfold Machine.rdSections
    split
    · exact .bind .pure fun _ => .bind ih fun _ => .pure
    · exact .bind .rdBytes fun _ => .bind ih fun _ => .pure

theorem KeepsRd.rdDataPlaces {w config l es} : KeepsRd (rdDataPlaces w config l es) := by
  induction es with
  | nil => exact .pure
  | cons e rest ih =>
    refine .ite (.bind .rdOpt fun c => .bind .rdCheck fun _ => ?_) ih
    exact .ite (.bind .pure fun _ => .bind .rdCheck fun _ => ih) (.bind .rdBytes fun _ => .bind .rdCheck fun _ => ih)

theorem KeepsRd.rdCairnPlaces {w config c l} : KeepsRd (rdCairnPlaces w config c l) := by
  induction l with
  | nil => exact .pure
  | cons e rest ih => exact .bind .rdCheck fun _ => .bind .rdBytes fun _ => .bind .rdCheck fun _ => ih

theorem KeepsRd.rdCairnTables {w config l cairns es} : KeepsRd (rdCairnTables w config l cairns es) := by
  induction es with
  | nil => exact .pure
  | cons e rest ih => exact .ite (.bind .rdOpt fun _ => .bind .rdCairnPlaces fun _ => ih) ih

theorem KeepsRd.rdImage {w config} : KeepsRd (rdImage w config) :=
  .bind .rdBytes fun _ => .bind .rdOpt fun _ => .bind .rdBytes fun _ => .bind .rdCheck fun _ => .bind .rdSections fun _ =>
    .bind .rdDataPlaces fun _ => .bind .rdOpt fun _ => .bind .rdCairnTables fun _ => .pure

/-! ### Threads -/

theorem Canonical.sysWrite {s t r v} (h : Canonical s) : Canonical (sysWrite s t r v) := by
  unfold Machine.sysWrite
  dsimp only
  split
  · exact h.modThread
  · exact h.modThread
  · exact h.modThread
  · exact h.modThread
  · exact h.modThread
  · exact h.modThread
  · exact h.modThread
  · exact h.modThread
  · exact h.modThread
  · exact h.modThread
  · exact h.modThread
  · exact .ite h.modCore h
  · exact h.modCore
  · exact h.modCore
  · exact h.modThread
  · exact h.modThread
  · exact h.modThread
  · exact h.modThread
  · exact h.modThread
  · exact h.modThread
  · exact h

theorem Answers.execMfs {d r s} (h : Canonical s) : Answers (execMfs d r s) :=
  .run4 (.ite (.bind .requireSys fun _ => .withPorts (.bind .getS fun _ => .writeG)) (.withPorts (.bind .getS fun _ => .writeG))) h

theorem Answers.execMts {a r s} (h : Canonical s) : Answers (execMts a r s) :=
  .run4 (.ite (.withPorts (.bind .readG fun _ => .modS (fun _ h' => h'.sysWrite))) (.bind .requireSys fun _ =>
    .withPorts (.bind .readG fun _ => .modS (fun _ h' => h'.sysWrite)))) h

theorem Answers.execTrap {n s} (h : Canonical s) : Answers (execTrap n s) := .run4 .trapM h
theorem Answers.execEret {s} (h : Canonical s) : Answers (execEret s) := .runJump (.bind .requireSys fun _ => .returnFromTrap) h

theorem Canonical.acceptPacket {s core slot p} (h : Canonical s) : Canonical (acceptPacket s core slot p) :=
  h.elsewhere

theorem Canonical.admitWaiting {s core} (h : Canonical s) : Canonical (admitWaiting s core) :=
  h.foldl (fun _ _ h' => by
    split
    · exact h'.modCore.acceptPacket
    · exact h')

theorem Canonical.asThread {s t} {m : M Unit} (h : Canonical s) (hm : Keeps m) : Canonical (asThread s t m) :=
  Canonical.elsewhere (s := Machine.effectOf m { s with cur := t }) (.effectOf hm h.elsewhere)

theorem Canonical.noteRefusal {s t} (h : Canonical s) : Canonical (noteRefusal s t) :=
  h.elsewhere

theorem Canonical.endArrival {s u d result pc} (h : Canonical s) : Canonical (endArrival s u d result pc) :=
  h.asThread .writeG |>.releasePorts |>.retire |>.markIssued

theorem Canonical.refuseArrivals {t n sel s} (h : Canonical s) : Canonical (refuseArrivals t n sel s) := by
  induction n generalizing sel s with
  | zero => exact h
  | succ n ih =>
    refine .ite h (ih (h.foldl fun _ _ h => ?_))
    dsimp only
    split
    · exact h.noteRefusal.endArrival
    · exact h

theorem Canonical.refuseNaming {s t q} (h : Canonical s) : Canonical (refuseNaming s t q) := h.refuseArrivals

theorem Canonical.formRope {s t mask} (h : Canonical s) : Canonical (formRope s t mask) :=
  h.foldl (fun _ _ h' => .ite h'.modThread (by
    split
    · exact h'.modThread.endArrival
    · exact h'.modThread))

theorem Answers.execRope {d mask s} (h : Canonical s) : Answers (execRope d mask s) :=
  .runJump (.withPorts (.bind .getS fun _ => .bind .self fun _ => .ite (.bind .writeG fun _ => .pure) (.ite (.bind (.modS (fun _ h2 =>
    h2.noteRefusal.refuseNaming)) fun _ => .bind .writeG fun _ => .pure) (.ite (.bind (.modS (fun _ h2 =>
    h2.refuseArrivals.formRope)) fun _ => .bind .writeG fun _ => .pure) (.waitKeepM (fun _ h2 => h2.refuseArrivals)))))) h

theorem Answers.execSplit {s} (h : Canonical s) : Answers (execSplit s) := .run4 (.modS (fun _ h' => h'.dissolveRope)) h

theorem Canonical.retainScratch {s t handle} (h : Canonical s) : Canonical (retainScratch s t handle) :=
  h.elsewhere

theorem Canonical.freeSlotOf {s t} (h : Canonical s) : Canonical (freeSlotOf s t) :=
  Canonical.ite h.setThread.modCore h.setThread.modCore.refuseNaming |>.admitWaiting

theorem Canonical.coreEmptied {s t} {retained : Option State} (h : Canonical s) (hretained : Canonical.Any retained) :
    Canonical (coreEmptied s t retained) := by
  cases retained with
  | none => exact .ite h.modCore h.modCore.releaseLicence
  | some r => exact .ite (hretained r rfl) (hretained r rfl).releaseLicence

theorem Canonical.haltThread {s t handle} (h : Canonical s) : Canonical (haltThread s t handle) := by
  unfold Machine.haltThread
  refine .ite ?_ h.performAll.freeSlotOf
  cases handle with
  | none => exact h.performAll.freeSlotOf.coreEmptied .none
  | some x => exact h.performAll.retainScratch.freeSlotOf.coreEmptied (.some h.performAll.retainScratch.freeSlotOf)

theorem Answers.haltWork {s} {handle : M (Option Word)} (hhandle : Keeps handle) (h : Canonical s) : Answers (haltWork handle s) := by
  have hm := Keeps.bind (f := fun o => Machine.getS >>= fun s => if fenceWaits s s.cur 0 then
      Machine.waitKeepM .condition fun s => performAll s s.cur else Machine.modS fun s => haltThread s s.cur o) hhandle
    fun _ => .getS_bind fun _ _ => .ite (.waitKeepM fun _ h => h.performAll) (.modS fun _ h => h.haltThread)
  unfold Machine.haltWork
  dsimp only
  split <;> rename_i e
  · exact .next (hm.ok_run h e)
  · exact .next (hm.error_run h e s h).takeTrap
  · exact .next (hm.error_run h e s h).blockThread

theorem Answers.execHalt {s} (h : Canonical s) : Answers (execHalt s) := .haltWork .pure h
theorem Answers.execHaltRetain {a s} (h : Canonical s) : Answers (execHaltRetain a s) := .haltWork (.bind .readG fun _ => .pure) h
theorem Answers.execYield {n s} (h : Canonical s) : Answers (execYield n s) := .run4 (.modS (fun _ h' => h'.modThread)) h

theorem Answers.execYieldExpiry {core slot s} (h : Canonical s) : Answers (execYieldExpiry core slot s) :=
  .next (.ite h.modThread h)

/-! ### Install -/

theorem KeepsRd.rdLaunch {w cmd} : KeepsRd (rdLaunch w cmd) :=
  .bind .rdBytes fun _ => .bind .rdOpt fun _ => .bind .rdImage fun _ => .bind .rdCheck fun _ => .ite (.bind .pure fun _ =>
    .bind .rdOpt fun _ => .bind .rdBytes fun _ => .bind .rdCheck fun _ => .pure) (.bind .rdBytes fun _ => .bind .rdOpt fun _ =>
    .bind .rdBytes fun _ => .bind .rdCheck fun _ => .pure)

theorem Canonical.addBallast {s d n} (h : Canonical s) : Canonical (addBallast s d n) :=
  h.elsewhere

theorem Canonical.ballastDie {old s d} (h : Canonical s) : Canonical (ballastDie old s d) := .ite h.addBallast h

theorem Canonical.ballastRegion {s r} (h : Canonical s) : Canonical (ballastRegion s r) :=
  h.foldl (fun _ _ h' => .ite h' h'.modCore) |>.foldl (fun _ _ h' => .ite h'.addBallast h')

theorem Canonical.installTile {g handle r s pos} (h : Canonical s) : Canonical (installTile g handle r s pos) :=
  .ite h.modSwitch.setCore h.modSwitch.modTile

theorem Canonical.prefillSide {k write base d strides fuel done s} (h : Canonical s) :
    Canonical (prefillSide k write base d strides fuel done s) := by
  induction fuel generalizing done s with
  | zero => exact h
  | succ n ih =>
    refine .ite h (.ite (ih h) ?_)
    dsimp only
    split
    · exact ih h
    · exact ih (Canonical.AnyFst.getD (.nodeCached h) h.nodeWalk)

theorem Canonical.prefillNode {s k} (h : Canonical s) : Canonical (prefillNode s k) := by
  unfold Machine.prefillNode
  dsimp only
  split
  · exact Canonical.prefillSide (by
      split
      · exact h.prefillSide
      · exact h)
  · split
    · exact h.prefillSide
    · exact h

theorem Canonical.installState {s g r} (h : Canonical s) : Canonical (installState s g r) :=
  h.ballastRegion.foldl (fun _ _ h' => h'.installTile) |>.modPart |>.foldl (fun _ _ h' => h'.modSwitch) |>.foldl (fun _ _ h' =>
    h'.modSwitch) |>.foldl (fun _ _ h' => h'.setPair) |>.foldl (fun _ _ h' => h'.modQuad) |>.setRegion |>.foldl (fun _ _ h' =>
    h'.prefillNode)

theorem Canonical.installLaunch {s o inst c g b a} (h : Canonical s) : Canonical (installLaunch s o inst c g b a) :=
  Canonical.ite h.installState.startRun h.installState |>.elsewhere

/-! ### Ending -/

theorem Canonical.signalToken {s w sig} (h : Canonical s) : Canonical (signalToken s w sig) := by
  unfold Machine.signalToken
  split
  · exact h
  · exact .ite (by
      split
      · exact h.tableRead.of_eq ‹_› |>.tableWrite
      · exact h.tableRead.of_eq ‹_›) h

theorem Canonical.depMet {w} {r : State × Bool} {dep} (hr : Canonical r.1) : Canonical (depMet w r dep).1 :=
  .iteFst hr (by
    split
    · exact hr
    · split <;> exact hr.tableRead.of_eq ‹_›)

/-- Whether a launch may be staged: its head launch stands already, or its dependencies are read. -/
def stagingDeps (w : Who) (deps : List Word) (o : Option HeadLaunch) (s : State) : State × Bool :=
  match o with
  | some _ => (s, true)
  | none => deps.foldl (Machine.depMet w) (s, true)

theorem Canonical.stagingDeps {w deps o s} (h : Canonical s) : Canonical (stagingDeps w deps o s).1 := by
  cases o with
  | none => exact .foldlFst (r := (s, true)) h fun _ _ h => h.depMet
  | some => exact h

theorem Canonical.queueNames {p handle} {r : State × Bool} {q} (hr : Canonical r.1) : Canonical (queueNames p handle r q).1 :=
  hr.foldlFst (fun _ _ h => .iteFst h (KeepsRd.rdBytes _ h))

theorem Canonical.handleQueued {s p handle} (h : Canonical s) : Canonical (handleQueued s p handle).1 :=
  .iteFst h (h.foldlFst (fun _ _ h' => Canonical.queueNames h'))

theorem Canonical.reclaimRetentions {s r} (h : Canonical s) : Canonical (reclaimRetentions s r) := by
  have released : ∀ s k, Canonical s → Canonical (match (getCore s k).retention with
      | none => s
      | some t =>
        match Machine.handleQueued s r.part t.handle with
        | (s, true) => Machine.modCore s k fun c => { c with retention := some { t with ended := true } }
        | (s, false) => Machine.modCore s k powerDown) := fun s k h => by
    split
    · exact h
    · split <;> exact (h.handleQueued.of_eq ‹_›).modCore
  refine .ite (.modPart (.foldlFst (h.foldl released) fun a x h => .iteFst ?_ h)) (h.foldl released)
  split <;> exact h.handleQueued.of_eq ‹_›

theorem Canonical.dropWaiter {s t} (h : Canonical s) : Canonical (dropWaiter s t) :=
  h.elsewhere

theorem Canonical.answerSender {s p status} (h : Canonical s) : Canonical (answerSender s p status) := by
  unfold Machine.answerSender
  split
  · exact .ite h.modThread h
  · exact h

theorem Canonical.clearThread {s t} (h : Canonical s) : Canonical (clearThread s t) :=
  h.elsewhere

theorem Canonical.countPacket {s core p} (h : Canonical s) : Canonical (countPacket s core p) := .ite h.modCore h

theorem Canonical.refusePackets {s r} (h : Canonical s) : Canonical (refusePackets s r) := by
  refine .netWith (.foldl h fun s m h => ?_)
  split
  · exact .ite h.countPacket.answerSender h
  · exact h

theorem Canonical.releaseRegion {s rk} (h : Canonical s) : Canonical (releaseRegion s rk) := by
  unfold Machine.releaseRegion
  split
  · exact h
  · exact h.refusePackets.ballastRegion.foldl (fun _ _ h' => h'.outerLanded) |>.elsewhere |>.foldl (fun _ _ h' =>
      h'.modCore) |>.foldl (fun _ _ h' => h'.modTile) |>.foldl (fun _ _ h' => h'.modSwitch) |>.foldl (fun _ _ h' =>
      h'.elsewhere) |>.foldl (fun _ _ h' => h'.modQuad)

theorem Canonical.finishRegion {s rk aborted} (h : Canonical s) : Canonical (Machine.finishRegion s rk aborted) := by
  unfold Machine.finishRegion
  split
  · exact h
  · extract_lets freed signalled raised posted
    have hfreed : Canonical freed := h.releaseRegion.reclaimRetentions.serveWrites
    have hsignalled : Canonical signalled := .ite hfreed hfreed.signalToken
    have hraised : Canonical raised := .ite hsignalled.raiseVector hsignalled
    split
    · exact .ite hraised.postMail.setQueueErr hraised.postMail
    · exact hraised.postMail

theorem Canonical.abortLaunch {s rk} (h : Canonical s) : Canonical (abortLaunch s rk) := by
  unfold Machine.abortLaunch
  split
  · exact h
  · exact h.foldl (fun _ _ h' => h'.performAll) |>.foldl (fun _ _ h' => h'.clearThread) |>.finishRegion

theorem Canonical.endDrained {s} (h : Canonical s) : Canonical (endDrained s) :=
  h.foldl (fun _ _ h' => .ite h'.finishRegion h')

theorem Canonical.summitSweep {s rk} (h : Canonical s) : Canonical (summitSweep s rk) := by
  unfold Machine.summitSweep
  split
  · exact h
  · exact .ite h (.ite (h.setRegion.foldl (fun _ _ h' => h'.haltThread) |>.modRegion) h.setRegion)

theorem Canonical.sweepAll {s} (h : Canonical s) : Canonical (sweepAll s) := h.foldl (fun _ _ h' => h'.summitSweep)
theorem Answers.execSummitSweep {region s} (h : Canonical s) : Answers (execSummitSweep region s) := .next h.summitSweep

/-! ### Save -/

theorem Canonical.stopThread {full cairn s t} (h : Canonical s) : Canonical (stopThread full cairn s t) :=
  .ite h.dropWaiter.modQuad.modThread h.dropWaiter.modQuad.modThread.modPair

theorem Canonical.stopBlocked {s r} (h : Canonical s) : Canonical (stopBlocked s r) :=
  .ite (h.foldl (fun _ _ h' => .ite h'.stopThread h')) h

theorem Canonical.stopForced {s t} (h : Canonical s) : Canonical (stopForced s t) :=
  .ite (h.foldl (fun _ _ h' => h'.stopThread)) h

theorem Canonical.forceHalt {s region} (h : Canonical s) : Canonical (forceHalt s region) := by
  unfold Machine.forceHalt
  split
  · exact h
  · split
    · exact .ite h (h.setRegion.foldl (fun _ _ h' => h'.stopForced))
    · exact h

theorem Answers.execForcedHalt {region s} (h : Canonical s) : Answers (execForcedHalt region s) := .next h.forceHalt

theorem Canonical.forceHalts {s} (h : Canonical s) : Canonical (forceHalts s) :=
  h.foldl (fun _ _ h' => .ite h'.forceHalt h')

theorem Answers.execCairn {i s} (h : Canonical s) : Answers (execCairn i s) :=
  .run4 (.modS (fun _ h' => by
    split
    · exact .ite h'.stopThread h'
    · exact h')) h

theorem Canonical.handOverSide {r pk s side} (h : Canonical s) : Canonical (handOverSide r pk s side) :=
  .ite (h.modPair.foldl (fun _ _ h' => h'.modThread) |>.releaseLicence) h

theorem Canonical.handOvers {s r} (h : Canonical s) : Canonical (handOvers s r) :=
  .ite (h.foldl (fun _ _ h' => h'.foldl (fun _ _ h2 => h2.handOverSide))) h

theorem Canonical.stopAllForced {s r} (h : Canonical s) : Canonical (stopAllForced s r) :=
  .ite (h.foldl (fun _ _ h' => .ite h'.stopForced h')) h

theorem Canonical.preemptTick {s} (h : Canonical s) : Canonical (preemptTick s) :=
  h.foldl (fun _ _ h' => by
    split
    · exact h'
    · exact h'.stopAllForced.stopBlocked.handOvers)

theorem Canonical.freeBytes {s n} (h : Canonical s) : Canonical (freeBytes s n).1 := h.elsewhere

theorem Canonical.commandWrite {s w va l} (h : Canonical s) : Canonical (commandWrite s w va l) :=
  h.foldl (fun _ _ h' => by
    split
    · exact h'.walk.of_eq ‹_› |>.engineWrite
    · exact h'.walk.of_eq ‹_›)

theorem Canonical.giveUp {r s t} (h : Canonical s) : Canonical (giveUp r s t) := by
  unfold Machine.giveUp
  dsimp only
  split
  · exact h
  · exact h.setThread.modCore

theorem Canonical.writeArea {s r area chunks} (h : Canonical s) : Canonical (writeArea s r area chunks).1 :=
  .ite (.commandWrite (.foldlFst h fun _ _ h => h.freeBytes)) (.chunksWrite (.foldlFst h fun _ _ h => h.freeBytes))

theorem Canonical.keepSave {s v} (h : Canonical s) : Canonical (keepSave s v) :=
  h.elsewhere

theorem Canonical.saveRegion {s rk} (h : Canonical s) : Canonical (saveRegion s rk) := by
  unfold Machine.saveRegion
  split
  · exact h
  · split
    · exact .ite h (h.refusePackets.foldl (fun _ _ h' => h'.giveUp) |>.foldl (fun _ _ h' =>
        h'.modThread) |>.writeArea |>.foldl (fun _ _ h' => h'.performAll) |>.foldl (fun _ _ h' =>
        h'.clearThread) |>.releaseRegion |>.keepSave |>.postMail)
    · exact h

theorem Answers.execRegionSave {region s} (h : Canonical s) : Answers (execRegionSave region s) := .next h.saveRegion

theorem KeepsRd.rdSaved {rd : Nat → Nat → Rd (List Byte)} {l} (hrd : ∀ x y, KeepsRd (rd x y)) : KeepsRd (rdSaved rd l) := by
  induction l with
  | nil => exact .pure
  | cons e rest ih =>
    exact .bind (hrd _ _) fun _ => .bind (.ite (.bind .rdOpt fun _ => .pure) .pure) fun _ => .bind ih fun _ => .pure

theorem KeepsRd.rdSave {rd : Nat → Nat → Rd (List Byte)} {g inst cmd} (hrd : ∀ x0 x1, KeepsRd
  (rd x0 x1)) : KeepsRd (rdSave rd g inst cmd) :=
  .bind (hrd _ _) fun _ => .bind .rdCheck fun _ => .bind (hrd _ _) fun _ => .bind .rdCheck fun _ => .rdSaved (fun _ _ => hrd _ _)

theorem KeepsRd.rdArea {w area off n} : KeepsRd (rdArea w area off n) := .rdBytes

theorem KeepsRd.rdChunks {w chunks off n} : KeepsRd (rdChunks w chunks off n) := fun _ h =>
  h.foldlFst (r := (_, _)) fun r _ h => by
    split <;> exact h.engineRead.of_eq ‹_›

theorem Canonical.restoreCore {r s e} (h : Canonical s) : Canonical (restoreCore r s e) :=
  h.elsewhere

theorem Canonical.restoreSwitch {r s e} (h : Canonical s) : Canonical (restoreSwitch r s e) :=
  h.elsewhere

theorem Canonical.restoreTile {r s e} (h : Canonical s) : Canonical (restoreTile r s e) :=
  h.elsewhere

theorem Canonical.restorePair {r s e} (h : Canonical s) : Canonical (restorePair r s e) :=
  h.elsewhere

theorem Canonical.requestHeld {s pk} (h : Canonical s) : Canonical (requestHeld s pk) :=
  h.modPair.foldl (fun _ _ h' => .ite h'.grantLicence h'.modPair)

theorem Canonical.restoreQuad {r s e} (h : Canonical s) : Canonical (restoreQuad r s e) :=
  h.elsewhere

theorem Canonical.restoreThread {r v s x} (h : Canonical s) : Canonical (restoreThread r v s x) :=
  h.elsewhere

theorem Canonical.moveParties {r s} (h : Canonical s) : Canonical (moveParties r s) :=
  h.elsewhere

theorem Canonical.restoreRegion {s rk v records} (h : Canonical s) : Canonical (restoreRegion s rk v records) := by
  unfold Machine.restoreRegion
  split
  · exact h
  · split
    · exact h.foldl (fun _ _ h' => h'.restoreThread) |>.foldl (fun _ _ h' => h'.requestHeld)
    · exact h.setRegion.foldl (fun _ _ h' => h'.restoreCore) |>.foldl (fun _ _ h' => h'.restoreTile) |>.foldl (fun _ _ h' =>
        h'.restoreSwitch) |>.foldl (fun _ _ h' => h'.restoreQuad) |>.elsewhere |>.moveParties |>.foldl (fun _ _ h' =>
        h'.restoreThread) |>.foldl (fun _ _ h' => h'.restorePair) |>.foldl (fun _ _ h' => h'.requestHeld) |>.modPart

theorem Canonical.installSaved {s r v} (h : Canonical s) : Canonical (installSaved s r v) :=
  h.ballastRegion.setRegion.foldl (fun _ _ h' => h'.modSwitch) |>.foldl (fun _ _ h' => h'.setPair) |>.foldl (fun _ _ h' =>
    h'.modQuad) |>.foldl (fun _ _ h' => h'.prefillNode)

/-! ### Command -/

theorem Canonical.postCreationFault {s core slot p} (h : Canonical s) : Canonical (postCreationFault s core slot p) :=
  h.elsewhere

theorem Canonical.abortInstalling {s p} (h : Canonical s) : Canonical (abortInstalling s p) := .ite h.abortLaunch h

theorem Canonical.takePacket {s core p} (h : Canonical s) : Canonical (takePacket s core p) := by
  refine .ite (.ite h.countPacket.answerSender.postCreationFault.abortInstalling h.countPacket.answerSender) ?_
  split
  · exact h.countPacket.answerSender.acceptPacket
  · exact h.countPacket.answerSender.modCore

theorem Answers.execLaunchPacketArrival {core s} (h : Canonical s) : Answers (execLaunchPacketArrival core s) :=
  .next (by
    dsimp only
    split
    · exact h.elsewhere.takePacket
    · exact h)

theorem Canonical.creationPieces {t l s} (h : Canonical s) : Canonical (creationPieces t l s).1 := by
  induction l generalizing s with
  | nil => exact h
  | cons p rest ih =>
    unfold Machine.creationPieces
    split <;> (rename_i e; have k := Canonical.of_eq (Canonical.threadXlate (h.elsewhere)) e)
    · exact k
    dsimp only
    split
    · exact k.noticeErrors
    split
    · exact (ih k.noticeErrors).of_eq ‹_›
    · exact ih k.noticeErrors

theorem Canonical.creationRead {s t va n} (h : Canonical s) : Canonical (creationRead s t va n).1 :=
  .iteFst h.creationPieces h

theorem Canonical.creationParts {t image l s} (h : Canonical s) : Canonical (creationParts t image l s).1 := by
  induction l generalizing s with
  | nil => exact h
  | cons p rest ih =>
    obtain ⟨on, off, n⟩ := p
    have part : Canonical (if on then Machine.creationRead s t (image + off) n else (s, CreationEnd.ok [])).1 := .iteFst h.creationRead h
    unfold Machine.creationParts
    split <;> (rename_i e; have k := part.of_eq e)
    · split
      · exact (ih k).of_eq ‹_›
      · exact ih k
    · exact k

theorem Canonical.creationEnds {s t p} (h : Canonical s) : Canonical (creationEnds s t p) :=
  h.postCreationFault.freeSlotOf.abortInstalling

theorem Canonical.createThread {s t} (h : Canonical s) : Canonical (createThread s t) := by
  unfold Machine.createThread
  dsimp only
  split
  · split
    · exact h.creationEnds
    · split
      · exact h.takeBoundary.creationRead.of_eq ‹_› |>.modThread
      · exact h.takeBoundary.creationRead.of_eq ‹_› |>.creationEnds
      · rename_i e
        have h2 := h.takeBoundary.creationRead.of_eq e
        split
        · exact h2.creationEnds
        · split
          · exact h2.creationParts.of_eq ‹_› |>.modThread
          · exact h2.creationParts.of_eq ‹_› |>.creationEnds
          · exact .ite (h2.creationParts.of_eq ‹_› |>.dropParty |>.setThread |>.stopForced)
              (h2.creationParts.of_eq ‹_› |>.dropParty |>.setThread)
  · exact h

theorem Answers.execThreadCreation {core slot s} (h : Canonical s) : Answers (execThreadCreation core slot s) :=
  .next (.ite h.createThread h)

theorem Canonical.faultAbort {s service l} (h : Canonical s) : Canonical (faultAbort s service l) := by
  unfold Machine.faultAbort
  dsimp only
  split
  · exact h.abortLaunch
  · split
    · exact .ite h.abortLaunch h
    · exact h
  · exact h

theorem Answers.execMailboxArrival {service s} (h : Canonical s) : Answers (execMailboxArrival service s) :=
  .next (by
    dsimp only
    split
    · exact .ite h h.elsewhere.modCore.faultAbort
    · exact h)

theorem Canonical.replyThread {s t seq refuse} (h : Canonical s) : Canonical (replyThread s t seq refuse) :=
  .ite h (by
    split
    · exact .ite h.creationEnds h.modThread
    · exact h.modThread
    · exact .ite h.abortLaunch h.modThread
    · exact h)

theorem Canonical.replyChannel {s tile c seq refuse} (h : Canonical s) : Canonical (replyChannel s tile c seq refuse) := by
  unfold Machine.replyChannel
  dsimp only
  split
  · exact .ite h (.ite h.abortCopy h.modChan)
  · exact h

theorem Canonical.replyNode {s k seq refuse} (h : Canonical s) : Canonical (Machine.replyNode s k seq refuse) := by
  unfold Machine.replyNode
  extract_lets act
  have hact : ∀ s w, Canonical s → Canonical (act s w) := fun s w h => .ite h (.ite (by
    split
    · exact h.modGen.elementFault
    · exact h.modGen) h.modGen)
  exact hact _ _ (hact _ _ h)

theorem Canonical.deliverReply {s h' refuse} (h : Canonical s) : Canonical (deliverReply s h' refuse) := by
  unfold Machine.deliverReply
  dsimp only
  split
  · exact h.replyThread
  · exact h.replyThread
  · exact .ite h.replyChannel h.replyNode
  · exact h

theorem Answers.execFaultReply {index s} (h : Canonical s) : Answers (execFaultReply index s) :=
  .next (by
    dsimp only
    split
    · exact .ite h (.ite h.elsewhere.deliverReply h.elsewhere)
    · exact h)

theorem Canonical.restoreLaunch {s o inst c g b a v records} (h : Canonical s) : Canonical (restoreLaunch s o inst c g b a v records) :=
  h.installState.restoreRegion

theorem Canonical.installRecord {s part func l} (h : Canonical s) : Canonical (installRecord s part func l).1 := by
  refine .iteFst h ?_
  split <;> (rename_i e; have k := Canonical.of_eqSnd (KeepsRd.rdLaunch _ h) e)
  · exact k
  refine .iteFst k ?_
  dsimp only
  split <;> (rename_i e; have k := Canonical.of_eqSnd (.iteSnd k (KeepsRd.rdSave (fun _ _ => .rdArea) _ k)) e)
  · exact k
  refine .iteFst k ?_
  split
  · exact k
  · exact .ite k.installLaunch k.restoreLaunch

theorem Keeps.launchAligned {x n} : Keeps (launchAligned x n) := .ite .pure .trapM

theorem Answers.execLaunchInstall {d a s} (h : Canonical s) : Answers (execLaunchInstall d a s) :=
  .run4 (.bind .requireSys fun _ => .withPorts (.bind .readG fun _ => .bind .launchAligned fun _ => .loadBytes (fun _ =>
    .bind .self fun _ => .getS_bind fun _ h' => .bind (.modS (fun _ _ => h'.installRecord)) fun _ => .writeG))) h

theorem Answers.execLaunchPacket {d a s} (h : Canonical s) : Answers (execLaunchPacket d a s) :=
  .run4 (.bind .requireSys fun _ => .withPorts (.bind .self fun _ => .bind .readG fun _ => by
    split
    · exact .writeG
    · exact .bind .launchAligned fun _ => .loadBytes (fun _ => .bind .getS fun _ => by
        dsimp only
        split
        · exact .waitKeepM (fun _ h2 => h2.elsewhere)
        · exact .bind (.modS (fun _ h2 => h2.modCore)) fun _ => .writeG))) h

theorem Canonical.requestSave {s func rk area} (h : Canonical s) : Canonical (requestSave s func rk area).1 := by
  unfold Machine.requestSave
  split
  · exact (h.requestPreempt.of_eq ‹_›).modRegion
  · exact h.requestPreempt

theorem Answers.execLaunchPreempt {d a s} (h : Canonical s) : Answers (execLaunchPreempt d a s) :=
  .run4 (.bind .requireSys fun _ => .withPorts (.bind .readG fun _ => .bind .launchAligned fun _ => .loadBytes (fun _ =>
    .bind .self fun _ => .getS_bind fun _ h' => .bind (.modS (fun _ _ => .iteFst h'.requestSave h')) fun _ => .writeG))) h

theorem Answers.runMaybeGone {s} {m : M Unit} (hm : Keeps m) (h : Canonical s) : Answers (runMaybeGone m s) := by
  unfold Machine.runMaybeGone
  split
  · exact .ite (.next (hm.ok_run h ‹_›)) (.run4 hm h)
  · exact .run4 hm h

theorem Answers.execLaunchAbort {d a s} (h : Canonical s) : Answers (execLaunchAbort d a s) :=
  .runMaybeGone (.bind .requireSys fun _ => .withPorts (.bind .readG fun _ => .bind .self fun _ => .bind .getS fun _ =>
    .ite (.bind .writeG fun _ => .modS (fun _ h2 => h2.abortLaunch)) .writeG)) h

theorem Answers.execLaunchUnretain {d a s} (h : Canonical s) : Answers (execLaunchUnretain d a s) :=
  .run4 (.bind .requireSys fun _ => .withPorts (.bind .readG fun _ => .bind .self fun _ => .bind .getS fun _ =>
    .ite (.bind (.modS (fun _ h2 => h2.elsewhere.modPart)) fun _ => .writeG) .writeG)) h

theorem Answers.queueStep {part} {f : State → State} {s} (hf : ∀ s0, Canonical s0 → Canonical
  (f s0)) (h : Canonical s) : Answers (queueStep part f s) :=
  .next (.ite (hf _ h) h)

theorem Answers.execQtailWrite {part queue value s} (h : Canonical s) : Answers (execQtailWrite part queue value s) :=
  .queueStep (fun _ h' => h'.tailWrite) h

theorem Answers.execQctlWrite {part queue value s} (h : Canonical s) : Answers (execQctlWrite part queue value s) :=
  .queueStep (fun _ h' => h'.qctlWrite) h

theorem Answers.execQstatSkip {part queue s} (h : Canonical s) : Answers (execQstatSkip part queue s) :=
  .queueStep (fun _ h' => h'.qstatWrite) h

theorem Answers.execQstatErrClear {part queue s} (h : Canonical s) : Answers (execQstatErrClear part queue s) :=
  .queueStep (fun _ h' => h'.qstatWrite) h

theorem Answers.execQstatOvfClear {part queue s} (h : Canonical s) : Answers (execQstatOvfClear part queue s) :=
  .queueStep (fun _ h' => h'.qstatWrite) h

theorem Canonical.stagePage {w hint page s} (h : Canonical s) : Canonical (stagePage w hint page s).1 := by
  refine .iteFst h ?_
  split <;> (rename_i e; have k := h.queryLeaf.of_eq e)
  · exact k
  refine .iteFst k (.iteFst k.pageOf ?_)
  dsimp only
  split
  · exact k.pageOf
  split <;> (rename_i e; have k := k.pageOf.freeFrame.of_eq e)
  · exact k
  · split <;> exact k.stageMove.of_eq ‹_›

theorem Canonical.stageLaunch {w q working s h'} (h : Canonical s) : Canonical (stageLaunch w q working s h').1 := by
  unfold Machine.stageLaunch
  split
  · exact h
  · exact .iteFst h h.stagePage

theorem Canonical.launchReady {s p q} (h : Canonical s) : Canonical (launchReady s p q) := by
  unfold Machine.launchReady
  split
  · exact h
  dsimp only
  split <;> (rename_i e; have k := Canonical.of_eqSnd (KeepsRd.rdLaunch _ h) e)
  · exact k.modQueue.setQueueErr
  have ready {o : Option HeadLaunch} {w deps} : Canonical (CanonicalMemory.stagingDeps w deps o _).1 := .stagingDeps k
  refine .ite ready (.modQueue ?_)
  split
  · exact ready
  · exact .stageLaunch ready

theorem Answers.execLaunchReady {part queue s} (h : Canonical s) : Answers (execLaunchReady part queue s) := .next h.launchReady

theorem Answers.execStagingDeadline {part queue s} (h : Canonical s) : Answers (execStagingDeadline part queue s) :=
  .next (by
    dsimp only
    split
    · exact .ite h.modQueue h
    · exact h)

theorem Canonical.endReservation {s p c} (h : Canonical s) : Canonical (endReservation s p c) := by
  unfold Machine.endReservation
  split
  · exact .ite h.modPart h
  · exact h

theorem Canonical.noteInstalled {s p ep queue} (h : Canonical s) : Canonical (noteInstalled s p ep queue) :=
  h.elsewhere

theorem Canonical.placeSaved {s p c inst} (h : Canonical s) : Canonical (placeSaved s p c inst) := by
  unfold Machine.placeSaved
  split
  · exact h
  dsimp only
  split
  · exact h
  refine .restoreRegion (.installSaved (.noteInstalled (.endReservation (KeepsRd.rdSave (fun x y => ?_) _ h))))
  split
  · exact .rdArea
  · exact .rdChunks

theorem Canonical.placeHead {s p c} (h : Canonical s) : Canonical (placeHead s p c) := by
  unfold Machine.placeHead
  dsimp only
  split <;> (rename_i e; have k := Canonical.of_eqSnd (KeepsRd.rdLaunch _ h) e)
  · exact k.modQueue.setQueueErr
  split
  · exact k
  · exact .ite k.modQueue.setQueueErr k.endReservation.noteInstalled.modQueue.installLaunch

theorem Canonical.placementLoop {p n l s} (h : Canonical s) : Canonical (placementLoop p n l s) := by
  induction n generalizing l s with
  | zero => exact h
  | succ n ih =>
    unfold Machine.placementLoop
    split
    · exact h
    refine ih ?_
    split
    · exact h.placeSaved
    · exact h.placeHead

theorem Answers.execPlacementTurn {part s} (h : Canonical s) : Answers (execPlacementTurn part s) :=
  .next (.ite h h.placementLoop)

theorem Canonical.reservationBase {s p c} (h : Canonical s) : Canonical (reservationBase s p c).1 := by
  unfold Machine.reservationBase
  dsimp only
  split
  · split <;> exact h
  · split <;> exact Canonical.of_eqSnd (KeepsRd.rdLaunch _ h) ‹_›

theorem Canonical.reserveFirst {p l s} (h : Canonical s) : Canonical (reserveFirst p l s) := by
  induction l generalizing s with
  | nil => exact h
  | cons c rest ih =>
    unfold Machine.reserveFirst
    split
    · exact ih (h.reservationBase.of_eq ‹_›)
    · exact (h.reservationBase.of_eq ‹_›).modPart

theorem Answers.execReservation {part queue s} (h : Canonical s) : Answers (execReservation part queue s) :=
  .next (.ite h h.reserveFirst)

theorem Answers.execReservationPreempt {part s} (h : Canonical s) : Answers (execReservationPreempt part s) :=
  .next (by
    dsimp only
    split
    · exact h
    · exact .ite h (h.foldl (fun _ _ h' => .ite h'.commandPreempt h')))

/-! ### Control -/

theorem Keeps.jumpTo {t} : Keeps (jumpTo t) := .bind .checkTarget fun _ => .pure

theorem Keeps.branch {a b off c} : Keeps (branch a b off c) :=
  .withPorts (.bind .readG fun _ => .bind .readG fun _ => .ite (.bind .self fun _ => .jumpTo) .pure)

theorem Answers.execBeq {a b off s} (h : Canonical s) : Answers (execBeq a b off s) := .runJump .branch h
theorem Answers.execBne {a b off s} (h : Canonical s) : Answers (execBne a b off s) := .runJump .branch h
theorem Answers.execBlt {a b off s} (h : Canonical s) : Answers (execBlt a b off s) := .runJump .branch h
theorem Answers.execBge {a b off s} (h : Canonical s) : Answers (execBge a b off s) := .runJump .branch h
theorem Answers.execBltu {a b off s} (h : Canonical s) : Answers (execBltu a b off s) := .runJump .branch h
theorem Answers.execBgeu {a b off s} (h : Canonical s) : Answers (execBgeu a b off s) := .runJump .branch h
theorem Answers.execJ {off s} (h : Canonical s) : Answers (execJ off s) := .runJump (.bind .self fun _ => .jumpTo) h

theorem Answers.execJal {off s} (h : Canonical s) : Answers (execJal off s) :=
  .runJump (.bind .self fun _ => .bind .jumpTo fun _ => .bind .writeG fun _ => .pure) h

theorem Answers.execJr {a s} (h : Canonical s) : Answers (execJr a s) := .runJump (.withPorts (.bind .readG fun _ => .jumpTo)) h

theorem Answers.execJalr {d a s} (h : Canonical s) : Answers (execJalr d a s) :=
  .runJump (.withPorts (.bind .self fun _ => .bind .readG fun _ => .bind .jumpTo fun _ => .bind .writeG fun _ => .pure)) h

theorem Answers.execLoop {a off s} (h : Canonical s) : Answers (execLoop a off s) :=
  .runJump (.bind .self fun _ => .bind .readG fun _ => .ite (.bind .jumpTo fun _ => .bind .writeG fun _ => .pure) (.bind .writeG fun _ =>
    .pure)) h

/-! ### Convert -/

theorem Keeps.vecConvert {high d a t k r sat} : Keeps (vecConvert high d a t k r sat) :=
  .withPorts (.bind .readV fun _ => .bind .requireClass fun _ => .bind .readK fun _ => .bind .oldBits fun _ => .bind .roundingOf fun _ =>
    .bind .selfCodes fun _ => .putVec)

theorem Answers.execVcvt {d a t k r sat s} (h : Canonical s) : Answers (execVcvt d a t k r sat s) := .run4 .vecConvert h
theorem Answers.execVcvth {d a t k r sat s} (h : Canonical s) : Answers (execVcvth d a t k r sat s) := .run4 .vecConvert h

theorem Answers.execVtag {d a t s} (h : Canonical s) : Answers (execVtag d a t s) :=
  .run4 (.withPorts (.bind .readV fun _ => .writeV)) h

theorem Answers.execVtchk {a t s} (h : Canonical s) : Answers (execVtchk a t s) :=
  .run4 (.withPorts (.bind .readV fun _ => .requireTag)) h

theorem Keeps.vecShrn {d a b k r sat rtag} : Keeps (vecShrn d a b k r sat rtag) :=
  .withPorts (.bind .readV fun _ => by
    split
    · exact .tagTrap
    · exact .bind .readG fun _ => .bind .readK fun _ => .bind .oldBits fun _ => .bind .roundingOf fun _ => .putVec)

theorem Answers.execVshrn8 {d a b k r sat s} (h : Canonical s) : Answers (execVshrn8 d a b k r sat s) := .run4 .vecShrn h
theorem Answers.execVshrn16 {d a b k r sat s} (h : Canonical s) : Answers (execVshrn16 d a b k r sat s) := .run4 .vecShrn h

/-! ### Integer -/

theorem Keeps.alu2 {d a b f} : Keeps (alu2 d a b f) := .withPorts (.bind .readG fun _ => .bind .readG fun _ => .writeG)
theorem Keeps.alu1 {d a f} : Keeps (alu1 d a f) := .withPorts (.bind .readG fun _ => .writeG)

theorem Keeps.condMove {d a b c} : Keeps (condMove d a b c) :=
  .withPorts (.bind .readG fun _ => .bind .readG fun _ => .ite .writeG .pure)

theorem Answers.execAdd {d a b s} (h : Canonical s) : Answers (execAdd d a b s) := .run4 .alu2 h
theorem Answers.execSub {d a b s} (h : Canonical s) : Answers (execSub d a b s) := .run4 .alu2 h
theorem Answers.execAnd {d a b s} (h : Canonical s) : Answers (execAnd d a b s) := .run4 .alu2 h
theorem Answers.execOr {d a b s} (h : Canonical s) : Answers (execOr d a b s) := .run4 .alu2 h
theorem Answers.execXor {d a b s} (h : Canonical s) : Answers (execXor d a b s) := .run4 .alu2 h
theorem Answers.execSll {d a b s} (h : Canonical s) : Answers (execSll d a b s) := .run4 .alu2 h
theorem Answers.execSrl {d a b s} (h : Canonical s) : Answers (execSrl d a b s) := .run4 .alu2 h
theorem Answers.execSra {d a b s} (h : Canonical s) : Answers (execSra d a b s) := .run4 .alu2 h
theorem Answers.execSlt {d a b s} (h : Canonical s) : Answers (execSlt d a b s) := .run4 .alu2 h
theorem Answers.execSltu {d a b s} (h : Canonical s) : Answers (execSltu d a b s) := .run4 .alu2 h
theorem Answers.execMin {d a b s} (h : Canonical s) : Answers (execMin d a b s) := .run4 .alu2 h
theorem Answers.execMax {d a b s} (h : Canonical s) : Answers (execMax d a b s) := .run4 .alu2 h
theorem Answers.execMinu {d a b s} (h : Canonical s) : Answers (execMinu d a b s) := .run4 .alu2 h
theorem Answers.execMaxu {d a b s} (h : Canonical s) : Answers (execMaxu d a b s) := .run4 .alu2 h
theorem Answers.execMul {d a b s} (h : Canonical s) : Answers (execMul d a b s) := .run4 .alu2 h
theorem Answers.execMulh {d a b s} (h : Canonical s) : Answers (execMulh d a b s) := .run4 .alu2 h
theorem Answers.execMulhu {d a b s} (h : Canonical s) : Answers (execMulhu d a b s) := .run4 .alu2 h
theorem Answers.execDiv {d a b s} (h : Canonical s) : Answers (execDiv d a b s) := .run4 .alu2 h
theorem Answers.execDivu {d a b s} (h : Canonical s) : Answers (execDivu d a b s) := .run4 .alu2 h
theorem Answers.execRem {d a b s} (h : Canonical s) : Answers (execRem d a b s) := .run4 .alu2 h
theorem Answers.execRemu {d a b s} (h : Canonical s) : Answers (execRemu d a b s) := .run4 .alu2 h
theorem Answers.execClz {d a s} (h : Canonical s) : Answers (execClz d a s) := .run4 .alu1 h
theorem Answers.execCtz {d a s} (h : Canonical s) : Answers (execCtz d a s) := .run4 .alu1 h
theorem Answers.execPopc {d a s} (h : Canonical s) : Answers (execPopc d a s) := .run4 .alu1 h
theorem Answers.execMovz {d a b s} (h : Canonical s) : Answers (execMovz d a b s) := .run4 .condMove h
theorem Answers.execMovn {d a b s} (h : Canonical s) : Answers (execMovn d a b s) := .run4 .condMove h
theorem Answers.execAddw {d a b s} (h : Canonical s) : Answers (execAddw d a b s) := .run4 .alu2 h
theorem Answers.execSubw {d a b s} (h : Canonical s) : Answers (execSubw d a b s) := .run4 .alu2 h
theorem Answers.execAddi {d a i s} (h : Canonical s) : Answers (execAddi d a i s) := .run4 .alu1 h
theorem Answers.execAndi {d a i s} (h : Canonical s) : Answers (execAndi d a i s) := .run4 .alu1 h
theorem Answers.execOri {d a i s} (h : Canonical s) : Answers (execOri d a i s) := .run4 .alu1 h
theorem Answers.execXori {d a i s} (h : Canonical s) : Answers (execXori d a i s) := .run4 .alu1 h
theorem Answers.execSlti {d a i s} (h : Canonical s) : Answers (execSlti d a i s) := .run4 .alu1 h
theorem Answers.execSltui {d a i s} (h : Canonical s) : Answers (execSltui d a i s) := .run4 .alu1 h
theorem Answers.execLui {d i s} (h : Canonical s) : Answers (execLui d i s) := .run4 (.withPorts .writeG) h
theorem Answers.execInsh {d a i s} (h : Canonical s) : Answers (execInsh d a i s) := .run4 .alu1 h
theorem Answers.execSlli {d a sh s} (h : Canonical s) : Answers (execSlli d a sh s) := .run4 .alu1 h
theorem Answers.execSrli {d a sh s} (h : Canonical s) : Answers (execSrli d a sh s) := .run4 .alu1 h
theorem Answers.execSrai {d a sh s} (h : Canonical s) : Answers (execSrai d a sh s) := .run4 .alu1 h
theorem Answers.execBfxu {d a w l s} (h : Canonical s) : Answers (execBfxu d a w l s) := .run4 .alu1 h
theorem Answers.execBfxs {d a w l s} (h : Canonical s) : Answers (execBfxs d a w l s) := .run4 .alu1 h

theorem Answers.execBfi {d a w l s} (h : Canonical s) : Answers (execBfi d a w l s) :=
  .run4 (.withPorts (.bind .readG fun _ => .bind .readG fun _ => .writeG)) h

theorem Answers.execAddpc {d i s} (h : Canonical s) : Answers (execAddpc d i s) :=
  .run4 (.withPorts (.bind .self fun _ => .writeG)) h

/-! ### LoadStore -/

theorem Keeps.requireAligned {n ea} : Keeps (requireAligned n ea) := .ite .pure .trapM

theorem Keeps.chanRegister {ea} : Keeps (chanRegister ea) :=
  .bind .getS fun _ => by
    split
    · exact .pure
    · exact .trapM

theorem Keeps.loadScalar {d ea sz signed} : Keeps (loadScalar d ea sz signed) :=
  .ite (.ite (.bind .chanRegister fun _ => .bind .variableLatency fun _ => .bind .getS fun _ => .writeG) .trapM) (.loadBytes (fun _ =>
    .writeG))

theorem Keeps.execLoad {d a sz imm signed} : Keeps (execLoad d a sz imm signed) :=
  .withPorts (.bind .readG fun _ => .bind .requireAligned fun _ => .loadScalar)

theorem Answers.execLd {d a sz imm s} (h : Canonical s) : Answers (execLd d a sz imm s) := .run4 .execLoad h
theorem Answers.execLdu {d a sz imm s} (h : Canonical s) : Answers (execLdu d a sz imm s) := .run4 .execLoad h

theorem Answers.execSt {d a sz imm s} (h : Canonical s) : Answers (execSt d a sz imm s) :=
  .run4 (.withPorts (.bind .readG fun _ => .bind .readG fun _ => .bind .requireAligned fun _ => .ite (.ite (.bind .chanRegister fun _ =>
    .bind .requireSys fun _ => .modS (fun _ h' => h'.chanWrite)) .trapM) .storePiece)) h

theorem Answers.execLdl {d a sz imm s} (h : Canonical s) : Answers (execLdl d a sz imm s) :=
  .run4 (.withPorts (.bind .readG fun _ => .bind .requireAligned fun _ => .ite .loadScalar (.bind .resolveM fun _ => .withLine (fun _ _ =>
    .bind .cohReadM fun _ => .writeG)))) h

theorem Keeps.requireLocalRange {ea n val} : Keeps (requireLocalRange ea n val) := .ite (.bind .resolveM fun _ => .pure) .pure
theorem Keeps.putLoaded {d t mask x} : Keeps (putLoaded d t mask x) := .bind .oldBits fun _ => .writeV

theorem Answers.execVld {d a t k imm s} (h : Canonical s) : Answers (execVld d a t k imm s) :=
  .run4 (.withPorts (.bind .readG fun _ => .bind .requireAligned fun _ => .bind .readK fun _ => .ite (.loadPieces (fun _ =>
    .putLoaded)) (.bind .requireLocalRange fun _ => .loadPieces (fun _ => .putLoaded)))) h

theorem Keeps.requireStoreTag {d v t} : Keeps (requireStoreTag d v t) := .ite .pure .requireTag
theorem Keeps.storeImagePiece {ea img en lo hi} : Keeps (storeImagePiece ea img en lo hi) := .ite .pure .storePiece

theorem Answers.execVst {d a t k imm s} (h : Canonical s) : Answers (execVst d a t k imm s) := by
  refine .run4 (.withPorts (.bind .readG fun x => .bind .readV fun v => .bind .requireAligned fun _ => .bind .requireStoreTag fun _ =>
    .bind .readK fun mask => ?_)) h
  have pieces {p} {l : List (Nat × Nat)} : Keeps (Machine.restartable (l.filterMap fun q =>
      if p < q.1 + q.2 then
        let lo := if q.1 < p then p else q.1
        some (lo, storeImagePiece (vectorEa x imm) (toImage t v) (byteEnabled t mask) lo (q.1 + q.2))
      else none)) := .restartable fun y hy => by
    obtain ⟨q, -, e⟩ := List.mem_filterMap.1 hy
    split at e
    · exact Option.some.inj e ▸ .storeImagePiece
    · cases e
  exact .ite (.bind .progress fun _ => pieces) (.bind .requireLocalRange fun _ => .bind .progress fun _ => pieces)

theorem Keeps.requireElemsAligned {w l} : Keeps (requireElemsAligned w l) := by
  induction l with
  | nil => exact .pure
  | cons ea rest ih => exact .bind .requireAligned fun _ => ih

theorem Keeps.requireElemsLocal {w l} : Keeps (requireElemsLocal w l) := by
  induction l with
  | nil => exact .pure
  | cons ea rest ih => exact .bind .requireLocalRange fun _ => ih

theorem Keeps.gatherLoad {d t mask addr} : Keeps (gatherLoad d t mask addr) :=
  .bind .requireElemsAligned fun _ => .bind .requireElemsLocal fun _ => .loadPieces (fun _ => .putLoaded)

theorem Keeps.scatterStore {d v t mask addr} : Keeps (scatterStore d v t mask addr) :=
  .bind .requireElemsAligned fun _ => .bind .requireElemsLocal fun _ => .bind .requireStoreTag fun _ => .bind .progress fun _ =>
    .restartableMap fun _ => .storePiece

theorem Keeps.requireIndexTag {b vb t} : Keeps (requireIndexTag b vb t) := .ite .pure .tagTrap

theorem Answers.execVlds {d a b k t s} (h : Canonical s) : Answers (execVlds d a b k t s) :=
  .run4 (.withPorts (.bind .readG fun _ => .bind .readG fun _ => .bind .readK fun _ => .gatherLoad)) h

theorem Answers.execVsts {d a b k t s} (h : Canonical s) : Answers (execVsts d a b k t s) :=
  .run4 (.withPorts (.bind .readG fun _ => .bind .readG fun _ => .bind .readV fun _ => .bind .readK fun _ => .scatterStore)) h

theorem Answers.execVldx {d a b k t s} (h : Canonical s) : Answers (execVldx d a b k t s) :=
  .run4 (.withPorts (.bind .readG fun _ => .bind .readV fun _ => .bind .requireIndexTag fun _ => .bind .readK fun _ => .gatherLoad)) h

theorem Answers.execVstx {d a b k t s} (h : Canonical s) : Answers (execVstx d a b k t s) :=
  .run4 (.withPorts (.bind .readG fun _ => .bind .readV fun _ => .bind .readV fun _ => .bind .requireIndexTag fun _ => .bind .readK fun _ =>
    .scatterStore)) h

theorem Answers.execVldb {d a k t s} (h : Canonical s) : Answers (execVldb d a k t s) :=
  .run4 (.withPorts (.bind .readG fun _ => .bind .readK fun _ => .gatherLoad)) h

theorem Keeps.multiTransfer {f a l align bytes} {one : Word → Nat → M Unit} (hone : ∀ x j, Keeps (one x j)) :
    Keeps (multiTransfer f a l align bytes one) :=
  .withPorts (.bind .readG fun _ => .bind .requireAligned fun _ => .bind .requireLocalRange fun _ => .bind .progress fun _ =>
    .restartableMap fun _ => hone _ _)

theorem Answers.execSpillm {f a l s} (h : Canonical s) : Answers (execSpillm f a l s) :=
  .run4 (.multiTransfer (fun _ _ => .bind .self fun _ => .storePiece)) h

theorem Answers.execFillm {f a l s} (h : Canonical s) : Answers (execFillm f a l s) :=
  .run4 (.multiTransfer (fun _ _ => .loadBytes (fun _ => .modSelf))) h

theorem Answers.execVspill {f a l s} (h : Canonical s) : Answers (execVspill f a l s) :=
  .run4 (.multiTransfer (fun _ _ => .bind .self fun _ => .storeThen .storePiece)) h

theorem Answers.execVfill {f a l s} (h : Canonical s) : Answers (execVfill f a l s) :=
  .run4 (.multiTransfer (fun _ _ => .loadPieces (fun _ => .ite .tagTrap .modSelf))) h

theorem Keeps.openFrame {n sz} : Keeps (openFrame n sz) := .bind .self fun _ => .storeThen (.storeThen .modSelf)

theorem Answers.execFrame {a s} (h : Canonical s) : Answers (execFrame a s) :=
  .run4 (.withPorts (.bind .readG fun _ => .ite .trapM (.bind .self fun _ => .ite .openFrame (.ite (.loadBytes (fun _ =>
    .openFrame)) (.ite .openFrame .trapM))))) h

theorem Answers.execUnframe {s} (h : Canonical s) : Answers (execUnframe s) :=
  .run4 (.bind .self fun _ => .ite .trapM (.loadBytes (fun _ => .modSelf))) h

/-! ### Partitions -/

theorem Canonical.preemptDie {s p d tiers} (h : Canonical s) : Canonical (preemptDie s p d tiers) :=
  h.foldl (fun _ _ h' => h'.commandPreempt)

theorem Answers.execOffreqDie {part value s} (h : Canonical s) : Answers (execOffreqDie part value s) :=
  .next (by
    dsimp only
    split
    · exact .ite (Canonical.ite h.offreqWrite h |>.preemptDie) (.ite (Canonical.ite h.offreqWrite h
        |>.modPart) (Canonical.ite h.offreqWrite h |>.elsewhere |>.preemptDie))
    · exact .ite h.offreqWrite h)

theorem Canonical.evacuateCore {p tiers s k} (h : Canonical s) : Canonical (evacuateCore p tiers s k) := by
  unfold Machine.evacuateCore
  dsimp only
  split
  next t l _ _ =>
    have bad (m : Mem) (hm : Memory.wf m.cells = true) : Memory.wf ((getCore s k).scratch.bad.foldl
        (fun m k => memPoison m ((l.getD (k / 1024) 0) / 64 + k % 1024)) m).cells = true :=
      List.foldlRecOn (motive := fun m : Mem => Memory.wf m.cells = true) _ _ hm fun _ hm _ _ => wf_memPoison _ hm
    exact (show Canonical { Machine.chunksWrite .. with gmem := _ } from bad _ h.chunksWrite).setCore.modPart
  · exact h

theorem Answers.execDieOfflineDone {part s} (h : Canonical s) : Answers (execDieOfflineDone part s) :=
  .next (by
    dsimp only
    split
    · exact .ite (.ite h (h.foldl (fun _ _ h' => h'.evacuateCore))) (Canonical.ite h (h.foldl (fun _ _ h' =>
        h'.evacuateCore)) |>.elsewhere |>.dropMonitors |>.modPart |>.raiseVector)
    · exact h)

theorem Answers.partStep {part} {f : State → State} {s} (hf : ∀ s0, Canonical s0 → Canonical
  (f s0)) (h : Canonical s) : Answers (partStep part f s) :=
  .next (.ite (hf _ h) h)

theorem Canonical.vfWrite {s p vf off l} (h : Canonical s) : Canonical (vfWrite s p vf off l) := .ite h.controlWrite h

theorem Answers.execRegisterWrite {via offset width value s} (h : Canonical s) : Answers (execRegisterWrite via offset width value s) :=
  .partStep (fun _ h' => .ite h'.controlWrite (.ite h'.vfWrite h')) h

theorem Answers.execNumvfsWrite {part count s} (h : Canonical s) : Answers (execNumvfsWrite part count s) :=
  .partStep (fun _ h' => .ite h' h'.modPart) h

theorem Answers.execFunctionReadinessChange {part register bitno ready s} (h : Canonical s)
  : Answers (execFunctionReadinessChange part register bitno ready s) :=
  .partStep (fun _ h' => .ite h' (.ite h'.modPart.raiseVector h'.modPart)) h

theorem Answers.execHostPortWrite {part offset bytes s} (h : Canonical s) : Answers (execHostPortWrite part offset bytes s) :=
  .partStep (fun _ h' => by
    split
    · exact h'.engineWrite
    · exact h') h

theorem Canonical.remeasure {s p i l} (h : Canonical s) : Canonical (remeasure s p i l) :=
  h.elsewhere

theorem Canonical.moduleReset {layout scsize lp cxl grants s} (h : Canonical s) : Canonical (moduleReset layout scsize lp cxl grants s) :=
  .ite (.elsewhere (s := State.reset) wf_nil) h

theorem Answers.execModuleReset {layout scsize lp cxl grants s} (h : Canonical s) : Answers
  (execModuleReset layout scsize lp cxl grants s) :=
  .next h.moduleReset

theorem Answers.execPartitionReset {part s} (h : Canonical s) : Answers (execPartitionReset part s) :=
  .partStep (fun _ h' => h'.elsewhere.dropMonitors.modPart) h

theorem Answers.execMergeRequest {part value s} (h : Canonical s) : Answers (execMergeRequest part value s) :=
  .partStep (fun _ h' => h'.mergeWrite) h

theorem Canonical.writeBackSectors {s p} (h : Canonical s) : Canonical (writeBackSectors s p) :=
  h.foldl (fun _ _ h' => h'.foldl (fun _ _ h2 => h2.foldl (fun _ _ h3 => h3.emptySector)))

theorem Canonical.scrubPart {s q} (h : Canonical s) : Canonical (scrubPart s q) :=
  List.foldlRecOn (motive := fun m : Memory => Memory.wf m = true) (partRanges q) _ h fun _ hm r _ => wf_memErase r.1 r.2 hm

theorem Canonical.performPart {s p} (h : Canonical s) : Canonical (performPart s p) := h.foldl (fun _ _ h' => h'.performAll)

theorem Canonical.adoptThreads {s p q} (h : Canonical s) : Canonical (adoptThreads s p q) :=
  h.elsewhere

theorem Canonical.adoptRegion {p s e} (h : Canonical s) : Canonical (adoptRegion p s e) :=
  h.elsewhere

theorem Canonical.mergeSteps {s p m} (h : Canonical s) : Canonical (mergeSteps s p m) := by
  refine .raiseVector (.modPart (.foldl (.remeasure (.remeasure (.modPart (.passAll (.scrubPart (.netbndWith ?_)))))) fun _ _ h =>
    h.setQueueEn))
  refine .adoptThreads (.foldl (.partsWith (.modPart ?_)) fun _ _ h => h.adoptRegion)
  exact h.dropMonitors.performPart.performPart.serveWrites.writeBackSectors.writeBackSectors

theorem Canonical.mergeTick {s} (h : Canonical s) : Canonical (mergeTick s) := .ite h.elsewhere h

theorem Answers.execMergeExecute {part s} (h : Canonical s) : Answers (execMergeExecute part s) :=
  .next (by
    dsimp only
    split
    · exact .ite h.mergeSteps h
    · exact h)

theorem Answers.execMergeDeadline {part s} (h : Canonical s) : Answers (execMergeDeadline part s) :=
  .next (by
    dsimp only
    split
    · exact .ite h (h.foldl (fun _ _ h' => h'.setQueueEn) |>.modPart)
    · exact h)

/-! ### Power -/

theorem Canonical.budgetPart {old demands drawn s p} (h : Canonical s) : Canonical (budgetPart old demands drawn s p) :=
  h.foldl fun _ _ h => h.modCore

theorem Canonical.setOpps {s} (h : Canonical s) : Canonical (setOpps s) := h.foldl (fun _ _ h' => h'.modQuad)

theorem Answers.execBudgetPeriod {demands drawn charges overhead s} (h : Canonical s) :
    Answers (execBudgetPeriod demands drawn charges overhead s) :=
  .next (.ite h (.chargedWith (.foldl (.setOpps (.foldl h.elsewhere fun _ _ h => h.budgetPart)) fun _ _ h => h.ballastDie)))

theorem Answers.execSagDetect {die stretch s} (h : Canonical s) : Answers (execSagDetect die stretch s) :=
  .next (.ite h.elsewhere h)

theorem Answers.execLinkRetrain {node port cycles s} (h : Canonical s) : Answers (execLinkRetrain node port cycles s) :=
  .next h.modSwitch

theorem Canonical.countSlack {s} (h : Canonical s) : Canonical (countSlack s) :=
  h.elsewhere

theorem Answers.execSlackWindow {part tag peers s} (h : Canonical s) : Answers (execSlackWindow part tag peers s) :=
  .next (.ite h h.modPart)

/-! ### Reply -/

theorem Answers.completeAccess {i s} (h : Canonical s) : Answers (completeAccess i s) := by
  cases i with
  | ld => exact .execLd h
  | ldu => exact .execLdu h
  | ldl => exact .execLdl h
  | vld => exact .execVld h
  | vlds => exact .execVlds h
  | vldx => exact .execVldx h
  | vldb => exact .execVldb h
  | fillm => exact .execFillm h
  | vfill => exact .execVfill h
  | frame => exact .execFrame h
  | unframe => exact .execUnframe h
  | wprd => exact .execWprd h
  | cpy => exact .execCpy h
  | cpym => exact .execCpym h
  | cpyq => exact .execCpyq h
  | mtcfg => exact .execMtcfg h
  | amo => exact .execAmo h
  | amocas => exact .execAmocas h
  | amof => exact .execAmof h
  | waita => exact .execWaita h
  | get => exact .execGet h
  | put => exact .execPut h
  | launchInstall => exact .execLaunchInstall h
  | launchPacket => exact .execLaunchPacket h
  | launchPreempt => exact .execLaunchPreempt h
  | _ => exact .next h

theorem Answers.finishAccess {s t} (h : Canonical s) : Answers (finishAccess s t) := by
  unfold Machine.finishAccess
  split
  · exact .next h
  rename_i i e
  have k := Answers.completeAccess (i := i) (Canonical.of_eq (Canonical.nextInstr (s := { s with cur := t, defer := false }) h.elsewhere) e)
  split
  · rename_i r e
    have hr : Canonical { r with cur := s.cur, defer := s.defer } := (k r e).elsewhere
    exact .next (.ite hr.stopForced hr)
  · exact .fault
  · exact .refused

theorem Answers.execMemoryReply {core slot s} (h : Canonical s) : Answers (execMemoryReply core slot s) :=
  .ite (.next h) (.ite (.next h.setThread) (.finishAccess h.setThread))

/-! ### SumProd -/

theorem Canonical.spPut {s outs words js} (h : Canonical s) : Canonical (spPut s outs words js) := by
  unfold Machine.spPut
  split
  · exact h.localWrite
  · exact h

theorem Canonical.spPutAll {k outs words wrote s} (h : Canonical s) : Canonical (spPutAll k outs words wrote s) :=
  h.foldlFst (fun _ _ h' => .iteFst h' h'.spPut)

theorem Canonical.spMerge {s core bits} (h : Canonical s) : Canonical (spMerge s core bits) :=
  h.elsewhere

theorem Canonical.spAbort {s core} (h : Canonical s) : Canonical (spAbort s core) :=
  h.elsewhere

theorem Canonical.spCompute {s q mode c} (h : Canonical s) : Canonical (spCompute s q mode c) := by
  unfold Machine.spCompute
  split
  · exact h.spAbort
  · exact h.spPutAll.spMerge

theorem Canonical.spRunWait {s c} (h : Canonical s) : Canonical (spRunWait s c) := .ite h.modCore.modThread h

theorem Canonical.spRun {s q mode c} (h : Canonical s) : Canonical (spRun s q mode c) := by
  unfold Machine.spRun
  split
  · exact h.modQuad
  · exact h.spRunWait
  · exact h.spCompute

theorem Canonical.spKeep {s q c} (h : Canonical s) : Canonical (spKeep s q c) :=
  h.elsewhere

theorem Canonical.spReadAhead {s q num i} (h : Canonical s) : Canonical (spReadAhead s q num i) := by
  unfold Machine.spReadAhead
  split
  · split
    · exact .ite h h.spKeep
    · exact h
  · exact h

theorem Canonical.spEnd {s q c before} (h : Canonical s) : Canonical (spEnd s q c before) := h.spRun.modQuad

theorem Canonical.spWriteAhead {s q num i} (h : Canonical s) : Canonical (spWriteAhead s q num i) := by
  unfold Machine.spWriteAhead
  split
  · dsimp only
    split
    · exact .ite h (.ite h.spPut.spKeep.spEnd h.spPut.spKeep)
    · exact h.spKeep
  · exact h

theorem Canonical.spAcceptStep {s q} (h : Canonical s) : Canonical (spAcceptStep s q) := by
  unfold Machine.spAcceptStep
  dsimp only
  split
  · exact .ite (.ite h.setQuad.modThread h.setQuad) h
  · exact h

theorem Canonical.spCompleteStep {s q} (h : Canonical s) : Canonical (spCompleteStep s q) := by
  unfold Machine.spCompleteStep
  split
  · exact h.spEnd
  · exact h

theorem Answers.execSpCommandAccept {quad s} (h : Canonical s) : Answers (execSpCommandAccept quad s) :=
  .next (.ite h.spAcceptStep h)

theorem Answers.execSpCommandComplete {quad s} (h : Canonical s) : Answers (execSpCommandComplete quad s) :=
  .next (.ite h.spCompleteStep h)

theorem Keeps.requireQuad : Keeps requireQuad := .bind .getS fun _ => .ite .pure .trapM
theorem Keeps.issueSp {k} : Keeps (issueSp k) := .bind .getS fun _ => .ite (.waitKeepM (fun _ h' => h'.modQuad.modCore)) .waitM

theorem Keeps.untilAccepted {start : M Unit} (hstart : Keeps start) : Keeps (untilAccepted start) :=
  .bind .self fun _ => .ite .pure hstart

theorem Keeps.spFieldsOk {ok w} : Keeps (spFieldsOk ok w) := .ite .pure .trapM

theorem Answers.execSpup {d a b op leaves root s} (h : Canonical s) : Answers (execSpup d a b op leaves root s) :=
  .run8 (.withPorts (.bind .readG fun _ => .bind .readG fun _ => .bind .readG fun _ => .untilAccepted (.bind .requireQuad fun _ =>
    .bind .spFieldsOk fun _ => .bind .spFieldsOk fun _ => .bind .spFieldsOk fun _ => .issueSp))) h

theorem Answers.execSpdn {d a b op leaves acc s} (h : Canonical s) : Answers (execSpdn d a b op leaves acc s) :=
  .run8 (.withPorts (.bind .readG fun _ => .bind .readG fun _ => .bind .readG fun _ => .untilAccepted (.bind .requireQuad fun _ =>
    .bind .spFieldsOk fun _ => .bind .spFieldsOk fun _ => .bind .spFieldsOk fun _ => .issueSp))) h

theorem Keeps.spLocalOk {a n} : Keeps (spLocalOk a n) :=
  .bind .getS fun _ => .ite .trapM (.ite (by
    split
    · exact .pure
    · exact .trapM) .trapM)

theorem Answers.execSpld {a idx n s} (h : Canonical s) : Answers (execSpld a idx n s) :=
  .run8 (.withPorts (.bind .readG fun _ => .untilAccepted (.bind .requireQuad fun _ => .bind .spLocalOk fun _ => .issueSp))) h

theorem Answers.execSpst {a idx n s} (h : Canonical s) : Answers (execSpst a idx n s) :=
  .run8 (.withPorts (.bind .readG fun _ => .untilAccepted (.bind .requireQuad fun _ => .bind .spLocalOk fun _ => .issueSp))) h

theorem Answers.execSpmode {mode s} (h : Canonical s) : Answers (execSpmode mode s) :=
  .run8 (.untilAccepted (.bind .requireQuad fun _ => .issueSp)) h

theorem Answers.execSpnrm {a idx n s} (h : Canonical s) : Answers (execSpnrm a idx n s) :=
  .run8 (.withPorts (.bind .readG fun _ => .untilAccepted (.bind .requireQuad fun _ => .bind .spFieldsOk fun _ => .issueSp))) h

theorem Answers.execSpwait {d s} (h : Canonical s) : Answers (execSpwait d s) :=
  .run8 (.withPorts (.bind .self fun _ => by
    split
    · exact .writeG
    · exact .bind .requireQuad fun _ => .issueSp)) h

/-! ### Trust -/

theorem Canonical.respond {s l} (h : Canonical s) : Canonical (respond s l) :=
  h.elsewhere

theorem Canonical.respondError {s p} (h : Canonical s) : Canonical (respondError s p) :=
  h.elsewhere

theorem Answers.spdmStep {part ready} {f : State → State} {s} (hf : ∀ s0, Canonical s0 → Canonical
  (f s0)) (h : Canonical s) : Answers (spdmStep part ready f s) :=
  .next (.ite h (.ite (hf _ h) h.respondError))

theorem Canonical.modSpdm {s p f} (h : Canonical s) : Canonical (modSpdm s p f) :=
  h.elsewhere

theorem Answers.execGetVersion {part s} (h : Canonical s) : Answers (execGetVersion part s) :=
  .spdmStep (fun _ h' => h'.modSpdm.respond) h

theorem Answers.execGetCapabilities {part s} (h : Canonical s) : Answers (execGetCapabilities part s) :=
  .spdmStep (fun _ h' => h'.modSpdm.respond) h

theorem Answers.execNegotiateAlgorithms {part p384 s} (h : Canonical s) : Answers (execNegotiateAlgorithms part p384 s) :=
  .spdmStep (fun _ h' => h'.modSpdm.respond) h

theorem Answers.execGetDigests {part s} (h : Canonical s) : Answers (execGetDigests part s) := .spdmStep (fun _ h' => h'.respond) h

theorem Answers.execGetCertificate {part s} (h : Canonical s) : Answers (execGetCertificate part s) :=
  .spdmStep (fun _ h' => h'.respond) h

theorem Answers.execChallenge {part nonce s} (h : Canonical s) : Answers (execChallenge part nonce s) :=
  .spdmStep (fun _ h' => h'.respond) h

theorem Answers.execGetMeasurements {part index s} (h : Canonical s) : Answers (execGetMeasurements part index s) :=
  .spdmStep (fun _ h' => .ite h'.respond (.ite h'.respond (.ite h'.respond h'.respondError))) h

theorem Answers.execKeyExchange {part offer s} (h : Canonical s) : Answers (execKeyExchange part offer s) :=
  .spdmStep (fun _ h' => h'.modSpdm.respond) h

theorem Canonical.setIdeKey {s p session} (h : Canonical s) : Canonical (setIdeKey s p session) :=
  .ite h.modPart (.ite h.modPart h)

theorem Answers.execFinish {part session s} (h : Canonical s) : Answers (execFinish part session s) :=
  .spdmStep (fun _ h' => h'.setIdeKey.modSpdm.respond) h

theorem Answers.execLockInterface {part lock s} (h : Canonical s) : Answers (execLockInterface part lock s) :=
  .next (.ite h.modPart h)

theorem Answers.execStartInterface {part vf s} (h : Canonical s) : Answers (execStartInterface part vf s) :=
  .next (.ite h.modPart h)

theorem Answers.execStopInterface {part vf s} (h : Canonical s) : Answers (execStopInterface part vf s) :=
  .next (.ite h h.modPart)

theorem Answers.execTdispLockBreach {part vf s} (h : Canonical s) : Answers (execTdispLockBreach part vf s) :=
  .next (.ite (h.modPart.foldl (fun _ _ h' => h'.abortLaunch)) h)

theorem Answers.execDebugPolicyAccept {part signer measurement_ classes s} (h : Canonical s)
  : Answers (execDebugPolicyAccept part signer measurement_ classes s) :=
  .next (.ite h.modPart.haltLaunches.remeasure h)

theorem Answers.dbgctlBit {part b on s} (h : Canonical s) : Answers (dbgctlBit part b on s) :=
  .partStep (fun _ h' => h'.dbgctlWrite) h

theorem Answers.execDbgHaltreq {part on s} (h : Canonical s) : Answers (execDbgHaltreq part on s) := .dbgctlBit h
theorem Answers.execDbgTraceen {part on s} (h : Canonical s) : Answers (execDbgTraceen part on s) := .dbgctlBit h
theorem Answers.execDbgPerfen {part on s} (h : Canonical s) : Answers (execDbgPerfen part on s) := .dbgctlBit h

/-! ### Dispatch -/

theorem Answers.exec {i s} (h : Canonical s) : Answers (exec i s) := by
  unfold Machine.exec
  split
  · exact .execAdd h
  · exact .execSub h
  · exact .execAnd h
  · exact .execOr h
  · exact .execXor h
  · exact .execSll h
  · exact .execSrl h
  · exact .execSra h
  · exact .execSlt h
  · exact .execSltu h
  · exact .execMin h
  · exact .execMax h
  · exact .execMinu h
  · exact .execMaxu h
  · exact .execMul h
  · exact .execMulh h
  · exact .execMulhu h
  · exact .execDiv h
  · exact .execDivu h
  · exact .execRem h
  · exact .execRemu h
  · exact .execClz h
  · exact .execCtz h
  · exact .execPopc h
  · exact .execMovz h
  · exact .execMovn h
  · exact .execAddw h
  · exact .execSubw h
  · exact .execAddi h
  · exact .execAndi h
  · exact .execOri h
  · exact .execXori h
  · exact .execSlti h
  · exact .execSltui h
  · exact .execLui h
  · exact .execInsh h
  · exact .execSlli h
  · exact .execSrli h
  · exact .execSrai h
  · exact .execBfxu h
  · exact .execBfxs h
  · exact .execBfi h
  · exact .execAddpc h
  · exact .execBeq h
  · exact .execBne h
  · exact .execBlt h
  · exact .execBge h
  · exact .execBltu h
  · exact .execBgeu h
  · exact .execJ h
  · exact .execJal h
  · exact .execJr h
  · exact .execJalr h
  · exact .execLoop h
  · exact .execLd h
  · exact .execLdu h
  · exact .execSt h
  · exact .execLdl h
  · exact .execVadd h
  · exact .execVsub h
  · exact .execVmul h
  · exact .execVdiv h
  · exact .execVmin h
  · exact .execVmax h
  · exact .execVabs h
  · exact .execVneg h
  · exact .execVsqrt h
  · exact .execVrcp h
  · exact .execVrsq h
  · exact .execVexp2 h
  · exact .execVlog2 h
  · exact .execVadds h
  · exact .execVsubs h
  · exact .execVmulh h
  · exact .execVand h
  · exact .execVor h
  · exact .execVxor h
  · exact .execVsll h
  · exact .execVsrl h
  · exact .execVsra h
  · exact .execVmov h
  · exact .execVfma h
  · exact .execVfms h
  · exact .execVfnma h
  · exact .execVfnms h
  · exact .execVdot4 h
  · exact .execVdot2 h
  · exact .execVcmp h
  · exact .execVperm h
  · exact .execVslup h
  · exact .execVsldn h
  · exact .execVbcast h
  · exact .execVext h
  · exact .execVins h
  · exact .execVsel h
  · exact .execVredsum h
  · exact .execVredmax h
  · exact .execVredmin h
  · exact .execVzip h
  · exact .execVunzip h
  · exact .execVcmprs h
  · exact .execVcvt h
  · exact .execVcvth h
  · exact .execVtag h
  · exact .execVtchk h
  · exact .execVshrn8 h
  · exact .execVshrn16 h
  · exact .execKand h
  · exact .execKor h
  · exact .execKxor h
  · exact .execKandn h
  · exact .execKmovlToMask h
  · exact .execKmovlFromMask h
  · exact .execKmovhToMask h
  · exact .execKmovhFromMask h
  · exact .execKpopc h
  · exact .execKfirst h
  · exact .execCbld h
  · exact .execCbrd h
  · exact .execFadd h
  · exact .execFsub h
  · exact .execFmul h
  · exact .execFdiv h
  · exact .execFmin h
  · exact .execFmax h
  · exact .execFsqrt h
  · exact .execFeq h
  · exact .execFlt h
  · exact .execFle h
  · exact .execFcvt h
  · exact .execFma h
  · exact .execVld h
  · exact .execVst h
  · exact .execVlds h
  · exact .execVsts h
  · exact .execVldx h
  · exact .execVstx h
  · exact .execVldb h
  · exact .execSpillm h
  · exact .execFillm h
  · exact .execVspill h
  · exact .execVfill h
  · exact .execFrame h
  · exact .execUnframe h
  · exact .execWprd h
  · exact .execWpwait h
  · exact .execCpy h
  · exact .execCpym h
  · exact .execCpyq h
  · exact .execMtcfg h
  · exact .execAmo h
  · exact .execAmocas h
  · exact .execAmof h
  · exact .execRed h
  · exact .execFence h
  · exact .execWaita h
  · exact .execPref h
  · exact .execGet h
  · exact .execPut h
  · exact .execArrive h
  · exact .execWait h
  · exact .execBtest h
  · exact .execBmem h
  · exact .execPhase h
  · exact .execDomain h
  · exact .execMma h
  · exact .execMmac h
  · exact .execMzero h
  · exact .execMrd h
  · exact .execMwr h
  · exact .execMscl h
  · exact .execMwait h
  · exact .execMlic h
  · exact .execMrel h
  · exact .execTwx h
  · exact .execHrd h
  · exact .execHwr h
  · exact .execSpld h
  · exact .execSpst h
  · exact .execSpup h
  · exact .execSpdn h
  · exact .execSpmode h
  · exact .execSpnrm h
  · exact .execSpwait h
  · exact .execMigr h
  · exact .execHeat h
  · exact .execTqry h
  · exact .execMfs h
  · exact .execMts h
  · exact .execTrap h
  · exact .execEret h
  · exact .execHalt h
  · exact .execHaltRetain h
  · exact .execRope h
  · exact .execSplit h
  · exact .execCairn h
  · exact .execYield h
  · exact .execMbxrd h
  · exact .execMbxwrRetry h
  · exact .execMbxwrRefuse h
  · exact .execRltokRange h
  · exact .execRltokFunc h
  · exact .execRltokPart h
  · exact .execLaunchInstall h
  · exact .execLaunchPacket h
  · exact .execLaunchPreempt h
  · exact .execLaunchAbort h
  · exact .execLaunchUnretain h
  · exact .execPstat h
  · exact .execPtry h
  · exact .execDsend h
  · exact .execDrecv h
  · exact .execLaunchPacketArrival h
  · exact .execThreadCreation h
  · exact .execYieldExpiry h
  · exact .execSegmentAttempt h
  · exact .execCrossingWordArrival h
  · exact .execStreamFetch h
  · exact .execUserMessageArrival h
  · exact .execCopyPiece h
  · exact .execCopyErrClear h
  · exact .execCpymFollowOn h
  · exact .execCpyqSetRelease h
  · exact .execPlainStorePerform h
  · exact .execRedPerform h
  · exact .execWaitaTimeout h
  · exact .execPredictorDecay h
  · exact .execWalkEnd h
  · exact .execTokenPass h
  · exact .execMailboxArrival h
  · exact .execFaultReply h
  · exact .execSectorCacheAccess h
  · exact .execTraverseLineCopy h
  · exact .execTraverseFinish h
  · exact .execTraverseAbort h
  · exact .execHeatReport h
  · exact .execOffreqLayer h
  · exact .execOffreqDie h
  · exact .execLayerRemoved h
  · exact .execDieOfflineDone h
  · exact .execMatrixCommandComplete h
  · exact .execSpCommandAccept h
  · exact .execSpCommandComplete h
  · exact .execEpisodeRelease h
  · exact .execSummitSweep h
  · exact .execQtailWrite h
  · exact .execQctlWrite h
  · exact .execQstatSkip h
  · exact .execQstatErrClear h
  · exact .execQstatOvfClear h
  · exact .execLaunchReady h
  · exact .execStagingDeadline h
  · exact .execPlacementTurn h
  · exact .execReservation h
  · exact .execReservationPreempt h
  · exact .execForcedHalt h
  · exact .execRegionSave h
  · exact .execBudgetPeriod h
  · exact .execSagDetect h
  · exact .execLinkRetrain h
  · exact .execSlackWindow h
  · exact .execMergeRequest h
  · exact .execMergeExecute h
  · exact .execMergeDeadline h
  · exact .execGetVersion h
  · exact .execGetCapabilities h
  · exact .execNegotiateAlgorithms h
  · exact .execGetDigests h
  · exact .execGetCertificate h
  · exact .execChallenge h
  · exact .execGetMeasurements h
  · exact .execKeyExchange h
  · exact .execFinish h
  · exact .execLockInterface h
  · exact .execTdispLockBreach h
  · exact .execDebugPolicyAccept h
  · exact .execDbgHaltreq h
  · exact .execDbgTraceen h
  · exact .execDbgPerfen h
  · exact .execRegisterWrite h
  · exact .execModuleReset h
  · exact .execMemoryReply h
  · exact .execPartitionReset h
  · exact .execHostPortWrite h
  · exact .execFunctionReadinessChange h
  · exact .execStartInterface h
  · exact .execStopInterface h
  · exact .execNumvfsWrite h

/-! ### Run -/

theorem Answers.andThen {o} {f : State → Host.Outcome State Fault Refusal} (ho : Answers o) (hf : ∀ s, Canonical s → Answers (f s)) :
    Answers (andThen o f) := by
  cases o with
  | next s => exact hf s (ho s rfl)
  | fault => exact .fault
  | refused => exact .refused

theorem Answers.eachTurn {f : α → State → Host.Outcome State Fault Refusal} {l s} (hf : ∀ x s, Canonical s → Answers (f x s))
    (h : Canonical s) : Answers (eachTurn f l s) := by
  induction l generalizing s with
  | nil => exact .next h
  | cons x rest ih => exact .andThen (hf x s h) fun _ h => ih h

theorem Canonical.refusedTrap {s t va} (h : Canonical s) : Canonical (refusedTrap s t va) := by
  unfold Machine.refusedTrap
  split
  · exact .ite h.takeTrap h.takeTrap
  · exact h.takeTrap

theorem Canonical.afterIssue {s t path} (h : Canonical s) : Canonical (afterIssue s t path) :=
  .ite h.markIssued.stopForced h.markIssued

theorem Answers.execAs {i t s} (h : Canonical s) : Answers (execAs i t s) :=
  .andThen (.exec h.elsewhere) (fun _ h' => .next h'.noteBegun)

theorem Canonical.noteDirs {s core dirs} (h : Canonical s) : Canonical (noteDirs s core dirs) := by
  unfold Machine.noteDirs
  split
  · exact h
  · exact h.modCore

theorem Answers.issueAlone {i t s} (h : Canonical s) : Answers (issueAlone i t s) :=
  .ite (.next h) (.andThen (.execAs h) (fun _ h' => .next (.ite h'.afterIssue.noteDirs h)))

theorem Answers.runAlone {t s} (h : Canonical s) : Answers (runAlone t s) := by
  unfold Machine.runAlone
  split
  · exact .next (h.nextInstr.of_eq ‹_› |>.takeTrap |>.afterIssue)
  · exact .next (h.nextInstr.of_eq ‹_› |>.blockThread |>.afterIssue)
  · exact .issueAlone (h.nextInstr.of_eq ‹_›)

theorem Answers.issueRope {i ts s} (h : Canonical s) : Answers (issueRope i ts s) :=
  .ite (.eachTurn (fun _ _ h' => .andThen (.execAs h') (fun _ h2 => .next h2.afterIssue)) h) (.andThen (.eachTurn (fun _ _ h' =>
    .execAs h') h) (fun _ h' => .ite (.next h) (.next (Canonical.ite (h'.foldl (fun _ _ h2 => h2.dissolveRope)) h' |>.foldl (fun _ _ h2 =>
    h2.afterIssue.noteDirs)))))

theorem Answers.runRope {ts leader s} (h : Canonical s) : Answers (runRope ts leader s) :=
  .ite (.eachTurn (fun _ _ h' => .ite (.runAlone h') (.next h')) h) (by
    split
    · exact .next h.refusedTrap.afterIssue
    · exact .ite (by
        split
        · exact .next (h.nextInstr.of_eq ‹_› |>.foldl (fun _ _ h' => h'.takeTrap.afterIssue))
        · exact .next (h.nextInstr.of_eq ‹_› |>.blockThread |>.afterIssue)
        · exact .ite (.next (h.nextInstr.of_eq ‹_›)) (.ite (.eachTurn (fun _ _ h' =>
            .issueAlone h') (h.nextInstr.of_eq ‹_›)) (.issueRope (h.nextInstr.of_eq ‹_›)))) (.next h))

theorem Answers.issueTurn {t s} (h : Canonical s) : Answers (issueTurn t s) := by
  unfold Machine.issueTurn
  dsimp only
  split
  · exact .next h.refusedTrap.afterIssue
  · exact .ite (.ite (.runRope h) (.next h)) (.runAlone h)

theorem Answers.readyTurn {t s} (h : Canonical s) : Answers (readyTurn t s) :=
  .ite (.ite (.next (h.foldl (fun _ _ h' => h'.modThread) |>.foldl (fun _ _ h' => h'.markIssued))) (.issueTurn (h.foldl (fun _ _ h' =>
    h'.modThread)))) (.issueTurn h)

theorem Answers.threadTurn {late t s} (h : Canonical s) : Answers (threadTurn late t s) :=
  .ite .fault (.ite (.andThen (.eachTurn (fun _ _ h' => .readyTurn h') h.elsewhere) (fun _ h' => .readyTurn h')) (.next h))

theorem Answers.conflictTurn {t s} (h : Canonical s) : Answers (conflictTurn t s) :=
  .ite .fault (.ite (.next (h.blockThread.foldl (fun _ _ h' => h'.markIssued))) (.next h))

theorem Canonical.rowConflictTurn {tile s} (h : Canonical s) : Canonical (rowConflictTurn tile s) :=
  h.elsewhere

theorem Answers.classTurn {core vec slot s} (h : Canonical s) : Answers (classTurn core vec slot s) :=
  .ite (.threadTurn h) (.next h)

theorem Answers.coreTurn {core s} (h : Canonical s) : Answers (coreTurn core s) :=
  .ite .fault (.andThen (.eachTurn (fun _ _ h' => .classTurn h') h.elsewhere) (fun _ h' => .eachTurn (fun _ _ h2 => .classTurn h2) h'))

theorem Answers.eventTurn {i s} (h : Canonical s) : Answers (eventTurn i s) := .ite (.exec h.elsewhere) (.next h)
theorem Canonical.commitTables {s} (h : Canonical s) : Canonical (commitTables s) := .ite h h.elsewhere
theorem Canonical.commitWindows {s} (h : Canonical s) : Canonical (commitWindows s) := .ite h h.elsewhere

theorem Canonical.endThreads {s} (h : Canonical s) : Canonical (endThreads s) :=
  h.elsewhere

theorem Canonical.cycleDuties {s} (h : Canonical s) : Canonical (cycleDuties s) :=
  h.endThreads.timeOutAll.decayAll.followOnsEnter.countStarves.heatReports.sweepAll.landDue.attemptAll

theorem Canonical.startDuties {s} (h : Canonical s) : Canonical (startDuties s) := h.forceHalts.releaseSets.startChannels

theorem Canonical.keepMemory {s} (h : Canonical s) : Canonical (keepMemory s) :=
  h.elsewhere

theorem Canonical.cycleEnd {s} (h : Canonical s) : Canonical (cycleEnd s) :=
  have duties := h.cycleDuties.countSlack.serveWrites.injectAll.detectEpisodes.commitEntries.preemptTick.endDrained.mergeTick
  duties.countTicks.commitTables.commitWindows.keepMemory.cycleWith.startDuties

theorem Answers.runTurn {t s} (h : Canonical s) : Answers (runTurn t s) := by
  unfold Machine.runTurn
  split
  · exact .threadTurn h
  · exact .threadTurn h
  · exact .coreTurn h
  · exact .conflictTurn h
  · exact .next h.rowConflictTurn
  · exact .next h.spReadAhead
  · exact .next h.spWriteAhead
  · exact .next h.arrayReadAhead
  · exact .eventTurn h
  · exact .next h.cycleEnd

theorem Answers.nextTurn {s} (h : Canonical s) : Answers (nextTurn s) := by
  unfold Machine.nextTurn
  split
  · exact .runTurn h.elsewhere
  · exact .andThen (.threadTurn h) (fun _ h' => .next h'.cycleEnd)

/-! ### Step -/

theorem Answers.step {s} (h : Canonical s) : Answers (step s) := .nextTurn h

/-- Settles O59: each of the functions that a step is made of keeps the form. -/
theorem memoryStaysCanonical : Obligations.MemoryStaysCanonical := fun _ t h e => Answers.step h t e

end Sys2Proof.CanonicalMemory
end

section
/-! Choices of an instruction's work whose condition is known. -/
namespace Sys2Proof.Choices
open Sys2Proof.Machine

section
variable {α : Type} {c : Prop} {_ : Decidable c} {m n : M α} {s : State} {r : Except Halt (α × State)}

theorem run_pos (h : c) (hm : m s = r) : (if c then m else n) s = r := by rw [if_pos h, hm]
theorem run_neg (h : ¬ c) (hn : n s = r) : (if c then m else n) s = r := by rw [if_neg h, hn]

end

end Sys2Proof.Choices
end

section
/-! The belay forms (R184, R297 to R299): who is a member of a level, and what ARRIVE, WAIT, BTEST, PHASE, BMEM and DOMAIN then do. -/
namespace Sys2Proof.BelayForms
open Sys2Proof.Machine Sys2Proof.Safety Sys2Proof.Choices Sys2Proof.Frames

/-- Is the executing thread a member at a level: it always is at level 1, and elsewhere where its quad's entry says so (R297)? -/
def Member (s : State) (n : Nat) : Prop :=
  n = 1 ∨ ∃ r, threadRegion s s.cur = some r ∧ domTree (domainOf (me s) n) < r.nt ∧
    entryIn (belayEntry r (quadIndex r s.cur.core) (domTree (domainOf (me s) n))) (domGroup (domainOf (me s) n)) = true

/-- A word that DOMAIN takes for a level: its zero bits are clear, nothing is pending, and its tree is the level's own (R92, R299). -/
def GoodDomain (s : State) (n : Nat) (v : Word) : Prop :=
  fieldOf v 63 24 = 0 ∧ fieldOf v 19 16 = 0 ∧ pendAt (me s) n = false ∧ (n = 1 → domTree v = 0) ∧
    (n ≠ 1 → domTree v < ((threadRegion s s.cur).map (·.nt)).getD 0 ∧
      ∀ m, 2 ≤ m → m ≤ 4 → m ≠ n → domTree (domainOf (me s) m) ≠ domTree v)

section
variable {s : State} {l : BitVec 2} {n : Nat} {a d : Reg} {v : Word}

theorem threadRegion_afterG (s : State) (r : Reg) (t : ThreadRef) : threadRegion (afterG s r) t = threadRegion s t := by
  unfold afterG
  split <;> rfl

/-! ### Membership -/

/-- The check that MemberCheck makes is membership. -/
theorem member_iff (s : State) (n : Nat) :
    (n = 1 ∨ (match threadRegion s s.cur with
      | some r => decide (domTree (domainOf (me s) n) < r.nt) &&
          entryIn (belayEntry r (quadIndex r s.cur.core) (domTree (domainOf (me s) n))) (domGroup (domainOf (me s) n))
      | none => false) = true) ↔ Member s n := by
  unfold Member
  cases threadRegion s s.cur <;> simp

theorem memberCheck_ok (h : Member s n) : memberCheck n s = .ok ((), s) :=
  run_pos ((member_iff s n).2 h) rfl

theorem memberCheck_trap (h : ¬ Member s n) : memberCheck n s = .error (.trap causeAddress (domainOf (me s) n) id) :=
  run_neg (mt (member_iff s n).1 h) rfl

/-! ### ARRIVE, WAIT and BTEST -/

theorem exec_arrive_ok (member : Member s (levelOf l)) (clear : pendAt (me s) (levelOf l) = false) :
    exec (.arrive l) s = .next (retired 4 s (modThread s s.cur fun x => setPend x (levelOf l) true)) := by
  refine run4_ok ?_
  rw [m_bind_ok (memberCheck_ok member), m_bind_ok (self_run s)]
  exact run_neg (ne_true_of_eq_false clear) rfl

theorem exec_arrive_trap (outside : ¬ Member s (levelOf l)) :
    exec (.arrive l) s = .next (takeTrap s s.cur causeAddress (domainOf (me s) (levelOf l))) :=
  run4_trap (k := id) (m_bind_error (memberCheck_trap outside))

theorem exec_wait_ok (clear : pendAt (me s) (levelOf l) = false) : exec (.wait l) s = .next (retired 4 s s) := by
  refine run4_ok ?_
  rw [m_bind_ok (self_run s)]
  exact run_neg (ne_true_of_eq_false clear) rfl

theorem exec_wait_blocks (pending : pendAt (me s) (levelOf l) = true) :
    exec (.wait l) s = .next (blockThread s s.cur (.belay (levelOf l))) := by
  refine run4_wait (k := id) ?_
  rw [m_bind_ok (self_run s)]
  exact run_pos pending rfl

theorem exec_btest (hp : PortsReady s [] [] [d] []) :
    exec (.btest d l) s = .next (retired 4 s (giveG s d (if pendAt (me s) (levelOf l) then 0 else 1))) := by
  have value : boolWord (!pendAt (me s) (levelOf l)) = if pendAt (me s) (levelOf l) then 0 else 1 := by
    cases pendAt (me s) (levelOf l) <;> rfl
  rw [← value]
  exact run4_ok (withPorts_ok hp ((m_bind_ok (self_run s)).trans (hp.room.giveG _)))

/-! ### PHASE -/

/-- PHASE of a thread that has not arrived with it: the membership, then the publication with the wait. -/
theorem exec_phase_starts {w : Wait} {k : State → State} (first : (me s).wait ≠ .phase (levelOf l)) (member : Member s (levelOf l))
    (waits : (if pendAt (me s) (levelOf l) then waitKeepM (.arrive (levelOf l)) fun s => publish s s.cur (publishScope (levelOf l))
      else waitKeepM (.phase (levelOf l)) fun s =>
        let s := publish s s.cur (publishScope (levelOf l))
        modThread s s.cur fun x => setPend x (levelOf l) true : M Unit) s = .error (.wait w k)) :
    exec (.phase l) s = .next (blockThread (k s) s.cur w) := by
  refine run4_wait ?_
  rw [m_bind_ok (self_run s)]
  exact run_neg first ((m_bind_ok (memberCheck_ok member)).trans waits)

theorem exec_phase_arrives (first : (me s).wait ≠ .phase (levelOf l)) (member : Member s (levelOf l))
    (clear : pendAt (me s) (levelOf l) = false) :
    let u := publish s s.cur (publishScope (levelOf l))
    exec (.phase l) s = .next (blockThread (modThread u u.cur fun x => setPend x (levelOf l) true) s.cur (.phase (levelOf l))) :=
  exec_phase_starts first member (run_neg (ne_true_of_eq_false clear) rfl)

theorem exec_phase_stands (first : (me s).wait ≠ .phase (levelOf l)) (member : Member s (levelOf l))
    (pending : pendAt (me s) (levelOf l) = true) :
    exec (.phase l) s = .next (blockThread (publish s s.cur (publishScope (levelOf l))) s.cur (.arrive (levelOf l))) :=
  exec_phase_starts first member (run_pos pending rfl)

theorem exec_phase_trap (first : (me s).wait ≠ .phase (levelOf l)) (outside : ¬ Member s (levelOf l)) :
    exec (.phase l) s = .next (takeTrap s s.cur causeAddress (domainOf (me s) (levelOf l))) := by
  refine run4_trap (k := id) ?_
  rw [m_bind_ok (self_run s)]
  exact run_neg first (m_bind_error (memberCheck_trap outside))

theorem exec_phase_waits (arrived : (me s).wait = .phase (levelOf l)) (pending : pendAt (me s) (levelOf l) = true) :
    exec (.phase l) s = .next (blockThread s s.cur (.phase (levelOf l))) := by
  refine run4_wait (k := id) ?_
  rw [m_bind_ok (self_run s)]
  exact run_pos arrived (run_pos pending rfl)

theorem exec_phase_ends (arrived : (me s).wait = .phase (levelOf l)) (clear : pendAt (me s) (levelOf l) = false) :
    exec (.phase l) s = .next (retired 4 s s) := by
  refine run4_ok ?_
  rw [m_bind_ok (self_run s)]
  exact run_pos arrived (run_neg (ne_true_of_eq_false clear) rfl)

/-! ### DOMAIN and BMEM -/

/-- The check that the model makes of a word is that of `GoodDomain`. -/
theorem badDomain_iff (s : State) (n : Nat) (v : Word) :
    (fieldOf v 63 24 ≠ 0 ∨ fieldOf v 19 16 ≠ 0 ∨ (n = 1 ∧ domTree v ≠ 0) ∨
      (n ≠ 1 ∧ (((threadRegion s s.cur).map (·.nt)).getD 0 ≤ domTree v ∨
        ((([2, 3, 4].filter fun m => decide (m ≠ n)).any fun m => domTree (domainOf (me s) m) == domTree v) = true))) ∨
      pendAt (me s) n = true) ↔ ¬ GoodDomain s n v := by
  have taken : (([2, 3, 4].filter fun m => decide (m ≠ n)).any fun m => domTree (domainOf (me s) m) == domTree v) = true ↔
      ∃ m, 2 ≤ m ∧ m ≤ 4 ∧ m ≠ n ∧ domTree (domainOf (me s) m) = domTree v := by
    simp only [List.any_filter, List.any_eq_true, Bool.and_eq_true, decide_eq_true_eq, beq_iff_eq]
    constructor
    · rintro ⟨m, hm, other, same⟩
      have : m = 2 ∨ m = 3 ∨ m = 4 := by simpa using hm
      exact ⟨m, by omega, by omega, other, same⟩
    · rintro ⟨m, low, high, other, same⟩
      obtain h | h | h : m = 2 ∨ m = 3 ∨ m = 4 := by omega
      all_goals exact ⟨m, by simp [h], other, same⟩
  rw [taken]
  unfold GoodDomain
  grind

theorem goodDomain_afterG : GoodDomain (afterG s a) n v ↔ GoodDomain s n v := by
  simp only [GoodDomain, me_afterG, afterG_cur, threadRegion_afterG]

theorem exec_domain_ok (hp : PortsReady s [a] [] [] []) (good : GoodDomain s (levelOf l) (valueG s a)) :
    exec (.domain a l) s = .next (retired 4 s (modThread (afterG s a) s.cur fun x => setDomain x (levelOf l) (valueG s a))) := by
  refine run4_ok (withPorts_ok hp ?_)
  rw [m_bind_ok hp.sources.takeG.1, m_bind_ok (getS_run _), m_bind_ok (self_run _)]
  refine run_neg (fun bad => (badDomain_iff _ _ _).1 bad (goodDomain_afterG.2 good)) ?_
  rw [modSelf_run, afterG_cur]

theorem exec_domain_trap (hp : PortsReady s [a] [] [] []) (bad : ¬ GoodDomain s (levelOf l) (valueG s a)) :
    exec (.domain a l) s = .next (takeTrap (holdDirs (namedDirs [a] []) s) s.cur causeAddress (valueG s a)) := by
  refine run4_trap (withPorts_trap (k := id) hp ?_)
  rw [m_bind_ok hp.sources.takeG.1, m_bind_ok (getS_run _), m_bind_ok (self_run _)]
  exact run_pos ((badDomain_iff _ _ _).2 (mt goodDomain_afterG.1 bad)) rfl

theorem exec_bmem {r : Region} (hp : PortsReady s [a] [] [] []) (region : threadRegion s s.cur = some r)
    (high : fieldOf (valueG s a) 63 32 = 0) (low : fieldOf (valueG s a) 15 5 = 0) (tree : fieldOf (valueG s a) 3 0 < r.nt)
    (free : treeBusy s r s.cur.core (fieldOf (valueG s a) 3 0) = false) :
    exec (.bmem a) s =
      .next (retired 4 s (modRegion (afterG s a) (regionKey r.part r.inst) fun r =>
        { r with entriesNext := amInsert r.entriesNext (quadIndex r s.cur.core * 16 + fieldOf (valueG s a) 3 0)
                   (BitVec.ofNat 32 (fieldOf (valueG s a) 31 16 * 65536 + fieldOf (valueG s a) 4 4)) })) := by
  have here : threadRegion (afterG s a) (afterG s a).cur = some r := by rw [afterG_cur, threadRegion_afterG, region]
  have idle : treeBusy (afterG s a) r (afterG s a).cur.core (fieldOf (valueG s a) 3 0) = false := by
    simp only [treeBusy, getCore_afterG, afterG_cur]
    exact free
  refine run4_ok (withPorts_ok hp ?_)
  rw [m_bind_ok hp.sources.takeG.1, m_bind_ok (getS_run _)]
  simp only [here]
  refine run_neg (by omega) (run_neg (ne_true_of_eq_false idle) ?_)
  rw [modS_run]
  simp only [afterG_cur]

end

/-- Settles O39: each form by the membership of its level and by PEND. -/
theorem belayForms : Obligations.BelayForms := fun _ =>
  ⟨fun _ => ⟨exec_arrive_ok, exec_arrive_trap, exec_wait_ok, exec_wait_blocks, fun _ => exec_btest,
      fun first => ⟨exec_phase_arrives first, exec_phase_stands first, exec_phase_trap first⟩, exec_phase_waits, exec_phase_ends,
      fun _ hp => ⟨exec_domain_ok hp, exec_domain_trap hp⟩⟩,
    fun _ hp _ region => exec_bmem hp region⟩

end Sys2Proof.BelayForms
end

section
/-! Coherent accesses of one line (R185, R193, R199): the translation, the thread's own writes to the line, and the read. -/
namespace Sys2Proof.CoherentAccess
open Sys2Proof.Machine Sys2Proof.Safety

section
variable {α : Type} {s t u w : State} {va pa n : Nat} {val : Word} {write : Bool} {e : TlbEntry} {l : List Byte}

/-- The work of a coherent access begins where the thread's own writes to the line are performed. -/
theorem withLine_ok {f : TlbEntry → Nat → M α} {a : α} (hit : Hit u w va write e) (answered : Answered u)
    (hf : f e (tlbPa e va) (performLine w w.cur (tlbPa e va)) = .ok (a, t)) : withLine va write f u = .ok (a, t) := by
  refine withXlates_hit hit ?_
  rw [m_bind_ok (variableLatency_ok (hit_answered hit answered)), m_bind_ok (modS_run _ w)]
  exact hf

theorem cohReadM_ok (read : cohRead s (whoThread s s.cur) pa n e.t = (t, some l)) : cohReadM e pa n val s = .ok (l, t) := by
  rw [cohReadM, m_bind_ok (getS_run s), read]
  rfl

/-- The read of a line goes on with its bytes. -/
theorem withLine_reads {k : TlbEntry → Nat → List Byte → M α} {r : State} {a : α} (hit : Hit u w va write e) (answered : Answered u)
    (reads : CohReads w e (tlbPa e va) n l t) (hk : k e (tlbPa e va) l t = .ok (a, r)) :
    withLine va write (fun e pa => cohReadM e pa n val >>= k e pa) u = .ok (a, r) :=
  withLine_ok hit answered ((m_bind_ok (cohReadM_ok reads)).trans hk)

end

end Sys2Proof.CoherentAccess
end

section
/-! The atomics and the reductions (R193 to R195): the one access of an atomic, where an RED goes, the order of their checks, and what the
operations make of their operands. -/
namespace Sys2Proof.AtomicForms
open Sys2Proof.Machine Sys2Proof.Safety Sys2Proof.Choices Sys2Proof.CoherentAccess Sys2Proof.IntegerForms Sys2Proof.ScalarAccess

/-! ### The access of an atomic -/

section
variable {α : Type} {s t u r : State} {ea : Word} {n old : Nat} {new : Nat → Option Nat} {a : α}

theorem requireAligned_ok (h : ea.toNat % n = 0) : atomicAt.requireAligned ea n u = .ok ((), u) := run_pos h rfl

theorem requireAligned_trap (h : ea.toNat % n ≠ 0) : atomicAt.requireAligned ea n u = .error (.trap causeAlignment ea id) := run_neg h rfl

/-- No local object that an atomic does not reach (R193). -/
theorem reaches_of_kind (h : localKind ea ≤ 2) : ¬ (isLocal ea && !reachesAtomics ea) = true := by
  simp [reachesAtomics, h]

theorem reaches_of_global (h : isGlobal ea = true) : ¬ (isLocal ea && !reachesAtomics ea) = true := by
  simp [isLocal_of_isGlobal h]

/-- An atomic that can be done writes what its operation gives and goes on with the old value. -/
theorem atomicAt_ok {k : Nat → M α} (aligned : ea.toNat % n = 0) (done : AtomicDone u ea n new old t) (hk : k old t = .ok (a, r)) :
    atomicAt ea n new k u = .ok (a, r) := by
  rw [atomicAt, m_bind_ok (requireAligned_ok aligned)]
  obtain ⟨o, off, l, range, kind, latency, read, rfl, rfl⟩ | ⟨global, answered, w, e, x, l, hit, reads, rfl, rfl⟩ := done
  · refine run_neg (reaches_of_kind kind) ?_
    rw [m_bind_ok (resolveM_local range)]
    refine (m_bind_ok (localLatency_ok latency)).trans ((m_bind_ok (getS_run u)).trans ?_)
    rw [read]
    cases written : new (ofBytes l) <;> simp only [written] at hk ⊢ <;> exact hk
  · refine run_neg (reaches_of_global global) ?_
    rw [m_bind_ok (resolveM_global global)]
    refine withLine_reads hit answered reads ?_
    rw [m_bind_ok (modS_run _ x)]
    cases written : new (ofBytes l) <;> simp only [written] at hk ⊢ <;> exact hk

theorem atomicAt_trap {k : Nat → M α} (odd : ea.toNat % n ≠ 0) : atomicAt ea n new k u = .error (.trap causeAlignment ea id) :=
  m_bind_error (requireAligned_trap odd)

end

/-! ### The forms -/

section
variable {s t : State} {d a b : Reg} {z : BitVec 2} {op : BitVec 4} {old : Nat}

/-- Three general sources are read in order. -/
theorem readG_three {α : Type} {c : Reg} {k : Word → Word → Word → M α} (h : SourcesReady s [a, b, c] []) :
    (readG a >>= fun x => readG b >>= fun y => readG c >>= fun z => k x y z) s =
      k (valueG s a) (valueG (afterG s a) b) (valueG (afterG (afterG s a) b) c) (afterG (afterG (afterG s a) b) c) := by
  obtain ⟨readA, rest⟩ := h.takeG
  obtain ⟨readB, last⟩ := rest.takeG
  rw [m_bind_ok readA, m_bind_ok readB, m_bind_ok last.takeG.1]

/-- The work of an AMO or AMOF whose operands are read. -/
def amoWork (d : Reg) (n : Nat) (op : Nat → Nat → Nat) (zero : Bool) (ea y : Word) : M Unit :=
  atomicAt ea n (fun old => some (op old (y.toNat % 2 ^ (8 * n)))) fun old => writeG d (atomicResult zero n old)

/-- An instruction that runs such a work on its two sources. -/
def AmoForm (i : Instr) (d a b : Reg) (n : Nat) (op : Nat → Nat → Nat) (zero : Bool) : Prop :=
  ∀ s, exec i s = run4 (withPorts [a, b] [] [d] [] (readG a >>= fun ea => readG b >>= fun y => amoWork d n op zero ea y)) s

theorem amo_form : AmoForm (.amo d a b z op) d a b (atomicBytes z) (amoOp op.toNat (atomicBytes z)) (op = 6 || op = 7) := fun _ => rfl
theorem amof_form : AmoForm (.amof d a b op) d a b 4 (amoFloat op.toNat) true := fun _ => rfl

section
variable {i : Instr} {n : Nat} {f : Nat → Nat → Nat} {zero : Bool}

theorem AmoForm.ok (form : AmoForm i d a b n f zero) (hp : PortsReady s [a, b] [] [d] []) (aligned : (valueG s a).toNat % n = 0)
    (done : AtomicDone (afterG (afterG s a) b) (valueG s a) n (fun old => some (f old ((valueG (afterG s a) b).toNat % 2 ^ (8 * n)))) old t)
    (room : CanGive t d) : exec i s = .next (retired 4 s (giveG t d (atomicResult zero n old))) := by
  rw [form s]
  exact run4_ok (withPorts_ok hp ((readG_two hp.sources).trans (atomicAt_ok aligned done ((roomReady_of_canGive room).giveG _))))

theorem AmoForm.trap (form : AmoForm i d a b n f zero) (hp : PortsReady s [a, b] [] [d] []) (odd : (valueG s a).toNat % n ≠ 0) :
    exec i s = .next (takeTrap (holdDirs (namedDirs [a, b, d] []) s) s.cur causeAlignment (valueG s a)) := by
  rw [form s]
  exact run4_trap (withPorts_trap hp ((readG_two hp.sources).trans (atomicAt_trap odd)))

end

theorem exec_amocas_ok (hp : PortsReady s [a, b, d] [] [d] []) (aligned : (valueG s a).toNat % atomicBytes z = 0)
    (done : AtomicDone (afterG (afterG (afterG s a) b) d) (valueG s a) (atomicBytes z) (fun old =>
      if old = (valueG (afterG (afterG s a) b) d).toNat % 2 ^ (8 * atomicBytes z) then
        some ((valueG (afterG s a) b).toNat % 2 ^ (8 * atomicBytes z)) else none) old t) (room : CanGive t d) :
    exec (.amocas d a b z) s = .next (retired 4 s (giveG t d (atomicResult false (atomicBytes z) old))) :=
  run4_ok (withPorts_ok hp ((readG_three hp.sources).trans (atomicAt_ok aligned done ((roomReady_of_canGive room).giveG _))))

theorem exec_amocas_trap (hp : PortsReady s [a, b, d] [] [d] []) (odd : (valueG s a).toNat % atomicBytes z ≠ 0) :
    exec (.amocas d a b z) s = .next (takeTrap (holdDirs (namedDirs [a, b, d, d] []) s) s.cur causeAlignment (valueG s a)) :=
  run4_trap (withPorts_trap hp ((readG_three hp.sources).trans (atomicAt_trap odd)))

/-! ### RED -/

/-- The work of RED once its operands are read. -/
def redWork (n op : Nat) (ea y : Word) : M Unit := do
  atomicAt.requireAligned ea n
  if isLocal ea && !reachesAtomics ea then trapM causeAddress ea
  else do
    let t ← resolveM ea n ea
    match t with
    | .loc o off => do
      let s ← getS
      match localRead s o off n with
      | none => pure ()
      | some l => modS fun s => localWrite s o off (toBytes n (amoOp op n (ofBytes l) (y.toNat % 2 ^ (8 * n))))
    | .glob va =>
      withXlates [va] true true fun es => do
        let e := es.headD {}
        modS fun s => predictAtomic (performStores s s.cur (storeTouches (tlbPa e va))) (quadKey s.cur.core) (tlbPa e va) e.t
        modS fun s => postRed s { pa := tlbPa e va, size := n, op := op, operand := y.toNat % 2 ^ (8 * n), va := va, global := e.g
                                  moving := e.t }
    | .bad => trapM causeAddress ea

theorem exec_red_eq (s : State) : exec (.red a b z op) s =
    run4 (withPorts [a, b] [] [] [] (readG a >>= fun ea => readG b >>= fun y => redWork (atomicBytes z) op.toNat ea y)) s := rfl

theorem exec_red_ok (hp : PortsReady s [a, b] [] [] [])
    (h : redWork (atomicBytes z) op.toNat (valueG s a) (valueG (afterG s a) b) (afterG (afterG s a) b) = .ok ((), t)) :
    exec (.red a b z op) s = .next (retired 4 s t) := by
  rw [exec_red_eq]
  exact run4_ok (withPorts_ok hp ((readG_two hp.sources).trans h))

theorem exec_red_trap (hp : PortsReady s [a, b] [] [] []) (odd : (valueG s a).toNat % atomicBytes z ≠ 0) :
    exec (.red a b z op) s = .next (takeTrap (holdDirs (namedDirs [a, b] []) s) s.cur causeAlignment (valueG s a)) := by
  rw [exec_red_eq]
  exact run4_trap (withPorts_trap hp ((readG_two hp.sources).trans (m_bind_error (requireAligned_trap odd))))

section
variable {u w : State} {ea y : Word} {n op off : Nat} {o : LObj} {l : List Byte} {e : TlbEntry}

theorem redWork_local (aligned : ea.toNat % n = 0) (range : LocalRange u ea n o off) (kind : localKind ea ≤ 2)
    (read : localRead u o off n = some l) :
    redWork n op ea y u = .ok ((), localWrite u o off (toBytes n (amoOp op n (ofBytes l) (y.toNat % 2 ^ (8 * n))))) := by
  rw [redWork, m_bind_ok (requireAligned_ok aligned)]
  refine run_neg (reaches_of_kind kind) ?_
  rw [m_bind_ok (resolveM_local range)]
  refine (m_bind_ok (getS_run u)).trans ?_
  rw [read]
  rfl

/-- A global RED takes its place in the order of arrival, after the thread's own stores to its line (R185, R195). -/
theorem redWork_global (aligned : ea.toNat % n = 0) (global : isGlobal ea = true) (hit : Hit u w ea.toNat true e) :
    let p := predictAtomic (performStores w w.cur (storeTouches (tlbPa e ea.toNat))) (quadKey w.cur.core) (tlbPa e ea.toNat) e.t
    redWork n op ea y u = .ok ((), postRed p { pa := tlbPa e ea.toNat, size := n, op := op, operand := y.toNat % 2 ^ (8 * n)
                                               va := ea.toNat, global := e.g, moving := e.t }) := by
  rw [redWork, m_bind_ok (requireAligned_ok aligned)]
  refine run_neg (reaches_of_global global) ?_
  rw [m_bind_ok (resolveM_global global)]
  exact withXlates_hit hit rfl

end

end

/-! ### The operations on integers and on floats -/

theorem minMax_signed (w x y : Nat) :
    toSigned w (if toSigned w x ≤ toSigned w y then x else y) = min (toSigned w x) (toSigned w y) ∧
      toSigned w (if toSigned w x ≤ toSigned w y then y else x) = max (toSigned w x) (toSigned w y) := by
  split <;> omega

/-- No operation leaves the range of its operands. -/
theorem amoOp_lt {n x y : Nat} (hx : x < 2 ^ (8 * n)) (hy : y < 2 ^ (8 * n)) (op : Nat) : amoOp op n x y < 2 ^ (8 * n) := by
  unfold amoOp
  split
  · exact Nat.mod_lt _ (Nat.two_pow_pos _)
  · exact Nat.and_lt_two_pow _ hy
  · exact Nat.or_lt_two_pow hx hy
  · exact Nat.xor_lt_two_pow hx hy
  case _ | _ | _ | _ => split <;> assumption
  · exact hy

theorem amoFloat_rules {x y : Nat} (hx : x < 2 ^ 32) (hy : y < 2 ^ 32) :
    (∃ f, SumRule .fp32 .rne (fdecode .fp32 x) (fdecode .fp32 y) (amoFloat 0 x y, f)) ∧
      (∃ f, MinMaxRule .fp32 false x y (amoFloat 1 x y, f)) ∧ ∃ f, MinMaxRule .fp32 true x y (amoFloat 2 x y, f) := by
  obtain ⟨sum, -, -, -, lesser, greater, -⟩ := FloatArithmetic.floatValues (f := .fp32) rfl .rne x y hx hy
  exact ⟨⟨_, sum⟩, ⟨_, lesser⟩, _, greater⟩

/-- Settles O34: the two-source atomics by one access, AMOCAS by the same with its third source, RED by the memory that it names. -/
theorem atomicForms : Obligations.AtomicForms := by
  refine ⟨fun d a b z op s => ?forms, fun _ _ hx hy => amoFloat_rules hx hy, fun n x y _ hx hy =>
    ⟨rfl, rfl, rfl, rfl, (minMax_signed _ x y).1, (minMax_signed _ x y).2, rfl, rfl, rfl, amoOp_lt hx hy⟩⟩
  exact ⟨fun hp aligned _ _ => amo_form.ok hp aligned, fun hp aligned _ _ => amof_form.ok hp aligned,
    fun hp aligned _ _ => exec_amocas_ok hp aligned,
    fun hp aligned => ⟨fun _ _ _ range kind read => exec_red_ok hp (redWork_local aligned range kind read),
      fun _ _ global hit => exec_red_ok hp (redWork_global aligned global hit)⟩,
    amo_form.trap, amof_form.trap, exec_amocas_trap, exec_red_trap⟩

end Sys2Proof.AtomicForms
end

section
/-! What memory does for an access changes of a thread's context no more than its views, its wait and the writes that it still holds, of
which there are only fewer (R181 to R187, R195, R201), and of no L1 TLB and no quad's generation (R210, R215): one lemma per function of
the model, named after it. -/
namespace Sys2Proof.MemoryWork
open Sys2Proof.Machine Sys2Proof.Safety

/-- A context without its views, its wait and the writes that it holds. -/
def still (x : Thread) : Thread := { x with snap := {}, own := [], code := {}, wait := .none, stores := [], reds := [] }

/-- Memory's work between two states. -/
structure Works (s u : State) : Prop where
  cur : u.cur = s.cur
  rest : ∀ t, still (getThread u t) = still (getThread s t)
  stores : ∀ t, (getThread u t).stores.Sublist (getThread s t).stores
  reds : ∀ t, (getThread u t).reds.Sublist (getThread s t).reds
  tlbs : ∀ c, (getCore u c).dtlb = (getCore s c).dtlb ∧ (getCore u c).itlb = (getCore s c).itlb
  gens : ∀ q, (getQuad u q).gen = (getQuad s q).gen

variable {o s t : State}

/-! ### States -/

theorem Works.refl (s : State) : Works s s := 
  ⟨rfl, fun _ => rfl, fun _ => .refl _, fun _ => .refl _, fun _ => ⟨rfl, rfl⟩, fun _ => rfl⟩

theorem Works.trans {u : State} (h : Works s t) (k : Works t u) : Works s u where
  cur := k.cur.trans h.cur
  rest v := (k.rest v).trans (h.rest v)
  stores v := (k.stores v).trans (h.stores v)
  reds v := (k.reds v).trans (h.reds v)
  tlbs c := ⟨(k.tlbs c).1.trans (h.tlbs c).1, (k.tlbs c).2.trans (h.tlbs c).2⟩
  gens q := (k.gens q).trans (h.gens q)

/-- Work on other parts of the state than the cores, which advances no quad. -/
theorem Works.besideCores (h : Works o s) (e : t.cores = s.cores) (c : t.cur = s.cur) (g : ∀ q, (getQuad t q).gen = (getQuad s q).gen) :
    Works o t := by
  have core (k : Nat) : getCore t k = getCore s k := by rw [getCore, getCore, e]
  have same (v : ThreadRef) : getThread t v = getThread s v := by rw [getThread, getThread, core]
  exact h.trans ⟨c, fun v => by rw [same], fun v => by rw [same], fun v => by rw [same], fun k => by rw [core]; exact ⟨rfl, rfl⟩, g⟩

/-- Work on other parts of the state than the cores and the quads. -/
theorem Works.elsewhere (h : Works o s) (e : (t.cores, t.cur, t.quads) = (s.cores, s.cur, s.quads)) : Works o t := by
  obtain ⟨cores, rest⟩ := Prod.ext_iff.1 e
  obtain ⟨cur, quads⟩ := Prod.ext_iff.1 rest
  exact h.besideCores cores cur fun k => congrArg (fun l => (amGet l k {}).gen) quads

theorem Works.poisoned {k} (h : Works o s) : Works o { s with gmem := memPoison s.gmem k } := h.elsewhere rfl

theorem Works.of_eq {α : Type} {r : State × α} {a : α} (h : Works o r.1) (e : r = (t, a)) : Works o t := by
  subst e
  exact h

section
variable {c : Prop} {_ : Decidable c}

theorem Works.ite (hs : Works o s) (ht : Works o t) : Works o (if c then s else t) := by
  split
  · exact hs
  · exact ht

theorem Works.iteFst {α : Type} {r p : State × α} (hr : Works o r.1) (hp : Works o p.1) : Works o (if c then r else p).1 := by
  split
  · exact hr
  · exact hp

end

theorem Works.foldl {β : Type} {f : State → β → State} {l : List β} (h : Works o s) (hf : ∀ s x, Works o s → Works o (f s x)) :
    Works o (l.foldl f s) :=
  List.foldlRecOn l f h fun s hs x _ => hf s x hs

/-- A context that is still the same, and holds no other writes than before, is put back. -/
theorem Works.setThread {v x} (h : Works o s) (rest : still x = still (getThread s v)) (stores : x.stores.Sublist (getThread s v).stores)
    (reds : x.reds.Sublist (getThread s v).reds) : Works o (setThread s v x) := by
  refine h.trans ⟨rfl, fun w => ?_, fun w => ?_, fun w => ?_, fun c => ?_, fun _ => rfl⟩
  case refine_4 =>
    by_cases e : c = v.core
    · rw [e, getCore_setThread_same]
      exact ⟨rfl, rfl⟩
    · rw [getCore_setThread_other s x e]
      exact ⟨rfl, rfl⟩
  all_goals
    by_cases e : w = v
    · subst e
      rw [getThread_setThread_same]
      assumption
    · rw [getThread_setThread_other s x e]

/-- Some of a thread's writes are no longer held. -/
theorem Works.fewerStores {v l} (h : Works o s) (fewer : l.Sublist (getThread s v).stores) :
    Works o (Machine.setThread s v { getThread s v with stores := l }) :=
  h.setThread rfl fewer (.refl _)

theorem Works.fewerReds {v l} (h : Works o s) (fewer : l.Sublist (getThread s v).reds) :
    Works o (Machine.setThread s v { getThread s v with reds := l }) :=
  h.setThread rfl (.refl _) fewer

theorem amFind_mapKey {α : Type} (l : AMap α) (f : Nat → α → α) (k : Nat) :
    amFind (l.map fun p => (p.1, f p.1 p.2)) k = (amFind l k).map (f k) := by
  induction l with
  | nil => rfl
  | cons p l ih =>
    rw [List.map_cons, amFind, amFind]
    split
    case isTrue e =>
      subst e
      rfl
    · exact ih

theorem amFind_map {α : Type} (l : AMap α) (f : α → α) (k : Nat) : amFind (l.map fun p => (p.1, f p.2)) k = (amFind l k).map f :=
  amFind_mapKey l (fun _ => f) k

theorem amGet_map {α : Type} (l : AMap α) (f : α → α) (k : Nat) (d : α) :
    amGet (l.map fun p => (p.1, f p.2)) k d = f (amGet l k d) ∨ amGet (l.map fun p => (p.1, f p.2)) k d = amGet l k d := by
  rw [amGet, amGet, amFind_map]
  cases amFind l k with
  | none => exact .inr rfl
  | some x => exact .inl rfl

/-- A core whose threads' views move with a line. -/
def movedCore (src dst : Nat) (c : Core) : Core := { c with slots := c.slots.map fun x => (x.1, moveView src dst x.2) }

theorem getThread_moveViews (s : State) (src dst : Nat) (v : ThreadRef) :
    getThread (moveViews s src dst) v = moveView src dst (getThread s v) ∨ getThread (moveViews s src dst) v = getThread s v := by
  have cores : getCore (moveViews s src dst) v.core = amGet (s.cores.map fun c => (c.1, movedCore src dst c.2)) v.core {} := rfl
  rw [getThread, getThread, cores]
  obtain core | core := amGet_map s.cores (movedCore src dst) v.core {} <;> rw [core]
  · exact amGet_map (getCore s v.core).slots (moveView src dst) v.slot {}
  · exact .inr rfl

theorem Works.moveViews {src dst} (h : Works o s) : Works o (moveViews s src dst) := by
  refine h.trans ⟨rfl, fun v => ?_, fun v => ?_, fun v => ?_, fun c => ?_, fun _ => rfl⟩
  case refine_4 =>
    have core : getCore (Machine.moveViews s src dst) c = amGet (s.cores.map fun c => (c.1, movedCore src dst c.2)) c {} := rfl
    rw [core]
    obtain moved | same := amGet_map s.cores (movedCore src dst) c {}
    · rw [moved]
      exact ⟨rfl, rfl⟩
    · rw [same]
      exact ⟨rfl, rfl⟩
  all_goals obtain moved | same := getThread_moveViews s src dst v
  · rw [moved]
    rfl
  · rw [same]
  · rw [moved]
    exact .refl _
  · rw [same]
  · rw [moved]
    exact .refl _
  · rw [same]

/-! ### Registers -/

theorem Works.raiseVector {s p func vector} (h : Works o s) : Works o (raiseVector s p func vector) :=
  h.elsewhere rfl

theorem Works.postEngineError {s p cause addr pos inst func} (h : Works o s) :
    Works o (postEngineError s p cause addr pos inst func) :=
  h.elsewhere rfl

theorem Works.modPart {s p f} (h : Works o s) : Works o (modPart s p f) :=
  h.elsewhere rfl

theorem Works.setQueue {s p q x} (h : Works o s) : Works o (setQueue s p q x) :=
  h.elsewhere rfl

theorem Works.modQueue {s p q f} (h : Works o s) : Works o (modQueue s p q f) :=
  h.elsewhere rfl

theorem Works.setQueueOvf {s p q} (h : Works o s) : Works o (setQueueOvf s p q) :=
  h.elsewhere rfl

theorem Works.noteQuiet {s pq} (h : Works o s) : Works o (noteQuiet s pq) := .ite (h.elsewhere rfl) h

theorem Works.tailWrite {s p q v} (h : Works o s) : Works o (tailWrite s p q v) :=
  .ite (Works.ite h h.noteQuiet |>.setQueueOvf) (Works.ite h h.noteQuiet |>.setQueue)

theorem Works.qctlWrite {s p q v} (h : Works o s) : Works o (qctlWrite s p q v) :=
  .ite h (.ite h.modQueue h.modQueue)

theorem Works.qbaseWrite {s p q v} (h : Works o s) : Works o (qbaseWrite s p q v) := .ite h h.modQueue

theorem Works.qstatWrite {s p q v} (h : Works o s) : Works o (qstatWrite s p q v) :=
  h.elsewhere rfl

theorem Works.queueWrite {s p q off v} (h : Works o s) : Works o (queueWrite s p q off v) := by
  unfold Machine.queueWrite
  split
  · exact h.qbaseWrite
  · exact h.qctlWrite
  · exact h.tailWrite
  · exact h.qstatWrite
  · exact h

theorem Works.offreqWrite {s p v} (h : Works o s) : Works o (offreqWrite s p v) :=
  .ite h (.ite h.modPart h.modPart)

theorem Works.setQueueEn {s pq on} (h : Works o s) : Works o (setQueueEn s pq on) :=
  h.elsewhere rfl

theorem Works.mergeWrite {s p v} (h : Works o s) : Works o (mergeWrite s p v) :=
  .ite h (.ite h.modPart (.ite h.modPart (h.foldl (fun _ _ h' => h'.setQueueEn) |>.modPart)))

theorem Works.setRegion {s k r} (h : Works o s) : Works o (setRegion s k r) :=
  h.elsewhere rfl

theorem Works.modRegion {s k f} (h : Works o s) : Works o (modRegion s k f) := by
  unfold Machine.modRegion
  split
  · exact h.setRegion
  · exact h

theorem Works.requestPreempt {s rk area} (h : Works o s) : Works o (requestPreempt s rk area).1 := by
  unfold Machine.requestPreempt
  split
  · exact h
  · exact .iteFst h (.iteFst h h.setRegion)

theorem Works.commandPreempt {tiers s rk} (h : Works o s) : Works o (commandPreempt tiers s rk) := by
  unfold Machine.commandPreempt
  split
  · exact h
  · split
    · exact h.requestPreempt.of_eq ‹_› |>.modRegion
    · exact h.requestPreempt.of_eq ‹_›

theorem Works.haltLaunches {before s p} (h : Works o s) : Works o (haltLaunches before s p) :=
  .ite (h.foldl (fun _ _ h' => h'.commandPreempt)) h

theorem Works.dbgctlWrite {s p v} (h : Works o s) : Works o (dbgctlWrite s p v) := h.modPart.haltLaunches

theorem Works.ctlWrite {s p off v} (h : Works o s) : Works o (ctlWrite s p off v) :=
  .ite h.modPart (.ite (.ite h h.modPart) (.ite h.modPart (.ite (.ite h h.modPart) (.ite h.modPart
    (.ite h.dbgctlWrite (.ite h.mergeWrite (.ite h.offreqWrite (.ite h.queueWrite h))))))))

theorem Works.controlWrite {s p off l skip} (h : Works o s) : Works o (controlWrite s p off l skip) :=
  .ite (h.foldl (fun _ _ h' => h'.ctlWrite)) h

/-! ### Controllers and lines -/

theorem Works.setSectorRecord {s sector l r} (h : Works o s) : Works o (setSectorRecord s sector l r) :=
  h.elsewhere rfl

theorem Works.bumpSector {s p st c n} (h : Works o s) : Works o (bumpSector s p st c n) :=
  h.elsewhere rfl

theorem Works.mendLines {s first n} (h : Works o s) : Works o (mendLines s first n) :=
  h.elsewhere rfl

theorem Works.carryErrors {s q tag} (h : Works o s) : Works o (carryErrors s q tag) :=
  h.foldl fun _ _ h => .ite (h.elsewhere rfl) h

theorem Works.sectorAccess {s p pa write} (h : Works o s) : Works o (sectorAccess s p pa write) := by
  unfold Machine.sectorAccess
  split
  · exact h
  dsimp only
  split
  · exact h
  split
  · split
    · exact (Works.ite (Works.ite h.mendLines.poisoned h).setSectorRecord (.ite h.mendLines.poisoned h)).bumpSector
    · exact h.mendLines.setSectorRecord.bumpSector
  · have k := h.carryErrors (q := sectorPos s p pa) (tag := fieldOf (sectorRecord s (sectorPos s p pa).sector
      (sectorPos s p pa).lineNo) 7 0)
    refine .ite ?_ (.bumpSector ?_) <;> exact (k.mendLines.foldl fun _ _ h => h.setSectorRecord).setSectorRecord.bumpSector

theorem Works.serveWrites {s sel} (h : Works o s) : Works o (serveWrites s sel) := by
  unfold Machine.serveWrites
  split
  · exact h
  · refine Works.foldl ?_ fun _ _ h' => h'.sectorAccess
    exact h.elsewhere rfl

theorem Works.tierAccess {s p pa write} (h : Works o s) : Works o (tierAccess s p pa write) := by
  unfold Machine.tierAccess
  split
  · exact .ite h (.ite (h.serveWrites.elsewhere rfl) h.serveWrites.sectorAccess)
  · exact h

theorem Works.modSlice {s k f} (h : Works o s) : Works o (modSlice s k f) :=
  h.elsewhere rfl

theorem Works.gravityCount {s w pa} (h : Works o s) : Works o (gravityCount s w pa) := .ite h.modSlice h

/-- A quad from which a line is recalled, unless the writer stands in it. -/
def recalledQuad (s : State) (w : Who) (line key : Nat) (q : Quad) : Quad := if some key = w.quad then q else recallLines s.cycle line 1 q

theorem recalledQuad_gen (s : State) (w : Who) (line key : Nat) (q : Quad) : (recalledQuad s w line key q).gen = q.gen := by
  unfold recalledQuad
  split <;> rfl

theorem recallOwner_quads (s : State) (w : Who) (line : Nat) :
    (s.quads.map fun q => if some q.1 = w.quad then q else (q.1, recallLines s.cycle line 1 q.2)) =
      s.quads.map fun q => (q.1, recalledQuad s w line q.1 q.2) := by
  refine List.map_congr_left fun q _ => ?_
  rw [recalledQuad]
  split <;> rfl

theorem Works.recallOwner {s w line} (h : Works o s) : Works o (recallOwner s w line) := by
  refine .ite (h.besideCores rfl rfl fun q => ?_) h
  rw [getQuad, getQuad, recallOwner_quads, amGet, amGet, amFind_mapKey]
  cases amFind s.quads q with
  | none => rfl
  | some x => exact recalledQuad_gen s w line q x

theorem Works.wakeThread {st s t} (h : Works o s) : Works o (wakeThread st s t) :=
  h.setThread rfl (.refl _) (.refl _)

theorem Works.wakeMonitors {s p watched at_} (h : Works o s) : Works o (wakeMonitors s p watched at_) := by
  unfold Machine.wakeMonitors
  dsimp only
  split
  · exact h
  · exact h.modSlice.foldl (fun _ _ h' => h'.foldl (fun _ _ h2 => h2.wakeThread))

theorem Works.postSliceError {s w pa} (h : Works o s) : Works o (postSliceError s w pa) :=
  h.elsewhere rfl

theorem Works.linePut {s w watched pa l} (h : Works o s) : Works o (linePut s w watched pa l) := by
  have accessed : Works o (Machine.tierAccess (Machine.recallOwner s w (pa / 64)) w.part pa true) := h.recallOwner.tierAccess
  refine Works.wakeMonitors (.ite ?_ ?_) <;> exact accessed.elsewhere rfl

theorem Works.lineWriteAs {s w watched pa l} (h : Works o s) : Works o (lineWriteAs s w watched pa l) := by
  unfold Machine.lineWriteAs
  split
  · exact h.controlWrite
  · exact .ite h.postSliceError (.ite h h.linePut)

theorem Works.lineWrite {s w pa l} (h : Works o s) : Works o (lineWrite s w pa l) := h.lineWriteAs

theorem Works.lineRead {s w pa n} (h : Works o s) : Works o (lineRead s w pa n).1 := by
  unfold Machine.lineRead
  split
  · exact h
  · exact .iteFst h h.recallOwner.tierAccess.gravityCount

/-! ### Pages in motion -/

theorem Works.returnViews {x s} (h : Works o s) : Works o (returnViews x s) := h.foldl (fun _ _ h' => h'.moveViews)

theorem Works.setTSlot {s e n x} (h : Works o s) : Works o (setTSlot s e n x) :=
  h.elsewhere rfl

theorem Works.abortSlot {s e n cause} (h : Works o s) : Works o (abortSlot s e n cause) := h.returnViews.setTSlot

theorem Works.noticeError {s p pa moving} (h : Works o s) : Works o (noticeError s p pa moving) :=
  .ite (by
    split
    · exact .ite h.abortSlot h
    · exact h) h

theorem Works.cohRead {s w pa n moving} (h : Works o s) : Works o (cohRead s w pa n moving).1 := h.noticeError.lineRead

theorem Works.cohWrite {s w pa moving l} (h : Works o s) : Works o (cohWrite s w pa moving l) := by
  unfold Machine.cohWrite
  dsimp only
  split
  · exact h.noticeError.lineWrite
  · exact h.noticeError.lineWriteAs.setTSlot

/-! ### A thread's writes -/

theorem Works.performPiece {s w pa moving skip first l} (h : Works o s) : Works o (performPiece s w pa moving skip first l) :=
  .ite h.noticeError.cohWrite (.ite h.noticeError (.ite (h.noticeError.cohWrite.elsewhere rfl) h.noticeError.cohWrite))

theorem Works.performStore {s w p} (h : Works o s) : Works o (performStore s w p) :=
  h.foldl (fun _ _ h' => h'.performPiece)

theorem Works.performRed {s w r} (h : Works o s) : Works o (performRed s w r) := by
  unfold Machine.performRed
  split
  · exact h.cohRead.of_eq ‹_› |>.postEngineError
  · exact h.cohRead.of_eq ‹_› |>.cohWrite

theorem Works.performHeld {s t x} (h : Works o s) : Works o (performHeld s t x) := by
  unfold Machine.performHeld
  split
  · exact (h.fewerStores List.filter_sublist).performStore
  · exact (h.fewerReds List.filter_sublist).performRed

theorem Works.forwardUpTo {s die line place} (h : Works o s) : Works o (forwardUpTo s die line place) := by
  unfold Machine.forwardUpTo
  split
  · exact h
  · exact h.foldl (fun _ _ h' => h'.performHeld)

theorem Works.forwardGate {s die line} (h : Works o s) : Works o (forwardGate s die line) := h.forwardUpTo

theorem Works.forwardRange {s die pa n place} (h : Works o s) : Works o (forwardRange s die pa n place) :=
  h.foldl (fun _ _ h' => h'.forwardUpTo)

theorem Works.performInOrder {s t p} (h : Works o s) : Works o (performInOrder s t p) := h.forwardRange.performStore

theorem Works.performRedInOrder {s t r} (h : Works o s) : Works o (performRedInOrder s t r) := h.forwardUpTo.performRed

theorem Works.performStores {s t sel} (h : Works o s) : Works o (performStores s t sel) := by
  unfold Machine.performStores
  dsimp only
  split
  · exact h
  · exact (h.fewerStores List.filter_sublist).foldl (fun _ _ h' => h'.performInOrder)

theorem Works.performReds {s t sel} (h : Works o s) : Works o (performReds s t sel) := by
  unfold Machine.performReds
  dsimp only
  split
  · exact h
  · exact (h.fewerReds List.filter_sublist).foldl (fun _ _ h' => h'.performRedInOrder)

theorem Works.performAll {s t} (h : Works o s) : Works o (performAll s t) := h.performStores.performReds

theorem Works.performFirst {s t p} (h : Works o s) : Works o (performFirst s t p) :=
  (h.fewerStores List.erase_sublist).performInOrder

theorem Works.performLine {s t pa} (h : Works o s) : Works o (performLine s t pa) :=
  h.performStores.performReds.forwardGate

end Sys2Proof.MemoryWork
end

section
/-! FENCE, GET, PUT, PREF and WAITA (R181, R185, R190, R199 to R202). -/
namespace Sys2Proof.FenceForms
open Sys2Proof.Machine Sys2Proof.Safety Sys2Proof.Choices Sys2Proof.Frames Sys2Proof.MemoryWork Sys2Proof.CoherentAccess
open Sys2Proof.IntegerForms Sys2Proof.ScalarAccess Sys2Proof.PrivilegeTraps Sys2Proof.OneOperand Sys2Proof.StreamForms

/-! ### Publications (R190) -/

section
variable {s t : State} {v : ThreadRef} {p : PendingStore} {n scope : Nat} {l : List PendingStore}

theorem Works.noStores (h : Works s t) (none : (getThread s v).stores = []) : (getThread t v).stores = [] :=
  List.sublist_nil.1 (none ▸ h.stores v)

theorem Works.noReds (h : Works s t) (none : (getThread s v).reds = []) : (getThread t v).reds = [] :=
  List.sublist_nil.1 (none ▸ h.reds v)

theorem stores_performStores (s : State) (v : ThreadRef) : (getThread (performStores s v fun _ => true) v).stores = [] := by
  unfold performStores
  dsimp only
  split
  · assumption
  · refine Works.noStores (.foldl (.refl _) fun _ _ h => h.performInOrder) ?_
    rw [getThread_setThread_same]
    simp

theorem reds_performReds (s : State) (v : ThreadRef) : (getThread (performReds s v fun _ => true) v).reds = [] := by
  unfold performReds
  dsimp only
  split
  · assumption
  · refine Works.noReds (.foldl (.refl _) fun _ _ h => h.performRedInOrder) ?_
    rw [getThread_setThread_same]
    simp

theorem performAll_none (s : State) (v : ThreadRef) :
    (getThread (performAll s v) v).stores = [] ∧ (getThread (performAll s v) v).reds = [] :=
  ⟨Works.noStores (Works.refl _).performReds (stores_performStores s v), reds_performReds _ v⟩

/-- The stores of a list that have not reached their gateway. -/
def unreached (l : List PendingStore) : List PendingStore := l.filter fun p => p.reached.isNone

theorem unreached_erase (p : PendingStore) (l : List PendingStore) : unreached (l.erase p) = (unreached l).erase p := by
  induction l with
  | nil => rfl
  | cons q l ih =>
    unfold unreached at ih ⊢
    grind

theorem unreached_markFirst (p : PendingStore) (n : Nat) (l : List PendingStore) : unreached (markFirst p n l) = (unreached l).erase p := by
  induction l with
  | nil => rfl
  | cons q l ih =>
    unfold unreached at ih ⊢
    unfold markFirst
    grind

theorem getThread_marked (s : State) (v : ThreadRef) (f : Thread → Thread) (n : Nat) :
    getThread { modThread s v f with gateSeq := n } v = f (getThread s v) :=
  getThread_setThread_same s v _

/-- One more store has reached its gateway or its home. -/
theorem unreached_reachDie (s : State) (v : ThreadRef) (p : PendingStore) :
    (unreached (getThread (reachDie v s p) v).stores).Subperm ((unreached (getThread s v).stores).erase p) := by
  unfold reachDie
  split
  · have erased : (getThread (modThread s v fun x => { x with stores := x.stores.erase p }) v).stores = (getThread s v).stores.erase p := by
      rw [modThread_eq, getThread_setThread_same]
    rw [← unreached_erase, ← erased]
    exact ((Works.stores (.performInOrder (.refl _)) v).filter _).subperm
  · rw [← unreached_markFirst p s.gateSeq]
    exact (List.Perm.of_eq (congrArg (fun x => unreached x.stores) (getThread_marked s v _ _))).subperm

theorem reachDie_cur (s : State) (v : ThreadRef) (p : PendingStore) : (reachDie v s p).cur = s.cur := by
  unfold reachDie
  split
  · exact (Works.performFirst (.refl s)).cur
  · rfl

theorem noReds_reachDie (none : (getThread s v).reds = []) : (getThread (reachDie v s p) v).reds = [] := by
  unfold reachDie
  split
  · exact Works.noReds (.performFirst (.refl s)) none
  · exact (congrArg Thread.reds (getThread_marked s v _ _)).trans none

/-- Every store of a list of those that have not reached their gateway reaches it. -/
theorem reachDie_all (l : List PendingStore) (s : State) (none : (getThread s v).reds = [])
    (rest : (unreached (getThread s v).stores).Subperm l) :
    let u := l.foldl (reachDie v) s
    u.cur = s.cur ∧ (getThread u v).reds = [] ∧ unreached (getThread u v).stores = [] := by
  induction l generalizing s with
  | nil => exact ⟨rfl, none, List.subperm_nil.1 rest⟩
  | cons p l ih =>
    have fewer : (unreached (getThread (reachDie v s p) v).stores).Subperm l := by
      have gone := rest.erase p
      rw [List.erase_cons_head] at gone
      exact (unreached_reachDie s v p).trans gone
    obtain ⟨cur, reds, stores⟩ := ih (reachDie v s p) (noReds_reachDie none) fewer
    exact ⟨cur.trans (reachDie_cur s v p), reds, stores⟩

theorem reachAll_done (s : State) (v : ThreadRef) :
    (reachAll s v).cur = s.cur ∧ (getThread (reachAll s v) v).reds = [] ∧ ∀ p ∈ (getThread (reachAll s v) v).stores, p.reached ≠ none := by
  obtain ⟨cur, reds, stores⟩ :=
    reachDie_all (unreached (getThread (performReds s v fun _ => true) v).stores) _ (reds_performReds s v) (.refl _)
  refine ⟨cur.trans (Works.performReds (.refl s)).cur, reds, fun p hp open_ => ?_⟩
  have left : p ∈ unreached (getThread (reachAll s v) v).stores := List.mem_filter.2 ⟨hp, by rw [open_]; rfl⟩
  rw [show unreached (getThread (reachAll s v) v).stores = [] from stores] at left
  exact List.not_mem_nil left

/-- After a publication the thread's writes stand at its die's slices, or at their homes (R190). -/
theorem publish_done (s : State) (v : ThreadRef) (scope : Nat) :
    (publish s v scope).cur = s.cur ∧ (getThread (publish s v scope) v).reds = [] ∧
      if withinDie s v scope then ∀ p ∈ (getThread (publish s v scope) v).stores, p.reached ≠ none
      else (getThread (publish s v scope) v).stores = [] := by
  obtain ⟨stores, reds⟩ := performAll_none s v
  have all := Works.performAll (t := v) (.refl s)
  unfold publish
  split
  · exact reachAll_done s v
  · split
    · have served : Works (performAll s v) (serveWrites (performAll s v) fun _ => true) := .serveWrites (.refl _)
      exact ⟨served.cur.trans all.cur, Works.noReds served reds, Works.noStores served stores⟩
    · exact ⟨all.cur, reds, stores⟩

end

/-! ### FENCE -/

theorem exec_fence {s : State} {sc : BitVec 4} (mode : sc = 7 → InSys s)
    (idle : fenceWaits (publish s s.cur sc.toNat) (publish s s.cur sc.toNat).cur sc.toNat = false) :
    exec (.fence sc) s = .next (retired 4 s (publish s s.cur sc.toNat)) := by
  have rest : (modS (fun s => publish s s.cur sc.toNat) >>= fun _ => getS >>= fun s =>
      if fenceWaits s s.cur sc.toNat then waitKeepM .condition fun s => publish s s.cur sc.toNat else pure () : M Unit) s =
        .ok ((), publish s s.cur sc.toNat) := by
    rw [m_bind_ok (modS_run _ s), m_bind_ok (getS_run _)]
    exact run_neg (ne_true_of_eq_false idle) rfl
  refine run4_ok ?_
  by_cases package : sc = 7
  · exact run_pos package ((m_bind_ok (requireSys_ok (mode package))).trans rest)
  · exact run_neg package rest

/-! ### GET and PUT -/

section
variable {s t u : State} {l g : Word} {n : Nat} {js : List Nat}

theorem getLine_ok (h : GotLine s l g t) : getLine l g s = .ok ((), t) := by
  obtain ⟨global, answered, u, e, b, r, hit, reads, store⟩ := h
  rw [getLine, m_bind_ok (resolveM_global global)]
  exact withLine_reads hit answered reads (storePiece_ok store)

theorem putLine_ok (h : PutLine s l g t) : putLine l g s = .ok ((), t) := by
  obtain ⟨global, b, u, w, e, load, answered, hit, rfl⟩ := h
  refine loadPiece_ok load ?_
  rw [m_bind_ok (resolveM_global global)]
  exact withLine_ok hit answered rfl

theorem stepsOk_of_linesMoved {one : State → Word → Word → State → Prop} {work : Word → Word → M Unit}
    (does : ∀ {s l g t}, one s l g t → work l g s = .ok ((), t)) (moved : LinesMoved one l g js s t) :
    StepsOk (js.map fun j => work (l + BitVec.ofNat 64 (64 * j)) (g + BitVec.ofNat 64 (64 * j))) s t := by
  induction js generalizing s with
  | nil => exact moved
  | cons j js ih =>
    obtain ⟨u, first, rest⟩ := moved
    exact ⟨u, does first, ih rest⟩

/-- Operands that GET and PUT take: lines of a local object of kind 0 to 2 and of global memory (R199). -/
def GoodLines (u : State) (l g : Word) (n : Nat) : Prop :=
  l.toNat % 64 = 0 ∧ g.toNat % 64 = 0 ∧ localKind l ≤ 2 ∧ isGlobal g = true ∧ ∃ o off, LocalRange u l (64 * n) o off

theorem checkLines_ok (good : GoodLines u l g n) : checkLines l g n u = .ok ((), u) := by
  obtain ⟨aligned, alignedG, kind, global, o, off, range⟩ := good
  have reaches : reachesAtomics l = true := by simp [reachesAtomics, range.1, kind]
  refine run_neg (not_not.2 aligned) (run_neg (not_not.2 alignedG) (run_neg (by simp [reaches]) ?_))
  rw [m_bind_ok (resolveM_local range)]
  exact run_pos global rfl

theorem moveLines_ok {one : State → Word → Word → State → Prop} {work : Word → Word → M Unit}
    (does : ∀ {s l g t}, one s l g t → work l g s = .ok ((), t)) (good : GoodLines u l g n)
    (moved : LinesMoved one l g ((List.range n).filter fun j => decide (prog u ≤ j)) u t) :
    moveLines l g n work u = .ok ((), progDone t) := by
  rw [moveLines, m_bind_ok (checkLines_ok good), m_bind_ok (progress_run u)]
  refine restartable_ok ?_
  rw [List.map_map]
  exact stepsOk_of_linesMoved does moved

end

section
variable {s t : State} {a b : Reg} {n : BitVec 4}

theorem prog_afterG (s : State) (r : Reg) : prog (afterG s r) = prog s := by rw [prog, prog, me_afterG]

theorem exec_get (hp : PortsReady s [a, b] [] [] [])
    (good : GoodLines (afterG (afterG s a) b) (valueG s a) (valueG (afterG s a) b) (n.toNat + 1))
    (moved : LinesMoved GotLine (valueG s a) (valueG (afterG s a) b) ((List.range (n.toNat + 1)).filter fun j => decide (prog s ≤ j))
      (afterG (afterG s a) b) t) : exec (.get a b n) s = .next (retired 4 s (progDone t)) := by
  refine run4_ok (withPorts_ok hp ((readG_two hp.sources).trans (moveLines_ok getLine_ok good ?_)))
  rwa [prog_afterG, prog_afterG]

theorem exec_put (hp : PortsReady s [a, b] [] [] [])
    (good : GoodLines (afterG (afterG s a) b) (valueG (afterG s a) b) (valueG s a) (n.toNat + 1))
    (moved : LinesMoved PutLine (valueG (afterG s a) b) (valueG s a) ((List.range (n.toNat + 1)).filter fun j => decide (prog s ≤ j))
      (afterG (afterG s a) b) t) : exec (.put a b n) s = .next (retired 4 s (progDone t)) := by
  refine run4_ok (withPorts_ok hp ((readG_two (k := fun g l => moveLines l g (n.toNat + 1) putLine) hp.sources).trans
    (moveLines_ok putLine_ok good ?_)))
  rwa [prog_afterG, prog_afterG]

end

/-! ### PREF -/

/-- A predictor without the count of a line. -/
def forgetLine (line : Nat) (q : Quad) : Quad :=
  { q with predictor := q.predictor.map fun p => if p.line = line then { p with count := 0 } else p }

/-- The work of PREF once its source is read. -/
def prefWork (h : BitVec 4) (x : Word) : M Unit := do
  let v ← self
  let s ← getS
  if h = 1 && isGlobal x then
    match (cacheLookup s s.cur.core v.func x.toNat false false (!modeSys v)).2 with
    | some e => modS fun s => modQuad s (quadKey s.cur.core) (forgetLine (tlbPa e x.toNat / 64))
    | none => pure ()
  else pure ()

theorem exec_pref_eq (a : Reg) (h : BitVec 4) (s : State) :
    exec (.pref a h) s = run4 (withPorts [a] [] [] [] (readG a >>= prefWork h)) s :=
  rfl

/-- PREF clears the count of the line that a cached translation names, where its hint asks for it, and else changes nothing (R200). -/
theorem prefWork_ok (h : BitVec 4) (x : Word) (u : State) :
    prefWork h x u = .ok ((), u) ∨ ∃ k line, prefWork h x u = .ok ((), modQuad u k (forgetLine line)) := by
  rw [prefWork, m_bind_ok (self_run u), m_bind_ok (getS_run u)]
  by_cases hint : (h = 1 && isGlobal x) = true
  · rw [if_pos hint]
    generalize (cacheLookup u u.cur.core (getThread u u.cur).func x.toNat false false (!modeSys (getThread u u.cur))).2 = o
    cases o with
    | none => exact .inl rfl
    | some e => exact .inr ⟨_, _, rfl⟩
  · exact .inl (run_neg hint rfl)

theorem exec_pref {s : State} {a : Reg} {h : BitVec 4} (hp : PortsReady s [a] [] [] []) :
    ∃ t, exec (.pref a h) s = .next (retired 4 s t) ∧ SameMemory (afterG s a) t ∧ ∀ v, getThread t v = getThread s v := by
  rw [exec_pref_eq]
  obtain same | ⟨k, line, cleared⟩ := prefWork_ok h (valueG s a) (afterG s a)
  · exact ⟨_, run4_ok (withPorts_source hp same), (SameRest.refl _).memory, getThread_afterG s a⟩
  · exact ⟨_, run4_ok (withPorts_source hp cleared), (StoreFrame.sameRest_setQuad (x := forgetLine line (getQuad _ k)) rfl).memory,
      getThread_afterG s a⟩

/-! ### WAITA -/

section
variable {s t u w : State} {d a b : Reg} {tm : BitVec 4} {x y : Word} {l : List Byte} {e : TlbEntry}

/-- The work of WAITA once its sources are read. -/
def waitaWork (d : Reg) (tm : BitVec 4) (x y : Word) : M Unit := do
  let me ← self
  match me.wait with
  | .woken st => writeG d (BitVec.ofNat 64 st)
  | _ => waitaStart d x y tm

theorem exec_waita_eq (s : State) : exec (.waita d a b tm) s =
    run4 (withPorts [a, b] [] [d] [] (readG a >>= fun x => readG b >>= fun y => waitaWork d tm x y)) s := rfl

theorem waitaWork_woken {st : Nat} (woken : (me u).wait = .woken st) : waitaWork d tm x y u = writeG d (BitVec.ofNat 64 st) u := by
  unfold me at woken
  rw [waitaWork, m_bind_ok (self_run u), woken]

theorem waitaWork_starts (fresh : ∀ st, (me u).wait ≠ .woken st) : waitaWork d tm x y u = waitaStart d x y tm u := by
  rw [waitaWork, m_bind_ok (self_run u)]
  unfold me at fresh
  generalize (getThread u u.cur).wait = v at fresh ⊢
  cases v with
  | woken st => exact absurd rfl (fresh st)
  | _ => rfl

theorem exec_waita_ok (hp : PortsReady s [a, b] [] [d] [])
    (h : waitaWork d tm (valueG s a) (valueG (afterG s a) b) (afterG (afterG s a) b) = .ok ((), t)) :
    exec (.waita d a b tm) s = .next (retired 4 s t) := by
  rw [exec_waita_eq]
  exact run4_ok (withPorts_ok hp ((readG_two hp.sources).trans h))

theorem exec_waita_trap {c : Nat} {v : Word} (hp : PortsReady s [a, b] [] [d] [])
    (h : waitaWork d tm (valueG s a) (valueG (afterG s a) b) (afterG (afterG s a) b) = .error (.trap c v id)) :
    exec (.waita d a b tm) s = .next (takeTrap (holdDirs (namedDirs [a, b, d] []) s) s.cur c v) := by
  rw [exec_waita_eq]
  exact run4_trap (withPorts_trap hp ((readG_two hp.sources).trans h))

theorem exec_waita_waits {v : Wait} {k : State → State} (hp : PortsReady s [a, b] [] [d] [])
    (h : waitaWork d tm (valueG s a) (valueG (afterG s a) b) (afterG (afterG s a) b) = .error (.wait v k)) :
    exec (.waita d a b tm) s = .next (blockThread (holdDirs (namedDirs [a, b, d] []) (k s)) s.cur v) := by
  rw [exec_waita_eq]
  exact run4_wait (withPorts_blocks hp ((readG_two hp.sources).trans h))

/-- What WAITA does with the doubleword that it has read. -/
def waitaRest (d : Reg) (tm : BitVec 4) (x y : Word) (e : TlbEntry) (pa : Nat) (l : List Byte) : M Unit :=
  if wordOf l ≠ y then writeG d 0
  else do
    let s ← getS
    match takeMonitor s (getThread s s.cur).part x.toNat pa y s.cur with
    | none => writeG d 2
    | some _ => waitKeepM (.monitor pa y (if tm = 0 then none else some (s.cycle + 2 ^ (tm.toNat + 5)))) (blockOnMonitor e x.toNat pa y)

theorem waitaStart_misaligned (odd : x.toNat % 8 ≠ 0) : waitaStart d x y tm u = .error (.trap causeAlignment x id) := run_pos odd rfl

theorem waitaStart_nowhere (aligned : x.toNat % 8 = 0) (outside : isGlobal x = false) :
    waitaStart d x y tm u = .error (.trap causeAddress x id) :=
  run_neg (not_not.2 aligned) (run_pos (by simp [outside]) rfl)

theorem waitaStart_global (aligned : x.toNat % 8 = 0) (global : isGlobal x = true) : waitaStart d x y tm u =
    withLine x.toNat false (fun e pa => cohReadM e pa 8 x >>= waitaRest d tm x y e pa) u :=
  run_neg (not_not.2 aligned) (run_neg (by simp [global]) rfl)

theorem waitaRest_differs {pa : Nat} (differs : wordOf l ≠ y) (room : CanGive t d) :
    waitaRest d tm x y e pa l t = .ok ((), giveG t d 0) :=
  run_pos differs ((roomReady_of_canGive room).giveG 0)

theorem waitaRest_full {pa : Nat} (same : wordOf l = y) (full : takeMonitor t (me t).part x.toNat pa y t.cur = none) (room : CanGive t d) :
    waitaRest d tm x y e pa l t = .ok ((), giveG t d 2) := by
  unfold me at full
  refine run_neg (not_not.2 same) ?_
  rw [m_bind_ok (getS_run t), full]
  exact (roomReady_of_canGive room).giveG 2

theorem waitaRest_waits {pa : Nat} (same : wordOf l = y) (free : (takeMonitor t (me t).part x.toNat pa y t.cur).isSome = true) :
    waitaRest d tm x y e pa l t = .error (.wait (.monitor pa y (if tm = 0 then none else some (t.cycle + 2 ^ (tm.toNat + 5))))
      (blockOnMonitor e x.toNat pa y)) := by
  obtain ⟨z, taken⟩ := Option.isSome_iff_exists.1 free
  unfold me at taken
  refine run_neg (not_not.2 same) ?_
  rw [m_bind_ok (getS_run t), taken]
  rfl

/-- A wait after the read of a line leaves what it says to the state in which the address is translated again. -/
theorem withLine_waits {α : Type} {va n : Nat} {write : Bool} {val : Word} {k : TlbEntry → Nat → List Byte → M α} {v : Wait}
    {keep : State → State} (hit : Hit u w va write e) (answered : Answered u) (reads : CohReads w e (tlbPa e va) n l t)
    (hk : k e (tlbPa e va) l t = .error (.wait v keep)) :
    withLine va write (fun e pa => cohReadM e pa n val >>= k e pa) u =
      .error (.wait v fun s => keep (threadXlates s.cur write true [va] s).1) := by
  have cached : threadXlate u u.cur va write false true = (w, .ok e) := by
    unfold Hit me at hit
    simp [threadXlate, hit]
  have translated : threadXlates u.cur write true [va] u = (w, .ok [e]) := by simp [threadXlates, cached]
  have work : (variableLatency >>= fun _ => modS (fun s => performLine s s.cur (tlbPa e va)) >>= fun _ =>
      cohReadM e (tlbPa e va) n val >>= k e (tlbPa e va)) w = .error (.wait v keep) := by
    rw [m_bind_ok (variableLatency_ok (hit_answered hit answered)), m_bind_ok (modS_run _ w), m_bind_ok (cohReadM_ok reads), hk]
  rw [withLine, withXlates, translated]
  dsimp only [List.headD_cons]
  rw [work]

/-! ### The state in which WAITA blocks -/

/-- The translation of a cache that permits an access. -/
def permitted (func va : Nat) (write fetch needA : Bool) (l : List TlbEntry) : Option TlbEntry :=
  (tlbFind func va l).filter (tlbPermits write fetch needA)

/-- Which translation the caches give: that of the nearest one that has it (R210). -/
theorem cacheLookup_snd (s : State) (core func va : Nat) (write fetch needA : Bool) :
    (cacheLookup s core func va write fetch needA).2 = (permitted func va write fetch needA (l1Of (getCore s core) fetch)).or
      ((permitted func va write fetch needA (getQuad s (quadKey core)).l2).or
        (permitted func va write fetch needA (getLltc s (dieOf core)).entries)) := by
  unfold cacheLookup
  simp only [permitted]
  split
  · next near => rw [near, Option.some_or]
  · next far =>
    rw [far, Option.none_or]
    split
    · next near => rw [near, Option.some_or]
    · next far =>
      rw [far, Option.none_or]
      split <;> next last => rw [last]

/-- The caches answer alike before and after sources are read. -/
theorem hit_of_switchesOnly {va : Nat} {write : Bool} (h : SwitchesOnly s u) (hit : Hit u w va write e) : ∃ q, Hit s q va write e := by
  obtain ⟨x, rfl⟩ := h
  unfold Hit at hit
  have same : (cacheLookup s s.cur.core (me s).func va write false (!modeSys (me s))).2 = some e := by
    have there := congrArg Prod.snd hit
    rw [cacheLookup_snd] at there ⊢
    exact there
  exact ⟨_, Prod.ext rfl same⟩

theorem translated_of_hit {va : Nat} {write coh : Bool} (hit : Hit s w va write e) : (threadXlates s.cur write coh [va] s).1 = w := by
  have cached : threadXlate s s.cur va write false coh = (w, .ok e) := by
    unfold Hit me at hit
    simp [threadXlate, hit]
  simp [threadXlates, cached]

/-- A hit and memory's work after it move nothing but what that work moves of a context. -/
theorem still_of_hit {va : Nat} {write : Bool} (hit : Hit s w va write e) (work : Works w t) :
    t.cur = s.cur ∧ still (getThread t s.cur) = still (me s) :=
  ⟨work.cur.trans (hit_cur hit), by rw [work.rest, hit_thread hit, me]⟩

/-- A waiter stands in an entry of its function, address and value (R202). -/
theorem takeMonitor_some {p va pa : Nat} {v : Word} {c : ThreadRef} {z : State} (taken : takeMonitor s p va pa v c = some z) :
    Works s z ∧ ∃ k, ∃ m ∈ (getSlice z k).monitors, m.va = va ∧ m.func = (getThread s c).func ∧ m.value = v ∧ c ∈ m.waiters := by
  unfold takeMonitor at taken
  dsimp only at taken
  split at taken
  · next joined =>
    obtain rfl := Option.some.inj taken
    obtain ⟨m, there, named⟩ := List.any_eq_true.1 joined
    have names := named
    simp only [Bool.and_eq_true, beq_iff_eq] at names
    obtain ⟨⟨⟨func, address⟩, -⟩, value⟩ := names
    refine ⟨.elsewhere (.refl s) rfl, homeKey s p pa, { m with waiters := m.waiters ++ [c] }, ?_, address, func, value, by simp⟩
    rw [getSlice_modSlice_same]
    exact List.mem_map.2 ⟨m, there, if_pos named⟩
  · split at taken
    · obtain rfl := Option.some.inj taken
      refine ⟨.elsewhere (.refl s) rfl, homeKey s p pa,
        { func := (getThread s c).func, va := va, pa := pa, value := v, waiters := [c] }, ?_, rfl, rfl, rfl, by simp⟩
      rw [getSlice_modSlice_same]
      simp
    · cases taken

theorem works_blockOnMonitor (e : TlbEntry) (va pa : Nat) (v : Word) (s : State) : Works s (blockOnMonitor e va pa v s) := by
  have read : Works s (cohRead (performLine s s.cur pa) (whoThread (performLine s s.cur pa) (performLine s s.cur pa).cur) pa 8 e.t).1 :=
    (Works.refl s).performLine.cohRead
  unfold blockOnMonitor
  dsimp only
  cases taken : takeMonitor _ _ va pa v _ with
  | none => exact read
  | some z => exact read.trans (takeMonitor_some taken).1

/-- A thread that blocks after memory's work keeps its PC and its registers. -/
theorem blocked_keeps {r : State} {dirs : List Nat} {v : Wait} (work : r.cur = s.cur ∧ still (getThread r s.cur) = still (me s)) :
    let z := blockThread (holdDirs dirs r) s.cur v
    (me z).pc = (me s).pc ∧ RegsExcept (me s) (me z) [] [] [] ∧ (me z).wait = v := by
  intro z
  obtain ⟨current, rest⟩ := work
  have cur : z.cur = s.cur := by
    show (holdDirs dirs r).cur = s.cur
    obtain same | ⟨hold, same⟩ := holdDirs_cases dirs r <;> rw [same] <;> exact current
  have mine : me z = { getThread r s.cur with wait := v } := by
    rw [me, cur]
    exact (getThread_setThread_same _ _ _).trans (by rw [getThread_holdDirs])
  rw [mine]
  exact ⟨(congrArg Thread.pc rest :), ⟨fun x _ => (congrArg (gValue · x) rest :), fun x _ => (congrArg (vValue · x) rest :),
    fun x _ => (congrArg (kValue · x) rest :)⟩, rfl⟩

theorem getSlice_blocked (r : State) (dirs : List Nat) (c : ThreadRef) (v : Wait) (k : Nat) :
    getSlice (blockThread (holdDirs dirs r) c v) k = getSlice r k := by
  show getSlice (holdDirs dirs r) k = getSlice r k
  obtain same | ⟨hold, same⟩ := holdDirs_cases dirs r <;> rw [same]
  rfl

theorem works_of_cohReads {pa n : Nat} (reads : CohReads w e pa n l t) : Works w t := by
  have read : Works w (cohRead (performLine w w.cur pa) (whoThread (performLine w w.cur pa) (performLine w w.cur pa).cur) pa n e.t).1 :=
    (Works.refl w).performLine.cohRead
  unfold CohReads at reads
  rwa [reads] at read

theorem blockOnMonitor_of_reads {va pa : Nat} {v : Word} {z : State} (reads : CohReads w e pa 8 l t)
    (taken : takeMonitor t (me t).part va pa v t.cur = some z) : blockOnMonitor e va pa v w = z := by
  unfold CohReads at reads
  unfold me at taken
  unfold blockOnMonitor
  dsimp only at reads ⊢
  rw [reads, taken]
  rfl

/-- WAITA blocks under a monitor of its address and value (R201, R202). -/
theorem exec_waita_blocks (hp : PortsReady s [a, b] [] [d] []) (fresh : ∀ st, (me s).wait ≠ .woken st)
    (aligned : (valueG s a).toNat % 8 = 0) (global : isGlobal (valueG s a) = true) (answered : Answered (afterG (afterG s a) b))
    (hit : Hit (afterG (afterG s a) b) w (valueG s a).toNat false e) (reads : CohReads w e (tlbPa e (valueG s a).toNat) 8 l t)
    (same : wordOf l = valueG (afterG s a) b)
    (free : (takeMonitor t (me t).part (valueG s a).toNat (tlbPa e (valueG s a).toNat) (valueG (afterG s a) b) t.cur).isSome = true) :
    ∃ z, exec (.waita d a b tm) s = .next z ∧ (me z).pc = (me s).pc ∧ RegsExcept (me s) (me z) [] [] [] ∧
      (me z).wait = .monitor (tlbPa e (valueG s a).toNat) (valueG (afterG s a) b)
        (if tm = 0 then none else some (t.cycle + 2 ^ (tm.toNat + 5))) ∧
      (isGPort a = false → isGPort b = false → ∃ k, ∃ m ∈ (getSlice z k).monitors,
        m.va = (valueG s a).toNat ∧ m.func = (me s).func ∧ m.value = valueG (afterG s a) b ∧ s.cur ∈ m.waiters) := by
  have woken : ∀ st, (me (afterG (afterG s a) b)).wait ≠ .woken st := by simpa using fresh
  have waits := (waitaWork_starts (d := d) (tm := tm) woken).trans ((waitaStart_global aligned global).trans
    (withLine_waits hit answered reads (waitaRest_waits same free)))
  obtain ⟨q, before⟩ := hit_of_switchesOnly ((switchesOnly_afterG s a).trans (switchesOnly_afterG _ b)) hit
  have work := still_of_hit before (works_blockOnMonitor e (valueG s a).toNat (tlbPa e (valueG s a).toNat) (valueG (afterG s a) b) _)
  rw [← translated_of_hit before (coh := true)] at work
  obtain ⟨pc, regs, wait⟩ := blocked_keeps (dirs := namedDirs [a, b, d] []) work
  refine ⟨_, exec_waita_waits hp waits, pc, regs, wait, fun plainA plainB => ?_⟩
  have unread : afterG (afterG s a) b = s := by simp [afterG, plainA, plainB]
  rw [unread] at hit
  obtain ⟨z, taken⟩ := Option.isSome_iff_exists.1 free
  obtain ⟨cur, rest⟩ := still_of_hit hit (works_of_cohReads reads)
  obtain ⟨-, k, m, there, address, func, value, waiter⟩ := takeMonitor_some taken
  refine ⟨k, m, ?_, address, func.trans ?_, value, cur ▸ waiter⟩
  · rw [getSlice_blocked, translated_of_hit hit, blockOnMonitor_of_reads reads taken]
    exact there
  · rw [cur]
    exact (congrArg Thread.func rest :)

end

/-- Settles O35: FENCE by what a publication does with each write, GET and PUT by their lines, WAITA by the outcomes of its checks, its read
and its monitor. -/
theorem fenceAndLineForms : Obligations.FenceAndLineForms := by
  refine fun s => ⟨fun sc mode => ?fence, fun a b n hp => ?lines, fun a h => exec_pref, fun d a b tm hp => ?waita⟩
  case fence =>
    obtain ⟨cur, reds, stores⟩ := publish_done s s.cur sc.toNat
    refine ⟨?_, ?_, exec_fence mode⟩ <;> rwa [me, cur]
  case lines =>
    exact fun t => ⟨fun good moved => exec_get hp good moved, fun good moved => exec_put hp good moved⟩
  case waita =>
    have own : me (afterG (afterG s a) b) = me s := by rw [me_afterG, me_afterG]
    refine ⟨fun st woken => exec_waita_ok hp ?woken, fun fresh => ?fresh⟩
    case woken =>
      rw [waitaWork_woken (own ▸ woken)]
      exact ((hp.room.afterG a).afterG b).giveG _
    case fresh =>
      have starts {x y : Word} : waitaWork d tm x y (afterG (afterG s a) b) = waitaStart d x y tm (afterG (afterG s a) b) :=
        waitaWork_starts (own ▸ fresh)
      refine ⟨fun odd => exec_waita_trap hp (starts.trans (waitaStart_misaligned odd)),
        fun aligned outside => exec_waita_trap hp (starts.trans (waitaStart_nowhere aligned outside)),
        fun w e l t aligned global answered hit reads room => ?_⟩
      have done {r : State} (rest : waitaRest d tm (valueG s a) (valueG (afterG s a) b) e (tlbPa e (valueG s a).toNat) l t = .ok ((), r)) :
          exec (.waita d a b tm) s = .next (retired 4 s r) :=
        exec_waita_ok hp (starts.trans ((waitaStart_global aligned global).trans (withLine_reads hit answered reads rest)))
      exact ⟨fun differs => done (waitaRest_differs differs room), fun same full => done (waitaRest_full same full room),
        exec_waita_blocks hp fresh aligned global answered hit reads⟩

end Sys2Proof.FenceForms
end

section
/-! A plain store of one line that is performed (R179, R181, R183): what its home puts into memory, and that nothing else changes. -/
namespace Sys2Proof.StorePerformed
open Sys2Proof.Machine Sys2Proof.Safety Sys2Proof.MemoryWork Sys2Proof.StoreFrame

/-! ### The controllers leave the bytes as they are (R227, R228) -/

section
variable {s t u : State} {p pa : Nat} {w : Who} {l : List Byte}

/-- Memory's bytes are as before. -/
def SameCells (s t : State) : Prop := t.gmem.cells = s.gmem.cells

theorem SameCells.refl (s : State) : SameCells s s := rfl

theorem SameCells.trans (h : SameCells s t) (k : SameCells t u) : SameCells s u := Eq.trans k h

theorem SameCells.poisoned {k : Nat} (h : SameCells s t) : SameCells s { t with gmem := memPoison t.gmem k } :=
  (memPoison_cells t.gmem k).trans h

theorem SameCells.elsewhere (h : SameCells s t) (e : u.gmem = t.gmem) : SameCells s u := by
  rw [SameCells, e]
  exact h

theorem SameCells.foldl {α : Type} {f : State → α → State} (h : SameCells s t) (hf : ∀ u x, SameCells s u → SameCells s (f u x))
    (l : List α) :
    SameCells s (l.foldl f t) :=
  List.foldlRecOn l f h fun u hu x _ => hf u x hu

theorem SameCells.ite {c : Prop} {_ : Decidable c} (h : SameCells s t) (k : SameCells s u) : SameCells s (if c then t else u) := by
  split
  · exact h
  · exact k

theorem SameCells.carryErrors {q : SectorPos} {tag : Nat} (h : SameCells s t) : SameCells s (carryErrors t q tag) :=
  h.foldl (fun _ _ h => .ite h.poisoned h) _

theorem SameCells.setSectorRecord {sector k : Nat} {r : BitVec 12} (h : SameCells s t) : SameCells s (setSectorRecord t sector k r) :=
  h.elsewhere rfl
theorem SameCells.bumpSector {st n : Nat} {c : ScCount} (h : SameCells s t) : SameCells s (bumpSector t p st c n) := h.elsewhere rfl
theorem SameCells.mendLines {first n : Nat} (h : SameCells s t) : SameCells s (mendLines t first n) := h.elsewhere rfl

theorem SameCells.sectorAccess {write : Bool} (h : SameCells s t) : SameCells s (sectorAccess t p pa write) := by
  unfold Machine.sectorAccess
  split
  · exact h
  dsimp only
  split
  · exact h
  split
  · split
    · exact (SameCells.ite (SameCells.ite h.mendLines.poisoned h).setSectorRecord (.ite h.mendLines.poisoned h)).bumpSector
    · exact h.mendLines.setSectorRecord.bumpSector
  · have swept := (h.carryErrors (q := sectorPos t p pa) (tag := fieldOf (sectorRecord t (sectorPos t p pa).sector
      (sectorPos t p pa).lineNo) 7 0)).mendLines (first := (sectorPos t p pa).sector / 64) (n := 32)
    refine .ite ?_ (.bumpSector ?_) <;> exact (swept.foldl (fun _ _ h => h.setSectorRecord) _).setSectorRecord.bumpSector

theorem SameCells.serveWrites {sel : Nat × Nat → Bool} (h : SameCells s t) : SameCells s (serveWrites t sel) := by
  unfold Machine.serveWrites
  split
  · exact h
  · refine SameCells.foldl ?_ (fun _ _ h => h.sectorAccess) _
    exact h.elsewhere rfl

theorem SameCells.tierAccess {write : Bool} (h : SameCells s t) : SameCells s (tierAccess t p pa write) := by
  unfold Machine.tierAccess
  split
  · exact .ite h (.ite (h.serveWrites.elsewhere rfl) h.serveWrites.sectorAccess)
  · exact h

theorem SameCells.recallOwner {line : Nat} (h : SameCells s t) : SameCells s (recallOwner t w line) := .ite (h.elsewhere rfl) h

theorem gmem_wakeMonitors (s : State) (p watched at_ : Nat) : (wakeMonitors s p watched at_).gmem = s.gmem := by
  unfold wakeMonitors
  dsimp only
  split
  · rfl
  · refine List.foldlRecOn (motive := fun t : State => t.gmem = s.gmem) _ _ rfl fun t ht m _ => ?_
    exact List.foldlRecOn (motive := fun t : State => t.gmem = s.gmem) _ _ ht fun t ht c _ => ht

/-! ### A line is put at its home -/

theorem cells_linePut (s : State) (w : Who) (watched pa : Nat) (l : List Byte) :
    (linePut s w watched pa l).gmem.cells = memWrite s.gmem.cells pa l := by
  have before : SameCells s (tierAccess (recallOwner s w (pa / 64)) w.part pa true) := .tierAccess (.recallOwner (.refl s))
  unfold SameCells at before
  unfold linePut
  dsimp only
  rw [gmem_wakeMonitors, ← before]
  split <;> rfl

theorem lineWrite_plain (outside : controlBlock pa = none) (there : populated s w.part pa = true) (free : ringFrozen s pa = false) :
    lineWrite s w pa l = linePut s w pa pa l := by
  have notOwn : ownControl w pa = none := by rw [ownControl, outside]
  rw [lineWrite, lineWriteAs, notOwn]
  simp [there, free]

end

/-! ### A store of one line -/

section
variable {s : State} {t : ThreadRef} {p : PendingStore} {w : Who} {a n : Nat}

/-- A range within a line is one piece. -/
theorem piecesOf_line (some : n ≠ 0) (line : a / 64 = (a + n - 1) / 64) : piecesOf 64 a n = [(a, n)] := by
  have last : ¬ nextMultiple 64 a - a < n := by
    unfold nextMultiple
    omega
  rw [piecesOf, piecesAux, if_neg some, if_neg last]
  dsimp only
  rw [Nat.sub_self, Pieces.piecesAux_empty]

/-- A store that writes each of its bytes, within a line of a page at rest. -/
structure OneLine (p : PendingStore) : Prop where
  still : p.moving = false
  whole : p.skip = 0
  some : p.bytes ≠ []
  line : p.pa / 64 = (p.pa + p.bytes.length - 1) / 64

theorem OneLine.pieces (h : OneLine p) : piecesOf 64 p.pa p.bytes.length = [(p.pa, p.bytes.length)] :=
  piecesOf_line (by simpa using h.some) h.line

theorem performStore_line (h : OneLine p) : performStore s w p = lineWrite s w p.pa p.bytes := by
  rw [performStore, h.pieces, List.foldl_cons, List.foldl_nil, h.still, h.whole]
  simp [performPiece, noticeError, cohWrite, route]

theorem performInOrder_line (h : OneLine p) (alone : gateLine s (dieOf t.core) p.pa = []) :
    performInOrder s t p = lineWrite s (whoThread s t) p.pa p.bytes := by
  have forwarded : forwardRange s (dieOf t.core) p.pa p.bytes.length p.reached = s := by
    rw [forwardRange, h.pieces, List.foldl_cons, List.foldl_nil, forwardUpTo, alone]
    rfl
  rw [performInOrder, forwarded, performStore_line h]

/-- The state in which a thread holds no store. -/
def released (s : State) (t : ThreadRef) : State := modThread s t fun x => { x with stores := [] }

theorem getThread_released (s : State) (t : ThreadRef) : getThread (released s t) t = { getThread s t with stores := [] } :=
  getThread_setThread_same s t _

theorem performStores_one (one : (getThread s t).stores = [p]) : performStores s t (fun _ => true) = performInOrder (released s t) t p := by
  unfold performStores
  dsimp only
  rw [one]
  rfl

theorem performFirst_one (one : (getThread s t).stores = [p]) : performFirst s t p = performInOrder (released s t) t p := by
  have gone : modThread s t (fun x => { x with stores := x.stores.erase p }) = released s t := by
    rw [modThread_eq, one, List.erase_cons_head]
    rfl
  rw [performFirst, gone]

/-- What a performed store leaves: its bytes where it names, every other byte, and no store of the thread. -/
def Done (s : State) (t : ThreadRef) (p : PendingStore) (u : State) : Prop :=
  (∀ i, i < p.bytes.length → memGet u.gmem.cells (p.pa + i) = p.bytes.getD i 0) ∧
    (∀ a, ¬ (p.pa ≤ a ∧ a < p.pa + p.bytes.length) → memGet u.gmem.cells a = memGet s.gmem.cells a) ∧ (getThread u t).stores = []

theorem done_line (h : OneLine p) (outside : controlBlock p.pa = none) (there : populated s (getThread s t).part p.pa = true)
    (free : ringFrozen s p.pa = false) (alone : gateLine (released s t) (dieOf t.core) p.pa = []) :
    Done s t p (performInOrder (released s t) t p) := by
  have part : (whoThread (released s t) t).part = (getThread s t).part := by
    rw [whoThread, getThread_released]
  have cells : (performInOrder (released s t) t p).gmem.cells = memWrite s.gmem.cells p.pa p.bytes := by
    rw [performInOrder_line h alone, lineWrite_plain (s := released s t) outside (part.symm ▸ there) free, cells_linePut]
    rfl
  refine ⟨fun i hi => ?_, fun a away => ?_, ?_⟩
  · rw [cells, memGet_memWrite_inside _ _ _ _ (by omega) (by omega), Nat.add_sub_cancel_left]
  · rw [cells]
    exact memGet_memWrite_outside _ _ _ _ (by omega)
  · have fewer := (Works.performInOrder (t := t) (p := p) (.refl (released s t))).stores t
    rw [getThread_released] at fewer
    exact List.sublist_nil.1 fewer

/-- Where the thread holds no RED, performing all it holds is performing its store. -/
theorem performAll_one (one : (getThread s t).stores = [p]) (none : (getThread s t).reds = []) :
    performAll s t = performInOrder (released s t) t p := by
  have fewer := (Works.performStores (t := t) (sel := fun _ => true) (.refl s)).reds t
  rw [none, List.sublist_nil] at fewer
  rw [performAll, performReds_none fewer, performStores_one one]

theorem exec_plainStorePerform (one : (getThread s t).stores = [p]) :
    exec (.plainStorePerform t.core t.slot 0) s = .next (performInOrder (released s t) t p) := by
  have step : exec (.plainStorePerform t.core t.slot 0) s = .next (performFirst s t p) := by
    show Host.Outcome.next _ = _
    dsimp only
    rw [one]
    rfl
  rw [step, performFirst_one one]

end

/-- Settles O36: performed by FENCE or by its own step, the store is one write of its line. -/
theorem storeReachesMemory : Obligations.StoreReachesMemory := by
  intro s p one none still whole some line outside there free alone done
  have performed : done (performInOrder (released s s.cur) s.cur p) := done_line ⟨still, whole, some, line⟩ outside there free alone
  refine ⟨?_, _, exec_plainStorePerform one, performed⟩
  rw [performAll_one one none]
  exact performed

end Sys2Proof.StorePerformed
end

section
/-! RLTOK, and what a token that passes removes (R190, R214, R215). -/
namespace Sys2Proof.TokenForms
open Sys2Proof.Machine Sys2Proof.Safety Sys2Proof.PrivilegeTraps Sys2Proof.ScalarAccess Sys2Proof.Choices Sys2Proof.MemoryWork

variable {k : Token} {s : State} {d a : Reg}

/-! ### RLTOK -/

theorem afterG_defer (s : State) (a : Reg) : (afterG s a).defer = s.defer := by
  unfold afterG
  split <;> rfl

/-- The state and the count that a thread's token leaves which passes at once. -/
def relatched (s : State) (t : ThreadRef) (k : Token) : State × Nat :=
  (dropUnmapped (passAll k (publish s t 6)).1 k.part, (passAll k (publish s t 6)).2)

/-- RLTOK's work where no token of it has come back. -/
def sendOrPass (d : Reg) (k : Token) : M Unit := do
  let s ← getS
  if s.defer then waitKeepM (.token s.nextToken) fun s => sendToken (beforeToken s) k
  else do
    let r := passAll k (beforeToken s)
    modS fun _ => dropUnmapped r.1 k.part
    writeG d (BitVec.ofNat 64 r.2)

theorem relatch_fresh (fresh : ∀ n, (me s).wait ≠ .tokenDone n) : relatch d k s = sendOrPass d k s := by
  have fresh : ∀ n, (getThread s s.cur).wait ≠ .tokenDone n := fresh
  refine (m_bind_ok (self_run s)).trans ?_
  dsimp only
  generalize (getThread s s.cur).wait = w at fresh ⊢
  cases w
  case tokenDone n => exact absurd rfl (fresh n)
  all_goals rfl

/-- Where tokens are not deferred, the token passes at once. -/
theorem sendOrPass_ok (now : s.defer = false) (room : CanGive (relatched s s.cur k).1 d) :
    sendOrPass d k s = .ok ((), giveG (relatched s s.cur k).1 d (BitVec.ofNat 64 (relatched s s.cur k).2)) := by
  unfold sendOrPass
  rw [m_bind_ok (getS_run s), now]
  exact (roomReady_of_canGive room).giveG _

theorem relatch_ok (now : s.defer = false) (fresh : ∀ n, (me s).wait ≠ .tokenDone n) (room : CanGive (relatched s s.cur k).1 d) :
    relatch d k s = .ok ((), giveG (relatched s s.cur k).1 d (BitVec.ofNat 64 (relatched s s.cur k).2)) :=
  (relatch_fresh fresh).trans (sendOrPass_ok now room)

theorem relatch_after (now : s.defer = false) (fresh : ∀ n, (me s).wait ≠ .tokenDone n)
    (room : CanGive (relatched (afterG s a) s.cur k).1 d) :
    relatch d k (afterG s a) =
      .ok ((), giveG (relatched (afterG s a) s.cur k).1 d (BitVec.ofNat 64 (relatched (afterG s a) s.cur k).2)) := by
  rw [← afterG_cur s a] at room ⊢
  exact relatch_ok ((afterG_defer s a).trans now) (fun n => by rw [me_afterG]; exact fresh n) room

/-- An instruction of sys mode whose ports are ready. -/
theorem run_sys {i : Instr} {m : M Unit} {gs gd : List Reg} {t : State} (sys : InSys s) (hp : PortsReady s gs [] gd [])
    (hm : m s = .ok ((), t)) :
    run4 (do requireSys i; withPorts gs [] gd [] m) s = .next (retired 4 s t) :=
  run4_ok ((m_bind_ok (requireSys_ok sys)).trans (withPorts_ok hp hm))

theorem exec_rltokRange_ok {g : BitVec 1} {n : BitVec 6} {t : State} (sys : InSys s) (hp : PortsReady s [a] [] [d] [])
    (hm : relatch d
      { part := (me s).part, scope := 0, func := fieldOf (valueG s a) 6 0, va := fieldOf (valueG s a) 56 12 * 4096
        bits := 12 + n.toNat, global := g = 1 } (afterG s a) = .ok ((), t))
    (zero₁ : fieldOf (valueG s a) 63 57 = 0) (zero₂ : fieldOf (valueG s a) 11 7 = 0) (func : fieldOf (valueG s a) 6 0 ≤ 64)
    (bits : n.toNat ≤ 45) (page : fieldOf (valueG s a) 56 12 % 2 ^ n.toNat = 0) :
    exec (.rltokRange d a g n) s = .next (retired 4 s t) := by
  refine run_sys sys hp ?_
  have own : getThread (afterG s a) (afterG s a).cur = me s := me_afterG s a
  rw [m_bind_ok hp.sources.takeG.1, m_bind_ok (self_run _), own]
  exact run_neg (by omega) hm

theorem exec_rltokFunc_ok {g : BitVec 1} {t : State} (sys : InSys s) (hp : PortsReady s [a] [] [d] [])
    (hm : relatch d { part := (me s).part, scope := 1, func := fieldOf (valueG s a) 6 0, global := g = 1 } (afterG s a) = .ok ((), t))
    (zero : fieldOf (valueG s a) 63 7 = 0) (func : fieldOf (valueG s a) 6 0 ≤ 64) :
    exec (.rltokFunc d a g) s = .next (retired 4 s t) := by
  refine run_sys sys hp ?_
  have own : getThread (afterG s a) (afterG s a).cur = me s := me_afterG s a
  rw [m_bind_ok hp.sources.takeG.1, m_bind_ok (self_run _), own]
  exact run_neg (by omega) hm

theorem exec_rltokPart_ok {t : State} (sys : InSys s) (hp : PortsReady s [] [] [d] [])
    (hm : relatch d { part := (me s).part, scope := 2 } s = .ok ((), t)) : exec (.rltokPart d) s = .next (retired 4 s t) :=
  run_sys sys hp ((m_bind_ok (self_run s)).trans hm)

/-! ### What a token leaves -/

theorem tokenMatches_iff (k : Token) (e : TlbEntry) : tokenMatches k e.func e.va e.bits e.g = true ↔ Matches k e := by
  unfold tokenMatches Matches
  by_cases range : k.scope = 0 <;> simp [range, or_assoc]

theorem mem_keepUnmatched {l : List TlbEntry} {e : TlbEntry} (h : e ∈ keepUnmatched k l) : ¬ Matches k e := by
  intro hit
  have kept := (List.mem_filter.1 h).2
  rw [(tokenMatches_iff k e).2 hit] at kept
  cases kept

/-- No translation of a list is one that a token removes. -/
def Gone (k : Token) (l : List TlbEntry) : Prop := ∀ e ∈ l, ¬ Matches k e

theorem gone_keepUnmatched (k : Token) (l : List TlbEntry) : Gone k (keepUnmatched k l) := fun _ => mem_keepUnmatched

theorem gone_nil (k : Token) : Gone k [] := fun _ h => nomatch h

/-- What each step of a fold brings about for its own element, and no step undoes, holds of every element at its end. -/
theorem foldl_settles {σ β : Type} {f : σ → β → σ} {P : β → σ → Prop} (settles : ∀ s x, P x (f s x))
    (keeps : ∀ s x y, P y s → P y (f s x)) : ∀ (l : List β) (s : σ), ∀ y ∈ l, P y (l.foldl f s)
  | x :: l, s, y, mem => by
    rw [List.foldl_cons]
    obtain rfl | later := List.mem_cons.1 mem
    · exact List.foldlRecOn l f (settles s y) fun u h x _ => keeps u x y h
    · exact foldl_settles settles keeps l _ y later

/-! ### A quad -/

theorem works_forceThread {o : State} {t : ThreadRef} (h : Works o s) : Works o (forceThread k s t) := h.performStores.performReds

/-- The L1 TLBs of a core hold nothing that the token removes. -/
def CoreCleared (k : Token) (c : Nat) (s : State) : Prop := Gone k (getCore s c).dtlb ∧ Gone k (getCore s c).itlb

/-- A core's threads' writes are performed. -/
def coreForced (k : Token) (s : State) (c : Nat) : State :=
  (List.range 4).foldl (fun s i => forceThread k s { core := c, slot := i }) s

theorem works_coreForced (k : Token) (s : State) (c : Nat) : Works s (coreForced k s c) :=
  (Works.refl s).foldl fun _ _ h => works_forceThread h

/-- A core's L1 TLBs as the token leaves them. -/
def clearedCore (k : Token) (x : Core) : Core := { x with dtlb := keepUnmatched k x.dtlb, itlb := keepUnmatched k x.itlb }

theorem gone_clearedCore (k : Token) (x : Core) : Gone k (clearedCore k x).dtlb ∧ Gone k (clearedCore k x).itlb :=
  ⟨gone_keepUnmatched k x.dtlb, gone_keepUnmatched k x.itlb⟩

/-- A core that the token passes: nothing where there is none. -/
theorem passCore_cases (k : Token) (s : State) (c : Nat) :
    (amFind s.cores c = none ∧ passCore k s c = s) ∨
      passCore k s c = setCore (coreForced k s c) c (clearedCore k (getCore (coreForced k s c) c)) := by
  unfold passCore
  cases there : amFind s.cores c with
  | none => exact .inl ⟨rfl, rfl⟩
  | some x => exact .inr rfl

theorem coreCleared_passCore (s : State) (c : Nat) : CoreCleared k c (passCore k s c) := by
  obtain ⟨absent, same⟩ | passed := passCore_cases k s c
  · have core : getCore s c = {} := by rw [getCore, amGet, absent]
    rw [same, CoreCleared, core]
    exact ⟨gone_nil k, gone_nil k⟩
  · rw [passed, CoreCleared, getCore_setCore_same]
    exact gone_clearedCore k _

theorem CoreCleared.passCore {b : Nat} (s : State) (c : Nat) (h : CoreCleared k b s) : CoreCleared k b (passCore k s c) := by
  by_cases own : b = c
  · subst own
    exact coreCleared_passCore s b
  · obtain ⟨-, same⟩ | passed := passCore_cases k s c
    · rwa [same]
    · obtain ⟨data, instr⟩ := (works_coreForced k s c).tlbs b
      rwa [passed, CoreCleared, getCore_setCore_other _ _ own, data, instr]

theorem passCore_gen (k : Token) (s : State) (c q : Nat) : (getQuad (passCore k s c) q).gen = (getQuad s q).gen := by
  obtain ⟨-, same⟩ | passed := passCore_cases k s c
  · rw [same]
  · rw [passed, getQuad_setCore]
    exact (works_coreForced k s c).gens q

/-- The latches of a memory tile's copy channels hold nothing that the token removes. -/
def TileCleared (k : Token) (m : Nat) (r : State × Nat) : Prop := ∀ c ∈ (getTile r.1 m).chans, Gone k c.2.latch

/-- A memory tile that the token passes: nothing where there is none. -/
theorem passTile_cases (k : Token) (r : State × Nat) (m : Nat) :
    (amFind r.1.tiles m = none ∧ passTile k r m = r) ∨ ∃ x, (∀ c ∈ x.chans, Gone k c.2.latch) ∧ (passTile k r m).1 = setTile r.1 m x := by
  unfold passTile
  cases there : amFind r.1.tiles m with
  | none => exact .inl ⟨rfl, rfl⟩
  | some x =>
    refine .inr ⟨_, fun c mem => ?_, rfl⟩
    obtain ⟨b, -, rfl⟩ := List.mem_map.1 mem
    exact gone_keepUnmatched k _

theorem tileCleared_passTile (r : State × Nat) (m : Nat) : TileCleared k m (passTile k r m) := by
  obtain ⟨absent, same⟩ | ⟨x, cleared, passed⟩ := passTile_cases k r m
  · have tile : getTile r.1 m = {} := by rw [getTile, amGet, absent]
    rw [same, TileCleared, tile]
    exact fun _ mem => nomatch mem
  · rwa [TileCleared, passed, getTile_setTile_same]

theorem TileCleared.passTile {b : Nat} (r : State × Nat) (m : Nat) (h : TileCleared k b r) : TileCleared k b (passTile k r m) := by
  by_cases own : b = m
  · subst own
    exact tileCleared_passTile r b
  · obtain ⟨-, same⟩ | ⟨x, -, passed⟩ := passTile_cases k r m
    · rwa [same]
    · rwa [TileCleared, passed, getTile_setTile_other _ _ own]

/-- The tiles that a token passes are all that it changes there. -/
theorem passTiles_keeps (k : Token) (l : List Nat) (r : State × Nat) :
    (l.foldl (passTile k) r).1.cores = r.1.cores ∧ (l.foldl (passTile k) r).1.quads = r.1.quads := by
  refine List.foldlRecOn (motive := fun q : State × Nat => q.1.cores = r.1.cores ∧ q.1.quads = r.1.quads) l _ ⟨rfl, rfl⟩ fun q h m _ => ?_
  obtain ⟨-, same⟩ | ⟨x, -, passed⟩ := passTile_cases k q m
  · rwa [same]
  · rw [passed]
    exact h

/-- A quad as the token leaves it. -/
def passedQuad (k : Token) (cycle : Nat) (q : Quad) : Quad :=
  { recallLines cycle (k.lines.1 / 64) (k.lines.2 / 64) q with
             l2 := keepUnmatched k q.l2
             walkCache := q.walkCache.filter fun e => !(k.scope == 2 || e.func == k.func)
             gen := q.gen + 1 }

/-- The state once the token has passed a quad's cores. -/
def coresPassed (k : Token) (s : State) (quad : Nat) : State := (quadCores quad).foldl (passCore k) s

theorem coresPassed_gen (k : Token) (s : State) (quad q : Nat) : (getQuad (coresPassed k s quad) q).gen = (getQuad s q).gen :=
  List.foldlRecOn (motive := fun t : State => (getQuad t q).gen = (getQuad s q).gen) (quadCores quad) _ rfl fun t h c _ =>
    (passCore_gen k t c q).trans h

/-- The state once the token has passed a quad but its copy channels. -/
def quadPassed (k : Token) (s : State) (quad : Nat) : State :=
  modQuad (coresPassed k s quad) quad (passedQuad k (coresPassed k s quad).cycle)

theorem passQuad_eq (k : Token) (s : State) (n quad : Nat) :
    passQuad k (s, n) quad = (quadMemTiles quad).foldl (passTile k) (quadPassed k s quad, n) :=
  rfl

theorem getCore_passQuad (k : Token) (s : State) (n quad c : Nat) :
    getCore (passQuad k (s, n) quad).1 c = getCore (coresPassed k s quad) c := by
  rw [passQuad_eq, getCore, (passTiles_keeps k _ _).1]
  rfl

theorem getQuad_passQuad (k : Token) (s : State) (n quad : Nat) :
    getQuad (passQuad k (s, n) quad).1 quad = passedQuad k (coresPassed k s quad).cycle (getQuad (coresPassed k s quad) quad) := by
  rw [passQuad_eq, getQuad, (passTiles_keeps k _ _).2]
  exact getQuad_setQuad_same ..

theorem passQuad_clears (k : Token) (s : State) (n quad : Nat) :
    let t := (passQuad k (s, n) quad).1
    (∀ c ∈ quadCores quad, Gone k (getCore t c).dtlb ∧ Gone k (getCore t c).itlb) ∧ Gone k (getQuad t quad).l2 ∧
      (∀ w ∈ (getQuad t quad).walkCache, k.scope ≠ 2 ∧ w.func ≠ k.func) ∧
      (∀ m ∈ quadMemTiles quad, ∀ c ∈ (getTile t m).chans, Gone k c.2.latch) ∧ (getQuad t quad).gen = (getQuad s quad).gen + 1 := by
  intro t
  have own := getQuad_passQuad k s n quad
  refine ⟨fun c mem => ?_, ?_, fun w mem => ?_, fun m mem => ?_, ?_⟩
  · rw [getCore_passQuad]
    exact foldl_settles (P := CoreCleared k) coreCleared_passCore (fun s c _ h => h.passCore s c) _ _ c mem
  · rw [own]
    exact gone_keepUnmatched k _
  · rw [own] at mem
    simpa using (List.mem_filter.1 mem).2
  · show TileCleared k m (passQuad k (s, n) quad)
    rw [passQuad_eq]
    exact foldl_settles (P := TileCleared k) tileCleared_passTile (fun r m _ h => h.passTile r m) _ _ m mem
  · rw [own]
    exact congrArg (· + 1) (coresPassed_gen k s quad quad)

/-! ### An LLTC -/

/-- The latch of a stream node holds nothing that the token removes. -/
def NodeCleared (k : Token) (die n : Nat) (r : State × Nat) : Prop := Gone k (getSwitch r.1 (nodeKey die n)).latch

/-- A stream node that the token passes. -/
def passNode (k : Token) (die : Nat) (r : State × Nat) (n : Nat) : State × Nat :=
  match amFind r.1.switches (nodeKey die n) with
  | none => r
  | some w =>
    let l := keepUnmatched k w.latch
    (setSwitch r.1 (nodeKey die n) { w with latch := l }, r.2 + (w.latch.length - l.length))

theorem passNode_cases (k : Token) (die : Nat) (r : State × Nat) (n : Nat) :
    (amFind r.1.switches (nodeKey die n) = none ∧ passNode k die r n = r) ∨
      ∃ x, Gone k x.latch ∧ (passNode k die r n).1 = setSwitch r.1 (nodeKey die n) x := by
  unfold passNode
  cases there : amFind r.1.switches (nodeKey die n) with
  | none => exact .inl ⟨rfl, rfl⟩
  | some x => exact .inr ⟨_, gone_keepUnmatched k x.latch, rfl⟩

theorem nodeCleared_passNode (die : Nat) (r : State × Nat) (n : Nat) : NodeCleared k die n (passNode k die r n) := by
  obtain ⟨absent, same⟩ | ⟨x, cleared, passed⟩ := passNode_cases k die r n
  · have node : getSwitch r.1 (nodeKey die n) = {} := by rw [getSwitch, amGet, absent]
    rw [same, NodeCleared, node]
    exact gone_nil k
  · rwa [NodeCleared, passed, getSwitch_setSwitch_same]

theorem NodeCleared.passNode {die b : Nat} (r : State × Nat) (n : Nat) (h : NodeCleared k die b r) :
    NodeCleared k die b (passNode k die r n) := by
  by_cases own : b = n
  · subst own
    exact nodeCleared_passNode die r b
  · obtain ⟨-, same⟩ | ⟨x, -, passed⟩ := passNode_cases k die r n
    · rwa [same]
    · have other : nodeKey die b ≠ nodeKey die n := by unfold nodeKey; omega
      rwa [NodeCleared, passed, getSwitch_setSwitch_other _ _ other]

theorem passNodes_lltcs (k : Token) (die : Nat) (l : List Nat) (r : State × Nat) : (l.foldl (passNode k die) r).1.lltcs = r.1.lltcs := by
  refine List.foldlRecOn (motive := fun q : State × Nat => q.1.lltcs = r.1.lltcs) l _ rfl fun q h n _ => ?_
  obtain ⟨-, same⟩ | ⟨x, -, passed⟩ := passNode_cases k die q n
  · rwa [same]
  · rw [passed]
    exact h

/-- An LLTC as the token leaves it. -/
def passedLltc (k : Token) (c : Lltc) : Lltc := { c with entries := keepUnmatched k c.entries, gen := c.gen + 1 }

theorem passLltc_eq (k : Token) (s : State) (n die : Nat) :
    passLltc k (s, n) die = (List.range 32).foldl (passNode k die) (modLltc s die (passedLltc k), n) := by
  unfold passLltc passNode
  rfl

theorem getLltc_passLltc (k : Token) (s : State) (n die : Nat) :
    getLltc (passLltc k (s, n) die).1 die = passedLltc k (getLltc s die) := by
  rw [passLltc_eq, getLltc, passNodes_lltcs]
  exact getLltc_modLltc_same ..

theorem passLltc_clears (k : Token) (s : State) (n die : Nat) :
    let t := (passLltc k (s, n) die).1
    Gone k (getLltc t die).entries ∧ (getLltc t die).gen = (getLltc s die).gen + 1 ∧
      ∀ m, m < 32 → Gone k (getSwitch t (nodeKey die m)).latch := by
  intro t
  have own := getLltc_passLltc k s n die
  refine ⟨?_, ?_, fun m below => ?_⟩
  · rw [own]
    exact gone_keepUnmatched k _
  · rw [own]
    rfl
  · show NodeCleared k die m (passLltc k (s, n) die)
    rw [passLltc_eq]
    exact foldl_settles (P := NodeCleared k die) (nodeCleared_passNode die) (fun r n _ h => h.passNode r n) _ _ m (List.mem_range.2 below)

/-! ### Targets -/

theorem passTarget_quad {quad : Nat} (k : Token) (r : State × Nat) (below : quad < 1024) : passTarget k r quad = passQuad k r quad :=
  if_pos below

theorem passTarget_lltc (k : Token) (r : State × Nat) (die : Nat) : passTarget k r (1024 + die) = passLltc k r die := by
  rw [passTarget, if_neg (by omega), Nat.add_sub_cancel_left]

/-- Settles O16: RLTOK by its operand's checks and the token that passes at once, a passed target by what it filters. -/
theorem tokenForms : Obligations.TokenForms := by
  refine ⟨fun s sys now fresh => ?forms, fun k s n quad below => ?quad, fun k s n die => ?lltc⟩
  case forms =>
    refine ⟨?range, ?func, ?part⟩
    case range =>
      intro d a g n hp x k zero₁ zero₂ func bits page room
      exact exec_rltokRange_ok sys hp (relatch_after now fresh room) zero₁ zero₂ func bits page
    case func =>
      intro d a g hp x k zero func room
      exact exec_rltokFunc_ok sys hp (relatch_after now fresh room) zero func
    case part =>
      intro d hp k room
      exact exec_rltokPart_ok sys hp (relatch_ok now fresh room)
  case quad =>
    rw [passTarget_quad k _ below]
    exact passQuad_clears k s n quad
  case lltc =>
    rw [passTarget_lltc]
    exact passLltc_clears k s n die

end Sys2Proof.TokenForms
end

section
/-! The steps that memory and translation take of themselves (R195, R196, R201, R206, R214, R217 to R219, R332). -/
namespace Sys2Proof.MemoryEvents
open Sys2Proof.Machine Sys2Proof.Safety

variable {s u : State} {t : ThreadRef} {va : Nat} {write fetch coh : Bool}

/-! ### REDs, deadlines and counts -/

theorem whoThread_reds (s : State) (t : ThreadRef) (l : List PendingRed) :
    whoThread (modThread s t fun x => { x with reds := l }) t = whoThread s t := by
  rw [whoThread, modThread_eq, getThread_setThread_same]
  rfl

theorem exec_redPerform {core slot i : Nat} {r : PendingRed} (there : (getThread s ⟨core, slot⟩).reds[i]? = some r)
    (first : ∀ q ∈ (getThread s ⟨core, slot⟩).reds.take i, sameLine q.pa r.pa = false) :
    exec (.redPerform core slot i) s =
      .next (performRed (forwardUpTo (modThread s ⟨core, slot⟩ fun x => { x with reds := (getThread s ⟨core, slot⟩).reds.eraseIdx i })
        (dieOf core) r.pa (some r.reached)) (whoThread s ⟨core, slot⟩) r) := by
  have none : ((getThread s ⟨core, slot⟩).reds.take i).any (fun q => sameLine q.pa r.pa) = false :=
    List.any_eq_false.2 fun q mem => by simp [first q mem]
  show Host.Outcome.next _ = _
  dsimp only
  rw [there]
  dsimp only
  rw [none, if_neg Bool.false_ne_true, performRedInOrder, whoThread_reds]

theorem wait_wakeThread (st : Nat) (s : State) (t : ThreadRef) :
    (getThread (wakeThread st s t) t).wait = .woken (wakeStatus s.cycle st (getThread s t).wait) := by
  rw [wakeThread, modThread_eq, getThread_setThread_same]

/-- A waiter whose time is over wakes with TIMEOUT. -/
theorem timeOut_wakes {pa dl : Nat} {v : Word} (waits : (getThread s t).wait = .monitor pa v (some dl)) (ended : dl ≤ s.cycle) :
    (getThread (timeOut s t) t).wait = .woken 1 := by
  have left : (getThread (leaveMonitor s (getThread s t).part pa v t) t).wait = .monitor pa v (some dl) := waits
  unfold timeOut
  rw [waits]
  dsimp only
  rw [if_pos ended, wait_wakeThread, left, wakeStatus, ite_self]

theorem mem_predictorDecay {quad line : Nat} {e : PredEntry} (there : e ∈ (getQuad s quad).predictor) (named : e.line = line)
    (due : e.since + 4096 ≤ s.cycle) :
    ∃ u, exec (.predictorDecay quad line) s = .next u ∧
      { e with count := e.count - 1, since := e.since + 4096 } ∈ (getQuad u quad).predictor := by
  refine ⟨_, rfl, ?_⟩
  dsimp only
  rw [modQuad_eq, getQuad_setQuad_same]
  refine List.mem_map.2 ⟨e, there, ?_⟩
  rw [if_pos named, decayEntry, if_pos due]

/-! ### Walks -/

section
variable {core slot : Nat} {j : WalkJob} (waits : (getThread s ⟨core, slot⟩).wait = .walk va write fetch coh)
  (job : walkerJob s (quadKey core) (fun j => j.threads.contains ⟨core, slot⟩) = some j)
include waits job

theorem exec_walkEnd_late (late : j.gen ≠ some (getQuad s (quadKey core)).gen) :
    exec (.walkEnd core slot) s = .next (modQuad (walkReads s (whoThread s ⟨core, slot⟩) (quadKey core) va) (quadKey core) fun y =>
      { y with walks := (startWalks (getQuad s (quadKey core)).gen (pendingWalks s (quadKey core))).map fun x =>
          if sameWalk j x then { x with gen := some (getQuad s (quadKey core)).gen, fromRoot := true } else x }) := by
  show Host.Outcome.next _ = _
  dsimp only
  rw [waits, job]
  dsimp only
  rw [if_neg late]

theorem exec_walkEnd_current {v : State} {e : WalkEnd} (current : j.gen = some (getQuad s (quadKey core)).gen)
    (ends : threadWalk (leaveWalks s (quadKey core) j) ⟨core, slot⟩ va write fetch j.fromRoot = (v, e)) :
    exec (.walkEnd core slot) s =
      .next (walkEnds (threadReq s ⟨core, slot⟩ va write fetch) (getQuad s (quadKey core)).gen.toNat j e v) := by
  show Host.Outcome.next _ = _
  dsimp only
  rw [waits, job]
  dsimp only
  rw [if_pos current, ends]

end

/-- A thread that waits for no walk. -/
def WalkLess (t : ThreadRef) (s : State) : Prop := ∀ va w f c, (getThread s t).wait ≠ .walk va w f c

/-- A walk's finding brings a thread's wait for a walk to its end, and moves no other thread. -/
theorem walkFound_cases (e : TlbEntry) (s : State) (t : ThreadRef) :
    (WalkLess t s ∧ walkFound e s t = s) ∨
      ∃ f, walkFound e s t = setThread (fillL1 s t.core f e) t { getThread s t with wait := .none } := by
  unfold walkFound
  split
  · next f c waits =>
    refine .inr ⟨f, ?_⟩
    rw [modThread_eq, getThread_fillL1]
  · next none => exact .inl ⟨none, rfl⟩

theorem walkLess_walkFound (e : TlbEntry) (s : State) (t : ThreadRef) : WalkLess t (walkFound e s t) := by
  obtain ⟨none, same⟩ | ⟨f, found⟩ := walkFound_cases e s t
  · rwa [same]
  · intro va w f c waits
    rw [found, getThread_setThread_same] at waits
    cases waits

theorem WalkLess.walkFound {v : ThreadRef} {e : TlbEntry} (t : ThreadRef) (h : WalkLess v s) : WalkLess v (walkFound e s t) := by
  by_cases own : v = t
  · subst own
    exact walkLess_walkFound e s v
  · obtain ⟨-, same⟩ | ⟨f, found⟩ := walkFound_cases e s t
    · rwa [same]
    · rwa [WalkLess, found, getThread_setThread_other _ _ own, getThread_fillL1]

theorem walkLess_walkShared (e : TlbEntry) (j : WalkJob) (s : State) (t : ThreadRef) (mem : t ∈ j.threads) :
    WalkLess t (walkShared e j s) :=
  List.foldlRecOn (motive := WalkLess t) j.ports _
    (TokenForms.foldl_settles (P := WalkLess) (walkLess_walkFound e) (fun _ t _ h => h.walkFound t) j.threads s t mem)
    fun _ h _ _ => h

/-- The walk of a thread that has failed for itself: its message, and its wait for the reply. -/
theorem walkLost_own {v : State} {gen a l e : Nat} (waits : (getThread s t).wait = .walk va write fetch coh)
    (kept : getThread v t = getThread s t) :
    ∃ h rest, (getThread (walkLost (threadReq s t va write fetch) gen a l e v t) t).wait = .fault (BitVec.ofNat 64 (faultVa v t va fetch)) ∧
      (walkLost (threadReq s t va write fetch) gen a l e v t).net = v.net ++
        [.mail (getThread s t).part h (faultHead a l write fetch (!modeSys (getThread s t)) coh (requestKind (getThread s t)) gen
          (getThread s t).func :: rest)] := by
  rw [← kept] at waits ⊢
  have needs : (threadReq s t va write fetch).needA = (threadReq v t va write fetch).needA := by rw [threadReq, threadReq, kept]
  unfold walkLost
  rw [waits]
  dsimp only
  rw [if_pos ⟨rfl, rfl, needs.symm⟩]
  refine ⟨_, _, ?_, rfl⟩
  rw [modThread_eq, getThread_setThread_same]
  rfl

/-! ### Messages -/

theorem exec_mailboxArrival {k : Nat} {l : List Word} (mail : mailFor s k = some l) (room : (getCore s k).mailbox.length < 64) :
    exec (.mailboxArrival k) s = .next (faultAbort
      (modCore { s with net := s.net.erase (.mail (partOfCore s k) k l) } k fun c => { c with mailbox := c.mailbox ++ [l] }) k l) := by
  show Host.Outcome.next _ = _
  dsimp only
  rw [mail]
  dsimp only
  rw [if_neg (by omega)]

theorem faultAbort_other {k : Nat} {l : List Word} (region : fieldOf (l.getD 0 0) 7 0 ≠ 0x21) (engine : fieldOf (l.getD 0 0) 7 0 ≠ 0x22) :
    faultAbort s k l = s := by
  unfold faultAbort
  dsimp only
  split
  · next kind => exact absurd kind region
  · next kind => exact absurd kind engine
  · rfl

/-- A reply to a position of a core goes to a thread. -/
theorem deliverReply_thread {h : Word} {refuse : Bool} (core : fieldOf h 15 0 % 8 = 0 ∨ fieldOf h 15 0 % 8 = 4) :
    deliverReply s h refuse = replyThread s ⟨coreAt (fieldOf h 15 0), fieldOf h 23 16⟩ (fieldOf h 47 32) refuse := by
  unfold deliverReply
  dsimp only
  obtain unit | unit := core <;> rw [unit] <;> rfl

theorem replyThread_fault {seq : Nat} {refuse : Bool} {va : Word} (number : (getThread s t).seq.toNat = seq)
    (live : (getThread s t).slotState = .live) (waits : (getThread s t).wait = .fault va) :
    replyThread s t seq refuse = modThread s t fun x => { x with wait := if refuse then .refused va else .none } := by
  unfold replyThread
  dsimp only
  rw [if_neg (not_not.2 number), live, waits]

theorem exec_faultReply {i k : Nat} {h : Word} {refuse : Bool} (there : s.net[i]? = some (.reply k h refuse))
    (first : (s.net.take i).any (replyFrom k (fieldOf h 15 0)) = false)
    (own : partOfStack s (stackOf (fieldOf h 15 13)) = partOfCore s k) :
    exec (.faultReply i) s = .next (deliverReply { s with net := s.net.eraseIdx i } h refuse) := by
  show Host.Outcome.next _ = _
  dsimp only
  rw [there]
  dsimp only
  rw [first, if_neg Bool.false_ne_true, if_pos own]

/-! ### Tokens -/

theorem exec_tokenPass {n target : Nat} {k : Token} (there : s.tokens.find? (fun k => k.id == n && k.targets.contains target) = some k) :
    exec (.tokenPass n target) s = .next (
      let r := passTarget k (s, k.removed) target
      let left := k.targets.filter fun x => x != target
      let others := r.1.tokens.filter fun x => x.id != n
      if left.isEmpty then tokenFinished (dropUnmapped (forceAll k { r.1 with tokens := others }) k.part) k r.2
      else { r.1 with tokens := others ++ [{ k with targets := left, removed := r.2 }] }) := by
  show Host.Outcome.next _ = _
  dsimp only
  rw [there]

/-- Settles O48: each step by what its own function of the state does. -/
theorem memoryEvents : Obligations.MemoryEvents := by
  refine fun s => ⟨?red, ?timeout, ?decay, ?walk, ?token, ?mail, ?reply⟩
  case red => exact fun core slot i r there first => exec_redPerform there first
  case timeout => exact fun core slot pa v dl waits ended => ⟨_, rfl, timeOut_wakes waits ended⟩
  case decay => exact fun quad line e there named due => mem_predictorDecay there named due
  case walk =>
    intro core slot va w f c j t q now jobs waits job
    refine ⟨fun late => exec_walkEnd_late waits job late, fun current => ⟨fun v e found => ?found, fun v a l e lost => ?lost⟩⟩
    case found => exact ⟨exec_walkEnd_current waits job current found, walkLess_walkShared e j v⟩
    case lost =>
      have ends := exec_walkEnd_current waits job current lost
      refine ⟨ends, fun alone portless kept => ?_⟩
      obtain ⟨h, rest, waiting, net⟩ := walkLost_own (gen := now.toNat) (a := a) (l := l) (e := e) waits kept
      refine ⟨_, h, rest, ends, ?_⟩
      rw [walkEnds, alone, portless]
      exact ⟨waiting, net⟩
  case token =>
    intro n target k there
    refine ⟨fun more => ?_, fun last => ?_⟩
    · rw [exec_tokenPass there]
      dsimp only
      rw [if_neg (by simpa using more)]
    · rw [exec_tokenPass there]
      dsimp only
      rw [if_pos (by simpa using last)]
  case mail => exact fun k l mail room => ⟨exec_mailboxArrival mail room, faultAbort_other⟩
  case reply =>
    intro i k h refuse there first own core t va number live waits
    have replied := (deliverReply_thread core).trans
      (replyThread_fault (s := { s with net := s.net.eraseIdx i }) (refuse := refuse) number live waits)
    refine ⟨_, (exec_faultReply there first own).trans (congrArg _ replied), rfl, ?_⟩
    rw [modThread_eq, getThread_setThread_same]

end Sys2Proof.MemoryEvents
end
